-- ==== Sys2Proof/Word.lean ====
section
/-! DEFINITION. The word types, the sparse table in which every memory and register bank is held, and the plain
records and names that commands carry as operands (spec 00_scope.md R5-R7, 06_mesh.md R172-R175, 09_fabric_manager.md R300). -/

namespace Sys2Proof

abbrev Byte := BitVec 8
abbrev Word32 := BitVec 32
abbrev Word := BitVec 64

/-- A sparse table by number: only the entries that differ from a default are listed, keys strictly rising. -/
abbrev SMap (α : Type) := List (Nat × α)

/-- The entry at `i`, or the default `d`. -/
def smGet {α : Type} (d : α) : SMap α → Nat → α
  | [], _ => d
  | (k, v) :: m, i => if k = i then v else smGet d m i

/-- `m` with `v` listed at `i`, in key order. -/
def smInsert {α : Type} : SMap α → Nat → α → SMap α
  | [], i, v => [(i, v)]
  | (k, w) :: m, i, v =>
    if i < k then (i, v) :: (k, w) :: m
    else if i = k then (i, v) :: m
    else (k, w) :: smInsert m i v

/-- `m` without an entry at `i`. -/
def smErase {α : Type} (m : SMap α) (i : Nat) : SMap α := m.filter (fun e => e.1 != i)

/-- `m` with the entry at `i` made `v`; the default is never listed. -/
def smSet {α : Type} [DecidableEq α] (d : α) (m : SMap α) (i : Nat) (v : α) : SMap α :=
  if v = d then smErase m i else smInsert m i v

/-- The canonical form: keys strictly rising from `lo`, no entry equal to the default. -/
def smWfFrom {α : Type} [DecidableEq α] (d : α) : Nat → SMap α → Bool
  | _, [] => true
  | lo, (k, v) :: m => decide (lo ≤ k) && !decide (v = d) && smWfFrom d (k + 1) m

def smWf {α : Type} [DecidableEq α] (d : α) (m : SMap α) : Bool := smWfFrom d 0 m

/-- A byte memory: (address, byte) pairs; an unlisted address reads 0. -/
abbrev Memory := List (Nat × BitVec 8)

def Memory.wf (m : Memory) : Bool := smWf (0 : Byte) m

/-- Bits [hi:lo] of a natural number (00_scope.md R6). -/
def bits (x hi lo : Nat) : Nat := (x / 2 ^ lo) % 2 ^ (hi + 1 - lo)

/-- Bit `i` of a natural number. -/
def bit (x i : Nat) : Bool := (x / 2 ^ i) % 2 == 1

/-- `x` with bits [hi:lo] replaced by `v`. -/
def setBits (x hi lo v : Nat) : Nat :=
  x - bits x hi lo * 2 ^ lo + (v % 2 ^ (hi + 1 - lo)) * 2 ^ lo

/-- The number a little-endian byte string spells (R6). -/
def leNat : List Byte → Nat
  | [] => 0
  | b :: bs => b.toNat + 256 * leNat bs

/-- The `n` low bytes of `x`, lowest-addressed first (R6). -/
def leBytes : Nat → Nat → List Byte
  | 0, _ => []
  | n + 1, x => BitVec.ofNat 8 x :: leBytes n (x / 256)

/-- Bytes `off` to `off + n - 1` of a string, read as a little-endian number; bytes past its end read 0. -/
def leAt (bs : List Byte) (off n : Nat) : Nat := leNat ((bs.drop off).take n)

/-- `x` read as a two's complement number of `w` bits. -/
def toSigned (w x : Nat) : Int :=
  if bit x (w - 1) then (Int.ofNat (x % 2 ^ w)) - (2 ^ w : Nat) else Int.ofNat (x % 2 ^ w)

def boolNat (b : Bool) : Nat := if b then 1 else 0

/-- The two mesh planes (06_mesh.md R171). -/
inductive Plane where
  | a
  | b
  deriving DecidableEq, Repr

/-- The on-chip memory blocks that carry flip registers (05_local_memory.md R152). -/
inductive MemBlk where
  | ldm
  | is
  | vs
  deriving DecidableEq, Repr

/-- A mesh flit: header, path word and payload (06_mesh.md R172, R173). -/
structure Flit where
  dst : BitVec 9
  src : BitVec 9
  typ : BitVec 4
  order : Bool
  mcast : Bool
  reduce : Bool
  cmark : Bool
  mgmt : Bool
  xchip : Bool
  age : BitVec 8
  ctx : BitVec 10
  gen : BitVec 12
  tag : BitVec 16
  addr : BitVec 48
  bytes : BitVec 8
  hop : BitVec 5
  cls : Bool
  status : BitVec 8
  link : BitVec 16
  path : BitVec 96
  payload : List Byte
  deriving DecidableEq, Repr

/-- How the lane decoder ends a codeword (07_links.md R207): the code itself is not in the spec. -/
inductive CwResult where
  | good
  | corrected
  | uncorrectable
  deriving DecidableEq, Repr

/-- A codeword as the lane decoder leaves it: header and stream bytes (07_links.md R208). -/
structure Codeword where
  lane : Nat
  first : Nat
  cseq : Nat
  stream : List Byte
  result : CwResult
  deriving DecidableEq, Repr

/-- An election key: prio, then serial; lower wins (09_fabric_manager.md R267). -/
structure ElKey where
  prio : Nat
  serial : Nat
  deriving DecidableEq, Repr

/-- One line of a neighbour table, and what PROBE and PROBE_REPLY carry (09_fabric_manager.md R276). -/
structure Neighbour where
  port : Nat
  serial : Nat
  peerPort : Nat
  part : Nat
  present : Nat
  deriving DecidableEq, Repr

/-- A table write of one member: what INSTALL carries (09_fabric_manager.md R293). -/
structure InstallMsg where
  epoch : Nat
  sliceId : Nat
  slot : Nat
  detours : List (Nat × BitVec 32)
  routeCfg : BitVec 64
  slice : BitVec 256
  exc : List (Nat × BitVec 64)
  trees : List (Nat × BitVec 64)
  groups : List (Nat × BitVec 320)
  homes : List (Nat × Nat)
  deriving DecidableEq, Repr

/-- The payload of a slice abort (14_recovery.md R421). -/
structure AbortMsg where
  sliceId : Nat
  gen : Nat
  origin : Nat
  cause : Nat
  deriving DecidableEq, Repr

/-- One rank's line of a TEARDOWN_REPORT (14_recovery.md R423). -/
structure RankReport where
  rank : Nat
  gen : Nat
  steps : List Nat
  fenced : Bool
  lost : Bool
  deriving DecidableEq, Repr

/-- A firmware chunk as it reaches a vat's control (16_bringup.md R475). -/
structure FwChunk where
  n : Nat
  crc : Nat
  slot : Nat
  unicast : Bool
  data : List Byte
  deriving DecidableEq, Repr

/-- What the power and thermal controller measures at a sample (17_rates_limits.md R491): watts over 10, 1 and 100 ms,
0.1 degree a quadrant, amperes of the core, 0.1 A and millivolts of the main input, M steps/s; `max` entries are the
highest rail in millivolts that the cap, the junction, the core current and the input current each allow. -/
structure PowerObs where
  power10 : Nat
  power1 : Nat
  power100 : Nat
  tj : List Nat
  coreA : Nat
  inputDa : Nat
  inputMv : Nat
  step : Nat
  maxCap : Nat
  maxTj : Nat
  maxCur : Nat
  maxIn : Nat
  deriving DecidableEq, Repr

/-- What S0 finds on reading a firmware component's copies: for copy A and copy B whether it is accepted (R483). -/
structure CopyObs where
  comp : Nat
  okA : Bool
  okB : Bool
  deriving DecidableEq, Repr

/-- What S3 finds on one channel (10_memory.md R302, 16_bringup.md R469, R470). -/
structure ChanObs where
  chan : Nat
  present : Bool
  serial : Nat
  cap : Nat
  ranks : Nat
  rate : Nat
  savedOk : Bool
  fullOk : Bool
  deriving DecidableEq, Repr

/-- What S5 finds on one port: lanes that pass each way and the peer (16_bringup.md R472, R473). -/
structure PortObs where
  port : Nat
  peer : Bool
  peerSerial : Nat
  peerPort : Nat
  txOk : Nat
  rxOk : Nat
  full : Bool
  deriving DecidableEq, Repr

/-- Instructions of the JTAG port (18_module.md R518). -/
inductive JtagOp where
  | bypass
  | idcode
  | sample
  | extest
  | internal
  deriving DecidableEq, Repr

/-- How the I3C controller gives the target its address (18_module.md R512). -/
inductive DaaMethod where
  | entdaa
  | setdasa
  deriving DecidableEq, Repr

/-- The registers that have no command of their own (00_scope.md R8). -/
inductive RegAddr where
  | control (func off size : Nat)
  | sideband (addr size : Nat)
  | routeCfg (node : Nat)
  | detour (node n : Nat)
  | group (plane : Plane) (node g w : Nat)
  | dirMask (plane : Plane) (node dst : Nat)
  | niSlice (node slot w : Nat)
  | niExc (node slot n : Nat)
  | tree (unit n : Nat)
  | chStat (node chan : Nat)
  | curd (node slot n : Nat)
  | flip (blk : MemBlk) (node slot : Nat) (chk : Bool)
  | fltStat
  deriving DecidableEq, Repr

end Sys2Proof

namespace Sys2Proof.Machine

/-! ## The fabric manager's records (09_fabric_manager.md R272, R275, R276) -/

/-- A module as the manager knows it. -/
structure ModRec where
  serial : Nat
  chip : Nat
  placed : Bool
  role : Nat
  part : Nat
  present : Nat            -- ports present
  portSt : SMap Nat        -- state + 4 * width + 32 * wiring code, per port, default 0
  failed : Bool
  neigh : List Neighbour
  relay : Nat              -- the port its table came through
  stored : Option Nat
  key : Option ElKey       -- its election key; none = not eligible
  deriving DecidableEq, Repr

/-- A tree as the manager computes it: per member chip its parent port (none at the root) and child ports. -/
structure TreeNode where
  chip : Nat
  parent : Option Nat
  children : Nat
  deriving DecidableEq, Repr

/-- A group 0x06 command that waits: where from, its request, and where to answer. -/
structure WaitReq where
  chip : Option Nat        -- none = a mailbox of this module
  a : Nat                  -- function, or the other module's reference
  b : Nat                  -- channel
  req : List Byte
  acked : Bool             -- the manager has taken it in
  deriving DecidableEq, Repr

/-- A slice as the manager knows it. -/
structure SliceRec where
  id : Nat
  st : Nat                 -- code of R296
  conf : Bool
  base : List Nat
  ext : List Nat
  p : Nat
  psize : Nat
  slot : Nat
  gen : Nat
  plist : List Nat
  exc : List (Nat × Nat × Nat × Nat)   -- rank, chip, partition, slot
  trees : List (List TreeNode)
  awaiting : List Nat      -- chips the phase waits for
  installing : Bool        -- it waits for INSTALL_DONE, not for reports
  outcomes : List (Nat × Bool) -- FAILING collectives, and whether some member has written in place
  newLinks : List (Nat × Nat)
  reports : List RankReport
  waiter : Option WaitReq  -- the request that waits for the slice
  destroying : Bool
  lastStep : Nat
  resumes : Nat
  moves : List (Nat × Nat × Nat)   -- ranks moved on their chip by the installation under way: chip, old and new context
  rebuilt : Bool           -- known from members' tables alone (R275)
  suspect : Bool           -- a member reported it drained, or members disagree
  deriving DecidableEq, Repr

/-- The manager's state, as a STATE_SYNC carries it (09_fabric_manager.md R272): an entry of the journal is shown as the state that
holds after its decision. -/
structure FmState where
  journal : Nat
  modules : List ModRec
  extents : List Nat
  ringMask : Nat
  slices : List SliceRec
  listed : List (Nat × Nat)
  nextSlice : Nat
  waiting : List WaitReq
  deriving DecidableEq, Repr

/-- The tables of one slice as a member reports them (09_fabric_manager.md R275). -/
structure TabReport where
  slot : Nat
  slice : BitVec 256
  exc : List (BitVec 64)
  detours : List (BitVec 32)
  trees : List (Nat × BitVec 64)
  drained : Bool
  deriving DecidableEq, Repr

/-- Who sends the manager a message, and the epoch it knows (09_fabric_manager.md R269). -/
structure FmFrom where
  epoch : Nat
  chip : Nat
  deriving DecidableEq, Repr

/-- A reply to a management message: the tag it answers, and its sender's epoch (09_fabric_manager.md R269, R300). -/
structure FmReply where
  tag : Nat
  epoch : Nat
  deriving DecidableEq, Repr

/-- The request that an ANSWER answers, and the manager's epoch (09_fabric_manager.md R271). -/
structure FmRef where
  epoch : Nat
  ref : Nat
  deriving DecidableEq, Repr

/-- The module that an ASSIGN is for, and the manager's epoch (09_fabric_manager.md R276). -/
structure FmTo where
  epoch : Nat
  serial : Nat
  deriving DecidableEq, Repr

/-- The generation that a RESTART starts, and its step, if any (14_recovery.md R424). -/
structure FmStart where
  gen : Nat
  step : Option Nat
  deriving DecidableEq, Repr

/-- What a module says of itself in a NEIGHBOURS message: serial, stored coordinates, and its key if it is eligible. -/
structure ModId where
  serial : Nat
  stored : Option Nat
  key : Option ElKey
  deriving DecidableEq, Repr

/-- What a NEIGHBOURS message carries: the module, its neighbour table, and the tables it holds (09_fabric_manager.md R275, R276). -/
structure ModReport where
  serial : Nat
  stored : Option Nat
  key : Option ElKey
  table : List Neighbour
  slices : List TabReport
  deriving DecidableEq, Repr

end Sys2Proof.Machine
end

