-- ==== Sys2Proof/Syntax.lean ====
section
/-! DEFINITION. The commands of the block: one constructor for each row of spec/opcode_table.json, in the table's
order, with the row's operands. -/

namespace Sys2Proof

/-- The commands. A curd row names the curd by its vat's node and its physical slot: the word at the curd's pc
gives the operands (03_curd_core.md R81). A Rennet row names the function and channel whose ACTIVE message it
carries out (12_rennet.md R358). -/
inductive Instr where
  /-- ALU (R84): A curd executes a register-register scalar operation that func selects, such as add, shift, multiply, divide or bit count. -/
  | alu (node slot : Nat)
  /-- ADDI (R83): A curd adds a sign-extended immediate to a scalar register. -/
  | addi (node slot : Nat)
  /-- ANDI (R83): A curd ANDs a scalar register with a zero-extended immediate. -/
  | andi (node slot : Nat)
  /-- ORI (R83): A curd ORs a scalar register with a zero-extended immediate. -/
  | ori (node slot : Nat)
  /-- XORI (R83): A curd XORs a scalar register with a zero-extended immediate. -/
  | xori (node slot : Nat)
  /-- SHI (R83): A curd shifts or rotates a scalar register by an immediate count. -/
  | shi (node slot : Nat)
  /-- MOVZ (R83): A curd writes a zero-extended immediate into a chosen halfword of a register. -/
  | movz (node slot : Nat)
  /-- MOVK (R83): A curd replaces one halfword of a register with an immediate and keeps the other bits. -/
  | movk (node slot : Nat)
  /-- SLTI (R83): A curd sets a register to 1 if a register is less than a signed immediate, and to 0 otherwise. -/
  | slti (node slot : Nat)
  /-- BEQ (R83): A curd branches if two registers are equal. -/
  | beq (node slot : Nat)
  /-- BNE (R83): A curd branches if two registers differ. -/
  | bne (node slot : Nat)
  /-- BLT (R83): A curd branches on a signed less-than comparison. -/
  | blt (node slot : Nat)
  /-- BGE (R83): A curd branches on a signed greater-or-equal comparison. -/
  | bge (node slot : Nat)
  /-- BLTU (R83): A curd branches on an unsigned less-than comparison. -/
  | bltu (node slot : Nat)
  /-- BGEU (R83): A curd branches on an unsigned greater-or-equal comparison. -/
  | bgeu (node slot : Nat)
  /-- JAL (R83): A curd writes the link register and jumps to an absolute target. -/
  | jal (node slot : Nat)
  /-- JALR (R83): A curd writes the link register and jumps to a register plus an offset, modulo 4,096. -/
  | jalr (node slot : Nat)
  /-- CSRR (R83): A curd reads a control and status register into a scalar register. -/
  | csrr (node slot : Nat)
  /-- CSRW (R99): A curd writes a control and status register, for example a completion counter or a generator word. -/
  | csrw (node slot : Nat)
  /-- LDB (R83): A curd loads a sign-extended byte. -/
  | ldb (node slot : Nat)
  /-- LDH (R83): A curd loads a sign-extended halfword. -/
  | ldh (node slot : Nat)
  /-- LDW (R83): A curd loads a sign-extended word. -/
  | ldw (node slot : Nat)
  /-- LDD (R83): A curd loads a doubleword. -/
  | ldd (node slot : Nat)
  /-- LDBU (R83): A curd loads a zero-extended byte. -/
  | ldbu (node slot : Nat)
  /-- LDHU (R83): A curd loads a zero-extended halfword. -/
  | ldhu (node slot : Nat)
  /-- LDWU (R83): A curd loads a zero-extended word. -/
  | ldwu (node slot : Nat)
  /-- STB (R76): A curd stores a byte, posted where the target is not its local data memory. -/
  | stb (node slot : Nat)
  /-- STH (R76): A curd stores a halfword, posted where the target is not its local data memory. -/
  | sth (node slot : Nat)
  /-- STW (R76): A curd stores a word, posted where the target is not its local data memory. -/
  | stw (node slot : Nat)
  /-- STD (R76): A curd stores a doubleword, posted where the target is not its local data memory. -/
  | std (node slot : Nat)
  /-- VLD (R83): A curd loads 128 aligned bytes into a vector register. -/
  | vld (node slot : Nat)
  /-- VST (R83): A curd stores a vector register to 128 aligned bytes. -/
  | vst (node slot : Nat)
  /-- AMO (R87): A curd performs an indivisible read-modify-write on local memory, the vat store or the overflow window. -/
  | amo (node slot : Nat)
  /-- VOP (R88): A curd performs a lane-wise FP32 or INT32 vector operation that func selects. -/
  | vop (node slot : Nat)
  /-- VRED (R88): A curd reduces the lanes of a vector register into a scalar register. -/
  | vred (node slot : Nat)
  /-- VMOV_SPLAT (R83): A curd copies the low 32 bits of a scalar register into every lane. -/
  | vmovSplat (node slot : Nat)
  /-- VMOV_EXTRACT (R83): A curd copies one lane into a scalar register. -/
  | vmovExtract (node slot : Nat)
  /-- VMOV_PERMUTE (R83): A curd permutes the lanes of a vector register by index. -/
  | vmovPermute (node slot : Nat)
  /-- VCVT_NARROW (R132): A curd scales FP32 lanes and rounds them once into a packed narrow group. -/
  | vcvtNarrow (node slot : Nat)
  /-- VCVT_WIDEN (R132): A curd decodes a packed narrow group into FP32 lanes, scaled and rounded once. -/
  | vcvtWiden (node slot : Nat)
  /-- TMMA (R93): A curd queues a tile multiply-accumulate for the tensor unit, capturing its address registers. -/
  | tmma (node slot : Nat)
  /-- TLD (R95): A curd queues a load of an accumulator tile. -/
  | tld (node slot : Nat)
  /-- TST (R95): A curd queues a store of an accumulator tile with format conversion. -/
  | tst (node slot : Nat)
  /-- TOP_CLEAR (R96): A curd queues the clearing of an accumulator tile. -/
  | topClear (node slot : Nat)
  /-- TOP_COPY (R96): A curd queues a copy of one tile into another. -/
  | topCopy (node slot : Nat)
  /-- TOP_ADD (R96): A curd queues an FP32 addition of one tile into another. -/
  | topAdd (node slot : Nat)
  /-- TENSOR_EXECUTE (R94): The tensor unit takes the next queued tensor instruction once it is free, and runs it with its block reads and stalls. -/
  | tensorExecute (node slot : Nat)
  /-- FAR_GET (R104): A curd issues a far read of up to 128 bytes at a global address into local memory. -/
  | farGet (node slot : Nat)
  /-- FAR_PUT (R104): A curd issues a far write of up to 128 bytes captured from local memory. -/
  | farPut (node slot : Nat)
  /-- FAR_PUTV (R104): A curd issues a far write of a register value of 1 to 8 bytes. -/
  | farPutv (node slot : Nat)
  /-- FAR_ATOMIC (R104): A curd issues a far integer atomic whose operands are captured from a local 16-byte block. -/
  | farAtomic (node slot : Nat)
  /-- FAR_FP32_ADD (R104): A curd issues a far FP32 atomic add. -/
  | farFp32Add (node slot : Nat)
  /-- DMA (R108): A curd copies a DMA descriptor into a channel queue, once its pending stores are performed. -/
  | dma (node slot : Nat)
  /-- WAIT (R103): A curd waits until a completion counter reaches its target or holds a failure code. -/
  | wait (node slot : Nat)
  /-- SIGNAL (R106): A curd sends a flagged zero-byte signal that increments a counter of a target curd. -/
  | signal (node slot : Nat)
  /-- FENCE (R107): A curd sends a flagged zero-byte packet to a destination, to learn that earlier packets there have been performed. -/
  | fence (node slot : Nat)
  /-- CULT (R110): A curd has its NI update the rank's culture record through the check-value unit, writing the crc last. -/
  | cult (node slot : Nat)
  /-- CADD (R102): A curd adds a register value to a completion counter. -/
  | cadd (node slot : Nat)
  /-- COLL (R109): A curd hands a collective descriptor to the vat's reduction unit, which checks it. -/
  | coll (node slot : Nat)
  /-- NOP (R86): A curd does nothing for one step. -/
  | nop (node slot : Nat)
  /-- HALT (R78): A curd ends its program, and its issued operations run on. -/
  | halt (node slot : Nat)
  /-- BREAK (R80): A curd stops for a debugger when debug is unlocked and the partition is not confidential, and otherwise acts as NOP. -/
  | break_ (node slot : Nat)
  /-- IWR (R86): A curd writes 128 bytes of local data memory into its instruction store. -/
  | iwr (node slot : Nat)
  /-- RAND (R130): A curd takes the next 64-bit draw of the stochastic-rounding generator. -/
  | rand (node slot : Nat)
  /-- LOAD_RESPONSE (R90): A response to a load, VLD or AMO reaches the curd with data, or with an error that raises the access-error or data fault. -/
  | loadResponse (node slot idx : Nat)
  /-- RESOLVER_ACCEPT (R147): The vat's overflow resolver accepts one queued overflow access and translates it to the vat store or the hidden spill segment. -/
  | resolverAccept (node : Nat)
  /-- FLIP_ARM (R152): Management firmware arms a memory block's flip masks, to be applied to its next write. -/
  | flipArm (blk : MemBlk) (node slot : Nat) (dataMask : BitVec 64) (checkMask : BitVec 8)
  /-- DMA_DESCRIPTOR_START (R161): A DMA channel takes its next queued descriptor once the previous one has issued its last read, and checks it before any byte moves. -/
  | dmaDescriptorStart (node chan : Nat)
  /-- DMA_SEGMENT (R164): A DMA channel reads the next segment of a descriptor into staging, as staging space and tags allow. -/
  | dmaSegment (node chan : Nat)
  /-- DMA_COMPLETE (R166): Once every write of a descriptor is performed, the channel writes the check value, increments the issuer's counter and sends any done signal. -/
  | dmaComplete (node chan run : Nat)
  /-- TIME_SLICE_END (R65): A time slice expires, and the outgoing context's curds are stopped while its started work runs to completion. -/
  | timeSliceEnd (part : Nat)
  /-- SWITCH_DRAINED (R65): The outgoing context's in-flight count reaches zero, and its state is saved, the incoming one restored or filled, and its curds released. -/
  | switchDrained (part : Nat)
  /-- SWITCH_TIMEOUT (R65): The outgoing context has not drained within 2 ms and is treated as hung. -/
  | switchTimeout (part : Nat)
  /-- ROUTER_STEP (R177): A router places every arriving flit on an output in priority order and offers a free output to local injection. -/
  | routerStep (plane : Plane) (node : Nat)
  /-- EDGE_RETURN (R15): An edge node returns a flit it cannot take to its router at the next step. -/
  | edgeReturn (plane : Plane) (enode : Nat)
  /-- LIMITER_RECOVERY (R185): After 1,024 steps without an echoed on-die mark, the NI's allowance rises by one. -/
  | limiterRecovery (node : Nat)
  /-- STARVATION_MARK (R186): An NI head flit that has waited 64 steps makes its router mark every leaving flit on that plane until the NI injects. -/
  | starvationMark (plane : Plane) (node : Nat)
  /-- MESH_STOP_A (R198): Firmware halts plane-A injection everywhere on the die. -/
  | meshStopA
  /-- MESH_STOP_B (R198): Firmware halts plane-B injection everywhere on the die. -/
  | meshStopB
  /-- MESH_RESUME (R198): Firmware clears both stop bits, and injection resumes. -/
  | meshResume
  /-- QUIESCE_TIMEOUT (R198): A quiesce whose planes are not both empty within 50 µs is abandoned with a chip reset. -/
  | quiesceTimeout
  /-- ROUTER_FAILED (R199): A router fails, losing the flits it holds, and the failure goes to the fault collector. -/
  | routerFailed (plane : Plane) (node : Nat)
  /-- RD (R230): A receiver takes a read request, checks context and generation, and replies with the data read. -/
  | rd (node : Nat)
  /-- WR (R230): A receiver takes a write request, checks context, generation and the duplicate filter, performs it and acknowledges. -/
  | wr (node : Nat)
  /-- AMO_PACKET (R230): A receiver takes an atomic request, filters it and replies with the old value. -/
  | amoPacket (node : Nat)
  /-- SIG (R106): A target NI takes a signal, increments the named counter after earlier packets from the source, and acknowledges. -/
  | sig (node : Nat)
  /-- HELD_REQUEST_RETRY (R229): A request held for want of a flow entry is taken again once an entry is free or idle for H. -/
  | heldRequestRetry (node : Nat)
  /-- RDR (R195): An issuer accepts a read reply whose tag, context and generation match, and completes the read. -/
  | rdr (node : Nat)
  /-- ACK (R195): An issuer accepts an acknowledgement, frees the tag and completes the operation at its counter. -/
  | ack (node : Nat)
  /-- AMOR (R195): An issuer accepts an atomic reply and writes the old value locally. -/
  | amor (node : Nat)
  /-- MGTR (R300): A sender accepts the reply to a management message. -/
  | mgtr (reply : Machine.FmReply)
  /-- EDGE_PORT_ACCEPT (R196): A departure port engine takes a departing flit into its class buffer when it holds a slot, and returns it otherwise. -/
  | edgePortAccept (port : Nat)
  /-- PORT_SEND (R221): A departure engine sends an eligible packet frame under the bubble rule, class M first, once credits allow. -/
  | portSend (port : Nat)
  /-- CODEWORD (R208): A lane receiver decodes a codeword, reorders by cseq and feeds the frame stream, discarding frames in an uncorrectable codeword. -/
  | codeword (port : Nat) (cw : Codeword)
  /-- IDLE_FRAME (R209): A receiver takes an IDLE frame. -/
  | idleFrame (port : Nat)
  /-- PKT_FRAME (R219): An arrival engine takes a packet frame, updates credits, and injects the packet to its destination or onward port. -/
  | pktFrame (port : Nat)
  /-- PKT_ENC_FRAME (R234): An arrival engine takes a confidential packet frame, whose tag is checked at the receiving NI or controller. -/
  | pktEncFrame (port : Nat)
  /-- CREDIT_FRAME (R213): A port end takes a CREDIT frame and updates its sent and freed counts. -/
  | creditFrame (port : Nat)
  /-- LINK_CTL_FRAME (R205): A port end takes a lane failure report or a lane-map announcement. -/
  | linkCtlFrame (port : Nat)
  /-- CREDIT_REPORT_TIMER (R213): A freed count unreported for 50 ns, or a microsecond without a CREDIT frame, makes the port send one. -/
  | creditReportTimer (port : Nat)
  /-- LANE_FAILED (R205): A receiver judges a lane failed on lost lock or too many uncorrectable codewords, and reports it. -/
  | laneFailed (port lane : Nat)
  /-- LANE_MAP_SWITCH (R205): The transmitter switches to its new lane map at the announced codeword sequence. -/
  | laneMapSwitch (port : Nat)
  /-- PORT_DOWN (R205): A port goes DOWN on too few lanes or on 2 µs without a valid frame, and sends a port-down fault. -/
  | portDown (port : Nat)
  /-- LANE_RETRAIN (R206): Background retraining of a failed lane completes, and the lane rejoins as spare or traffic lane. -/
  | laneRetrain (port lane : Nat)
  /-- PORT_UP (R206): Retraining of a whole port completes, and it comes UP with empty buffers, carrying management traffic only. -/
  | portUp (port txLanes rxLanes : Nat)
  /-- RATE_LIMIT_RECOVERY (R225): After 10 µs without an echoed mark from a chip, that chip's allowance rises by one. -/
  | rateLimitRecovery (node chip : Nat)
  /-- REQUEST_TIMEOUT (R228): An xchip request copy's timer expires, and the NI reissues it, parks it, or completes it with TIMEOUT. -/
  | requestTimeout (node tag : Nat)
  /-- ONDIE_TIMEOUT (R232): An on-die request times out, and the NI resends an RD or WR, or completes an AMO or SIG with FAILED. -/
  | ondieTimeout (node tag : Nat)
  /-- TAG_QUARANTINE_END (R231): A tag of a reissued operation becomes reusable H after completion. -/
  | tagQuarantineEnd (node tag : Nat)
  /-- RU_CHUNK_READ (R250): A reduction unit reads and combines a chunk from its sources and sends it up within the window. -/
  | ruChunkRead (node seq chunk : Nat)
  /-- COLL_UP (R256): A tree node takes an UP chunk, combines it once, credits it, and forwards or holds the result. -/
  | collUp (unit : Nat)
  /-- COLL_DOWN (R256): A tree node takes a DOWN result, credits it, and sends it to children and local destinations. -/
  | collDown (unit : Nat)
  /-- COLL_ARRIVE (R254): A tree node takes an ARRIVE token and forwards it once all expected tokens are held, or the root compares digests. -/
  | collArrive (unit : Nat)
  /-- COLL_RELEASE (R254): A node takes a RELEASE token, forwards it down, releases held results, or ends the collective on INVALID. -/
  | collRelease (unit : Nat)
  /-- COLL_ABORT (R251): A node takes an ABORT collective packet. -/
  | collAbort (unit : Nat)
  /-- COLLR (R252): A node takes a credit carrying the peer's low position, and frees slots or completes the collective. -/
  | collr (unit : Nat)
  /-- COLL_RESEND (R253): A COLL packet not credited within the timeout is sent again, or the tree edge is reported failed. -/
  | collResend (unit idx : Nat)
  /-- ARRIVE_LIMIT (R255): A collective whose RELEASE has not come within arrive_limit counts as timed out for hang detection. -/
  | arriveLimit (node seq : Nat)
  /-- BEACON_SEND (R268): Every 50 µs a module sends a BEACON on each UP port. -/
  | beaconSend
  /-- BEACON (R268): A module takes a BEACON and adopts any lower key and higher epoch. -/
  | beacon (port : Nat) (k1 k2 : Option ElKey) (epoch : Nat)
  /-- ELECTION_COMPLETE (R268): After 2 ms with no change to the lowest key, a module takes its role. -/
  | electionComplete
  /-- HEARTBEAT_SEND (R272): Every 50 µs the primary and the standby send each other a HEARTBEAT. -/
  | heartbeatSend
  /-- HEARTBEAT (R272): The primary or standby takes a HEARTBEAT from its partner. -/
  | heartbeat (epoch journal : Nat)
  /-- HEARTBEAT_LOSS (R273): A standby with no heartbeat for 150 µs enters TAKING_OVER with a higher epoch. -/
  | heartbeatLoss
  /-- STATE_SYNC (R272): The standby takes a journalled decision or full state and acknowledges it. -/
  | stateSync (epoch : Nat) (st : Machine.FmState) (full : Bool)
  /-- SYNC_ACK_TIMEOUT (R272): A STATE_SYNC unacknowledged for 150 µs makes the primary act anyway and name a new standby. -/
  | syncAckTimeout
  /-- TAKEOVER (R270): A module takes a TAKEOVER with a higher epoch and acknowledges the new manager. -/
  | takeover (epoch chip : Nat)
  /-- TAKEOVER_RESEND (R270): The manager re-sends TAKEOVER to modules silent for 100 µs. -/
  | takeoverResend
  /-- TAKEOVER_SILENCE (R270): A module silent for 10 ms after TAKEOVER is treated as a failed chip. -/
  | takeoverSilence (chip : Nat)
  /-- ALIVE_SEND (R275): Every 10 ms the primary sends ALIVE to every placed module. -/
  | aliveSend
  /-- ALIVE (R275): A module takes an ALIVE from the manager. -/
  | alive (epoch chip : Nat)
  /-- ALIVE_TIMEOUT (R275): A module with no ALIVE for 30 ms starts an election. -/
  | aliveTimeout
  /-- TAKEBACK_START (R274): The preferred manager, quiet for 10 s with takeback set, sends TAKEBACK. -/
  | takebackStart
  /-- TAKEBACK (R274): The primary takes a TAKEBACK and hands over its state and control once no slice is in a reaction. -/
  | takeback (sender : Machine.FmFrom) (key : ElKey)
  /-- PROBE (R276): A module answers a PROBE with its serial, port, part number and present ports. -/
  | probe (port : Nat) (n : Neighbour)
  /-- PROBE_REPLY (R276): A module records a neighbour from a PROBE_REPLY. -/
  | probeReply (port : Nat) (n : Neighbour)
  /-- NEIGHBOURS (R277): The manager takes a neighbour table, checks the wiring and places modules. -/
  | neighbours (port epoch : Nat) (m : Machine.ModId) (table : List Neighbour) (slices : List Machine.TabReport)
  /-- ASSIGN (R276): A module takes its coordinates and extents, writes its routing registers and stores the coordinates. -/
  | assign (target : Machine.FmTo) (chip : Nat) (extents : List Nat) (ringMask : Nat)
  /-- PORT_EVENT (R290): The manager takes a port report, lists the link, and starts a reaction for each affected slice. -/
  | portEvent (sender : Machine.FmFrom) (port state width : Nat)
  /-- DRAIN (R291): A member sets the slot's stop bit in every NI of the slice. -/
  | drain (epoch sliceId slot : Nat)
  /-- NI_DRAIN_STOP (R291): A write of NI_DRAIN stops plane-A requests of the slots set, or on clearing sends parked requests afresh. -/
  | niDrainStop (node : Nat) (stop : BitVec 16)
  /-- DRAIN_REPORT (R292): The manager takes a member's idle report with written bits and parked count. -/
  | drainReport (sender : Machine.FmFrom) (sliceId : Nat) (idle : Bool) (written : List (Nat × Bool)) (parked : Nat)
  /-- DRAIN_LIMIT (R292): A drain not idle by drain_us makes the manager abort the slice. -/
  | drainLimit (sliceId : Nat)
  /-- INSTALL (R293): A member writes detours, route configuration, descriptor, exceptions, trees and groups in order. -/
  | install (m : InstallMsg)
  /-- INSTALL_DONE (R293): The manager takes a member's install completion. -/
  | installDone (sender : Machine.FmFrom) (sliceId : Nat)
  /-- RESUME (R294): A member clears the stop bit and delivers the outcome of each FAILING collective. -/
  | resume (epoch sliceId slot : Nat) (outcomes : List (Nat × Nat))
  /-- REQUEST (R271): The manager takes a forwarded Rennet command of group 0x06. -/
  | request (sender : Machine.FmFrom) (ref : Nat) (req : List Byte)
  /-- ANSWER (R271): A module takes the manager's answer and relays it to the mailbox. -/
  | answer (ref : Machine.FmRef) (rsp : List Byte)
  /-- GROUP6_WAIT_TIMEOUT (R373): A group 0x06 command that has waited 10 s for a manager completes with TIMEOUT. -/
  | group6WaitTimeout (func chan : Nat)
  /-- SLICE_ABORT (R422): A chip takes a slice abort of the current generation, resets its member contexts and forwards the abort. -/
  | sliceAbort (port : Nat) (m : AbortMsg)
  /-- TEARDOWN_REPORT (R423): The manager takes a member's report of new generations, usable culture steps and losses. -/
  | teardownReport (chip sliceId : Nat) (ranks : List RankReport)
  /-- ABORT_RESEND (R423): The manager re-sends the abort to a member that has not reported within 1 ms. -/
  | abortResend (sliceId chip : Nat)
  /-- RESTART (R424): A member reloads each rank's program from the chosen entry and starts the curds at the step. -/
  | restart (epoch sliceId : Nat) (start : Machine.FmStart)
  /-- FIRMWARE_CHUNK (R475): A vat takes a multicast or repair firmware chunk, checks its CRC and writes it into the targeted curds. -/
  | firmwareChunk (node : Nat) (c : FwChunk)
  /-- HANG_SAMPLE (R408): Every sixteenth of the hang window, the controller samples progress counters over the ring. -/
  | hangSample
  /-- RESET_AGENT_CONFIRM (R414): An engine's reset agent confirms the removal of a context's work. -/
  | resetAgentConfirm (ctx unit : Nat)
  /-- TEARDOWN_DRAINED (R414): Once in-flight work reaches zero and engines confirm, the generation advances and the reset is reported. -/
  | teardownDrained (ctx : Nat)
  /-- TEARDOWN_TIMEOUT (R414): A teardown not drained within 10 ms escalates to a partition reset. -/
  | teardownTimeout (ctx : Nat)
  /-- ENGINE_RESET_TIMEOUT (R415): An unconfirmed engine reset escalates to a partition reset, or fences a port engine. -/
  | engineResetTimeout (unit : Nat)
  /-- PARTITION_RESET_TIMEOUT (R416): An unconfirmed partition reset after 5 ms escalates to a chip reset. -/
  | partitionResetTimeout (part : Nat)
  /-- GRANT_FILL_DONE (R319): Brine finishes zero-filling granted pages or a granule, and the waiting command completes. -/
  | grantFillDone (part : Nat)
  /-- SCRUB_DONE (R320): A scrub finishes, and the partition returns to service or becomes FREE. -/
  | scrubDone (part : Nat)
  /-- PATROL_READ (R321): Patrol reads the next line, corrects it without a key and checks a confidential fold. -/
  | patrolRead (chan : Nat) (found : List (Nat × Nat))
  /-- BAND_MOVE (R324): Brine copies the next line of a band of a retired rank to its spare band. -/
  | bandMove (chan : Nat)
  /-- CHANNEL_LOST (R325): A channel's PHY fails, and its requests fail and its granules are marked lost. -/
  | channelLost (chan : Nat)
  /-- MEM_TRAIN_LOST (R427): A memory PHY loses training, and its contexts are reset and retraining starts. -/
  | memTrainLost (chan : Nat)
  /-- MEM_RETRAIN_DONE (R427): A channel retrain ends, and the channel returns to service or becomes LOST. -/
  | memRetrainDone (chan : Nat) (ok : Bool)
  /-- MBX_SEND (R349): The acknowledge engine checks a send, queues the message or refuses it, and writes MBX_ACK. -/
  | mbxSend (func chan : Nat) (sec : Bool) (w : Word32)
  /-- MBX_TAKE (R351): A receiver takes the oldest queued message and later writes its response, state and doorbell. -/
  | mbxTake (sec : Bool)
  /-- RECEIVER_RESET (R353): A receiver resets, and the acknowledge engine aborts its messages and raises bit 31. -/
  | receiverReset (sec : Bool)
  /-- RESEND (R366): The receiver raises DB_PEND bit 1 again and sends the vector if any event bit is set. -/
  | resend (func chan : Nat)
  /-- CANCEL (R366): The receiver ends an active list or read command at the next record, completing with OK. -/
  | cancel (func chan : Nat)
  /-- DB_PEND_CLEAR (R356): Host software clears doorbell bits, and a device set in the same step stands after the clear. -/
  | dbPendClear (func chan : Nat) (sec : Bool) (mask deviceSet : Word32)
  /-- DB_MASK_WRITE (R344): Host software writes the doorbell mask, and an unmasked pending bit sends its vector. -/
  | dbMaskWrite (func chan : Nat) (sec : Bool) (w : Word32)
  /-- HDMA_RING_WRITE (R338): Host software sets a function's descriptor ring base and size, ignored while running. -/
  | hdmaRingWrite (func : Nat) (w : Word)
  /-- HDMA_TAIL_WRITE (R337): Host software makes descriptors valid, after earlier window writes are performed. -/
  | hdmaTailWrite (func : Nat) (w : Word)
  /-- HDMA_CTL_WRITE (R338): Host software enables or disables a queue's taking of descriptors. -/
  | hdmaCtlWrite (func : Nat) (w : Word)
  /-- HDMA_DESCRIPTOR_START (R340): A host DMA engine takes the next valid descriptor round robin and begins moving it. -/
  | hdmaDescriptorStart (engine : Nat)
  /-- HDMA_COMPLETE (R340): A host DMA descriptor completes with its signal, status write-back and optional doorbell. -/
  | hdmaComplete (engine : Nat)
  /-- HOST_WIN_CFG_WRITE (R335): Host software selects the partition, slot and base of the memory window, reopening it after FLR. -/
  | hostWinCfgWrite (func : Nat) (w : Word)
  /-- HOST_WIN_READ (R336): A host read into BAR 2 reaches segment space, or is completed with Completer Abort and recorded. -/
  | hostWinRead (func off len : Nat)
  /-- HOST_WIN_WRITE (R336): A host write into BAR 2 reaches segment space, or is discarded and recorded. -/
  | hostWinWrite (func off : Nat) (data : List Byte)
  /-- FUNCTION_LEVEL_RESET (R332): A function's DMA queue halts, its channels clear and its memory window closes. -/
  | functionLevelReset (func : Nat)
  /-- HOT_RESET (R332): A PCI Express hot reset or link-down acts on every function as a Function Level Reset. -/
  | hotReset
  /-- PERST_N (R506): PERST_N holds the endpoint in fundamental reset, and its release starts link training. -/
  | perstN (level : Bool)
  /-- DEV_INFO (R362): Returns the part number, resources, capacities and optionally the vat map. -/
  | devInfo (func chan : Nat)
  /-- DEV_HEALTH (R362): Returns health, stage, faults and counts, and clears the caller's event bits. -/
  | devHealth (func chan : Nat)
  /-- CFG_GET (R362): Returns an item's value in force and its staged value. -/
  | cfgGet (func chan : Nat)
  /-- CFG_STAGE (R364): Stages up to 15 configuration entries as a whole, or none if any is invalid. -/
  | cfgStage (func chan : Nat)
  /-- CFG_COMMIT (R364): Applies the staged set together, optionally persisting it, or refuses it whole. -/
  | cfgCommit (func chan : Nat)
  /-- PART_CREATE (R37): Makes a partition in the lowest free aligned block, with mode and confidential state. -/
  | partCreate (func chan : Nat)
  /-- PART_DESTROY (R320): Scrubs a partition and returns its granules to the free pool. -/
  | partDestroy (func chan : Nat)
  /-- PART_QUERY (R367): Returns a partition's state, mode, memory and vat map. -/
  | partQuery (func chan : Nat)
  /-- PART_SET_MODE (R304): Changes a partition's interleave mode or confidential state, scrubbing on a confidential change. -/
  | partSetMode (func chan : Nat)
  /-- CTX_CREATE (R368): Creates a context in the slot the slice reserved, with its save area filled. -/
  | ctxCreate (func chan : Nat)
  /-- CTX_DESTROY (R368): Tears down a single-rank context and destroys its slice. -/
  | ctxDestroy (func chan : Nat)
  /-- CTX_SCHED (R65): Gives a single-rank context a time slice or takes it out of rotation. -/
  | ctxSched (func chan : Nat)
  /-- CTX_RESET_CLEAR (R368): Resets a context and leaves it loaded with no program. -/
  | ctxResetClear (func chan : Nat)
  /-- CTX_RESET_RESUME (R368): Resets a context and resumes it from its culture record. -/
  | ctxResetResume (func chan : Nat)
  /-- PROG_LOAD (R370): Checks a program image, places overflow spill and loads the context's curds and vat stores. -/
  | progLoad (func chan : Nat)
  /-- PROG_START (R369): Releases a loaded context's curds or puts it in rotation. -/
  | progStart (func chan : Nat)
  /-- CULTURE_SET_REGISTER (R369): Registers a rank's culture record offset. -/
  | cultureSetRegister (func chan : Nat)
  /-- CULTURE_SET_WRITE (R369): Registers the culture record and writes an entry as CULT does. -/
  | cultureSetWrite (func chan : Nat)
  /-- MEM_MAP (R306): Writes a segment register, adding and filling granules as needed. -/
  | memMap (func chan : Nat)
  /-- MEM_UNMAP (R371): Clears a segment register and its keep record. -/
  | memUnmap (func chan : Nat)
  /-- MEM_SCRUB (R320): Scrubs a partition that holds no context. -/
  | memScrub (func chan : Nat)
  /-- MEM_RETIRE (R323): Retires a named channel page to a spare page. -/
  | memRetire (func chan : Nat)
  /-- SLICE_CREATE (R282): The manager carves a slice and writes its tables on every member chip. -/
  | sliceCreate (func chan : Nat)
  /-- SLICE_DESTROY (R372): Aborts a slice, tears down its contexts and removes its tables. -/
  | sliceDestroy (func chan : Nat)
  /-- SLICE_QUERY (R372): Returns a slice's state and descriptor from the manager. -/
  | sliceQuery (func chan : Nat)
  /-- FABRIC_MAP (R372): Returns the manager state and one record per module. -/
  | fabricMap (func chan : Nat)
  /-- FLT_LIST (R374): Returns fault list entries from an index. -/
  | fltList (func chan : Nat)
  /-- FLT_ACK (R447): Acknowledges fault entries, clearing those whose action is complete. -/
  | fltAck (func chan : Nat)
  /-- EVT_READ (R456): Returns complete cave records of an area from a sequence. -/
  | evtRead (func chan : Nat)
  /-- EVT_MARK (R452): Writes a MARK record and flushes the cave. -/
  | evtMark (func chan : Nat)
  /-- RESET_REQ_CONTEXT (R411): Requests a context reset. -/
  | resetReqContext (func chan : Nat)
  /-- RESET_REQ_ENGINE (R415): Requests an engine reset. -/
  | resetReqEngine (func chan : Nat)
  /-- RESET_REQ_PARTITION (R416): Requests a partition reset. -/
  | resetReqPartition (func chan : Nat)
  /-- RESET_REQ_CHIP (R374): Answers OK, then starts a chip reset within 100 µs. -/
  | resetReqChip (func chan : Nat)
  /-- RESET_REQ_POWER_CYCLE (R374): Answers OK, then requests a power cycle within 100 µs. -/
  | resetReqPowerCycle (func chan : Nat)
  /-- SERVICE_RETURN (R429): Clears the chip-reset count and returns the D9 to service. -/
  | serviceReturn (func chan : Nat)
  /-- FW_STAGE (R485): Verifies an image and writes it into the slot's losing copy with its sequence erased. -/
  | fwStage (func chan : Nat)
  /-- FW_ACTIVATE_NEXT_RESET (R485): Writes the staged copy's sequence so it wins at the next chip reset. -/
  | fwActivateNextReset (func chan : Nat)
  /-- FW_ACTIVATE_NOW (R374): Activates a management image by fail-over or restarts the root-of-trust on the new image. -/
  | fwActivateNow (func chan : Nat)
  /-- FW_QUERY (R374): Returns the running and staged versions and digests of a component. -/
  | fwQuery (func chan : Nat)
  /-- ATTEST (R389): The root-of-trust signs a report of the device and a partition. -/
  | attest (func chan : Nat)
  /-- KEY_PUBLIC_GET (R397): Returns a certificate or a partition's encapsulation key. -/
  | keyPublicGet (func chan : Nat)
  /-- KEY_INSTALL_MODEL (R398): Decapsulates and installs a model key. -/
  | keyInstallModel (func chan : Nat)
  /-- KEY_INSTALL_LINK (R403): Installs a slice's link secret and derives its link key. -/
  | keyInstallLink (func chan : Nat)
  /-- KEY_INSTALL_IMPORT (R400): Decrypts chunks into the rind after each tag verifies and extends the weight digest. -/
  | keyInstallImport (func chan : Nat)
  /-- KEY_INSTALL_EXPORT (R400): Encrypts a range of the rind chunk by chunk into a host buffer. -/
  | keyInstallExport (func chan : Nat)
  /-- DEBUG_UNLOCK (R405): Checks a signed token and opens debug until the next chip reset. -/
  | debugUnlock (func chan : Nat)
  /-- TEL_READ (R374): Returns power, rails, rate and temperatures. -/
  | telRead (func chan : Nat)
  /-- PWR_LIMIT (R493): Sets the power cap and answers once the rail settles. -/
  | pwrLimit (func chan : Nat)
  /-- ROLLOVER_DONE (R388): A new attestation key is generated, stored and certified. -/
  | rolloverDone
  /-- FAULT_MESSAGE (R442): The collector takes a fault message, applies severity, starts the action and records it. -/
  | faultMessage (src : Nat)
  /-- STOP_OVERRUN (R444): A ring stop reports the count of fault messages it could not queue once it has room. -/
  | stopOverrun (src : Nat)
  /-- RING_STOP_LOST (R24): The island can no longer reach a ring stop, and the blocks behind it are fenced. -/
  | ringStopLost (src : Nat)
  /-- QUIET_PERIOD (R448): The quiet period expires and clears completed fault entries. -/
  | quietPeriod
  /-- CAVE_FLUSH (R454): The cave writes unflushed records to flash and reads them back. -/
  | caveFlush (outcomes : List Bool)
  /-- CAVE_FLUSH_TIMER (R454): A record unflushed for 10 s triggers a flush. -/
  | caveFlushTimer
  /-- OPERATING_SECONDS_WRITE (R451): Every 64 s the operating-second count is written to flash. -/
  | operatingSecondsWrite
  /-- CV_BLOCK (R459): A check-value unit accepts one block and combines it by offset. -/
  | cvBlock (unit : Nat)
  /-- CV_FAILED (R462): A check-value unit fails its streams, fences itself and fails their descriptors. -/
  | cvFailed (unit : Nat)
  /-- MGMT_FAILOVER (R430): Three missed heartbeats make the standby core primary. -/
  | mgmtFailover
  /-- STANDBY_SELFTEST_DONE (R430): A reset management core finishes self-test and becomes standby or is fenced. -/
  | standbySelftestDone (pass : Bool)
  /-- SPARE_SELFTEST (R432): Self-test of spare curds and vats runs, fencing failed spares. -/
  | spareSelftest (curds : List (Nat × Nat)) (vats : List Nat)
  /-- BOOT_S0 (R466): Fuses are read, firmware verified and the start kind chosen. -/
  | bootS0 (copies : List CopyObs) (cfgA cfgB : Bool)
  /-- BOOT_S1 (R466): Management cores start, self-test and take roles. -/
  | bootS1 (passA passB : Bool)
  /-- BOOT_S2 (R466): PLLs lock, ring loops, routers and check-value units are checked. -/
  | bootS2 (failedRouters lostStops badCv : List Nat)
  /-- BOOT_S3 (R469): Memory channels train. -/
  | bootS3 (obs : List ChanObs)
  /-- BOOT_S4 (R466): Memory is tested if selected and filled. -/
  | bootS4
  /-- BOOT_S5 (R472): Fabric links train. -/
  | bootS5 (obs : List PortObs)
  /-- BOOT_S6 (R474): Curds are filled, tested, loaded with the monitor and numbered. -/
  | bootS6 (badCurds : List (Nat × Nat)) (badVats : List Nat)
  /-- BOOT_S7 (R479): The module joins the fabric by election or stored coordinates. -/
  | bootS7
  /-- BOOT_S8 (R479): The D9 becomes ready. -/
  | bootS8
  /-- START_TIMEOUT (R468): A stage that passes its limit halts the start. -/
  | startTimeout
  /-- BOOT_HOLD_RELEASE (R464): Clearing BOOT_REQ.hold lets a start held at S2 continue. -/
  | bootHoldRelease
  /-- VAT_BCAST_ARM (R476): Arming a broadcast clears every chunk bitmap of the vat. -/
  | vatBcastArm (node : Nat) (w : Word)
  /-- REPAIR_ROUND (R477): Firmware reads missing chunks and sends them by unicast. -/
  | repairRound
  /-- POWER_SAMPLE (R491): Every 50 µs the controller moves the core rail one step towards the lowest limit voltage. -/
  | powerSample (obs : PowerObs)
  /-- CURRENT_FAST_PATH (R491): Regulators lower the rail while core current exceeds 2,000 A. -/
  | currentFastPath (coreA : Nat)
  /-- THERMAL_TRIP (R492): At 115 °C the island asserts THERMTRIP_N and removes the core rail. -/
  | thermalTrip (tj : List Nat)
  /-- STANDBY_POWER_ON (R504): Standby power brings up the island, timer and side-band. -/
  | standbyPowerOn
  /-- MAIN_POWER_ON (R504): Main power brings up the rails and S0 begins. -/
  | mainPowerOn (mv : Nat)
  /-- POWER_FAIL (R456): Loss of an input stops the core and flushes the cave on hold-up. -/
  | powerFail (standbyLost : Bool)
  /-- SB_CHIP_RESET (R514): The tray starts a chip reset over the side-band. -/
  | sbChipReset
  /-- SB_CAVE_FLUSH (R514): The tray requests a cave flush. -/
  | sbCaveFlush
  /-- SB_FW_OPEN (R517): The tray opens the firmware window during a halted start. -/
  | sbFwOpen
  /-- SB_FW_COMMIT (R517): The supplied image is verified, written as copy A and the start repeated. -/
  | sbFwCommit
  /-- REGISTER_WRITE (R8): A write to a register without its own row acts under its access code. -/
  | registerWrite (addr : RegAddr) (w : Word)
  /-- POSTED_STORE_PERFORMED (R76): A posted store to the vat store or another non-local region is performed, freeing one of the curd's eight pending-store places and releasing loads that wait on it. -/
  | postedStorePerformed (node slot idx : Nat)
  /-- JTAG_INSTRUCTION (R518): An instruction loaded through the JTAG port takes effect, or selects BYPASS when EXTEST or an internal-chain instruction is not permitted. -/
  | jtagInstruction (ir : JtagOp)
  /-- DYNAMIC_ADDRESS_ASSIGNMENT (R512): The I3C side-band target takes a dynamic address from ENTDAA or SETDASA. -/
  | dynamicAddressAssignment (method : DaaMethod) (addr : Nat)
  /-- HOLD_UP_CHARGED (R504): The hold-up capacitors finish charging, and the main rails come up and S0 begins if main is already in range. -/
  | holdUpCharged
  /-- HOLD_UP_EXHAUSTED (R456): The hold-up energy after a power-fail runs out, and the island and flash stop unless standby still supplies them. -/
  | holdUpExhausted
  /-- CHIP_NO_ANSWER (R428): The manager receives no answer from a placed module for 10 ms and treats the chip as failed. -/
  | chipNoAnswer (chip : Nat)
  deriving DecidableEq, Repr

end Sys2Proof
end

