-- ==== Sys2Proof/Decode.lean ====
section
/-! DEFINITION. The table of commands gives its rows no bits (00_scope.md R8 and opcode_table.json), so no word
spells a command. The curd's own instruction words are decoded in Machine/CurdCode.lean. -/

namespace Sys2Proof

/-- The command a word spells by the table's bits: no row gives bits. -/
def decodeTableWord (_nbits _w : Nat) : Option Instr := none

end Sys2Proof
end

