-- ==== Sys2Proof/Config.lean ====
section
/-! DEFINITION. What the spec leaves to the part, to a standard it names, or open: constants without a body. No proof
can see a value of them, so a claim holds whatever they are (notes/assumptions/4.md, 5.md). -/

namespace Sys2Proof

/-- The free value of the `n`-th open point a run meets. -/
opaque Config.freeWord : Nat → BitVec 64

/-- What the SEC-DED decoder makes of a word with three or more flipped bits: detected (none), or delivered with
these data bits flipped, and whether it counts as a correction (05_local_memory.md R149, R150: no matrix is given). -/
opaque Config.eccMulti : BitVec 72 → Option (Bool × BitVec 64)

/-- The partitions of another chip, as the manager learns of them at its `n`-th look: number, size code, confidential,
slots reserved, slots with a context, and the generation last used in each slot (09_fabric_manager.md R282: no message
carries them). -/
opaque Config.remoteParts : Nat → Nat → List (Nat × Nat × Bool × Nat × Nat × List Nat)

/-- XMSS verification under the key whose digest a fuse holds: digest, message, signature (13_security.md R405). -/
opaque Config.fusedKeyVerify : BitVec 256 → List Byte → List Byte → Bool

/-- XMSS signature by the key named by its public key, at a leaf index (13_security.md R385). -/
opaque Config.xmssSign : List Byte → Nat → List Byte → List Byte

/-- ML-KEM-1024 decapsulation with the partition's key: the shared secret, or failure (13_security.md R398). -/
opaque Config.mlkemDecaps : Nat → List Byte → Option (List Byte)

/-- ML-KEM-1024 encapsulation key number `n` made by the device, 1,568 bytes (13_security.md R397). -/
opaque Config.mlkemPublic : Nat → List Byte

/-- The public key of the attestation key of generation `n`, and of the identity key (13_security.md R385). -/
opaque Config.attPublic : Nat → List Byte
opaque Config.identityPublic : List Byte
/-- The device CA's signature over the identity certificate (13_security.md R385). -/
opaque Config.caSignature : List Byte → List Byte

/-- The digest of the starter ROM, a constant of the part (13_security.md R384). -/
opaque Config.starterDigest : BitVec 256

/-- The die revision, four bits (18_module.md R518). -/
opaque Config.dieRevision : BitVec 4
/-- Henelaov's JEP106 identity (18_module.md R518). -/
opaque Config.jep106 : BitVec 11

end Sys2Proof
end

