-- ==== Sys2Proof/Machine/Crypto.lean ====
section
/-! DEFINITION. The standards' functions that use no key of the part: AES-256-GCM (07_links.md R234, 08_collectives.md R263,
13_security.md R398-R401) SHAKE256 and the verification of XMSS signatures (13_security.md R379-R405). The spec names the standards and gives no more: PRESUMED
from FIPS 197, NIST SP 800-38D, FIPS 202, RFC 8391 and NIST SP 800-208, notes/assumptions/5.md. -/

namespace Sys2Proof.Machine

/-! ## AES-256 (FIPS 197) -/

/-- Twice a field element. -/
def gfDouble (x : Nat) : Nat := if 128 ≤ x then (2 * x) ^^^ 0x11B else 2 * x

/-- The product of two field elements, over the low `k` bits of the second. -/
def gfMul : Nat → Nat → Nat → Nat
  | 0, _, _ => 0
  | k + 1, a, b => (if b % 2 = 1 then a else 0) ^^^ gfMul k (gfDouble a) (b / 2)

/-- The inverse, as the 254th power. -/
def gfInv (x : Nat) : Nat :=
  let m := gfMul 8
  let x2 := m x x
  let x3 := m x2 x
  let x12 := m (m x3 x3) (m x3 x3)
  let x15 := m x12 x3
  let x60 := m (m x15 x15) (m x15 x15)
  let x240 := m (m x60 x60) (m x60 x60)
  m (m x240 x12) x2

def rotl8 (x n : Nat) : Nat := (x * 2 ^ n) % 256 + x / 2 ^ (8 - n)

def aesSbox (x : Nat) : Nat :=
  let b := gfInv x
  b ^^^ rotl8 b 1 ^^^ rotl8 b 2 ^^^ rotl8 b 3 ^^^ rotl8 b 4 ^^^ 0x63

def xorBytes (a b : List Nat) : List Nat := List.zipWith (fun x y => x ^^^ y) a b

/-- Word `i` of the key schedule, from the words before it. -/
def aesNextWord (ws : List (List Nat)) (i : Nat) : List Nat :=
  let t := ws.getD (i - 1) []
  let u := if i % 8 = 0 then xorBytes ((t.drop 1 ++ t.take 1).map aesSbox) [2 ^ (i / 8 - 1), 0, 0, 0]
    else if i % 8 = 4 then t.map aesSbox else t
  xorBytes (ws.getD (i - 8) []) u

/-- The sixty words of the key schedule, as one string of bytes. -/
def aesSchedule (key : List Nat) : List Nat :=
  ((List.range 52).foldl (fun ws i => ws ++ [aesNextWord ws (i + 8)])
    ((List.range 8).map (fun i => (key.drop (4 * i)).take 4))).flatten

def aesRoundKey (ks : List Nat) (r : Nat) : List Nat := (ks.drop (16 * r)).take 16

/-- Substitution and row shift of a block, kept column by column. -/
def aesSubShift (s : List Nat) : List Nat := (List.range 16).map (fun i => aesSbox (s.getD ((i + 4 * (i % 4)) % 16) 0))

def aesMixColumn (s : List Nat) (i : Nat) : Nat :=
  let at_ (k : Nat) : Nat := s.getD (i / 4 * 4 + (i + k) % 4) 0
  gfDouble (at_ 0) ^^^ gfDouble (at_ 1) ^^^ at_ 1 ^^^ at_ 2 ^^^ at_ 3

def aesMix (s : List Nat) : List Nat := (List.range 16).map (aesMixColumn s)

/-- One block under a key schedule. -/
def aesBlock (ks block : List Nat) : List Nat :=
  let s := (List.range 13).foldl (fun s r => xorBytes (aesMix (aesSubShift s)) (aesRoundKey ks (r + 1)))
    (xorBytes block (aesRoundKey ks 0))
  xorBytes (aesSubShift s) (aesRoundKey ks 14)

/-! ## GCM (NIST SP 800-38D) -/

/-- Bytes as a number, the first byte highest. -/
def beNat (bs : List Nat) : Nat := bs.foldl (fun a b => 256 * a + b) 0

/-- `n` bytes of a number, the highest first. -/
def beBytes (n x : Nat) : List Nat := ((List.range n).map (fun i => x / 256 ^ i % 256)).reverse

/-- The product in GCM's field: `x` from its first bit on, `v` the multiple that the bit stands for. -/
def ghashMul : Nat → Nat → Nat → Nat
  | 0, _, _ => 0
  | k + 1, x, v =>
    (if x.testBit k then v else 0) ^^^ ghashMul k x (if v % 2 = 1 then (v / 2) ^^^ (0xE1 * 2 ^ 120) else v / 2)

/-- A string in blocks of sixteen, the last filled with zeros. -/
def gcmBlocks (bs : List Nat) : List (List Nat) :=
  (List.range ((bs.length + 15) / 16)).map (fun i =>
    let b := (bs.drop (16 * i)).take 16
    b ++ List.replicate (16 - b.length) 0)

def gcmNats (bs : List Byte) : List Nat := bs.map (fun b => b.toNat)
def gcmBytes (bs : List Nat) : List Byte := bs.map (fun b => BitVec.ofNat 8 b)

/-- The key stream from counter `c` on, added to a text. -/
def gcmCtr (ks iv text : List Nat) : List Nat :=
  ((List.range ((text.length + 15) / 16)).flatMap (fun i =>
    xorBytes ((text.drop (16 * i)).take 16) (aesBlock ks (iv ++ beBytes 4 (i + 2)))))

/-- The tag of additional data and ciphertext. -/
def gcmTag (ks iv aad ct : List Nat) : List Nat :=
  let h := beNat (aesBlock ks (List.replicate 16 0))
  let bl := gcmBlocks aad ++ gcmBlocks ct ++ [beBytes 8 (8 * aad.length) ++ beBytes 8 (8 * ct.length)]
  let s := bl.foldl (fun y b => ghashMul 128 (y ^^^ beNat b) h) 0
  xorBytes (beBytes 16 s) (aesBlock ks (iv ++ [0, 0, 0, 1]))

/-- A key as it stands in memory: its lowest byte first. -/
def gcmKey (key : BitVec 256) : List Nat := aesSchedule (gcmNats (leBytes 32 key.toNat))

/-- AES-256-GCM seal under a 96-bit nonce: the ciphertext and the 16-byte tag after it. -/
@[irreducible] def gcmSeal (key : BitVec 256) (nonce aad text : List Byte) : List Byte :=
  let ks := gcmKey key
  let ct := gcmCtr ks (gcmNats nonce) (gcmNats text)
  gcmBytes (ct ++ gcmTag ks (gcmNats nonce) (gcmNats aad) ct)

/-- AES-256-GCM open: the text, if the tag is that of the ciphertext. -/
@[irreducible] def gcmOpen (key : BitVec 256) (nonce aad ct tag : List Byte) : Option (List Byte) :=
  let ks := gcmKey key
  if gcmBytes (gcmTag ks (gcmNats nonce) (gcmNats aad) (gcmNats ct)) = tag then some (gcmBytes (gcmCtr ks (gcmNats nonce) (gcmNats ct)))
  else none

/-! ## SHAKE256 (FIPS 202) -/

def rotl64 (x n : Nat) : Nat := (x * 2 ^ n) % 2 ^ 64 + x / 2 ^ (64 - n)

def keccakRot : List Nat :=
  [0, 1, 62, 28, 27, 36, 44, 6, 55, 20, 3, 10, 43, 25, 39, 41, 45, 15, 21, 8, 18, 2, 61, 56, 14]

def keccakConst : List Nat :=
  [0x0000000000000001, 0x0000000000008082, 0x800000000000808A, 0x8000000080008000, 0x000000000000808B, 0x0000000080000001,
   0x8000000080008081, 0x8000000000008009, 0x000000000000008A, 0x0000000000000088, 0x0000000080008009, 0x000000008000000A] ++
  [0x000000008000808B, 0x800000000000008B, 0x8000000000008089, 0x8000000000008003, 0x8000000000008002, 0x8000000000000080,
   0x000000000000800A, 0x800000008000000A, 0x8000000080008081, 0x8000000000008080, 0x0000000080000001, 0x8000000080008008]

/-- One round on 25 lanes, lane x + 5y. -/
def keccakRound (a : List Nat) (rc : Nat) : List Nat :=
  let c := (List.range 5).map (fun x => a.getD x 0 ^^^ a.getD (x + 5) 0 ^^^ a.getD (x + 10) 0 ^^^ a.getD (x + 15) 0 ^^^ a.getD (x + 20) 0)
  let e := (List.range 25).map (fun i => a.getD i 0 ^^^ c.getD ((i + 4) % 5) 0 ^^^ rotl64 (c.getD ((i + 1) % 5) 0) 1)
  let b := (List.range 25).map (fun i =>
    let j := (i % 5 + 3 * (i / 5)) % 5 + 5 * (i % 5)
    rotl64 (e.getD j 0) (keccakRot.getD j 0))
  (List.range 25).map (fun i =>
    let y := i / 5 * 5
    b.getD i 0 ^^^ ((2 ^ 64 - 1 - b.getD (y + (i + 1 - y) % 5) 0) &&& b.getD (y + (i + 2 - y) % 5) 0) ^^^ (if i = 0 then rc else 0))

def keccak (a : List Nat) : List Nat := keccakConst.foldl keccakRound a

/-- A block of 136 bytes is taken in. -/
def keccakAbsorb (a : List Nat) (block : List Byte) : List Nat :=
  keccak ((List.range 25).map (fun i => a.getD i 0 ^^^ leAt block (8 * i) 8))

/-- The message with its padding. -/
def shakePad (m : List Byte) : List Byte :=
  let n := 136 - m.length % 136
  m ++ (if n = 1 then [0x9F] else 0x1F :: (List.replicate (n - 2) 0 ++ [0x80]))

/-- SHAKE256 with 256-bit output, its first byte lowest. -/
@[irreducible] def shake256 (m : List Byte) : BitVec 256 :=
  let p := shakePad m
  let a := (List.range (p.length / 136)).foldl (fun a i => keccakAbsorb a ((p.drop (136 * i)).take 136)) (List.replicate 25 0)
  BitVec.ofNat 256 (leNat ((a.take 4).flatMap (fun x => leBytes 8 x)))

/-! ## Verification of XMSS-SHAKE256 signatures, n = 32 and w = 16 (RFC 8391, NIST SP 800-208) -/

/-- `n` bytes of a number, the highest first. -/
def toByte (n x : Nat) : List Byte := (leBytes n x).reverse

/-- The number that bytes spell, the highest first. -/
def ofByte (bs : List Byte) : Nat := leNat bs.reverse

/-- The keyed hashes: 0 F, 1 H, 2 the message's, 3 PRF. -/
def xmssHash (kind : Nat) (key m : List Byte) : List Byte := leBytes 32 (shake256 (toByte 32 kind ++ key ++ m)).toNat

/-- A hash address: type, its three words, and keyAndMask; one tree only. -/
def xmssAdrs (typ a b c mask : Nat) : List Byte := toByte 12 0 ++ toByte 4 typ ++ toByte 4 a ++ toByte 4 b ++ toByte 4 c ++ toByte 4 mask

def xorByteLists (a b : List Byte) : List Byte := List.zipWith (fun x y => x ^^^ y) a b

/-- The WOTS+ chain from step `i` on, over `s` steps. -/
def wotsChain (seed : List Byte) (ots chain : Nat) : Nat → Nat → List Byte → List Byte
  | 0, _, x => x
  | s + 1, i, x =>
    let prf (mask : Nat) : List Byte := xmssHash 3 seed (xmssAdrs 0 ots chain i mask)
    wotsChain seed ots chain s (i + 1) (xmssHash 0 (prf 0) (xorByteLists x (prf 1)))

/-- The 67 digits of a message digest, its checksum's three among them. -/
def wotsDigits (m : List Byte) : List Nat :=
  let ds := m.flatMap (fun b => [b.toNat / 16, b.toNat % 16])
  let sum := (ds.map (fun x => 15 - x)).foldl (· + ·) 0
  ds ++ [sum / 256 % 16, sum / 16 % 16, sum % 16]

/-- The one-time public key that a signature leads to. -/
def wotsPublic (seed m sig : List Byte) (ots : Nat) : List (List Byte) :=
  (wotsDigits m).zipIdx.map (fun e => wotsChain seed ots e.2 (15 - e.1) e.1 ((sig.drop (32 * e.2)).take 32))

/-- Two nodes hashed into their parent, with randomization under an address. -/
def xmssNode (seed : List Byte) (typ a height index : Nat) (l r : List Byte) : List Byte :=
  let prf (mask : Nat) : List Byte := xmssHash 3 seed (xmssAdrs typ a height index mask)
  xmssHash 1 (prf 0) (xorByteLists l (prf 1) ++ xorByteLists r (prf 2))

/-- One level of an L-tree: pairs are hashed, a last single node stays. -/
def ltreeLevel (seed : List Byte) (leaf height : Nat) : Nat → List (List Byte) → List (List Byte)
  | i, l :: r :: rest => xmssNode seed 1 leaf height i l r :: ltreeLevel seed leaf height (i + 1) rest
  | _, rest => rest

/-- The leaf of a one-time public key: seven levels take 67 nodes to one. -/
def ltree (seed : List Byte) (leaf : Nat) (pk : List (List Byte)) : List Byte :=
  ((List.range 7).foldl (fun ns h => ltreeLevel seed leaf h 0 ns) pk).headD []

/-- The root that a leaf and its authentication path lead to. -/
def xmssClimb (seed auth : List Byte) (idx : Nat) (leaf : List Byte) (height : Nat) : List Byte :=
  (List.range height).foldl (fun node k =>
    let sib := (auth.drop (32 * k)).take 32
    let parent := idx / 2 ^ (k + 1)
    if idx / 2 ^ k % 2 = 0 then xmssNode seed 2 0 k parent node sib else xmssNode seed 2 0 k parent sib node) leaf

/-- XMSS-SHAKE256_20_256: public key (object identifier, root, seed), message, signature of 2,820 bytes. -/
@[irreducible] def xmssVerify (key msg sig : List Byte) : Bool :=
  let root := (key.drop 4).take 32
  let seed := (key.drop 36).take 32
  let idx := ofByte (sig.take 4)
  let m := xmssHash 2 ((sig.drop 4).take 32 ++ root ++ toByte 32 idx) msg
  let leaf := ltree seed idx (wotsPublic seed m ((sig.drop 36).take 2144) idx)
  key.length == 68 && ofByte (key.take 4) == 0x12 && sig.length == 2820 && decide (idx < 2 ^ 20) &&
    xmssClimb seed ((sig.drop 2180).take 640) idx leaf 20 == root

end Sys2Proof.Machine
end

