-- ==== Sys2Proof/Machine/CurdCode.lean ====
section
/-! DEFINITION. The curd's instruction words: the decoded form, the decoder of 03_curd_core.md R81-R96, R102, R104
and 04_arithmetic.md R131, and an encoder written from the same tables. Reserved codes and non-zero reserved fields
decode to nothing (R82). -/

namespace Sys2Proof.Machine

abbrev Reg := BitVec 5
abbrev VReg := BitVec 4
abbrev Tile := BitVec 2
abbrev KNum := BitVec 4
abbrev Imm := BitVec 16

/-- R84. -/
inductive AluOp where
  | add | sub | and | or | xor | shl | shr | sra | slt | sltu | min | max | minu | maxu | mul | mulh | mulhu
  | div | divu | rem | remu | popc | clz | ctz
  deriving DecidableEq, Repr

inductive ImmOp where
  | addi | andi | ori | xori | slti
  deriving DecidableEq, Repr

inductive ShOp where
  | left | right | arith | rotate
  deriving DecidableEq, Repr

inductive Cond where
  | eq | ne | lt | ge | ltu | geu
  deriving DecidableEq, Repr

inductive LoadOp where
  | b | h | w | d | bu | hu | wu
  deriving DecidableEq, Repr

inductive StoreOp where
  | b | h | w | d
  deriving DecidableEq, Repr

/-- R87. -/
inductive AmoOp where
  | add | swap | cas | min | max | minu | maxu | and | or | xor
  deriving DecidableEq, Repr

/-- R88. -/
inductive VOp where
  | fadd | fsub | fmul | fmin | fmax | fma | fabs | fneg | fcopysign | flt | fle | feq
  | iadd | isub | imul | iand | ior | ixor | ishl | ishr | isra | imin | imax | sel
  deriving DecidableEq, Repr

inductive RedOp where
  | fsum | fmax | fmin | isum
  deriving DecidableEq, Repr

/-- The element formats of R92 that an operand can name. -/
inductive Fmt where
  | fp32 | bf16 | fp16 | e4m3 | e5m2 | mx8e4 | mx8e5 | mx6e3 | mx6e2 | mx4 | mxint8 | int8 | int4 | hb4
  deriving DecidableEq, Repr

/-- R104. -/
inductive FarKind where
  | get | put | putv | add | swap | cas | min | max | and | or | xor | fadd
  deriving DecidableEq, Repr

inductive CurdInstr where
  | alu (op : AluOp) (d a b : Reg)
  | imm (op : ImmOp) (d a : Reg) (i : Imm)
  | shi (op : ShOp) (d a : Reg) (n : BitVec 6)
  | movz (d : Reg) (h : BitVec 2) (i : Imm)
  | movk (d : Reg) (h : BitVec 2) (i : Imm)
  | branch (c : Cond) (a b : Reg) (off : Imm)
  | jal (d : Reg) (target : BitVec 12)
  | jalr (d a : Reg) (i : Imm)
  | csrr (d : Reg) (n : Byte)
  | csrw (a : Reg) (n : Byte)
  | nop
  | halt
  | brk
  | iwr (a b : Reg)
  | rand (d : Reg)
  | load (op : LoadOp) (d a : Reg) (i : Imm)
  | store (op : StoreOp) (src a : Reg) (i : Imm)
  | vld (v : VReg) (a : Reg) (i : Imm)
  | vst (v : VReg) (a : Reg) (i : Imm)
  | amo (op : AmoOp) (wide : Bool) (d a b : Reg)
  | vop (op : VOp) (splat : Bool) (vd va vb : VReg) (gs : Reg)
  | vred (op : RedOp) (va : VReg) (gs : Reg)
  | vsplat (vd : VReg) (gs : Reg)
  | vextract (va vb : VReg) (gs : Reg)
  | vpermute (vd va vb : VReg)
  | vcvt (widen : Bool) (fmt : Fmt) (rnd inf : Bool) (vd va : VReg) (group : BitVec 3) (gs : Reg)
  | tmma (t : Tile) (fmt : Fmt) (ga gb : Reg) (clr comp inf : Bool)
  | tld (t : Tile) (ga : Reg)
  | tst (t : Tile) (fmt : Fmt) (ga : Reg) (rnd comp inf clr : Bool)
  | topClear (t : Tile) (u : Tile)
  | topCopy (t : Tile) (u : Tile)
  | topAdd (t : Tile) (u : Tile)
  | far (kind : FarKind) (ga gb : Reg) (k : KNum) (ord : Bool) (lenM1 : BitVec 7)
  | dma (ga : Reg) (k : KNum) (chan : BitVec 2)
  | coll (ga : Reg) (k : KNum)
  | wait (d a : Reg) (k : KNum)
  | signal (a : Reg) (target : KNum) (k : KNum)
  | fence (a : Reg) (k : KNum)
  | cult (a b : Reg) (k : KNum)
  | cadd (a : Reg) (k : KNum)
  deriving DecidableEq, Repr

/-! ## The codes of each field -/

def AluOp.code : AluOp → Nat
  | .add => 0x000 | .sub => 0x001 | .and => 0x002 | .or => 0x003 | .xor => 0x004 | .shl => 0x005 | .shr => 0x006
  | .sra => 0x007 | .slt => 0x008 | .sltu => 0x009 | .min => 0x00A | .max => 0x00B | .minu => 0x00C | .maxu => 0x00D
  | .mul => 0x010 | .mulh => 0x011 | .mulhu => 0x012 | .div => 0x018 | .divu => 0x019 | .rem => 0x01A
  | .remu => 0x01B | .popc => 0x020 | .clz => 0x021 | .ctz => 0x022

def AluOp.ofCode : Nat → Option AluOp
  | 0x000 => some .add | 0x001 => some .sub | 0x002 => some .and | 0x003 => some .or | 0x004 => some .xor
  | 0x005 => some .shl | 0x006 => some .shr | 0x007 => some .sra | 0x008 => some .slt | 0x009 => some .sltu
  | 0x00A => some .min | 0x00B => some .max | 0x00C => some .minu | 0x00D => some .maxu | 0x010 => some .mul
  | 0x011 => some .mulh | 0x012 => some .mulhu | 0x018 => some .div | 0x019 => some .divu | 0x01A => some .rem
  | 0x01B => some .remu | 0x020 => some .popc | 0x021 => some .clz | 0x022 => some .ctz
  | _ => none

def ImmOp.major : ImmOp → Nat
  | .addi => 0x02 | .andi => 0x03 | .ori => 0x04 | .xori => 0x05 | .slti => 0x09

def ShOp.code : ShOp → Nat
  | .left => 0 | .right => 1 | .arith => 2 | .rotate => 3

def ShOp.ofCode : Nat → ShOp
  | 0 => .left | 1 => .right | 2 => .arith | _ => .rotate

def Cond.code : Cond → Nat
  | .eq => 0 | .ne => 1 | .lt => 2 | .ge => 3 | .ltu => 4 | .geu => 5

def LoadOp.code : LoadOp → Nat
  | .b => 0 | .h => 1 | .w => 2 | .d => 3 | .bu => 4 | .hu => 5 | .wu => 6

def StoreOp.code : StoreOp → Nat
  | .b => 0 | .h => 1 | .w => 2 | .d => 3

def AmoOp.code : AmoOp → Nat
  | .add => 0 | .swap => 1 | .cas => 2 | .min => 3 | .max => 4 | .minu => 5 | .maxu => 6 | .and => 7 | .or => 8
  | .xor => 9

def AmoOp.ofCode : Nat → Option AmoOp
  | 0 => some .add | 1 => some .swap | 2 => some .cas | 3 => some .min | 4 => some .max | 5 => some .minu
  | 6 => some .maxu | 7 => some .and | 8 => some .or | 9 => some .xor
  | _ => none

def VOp.code : VOp → Nat
  | .fadd => 0x00 | .fsub => 0x01 | .fmul => 0x02 | .fmin => 0x03 | .fmax => 0x04 | .fma => 0x05 | .fabs => 0x06
  | .fneg => 0x07 | .fcopysign => 0x08 | .flt => 0x10 | .fle => 0x11 | .feq => 0x12 | .iadd => 0x20 | .isub => 0x21
  | .imul => 0x22 | .iand => 0x23 | .ior => 0x24 | .ixor => 0x25 | .ishl => 0x26 | .ishr => 0x27 | .isra => 0x28
  | .imin => 0x29 | .imax => 0x2A | .sel => 0x30

def VOp.ofCode : Nat → Option VOp
  | 0x00 => some .fadd | 0x01 => some .fsub | 0x02 => some .fmul | 0x03 => some .fmin | 0x04 => some .fmax
  | 0x05 => some .fma | 0x06 => some .fabs | 0x07 => some .fneg | 0x08 => some .fcopysign | 0x10 => some .flt
  | 0x11 => some .fle | 0x12 => some .feq | 0x20 => some .iadd | 0x21 => some .isub | 0x22 => some .imul
  | 0x23 => some .iand | 0x24 => some .ior | 0x25 => some .ixor | 0x26 => some .ishl | 0x27 => some .ishr
  | 0x28 => some .isra | 0x29 => some .imin | 0x2A => some .imax | 0x30 => some .sel
  | _ => none

def RedOp.code : RedOp → Nat
  | .fsum => 0 | .fmax => 1 | .fmin => 2 | .isum => 3

def RedOp.ofCode : Nat → Option RedOp
  | 0 => some .fsum | 1 => some .fmax | 2 => some .fmin | 3 => some .isum
  | _ => none

def Fmt.code : Fmt → Nat
  | .fp32 => 0x0 | .bf16 => 0x1 | .fp16 => 0x2 | .e4m3 => 0x3 | .e5m2 => 0x4 | .mx8e4 => 0x5 | .mx8e5 => 0x6
  | .mx6e3 => 0x7 | .mx6e2 => 0x8 | .mx4 => 0x9 | .mxint8 => 0xA | .int8 => 0xB | .int4 => 0xC | .hb4 => 0xD

def Fmt.ofCode : Nat → Option Fmt
  | 0x0 => some .fp32 | 0x1 => some .bf16 | 0x2 => some .fp16 | 0x3 => some .e4m3 | 0x4 => some .e5m2
  | 0x5 => some .mx8e4 | 0x6 => some .mx8e5 | 0x7 => some .mx6e3 | 0x8 => some .mx6e2 | 0x9 => some .mx4
  | 0xA => some .mxint8 | 0xB => some .int8 | 0xC => some .int4 | 0xD => some .hb4
  | _ => none

def FarKind.code : FarKind → Nat
  | .get => 0 | .put => 1 | .putv => 2 | .add => 4 | .swap => 5 | .cas => 6 | .min => 7 | .max => 8 | .and => 9
  | .or => 10 | .xor => 11 | .fadd => 12

def FarKind.ofCode : Nat → Option FarKind
  | 0 => some .get | 1 => some .put | 2 => some .putv | 4 => some .add | 5 => some .swap | 6 => some .cas
  | 7 => some .min | 8 => some .max | 9 => some .and | 10 => some .or | 11 => some .xor | 12 => some .fadd
  | _ => none

/-! ## What an instruction may say beyond its fields -/

/-- Target integer formats take no infinity (04_arithmetic.md R128, R133, R137). -/
def Fmt.isInt : Fmt → Bool
  | .int8 | .int4 => true
  | _ => false

/-- The groups of a packed vector (R131). -/
def Fmt.groups : Fmt → Nat
  | .fp32 => 1
  | .bf16 | .fp16 => 2
  | .e4m3 | .e5m2 | .mx8e4 | .mx8e5 | .mxint8 | .int8 => 4
  | .mx6e3 | .mx6e2 => 5
  | .mx4 | .int4 | .hb4 => 8

/-- Narrowing targets that are integers: INT8, INT4 and, for fmt 0x0, INT32 (R128, R132). -/
def vcvtIntTarget (widen : Bool) (f : Fmt) : Bool := !widen && (f.isInt || f == .fp32)

/-- R131: group in the format's range, no stochastic rounding when widening, inf 0 on an integer target. -/
def vcvtOk (widen : Bool) (f : Fmt) (rnd inf : Bool) (group : Nat) : Bool :=
  decide (group < f.groups) && !(widen && rnd) && !(inf && vcvtIntTarget widen f)

/-- R92, R93, R137. -/
def tmmaOk (t : Tile) (f : Fmt) (comp inf : Bool) : Bool :=
  f != .fp32 && !(comp && bit t.toNat 0) && !(f.isInt && (comp || inf))

/-- R92, R95, R133. -/
def tstOk (t : Tile) (f : Fmt) (rnd comp inf : Bool) : Bool :=
  (f == .fp32 || f == .bf16 || f == .fp16 || f == .e4m3 || f == .e5m2 || f == .int8) &&
    !(comp && bit t.toNat 0) && !(f == .int8 && (rnd || comp || inf))

/-- The lengths a FAR kind allows (R104). -/
def farLenOk (k : FarKind) (lenM1 : Nat) : Bool :=
  match k with
  | .get | .put => true
  | .putv => lenM1 == 0 || lenM1 == 1 || lenM1 == 3 || lenM1 == 7
  | .fadd => lenM1 == 3
  | _ => lenM1 == 3 || lenM1 == 7

/-- The instructions that have a word. -/
def CurdInstr.wf : CurdInstr → Bool
  | .vcvt widen f rnd inf _ _ group _ => vcvtOk widen f rnd inf group.toNat
  | .tmma t f _ _ _ comp inf => tmmaOk t f comp inf
  | .tst t f _ rnd comp inf _ => tstOk t f rnd comp inf
  | .far k _ _ _ _ lenM1 => farLenOk k lenM1.toNat
  | _ => true

/-! ## Decoding -/

def fReg (n lo : Nat) : Reg := BitVec.ofNat 5 (bits n (lo + 4) lo)
def fV (n lo : Nat) : VReg := BitVec.ofNat 4 (bits n (lo + 3) lo)
def fImm (n : Nat) : Imm := BitVec.ofNat 16 (bits n 15 0)

def onlyIf {α : Type} (c : Bool) (a : α) : Option α := if c then some a else none

def decAlu (n : Nat) : Option CurdInstr :=
  match AluOp.ofCode (bits n 10 0) with
  | some op => some (.alu op (fReg n 21) (fReg n 16) (fReg n 11))
  | none => none

def decImm (op : ImmOp) (n : Nat) : Option CurdInstr := some (.imm op (fReg n 21) (fReg n 16) (fImm n))

def decShi (n : Nat) : Option CurdInstr :=
  onlyIf (bits n 15 8 == 0) (.shi (ShOp.ofCode (bits n 7 6)) (fReg n 21) (fReg n 16) (BitVec.ofNat 6 (bits n 5 0)))

def decMovz (n : Nat) : Option CurdInstr :=
  onlyIf (bits n 20 18 == 0) (.movz (fReg n 21) (BitVec.ofNat 2 (bits n 17 16)) (fImm n))

def decMovk (n : Nat) : Option CurdInstr :=
  onlyIf (bits n 20 18 == 0) (.movk (fReg n 21) (BitVec.ofNat 2 (bits n 17 16)) (fImm n))

def decBranch (c : Cond) (n : Nat) : Option CurdInstr := some (.branch c (fReg n 21) (fReg n 16) (fImm n))

def decJal (n : Nat) : Option CurdInstr :=
  onlyIf (bits n 20 12 == 0) (.jal (fReg n 21) (BitVec.ofNat 12 (bits n 11 0)))

def decCsrr (n : Nat) : Option CurdInstr :=
  onlyIf (bits n 20 16 == 0 && bits n 15 8 == 0) (.csrr (fReg n 21) (BitVec.ofNat 8 (bits n 7 0)))

def decCsrw (n : Nat) : Option CurdInstr :=
  onlyIf (bits n 25 21 == 0 && bits n 15 8 == 0) (.csrw (fReg n 16) (BitVec.ofNat 8 (bits n 7 0)))

def decSys (n : Nat) : Option CurdInstr :=
  match bits n 10 0 with
  | 0 => some .nop
  | 1 => some .halt
  | 2 => some .brk
  | 3 => some (.iwr (fReg n 16) (fReg n 11))
  | 4 => some (.rand (fReg n 21))
  | _ => none

def decLoad (op : LoadOp) (n : Nat) : Option CurdInstr := some (.load op (fReg n 21) (fReg n 16) (fImm n))

def decStore (op : StoreOp) (n : Nat) : Option CurdInstr := some (.store op (fReg n 21) (fReg n 16) (fImm n))

def decVld (n : Nat) : Option CurdInstr := onlyIf (bits n 21 21 == 0) (.vld (fV n 22) (fReg n 16) (fImm n))

def decVst (n : Nat) : Option CurdInstr := onlyIf (bits n 21 21 == 0) (.vst (fV n 22) (fReg n 16) (fImm n))

def decAmo (n : Nat) : Option CurdInstr :=
  match AmoOp.ofCode (bits n 3 0) with
  | some op => onlyIf (bits n 10 5 == 0) (.amo op (bit n 4) (fReg n 21) (fReg n 16) (fReg n 11))
  | none => none

def decVop (n : Nat) : Option CurdInstr :=
  match VOp.ofCode (bits n 7 0) with
  | some op => some (.vop op (bit n 8) (fV n 22) (fV n 18) (fV n 14) (fReg n 9))
  | none => none

def decVred (n : Nat) : Option CurdInstr :=
  match RedOp.ofCode (bits n 8 0) with
  | some op => some (.vred op (fV n 18) (fReg n 9))
  | none => none

def decVmov (n : Nat) : Option CurdInstr :=
  match bits n 8 0 with
  | 0 => some (.vsplat (fV n 22) (fReg n 9))
  | 1 => some (.vextract (fV n 18) (fV n 14) (fReg n 9))
  | 2 => some (.vpermute (fV n 22) (fV n 18) (fV n 14))
  | _ => none

def decVcvt (n : Nat) : Option CurdInstr :=
  match Fmt.ofCode (bits n 7 4) with
  | some f =>
    onlyIf (vcvtOk (bit n 8) f (bit n 3) (bit n 2) (bits n 16 14) && bits n 17 17 == 0 && bits n 1 0 == 0)
      (.vcvt (bit n 8) f (bit n 3) (bit n 2) (fV n 22) (fV n 18) (BitVec.ofNat 3 (bits n 16 14)) (fReg n 9))
  | none => none

def decTmma (n : Nat) : Option CurdInstr :=
  match Fmt.ofCode (bits n 23 20) with
  | some f =>
    let t : Tile := BitVec.ofNat 2 (bits n 25 24)
    onlyIf (tmmaOk t f (bit n 8) (bit n 7) && bits n 6 0 == 0)
      (.tmma t f (fReg n 15) (fReg n 10) (bit n 9) (bit n 8) (bit n 7))
  | none => none

def decTld (n : Nat) : Option CurdInstr :=
  onlyIf (bits n 23 20 == 0 && bits n 14 10 == 0 && bits n 9 0 == 0) (.tld (BitVec.ofNat 2 (bits n 25 24)) (fReg n 15))

def decTst (n : Nat) : Option CurdInstr :=
  match Fmt.ofCode (bits n 23 20) with
  | some f =>
    let t : Tile := BitVec.ofNat 2 (bits n 25 24)
    onlyIf (tstOk t f (bit n 9) (bit n 8) (bit n 7) && bits n 5 0 == 0)
      (.tst t f (fReg n 15) (bit n 9) (bit n 8) (bit n 7) (bit n 6))
  | none => none

def decTop (n : Nat) : Option CurdInstr :=
  let t : Tile := BitVec.ofNat 2 (bits n 25 24)
  let u : Tile := BitVec.ofNat 2 (bits n 16 15)
  if bits n 23 20 == 0 && bits n 19 17 == 0 && bits n 14 10 == 0 && bits n 7 0 == 0 then
    match bits n 9 8 with
    | 0 => some (.topClear t u)
    | 1 => some (.topCopy t u)
    | 2 => some (.topAdd t u)
    | _ => none
  else none

def decFar (n : Nat) : Option CurdInstr :=
  match FarKind.ofCode (bits n 11 8) with
  | some k =>
    onlyIf (farLenOk k (bits n 6 0))
      (.far k (fReg n 21) (fReg n 16) (fV n 12) (bit n 7) (BitVec.ofNat 7 (bits n 6 0)))
  | none => none

def decDma (n : Nat) : Option CurdInstr :=
  onlyIf (bits n 20 16 == 0 && bits n 9 0 == 0) (.dma (fReg n 21) (fV n 12) (BitVec.ofNat 2 (bits n 11 10)))

def decColl (n : Nat) : Option CurdInstr :=
  onlyIf (bits n 20 16 == 0 && bits n 9 0 == 0) (.coll (fReg n 21) (fV n 12))

def decSync (n : Nat) : Option CurdInstr :=
  if bits n 6 4 == 0 then
    match bits n 3 0 with
    | 0 => onlyIf (bits n 15 11 == 0) (.wait (fReg n 21) (fReg n 16) (fV n 7))
    | 1 => onlyIf (bits n 15 15 == 0) (.signal (fReg n 16) (fV n 11) (fV n 7))
    | 2 => onlyIf (bits n 25 21 == 0 && bits n 15 11 == 0) (.fence (fReg n 16) (fV n 7))
    | 3 => some (.cult (fReg n 16) (fReg n 11) (fV n 7))
    | 4 => onlyIf (bits n 25 21 == 0 && bits n 15 11 == 0) (.cadd (fReg n 16) (fV n 7))
    | _ => none
  else none

/-- The major opcodes of R83. -/
def decodeCurd (w : Nat) : Option CurdInstr :=
  match bits w 31 26 with
  | 0x01 => decAlu w
  | 0x02 => decImm .addi w
  | 0x03 => decImm .andi w
  | 0x04 => decImm .ori w
  | 0x05 => decImm .xori w
  | 0x06 => decShi w
  | 0x07 => decMovz w
  | 0x08 => decMovk w
  | 0x09 => decImm .slti w
  | 0x10 => decBranch .eq w
  | 0x11 => decBranch .ne w
  | 0x12 => decBranch .lt w
  | 0x13 => decBranch .ge w
  | 0x14 => decBranch .ltu w
  | 0x15 => decBranch .geu w
  | 0x16 => decJal w
  | 0x17 => some (.jalr (fReg w 21) (fReg w 16) (fImm w))
  | 0x18 => decCsrr w
  | 0x19 => decCsrw w
  | 0x1A => decSys w
  | 0x20 => decLoad .b w
  | 0x21 => decLoad .h w
  | 0x22 => decLoad .w w
  | 0x23 => decLoad .d w
  | 0x24 => decLoad .bu w
  | 0x25 => decLoad .hu w
  | 0x26 => decLoad .wu w
  | 0x27 => decStore .b w
  | 0x28 => decStore .h w
  | 0x29 => decStore .w w
  | 0x2A => decStore .d w
  | 0x2B => decVld w
  | 0x2C => decVst w
  | 0x2D => decAmo w
  | 0x30 => decVop w
  | 0x31 => decVred w
  | 0x32 => decVmov w
  | 0x33 => decVcvt w
  | 0x38 => decTmma w
  | 0x39 => decTld w
  | 0x3A => decTst w
  | 0x3B => decTop w
  | 0x3C => decFar w
  | 0x3D => decDma w
  | 0x3E => decSync w
  | 0x3F => decColl w
  | _ => none

/-! ## Encoding -/

/-- Format A: d, a, b, func. -/
def encA (major d a b func : Nat) : Nat := major * 2 ^ 26 + d * 2 ^ 21 + a * 2 ^ 16 + b * 2 ^ 11 + func
/-- Formats I and B: two registers and sixteen bits. -/
def encI (major d a i : Nat) : Nat := major * 2 ^ 26 + d * 2 ^ 21 + a * 2 ^ 16 + i
/-- Format S. -/
def encS (d a b k func : Nat) : Nat := 0x3E * 2 ^ 26 + d * 2 ^ 21 + a * 2 ^ 16 + b * 2 ^ 11 + k * 2 ^ 7 + func
/-- Format Q. -/
def encQ (major ga k chan : Nat) : Nat := major * 2 ^ 26 + ga * 2 ^ 21 + k * 2 ^ 12 + chan * 2 ^ 10
/-- Format V. -/
def encV (major vd va vb gs func : Nat) : Nat :=
  major * 2 ^ 26 + vd * 2 ^ 22 + va * 2 ^ 18 + vb * 2 ^ 14 + gs * 2 ^ 9 + func
/-- Format VM. -/
def encVM (major v a i : Nat) : Nat := major * 2 ^ 26 + v * 2 ^ 22 + a * 2 ^ 16 + i
/-- Format T. -/
def encT (major t fmt ga gb flags : Nat) : Nat :=
  major * 2 ^ 26 + t * 2 ^ 24 + fmt * 2 ^ 20 + ga * 2 ^ 15 + gb * 2 ^ 10 + flags

/-- The word of an instruction; fields no rule names are zero. -/
def encodeCurd : CurdInstr → Nat
  | .alu op d a b => encA 0x01 d.toNat a.toNat b.toNat op.code
  | .imm op d a i => encI op.major d.toNat a.toNat i.toNat
  | .shi op d a n => encI 0x06 d.toNat a.toNat (op.code * 64 + n.toNat)
  | .movz d h i => encI 0x07 d.toNat h.toNat i.toNat
  | .movk d h i => encI 0x08 d.toNat h.toNat i.toNat
  | .branch c a b off => encI (0x10 + c.code) a.toNat b.toNat off.toNat
  | .jal d target => encI 0x16 d.toNat 0 target.toNat
  | .jalr d a i => encI 0x17 d.toNat a.toNat i.toNat
  | .csrr d n => encI 0x18 d.toNat 0 n.toNat
  | .csrw a n => encI 0x19 0 a.toNat n.toNat
  | .nop => encA 0x1A 0 0 0 0
  | .halt => encA 0x1A 0 0 0 1
  | .brk => encA 0x1A 0 0 0 2
  | .iwr a b => encA 0x1A 0 a.toNat b.toNat 3
  | .rand d => encA 0x1A d.toNat 0 0 4
  | .load op d a i => encI (0x20 + op.code) d.toNat a.toNat i.toNat
  | .store op src a i => encI (0x27 + op.code) src.toNat a.toNat i.toNat
  | .vld v a i => encVM 0x2B v.toNat a.toNat i.toNat
  | .vst v a i => encVM 0x2C v.toNat a.toNat i.toNat
  | .amo op wide d a b => encA 0x2D d.toNat a.toNat b.toNat (op.code + 16 * boolNat wide)
  | .vop op splat vd va vb gs => encV 0x30 vd.toNat va.toNat vb.toNat gs.toNat (op.code + 256 * boolNat splat)
  | .vred op va gs => encV 0x31 0 va.toNat 0 gs.toNat op.code
  | .vsplat vd gs => encV 0x32 vd.toNat 0 0 gs.toNat 0
  | .vextract va vb gs => encV 0x32 0 va.toNat vb.toNat gs.toNat 1
  | .vpermute vd va vb => encV 0x32 vd.toNat va.toNat vb.toNat 0 2
  | .vcvt widen f rnd inf vd va group gs =>
    encV 0x33 vd.toNat va.toNat group.toNat gs.toNat
      (256 * boolNat widen + 16 * f.code + 8 * boolNat rnd + 4 * boolNat inf)
  | .tmma t f ga gb clr comp inf =>
    encT 0x38 t.toNat f.code ga.toNat gb.toNat (512 * boolNat clr + 256 * boolNat comp + 128 * boolNat inf)
  | .tld t ga => encT 0x39 t.toNat 0 ga.toNat 0 0
  | .tst t f ga rnd comp inf clr =>
    encT 0x3A t.toNat f.code ga.toNat 0
      (512 * boolNat rnd + 256 * boolNat comp + 128 * boolNat inf + 64 * boolNat clr)
  | .topClear t u => encT 0x3B t.toNat 0 u.toNat 0 0
  | .topCopy t u => encT 0x3B t.toNat 0 u.toNat 0 256
  | .topAdd t u => encT 0x3B t.toNat 0 u.toNat 0 512
  | .far k ga gb c ord lenM1 =>
    0x3C * 2 ^ 26 + ga.toNat * 2 ^ 21 + gb.toNat * 2 ^ 16 + c.toNat * 2 ^ 12 + k.code * 2 ^ 8 + boolNat ord * 2 ^ 7 +
      lenM1.toNat
  | .dma ga k chan => encQ 0x3D ga.toNat k.toNat chan.toNat
  | .coll ga k => encQ 0x3F ga.toNat k.toNat 0
  | .wait d a k => encS d.toNat a.toNat 0 k.toNat 0
  | .signal a target k => encS 0 a.toNat target.toNat k.toNat 1
  | .fence a k => encS 0 a.toNat 0 k.toNat 2
  | .cult a b k => encS 0 a.toNat b.toNat k.toNat 3
  | .cadd a k => encS 0 a.toNat 0 k.toNat 4

end Sys2Proof.Machine
end

