-- ==== Sys2Proof/Machine/Flags.lean ====
section
/-! DEFINITION. Arithmetic: scalar functions (03_curd_core.md R84, R85), the number formats, rounding and overflow,
vector lanes, tile operations, reductions in the fabric (04_arithmetic.md), and the check codes CRC-16 and CRC-32C. -/

namespace Sys2Proof.Machine

/-! ## Scalar arithmetic -/

def popcNat : Nat → Nat → Nat
  | 0, _ => 0
  | n + 1, x => x % 2 + popcNat n (x / 2)

/-- Trailing zeros among the `n` low bits. -/
def ctzNat : Nat → Nat → Nat
  | 0, _ => 0
  | n + 1, x => if x % 2 = 1 then 0 else 1 + ctzNat n (x / 2)

/-- Leading zeros of a number of at most `n` bits. -/
def clzNat (n x : Nat) : Nat := if x = 0 then n else n - 1 - Nat.log2 x

/-- R85: a zero divisor gives all ones; the most negative number by -1 wraps to itself. -/
def sdiv (a b : Word) : Word := if b = 0 then BitVec.allOnes 64 else a.sdiv b
/-- R85: a zero divisor leaves the dividend. -/
def srem64 (a b : Word) : Word := if b = 0 then a else a.srem b
def udiv64 (a b : Word) : Word := if b = 0 then BitVec.allOnes 64 else BitVec.ofNat 64 (a.toNat / b.toNat)
def urem64 (a b : Word) : Word := if b = 0 then a else BitVec.ofNat 64 (a.toNat % b.toNat)

/-- R84. -/
def aluFn (op : AluOp) (a b : Word) : Word :=
  let n := b.toNat % 64
  match op with
  | .add => a + b
  | .sub => a - b
  | .and => a &&& b
  | .or => a ||| b
  | .xor => a ^^^ b
  | .shl => a <<< n
  | .shr => a >>> n
  | .sra => a.sshiftRight n
  | .slt => if a.slt b then 1 else 0
  | .sltu => if a.ult b then 1 else 0
  | .min => if a.slt b then a else b
  | .max => if a.slt b then b else a
  | .minu => if a.ult b then a else b
  | .maxu => if a.ult b then b else a
  | .mul => a * b
  | .mulh => BitVec.ofInt 64 ((a.toInt * b.toInt) / 2 ^ 64)
  | .mulhu => BitVec.ofNat 64 (a.toNat * b.toNat / 2 ^ 64)
  | .div => sdiv a b
  | .divu => udiv64 a b
  | .rem => srem64 a b
  | .remu => urem64 a b
  | .popc => BitVec.ofNat 64 (popcNat 64 a.toNat)
  | .clz => BitVec.ofNat 64 (clzNat 64 a.toNat)
  | .ctz => BitVec.ofNat 64 (ctzNat 64 a.toNat)

/-- R83: ADDI and SLTI extend the sign of the immediate, the logical operations extend with zeros. -/
def immFn (op : ImmOp) (a : Word) (i : Imm) : Word :=
  match op with
  | .addi => a + i.signExtend 64
  | .andi => a &&& i.setWidth 64
  | .ori => a ||| i.setWidth 64
  | .xori => a ^^^ i.setWidth 64
  | .slti => if a.slt (i.signExtend 64) then 1 else 0

/-- R83. -/
def shFn (op : ShOp) (a : Word) (n : Nat) : Word :=
  match op with
  | .left => a <<< n
  | .right => a >>> n
  | .arith => a.sshiftRight n
  | .rotate => a.rotateRight n

def condFn (c : Cond) (a b : Word) : Bool :=
  match c with
  | .eq => a == b
  | .ne => a != b
  | .lt => a.slt b
  | .ge => !a.slt b
  | .ltu => a.ult b
  | .geu => !a.ult b

/-- The shift that a halfword number selects (R83, MOVZ and MOVK). -/
def movzFn (h : Nat) (i : Imm) : Word := (i.setWidth 64) <<< (16 * h)

def movkFn (old : Word) (h : Nat) (i : Imm) : Word :=
  (old &&& ~~~((0xFFFF : Word) <<< (16 * h))) ||| movzFn h i

/-- The combined value of an AMO of `w` bits; compare-and-swap keeps the old value unless it equals `cmp` (R87). -/
def amoFn (op : AmoOp) (w old v cmp : Nat) : Nat :=
  let so := toSigned w old
  let sv := toSigned w v
  match op with
  | .add => (old + v) % 2 ^ w
  | .swap => v
  | .cas => if old = cmp then v else old
  | .min => if so ≤ sv then old else v
  | .max => if sv ≤ so then old else v
  | .minu => min old v
  | .maxu => max old v
  | .and => old &&& v
  | .or => old ||| v
  | .xor => old ^^^ v

def LoadOp.size : LoadOp → Nat
  | .b | .bu => 1
  | .h | .hu => 2
  | .w | .wu => 4
  | .d => 8

def LoadOp.signed : LoadOp → Bool
  | .b | .h | .w => true
  | _ => false

def StoreOp.size : StoreOp → Nat
  | .b => 1 | .h => 2 | .w => 4 | .d => 8

/-- A loaded number of `size` bytes, extended to 64 bits. -/
def extendTo64 (size : Nat) (sx : Bool) (x : Nat) : Word :=
  if sx then BitVec.ofInt 64 (toSigned (8 * size) x) else BitVec.ofNat 64 x

/-- One draw of the stochastic-rounding generator: the draw and the new state (04_arithmetic.md R130). -/
def rngNext (s0 s1 : Word) : Word × Word × Word :=
  let x := s0 ^^^ (s0 <<< 23)
  let x := x ^^^ (x >>> 17)
  let x := x ^^^ s1 ^^^ (s1 >>> 26)
  (x + s1, s1, x)

/-! ## Exact numbers -/

/-- A number between decoding and rounding: `v * 2 ^ e` when finite. -/
inductive FNum where
  | nan
  | inf (neg : Bool)
  | fin (v : Int) (e : Int)
  deriving DecidableEq, Repr

def pow2i (k : Int) : Int := (2 : Int) ^ k.toNat

/-- `v` of `fin v e` at a smaller exponent `g`. -/
def scaleTo (v e g : Int) : Int := v * pow2i (e - g)

def FNum.add : FNum → FNum → FNum
  | .nan, _ => .nan
  | _, .nan => .nan
  | .inf a, .inf b => if a = b then .inf a else .nan
  | .inf a, .fin _ _ => .inf a
  | .fin _ _, .inf b => .inf b
  | .fin v e, .fin w f => let g := min e f; .fin (scaleTo v e g + scaleTo w f g) g

def FNum.mul : FNum → FNum → FNum
  | .nan, _ => .nan
  | _, .nan => .nan
  | .inf a, .inf b => .inf (a != b)
  | .inf a, .fin v _ => if v = 0 then .nan else .inf (a != decide (v < 0))
  | .fin v _, .inf b => if v = 0 then .nan else .inf (b != decide (v < 0))
  | .fin v e, .fin w f => .fin (v * w) (e + f)

def FNum.neg : FNum → FNum
  | .nan => .nan
  | .inf a => .inf (!a)
  | .fin v e => .fin (-v) e

/-- `a < b` for numbers that are not NaN. -/
def FNum.lt : FNum → FNum → Bool
  | .nan, _ => false
  | _, .nan => false
  | .inf a, .inf b => a && !b
  | .inf a, .fin _ _ => a
  | .fin _ _, .inf b => !b
  | .fin v e, .fin w f => let g := min e f; decide (scaleTo v e g < scaleTo w f g)

def FNum.isNan : FNum → Bool
  | .nan => true
  | _ => false

/-! ## Formats -/

/-- A floating-point format (R122, R123). `nan` is the canonical NaN, or +0 for a format without one (R128). -/
structure FltFmt where
  eb : Nat
  mb : Nat
  bias : Nat
  ieee : Bool        -- exponent all ones is infinity or NaN
  fn : Bool          -- all ones is NaN (E4M3)
  maxCode : Nat
  nan : Nat
  deriving DecidableEq, Repr

def fp32F : FltFmt := { eb := 8, mb := 23, bias := 127, ieee := true, fn := false, maxCode := 0x7F7FFFFF, nan := 0x7FC00000 }
def bf16F : FltFmt := { eb := 8, mb := 7, bias := 127, ieee := true, fn := false, maxCode := 0x7F7F, nan := 0x7FC0 }
def fp16F : FltFmt := { eb := 5, mb := 10, bias := 15, ieee := true, fn := false, maxCode := 0x7BFF, nan := 0x7E00 }
def e4m3F : FltFmt := { eb := 4, mb := 3, bias := 7, ieee := false, fn := true, maxCode := 0x7E, nan := 0x7F }
def e5m2F : FltFmt := { eb := 5, mb := 2, bias := 15, ieee := true, fn := false, maxCode := 0x7B, nan := 0x7E }
def e3m2F : FltFmt := { eb := 3, mb := 2, bias := 3, ieee := false, fn := false, maxCode := 0x1F, nan := 0 }
def e2m3F : FltFmt := { eb := 2, mb := 3, bias := 1, ieee := false, fn := false, maxCode := 0x1F, nan := 0 }
def e2m1F : FltFmt := { eb := 2, mb := 1, bias := 1, ieee := false, fn := false, maxCode := 0x7, nan := 0 }

/-- An element format: floating point, or an integer of `w` bits in units of 2 ^ `ue`. -/
inductive ElemFmt where
  | flt (f : FltFmt)
  | int (w : Nat) (ue : Int)
  deriving DecidableEq, Repr

/-- The element type of each operand format (R92, R124, R125). -/
def Fmt.elem : Fmt → ElemFmt
  | .fp32 => .flt fp32F
  | .bf16 => .flt bf16F
  | .fp16 => .flt fp16F
  | .e4m3 | .mx8e4 => .flt e4m3F
  | .e5m2 | .mx8e5 => .flt e5m2F
  | .mx6e3 => .flt e3m2F
  | .mx6e2 => .flt e2m3F
  | .mx4 | .hb4 => .flt e2m1F
  | .mxint8 => .int 8 (-6)
  | .int8 => .int 8 0
  | .int4 => .int 4 0

/-- Element width in bits. -/
def Fmt.width : Fmt → Nat
  | .fp32 => 32
  | .bf16 | .fp16 => 16
  | .e4m3 | .e5m2 | .mx8e4 | .mx8e5 | .mxint8 | .int8 => 8
  | .mx6e3 | .mx6e2 => 6
  | .mx4 | .int4 | .hb4 => 4

/-- The smallest exponent of a unit in the last place: that of the subnormals. -/
def FltFmt.emin (f : FltFmt) : Int := 1 - (f.bias : Int) - f.mb

/-- The value of an encoding (R122). -/
def fltDecode (f : FltFmt) (code : Nat) : FNum :=
  let neg := bit code (f.eb + f.mb)
  let ex := bits code (f.eb + f.mb - 1) f.mb
  let m := code % 2 ^ f.mb
  let sgn (x : Nat) : Int := if neg then -(x : Int) else x
  if f.ieee && ex == 2 ^ f.eb - 1 then (if m = 0 then .inf neg else .nan)
  else if f.fn && code % 2 ^ (f.eb + f.mb) == 2 ^ (f.eb + f.mb) - 1 then .nan
  else if ex = 0 then .fin (sgn m) f.emin
  else .fin (sgn (2 ^ f.mb + m)) (f.emin + (ex - 1 : Nat))

def elemDecode (f : ElemFmt) (code : Nat) : FNum :=
  match f with
  | .flt f => fltDecode f code
  | .int w ue => .fin (toSigned w code) ue

/-! ## Rounding -/

/-- How an instruction rounds: to nearest even, or stochastically with a 24-bit number (R127, R129). -/
inductive Rnd where
  | nearest
  | stoch (u : Nat)
  deriving DecidableEq, Repr

/-- The 24 bits of a draw that rounding uses (R129). -/
def Rnd.ofDraw (r : Word) : Rnd := .stoch (bits r.toNat 63 40)

/-- `m * 2 ^ e` as a multiple of `2 ^ u`: the quotient, rounded once. -/
def roundAt (rnd : Rnd) (m : Nat) (e u : Int) : Nat :=
  if u ≤ e then m * 2 ^ (e - u).toNat
  else
    let sh := (u - e).toNat
    let q := m / 2 ^ sh
    let r := m % 2 ^ sh
    match rnd with
    | .nearest => if 2 * r > 2 ^ sh ∨ (2 * r = 2 ^ sh ∧ q % 2 = 1) then q + 1 else q
    | .stoch k => if r * 2 ^ 24 / 2 ^ sh + k ≥ 2 ^ 24 then q + 1 else q

/-- The exponent of the unit in the last place of `m * 2 ^ e`, m not 0, bounded below by the subnormals (R129). -/
def ulpExp (f : FltFmt) (m : Nat) (e : Int) : Int := max (e + (Nat.log2 m : Int) - f.mb) f.emin

/-- The code of a magnitude as if the exponent range were unbounded: it passes `maxCode` exactly on overflow (R127). -/
def magCode (f : FltFmt) (rnd : Rnd) (m : Nat) (e : Int) : Nat :=
  if m = 0 then 0
  else
    let u := ulpExp f m e
    (u - f.emin).toNat * 2 ^ f.mb + roundAt rnd m e u

def signCode (f : FltFmt) (neg : Bool) (code : Nat) : Nat := if neg then 2 ^ (f.eb + f.mb) + code else code

/-- A finite overflow or an infinite input (R128). -/
def overflowCode (f : FltFmt) (inf neg : Bool) : Nat :=
  if inf && f.ieee then signCode f neg ((2 ^ f.eb - 1) * 2 ^ f.mb)
  else if inf && f.fn then f.nan
  else signCode f neg f.maxCode

/-- Rounding into a floating-point format; a zero result is +0 (R123). -/
def fltEncode (f : FltFmt) (inf : Bool) (rnd : Rnd) (x : FNum) : Nat :=
  match x with
  | .nan => f.nan
  | .inf neg => overflowCode f inf neg
  | .fin v e =>
    let c := magCode f rnd v.natAbs e
    if c = 0 then 0
    else if f.maxCode < c then overflowCode f inf (decide (v < 0))
    else signCode f (decide (v < 0)) c

/-- Whether rounding a finite number into FP32 overflows. -/
def fltOverflows (f : FltFmt) (x : FNum) : Bool :=
  match x with
  | .fin v e => decide (f.maxCode < magCode f .nearest v.natAbs e)
  | _ => false

/-- Saturation at the ends of a two's complement range. -/
def saturate (w : Nat) (v : Int) : Int :=
  if v < -(2 ^ (w - 1) : Int) then -(2 ^ (w - 1) : Int)
  else if (2 ^ (w - 1) : Int) - 1 < v then (2 ^ (w - 1) : Int) - 1
  else v

/-- The `w`-bit two's complement code of a number. -/
def intCode (w : Nat) (v : Int) : Nat := (v % (2 ^ w : Int)).toNat

/-- Rounding into an integer format of unit 2 ^ `ue`, saturating; NaN gives 0 (R128). -/
def intEncode (w : Nat) (ue : Int) (rnd : Rnd) (x : FNum) : Nat :=
  match x with
  | .nan => 0
  | .inf neg => intCode w (if neg then -(2 ^ (w - 1) : Int) else (2 ^ (w - 1) : Int) - 1)
  | .fin v e =>
    let q : Int := roundAt rnd v.natAbs e ue
    intCode w (saturate w (if v < 0 then -q else q))

def elemEncode (f : ElemFmt) (inf : Bool) (rnd : Rnd) (x : FNum) : Nat :=
  match f with
  | .flt f => fltEncode f inf rnd x
  | .int w ue => intEncode w ue rnd x

/-! ## FP32 arithmetic of vectors and tiles (R138) -/

def f32 (x : Word32) : FNum := fltDecode fp32F x.toNat

def to32 (x : FNum) : Word32 := BitVec.ofNat 32 (fltEncode fp32F true .nearest x)

def fadd32 (a b : Word32) : Word32 := to32 ((f32 a).add (f32 b))
def fsub32 (a b : Word32) : Word32 := to32 ((f32 a).add (f32 b).neg)
def fmul32 (a b : Word32) : Word32 := to32 ((f32 a).mul (f32 b))
def fma32 (a b c : Word32) : Word32 := to32 (((f32 a).mul (f32 b)).add (f32 c))

def canonNan : Word32 := 0x7FC00000

/-- The order of min and max: by value, −0 below +0. -/
def fOrdLt (a b : Word32) : Bool :=
  (f32 a).lt (f32 b) || (a == 0x80000000 && b == 0)

/-- The other operand when one is NaN; NaN when both are. -/
def fmin32 (a b : Word32) : Word32 :=
  match (f32 a).isNan, (f32 b).isNan with
  | true, true => canonNan
  | true, false => b
  | false, true => a
  | false, false => if fOrdLt b a then b else a

def fmax32 (a b : Word32) : Word32 :=
  match (f32 a).isNan, (f32 b).isNan with
  | true, true => canonNan
  | true, false => b
  | false, true => a
  | false, false => if fOrdLt a b then b else a

def mask32 (c : Bool) : Word32 := if c then 0xFFFFFFFF else 0

def fle32 (a b : Word32) : Bool := !(f32 a).isNan && !(f32 b).isNan && !(f32 b).lt (f32 a)

/-- One lane of VOP (03_curd_core.md R88); `d` is the destination lane before the instruction. -/
def vopLane (op : VOp) (a b d : Word32) : Word32 :=
  let n := b.toNat % 32
  match op with
  | .fadd => fadd32 a b
  | .fsub => fsub32 a b
  | .fmul => fmul32 a b
  | .fmin => fmin32 a b
  | .fmax => fmax32 a b
  | .fma => fma32 a b d
  | .fabs => a &&& 0x7FFFFFFF
  | .fneg => a ^^^ 0x80000000
  | .fcopysign => (a &&& 0x7FFFFFFF) ||| (b &&& 0x80000000)
  | .flt => mask32 ((f32 a).lt (f32 b))
  | .fle => mask32 (fle32 a b)
  | .feq => mask32 (fle32 a b && fle32 b a)
  | .iadd => a + b
  | .isub => a - b
  | .imul => a * b
  | .iand => a &&& b
  | .ior => a ||| b
  | .ixor => a ^^^ b
  | .ishl => a <<< n
  | .ishr => a >>> n
  | .isra => a.sshiftRight n
  | .imin => if a.slt b then a else b
  | .imax => if a.slt b then b else a
  | .sel => if d = 0 then b else a

/-- One level of the pairwise tree (R88). -/
def pairwise (f : Word32 → Word32 → Word32) : List Word32 → List Word32
  | a :: b :: r => f a b :: pairwise f r
  | r => r

/-- The pairwise tree over 32 lanes: 0+1, 2+3, … (R88). -/
def treeFold (f : Word32 → Word32 → Word32) (l : List Word32) : Word32 :=
  (pairwise f (pairwise f (pairwise f (pairwise f (pairwise f l))))).headD 0

def vredFn (op : RedOp) (l : List Word32) : Word32 :=
  match op with
  | .fsum => treeFold fadd32 l
  | .fmax => treeFold fmax32 l
  | .fmin => treeFold fmin32 l
  | .isum => treeFold (fun a b => a + b) l

/-! ## Conversions (R131-R133) -/

/-- Bits [lo + w − 1 : lo] of a little-endian bit string given as a number. -/
def takeBits (x lo w : Nat) : Nat := x / 2 ^ lo % 2 ^ w

def putBits (x lo w v : Nat) : Nat := x - takeBits x lo w * 2 ^ lo + v % 2 ^ w * 2 ^ lo

/-- A vector register as one little-endian number. -/
def lanesNat : List Word32 → Nat
  | [] => 0
  | x :: xs => x.toNat + 2 ^ 32 * lanesNat xs

def natLanes : Nat → Nat → List Word32
  | 0, _ => []
  | n + 1, x => BitVec.ofNat 32 x :: natLanes n (x / 2 ^ 32)

/-- Where a group starts, in bits of the register (R131, R132). -/
def groupBit (f : Fmt) (group : Nat) : Nat := group * 32 * f.width

/-- INT32 stands for fmt 0x0 when narrowing into it or widening from it (R132). -/
def vcvtElem (f : Fmt) : ElemFmt :=
  match f with
  | .fp32 => .int 32 0
  | f => f.elem

/-- Narrowing of lanes from lane `i` on, with the generator (R132, R130). -/
def narrowLanes (f : Fmt) (rnd inf : Bool) (m : FNum) (base : Nat) :
    List Word32 → Nat → Nat → Word × Word → Nat × (Word × Word)
  | [], _, acc, g => (acc, g)
  | x :: xs, i, acc, g =>
    let r := rngNext g.1 g.2
    let mode := if rnd then Rnd.ofDraw r.1 else .nearest
    let c := elemEncode (vcvtElem f) inf mode ((f32 x).mul m)
    narrowLanes f rnd inf m base xs (i + 1) (putBits acc (base + f.width * i) f.width c) (if rnd then r.2 else g)

/-- Widening of element `i` of a group (R132). -/
def widenLane (f : Fmt) (inf : Bool) (m : FNum) (src base i : Nat) : Word32 :=
  BitVec.ofNat 32 (fltEncode fp32F inf .nearest
    ((elemDecode (vcvtElem f) (takeBits src (base + f.width * i) f.width)).mul m))

/-- TST's conversion of one element; `lo` is the second tile's element in compensated mode (R133). -/
def tstElem (f : Fmt) (inf : Bool) (rnd : Rnd) (hi : Word32) (lo : Option Word32) : Nat :=
  match f, lo with
  | .int8, _ => intCode 8 (saturate 8 hi.toInt)
  | .fp32, none => hi.toNat
  | f, none => elemEncode f.elem inf rnd (f32 hi)
  | f, some l => elemEncode f.elem inf rnd ((f32 hi).add (f32 l))

/-- Bytes of an element TST stores (R92). -/
def Fmt.tstBytes : Fmt → Nat
  | .fp32 => 4
  | .bf16 | .fp16 => 2
  | _ => 1

/-- TST's elements in row-major order, with the generator: one draw per element when stochastic (R130). -/
def tstElems (f : Fmt) (inf rnd : Bool) : List (Word32 × Option Word32) → Word × Word → List Nat × (Word × Word)
  | [], g => ([], g)
  | x :: xs, g =>
    let r := rngNext g.1 g.2
    let c := tstElem f inf (if rnd then Rnd.ofDraw r.1 else .nearest) x.1 x.2
    let rest := tstElems f inf rnd xs (if rnd then r.2 else g)
    (c :: rest.1, rest.2)

/-! ## The dot product (R134-R137) -/

/-- Bytes of one line of an operand (R126). -/
def Fmt.lineBytes : Fmt → Nat
  | .bf16 | .fp16 => 128
  | .mx6e3 | .mx6e2 => 48
  | .mx4 | .int4 | .hb4 => 32
  | _ => 64

/-- Footprint of an operand (R92). -/
def Fmt.footprint : Fmt → Nat
  | .fp32 => 0
  | .bf16 | .fp16 => 2048
  | .e4m3 | .e5m2 | .int8 => 1024
  | .mx8e4 | .mx8e5 | .mxint8 => 1056
  | .mx6e3 | .mx6e2 => 800
  | .mx4 => 544
  | .int4 => 512
  | .hb4 => 608

def Fmt.isMx : Fmt → Bool
  | .mx8e4 | .mx8e5 | .mx6e3 | .mx6e2 | .mx4 | .mxint8 => true
  | _ => false

/-- Steps of a TMMA with operands in local data memory (R92, R94). -/
def Fmt.tmmaSteps : Fmt → Nat
  | .bf16 | .fp16 => 128
  | .mx4 | .int4 | .hb4 => 32
  | _ => 64

/-- The value of an E8M0 scale; 0xFF is NaN (R122, R124). -/
def e8m0 (x : Nat) : FNum := if x = 0xFF then .nan else .fin 1 ((x : Int) - 127)

/-- The block scale of element `n` of line `l` (R124, R125). -/
def blockScale (f : Fmt) (op : List Byte) (l n : Nat) : FNum :=
  if f.isMx then e8m0 (leAt op (16 * f.lineBytes + 2 * l + n / 32) 1)
  else if f = .hb4 then
    let h := n / 8
    let b := leAt op (512 + 4 * l + h / 2) 1
    .fin 1 (-((if h % 2 = 0 then b % 16 else b / 16 : Nat) : Int))
  else .fin 1 0

/-- The line scale of line `l` (R125, R126). -/
def lineScale (f : Fmt) (op : List Byte) (l : Nat) : FNum :=
  if f = .hb4 then fltDecode bf16F (leAt op (576 + 2 * l) 2) else .fin 1 0

/-- Element `n` of line `l`, with its block scale. -/
def operandElem (f : Fmt) (op : List Byte) (l n : Nat) : FNum :=
  (elemDecode f.elem (takeBits (leAt op (l * f.lineBytes) f.lineBytes) (f.width * n) f.width)).mul (blockScale f op l n)

/-- What dot16 returns (R134). -/
inductive Dot where
  | nan
  | inf (neg : Bool)
  | fin (w e : Int)
  deriving DecidableEq, Repr

/-- floor(log2) of the magnitude of a non-zero product. -/
def finTop : FNum → Option Int
  | .fin v e => if v = 0 then none else some (e + (Nat.log2 v.natAbs : Int))
  | _ => none

/-- A product truncated toward zero to a multiple of 2 ^ `q`, in those units (R134). -/
def truncAt (q : Int) : FNum → Int
  | .fin v e =>
    if q ≤ e then v * pow2i (e - q)
    else if v < 0 then -((v.natAbs / 2 ^ (q - e).toNat : Nat) : Int) else ((v.natAbs / 2 ^ (q - e).toNat : Nat) : Int)
  | _ => 0

/-- R134 over the sixteen products; an operand NaN makes its product NaN. -/
def dot16 (ps : List FNum) : Dot :=
  let neg := ps.any (fun p => p == .inf true)
  let pos := ps.any (fun p => p == .inf false)
  if ps.any FNum.isNan || (neg && pos) then .nan
  else if neg then .inf true
  else if pos then .inf false
  else
    match (ps.filterMap finTop).max? with
    | none => .fin 0 0
    | some t =>
      let q := t - 42
      .fin ((ps.map (truncAt q)).foldl (· + ·) 0) q

/-- The accumulator after one block: the high word and the low word (R135, R136). -/
def accAdd (comp inf : Bool) (s : Word32 × Word32) (d : Dot) (f : FNum) : Word32 × Word32 :=
  let sv := if comp then (f32 s.1).add (f32 s.2) else f32 s.1
  let lo := if comp then 0 else s.2
  let ieee (x : FNum) : Word32 × Word32 := (to32 (sv.add x), lo)
  match d with
  | .nan => ieee .nan
  | .inf neg => ieee (.inf neg)
  | .fin w e =>
    match sv with
    | .fin _ _ =>
      let x := sv.add ((FNum.fin w e).mul f)
      match x with
      | .nan => (canonNan, lo)
      | x =>
        let hi := BitVec.ofNat 32 (fltEncode fp32F inf .nearest x)
        if comp then
          match x with
          | .fin _ _ => if fltOverflows fp32F x then (hi, 0) else (hi, to32 (x.add (f32 hi).neg))
          | _ => (hi, 0)
        else (hi, s.2)
    | _ => ieee ((FNum.fin w e).mul f)

/-- One element of the tile (R93): four blocks of sixteen terms in order. -/
def tmmaElem (f : Fmt) (comp inf : Bool) (a b : List Byte) (i j : Nat) (s : Word32 × Word32) : Word32 × Word32 :=
  let ls := (lineScale f a i).mul (lineScale f b j)
  (List.range 4).foldl (fun s kb =>
    accAdd comp inf s
      (dot16 ((List.range 16).map (fun n => (operandElem f a i (16 * kb + n)).mul (operandElem f b j (16 * kb + n)))))
      ls) s

/-- The integer formats: exact sums, saturating additions (R137). -/
def tmmaIntElem (f : Fmt) (a b : List Byte) (i j : Nat) (s : Word32) : Word32 :=
  let el (op : List Byte) (l n : Nat) : Int :=
    toSigned f.width (takeBits (leAt op (l * f.lineBytes) f.lineBytes) (f.width * n) f.width)
  (List.range 4).foldl (fun (s : Word32) kb =>
    let p := ((List.range 16).map (fun n => el a i (16 * kb + n) * el b j (16 * kb + n))).foldl (· + ·) (0 : Int)
    BitVec.ofInt 32 (saturate 32 (s.toInt + p))) s

/-! ## Reductions in the fabric (R139) -/

/-- One pairwise combination of two carried values: FP32 and BF16 are carried as FP32. `op`: 0 sum, 1 maximum,
2 minimum; `typ`: 0 FP32, 1 BF16, 2 INT32 (08_collectives.md R242). -/
def combine (op typ : Nat) (inf : Bool) (a b : Word32) : Word32 :=
  if typ = 2 then
    (match op with
     | 0 => a + b
     | 1 => if a.slt b then b else a
     | _ => if a.slt b then a else b)
  else
    match op with
    | 0 => BitVec.ofNat 32 (fltEncode fp32F inf .nearest ((f32 a).add (f32 b)))
    | 1 => fmax32 a b
    | _ => fmin32 a b

/-- BF16 to the carried FP32, exactly: the sign of a zero is carried too, since R138 orders -0 below +0 (DEDUCED,
notes/assumptions/44.md). -/
def widenBf16 (x : Nat) : Word32 := if x % 2 ^ 15 = 0 then BitVec.ofNat 32 (x % 2 ^ 16 * 2 ^ 16) else to32 (fltDecode bf16F x)

/-- The final value of an element at the destination, as its bytes' number: a BF16 sum is rounded once, a maximum or
minimum is one of the widened values and exact in BF16. -/
def reduceOut (op typ : Nat) (inf : Bool) (x : Word32) : Nat :=
  if typ = 1 then (if op = 0 then fltEncode bf16F inf .nearest (f32 x) else x.toNat / 2 ^ 16) else x.toNat

/-! ## Check codes (15_faults_cave.md R460) -/

/-- A reflected CRC: the polynomial with its bits reversed. -/
def crcBitR (poly c : Nat) : Nat := if c % 2 = 1 then (c / 2) ^^^ poly else c / 2

def crcByteR (poly c : Nat) (b : Byte) : Nat :=
  (List.range 8).foldl (fun c _ => crcBitR poly c) (c ^^^ b.toNat)

/-- A CRC of width `w` that shifts left. -/
def crcBitL (w poly c : Nat) : Nat := if bit c (w - 1) then (2 * c % 2 ^ w) ^^^ poly else 2 * c % 2 ^ w

def crcByteL (w poly c : Nat) (b : Byte) : Nat :=
  (List.range 8).foldl (fun c _ => crcBitL w poly c) (c ^^^ (b.toNat * 2 ^ (w - 8)))

/-- Width of a polynomial's value; 0 for cv_poly 0 and the reserved codes. -/
def crcWidth (poly : Nat) : Nat :=
  match poly with
  | 1 | 2 => 32
  | 3 => 64
  | 4 => 16
  | _ => 0

def crcInit (poly : Nat) : Nat :=
  match poly with
  | 1 | 2 => 0xFFFFFFFF
  | 4 => 0xFFFF
  | _ => 0

def crcXorout (poly : Nat) : Nat :=
  match poly with
  | 1 | 2 => 0xFFFFFFFF
  | _ => 0

def crcStep (poly c : Nat) (b : Byte) : Nat :=
  match poly with
  | 1 => crcByteR 0x82F63B78 c b
  | 2 => crcByteR 0xEDB88320 c b
  | 3 => crcByteL 64 0x42F0E1EBA9EA3693 c b
  | 4 => crcByteL 16 0x1021 c b
  | _ => c

/-- A 64-bit fold value reduced to the width. -/
def crcFold (poly v : Nat) : Nat :=
  match crcWidth poly with
  | 64 => v % 2 ^ 64
  | 32 => bits v 31 0 ^^^ bits v 63 32
  | 16 => bits v 15 0 ^^^ bits v 31 16 ^^^ bits v 47 32 ^^^ bits v 63 48
  | _ => 0

/-- The value of a string under a polynomial with a fold value. -/
def crcValue (poly fold : Nat) (bs : List Byte) : Nat :=
  (bs.foldl (crcStep poly) (crcInit poly ^^^ crcFold poly fold)) ^^^ crcXorout poly

def crc32c (bs : List Byte) : Nat := crcValue 1 0 bs

end Sys2Proof.Machine
end

