-- ==== Sys2Proof/Machine/State.lean ====
section
/-! DEFINITION. The state of one Driras D9 as plain data, the reasons a step can stop, and the state after reset. A
field's comment names the rule that gives it. Sparse tables list what differs from the default named beside them. -/

namespace Sys2Proof.Machine

/-- Why a step stops with a fault. No meaning of this model ends in one: a command whose event cannot occur leaves the
state as it is (notes/assumptions/3.md). -/
inductive Fault where
  /-- A command named a unit the part does not have; raised by no meaning; safe. -/
  | noSuchUnit
  deriving DecidableEq, Repr

/-- Why a step is refused. -/
inductive Refusal where
  /-- A command without a meaning yet; raised by a refused arm of exec; safe. -/
  | notModelled (mnemonic : String)
  deriving DecidableEq, Repr

/-! ## Curds -/

/-- Curd states (03_curd_core.md R77). -/
inductive CState where
  | idle | run | wait | halted | faulted | stopped
  deriving DecidableEq, Repr

/-- What a context switch saves of a curd besides its memories (03_curd_core.md R71, R111-R119). -/
structure CurdRegs where
  pc : BitVec 12
  g : SMap Word          -- g1-g31, default 0
  v : SMap Word32        -- lane i of v_n at 32n + i, default 0
  acc : SMap Word32      -- element (i, j) of a_t at 256t + 16i + j, default 0
  kval : SMap Word32     -- default 0
  kcode : SMap Byte      -- default 0
  rng0 : Word
  rng1 : Word
  perf : SMap Word       -- CRD_PERF_0-7, default 0
  fault : Word           -- CRD_FAULT
  faultAddr : Word       -- CRD_FAULT_ADDR
  id : Word              -- CRD_ID
  ovf : Word             -- CRD_OVERFLOW
  deriving DecidableEq, Repr

/-- CRD_RNG0 resets to 1, everything else to 0 (R72, R115). -/
def CurdRegs.init : CurdRegs :=
  { pc := 0, g := [], v := [], acc := [], kval := [], kcode := [], rng0 := 1, rng1 := 0, perf := [], fault := 0,
    faultAddr := 0, id := 0, ovf := 0 }

/-- A tensor instruction with its captured addresses (03_curd_core.md R91-R96). -/
inductive TOp where
  | tmma (t fmt aAddr bAddr : Nat) (clr comp inf : Bool)
  | tld (t addr : Nat)
  | tst (t fmt addr : Nat) (rnd comp inf clr : Bool)
  | clear (t : Nat)
  | copy (t u : Nat)
  | add (t u : Nat)
  deriving DecidableEq, Repr

structure TQEntry where
  op : TOp
  pc : BitVec 12
  deriving DecidableEq, Repr

/-- Where a local address lands (02_programming_model.md R51, 05_local_memory.md R146). -/
inductive Place where
  | ldm (node slot off : Nat)
  | vs (node off : Nat)
  | ext (part off : Nat)      -- a hidden spill page: an allocation offset
  | window (off : Nat)        -- an overflow access the resolver has not accepted
  deriving DecidableEq, Repr

/-- What a load's response writes. -/
inductive LoadKind where
  | scalar (d size : Nat) (sx : Bool)
  | vec (v : Nat)
  | amo (d op : Nat) (wide : Bool) (operand compare : Word)
  deriving DecidableEq, Repr

/-- A load, VLD or AMO that has issued and waits for its response (R90, R121). -/
structure PLoad where
  ord : Nat
  pc : BitVec 12
  addr : Nat
  kind : LoadKind
  place : Place
  sent : Bool                 -- an external page: its line request has gone to the NI (05_local_memory.md R147)
  resp : Option (Option (List Byte))  -- what the reply to that request brought; some none = an error response
  deriving DecidableEq, Repr

/-- A store not yet performed (R76). -/
structure PStore where
  ord : Nat
  addr : Nat
  data : List Byte
  place : Place
  sent : Bool
  resp : Option Bool          -- the acknowledgement of an external page's request: whether it was performed
  deriving DecidableEq, Repr

/-- Flip-mask registers of a memory block (05_local_memory.md R152). -/
structure Flip where
  data : Word
  chk : Byte
  arm : Bool
  deriving DecidableEq, Repr

def Flip.init : Flip := { data := 0, chk := 0, arm := false }

/-- Error counts of a memory block (05_local_memory.md R153). -/
structure Ecc where
  corrected : Nat
  uncorrected : Nat
  lastWord : Nat
  deriving DecidableEq, Repr

def Ecc.init : Ecc := { corrected := 0, uncorrected := 0, lastWord := 0 }

structure Curd where
  st : CState
  r : CurdRegs
  ldm : Memory
  is : Memory
  ldmErr : SMap (BitVec 72)   -- word index to flipped bits: [63:0] data, [71:64] check; default 0
  isErr : SMap (BitVec 72)
  ldmEcc : Ecc
  isEcc : Ecc
  ldmFlip : Flip
  isFlip : Flip
  tq : List TQEntry           -- the head is the one the unit takes next
  loads : List PLoad
  stores : List PStore
  ord : Nat                   -- program-order number of the next access
  colls : Nat
  issued : SMap Nat           -- per counter: issued and not complete (R118), default 0
  waitK : Option Nat          -- counter of a blocked WAIT
  fenced : Bool
  stopping : Bool             -- told to stop, with issued instructions still to finish (R79)
  clock : Nat                 -- steps spent in RUN or WAIT, against which `ready` is measured (R75)
  ready : SMap Nat            -- g_n at n, v_n at 32 + n: the step at which a fixed-latency result may be used, default 0
  deriving DecidableEq, Repr

def Curd.init : Curd :=
  { st := .idle, r := CurdRegs.init, ldm := [], is := [], ldmErr := [], isErr := [], ldmEcc := Ecc.init,
    isEcc := Ecc.init, ldmFlip := Flip.init, isFlip := Flip.init, tq := [], loads := [], stores := [], ord := 0,
    colls := 0, issued := [], waitK := none, fenced := false, stopping := false, clock := 0, ready := [] }

/-! ## Vats -/

inductive VatState where
  | active | spare | fenced | fusedOff
  deriving DecidableEq, Repr

/-- A queued overflow access of the resolver (05_local_memory.md R147): its curd and order number. -/
structure RAccess where
  slot : Nat
  ord : Nat
  store : Bool
  deriving DecidableEq, Repr

/-- A DMA descriptor with its issuer (05_local_memory.md R158, R159). -/
structure DmaDesc where
  slot : Nat
  k : Nat
  src : Nat
  dst : Nat
  len : Nat
  row : Nat
  srcStride : Int
  dstStride : Int
  ctl : Nat
  cvSeq : Nat
  cvOut : Nat
  done : Nat
  rsv : Nat
  deriving DecidableEq, Repr

/-- A segment in staging (R157, R164, R166): bytes [lo, hi) of the transfer, in bytes [at_, at_ + room) of the staging
memory. -/
structure DmaSeg where
  lo : Nat
  hi : Nat
  at_ : Nat
  room : Nat
  todo : List (Nat × Nat)         -- write packets not yet issued: (transfer offset, length)
  data : List (Nat × List Byte)   -- bytes read, runs by transfer offset
  toRead : Nat                    -- bytes not yet read
  toWrite : Nat                   -- bytes whose writes are not yet performed
  toTake : Nat                    -- bytes sent to the check-value unit and not yet accepted
  deriving DecidableEq, Repr

/-- A descriptor being moved (R160-R166). -/
structure DmaRun where
  id : Nat
  d : DmaDesc
  off : Nat            -- bytes whose reads have issued
  rd : Nat             -- reads outstanding
  wr : Nat             -- writes outstanding
  segs : List DmaSeg   -- segments that hold staging space, oldest first
  landed : Nat         -- bytes written and performed
  code : Nat           -- first error code, 0 none
  stopped : Bool       -- no further segment starts
  deriving DecidableEq, Repr

structure DmaCh where
  queue : List DmaDesc
  runs : List DmaRun
  lastCode : Nat
  bytes : Nat
  nextId : Nat
  deriving DecidableEq, Repr

def DmaCh.init : DmaCh := { queue := [], runs := [], lastCode := 0, bytes := 0, nextId := 0 }

/-- The vat's broadcast registers (16_bringup.md R476). -/
structure Bcast where
  armed : Bool
  nchunksM1 : Nat
  crcFail : Nat
  got : SMap Bool       -- chunk n of slot s at 512s + n, default false
  deriving DecidableEq, Repr

def Bcast.init : Bcast := { armed := false, nchunksM1 := 0, crcFail := 0, got := [] }

structure Vat where
  lst : VatState
  lnum : Nat            -- logical number within the quadrant
  remap : SMap Nat      -- logical curd to spare slot; default 0 = its own slot
  vs : Memory
  vsErr : SMap (BitVec 72)
  vsEcc : Ecc
  vsFlip : Flip
  reserve : Nat         -- vat-store reservation, pages
  base : SMap Nat       -- first spill page of a logical curd, default 0
  rq : List RAccess
  dma : SMap DmaCh      -- default DmaCh.init
  bc : Bcast
  dmaStage : Nat        -- DMA_STAGE in force
  deriving DecidableEq, Repr

/-- The default is a fused-off vat, so that only the part's own vats are listed. -/
def Vat.init : Vat :=
  { lst := .fusedOff, lnum := 0, remap := [], vs := [], vsErr := [], vsEcc := Ecc.init, vsFlip := Flip.init,
    reserve := 0, base := [], rq := [], dma := [], bc := Bcast.init, dmaStage := 0x55 }

/-! ## Network interfaces -/

/-- What the reply to a tag completes. -/
inductive TagOp where
  | farGet (slot k dst len : Nat)
  | farPut (slot k : Nat)
  | farAmo (slot k dst len : Nat)
  | sig (slot k : Nat)
  | fence (slot k : Nat)
  | dmaRd (chan run off len : Nat)
  | dmaWr (chan run off len : Nat)
  | dmaSig (chan : Nat)
  | coll (seq : Nat)
  | cultRd (off : Nat)
  | cultWr
  | cultCrc
  | hdma (engine off len : Nat) -- a line of a host DMA descriptor (11_host_mailboxes.md R340)
  | win (id off len : Nat)      -- a line of a window request (R335)
  | ovf (slot ord len : Nat)    -- an overflow access's line request (05_local_memory.md R147)
  | torn                       -- its context is being torn down: the reply completes nothing (14_recovery.md R414)
  deriving DecidableEq, Repr

inductive TagSt where
  | waiting      -- accepted from its engine, not yet injected
  | sent
  | parked       -- timer ran out while the slot is drained (R291)
  | quarantine   -- complete, not reusable before H (R231)
  deriving DecidableEq, Repr

structure TagRec where
  op : TagOp
  flit : Flit           -- the request as it leaves; path and link are written when a copy is injected
  ga : Nat              -- global address
  ctx : Nat             -- the requester's context id and generation
  gen : Nat
  src : Nat             -- source of R59: 0-67 curd slot, 100 + n DMA channel, 200 reduction unit
  idx : Nat             -- acceptance number
  ord : Nat             -- a curd's access number when it issued
  dest : Nat            -- destination of R59
  chip : Option Nat     -- destination chip of an xchip request
  seq : Nat             -- its sequence to that chip
  st : TagSt
  copies : Nat
  limit : Nat           -- reissues allowed when its last copy was injected (07_links.md R227)
  deriving DecidableEq, Repr

/-- Per destination chip (07_links.md R225, R226). -/
structure ChipRec where
  seq : Nat
  outst : Nat
  allow : Nat
  markAt : Option Nat
  credit : Nat          -- half bytes the limiter still allows
  creditAt : Nat
  deriving DecidableEq, Repr

def ChipRec.init : ChipRec :=
  { seq := 0, outst := 0, allow := 64, markAt := none, credit := 16384, creditAt := 0 }

/-- A flow entry of the duplicate filter (07_links.md R229). -/
structure Flow where
  key : Nat
  gen : Nat
  top : Nat
  win : BitVec 256      -- bit i set = sequence top - i seen
  time : Nat
  deriving DecidableEq, Repr

/-- A CULT update waiting for its check value (03_curd_core.md R110). -/
structure CultOp where
  slot : Nat
  k : Nat
  ctx : Nat
  record : Nat         -- segment-space offset of the record
  base : Nat           -- its offset in the partition's allocation
  entry : List Byte    -- the image read at issue
  phase : Nat          -- 0 waiting, 1 reading both entries, 2 writing the entry, 3 writing its crc
  got : Memory         -- the record as read
  wait : Nat           -- accesses outstanding
  pick : Nat           -- the entry chosen: 0x000 or 0x100
  crc : Option Nat     -- as the check-value unit gave it
  arr : Nat            -- its arrival number among the rank's updates
  code : Nat
  deriving DecidableEq, Repr

structure NI where
  outA : List Flit
  outB : List Flit
  reqBuf : List Flit
  repBuf : List Flit
  heldReqs : List Flit      -- requests held for want of a flow entry (R229)
  tags : SMap (Option TagRec)   -- default none
  accepts : Nat                 -- operations accepted from the engines
  failRec : List (Nat × Nat)    -- (source, destination) with a failure not yet reported
  allow : Nat
  hist : BitVec 64              -- plane-A injections of the last 64 steps
  starveA : Bool
  starveB : Bool
  marks : Nat
  refused : Nat
  progress : Nat
  chips : SMap ChipRec          -- default ChipRec.init
  flows : List Flow
  detour : SMap (BitVec 32)
  routeCfg : BitVec 64
  slices : SMap (BitVec 256)
  exc : SMap (BitVec 64)        -- NI_EXC_s_n at 256s + n
  stop : BitVec 16
  reissued : Nat
  timeouts : Nat
  duplicates : Nat
  heldCount : Nat
  cult : List CultOp
  linkKeys : SMap (BitVec 256)  -- per slot; default 0 = none
  seqStop : List Nat            -- chips whose sequence is exhausted (R235)
  deriving DecidableEq, Repr

def NI.init : NI :=
  { outA := [], outB := [], reqBuf := [], repBuf := [], heldReqs := [], tags := [], accepts := 0, failRec := [],
    allow := 64, hist := 0, starveA := false, starveB := false, marks := 0, refused := 0, progress := 0, chips := [],
    flows := [], detour := [], routeCfg := 0, slices := [], exc := [], stop := 0, reissued := 0, timeouts := 0,
    duplicates := 0, heldCount := 0, cult := [], linkKeys := [], seqStop := [] }

/-! ## Mesh -/

/-- One plane of an edge node: flits arrived and not yet taken, to be returned, and offered (01_architecture.md R15). -/
structure Edge where
  arr : List Flit
  ret : List Flit
  out : List Flit
  deriving DecidableEq, Repr

def Edge.init : Edge := { arr := [], ret := [], out := [] }

structure Mesh where
  inq : SMap (List Flit)        -- flits arriving at router port; key ((plane * 288 + node) * 4 + port), default []
  edges : SMap Edge             -- key 2 * node + plane, default Edge.init
  dir : SMap (Option (BitVec 4))  -- direction masks written; key (plane * 288 + node) * 512 + dst, default none
  groups : SMap (BitVec 320)    -- key (plane * 288 + node) * 256 + g, default 0
  deflected : SMap Nat          -- key plane * 288 + node, default 0
  marked : SMap Nat
  fenced : SMap Bool            -- by plane * 288 + node, default false
  toFence : List Nat            -- routers to be fenced on the quiesced mesh, by plane * 288 + node (06_mesh.md R198)
  failed : SMap Bool            -- by plane * 288 + node, default false
  edgeOff : List Nat            -- fenced host attachments and management gateway (01_architecture.md R24)
  toGroups : List (Nat × BitVec 320)  -- group entries to be written on the quiesced mesh (R198)
  stopA : Bool
  stopB : Bool
  deriving DecidableEq, Repr

def Mesh.init : Mesh :=
  { inq := [], edges := [], dir := [], groups := [], deflected := [], marked := [], fenced := [], toFence := [],
    failed := [], edgeOff := [], toGroups := [], stopA := false, stopB := false }

/-! ## Fabric ports -/

structure DepEnt where
  cls : Nat            -- 0, 1, 2 = M
  entering : Bool
  flit : Flit
  deriving DecidableEq, Repr

/-- What a receiver knows of a physical lane (07_links.md R205): codewords taken, the numbers of those of the last 65,536 that were
uncorrectable, and how many in a row have been lost. -/
structure LaneRec where
  seen : Nat
  bad : List Nat
  lost : Nat
  deriving DecidableEq, Repr

def LaneRec.init : LaneRec := { seen := 0, bad := [], lost := 0 }

/-- A codeword put on a lane (07_links.md R207, R208). -/
structure TxWord where
  lane : Nat
  first : Nat
  cseq : Nat
  stream : List Byte
  deriving DecidableEq, Repr

structure Port where
  ctl : Nat                -- PORT_CTL in force
  st : Nat                 -- 0 DOWN, 1 TRAINING, 2 UP, 3 absent
  txW : Nat
  rxW : Nat
  txLanes : List Nat       -- the physical lane of each logical lane
  rxLanes : List Nat
  peerChip : Nat
  peerPort : Nat
  peerValid : Bool
  badTx : Nat              -- transmit lanes judged failed, by the peer's report
  badRx : Nat
  newMap : Option (List Nat × Nat)   -- lane map announced and the codeword sequence it takes effect at
  rxMap : Option (List Nat × Nat)    -- the same as the peer has announced it
  lanes : SMap LaneRec     -- receive side, per physical lane, default LaneRec.init
  corrected : Nat
  uncorrectable : Nat
  frames : Nat
  packets : Nat
  inb : List (Nat × Flit)  -- input buffer, with class
  dep : List DepEnt
  cS : SMap Nat
  cF : SMap Nat
  cR : SMap Nat
  cG : SMap Nat
  rot : Nat                -- class whose freed count the next packet frame carries
  turn : Nat               -- of classes 0 and 1, the one to send from next
  rxCw : List Codeword     -- codewords ahead of order
  rxCount : Nat            -- codewords taken in order
  rxBytes : List Byte
  rxSync : Bool            -- false while looking for the next frame start
  tx : List TxWord         -- codewords put on the link
  txRest : List Byte       -- stream bytes for the next one
  txCw : Nat               -- codewords sent
  pkts : Nat
  combined : Nat
  resends : Nat
  collDup : Nat
  bufSize : Nat            -- COLL_BUF in force
  fenced : Bool
  deriving DecidableEq, Repr

def Port.init : Port :=
  { ctl := 0x403, st := 0, txW := 0, rxW := 0, txLanes := [], rxLanes := [], peerChip := 0, peerPort := 0,
    peerValid := false, badTx := 0, badRx := 0, newMap := none, rxMap := none, lanes := [], corrected := 0, uncorrectable := 0, frames := 0,
    packets := 0, inb := [], dep := [], cS := [], cF := [], cR := [], cG := [], rot := 0, turn := 0, rxCw := [], rxCount := 0,
    rxBytes := [], rxSync := true, tx := [], txRest := [], txCw := 0, pkts := 0, combined := 0, resends := 0, collDup := 0,
    bufSize := 5, fenced := false }

/-! ## Collectives -/

/-- A collective descriptor (08_collectives.md R242). -/
structure CollDesc where
  op : Nat
  typ : Nat
  flags : Nat
  count : Nat
  src : Nat
  dst : Nat
  root : Nat
  rowlen : Nat
  table : Nat
  index : Nat
  origin : Nat
  rsv : Nat
  raw : List Byte
  deriving DecidableEq, Repr

/-- What a chip keeps of a collective issued here, for the chunks of it that its engines combine (R249-R251). -/
structure CollKind where
  op : Nat
  typ : Nat
  inf : Bool
  cores : Bool
  deriving DecidableEq, Repr

def CollKind.init : CollKind := { op := 0, typ := 0, inf := false, cores := false }

/-- A chunk slot of a tree node (R252). A position is the number 2^27 * sequence + chunk; `tree` is the entry's number
in the tree table, 16 h + t. -/
structure CollSlot where
  tree : Nat
  pos : Nat
  data : List Word32
  more : List (List Word32)    -- contributions taken before the collective was issued on this chip
  got : List Nat           -- contributors: port p, 32 + partition index, or 64 + vat index
  expect : Nat
  complete : Bool
  upSent : Bool
  upCred : Bool
  downSent : Bool
  deriving DecidableEq, Repr

/-- Tokens of one barrier of a collective at an engine (R254, R258). -/
structure CollTok where
  tree : Nat
  seq : Nat
  bar : Nat
  got : List Nat
  digest : Option Nat
  bad : Bool
  sentUp : Bool
  release : Option Nat
  deriving DecidableEq, Repr

/-- A COLL packet sent and not credited (R253): to port p, to 100 = the chip's engine, to 1000 + a vat's node, or to
2000 = a rank reached over its own path. -/
structure CollSent where
  dst : Nat
  kind : Nat
  tree : Nat
  pos : Nat
  tries : Nat
  flit : Flit
  deriving DecidableEq, Repr

/-- A participant of a collective: a curd, its counter, its addresses. -/
structure CollPart where
  core : Nat
  node : Nat
  slot : Nat
  k : Nat
  d : CollDesc
  ok : Bool
  deriving DecidableEq, Repr

/-- A collective of a rank, held at its partition's first vat (R244-R261). -/
structure CollOp where
  ctx : Nat
  seq : Nat
  numbered : Bool          -- core 0 has issued it
  d : CollDesc
  parts : List CollPart
  ok : Bool
  bar : Nat                -- the barrier under way, 0 = arrival
  arrived : Bool           -- its ARRIVE has been sent
  release : Option Nat     -- code of the arrival barrier's RELEASE
  phase : Nat              -- 0 arrival, 1 counts, 2 offsets, 3 data, 4 completion barrier (R258)
  next : SMap Nat          -- per vat of the partition: the chunk it may read next, default 0
  reads : Nat              -- chunks read by the rank's vats
  item : Nat               -- 0x05-0x08: the item being written
  piece : Nat              -- its bytes already sent
  firsts : SMap Nat        -- 0x06: first source rows read before the offsets arrive, default 0
  upOut : Nat              -- UP chunks sent and not credited
  wrote : List Nat         -- result chunks written: 64 * chunk + vat index
  wrOut : Nat              -- WRs of R258 outstanding
  code : Nat               -- first code a write of the collective ended with, 0 none
  failing : Bool
  dirty : Bool             -- some dst byte written
  timedOut : Bool          -- arrive_limit has passed before RELEASE (R255)
  deriving DecidableEq, Repr

/-- A tree node: a port engine (0x140 + p) or a partition's first vat (its node). -/
structure CollUnit where
  inq : List Flit          -- COLL and COLLR packets an engine has taken
  slots : List CollSlot
  toks : List CollTok
  sent : List CollSent
  low : SMap Nat           -- per tree: lowest position not freed, default 0
  freed : List (Nat × Nat) -- (tree, position) freed above the low position
  peerLow : SMap Nat       -- parent's last reported low, per tree, default 0
  ops : List CollOp
  infos : SMap (Nat × Nat) -- per sequence: chunks of a segment, segments; default none issued (0, 0)
  known : Nat              -- sequences below this have been issued here
  kinds : SMap CollKind    -- per sequence, default CollKind.init
  tmp : Nat                -- the key of the next collective that core 0 has yet to number
  chunks : Nat             -- RU_CHUNKS
  seen : Nat               -- RU_CHUNKS at the last hang sample (14_recovery.md R409)
  still : Nat              -- hang samples since RU_CHUNKS moved
  deriving DecidableEq, Repr

def CollUnit.init : CollUnit :=
  { inq := [], slots := [], toks := [], sent := [], low := [], freed := [], peerLow := [], ops := [], infos := [],
    known := 0, kinds := [], tmp := 0, chunks := 0, seen := 0, still := 0 }

/-! ## External memory -/

/-- A page or band move that brine is doing (10_memory.md R324). -/
structure BandMove where
  band : Nat
  spare : Nat
  cursor : Nat
  deriving DecidableEq, Repr

structure Chan where
  st : Nat                 -- 0 absent, 1 IN_SERVICE, 2 LEFT_OUT, 3 LOST
  rate : Nat
  cap : Nat                -- 0 none, 1-4 = 32, 64, 128, 256 GiB
  ranks : Nat              -- 0 = 1, 1 = 2, 2 = 4
  retired : Nat            -- mask of ranks
  failedDev : List Nat     -- rank * 20 + device
  remap : SMap Nat         -- channel page to spare page + 1, default 0
  remapUsed : Nat
  spareBands : Nat         -- free spare bands
  bandMap : SMap Nat       -- band as allocated to stored band + 1, default 0
  bands : List Nat         -- bands in use by granules
  move : Option BandMove
  moves : List (Nat × Nat) -- moves still to do
  patrol : Nat             -- line address count of the next patrol read
  devHits : List (Nat × Nat × Nat)  -- (device, line, operating second) of corrections within the window
  pageHits : SMap Nat      -- corrected lines per channel page, default 0
  errC : Nat
  errU : Nat
  errF : Nat
  errI : Nat
  passes : Nat
  inq : List Flit
  heldReqs : List Flit
  flows : List Flow
  retraining : Bool
  serial : Nat             -- module serial found at S3
  deriving DecidableEq, Repr

def Chan.init : Chan :=
  { st := 0, rate := 0, cap := 0, ranks := 0, retired := 0, failedDev := [], remap := [], remapUsed := 0,
    spareBands := 0, bandMap := [], bands := [], move := none, moves := [], patrol := 0, devHits := [], pageHits := [],
    errC := 0, errU := 0, errF := 0, errI := 0, passes := 0, inq := [],
    heldReqs := [], flows := [], retraining := false, serial := 0 }

/-- A keep record (10_memory.md R319). -/
structure KeepRec where
  sliceId : Nat
  rank : Nat
  seg : Nat
  base : Nat
  pages : Nat
  part : Nat
  page : Nat
  deriving DecidableEq, Repr

structure ExtMem where
  mem : Memory             -- by line address * 128 + byte, unlisted 0
  lineErr : SMap (List (Nat × Nat))  -- line address to (device, codeword mask); default none
  badFold : SMap Bool      -- confidential line whose fold fails, default false
  badMac : SMap Bool       -- confidential line whose MAC fails, default false
  chans : SMap Chan        -- default Chan.init
  wide : List Nat          -- channel set of WIDE, fixed at S3 of the power-on
  keeps : List KeepRec
  cfg : Nat                -- MEM_CFG in force
  deriving DecidableEq, Repr

/-- MEM_CFG resets to patrol_h 24, scrub_pct 50, dev_fail 16, page_ce 4, auto_retire 1 (R326). -/
def memCfgReset : Nat := 24 + 50 * 2 ^ 8 + 16 * 2 ^ 16 + 4 * 2 ^ 24 + 2 ^ 28

def ExtMem.init : ExtMem :=
  { mem := [], lineErr := [], badFold := [], badMac := [], chans := [], wide := [], keeps := [], cfg := memCfgReset }

/-! ## Partitions and contexts -/

/-- One granule: a band on each channel of the set (10_memory.md R307). -/
structure Granule where
  bands : List (Nat × Nat)   -- (channel, band), in channel-set order
  lost : Bool
  deriving DecidableEq, Repr

/-- A Rennet command or a page grant that waits for brine (10_memory.md R319). -/
inductive Grant where
  | ctxCreate (func chan ctx : Nat)
  | memMap (func chan ctx seg : Nat) (flags base pages page : Nat)
  deriving DecidableEq, Repr

structure Part where
  st : Nat               -- 0 FREE, 1 READY, 2 SCRUBBING, 3 RESETTING
  psize : Nat            -- 0-4 = 4, 8, 16, 32, 64 vats
  local_ : Bool          -- LOCAL interleave
  conf : Bool
  home : Nat
  first : Nat
  grans : List Granule
  resident : Option Nat  -- slot
  switchTo : Option Nat  -- a context switch in progress, to this slot
  destroying : Bool      -- the scrub ends in FREE
  grants : List Grant
  fewer : Bool           -- runs with fewer vats
  keyNo : Nat            -- number of the partition's key pairs, 0 = none
  resetWait : Option (Nat × Nat)  -- requester of a partition reset
  scrub : Bool           -- a scrub is in progress (10_memory.md R320)
  fenceAfter : List Nat  -- units to fence once the contexts are reset: 128 * node + unit
  deriving DecidableEq, Repr

def Part.init : Part :=
  { st := 0, psize := 0, local_ := false, conf := false, home := 0, first := 0, grans := [], resident := none,
    switchTo := none, destroying := false, grants := [], fewer := false, keyNo := 0, resetWait := none, scrub := false,
    fenceAfter := [] }

/-- A segment register (02_programming_model.md R54), bases and pages in 4 KiB pages. -/
structure Seg where
  valid : Bool
  rd : Bool
  wr : Bool
  keep : Bool
  base : Nat
  pages : Nat
  page : Nat
  deriving DecidableEq, Repr

def Seg.init : Seg := { valid := false, rd := false, wr := false, keep := false, base := 0, pages := 0, page := 0 }

inductive ProgSt where
  | none_ | loaded | started | complete
  deriving DecidableEq, Repr

/-- What a save area holds of one curd (03_curd_core.md R119). -/
structure SavedCurd where
  st : CState
  r : CurdRegs
  ldm : Memory
  is : Memory
  deriving DecidableEq, Repr

def SavedCurd.init : SavedCurd := { st := .idle, r := CurdRegs.init, ldm := [], is := [] }

/-- What a save area holds of a context (02_programming_model.md R66). -/
structure Saved where
  curds : SMap SavedCurd   -- by core index, default SavedCurd.init
  vs : SMap Memory         -- by vat of the partition
  dma : SMap DmaCh         -- by 4 * vat + channel
  progress : SMap Nat      -- NI_PROGRESS by vat
  chunks : SMap Nat        -- RU_CHUNKS by vat
  fails : SMap (List (Nat × Nat))  -- failure records of R62 by vat, default none
  colls : List CollOp      -- collectives issued and not begun, their participants by vat and curd of the partition
  deriving DecidableEq, Repr

def Saved.init : Saved := { curds := [], vs := [], dma := [], progress := [], chunks := [], fails := [], colls := [] }

/-- A teardown in progress (14_recovery.md R414). -/
structure Teardown where
  cause : Nat              -- fault kind, 0 a command
  waitUnits : List Nat     -- engines still to confirm: 128 * node + unit (15_faults_cave.md R439)
  resume : Bool
  clear : Bool             -- CTX_RESET mode 0, no resume
  req : Option (Nat × Nat) -- mailbox to answer
  level : Nat              -- level reached
  destroy : Bool           -- the slice is being destroyed
  deriving DecidableEq, Repr

structure Ctx where
  live : Bool
  gen : Nat
  sliceId : Nat
  rank : Nat
  segs : SMap Seg          -- default Seg.init
  save : Option (Nat × Nat)    -- save area: first page, pages
  spill : Option (Nat × Nat)   -- hidden spill run: first page, pages
  spillOf : SMap Nat       -- first spill page of a core within the run, default 0
  prog : ProgSt
  loaded : Option (List Byte)  -- the image's header and section table, as loaded
  digest : BitVec 256      -- program digest, 0 = none
  culture : Option Nat
  saved : Option Saved
  sliceMs : Nat            -- time slice, 0 = out of rotation
  collSeq : Nat
  tear : Option Teardown
  lastProg : Nat           -- samples since the context last progressed
  lastSum : Nat            -- sum of its progress counters at the last sample
  lastStep : Nat           -- step of the last resume
  resumes : Nat            -- resumes in a row at that step
  waitSig : List (Nat × Nat)   -- signals waiting for a switch: core, counter
  linkRound : Nat
  cults : Nat              -- culture updates issued by the rank (03_curd_core.md R110)
  barred : List Nat        -- steps whose reload has failed (14_recovery.md R424)
  cut : Bool               -- a chip reset has ended its run; it resumes at S8
  deriving DecidableEq, Repr

def Ctx.init : Ctx :=
  { live := false, gen := 0, sliceId := 0, rank := 0, segs := [], save := none, spill := none, spillOf := [],
    prog := .none_, loaded := none, digest := 0, culture := none, saved := none, sliceMs := 0, collSeq := 0,
    tear := none, lastProg := 0, lastSum := 0, lastStep := 0, resumes := 0, waitSig := [],
    linkRound := 0, cults := 0, barred := [], cut := false }

/-! ## The fabric manager -/

/-- Where a management message came from: a chip, over a path, or a port, in one hop. -/
inductive FmPeer where
  | chip (c : Nat)
  | port (p : Nat)
  deriving DecidableEq, Repr

/-- A management message sent (09_fabric_manager.md R300, 14_recovery.md R421-R424). Those of the manager and to it carry their
sender's epoch (R269); one that names a port is a one-hop packet. -/
inductive FmMsg where
  | beacon (port : Nat) (k1 k2 : Option ElKey) (epoch : Nat)
  | heartbeat (dst epoch journal : Nat)
  | stateSync (dst epoch : Nat) (st : FmState) (full : Bool)
  | takeover (dst epoch chip : Nat)
  | probe (port : Nat) (n : Neighbour)
  | probeReply (port : Nat) (n : Neighbour)
  | neighbours (port epoch : Nat) (m : ModReport)
  | assign (port epoch serial chip : Nat) (extents : List Nat) (ringMask : Nat)
  | portEvent (dst epoch port st width : Nat)
  | drain (dst epoch sliceId slot : Nat)
  | drainReport (dst epoch sliceId : Nat) (idle : Bool) (written : List (Nat × Bool)) (parked : Nat)
  | install (dst : Nat) (m : InstallMsg)
  | installDone (dst epoch sliceId : Nat)
  | resume (dst epoch sliceId slot : Nat) (outcomes : List (Nat × Nat))
  | alive (dst epoch : Nat)
  | request (dst epoch ref : Nat) (req : List Byte)
  | answer (dst epoch ref : Nat) (rsp : List Byte)
  | takeback (dst epoch : Nat) (key : ElKey)
  | sliceAbort (port : Nat) (m : AbortMsg)
  | abortTo (dst : Nat) (m : AbortMsg)
  | teardownReport (dst sliceId : Nat) (ranks : List RankReport)
  | restart (dst epoch sliceId gen : Nat) (step : Option Nat)
  | mgtr (dst : FmPeer) (epoch code : Nat)
  deriving DecidableEq, Repr

structure FM where
  cfg : Nat                -- FM_CFG in force
  shape : Nat              -- FM_SHAPE in force
  role : Nat
  epoch : Nat
  mgr : Nat
  placed : Bool
  chip : Nat
  extents : List Nat
  ringMask : Nat
  key1 : Option ElKey
  key2 : Option ElKey
  relay : Nat
  unmanaged : Bool         -- an election ended with no candidate
  neigh : List Neighbour
  stored : Option Nat      -- stored coordinates
  control : Bool
  acks : List Nat          -- placed modules whose TAKEOVER is not acknowledged
  standby : Option Nat
  journal : Nat
  mirror : Option FmState  -- the primary's state, as its standby holds it
  syncWait : Bool
  modules : List ModRec
  slices : List SliceRec
  listed : List (Nat × Nat)    -- failed and held-out links: chip, port
  nextSlice : Nat
  waiting : List WaitReq
  out : List FmMsg
  mgtTags : List Nat
  relays : SMap Nat        -- the port through which each module's table came, by serial
  silent : List Nat        -- chips treated as failed of which no module is known
  seenAborts : List (Nat × Nat)  -- (slice_id, gen) already acted on
  handover : Option Nat    -- chip that takes control back
  held : List FmMsg        -- sent once the standby has acknowledged the decision (R272)
  draining : List (Nat × Nat)  -- slices and slots drained here whose report is still to be sent (R292)
  installWait : List Nat   -- slices whose INSTALL_DONE waits for group tables to be written (R293, 06_mesh.md R198)
  deriving DecidableEq, Repr

/-- FM_CFG at a power cycle with an empty store: eligible, prio 0x8000, takeback, drain_us 2,000 (R298). -/
def fmCfgReset : Nat := 1 + 0x8000 * 2 + 2 ^ 17 + 2000 * 2 ^ 18

def FM.init : FM :=
  { cfg := fmCfgReset, shape := 0, role := 0, epoch := 0, mgr := 0, placed := false, chip := 0, extents := [1, 1, 1, 1],
    ringMask := 0, key1 := none, key2 := none, relay := 0, unmanaged := false, neigh := [], stored := none,
    control := false, acks := [], standby := none, journal := 0, mirror := none, syncWait := false, modules := [],
    slices := [], listed := [], nextSlice := 1, waiting := [], out := [], mgtTags := [], relays := [], silent := [],
    seenAborts := [], handover := none, held := [], draining := [], installWait := [] }

/-! ## Host attachment -/

/-- A mailbox channel (11_host_mailboxes.md R345-R355). -/
structure Mbx where
  req : List Byte          -- MBX_REQ, written bytes; short means zeros behind
  rsp : List Byte          -- MBX_RSP
  ack : Word32
  st : Nat                 -- 0 IDLE, 1 QUEUED, 2 ACTIVE, 3 DONE
  msg : List Byte          -- the accepted message
  seq : Nat                -- its seq
  len : Nat
  accepted : Nat           -- acceptance number
  raise : Nat              -- DB_RAISE.notify
  pend : Word32
  mask : Word32
  begun : Bool             -- the ACTIVE command has begun and waits for its end
  orphan : Option (List Byte)  -- taken before a Function Level Reset: its response is discarded (R353)
  deriving DecidableEq, Repr

def Mbx.init : Mbx :=
  { req := [], rsp := [], ack := 0, st := 0, msg := [], seq := 0, len := 0, accepted := 0, raise := 0, pend := 0,
    mask := 0, begun := false, orphan := none }

/-- A host DMA descriptor in progress (11_host_mailboxes.md R339, R340). -/
structure HdmaRun where
  func : Nat
  index : Nat
  host : Nat
  dev : Nat
  len : Nat
  ctl : Nat
  part : Nat
  slot : Nat
  gen : Nat
  code : Nat               -- nonzero: refused, or a line has failed
  next : Nat               -- bytes whose lines have been asked for at the device
  out : Nat                -- lines asked for and not yet answered, 96 at most (R343)
  deriving DecidableEq, Repr

/-- What the host waits for at a function: bytes of a window read as they come, bytes of a window write, or a write to the control
window held back by earlier window writes (R337). -/
inductive WinJob where
  | read (got : List (Nat × List Byte))
  | write (bs : List Byte)
  | ctl (off size w : Nat)
  deriving DecidableEq, Repr

/-- A request of the host at a function that has not been completed; the segment-space offset and context are those of its
arrival (R335). -/
structure WinReq where
  id : Nat
  func : Nat
  ctx : Nat
  gen : Nat
  off : Nat
  len : Nat
  job : WinJob
  next : Nat
  out : Nat
  code : Nat
  deriving DecidableEq, Repr

structure Func where
  mbx : SMap Mbx           -- channel c at c, secure channel c at 8 + c; default Mbx.init
  win : Nat                -- HOST_WIN_CFG
  winErr : Nat             -- HOST_WIN_ERR
  winClosed : Bool
  ring : Nat
  tail : Nat
  head : Nat
  lastCode : Nat
  enable : Bool
  hdmaFail : List Nat      -- destinations with a failure not yet reported
  events : Nat
  msix : SMap Word         -- MSI-X table words, default 0
  pba : Nat                -- pending bit array
  deriving DecidableEq, Repr

def Func.init : Func :=
  { mbx := [], win := 0, winErr := 0, winClosed := false, ring := 0, tail := 0, head := 0, lastCode := 0,
    enable := false, hdmaFail := [], events := 0, msix := [], pba := 0 }

/-- What a host read received: data, or Completer Abort, or Unsupported Request. -/
inductive Completion where
  | data (bs : List Byte)
  | abort
  | unsupported
  deriving DecidableEq, Repr

structure HostSide where
  funcs : SMap Func        -- default Func.init
  engines : SMap (Option HdmaRun)  -- 0-7, default none
  nextFunc : Nat           -- round robin
  wins : List WinReq       -- window requests and control writes not yet done, oldest first
  winCount : Nat           -- window requests taken
  accepts : Nat            -- acceptance counter of the mailboxes
  recvUp : Bool
  recvUpSec : Bool
  hostMem : Memory         -- the host's memory, outside
  msixSent : List (Nat × Nat)  -- (function, vector) sent
  last : Option Completion
  linkUp : Bool
  perst : Bool             -- level of PERST_N
  deriving DecidableEq, Repr

def HostSide.init : HostSide :=
  { funcs := [], engines := [], nextFunc := 0, wins := [], winCount := 0, accepts := 0, recvUp := false, recvUpSec := false,
    hostMem := [], msixSent := [], last := none, linkUp := true, perst := true }

/-! ## Configuration, security -/

structure CfgEntry where
  item : Nat
  index : Nat
  value : Nat
  deriving DecidableEq, Repr

/-- What the copy that did not win holds (16_bringup.md R484, R487; what is not rolled back: notes/assumptions/31.md). -/
structure CfgOld where
  persisted : List CfgEntry
  capW : Option Nat
  training : List (Nat × Nat)
  linkTraining : List (Nat × Nat × Nat)
  deriving DecidableEq, Repr

def CfgOld.init : CfgOld := { persisted := [], capW := none, training := [], linkTraining := [] }

structure CfgStore where
  old : CfgOld
  staged : List CfgEntry
  stageCount : Nat
  persisted : List CfgEntry
  capW : Option Nat            -- stored power cap
  training : List (Nat × Nat)  -- channel and module serial with saved training
  linkTraining : List (Nat × Nat × Nat)  -- port, peer serial, peer port
  seqA : Nat                   -- sequences of the two configuration copies
  seqB : Nat
  okA : Bool
  okB : Bool
  deriving DecidableEq, Repr

def CfgStore.init : CfgStore :=
  { old := CfgOld.init, staged := [], stageCount := 0, persisted := [], capW := none, training := [], linkTraining := [],
    seqA := 0xFFFFFFFF, seqB := 0xFFFFFFFF, okA := false, okB := false }

/-- The fuses (13_security.md R380). -/
structure Fuses where
  serial : Nat
  variant : Nat                -- quadrants fused active: 4, 3 or 2
  cap : Bool                   -- the "-C" cap
  signer0 : BitVec 256
  signer1 : BitVec 256
  signerRevoke : Nat
  caDigest : BitVec 256
  debugAuthority : BitVec 256
  secVersion : SMap Nat        -- per component, default 0
  debugDisable : Bool
  deriving DecidableEq, Repr

/-- One copy of a firmware component in the module flash (16_bringup.md R482-R486). -/
structure FwCopy where
  seq : Nat                    -- 0xFFFFFFFF = erased
  version : Nat
  secVersion : Nat
  digest : BitVec 256
  invalid : Bool
  verified : Bool              -- staged and verified
  stagedSeq : Nat
  starts : Nat                 -- start count
  deriving DecidableEq, Repr

def FwCopy.init : FwCopy :=
  { seq := 0xFFFFFFFF, version := 0, secVersion := 0, digest := 0, invalid := false, verified := false, stagedSeq := 0,
    starts := 0 }

structure ModelKey where
  part : Nat
  keyId : Nat
  key : BitVec 256
  digest : List Byte           -- weight digest, 32 bytes
  bytes : Nat
  exports : Nat
  deriving DecidableEq, Repr

structure LinkSecret where
  sliceId : Nat
  secret : BitVec 256
  round : Nat
  deriving DecidableEq, Repr

/-- An XMSS state: two copies of the mark, the leaf next to use, and the end of the batch reserved. -/
structure Xmss where
  markA : Option (Nat × Nat)   -- sequence, mark; none = the copy does not load or write
  markB : Option (Nat × Nat)
  next : Nat
  limit : Nat
  writable : Bool
  deriving DecidableEq, Repr

structure Sec where
  fuses : Fuses
  fw : SMap FwCopy             -- component c copy k at 2c + k, default FwCopy.init
  running : SMap Nat           -- copy a component runs from, default 0
  activating : List Nat        -- components whose new image is not yet measured
  keyEpoch : Nat               -- number of the device memory key
  nextKey : Nat
  models : List ModelKey
  secrets : List LinkSecret
  att : Xmss
  idk : Xmss
  attIndex : Nat
  rollover : Bool
  debugScope : Nat             -- 0 = locked
  unlockCounter : Nat
  jtag : JtagOp
  deriving DecidableEq, Repr

/-- The part shown is an HNV-D9-256; serial and digests are the model's choice (notes/assumptions/1.md). -/
def Fuses.init : Fuses :=
  { serial := 1, variant := 4, cap := false, signer0 := 1, signer1 := 2, signerRevoke := 0, caDigest := 3,
    debugAuthority := 4, secVersion := [], debugDisable := false }

/-- Flash as delivered: component images at sequence 1 in copy A (notes/assumptions/1.md). -/
def Sec.init : Sec :=
  { fuses := Fuses.init,
    fw := [(0, { FwCopy.init with seq := 1, version := 1 }), (2, { FwCopy.init with seq := 1, version := 1 }),
           (4, { FwCopy.init with seq := 1, version := 1 }), (6, { FwCopy.init with seq := 1, version := 1 })],
    running := [], activating := [], keyEpoch := 0, nextKey := 1, models := [], secrets := [],
    att := { markA := some (1, 0), markB := none, next := 0, limit := 0, writable := true },
    idk := { markA := some (1, 1), markB := none, next := 0, limit := 0, writable := true },
    attIndex := 0, rollover := false, debugScope := 0, unlockCounter := 0, jtag := .bypass }

/-! ## Recovery -/

structure Rrc where
  cfg : Nat                    -- RRC_CFG in force
  lastLevel : Nat
  lastCause : Nat
  escalated : Bool
  resets : List Nat            -- operating-second stamps of the counted chip resets
  oos : Bool
  primaryB : Bool              -- primary is core B
  standbyOk : Bool
  failovers : Nat
  hang : Nat                   -- RRC_HANG
  passes : Nat
  badCurds : Nat
  badVats : Nat
  badLanes : Nat
  mgmtBad : Bool
  coreAOk : Bool
  coreBOk : Bool
  selftest : Option Bool       -- failed core under self-test: some true = core B
  bothDown : Bool              -- both management cores are being restarted (R431)
  engineWait : List Nat        -- engines whose reset is not confirmed
  engineReq : List (Nat × Nat × Nat)  -- unit and mailbox to answer
  pwrcycWanted : Bool
  deriving DecidableEq, Repr

/-- RRC_CFG with an empty store: hang_ms 10, oos_resets 8, oos_hours 24, resume_limit 3, auto_resume 1 (R433). -/
def rrcCfgReset : Nat := 10 + 8 * 2 ^ 10 + 24 * 2 ^ 16 + 3 * 2 ^ 24 + 2 ^ 28

def Rrc.init : Rrc :=
  { cfg := rrcCfgReset, lastLevel := 7, lastCause := 0, escalated := false, resets := [], oos := false,
    primaryB := false, standbyOk := false, failovers := 0, hang := 0, passes := 0, badCurds := 0, badVats := 0,
    badLanes := 0, mgmtBad := false, coreAOk := true, coreBOk := true, selftest := none, bothDown := false,
    engineWait := [], engineReq := [], pwrcycWanted := false }

/-! ## Faults, the cave, check values -/

/-- A fault message (15_faults_cave.md R437, R439), with what its cave record keeps. -/
structure FltMsg where
  src : Nat
  kind : Nat
  unit : Nat                   -- unit byte of a vat source
  addr : Nat                   -- full 64-bit address
  ctx : Option Nat
  gen : Nat
  sliceId : Nat
  deriving DecidableEq, Repr

/-- A ring stop: queued messages, and the count it could not take (R444). -/
structure Stop where
  queue : List FltMsg
  lost : Nat
  deriving DecidableEq, Repr

def Stop.init : Stop := { queue := [], lost := 0 }

structure FltEntry where
  m : FltMsg
  firstSeen : Nat
  repeats : Nat
  sev : Nat
  ack : Bool
  cleared : Bool
  actionDone : Bool
  made : Nat                   -- order in which entries were made
  deriving DecidableEq, Repr

structure Flt where
  stops : SMap Stop            -- by source, default Stop.init
  list : List FltEntry
  sev : SMap Nat               -- FLT_SEV in force, default 0
  cfg : Nat                    -- FLT_CFG in force
  overflow : Bool
  recoveries : Nat
  loaded : Bool                -- the collector has loaded its state
  lostStops : List Nat         -- ring stops the island cannot reach
  made : Nat                   -- entries made
  deriving DecidableEq, Repr

/-- FLT_CFG with an empty store: quiet_s 60, esc_cap 5 (R450). -/
def fltCfgReset : Nat := 60 + 5 * 2 ^ 12

def Flt.init : Flt :=
  { stops := [], list := [], sev := [], cfg := fltCfgReset, overflow := false, recoveries := 0, loaded := true,
    lostStops := [], made := 0 }

/-- A cave record (15_faults_cave.md R451). -/
structure CaveRec where
  seq : Nat
  opSec : Nat
  cycles : Nat
  typ : Nat
  repeats : Nat
  sev : Nat
  flags : Nat
  body : List Byte             -- 40 bytes
  deriving DecidableEq, Repr

structure Cave where
  next : Nat
  buf : List CaveRec           -- unflushed records in the island buffer, oldest first
  kept : List CaveRec
  circ : List CaveRec
  store : Nat                  -- 0 pair A, 1 pair B, 2 RAM only
  due : Bool                   -- a flush has been triggered (R454)
  lost : Nat
  failRun : Nat                -- write failures in a row
  opBase : Nat                 -- operating seconds when standby power was applied
  opStored : Nat               -- operating seconds as stored in flash
  cycles : Nat
  storeFailed : Bool
  cleanOff : Bool              -- the operating seconds of the last power-fail are in flash
  deriving DecidableEq, Repr

def Cave.init : Cave :=
  { next := 0, buf := [], kept := [], circ := [], store := 0, due := false, lost := 0, failRun := 0, opBase := 0, opStored := 0,
    cycles := 0, storeFailed := false, cleanOff := true }

/-- A stream of a check-value unit: who, and the bytes accepted by offset (15_faults_cave.md R459). -/
inductive CvOwner where
  | dma (node chan run : Nat)
  | cult (node : Nat)
  deriving DecidableEq, Repr

structure CvBlock where
  owner : CvOwner
  off : Nat
  data : List Byte
  last : Bool
  deriving DecidableEq, Repr

structure CvStream where
  owner : CvOwner
  data : Memory                -- by offset in transfer order
  deriving DecidableEq, Repr

structure CvUnit where
  fenced : Bool
  selftestOk : Bool
  borrowed : Bool
  inq : List CvBlock
  streams : List CvStream
  deriving DecidableEq, Repr

def CvUnit.init : CvUnit := { fenced := false, selftestOk := false, borrowed := false, inq := [], streams := [] }

/-! ## Start-up, power, module -/

structure Boot where
  memTest : Bool
  fullTrain : Bool
  hold : Bool
  stage : Nat
  kind : Nat
  failed : Bool
  stepNo : Nat
  error : Nat
  progress : Nat
  startAt : Nat                -- timer at the first step of S0
  elapsed : Nat                -- held value once S8 or a halt is reached
  running : Bool               -- a start is in progress and not yet at S8
  chipResetting : Bool         -- between a chip reset and the warm start's S0
  s4Done : Bool
  cut : Option Nat             -- the kind of the power-on start that a chip reset has cut short (R463)
  repeated : Bool              -- a power-on start has been repeated once
  degraded : Bool
  stageAt : Nat
  testChans : List Nat         -- channels the memory test covers
  noCopy : List (Nat × Nat)    -- components with no valid copy, each with the kind raised for it
  lateRelease : Bool           -- a hold has stopped the start at the end of S2
  deriving DecidableEq, Repr

/-- BOOT_STAGE resets to stage 0, kind 2 (R465). -/
def Boot.init : Boot :=
  { memTest := false, fullTrain := false, hold := false, stage := 0, kind := 2, failed := false, stepNo := 0, error := 0,
    progress := 0, startAt := 0, elapsed := 0, running := true, chipResetting := false, s4Done := false, cut := none,
    repeated := false, degraded := false, stageAt := 0, testChans := [], noCopy := [],
    lateRelease := false }

structure Power where
  coreMv : Nat                 -- 0 = rail off
  stepMsps : Nat
  capW : Nat
  limits : Nat
  tj : List Nat                -- 0.1 degree per quadrant
  powerW : Nat
  power100 : Nat               -- 100 ms average
  coreA : Nat
  inputMv : Nat
  inputDa : Nat
  energy : Nat                 -- sum of the 10 ms averages at the samples: 20,000 make a joule
  steps : Nat                  -- PWR_STEPS
  standby : Bool
  main : Bool
  holdUp : Bool                -- hold-up capacitors charged
  ioUp : Bool                  -- VDD_IO and VDDQ_MEM in regulation
  failing : Bool               -- a power-fail is being handled on hold-up
  islandUp : Bool
  thermtrip : Bool             -- THERMTRIP_N low
  pwrcyc : Bool                -- PWRCYC_REQ_N low
  hold075 : Bool               -- the controller holds the rail at 0.75 V
  capWait : List (Nat × Nat)   -- PWR_LIMIT commands that wait for the rail to settle (17_rates_limits.md R493)
  deriving DecidableEq, Repr

/-- The rails are up with the core at 0.75 V as S0 begins (18_module.md R504); sensors: notes/assumptions/1.md. -/
def Power.init : Power :=
  { coreMv := 750, stepMsps := 0, capW := 1800, limits := 0, tj := [0, 0, 0, 0], powerW := 0, power100 := 0, coreA := 0,
    inputMv := 48000, inputDa := 0, energy := 0, steps := 0, standby := true, main := true, holdUp := true, ioUp := true,
    failing := false, islandUp := true, thermtrip := false, pwrcyc := false, hold075 := true, capWait := [] }

structure SideBand where
  ibiEn : Bool
  alert : Nat
  alertMask : Nat
  caveSel : Nat
  fwComp : Nat
  fwOpen : Bool
  fwLength : Nat
  fwResult : Nat
  fwBusy : Bool
  fwData : Memory
  dynAddr : Option Nat
  ibis : List Nat              -- in-band interrupts raised, by data byte
  deriving DecidableEq, Repr

def SideBand.init : SideBand :=
  { ibiEn := false, alert := 0, alertMask := 0, caveSel := 0, fwComp := 0, fwOpen := false, fwLength := 0, fwResult := 0,
    fwBusy := false, fwData := [], dynAddr := none, ibis := [] }

/-! ## The whole -/

/-- Everything the spec gives the module. -/
structure Dev where
  timer : BitVec 64            -- management timer (01_architecture.md R28)
  pwr : Power
  boot : Boot
  sec : Sec
  cfg : CfgStore
  curds : SMap Curd            -- by 128 * node + slot, default Curd.init
  vats : SMap Vat              -- by node, default Vat.init
  nis : SMap NI                -- by node, default NI.init
  mesh : Mesh
  ports : SMap Port            -- default Port.init
  coll : SMap CollUnit         -- by node number, default CollUnit.init
  trees : SMap (BitVec 64)     -- TREE_ENT by treeKey: every port engine and reduction unit has its own copy, default 0
  ext : ExtMem
  parts : SMap Part            -- default Part.init
  ctxs : SMap Ctx              -- by context id, default Ctx.init
  lastGen : SMap Nat           -- last generation used per slot of a partition, by context id, default 0
  fm : FM
  host : HostSide
  rrc : Rrc
  flt : Flt
  cave : Cave
  cv : SMap CvUnit             -- 0-4, default CvUnit.init
  sb : SideBand
  xlink : Nat                  -- XLINK_TIMEOUT in force
  collTmo : Nat                -- COLL_TIMEOUT in force
  free : Nat                   -- how many free values have been drawn (notes/assumptions/4.md)
  deriving DecidableEq, Repr

/-- The block: the module and the commands waiting, first in first out. -/
structure State where
  pending : List Instr
  dev : Dev
  deriving DecidableEq, Repr

/-- The logical number of a vat within its quadrant at the factory default: ascending node order outside the spare
rows 8 and 9 (01_architecture.md R13, R20). -/
def defaultVat (node : Nat) : Vat :=
  let x := node % 16
  let y := node / 16
  if y = 8 ∨ y = 9 then { Vat.init with lst := .spare }
  else { Vat.init with lst := .active, lnum := (if y < 8 then y else y - 10) * 8 + x % 8 }

def defaultVats (n : Nat) : SMap Vat := (List.range n).map (fun i => (i, defaultVat i))

/-- XLINK_TIMEOUT resets to 2,000 µs and 3 reissues (07_links.md R227). -/
def xlinkReset : Nat := 2000 + 3 * 2 ^ 16

/-- COLL_TIMEOUT resets to 200 µs, 3 resends, 10 s (08_collectives.md R253). -/
def collTmoReset : Nat := 200 + 3 * 2 ^ 16 + 10 * 2 ^ 18

/-- The module as main power has come up and S0 is about to begin (18_module.md R504, R505): kept fields at their
power-cycle values, the rest at their Reset columns; the values the spec does not give are in notes/assumptions/1.md. -/
def Dev.reset : Dev :=
  { timer := 0, pwr := Power.init, boot := Boot.init, sec := Sec.init, cfg := CfgStore.init, curds := [],
    vats := defaultVats 288, nis := [], mesh := Mesh.init, ports := [], coll := [], trees := [], ext := ExtMem.init,
    parts := [], ctxs := [], lastGen := [], fm := FM.init, host := HostSide.init, rrc := Rrc.init, flt := Flt.init,
    cave := Cave.init, cv := [], sb := SideBand.init, xlink := xlinkReset, collTmo := collTmoReset, free := 0 }

/-- No command waits at reset. -/
def State.reset : State := { pending := [], dev := Dev.reset }

/-- What exec answers. -/
abbrev Answer := Host.Outcome State Fault Refusal

/-- The next state of a command whose effect on the module is `d`: the queue is left alone. -/
def State.next (s : State) (d : Dev) : Answer := .next { s with dev := d }

end Sys2Proof.Machine
end

