-- ==== Sys2Proof/Machine/Ops.lean ====
section
/-! DEFINITION. Named operations over the state: sparse tables, where units stand, reporting faults, on-chip memory
with its code, completion counters and curd faults. -/

namespace Sys2Proof.Machine

/-! ## Sparse tables and memories -/

/-- The `n` entries from `i` on. -/
def smGetList {α : Type} (d : α) (m : SMap α) (i : Nat) : Nat → List α
  | 0 => []
  | n + 1 => smGet d m i :: smGetList d m (i + 1) n

/-- The entries of a list written from `i` on. -/
def smSetList {α : Type} [DecidableEq α] (d : α) (m : SMap α) (i : Nat) : List α → SMap α
  | [] => m
  | x :: xs => smSetList d (smSet d m i x) (i + 1) xs

/-- The table with every key of [lo, hi) back at the default. -/
def smClear {α : Type} (m : SMap α) (lo hi : Nat) : SMap α := m.filter (fun e => e.1 < lo || hi ≤ e.1)

def memRead (m : Memory) (a n : Nat) : List Byte := smGetList (0 : Byte) m a n
def memWrite (m : Memory) (a : Nat) (bs : List Byte) : Memory := smSetList (0 : Byte) m a bs

/-- The bytes of one table moved to another place, `len` of them from `src`. -/
def memCopy (m : Memory) (src len : Nat) : Memory :=
  (m.filter (fun e => src ≤ e.1 && e.1 < src + len)).map (fun e => (e.1 - src, e.2))

/-- `sub`, a memory of `len` bytes, laid at `a`. -/
def memPaste (m : Memory) (a len : Nat) (sub : Memory) : Memory :=
  (smClear m a (a + len)).filter (fun e => e.1 < a) ++ sub.map (fun e => (e.1 + a, e.2)) ++
    (smClear m a (a + len)).filter (fun e => a ≤ e.1)

def hold16 (n : Nat) : Nat := min n 0xFFFF

/-- A list with the entry at `i` replaced. -/
def setNth {α : Type} (l : List α) (i : Nat) (x : α) : List α := l.set i x

/-- Consecutive pieces of `n` bytes. -/
def chunksOf (n : Nat) : Nat → List Byte → List (List Byte)
  | 0, _ => []
  | _, [] => []
  | fuel + 1, bs => bs.take n :: chunksOf n fuel (bs.drop n)

/-! ## Units of the device -/

def Dev.curd (d : Dev) (i : Nat) : Curd := smGet Curd.init d.curds i
def Dev.setCurd (d : Dev) (i : Nat) (x : Curd) : Dev := { d with curds := smSet Curd.init d.curds i x }
def Dev.vat (d : Dev) (i : Nat) : Vat := smGet Vat.init d.vats i
def Dev.setVat (d : Dev) (i : Nat) (x : Vat) : Dev := { d with vats := smSet Vat.init d.vats i x }
def Dev.ni (d : Dev) (i : Nat) : NI := smGet NI.init d.nis i
def Dev.setNi (d : Dev) (i : Nat) (x : NI) : Dev := { d with nis := smSet NI.init d.nis i x }
def Dev.port (d : Dev) (i : Nat) : Port := smGet Port.init d.ports i
def Dev.setPort (d : Dev) (i : Nat) (x : Port) : Dev := { d with ports := smSet Port.init d.ports i x }
def Dev.unit (d : Dev) (i : Nat) : CollUnit := smGet CollUnit.init d.coll i
def Dev.setUnit (d : Dev) (i : Nat) (x : CollUnit) : Dev := { d with coll := smSet CollUnit.init d.coll i x }
def Dev.part (d : Dev) (i : Nat) : Part := smGet Part.init d.parts i
def Dev.setPart (d : Dev) (i : Nat) (x : Part) : Dev := { d with parts := smSet Part.init d.parts i x }
def Dev.ctx (d : Dev) (i : Nat) : Ctx := smGet Ctx.init d.ctxs i
def Dev.setCtx (d : Dev) (i : Nat) (x : Ctx) : Dev := { d with ctxs := smSet Ctx.init d.ctxs i x }
def Dev.cvu (d : Dev) (i : Nat) : CvUnit := smGet CvUnit.init d.cv i
def Dev.setCvu (d : Dev) (i : Nat) (x : CvUnit) : Dev := { d with cv := smSet CvUnit.init d.cv i x }

/-- A curd's key: its vat's node and its physical slot. -/
def curdKey (node slot : Nat) : Nat := 128 * node + slot

def Dev.chan (d : Dev) (c : Nat) : Chan := smGet Chan.init d.ext.chans c
def Dev.setChan (d : Dev) (c : Nat) (x : Chan) : Dev :=
  { d with ext := { d.ext with chans := smSet Chan.init d.ext.chans c x } }

def Dev.func (d : Dev) (f : Nat) : Func := smGet Func.init d.host.funcs f
def Dev.setFunc (d : Dev) (f : Nat) (x : Func) : Dev :=
  { d with host := { d.host with funcs := smSet Func.init d.host.funcs f x } }

def Dev.edge (d : Dev) (k : Nat) : Edge := smGet Edge.init d.mesh.edges k
def Dev.setEdge (d : Dev) (k : Nat) (x : Edge) : Dev :=
  { d with mesh := { d.mesh with edges := smSet Edge.init d.mesh.edges k x } }

/-- A free value: the `n`-th of the run (notes/assumptions/4.md). -/
def Dev.draw (d : Dev) : BitVec 64 × Dev := (Config.freeWord d.free, { d with free := d.free + 1 })

/-- Time passes on an empty queue: the management timer counts while the island runs (01_architecture.md R28;
notes/assumptions/6.md). -/
def tick (d : Dev) : Dev := if d.pwr.islandUp then { d with timer := d.timer + 1 } else d

/-- Operating seconds: the time during which standby power is applied, in the 25 MHz counts of the management timer, which
starts at 0 with it (01_architecture.md R28, 15_faults_cave.md R451). -/
def Dev.opSec (d : Dev) : Nat := d.cave.opBase + d.timer.toNat / 25000000

/-! ### Where vats and curds stand (01_architecture.md R13, R20, 02_programming_model.md R37, R38) -/

/-- The quadrant of a node. -/
def quadrant (node : Nat) : Nat :=
  (if node % 16 < 8 then 0 else 1) + (if node / 16 < 9 then 0 else 2)

/-- The node of an edge unit's quadrant (R17, R14): memory channel, port, host, gateway, check-value unit. -/
def edgeQuadrant (e : Nat) : Nat :=
  if e < 0x140 then (e - 0x120) / 8
  else if e < 0x150 then
    (let p := e - 0x140
     if p < 8 then (if p % 2 = 0 then 0 else 2) else (if p % 2 = 0 then 1 else 3))
  else if e < 0x154 then 0
  else e - 0x154

/-- Quadrants fused active (R18). -/
def Dev.quadOn (d : Dev) (q : Nat) : Bool := q < d.sec.fuses.variant

/-- Vats of a partition size code (R111). -/
def vatsOf (psize : Nat) : Nat := 4 * 2 ^ psize

/-- The partition of an active vat (R37). -/
def Dev.partOf (d : Dev) (node : Nat) : Option Nat :=
  let v := d.vat node
  if v.lst = .active then
    ((List.range 16).map (fun i => 16 * quadrant node + i)).find? (fun p =>
      (d.part p).st != 0 && (d.part p).first ≤ v.lnum && v.lnum < (d.part p).first + vatsOf (d.part p).psize)
  else none

/-- Nodes of a quadrant, in ascending order. -/
def quadNodes (q : Nat) : List Nat := (List.range 288).filter (fun n => quadrant n == q)

/-- The active vat with a logical number (R20). -/
def Dev.vatAt (d : Dev) (q lnum : Nat) : Option Nat :=
  (quadNodes q).find? (fun n => (d.vat n).lst == .active && (d.vat n).lnum == lnum)

/-- The nodes of a partition's vats, in logical order. -/
def Dev.partNodes (d : Dev) (p : Nat) : List Nat :=
  (List.range (vatsOf (d.part p).psize)).filterMap (fun i => d.vatAt (p / 16) ((d.part p).first + i))

/-- The context resident on a vat's partition. -/
def Dev.ctxOf (d : Dev) (node : Nat) : Option Nat :=
  match d.partOf node with
  | some p => (d.part p).resident.map (fun s => 16 * p + s)
  | none => none

/-- The physical slot of a logical curd (R20, R21). -/
def Vat.phys (v : Vat) (n : Nat) : Nat := if smGet 0 v.remap n = 0 then n else smGet 0 v.remap n

/-- The logical curd in a physical slot, if it holds one. -/
def Vat.logical (v : Vat) (slot : Nat) : Option Nat := (List.range 64).find? (fun n => v.phys n == slot)

/-- The core index of a curd within its partition (R38). -/
def Dev.coreOf (d : Dev) (node slot : Nat) : Option Nat :=
  match d.partOf node, (d.vat node).logical slot with
  | some p, some n => some (((d.vat node).lnum - (d.part p).first) * 64 + n)
  | _, _ => none

/-- The curd of a core index: its node and physical slot (R38). -/
def Dev.curdAt (d : Dev) (p core : Nat) : Option (Nat × Nat) :=
  match d.vatAt (p / 16) ((d.part p).first + core / 64) with
  | some node => some (node, (d.vat node).phys (core % 64))
  | none => none

/-! ## Reporting faults (15_faults_cave.md R437-R444) -/

/-- The class of a kind (R440, R441, 10_memory.md R316, 14_recovery.md R436). -/
def kindClass (k : Nat) : Nat :=
  if 0x01 ≤ k ∧ k ≤ 0x04 then 3
  else if k = 0x05 ∨ k = 0x06 ∨ k = 0x09 ∨ k = 0x0A ∨ (0x41 ≤ k ∧ k ≤ 0x43) then 2
  else if k = 0x08 ∨ k = 0x40 then 1
  else if k = 0x10 ∨ k = 0x11 ∨ k = 0x17 then 3
  else if k = 0x12 ∨ k = 0x13 then 4
  else if k = 0x60 then 5
  else if k = 0x65 ∨ k = 0x69 ∨ k = 0x90 ∨ k = 0x92 then 11
  else if k = 0x67 ∨ k = 0x68 then 0
  else if k = 0x14 ∨ (0x61 ≤ k ∧ k ≤ 0x66) ∨ k = 0xB0 then 6
  else if k = 0x15 ∨ k = 0x16 ∨ (0x70 ≤ k ∧ k ≤ 0x72) then 9
  else if 0x20 ≤ k ∧ k ≤ 0x23 then 7
  else if 0x44 ≤ k ∧ k ≤ 0x49 then 8
  else if 0x80 ≤ k ∧ k ≤ 0x83 then 10
  else if k = 0x91 ∨ k = 0xA0 ∨ k = 0xA1 then 12
  else 0

/-- INFO and CORRECTED messages give way at a full ring stop (R444). -/
def kindMinor (k : Nat) : Bool := kindClass k == 0 || kindClass k == 1

/-- The position of the newest minor message. -/
def newestMinor (q : List FltMsg) : Option Nat :=
  ((List.range q.length).reverse).find? (fun i =>
    match q[i]? with
    | some m => kindMinor m.kind
    | none => false)

/-- A ring stop takes a message, or does not (R444). -/
def Stop.take (st : Stop) (m : FltMsg) : Stop :=
  if st.queue.length < 16 then { st with queue := st.queue ++ [m] }
  else if kindMinor m.kind then st
  else
    match newestMinor st.queue with
    | some i => { st with queue := setNth st.queue i m }
    | none => { st with lost := st.lost + 1 }

/-- A block reports a fault: the message goes to the ring stop of its source. -/
def Dev.raise (d : Dev) (m : FltMsg) : Dev :=
  { d with flt := { d.flt with stops := smSet Stop.init d.flt.stops m.src ((smGet Stop.init d.flt.stops m.src).take m) } }

/-- A message of a source outside the vats that names no context. -/
def plainMsg (src kind addr : Nat) : FltMsg :=
  { src := src, kind := kind, unit := 0, addr := addr, ctx := none, gen := 0, sliceId := 0 }

/-- A message that names a context, with its generation and slice. -/
def Dev.ctxMsg (d : Dev) (src kind unit addr : Nat) (ctx : Option Nat) : FltMsg :=
  match ctx with
  | some i => { src := src, kind := kind, unit := unit, addr := addr, ctx := some i, gen := (d.ctx i).gen,
                sliceId := (d.ctx i).sliceId }
  | none => { src := src, kind := kind, unit := unit, addr := addr, ctx := none, gen := 0, sliceId := 0 }

/-- A unit of a vat reports a fault of the context resident there. -/
def Dev.raiseVat (d : Dev) (node kind unit addr : Nat) : Dev := d.raise (d.ctxMsg node kind unit addr (d.ctxOf node))

def unitNi : Nat := 0x58
def unitRu : Nat := 0x59
def unitVs : Nat := 0x5A
def unitResolver : Nat := 0x5B
def unitRouter (p : Plane) : Nat := match p with | .a => 0x5C | .b => 0x5D
def unitControl : Nat := 0x5E
def unitDma (chan : Nat) : Nat := 0x50 + chan

/-! ## On-chip memory with its code (05_local_memory.md R149-R153) -/

/-- A memory block: contents, flipped bits by word, error counts, flip masks. -/
structure Block where
  mem : Memory
  err : SMap (BitVec 72)
  ecc : Ecc
  flip : Flip
  deriving DecidableEq, Repr

/-- What the code makes of a word's flipped bits: uncorrectable (none), or readable, with whether it is corrected
and the data bits delivered wrong (R149, R150). -/
def eccWord (mask : BitVec 72) : Option (Bool × Word) :=
  match popcNat 72 mask.toNat with
  | 0 => some (false, 0)
  | 1 => some (true, 0)
  | 2 => none
  | _ => Config.eccMulti mask

/-- Words of a block that an access touches and that have flipped bits. -/
def Block.marks (b : Block) (off n : Nat) : List (Nat × BitVec 72) :=
  b.err.filter (fun e => off / 8 ≤ e.1 && e.1 * 8 < off + n)

def Ecc.noteCe (e : Ecc) (w : Nat) : Ecc := { e with corrected := hold16 (e.corrected + 1), lastWord := w }
def Ecc.noteUe (e : Ecc) (w : Nat) : Ecc := { e with uncorrected := hold16 (e.uncorrected + 1), lastWord := w }

/-- XOR of a word's eight bytes. -/
def xorWord (m : Memory) (w : Nat) (x : Word) : Memory :=
  memWrite m (8 * w) ((memRead m (8 * w) 8).zipWith (fun a b => a ^^^ b) (leBytes 8 x.toNat))

/-- The reading of one marked word: the block after it, whether it is readable, and what it reports. -/
def Block.readWord (b : Block) (w : Nat) (mask : BitVec 72) : Block × Bool × List (Nat × Nat) :=
  match eccWord mask with
  | none => ({ b with ecc := b.ecc.noteUe w }, false, [(0x09, 8 * w)])
  | some (true, x) =>
    ({ b with mem := xorWord b.mem w x, err := smSet 0 b.err w 0, ecc := b.ecc.noteCe w }, true, [(0x08, 8 * w)])
  | some (false, x) => ({ b with mem := xorWord b.mem w x, err := smSet 0 b.err w 0 }, true, [])

/-- The reading of every marked word of a range. -/
def Block.readMarks (b : Block) : List (Nat × BitVec 72) → Block × Bool × List (Nat × Nat)
  | [] => (b, true, [])
  | (w, mask) :: r =>
    let x := b.readWord w mask
    let y := x.1.readMarks r
    (y.1, x.2.1 && y.2.1, x.2.2 ++ y.2.2)

/-- A read of `n` bytes: the data, none if a word is uncorrectable; and (kind, byte offset) of what is reported. -/
def Block.read (b : Block) (off n : Nat) : Block × Option (List Byte) × List (Nat × Nat) :=
  let x := b.readMarks (b.marks off n)
  (x.1, if x.2.1 then some (memRead x.1.mem off n) else none, x.2.2)

/-- A write keeps off an uncorrectable word that it covers in part (R151): those words are left out. -/
def Block.lostWords (b : Block) (off n : Nat) : List Nat :=
  (b.marks off n).filterMap (fun e =>
    if e.1 * 8 < off || off + n < e.1 * 8 + 8 then (if (eccWord e.2).isNone then some e.1 else none) else none)

/-- The bytes written: all but those of the lost words. -/
def writeBut (m : Memory) (lost : List Nat) (a : Nat) : List Byte → Memory
  | [] => m
  | x :: xs => writeBut (if lost.contains (a / 8) then m else smSet 0 m a x) lost (a + 1) xs

/-- Marks that a write clears: every touched word but the lost ones; partly written words are read first. -/
def Block.clearMarks (b : Block) (lost : List Nat) (off n : Nat) : Block × List (Nat × Nat) :=
  (b.marks off n).foldl (fun acc e =>
    if lost.contains e.1 then acc
    else if e.1 * 8 < off || off + n < e.1 * 8 + 8 then
      (let x := acc.1.readWord e.1 e.2
       ({ x.1 with err := smSet 0 x.1.err e.1 0 }, acc.2 ++ x.2.2))
    else ({ acc.1 with err := smSet 0 acc.1.err e.1 0 }, acc.2)) (b, [])

/-- The first word written that is not lost. -/
def firstWord (lost : List Nat) (off n : Nat) : Option Nat :=
  if n = 0 then none
  else ((List.range ((off + n - 1) / 8 + 1 - off / 8)).map (fun i => off / 8 + i)).find? (fun w => !lost.contains w)

/-- Armed masks go into the lowest word the write writes, and disarm; they take effect only where the flip registers may
(`may`, R152). -/
def Block.applyFlip (b : Block) (may : Bool) (lost : List Nat) (off n : Nat) : Block :=
  if b.flip.arm && may then
    match firstWord lost off n with
    | some w =>
      { b with err := smSet 0 b.err w (smGet 0 b.err w ^^^ (b.flip.chk ++ b.flip.data)), flip := Flip.init }
    | none => b
  else b

/-- A write: the block, whether every word was written, and what is reported (R151, R152). -/
def Block.write (b : Block) (may : Bool) (off : Nat) (bs : List Byte) : Block × Bool × List (Nat × Nat) :=
  let lost := b.lostWords off bs.length
  let c := b.clearMarks lost off bs.length
  let b1 : Block := { c.1 with mem := writeBut c.1.mem lost off bs }
  let b2 : Block := { b1 with ecc := lost.foldl (fun e w => e.noteUe w) b1.ecc }
  (b2.applyFlip may lost off bs.length, lost.isEmpty, c.2 ++ lost.map (fun w => (0x0A, 8 * w)))

def Curd.ldmBlock (c : Curd) : Block := { mem := c.ldm, err := c.ldmErr, ecc := c.ldmEcc, flip := c.ldmFlip }
def Curd.putLdm (c : Curd) (b : Block) : Curd := { c with ldm := b.mem, ldmErr := b.err, ldmEcc := b.ecc, ldmFlip := b.flip }
def Curd.isBlock (c : Curd) : Block := { mem := c.is, err := c.isErr, ecc := c.isEcc, flip := c.isFlip }
def Curd.putIs (c : Curd) (b : Block) : Curd := { c with is := b.mem, isErr := b.err, isEcc := b.ecc, isFlip := b.flip }
def Vat.vsBlock (v : Vat) : Block := { mem := v.vs, err := v.vsErr, ecc := v.vsEcc, flip := v.vsFlip }
def Vat.putVs (v : Vat) (b : Block) : Vat := { v with vs := b.mem, vsErr := b.err, vsEcc := b.ecc, vsFlip := b.flip }

/-! ### Where flip registers take effect (R152, 13_security.md R405) -/

/-- An accepted token has opened curd debug: scope bit 1 (13_security.md R405). -/
def Dev.curdDebug (d : Dev) : Bool := bit d.sec.debugScope 1

/-- Curd debug is unlocked and no confidential partition exists. -/
def Dev.debugFlips (d : Dev) : Bool :=
  d.curdDebug && (List.range 64).all (fun p => (d.part p).st == 0 || !(d.part p).conf)

/-- A curd's flip registers take effect: it holds no context, or debug allows it. -/
def Dev.curdFlips (d : Dev) (node slot : Nat) : Bool :=
  (d.ctxOf node).isNone || ((d.vat node).logical slot).isNone || (d.curd (curdKey node slot)).fenced || d.debugFlips

/-- A vat store's flip registers take effect. -/
def Dev.vatFlips (d : Dev) (node : Nat) : Bool := (d.ctxOf node).isNone || d.debugFlips

/-- The reports of a block, as messages of its vat; `base` turns a byte offset into a local address. -/
def Dev.raiseBlock (d : Dev) (node unit base : Nat) (ev : List (Nat × Nat)) : Dev :=
  ev.foldl (fun d e => d.raiseVat node e.1 unit (base + e.2)) d

/-- A read of a curd's local data memory. -/
def Dev.ldmRead (d : Dev) (node slot off n : Nat) : Dev × Option (List Byte) :=
  let c := d.curd (curdKey node slot)
  let r := c.ldmBlock.read off n
  ((d.setCurd (curdKey node slot) (c.putLdm r.1)).raiseBlock node slot 0 r.2.2, r.2.1)

def Dev.ldmWrite (d : Dev) (node slot off : Nat) (bs : List Byte) : Dev × Bool :=
  let c := d.curd (curdKey node slot)
  let r := c.ldmBlock.write (d.curdFlips node slot) off bs
  ((d.setCurd (curdKey node slot) (c.putLdm r.1)).raiseBlock node slot 0 r.2.2, r.2.1)

def Dev.isRead (d : Dev) (node slot off n : Nat) : Dev × Option (List Byte) :=
  let c := d.curd (curdKey node slot)
  let r := c.isBlock.read off n
  ((d.setCurd (curdKey node slot) (c.putIs r.1)).raiseBlock node slot 0 r.2.2, r.2.1)

def Dev.isWrite (d : Dev) (node slot off : Nat) (bs : List Byte) : Dev × Bool :=
  let c := d.curd (curdKey node slot)
  let r := c.isBlock.write (d.curdFlips node slot) off bs
  ((d.setCurd (curdKey node slot) (c.putIs r.1)).raiseBlock node slot 0 r.2.2, r.2.1)

/-- The vat store's own place in the local map (02_programming_model.md R51). -/
def vsBase : Nat := 0x01000000

def Dev.vsRead (d : Dev) (node off n : Nat) : Dev × Option (List Byte) :=
  let v := d.vat node
  let r := v.vsBlock.read off n
  ((d.setVat node (v.putVs r.1)).raiseBlock node unitVs vsBase r.2.2, r.2.1)

def Dev.vsWrite (d : Dev) (node off : Nat) (bs : List Byte) : Dev × Bool :=
  let v := d.vat node
  let r := v.vsBlock.write (d.vatFlips node) off bs
  ((d.setVat node (v.putVs r.1)).raiseBlock node unitVs vsBase r.2.2, r.2.1)

/-! ## Completion counters (03_curd_core.md R99, R118) -/

/-- A counter increases by one; the first failure code stays. -/
def CurdRegs.count (r : CurdRegs) (k code : Nat) : CurdRegs :=
  { r with
    kval := smSet 0 r.kval k (smGet 0 r.kval k + 1)
    kcode := if code ≠ 0 ∧ smGet 0 r.kcode k = 0 then smSet 0 r.kcode k (BitVec.ofNat 8 code) else r.kcode }

/-- An operation that names counter k has been issued. -/
def Curd.issue (c : Curd) (k : Nat) : Curd := { c with issued := smSet 0 c.issued k (smGet 0 c.issued k + 1) }

/-- An operation that names counter k completes. -/
def Curd.complete (c : Curd) (k code : Nat) : Curd :=
  { c with r := c.r.count k code, issued := smSet 0 c.issued k (smGet 0 c.issued k - 1) }

/-- The context that a vat runs is being torn down: no counter of it moves (14_recovery.md R414). -/
def Dev.tearing (d : Dev) (node : Nat) : Bool :=
  match d.ctxOf node with
  | some x => (d.ctx x).tear.isSome
  | none => false

def Dev.completeOp (d : Dev) (node slot k code : Nat) : Dev :=
  if d.tearing node then d
  else d.setCurd (curdKey node slot) ((d.curd (curdKey node slot)).complete k code)

/-- A signal performed at a curd: its counter's value increases (R106). -/
def Dev.signalAt (d : Dev) (node slot k : Nat) : Dev :=
  let c := d.curd (curdKey node slot)
  if d.tearing node then d else d.setCurd (curdKey node slot) { c with r := c.r.count k 0 }

/-! ## Curd faults (R113, R120) -/

/-- The curd stops in FAULTED and keeps the first fault since it left IDLE. -/
def Curd.takeFault (c : Curd) (cause : Nat) (pc : BitVec 12) (addr : Nat) : Curd :=
  let code := BitVec.ofNat 64 (cause + 256 * pc.toNat)
  let r : CurdRegs :=
    if bits c.r.fault.toNat 7 0 = 0 then { c.r with fault := code, faultAddr := BitVec.ofNat 64 addr } else c.r
  { c with st := .faulted, waitK := none, stopping := false, r := r }

/-! ## Doorbells and events (11_host_mailboxes.md R344, R355, 12_rennet.md R365) -/

def Dev.mbx (d : Dev) (f key : Nat) : Mbx := smGet Mbx.init (d.func f).mbx key
def Dev.setMbx (d : Dev) (f key : Nat) (x : Mbx) : Dev :=
  d.setFunc f { d.func f with mbx := smSet Mbx.init (d.func f).mbx key x }

/-- A vector is sent: its number is the channel's key (R344). -/
def Dev.sendVector (d : Dev) (f v : Nat) : Dev := { d with host := { d.host with msixSent := d.host.msixSent ++ [(f, v)] } }

/-- The device sets doorbell bits of a channel: a vector goes out when an unmasked bit goes from 0 to 1. -/
def Dev.doorbell (d : Dev) (f key : Nat) (set : Word32) : Dev :=
  let m := d.mbx f key
  let d1 := d.setMbx f key { m with pend := m.pend ||| set }
  if set &&& ~~~m.pend &&& ~~~m.mask = 0 then d1 else d1.sendVector f key

/-- One function holds an event bit, and its doorbell bit 1 rises. -/
def Dev.eventAt (d : Dev) (f b : Nat) : Dev :=
  let x := d.func f
  (d.setFunc f { x with events := if bit x.events b then x.events else x.events + 2 ^ b }).doorbell f 0 2

/-- An event: bits 0-4 go to the physical function and the partition's function, bits 5 and 6 to the physical one. -/
def Dev.event (d : Dev) (b : Nat) (part : Option Nat) : Dev :=
  let d1 := d.eventAt 0 b
  match part with
  | some p => if b ≤ 4 then d1.eventAt (p + 1) b else d1
  | none => d1

/-- A bit of SB_ALERT is set: a change of an unmasked bit raises an in-band interrupt (18_module.md R515). -/
def Dev.sbAlert (d : Dev) (b : Nat) : Dev :=
  let x := d.sb
  if bit x.alert b then d
  else { d with sb := { x with alert := x.alert + 2 ^ b,
                               ibis := if x.ibiEn && !bit x.alertMask b then x.ibis ++ [b] else x.ibis } }

/-- A curd fault: the curd stops, its fault message goes out, and the physical function and the partition's function
hold the event (12_rennet.md R365 bit 1). -/
def Dev.curdFault (d : Dev) (node slot cause : Nat) (pc : BitVec 12) (addr : Nat) : Dev :=
  (d.setCurd (curdKey node slot) ((d.curd (curdKey node slot)).takeFault cause pc addr)).raiseVat node cause slot addr
    |>.event 1 (d.partOf node)

end Sys2Proof.Machine
end

