-- ==== Sys2Proof/Machine/ExtOps.lean ====
section
/-! DEFINITION. External memory: where an allocation offset lives, segment registers, lines with their error marks,
sparing and retirement, fills (10_memory.md, 02_programming_model.md R54, R55). -/

namespace Sys2Proof.Machine

/-! ## Placement (R304-R309) -/

/-- The channel set of a partition's mode: fixed at the S3 of the power-on (R304). -/
def Dev.chanSet (d : Dev) (p : Part) : List Nat :=
  if p.local_ then d.ext.wide.filter (fun c => c / 8 == p.home) else d.ext.wide

/-- Slots a region takes on each channel (R305). -/
def slotsPer (n : Nat) : Nat := (16384 + n - 1) / n

/-- Regions in a granule (R307). -/
def regionsPer (n : Nat) : Nat := 2 ^ 18 / slotsPer n

/-- Position in the channel set and slot of a 2 MiB region's byte (R305). -/
def placeIdx (n off : Nat) : Nat × Nat :=
  let l := off % 2 ^ 21 / 128
  let u := l / n
  let g := (u + u / 32 + u / 1024) % n
  ((l % n + g) % n, u)

/-- The line address from channel, band and line (R309). -/
def lineAddr (chan band line : Nat) : Nat := chan + band * 2 ^ 5 + line * 2 ^ 18

def lineChan (la : Nat) : Nat := la % 32
def lineBand (la : Nat) : Nat := bits la 17 5
def lineNo (la : Nat) : Nat := bits la 35 18

/-- Bytes of one granule of `n` channels. -/
def granBytes (n : Nat) : Nat := regionsPer n * 2 ^ 21

/-- The granule and the line address of an allocation offset; none beyond the allocation. -/
def Part.lineAt (p : Part) (off : Nat) : Option (Granule × Nat) :=
  match p.grans with
  | [] => none
  | g0 :: _ =>
    let n := g0.bands.length
    if n = 0 then none
    else
      let r := off / 2 ^ 21
      match p.grans[r / regionsPer n]? with
      | none => none
      | some g =>
        let x := placeIdx n off
        match g.bands[x.1]? with
        | none => none
        | some (ch, band) => some (g, lineAddr ch band (r % regionsPer n * slotsPer n + x.2))

/-- The allocation offset a partition gives a line address, if it holds the line. -/
def Part.offOf (p : Part) (la : Nat) : Option Nat :=
  match p.grans with
  | [] => none
  | g0 :: _ =>
    let n := g0.bands.length
    if n = 0 then none
    else
      match (List.range p.grans.length).find? (fun i =>
          match p.grans[i]? with
          | some g => g.bands.contains (lineChan la, lineBand la)
          | none => false) with
      | none => none
      | some gi =>
        let idx := ((p.grans[gi]?.map (fun g => g.bands)).getD []).idxOf (lineChan la, lineBand la)
        let r := gi * regionsPer n + lineNo la / slotsPer n
        let u := lineNo la % slotsPer n
        let g := (u + u / 32 + u / 1024) % n
        some (r * 2 ^ 21 + (u * n + (idx + n - g) % n) * 128)

/-- The partition that holds a line, if any. -/
def Dev.partOfLine (d : Dev) (la : Nat) : Option Nat :=
  (List.range 64).find? (fun p => ((d.part p).offOf la).isSome)

/-- Pages of a partition's allocation. -/
def Part.allocPages (p : Part) : Nat :=
  match p.grans with
  | [] => 0
  | g0 :: _ => if g0.bands.length = 0 then 0 else p.grans.length * (granBytes g0.bands.length / 4096)

/-! ## Segment registers (R54, R55) -/

/-- The allocation offset of a segment-space range of `n` bytes that one valid segment permits. -/
def Ctx.segAt (c : Ctx) (off n : Nat) (write : Bool) : Option Nat :=
  match c.segs.find? (fun e =>
      e.2.valid && (if write then e.2.wr else e.2.rd) && e.2.base * 4096 ≤ off && off + n ≤ (e.2.base + e.2.pages) * 4096) with
  | some e => some (e.2.page * 4096 + (off - e.2.base * 4096))
  | none => none

/-! ## Lines and their errors (R310-R315) -/

/-- Stored band: a band may have moved (R324). -/
def Chan.stored (c : Chan) (band : Nat) : Nat := if smGet 0 c.bandMap band = 0 then band else smGet 0 c.bandMap band - 1

/-- Bands of a channel by its capacity code (R322, R327). -/
def bandsOf (cap : Nat) : Nat := if cap = 0 then 0 else 1024 * 2 ^ (cap - 1)

def ranksOf (code : Nat) : Nat := 2 ^ code

/-- The rank a stored band lies in: ranks hold equal runs of bands in ascending order (notes/assumptions/11.md). -/
def Chan.rankOf (c : Chan) (stored : Nat) : Nat :=
  let per := bandsOf c.cap / ranksOf c.ranks
  if per = 0 then 0 else stored / per

/-- Devices of the line's rank that are judged failed. -/
def Chan.failedIn (c : Chan) (band : Nat) : List Nat :=
  (c.failedDev.filter (fun x => x / 20 == c.rankOf (c.stored band))).map (fun x => x % 20)

/-- Whether marked devices can be corrected (R310, R324): two symbols in a standard line, one beside an erasure, both
failed devices of a retired rank; one symbol in a confidential line. -/
def correctable (conf : Bool) (failed marked : List Nat) : Bool :=
  if conf then marked.length ≤ 1
  else if failed.length ≥ 2 then marked.all (fun x => failed.contains x)
  else if failed.length = 1 then (marked.filter (fun x => !failed.contains x)).length ≤ 1
  else marked.length ≤ 2

def markedDevs (l : List (Nat × Nat)) : List Nat := (l.filter (fun e => e.2 != 0)).map (fun e => e.1)

def devFail (cfg : Nat) : Nat := bits cfg 23 16
def pageCe (cfg : Nat) : Nat := bits cfg 27 24
def autoRetire (cfg : Nat) : Bool := bit cfg 28

/-- The channel page of a line address: 32 consecutive lines of a band (R323). -/
def pageOf (la : Nat) : Nat := (lineBand la * 2 ^ 18 + lineNo la) / 32

/-- A page is retired to a spare page: correctable lines are copied corrected, others as stored (R323). -/
def Dev.retirePage (d : Dev) (la : Nat) (conf : Bool) : Dev :=
  let ch := lineChan la
  let c := d.chan ch
  let pg := pageOf la
  let base := la - lineNo la % 32 * 2 ^ 18
  if smGet 0 c.remap pg ≠ 0 then d
  else if 65536 ≤ c.remapUsed then d.raise (plainMsg (0x120 + ch) 0x47 la)
  else
    let lines := (List.range 32).map (fun i => base + i * 2 ^ 18)
    let err := lines.foldl (fun m a =>
      if correctable conf (c.failedIn (lineBand a)) (markedDevs (smGet [] m a)) then smSet [] m a [] else m) d.ext.lineErr
    (({ d with ext := { d.ext with lineErr := err } }.setChan ch
      { c with remap := smSet 0 c.remap pg (c.remapUsed + 1), remapUsed := c.remapUsed + 1 }).raise
        (plainMsg (0x120 + ch) 0x45 la))

/-- Moves that a retired rank asks for: each band in use stored there goes to a free spare band, spare bands being
the top 1/64 of the channel less the spare pages (R322, R324). -/
def Dev.retireRank (d : Dev) (ch rank la : Nat) : Dev :=
  let c := d.chan ch
  let inRank := c.bands.filter (fun b => c.rankOf (c.stored b) == rank)
  let total := bandsOf c.cap
  let spares := ((List.range (total / 64)).map (fun i => total - 1 - i)).filter (fun b =>
    c.rankOf b != rank && !bit c.retired (c.rankOf b) && !(c.bandMap.any (fun e => e.2 == b + 1)) &&
      !(c.moves.any (fun e => e.2 == b)) && 8 ≤ total - 1 - b)
  let moves := inRank.zip (spares.take c.spareBands)
  let c1 := { c with retired := c.retired ||| 2 ^ rank, moves := c.moves ++ moves, spareBands := c.spareBands - moves.length }
  let d1 := (d.setChan ch c1).raise (plainMsg (0x120 + ch) 0x46 la)
  if moves.length < inRank.length then d1.raise (plainMsg (0x120 + ch) 0x47 la) else d1

/-- A device is judged failed; the second of a rank retires the rank (R324). -/
def Dev.failDevice (d : Dev) (ch dev la : Nat) : Dev :=
  let c := d.chan ch
  if c.failedDev.contains dev then d
  else
    let d1 := (d.setChan ch { c with failedDev := c.failedDev ++ [dev] }).raise (plainMsg (0x120 + ch) 0x44 la)
    let rank := dev / 20
    if (c.failedDev.any (fun x => x / 20 == rank)) && !bit c.retired rank then d1.retireRank ch rank la else d1

/-- A correction of a line is counted and reported, and feeds sparing (R313, R323, R324). -/
def Dev.noteCorrected (d : Dev) (la : Nat) (conf : Bool) (devs : List Nat) : Dev :=
  let ch := lineChan la
  let c := d.chan ch
  let failed := c.failedIn (lineBand la)
  let rank := c.rankOf (c.stored (lineBand la))
  let now := d.opSec
  let live := c.devHits.filter (fun h => now - h.2.2 ≤ 86400)
  let hits := devs.foldl (fun hs x =>
    if hs.any (fun h => h.1 == rank * 20 + x && h.2.1 == la) then hs else hs ++ [(rank * 20 + x, la, now)]) live
  let fresh := devs.any (fun x => !failed.contains x)
  let pg := pageOf la
  let cnt := smGet 0 c.pageHits pg + (if fresh then 1 else 0)
  let d1 := (d.setChan ch { c with errC := hold16 (c.errC + 1), devHits := hits, pageHits := smSet 0 c.pageHits pg cnt }).raise
    (plainMsg (0x120 + ch) 0x40 la)
  let d2 := if autoRetire d.ext.cfg && pageCe d.ext.cfg ≤ cnt then d1.retirePage la conf else d1
  (devs.filter (fun x =>
    !failed.contains x && devFail d.ext.cfg ≤ (hits.filter (fun h => h.1 == rank * 20 + x)).length)).foldl
    (fun d x => d.failDevice ch (rank * 20 + x) la) d2

/-- How a line reads. -/
inductive LineState where
  | good
  | corrected (devs : List Nat)
  | uncorrectable
  | fold
  | mac
  deriving DecidableEq, Repr

/-- The state of a stored line; patrol checks the fold but never the MAC (R314, R321). -/
def Dev.lineState (d : Dev) (la : Nat) (conf mac : Bool) : LineState :=
  let devs := markedDevs (smGet [] d.ext.lineErr la)
  let failed := (d.chan (lineChan la)).failedIn (lineBand la)
  if !correctable conf failed devs then .uncorrectable
  else if conf && smGet false d.ext.badFold la then .fold
  else if conf && mac && smGet false d.ext.badMac la then .mac
  else if devs = [] then .good
  else .corrected devs

/-- A line is read: whether it is readable, with what its controller corrects, counts and reports (R313, R314, R328).
`ctx` is the context that asked. -/
def Dev.checkLine (d : Dev) (la : Nat) (conf mac : Bool) (ctx : Option Nat) : Dev × Bool :=
  let ch := lineChan la
  let c := d.chan ch
  match d.lineState la conf mac with
  | .good => (d, true)
  | .corrected devs =>
    ({ d with ext := { d.ext with lineErr := smSet [] d.ext.lineErr la [] } }.noteCorrected la conf devs, true)
  | .uncorrectable =>
    let d1 := (d.setChan ch { c with errU := hold16 (c.errU + 1) }).raise (d.ctxMsg (0x120 + ch) 0x41 0 la ctx)
    (if autoRetire d.ext.cfg then d1.retirePage la conf else d1, false)
  | .fold => ((d.setChan ch { c with errF := min (c.errF + 1) 0xFF }).raise (d.ctxMsg (0x120 + ch) 0x42 0 la ctx), false)
  | .mac => ((d.setChan ch { c with errI := min (c.errI + 1) 0xFF }).raise (d.ctxMsg (0x120 + ch) 0x43 0 la ctx), false)

/-- Whether the controller serves the line: its channel is in service and its granule is not lost (R325). -/
def Dev.lineServed (d : Dev) (g : Granule) (la : Nat) : Bool := !g.lost && (d.chan (lineChan la)).st == 1

/-- A read of `n` bytes within one line of a partition's allocation; none = FAILED (R314, R325). -/
def Dev.extLineRead (d : Dev) (p off n : Nat) (ctx : Option Nat) : Dev × Option (List Byte) :=
  match (d.part p).lineAt off with
  | none => (d, none)
  | some (g, la) =>
    if d.lineServed g la then
      let x := d.checkLine la (d.part p).conf true ctx
      (x.1, if x.2 then some (memRead x.1.ext.mem (la * 128 + off % 128) n) else none)
    else (d, none)

/-- A write of bytes within one line; false = FAILED, nothing written (R315, R325). -/
def Dev.extLineWrite (d : Dev) (p off : Nat) (bs : List Byte) (ctx : Option Nat) : Dev × Bool :=
  match (d.part p).lineAt off with
  | none => (d, false)
  | some (g, la) =>
    if !d.lineServed g la then (d, false)
    else if bs.length = 128 then
      ({ d with ext := { d.ext with mem := memWrite d.ext.mem (la * 128) bs, lineErr := smSet [] d.ext.lineErr la [],
                                    badFold := smSet false d.ext.badFold la false,
                                    badMac := smSet false d.ext.badMac la false } }, true)
    else
      let x := d.checkLine la (d.part p).conf true ctx
      if x.2 then
        ({ x.1 with ext := { x.1.ext with mem := memWrite x.1.ext.mem (la * 128 + off % 128) bs } }, true)
      else (x.1, false)

/-- Pieces of a range that lie within one 128-byte block each: (offset, position in the range, length). -/
def lineSplit : Nat → Nat → Nat → Nat → List (Nat × Nat × Nat)
  | 0, _, _, _ => []
  | fuel + 1, off, pos, n =>
    if n = 0 then []
    else
      let k := min n (128 - off % 128)
      (off, pos, k) :: lineSplit fuel (off + k) (pos + k) (n - k)

/-- A read of any length from an allocation, line by line; none if any line fails. -/
def Dev.extRead (d : Dev) (p off n : Nat) (ctx : Option Nat) : Dev × Option (List Byte) :=
  (lineSplit (n / 128 + 2) off 0 n).foldl (fun acc e =>
    let x := acc.1.extLineRead p e.1 e.2.2 ctx
    (x.1, match acc.2, x.2 with
          | some a, some b => some (a ++ b)
          | _, _ => none)) (d, some [])

/-- A write of any length to an allocation, line by line. -/
def Dev.extWrite (d : Dev) (p off : Nat) (bs : List Byte) (ctx : Option Nat) : Dev × Bool :=
  (lineSplit (bs.length / 128 + 2) off 0 bs.length).foldl (fun acc e =>
    let x := acc.1.extLineWrite p e.1 ((bs.drop e.2.1).take e.2.2) ctx
    (x.1, acc.2 && x.2)) (d, true)

/-! ## Fills (R318-R320) -/

/-- The module's memory with every listed line that `zero` picks back at zero, its marks gone. -/
def ExtMem.fill (x : ExtMem) (zero : Nat → Bool) : ExtMem :=
  { x with mem := x.mem.filter (fun e => !zero (e.1 / 128)), lineErr := x.lineErr.filter (fun e => !zero e.1),
           badFold := x.badFold.filter (fun e => !zero e.1), badMac := x.badMac.filter (fun e => !zero e.1) }

/-- Brine writes zero to a run of pages of a partition's allocation. -/
def Dev.fillPages (d : Dev) (p page pages : Nat) : Dev :=
  let q := d.part p
  { d with ext := d.ext.fill (fun la =>
      match q.offOf la with
      | some off => page * 4096 ≤ off && off < (page + pages) * 4096
      | none => false) }

/-- Brine writes zero to every line of a set of granules. -/
def Dev.fillGranules (d : Dev) (gs : List Granule) : Dev :=
  { d with ext := d.ext.fill (fun la => gs.any (fun g => g.bands.contains (lineChan la, lineBand la))) }

/-! ## Pages of an allocation (R66, R306, 05_local_memory.md R519) -/

/-- Pages that a MEM_MAP being filled will map. -/
def Grant.run : Grant → List (Nat × Nat)
  | .ctxCreate _ _ _ => []
  | .memMap _ _ _ _ _ _ n page => [(page, n)]

/-- Runs of pages in use: mapped by a valid segment register or a mapping being filled, save areas and hidden spill
runs. -/
def Dev.usedRuns (d : Dev) (p : Nat) : List (Nat × Nat) :=
  (d.part p).grants.flatMap Grant.run ++
  (List.range 16).flatMap (fun s =>
    let c := d.ctx (16 * p + s)
    (c.segs.filter (fun e => e.2.valid)).map (fun e => (e.2.page, e.2.pages)) ++
      (match c.save with | some r => [r] | none => []) ++ (match c.spill with | some r => [r] | none => []))

def runsOverlap (a b : Nat × Nat) : Bool := a.1 < b.1 + b.2 && b.1 < a.1 + a.2

/-- The lowest page with a residue modulo `m` at which a run of `n` pages is free and below `limit`: it is the lowest
such page at or after 0 or the end of a used run. -/
def findRun (used : List (Nat × Nat)) (limit n m res : Nat) : Option Nat :=
  let up (x : Nat) : Nat := x + (res + m - x % m) % m
  let cands := (up 0 :: used.map (fun r => up (r.1 + r.2))).filter (fun x =>
    x + n ≤ limit && !(used.any (fun r => runsOverlap (x, n) r)))
  cands.min?

/-- Bands a channel may still give: in service, not spare, not in a retired rank, not in use. -/
def Dev.freeBand (d : Dev) (ch : Nat) : Option Nat :=
  let c := d.chan ch
  if c.st = 1 then
    (List.range (bandsOf c.cap - bandsOf c.cap / 64)).find? (fun b =>
      !c.bands.contains b && !bit c.retired (c.rankOf (c.stored b)))
  else none

/-- Bytes mapped or mappable: all granules of all partitions, for the cap of a "-C" part (00_scope.md R2). -/
def Dev.granTotal (d : Dev) : Nat :=
  ((List.range 64).map (fun p =>
    match (d.part p).grans with
    | [] => 0
    | g0 :: _ => (d.part p).grans.length * granBytes g0.bands.length)).foldl (· + ·) 0

/-- One granule added at the top of a partition's allocation, filled (R307, R319). -/
def Dev.addGranule (d : Dev) (p : Nat) : Option Dev :=
  let q := d.part p
  let set := d.chanSet q
  if set = [] then none
  else if d.sec.fuses.cap && 2 ^ 41 < d.granTotal + granBytes set.length then none
  else
    match set.mapM (fun ch => (d.freeBand ch).map (fun b => (ch, b))) with
    | none => none
    | some bands =>
      let g : Granule := { bands := bands, lost := false }
      let d1 := bands.foldl (fun d e => d.setChan e.1 { d.chan e.1 with bands := (d.chan e.1).bands ++ [e.2] }) d
      some ((d1.setPart p { q with grans := q.grans ++ [g] }).fillGranules [g])

/-- A free run of pages, with as few granules added as make it fit; none when they cannot be had. -/
def Dev.takeRun (d : Dev) (p n m res : Nat) : Nat → Option (Dev × Nat)
  | 0 => none
  | fuel + 1 =>
    match findRun (d.usedRuns p) (d.part p).allocPages n m res with
    | some x => some (d, x)
    | none =>
      match d.addGranule p with
      | some d1 => d1.takeRun p n m res fuel
      | none => none

end Sys2Proof.Machine
end

