-- ==== Sys2Proof/Machine/Operands.lean ====
section
/-! DEFINITION. What a curd instruction reaches: registers and control registers, the local address map, the overflow
window, pending accesses, and how an instruction issues (02_programming_model.md R51-R58, 03_curd_core.md R71-R121). -/

namespace Sys2Proof.Machine

/-! ## Registers (03_curd_core.md R71) -/

/-- g0 reads as 0. -/
def CurdRegs.getG (r : CurdRegs) (i : Reg) : Word := if i = 0 then 0 else smGet 0 r.g i.toNat

/-- A write to g0 is discarded. -/
def CurdRegs.setG (r : CurdRegs) (i : Reg) (x : Word) : CurdRegs :=
  if i = 0 then r else { r with g := smSet 0 r.g i.toNat x }

/-- The 32 lanes of a vector register, lane 0 first. -/
def CurdRegs.getV (r : CurdRegs) (v : VReg) : List Word32 := smGetList 0 r.v (32 * v.toNat) 32
def CurdRegs.setV (r : CurdRegs) (v : VReg) (xs : List Word32) : CurdRegs :=
  { r with v := smSetList 0 r.v (32 * v.toNat) xs }

/-- The 256 elements of a tile, row-major. -/
def CurdRegs.getTile (r : CurdRegs) (t : Nat) : List Word32 := smGetList 0 r.acc (256 * t) 256
def CurdRegs.setTile (r : CurdRegs) (t : Nat) (xs : List Word32) : CurdRegs :=
  { r with acc := smSetList 0 r.acc (256 * t) xs }

/-- One draw of the generator (R130). -/
def CurdRegs.draw (r : CurdRegs) : Word × CurdRegs :=
  let x := rngNext r.rng0 r.rng1
  (x.1, { r with rng0 := x.2.1, rng1 := x.2.2 })

def CurdRegs.perfAdd (r : CurdRegs) (n k : Nat) : CurdRegs :=
  { r with perf := smSet 0 r.perf n (smGet 0 r.perf n + BitVec.ofNat 64 k) }

def Curd.perfAdd (c : Curd) (n k : Nat) : Curd := { c with r := c.r.perfAdd n k }

/-- Steps pass in RUN or WAIT: CRD_PERF_1 counts them (R117). -/
def Curd.spend (c : Curd) (n : Nat) : Curd := { c.perfAdd 1 n with clock := c.clock + n }

def lanesBytes (xs : List Word32) : List Byte := xs.flatMap (fun x => leBytes 4 x.toNat)

/-- 32-bit numbers of a byte string. -/
def bytesWords : Nat → List Byte → List Word32
  | 0, _ => []
  | n + 1, bs => BitVec.ofNat 32 (leNat (bs.take 4)) :: bytesWords n (bs.drop 4)

/-! ## The local address map (R51-R53, 05_local_memory.md R144, R146) -/

inductive Region where
  | ldm | ovf | vs
  | peer (n : Nat)
  | none_
  deriving DecidableEq, Repr

def regionOf (a : Nat) : Region :=
  if a < 0x10000 then .ldm
  else if a < 0x01000000 then .ovf
  else if a < 0x01080000 then .vs
  else if 0x02000000 ≤ a ∧ a < 0x02440000 then .peer ((a - 0x02000000) / 0x10000)
  else .none_

/-- Declared overflow pages and pages placed in the vat store (R116). -/
def Curd.declared (c : Curd) : Nat := bits c.r.ovf.toNat 11 0
def Curd.inVs (c : Curd) : Nat := bits c.r.ovf.toNat 27 16

/-- Where `n` bytes at a local address of a curd lie, when they lie in one region that it may reach (R53, R90, R144):
an overflow access stays a window offset until it is translated. -/
def Dev.ownPlace (d : Dev) (node slot a n : Nat) : Option Place :=
  match regionOf a with
  | .ldm => if a + n ≤ 0x10000 then some (.ldm node slot a) else none
  | .ovf =>
    if a + n ≤ 0x10000 + (d.curd (curdKey node slot)).declared * 4096 then some (.window (a - 0x10000)) else none
  | .vs => if a + n ≤ vsBase + (d.vat node).reserve * 4096 then some (.vs node (a - vsBase)) else none
  | .peer m =>
    if m < 64 ∧ a + n ≤ 0x02000000 + (m + 1) * 0x10000 then
      some (.ldm node ((d.vat node).phys m) (a - 0x02000000 - m * 0x10000))
    else none
  | .none_ => none

def isPeer (a : Nat) : Bool :=
  match regionOf a with
  | .peer _ => true
  | _ => false

/-- A local buffer: local data memory, the vat store or the overflow window, not the peer window (R93, R105). -/
def Dev.bufferOk (d : Dev) (node slot a n : Nat) : Bool := !isPeer a && (d.ownPlace node slot a n).isSome

/-- A descriptor's place: local data memory or the vat store (R108, R109). -/
def Dev.descOk (d : Dev) (node slot a n : Nat) : Bool :=
  match regionOf a with
  | .ldm | .vs => (d.ownPlace node slot a n).isSome
  | _ => false

/-- The resolver: a window offset to the vat store or the hidden spill run (05_local_memory.md R146, R519). -/
def Dev.resolve (d : Dev) (node slot off : Nat) : Option Place :=
  let c := d.curd (curdKey node slot)
  let page := off / 4096
  if c.declared ≤ page then none
  else if page < c.inVs then
    match (d.vat node).logical slot with
    | some n => some (.vs node ((smGet 0 (d.vat node).base n + page) * 4096 + off % 4096))
    | none => none
  else
    match d.ctxOf node, d.coreOf node slot with
    | some x, some core =>
      match (d.ctx x).spill with
      | some run => some (.ext (x / 16) ((run.1 + smGet 0 (d.ctx x).spillOf core + (page - c.inVs)) * 4096 + off % 4096))
      | none => none
    | _, _ => none

/-- A read at a resolved place; none = an error response. -/
def Dev.placeRead (d : Dev) (node : Nat) (p : Place) (n : Nat) : Dev × Option (List Byte) :=
  match p with
  | .ldm nd sl off => d.ldmRead nd sl off n
  | .vs nd off => d.vsRead nd off n
  | .ext part off => d.extRead part off n (d.ctxOf node)
  | .window _ => (d, none)

def Dev.placeWrite (d : Dev) (node : Nat) (p : Place) (bs : List Byte) : Dev × Bool :=
  match p with
  | .ldm nd sl off => d.ldmWrite nd sl off bs
  | .vs nd off => d.vsWrite nd off bs
  | .ext part off => d.extWrite part off bs (d.ctxOf node)
  | .window _ => (d, false)

/-- The destination of R59 that a local address of a curd stands for: the core space of the curd it reaches (a vat-store
address counts with the issuing curd's, DESIGN CHOICE, notes/assumptions/45.md). -/
def Dev.localDest (d : Dev) (node slot a : Nat) : Nat :=
  let s := match d.ownPlace node slot a 1 with | some (.ldm _ sl _) => sl | _ => slot
  (match d.ctxOf node with | some x => (d.ctx x).rank | none => 0) * 8192 + (d.coreOf node s).getD 0 + 1

/-- Pieces of a local range that stay within one 4 KiB page: (address, position, length). -/
def pageSplit : Nat → Nat → Nat → Nat → List (Nat × Nat × Nat)
  | 0, _, _, _ => []
  | fuel + 1, a, pos, n =>
    if n = 0 then []
    else
      let k := min n (4096 - a % 4096)
      (a, pos, k) :: pageSplit fuel (a + k) (pos + k) (n - k)

/-- The place of a piece, its overflow page translated. -/
def Dev.pieceAt (d : Dev) (node slot a n : Nat) : Option Place :=
  match d.ownPlace node slot a n with
  | some (.window off) => d.resolve node slot off
  | r => r

/-- A read of local bytes by the curd's own engines; the first failing piece's address with none. -/
def Dev.localRead (d : Dev) (node slot a n : Nat) : Dev × Except Nat (List Byte) :=
  (pageSplit (n / 4096 + 2) a 0 n).foldl (fun acc e =>
    match acc.2 with
    | .error x => (acc.1, .error x)
    | .ok bs =>
      match acc.1.pieceAt node slot e.1 e.2.2 with
      | none => (acc.1, .error e.1)
      | some p =>
        let r := acc.1.placeRead node p e.2.2
        match r.2 with
        | some more => (r.1, .ok (bs ++ more))
        | none => (r.1, .error e.1)) (d, .ok [])

/-- An access that failed is logged with its address and raises no curd fault (R90, R148). -/
def Dev.logAccess (d : Dev) (node unit a : Nat) : Dev := d.raiseVat node 0x11 unit a

/-- A write of local bytes by the curd's own engines: failed pieces of external pages are logged (R148); whether every
byte was written. -/
def Dev.localWrite (d : Dev) (node slot a : Nat) (bs : List Byte) : Dev × Bool :=
  (pageSplit (bs.length / 4096 + 2) a 0 bs.length).foldl (fun acc e =>
    match acc.1.pieceAt node slot e.1 e.2.2 with
    | none => (acc.1, false)
    | some p =>
      let r := acc.1.placeWrite node p ((bs.drop e.2.1).take e.2.2)
      match p with
      | .ext _ _ => (if r.2 then r.1 else r.1.logAccess node slot e.1, acc.2 && r.2)
      | _ => (r.1, acc.2 && r.2)) (d, true)

/-! ## What holds an instruction at issue -/

def overlap (a n b m : Nat) : Bool := a < b + m && b < a + n

/-- Bytes a queued tensor instruction reads, and bytes it writes. -/
def TOp.reads : TOp → List (Nat × Nat)
  | .tmma _ fmt a b _ _ _ =>
    match Fmt.ofCode fmt with
    | some f => [(a, f.footprint), (b, f.footprint)]
    | none => []
  | .tld _ a => [(a, 1024)]
  | _ => []

def TOp.writes : TOp → List (Nat × Nat)
  | .tst _ fmt a _ _ _ _ =>
    match Fmt.ofCode fmt with
    | some f => [(a, 256 * f.tstBytes)]
    | none => []
  | _ => []

/-- A queued tensor instruction still to write these bytes, or, for a write, still to read them (R97). -/
def Curd.tensorHolds (c : Curd) (a n : Nat) (write : Bool) : Bool :=
  c.tq.any (fun e =>
    e.op.writes.any (fun s => overlap a n s.1 s.2) || (write && e.op.reads.any (fun s => overlap a n s.1 s.2)))

/-- A queued stochastic TST still to make its draws (R98). -/
def Curd.tensorDraws (c : Curd) : Bool :=
  c.tq.any (fun e => match e.op with | .tst _ _ _ rnd _ _ _ => rnd | _ => false)

/-- An own load or store, to anything but the peer window, is still to be performed: a later one waits its turn (R63). -/
def Curd.ownPending (c : Curd) : Bool := c.loads.any (fun l => !isPeer l.addr) || c.stores.any (fun w => !isPeer w.addr)

/-- Stores not yet performed to regions other than the curd's local data memory (R76). -/
def Curd.postedStores (c : Curd) : Nat := (c.stores.filter (fun w => regionOf w.addr != .ldm)).length

/-- A pending store of the curd to these bytes (R76). -/
def Curd.storeHolds (c : Curd) (a n : Nat) : Bool := c.stores.any (fun s => overlap a n s.addr s.data.length)

/-- Accesses waiting at one curd's local data memory through the peer window (05_local_memory.md R143). -/
def Dev.peerQueued (d : Dev) (node target : Nat) : Nat :=
  ((List.range 68).map (fun s =>
    let c := d.curd (curdKey node s)
    (c.loads.filter (fun l => isPeer l.addr && (match l.place with | .ldm _ t _ => t == target | _ => false))).length +
      (c.stores.filter (fun l => isPeer l.addr && (match l.place with | .ldm _ t _ => t == target | _ => false))).length)).foldl
    (· + ·) 0

/-- Whether a region that is not local data memory takes one more access: the resolver's queue of 60 (R147), the
admission queue of 40 (R143). -/
def Dev.accepts (d : Dev) (node : Nat) (a : Nat) (p : Place) : Bool :=
  match p with
  | .window _ => (d.vat node).rq.length < 60
  | .ldm _ t _ => !isPeer a || d.peerQueued node t < 40
  | _ => true

/-- An engine's overflow access is offered and accepted at once, so it takes its turn only when nothing offered earlier
waits (R147; notes/assumptions/45.md). -/
def Dev.resolverFree (d : Dev) (node a n : Nat) : Bool := a + n ≤ 0x10000 || vsBase ≤ a || (d.vat node).rq.isEmpty

/-- Every local data memory that a range reaches through its vat side has room in its admission queue (R143). -/
def Dev.sideRoom (d : Dev) (node slot a n : Nat) : Bool :=
  (pageSplit (n / 4096 + 2) a 0 n).all (fun e =>
    match d.ownPlace node slot e.1 e.2.2 with
    | some (.ldm _ t _) => d.peerQueued node t < 40
    | _ => true)

/-- An engine of the vat may access a local range now. -/
def Dev.engineMay (d : Dev) (node slot a n : Nat) : Bool := d.resolverFree node a n && d.sideRoom node slot a n

/-- Registers an instruction reads or writes. -/
def CurdInstr.gregs : CurdInstr → List Reg
  | .alu op d a b => (match op with | .popc | .clz | .ctz => [d, a] | _ => [d, a, b])
  | .imm _ d a _ => [d, a]
  | .shi _ d a _ => [d, a]
  | .movz d _ _ => [d]
  | .movk d _ _ => [d]
  | .branch _ a b _ => [a, b]
  | .jal d _ => [d]
  | .jalr d a _ => [d, a]
  | .csrr d _ => [d]
  | .csrw a _ => [a]
  | .nop | .halt | .brk => []
  | .iwr a b => [a, b]
  | .rand d => [d]
  | .load _ d a _ => [d, a]
  | .store _ s a _ => [s, a]
  | .vld _ a _ => [a]
  | .vst _ a _ => [a]
  | .amo _ _ d a b => [d, a, b]
  | .vop _ splat _ _ _ gs => if splat then [gs] else []
  | .vred _ _ gs => [gs]
  | .vsplat _ gs => [gs]
  | .vextract _ _ gs => [gs]
  | .vpermute _ _ _ => []
  | .vcvt _ _ _ _ _ _ _ gs => [gs]
  | .tmma _ _ ga gb _ _ _ => [ga, gb]
  | .tld _ ga => [ga]
  | .tst _ _ ga _ _ _ _ => [ga]
  | .topClear _ _ | .topCopy _ _ | .topAdd _ _ => []
  | .far _ ga gb _ _ _ => [ga, gb]
  | .dma ga _ _ => [ga]
  | .coll ga _ => [ga]
  | .wait d a _ => [d, a]
  | .signal a _ _ => [a]
  | .fence a _ => [a]
  | .cult a b _ => [a, b]
  | .cadd a _ => [a]

def CurdInstr.vregs : CurdInstr → List VReg
  | .vld v _ _ => [v]
  | .vst v _ _ => [v]
  | .vop _ splat vd va vb _ => if splat then [vd, va] else [vd, va, vb]
  | .vred _ va _ => [va]
  | .vsplat vd _ => [vd]
  | .vextract va vb _ => [va, vb]
  | .vpermute vd va vb => [vd, va, vb]
  | .vcvt _ _ _ _ vd va _ _ => [vd, va]
  | _ => []

/-- A load that has not answered still writes a register the instruction names (R74). -/
def Curd.regHolds (c : Curd) (i : CurdInstr) : Bool :=
  c.loads.any (fun l =>
    match l.kind with
    | .scalar t _ _ => t != 0 && i.gregs.any (fun g => g.toNat == t)
    | .amo t _ _ _ _ => t != 0 && i.gregs.any (fun g => g.toNat == t)
    | .vec t => i.vregs.any (fun v => v.toNat == t))

/-! ## Results of fixed latency (R75) -/

/-- The address of a load or store: register plus immediate, modulo 2^64 (R83). -/
def memAddr (c : Curd) (a : Reg) (i : Imm) : Nat := (c.r.getG a + i.signExtend 64).toNat

/-- Keys of `Curd.ready`: g_n at n, v_n at 32 + n. -/
def gKey (g : Reg) : Nat := g.toNat
def vKey (v : VReg) : Nat := 32 + v.toNat

/-- The register an instruction writes with a latency above 1, and the latency; accesses outside local data memory, or
behind a pending one, answer later. -/
def Curd.latency (c : Curd) (i : CurdInstr) : List (Nat × Nat) :=
  let here (a : Nat) : Bool := regionOf a == .ldm && !c.ownPending
  let out := match i with
    | .alu op d _ _ => (match op with
      | .mul | .mulh | .mulhu => [(gKey d, 3)]
      | .div | .divu | .rem | .remu => [(gKey d, 34)]
      | _ => [])
    | .rand d => [(gKey d, 2)]
    | .load _ d a k => if here (memAddr c a k) then [(gKey d, 2)] else []
    | .vld v a k => if here (memAddr c a k) then [(vKey v, 3)] else []
    | .amo _ _ d a _ => if here (c.r.getG a).toNat then [(gKey d, 6)] else []
    | .vop _ _ vd _ _ _ => [(vKey vd, 4)]
    | .vred _ _ gs => [(gKey gs, 6)]
    | .vsplat vd _ => [(vKey vd, 4)]
    | .vextract _ _ gs => [(gKey gs, 4)]
    | .vpermute vd _ _ => [(vKey vd, 4)]
    | .vcvt _ _ _ _ vd _ _ _ => [(vKey vd, 4)]
    | _ => []
  out.filter (fun e => e.1 != 0)

/-- Steps an instruction waits for the registers it names (R74, R75). -/
def Curd.stall (c : Curd) (i : CurdInstr) : Nat :=
  ((i.gregs.map gKey ++ i.vregs.map vKey).map (fun k => smGet 0 c.ready k - c.clock)).foldl max 0

/-- The curd after that wait: its steps are a register dependence (CRD_PERF_2). -/
def Curd.stalled (c : Curd) (i : CurdInstr) : Curd :=
  let n := c.stall i
  if n = 0 then c else (c.spend n).perfAdd 2 n

/-- Results issued now and ready later; what is ready by step `now` is forgotten. -/
def readyAfter (ready : SMap Nat) (at_ now : Nat) (lat : List (Nat × Nat)) : SMap Nat :=
  (lat.foldl (fun m e => smSet 0 m e.1 (at_ + e.2)) ready).filter (fun e => now < e.2)

/-! ## Control and status registers (R111-R117) -/

/-- The first of a curd's sixteen far tags: 16 times its logical number (06_mesh.md R193). -/
def Dev.farTagBase (d : Dev) (node slot : Nat) : Nat := 16 * ((d.vat node).logical slot).getD slot

/-- Far tags of a curd in use; a slot that stands for no logical curd has none. A tag held back after its operation
completed (07_links.md R231) counts as in use (DESIGN CHOICE, notes/assumptions/44.md). -/
def Dev.farTagsUsed (d : Dev) (node slot : Nat) : Nat :=
  if ((d.vat node).logical slot).isNone then 0
  else ((List.range 16).filter (fun i => (smGet none (d.ni node).tags (d.farTagBase node slot + i)).isSome)).length

def CState.code : CState → Nat
  | .idle => 0 | .run => 1 | .wait => 2 | .halted => 3 | .faulted => 4 | .stopped => 5

/-- A control and status register as the management island reads it; reserved numbers read 0. -/
def Dev.csrRead (d : Dev) (node slot n : Nat) : Word :=
  let c := d.curd (curdKey node slot)
  if n = 0x00 then c.r.id
  else if n = 0x01 then
    BitVec.ofNat 64 (c.st.code + 2 ^ 8 * c.r.pc.toNat + 2 ^ 20 * min 15 (d.farTagsUsed node slot) + 2 ^ 24 * c.colls)
  else if n = 0x04 then c.r.fault
  else if n = 0x05 then c.r.faultAddr
  else if 0x10 ≤ n ∧ n < 0x20 then
    BitVec.ofNat 64 ((smGet 0 c.r.kval (n - 0x10)).toNat + 2 ^ 32 * (smGet 0 c.r.kcode (n - 0x10)).toNat)
  else if n = 0x20 then c.r.rng0
  else if n = 0x21 then c.r.rng1
  else if 0x30 ≤ n ∧ n < 0x38 then smGet 0 c.r.perf (n - 0x30)
  else if n = 0x40 then c.r.ovf
  else 0

/-- A write: counters take their value and lose the code bits written with ones; the generator never holds 0; every
other register keeps its value (R114, R115). -/
def CurdRegs.csrWrite (r : CurdRegs) (n : Nat) (x : Word) : CurdRegs :=
  if 0x10 ≤ n ∧ n < 0x20 then
    let k := n - 0x10
    { r with kval := smSet 0 r.kval k (BitVec.ofNat 32 x.toNat)
             kcode := smSet 0 r.kcode k (smGet 0 r.kcode k &&& ~~~(BitVec.ofNat 8 (bits x.toNat 39 32))) }
  else if n = 0x20 then { r with rng0 := if x = 0 ∧ r.rng1 = 0 then 1 else x }
  else if n = 0x21 then { r with rng1 := x, rng0 := if x = 0 ∧ r.rng0 = 0 then 1 else r.rng0 }
  else r

/-! ## Issue (R74, R75, R117, R120) -/

/-- What becomes of the instruction at the pc: held at issue (counted in CRD_PERF_n), blocked in WAIT, stopped by a
fault (`faultIn`: with the module as the failed access left it), or issued and retired with the module and the curd after it, the next pc and the issue cost. -/
inductive Issue where
  | hold (perf : Nat)
  | block (k : Nat)
  | fault (cause addr : Nat)
  | faultIn (d : Dev) (cause addr : Nat)
  | retire (d : Dev) (c : Curd) (pc : BitVec 12) (cost : Nat)

def Curd.nextPc (c : Curd) : BitVec 12 := c.r.pc + 1

/-- The state of a curd that has retired an instruction. -/
def CState.retired : CState → CState
  | .wait => .run
  | s => s

/-- The outcome of an instruction at a curd, written into the module; `lat` is what it leaves to become ready later. -/
def Dev.settle (d : Dev) (node slot : Nat) (lat : List (Nat × Nat)) (x : Issue) : Dev :=
  let key := curdKey node slot
  let c := d.curd key
  match x with
  | .hold n => d.setCurd key ((c.spend 1).perfAdd n 1)
  | .block k => d.setCurd key { (c.spend 1).perfAdd 4 1 with st := .wait, waitK := some k }
  | .fault cause addr => d.curdFault node slot cause c.r.pc addr
  | .faultIn d1 cause addr => d1.curdFault node slot cause c.r.pc addr
  | .retire d1 c1 pc cost =>
    let c2 := (c1.perfAdd 0 1).spend cost
    d1.setCurd key { c2 with st := c2.st.retired, waitK := none, ready := readyAfter c2.ready c1.clock c2.clock lat,
                             r := { c2.r with pc := pc } }

/-- Curds that issue: not fenced, not told to stop, in RUN or WAIT. -/
def Curd.issuing (c : Curd) : Bool := !c.fenced && !c.stopping && (c.st == .run || c.st == .wait)

/-! ## Stopping (R79) -/

/-- Every instruction the curd has issued to its memory and tensor units has finished. -/
def Curd.quiet (c : Curd) : Bool := c.tq.isEmpty && c.loads.isEmpty && c.stores.isEmpty

/-- The management island stops a curd: a WAIT is abandoned, and STOPPED is entered once what has issued has finished. -/
def Curd.stopNow (c : Curd) : Curd :=
  match c.st with
  | .run | .wait => if c.quiet then { c with st := .stopped, waitK := none, stopping := false }
                    else { c with st := .run, waitK := none, stopping := true }
  | _ => c

/-- A curd told to stop enters STOPPED once it is quiet. -/
def Curd.stopQuiet (c : Curd) : Curd :=
  if c.stopping && c.quiet then { c with st := if c.st = .run then .stopped else c.st, stopping := false } else c

/-- What fetch and decode give at the pc (R81, R82, R120): the module after the fetch and the instruction, or a
fault's cause. -/
def Dev.fetch (d : Dev) (node slot : Nat) : Dev × Except Nat CurdInstr :=
  let r := d.isRead node slot (4 * (d.curd (curdKey node slot)).r.pc.toNat) 4
  match r.2 with
  | none => (r.1, .error 0x06)
  | some bs =>
    match decodeCurd (leNat bs) with
    | none => (r.1, .error 0x01)
    | some i => (r.1, .ok i)

/-- One issue step of a curd by a row of the table: the word at the pc is fetched and decoded; if it is an instruction
of the row, the steps it waits for a result of fixed latency pass, and `run` tells what becomes of it, unless a register
it names still waits for a load (R74, R75). A word of another row leaves the module as it is, and so does a core rail
that is off. -/
def Dev.curdStep (d : Dev) (node slot : Nat) (run : Dev → Curd → CurdInstr → Option Issue) : Dev :=
  let c := d.curd (curdKey node slot)
  if !c.issuing || d.pwr.coreMv == 0 then d
  else
    let f := d.fetch node slot
    match f.2 with
    | .error cause => f.1.curdFault node slot cause c.r.pc 0
    | .ok i =>
      let c1 := (f.1.curd (curdKey node slot)).stalled i
      let d1 := f.1.setCurd (curdKey node slot) c1
      match run d1 c1 i with
      | none => d
      | some x => d1.settle node slot (c1.latency i) (if c1.regHolds i then .hold 2 else x)

end Sys2Proof.Machine
end

