-- ==== Sys2Proof/Machine/Route.lean ====
section
/-! DEFINITION. Global addresses and chip paths: slice descriptors, rank translation, destinations on the chip and paths
between chips (02_programming_model.md R42, R49, R50, 06_mesh.md R175, R191, 07_links.md R214-R218, R223,
09_fabric_manager.md R280, R281). -/

namespace Sys2Proof.Machine

/-! ## Chip coordinates (R214) and NI_ROUTE_CFG (R218) -/

def chipCoord (chip i : Nat) : Nat :=
  match i with
  | 0 => bits chip 3 0
  | 1 => bits chip 7 4
  | 2 => bits chip 10 8
  | _ => bits chip 13 11

def chipId (c : List Nat) : Nat :=
  c.getD 0 0 + 16 * c.getD 1 0 + 256 * c.getD 2 0 + 2048 * c.getD 3 0

def rcRingMask (x : Nat) : Nat := bits x 7 0
def rcOwnChip (x : Nat) : Nat := bits x 21 8
def rcConfined (x : Nat) : Bool := bit x 36
/-- Ring length of a dimension. -/
def rcLen (x i : Nat) : Nat :=
  match i with
  | 0 => bits x 25 22 + 1
  | 1 => bits x 29 26 + 1
  | 2 => bits x 32 30 + 1
  | _ => bits x 35 33 + 1

def NI.cfg (n : NI) : Nat := n.routeCfg.toNat
def NI.ownChip (n : NI) : Nat := rcOwnChip n.cfg

/-! ## Slice descriptors (R280) and exceptions (R281) -/

def NI.slice (n : NI) (slot : Nat) : Nat := (smGet 0 n.slices slot).toNat

def sdValid (x : Nat) : Bool := bit x 0
def sdConf (x : Nat) : Bool := bit x 1
def sdPsize (x : Nat) : Nat := bits x 4 2
def sdP (x : Nat) : Nat := bits x 8 5 + 1
def sdGen (x : Nat) : Nat := bits x 20 9
def sdBase (x i : Nat) : Nat :=
  match i with
  | 0 => bits x 24 21
  | 1 => bits x 28 25
  | 2 => bits x 31 29
  | _ => bits x 34 32
def sdExt (x i : Nat) : Nat :=
  match i with
  | 0 => bits x 38 35 + 1
  | 1 => bits x 42 39 + 1
  | 2 => bits x 45 43 + 1
  | _ => bits x 48 46 + 1
def sdXcount (x : Nat) : Nat := bits x 57 49
def sdPlist (x i : Nat) : Nat := bits x (64 + 6 * i + 5) (64 + 6 * i)
def sdId (x : Nat) : Nat := bits x 191 160
def sdRanks (x : Nat) : Nat := sdExt x 0 * sdExt x 1 * sdExt x 2 * sdExt x 3 * sdP x

/-- The exception entry of a rank, if one is in force. -/
def NI.excOf (n : NI) (slot rank : Nat) : Option Nat :=
  ((List.range 256).map (fun i => (smGet 0 n.exc (256 * slot + i)).toNat)).find? (fun e => bit e 63 && bits e 19 0 == rank)

/-- R42: a rank to chip, partition and slot; none outside the slice. -/
def NI.translate (n : NI) (part slot rank : Nat) : Option (Nat × Nat × Nat) :=
  let x := n.slice slot
  if rank = 0xFFFFF then some (n.ownChip, part, slot)
  else if sdRanks x ≤ rank then none
  else
    match n.excOf slot rank with
    | some e => some (bits e 33 20, bits e 39 34, bits e 43 40)
    | none =>
      let p := rank % sdP x
      let q := rank / sdP x
      let o3 := q % sdExt x 3
      let q := q / sdExt x 3
      let o2 := q % sdExt x 2
      let q := q / sdExt x 2
      let o1 := q % sdExt x 1
      let o0 := q / sdExt x 1
      let c (i o : Nat) : Nat := (sdBase x i + o) % rcLen n.cfg i
      some (chipId [c 0 o0, c 1 o1, c 2 o2, c 3 o3], sdPlist x p, slot)

/-- The rank whose place is a partition of this chip: an exception entry's, else by the order of R41. -/
def NI.rankAt (n : NI) (slot part : Nat) : Nat :=
  let x := n.slice slot
  match ((List.range (sdXcount x)).map (fun i => (smGet 0 n.exc (256 * slot + i)).toNat)).find? (fun e =>
      bit e 63 && bits e 33 20 == n.ownChip && bits e 39 34 == part && bits e 43 40 == slot) with
  | some e => bits e 19 0
  | none =>
    let o (i : Nat) : Nat := (chipCoord n.ownChip i + rcLen n.cfg i - sdBase x i) % rcLen n.cfg i
    let q := ((o 0 * sdExt x 1 + o 1) * sdExt x 2 + o 2) * sdExt x 3 + o 3
    q * sdP x + ((List.range (sdP x)).find? (fun i => sdPlist x i == part)).getD 0

/-! ## Paths (R215-R217) -/

/-- Entry h of a path word. -/
def pathEntry (path h : Nat) : Nat := bits path (4 * h + 3) (4 * h)

/-- The path word of a list of entries, with the terminating entry e_n = e_(n-1) XOR 2 (R215). -/
def pathWord (es : List Nat) : Nat :=
  let all := if es.length < 24 then es ++ [(es.getLastD 0) ^^^ 2] else es
  ((List.range all.length).map (fun i => all.getD i 0 * 2 ^ (4 * i))).foldl (· + ·) 0

/-- The chip that a port leads to (R201): plus or minus one along its ring. -/
def nextChip (cfg chip port : Nat) : Nat :=
  let i := port / 4
  let n := rcLen cfg i
  let x := chipCoord chip i
  let y := if port / 2 % 2 = 0 then (x + 1) % n else (x + n - 1) % n
  chipId ((List.range 4).map (fun j => if j = i then y else chipCoord chip j))

/-- A link is listed if a detour entry names its sending chip and port (R218). -/
def NI.listed (n : NI) (chip port : Nat) : Bool :=
  n.detour.any (fun e => bit e.2.toNat 31 && bits e.2.toNat 13 0 == chip && bits e.2.toNat 17 14 == port)

/-- Chips visited along entries, the start among them. -/
def visit (cfg : Nat) : Nat → List Nat → List Nat
  | c, [] => [c]
  | c, e :: es => c :: visit cfg (nextChip cfg c e) es

def crosses (n : NI) : Nat → List Nat → Bool
  | _, [] => false
  | c, e :: es => n.listed c e || crosses n (nextChip n.cfg c e) es

/-- The entries of one dimension, from chip `x` (R216 build). -/
def NI.leg (n : NI) (x t i r : Nat) (around : Bool) : List Nat :=
  let len := rcLen n.cfg i
  let k := (chipCoord t i + len - chipCoord x i) % len
  let rd := if bit n.cfg (2 * i + r) then r else 1 - r
  if k = 0 then []
  else
    let plus0 : Bool := k ≤ len - k
    let run (plus : Bool) : List Nat := List.replicate (if plus then k else len - k) (4 * i + (if plus then 0 else 2) + rd)
    run (if around && crosses n x (run plus0) then !plus0 else plus0)

/-- Whether a chip lies inside the slice's hyper-rectangle (R236). -/
def inSlice (cfg x chip : Nat) : Bool :=
  (List.range 4).all (fun i => (chipCoord chip i + rcLen cfg i - sdBase x i) % rcLen cfg i < sdExt x i)

def NI.buildPath (n : NI) (slot s t r : Nat) (around : Bool) (order : List Nat) : Option (List Nat) :=
  let step (acc : Nat × List Nat) (i : Nat) : Nat × List Nat :=
    let l := n.leg acc.1 t i r around
    (l.foldl (nextChip n.cfg) acc.1, acc.2 ++ l)
  let es := (order.foldl step (s, [])).2
  let ringsOk := es.all (fun e => bit n.cfg (2 * (e / 4) + e % 2))
  let inside := !rcConfined n.cfg || (visit n.cfg s es).all (fun c => inSlice n.cfg (n.slice slot) c)
  if 1 ≤ es.length ∧ es.length ≤ 24 ∧ crosses n s es = false ∧ ringsOk ∧ inside then some es else none

/-- R216: entries and class, the first valid candidate. -/
def NI.route (n : NI) (node slot t : Nat) : Option (List Nat × Nat) :=
  let s := n.ownChip
  let r0 := (node + t) % 2
  ([r0, 1 - r0].flatMap (fun r => [false, true].flatMap (fun w =>
    [([0, 1, 2, 3], 0), ([3, 2, 1, 0], 1)].filterMap (fun o =>
      (n.buildPath slot s t r w o.1).map (fun es => (es, o.2)))))).head?

/-- The reply's path: entries reversed, bit 1 of each inverted (R217). -/
def replyPath (path hops : Nat) : List Nat := ((List.range hops).map (fun h => pathEntry path h ^^^ 2)).reverse

/-- The source chip of a packet that has made `hops` hops to reach this chip (R229). -/
def sourceChip (cfg own path hops : Nat) : Nat := (replyPath path hops).foldl (nextChip cfg) own

/-! ## Destinations on the chip (R16, R175, R191) -/

def planeNat (p : Plane) : Nat := match p with | .a => 0 | .b => 1

def meshKey (p : Plane) (node : Nat) : Nat := planeNat p * 288 + node

/-- The router and outward port an edge node attaches to (R14). -/
def attach (e : Nat) : Option (Nat × Nat) :=
  if 0x120 ≤ e ∧ e < 0x130 then some (e - 0x120, 0)
  else if 0x130 ≤ e ∧ e < 0x140 then some (16 * 17 + (e - 0x130), 2)
  else
    match e with
    | 0x140 => some (0, 3)
    | 0x142 => some (16, 3)
    | 0x150 => some (32, 3)
    | 0x144 => some (48, 3)
    | 0x146 => some (64, 3)
    | 0x151 => some (80, 3)
    | 0x154 => some (96, 3)
    | 0x152 => some (112, 3)
    | 0x148 => some (15, 1)
    | 0x14A => some (31, 1)
    | 0x14C => some (47, 1)
    | 0x14E => some (63, 1)
    | 0x155 => some (79, 1)
    | 0x141 => some (144, 3)
    | 0x143 => some (160, 3)
    | 0x145 => some (176, 3)
    | 0x147 => some (192, 3)
    | 0x156 => some (208, 3)
    | 0x149 => some (159, 1)
    | 0x14B => some (175, 1)
    | 0x14D => some (191, 1)
    | 0x14F => some (207, 1)
    | 0x157 => some (223, 1)
    | _ => none

/-- The router a node reaches the mesh by: its own, or the attachment router. -/
def homeRouter (n : Nat) : Option Nat := if n < 0x120 then some n else (attach n).map (fun a => a.1)

/-- Edge nodes in service: of an active quadrant, not fenced, and not attached to a fenced
router (R16, R18, 06_mesh.md R198). -/
def Dev.edgeOk (d : Dev) (e : Nat) : Bool :=
  edgeQuadrant e < d.sec.fuses.variant &&
    (if 0x140 ≤ e ∧ e < 0x150 then !(d.port (e - 0x140)).fenced
     else if 0x154 ≤ e ∧ e < 0x158 then !(d.cvu (e - 0x154)).fenced
     else !d.mesh.edgeOff.contains e) &&
    (match homeRouter e with
     | some n => !smGet false d.mesh.fenced (meshKey .a n) && !smGet false d.mesh.fenced (meshKey .b n)
     | none => true)

/-- The memory controller of a segment-space or allocation offset (R306). -/
def Dev.mcOf (d : Dev) (part off : Nat) : Option Nat :=
  let set := d.chanSet (d.part part)
  if set = [] then none else (set[(placeIdx set.length off).1]?).map (fun c => 0x120 + c)

/-- Where an operation goes. -/
inductive Target where
  | vat (part slot node lcurd : Nat)       -- a core space on this chip
  | mc (part slot node : Nat)              -- segment space on this chip
  | far (chip part slot : Nat)             -- another chip
  | bad (code : Nat)                       -- completes at once, nothing sent
  deriving DecidableEq, Repr

/-- The global address's parts (R49). -/
def gaRank (ga : Nat) : Nat := bits ga 63 44
def gaCore (ga : Nat) : Bool := bit ga 43
def gaCoreIdx (ga : Nat) : Nat := bits ga 34 23
def gaOff (ga : Nat) : Nat := if gaCore ga then bits ga 22 0 else bits ga 42 0

/-- The core-space checks the issuing NI makes (R50): reserved bits and the core index. -/
def gaInvalid (x ga : Nat) : Bool := gaCore ga && (bits ga 42 35 != 0 || 64 * vatsOf (sdPsize x) ≤ gaCoreIdx ga)

/-- Translation of a global address at an NI whose vat runs context (part, slot) (R42, R43, R50, R191). -/
def Dev.target (d : Dev) (node part slot ga : Nat) : Target :=
  let n := d.ni node
  match n.translate part slot (gaRank ga) with
  | none => .bad 0x03
  | some (chip, p, s) =>
    if gaInvalid (n.slice slot) ga then .bad 0x03
    else if chip ≠ n.ownChip then .far chip p s
    else if gaCore ga then
      match d.vatAt (p / 16) ((d.part p).first + gaCoreIdx ga / 64) with
      | some v => .vat p s v (gaCoreIdx ga % 64)
      | none => .bad 0x09
    else
      match d.mcOf p (gaOff ga) with
      | some m => if d.edgeOk m then .mc p s m else .bad 0x09
      | none => .bad 0x09

/-- The destination of R59: one rank's segment space, or one curd's core space. -/
def destKey (ownRank ga : Nat) : Nat :=
  (if gaRank ga = 0xFFFFF then ownRank else gaRank ga) * 8192 + (if gaCore ga then gaCoreIdx ga + 1 else 0)

/-! ## The header as bits (R173) -/

def flitHeader (f : Flit) : Nat :=
  f.dst.toNat + f.src.toNat * 2 ^ 9 + f.typ.toNat * 2 ^ 18 + boolNat f.order * 2 ^ 22 + boolNat f.mcast * 2 ^ 23 +
    boolNat f.reduce * 2 ^ 24 + boolNat f.cmark * 2 ^ 25 + boolNat f.mgmt * 2 ^ 26 + boolNat f.xchip * 2 ^ 27 +
    f.age.toNat * 2 ^ 28 + f.ctx.toNat * 2 ^ 36 + f.gen.toNat * 2 ^ 46 + f.tag.toNat * 2 ^ 58 + f.addr.toNat * 2 ^ 74 +
    f.bytes.toNat * 2 ^ 122 + f.hop.toNat * 2 ^ 130 + boolNat f.cls * 2 ^ 135 + f.status.toNat * 2 ^ 136 +
    f.link.toNat * 2 ^ 144

/-- The flit a header, a path word and a payload spell. -/
def flitOfParts (h path : Nat) (payload : List Byte) : Flit :=
  { dst := BitVec.ofNat 9 (bits h 8 0), src := BitVec.ofNat 9 (bits h 17 9), typ := BitVec.ofNat 4 (bits h 21 18),
    order := bit h 22, mcast := bit h 23, reduce := bit h 24, cmark := bit h 25, mgmt := bit h 26, xchip := bit h 27,
    age := BitVec.ofNat 8 (bits h 35 28), ctx := BitVec.ofNat 10 (bits h 45 36), gen := BitVec.ofNat 12 (bits h 57 46),
    tag := BitVec.ofNat 16 (bits h 73 58), addr := BitVec.ofNat 48 (bits h 121 74), bytes := BitVec.ofNat 8 (bits h 129 122),
    hop := BitVec.ofNat 5 (bits h 134 130), cls := bit h 135, status := BitVec.ofNat 8 (bits h 143 136),
    link := BitVec.ofNat 16 (bits h 159 144), path := BitVec.ofNat 96 path, payload := payload }

/-- A flit of a type to a node; the rest 0. -/
def blankFlit (typ dst src : Nat) : Flit :=
  { flitOfParts 0 0 [] with typ := BitVec.ofNat 4 typ, dst := BitVec.ofNat 9 dst, src := BitVec.ofNat 9 src }

end Sys2Proof.Machine
end

