-- ==== Sys2Proof/Machine/NetOps.lean ====
section
/-! DEFINITION. The network interface on the die: tags, operations handed over by engines, reply contexts, encryption of
packets between chips, edge queues (06_mesh.md R175-R195, 07_links.md R217, R223-R236). -/

namespace Sys2Proof.Machine

/-! ## Tags (R193) -/

def NI.tagRec (n : NI) (t : Nat) : Option TagRec := smGet none n.tags t
def NI.setTag (n : NI) (t : Nat) (r : Option TagRec) : NI := { n with tags := smSet none n.tags t r }

/-- The lowest free tag of a group: 16 far tags of a curd, 64 DMA tags from 1,024, 64 others from 1,088. -/
def NI.freeTag (n : NI) (lo cnt : Nat) : Option Nat :=
  ((List.range cnt).map (fun i => lo + i)).find? (fun t => (n.tagRec t).isNone)

def dmaTagBase : Nat := 1024
def otherTagBase : Nat := 1088

/-- Records of a node that stand for work in flight: a quarantined tag does not. -/
def NI.live (n : NI) : List TagRec :=
  n.tags.filterMap (fun e =>
    match e.2 with
    | some r => if r.st = .quarantine then none else some r
    | none => none)

/-- An operation of an engine enters the NI: it waits for injection under the tag. `dest` is its destination of R59. -/
def Dev.submitTo (d : Dev) (node ctx tag : Nat) (op : TagOp) (f : Flit) (ga src ord dest : Nat) : Dev :=
  let n := d.ni node
  let r : TagRec :=
    { op := op, flit := f, ga := ga, ctx := ctx, gen := (d.ctx ctx).gen, src := src, idx := n.accepts, ord := ord,
      dest := dest, chip := none, seq := 0, st := .waiting, copies := 0, limit := 0 }
  d.setNi node { n.setTag tag (some r) with accepts := n.accepts + 1 }

/-- An operation on a global address enters the NI. -/
def Dev.submit (d : Dev) (node ctx tag : Nat) (op : TagOp) (f : Flit) (ga src ord : Nat) : Dev :=
  d.submitTo node ctx tag op f ga src ord (destKey (d.ctx ctx).rank ga)

/-- A request flit of an engine, its destination still open. -/
def request (typ : Nat) (order : Bool) (len status : Nat) (payload : List Byte) : Flit :=
  { blankFlit typ 0 0 with order := order, bytes := BitVec.ofNat 8 len, status := BitVec.ofNat 8 status,
                            payload := payload }

/-- A service access carries the offset in the partition's allocation (R175). -/
def serviceFlit (typ n off : Nat) (payload : List Byte) : Flit :=
  { request typ false n 0 payload with addr := BitVec.ofNat 48 (2 ^ 47 + off) }

def ownGa (off : Nat) : Nat := 0xFFFFF * 2 ^ 44 + off

def tRd : Nat := 0
def tWr : Nat := 1
def tAmo : Nat := 2
def tSig : Nat := 3
def tColl : Nat := 4
def tRdr : Nat := 8
def tAck : Nat := 9
def tAmor : Nat := 10
def tCollr : Nat := 11

/-- Bytes of payload a flit carries: none for RD and SIG; an atomic's two operands are 16 bytes (R174). -/
def carried (f : Flit) : Nat :=
  if f.typ.toNat = tRd ∨ f.typ.toNat = tSig then 0 else if f.typ.toNat = tAmo then 16 else f.bytes.toNat

/-- The request buffer of 16 has room; a request held by the duplicate filter keeps its place in it (06_mesh.md R180, 07_links.md
R229). -/
def NI.roomA (n : NI) : Bool := decide (n.reqBuf.length + n.heldReqs.length < 16)

/-! ## Nodes in service (01_architecture.md R16) -/

def Dev.inService (d : Dev) (n : Nat) : Bool :=
  if n < 0x120 then (d.vat n).lst == .active
  else (n < 0x153 || (0x154 ≤ n && n < 0x158)) && d.edgeOk n

/-! ## What the chip knows of itself -/

/-- NI_ROUTE_CFG as a node knows it: an NI's own register, an edge node's from the chip's coordinates. -/
def Dev.routeCfgAt (d : Dev) (node : Nat) : Nat :=
  if node < 0x120 then (d.ni node).cfg
  else
    let e := fun i => (d.fm.extents.getD i 1) - 1
    d.fm.ringMask + d.fm.chip * 2 ^ 8 + e 0 * 2 ^ 22 + e 1 * 2 ^ 26 + e 2 * 2 ^ 30 + e 3 * 2 ^ 33

/-- The NI whose tables serve a context: the partition's first vat. -/
def Dev.ctxNi (d : Dev) (ctx : Nat) : NI :=
  match d.partNodes (ctx / 16) with
  | n :: _ => d.ni n
  | [] => NI.init

/-- The first partition of a context's slice: the tree table's index (08_collectives.md R247). -/
def Dev.sliceHead (d : Dev) (ctx : Nat) : Nat := sdPlist ((d.ctxNi ctx).slice (ctx % 16)) 0

/-- The member partition of a slice whose vats hold a node, with its slot (R195; the other chip's logical maps are taken
as this chip's, notes/assumptions/12.md). -/
def memberCtx (n : NI) (slot chip node lnum : Nat) : Option Nat :=
  let x := n.slice slot
  let holds (p : Nat) : Bool := p / 16 == quadrant node && p % 16 * 4 ≤ lnum && lnum < p % 16 * 4 + vatsOf (sdPsize x)
  match (smGetList 0 n.exc (256 * slot) (sdXcount x)).find? (fun e =>
      bits e.toNat 33 20 == chip && holds (bits e.toNat 39 34)) with
  | some e => some (16 * bits e.toNat 39 34 + bits e.toNat 43 40)
  | none => (((List.range (sdP x)).map (sdPlist x)).find? holds).map (fun p => 16 * p + slot)

/-- The context id of a request's sender, as the responder knows it. -/
def Dev.senderCtx (d : Dev) (q : Flit) : Nat :=
  let ctx := q.ctx.toNat
  if q.xchip then
    let n := d.ctxNi ctx
    (memberCtx n (ctx % 16) (sourceChip n.cfg n.ownChip q.path.toNat q.hop.toNat) q.src.toNat (d.vat q.src.toNat).lnum).getD ctx
  else
    match d.partOf q.src.toNat with
    | some p => if p = ctx / 16 then ctx else ((memberCtx (d.ctxNi ctx) (ctx % 16) (d.ctxNi ctx).ownChip q.src.toNat
        (d.vat q.src.toNat).lnum).getD (16 * p + ctx % 16))
    | none => ctx

/-! ## Encryption between chips (R234-R236) -/

/-- The rank at a chip and partition. -/
def rankAt (n : NI) (slot chip part : Nat) : Nat :=
  let x := n.slice slot
  match (smGetList 0 n.exc (256 * slot) (sdXcount x)).find? (fun e =>
      bits e.toNat 33 20 == chip && bits e.toNat 39 34 == part) with
  | some e => bits e.toNat 19 0
  | none =>
    let o (i : Nat) : Nat := (chipCoord chip i + rcLen n.cfg i - sdBase x i) % rcLen n.cfg i
    let p := ((List.range (sdP x)).find? (fun i => sdPlist x i == part)).getD 0
    ((((o 0) * sdExt x 1 + o 1) * sdExt x 2 + o 2) * sdExt x 3 + o 3) * sdP x + p

/-- The 96-bit nonce of R234. -/
def xNonce (rank engine chip : Nat) (reply : Bool) (copy seq : Nat) : List Byte :=
  leBytes 12 (seq % 2 ^ 46 + copy * 2 ^ 51 + boolNat reply * 2 ^ 53 + chip * 2 ^ 54 + engine * 2 ^ 68 + rank * 2 ^ 76)

/-- Additional data: header and path word with dst, age, cmark, hop and link 0 (R234). -/
def xAad (f : Flit) : List Byte :=
  let g := { f with dst := 0, age := 0, cmark := false, hop := 0, link := 0 }
  leBytes 20 (flitHeader g) ++ leBytes 12 f.path.toNat

/-- The link key a slice's members hold for a context slot (R235). -/
def Dev.linkKey (d : Dev) (ctx : Nat) : BitVec 256 := smGet 0 (d.ctxNi ctx).linkKeys (ctx % 16)

/-- Payload, nonce extension and tag of a sealed packet. -/
def sealFlit (key : BitVec 256) (nonce : List Byte) (seq : Nat) (f : Flit) : Flit :=
  let c := gcmSeal key nonce (xAad f) (f.payload.take (carried f))
  { f with payload := c.take (carried f) ++ leBytes 4 (bits seq 45 14) ++ (c.drop (carried f)).take 16 }

/-- The payload of a sealed packet; none if its tag fails. -/
def openFlit (key : BitVec 256) (nonce : List Byte) (f : Flit) : Option (List Byte) :=
  gcmOpen key nonce (xAad f) (f.payload.take (carried f)) ((f.payload.drop (carried f + 4)).take 16)

/-- The sequence a request's link field and nonce extension spell. -/
def flitSeq (f : Flit) : Nat := bits f.link.toNat 13 0 + leAt f.payload (carried f) 4 * 2 ^ 14

def Dev.confCtx (d : Dev) (ctx : Nat) : Bool := (d.part (ctx / 16)).conf

/-- The nonce of a request that has reached this chip. -/
def Dev.requestNonce (d : Dev) (q : Flit) (reply : Bool) (seq : Nat) : List Byte :=
  let ctx := q.ctx.toNat
  let n := d.ctxNi ctx
  let chip := sourceChip n.cfg n.ownChip q.path.toNat q.hop.toNat
  let part := d.senderCtx q / 16
  xNonce (rankAt n (ctx % 16) chip part) ((d.vat q.src.toNat).lnum - part % 16 * 4) n.ownChip reply
    (bits q.link.toNat 15 14) seq

/-! ## Edge and NI queues -/

/-- A flit offered for injection by a vat NI or an edge node. -/
def Dev.offer (d : Dev) (node : Nat) (p : Plane) (f : Flit) : Dev :=
  if node < 0x120 then
    let n := d.ni node
    match p with
    | .a => d.setNi node { n with outA := n.outA ++ [f] }
    | .b => d.setNi node { n with outB := n.outB ++ [f] }
  else
    let k := 2 * node + (match p with | .a => 0 | .b => 1)
    let e := d.edge k
    d.setEdge k { e with out := e.out ++ [f] }

/-- A reply leaves its responder: back along the request's path when it crosses chips, else to the requester's node; to
the own vat without the mesh (R182, R192, R195, R217, R223). -/
def Dev.reply (d : Dev) (node : Nat) (q : Flit) (typ status : Nat) (data : List Byte) : Dev :=
  let sctx := d.senderCtx q
  let base : Flit := { blankFlit typ q.src.toNat node with
    cmark := q.cmark, ctx := BitVec.ofNat 10 sctx, gen := q.gen, tag := q.tag, bytes := BitVec.ofNat 8 data.length,
    status := BitVec.ofNat 8 status, payload := data, order := false }
  if q.xchip then
    let es := replyPath q.path.toNat q.hop.toNat
    let f : Flit := { base with dst := BitVec.ofNat 9 (0x140 + es.getD 0 0), xchip := true, cls := !q.cls,
                                path := BitVec.ofNat 96 (pathWord es), link := BitVec.ofNat 16 q.src.toNat }
    let seq := flitSeq q
    let f := if d.confCtx q.ctx.toNat then sealFlit (d.linkKey q.ctx.toNat) (d.requestNonce q true seq) seq f else f
    d.offer node .b f
  else if q.src.toNat = node then
    let n := d.ni node
    d.setNi node { n with repBuf := n.repBuf ++ [base] }
  else if d.inService q.src.toNat then d.offer node .b base
  else d

/-- A message about a flit a receiver does not take (R176, R234): a vat's unit is its NI. -/
def Dev.raiseAt (d : Dev) (node kind addr : Nat) (ctx : Option Nat) : Dev :=
  d.raise (d.ctxMsg node kind (if node < 0x120 then unitNi else 0) addr ctx)

/-! ## Flow entries of the duplicate filter (R229) -/

/-- H, in counts of the management timer: (reissues + 2) times timeout (R229). -/
def Dev.hCounts (d : Dev) : Nat := (bits d.xlink 17 16 + 2) * bits d.xlink 15 0 * 25

inductive Verdict where
  | perform | duplicate | stale | hold
  deriving DecidableEq, Repr

def freshFlow (key gen seq now : Nat) : Flow := { key := key, gen := gen, top := seq, win := 1, time := now }

/-- The filter: the verdict and the flows after it. A new flow takes a free entry, or one idle for H. -/
def filterFlow (flows : List Flow) (key gen seq now h : Nat) : Verdict × List Flow :=
  match flows.find? (fun e => e.key == key) with
  | none =>
    if flows.length < 1024 then (.perform, flows ++ [freshFlow key gen seq now])
    else
      match flows.find? (fun e => decide (e.time + h ≤ now)) with
      | some e => (.perform, flows.map (fun x => if x.key = e.key then freshFlow key gen seq now else x))
      | none => (.hold, flows)
  | some e =>
    let put (x : Flow) : List Flow := flows.map (fun y => if y.key = key then x else y)
    if e.gen ≠ gen then (.perform, put (freshFlow key gen seq now))
    else
      let dlt := toSigned 14 ((seq + 2 ^ 14 - e.top) % 2 ^ 14)
      if 0 < dlt then
        (.perform, put { e with top := seq, win := (e.win <<< dlt.toNat) ||| 1, time := now })
      else if -256 < dlt then
        let i := (-dlt).toNat
        if e.win.getLsbD i then (.duplicate, put { e with time := now })
        else (.perform, put { e with win := e.win ||| (1 <<< i), time := now })
      else (.stale, put { e with time := now })

end Sys2Proof.Machine
end

