-- ==== Sys2Proof/Machine/DmaOps.lean ====
section
/-! DEFINITION. The DMA engine's shared operations: descriptors, their checks, segments through staging, check-value
blocks (05_local_memory.md R156-R170, 15_faults_cave.md R459-R461). -/

namespace Sys2Proof.Machine

/-! ## Descriptors (R158-R161) -/

def DmaDesc.ofBytes (slot k : Nat) (bs : List Byte) : DmaDesc :=
  { slot := slot, k := k, src := leAt bs 0 8, dst := leAt bs 8 8, len := leAt bs 0x10 4, row := leAt bs 0x14 4,
    srcStride := toSigned 32 (leAt bs 0x18 4), dstStride := toSigned 32 (leAt bs 0x1C 4), ctl := leAt bs 0x20 4,
    cvSeq := leAt bs 0x24 4, cvOut := leAt bs 0x28 8, done := leAt bs 0x30 8, rsv := leAt bs 0x38 8 }

def DmaDesc.order (x : DmaDesc) : Bool := bit x.ctl 0
def DmaDesc.srcLocal (x : DmaDesc) : Bool := bit x.ctl 1
def DmaDesc.dstLocal (x : DmaDesc) : Bool := bit x.ctl 2
def DmaDesc.cvOnly (x : DmaDesc) : Bool := bit x.ctl 3
def DmaDesc.poly (x : DmaDesc) : Nat := bits x.ctl 6 4
def DmaDesc.doneCtr (x : DmaDesc) : Nat := bits x.ctl 12 9
/-- The value folded into the check value's seed (R159, 15_faults_cave.md R460). -/
def DmaDesc.fold (x : DmaDesc) : Nat :=
  match bits x.ctl 8 7 with
  | 0 => 0
  | 1 => x.src
  | 2 => x.dst
  | _ => x.cvSeq

def DmaDesc.rowlen (x : DmaDesc) : Nat := if x.row = 0 then x.len else x.row
def DmaDesc.rows (x : DmaDesc) : Nat := if x.rowlen = 0 then 0 else (x.len + x.rowlen - 1) / x.rowlen
/-- Bytes of row r. -/
def DmaDesc.rowBytes (x : DmaDesc) (r : Nat) : Nat := min x.rowlen (x.len - r * x.rowlen)

/-- Width of a global address's offset field. -/
def offBits (ga : Nat) : Nat := if gaCore ga then 23 else 43

/-- An address `delta` bytes on: a global address changes only its offset field (R160). -/
def stepAddr (base : Nat) (loc : Bool) (delta : Int) : Nat :=
  if loc then ((base : Int) + delta).toNat
  else
    let m := 2 ^ offBits base
    base - base % m + (((base % m : Nat) : Int) + delta).toNat % m

/-- The address of transfer offset o at one side. -/
def sideAddr (base : Nat) (loc : Bool) (stride : Int) (rowlen o : Nat) : Nat :=
  if rowlen = 0 then base else stepAddr base loc ((o / rowlen : Nat) * stride + (o % rowlen : Nat))

def DmaDesc.srcAt (x : DmaDesc) (o : Nat) : Nat := sideAddr x.src x.srcLocal x.srcStride x.rowlen o
def DmaDesc.dstAt (x : DmaDesc) (o : Nat) : Nat := sideAddr x.dst x.dstLocal x.dstStride x.rowlen o

/-- A local range of R159: wholly within one permitted region; the peer slots 0 to 63 are one. -/
def Dev.dmaLocalOk (d : Dev) (node slot : Nat) (a : Int) (n : Nat) : Bool :=
  0 ≤ a && (if isPeer a.toNat then decide (a.toNat + n ≤ 0x02400000) else (d.ownPlace node slot a.toNat n).isSome)

/-- Every row of one side lies where it may (R161). -/
def Dev.rowsOk (d : Dev) (node : Nat) (x : DmaDesc) (base : Nat) (loc : Bool) (stride : Int) : Bool :=
  (List.range x.rows).all (fun (r : Nat) =>
    let n := x.rowBytes r
    if loc then d.dmaLocalOk node x.slot ((base : Int) + (r : Int) * stride) n
    else
      let o : Int := ((base % 2 ^ offBits base : Nat) : Int) + (r : Int) * stride
      decide (0 ≤ o) && decide (o + (n : Int) ≤ (2 ^ offBits base : Nat)))

/-- The checks made before any byte moves (R161). -/
def Dev.dmaOk (d : Dev) (node : Nat) (x : DmaDesc) : Bool :=
  x.rsv == 0 && x.ctl < 2 ^ 13 && x.poly ≤ 4 &&
    d.rowsOk node x x.src x.srcLocal x.srcStride &&
    (x.cvOnly || d.rowsOk node x x.dst x.dstLocal x.dstStride) &&
    (x.rows ≤ 1 || x.cvOnly || x.rowlen ≤ x.dstStride.natAbs) &&
    (x.poly == 0 || (x.cvOut % 8 == 0 && d.descOk node x.slot x.cvOut 8)) &&
    (x.done == 0 || (gaCore x.done && bits x.done 22 0 == 0))

/-! ## Channels -/

def Vat.ch (v : Vat) (c : Nat) : DmaCh := smGet DmaCh.init v.dma c
def Dev.dmaCh (d : Dev) (node c : Nat) : DmaCh := (d.vat node).ch c
def Dev.setDmaCh (d : Dev) (node c : Nat) (x : DmaCh) : Dev :=
  d.setVat node { d.vat node with dma := smSet DmaCh.init (d.vat node).dma c x }

def DmaCh.runOf (c : DmaCh) (id : Nat) : Option DmaRun := c.runs.find? (fun r => r.id == id)
def DmaCh.setRun (c : DmaCh) (r : DmaRun) : DmaCh := { c with runs := c.runs.map (fun x => if x.id = r.id then r else x) }

/-! ### Staging (R157, R164, R166) -/

/-- A channel's staging share in bytes. -/
def Vat.share (v : Vat) (c : Nat) : Nat := 16384 * 2 ^ bits v.dmaStage (2 * c + 1) (2 * c)

/-- Where a channel's share lies in the staging memory: the shares follow one another in channel order (DESIGN CHOICE,
notes/assumptions/45.md). -/
def Vat.shareAt (v : Vat) (c : Nat) : Nat := ((List.range c).map v.share).foldl (· + ·) 0

/-- A segment holds some of the staging bytes [lo, lo + n). -/
def DmaSeg.meets (s : DmaSeg) (lo n : Nat) : Bool := s.at_ < lo + n && lo < s.at_ + s.room

/-- Everything of a segment has been read, written and accepted. -/
def DmaSeg.done (s : DmaSeg) : Bool := s.toRead == 0 && s.toWrite == 0 && s.toTake == 0

/-- A run of bytes joins those of a segment. -/
def putRun : List (Nat × List Byte) → Nat → List Byte → List (Nat × List Byte)
  | [], o, bs => [(o, bs)]
  | (p, ps) :: r, o, bs =>
    if o + bs.length < p then (o, bs) :: (p, ps) :: r
    else if o + bs.length = p then (o, bs ++ ps) :: r
    else if p + ps.length = o then putRun r p (ps ++ bs)
    else (p, ps) :: putRun r o bs

/-- `n` bytes from transfer offset `o`, if all of them have been read. -/
def runBytes (l : List (Nat × List Byte)) (o n : Nat) : Option (List Byte) :=
  (l.find? (fun e => e.1 ≤ o && o + n ≤ e.1 + e.2.length)).map (fun e => (e.2.drop (o - e.1)).take n)

/-- The reads of the last started segment end here. -/
def DmaRun.lim (r : DmaRun) : Nat := match r.segs.getLast? with | some s => s.hi | none => r.off

/-- A change of the segment that holds a transfer offset. -/
def DmaRun.onSeg (r : DmaRun) (o : Nat) (f : DmaSeg → DmaSeg) : DmaRun :=
  { r with segs := r.segs.map (fun s => if s.lo ≤ o ∧ o < s.hi then f s else s) }

/-- Segments that have ended give their staging space back. -/
def DmaRun.release (r : DmaRun) : DmaRun :=
  { r with segs := r.segs.filter (fun s => !(s.done && (!r.stopped || (r.rd == 0 && r.wr == 0)))) }

/-- The oldest write packet all of whose bytes have been read. -/
def DmaRun.ready (r : DmaRun) : Option (Nat × Nat × List Byte) :=
  r.segs.findSome? (fun s => s.todo.findSome? (fun e => (runBytes s.data e.1 e.2).map (fun bs => (e.1, e.2, bs))))

/-- The run has issued its last read (R156). -/
def DmaRun.readAll (r : DmaRun) : Bool := r.stopped || r.d.len ≤ r.off
/-- Nothing of the run is still to be read, written or accepted. -/
def DmaRun.drained (r : DmaRun) : Bool := r.readAll && r.rd == 0 && r.wr == 0 && r.segs.isEmpty
/-- Every write of the run has been performed (R165). -/
def DmaRun.written (r : DmaRun) : Bool := r.readAll && r.rd == 0 && r.wr == 0 && r.segs.all (fun s => s.toWrite == 0)

/-- Every write of the descriptors before a run has been performed. -/
def DmaCh.earlierDone (c : DmaCh) (id : Nat) : Bool := (c.runs.takeWhile (fun r => r.id != id)).all DmaRun.written

/-! ### Tags (R168) -/

/-- An access that goes through the NI: a global address, or an overflow page in external memory. -/
def Dev.tagged (d : Dev) (node slot a : Nat) (loc : Bool) : Bool :=
  !loc || (match d.pieceAt node slot a 1 with | some (.ext _ _) => true | _ => false)

/-- A run has a packet to send that needs a tag. -/
def Dev.wantsTag (d : Dev) (node : Nat) (r : DmaRun) : Bool :=
  !r.stopped && (decide (r.off < r.lim) && d.tagged node r.d.slot (r.d.srcAt r.off) r.d.srcLocal ||
    (match r.ready with
     | some e => d.tagged node r.d.slot (r.d.dstAt e.1) r.d.dstLocal
     | none => false))

/-- A DMA tag for a channel: at most 32 while another channel waits for one. -/
def Dev.dmaTag (d : Dev) (node c : Nat) : Option Nat :=
  let n := d.ni node
  let mine := (n.tags.filter (fun e => match e.2 with | some r => r.src == 100 + c && e.1 < otherTagBase | none => false)).length
  let others := (List.range 4).any (fun o => o != c && (d.dmaCh node o).runs.any (d.wantsTag node))
  if others && 32 ≤ mine then none else n.freeTag dmaTagBase 64

/-- The first error code of a run stays, and no further segment starts (R162). The rest of the segments in progress is given
up: no packet of them is issued any more, those already issued land (DESIGN CHOICE, notes/assumptions/44.md). -/
def DmaRun.fail (r : DmaRun) (code : Nat) : DmaRun :=
  DmaRun.release { r with code := if r.code = 0 then code else r.code, stopped := true,
                          segs := r.segs.map (fun s => { s with todo := [], toRead := 0, toWrite := 0 }) }

/-! ## Check-value units (15_faults_cave.md R459, R461) -/

/-- The unit that serves a vat's quadrant: its own, or the partner's second set. -/
def Dev.cvFor (d : Dev) (node : Nat) : Option Nat :=
  let q := quadrant node
  if !(d.cvu q).fenced then some q
  else if !(d.cvu (q ^^^ 1)).fenced && d.quadOn (q ^^^ 1) then some (q ^^^ 1)
  else none

def Dev.cvSend (d : Dev) (node : Nat) (b : CvBlock) : Dev :=
  match d.cvFor node with
  | some u => d.setCvu u { d.cvu u with inq := (d.cvu u).inq ++ [b] }
  | none => d

/-! ## Moving bytes (R160, R162, R164) -/

/-- Bytes of one packet from transfer offset o, at most m: within a row and within a 128-byte block of the address. -/
def pieceLen (x : DmaDesc) (addr o m : Nat) : Nat :=
  min (min m (x.len - o)) (min (if x.rowlen = 0 then m else x.rowlen - o % x.rowlen) (128 - addr % 128))

/-- A peer slot whose curd is fenced is not in service (R90). -/
def Dev.localFenced (d : Dev) (node slot a : Nat) : Bool :=
  match d.ownPlace node slot a 1 with
  | some (.ldm nd sl _) => isPeer a && (d.curd (curdKey nd sl)).fenced
  | _ => false

/-- Bytes written by a channel and performed, from transfer offset `o`. -/
def Dev.dmaLanded (d : Dev) (node c : Nat) (r : DmaRun) (o n : Nat) : Dev :=
  let ch := d.dmaCh node c
  let r1 := (DmaRun.onSeg { r with landed := r.landed + n } o (fun s => { s with toWrite := s.toWrite - n })).release
  d.setDmaCh node c { (ch.setRun r1) with bytes := ch.bytes + n }

/-- A failure at a local side: it is logged with its address, and kept for the channel's next descriptor with the order
flag to that destination (R162, 02_programming_model.md R62). -/
def Dev.dmaFail (d : Dev) (node c : Nat) (r : DmaRun) (code a : Nat) : Dev :=
  let ch := d.dmaCh node c
  let n := d.ni node
  let e := (100 + c, d.localDest node r.d.slot a)
  let d1 := if r.d.order ∨ n.failRec.contains e then d else d.setNi node { n with failRec := n.failRec ++ [e] }
  (d1.setDmaCh node c (ch.setRun (r.fail code))).logAccess node (unitDma c) a

/-- The issuing context of a vat's engines. -/
def Dev.vatCtx (d : Dev) (node : Nat) : Nat := (d.ctxOf node).getD 0

/-- A packet of a channel on a global address, with the flag that its descriptor asks for (02_programming_model.md R61). -/
def Dev.dmaPacket (d : Dev) (node c t : Nat) (r : DmaRun) (op : TagOp) (typ n a : Nat) (bs : List Byte) : Dev :=
  d.submit node (d.vatCtx node) t op (request typ r.d.order n 0 bs) a (100 + c) 0

/-- A packet of a channel on an overflow page in external memory. -/
def Dev.dmaSpill (d : Dev) (node c t : Nat) (r : DmaRun) (op : TagOp) (typ n off a : Nat) (bs : List Byte) : Dev :=
  d.submitTo node (d.vatCtx node) t op { serviceFlit typ n off bs with order := r.d.order } a (100 + c) 0 (d.localDest node r.d.slot a)

/-- Write packets of [lo, hi) in transfer order, cut at destination block boundaries (R164). -/
def DmaDesc.writePieces (x : DmaDesc) (lo hi : Nat) : Nat → List (Nat × Nat)
  | 0 => []
  | fuel + 1 =>
    let n := pieceLen x (x.dstAt lo) lo (hi - lo)
    if hi ≤ lo ∨ n = 0 then [] else (lo, n) :: x.writePieces (lo + n) hi fuel

/-- Write packets go out, oldest first, as their bytes arrive and while tags, the resolver and the target's queue allow. -/
def Dev.dmaDrain (d : Dev) (node c id : Nat) : Nat → Dev
  | 0 => d
  | fuel + 1 =>
    match (d.dmaCh node c).runOf id with
    | none => d
    | some r =>
      match r.ready with
      | none => d
      | some (o, n, bs) =>
        let a := r.d.dstAt o
        let r1 := r.onSeg o (fun s => { s with todo := s.todo.filter (fun e => e.1 != o) })
        let ch := d.dmaCh node c
        if r.d.dstLocal then
          if !d.engineMay node r.d.slot a n then d
          else if d.localFenced node r.d.slot a then d.dmaFail node c r1 0x09 a
          else
            match d.pieceAt node r.d.slot a n with
            | some (.ext _ off) =>
              (match d.dmaTag node c with
               | none => d
               | some t =>
                 ((d.setDmaCh node c (ch.setRun { r1 with wr := r1.wr + 1 })).dmaSpill node c t r (.dmaWr c id o n) tWr n off a bs).dmaDrain
                   node c id fuel)
            | _ =>
              let w := d.localWrite node r.d.slot a bs
              if w.2 then (w.1.dmaLanded node c r1 o n).dmaDrain node c id fuel else w.1.dmaFail node c r1 0x09 a
        else
          match d.dmaTag node c with
          | none => d
          | some t =>
            ((d.setDmaCh node c (ch.setRun { r1 with wr := r1.wr + 1 })).dmaPacket node c t r (.dmaWr c id o n) tWr n a bs).dmaDrain
              node c id fuel

/-- Write packets a run still has to issue. -/
def DmaRun.pieces (r : DmaRun) : Nat := (r.segs.map (fun s => s.todo.length)).foldl (· + ·) 0

/-- Everything of a run that can go out now. -/
def Dev.dmaPush (d : Dev) (node c id : Nat) : Dev :=
  match (d.dmaCh node c).runOf id with
  | some r => d.dmaDrain node c id r.pieces
  | none => d

/-- Bytes that a read brought: to the check-value unit, and into staging unless only the check value is wanted. -/
def Dev.dmaGot (d : Dev) (node c id o : Nat) (bs : List Byte) : Dev :=
  let ch := d.dmaCh node c
  match ch.runOf id with
  | none => d
  | some r =>
    if r.stopped then d.setDmaCh node c (ch.setRun r.release)
    else
      let n := bs.length
      let r1 := r.onSeg o (fun s => { s with
        toRead := s.toRead - n, data := if r.d.cvOnly then s.data else putRun s.data o bs,
        toTake := if r.d.poly = 0 then s.toTake else s.toTake + n })
      let r2 := if r.d.poly = 0 ∧ r.d.cvOnly then { r1 with landed := r1.landed + n } else r1
      let d1 := d.setDmaCh node c (ch.setRun r2.release)
      let d2 := if r.d.poly = 0 then d1
        else d1.cvSend node { owner := .dma node c id, off := o, data := bs, last := r.d.len ≤ o + n }
      d2.dmaPush node c id

/-- Reads of the started segment, while tags, the resolver and the source's queue allow. -/
def Dev.dmaFill (d : Dev) (node c id : Nat) : Nat → Dev
  | 0 => d
  | fuel + 1 =>
    let ch := d.dmaCh node c
    match ch.runOf id with
    | none => d
    | some r =>
      if r.stopped || r.lim ≤ r.off then d
      else
        let a := r.d.srcAt r.off
        let n := pieceLen r.d a r.off (r.lim - r.off)
        let r1 := { r with off := r.off + n }
        if n = 0 then d
        else if r.d.srcLocal then
          if !d.engineMay node r.d.slot a n then d
          else if d.localFenced node r.d.slot a then d.dmaFail node c r 0x09 a
          else
            match d.pieceAt node r.d.slot a n with
            | some (.ext _ off) =>
              (match d.dmaTag node c with
               | none => d
               | some t =>
                 ((d.setDmaCh node c (ch.setRun { r1 with rd := r1.rd + 1 })).dmaSpill node c t r (.dmaRd c id r.off n) tRd n off a []).dmaFill
                   node c id fuel)
            | _ =>
              let x := d.localRead node r.d.slot a n
              match x.2 with
              | .error e => x.1.dmaFail node c r1 0x09 e
              | .ok bs =>
                ((x.1.setDmaCh node c ((x.1.dmaCh node c).setRun r1)).dmaGot node c id r.off bs).dmaFill node c id fuel
        else
          match d.dmaTag node c with
          | none => d
          | some t =>
            ((d.setDmaCh node c (ch.setRun { r1 with rd := r1.rd + 1 })).dmaPacket node c t r (.dmaRd c id r.off n) tRd n a []).dmaFill
              node c id fuel

/-- A read packet's reply (R162). -/
def Dev.dmaReadDone (d : Dev) (node c id o n code : Nat) (data : List Byte) : Dev :=
  let ch := d.dmaCh node c
  match ch.runOf id with
  | none => d
  | some r =>
    let r1 := { r with rd := r.rd - 1 }
    if code = 0 then (d.setDmaCh node c (ch.setRun r1)).dmaGot node c id o (data.take n)
    else d.setDmaCh node c (ch.setRun (r1.fail code))

/-- A write packet's acknowledgement. -/
def Dev.dmaWriteDone (d : Dev) (node c id o n code : Nat) : Dev :=
  let ch := d.dmaCh node c
  match ch.runOf id with
  | none => d
  | some r =>
    let r1 := { r with wr := r.wr - 1 }
    if code = 0 then (d.dmaLanded node c r1 o n).dmaPush node c id else d.setDmaCh node c (ch.setRun (r1.fail code))

end Sys2Proof.Machine
end

