-- ==== Sys2Proof/Machine/CultOps.lean ====
section
/-! DEFINITION. Culture updates: which entry of a record is valid, which one an update writes, and the NI's steps
(02_programming_model.md R67, R68, 03_curd_core.md R110). -/

namespace Sys2Proof.Machine

/-! ## Entries (R67, R68) -/

/-- A segment-space range within one keep segment, as an allocation offset. -/
def Ctx.keepAt (c : Ctx) (off len : Nat) : Option Nat :=
  match c.segs.find? (fun e =>
      e.2.valid && e.2.keep && e.2.base * 4096 ≤ off && off + len ≤ (e.2.base + e.2.pages) * 4096) with
  | some e => some (e.2.page * 4096 + (off - e.2.base * 4096))
  | none => none

def cuStep (e : List Byte) : Nat := leAt e 0 8
def cuSeq (e : List Byte) : Nat := leAt e 8 4
def cuNbuf (e : List Byte) : Nat := bits (leAt e 0x0C 4) 3 0
def cuImage (e : List Byte) : Nat × Nat := (leAt e 0x10 8, leAt e 0x18 8)
def cuBuffer (e : List Byte) (i : Nat) : Nat × Nat := (leAt e (0x20 + 16 * i) 8, leAt e (0x28 + 16 * i) 8)

/-- At most 12 buffers, the image and every buffer within keep segments. -/
def Ctx.cuPlaced (c : Ctx) (e : List Byte) : Bool :=
  cuNbuf e ≤ 12 && (cuImage e :: (List.range (cuNbuf e)).map (cuBuffer e)).all (fun r => (c.keepAt r.1 r.2).isSome)

/-- A valid entry at its segment-space offset (R68; 15_faults_cave.md R460). -/
def Ctx.cuValid (c : Ctx) (off : Nat) (e : List Byte) : Bool :=
  leAt e 0xFC 4 == crcValue 1 off (e.take 0xFC) && c.cuPlaced e

/-- b is higher than a, modulo 2^32. -/
def seqHigher (b a : Nat) : Bool := let x := (b + 2 ^ 32 - a) % 2 ^ 32; 1 ≤ x && x ≤ 2 ^ 31 - 1

/-- The entry an update writes (0 or 0x100) and the sequence it takes, from both entries' validity and sequences. -/
def cuChoose (v0 v1 : Bool) (s0 s1 : Nat) : Nat × Nat :=
  let second : Bool := v0 && (!v1 || seqHigher s0 s1)
  let other : Option Nat := if second then (if v0 then some s0 else none) else (if v1 then some s1 else none)
  (if second then 0x100 else 0, match other with | some s => (s + 1) % 2 ^ 32 | none => 1)

/-- The 252 bytes written before the crc: the image with its sequence in place. -/
def cuBody (image : List Byte) (seq : Nat) : List Byte := image.take 8 ++ leBytes 4 seq ++ (image.drop 12).take 240

/-! ## The NI's steps (R110) -/

def cultSrc : Nat := 300

/-- A service access of the head update, under a free tag; none if none is free. -/
def Dev.cultAccess (d : Dev) (node : Nat) (x : CultOp) (op : TagOp) (typ n off : Nat) (payload : List Byte) : Dev :=
  match (d.ni node).freeTag otherTagBase 64 with
  | some t => d.submit node x.ctx t op (serviceFlit typ n (x.base + off) payload) (ownGa (x.record + off)) cultSrc 0
  | none => d

def Dev.setCultHead (d : Dev) (node : Nat) (x : CultOp) : Dev :=
  let n := d.ni node
  d.setNi node { n with cult := x :: n.cult.drop 1 }

/-- The head update ends: its counter takes the code, and the next one begins when the NI serves it. -/
def Dev.cultEnd (d : Dev) (node code : Nat) : Dev :=
  let n := d.ni node
  match n.cult with
  | [] => d
  | x :: rest =>
    let d1 := (d.setNi node { n with cult := rest }).completeOp node x.slot x.k code
    if code = 0 then d1 else d1.raise (d1.ctxMsg node 0x11 unitNi (ownGa x.record) (some x.ctx))

/-- The updates of one rank, whatever vat they were issued on, are performed one at a time in arrival order. -/
def Dev.cultTurn (d : Dev) (x : CultOp) : Bool :=
  (d.partNodes (x.ctx / 16)).all (fun n => (d.ni n).cult.all (fun y => y.ctx != x.ctx || x.arr ≤ y.arr))

/-- Step 1: both entries are read. A record outside a keep segment is refused. -/
def Dev.cultStart (d : Dev) (node : Nat) : Dev :=
  match (d.ni node).cult with
  | [] => d
  | x :: _ =>
    if x.phase ≠ 0 ∨ d.cultTurn x = false then d
    else
      match (d.ctx x.ctx).keepAt x.record 512 with
      | none => d.cultEnd node 0x03
      | some base =>
        if x.record % 64 ≠ 0 then d.cultEnd node 0x03
        else if (d.cvFor node).isNone then d.cultEnd node 0x09
        else if ((List.range 64).filter (fun i => ((d.ni node).tagRec (otherTagBase + i)).isNone)).length < 4 then d
        else
          let y := { x with phase := 1, base := base, wait := 4 }
          (List.range 4).foldl (fun d i => d.cultAccess node y (.cultRd (128 * i)) tRd 128 (128 * i) []) (d.setCultHead node y)

/-- Step 2: the record is the rank's, the entry that R68 selects is written, and its bytes go to the check-value unit. -/
def Dev.cultPick (d : Dev) (node : Nat) (x : CultOp) : Dev :=
  let c := d.ctx x.ctx
  let e0 := memRead x.got 0 256
  let e1 := memRead x.got 256 256
  if !c.cuPlaced x.entry then d.cultEnd node 0x03
  else
    let p := cuChoose (c.cuValid x.record e0) (c.cuValid (x.record + 256) e1) (cuSeq e0) (cuSeq e1)
    let body := cuBody x.entry p.2
    let y := { x with phase := 2, pick := p.1, wait := 2 }
    let d1 := (d.setCultHead node y).setCtx x.ctx { c with culture := some x.record }
    let d2 := d1.cultAccess node y .cultWr tWr 128 p.1 (body.take 128)
    let d3 := d2.cultAccess node y .cultWr tWr 124 (p.1 + 128) (body.drop 128)
    (d3.cvSend node { owner := .cult node, off := 0, data := body.take 128, last := false }).cvSend node
      { owner := .cult node, off := 128, data := body.drop 128, last := true }

/-- Step 3: the crc is written last, once the entry is in place and the unit has given it. -/
def Dev.cultCrcOut (d : Dev) (node : Nat) (x : CultOp) : Dev :=
  match x.crc with
  | some v =>
    if x.phase = 2 ∧ x.wait = 0 then
      (d.setCultHead node { x with phase := 3, wait := 1 }).cultAccess node x .cultCrc tWr 4 (x.pick + 252) (leBytes 4 v)
    else d
  | none => d

/-- An access of the head update has completed. -/
def Dev.cultDone (d : Dev) (node : Nat) (op : TagOp) (code : Nat) (data : List Byte) : Dev :=
  match (d.ni node).cult with
  | [] => d
  | x :: _ =>
    let y : CultOp := { x with wait := x.wait - 1, code := if x.code = 0 then code else x.code,
                               got := match op with | .cultRd o => memWrite x.got o data | _ => x.got }
    let d1 := d.setCultHead node y
    if y.wait ≠ 0 then d1
    else if y.code ≠ 0 then d1.cultEnd node y.code
    else if y.phase = 1 then d1.cultPick node y
    else if y.phase = 2 then d1.cultCrcOut node y
    else d1.cultEnd node 0

/-- The check-value unit gives the crc of the head update. -/
def Dev.cultCrc (d : Dev) (node v : Nat) : Dev :=
  match (d.ni node).cult with
  | [] => d
  | x :: _ =>
    let y := { x with crc := some v }
    (d.setCultHead node y).cultCrcOut node y

end Sys2Proof.Machine
end

