-- ==== Sys2Proof/Machine/CurdScalar.lean ====
section
/-! DEFINITION. The curd's scalar, control, counter and vector rows (03_curd_core.md R83-R88, R102, R103, 04_arithmetic.md
R130-R138). -/

namespace Sys2Proof.Machine

/-- Retired with a scalar result. -/
def retireG (d : Dev) (c : Curd) (rd : Reg) (x : Word) (cost : Nat) : Issue :=
  .retire d { c with r := c.r.setG rd x } c.nextPc cost

/-- Retired with a vector result. -/
def retireV (d : Dev) (c : Curd) (v : VReg) (xs : List Word32) : Issue :=
  .retire d { c with r := c.r.setV v xs } c.nextPc 1

/-- Issue costs of R75. -/
def aluCost (op : AluOp) : Nat :=
  match op with
  | .div | .divu | .rem | .remu => 34
  | _ => 1

/-- A branch: pc plus the offset when taken, at a cost of 2 (R73, R75, R83). -/
def branchOn (d : Dev) (c : Curd) (taken : Bool) (off : Imm) : Issue :=
  if taken then .retire d c (c.r.pc + BitVec.ofInt 12 off.toInt) 2 else .retire d c c.nextPc 1

/-- A jump: the link register takes pc + 1 (R83). -/
def jumpTo (d : Dev) (c : Curd) (rd : Reg) (target : BitVec 12) : Issue :=
  .retire d { c with r := c.r.setG rd (BitVec.ofNat 64 (c.r.pc.toNat + 1)) } target 2

def low32 (x : Word) : Word32 := BitVec.ofNat 32 x.toNat

def laneOf (xs : List Word32) (i : Nat) : Word32 := (xs[i]?).getD 0

/-- The scale of a conversion: 1.0 when gs is 0 (R131). -/
def scaleOf (c : Curd) (gs : Reg) : FNum := if gs = 0 then .fin 1 0 else f32 (low32 (c.r.getG gs))

/-- R103. -/
def waitOn (d : Dev) (c : Curd) (rd : Reg) (target : Word32) (k : Nat) : Issue :=
  let code := smGet 0 c.r.kcode k
  if code ≠ 0 then retireG d c rd (code.setWidth 64) 1
  else if 0 ≤ (smGet 0 c.r.kval k - target).toInt then retireG d c rd 0 1
  else .block k

/-- A queued stochastic TST still to write the generator holds an access to CRD_RNG0 and CRD_RNG1 (R74, R98). -/
def Curd.rngHolds (c : Curd) (n : Nat) : Bool := (n == 0x20 || n == 0x21) && c.tensorDraws

/-- CSRR (R83, R112): a running program reads state 1. -/
def runCsrr (node slot : Nat) (d : Dev) (c : Curd) (i : CurdInstr) : Option Issue :=
  match i with
  | .csrr rd n => some (if c.rngHolds n.toNat then .hold 2 else retireG d c rd (d.csrRead node slot n.toNat) 1)
  | _ => none

def execCsrr (node slot : Nat) (s : State) : Answer := s.next (s.dev.curdStep node slot (runCsrr node slot))

/-- ALU (R84, R85). -/
def runAlu (d : Dev) (c : Curd) (i : CurdInstr) : Option Issue :=
  match i with
  | .alu op rd ra rb => some (retireG d c rd (aluFn op (c.r.getG ra) (c.r.getG rb)) (aluCost op))
  | _ => none

def execAlu (node slot : Nat) (s : State) : Answer := s.next (s.dev.curdStep node slot runAlu)

/-- ADDI (R83). -/
def runAddi (d : Dev) (c : Curd) (i : CurdInstr) : Option Issue :=
  match i with
  | .imm .addi rd ra k => some (retireG d c rd (immFn .addi (c.r.getG ra) k) 1)
  | _ => none

def execAddi (node slot : Nat) (s : State) : Answer := s.next (s.dev.curdStep node slot runAddi)

/-- ANDI (R83). -/
def runAndi (d : Dev) (c : Curd) (i : CurdInstr) : Option Issue :=
  match i with
  | .imm .andi rd ra k => some (retireG d c rd (immFn .andi (c.r.getG ra) k) 1)
  | _ => none

def execAndi (node slot : Nat) (s : State) : Answer := s.next (s.dev.curdStep node slot runAndi)

/-- ORI (R83). -/
def runOri (d : Dev) (c : Curd) (i : CurdInstr) : Option Issue :=
  match i with
  | .imm .ori rd ra k => some (retireG d c rd (immFn .ori (c.r.getG ra) k) 1)
  | _ => none

def execOri (node slot : Nat) (s : State) : Answer := s.next (s.dev.curdStep node slot runOri)

/-- XORI (R83). -/
def runXori (d : Dev) (c : Curd) (i : CurdInstr) : Option Issue :=
  match i with
  | .imm .xori rd ra k => some (retireG d c rd (immFn .xori (c.r.getG ra) k) 1)
  | _ => none

def execXori (node slot : Nat) (s : State) : Answer := s.next (s.dev.curdStep node slot runXori)

/-- SLTI (R83). -/
def runSlti (d : Dev) (c : Curd) (i : CurdInstr) : Option Issue :=
  match i with
  | .imm .slti rd ra k => some (retireG d c rd (immFn .slti (c.r.getG ra) k) 1)
  | _ => none

def execSlti (node slot : Nat) (s : State) : Answer := s.next (s.dev.curdStep node slot runSlti)

/-- SHI (R83). -/
def runShi (d : Dev) (c : Curd) (i : CurdInstr) : Option Issue :=
  match i with
  | .shi op rd ra n => some (retireG d c rd (shFn op (c.r.getG ra) n.toNat) 1)
  | _ => none

def execShi (node slot : Nat) (s : State) : Answer := s.next (s.dev.curdStep node slot runShi)

/-- MOVZ (R83). -/
def runMovz (d : Dev) (c : Curd) (i : CurdInstr) : Option Issue :=
  match i with
  | .movz rd h k => some (retireG d c rd (movzFn h.toNat k) 1)
  | _ => none

def execMovz (node slot : Nat) (s : State) : Answer := s.next (s.dev.curdStep node slot runMovz)

/-- MOVK (R83). -/
def runMovk (d : Dev) (c : Curd) (i : CurdInstr) : Option Issue :=
  match i with
  | .movk rd h k => some (retireG d c rd (movkFn (c.r.getG rd) h.toNat k) 1)
  | _ => none

def execMovk (node slot : Nat) (s : State) : Answer := s.next (s.dev.curdStep node slot runMovk)

/-- BEQ (R83). -/
def runBeq (d : Dev) (c : Curd) (i : CurdInstr) : Option Issue :=
  match i with
  | .branch .eq ra rb off => some (branchOn d c (condFn .eq (c.r.getG ra) (c.r.getG rb)) off)
  | _ => none

def execBeq (node slot : Nat) (s : State) : Answer := s.next (s.dev.curdStep node slot runBeq)

/-- BNE (R83). -/
def runBne (d : Dev) (c : Curd) (i : CurdInstr) : Option Issue :=
  match i with
  | .branch .ne ra rb off => some (branchOn d c (condFn .ne (c.r.getG ra) (c.r.getG rb)) off)
  | _ => none

def execBne (node slot : Nat) (s : State) : Answer := s.next (s.dev.curdStep node slot runBne)

/-- BLT (R83). -/
def runBlt (d : Dev) (c : Curd) (i : CurdInstr) : Option Issue :=
  match i with
  | .branch .lt ra rb off => some (branchOn d c (condFn .lt (c.r.getG ra) (c.r.getG rb)) off)
  | _ => none

def execBlt (node slot : Nat) (s : State) : Answer := s.next (s.dev.curdStep node slot runBlt)

/-- BGE (R83). -/
def runBge (d : Dev) (c : Curd) (i : CurdInstr) : Option Issue :=
  match i with
  | .branch .ge ra rb off => some (branchOn d c (condFn .ge (c.r.getG ra) (c.r.getG rb)) off)
  | _ => none

def execBge (node slot : Nat) (s : State) : Answer := s.next (s.dev.curdStep node slot runBge)

/-- BLTU (R83). -/
def runBltu (d : Dev) (c : Curd) (i : CurdInstr) : Option Issue :=
  match i with
  | .branch .ltu ra rb off => some (branchOn d c (condFn .ltu (c.r.getG ra) (c.r.getG rb)) off)
  | _ => none

def execBltu (node slot : Nat) (s : State) : Answer := s.next (s.dev.curdStep node slot runBltu)

/-- BGEU (R83). -/
def runBgeu (d : Dev) (c : Curd) (i : CurdInstr) : Option Issue :=
  match i with
  | .branch .geu ra rb off => some (branchOn d c (condFn .geu (c.r.getG ra) (c.r.getG rb)) off)
  | _ => none

def execBgeu (node slot : Nat) (s : State) : Answer := s.next (s.dev.curdStep node slot runBgeu)

/-- JAL (R83). -/
def runJal (d : Dev) (c : Curd) (i : CurdInstr) : Option Issue :=
  match i with
  | .jal rd target => some (jumpTo d c rd target)
  | _ => none

def execJal (node slot : Nat) (s : State) : Answer := s.next (s.dev.curdStep node slot runJal)

/-- JALR (R83): the target is taken modulo 4,096. -/
def runJalr (d : Dev) (c : Curd) (i : CurdInstr) : Option Issue :=
  match i with
  | .jalr rd ra k => some (jumpTo d c rd (BitVec.ofNat 12 (c.r.getG ra + k.signExtend 64).toNat))
  | _ => none

def execJalr (node slot : Nat) (s : State) : Answer := s.next (s.dev.curdStep node slot runJalr)

/-- CADD (R102): a counter's value gains the register's low 32 bits. -/
def runCadd (d : Dev) (c : Curd) (i : CurdInstr) : Option Issue :=
  match i with
  | .cadd ra k => some (.retire d { c with r := { c.r with kval := smSet 0 c.r.kval k.toNat (smGet 0 c.r.kval k.toNat + BitVec.ofNat 32 (c.r.getG ra).toNat) } } c.nextPc 1)
  | _ => none

def execCadd (node slot : Nat) (s : State) : Answer := s.next (s.dev.curdStep node slot runCadd)

/-- NOP (R86). -/
def runNop (d : Dev) (c : Curd) (i : CurdInstr) : Option Issue :=
  match i with
  | .nop => some (.retire d c c.nextPc 1)
  | _ => none

def execNop (node slot : Nat) (s : State) : Answer := s.next (s.dev.curdStep node slot runNop)

/-- RAND (R86, R98, R130): a stochastic TST still to make its draws holds it. -/
def runRand (d : Dev) (c : Curd) (i : CurdInstr) : Option Issue :=
  match i with
  | .rand rd => 
    if c.tensorDraws then some (.hold 3)
    else some (retireG d { c with r := c.r.draw.2 } rd c.r.draw.1 1)
  | _ => none

def execRand (node slot : Nat) (s : State) : Answer := s.next (s.dev.curdStep node slot runRand)

/-- CSRW (R83, R114, R115). -/
def runCsrw (d : Dev) (c : Curd) (i : CurdInstr) : Option Issue :=
  match i with
  | .csrw ra n => some (if c.rngHolds n.toNat then .hold 2 else .retire d { c with r := c.r.csrWrite n.toNat (c.r.getG ra) } c.nextPc 1)
  | _ => none

def execCsrw (node slot : Nat) (s : State) : Answer := s.next (s.dev.curdStep node slot runCsrw)

/-- WAIT (R103): a failure code returns first, then a value that has reached the target; otherwise the curd blocks. -/
def runWait (d : Dev) (c : Curd) (i : CurdInstr) : Option Issue :=
  match i with
  | .wait rd ra k => some (waitOn d c rd (BitVec.ofNat 32 (c.r.getG ra).toNat) k.toNat)
  | _ => none

def execWait (node slot : Nat) (s : State) : Answer := s.next (s.dev.curdStep node slot runWait)

/-- VOP (R88): with func[8] set each lane takes its b operand from the scalar register. -/
def runVop (d : Dev) (c : Curd) (i : CurdInstr) : Option Issue :=
  match i with
  | .vop op splat vd va vb gs => 
    let b := if splat then List.replicate 32 (low32 (c.r.getG gs)) else c.r.getV vb
    some (retireV d c vd (((c.r.getV va).zip (b.zip (c.r.getV vd))).map (fun x => vopLane op x.1 x.2.1 x.2.2)))
  | _ => none

def execVop (node slot : Nat) (s : State) : Answer := s.next (s.dev.curdStep node slot runVop)

/-- VRED (R88). -/
def runVred (d : Dev) (c : Curd) (i : CurdInstr) : Option Issue :=
  match i with
  | .vred op va gs => some (retireG d c gs ((vredFn op (c.r.getV va)).setWidth 64) 1)
  | _ => none

def execVred (node slot : Nat) (s : State) : Answer := s.next (s.dev.curdStep node slot runVred)

/-- VMOV splat (R83). -/
def runVmovSplat (d : Dev) (c : Curd) (i : CurdInstr) : Option Issue :=
  match i with
  | .vsplat vd gs => some (retireV d c vd (List.replicate 32 (low32 (c.r.getG gs))))
  | _ => none

def execVmovSplat (node slot : Nat) (s : State) : Answer := s.next (s.dev.curdStep node slot runVmovSplat)

/-- VMOV extract (R83). -/
def runVmovExtract (d : Dev) (c : Curd) (i : CurdInstr) : Option Issue :=
  match i with
  | .vextract va vb gs => some (retireG d c gs ((laneOf (c.r.getV va) (((c.r.getV vb).headD 0).toNat % 32)).setWidth 64) 1)
  | _ => none

def execVmovExtract (node slot : Nat) (s : State) : Answer := s.next (s.dev.curdStep node slot runVmovExtract)

/-- VMOV permute (R83). -/
def runVmovPermute (d : Dev) (c : Curd) (i : CurdInstr) : Option Issue :=
  match i with
  | .vpermute vd va vb => some (retireV d c vd ((c.r.getV vb).map (fun x => laneOf (c.r.getV va) (x.toNat % 32))))
  | _ => none

def execVmovPermute (node slot : Nat) (s : State) : Answer := s.next (s.dev.curdStep node slot runVmovPermute)

/-- VCVT narrow (R131, R132): the group's bytes are written, the others keep their values. -/
def runVcvtNarrow (d : Dev) (c : Curd) (i : CurdInstr) : Option Issue :=
  match i with
  | .vcvt false f rnd inf vd va group gs => 
    if rnd && c.tensorDraws then some (.hold 3)
    else
      let x := narrowLanes f rnd inf (scaleOf c gs) (groupBit f group.toNat) (c.r.getV va) 0 (lanesNat (c.r.getV vd))
        (c.r.rng0, c.r.rng1)
      some (retireV d { c with r := { c.r with rng0 := x.2.1, rng1 := x.2.2 } } vd (natLanes 32 x.1))
  | _ => none

def execVcvtNarrow (node slot : Nat) (s : State) : Answer := s.next (s.dev.curdStep node slot runVcvtNarrow)

/-- VCVT widen (R131, R132). -/
def runVcvtWiden (d : Dev) (c : Curd) (i : CurdInstr) : Option Issue :=
  match i with
  | .vcvt true f _ inf vd va group gs => 
    let src := lanesNat (c.r.getV va)
    some (retireV d c vd ((List.range 32).map (fun n => widenLane f inf (scaleOf c gs) src (groupBit f group.toNat) n)))
  | _ => none

def execVcvtWiden (node slot : Nat) (s : State) : Answer := s.next (s.dev.curdStep node slot runVcvtWiden)

end Sys2Proof.Machine
end

