-- ==== Sys2Proof/Machine/CurdMem.lean ====
section
/-! DEFINITION. The curd's memory rows: loads, stores, AMOs, IWR, their responses, the overflow resolver and the flip
masks (03_curd_core.md R76, R86-R90, R97, 05_local_memory.md R143-R152). -/

namespace Sys2Proof.Machine

/-! ## Loads (R76, R89, R90) -/

/-- A loaded value written to its destination; an AMO writes the old value, zero-extended at 32 bits (R87). -/
def CurdRegs.land (r : CurdRegs) (k : LoadKind) (bs : List Byte) : CurdRegs :=
  match k with
  | .scalar t size sx => r.setG (BitVec.ofNat 5 t) (extendTo64 size sx (leNat bs))
  | .vec v => r.setV (BitVec.ofNat 4 v) (bytesWords 32 bs)
  | .amo t _ _ _ _ => r.setG (BitVec.ofNat 5 t) (BitVec.ofNat 64 (leNat bs))

def LoadKind.size : LoadKind → Nat
  | .scalar _ n _ => n
  | .vec _ => 128
  | .amo _ _ wide _ _ => if wide then 8 else 4

/-- The combined value an AMO writes back (R87). -/
def LoadKind.combine (k : LoadKind) (old : List Byte) : Option (List Byte) :=
  match k with
  | .amo _ op wide v cmp =>
    match AmoOp.ofCode op with
    | some o =>
      let n := if wide then 8 else 4
      some (leBytes n (amoFn o (8 * n) (leNat old) (v.toNat % 2 ^ (8 * n)) (cmp.toNat % 2 ^ (8 * n))))
    | none => none
  | _ => none

def LoadKind.isAmo : LoadKind → Bool
  | .amo _ _ _ _ _ => true
  | _ => false

/-- An access in local data memory, performed at issue: a read, and an AMO's write back in the same access. -/
def Dev.ldmAccess (d : Dev) (node slot off : Nat) (k : LoadKind) : Dev × Option (List Byte) :=
  let r := d.ldmRead node slot off k.size
  match r.2 with
  | none => r
  | some old =>
    match k.combine old with
    | some new => ((r.1.ldmWrite node slot off new).1, some old)
    | none => r

/-- A load, VLD or AMO at issue. Local data memory answers at once, unless an earlier own access is still to be performed
(R63); any other region answers later (R75). A load that faults on its response has retired, and counts in CRD_PERF_0, where
the response comes later, and not where local data memory answers at once; the steps that R97 or R98 hold it count in CRD_PERF_3
(DESIGN CHOICE, notes/assumptions/44.md). -/
def loadIssue (d : Dev) (node slot : Nat) (c : Curd) (a : Nat) (k : LoadKind) : Issue :=
  if a % k.size ≠ 0 then .fault 0x03 a
  else
    match d.ownPlace node slot a k.size with
    | none => .fault 0x02 a
    | some p =>
      if k.isAmo && isPeer a then .fault 0x02 a
      else if !isPeer a && c.storeHolds a k.size then .hold 3
      else if c.tensorHolds a k.size k.isAmo then .hold 3
      else if !d.accepts node a p then .hold 3
      else
        match p, isPeer a || c.ownPending with
        | .ldm _ _ off, false =>
          let r := d.ldmAccess node slot off k
          let c1 := r.1.curd (curdKey node slot)
          (match r.2 with
           | some bs => .retire r.1 { c1 with r := c1.r.land k bs } c1.nextPc 1
           | none => .faultIn r.1 0x05 a)
        | p, _ =>
          let c1 := { c with loads := c.loads ++ [{ ord := c.ord, pc := c.r.pc, addr := a, kind := k, place := p, sent := false, resp := none }],
                             ord := c.ord + 1 }
          let v := d.vat node
          let d1 := match p with
            | .window _ => d.setVat node { v with rq := v.rq ++ [{ slot := slot, ord := c.ord, store := false }] }
            | _ => d
          .retire d1 c1 c.nextPc 1

def runLoad (op : LoadOp) (node slot : Nat) (d : Dev) (c : Curd) (i : CurdInstr) : Option Issue :=
  match i with
  | .load o rd ra k =>
    if o = op then some (loadIssue d node slot c (memAddr c ra k) (.scalar rd.toNat op.size op.signed)) else none
  | _ => none

/-- LDB (R83). -/
def execLdb (node slot : Nat) (s : State) : Answer := s.next (s.dev.curdStep node slot (runLoad .b node slot))
/-- LDH (R83). -/
def execLdh (node slot : Nat) (s : State) : Answer := s.next (s.dev.curdStep node slot (runLoad .h node slot))
/-- LDW (R83). -/
def execLdw (node slot : Nat) (s : State) : Answer := s.next (s.dev.curdStep node slot (runLoad .w node slot))
/-- LDD (R83). -/
def execLdd (node slot : Nat) (s : State) : Answer := s.next (s.dev.curdStep node slot (runLoad .d node slot))
/-- LDBU (R83). -/
def execLdbu (node slot : Nat) (s : State) : Answer := s.next (s.dev.curdStep node slot (runLoad .bu node slot))
/-- LDHU (R83). -/
def execLdhu (node slot : Nat) (s : State) : Answer := s.next (s.dev.curdStep node slot (runLoad .hu node slot))
/-- LDWU (R83). -/
def execLdwu (node slot : Nat) (s : State) : Answer := s.next (s.dev.curdStep node slot (runLoad .wu node slot))

def runVld (node slot : Nat) (d : Dev) (c : Curd) (i : CurdInstr) : Option Issue :=
  match i with
  | .vld v ra k => some (loadIssue d node slot c (memAddr c ra k) (.vec v.toNat))
  | _ => none

/-- VLD (R83, R89). -/
def execVld (node slot : Nat) (s : State) : Answer := s.next (s.dev.curdStep node slot (runVld node slot))

def runAmo (node slot : Nat) (d : Dev) (c : Curd) (i : CurdInstr) : Option Issue :=
  match i with
  | .amo op wide rd ra rb =>
    some (loadIssue d node slot c (c.r.getG ra).toNat (.amo rd.toNat op.code wide (c.r.getG rb) (c.r.getG rd)))
  | _ => none

/-- AMO (R87). -/
def execAmo (node slot : Nat) (s : State) : Answer := s.next (s.dev.curdStep node slot (runAmo node slot))

/-! ## Stores (R76) -/

/-- A store or VST at issue: performed at once in local data memory, unless an earlier own access is still to be performed
(R63), posted elsewhere; a ninth posted store waits. -/
def storeIssue (d : Dev) (node slot : Nat) (c : Curd) (a : Nat) (bs : List Byte) : Issue :=
  if a % bs.length ≠ 0 then .fault 0x03 a
  else
    match d.ownPlace node slot a bs.length with
    | none => .fault 0x02 a
    | some p =>
      if c.tensorHolds a bs.length true then .hold 3
      else
        match p, isPeer a || c.ownPending with
        | .ldm _ _ off, false =>
          let r := d.ldmWrite node slot off bs
          .retire r.1 (r.1.curd (curdKey node slot)) c.nextPc 1
        | p, _ =>
          if (regionOf a != .ldm && 8 ≤ c.postedStores) || !d.accepts node a p then .hold 3
          else
            let c1 := { c with stores := c.stores ++ [{ ord := c.ord, addr := a, data := bs, place := p, sent := false, resp := none }], ord := c.ord + 1 }
            let v := d.vat node
            let d1 := match p with
              | .window _ => d.setVat node { v with rq := v.rq ++ [{ slot := slot, ord := c.ord, store := true }] }
              | _ => d
            .retire d1 c1 c.nextPc 1

def runStore (op : StoreOp) (node slot : Nat) (d : Dev) (c : Curd) (i : CurdInstr) : Option Issue :=
  match i with
  | .store o rs ra k =>
    if o = op then some (storeIssue d node slot c (memAddr c ra k) (leBytes op.size (c.r.getG rs).toNat)) else none
  | _ => none

/-- STB (R83, R76). -/
def execStb (node slot : Nat) (s : State) : Answer := s.next (s.dev.curdStep node slot (runStore .b node slot))
/-- STH (R83, R76). -/
def execSth (node slot : Nat) (s : State) : Answer := s.next (s.dev.curdStep node slot (runStore .h node slot))
/-- STW (R83, R76). -/
def execStw (node slot : Nat) (s : State) : Answer := s.next (s.dev.curdStep node slot (runStore .w node slot))
/-- STD (R83, R76). -/
def execStd (node slot : Nat) (s : State) : Answer := s.next (s.dev.curdStep node slot (runStore .d node slot))

def runVst (node slot : Nat) (d : Dev) (c : Curd) (i : CurdInstr) : Option Issue :=
  match i with
  | .vst v ra k => some (storeIssue d node slot c (memAddr c ra k) (lanesBytes (c.r.getV v)))
  | _ => none

/-- VST (R83, R89). -/
def execVst (node slot : Nat) (s : State) : Answer := s.next (s.dev.curdStep node slot (runVst node slot))

/-! ## IWR (R86) -/

def runIwr (node slot : Nat) (d : Dev) (c : Curd) (i : CurdInstr) : Option Issue :=
  match i with
  | .iwr ra rb =>
    let a := (c.r.getG ra).toNat
    let off := (c.r.getG rb).toNat % 16384
    some (if a % 128 ≠ 0 ∨ off % 128 ≠ 0 then .fault 0x03 a
      else if 0x10000 ≤ a then .fault 0x02 a
      else if c.storeHolds a 128 || c.tensorHolds a 128 true then .hold 3
      else
        let r := d.ldmRead node slot a 128
        match r.2 with
        | none => .faultIn r.1 0x05 a
        | some bs =>
          let w := r.1.isWrite node slot off bs
          .retire w.1 (w.1.curd (curdKey node slot)) c.nextPc 64)
  | _ => none

/-- IWR: 128 bytes of local data memory into the instruction store. -/
def execIwr (node slot : Nat) (s : State) : Answer := s.next (s.dev.curdStep node slot (runIwr node slot))

/-! ## BREAK (R80) -/

/-- Curd debug stops a curd only outside a confidential partition (13_security.md R405). -/
def Dev.debugOpen (d : Dev) (node : Nat) : Bool :=
  d.curdDebug && (match d.partOf node with | some p => !(d.part p).conf | none => true)

def runBreak (node : Nat) (d : Dev) (c : Curd) (i : CurdInstr) : Option Issue :=
  match i with
  | .brk => some (.retire d (if d.debugOpen node then { c with st := .stopped } else c) c.nextPc 1)
  | _ => none

def execBreak (node slot : Nat) (s : State) : Answer := s.next (s.dev.curdStep node slot (runBreak node))

/-! ## Responses (R90, R120, R121) -/

/-- Own vat-store and overflow accesses are performed in program order; peer accesses are not ordered (R63, R76). -/
def Curd.inOrder (c : Curd) (ord a : Nat) : Bool :=
  isPeer a || (c.loads.all (fun l => isPeer l.addr || ord ≤ l.ord) && c.stores.all (fun l => isPeer l.addr || ord ≤ l.ord))

def Place.known : Place → Bool
  | .window _ => false
  | _ => true

def Place.isExt : Place → Bool
  | .ext _ _ => true
  | _ => false

/-- The curd a peer access reaches is fenced (R90). -/
def Dev.peerFenced (d : Dev) (a : Nat) (p : Place) : Bool :=
  match p with
  | .ldm nd sl _ => isPeer a && (d.curd (curdKey nd sl)).fenced
  | _ => false

/-- The access of a response: the data, with an AMO's write back. -/
def Dev.loadAnswer (d : Dev) (node : Nat) (l : PLoad) : Dev × Option (List Byte) :=
  let r := d.placeRead node l.place l.kind.size
  match r.2 with
  | none => r
  | some old =>
    match l.kind.combine old with
    | some new => ((r.1.placeWrite node l.place new).1, some old)
    | none => r

/-- A load whose place is an external page is answered by the reply to its line request; an AMO there is performed at the
memory controller as it answers (05_local_memory.md R147, R148). -/
def PLoad.byLine (l : PLoad) : Bool := l.place.isExt && !l.kind.isAmo

/-- LOAD_RESPONSE: pending load `idx` of the curd is performed and answers; an error response faults the curd. -/
def doLoadResponse (d : Dev) (node slot idx : Nat) : Dev :=
  let key := curdKey node slot
  let c := d.curd key
  match c.loads[idx]? with
  | none => d
  | some l =>
    if !l.place.known || !c.inOrder l.ord l.addr || (l.byLine && l.resp.isNone) then d
    else
      let d0 := d.setCurd key { c with loads := c.loads.eraseIdx idx }
      if d.peerFenced l.addr l.place then d0.curdFault node slot 0x04 l.pc l.addr
      else
        let r := match l.resp with
          | some x => (d0, x)
          | none => d0.loadAnswer node l
        match r.2 with
        | none => r.1.curdFault node slot 0x05 l.pc l.addr
        | some bs =>
          let c1 := r.1.curd key
          r.1.setCurd key { c1 with r := c1.r.land l.kind bs }

/-- A failed access through the peer window is kept for the flagged packets of the curd to that core space (R59, R62). -/
def Dev.notePeerFail (d : Dev) (node slot a : Nat) : Dev :=
  let n := d.ni node
  let e := (slot, d.localDest node slot a)
  if isPeer a ∧ !n.failRec.contains e then d.setNi node { n with failRec := n.failRec ++ [e] } else d

/-- POSTED_STORE_PERFORMED: pending store `idx` is performed and its place is free; an error is logged and faults no
curd (R76, R90, R148). -/
def doPostedStorePerformed (d : Dev) (node slot idx : Nat) : Dev :=
  let key := curdKey node slot
  let c := d.curd key
  match c.stores[idx]? with
  | none => d
  | some w =>
    if !w.place.known || !c.inOrder w.ord w.addr || (w.place.isExt && w.resp.isNone) then d
    else
      let d0 := d.setCurd key { c with stores := c.stores.eraseIdx idx }
      if d.peerFenced w.addr w.place then (d0.logAccess node slot w.addr).notePeerFail node slot w.addr
      else
        let r := match w.resp with
          | some x => (d0, x)
          | none => d0.placeWrite node w.place w.data
        if r.2 || !(isPeer w.addr || w.place.isExt) then r.1
        else (r.1.logAccess node slot w.addr).notePeerFail node slot w.addr

/-- An access of a curd with its place translated. -/
def Curd.placed (c : Curd) (ord : Nat) (p : Place) : Curd :=
  { c with loads := c.loads.map (fun l => if l.ord = ord then { l with place := p } else l)
           stores := c.stores.map (fun l => if l.ord = ord then { l with place := p } else l) }

def Curd.windowOf (c : Curd) (ord : Nat) : Option Nat :=
  match (c.loads.filter (fun l => l.ord == ord)).map (fun l => l.place) ++
      (c.stores.filter (fun l => l.ord == ord)).map (fun l => l.place) with
  | .window off :: _ => some off
  | _ => none

/-- RESOLVER_ACCEPT: the oldest access offered leaves the queue with its place (R146, R147). -/
def doResolverAccept (d : Dev) (node : Nat) : Dev :=
  let v := d.vat node
  match v.rq with
  | [] => d
  | a :: rest =>
    let d0 := d.setVat node { v with rq := rest }
    let key := curdKey node a.slot
    let c := d.curd key
    match c.windowOf a.ord with
    | none => d0
    | some off =>
      match d.resolve node a.slot off with
      | some p => d0.setCurd key (c.placed a.ord p)
      | none => d0

def execResolverAccept (node : Nat) (s : State) : Answer := s.next (doResolverAccept s.dev node)

/-! ## Flip masks (R152) -/

/-- A flip register takes effect on a block without a context, or with curd debug unlocked and no confidential partition. -/
def Dev.flipOpen (d : Dev) (blk : MemBlk) (node slot : Nat) : Bool :=
  match blk with
  | .vs => d.vatFlips node
  | _ => d.curdFlips node slot

def Dev.setFlip (d : Dev) (blk : MemBlk) (node slot : Nat) (f : Flip) : Dev :=
  match blk with
  | .ldm => d.setCurd (curdKey node slot) { d.curd (curdKey node slot) with ldmFlip := f }
  | .is => d.setCurd (curdKey node slot) { d.curd (curdKey node slot) with isFlip := f }
  | .vs => d.setVat node { d.vat node with vsFlip := f }

def Dev.getFlip (d : Dev) (blk : MemBlk) (node slot : Nat) : Flip :=
  match blk with
  | .ldm => (d.curd (curdKey node slot)).ldmFlip
  | .is => (d.curd (curdKey node slot)).isFlip
  | .vs => (d.vat node).vsFlip

/-- What the flip registers read: their masks and arm, or 0 where they do not take effect. -/
def Dev.readFlip (d : Dev) (blk : MemBlk) (node slot : Nat) : Flip := if d.flipOpen blk node slot then d.getFlip blk node slot else Flip.init

/-- FLIP_ARM: the masks are written and armed; in any other case the writes are ignored. -/
def doFlipArm (d : Dev) (blk : MemBlk) (node slot : Nat) (data : BitVec 64) (chk : BitVec 8) : Dev :=
  if d.flipOpen blk node slot then d.setFlip blk node slot { data := data, chk := chk, arm := true } else d

def execFlipArm (blk : MemBlk) (node slot : Nat) (dataMask : BitVec 64) (checkMask : BitVec 8) (s : State) : Answer :=
  s.next (doFlipArm s.dev blk node slot dataMask checkMask)

end Sys2Proof.Machine
end

