-- ==== Sys2Proof/Machine/HostOps.lean ====
section
/-! DEFINITION. The host node's traffic on the mesh: host memory, lines of host DMA descriptors and of window requests as flits at H0
and H1, and their answers (11_host_mailboxes.md R335-R343, 01_architecture.md R14-R16). -/

namespace Sys2Proof.Machine

def Dev.hostRead (d : Dev) (a n : Nat) : List Byte := memRead d.host.hostMem a n
def Dev.hostWrite (d : Dev) (a : Nat) (bs : List Byte) : Dev := { d with host := { d.host with hostMem := memWrite d.host.hostMem a bs } }

/-- The host reaches the endpoint. -/
def Dev.hostUp (d : Dev) : Bool := d.host.linkUp && d.host.perst

/-- The allocation offset of bytes within one valid segment, whatever its permissions (R336). -/
def Ctx.segAny (c : Ctx) (off n : Nat) : Option Nat :=
  match c.segs.find? (fun e => e.2.valid && e.2.base * 4096 ≤ off && off + n ≤ (e.2.base + e.2.pages) * 4096) with
  | some e => some (e.2.page * 4096 + (off - e.2.base * 4096))
  | none => none

/-- The attachments of the host node: engine e and function f use H0 or H1 by their number's parity (DESIGN CHOICE,
notes/assumptions/50.md). -/
def hostNode (n : Nat) : Nat := 0x150 + n % 2

/-- A request of the host node, which is checked for bounds only (R336). -/
def fromHost (q : Flit) : Bool := !q.xchip && (q.src == 0x150 || q.src == 0x151)

/-- A line is asked for at the device, under a tag of `cnt` from `lo` on: a read, or a write of the bytes given. none: no tag is
free; else what came of it, 0 = sent. A byte outside a valid segment is DENIED; a destination out of service is refused under R16. -/
def Dev.hostLine (d : Dev) (node lo cnt ctx gen off n : Nat) (op : TagOp) (w : Option (List Byte)) : Option (Dev × Nat) :=
  match (d.ctx ctx).segAny off n with
  | none => some (d, 0x04)
  | some a =>
    match d.mcOf (ctx / 16) a with
    | none => some (d, 0x09)
    | some m =>
      if !d.inService m then some (d.raise (d.ctxMsg node 0x11 0 off (some ctx)), 0x09)
      else
        match (d.ni node).freeTag lo cnt with
        | none => none
        | some t =>
          let x := d.ni node
          let f : Flit := { request (if w.isSome then tWr else tRd) false n 0 (w.getD []) with
            dst := BitVec.ofNat 9 m, src := BitVec.ofNat 9 node, ctx := BitVec.ofNat 10 ctx, gen := BitVec.ofNat 12 gen,
            tag := BitVec.ofNat 16 t, addr := BitVec.ofNat 48 off }
          let r : TagRec :=
            { op := op, flit := f, ga := off, ctx := ctx, gen := gen, src := 0, idx := x.accepts, ord := 0, dest := 0, chip := none,
              seq := 0, st := .sent, copies := 1, limit := bits d.xlink 17 16 }
          some ((d.setNi node { x.setTag t (some r) with accepts := x.accepts + 1 }).offer node .a f, 0)

/-! ## Lines of host DMA descriptors (R340, R342, R343) -/

def Dev.setEngine (d : Dev) (e : Nat) (r : Option HdmaRun) : Dev :=
  { d with host := { d.host with engines := smSet none d.host.engines e r } }

def ringSize (ring : Nat) : Nat := 2 ^ (bits ring 3 0 + 4)

def HdmaRun.ctxId (r : HdmaRun) : Nat := 16 * r.part + r.slot

/-- How long ago a descriptor of a queue was taken. -/
def Dev.hdmaAge (d : Dev) (r : HdmaRun) : Nat :=
  let x := d.func r.func
  (x.head + ringSize x.ring - r.index) % ringSize x.ring

/-- A descriptor with order waits for the earlier ones of its queue. -/
def Dev.hdmaHeld (d : Dev) (r : HdmaRun) : Bool :=
  bit r.ctl 1 && d.host.engines.any (fun e =>
    match e.2 with
    | some q => q.func == r.func && d.hdmaAge r < d.hdmaAge q
    | none => false)

/-- The context a descriptor was started with is gone, or is being torn down (R342). -/
def Dev.hdmaDead (d : Dev) (r : HdmaRun) : Bool :=
  let c := d.ctx r.ctxId
  !c.live || c.gen != r.gen || c.tear.isSome

/-- A descriptor that moves bytes fails: the failure is kept for its queue's next ordered write there (R342). -/
def Dev.hdmaLost (d : Dev) (e : Nat) (r : HdmaRun) (code : Nat) : Dev :=
  let x := d.func r.func
  (d.setEngine e (some { r with code := code })).setFunc r.func
    { x with hdmaFail := if x.hdmaFail.contains r.ctxId then x.hdmaFail else x.hdmaFail ++ [r.ctxId] }

/-- An engine asks for its descriptor's next line, if it may: at most 96 are outstanding. -/
def Dev.hdmaIssue (d : Dev) (e : Nat) : Dev :=
  match smGet none d.host.engines e with
  | none => d
  | some r =>
    if r.code ≠ 0 ∨ r.len ≤ r.next ∨ 96 ≤ r.out ∨ d.hdmaHeld r = true ∨ d.hostUp = false then d
    else if d.hdmaDead r then d.setEngine e (some { r with code := 0x3F })
    else
      let x := d.func r.func
      if bit r.ctl 1 ∧ !bit r.ctl 0 ∧ r.next = 0 ∧ x.hdmaFail.contains r.ctxId then
        (d.setEngine e (some { r with code := 0x09 })).setFunc r.func { x with hdmaFail := x.hdmaFail.erase r.ctxId }
      else
        let off := r.dev + r.next
        let n := min (r.len - r.next) (128 - off % 128)
        match d.hostLine (hostNode e) (96 * (e / 2)) 96 r.ctxId r.gen off n (.hdma e r.next n)
            (if bit r.ctl 0 then none else some (d.hostRead (r.host + r.next) n)) with
        | none => d
        | some (d1, code) =>
          if code = 0 then d1.setEngine e (some { r with next := r.next + n, out := r.out + 1 }) else d1.hdmaLost e r code

/-- An engine asks for all the lines it may. -/
def Dev.hdmaFill (d : Dev) (e : Nat) : Dev := (List.range 96).foldl (fun d _ => d.hdmaIssue e) d

/-- A line is answered: read bytes go to the host, and the next line may be asked for. -/
def Dev.hdmaLine (d : Dev) (e off n code : Nat) (data : List Byte) : Dev :=
  match smGet none d.host.engines e with
  | none => d
  | some r =>
    let r1 := { r with out := r.out - 1 }
    if code ≠ 0 then (if r.code ≠ 0 then d.setEngine e (some r1) else d.hdmaLost e r1 0x09)
    else
      let d1 := d.setEngine e (some r1)
      ((if bit r.ctl 0 then d1.hostWrite (r.host + off) (data.take n) else d1).hdmaFill e)

/-- The lines an engine still waits for complete nothing: its descriptor has ended. -/
def Dev.hdmaDrop (d : Dev) (e : Nat) : Dev :=
  let x := d.ni (hostNode e)
  d.setNi (hostNode e) { x with tags := x.tags.map (fun t =>
    (t.1, match t.2 with
      | some r => (match r.op with
          | .hdma g _ _ => if g = e then some { r with op := .torn } else some r
          | _ => some r)
      | none => none)) }

/-! ## The memory window (R335-R337) -/

def WinJob.isWrite : WinJob → Bool
  | .write _ => true
  | _ => false

def WinJob.isCtl : WinJob → Bool
  | .ctl _ _ _ => true
  | _ => false

def Dev.setWins (d : Dev) (l : List WinReq) : Dev := { d with host := { d.host with wins := l } }

def Dev.setWin (d : Dev) (w : WinReq) : Dev := d.setWins (d.host.wins.map (fun x => if x.id = w.id then w else x))

/-- A window write of a function has not been performed. -/
def Dev.winWriting (d : Dev) (f : Nat) : Bool := d.host.wins.any (fun x => x.func == f && x.job.isWrite)

/-- A refused request: the first is recorded and logged (R336). -/
def Dev.winRefused (d : Dev) (f ctx off code : Nat) (write : Bool) : Dev :=
  let x := d.func f
  if bit x.winErr 63 then d
  else
    (d.setFunc f { x with winErr := off % 2 ^ 43 + code * 2 ^ 43 + boolNat write * 2 ^ 51 + 2 ^ 63 }).raise
      (d.ctxMsg 0x150 0x17 0 off (if (d.ctx ctx).live then some ctx else none))

/-- A window read waits until every earlier window write of its function has been performed (R337). -/
def Dev.winHeld (d : Dev) (w : WinReq) : Bool :=
  !w.job.isWrite && d.host.wins.any (fun x => x.func == w.func && x.job.isWrite && x.id < w.id)

/-- A window request asks for its next line, if it may. -/
def Dev.winIssue (d : Dev) (id : Nat) : Dev :=
  match d.host.wins.find? (fun w => w.id == id) with
  | none => d
  | some w =>
    if w.code ≠ 0 ∨ w.len ≤ w.next ∨ d.winHeld w = true ∨ w.job.isCtl = true then d
    else
      let off := w.off + w.next
      let n := min (w.len - w.next) (128 - off % 128)
      match d.hostLine (hostNode w.func) 512 640 w.ctx w.gen off n (.win w.id w.next n)
          (match w.job with | .write bs => some ((bs.drop w.next).take n) | _ => none) with
      | none => d
      | some (d1, code) => d1.setWin (if code = 0 then { w with next := w.next + n, out := w.out + 1 } else { w with code := code })

/-- Every window request asks for the lines it may; an access is at most 4 KiB. -/
def Dev.winFill (d : Dev) : Dev :=
  d.host.wins.foldl (fun d w => (List.range (w.len / 128 + 2)).foldl (fun d _ => d.winIssue w.id) d) d

/-- The bytes of a read, in their order. -/
def winData (got : List (Nat × List Byte)) (len : Nat) : List Byte :=
  (List.range len).filterMap (fun i => (got.find? (fun e => e.1 ≤ i && i < e.1 + e.2.length)).map (fun e => e.2.getD (i - e.1) 0))

/-- A window request all of whose lines are answered completes: a read with its data or Completer Abort; a failure is recorded. -/
def Dev.winEnd (d : Dev) (w : WinReq) : Dev :=
  let d1 := d.setWins (d.host.wins.filter (fun x => x.id != w.id))
  let d2 := if w.code = 0 then d1 else d1.winRefused w.func w.ctx w.off w.code w.job.isWrite
  match w.job with
  | .read got => { d2 with host := { d2.host with last := some (if w.code = 0 then .data (winData got w.len) else .abort) } }
  | _ => d2

/-- Window requests that are done complete, and the others go on. -/
def Dev.winSettle (d : Dev) : Dev :=
  let done (w : WinReq) : Bool := !w.job.isCtl && w.out == 0 && (w.code != 0 || w.len ≤ w.next)
  ((d.host.wins.filter done).foldl (fun d w => d.winEnd w) d).winFill

/-- A line of a window request is answered; an error of the memory controller is FAILED (R336). -/
def Dev.winLine (d : Dev) (id off n code : Nat) (data : List Byte) : Dev :=
  match d.host.wins.find? (fun w => w.id == id) with
  | none => d
  | some w =>
    let w1 := { w with out := w.out - 1, code := if w.code = 0 ∧ code ≠ 0 then 0x09 else w.code }
    let w2 := match w.job with
      | .read got => { w1 with job := .read (got ++ [(off, data.take n)]) }
      | _ => w1
    (d.setWin w2).winSettle

/-- A chip reset refuses every window request not yet done; writes to the control window stay (R332, R336). -/
def Dev.winAbortAll (d : Dev) : Dev :=
  (d.host.wins.filter (fun w => !w.job.isCtl)).foldl (fun d w => d.winEnd { w with code := 0x3F }) d

/-- A function's requests end with it at a Function Level Reset (R332). -/
def Dev.hostForget (d : Dev) (f : Nat) : Dev :=
  let d1 := d.host.engines.foldl (fun d e => match e.2 with | some r => if r.func = f then d.hdmaDrop e.1 else d | none => d) d
  { d1 with host := { d1.host with
      engines := d1.host.engines.filter (fun e => match e.2 with | some r => r.func != f | none => false),
      wins := d1.host.wins.filter (fun w => w.func != f) } }

end Sys2Proof.Machine
end

