-- ==== Sys2Proof/Machine/NetDone.lean ====
section
/-! DEFINITION. What completes at an NI and what it injects: completion of a tag, the choice of the next operation to
inject, destinations and chip paths, limits per chip (02_programming_model.md R42-R62, 06_mesh.md R191-R194,
07_links.md R216, R225-R232). -/

namespace Sys2Proof.Machine

/-- The effect of a completed operation on its engine (03_curd_core.md R99-R105). -/
def Dev.finishOp (d : Dev) (node : Nat) (r : TagRec) (code : Nat) (data : List Byte) : Dev :=
  match r.op with
  | .farGet slot k dst len | .farAmo slot k dst len =>
    if code = 0 then
      let w := d.localWrite node slot dst (data.take len)
      if w.2 then w.1.completeOp node slot k 0
      else (w.1.completeOp node slot k 0x09).raise (w.1.ctxMsg node 0x11 unitNi r.ga (some r.ctx))
    else d.completeOp node slot k code
  | .farPut slot k | .sig slot k | .fence slot k => d.completeOp node slot k code
  | .dmaRd chan run off len => d.dmaReadDone node chan run off len code data
  | .dmaWr chan run off len => d.dmaWriteDone node chan run off len code
  | .dmaSig _ => d
  | .coll seq =>
    let home := (d.partNodes (r.ctx / 16)).headD node
    let u := d.unit home
    d.setUnit home { u with ops := u.ops.map (fun o =>
      if o.seq = seq ∧ o.ctx = r.ctx then
        { o with wrOut := o.wrOut - 1, code := if o.code = 0 then code else o.code }
      else o) }
  | .cultRd _ | .cultWr | .cultCrc => d.cultDone node r.op code data
  | .ovf slot ord len =>
    let c := d.curd (curdKey node slot)
    d.setCurd (curdKey node slot) { c with
      loads := c.loads.map (fun l => if l.ord = ord then { l with resp := some (if code = 0 then some (data.take len) else none) } else l)
      stores := c.stores.map (fun w => if w.ord = ord then { w with resp := some (code == 0) } else w) }
  | .hdma e off len => d.hdmaLine e off len code data
  | .win id off len => d.winLine id off len code data
  | .torn => d

/-- A curd's overflow access, whose error shows at the curd (05_local_memory.md R148), and the host node's lines, whose error shows at
the descriptor or in HOST_WIN_ERR (11_host_mailboxes.md R336, R342). -/
def TagOp.isOvf : TagOp → Bool
  | .ovf _ _ _ | .hdma _ _ _ | .win _ _ _ => true
  | _ => false

/-- A failure is kept for the flagged packets of its source to its destination; a flagged packet reports its own (R62). -/
def NI.noteFail (n : NI) (r : TagRec) : NI :=
  if r.flit.order || n.failRec.contains (r.src, r.dest) then n else { n with failRec := n.failRec ++ [(r.src, r.dest)] }

/-- A tag's operation completes: the tag is free, or quarantined if several copies were sent (07_links.md R231); a
failure is recorded and its global address logged (03_curd_core.md R101). -/
def Dev.finishTag (d : Dev) (node tag code kind : Nat) (data : List Byte) : Dev :=
  let n := d.ni node
  match n.tagRec tag with
  | none => d
  | some r =>
    let keep : Option TagRec := if 1 < r.copies then some { r with st := .quarantine } else none
    let n1 := n.setTag tag keep
    let n2 := match r.chip with
      | some c => let x := smGet ChipRec.init n1.chips c
                  { n1 with chips := smSet ChipRec.init n1.chips c { x with outst := x.outst - 1 } }
      | none => n1
    let n3 := if code = 0 ∨ r.op.isOvf then n2 else n2.noteFail r
    let n4 := if code = 0x08 then { n3 with timeouts := hold16 (n3.timeouts + 1) } else n3
    let d1 := d.setNi node n4
    let d2 := if code = 0 ∨ r.op.isOvf then d1 else d1.raise (d1.ctxMsg node kind unitNi r.ga (some r.ctx))
    d2.finishOp node r code data

/-! ## Injection -/

/-- Peer-window accesses of a curd that must be performed before a flagged operation (R59, R194). -/
def Dev.peerBefore (d : Dev) (node : Nat) (r : TagRec) : Bool :=
  r.src < 68 &&
    (let c := d.curd (curdKey node r.src)
     c.loads.any (fun l => isPeer l.addr && l.ord < r.ord) || c.stores.any (fun l => isPeer l.addr && l.ord < r.ord))

/-- Two packets of one descriptor: its writes are performed in any order (05_local_memory.md R165). -/
def TagOp.sameRun (a b : TagOp) : Bool :=
  match a, b with
  | .dmaRd c x _ _, .dmaRd e y _ _ | .dmaRd c x _ _, .dmaWr e y _ _ | .dmaWr c x _ _, .dmaRd e y _ _
  | .dmaWr c x _ _, .dmaWr e y _ _ => c == e && x == y
  | _, _ => false

/-- A flagged operation waits for every earlier operation of its source (R60, R194). -/
def Dev.flagHeld (d : Dev) (node : Nat) (r : TagRec) : Bool :=
  r.flit.order && r.copies == 0 &&
    ((d.ni node).live.any (fun q => q.src == r.src && q.idx < r.idx && !q.op.sameRun r.op) || d.peerBefore node r)

/-- Half bytes counted against a chip's allowance (07_links.md R225): 32 bytes and the payload, an RD's reply. -/
def chargeOf (f : Flit) : Nat := 2 * (32 + (if f.typ.toNat = tRd then f.bytes.toNat else carried f))

/-- What a chip's limiter allows now: B times 62.5 bytes per count of the timer, bursts to 8 KiB. -/
def ChipRec.allowed (x : ChipRec) (now : Nat) : Nat := min 16384 (x.credit + (now - x.creditAt) * 125 * x.allow)

/-- Nothing at the NI keeps an operation back: room at the own vat, or the limits of its destination chip. -/
def Dev.roomFor (d : Dev) (node : Nat) (r : TagRec) : Bool :=
  let n := d.ni node
  if r.flit.addr.toNat / 2 ^ 47 = 1 then true
  else
    match d.target node (r.ctx / 16) (r.ctx % 16) r.ga with
    | .vat _ _ v _ => v != node || n.roomA
    | .far chip _ _ =>
      let x := smGet ChipRec.init n.chips chip
      (r.copies != 0 && r.chip == some chip || decide (x.outst < 256)) && decide (chargeOf r.flit ≤ x.allowed d.timer.toNat) &&
        !n.seqStop.contains chip
    | _ => true

/-- Operations the NI may take now: waiting, released, not held back, and not of a slot that NI_DRAIN stops
(09_fabric_manager.md R291). -/
def Dev.injectable (d : Dev) (node : Nat) : List (Nat × TagRec) :=
  let n := d.ni node
  n.tags.filterMap (fun e =>
    match e.2 with
    | some r =>
      if r.st = .waiting ∧ d.flagHeld node r = false ∧ n.stop.getLsbD (r.ctx % 16) = false ∧ d.roomFor node r then some (e.1, r)
      else none
    | none => none)

/-- A new allowance, with what the old one has allowed so far. -/
def ChipRec.setAllow (x : ChipRec) (now a : Nat) : ChipRec := { x with allow := a, credit := x.allowed now, creditAt := now }

/-- An echoed mark halves the on-die allowance, or the destination chip's, not again within 5 µs (06_mesh.md R183, R185,
07_links.md R225). -/
def Dev.marked (d : Dev) (node : Nat) (chip : Option Nat) : Dev :=
  let n := d.ni node
  match chip with
  | none => d.setNi node { n with allow := max (n.allow / 2) 1, marks := hold16 (n.marks + 1) }
  | some chip =>
    let x := smGet ChipRec.init n.chips chip
    let now := d.timer.toNat
    let y := { x.setAllow now (max (x.allow / 2) 1) with markAt := some now }
    let recent := match x.markAt with | some t => decide (now < t + 125) | none => false
    if recent then d else d.setNi node { n with chips := smSet ChipRec.init n.chips chip y }

/-- addr of a request on this chip, and of one that crosses chips (06_mesh.md R175). -/
def dieAddr (f : Flit) (ga lcurd : Nat) : Nat :=
  if gaCore ga then lcurd * 2 ^ 23 + (if f.typ.toNat = tSig then f.addr.toNat % 16 else gaOff ga) else gaOff ga

def chipAddr (f : Flit) (ga : Nat) : Nat :=
  if f.typ.toNat = tSig then bits ga 43 23 * 2 ^ 23 + f.addr.toNat % 16 else bits ga 43 0

/-- A flit to a node of this chip leaves: to the own vat without the mesh (R192), else offered to the router. -/
def Dev.sendDie (d : Dev) (node tag : Nat) (r : TagRec) (f : Flit) : Dev :=
  let n := d.ni node
  let r1 := { r with st := .sent, copies := r.copies + 1, chip := none, limit := bits d.xlink 17 16 }
  if f.dst.toNat = node then
    if n.roomA then d.setNi node { n.setTag tag (some r1) with reqBuf := n.reqBuf ++ [f] } else d
  else d.setNi node { n.setTag tag (some r1) with outA := n.outA ++ [f] }

/-- A copy of a request to another chip leaves: it takes the next sequence at its first copy (07_links.md R226); the
path is computed afresh (R216); a port that is fenced or absent is refused (01_architecture.md R16). -/
def Dev.sendChip (d : Dev) (node tag : Nat) (r : TagRec) (f : Flit) (chip part slot : Nat) : Dev :=
  let n := d.ni node
  let x := smGet ChipRec.init n.chips chip
  let now := d.timer.toNat
  let first := r.copies == 0 || r.chip != some chip
  let conf := sdConf (n.slice (r.ctx % 16))
  if first ∧ 256 ≤ x.outst then d
  else if x.allowed now < chargeOf f then d
  else if first ∧ conf ∧ 2 ^ 46 ≤ x.seq then
    if n.seqStop.contains chip then d
    else (d.setNi node { n with seqStop := n.seqStop ++ [chip] }).raise (d.ctxMsg node 0x16 unitNi r.ga (some r.ctx))
  else
    match n.route node (r.ctx % 16) chip with
    | none => d.finishTag node tag 0x09 0x13 []
    | some (es, cls) =>
      if !d.edgeOk (0x140 + es.getD 0 0) then d.finishTag node tag 0x09 0x11 []
      else
      let seq := if first then x.seq else r.seq
      let copy := if first then 0 else min 3 r.copies
      let g : Flit := { f with dst := BitVec.ofNat 9 (0x140 + es.getD 0 0), xchip := true, cls := cls == 1,
                               ctx := BitVec.ofNat 10 (16 * part + slot), path := BitVec.ofNat 96 (pathWord es),
                               link := BitVec.ofNat 16 (seq % 2 ^ 14 + copy * 2 ^ 14), addr := BitVec.ofNat 48 (chipAddr f r.ga) }
      let eng := (d.vat node).lnum - (d.part (r.ctx / 16)).first
      let g := if conf then
          sealFlit (smGet 0 n.linkKeys (r.ctx % 16)) (xNonce (d.ctx r.ctx).rank eng chip false copy seq) seq g
        else g
      let y := { x with seq := if first then x.seq + 1 else x.seq, outst := if first then x.outst + 1 else x.outst,
                        credit := x.allowed now - chargeOf f, creditAt := now }
      let r1 := { r with st := .sent, chip := some chip, seq := seq, copies := copy + 1, limit := bits d.xlink 17 16 }
      let n1 := { n.setTag tag (some r1) with
        outA := n.outA ++ [g], chips := smSet ChipRec.init n.chips chip y,
        reissued := if copy = 0 then n.reissued else hold16 (n.reissued + 1) }
      d.setNi node n1

/-- A released operation: refused under a failure record (R62), answered with its error, or sent. -/
def Dev.inject (d : Dev) (node tag : Nat) (r : TagRec) : Dev :=
  let n := d.ni node
  if r.flit.order ∧ r.copies = 0 ∧ (r.src, r.dest) ∈ n.failRec then
    (d.setNi node { n with failRec := n.failRec.filter (fun e => e != (r.src, r.dest)) }).finishTag node tag 0x09 0x11 []
  else
    let p := r.ctx / 16
    let base : Flit := { r.flit with src := BitVec.ofNat 9 node, ctx := BitVec.ofNat 10 r.ctx, gen := BitVec.ofNat 12 r.gen,
                                     tag := BitVec.ofNat 16 tag }
    if r.flit.addr.toNat / 2 ^ 47 = 1 then
      match d.mcOf p (bits r.flit.addr.toNat 42 0) with
      | some m => if d.inService m then d.sendDie node tag r { base with dst := BitVec.ofNat 9 m }
                  else d.finishTag node tag 0x09 0x11 []
      | none => d.finishTag node tag 0x09 0x11 []
    else
      match d.target node p (r.ctx % 16) r.ga with
      | .bad code => d.finishTag node tag code 0x11 []
      | .vat q s v lc =>
        d.sendDie node tag r { base with dst := BitVec.ofNat 9 v, ctx := BitVec.ofNat 10 (16 * q + s),
                                         addr := BitVec.ofNat 48 (dieAddr r.flit r.ga lc) }
      | .mc q s m =>
        d.sendDie node tag r { base with dst := BitVec.ofNat 9 m, ctx := BitVec.ofNat 10 (16 * q + s),
                                         addr := BitVec.ofNat 48 (dieAddr r.flit r.ga 0) }
      | .far chip q s => d.sendChip node tag r base chip q s

/-- The operation accepted first among some. -/
def firstOf : List (Nat × TagRec) → Option (Nat × TagRec)
  | [] => none
  | x :: xs =>
    match firstOf xs with
    | some y => if x.2.idx < y.2.idx then some x else some y
    | none => some x

/-! ## Overflow accesses to external pages (05_local_memory.md R147) -/

def ovfSrc : Nat := 400

/-- The curd's access, accepted by the resolver and next in the curd's order, that is to go to an external page and has
not gone: its order number, place, length and, for a store, its bytes. -/
def Curd.lineDue (c : Curd) : Option (Nat × Nat × Place × Nat × Option (List Byte)) :=
  match c.loads.find? (fun l => l.byLine && !l.sent && c.inOrder l.ord l.addr) with
  | some l => some (l.ord, l.addr, l.place, l.kind.size, none)
  | none => (c.stores.find? (fun w => w.place.isExt && !w.sent && c.inOrder w.ord w.addr)).map (fun w =>
      (w.ord, w.addr, w.place, w.data.length, some w.data))

def Curd.lineSent (c : Curd) (ord : Nat) : Curd :=
  { c with loads := c.loads.map (fun l => if l.ord = ord then { l with sent := true } else l)
           stores := c.stores.map (fun w => if w.ord = ord then { w with sent := true } else w) }

/-- An accepted access to an external page goes to the NI as a line request, under a tag of the third group (06_mesh.md
R193). -/
def Dev.lineStart (d : Dev) (node : Nat) : Dev :=
  match (List.range 68).findSome? (fun s => (d.curd (curdKey node s)).lineDue.map (fun e => (s, e))), (d.ni node).freeTag otherTagBase 64 with
  | some (slot, ord, a, .ext _ off, n, w), some t =>
    (d.setCurd (curdKey node slot) ((d.curd (curdKey node slot)).lineSent ord)).submitTo node (d.vatCtx node) t (.ovf slot ord n)
      (serviceFlit (if w.isSome then tWr else tRd) n off (w.getD [])) a ovfSrc 0 0
  | _, _ => d

/-- The NI takes the next operation it may inject, once its offered flit has gone; a culture update whose turn has come
begins. -/
def Dev.niPump (d : Dev) (node : Nat) : Dev :=
  let d1 := (d.cultStart node).lineStart node
  if (d1.ni node).outA ≠ [] then d1
  else
    match firstOf (d1.injectable node) with
    | some e => d1.inject node e.1 e.2
    | none => d1

/-- An operation that cannot be sent at all completes at issue (R16, R43, R50); any other waits in the NI. -/
def Dev.submitChecked (d : Dev) (node ctx tag : Nat) (op : TagOp) (f : Flit) (ga src ord : Nat) : Dev :=
  let d1 := d.submit node ctx tag op f ga src ord
  match d1.target node (ctx / 16) (ctx % 16) ga with
  | .bad code => d1.finishTag node tag code 0x11 []
  | _ => d1

end Sys2Proof.Machine
end

