-- ==== Sys2Proof/Machine/MeshOps.lean ====
section
/-! DEFINITION. The mesh: where edge nodes attach, direction tables, multicast trees, one router step (01_architecture.md
R13-R16, 06_mesh.md R177-R190, R198, R199). -/

namespace Sys2Proof.Machine

/-! ## Geometry -/

/-- Ports in the fixed order N, E, S, W: 0 to 3. The node beyond a router's port, if it is a router. -/
def routerAt (node port : Nat) : Option Nat :=
  let x := node % 16
  let y := node / 16
  match port with
  | 0 => if 0 < y then some (node - 16) else none
  | 1 => if x < 15 then some (node + 1) else none
  | 2 => if y < 17 then some (node + 16) else none
  | _ => if 0 < x then some (node - 1) else none

/-- The edge node on a router's outward port. -/
def edgeAt (node port : Nat) : Option Nat :=
  ((List.range 56).map (fun i => 0x120 + i)).find? (fun e => attach e == some (node, port))

/-- Shortest-path ports from a router towards a node, as a mask: bit 0 N, 1 E, 2 S, 3 W (R178). -/
def defaultDir (node dst : Nat) : BitVec 4 :=
  match homeRouter dst with
  | none => 0
  | some t =>
    if t = node then
      (match attach dst with
       | some (_, p) => BitVec.ofNat 4 (2 ^ p)
       | none => 0)
    else
      BitVec.ofNat 4 ((if t / 16 < node / 16 then 1 else 0) + (if node % 16 < t % 16 then 2 else 0) +
        (if node / 16 < t / 16 then 4 else 0) + (if t % 16 < node % 16 then 8 else 0))

/-- Routers at each distance from a target, over routers that are not fenced. -/
def distLevels (bad : Nat → Bool) : Nat → List Nat → List Nat → List (List Nat)
  | 0, _, _ => []
  | fuel + 1, seen, front =>
    let next := ((front.flatMap (fun n => [0, 1, 2, 3].filterMap (routerAt n))).filter (fun n => !seen.contains n && !bad n)).dedup
    if front = [] then [] else front :: distLevels bad fuel (seen ++ next) next

/-- Shortest-path masks that avoid fenced routers (R198); empty where no path leads. -/
def avoidDir (bad : Nat → Bool) (node dst : Nat) : BitVec 4 :=
  match homeRouter dst with
  | none => 0
  | some t =>
    if t = node then defaultDir node dst
    else if bad t then 0
    else
      let lv := distLevels bad 288 [t] [t]
      let k := lv.findIdx (fun l => l.contains node)
      let near := lv.getD (k - 1) []
      BitVec.ofNat 4 (if k = 0 ∨ lv.length ≤ k then 0
        else ([0, 1, 2, 3].map (fun i => match routerAt node i with
          | some n => if near.contains n then 2 ^ i else 0
          | none => 0)).foldl (· + ·) 0)

/-- The direction mask in force: as firmware wrote it, else the full mesh's, or once a router of the plane is fenced the
one that avoids it. -/
def Dev.dirMask (d : Dev) (p : Plane) (node dst : Nat) : BitVec 4 :=
  match smGet none d.mesh.dir (meshKey p node * 512 + dst) with
  | some m => m
  | none =>
    let bad (n : Nat) : Bool := smGet false d.mesh.fenced (meshKey p n)
    if d.mesh.fenced.any (fun e => e.1 / 288 == planeNat p) then avoidDir bad node dst else defaultDir node dst

/-- A router port that carries flits: to a router neither fenced nor failed, or to an edge node of an active quadrant
(R15, R18, R198, R199). -/
def Dev.portLive (d : Dev) (p : Plane) (node port : Nat) : Bool :=
  match routerAt node port with
  | some n => !smGet false d.mesh.fenced (meshKey p n) && !smGet false d.mesh.failed (meshKey p n)
  | none =>
    match edgeAt node port with
    | some e => edgeQuadrant e < d.sec.fuses.variant
    | none => false

/-- Whether a port leads to an edge node. -/
def toEdge (node port : Nat) : Bool := (routerAt node port).isNone

/-! ## Multicast (R187-R189) -/

def Dev.group (d : Dev) (p : Plane) (node g : Nat) : Nat := (smGet 0 d.mesh.groups (meshKey p node * 256 + g)).toNat

def grpValid (x : Nat) : Bool := bit x 0
def grpMgmt (x : Nat) : Bool := bit x 1
def grpSource (x : Nat) : Nat := bits x 10 2
def grpOwner (x : Nat) : Nat := bits x 20 11
def grpHas (x n : Nat) : Bool := bit x (32 + n)
def grpMembers (x : Nat) : List Nat := (List.range 288).filter (grpHas x)

/-- The multicast state of a path word (R189). -/
structure Mcast where
  group : Nat
  transit : Bool
  phase : Nat
  dir : Nat
  pending : Nat
  deriving DecidableEq, Repr

def mcOf (path : Nat) : Mcast :=
  { group := bits path 7 0, transit := bit path 8, phase := bits path 10 9, dir := bits path 12 11, pending := bits path 17 13 }

def mcPath (m : Mcast) : BitVec 96 :=
  BitVec.ofNat 96 (m.group + boolNat m.transit * 2 ^ 8 + m.phase * 2 ^ 9 + m.dir * 2 ^ 11 + m.pending * 2 ^ 13)

/-- Branches owed at a node: eject, N, E, S, W as bits 0 to 4 (R189). -/
def branches (members : List Nat) (node : Nat) (m : Mcast) : Nat :=
  let x := node % 16
  let y := node / 16
  let ej := if members.contains node then 1 else 0
  let north := if members.any (fun n => n / 16 < y) then 2 else 0
  let south := if members.any (fun n => y < n / 16) then 8 else 0
  let east := if members.any (fun n => n / 16 = y && x < n % 16) then 4 else 0
  let west := if members.any (fun n => n / 16 = y && n % 16 < x) then 16 else 0
  if m.phase ≤ 1 then
    ej + (if m.phase = 0 ∨ m.dir = 0 then north else 0) + (if m.phase = 0 ∨ m.dir = 2 then south else 0) + east + west
  else ej + (if m.dir = 1 then east else 0) + (if m.dir = 3 then west else 0)

/-- The copy that leaves through a port: N and S carry phase 1, E and W phase 2. -/
def branchCopy (f : Flit) (m : Mcast) (port : Nat) : Flit :=
  { f with path := mcPath { m with transit := false, phase := if port = 0 ∨ port = 2 then 1 else 2, dir := port, pending := 0 } }

/-- A remainder resumes at its branch point with what it still owes. -/
def remainder (f : Flit) (m : Mcast) (node owed : Nat) : Flit :=
  { f with dst := BitVec.ofNat 9 node, age := BitVec.ofNat 8 (min (f.age.toNat + 1) 255),
           path := mcPath { m with transit := true, pending := owed } }

/-! ## Edge nodes -/

/-- Whether an edge node has room for a flit addressed to it: 256 requests at a memory controller (10_memory.md R308);
requests held by the duplicate filter among them (07_links.md R229); replies always find their slot; a port engine keeps what has arrived until it takes or returns it. -/
def Dev.edgeRoom (d : Dev) (e : Nat) (p : Plane) : Bool :=
  match p with
  | .b => true
  | .a => if 0x120 ≤ e ∧ e < 0x140 then decide ((d.chan (e - 0x120)).inq.length + (d.chan (e - 0x120)).heldReqs.length < 256) else true

/-- The packet types that are reserved (R174). -/
def reservedTyp (t : Nat) : Bool := t == 6 || t == 7 || 13 ≤ t

/-- A flit leaves a router on its outward port: an edge node takes what is addressed to it and has room for, and holds
anything else for return (R15). A type that no packet has is discarded and logged (R174, R176). What reaches the management gateway
is read by the management cores: the row of its message stands for it (notes/assumptions/25.md). Replies to the host node wait at its
attachment. -/
def Dev.toEdgeNode (d : Dev) (e : Nat) (p : Plane) (f : Flit) : Dev :=
  let k := 2 * e + planeNat p
  let x := d.edge k
  if f.dst.toNat ≠ e ∨ f.mcast ∨ d.edgeRoom e p = false then d.setEdge k { x with ret := x.ret ++ [f] }
  else if reservedTyp f.typ.toNat then d.raise (plainMsg e 0x10 (flitHeader f % 2 ^ 64))
  else if e = 0x152 then d
  else if (e = 0x150 ∨ e = 0x151) ∧ p = .b then d.setNi e { d.ni e with repBuf := (d.ni e).repBuf ++ [f] }
  else if 0x120 ≤ e ∧ e < 0x140 then
    d.setChan (e - 0x120) { d.chan (e - 0x120) with inq := (d.chan (e - 0x120)).inq ++ [f] }
  else d.setEdge k { x with arr := x.arr ++ [f] }

def inqKey (p : Plane) (node port : Nat) : Nat := meshKey p node * 4 + port

def Dev.pushIn (d : Dev) (p : Plane) (node port : Nat) (f : Flit) : Dev :=
  let k := inqKey p node port
  { d with mesh := { d.mesh with inq := smSet [] d.mesh.inq k (smGet [] d.mesh.inq k ++ [f]) } }

/-- A flit leaves a router through a port. -/
def Dev.sendOut (d : Dev) (p : Plane) (node port : Nat) (f : Flit) : Dev :=
  match routerAt node port with
  | some n => d.pushIn p n ((port + 2) % 4) f
  | none =>
    match edgeAt node port with
    | some e => d.toEdgeNode e p f
    | none => d

/-! ## One router step (R177-R186) -/

/-- Where a step stands: free outputs, how many flits are still to be placed, ejection slots left, marks and deflections
made. -/
structure RStep where
  d : Dev
  free : List Nat
  later : Nat
  eject : Nat
  mark : Bool
  deriving DecidableEq, Repr

def RStep.mk' (d : Dev) (free : List Nat) (mark : Bool) : RStep := { d := d, free := free, later := 0, eject := 2, mark := mark }

def Dev.countDefl (d : Dev) (p : Plane) (node defl marks : Nat) : Dev :=
  let k := meshKey p node
  { d with mesh := { d.mesh with deflected := smSet 0 d.mesh.deflected k (min (smGet 0 d.mesh.deflected k + defl) 0xFFFFFFFF),
                                 marked := smSet 0 d.mesh.marked k (hold16 (smGet 0 d.mesh.marked k + marks)) } }

/-- A flit leaves on a free output; a starving router marks what leaves it (R186). -/
def RStep.out (r : RStep) (p : Plane) (node port : Nat) (f : Flit) : RStep :=
  let mk := r.mark && !f.cmark
  let g := if r.mark then { f with cmark := true } else f
  { r with d := (r.d.countDefl p node 0 (if mk then 1 else 0)).sendOut p node port g, free := r.free.filter (fun x => x != port) }

/-- The NI accepts a flit: plane A while its request buffer of 16 has room (R180); replies always (R193). -/
def Dev.niAccepts (d : Dev) (p : Plane) (node : Nat) : Bool :=
  match p with
  | .a => (d.ni node).roomA
  | .b => true

/-- A multicast copy is for a vat that runs a live context of its slice: the flit's ctx names the slice's first partition
(R46, R190, 08_collectives.md R251). -/
def Dev.mcastLive (d : Dev) (node : Nat) (f : Flit) : Bool :=
  match d.ctxOf node with
  | some c => c % 16 == f.ctx.toNat % 16 && d.sliceHead c == f.ctx.toNat / 16 && (d.ctx c).live && (d.ctx c).gen == f.gen.toNat
  | none => false

/-- A flit is ejected to the vat's NI; a multicast copy for no live context there is discarded (R190), a reserved type is
discarded and logged (R174, R176), and what management sends is taken by the block the row of its command names
(notes/assumptions/25.md). -/
def Dev.ejectTo (d : Dev) (p : Plane) (node : Nat) (f : Flit) : Dev :=
  let n := d.ni node
  let n1 := { n with progress := n.progress + 1 }
  if f.mgmt || (f.mcast && !d.mcastLive node f) then d.setNi node n1
  else if reservedTyp f.typ.toNat then (d.setNi node n1).raise (d.ctxMsg node 0x10 unitNi (flitHeader f % 2 ^ 64) none)
  else
    match p with
    | .a => d.setNi node { n1 with reqBuf := n1.reqBuf ++ [f] }
    | .b => d.setNi node { n1 with repBuf := n1.repBuf ++ [f] }

/-- Free productive ports, E or W before N or S (R177). -/
def Dev.productive (d : Dev) (p : Plane) (node dst : Nat) (free : List Nat) : List Nat :=
  let m := d.dirMask p node dst
  [1, 3, 0, 2].filter (fun i => free.contains i && m.getLsbD i)

/-- A deflected flit's way: the first free port N, E, S, W, edge nodes after routers. -/
def deflectPort (node : Nat) (free : List Nat) : Option Nat :=
  match ([0, 1, 2, 3].filter (fun i => free.contains i && !toEdge node i)).head? with
  | some i => some i
  | none => ([0, 1, 2, 3].filter (fun i => free.contains i)).head?

/-- A flit that takes no productive port ages by one, and is marked beyond 32 (R179, R184). -/
def RStep.deflect (r : RStep) (p : Plane) (node : Nat) (f : Flit) : RStep :=
  let age := min (f.age.toNat + 1) 255
  let mk := decide (32 < age) && !f.cmark
  let g := { f with age := BitVec.ofNat 8 age, cmark := f.cmark || decide (32 < age) }
  let r1 := { r with d := r.d.countDefl p node 1 (if mk then 1 else 0) }
  match deflectPort node r.free with
  | some i => r1.out p node i g
  | none => { r1 with d := r1.d.pushIn p node 0 g }

/-- A multicast flit is served: ejected if it may be, then branched as outputs allow, one output being left for each flit still
to be placed (R177, R189). The remainder leaves as a deflected flit would (DESIGN CHOICE, notes/assumptions/44.md: R189
says one more free output). -/
def RStep.branch (r : RStep) (p : Plane) (node : Nat) (f : Flit) : RStep :=
  let m := mcOf f.path.toNat
  let owed := if m.transit then m.pending else branches (grpMembers (r.d.group p node m.group)) node m
  let canEject := bit owed 0 && 0 < r.eject && r.d.niAccepts p node
  let r1 := if canEject then { r with d := r.d.ejectTo p node f, eject := r.eject - 1 } else r
  let owed1 := if canEject then owed - 1 else owed
  let links := [0, 1, 2, 3].filter (fun i => bit owed1 (i + 1))
  let usable := links.filter (fun i => r1.free.contains i)
  let send (r : RStep) (ports : List Nat) : RStep := ports.foldl (fun r i => r.out p node i (branchCopy f m i)) r
  if bit owed1 0 = false ∧ links.length ≤ r1.free.length - r.later ∧ usable.length = links.length then send r1 links
  else
    let now := usable.take (min links.length (r1.free.length - r.later - 1))
    let r2 := send r1 now
    let left := owed1 - (now.map (fun i => 2 ^ (i + 1))).foldl (· + ·) 0
    match deflectPort node r2.free with
    | some i => r2.out p node i (remainder f m node left)
    | none => { r2 with d := r2.d.pushIn p node 0 (remainder f m node left) }

/-- Placement of one arriving flit. -/
def RStep.place (r : RStep) (p : Plane) (node : Nat) (f : Flit) : RStep :=
  let m := mcOf f.path.toNat
  if f.mcast ∧ (m.transit = false ∨ f.dst.toNat = node) then r.branch p node f
  else if f.dst.toNat = node ∧ !f.mcast then
    if 0 < r.eject && r.d.niAccepts p node then { r with d := r.d.ejectTo p node f, eject := r.eject - 1 }
    else
      let n := r.d.ni node
      let d1 := if p = .a ∧ r.d.niAccepts p node = false then r.d.setNi node { n with refused := hold16 (n.refused + 1) } else r.d
      { r with d := d1 }.deflect p node f
  else
    match r.d.productive p node f.dst.toNat r.free with
    | i :: _ => r.out p node i f
    | [] => r.deflect p node f

/-- Priority order: management first, then higher age, then arrival port N, E, S, W. -/
def flitBefore (f g : Flit) : Bool := (f.mgmt && !g.mgmt) || (f.mgmt == g.mgmt && g.age.toNat ≤ f.age.toNat)

def insertFlit (f : Flit) : List Flit → List Flit
  | [] => [f]
  | g :: gs => if flitBefore f g then f :: g :: gs else g :: insertFlit f gs

/-- Flits in priority order; equal ones keep their order of arrival port. -/
def byPriority : List Flit → List Flit
  | [] => []
  | f :: fs => insertFlit f (byPriority fs)

def Dev.stopped (d : Dev) (p : Plane) : Bool := match p with | .a => d.mesh.stopA | .b => d.mesh.stopB

/-- A multicast flit may enter at a node: the group is valid there, the node's router is its source, and a vat's context is its
owner, unless only management may use it (R188). -/
def Dev.mcastMay (d : Dev) (p : Plane) (node : Nat) (f : Flit) : Bool :=
  match homeRouter node with
  | none => false
  | some r =>
    let x := d.group p r (Sys2Proof.Machine.mcOf f.path.toNat).group
    grpValid x && grpSource x == r && !f.order && !f.xchip && f.typ.toNat != tSig &&
      (0x120 ≤ node || (!grpMgmt x && grpOwner x == f.ctx.toNat))

/-- A flit may enter the mesh at a router: its destination is in service and some path leads to it (01_architecture.md R16,
R198). -/
def Dev.mayEnter (d : Dev) (p : Plane) (node router : Nat) (f : Flit) : Bool :=
  if f.mcast then d.mcastMay p node f
  else d.inService f.dst.toNat && (f.dst.toNat == router || d.dirMask p router f.dst.toNat != 0)

/-- The reply type of a request. -/
def replyTyp (q : Flit) : Nat := match q.typ.toNat with | 0 => tRdr | 2 => tAmor | _ => tAck

/-- A flit that may not enter: it is logged, the operation of a vat's NI completes with FAILED, and a request that came over a
link is answered so (01_architecture.md R16). -/
def Dev.refuseEntry (d : Dev) (p : Plane) (node : Nat) (f : Flit) : Dev :=
  let log (d : Dev) : Dev := d.raise (d.ctxMsg node 0x11 (if node < 0x120 then unitNi else 0) (f.addr.toNat % 2 ^ 47) none)
  match p with
  | .b => log d
  | .a =>
    if node < 0x120 then
      match (d.ni node).tagRec f.tag.toNat with
      | some r => if f.typ.toNat ≤ 3 ∧ r.st = .sent then d.finishTag node f.tag.toNat 0x09 0x11 [] else log d
      | none => log d
    else if f.xchip ∧ f.typ.toNat ≤ 3 then (log d).reply node f (replyTyp f) 0x09 []
    else log d

/-- A port engine offers the oldest arrived packet of the plane and frees its input slot (R181, R196). -/
def Dev.portOffer (d : Dev) (port : Nat) (p : Plane) : Dev × Option Flit :=
  let x := d.port port
  match x.inb.find? (fun e => decide (e.2.typ.toNat / 8 = planeNat p)) with
  | some e =>
    (d.setPort port { x with inb := x.inb.erase e, cG := smSet 0 x.cG e.1 ((smGet 0 x.cG e.1 + 1) % 256) }, some e.2)
  | none => (d, none)

/-- What an edge node injects, if it may enter; with age 0 (R181). -/
def Dev.entering (d : Dev) (p : Plane) (router e : Nat) (f : Flit) : Dev × Option Flit :=
  if d.mayEnter p e router f then (d, some { f with age := 0 }) else (d.refuseEntry p e f, none)

/-- What arrives on one port: the oldest flit on the link, else an edge node's offered flit (R181). -/
def Dev.arrive (d : Dev) (p : Plane) (node port : Nat) : Dev × Option Flit :=
  let k := inqKey p node port
  match smGet [] d.mesh.inq k with
  | f :: rest => ({ d with mesh := { d.mesh with inq := smSet [] d.mesh.inq k rest } }, some f)
  | [] =>
    match edgeAt node port with
    | none => (d, none)
    | some e =>
      if d.stopped p ∨ (d.edge (2 * e + planeNat p)).ret ≠ [] then (d, none)
      else
        let x := d.edge (2 * e + planeNat p)
        match x.out with
        | f :: rest => (d.setEdge (2 * e + planeNat p) { x with out := rest }).entering p node e f
        | [] =>
          if 0x140 ≤ e ∧ e < 0x150 then
            (let o := d.portOffer (e - 0x140) p
             match o.2 with
             | some f => o.1.entering p node e f
             | none => o)
          else (d, none)

/-- The flits that arrive in a step, in the order N, E, S, W: no more than there are outputs (R177). -/
def Dev.arrivals (d : Dev) (p : Plane) (node outputs : Nat) : Dev × List Flit :=
  [0, 1, 2, 3].foldl (fun acc port =>
    if outputs ≤ acc.2.length then acc
    else
      let x := acc.1.arrive p node port
      (x.1, match x.2 with | some f => acc.2 ++ [f] | none => acc.2)) (d, [])

/-- The limiter lets one more plane-A flit out (R185). -/
def NI.mayInject (n : NI) : Bool := decide (popcNat 64 n.hist.toNat < n.allow)

/-- The NI injects the head it offers into an output left free: a productive one, else the one a deflected flit would take
(DESIGN CHOICE, notes/assumptions/44.md: R181 says a link output left free). A flit that may not enter is refused (R16). -/
def RStep.inject (r : RStep) (p : Plane) (node : Nat) : RStep :=
  let n := r.d.ni node
  let q := match p with | .a => n.outA | .b => n.outB
  match q with
  | [] => r
  | f :: rest =>
    if r.d.mayEnter p node node f = false then
      (let n1 := match p with | .a => { n with outA := rest } | .b => { n with outB := rest }
       { r with d := (r.d.setNi node n1).refuseEntry p node f })
    else
      let port := match r.d.productive p node f.dst.toNat r.free with
        | i :: _ => some i
        | [] => deflectPort node r.free
      match port with
      | none => r
      | some i =>
        if p = .a ∧ n.mayInject = false then r
        else
          let n1 := match p with
            | .a => { n with outA := rest, hist := n.hist ||| 1, starveA := false, progress := n.progress + 1 }
            | .b => { n with outB := rest, starveB := false, progress := n.progress + 1 }
          if f.mcast then { r with d := r.d.setNi node n1 }.branch p node f
          else { r with d := r.d.setNi node n1 }.out p node i f

/-- Flits placed one after another. -/
def RStep.placeAll (p : Plane) (node : Nat) : RStep → List Flit → RStep
  | r, [] => r
  | r, f :: fs => placeAll p node ({ r with later := fs.length }.place p node f) fs

/-- One step of a router: arrivals are placed in priority order, then the NI may inject. A router that has failed does
nothing. -/
def doRouterStep (d : Dev) (p : Plane) (node : Nat) : Dev :=
  if 288 ≤ node ∨ smGet false d.mesh.failed (meshKey p node) then d
  else
    let d0 := match p with
      | .a => let n := d.ni node
              (d.setNi node { n with hist := n.hist <<< 1 }).niPump node
      | .b => d
    let free := [0, 1, 2, 3].filter (fun i => d.portLive p node i)
    let a := d0.arrivals p node free.length
    let n := d.ni node
    let r0 := RStep.mk' a.1 free (match p with | .a => n.starveA | .b => n.starveB)
    let r1 := RStep.placeAll p node r0 (byPriority a.2)
    (if d.stopped p then r1 else r1.inject p node).d

end Sys2Proof.Machine
end

