-- ==== Sys2Proof/Machine/CollOps.lean ====
section
/-! DEFINITION. Collectives: descriptors, trees, positions and windows, packets and credits, and the shared steps of
reduction units and port engines (08_collectives.md R241-R265). -/

namespace Sys2Proof.Machine

/-! ## Descriptors (R241-R245) -/

def CollDesc.ofBytes (bs : List Byte) : CollDesc :=
  { op := leAt bs 0 1, typ := leAt bs 1 1, flags := leAt bs 2 2, count := leAt bs 4 4, src := leAt bs 8 8, dst := leAt bs 0x10 8,
    root := leAt bs 0x18 4, rowlen := leAt bs 0x1C 4, table := leAt bs 0x20 8, index := leAt bs 0x28 8,
    origin := leAt bs 0x30 8, rsv := leAt bs 0x38 8, raw := bs }

def CollDesc.dt (x : CollDesc) : Nat := bits x.typ 1 0
def CollDesc.redop (x : CollDesc) : Nat := bits x.typ 3 2
def CollDesc.cores (x : CollDesc) : Bool := bit x.flags 0
def CollDesc.inplaceBit (x : CollDesc) : Bool := bit x.flags 1
def CollDesc.inf (x : CollDesc) : Bool := bit x.flags 2
/-- Bytes of an element (R242). -/
def CollDesc.esz (x : CollDesc) : Nat := if x.dt = 1 then 2 else 4
/-- Choices per row of a dispatch. -/
def CollDesc.k (x : CollDesc) : Nat := bits x.root 4 0
/-- The 0x05-0x08 family moves rows by ordinary writes (R258). -/
def CollDesc.rows (x : CollDesc) : Bool := 5 ≤ x.op && x.op ≤ 8

/-- The digest of an ARRIVE token (R244). -/
def CollDesc.digest (x : CollDesc) : Nat :=
  let head : List Byte := [BitVec.ofNat 8 x.op, BitVec.ofNat 8 x.typ, BitVec.ofNat 8 (x.flags % 2)]
  crcValue 4 0 (if 6 ≤ x.op then head else head ++ leBytes 4 x.count)

/-- Chunks of `n` elements (R249). -/
def chunksIn (n : Nat) : Nat := (n + 31) / 32

/-- Chunks of a segment and segments of a collective in a slice of `r` ranks (R249, R256, R257). -/
def CollDesc.shape (x : CollDesc) (r : Nat) : Nat × Nat :=
  match x.op with
  | 1 | 4 => (chunksIn x.count, 1)
  | 2 | 3 => (chunksIn x.count, r)
  | _ => (0, 0)

/-- Reserved fields and codes, the scope an op allows, and fields an op does not use (R241, R242). -/
def CollDesc.codesOk (x : CollDesc) : Bool :=
  x.rsv == 0 && x.op ≤ 8 && x.dt ≤ 2 && x.redop ≤ 2 && x.typ < 16 && x.flags < 8 &&
    (!x.cores || x.op == 0 || x.op == 1 || x.op == 4) &&
    (if x.op = 4 then (x.cores || x.root < 2 ^ 20) else if x.op = 7 ∨ x.op = 8 then 1 ≤ x.root && x.root ≤ 16 else x.root == 0) &&
    (if 6 ≤ x.op then 4 ≤ x.rowlen && x.rowlen ≤ 2 ^ 20 && x.rowlen % 4 == 0 else x.rowlen == 0 && x.table == 0) &&
    (if x.op = 7 then true else x.index == 0) && (if 7 ≤ x.op then true else x.origin == 0)

/-- What the chip keeps of a collective for its engines. -/
def CollDesc.kind (x : CollDesc) : CollKind := { op := x.op, typ := x.typ, inf := x.inf, cores := x.cores }

/-- Bytes of the source and destination ranges of a participant (R241, R256-R258); those of rows are in `Dev.rowSpans`. -/
def CollDesc.srcBytes (x : CollDesc) (r : Nat) : Nat :=
  match x.op with
  | 0 => 0
  | 2 | 5 => r * x.count * x.esz
  | 7 => x.count * x.rowlen
  | 6 | 8 => 0
  | _ => x.count * x.esz

def CollDesc.dstBytes (x : CollDesc) (r : Nat) : Nat :=
  match x.op with
  | 0 | 6 | 7 | 8 => 0
  | 3 | 5 => r * x.count * x.esz
  | _ => x.count * x.esz

/-- A RANK-scope address: segment space of the issuing rank, it and the bytes from it inside one valid segment (R243, R245). -/
def Ctx.collAddr (c : Ctx) (ga n : Nat) (write : Bool) : Bool :=
  !gaCore ga && (gaRank ga == 0xFFFFF || gaRank ga == c.rank) && (c.segAt (gaOff ga) (max 1 n) write).isSome

def Dev.collRanks (d : Dev) (ctx : Nat) : Nat := sdRanks ((d.ctxNi ctx).slice (ctx % 16))

/-! ## Memory of the rank -/

/-- The rank's segment space, read through its segment registers. -/
def Dev.rankRead (d : Dev) (ctx off n : Nat) : Dev × Option (List Byte) :=
  match (d.ctx ctx).segAt off n false with
  | some a => d.extRead (ctx / 16) a n (some ctx)
  | none => (d, none)

/-- A write to the rank's segment space: code 0, DENIED or FAILED. -/
def Dev.rankWrite (d : Dev) (ctx off : Nat) (bs : List Byte) : Dev × Nat :=
  match (d.ctx ctx).segAt off bs.length true with
  | some a => let w := d.extWrite (ctx / 16) a bs (some ctx)
              (w.1, if w.2 then 0 else 0x09)
  | none => (d, 0x04)

/-- A 4-byte number of the rank's segment space. -/
def Dev.rankWord (d : Dev) (ctx off : Nat) : Dev × Nat :=
  let r := d.rankRead ctx off 4
  (r.1, leNat (r.2.getD []))

/-- A field of a rank table (R259). -/
def Dev.tabField (d : Dev) (ctx : Nat) (x : CollDesc) (rank field : Nat) : Nat :=
  (d.rankWord ctx (gaOff x.table + 16 * rank + field)).2

/-- The source and destination rows of 0x06-0x08 at a rank, as its tables stand: pairs of an offset and a length
(R258, R259). -/
def Dev.rowSpans (d : Dev) (ctx : Nat) (x : CollDesc) : List (Nat × Nat) × List (Nat × Nat) :=
  let rs := List.range (d.collRanks ctx)
  let t (q field : Nat) : Nat := d.tabField ctx x q field
  let rows (base : Nat) (at_ n : Nat) : List (Nat × Nat) :=
    rs.map (fun q => (gaOff base + t q at_ * x.rowlen, t q n * x.rowlen))
  let all (base n : Nat) : Nat × Nat := (gaOff base, (rs.map (fun q => t q n * x.rowlen)).foldl (· + ·) 0)
  match x.op with
  | 6 => (rows x.src 8 0, rows x.dst 0xC 4)
  | 7 => ([(gaOff x.src, x.count * x.rowlen)], rows x.dst 0xC 4)
  | 8 => (rows x.src 0xC 4, [all x.dst 0])
  | _ => ([], [])

/-- The destination ranges of a rank's collective. -/
def Dev.dstSpans (d : Dev) (ctx : Nat) (x : CollDesc) : List (Nat × Nat) :=
  if 6 ≤ x.op then (d.rowSpans ctx x).2 else [(gaOff x.dst, x.dstBytes (d.collRanks ctx))]

/-- A collective is in place at a participant (R243). -/
def Dev.collInplace (d : Dev) (ctx : Nat) (x : CollDesc) : Bool :=
  let r := d.collRanks ctx
  x.inplaceBit ||
    (if 6 ≤ x.op then
      let s := d.rowSpans ctx x
      s.1.any (fun a => s.2.any (fun b => overlap a.1 a.2 b.1 b.2))
     else overlap (x.src % 2 ^ 43) (x.srcBytes r) (x.dst % 2 ^ 43) (x.dstBytes r))

/-- The addresses of a RANK-scope descriptor lie where R243 says. Of rows whose number only the exchange of counts brings, the
first byte is checked (DEDUCED, notes/assumptions/46.md). -/
def Dev.collAddrsOk (d : Dev) (ctx ranks : Nat) (x : CollDesc) : Bool :=
  let c := d.ctx ctx
  let s := d.rowSpans ctx x
  let seg (a : Nat × Nat) (write : Bool) : Bool := a.2 == 0 || (c.segAt a.1 a.2 write).isSome
  x.op == 0 ||
    (c.collAddr x.src (x.srcBytes ranks) false && c.collAddr x.dst (x.dstBytes ranks) true &&
      (x.op < 6 ||
        (c.collAddr x.table (16 * ranks) true && s.1.all (fun a => seg a false) && (x.op != 8 || s.2.all (fun a => seg a true)))) &&
      (x.op != 7 || c.collAddr x.index (4 * x.count * x.k) false) &&
      (x.op < 7 || c.collAddr x.origin
        (if x.op = 8 then 4 * ((List.range ranks).map (fun q => d.tabField ctx x q 4)).foldl (· + ·) 0 else 4) (x.op == 7)))

/-- The check of a descriptor when the reduction unit accepts it (R245). -/
def Dev.collOk (d : Dev) (node slot ctx core ranks : Nat) (x : CollDesc) : Bool :=
  x.codesOk &&
    (if x.cores then
      (x.srcBytes ranks == 0 || d.bufferOk node slot x.src (x.srcBytes ranks)) &&
        (x.dstBytes ranks == 0 || d.bufferOk node slot x.dst (x.dstBytes ranks))
     else
      core == 0 && d.collAddrsOk ctx ranks x) &&
    (!x.rows || ranks ≤ 4096)

/-! ## Trees (R247) -/

def teValid (e : Nat) : Bool := bit e 0
def teRoot (e : Nat) : Bool := bit e 1
def teEngine (e : Nat) : Nat := bits e 5 2
def teParent (e : Nat) : Nat := bits e 9 6
def teChildren (e : Nat) : Nat := bits e 25 10
def teGroup (e : Nat) : Nat := bits e 33 26
def teConf (e : Nat) : Bool := bit e 34
def teWindow (e : Nat) : Nat := bits e 46 35
def teGen (e : Nat) : Nat := bits e 58 47
def teTrees (e : Nat) : Nat := bits e 62 59 + 1
/-- Child ports of an entry. -/
def teKids (e : Nat) : List Nat := (List.range 16).filter (fun p => bit (teChildren e) p)

/-- Where the copy of entry `t` at a port engine (0x140 + p) or a vat's reduction unit (its node) stands. -/
def treeKey (u t : Nat) : Nat := 1024 * u + t

/-- An entry of a unit's own copy of the tree table. -/
def Dev.tree (d : Dev) (u t : Nat) : Nat := (smGet 0 d.trees (treeKey u t)).toNat

/-- The units that hold a copy (R247). -/
def treeUnits : List Nat := List.range 288 ++ (List.range 16).map (fun p => 0x140 + p)

/-- Every copy of an entry is written. -/
def Dev.writeTree (d : Dev) (t : Nat) (w : BitVec 64) : Dev :=
  { d with trees := treeUnits.foldl (fun (m : SMap (BitVec 64)) u => smSet 0 m (treeKey u t) w) d.trees }

/-- Member partitions of the slice on this chip, in list order, as the first vat of partition h knows them. -/
def Dev.memberParts (d : Dev) (ctx : Nat) : List Nat :=
  let x := (d.ctxNi ctx).slice (ctx % 16)
  (List.range (sdP x)).map (sdPlist x)

/-- The first vat of a partition. -/
def Dev.firstVat (d : Dev) (p : Nat) : Option Nat := (d.partNodes p).head?

/-- The unit that holds a partition's collectives. -/
def Dev.rankUnit (d : Dev) (ctx : Nat) : Nat := (d.firstVat (ctx / 16)).getD 0

/-! ## Positions and windows (R252): a position is 2^27 * sequence + chunk -/

def posOf (seq chunk : Nat) : Nat := seq * 2 ^ 27 + chunk
def posSeq (p : Nat) : Nat := p / 2 ^ 27
def posChunk (p : Nat) : Nat := p % 2 ^ 27

/-- The first position of tree t at or after a sequence, as far as collectives have been issued here. -/
def firstPos (infos : SMap (Nat × Nat)) (known t : Nat) : Nat → Nat → Nat
  | 0, seq => posOf seq 0
  | fuel + 1, seq =>
    if known ≤ seq then posOf seq 0
    else
      let i := smGet (0, 0) infos seq
      if t < i.1 ∧ 0 < i.2 then posOf seq t else firstPos infos known t fuel (seq + 1)

/-- A position is that of a data chunk of tree t among the collectives issued here. -/
def realPos (infos : SMap (Nat × Nat)) (known t trees p : Nat) : Bool :=
  let i := smGet (0, 0) infos (posSeq p)
  decide (posSeq p < known) && decide (0 < i.1) && decide (posChunk p < i.1 * i.2) && posChunk p % i.1 % trees == t

/-- The first position of tree t at or after one: a low position reported before the collectives past it were issued, or
one of a collective that has ended without its chunks, stands for the next that there is. -/
def normPos (infos : SMap (Nat × Nat)) (known t trees p : Nat) : Nat :=
  if realPos infos known t trees p then p else firstPos infos known t (known - posSeq p + 1) (posSeq p)

/-- The position after one, on tree t of `trees`. -/
def nextPos (infos : SMap (Nat × Nat)) (known t trees p : Nat) : Nat :=
  let i := smGet (0, 0) infos (posSeq p)
  let c := posChunk p
  let later := firstPos infos known t (known - posSeq p) (posSeq p + 1)
  if i.1 = 0 then later
  else if c % i.1 + trees < i.1 then p + trees
  else if c / i.1 + 1 < i.2 ∧ t < i.1 then posOf (posSeq p) ((c / i.1 + 1) * i.1 + t)
  else later

/-- Position x lies less than `w` positions from `low`. -/
def inWindow (infos : SMap (Nat × Nat)) (known t trees x : Nat) : Nat → Nat → Bool
  | 0, _ => false
  | w + 1, low => x ≤ low || inWindow infos known t trees x w (nextPos infos known t trees low)

/-- The low position moves past freed positions. -/
def raiseLow (infos : SMap (Nat × Nat)) (known t trees : Nat) (freed : List Nat) : Nat → Nat → Nat
  | 0, low => low
  | fuel + 1, low => if freed.contains low then raiseLow infos known t trees freed fuel (nextPos infos known t trees low) else low

/-- Positions and counts of a slice on this chip: held at the first vat of partition h. -/
def Dev.infosOf (d : Dev) (tree : Nat) : SMap (Nat × Nat) × Nat :=
  match d.firstVat (tree / 16) with
  | some n => ((d.unit n).infos, (d.unit n).known)
  | none => ([], 0)

/-- A position of a tree, as it stands for the next chunk there is (`normPos`). -/
def Dev.norm (d : Dev) (u tree p : Nat) : Nat :=
  let i := d.infosOf tree
  normPos i.1 i.2 (tree % 16) (teTrees (d.tree u tree)) p

/-- A unit's low position on a tree. -/
def Dev.lowOf (d : Dev) (u tree : Nat) : Nat := d.norm u tree (smGet 0 (d.unit u).low tree)

/-- The parent's last reported low position, at a unit. -/
def Dev.parentLow (d : Dev) (u tree : Nat) : Nat := d.norm u tree (smGet 0 (d.unit u).peerLow tree)

/-- Position x of a tree lies in the window that the parent has opened (R252). -/
def Dev.windowOpen (d : Dev) (u tree x : Nat) : Bool :=
  let i := d.infosOf tree
  let e := d.tree u tree
  inWindow i.1 i.2 (tree % 16) (teTrees e) x (teWindow e) (d.parentLow u tree)

/-- A collective of a tree's slice as this chip knows it; none where it has not been issued here. -/
def Dev.kindOf (d : Dev) (tree seq : Nat) : Option CollKind :=
  match d.firstVat (tree / 16) with
  | some n => if seq < (d.unit n).known then some (smGet CollKind.init (d.unit n).kinds seq) else none
  | none => none

/-- A chunk's number within its segment: the chunk number of R249, R256 and R257. -/
def Dev.segChunk (d : Dev) (tree seq g : Nat) : Nat := g % max 1 (smGet (0, 0) (d.infosOf tree).1 seq).1

/-- A position is freed at a unit. -/
def Dev.freePos (d : Dev) (u tree pos : Nat) : Dev :=
  let x := d.unit u
  let i := d.infosOf tree
  let freed := x.freed ++ [(tree, pos)]
  let mine := (freed.filter (fun e => e.1 == tree)).map (fun e => e.2)
  let low := raiseLow i.1 i.2 (tree % 16) (teTrees (d.tree u tree)) mine (mine.length + 1) (d.lowOf u tree)
  d.setUnit u { x with slots := x.slots.filter (fun s => !(s.tree == tree && s.pos == pos)),
                       low := smSet 0 x.low tree low, freed := freed.filter (fun e => e.1 != tree || low ≤ e.2) }

/-- A position already freed, or below the low position (R253). -/
def Dev.posGone (d : Dev) (u tree pos : Nat) : Bool := pos < d.lowOf u tree || (d.unit u).freed.contains (tree, pos)

/-! ## Packets (R251, R264) -/

def kUp : Nat := 1
def kDown : Nat := 2
def kArrive : Nat := 3
def kRelease : Nat := 4
def kAbort : Nat := 5

def collKind (f : Flit) : Nat := f.status.toNat
def collTree (f : Flit) : Nat := bits f.addr.toNat 30 27
def collChunk (f : Flit) : Nat := bits f.addr.toNat 26 0
/-- A tree's number in the tree table: ctx is 16 L[0] + s. -/
def collEntry (f : Flit) : Nat := 16 * (f.ctx.toNat / 16) + collTree f

/-- The sequence nearest to one known that ends in the 16 bits of the tag. -/
def fullSeq (near tag : Nat) : Nat := ((near : Int) + toSigned 16 ((tag + 2 ^ 16 - near % 2 ^ 16) % 2 ^ 16)).toNat

def Dev.collSeqOf (d : Dev) (f : Flit) : Nat :=
  let i := d.infosOf (collEntry f)
  fullSeq (if i.2 = 0 then 0 else i.2 - 1) f.tag.toNat

def Dev.collPosOf (d : Dev) (f : Flit) : Nat := posOf (d.collSeqOf f) (collChunk f)

/-- A COLL packet of a slice, as a unit makes it: `code` is the byte an ARRIVE or RELEASE carries. -/
def Dev.collFlit (d : Dev) (u tree slot kind pos digest : Nat) (red : Bool) (payload : List Byte) : Flit :=
  let e := d.tree u tree
  { blankFlit tColl 0 0 with
    ctx := BitVec.ofNat 10 (16 * (tree / 16) + slot), gen := BitVec.ofNat 12 (teGen e), tag := BitVec.ofNat 16 (posSeq pos),
    addr := BitVec.ofNat 48 (posChunk pos + tree % 16 * 2 ^ 27), status := BitVec.ofNat 8 kind, reduce := red,
    link := BitVec.ofNat 16 digest, bytes := BitVec.ofNat 8 payload.length, payload := payload }

def words (bs : List Byte) : List Word32 := bytesWords (bs.length / 4) bs

/-- The nonce of a COLL or COLLR packet (R264). -/
def collNonce (chip port kind resend seq chunk tree : Nat) : List Byte :=
  leBytes 12 (tree * 2 ^ 8 + chunk * 2 ^ 12 + seq * 2 ^ 39 + resend * 2 ^ 71 + kind * 2 ^ 73 + port * 2 ^ 76 + chip * 2 ^ 80 +
    3 * 2 ^ 94)

/-- A packet over a path of links, sealed for a confidential slice (R251, R257, R263). -/
def Dev.overLinks (d : Dev) (unit path : Nat) (cls : Bool) (seq tries : Nat) (f : Flit) : Dev :=
  let port := pathEntry path 0
  let g : Flit := { f with dst := BitVec.ofNat 9 (0x140 + port), src := BitVec.ofNat 9 unit, xchip := true, cls := cls,
                           path := BitVec.ofNat 96 path }
  let kind := if f.typ.toNat = tCollr then 6 else collKind f
  let g := if teConf (d.tree unit (collEntry f)) then
      let key := d.linkKey f.ctx.toNat
      let c := gcmSeal key (collNonce (rcOwnChip (d.routeCfgAt unit)) port kind tries seq (collChunk f) (collTree f)) (xAad g)
        g.payload
      { g with payload := c.take g.payload.length ++ leBytes 4 (seq / 2 ^ 16) ++ (c.drop g.payload.length).take 16 }
    else g
  d.offer unit (if f.typ.toNat = tCollr then .b else .a) g

/-- A packet to the neighbour beyond a port: a one-hop path, class 0 towards the root (R251). -/
def Dev.toPort (d : Dev) (unit port : Nat) (up : Bool) (seq tries : Nat) (f : Flit) : Dev := d.overLinks unit (pathWord [port]) (!up) seq tries f

/-- The clear payload of a packet that came over a link, and its resend number, found by trying the four (R264). -/
def Dev.collOpen (d : Dev) (u : Nat) (f : Flit) : Option (List Byte × Nat) :=
  if !f.xchip || !teConf (d.tree u (collEntry f)) then some (f.payload.take f.bytes.toNat, 0)
  else
    let n := d.ctxNi f.ctx.toNat
    let from_ := sourceChip n.cfg n.ownChip f.path.toNat f.hop.toNat
    let kind := if f.typ.toNat = tCollr then 6 else collKind f
    let seq := f.tag.toNat + leAt f.payload f.bytes.toNat 4 * 2 ^ 16
    ([0, 1, 2, 3].filterMap (fun r =>
      (gcmOpen (d.linkKey f.ctx.toNat) (collNonce from_ (pathEntry f.path.toNat 0) kind r seq (collChunk f) (collTree f))
        (xAad f) (f.payload.take f.bytes.toNat) ((f.payload.drop (f.bytes.toNat + 4)).take 16)).map (fun bs => (bs, r)))).head?

/-- The neighbour a packet came from: a port, or 32 + the index of a member partition. -/
def Dev.collFrom (d : Dev) (f : Flit) : Nat :=
  if f.xchip then pathEntry f.path.toNat f.hop.toNat
  else
    let p := (d.partOf f.src.toNat).getD 0
    32 + ((d.memberParts f.ctx.toNat).idxOf p)

/-- A packet is acted on only if its tree entry is valid and of its generation (R251). -/
def Dev.collLive (d : Dev) (u : Nat) (f : Flit) : Bool :=
  let e := d.tree u (collEntry f)
  teValid e && teGen e == f.gen.toNat

/-- The credit of a packet: this unit's low position in bytes 0-7, the kind it answers in their top three bits (R252; the place of
the kind is a DESIGN CHOICE, notes/assumptions/13.md). Over links it goes back along the packet's path, under its resend
number. -/
def Dev.credit (d : Dev) (unit : Nat) (f : Flit) (tries : Nat) : Dev :=
  let g : Flit := { blankFlit tCollr f.src.toNat unit with
    ctx := f.ctx, gen := f.gen, tag := f.tag, addr := f.addr, bytes := 8,
    payload := leBytes 8 (d.lowOf unit (collEntry f) + collKind f * 2 ^ 61), cmark := f.cmark }
  if f.xchip then d.overLinks unit (pathWord (replyPath f.path.toNat f.hop.toNat)) (!f.cls) (d.collSeqOf f) tries g
  else d.offer unit .b g

/-- The kind and the low position of a credit's payload. -/
def creditKind (bs : List Byte) : Nat := bits (leAt bs 0 8) 63 61
def creditLow (bs : List Byte) : Nat := bits (leAt bs 0 8) 60 0

/-- A packet sent and remembered until credited (R253). -/
def Dev.collSend (d : Dev) (unit dst kind tree pos : Nat) (f : Flit) : Dev :=
  let x := d.unit unit
  let d1 := d.setUnit unit { x with sent := x.sent ++ [{ dst := dst, kind := kind, tree := tree, pos := pos, tries := 0, flit := f }] }
  if dst < 16 then d1.toPort unit dst (kind == kUp || kind == kArrive) (posSeq pos) 0 f
  else d1.offer unit .a f

/-- To the engine of a tree on this chip. -/
def Dev.toEngine (d : Dev) (unit vat tree kind pos : Nat) (f : Flit) : Dev :=
  d.collSend unit 100 kind tree pos
    { f with dst := BitVec.ofNat 9 (0x140 + teEngine (d.tree vat tree)), src := BitVec.ofNat 9 vat }

/-! ## Engines: tokens (R254, R258) -/

def CollUnit.tok (x : CollUnit) (tree seq bar : Nat) : Option CollTok :=
  x.toks.find? (fun t => t.tree == tree && t.seq == seq && t.bar == bar)

def CollUnit.setTok (x : CollUnit) (t : CollTok) : CollUnit :=
  { x with toks := if x.toks.any (fun u => u.tree == t.tree && u.seq == t.seq && u.bar == t.bar) then
      x.toks.map (fun u => if u.tree == t.tree && u.seq == t.seq && u.bar == t.bar then t else u)
    else x.toks ++ [t] }

/-- Contributions an engine expects: its child ports and the chip's member partitions. -/
def Dev.collExpect (d : Dev) (u tree ctx : Nat) : Nat := (teKids (d.tree u tree)).length + (d.memberParts ctx).length

/-- A table of 8 collective sequences per slice (R254). -/
def CollUnit.tokRoom (x : CollUnit) (tree seq : Nat) : Bool :=
  let seqs := ((x.toks.filter (fun t => t.tree / 16 == tree / 16)).map (fun t => t.seq)).eraseDups
  seqs.contains seq || seqs.length < 8

/-- Tokens of collectives eight or more behind leave the table: no two ranks are more than eight collectives apart (R254). -/
def CollUnit.prune (x : CollUnit) (h seq : Nat) : CollUnit :=
  { x with toks := x.toks.filter (fun t => t.tree / 16 != h || seq < t.seq + 8) }

/-- A sequence that has left a unit's table. -/
def CollUnit.pruned (x : CollUnit) (h seq : Nat) : Bool := x.toks.any (fun t => t.tree / 16 == h && decide (seq + 8 ≤ t.seq))

/-- RELEASE of a collective has reached this chip: at tree 0's engine (R254). -/
def Dev.released (d : Dev) (u tree seq : Nat) : Option Nat :=
  let t0 := 16 * (tree / 16)
  match (d.unit (0x140 + teEngine (d.tree u t0))).tok t0 seq 0 with
  | some t => t.release
  | none => none

/-- The slot (context) number of a slice whose first partition is h: the flit's own. -/
def flitSlot (f : Flit) : Nat := f.ctx.toNat % 16

/-! ## Results on their way down (R250 step 5, R256, R257) -/

/-- Vats of this chip that take chunk c of a segment: vat c mod k of each member partition, or every vat in CORES scope. -/
def Dev.resultVats (d : Dev) (ctx chunk : Nat) (cores : Bool) : List Nat :=
  (d.memberParts ctx).flatMap (fun p =>
    let ns := d.partNodes p
    if cores then ns else (ns[chunk % ns.length]?).toList)

/-- The collective of the slice at partition h with a sequence, as this chip knows it. -/
def Dev.collOpAt (d : Dev) (tree seq : Nat) : Option CollOp :=
  match d.firstVat (tree / 16) with
  | some n => (d.unit n).ops.find? (fun o => o.numbered && o.seq == seq && o.ctx / 16 == tree / 16)
  | none => none

/-- A group usable by an engine for its vats (R188, R198, R247). -/
def Dev.collGroup (d : Dev) (unit tree : Nat) : Option Nat :=
  match attach unit with
  | some (r, _) =>
    let g := teGroup (d.tree unit tree)
    let x := d.group .a r g
    if grpValid x && grpSource x == r && !smGet false d.mesh.fenced r then some g else none
  | none => none

/-- The result of a position goes to every child port and to the chip's destination vats. -/
def Dev.sendDown (d : Dev) (unit tree slot pos : Nat) (data : List Word32) : Dev :=
  let e := d.tree unit tree
  let f := d.collFlit unit tree slot kDown pos 0 false (lanesBytes data)
  let d1 := (teKids e).foldl (fun d p => d.collSend unit p kDown tree pos f) d
  let cores := match d.kindOf tree (posSeq pos) with | some k => k.cores | none => false
  let vats := d.resultVats f.ctx.toNat (d.segChunk tree (posSeq pos) (posChunk pos)) cores
  let note (d : Dev) : Dev := vats.foldl (fun d n =>
    let x := d.unit unit
    d.setUnit unit { x with sent := x.sent ++ [{ dst := 1000 + n, kind := kDown, tree := tree, pos := pos, tries := 0,
                                                 flit := { f with dst := BitVec.ofNat 9 n, src := BitVec.ofNat 9 unit } }] }) d
  match d.collGroup unit tree with
  | some g =>
    (note d1).offer unit .a { f with src := BitVec.ofNat 9 unit, mcast := true,
                                     path := mcPath { group := g, transit := false, phase := 0, dir := 0, pending := 0 } }
  | none =>
    vats.foldl (fun d n => d.collSend unit (1000 + n) kDown tree pos
      { f with dst := BitVec.ofNat 9 n, src := BitVec.ofNat 9 unit }) d1

/-- A reduce-scatter result goes to rank r alone, over a path of its own (R257, R263). -/
def Dev.sendToRank (d : Dev) (unit tree slot pos rank : Nat) (data : List Word32) : Dev :=
  let n := d.ctxNi (16 * (tree / 16) + slot)
  let f := d.collFlit unit tree slot kDown pos 0 false (lanesBytes data)
  match n.translate (tree / 16) slot rank with
  | none => d
  | some (chip, p, _) =>
    let x := d.unit unit
    let keep (g : Flit) : Dev :=
      d.setUnit unit { x with sent := x.sent ++ [{ dst := 2000, kind := kDown, tree := tree, pos := pos, tries := 0, flit := g }] }
    if chip = n.ownChip then
      let ns := d.partNodes p
      match ns[d.segChunk tree (posSeq pos) (posChunk pos) % ns.length]? with
      | some v => let g : Flit := { f with dst := BitVec.ofNat 9 v, src := BitVec.ofNat 9 unit }
                  (keep g).offer unit .a g
      | none => d
    else
      match n.route 0 slot chip with
      | some (es, cls) => (keep { f with path := BitVec.ofNat 96 (pathWord es), cls := cls == 1, xchip := true }).overLinks unit (pathWord es) (cls == 1)
                            (posSeq pos) 0 f
      | none => d

/-- A fresh slot. -/
def CollSlot.fresh (tree pos expect : Nat) : CollSlot :=
  { tree := tree, pos := pos, data := [], more := [], got := [], expect := expect, complete := false, upSent := false, upCred := false,
    downSent := false }

/-- Combination of two contributions (R139). -/
def combineChunk (x : CollKind) (a b : List Word32) : List Word32 := a.zipWith (combine (bits x.typ 3 2) (bits x.typ 1 0) x.inf) b

/-- Contributions of a collective that this chip had not issued are combined, in arrival order, once it is known. -/
def CollSlot.settle (k : Option CollKind) (s : CollSlot) : CollSlot :=
  match k with
  | none => s
  | some k => { s with data := s.more.foldl (combineChunk k) s.data, more := [] }

/-- A contribution joins a slot. -/
def CollSlot.take (k : Option CollKind) (s : CollSlot) (ws : List Word32) : CollSlot :=
  if s.data = [] then { s with data := ws } else CollSlot.settle k { s with more := s.more ++ [ws] }

/-- A complete slot moves on: up to the parent within its window, or down once RELEASE has reached the root's chip. Before the
chip has issued the collective neither its arithmetic nor its place in the window is known, and the slot waits
(DEDUCED, notes/assumptions/13.md). -/
def Dev.slotStep (d : Dev) (unit slot : Nat) (s0 : CollSlot) : Dev :=
  let e := d.tree unit s0.tree
  let upd (d : Dev) (t : CollSlot) : Dev :=
    let y := d.unit unit
    d.setUnit unit { y with slots := y.slots.map (fun u => if u.tree = s0.tree ∧ u.pos = s0.pos then t else u) }
  match d.kindOf s0.tree (posSeq s0.pos) with
  | none => d
  | some k =>
    let s := s0.settle (some k)
    if !s.complete then d
    else if teRoot e then
      if s.downSent ∨ d.released unit s.tree (posSeq s.pos) ≠ some 0 then d
      else
        let d1 := upd d { s with downSent := true, upCred := true }
        if k.op = 2 then
          d1.sendToRank unit s.tree slot s.pos (posChunk s.pos / max 1 (smGet (0, 0) (d.infosOf s.tree).1 (posSeq s.pos)).1) s.data
        else d1.sendDown unit s.tree slot s.pos s.data
    else if s.upSent || !d.windowOpen unit s.tree s.pos then d
    else
      (upd d { s with upSent := true }).collSend unit (teParent e) kUp s.tree s.pos
        (d.collFlit unit s.tree slot kUp s.pos 0 (k.op == 1 || k.op == 2) (lanesBytes s.data))

/-- Every complete slot of a slice's trees at a unit moves on if it may. -/
def Dev.slotSteps (d : Dev) (unit h slot : Nat) : Dev :=
  ((d.unit unit).slots.filter (fun s => s.tree / 16 == h)).foldl (fun d s => d.slotStep unit slot s) d

/-- The same at every engine of the chip. -/
def Dev.chipSteps (d : Dev) (h slot : Nat) : Dev := (List.range 16).foldl (fun d p => d.slotSteps (0x140 + p) h slot) d

/-- A slot is free once its result has been credited everywhere it went and its own UP has been credited (R252); the result of
a reduce-scatter comes down no tree (R257). -/
def Dev.trySlotFree (d : Dev) (unit tree pos : Nat) : Dev :=
  let x := d.unit unit
  match x.slots.find? (fun s => s.tree == tree && s.pos == pos) with
  | some s =>
    let scatter := match d.kindOf tree (posSeq pos) with | some k => k.op == 2 | none => false
    if s.upCred && (s.downSent || (scatter && !teRoot (d.tree unit tree))) && !(x.sent.any (fun e => e.tree == tree && e.pos == pos && e.kind == kDown)) then
      d.freePos unit tree pos
    else d
  | none => d

/-- A collective's slots, tokens and packets leave a unit (R255, R260). -/
def CollUnit.discard (x : CollUnit) (h seq : Nat) : CollUnit :=
  { x with slots := x.slots.filter (fun s => !(s.tree / 16 == h && posSeq s.pos == seq)),
           sent := x.sent.filter (fun s => !(s.tree / 16 == h && posSeq s.pos == seq)) }

/-! ## Participants (R244, R254, R255) -/

def Dev.setOp (d : Dev) (u : Nat) (o : CollOp) : Dev :=
  let x := d.unit u
  d.setUnit u { x with ops := x.ops.map (fun y => if y.ctx = o.ctx ∧ y.numbered = o.numbered ∧ y.seq = o.seq then o else y) }

/-- The ARRIVE of a barrier: the arrival barrier's carries the digest, and a byte that marks it invalid. -/
def Dev.sendArrive (d : Dev) (u : Nat) (o : CollOp) : Dev :=
  let t0 := 16 * d.sliceHead o.ctx
  if teValid (d.tree u t0) then
    let code := if o.bar = 0 ∧ o.ok = false then 3 else 0
    let f := d.collFlit u t0 (o.ctx % 16) kArrive (posOf o.seq o.bar) (if o.bar = 0 then o.d.digest else 0) false (leBytes 1 code)
    d.toEngine u u t0 kArrive (posOf o.seq o.bar) f
  else d

/-- Participants a collective expects at its rank: one, or every active curd (R241). -/
def Dev.collMembers (d : Dev) (o : CollOp) : Nat := if o.d.cores then 64 * (d.partNodes (o.ctx / 16)).length else 1

/-- ARRIVE leaves once every participant of the rank has issued the collective and core 0 has numbered it. -/
def Dev.tryArrive (d : Dev) (u : Nat) (o : CollOp) : Dev :=
  if o.numbered && !o.arrived && !o.failing && d.collMembers o ≤ o.parts.length then
    let o1 := { o with arrived := true, ok := o.parts.all (fun p => p.ok) && o.parts.all (fun p => p.d.digest == o.d.digest) }
    (d.setOp u o1).sendArrive u o1
  else d

/-- Every participant of a collective completes with a code (R255, R261). -/
def Dev.collEnd (d : Dev) (u : Nat) (o : CollOp) (code : Nat) : Dev :=
  let x := d.unit u
  let d1 := d.setUnit u ({ x with ops := x.ops.filter (fun y => !(y.ctx == o.ctx && y.numbered == o.numbered && y.seq == o.seq)) })
  let d2 := o.parts.foldl (fun d p =>
    let key := curdKey p.node p.slot
    let c := d.curd key
    d.setCurd key { c.complete p.k code with colls := c.colls - 1 }) d1
  if code = 0 then d2 else d2.raise (d2.ctxMsg u 0x11 unitRu (o.d.dst % 2 ^ 64) (some o.ctx))

/-- Result chunks this rank writes: at one vat, or at every vat in CORES scope. -/
def Dev.collWrites (d : Dev) (o : CollOp) : Nat :=
  let r := d.collRanks o.ctx
  let vats := if o.d.cores then (d.partNodes (o.ctx / 16)).length else 1
  match o.d.op with
  | 1 | 4 => chunksIn o.d.count * vats
  | 2 => chunksIn o.d.count
  | 3 => r * chunksIn o.d.count
  | _ => 0

/-- Chunks this rank sends up. -/
def Dev.collUps (d : Dev) (o : CollOp) : Nat :=
  let r := d.collRanks o.ctx
  match o.d.op with
  | 1 | 3 => chunksIn o.d.count
  | 2 => r * chunksIn o.d.count
  | 4 => if bits o.d.root 19 0 = (d.ctx o.ctx).rank then chunksIn o.d.count else 0
  | _ => 0

/-- A tree collective is complete at its rank (R255). -/
def Dev.collTreeDone (d : Dev) (o : CollOp) : Bool :=
  let vats := if o.d.cores && o.d.op == 1 then (d.partNodes (o.ctx / 16)).length else 1
  o.release.isSome && o.upOut == 0 && d.collUps o * vats ≤ o.reads && d.collWrites o ≤ o.wrote.length

end Sys2Proof.Machine
end

