-- ==== Sys2Proof/Machine/CollRank.lean ====
section
/-! DEFINITION. Collectives at a rank: acceptance and numbering, chunks read and results written, and the all-to-all
family's rows, phases and barriers (08_collectives.md R244-R246, R250, R254-R259). -/

namespace Sys2Proof.Machine

/-! ## Acceptance (R244, R245, R254) -/

def newOp (ctx seq : Nat) (numbered : Bool) (x : CollDesc) : CollOp :=
  { ctx := ctx, seq := seq, numbered := numbered, d := x, parts := [], ok := true, bar := 0, arrived := false, release := none,
    phase := 0, next := [], reads := 0, item := 0, piece := 0, firsts := [], upOut := 0, wrote := [], wrOut := 0, code := 0,
    failing := false, dirty := false, timedOut := false }

/-- Core 0 numbers a collective: the next sequence of its context. A sequence past 2^32 - 1 is a fault (R264). -/
def Dev.numberOp (d : Dev) (u ctx tmp : Nat) (x : CollDesc) : Dev × Nat :=
  let c := d.ctx ctx
  let seq := c.collSeq
  let ranks := d.collRanks ctx
  let y := d.unit u
  let ops := y.ops.map (fun o => if o.ctx = ctx ∧ o.numbered = false ∧ o.seq = tmp then { o with numbered := true, seq := seq, d := x } else o)
  ((d.setCtx ctx { c with collSeq := seq + 1 }).setUnit u
    { y with ops := ops, infos := smSet (0, 0) y.infos seq (x.shape ranks), kinds := smSet CollKind.init y.kinds seq x.kind,
             known := seq + 1 }, seq)

/-- Collectives of a context that core 0 has yet to number. -/
def CollUnit.unnumbered (x : CollUnit) (ctx : Nat) : Nat := (x.ops.filter (fun o => o.ctx == ctx && !o.numbered)).length

/-- A curd's COLL reaches the reduction unit: it joins its rank's collective, and core 0 gives that its number. A RANK-scope
COLL of another core fails R245; that its ARRIVE, marked invalid, takes the next number is DEDUCED
(notes/assumptions/46.md). A collective whose number would pass 2^32 - 1 is not accepted (R264). -/
def Dev.collAccept (d : Dev) (node slot k : Nat) (bs : List Byte) : Dev :=
  let x := CollDesc.ofBytes bs
  match d.ctxOf node, d.coreOf node slot with
  | some ctx, some core =>
    let u := d.rankUnit ctx
    let y := d.unit u
    let open_ := y.ops.find? (fun o => o.ctx == ctx && o.d.cores && x.cores && !(o.parts.any (fun q => q.core == core)))
    if open_.isNone ∧ 2 ^ 32 ≤ (d.ctx ctx).collSeq + y.unnumbered ctx then d.raise (d.ctxMsg node 0x16 unitRu 0 (some ctx))
    else
      let ok := d.collOk node slot ctx core (d.collRanks ctx) x
      let part : CollPart := { core := core, node := node, slot := slot, k := k, d := x, ok := ok }
      let o0 := match open_ with | some o => o | none => newOp ctx y.tmp false x
      let o1 := { o0 with parts := o0.parts ++ [part] }
      let ops := match open_ with
        | some o => y.ops.map (fun z => if z.ctx = ctx ∧ z.numbered = o.numbered ∧ z.seq = o.seq then o1 else z)
        | none => y.ops ++ [o1]
      let d1 := d.setUnit u { y with ops := ops, tmp := if open_.isNone then y.tmp + 1 else y.tmp }
      if core = 0 ∨ x.cores = false then
        let n := d1.numberOp u ctx o1.seq x
        match (n.1.unit u).ops.find? (fun o => o.ctx == ctx && o.numbered && o.seq == n.2) with
        | some o => (n.1.tryArrive u o).chipSteps (d.sliceHead ctx) (ctx % 16)
        | none => n.1
      else d1.tryArrive u o1
  | _, _ => d

/-! ## Chunks (R249, R250) -/

/-- Elements of chunk c of a segment. -/
def CollDesc.chunkLen (x : CollDesc) (c : Nat) : Nat := min 32 (x.count - 32 * c)

/-- Operations that combine contributions; the others move bytes. -/
def CollDesc.reduces (x : CollDesc) : Bool := x.op == 1 || x.op == 2

/-- Elements as they travel: BF16 widened, FP32 and INT32 as they are (R139); bytes that are only moved keep their bits. -/
def elemsIn (x : CollDesc) : Nat → List Byte → List Word32
  | 0, _ => []
  | n + 1, bs =>
    (if x.dt = 1 then (if x.reduces then widenBf16 (leNat (bs.take 2)) else BitVec.ofNat 32 (leNat (bs.take 2) * 2 ^ 16)) else BitVec.ofNat 32 (leNat (bs.take 4))) :: elemsIn x n (bs.drop x.esz)

/-- Elements as they are written: a BF16 sum rounded once, every other value exact (R139, R250 step 6). -/
def elemsOut (x : CollDesc) (ws : List Word32) : List Byte :=
  ws.flatMap (fun w => leBytes x.esz (reduceOut (if x.reduces then x.redop else 1) x.dt x.inf w))

def padChunk (ws : List Word32) : List Word32 := ws ++ List.replicate (32 - ws.length) 0

/-- A rank's own chunk g as chunk c of its segment, and where it lies in src. -/
def CollDesc.srcOf (x : CollDesc) (rank g : Nat) : Nat × Nat :=
  let per := chunksIn x.count
  match x.op with
  | 2 => (g % per, (g / per * x.count + 32 * (g % per)) * x.esz)
  | 3 => (g - rank * per, 32 * (g - rank * per) * x.esz)
  | _ => (g, 32 * g * x.esz)

/-- Whether a rank sends chunk g up (R256, R257). -/
def Dev.sendsChunk (d : Dev) (o : CollOp) (g : Nat) : Bool :=
  let rank := (d.ctx o.ctx).rank
  let per := chunksIn o.d.count
  match o.d.op with
  | 1 => g < per
  | 2 => g < per * d.collRanks o.ctx
  | 3 => rank * per ≤ g && g < (rank + 1) * per
  | 4 => bits o.d.root 19 0 == rank && g < per
  | _ => false

/-- Whether a vat of the partition reads chunk g: vat c mod k, or in CORES scope every vat of a reduction and the root's
vat of a broadcast (R250). -/
def Dev.vatReads (d : Dev) (o : CollOp) (i g : Nat) : Bool :=
  let k := (d.partNodes (o.ctx / 16)).length
  let c := (o.d.srcOf (d.ctx o.ctx).rank g).1
  d.sendsChunk o g && (if o.d.cores then (o.d.op == 1 || bits o.d.root 31 20 / 64 == i) else c % k == i)

/-- The chunk as one vat contributes it; none if a source cannot be read. -/
def Dev.readChunk (d : Dev) (node : Nat) (o : CollOp) (g : Nat) : Dev × Option (List Word32) :=
  let w := o.d.srcOf (d.ctx o.ctx).rank g
  let n := o.d.chunkLen w.1
  if o.d.cores then
    let here := o.parts.filter (fun p => p.node == node && (o.d.op == 1 || p.core == bits o.d.root 31 20))
    here.foldl (fun acc p =>
      let r := acc.1.localRead node p.slot (p.d.src + w.2) (n * o.d.esz)
      (r.1, match acc.2, r.2 with
            | none, .ok bs => some (some (elemsIn o.d n bs))
            | some (some a), .ok bs => some (some (combineChunk o.d.kind a (elemsIn o.d n bs)))
            | _, _ => some none)) ((d, none) : Dev × Option (Option (List Word32)))
      |> fun r => (r.1, r.2.join)
  else
    let r := d.rankRead o.ctx (gaOff o.d.src + w.2) (n * o.d.esz)
    (r.1, r.2.map (elemsIn o.d n))

def Dev.ruCount (d : Dev) (node : Nat) : Dev := d.setUnit node { d.unit node with chunks := (d.unit node).chunks + 1 }

/-- The tree a chunk travels on (R249). -/
def Dev.chunkTree (d : Dev) (o : CollOp) (g : Nat) : Nat :=
  let h := d.sliceHead o.ctx
  let c := if o.d.op = 2 ∨ o.d.op = 3 then g % max 1 (chunksIn o.d.count) else g
  16 * h + c % teTrees (d.tree (d.rankUnit o.ctx) (16 * h))

/-- The rank's UP of a chunk, from one vat. -/
def Dev.sendUp (d : Dev) (u vat : Nat) (o : CollOp) (g : Nat) (ws : List Word32) : Dev :=
  let t := d.chunkTree o g
  let pos := posOf o.seq g
  let f := d.collFlit vat t (o.ctx % 16) kUp pos 0 (o.d.op == 1 || o.d.op == 2) (lanesBytes (padChunk ws))
  ((d.setOp u { o with upOut := o.upOut + 1 }).ruCount vat).toEngine u vat t kUp pos f

/-- A vat's partial joins the partition's; the last of the k sends the chunk up (R250 step 1). -/
def Dev.partialIn (d : Dev) (u i : Nat) (o : CollOp) (g : Nat) (ws : List Word32) : Dev :=
  let x := d.unit u
  let t := d.chunkTree o g
  let pos := posOf o.seq g
  let k := if o.d.op = 1 then (d.partNodes (o.ctx / 16)).length else 1
  let s0 := match x.slots.find? (fun s => s.tree == t && s.pos == pos) with
    | some s => { s with data := combineChunk o.d.kind s.data ws, got := s.got ++ [64 + i] }
    | none => { CollSlot.fresh t pos k with data := ws, got := [64 + i] }
  let rest := x.slots.filter (fun s => !(s.tree == t && s.pos == pos))
  if s0.got.length < k then (d.setUnit u { x with slots := rest ++ [s0] }).ruCount u
  else ((d.setUnit u { x with slots := rest }).ruCount u).sendUp u u o g s0.data

/-! ## Rows (R258, R259) -/

/-- One write of the all-to-all family: where it goes, its length, and its bytes or where in src they lie. -/
structure CollItem where
  ga : Nat
  len : Nat
  src : Nat
  lit : Option (List Byte)
  deriving DecidableEq, Repr

def rankGa (rank off : Nat) : Nat := rank * 2 ^ 44 + off % 2 ^ 43

/-- The index list's destinations (R259). -/
def Dev.indexList (d : Dev) (o : CollOp) : List Nat :=
  (List.range (o.d.count * o.d.k)).map (fun e => bits (d.rankWord o.ctx (gaOff o.d.index + 4 * e)).2 19 0)

/-- A field of the rank table. -/
def Dev.tab (d : Dev) (o : CollOp) (rank field : Nat) : Nat := d.tabField o.ctx o.d rank field

/-- Items of the phase under way. -/
def Dev.itemCount (d : Dev) (o : CollOp) : Nat :=
  let r := d.collRanks o.ctx
  match o.d.op, o.phase with
  | 5, 3 => r
  | 6, 1 | 6, 2 | 6, 3 => r
  | 7, 1 | 7, 2 => 2 * r
  | 7, 3 => 2 * o.d.count * o.d.k
  | 8, 3 => ((List.range r).map (fun q => d.tab o q 4)).foldl (· + ·) 0
  | _, _ => 0

/-- Rows a combine returns: the source rank and the row's number among its rows. -/
def locate (counts : List Nat) (n : Nat) : Nat × Nat :=
  match counts with
  | [] => (0, n)
  | c :: cs => if n < c then (0, n) else let r := locate cs (n - c); (r.1 + 1, r.2)

/-- The item under way. -/
def Dev.itemAt (d : Dev) (o : CollOp) : CollItem :=
  let r := d.collRanks o.ctx
  let me := (d.ctx o.ctx).rank
  let n := o.item
  let tab := gaOff o.d.table
  let w4 (ga v : Nat) : CollItem := { ga := ga, len := 4, src := 0, lit := some (leBytes 4 v) }
  let row (ga src len : Nat) : CollItem := { ga := ga, len := len, src := src, lit := none }
  match o.d.op, o.phase with
  | 5, _ =>
    let b := o.d.count * o.d.esz
    row (rankGa n (gaOff o.d.dst + me * b)) (gaOff o.d.src + n * b) b
  | 6, 1 => w4 (rankGa n (tab + 16 * me + 4)) (d.tab o n 0)
  | 6, 2 => w4 (rankGa n (tab + 16 * me + 8)) (d.tab o n 0xC)
  | 6, _ =>
    row (rankGa n (gaOff o.d.dst + d.tab o n 8 * o.d.rowlen)) (gaOff o.d.src + smGet 0 o.firsts n * o.d.rowlen)
      (d.tab o n 0 * o.d.rowlen)
  | 7, 1 =>
    let v := ((d.indexList o).filter (fun t => t == n / 2)).length
    if n % 2 = 0 then w4 (rankGa me (tab + 16 * (n / 2))) v else w4 (rankGa (n / 2) (tab + 16 * me + 4)) v
  | 7, 2 =>
    let v := ((List.range (n / 2)).map (fun q => d.tab o q 4)).foldl (· + ·) 0
    if n % 2 = 0 then w4 (rankGa me (tab + 16 * (n / 2) + 0xC)) v else w4 (rankGa (n / 2) (tab + 16 * me + 8)) v
  | 7, _ =>
    let e := n / 2
    let ix := d.indexList o
    let t := ix.getD e 0
    let at_ := d.tab o t 8 + ((ix.take e).filter (fun x => x == t)).length
    if n % 2 = 0 then
      row (rankGa t (gaOff o.d.dst + at_ * o.d.rowlen)) (gaOff o.d.src + e / o.d.k * o.d.rowlen) o.d.rowlen
    else w4 (rankGa t (gaOff o.d.origin + at_ * 4)) e
  | _, _ =>
    let p := locate ((List.range r).map (fun q => d.tab o q 4)) n
    let at_ := d.tab o p.1 0xC + p.2
    row (rankGa p.1 (gaOff o.d.dst + (d.rankWord o.ctx (gaOff o.d.origin + 4 * at_)).2 * o.d.rowlen))
      (gaOff o.d.src + at_ * o.d.rowlen) o.d.rowlen

def collSrc : Nat := 200

/-- The next write of the item under way, as a WR of at most one 128-byte block. -/
def Dev.sendItem (d : Dev) (u node : Nat) (o : CollOp) : Dev :=
  let it := d.itemAt o
  let ga := it.ga + o.piece
  let n := min (it.len - o.piece) (128 - ga % 128)
  let firsts := if o.d.op = 6 ∧ o.phase = 1 then smSet 0 o.firsts o.item (d.tab o o.item 8) else o.firsts
  let done := it.len ≤ o.piece + n
  let o1 := { o with firsts := firsts, item := if done then o.item + 1 else o.item, piece := if done then 0 else o.piece + n }
  if n = 0 then d.setOp u o1
  else
    match (d.ni node).freeTag otherTagBase 64 with
    | none => d
    | some t =>
      let r := match it.lit with
        | some bs => (d, some ((bs.drop o.piece).take n))
        | none => d.rankRead o.ctx (it.src + o.piece) n
      match r.2 with
      | none => r.1.setOp u { o1 with code := if o.code = 0 then 0x09 else o.code }
      | some bs =>
        ((r.1.setOp u { o1 with wrOut := o1.wrOut + 1 }).submit node o.ctx t (.coll o.seq)
          (request tWr false n 0 bs) ga collSrc 0).ruCount node

/-! ## Phases and completion (R255, R258) -/

/-- A WR has been performed at a rank's memory: a collective of the 0x05-0x08 family one of whose dst bytes it wrote is
written (R260). -/
def Dev.collWritten (d : Dev) (ctx off n : Nat) : Dev :=
  let u := d.rankUnit ctx
  let x := d.unit u
  if x.ops.any (fun o => o.ctx == ctx && o.d.rows && o.release == some 0) then
    d.setUnit u { x with ops := x.ops.map (fun o =>
      if o.ctx = ctx ∧ o.d.rows ∧ o.release = some 0 ∧ (d.dstSpans ctx o.d).any (fun s => overlap s.1 s.2 off n) then { o with dirty := true }
      else o) }
  else d

/-- The phase after a barrier: counts, offsets, data, completion. -/
def phaseAfter (op phase : Nat) : Nat :=
  if phase = 0 then (if op = 6 ∨ op = 7 then 1 else 3) else phase + 1

/-- A collective moves on where it can: a finished phase sends its ARRIVE, a finished collective completes. -/
def Dev.collAdvance (d : Dev) (u : Nat) (o : CollOp) : Dev :=
  if o.failing then d
  else
    match o.release with
    | none => d
    | some code =>
      if code ≠ 0 then d.collEnd u o code
      else if o.d.rows then
        if 1 ≤ o.phase ∧ o.phase ≤ 3 ∧ o.arrived = false ∧ d.itemCount o ≤ o.item ∧ o.wrOut = 0 then
          let o1 := { o with bar := o.bar + 1, arrived := true }
          (d.setOp u o1).sendArrive u o1
        else d
      else if d.collTreeDone o then d.collEnd u o o.code
      else d

/-- RELEASE of a barrier reaches a rank's unit. -/
def Dev.rankRelease (d : Dev) (u seq bar code : Nat) (ctx : Nat) : Dev :=
  match (d.unit u).ops.find? (fun o => o.ctx == ctx && o.numbered && o.seq == seq) with
  | none => d
  | some o =>
    if o.bar ≠ bar ∨ o.arrived = false ∨ o.failing then d
    else
      let p := phaseAfter o.d.op o.phase
      let rel := if bar = 0 then some code else o.release
      if o.d.rows ∧ code = 0 then
        if o.phase = 3 then d.collEnd u o o.code
        else
          let o1 := { o with release := rel, phase := p, item := 0, piece := 0, arrived := false }
          (d.setOp u o1).collAdvance u o1
      else
        let o1 := { o with release := rel }
        (d.setOp u o1).collAdvance u o1

/-- A write of the all-to-all family has completed: its collective may move on. -/
def Dev.collMove (d : Dev) (node ctx seq : Nat) : Dev :=
  let u := (d.partNodes (ctx / 16)).headD node
  match (d.unit u).ops.find? (fun o => o.ctx == ctx && o.numbered && o.seq == seq) with
  | some o => d.collAdvance u o
  | none => d

end Sys2Proof.Machine
end

