-- ==== Sys2Proof/Machine/CtxOps.lean ====
section
/-! DEFINITION. A context's work in flight and the completion of its program (02_programming_model.md R65,
03_curd_core.md R78, 14_recovery.md R407). -/

namespace Sys2Proof.Machine

/-- The curds of a partition's active vats: node and physical slot, in core-index order. -/
def Dev.partCurds (d : Dev) (p : Nat) : List (Nat × Nat) :=
  (d.partNodes p).flatMap (fun n => (List.range 64).map (fun i => (n, (d.vat n).phys i)))

/-- A resident context. -/
def Dev.isResident (d : Dev) (ctx : Nat) : Bool := (d.part (ctx / 16)).resident == some (ctx % 16)

/-- Operations of a context in flight at one vat: tags, culture updates, DMA segments begun, loads and stores of
its curds that have left them, uncredited COLL packets, collectives that have begun with their ARRIVE (R407). -/
def Dev.vatInflight (d : Dev) (ctx node : Nat) : Nat :=
  let n := d.ni node
  let u := d.unit node
  (n.live.filter (fun r => r.ctx == ctx)).length + (n.cult.filter (fun x => x.ctx == ctx)).length +
    ((List.range 4).map (fun c => ((d.dmaCh node c).runs.filter (fun r => r.rd != 0 || r.wr != 0 || !r.segs.isEmpty)).length)).foldl
      (· + ·) 0 +
    ((List.range 68).map (fun s => let c := d.curd (curdKey node s); c.loads.length + c.stores.length + c.tq.length)).foldl (· + ·) 0 +
    (u.sent.filter (fun x => x.flit.ctx.toNat % 16 == ctx % 16)).length + (u.ops.filter (fun o => o.ctx == ctx && (o.arrived || o.release.isSome))).length

/-- The in-flight count of a resident context. -/
def Dev.inflight (d : Dev) (ctx : Nat) : Nat :=
  if d.isResident ctx then ((d.partNodes (ctx / 16)).map (d.vatInflight ctx)).foldl (· + ·) 0 else 0

/-- DMA descriptors of a partition, queued or being moved. -/
def Dev.dmaWork (d : Dev) (p : Nat) : Nat :=
  ((d.partNodes p).map (fun n => ((List.range 4).map (fun c =>
    (d.dmaCh n c).queue.length + (d.dmaCh n c).runs.length)).foldl (· + ·) 0)).foldl (· + ·) 0

/-- Collectives of a context that have not ended. -/
def Dev.collWork (d : Dev) (ctx : Nat) : Nat := ((d.unit (d.rankUnit ctx)).ops.filter (fun o => o.ctx == ctx)).length

/-- The port through which a one-hop message leaves. -/
def FmMsg.port : FmMsg → Option Nat
  | .beacon p _ _ _ | .probe p _ | .probeReply p _ | .neighbours p _ _ | .assign p _ _ _ _ _ | .sliceAbort p _ | .mgtr (.port p) _ _ => some p
  | _ => none

/-- A packet frame sent, or received intact (07_links.md R240). -/
def Port.countPkt (x : Port) : Port := { x with pkts := (x.pkts + 1) % 2 ^ 64 }

/-- A one-hop management packet leaves, or has come: a frame of class M whose contents are a message here (07_links.md R213,
notes/assumptions/25.md). -/
def Port.sentM (x : Port) : Port := Port.countPkt { x with cS := smSet 0 x.cS 2 ((smGet 0 x.cS 2 + 1) % 256) }
def Port.gotM (x : Port) : Port :=
  Port.countPkt { x with cR := smSet 0 x.cR 2 ((smGet 0 x.cR 2 + 1) % 256), cG := smSet 0 x.cG 2 ((smGet 0 x.cG 2 + 1) % 256) }

/-- A management message is sent. -/
def Dev.send (d : Dev) (m : FmMsg) : Dev :=
  let d1 := { d with fm := { d.fm with out := d.fm.out ++ [m] } }
  match m.port with
  | some p => if (d.port p).st = 2 then d1.setPort p (d.port p).sentM else d1
  | none => d1

/-- A one-hop management message has come through a port. -/
def Dev.heardAt (d : Dev) (p : Nat) : Dev := if (d.port p).st = 2 then d.setPort p (d.port p).gotM else d

/-- Live contexts of a slice on this chip. -/
def Dev.sliceCtxs (d : Dev) (id : Nat) : List Nat :=
  (d.ctxs.filter (fun e => e.2.live && e.2.sliceId == id)).map (fun e => e.1)

/-- NI_DRAIN.idle of a context at every vat: nothing of it is in flight; a parked or waiting request is not
(09_fabric_manager.md R291, R292). -/
def Dev.slotIdle (d : Dev) (ctx : Nat) : Bool :=
  !d.isResident ctx || (d.partNodes (ctx / 16)).all (fun n => (d.ni n).live.all (fun r => r.ctx != ctx || r.st != .sent))

/-- Collectives of a slice that a drain has made fail, with their written bits (08_collectives.md R260). -/
def Dev.failingColls (d : Dev) (ctxs : List Nat) : List (Nat × Bool) :=
  ctxs.flatMap (fun c => ((d.unit (d.rankUnit c)).ops.filter (fun o => o.ctx == c && o.failing)).map (fun o =>
    (o.seq, o.dirty && o.parts.any (fun p => d.collInplace c p.d))))

/-- Requests of a context parked at its vats. -/
def Dev.parkedOf (d : Dev) (ctx : Nat) : Nat :=
  ((d.partNodes (ctx / 16)).map (fun n => ((d.ni n).live.filter (fun r => r.ctx == ctx && r.st == .parked)).length)).foldl (· + ·) 0

/-- A drained slice all of whose contexts here are idle is reported to the manager, once. -/
def Dev.reportDrained (d : Dev) (id : Nat) : Dev :=
  let cs := d.sliceCtxs id
  if d.fm.draining.any (fun e => e.1 == id) && cs.all d.slotIdle then
    { d with fm := { d.fm with draining := d.fm.draining.filter (fun e => e.1 != id) } }.send
      (.drainReport d.fm.mgr d.fm.epoch id true (d.failingColls cs) ((cs.map d.parkedOf).foldl (· + ·) 0))
  else d

/-- Something of a context has completed. Its program is complete once every active curd is HALTED and nothing of it is in
flight (R78); the event goes out once (12_rennet.md R365 bit 0). A drained slice that is now idle is reported. -/
def Dev.checkDone (d : Dev) (ctx : Nat) : Dev :=
  let c := d.ctx ctx
  if c.prog = .started ∧ d.isResident ctx ∧ (d.partCurds (ctx / 16)).all (fun e => (d.curd (curdKey e.1 e.2)).st == .halted) ∧
      d.inflight ctx = 0 ∧ d.dmaWork (ctx / 16) = 0 ∧ d.collWork ctx = 0 then
    ((d.setCtx ctx { c with prog := .complete }).event 0 (some (ctx / 16))).reportDrained c.sliceId
  else d.reportDrained c.sliceId

/-- The same for the context that a vat runs. -/
def Dev.checkDoneAt (d : Dev) (node : Nat) : Dev :=
  match d.ctxOf node with
  | some x => d.checkDone x
  | none => d

end Sys2Proof.Machine
end

