-- ==== Sys2Proof/Machine/CurdTensor.lean ====
section
/-! DEFINITION. The tensor unit: its queue of two beside the executing instruction, and each instruction's effect
(03_curd_core.md R91-R98, 04_arithmetic.md R133-R137). -/

namespace Sys2Proof.Machine

/-! ## Issue (R91-R97) -/

/-- A tensor instruction enters the queue unless it is full, its operands are in bytes a pending store still writes,
or its buffers are out of place; addresses are 64-byte aligned (R90, R93, R95). -/
def tensorIssue (d : Dev) (node slot : Nat) (c : Curd) (op : TOp) : Issue :=
  let spans := op.reads ++ op.writes
  match spans.find? (fun s => s.1 % 64 != 0) with
  | some s => .fault 0x03 s.1
  | none =>
    match spans.find? (fun s => !d.bufferOk node slot s.1 s.2) with
    | some s => .fault 0x02 s.1
    | none =>
      if 3 ≤ c.tq.length then .hold 3
      else if spans.any (fun s => c.storeHolds s.1 s.2) then .hold 3
      else .retire d { c with tq := c.tq ++ [{ op := op, pc := c.r.pc }] } c.nextPc 1

def runTmma (node slot : Nat) (d : Dev) (c : Curd) (i : CurdInstr) : Option Issue :=
  match i with
  | .tmma t f ga gb clr comp inf =>
    some (tensorIssue d node slot c
      (.tmma t.toNat f.code (c.r.getG ga).toNat (c.r.getG gb).toNat clr comp inf))
  | _ => none

/-- TMMA (R91, R93). -/
def execTmma (node slot : Nat) (s : State) : Answer := s.next (s.dev.curdStep node slot (runTmma node slot))

def runTld (node slot : Nat) (d : Dev) (c : Curd) (i : CurdInstr) : Option Issue :=
  match i with
  | .tld t ga => some (tensorIssue d node slot c (.tld t.toNat (c.r.getG ga).toNat))
  | _ => none

/-- TLD (R95). -/
def execTld (node slot : Nat) (s : State) : Answer := s.next (s.dev.curdStep node slot (runTld node slot))

def runTst (node slot : Nat) (d : Dev) (c : Curd) (i : CurdInstr) : Option Issue :=
  match i with
  | .tst t f ga rnd comp inf clr =>
    some (tensorIssue d node slot c (.tst t.toNat f.code (c.r.getG ga).toNat rnd comp inf clr))
  | _ => none

/-- TST (R95). -/
def execTst (node slot : Nat) (s : State) : Answer := s.next (s.dev.curdStep node slot (runTst node slot))

def runTopClear (node slot : Nat) (d : Dev) (c : Curd) (i : CurdInstr) : Option Issue :=
  match i with
  | .topClear t _ => some (tensorIssue d node slot c (.clear t.toNat))
  | _ => none

/-- TOP clear (R96). -/
def execTopClear (node slot : Nat) (s : State) : Answer := s.next (s.dev.curdStep node slot (runTopClear node slot))

def runTopCopy (node slot : Nat) (d : Dev) (c : Curd) (i : CurdInstr) : Option Issue :=
  match i with
  | .topCopy t u => some (tensorIssue d node slot c (.copy t.toNat u.toNat))
  | _ => none

/-- TOP copy (R96). -/
def execTopCopy (node slot : Nat) (s : State) : Answer := s.next (s.dev.curdStep node slot (runTopCopy node slot))

def runTopAdd (node slot : Nat) (d : Dev) (c : Curd) (i : CurdInstr) : Option Issue :=
  match i with
  | .topAdd t u => some (tensorIssue d node slot c (.add t.toNat u.toNat))
  | _ => none

/-- TOP add (R96). -/
def execTopAdd (node slot : Nat) (s : State) : Answer := s.next (s.dev.curdStep node slot (runTopAdd node slot))

/-! ## Execution (R93-R96) -/

/-- The tile after a TMMA, its low words in compensated mode beside it. -/
def tmmaTile (f : Fmt) (comp inf clr : Bool) (a b : List Byte) (hi lo : List Word32) : List (Word32 × Word32) :=
  (List.range 256).map (fun n =>
    let s : Word32 × Word32 := if clr then (0, 0) else ((hi[n]?).getD 0, (lo[n]?).getD 0)
    if f.isInt then (tmmaIntElem f a b (n / 16) (n % 16) s.1, s.2)
    else tmmaElem f comp inf a b (n / 16) (n % 16) s)

/-- Busy steps and multiply-accumulates counted at the end of an instruction (R94-R96, R117). -/
def Curd.tensorDone (c : Curd) (steps macs : Nat) : Curd := (c.perfAdd 5 steps).perfAdd 6 (macs / 256)

/-- Steps one block of an operand may keep the unit waiting: none from local data memory, at most 40 from the vat store, at
most 120 from an overflow page there; for an external page the spec gives no bound in steps (R75, R94). -/
def Dev.blockWait (d : Dev) (node slot a : Nat) : Option Nat :=
  match regionOf a with
  | .ldm => some 0
  | .vs => some 40
  | _ =>
    match d.pieceAt node slot a 1 with
    | some (.ext _ _) => none
    | _ => some 120

/-- The bound on the stalled steps of a TMMA: the sum over the 128-byte blocks of its operands; none = no bound. -/
def Dev.stallBound (d : Dev) (node slot : Nat) (spans : List (Nat × Nat)) : Option Nat :=
  (spans.flatMap (fun s => (List.range ((s.1 + s.2 - 1) / 128 + 1 - s.1 / 128)).map (fun i => max s.1 ((s.1 / 128 + i) * 128)))).foldl
    (fun acc a =>
      match acc, d.blockWait node slot a with
      | some x, some y => some (x + y)
      | _, _ => none) (some 0)

/-- The stalled steps of a TMMA: a free value within the bound, 0 where the bound is 0 (R94, notes/assumptions/4.md). -/
def Dev.drawStall (d : Dev) (bound : Option Nat) : Nat × Dev :=
  match bound with
  | some 0 => (0, d)
  | some b => (d.draw.1.toNat % (b + 1), d.draw.2)
  | none => (d.draw.1.toNat, d.draw.2)

/-- What the head of the tensor queue does; an uncorrectable operand faults the curd (R120). -/
def tensorRun (d : Dev) (node slot : Nat) (e : TQEntry) : Dev :=
  let key := curdKey node slot
  match e.op with
  | .clear t =>
    let c := d.curd key
    d.setCurd key ({ c with r := c.r.setTile t (List.replicate 256 0) }.tensorDone 1 0)
  | .copy t u =>
    let c := d.curd key
    d.setCurd key ({ c with r := c.r.setTile t (c.r.getTile u) }.tensorDone 16 0)
  | .add t u =>
    let c := d.curd key
    d.setCurd key ({ c with r := c.r.setTile t ((c.r.getTile t).zipWith fadd32 (c.r.getTile u)) }.tensorDone 16 0)
  | .tld t a =>
    let r := d.localRead node slot a 1024
    (match r.2 with
     | .error x => r.1.curdFault node slot 0x05 e.pc x
     | .ok bs =>
       let c := r.1.curd key
       r.1.setCurd key ({ c with r := c.r.setTile t (bytesWords 256 bs) }.tensorDone 16 0))
  | .tst t fmt a rnd comp inf clr =>
    (match Fmt.ofCode fmt with
     | none => d
     | some f =>
       let c := d.curd key
       let lo : List (Option Word32) := if comp then (c.r.getTile (t + 1)).map some else List.replicate 256 none
       let x := tstElems f inf rnd ((c.r.getTile t).zip lo) (c.r.rng0, c.r.rng1)
       let r1 := { c.r with rng0 := x.2.1, rng1 := x.2.2 }
       let r2 := if clr then r1.setTile t (List.replicate 256 0) else r1
       let r3 := if clr && comp then r2.setTile (t + 1) (List.replicate 256 0) else r2
       let d1 := d.setCurd key ({ c with r := r3 }.tensorDone (if comp then 32 else 16) 0)
       (d1.localWrite node slot a (x.1.flatMap (fun v => leBytes f.tstBytes v))).1)
  | .tmma t fmt a b clr comp inf =>
    (match Fmt.ofCode fmt with
     | none => d
     | some f =>
       let ra := d.localRead node slot a f.footprint
       (match ra.2 with
        | .error x => ra.1.curdFault node slot 0x05 e.pc x
        | .ok abs =>
          let rb := ra.1.localRead node slot b f.footprint
          (match rb.2 with
           | .error x => rb.1.curdFault node slot 0x05 e.pc x
           | .ok bbs =>
             let st := rb.1.drawStall (d.stallBound node slot e.op.reads)
             let c := st.2.curd key
             let res := tmmaTile f comp inf clr abs bbs (c.r.getTile t) (if comp then c.r.getTile (t + 1) else [])
             let r1 := c.r.setTile t (res.map (fun x => x.1))
             let r2 := if comp then r1.setTile (t + 1) (res.map (fun x => x.2)) else r1
             st.2.setCurd key ({ c with r := r2 }.tensorDone ((if comp then 2 * f.tmmaSteps else f.tmmaSteps) + st.1) (16 * 16 * 64)))))

/-- TENSOR_EXECUTE: the unit takes the next queued instruction and runs it whole; its overflow accesses wait behind those
offered to the resolver earlier (05_local_memory.md R147). -/
def doTensorExecute (d : Dev) (node slot : Nat) : Dev :=
  let key := curdKey node slot
  let c := d.curd key
  match c.tq with
  | [] => d
  | e :: rest =>
    if (e.op.reads ++ e.op.writes).all (fun x => d.resolverFree node x.1 x.2) then tensorRun (d.setCurd key { c with tq := rest }) node slot e
    else d

end Sys2Proof.Machine
end

