-- ==== Sys2Proof/Machine/Async.lean ====
section
/-! DEFINITION. The curd rows that start work elsewhere: FAR, SIGNAL, FENCE, CULT, DMA, COLL, and HALT
(03_curd_core.md R78, R99-R110, R117, 05_local_memory.md R167, 08_collectives.md R246). -/

namespace Sys2Proof.Machine

/-! ## What they share -/

/-- A far operation, signal or fence: a far tag is taken, the operation counted, and its packet handed to the NI
(R104, R117). With all sixteen tags in use it waits at issue. -/
def farStart (node slot : Nat) (k : KNum) (d : Dev) (c : Curd) (op : Nat → TagOp) (f : Flit) (ga : Nat) : Issue :=
  match (d.ni node).freeTag (d.farTagBase node slot) 16 with
  | none => .hold 3
  | some t =>
    let d1 := d.setCurd (curdKey node slot) ({ c with ord := c.ord + 1 }.issue k.toNat |>.perfAdd 7 1)
    let d2 := d1.submitChecked node (d.vatCtx node) t (op k.toNat) f ga slot c.ord
    .retire d2 (d2.curd (curdKey node slot)) c.nextPc 2

/-- An operation whose operands break a rule of the issuer's: it completes at once with INVALID and sends nothing; its
global address is logged (R101, R106). -/
def farInvalid (node slot : Nat) (k : KNum) (d : Dev) (c : Curd) (ga : Nat) : Issue :=
  let d1 := d.setCurd (curdKey node slot) ((c.issue k.toNat).perfAdd 7 1)
  let d2 := (d1.completeOp node slot k.toNat 0x03).raiseVat node 0x11 unitNi ga
  .retire d2 (d2.curd (curdKey node slot)) c.nextPc 2

/-- The global bytes of an access lie within one 128-byte block (R104). -/
def oneBlock (ga len : Nat) : Bool := ga % 128 + len ≤ 128

/-- A FAR, SIGNAL or FENCE with all sixteen tags in use waits at issue (R104). -/
def farTagged (d : Dev) (node slot : Nat) (go : Issue) : Issue :=
  if ((d.ni node).freeTag (d.farTagBase node slot) 16).isNone then .hold 3 else go

/-- The local side of a FAR: in local data memory, the vat store or the overflow window (R105); pending stores and
queued tensor instructions hold it (R76, R97). -/
def farLocal (d : Dev) (node slot : Nat) (c : Curd) (a n align : Nat) (write : Bool) (go : Issue) : Issue :=
  if a % align ≠ 0 then .fault 0x03 a
  else if !d.bufferOk node slot a n then .fault 0x02 a
  else if c.storeHolds a n || c.tensorHolds a n write || !d.resolverFree node a n then .hold 3
  else go

/-- Bytes captured at issue (R105). An uncorrectable word among them raises cause 0x05 at issue, for a FAR PUT, an atomic, a
DMA or COLL descriptor and a CULT image as for an IWR source: R120 names loads and tensor operands only (DESIGN CHOICE,
notes/assumptions/44.md). -/
def farCapture (node slot a n : Nat) (d : Dev) (go : Dev → List Byte → Issue) : Issue :=
  let r := d.localRead node slot a n
  match r.2 with
  | .error x => .faultIn r.1 0x05 x
  | .ok bs => go r.1 bs

/-! ## FAR (R104, R105) -/

def runFarGet (node slot : Nat) (d : Dev) (c : Curd) (i : CurdInstr) : Option Issue :=
  match i with
  | .far .get ga gb k ord lenM1 =>
    let n := lenM1.toNat + 1
    let a := (c.r.getG ga).toNat
    let b := (c.r.getG gb).toNat
    some (farLocal d node slot c b n 1 true (farTagged d node slot
      (if oneBlock a n then
        farStart node slot k d c (fun k => .farGet slot k b n) (request tRd ord n 0 []) a
       else farInvalid node slot k d c a)))
  | _ => none

/-- FAR get. -/
def execFarGet (node slot : Nat) (s : State) : Answer := s.next (s.dev.curdStep node slot (runFarGet node slot))

def runFarPut (node slot : Nat) (d : Dev) (c : Curd) (i : CurdInstr) : Option Issue :=
  match i with
  | .far .put ga gb k ord lenM1 =>
    let n := lenM1.toNat + 1
    let a := (c.r.getG ga).toNat
    let b := (c.r.getG gb).toNat
    some (farLocal d node slot c b n 1 false (farTagged d node slot
      (if oneBlock a n then
        farCapture node slot b n d (fun d bs =>
          farStart node slot k d (d.curd (curdKey node slot)) (fun k => .farPut slot k) (request tWr ord n 0 bs) a)
       else farInvalid node slot k d c a)))
  | _ => none

/-- FAR put. -/
def execFarPut (node slot : Nat) (s : State) : Answer := s.next (s.dev.curdStep node slot (runFarPut node slot))

def runFarPutv (node slot : Nat) (d : Dev) (c : Curd) (i : CurdInstr) : Option Issue :=
  match i with
  | .far .putv ga gb k ord lenM1 =>
    let n := lenM1.toNat + 1
    let a := (c.r.getG ga).toNat
    some (farTagged d node slot (if oneBlock a n then
        farStart node slot k d c (fun k => .farPut slot k) (request tWr ord n 0 (leBytes n (c.r.getG gb).toNat)) a
      else farInvalid node slot k d c a))
  | _ => none

/-- FAR putv. -/
def execFarPutv (node slot : Nat) (s : State) : Answer := s.next (s.dev.curdStep node slot (runFarPutv node slot))

/-- A far atomic: the 16-byte block at g[gb] gives operand and compare value. -/
def farAtomicIssue (node slot : Nat) (d : Dev) (c : Curd) (kind : FarKind) (ga gb : Reg) (k : KNum) (ord : Bool)
    (lenM1 : BitVec 7) : Issue :=
  let n := lenM1.toNat + 1
  let a := (c.r.getG ga).toNat
  let b := (c.r.getG gb).toNat
  farLocal d node slot c b 16 8 true (farTagged d node slot
    (if oneBlock a n then
      farCapture node slot b 16 d (fun d bs =>
        farStart node slot k d (d.curd (curdKey node slot)) (fun k => .farAmo slot k b n) (request tAmo ord n kind.code bs) a)
     else farInvalid node slot k d c a))

def runFarAtomic (node slot : Nat) (d : Dev) (c : Curd) (i : CurdInstr) : Option Issue :=
  match i with
  | .far kind ga gb k ord lenM1 =>
    if 4 ≤ kind.code ∧ kind.code ≤ 11 then some (farAtomicIssue node slot d c kind ga gb k ord lenM1) else none
  | _ => none

/-- FAR integer atomics. -/
def execFarAtomic (node slot : Nat) (s : State) : Answer := s.next (s.dev.curdStep node slot (runFarAtomic node slot))

def runFarFp32Add (node slot : Nat) (d : Dev) (c : Curd) (i : CurdInstr) : Option Issue :=
  match i with
  | .far kind ga gb k ord lenM1 =>
    if kind.code = 12 then some (farAtomicIssue node slot d c kind ga gb k ord lenM1) else none
  | _ => none

/-- FAR FP32 atomic add. -/
def execFarFp32Add (node slot : Nat) (s : State) : Answer := s.next (s.dev.curdStep node slot (runFarFp32Add node slot))

/-! ## SIGNAL and FENCE (R106, R107) -/

def runSignal (node slot : Nat) (d : Dev) (c : Curd) (i : CurdInstr) : Option Issue :=
  match i with
  | .signal ra ctr k =>
    let a := (c.r.getG ra).toNat
    some (farTagged d node slot (if gaCore a && bits a 22 0 == 0 then
        farStart node slot k d c (fun k => .sig slot k) { request tSig true 0 0 [] with addr := BitVec.ofNat 48 ctr.toNat } a
      else farInvalid node slot k d c a))
  | _ => none

/-- SIGNAL. -/
def execSignal (node slot : Nat) (s : State) : Answer := s.next (s.dev.curdStep node slot (runSignal node slot))

/-- A fence's destination: the low bits other than the core index are ignored. -/
def fenceGa (a : Nat) : Nat := if gaCore a then a - bits a 22 0 else a - bits a 42 0

def runFence (node slot : Nat) (d : Dev) (c : Curd) (i : CurdInstr) : Option Issue :=
  match i with
  | .fence ra k => some (farStart node slot k d c (fun k => .fence slot k) (request tWr true 0 0 []) (fenceGa (c.r.getG ra).toNat))
  | _ => none

/-- FENCE: a zero-byte WR with the order flag. -/
def execFence (node slot : Nat) (s : State) : Answer := s.next (s.dev.curdStep node slot (runFence node slot))

/-! ## CULT (R110) -/

def runCult (node slot : Nat) (d : Dev) (c : Curd) (i : CurdInstr) : Option Issue :=
  match i with
  | .cult ra rb k =>
    let a := (c.r.getG ra).toNat
    let b := (c.r.getG rb).toNat
    some (farLocal d node slot c b 256 64 false
      (farCapture node slot b 256 d (fun d bs =>
        let n := d.ni node
        let ctx := d.vatCtx node
        let x : CultOp := { slot := slot, k := k.toNat, ctx := ctx, record := a, base := 0, entry := bs, phase := 0,
                            got := [], wait := 0, pick := 0, crc := none, arr := (d.ctx ctx).cults, code := 0 }
        let d1 := (d.setNi node { n with cult := n.cult ++ [x] }).setCtx ctx { d.ctx ctx with cults := (d.ctx ctx).cults + 1 }
        .retire d1 ((d1.curd (curdKey node slot)).issue k.toNat) c.nextPc 4)))
  | _ => none

/-- CULT: the update joins the NI's, with its arrival number among the rank's. -/
def execCult (node slot : Nat) (s : State) : Answer := s.next (s.dev.curdStep node slot (runCult node slot))

/-! ## DMA and COLL (R108, R109) -/

/-- Every store of the curd has been performed: posted ones, and those of queued TSTs (05_local_memory.md R167). -/
def Curd.storesDone (c : Curd) : Bool :=
  c.stores.isEmpty && c.tq.all (fun e => match e.op with | .tst _ _ _ _ _ _ _ => false | _ => true)

/-- A 64-byte descriptor, read at issue. -/
def descIssue (d : Dev) (node slot a : Nat) (c : Curd) (go : Dev → List Byte → Issue) : Issue :=
  if a % 64 ≠ 0 then .fault 0x03 a
  else if !d.descOk node slot a 64 then .fault 0x02 a
  else if !c.storesDone then .hold 3
  else farCapture node slot a 64 d go

def runDma (node slot : Nat) (d : Dev) (c : Curd) (i : CurdInstr) : Option Issue :=
  match i with
  | .dma ra k chan =>
    let a := (c.r.getG ra).toNat
    some (descIssue d node slot a c (fun d1 bs =>
      let ch := d1.dmaCh node chan.toNat
      if 64 ≤ ch.queue.length then .hold 3
      else
        let d2 := d1.setDmaCh node chan.toNat { ch with queue := ch.queue ++ [DmaDesc.ofBytes slot k.toNat bs] }
        .retire d2 ((d2.curd (curdKey node slot)).issue k.toNat) c.nextPc 4))
  | _ => none

/-- DMA. -/
def execDma (node slot : Nat) (s : State) : Answer := s.next (s.dev.curdStep node slot (runDma node slot))

def runColl (node slot : Nat) (d : Dev) (c : Curd) (i : CurdInstr) : Option Issue :=
  match i with
  | .coll ra k =>
    let a := (c.r.getG ra).toNat
    some (descIssue d node slot a c (fun d1 bs =>
      if 4 ≤ c.colls then .hold 3
      else
        let c1 := d1.curd (curdKey node slot)
        let d2 := (d1.setCurd (curdKey node slot) { c1.issue k.toNat with colls := c1.colls + 1 }).collAccept node slot k.toNat bs
        .retire d2 (d2.curd (curdKey node slot)) c.nextPc 4))
  | _ => none

/-- COLL. -/
def execColl (node slot : Nat) (s : State) : Answer := s.next (s.dev.curdStep node slot (runColl node slot))

/-! ## What a curd has issued finishes (R78, R79) -/

/-- An instruction of the curd has finished: a curd told to stop may enter STOPPED, and the program may be complete. -/
def Dev.curdDone (d : Dev) (node slot : Nat) : Dev :=
  (d.setCurd (curdKey node slot) (d.curd (curdKey node slot)).stopQuiet).checkDoneAt node

def execLoadResponse (node slot idx : Nat) (s : State) : Answer := s.next ((doLoadResponse s.dev node slot idx).curdDone node slot)

def execPostedStorePerformed (node slot idx : Nat) (s : State) : Answer :=
  s.next ((doPostedStorePerformed s.dev node slot idx).curdDone node slot)

def execTensorExecute (node slot : Nat) (s : State) : Answer := s.next ((doTensorExecute s.dev node slot).curdDone node slot)

/-! ## HALT (R78) -/

def runHalt (d : Dev) (c : Curd) (i : CurdInstr) : Option Issue :=
  match i with
  | .halt => some (.retire d { c with st := .halted } c.nextPc 1)
  | _ => none

/-- HALT: the program of the context may be complete with it. -/
def execHalt (node slot : Nat) (s : State) : Answer := s.next ((s.dev.curdStep node slot runHalt).checkDoneAt node)

end Sys2Proof.Machine
end

