-- ==== Sys2Proof/Machine/Ports.lean ====
section
/-! DEFINITION. Fabric ports: lanes, codewords and frames, credits, buffers and the bubble rule (07_links.md R200-R224,
R237-R240). -/

namespace Sys2Proof.Machine

/-! ## Frames (R209) -/

/-- Whether a flit is sealed for the link: its payload has the nonce extension and tag behind it (R234). -/
def isSealed (f : Flit) : Bool := f.payload.length == carried f + 20

/-- A frame header. -/
def frameHead (ftype fclass plen sent cclass freed : Nat) : List Byte :=
  leBytes 4 (ftype + fclass * 2 ^ 4 + plen * 2 ^ 6 + sent * 2 ^ 10 + cclass * 2 ^ 18 + freed * 2 ^ 20)

/-- A frame with its check. -/
def withCheck (bs : List Byte) : List Byte := bs ++ leBytes 4 (crc32c bs)

def padTo (n : Nat) (bs : List Byte) : List Byte := bs.take n ++ List.replicate (n - bs.length) 0

/-- A packet frame. -/
def packetFrame (f : Flit) (fclass sent cclass freed : Nat) : List Byte :=
  let n := carried f
  let plen := (f.bytes.toNat + 15) / 16
  withCheck (frameHead (if isSealed f then 2 else 1) fclass plen sent cclass freed ++ leBytes 20 (flitHeader f) ++
    leBytes 12 f.path.toNat ++ padTo (16 * plen) (f.payload.take n) ++ (if isSealed f then f.payload.drop n else []))

/-- A frame of eight body bytes: CREDIT or LINK_CTL. -/
def smallFrame (ftype : Nat) (body : List Byte) : List Byte := withCheck (frameHead ftype 0 0 0 3 0 ++ padTo 8 body)

def fType (bs : List Byte) : Nat := bits (leAt bs 0 4) 3 0
def fClass (bs : List Byte) : Nat := bits (leAt bs 0 4) 5 4
def fPlen (bs : List Byte) : Nat := bits (leAt bs 0 4) 9 6
def fSent (bs : List Byte) : Nat := bits (leAt bs 0 4) 17 10
def fCclass (bs : List Byte) : Nat := bits (leAt bs 0 4) 19 18
def fFreed (bs : List Byte) : Nat := bits (leAt bs 0 4) 27 20

/-- The length a header gives its frame; none for a reserved type. -/
def frameLen (bs : List Byte) : Option Nat :=
  match fType bs with
  | 0 => some 4
  | 1 => some (40 + 16 * fPlen bs)
  | 2 => some (60 + 16 * fPlen bs)
  | 3 | 4 => some 16
  | _ => none

/-- The whole frame at the head of a stream. -/
def headFrame (bs : List Byte) : Option (List Byte) :=
  if bs.length < 4 then none
  else
    match frameLen bs with
    | some n => if n ≤ bs.length then some (bs.take n) else none
    | none => none

/-- The frame check of every type but IDLE (R209, R210). -/
def checkOk (fr : List Byte) : Bool := leAt fr (fr.length - 4) 4 == crc32c (fr.take (fr.length - 4))

/-- The whole frames at the head of a stream, without what follows. -/
def wholeFrames : Nat → List Byte → List Byte
  | 0, _ => []
  | fuel + 1, bs =>
    match headFrame bs with
    | some fr => fr ++ wholeFrames fuel (bs.drop fr.length)
    | none => []

/-- A reserved type at the head is discarded with the rest of the stream, until a codeword names a frame's start (R208,
R210). -/
def Port.skipReserved (x : Port) : Port :=
  if 4 ≤ x.rxBytes.length ∧ frameLen x.rxBytes = none then
    { x with rxBytes := [], rxSync := false, frames := hold16 (x.frames + 1) }
  else x

/-! ## Codewords (R207, R208) -/

/-- The sequence of the next codeword in order. -/
def Port.rxNext (x : Port) : Nat := x.rxCount % 128

/-- A lane map that the peer has announced takes effect at its codeword (R205). -/
def Port.rxSwitch (x : Port) : Port :=
  match x.rxMap with
  | some (l, q) => if q = x.rxNext then { x with rxLanes := l, rxW := l.length, rxMap := none } else x
  | none => x

/-- A lane's record with one codeword more. -/
def LaneRec.note (r : LaneRec) (ok : Bool) : LaneRec :=
  { seen := r.seen + 1, bad := (if ok then r.bad else r.bad ++ [r.seen]).filter (fun i => r.seen < i + 65536), lost := 0 }

/-- The logical lane of the next codeword in order, as the physical one (R207). -/
def Port.rxLane (x : Port) : Nat := x.rxLanes.getD (x.rxCount % max 1 x.rxLanes.length) 0

/-- The next codeword in order joins the stream. -/
def Port.absorb (x : Port) (c : Codeword) : Port :=
  let x := { x with lanes := smSet LaneRec.init x.lanes c.lane ((smGet LaneRec.init x.lanes c.lane).note (c.result != CwResult.uncorrectable)) }
  match c.result with
  | .uncorrectable =>
    { x with uncorrectable := hold16 (x.uncorrectable + 1), rxBytes := wholeFrames (x.rxBytes.length + 1) x.rxBytes, rxSync := false }
  | r =>
    let y := if r = .corrected then { x with corrected := hold16 (x.corrected + 1) } else x
    if y.rxSync then { y with rxBytes := y.rxBytes ++ c.stream }.skipReserved
    else if c.first = 0x1FF then y
    else { y with rxBytes := y.rxBytes ++ c.stream.drop c.first, rxSync := true }.skipReserved

/-- The next codeword in order is lost: every frame with a byte in it is (R208), and its lane has missed one. -/
def Port.miss (x : Port) : Port :=
  let r := smGet LaneRec.init x.lanes x.rxLane
  { x with lanes := smSet LaneRec.init x.lanes x.rxLane { r with lost := r.lost + 1 }, rxCount := x.rxCount + 1,
           rxBytes := wholeFrames (x.rxBytes.length + 1) x.rxBytes, rxSync := false }

/-- Codewords in order are absorbed; one that stays missing behind 16 later ones is lost. -/
def Port.reorder : Nat → Port → Port
  | 0, x => x
  | fuel + 1, x0 =>
    let x := x0.rxSwitch
    match x.rxCw.find? (fun c => c.cseq == x.rxNext) with
    | some c => (Port.absorb { x with rxCw := x.rxCw.erase c, rxCount := x.rxCount + 1 } c).reorder fuel
    | none => if 16 < x.rxCw.length then x.miss.reorder fuel else x

/-! ## Codewords that leave (R207, R208) -/

/-- The bytes of an IDLE frame. -/
def idleFrame : List Byte := leBytes 4 (3 * 2 ^ 18)

/-- The transmitter's announced lane map takes effect at its codeword (R205). -/
def Port.txSwitch (x : Port) : Port :=
  match x.newMap with
  | some (l, q) => if q = x.txCw % 128 then { x with txLanes := l, txW := l.length, newMap := none } else x
  | none => x

/-- A frame is put on the link. IDLE frames fill its codeword, which leaves on its lane at once: what an idle link carries is not
shown (DESIGN CHOICE, notes/assumptions/49.md); up to three bytes of the last go on in the next codeword. -/
def Port.put (x0 : Port) (fr : List Byte) : Port :=
  let x := x0.txSwitch
  let s := x.txRest ++ fr
  let all := s ++ (List.replicate ((401 - s.length) / 4) idleFrame).flatten
  { x with
    tx := x.tx ++ [{ lane := x.txLanes.getD (x.txCw % max 1 x.txLanes.length) 0, first := x.txRest.length, cseq := x.txCw % 128,
                     stream := all.take 398 }]
    txRest := all.drop 398, txCw := x.txCw + 1 }

/-! ## Credits (R212, R213) -/

/-- Input slots of a class at the far end: 96, and 16 for M. -/
def classCap (c : Nat) : Nat := if c = 2 then 16 else 96

def Port.credits (x : Port) (c : Nat) : Nat := classCap c - (smGet 0 x.cS c + 256 - smGet 0 x.cF c) % 256

def Port.freedOne (x : Port) (c : Nat) : Port := { x with cG := smSet 0 x.cG c ((smGet 0 x.cG c + 1) % 256) }

/-- A freed count carried by a good frame. -/
def Port.takeFreed (x : Port) (cclass freed : Nat) : Port := if cclass = 3 then x else { x with cF := smSet 0 x.cF cclass freed }

/-- A sent count carried by a good frame: frames lost since the last one free their slots. -/
def Port.takeSent (x : Port) (c sent less : Nat) : Port :=
  { x with cG := smSet 0 x.cG c ((smGet 0 x.cG c + sent + 512 - smGet 0 x.cR c - less) % 256), cR := smSet 0 x.cR c sent }

/-- Packets of a class in the input buffer. -/
def Port.inCount (x : Port) (c : Nat) : Nat := (x.inb.filter (fun e => e.1 == c)).length
def Port.depCount (x : Port) (c : Nat) : Nat := (x.dep.filter (fun e => e.cls == c)).length

/-- The head frame of a type is taken off the stream. -/
def Dev.takeFrame (d : Dev) (p ftype : Nat) : Option (Dev × List Byte) :=
  let x := d.port p
  if x.st ≠ 2 then none
  else
    match headFrame x.rxBytes with
    | none => none
    | some fr =>
      if fType fr = ftype then some (d.setPort p { x with rxBytes := x.rxBytes.drop fr.length }.skipReserved, fr) else none

/-- A frame whose check fails is counted (R210). -/
def Dev.badFrame (d : Dev) (p : Nat) : Dev := d.setPort p { d.port p with frames := hold16 ((d.port p).frames + 1) }

/-- IDLE_FRAME. -/
def doIdleFrame (d : Dev) (p : Nat) : Dev := match d.takeFrame p 0 with | some r => r.1 | none => d

def execIdleFrame (port : Nat) (s : State) : Answer := s.next (doIdleFrame s.dev port)

/-- CREDIT_FRAME: sent counts in bytes 0-2, freed counts in bytes 3-5. -/
def doCreditFrame (d : Dev) (p : Nat) : Dev :=
  match d.takeFrame p 3 with
  | none => d
  | some (d1, fr) =>
    if checkOk fr then
      let b := fr.drop 4
      d1.setPort p (([0, 1, 2].foldl (fun x c => (x.takeSent c (leAt b c 1) 0).takeFreed c (leAt b (3 + c) 1)) (d1.port p)).takeFreed
        (fCclass fr) (fFreed fr))
    else d1.badFrame p

def execCreditFrame (port : Nat) (s : State) : Answer := s.next (doCreditFrame s.dev port)

/-- CREDIT_REPORT_TIMER: a CREDIT frame goes out. -/
def doCreditReportTimer (d : Dev) (p : Nat) : Dev :=
  let x := d.port p
  if x.st ≠ 2 then d
  else
    let body := [0, 1, 2].flatMap (fun c => leBytes 1 (smGet 0 x.cS c)) ++ [0, 1, 2].flatMap (fun c => leBytes 1 (smGet 0 x.cG c))
    d.setPort p (x.put (smallFrame 3 body))

def execCreditReportTimer (port : Nat) (s : State) : Answer := s.next (doCreditReportTimer s.dev port)

/-! ## Packets that arrive (R219) -/

/-- A port is present and UP. -/
def Dev.portUp (d : Dev) (p : Nat) : Bool := (d.port p).st == 2 && !(d.port p).fenced && d.quadOn (edgeQuadrant (0x140 + p))

/-- The vat that takes chunk c of a partition (08_collectives.md R257). -/
def Dev.vatForChunk (d : Dev) (part c : Nat) : Nat :=
  let ns := d.partNodes part
  (ns[c % max 1 ns.length]?).getD 0

/-- A COLL DOWN that a reduce-scatter's root has sent to one rank (08_collectives.md R257): the chunk numbers of the slice's
collective tell its segment, which is the rank, and its number there. -/
def Dev.scatterDst (d : Dev) (f : Flit) : Option Nat :=
  let t := collEntry f
  let seq := d.collSeqOf f
  if f.typ.toNat = tColl ∧ collKind f = kDown ∧ (d.kindOf t seq).map (fun k => k.op) = some 2 then
    let ctx := f.ctx.toNat
    match (d.ctxNi ctx).translate (ctx / 16) (ctx % 16) (collChunk f / max 1 (smGet (0, 0) (d.infosOf t).1 seq).1) with
    | some (_, p, _) => some (d.vatForChunk p (d.segChunk t seq (collChunk f)))
    | none => none
  else none

/-- Where a packet that has reached its chip at a port goes; none = it is discarded. -/
def Dev.arrivalDst (d : Dev) (port : Nat) (f : Flit) : Option Nat :=
  let ctx := f.ctx.toNat
  if f.mgmt then some 0x152
  else if f.typ.toNat = tColl ∨ f.typ.toNat = tCollr then
    match d.scatterDst f with
    | some v => some v
    | none => some (0x140 + teEngine (d.tree (0x140 + port) (collEntry f)))
  else if 8 ≤ f.typ.toNat then some (f.link.toNat % 512)
  else if !((d.ctx ctx).live && (d.ctx ctx).gen == f.gen.toNat) then none
  else if bit f.addr.toNat 43 then
    let ns := d.partNodes (ctx / 16)
    match ns[bits f.addr.toNat 34 23 / 64]? with
    | some n => some n
    | none => ns.head?
  else d.mcOf (ctx / 16) (bits f.addr.toNat 42 0)

/-- A packet is discarded, counted or not, and its input slot freed. -/
def Dev.dropPacket (d : Dev) (p c : Nat) (count : Bool) : Dev :=
  let x := (d.port p).freedOne c
  d.setPort p (if count then { x with packets := hold16 (x.packets + 1) } else x)

/-- The arrival engine's actions on a packet of a class (R219, R224). -/
def Dev.arrivePacket (d : Dev) (p c : Nat) (f0 : Flit) : Dev :=
  let h := f0.hop.toNat
  let e := pathEntry f0.path.toNat h
  let clsOk := if f0.mgmt then c == 2 else c == (if f0.cls then 1 else 0)
  if 24 < h ∨ (h < 24 ∧ e ≠ p ∧ d.portUp e = false) ∨ clsOk = false then d.dropPacket p c true
  else
    let f := { f0 with cmark := f0.cmark || (c != 2 && decide (72 < (d.port p).inCount c + 1)) }
    let put (dst : Nat) : Dev :=
      if dst = 0x140 + p then
        (d.setUnit dst { d.unit dst with inq := (d.unit dst).inq ++ [f] }).dropPacket p c false
      else d.setPort p { d.port p with inb := (d.port p).inb ++ [(c, { f with dst := BitVec.ofNat 9 dst })] }
    if h = 24 ∨ e = p then
      match d.arrivalDst p f with
      | some dst => put dst
      | none => d.dropPacket p c true
    else put (0x140 + e)

/-- The flit a packet frame carries. -/
def frameFlit (fr : List Byte) (enc : Bool) : Flit :=
  let f := flitOfParts (leAt fr 4 20) (leAt fr 24 12) []
  let body := fr.drop 36
  let n := carried f
  { f with payload := body.take n ++ (if enc then (body.drop (16 * fPlen fr)).take 20 else []) }

/-- A packet frame is taken: credits, then the packet (R213, R219). One of no class is discarded as its class matches none. -/
def Dev.takePacket (d : Dev) (p ftype : Nat) : Dev :=
  match d.takeFrame p ftype with
  | none => d
  | some (d1, fr) =>
    if !checkOk fr then d1.badFrame p
    else
      let c := fClass fr
      let x := ((d1.port p).takeFreed (fCclass fr) (fFreed fr)).countPkt
      if c = 3 then d1.setPort p { x with packets := hold16 (x.packets + 1) }
      else (d1.setPort p (x.takeSent c (fSent fr) 1)).arrivePacket p c (frameFlit fr (ftype == 2))

/-- PKT_FRAME. -/
def execPktFrame (port : Nat) (s : State) : Answer := s.next (s.dev.takePacket port 1)
/-- PKT_ENC_FRAME. -/
def execPktEncFrame (port : Nat) (s : State) : Answer := s.next (s.dev.takePacket port 2)

/-! ## Packets that leave (R196, R220-R222) -/

/-- A flit addressed to the engine itself, not to the link beyond it. -/
def forEngine (p : Nat) (f : Flit) : Bool :=
  (f.typ.toNat == tColl || f.typ.toNat == tCollr) && (!f.xchip || pathEntry f.path.toNat f.hop.toNat != p)

/-- A packet is entering unless it arrived on the same ring in the same direction (R220). -/
def isEntering (f : Flit) : Bool :=
  !(0 < f.hop.toNat && pathEntry f.path.toNat (f.hop.toNat - 1) == pathEntry f.path.toNat f.hop.toNat)

/-- The departure engine takes a flit if it holds a slot for it (R196, R212, R220). -/
def Port.admits (x : Port) (f : Flit) : Bool :=
  let c := if f.mgmt then 2 else if f.cls then 1 else 0
  let n := x.depCount c
  let ent := (x.dep.filter (fun e => e.cls == c && e.entering)).length
  if c = 2 then n < 4 else n < 24 && (!isEntering f || ent < 22)

/-- The head of what has arrived on a plane is taken, or returned. -/
def Dev.portAccept (d : Dev) (p : Nat) (pl : Plane) : Dev :=
  let k := 2 * (0x140 + p) + planeNat pl
  let e := d.edge k
  match e.arr with
  | [] => d
  | f :: rest =>
    let d1 := d.setEdge k { e with arr := rest }
    let x := d.port p
    if forEngine p f then d1.setUnit (0x140 + p) { d.unit (0x140 + p) with inq := (d.unit (0x140 + p)).inq ++ [f] }
    else if x.admits f then
      let c := if f.mgmt then 2 else if f.cls then 1 else 0
      let mark := c != 2 && decide (18 < x.depCount c + 1)
      d1.setPort p { x with dep := x.dep ++ [{ cls := c, entering := isEntering f, flit := { f with cmark := f.cmark || mark } }] }
    else d.setEdge k { e with arr := rest, ret := e.ret ++ [f] }

/-- EDGE_PORT_ACCEPT. -/
def doEdgePortAccept (d : Dev) (p : Nat) : Dev := (d.portAccept p .a).portAccept p .b

def execEdgePortAccept (port : Nat) (s : State) : Answer := s.next (doEdgePortAccept s.dev port)

/-- The bubble rule (R221). -/
def Port.maySend (x : Port) (e : DepEnt) : Bool := (if e.entering then 2 else 1) ≤ x.credits e.cls

/-- The packet to send next: class M first, then classes 0 and 1 in turn; within a class the first that may. -/
def Port.pick (x : Port) : Option DepEnt :=
  let first (c : Nat) : Option DepEnt := x.dep.find? (fun e => e.cls == c && x.maySend e)
  match first 2 with
  | some e => some e
  | none => match first x.turn with | some e => some e | none => first (1 - x.turn)

/-- The frame of a packet, its hop counted (R215). -/
def Port.emit (x : Port) (e : DepEnt) : Port :=
  let f := { e.flit with hop := e.flit.hop + 1 }
  let s := (smGet 0 x.cS e.cls + 1) % 256
  Port.countPkt { x.put (packetFrame f e.cls s x.rot (smGet 0 x.cG x.rot)) with
    dep := x.dep.erase e, cS := smSet 0 x.cS e.cls s, rot := (x.rot + 1) % 3, turn := if e.cls = 2 then x.turn else 1 - e.cls }

/-- PORT_SEND: a port that is not UP discards what its buffers hold (R222). -/
def doPortSend (d : Dev) (p : Nat) : Dev :=
  let x := d.port p
  if x.st ≠ 2 then d.setPort p { x with dep := [], packets := hold16 (x.packets + x.dep.length) }
  else
    match x.pick with
    | some e => d.setPort p (x.emit e)
    | none => d

def execPortSend (port : Nat) (s : State) : Answer := s.next (doPortSend s.dev port)

/-! ## Lanes (R204-R206, R237); the body of LINK_CTL: notes/assumptions/14.md -/

def portEnable (x : Port) : Bool := bit x.ctl 0
def portSpare (x : Port) : Bool := bit x.ctl 1
/-- The narrowest width kept UP. -/
def portMin (x : Port) : Nat := bits x.ctl 3 2 + 2
/-- Uncorrectable codewords among a lane's last 65,536 that fail it. -/
def portThresh (x : Port) : Nat := bits x.ctl 15 4

/-- Physical lanes that may carry traffic when those of `bad` have failed: L4 only if the spare is used. -/
def okLanes (x : Port) (bad : Nat) : List Nat := (List.range 5).filter (fun i => !bit bad i && (i < 4 || portSpare x))

/-- The first four of them. -/
def lanesFor (x : Port) (bad : Nat) : List Nat := (okLanes x bad).take 4

/-- The map that follows one in force (R204-R206): a ×4 map keeps its lanes, the spare taking the logical number of one that has
failed; else the first four working lanes carry traffic in ascending order. -/
def nextMap (x : Port) (bad : Nat) : List Nat :=
  let ok := okLanes x bad
  let keep := x.txLanes.filter (fun l => ok.contains l)
  match x.txLanes.length, keep.length, ok.find? (fun l => !x.txLanes.contains l) with
  | 4, 4, _ => x.txLanes
  | 4, 3, some s => x.txLanes.map (fun l => if ok.contains l then l else s)
  | _, _, _ => ok.take 4

def laneMask (l : List Nat) : Nat := (l.map (fun i => 2 ^ i)).foldl (· + ·) 0

/-- A port goes DOWN: it sends nothing more, and reports (R205, R222). One in training has nothing to report. -/
def Dev.portFails (d : Dev) (p : Nat) : Dev :=
  let x := d.port p
  if x.st = 0 ∨ x.st = 3 then d
  else if x.st = 1 then d.setPort p { x with st := 0 }
  else
    (d.setPort p { x with st := 0, txW := 0, rxW := 0, txLanes := [], rxLanes := [], newMap := none, rxMap := none, dep := [],
                          packets := hold16 (x.packets + x.dep.length), rxBytes := [], rxCw := [], rxSync := true }).raise
      (plainMsg (0x140 + p) 0x21 0)

/-- The new map goes out in a LINK_CTL frame on every lane of the old one, and takes effect at the codeword after them (R205). -/
def Port.announce (x : Port) (l : List Nat) : Port :=
  let n := max 1 x.txLanes.length
  let q := (x.txCw + n) % 128
  let fr := smallFrame 4 (leBytes 1 1 ++ leBytes 1 l.length ++ leBytes 1 q ++ l.flatMap (fun i => leBytes 1 i))
  (List.range n).foldl (fun y _ => y.put fr) { x with newMap := some (l, q) }

/-- The transmitter reacts to a set of failed lanes: it announces a new map, or the port goes DOWN. -/
def Dev.relane (d : Dev) (p bad : Nat) : Dev :=
  let x := d.port p
  let l := nextMap x bad
  if l.length < 2 ∨ l.length < portMin x then (d.setPort p { x with badTx := bad }).portFails p
  else if l = x.txLanes then d.setPort p { x with badTx := bad }
  else d.setPort p (Port.announce { x with badTx := bad } l)

/-- The peer has announced a lane map: it takes effect at its codeword, at once if that has been taken. -/
def Port.hear (x : Port) (l : List Nat) (q : Nat) : Port :=
  if (x.rxNext + 128 - q) % 128 < 64 then { x with rxLanes := l, rxW := l.length, rxMap := none } else { x with rxMap := some (l, q) }

/-- LINK_CTL_FRAME: a report of failed lanes, or an announced lane map. -/
def doLinkCtlFrame (d : Dev) (p : Nat) : Dev :=
  match d.takeFrame p 4 with
  | none => d
  | some (d1, fr) =>
    if !checkOk fr then d1.badFrame p
    else
      let d2 := d1.setPort p ((d1.port p).takeFreed (fCclass fr) (fFreed fr))
      if leAt fr 4 1 = 0 then d2.relane p ((d2.port p).badTx ||| leAt fr 5 1 % 32)
      else d2.setPort p ((d2.port p).hear ((List.range (min 4 (leAt fr 5 1))).map (fun i => leAt fr (7 + i) 1)) (leAt fr 6 1 % 128))

def execLinkCtlFrame (port : Nat) (s : State) : Answer := s.next (doLinkCtlFrame s.dev port)

/-- The receiver judges a lane failed: it reports it to the transmitter and to the fault collector. -/
def Dev.laneFails (d : Dev) (p lane : Nat) : Dev :=
  let x := d.port p
  if x.st ≠ 2 ∨ bit x.badRx lane then d
  else
    let bad := x.badRx + 2 ^ lane
    let d1 := (d.setPort p (Port.put { x with badRx := bad, lanes := smSet LaneRec.init x.lanes lane LaneRec.init }
      (smallFrame 4 (leBytes 1 0 ++ leBytes 1 (2 ^ lane))))).raise (plainMsg (0x140 + p) 0x20 lane)
    let left := (lanesFor x bad).length
    if left < 2 ∨ left < portMin x then d1.portFails p else d1

/-- LANE_FAILED: the lane decoder has lost lock. -/
def execLaneFailed (port lane : Nat) (s : State) : Answer := s.next (s.dev.laneFails port lane)

/-- A lane's record fails it: 64 codewords lost in a row, or more uncorrectable ones than PORT_CTL allows (R205). -/
def Port.laneBad (x : Port) (l : Nat) : Bool :=
  let r := smGet LaneRec.init x.lanes l
  64 ≤ r.lost || portThresh x < r.bad.length

def Dev.judgeLanes (d : Dev) (p : Nat) : Dev := ((d.port p).rxLanes.filter (d.port p).laneBad).foldl (fun d l => d.laneFails p l) d

/-- CODEWORD. -/
def doCodeword (d : Dev) (p : Nat) (c : Codeword) : Dev :=
  let x := d.port p
  if x.st ≠ 2 ∨ 64 ≤ (c.cseq + 128 - x.rxNext) % 128 then d
  else (d.setPort p (Port.reorder 200 { x with rxCw := x.rxCw ++ [c] })).judgeLanes p

def execCodeword (port : Nat) (cw : Codeword) (s : State) : Answer := s.next (doCodeword s.dev port cw)

/-- LANE_MAP_SWITCH: the transmitter switches to the map it announced. -/
def doLaneMapSwitch (d : Dev) (p : Nat) : Dev :=
  let x := d.port p
  match x.newMap with
  | some (l, _) => d.setPort p { x with txLanes := l, txW := l.length, newMap := none }
  | none => d

def execLaneMapSwitch (port : Nat) (s : State) : Answer := s.next (doLaneMapSwitch s.dev port)

/-- PORT_DOWN. -/
def execPortDown (port : Nat) (s : State) : Answer := s.next (s.dev.portFails port)

/-- LANE_RETRAIN: the lane works again in both directions, as spare or as a traffic lane of the next map. -/
def doLaneRetrain (d : Dev) (p lane : Nat) : Dev :=
  let x := d.port p
  if x.st ≠ 2 then d
  else
    let clear (m : Nat) : Nat := if bit m lane then m - 2 ^ lane else m
    (d.setPort p { x with badRx := clear x.badRx }).relane p (clear x.badTx)

def execLaneRetrain (port lane : Nat) (s : State) : Answer := s.next (doLaneRetrain s.dev port lane)

/-- PORT_CTL takes effect (R237): a port that is no longer enabled goes DOWN, one that is enabled trains; an UP port takes the spare,
the width and the threshold as they now are. -/
def Dev.portCtlTakes (d : Dev) (p old : Nat) : Dev :=
  let x := d.port p
  if !portEnable x then d.portFails p
  else if x.st = 0 ∧ bit old 0 = false ∧ !x.fenced then d.setPort p { x with st := 1 }
  else if x.st ≠ 2 then d
  else if (lanesFor x x.badRx).length < portMin x then d.portFails p
  else (d.relane p x.badTx).judgeLanes p

/-- A port comes UP with empty buffers and counts of zero (R206), at the widths its lanes allow. -/
def Dev.bringUp (d : Dev) (p txLanes rxLanes : Nat) : Dev :=
  let x := d.port p
  let bt := 31 - txLanes % 32
  let br := 31 - rxLanes % 32
  let t := lanesFor x bt
  let r := lanesFor x br
  if 1 < x.st ∨ x.fenced ∨ !d.quadOn (edgeQuadrant (0x140 + p)) ∨ !portEnable x ∨ t.length < portMin x ∨ r.length < portMin x then d
  else
    d.setPort p { x with st := 2, txLanes := t, rxLanes := r, txW := t.length, rxW := r.length, badTx := bt, badRx := br, newMap := none,
                         rxMap := none, lanes := [], inb := [], dep := [], cS := [], cF := [], cR := [], cG := [], rot := 0,
                         turn := 0, rxCw := [], rxCount := 0, rxBytes := [], rxSync := true, tx := [], txRest := [], txCw := 0 }

/-- The manager of a placed module hears of a port's change (09_fabric_manager.md R290). -/
def Dev.tellPort (d : Dev) (p st width : Nat) : Dev := if d.fm.placed then d.send (.portEvent d.fm.mgr d.fm.epoch p st width) else d

/-- PORT_UP. -/
def doPortUp (d : Dev) (p txLanes rxLanes : Nat) : Dev :=
  let d1 := d.bringUp p txLanes rxLanes
  if (d.port p).st = 2 ∨ (d1.port p).st ≠ 2 then d1 else d1.tellPort p 2 (min (d1.port p).txW (d1.port p).rxW)

def execPortUp (port txLanes rxLanes : Nat) (s : State) : Answer := s.next (doPortUp s.dev port txLanes rxLanes)

end Sys2Proof.Machine
end

