-- ==== Sys2Proof/Machine/CfgOps.lean ====
section
/-! DEFINITION. Configuration items: their values in force, their reset values, the checks of a commit, and putting a
value in force (00_scope.md R10, R11, 12_rennet.md R363, R364, 05_local_memory.md R157, 07_links.md R227, R237,
08_collectives.md R248, R253, 09_fabric_manager.md R298, 10_memory.md R326, 14_recovery.md R433, 15_faults_cave.md R443,
R450). -/

namespace Sys2Proof.Machine

/-- Sources that have a severity register (15_faults_cave.md R438). -/
def sourceOk (s : Nat) : Bool :=
  s < 0x152 || s == 0x152 || (0x154 ≤ s && s < 0x158) || (0x200 ≤ s && s < 0x240) || (0x400 ≤ s && s < 0x80C) || s == 0x810

/-- An item and index of the table (R363). -/
def cfgIndexOk (item idx : Nat) : Bool :=
  match item with
  | 1 => idx < 288 || idx == 0xFFFF
  | 4 | 5 => idx < 16
  | 2 | 3 | 6 | 7 | 8 | 9 | 11 => idx == 0
  | 10 => sourceOk idx || idx == 0xFFFF
  | _ => false

/-- Bits of an item that are not reserved. -/
def cfgBits (item : Nat) : Nat :=
  match item with
  | 1 => 8
  | 2 => 18
  | 3 => 32
  | 4 => 3
  | 5 => 16
  | 6 => 29
  | 7 => 34
  | 8 => 15
  | 9 => 29
  | 10 => 20
  | 11 => 15
  | _ => 0

def cfgEntryOk (e : CfgEntry) : Bool := cfgIndexOk e.item e.index && decide (e.value < 2 ^ cfgBits e.item)

/-- The value of an item when the store holds none. -/
def cfgReset (item : Nat) : Nat :=
  match item with
  | 1 => 0x55
  | 2 => xlinkReset
  | 3 => collTmoReset
  | 4 => 5
  | 5 => 0x403
  | 6 => memCfgReset
  | 7 => fmCfgReset
  | 9 => rrcCfgReset
  | 11 => fltCfgReset
  | _ => 0

/-- An item whose fields keep the value in force through a chip reset (R10). -/
def cfgKept (item : Nat) : Bool := 7 ≤ item

/-- The value in force. Index 0xFFFF is a write-all index; a read of it, for which the spec gives no value, returns vat 0's
value of item 1 and 0 of item 10 (DESIGN CHOICE, notes/assumptions/44.md). -/
def Dev.cfgValue (d : Dev) (item idx : Nat) : Nat :=
  match item with
  | 1 => (d.vat (if idx = 0xFFFF then 0 else idx)).dmaStage
  | 2 => d.xlink
  | 3 => d.collTmo
  | 4 => (d.port idx).bufSize
  | 5 => (d.port idx).ctl
  | 6 => d.ext.cfg
  | 7 => d.fm.cfg
  | 8 => d.fm.shape
  | 9 => d.rrc.cfg
  | 10 => smGet 0 d.flt.sev idx
  | 11 => d.flt.cfg
  | _ => 0

/-- Every source of R438. -/
def allSources : List Nat := (List.range 0x811).filter sourceOk

/-- A value is put in force. -/
def Dev.cfgApply (d : Dev) (e : CfgEntry) : Dev :=
  match e.item with
  | 1 =>
    if e.index = 0xFFFF then (List.range 288).foldl (fun d n => d.setVat n { d.vat n with dmaStage := e.value }) d
    else d.setVat e.index { d.vat e.index with dmaStage := e.value }
  | 2 => { d with xlink := e.value }
  | 3 => { d with collTmo := e.value }
  | 4 => d.setPort e.index { d.port e.index with bufSize := e.value }
  | 5 => d.setPort e.index { d.port e.index with ctl := e.value }
  | 6 => { d with ext := { d.ext with cfg := e.value } }
  | 7 => { d with fm := { d.fm with cfg := e.value } }
  | 8 => { d with fm := { d.fm with shape := e.value } }
  | 9 => { d with rrc := { d.rrc with cfg := e.value } }
  | 10 =>
    if e.index = 0xFFFF then { d with flt := { d.flt with sev := allSources.foldl (fun m s => smSet 0 m s e.value) d.flt.sev } }
    else { d with flt := { d.flt with sev := smSet 0 d.flt.sev e.index e.value } }
  | 11 => { d with flt := { d.flt with cfg := e.value } }
  | _ => d

/-- A value committed is put in force, and acted on where it is a port's (07_links.md R237). -/
def Dev.cfgTakes (d : Dev) (e : CfgEntry) : Dev :=
  let d1 := d.cfgApply e
  if e.item = 5 then d1.portCtlTakes e.index (d.port e.index).ctl else d1

/-- A channel's share in units of 16 KiB. -/
def stageShare (v c : Nat) : Nat := 2 ^ bits v (2 * c + 1) (2 * c)

/-- Slots that trees reserve at an engine (08_collectives.md R248). -/
def Dev.windowSum (d : Dev) (p : Nat) : Nat :=
  ((List.range 1024).map (fun t => let e := d.tree (0x140 + p) t; if teValid e ∧ teEngine e = p then teWindow e else 0)).foldl (· + ·) 0

/-- A value whose fields are out of range, or disagree with one another or with what is in force. -/
def Dev.cfgConflict (d : Dev) (e : CfgEntry) : Bool :=
  let v := e.value
  match e.item with
  | 1 => (List.range 4).any (fun c => bits v (2 * c + 1) (2 * c) == 3) || 8 < ((List.range 4).map (stageShare v)).foldl (· + ·) 0
  | 2 => !(100 ≤ bits v 15 0 && bits v 15 0 ≤ 10000)
  | 3 => !(20 ≤ bits v 15 0 && bits v 15 0 ≤ 5000 && 1 ≤ bits v 31 18 && bits v 31 18 ≤ 3600)
  | 4 => 5 < v || 64 * 2 ^ v < d.windowSum e.index
  | 5 => bits v 3 2 == 3
  | 6 => !(1 ≤ bits v 7 0 && bits v 7 0 ≤ 168 && 25 ≤ bits v 15 8 && bits v 15 8 ≤ 90 && 4 ≤ bits v 23 16 && 1 ≤ bits v 27 24)
  | 7 => !(500 ≤ bits v 33 18 && bits v 33 18 ≤ 10000)
  | 9 => !(1 ≤ bits v 9 0 && bits v 9 0 ≤ 1000 && 2 ≤ bits v 15 10 && bits v 15 10 ≤ 32 && 1 ≤ bits v 23 16 && bits v 23 16 ≤ 168 &&
          1 ≤ bits v 27 24)
  | 10 => bits v 1 0 == 3 || bits v 4 2 == 7 || bits v 7 5 == 4 || bits v 18 16 == 7
  | 11 => !(1 ≤ bits v 11 0 && bits v 11 0 ≤ 3600 && 2 ≤ bits v 14 12 && bits v 14 12 ≤ 6)
  | _ => false

/-- An entry takes the place of any of the same item and index, as the latest. -/
def cfgPut (l : List CfgEntry) (e : CfgEntry) : List CfgEntry := l.filter (fun x => !(x.item == e.item && x.index == e.index)) ++ [e]

/-- The entry of a set that decides an item's index: the latest that names it, or every index. -/
def cfgFind (l : List CfgEntry) (item idx : Nat) : Option CfgEntry :=
  (l.filter (fun x => x.item == item && (x.index == idx || x.index == 0xFFFF))).getLast?

/-- A configuration copy is written: the one that did not win takes the winner's sequence and one more
(16_bringup.md R483, R484). -/
def CfgStore.rewrite (x : CfgStore) : CfgStore :=
  let bump (s : Nat) : Nat := if s + 1 = 0xFFFFFFFF then 0 else (s + 1) % 2 ^ 32
  let higher (b a : Nat) : Bool := let k := (b + 2 ^ 32 - a) % 2 ^ 32; 1 ≤ k && k ≤ 2 ^ 31 - 1
  let x := { x with old := { persisted := x.persisted, capW := x.capW, training := x.training, linkTraining := x.linkTraining } }
  if x.okB && (!x.okA || higher x.seqB x.seqA) then { x with seqA := bump x.seqB, okA := true }
  else if x.okA then { x with seqB := bump x.seqA, okB := true }
  else { x with seqA := 1, okA := true }

/-- At a chip reset an item that is not kept takes its persisted value, or the value of its Reset column (R10). -/
def Dev.cfgAtReset (d : Dev) : Dev :=
  let base := (List.range 288).foldl (fun d n => d.setVat n { d.vat n with dmaStage := cfgReset 1 }) d
  let base := (List.range 16).foldl (fun d p => d.setPort p { d.port p with bufSize := cfgReset 4, ctl := cfgReset 5 }) base
  let base := { base with xlink := cfgReset 2, collTmo := cfgReset 3, ext := { base.ext with cfg := cfgReset 6 } }
  d.cfg.persisted.foldl (fun d e => if cfgKept e.item then d else d.cfgApply e) base

/-- At a power cycle every item takes its persisted value or the value of an empty store. -/
def Dev.cfgAtPowerOn (d : Dev) : Dev :=
  let b := d.cfgAtReset
  let b := { b with fm := { b.fm with cfg := cfgReset 7, shape := cfgReset 8 }, rrc := { b.rrc with cfg := cfgReset 9 },
                    flt := { b.flt with sev := [], cfg := cfgReset 11 } }
  d.cfg.persisted.foldl (fun d e => if cfgKept e.item then d.cfgApply e else d) b

end Sys2Proof.Machine
end

