-- ==== Sys2Proof/Machine/CaveOps.lean ====
section
/-! DEFINITION. The cave: records, their bodies, absorption and the buffer's limits (15_faults_cave.md R451-R458). -/

namespace Sys2Proof.Machine

/-! ## Messages as 64-bit words (R437, R439) -/

/-- The address field of a message: a vat's unit and low 32 bits, or 40 bits of the address. -/
def FltMsg.field (m : FltMsg) : Nat := if m.src < 0x120 then m.unit * 2 ^ 32 + m.addr % 2 ^ 32 else m.addr % 2 ^ 40

def FltMsg.word (m : FltMsg) : Nat := m.src + m.kind * 2 ^ 12 + kindClass m.kind * 2 ^ 20 + m.field * 2 ^ 24

/-- A source or context inside a rind: its addresses are hidden when captured (R439, 13_security.md R396). -/
def Dev.inRind (d : Dev) (m : FltMsg) : Bool :=
  (match m.ctx with
   | some x => (d.part (x / 16)).conf
   | none => false) ||
  (if m.src < 0x120 then (match d.partOf m.src with | some p => (d.part p).conf | none => false)
   else if 0x200 ≤ m.src ∧ m.src < 0x240 then (d.part (m.src - 0x200)).conf
   else if 0x400 ≤ m.src ∧ m.src < 0x800 then (d.part ((m.src - 0x400) / 16)).conf
   else false)

/-! ## Records (R451-R454) -/

/-- A record that would go beyond 4,096 unflushed ones replaces the oldest FAULT record of severity 0 or 1, or is
discarded; the ring of a failed store keeps the newest 4,096 (R454, R457). -/
def Cave.push (c : Cave) (r : CaveRec) : Cave :=
  if c.buf.length < 4096 then { c with buf := c.buf ++ [r], next := c.next + 1 }
  else if c.store = 2 then { c with buf := c.buf.drop 1 ++ [r], next := c.next + 1 }
  else
    match c.buf.find? (fun x => x.typ == 0 && x.sev ≤ 1) with
    | some x => { c with buf := c.buf.erase x ++ [r], next := c.next + 1, lost := hold16 (c.lost + 1) }
    | none => { c with lost := hold16 (c.lost + 1) }

/-- A record of a type is written; 1,024 unflushed records trigger a flush. -/
def Dev.caveWrite (d : Dev) (typ sev flags : Nat) (body : List Byte) : Dev :=
  let c := d.cave
  let r : CaveRec := { seq := c.next, opSec := d.opSec, cycles := c.cycles, typ := typ, repeats := 0, sev := sev,
                       flags := flags + (if c.store = 2 then 4 else 0), body := body }
  let c1 := c.push r
  { d with cave := { c1 with due := c1.due || decide (1024 ≤ c1.buf.length) } }

/-- The body of a FAULT or ACTION record. -/
def faultBody (m : FltMsg) (hidden : Bool) (timer : Nat) (entry : Option Nat) (level lastSec : Nat) : List Byte :=
  leBytes 8 m.word ++ leBytes 8 timer ++ leBytes 8 (if hidden then 0 else m.addr) ++ leBytes 2 (m.ctx.getD 0xFFFF) ++
    leBytes 2 m.gen ++ leBytes 4 m.sliceId ++ leBytes 2 (entry.getD 0xFFFF) ++ leBytes 1 level ++ leBytes 1 0 ++ leBytes 4 lastSec

/-- Whether a FAULT is absorbed into the last record: unflushed, of the same message, context, generation and severity
(R453). -/
def absorbs (r : CaveRec) (m : FltMsg) (sev : Nat) : Bool :=
  r.typ == 0 && r.sev == sev && r.repeats < 0xFFFF && leAt r.body 0 8 == m.word && leAt r.body 24 2 == m.ctx.getD 0xFFFF &&
    leAt r.body 26 2 == m.gen

/-- A FAULT record, new or absorbed; one of severity 2 or higher triggers a flush. -/
def Dev.caveFault (d : Dev) (m : FltMsg) (hidden : Bool) (sev : Nat) (esc : Bool) (entry : Option Nat) : Dev :=
  let c := d.cave
  let flags := boolNat esc + 2 * boolNat hidden
  let d1 := match c.buf.getLast? with
    | some r =>
      if absorbs r m sev then
        { d with cave := { c with buf := c.buf.dropLast ++
          [{ r with repeats := r.repeats + 1, body := r.body.take 36 ++ leBytes 4 d.opSec }] } }
      else d.caveWrite 0 sev flags (faultBody m hidden d.timer.toNat entry 7 0)
    | none => d.caveWrite 0 sev flags (faultBody m hidden d.timer.toNat entry 7 0)
  if 2 ≤ sev then { d1 with cave := { d1.cave with due := true } } else d1

/-- An ACTION record: a reset, fence or fail-over started for a message. -/
def Dev.caveAction (d : Dev) (m : FltMsg) (hidden : Bool) (sev : Nat) (entry : Option Nat) (level : Nat) : Dev :=
  d.caveWrite 1 sev (2 * boolNat hidden) (faultBody m hidden d.timer.toNat entry level 0)

def padBody (bs : List Byte) : List Byte := (bs ++ List.replicate 40 0).take 40

/-- POWER: cause 0 power-fail, 1 cap change, 2 thermal trip. -/
def Dev.cavePower (d : Dev) (cause : Nat) : Dev :=
  d.caveWrite 5 0 0 (padBody (leBytes 8 cause ++ leBytes 8 d.timer.toNat))

/-- STORE: event 0 pair A in use, 1 switched to pair B, 2 RAM only; records copied. -/
def Dev.caveStore (d : Dev) (event copied : Nat) : Dev := d.caveWrite 6 0 0 (padBody (leBytes 4 event ++ leBytes 4 copied))

/-- CLEAR: entries cleared, recoveries, cause. -/
def Dev.caveClear (d : Dev) (n recov cause : Nat) : Dev :=
  d.caveWrite 3 0 0 (padBody (leBytes 2 n ++ leBytes 4 recov ++ leBytes 1 cause))

/-- CONFIG: the stage count committed, and whether it was persisted. -/
def Dev.caveConfig (d : Dev) (count : Nat) (persist : Bool) : Dev :=
  d.caveWrite 7 0 0 (padBody (leBytes 4 count ++ leBytes 1 (boolNat persist)))

/-- The 64 bytes of a record, its sequence folded into the crc (R451, R460). -/
def CaveRec.bytes (r : CaveRec) : List Byte :=
  let head := leBytes 4 r.seq ++ leBytes 4 r.opSec ++ leBytes 3 r.cycles ++ leBytes 1 r.typ ++ leBytes 2 r.repeats ++
    leBytes 1 r.sev ++ leBytes 1 r.flags ++ r.body
  head ++ leBytes 4 (crcValue 1 r.seq head) ++ leBytes 4 r.seq

end Sys2Proof.Machine
end

