-- ==== Sys2Proof/Machine/MbxOps.lean ====
section
/-! DEFINITION. Messages of the mailboxes as commands: which message a row carries out, its framing checks, responses
and host buffers (11_host_mailboxes.md R345-R357, 12_rennet.md R358-R361, R378). -/

namespace Sys2Proof.Machine

/-! ## Return codes (R357) -/

def rOk : Nat := 0x00
def rBusy : Nat := 0x02
def rInvalid : Nat := 0x03
def rDenied : Nat := 0x04
def rNotFound : Nat := 0x05
def rNoResource : Nat := 0x06
def rConflict : Nat := 0x07
def rTimeout : Nat := 0x08
def rFailed : Nat := 0x09
def rDegraded : Nat := 0x0B

/-- The mailbox key of a secure channel. -/
def secKey (chan : Nat) : Nat := 8 + chan

/-! ## Responses (R346, R351, R360) -/

/-- MBX_RSP for a message: sequence, code, flags, payload. -/
def rspBytes (seq code flags : Nat) (payload : List Byte) : List Byte :=
  leBytes 2 seq ++ leBytes 1 code ++ leBytes 1 flags ++ leBytes 2 payload.length ++ leBytes 2 0 ++ payload

/-- The response is written, the channel is DONE, bit 0 of the doorbell rises; the response to a message whose channel
has been cleared since is discarded (R351, R353). -/
def Dev.respondFlag (d : Dev) (f key code flags : Nat) (payload : List Byte) : Dev :=
  let m := d.mbx f key
  if m.st = 2 then
    (d.setMbx f key { m with rsp := rspBytes m.seq code flags payload, st := 3, begun := false }).doorbell f key 1
  else d

def Dev.respond (d : Dev) (f key code : Nat) (payload : List Byte) : Dev := d.respondFlag f key code 0 payload

/-- A command that finds its object as it would leave it (12_rennet.md R377). -/
def Dev.noChange (d : Dev) (f key : Nat) (payload : List Byte) : Dev := d.respondFlag f key 0 1 payload

/-- A refusal with the request field at fault, the item in conflict and the table's value. -/
def Dev.refuseCmd (d : Dev) (f key code detail item arg : Nat) : Dev :=
  d.respond f key code (leBytes 2 detail ++ leBytes 2 item ++ leBytes 4 arg)

def Dev.fail (d : Dev) (f key code detail : Nat) : Dev := d.refuseCmd f key code detail 0 0

/-- A waiting command's answer. -/
def Dev.answerReq (d : Dev) (q : Option (Nat × Nat)) (code : Nat) (payload : List Byte) : Dev :=
  match q with
  | some (f, key) => d.respond f key code payload
  | none => d

/-- The command has begun and waits. -/
def Dev.begin_ (d : Dev) (f key : Nat) : Dev := d.setMbx f key { d.mbx f key with begun := true }

/-! ## Commands (12_rennet.md R358, R359, R378) -/

/-- Opcodes that each group defines: the highest number, counted from 1 (R358, R362-R374). -/
def opsIn (group : Nat) : Nat :=
  match group with
  | 1 => 5
  | 2 => 4
  | 3 => 4
  | 4 => 3
  | 5 => 4
  | 6 => 4
  | 7 => 4
  | 8 => 2
  | 9 => 3
  | 10 => 4
  | 11 => 2
  | _ => 0

/-- The payload a command's request has. -/
def payloadOf (op : Nat) : Nat :=
  match op with
  | 0x0101 => 12
  | 0x0103 => 4
  | 0x0104 => 24
  | 0x0105 => 8
  | 0x0201 => 4
  | 0x0202 | 0x0203 => 1
  | 0x0204 => 4
  | 0x0301 => 5
  | 0x0302 => 2
  | 0x0303 => 4
  | 0x0304 => 3
  | 0x0401 => 20
  | 0x0402 => 2
  | 0x0403 => 24
  | 0x0501 => 20
  | 0x0502 => 3
  | 0x0503 => 1
  | 0x0504 => 8
  | 0x0601 => 12
  | 0x0602 | 0x0603 => 4
  | 0x0604 => 12
  | 0x0701 => 3
  | 0x0702 => 2
  | 0x0703 => 20
  | 0x0704 => 40
  | 0x0801 => 8
  | 0x0901 => 20
  | 0x0902 => 2
  | 0x0903 => 1
  | 0x0A01 => 52
  | 0x0A02 => 20
  | 0x0A03 => 20
  | 0x0A04 => 12
  | 0x0B02 => 3
  | _ => 0

/-- Reserved bytes of a request's payload: (offset, length). -/
def reservedOf (op : Nat) : List (Nat × Nat) :=
  match op with
  | 0x0104 => [(0x09, 7)]
  | 0x0401 => [(0x0A, 6)]
  | 0x0403 => [(0x0B, 5)]
  | 0x0501 => [(0x0C, 4)]
  | 0x0504 => [(0x09, 3)]
  | 0x0601 => [(0x0B, 1)]
  | 0x0703 => [(0x09, 3)]
  | 0x0704 => [(0x0A, 6)]
  | 0x0801 => [(0x09, 3)]
  | 0x0901 => [(0x09, 7)]
  | 0x0A01 => [(0x09, 7)]
  | 0x0A02 => [(0x0A, 6)]
  | 0x0A03 => [(0x09, 3)]
  | _ => []

/-- Commands of the physical function alone (column P of the tables); RESET_REQ levels are checked by their rows. -/
def physOnly (op : Nat) : Bool :=
  [0x0103, 0x0104, 0x0105, 0x0201, 0x0202, 0x0204, 0x0503, 0x0504, 0x0601, 0x0602, 0x0604, 0x0702, 0x0703, 0x0704, 0x0802,
   0x0901, 0x0902, 0x0B02].contains op

def Mbx.op (m : List Byte) : Nat := leAt m 0 2

/-- Framing: the payload is there, reserved bytes are 0; the offset at fault. -/
def framing (msg : List Byte) (len : Nat) : Option Nat :=
  let op := leAt msg 0 2
  if len < 8 + payloadOf op then some 0
  else if leAt msg 2 6 ≠ 0 then some 2
  else (reservedOf op).findSome? (fun r => if leAt msg r.1 r.2 ≠ 0 then some r.1 else none)

/-- Start-up: only some commands are served before S8; a start that halted stays there (R378, 16_bringup.md R468). -/
def Dev.starting (d : Dev) : Bool := d.boot.stage < 8 || d.boot.chipResetting

def servedEarly (op : Nat) : Bool := let g := op / 256; g == 1 || g == 7 || g == 8 || op == 0x0903 || op == 0x0B01

def servedOut (op : Nat) : Bool := let g := op / 256; g == 1 || (7 ≤ g && g ≤ 0x0B)

/-- The answer that the state of the device gives a command before its own checks (R378): code and arg. -/
def Dev.stateAnswer (d : Dev) (op : Nat) : Option (Nat × Nat) :=
  if d.rrc.oos && !servedOut op then some (rDenied, 2)
  else if d.starting && !d.rrc.oos && !servedEarly op then some (rBusy, 0)
  else none

/-- The message that a command row carries out at a channel: the one taken before a Function Level Reset, or the ACTIVE
one that has not begun. -/
def Dev.activeMsg (d : Dev) (f key op : Nat) : Option (List Byte × Nat × Bool) :=
  let m := d.mbx f key
  match m.orphan with
  | some bs => if leAt bs 0 2 = op then some (bs, bs.length, true) else none
  | none => if m.st = 2 ∧ m.begun = false ∧ leAt m.msg 0 2 = op then some (m.msg, m.len, false) else none

/-- A waiting requester whose channel has been cleared waits no more. -/
def keepReq (gone : Nat → Nat → Bool) (q : Option (Nat × Nat)) : Option (Nat × Nat) := q.filter (fun x => !gone x.1 x.2)

/-- A function number that no function has: the answer of an operation that goes on unasked. -/
def nobody : Nat := 1000

def keepGrant (gone : Nat → Nat → Bool) : Grant → Grant
  | .ctxCreate f k c => .ctxCreate (if gone f k then nobody else f) k c
  | .memMap f k c s fl b n pg => .memMap (if gone f k then nobody else f) k c s fl b n pg

def keepWait (gone : Nat → Nat → Bool) (w : WaitReq) : WaitReq := if w.chip.isNone && gone w.a w.b then { w with a := nobody } else w

/-- Operations begun for channels of `gone` run to their ends unasked. -/
def Dev.forget (d : Dev) (gone : Nat → Nat → Bool) : Dev :=
  { d with
    ctxs := d.ctxs.map (fun e => (e.1, { e.2 with tear := e.2.tear.map (fun (t : Teardown) => { t with req := keepReq gone t.req }) }))
    parts := d.parts.map (fun e => (e.1, { e.2 with resetWait := keepReq gone e.2.resetWait, grants := e.2.grants.map (keepGrant gone) }))
    pwr := { d.pwr with capWait := d.pwr.capWait.filter (fun e => !gone e.1 e.2) }
    rrc := { d.rrc with engineReq := d.rrc.engineReq.filter (fun e => !gone e.2.1 e.2.2) }
    fm := { d.fm with waiting := d.fm.waiting.map (keepWait gone)
                      slices := d.fm.slices.map (fun x => { x with waiter := x.waiter.map (keepWait gone) }) } }

/-- A command row: the active message of its opcode is checked (state of the device, channel, framing) and carried out;
`pick` says whether the message's own fields make it this row's. -/
def Dev.command (d : Dev) (f key op : Nat) (pick : List Byte → Bool) (act : Dev → List Byte → Dev) : Dev :=
  match d.activeMsg f key op with
  | none => d
  | some (msg, len, orphan) =>
    if !pick msg then d
    else
      let d1 := if orphan then d.setMbx f key { d.mbx f key with orphan := none } else d
      let d2 := match d1.stateAnswer op with
        | some (code, arg) => d1.refuseCmd f key code 0 0 arg
        | none =>
          if physOnly op && f != 0 then d1.fail f key rDenied 0
          else
            match framing msg len with
            | some off => d1.fail f key rInvalid off
            | none => act d1 msg
      if orphan then d2.forget (fun g k => g == f && k == key) else d2

def anyMsg (_ : List Byte) : Bool := true

/-- A command that waits while its object is being changed: the row finds it so and leaves the state as it is (R376,
R378, 09_fabric_manager.md R295). -/
def Dev.commandW (d : Dev) (f key op : Nat) (pick : List Byte → Bool) (wait : Dev → List Byte → Bool) (act : Dev → List Byte → Dev) : Dev :=
  match d.activeMsg f key op with
  | none => d
  | some (msg, len, _) =>
    if (d.stateAnswer op).isNone && !(physOnly op && f != 0) && (framing msg len).isNone && wait d msg then d
    else d.command f key op pick act

/-! ## What a function reaches (R359) -/

def reaches (f part : Nat) : Bool := f == 0 || part + 1 == f

/-- Partitions of the part (00_scope.md R1): 16 in each active quadrant. -/
def Dev.partOn (d : Dev) (p : Nat) : Bool := p < 16 * d.sec.fuses.variant

/-! ## Host buffers (R361) -/

/-- Data go to the host's buffer; a transfer that the link does not carry fails the command. -/
def Dev.sendBuf (d : Dev) (f key buf : Nat) (bs payload : List Byte) : Dev :=
  if d.host.linkUp then (d.hostWrite buf bs).respond f key rOk payload else d.fail f key rFailed 0

end Sys2Proof.Machine
end

