-- ==== Sys2Proof/Machine/ProgOps.lean ====
section
/-! DEFINITION. Programs: the image and its checks, where overflow pages go, loading, starting, saving and restoring a
context's curds, culture entries usable at a resume (02_programming_model.md R57, R65-R69, 03_curd_core.md R72, R111,
R116, R119, 05_local_memory.md R145, R155, R519, 12_rennet.md R370). -/

namespace Sys2Proof.Machine

/-! ## The image (12_rennet.md R370) -/

def imReserve (h : List Byte) : Nat := leAt h 4 2
def imSects (h : List Byte) : Nat := leAt h 6 2
def imDeclared (h : List Byte) (n : Nat) : Nat := leAt h (0x40 + 2 * n) 2

/-- Section i: first core, cores, code offset, data offset, data length. -/
structure Sect where
  first : Nat
  cores : Nat
  code : Nat
  data : Nat
  dlen : Nat
  deriving DecidableEq, Repr

def imSect (h : List Byte) (i : Nat) : Sect :=
  let o := 0xC0 + 16 * i
  { first := leAt h o 2, cores := leAt h (o + 2) 2, code := leAt h (o + 4) 4, data := leAt h (o + 8) 4, dlen := leAt h (o + 12) 4 }

/-- The header and section table do not fit the length given. -/
def imShort (im : List Byte) : Bool := im.length < 0xC0 || im.length < 0xC0 + 16 * imSects im

/-- The first field of section i at fault, as an image offset. -/
def sectFault (im : List Byte) (cores i : Nat) : Option Nat :=
  let s := imSect im i
  let o := 0xC0 + 16 * i
  let clash := (List.range i).any (fun j =>
    let t := imSect im j
    s.first < t.first + t.cores && t.first < s.first + s.cores)
  if cores ≤ s.first || clash then some o
  else if cores < s.first + s.cores then some (o + 2)
  else if im.length < s.code + 16384 then some (o + 4)
  else if im.length < s.data then some (o + 8)
  else if 65536 < s.dlen || im.length < s.data + s.dlen then some (if im.length < s.data + s.dlen && s.dlen ≤ 65536 then o + 8 else o + 12)
  else none

/-- The first field at fault, in image order. -/
def imFault (im : List Byte) (cores : Nat) : Option Nat :=
  if leAt im 0 4 ≠ 1 then some 0
  else if 128 < imReserve im then some 4
  else if imSects im = 0 ∨ 256 < imSects im then some 6
  else if leAt im 8 4 ≠ im.length then some 8
  else if leAt im 12 4 ≠ crcValue 1 0 (im.take 12 ++ leBytes 4 0 ++ im.drop 16) then some 12
  else if leAt im 0x10 48 ≠ 0 then some 0x10
  else
    match (List.range 64).find? (fun n => 4080 < imDeclared im n) with
    | some n => some (0x40 + 2 * n)
    | none => (List.range (imSects im)).findSome? (sectFault im cores)

/-- The word of HALT, in every word of a core's store that no section names. -/
def haltStore : Memory := memWrite [] 0 ((List.replicate 4096 (leBytes 4 (encodeCurd .halt))).flatten)

/-- A core's instruction store and local data memory (R370). -/
def imCore (im : List Byte) (core : Nat) : Memory × Memory :=
  match ((List.range (imSects im)).map (imSect im)).find? (fun s => s.first ≤ core && core < s.first + s.cores) with
  | some s => (memWrite [] 0 ((im.drop s.code).take 16384), memWrite [] 0 ((im.drop s.data).take s.dlen))
  | none => (haltStore, [])

/-! ## Overflow pages (05_local_memory.md R145) -/

/-- One page each to the curds that still want one, in logical order. -/
def spillRound : List Nat → List Nat → Nat → List Nat × Nat
  | dc :: ds, v :: vs, left =>
    if 0 < left ∧ v < dc then (let r := spillRound ds vs (left - 1); ((v + 1) :: r.1, r.2))
    else (let r := spillRound ds vs left; (v :: r.1, r.2))
  | _, vs, left => (vs, left)

def spillRounds (decl : List Nat) : Nat → List Nat → Nat → List Nat
  | 0, vs, _ => vs
  | fuel + 1, vs, left => if left = 0 then vs else (let r := spillRound decl vs left; spillRounds decl fuel r.1 r.2)

/-- Pages of each curd in the vat store. -/
def spillPlan (reserve : Nat) (decl : List Nat) : List Nat :=
  let free := 128 - reserve
  let ask := (decl.filter (fun x => x != 0)).length
  if ask = 0 then decl.map (fun _ => 0)
  else
    let vs := decl.map (fun x => min (free / ask) x)
    spillRounds decl 128 vs (free - vs.foldl (· + ·) 0)

/-- First spill page of each curd. -/
def spillBase (reserve : Nat) (vs : List Nat) (n : Nat) : Nat := reserve + (vs.take n).foldl (· + ·) 0

def imDecls (h : List Byte) : List Nat := (List.range 64).map (imDeclared h)
def imVs (h : List Byte) : List Nat := spillPlan (imReserve h) (imDecls h)
/-- Pages of a curd in the hidden spill run. -/
def imExt (h : List Byte) (n : Nat) : Nat := imDeclared h n - (imVs h).getD n 0
/-- Pages of a vat in the hidden spill run. -/
def imVatExt (h : List Byte) : Nat := ((List.range 64).map (imExt h)).foldl (· + ·) 0

/-- First page of a core within the hidden spill run (R519). -/
def imSpillOf (h : List Byte) (core : Nat) : Nat :=
  core / 64 * imVatExt h + ((List.range (core % 64)).map (imExt h)).foldl (· + ·) 0

/-! ## Registers at a start (R72, R111, R116) -/

def crdOverflow (h : List Byte) (n : Nat) : Word := BitVec.ofNat 64 (imDeclared h n + (imVs h).getD n 0 * 2 ^ 16)

def Dev.crdId (d : Dev) (ctx core : Nat) : Word :=
  BitVec.ofNat 64 (core + (d.ctx ctx).rank * 2 ^ 12 + (d.part (ctx / 16)).psize * 2 ^ 32 + ctx % 16 * 2 ^ 36 + ctx / 16 * 2 ^ 40)

/-- A fresh start, or the resume from an entry: (step, entry offset). -/
def Dev.startRegs (d : Dev) (ctx core : Nat) (h : List Byte) (from_ : Option (Nat × Nat)) : CurdRegs :=
  let r := { CurdRegs.init with id := d.crdId ctx core, ovf := crdOverflow h (core % 64) }
  match from_ with
  | none => r
  | some (step, off) => { r with g := smSet 0 (smSet 0 (smSet 0 [] 1 (BitVec.ofNat 64 step)) 2 1) 3 (BitVec.ofNat 64 off) }

/-! ## Every byte of a block written (R155) -/

/-- The block's contents replaced whole: an armed flip that takes effect lands in its lowest word (R152). -/
def Block.load (b : Block) (may : Bool) (m : Memory) : Block := { b with mem := m, err := [] }.applyFlip may [] 0 8

/-- The fill of a block that holds no context: zero with valid check bits, and the error counts at 0 (R153, R154). -/
def Block.filled (b : Block) : Block := { b.load true [] with ecc := Ecc.init }

def Curd.loaded (c : Curd) (may : Bool) (st : CState) (r : CurdRegs) (ldm is : Memory) : Curd :=
  let c1 := (c.putLdm (c.ldmBlock.load may ldm)).putIs (c.isBlock.load may is)
  { c1 with st := st, r := r, tq := [], loads := [], stores := [], ord := 0, colls := 0, issued := [], waitK := none,
            stopping := false, clock := 0, ready := [] }

/-- The error counts of a curd's blocks after a fill. -/
def Curd.cleared (c : Curd) (fill : Bool) : Curd := if fill then { c with ldmEcc := Ecc.init, isEcc := Ecc.init } else c

/-- A vat of a partition takes a program's layout and its store's contents. -/
def Vat.loaded (v : Vat) (may : Bool) (h : List Byte) (vs : Memory) (dma : SMap DmaCh) : Vat :=
  let v1 := v.putVs (v.vsBlock.load may vs)
  { v1 with reserve := imReserve h, base := (List.range 64).foldl (fun m n => smSet 0 m n (spillBase (imReserve h) (imVs h) n)) [],
            rq := [], dma := dma }

/-! ## Loading (R370, R519) -/

/-- Cores of a partition. -/
def Dev.cores (d : Dev) (p : Nat) : Nat := 64 * vatsOf (d.part p).psize

/-- The image goes to the curds and vat stores of a resident context, or to the save area. -/
def Dev.place (d : Dev) (ctx : Nat) (im : List Byte) (st : CState) (from_ : Option (Nat × Nat)) : Dev :=
  let p := ctx / 16
  let h := im.take (0xC0 + 16 * imSects im)
  if d.isResident ctx then
    let d1 := (d.partNodes p).foldl (fun d n => d.setVat n ((d.vat n).loaded (d.vatFlips n) h [] (d.vat n).dma)) d
    (d1.partCurds p).zipIdx.foldl (fun d e =>
      let k := curdKey e.1.1 e.1.2
      let x := imCore im e.2
      d.setCurd k ((d.curd k).loaded (d.curdFlips e.1.1 e.1.2) st (d.startRegs ctx e.2 h from_) x.2 x.1)) d1
  else
    let curds := (List.range (d.cores p)).foldl (fun m i =>
      let x := imCore im i
      smSet SavedCurd.init m i { st := st, r := d.startRegs ctx i h from_, ldm := x.2, is := x.1 }) []
    d.setCtx ctx { d.ctx ctx with saved := some { Saved.init with curds := curds } }

/-- The hidden spill run is placed, in place of an earlier load's, and filled; none = it does not fit (R57, R519). -/
def Dev.placeSpill (d : Dev) (ctx : Nat) (h : List Byte) : Option Dev :=
  let p := ctx / 16
  let n := vatsOf (d.part p).psize * imVatExt h
  let d0 := d.setCtx ctx { d.ctx ctx with spill := none, spillOf := [] }
  if n = 0 then some d0
  else
    match d0.takeRun p n 1 0 8192 with
    | none => none
    | some (d1, page) =>
      let offs := (List.range (d.cores p)).foldl (fun m i => smSet 0 m i (imSpillOf h i)) []
      some ((d1.setCtx ctx { d1.ctx ctx with spill := some (page, n), spillOf := offs }).fillPages p page n)

/-- What a load records of the image. -/
def Dev.recordLoad (d : Dev) (ctx : Nat) (im : List Byte) (st : ProgSt) : Dev :=
  d.setCtx ctx { d.ctx ctx with prog := st, loaded := some (im.take (0xC0 + 16 * imSects im)), digest := shake256 im }

/-! ## Saving and restoring (R65, R66, R119) -/

/-- A word of the partition's curds or vat stores reads as uncorrectable (05_local_memory.md R150). -/
def Dev.unsavable (d : Dev) (p : Nat) : Bool :=
  let bad (e : SMap (BitVec 72)) : Bool := e.any (fun x => (eccWord x.2).isNone)
  (d.partCurds p).any (fun e => bad (d.curd (curdKey e.1 e.2)).ldmErr || bad (d.curd (curdKey e.1 e.2)).isErr) ||
    (d.partNodes p).any (fun n => bad (d.vat n).vsErr)

/-- A save reads every word of the partition's blocks: what it corrects is written back, counted and reported, and so is a
word it cannot read (05_local_memory.md R149, R150). -/
def Dev.saveReads (d : Dev) (p : Nat) : Dev :=
  let d1 := (d.partCurds p).foldl (fun d e =>
    let k := curdKey e.1 e.2
    let l := (d.curd k).ldmBlock.readMarks (d.curd k).ldmErr
    let i := (d.curd k).isBlock.readMarks (d.curd k).isErr
    ((d.setCurd k (((d.curd k).putLdm l.1).putIs i.1)).raiseBlock e.1 e.2 0 l.2.2).raiseBlock e.1 e.2 0 i.2.2) d
  (d1.partNodes p).foldl (fun d n =>
    let r := (d.vat n).vsBlock.readMarks (d.vat n).vsErr
    (d.setVat n ((d.vat n).putVs r.1)).raiseBlock n unitVs vsBase r.2.2) d1

/-- A channel's descriptors name their issuers by other numbers: a save area knows the logical curds. -/
def DmaCh.onSlots (x : DmaCh) (f : Nat → Nat) : DmaCh :=
  { x with queue := x.queue.map (fun q => { q with slot := f q.slot }),
           runs := x.runs.map (fun r => { r with d := { r.d with slot := f r.d.slot } }) }

/-- A collective issued and not yet begun: it has sent no ARRIVE (08_collectives.md R254). -/
def CollOp.unbegun (o : CollOp) : Bool := !o.arrived && o.release.isNone

/-- Its participants named by other numbers: a save area knows vats by their place and curds by their logical number. -/
def CollOp.onParts (o : CollOp) (f : Nat → Nat → Nat × Nat) : CollOp :=
  { o with parts := o.parts.map (fun q => let x := f q.node q.slot; { q with node := x.1, slot := x.2 }) }

/-- The collectives that a context's save takes along. -/
def Dev.savedColls (d : Dev) (ctx : Nat) : List CollOp :=
  let ns := d.partNodes (ctx / 16)
  ((d.unit (d.rankUnit ctx)).ops.filter (fun o => o.ctx == ctx && o.unbegun)).map (fun o =>
    o.onParts (fun n s => (ns.idxOf n, ((d.vat n).logical s).getD s)))

/-- Every tree's low position at a tree node. -/
def lowsOf (h pos : Nat) (m : SMap Nat) : SMap Nat := (List.range 16).foldl (fun m t => smSet 0 m (16 * h + t) pos) m

/-- The reduction unit and the engines at a switch: the incoming context's collectives are those it had issued and not begun,
and every earlier one has ended (R65, R66). -/
def Dev.restoreColls (d : Dev) (ctx : Nat) (ops : List CollOp) : Dev :=
  let ns := d.partNodes (ctx / 16)
  let u := d.rankUnit ctx
  let h := d.sliceHead ctx
  let own := ops.map (fun o => o.onParts (fun n s => let v := ns.getD n 0; (v, (d.vat v).phys s)))
  let num := own.filter (fun o => o.numbered)
  let seq := (d.ctx ctx).collSeq
  let low := posOf (((num.map (fun o => o.seq)).min?).getD seq) 0
  let x := d.unit u
  let d1 := d.setUnit u { x with
    ops := own, known := seq, low := lowsOf h low x.low, peerLow := lowsOf h low x.peerLow,
    infos := num.foldl (fun m o => smSet (0, 0) m o.seq (o.d.shape (d.collRanks ctx))) [],
    kinds := num.foldl (fun m o => smSet CollKind.init m o.seq o.d.kind) [],
    tmp := ((own.map (fun o => o.seq + 1)).max?).getD 0 }
  let d2 := (List.range 16).foldl (fun d p =>
    let y := d.unit (0x140 + p)
    d.setUnit (0x140 + p) { y with
      slots := y.slots.filter (fun s => s.tree / 16 != h), toks := y.toks.filter (fun s => s.tree / 16 != h),
      sent := y.sent.filter (fun s => s.tree / 16 != h), freed := y.freed.filter (fun s => s.1 / 16 != h),
      low := lowsOf h low y.low, peerLow := lowsOf h low y.peerLow }) d1
  (own.flatMap (fun o => o.parts)).foldl (fun d q =>
    let key := curdKey q.node q.slot
    d.setCurd key { (d.curd key).issue q.k with colls := (d.curd key).colls + 1 }) d2

/-- The outgoing context goes to its save area; its sources' failure records go with it (R62). -/
def Dev.saveCtx (d0 : Dev) (ctx : Nat) : Dev :=
  let p := ctx / 16
  let d := d0.saveReads p
  let curds := (d.partCurds p).zipIdx.foldl (fun m e =>
    let c := d.curd (curdKey e.1.1 e.1.2)
    smSet SavedCurd.init m e.2 { st := c.st, r := c.r, ldm := c.ldm, is := c.is }) []
  let ns := (d.partNodes p).zipIdx
  let vs := ns.foldl (fun m e => smSet [] m e.2 (d.vat e.1).vs) []
  let dma := ns.foldl (fun m e => (List.range 4).foldl (fun m c => smSet DmaCh.init m (4 * e.2 + c) ((d.dmaCh e.1 c).onSlots fun s => ((d.vat e.1).logical s).getD s)) m) []
  let prog := ns.foldl (fun m e => smSet 0 m e.2 (d.ni e.1).progress) []
  let chk := ns.foldl (fun m e => smSet 0 m e.2 (d.unit e.1).chunks) []
  let fails := ns.foldl (fun m e => smSet [] m e.2 (d.ni e.1).failRec) []
  d.setCtx ctx { d.ctx ctx with saved := some { curds := curds, vs := vs, dma := dma, progress := prog, chunks := chk, fails := fails, colls := d.savedColls ctx } }

/-- The state a restored curd continues in: one stopped at the switch runs on; HALTED and FAULTED stay (R119). So does one that
BREAK had left in STOPPED run on: the saved state code does not tell the two apart (DESIGN CHOICE,
notes/assumptions/44.md). -/
def CState.resumed : CState → CState
  | .run | .wait | .stopped => .run
  | s => s

/-- A channel restored on a vat: run ids stay apart from those the vat has used. -/
def DmaCh.onto (x old : DmaCh) : DmaCh := { x with nextId := max x.nextId old.nextId }

/-- The issuers of a restored channel's descriptors count them as issued and not complete (R118). -/
def Dev.issueQueued (d : Dev) (node : Nat) (x : DmaCh) : Dev :=
  (x.queue ++ x.runs.map (fun r => r.d)).foldl (fun d q =>
    d.setCurd (curdKey node q.slot) ((d.curd (curdKey node q.slot)).issue q.k)) d

/-- The incoming context's state is restored, or the on-chip memory filled at its first schedule. -/
def Dev.restoreCtx (d : Dev) (ctx : Nat) : Dev :=
  let p := ctx / 16
  let c := d.ctx ctx
  let h := c.loaded.getD []
  let s := c.saved.getD Saved.init
  let d1 := (d.partNodes p).zipIdx.foldl (fun d e =>
    let dma := (List.range 4).foldl (fun m k =>
      smSet DmaCh.init m k (((smGet DmaCh.init s.dma (4 * e.2 + k)).onSlots (d.vat e.1).phys).onto (d.dmaCh e.1 k))) []
    let v := (d.vat e.1).loaded (d.vatFlips e.1) h (smGet [] s.vs e.2) dma
    let d2 := d.setVat e.1 (if c.saved.isNone then { v with vsEcc := Ecc.init } else v)
    let d3 := d2.setNi e.1 { d2.ni e.1 with progress := smGet 0 s.progress e.2, failRec := smGet [] s.fails e.2 }
    d3.setUnit e.1 { d3.unit e.1 with chunks := smGet 0 s.chunks e.2, seen := smGet 0 s.chunks e.2, still := 0 }) d
  let d4 := (d1.partCurds p).zipIdx.foldl (fun d e =>
    let k := curdKey e.1.1 e.1.2
    let x := smGet SavedCurd.init s.curds e.2
    d.setCurd k (((d.curd k).loaded (d.curdFlips e.1.1 e.1.2) x.st.resumed x.r x.ldm x.is).cleared c.saved.isNone)) d1
  let d5 := (d4.partNodes p).foldl (fun d n => (List.range 4).foldl (fun d k => d.issueQueued n (d.dmaCh n k)) d) d4
  (d5.restoreColls ctx s.colls).setCtx ctx { d5.ctx ctx with saved := none }

/-- Steps 5 and 6: a context becomes resident, its tree entries carry its generation, its curds are released. -/
def Dev.makeResident (d : Dev) (ctx : Nat) : Dev :=
  let p := ctx / 16
  let d1 := d.setPart p { d.part p with resident := some (ctx % 16), switchTo := none }
  let h := d1.sliceHead ctx
  let d2 := { d1 with trees := d1.trees.map (fun (e : Nat × BitVec 64) =>
    if e.1 % 1024 / 16 = h ∧ teValid e.2.toNat then (e.1, BitVec.ofNat 64 (setBits e.2.toNat 58 47 (d1.ctx ctx).gen)) else e) }
  let d3 := d2.restoreCtx ctx
  d3.setCtx ctx { d3.ctx ctx with lastProg := 0 }

/-! ## Culture entries at a resume (R68, R69, 14_recovery.md R423) -/

/-- The image an entry names, if it reads without error and passes the checks. -/
def Dev.entryImage (d : Dev) (ctx : Nat) (e : List Byte) : Dev × Option (List Byte) :=
  let r := cuImage e
  let x := d.rankRead ctx r.1 r.2
  match x.2 with
  | some im => (x.1, if imShort im || (imFault im (d.cores (ctx / 16))).isSome then none else some im)
  | none => (x.1, none)

/-- The entries of a rank's record that are usable: (step, entry offset, image). -/
def Dev.usable (d : Dev) (ctx : Nat) : Dev × List (Nat × Nat × List Byte) :=
  match (d.ctx ctx).culture with
  | none => (d, [])
  | some rec =>
    [0, 256].foldl (fun acc o =>
      let x := acc.1.rankRead ctx (rec + o) 256
      match x.2 with
      | none => (x.1, acc.2)
      | some e =>
        if (d.ctx ctx).cuValid (rec + o) e then
          (let y := x.1.entryImage ctx e
           match y.2 with
           | some im => (y.1, acc.2 ++ [(cuStep e, rec + o, im)])
           | none => (y.1, acc.2))
        else (x.1, acc.2)) (d, [])

/-- The highest step that every rank holds (R69). -/
def commonStep (steps : List (List Nat)) : Option Nat :=
  match steps with
  | [] => none
  | s :: rest => (s.filter (fun n => rest.all (fun t => t.contains n))).max?

/-- One rank's program is loaded from the entry of a step and its curds start there (14_recovery.md R424), on a partition that
nothing holds at once; false = the entry is no longer usable. -/
def Dev.reload (d : Dev) (ctx step : Nat) : Dev × Bool :=
  let u := d.usable ctx
  match u.2.find? (fun e => e.1 == step) with
  | none => (u.1, false)
  | some (_, off, im) =>
    match u.1.placeSpill ctx (im.take (0xC0 + 16 * imSects im)) with
    | none => (u.1, false)
    | some d1 =>
      let d2 := (d1.place ctx im .run (some (step, off))).recordLoad ctx im .started
      (if (d2.part (ctx / 16)).resident.isNone then d2.makeResident ctx else d2, true)

end Sys2Proof.Machine
end

