-- ==== Sys2Proof/Machine/SecOps.lean ====
section
/-! DEFINITION. Keys that operations outside the security commands touch: link keys of a round, a partition's key pairs,
keys that end with a slice (13_security.md R381, R394, R403). -/

namespace Sys2Proof.Machine

def asciiBytes (s : String) : List Byte := s.toList.map (fun c => BitVec.ofNat 8 c.toNat)

/-- The link key of round t (R403). -/
def linkKeyOf (secret : BitVec 256) (sliceId t : Nat) : BitVec 256 :=
  shake256 (asciiBytes "LUADA-LINK" ++ leBytes 32 secret.toNat ++ leBytes 4 sliceId ++ leBytes 4 t)

/-- The key of a slice's round is written into every member NI. -/
def Dev.writeLinkKey (d : Dev) (id : Nat) : Dev :=
  match d.sec.secrets.find? (fun x => x.sliceId == id) with
  | none => d
  | some x =>
    let key := linkKeyOf x.secret id x.round
    (d.sliceCtxs id).foldl (fun d c =>
      (d.partNodes (c / 16)).foldl (fun d n =>
        d.setNi n { d.ni n with linkKeys := smSet 0 (d.ni n).linkKeys (c % 16) key }) d) d

/-- A new round begins at the teardown of the slice's contexts; its key replaces the old one. -/
def Dev.linkAdvance (d : Dev) (id : Nat) : Dev :=
  let upd := d.sec.secrets.map (fun x => if x.sliceId = id then { x with round := x.round + 1 } else x)
  { d with sec := { d.sec with secrets := upd } }.writeLinkKey id

/-- A partition's key pairs are generated: a number that no other pair has had. -/
def Dev.newKeys (d : Dev) (p : Nat) : Dev :=
  { d.setPart p { d.part p with keyNo := d.sec.nextKey } with
    sec := { d.sec with nextKey := d.sec.nextKey + 1, models := d.sec.models.filter (fun k => k.part != p) } }

/-- Every key that belongs to a partition is destroyed. -/
def Dev.dropKeys (d : Dev) (p : Nat) : Dev :=
  { d.setPart p { d.part p with keyNo := 0 } with
    sec := { d.sec with models := d.sec.models.filter (fun k => k.part != p) } }

/-- Keys bound to a slice end with it: model keys of its partitions here, its link secret and keys. -/
def Dev.dropSliceKeys (d : Dev) (id : Nat) (ctxs : List Nat) : Dev :=
  let d1 := ctxs.foldl (fun d c =>
    (d.partNodes (c / 16)).foldl (fun d n =>
      d.setNi n { d.ni n with linkKeys := smSet 0 (d.ni n).linkKeys (c % 16) 0 }) d) d
  { d1 with sec := { d1.sec with
      secrets := d1.sec.secrets.filter (fun x => x.sliceId != id),
      models := d1.sec.models.filter (fun k => !(ctxs.any (fun c => c / 16 == k.part))) } }

/-- A confidential partition exists (R395). -/
def Dev.anyRind (d : Dev) : Bool := d.parts.any (fun e => e.2.st != 0 && e.2.conf)

end Sys2Proof.Machine
end

