-- ==== Sys2Proof/Machine/ResetOps.lean ====
section
/-! DEFINITION. Resets: teardown of a context, engine and partition resets, fences and the spares that replace fenced
units, the slice abort, resuming from culture records (01_architecture.md R21, 02_programming_model.md R47, R66, R69,
14_recovery.md R411-R425). -/

namespace Sys2Proof.Machine

/-! ## Units (15_faults_cave.md R439): 128 * node + unit of a vat; 0x9000 + p of a port engine -/

def vatUnit (node unit : Nat) : Nat := 128 * node + unit
def portUnit (p : Nat) : Nat := 0x9000 + p

def rrcSrc : Nat := 0x804

def sumOf (l : List Nat) : Nat := l.foldl (· + ·) 0

/-! ## Fences and spares (R21, 16_bringup.md R474, R478) -/

/-- A spare curd filled before its first use (05_local_memory.md R155). -/
def Curd.filled (c : Curd) : Curd := { c.loaded true .idle CurdRegs.init [] [] with ldmEcc := Ecc.init, isEcc := Ecc.init }

/-- The lowest working spare slot of a vat that stands for no logical curd. -/
def Dev.spareSlot (d : Dev) (node : Nat) : Option Nat :=
  [64, 65, 66, 67].find? (fun s => !(d.curd (curdKey node s)).fenced && ((d.vat node).logical s).isNone)

/-- The lowest spare vat of a quadrant. -/
def Dev.spareVat (d : Dev) (q : Nat) : Option Nat := (quadNodes q).find? (fun n => (d.vat n).lst == .spare)

/-- A vat is fenced: a spare vat takes its logical number and its tables, filled before use; with none, its partition
runs with fewer vats. -/
def Dev.fenceVat (d : Dev) (node : Nat) : Dev :=
  let v := d.vat node
  match v.lst with
  | .spare => d.setVat node { v with lst := .fenced }
  | .active =>
    let d1 := d.setVat node { v with lst := .fenced }
    match d.spareVat (quadrant node) with
    | some s =>
      let w := d.vat s
      let d2 := (List.range 68).foldl (fun d i => d.setCurd (curdKey s i) (d.curd (curdKey s i)).filled) d1
      let d3 := d2.setVat s { (w.putVs w.vsBlock.filled) with
        lst := .active, lnum := v.lnum, reserve := 0, base := [], rq := [], dma := [] }
      let n := d.ni node
      d3.setNi s { NI.init with routeCfg := n.routeCfg, detour := n.detour, slices := n.slices, exc := n.exc, stop := n.stop,
                                linkKeys := n.linkKeys }
    | none =>
      match d.partOf node with
      | some p => d1.setPart p { d1.part p with fewer := true }
      | none => d1
  | _ => d

/-- A curd is fenced: a spare curd of the vat takes its logical number; a vat left with fewer than 64 working curds is
fenced. -/
def Dev.fenceCurd (d : Dev) (node slot : Nat) : Dev :=
  let k := curdKey node slot
  if (d.curd k).fenced then d
  else
    let d1 := d.setCurd k { d.curd k with fenced := true }
    match (d.vat node).logical slot with
    | none => d1
    | some n =>
      match d1.spareSlot node with
      | some s =>
        let v := d1.vat node
        (d1.setVat node { v with remap := smSet 0 v.remap n s }).setCurd (curdKey node s) (d1.curd (curdKey node s)).filled
      | none => d1.fenceVat node

/-- The unit of a vat that a fault or a failed reset names (15_faults_cave.md R442): a curd, or the whole vat. -/
def Dev.fenceUnit (d : Dev) (u : Nat) : Dev :=
  if u % 128 < 68 then d.fenceCurd (u / 128) (u % 128) else d.fenceVat (u / 128)

/-- A port engine and its edge node are fenced; the port stays DOWN (R415). -/
def Dev.fencePort (d : Dev) (p : Nat) : Dev :=
  let d1 := d.portFails p
  d1.setPort p { d1.port p with fenced := true, dep := [], inb := [] }

/-! ## Step 1 of a teardown (R414) -/

/-- What remains of an NI's tags of a context: copies sent go on to their ends, completing nothing. -/
def NI.tornTags (n : NI) (ctx : Nat) : NI :=
  { n with
    tags := n.tags.filterMap (fun e =>
      match e.2 with
      | some r =>
        if r.ctx ≠ ctx ∨ r.st = .quarantine ∨ r.op.isOvf then some e
        else if r.st = .parked ∨ (r.st = .waiting ∧ r.copies = 0) then none
        else some (e.1, some { r with op := .torn })
      | none => some e)
    cult := n.cult.filter (fun x => x.ctx != ctx) }

def Curd.tornDown (c : Curd) : Curd :=
  { c with st := if c.st = .idle then .idle else .stopped, tq := [], loads := [], issued := [], colls := 0, waitK := none, stopping := false }

/-- The check-value streams of a vat's channels and culture updates end. -/
def CvUnit.dropNode (x : CvUnit) (node : Nat) : CvUnit :=
  let mine : CvOwner → Bool
    | .dma n _ _ => n == node
    | .cult n => n == node
  { x with inq := x.inq.filter (fun b => !mine b.owner), streams := x.streams.filter (fun s => !mine s.owner) }

/-- Everything of a slice's trees at a tree node goes; `h` is the slice's first partition. -/
def CollUnit.dropTrees (x : CollUnit) (h ctx : Nat) : CollUnit :=
  { x with slots := x.slots.filter (fun s => s.tree / 16 != h), toks := x.toks.filter (fun s => s.tree / 16 != h),
           sent := x.sent.filter (fun s => s.tree / 16 != h), freed := x.freed.filter (fun s => s.1 / 16 != h),
           low := x.low.filter (fun e => e.1 / 16 != h), peerLow := x.peerLow.filter (fun e => e.1 / 16 != h),
           ops := x.ops.filter (fun o => o.ctx != ctx) }

/-- The collectives of a rank's unit go, and its numbers start at 0 again (R244). -/
def CollUnit.renumber (x : CollUnit) : CollUnit := { x with infos := [], known := 0, kinds := [], tmp := 0 }

/-- The units of a partition's vats that hold work of the context. -/
def Dev.busyUnits (d : Dev) (ctx : Nat) : List Nat :=
  (d.partNodes (ctx / 16)).flatMap (fun n =>
    ((List.range 68).filter (fun s => let c := d.curd (curdKey n s); c.st == .run || c.st == .wait)).map (vatUnit n) ++
      ((List.range 4).filter (fun c => (d.dmaCh n c).queue != [] || (d.dmaCh n c).runs != [])).map (fun c => vatUnit n (unitDma c)) ++
      (if (d.unit n).ops.any (fun o => o.ctx == ctx) then [vatUnit n unitRu] else []))

/-- One vat drops the context's unissued work. -/
def Dev.dropVat (d : Dev) (ctx node : Nat) : Dev :=
  let d1 := (List.range 68).foldl (fun d s => d.setCurd (curdKey node s) (d.curd (curdKey node s)).tornDown) d
  let v := d1.vat node
  let d2 := d1.setVat node { v with
    rq := v.rq.filter (fun a => a.store),
    dma := v.dma.map (fun e => (e.1, { e.2 with queue := [], runs := [] })) }
  let d3 := d2.setNi node ((d2.ni node).tornTags ctx)
  [0, 1, 2, 3, 4].foldl (fun d u => d.setCvu u ((d.cvu u).dropNode node)) d3

/-- Every tree node of the chip drops the context's collectives. -/
def Dev.dropColl (d : Dev) (ctx : Nat) : Dev :=
  let d1 := { d with coll := d.coll.map (fun e => (e.1, e.2.dropTrees (d.sliceHead ctx) ctx)) }
  if d.isResident ctx then d1.setUnit (d.rankUnit ctx) (d1.unit (d.rankUnit ctx)).renumber else d1

/-! ## Step 4: the generation advances (R414) -/

def setGen (x : BitVec 256) (g : Nat) : BitVec 256 := BitVec.ofNat 256 (setBits x.toNat 20 9 g)

/-- The tables of a slice on this chip: the NIs that hold its descriptor, by node and slot. -/
def Dev.sliceNis (d : Dev) (id : Nat) : List (Nat × Nat) :=
  d.nis.flatMap (fun e => (e.2.slices.filter (fun x => sdValid x.2.toNat && sdId x.2.toNat == id)).map (fun x => (e.1, x.1)))

def Dev.multiRank (d : Dev) (ctx : Nat) : Bool := decide (1 < d.collRanks ctx)

/-- A slice whose member chips are more than this one. -/
def NI.spreads (n : NI) (slot : Nat) : Bool :=
  let x := n.slice slot
  decide (1 < sdExt x 0 * sdExt x 1 * sdExt x 2 * sdExt x 3) ||
    (List.range (sdXcount x)).any (fun i => bits (smGet 0 n.exc (256 * slot + i)).toNat 33 20 != n.ownChip)

def Dev.multiChip (d : Dev) (ctx : Nat) : Bool := (d.ctxNi ctx).spreads (ctx % 16)

/-- The gen field of a slice's tree entries. -/
def Dev.treeGen (d : Dev) (h old new : Nat) : Dev :=
  { d with trees := d.trees.map (fun e =>
      if e.1 % 1024 / 16 = h ∧ teValid e.2.toNat ∧ teGen e.2.toNat = old then (e.1, BitVec.ofNat 64 (setBits e.2.toNat 58 47 new)) else e) }

/-- A curd of a torn-down context: IDLE, its memories left for the next restore or fill (R155). -/
def Curd.idled (c : Curd) : Curd :=
  { c with st := .idle, r := CurdRegs.init, tq := [], loads := [], stores := [], ord := 0, colls := 0, issued := [], waitK := none, stopping := false }

/-- The tables and sequences of one vat at the advance. -/
def Dev.advanceVat (d : Dev) (ctx gen node : Nat) : Dev :=
  let n := d.ni node
  let d1 := d.setNi node { n with
    tags := n.tags.filter (fun e => match e.2 with | some r => r.ctx != ctx | none => true),
    chips := [], seqStop := [], failRec := [], slices := smSet 0 n.slices (ctx % 16) (setGen (smGet 0 n.slices (ctx % 16)) gen) }
  (List.range 68).foldl (fun d s => d.setCurd (curdKey node s) (d.curd (curdKey node s)).idled) d1

/-- NI_SLICE of a slot takes a generation, in one NI. -/
def Dev.setSliceGen (d : Dev) (node slot g : Nat) : Dev :=
  d.setNi node { d.ni node with slices := smSet 0 (d.ni node).slices slot (setGen (smGet 0 (d.ni node).slices slot) g) }

/-- A member partition takes the slice's new generation, with a context of the slice or without one; a context that is itself
being torn down takes it at its own advance (02_programming_model.md R47). -/
def Dev.memberGen (d : Dev) (node slot g : Nat) : Dev :=
  match d.partOf node with
  | none => d
  | some p =>
    let c := d.ctx (16 * p + slot)
    if c.live && c.tear.isSome then d
    else
      let d1 := { d.setSliceGen node slot g with lastGen := smSet 0 d.lastGen (16 * p + slot) g }
      if c.live then d1.setCtx (16 * p + slot) { c with gen := g } else d1

/-- Every member partition of a slice on this chip. -/
def Dev.memberGens (d : Dev) (id g : Nat) : Dev := (d.sliceNis id).foldl (fun d e => d.memberGen e.1 e.2 g) d

/-- The generation of a context advances, resident or not, and with it that of the slice's other members here; every failure record
of the context is cleared (02_programming_model.md R62). -/
def Dev.advanceTo (d : Dev) (ctx g : Nat) : Dev :=
  let c := d.ctx ctx
  let d0 := d.treeGen (d.sliceHead ctx) c.gen g
  let d1 := if d.isResident ctx then (d.partNodes (ctx / 16)).foldl (fun d n => d.advanceVat ctx g n) d0
    else (d.partNodes (ctx / 16)).foldl (fun d n => d.setSliceGen n (ctx % 16) g) d0
  let d2 := (d1.memberGens c.sliceId g).setCtx ctx
    { c with gen := g, tear := none, collSeq := 0, linkRound := c.linkRound + 1, waitSig := [] }
  let d3 := { d2 with
    lastGen := smSet 0 d2.lastGen ctx g
    host := { d2.host with funcs := d2.host.funcs.map (fun (e : Nat × Func) => (e.1, { e.2 with hdmaFail := e.2.hdmaFail.filter (fun k => k != ctx) })) }
    fm := { d2.fm with slices := d2.fm.slices.map (fun (x : SliceRec) => if x.id = c.sliceId ∧ !d.multiChip ctx then { x with gen := g } else x) } }
  (d3.linkAdvance c.sliceId).event 2 (some (ctx / 16))

def Dev.advance (d : Dev) (ctx : Nat) : Dev := d.advanceTo ctx (((d.ctx ctx).gen + 1) % 4096)

/-! ## Programs after a teardown (R424, R425) -/

/-- A context is left loaded with no program; one of a multi-rank slice is no longer pinned (02_programming_model.md R64). -/
def Dev.unload (d : Dev) (ctx : Nat) : Dev :=
  let d1 := d.setCtx ctx { d.ctx ctx with prog := .none_, saved := none, lastProg := 0 }
  if d.multiRank ctx && d.isResident ctx then d1.setPart (ctx / 16) { d.part (ctx / 16) with resident := none, switchTo := none } else d1

def resumeLimit (cfg : Nat) : Nat := bits cfg 27 24
def autoResume (cfg : Nat) : Bool := bit cfg 28

/-- A slice's state in the manager's record changes, and its functions hold the event (R296, 12_rennet.md R365 bit 3). -/
def Dev.sliceState (d : Dev) (id st : Nat) : Dev :=
  let d1 := { d with fm := { d.fm with slices := d.fm.slices.map (fun x => if x.id = id then { x with st := st } else x) } }
  (d.sliceCtxs id).foldl (fun d c => d.event 3 (some (c / 16))) d1

/-- The usable entries of a slice's ranks on this chip, and the highest common step. -/
def Dev.sliceSteps (d : Dev) (ctxs : List Nat) : Dev × List (List Nat) :=
  ctxs.foldl (fun acc c =>
    let u := acc.1.usable c
    (u.1, acc.2 ++ [u.2.map (fun e => e.1)])) (d, [])

/-- Each rank here is reloaded at a step; false when some entry fails. -/
def Dev.reloadAll (d : Dev) (ctxs : List Nat) (step : Nat) : Dev × Bool :=
  ctxs.foldl (fun acc c =>
    if acc.2 then acc.1.reload c step else acc) (d, true)

/-- What the slice's resume count becomes at a step. -/
def Ctx.resumedAt (c : Ctx) (step : Nat) : Ctx :=
  { c with lastStep := step, resumes := if c.lastStep = step ∧ c.resumes ≠ 0 then c.resumes + 1 else 1, lastProg := 0 }

/-- No program runs: the slice's contexts are left loaded with none, and its state is `st`. -/
def Dev.leaveUnloaded (d : Dev) (id : Nat) (ctxs : List Nat) (st : Nat) : Dev := (ctxs.foldl (fun d c => d.unload c) d).sliceState id st

/-- The resume of a slice whose member contexts are all here; false = no program runs (R424, R425). A reload that fails
aborts the slice again, its step barred, and the next common step is taken: two entries a rank, so at most twice. -/
def Dev.resumeHere (d : Dev) (id : Nat) (ctxs barred : List Nat) : Nat → Dev × Bool
  | 0 => (d.leaveUnloaded id ctxs 6, false)
  | fuel + 1 =>
    let x := d.sliceSteps ctxs
    match commonStep (x.2.map (fun l => l.filter (fun n => !barred.contains n))) with
    | none => (x.1.leaveUnloaded id ctxs 6, false)
    | some step =>
      let c0 := x.1.ctx (ctxs.headD 0)
      if c0.lastStep = step ∧ c0.resumes ≠ 0 ∧ resumeLimit d.rrc.cfg ≤ c0.resumes then
        ((x.1.raise (x.1.ctxMsg rrcSrc 0x68 0 0 (some (ctxs.headD 0)))).leaveUnloaded id ctxs 6, false)
      else
        let d1 := ctxs.foldl (fun d c => d.setCtx c ((d.ctx c).resumedAt step)) x.1
        let y := d1.reloadAll ctxs step
        if y.2 then
          (ctxs.foldl (fun d c => d.event 2 (some (c / 16))) (y.1.sliceState id 1), true)
        else
          let g := ((y.1.ctx (ctxs.headD 0)).gen + 1) % 4096
          let d2 := ctxs.foldl (fun d c => (d.advanceTo c g).unload c) y.1
          d2.resumeHere id ctxs (step :: barred) fuel

/-- A rank's line of a report to the manager (R423). -/
def Dev.rankReport (d : Dev) (ctx : Nat) : Dev × RankReport :=
  let u := d.usable ctx
  let p := d.part (ctx / 16)
  (u.1, { rank := (d.ctx ctx).rank, gen := (d.ctx ctx).gen,
          steps := (u.2.map (fun e => e.1)).filter (fun n => !(d.ctx ctx).barred.contains n), fenced := p.fewer,
          lost := p.grans.any (fun g => g.lost) })

/-- The report of every rank of a slice here. -/
def Dev.reportTeardown (d : Dev) (id : Nat) (ctxs : List Nat) : Dev :=
  let x := ctxs.foldl (fun acc c => let r := acc.1.rankReport c; (r.1, acc.2 ++ [r.2])) (d, [])
  x.1.send (.teardownReport d.fm.mgr id x.2)

/-! ## Answers of resets -/

/-- The payload of a finished reset's response, by the command that asked (12_rennet.md R367, R374). -/
def Dev.answerReset (d : Dev) (q : Option (Nat × Nat)) (ctx code level : Nat) : Dev :=
  match q with
  | none => d
  | some (f, key) =>
    let op := leAt (d.mbx f key).msg 0 2
    let code := if code = 0 ∧ leAt (d.mbx f key).msg 8 1 < level ∧ op = 0x0801 then rDegraded
      else if code = 0 ∧ 0 < level ∧ op = 0x0304 then rDegraded else code
    if code = rFailed then d.fail f key code 0
    else if op = 0x0304 then d.respond f key code (leBytes 2 (d.ctx ctx).gen ++ leBytes 1 level)
    else if op = 0x0801 then d.respond f key code (leBytes 1 level)
    else d.respond f key code []

/-- A context ends: its slot is free, its save area, spill run, segments and keep records go (02_programming_model.md R66, 12_rennet.md
R368, R372). -/
def Dev.removeCtx (d : Dev) (ctx : Nat) : Dev :=
  let p := ctx / 16
  let s := ctx % 16
  let id := (d.ctx ctx).sliceId
  let d2 := { d with ext := { d.ext with keeps := d.ext.keeps.filter (fun k => !(k.sliceId == id && k.rank == (d.ctx ctx).rank)) } }
  let d3 := d2.setPart p { d2.part p with resident := if (d2.part p).resident = some s then none else (d2.part p).resident }
  (d3.setCtx ctx Ctx.init).dropSliceKeys id [ctx]

/-- A group 0x06 command's answer, to a mailbox here or to the module that forwarded it (09_fabric_manager.md R271). -/
def Dev.reply6 (d : Dev) (w : WaitReq) (code : Nat) (payload : List Byte) : Dev :=
  match w.chip with
  | none => d.respond w.a w.b code payload
  | some c => d.send (.answer c d.fm.epoch w.a (rspBytes 0 code 0 payload))

/-- The manager's record of a slice goes, and the request that waits for its end is answered. -/
def Dev.closeSlice (d : Dev) (id : Nat) : Dev :=
  match d.fm.slices.find? (fun x => x.id == id) with
  | none => d
  | some x =>
    let d1 := { d with fm := { d.fm with slices := d.fm.slices.filter (fun y => y.id != id) } }
    match x.waiter with
    | some w => d1.reply6 w 0 []
    | none => d1

/-- They are removed: descriptor, exceptions, stop bits, and the tree entries and groups that no other slice of the same
first partition uses (12_rennet.md R372). -/
def Dev.dropTables (d : Dev) (id : Nat) : Dev :=
  let ns := d.sliceNis id
  let heads := (ns.map (fun e => sdPlist ((d.ni e.1).slice e.2) 0)).dedup
  let d1 := ns.foldl (fun d e =>
    let x := d.ni e.1
    d.setNi e.1 { x with slices := smSet 0 x.slices e.2 0, exc := x.exc.filter (fun y => y.1 / 256 != e.2),
                         stop := x.stop &&& ~~~(BitVec.ofNat 16 (2 ^ e.2)) }) d
  let left (h : Nat) : Bool := d1.nis.any (fun e => e.2.slices.any (fun s => sdValid s.2.toNat && sdPlist s.2.toNat 0 == h))
  let gone := heads.filter (fun h => !left h)
  { d1 with trees := d1.trees.filter (fun e => !gone.contains (e.1 % 1024 / 16)),
            mesh := { d1.mesh with
              toGroups := d1.mesh.toGroups.filter (fun e => !gone.contains (grpOwner e.2.toNat / 16)) ++
                (((d1.mesh.groups.filter (fun e => !grpMgmt e.2.toNat && gone.contains (grpOwner e.2.toNat / 16))).map
                  (fun e => e.1 % 256)).dedup).map (fun g => (g, 0)) } }

/-! ## Moving a rank on the chip (R44, 09_fabric_manager.md R284, 10_memory.md R307, R319) -/

/-- A slot is free: no context is in it and no slice has reserved it. -/
def Dev.slotFree (d : Dev) (p s : Nat) : Bool := !(d.ctx (16 * p + s)).live && !sdValid ((d.ctxNi (16 * p + s)).slice s)

/-- A partition that can take in another's memory: of its size and confidential state, in service and empty. -/
def Dev.spareFor (d : Dev) (p q : Nat) : Bool :=
  let a := d.part p
  let b := d.part q
  q != p && b.st == 1 && b.psize == a.psize && b.conf == a.conf && !b.fewer && b.grans.isEmpty &&
    (List.range 16).all (fun s => !(d.ctx (16 * q + s)).live)

/-- Where a rank on this chip moves to: a partition of its quadrant before one of another, its own slot before the lowest
free one. -/
def Dev.movePlace (d : Dev) (ctx : Nat) : Option Nat :=
  let p := ctx / 16
  let pick (q : Nat) : Option Nat :=
    if d.slotFree q (ctx % 16) then some (16 * q + ctx % 16)
    else ((List.range 16).find? (d.slotFree q)).map (fun s => 16 * q + s)
  if (List.range 16).any (fun s => s != ctx % 16 && (d.ctx (16 * p + s)).live) then none
  else
    let ps := (List.range 64).filter (d.spareFor p)
    (ps.filter (fun q => q / 16 == p / 16) ++ ps.filter (fun q => q / 16 != p / 16)).findSome? pick

/-- The rank's memory and registers move: keep segments as they stand, the others filled with zero. -/
def Dev.moveCtx (d : Dev) (ctx dst : Nat) : Dev :=
  let p := ctx / 16
  let q := dst / 16
  let c := d.ctx ctx
  let a := d.part p
  let b := d.part q
  let d1 := (d.setPart q { b with
    grans := a.grans, local_ := a.local_, home := a.home,
    resident := if a.resident = some (ctx % 16) then some (dst % 16) else none }).setPart p { a with grans := [], resident := none }
  let d2 := (d1.setCtx dst c).setCtx ctx Ctx.init
  let d3 := { d2 with
    lastGen := smSet 0 d2.lastGen dst c.gen
    ext := { d2.ext with keeps := d2.ext.keeps.map (fun (k : KeepRec) =>
      if k.sliceId = c.sliceId ∧ k.rank = c.rank then { k with part := q } else k) }
    sec := { d2.sec with models := d2.sec.models.map (fun (k : ModelKey) => if k.part = p then { k with part := q } else k) } }
  c.segs.foldl (fun d e => if e.2.valid && !e.2.keep then d.fillPages q e.2.page e.2.pages else d) d3

/-- An exception entry for a rank is written over its earlier one or after the last, in every NI of the slice here. -/
def excWord (rank chip part slot : Nat) : BitVec 64 :=
  BitVec.ofNat 64 (rank + chip * 2 ^ 20 + part * 2 ^ 34 + slot * 2 ^ 40 + 2 ^ 63)

def NI.putExc (n : NI) (slot rank : Nat) (w : BitVec 64) : NI :=
  let x := n.slice slot
  let i := ((List.range (sdXcount x)).find? (fun i => bits (smGet 0 n.exc (256 * slot + i)).toNat 19 0 == rank)).getD (sdXcount x)
  { n with exc := smSet 0 n.exc (256 * slot + i) w,
           slices := smSet 0 n.slices slot (BitVec.ofNat 256 (setBits x 57 49 (max (sdXcount x) (i + 1)))) }

/-- The manager's exceptions of a slice with one for a rank: over its earlier one or after the last. -/
def putExc (l : List (Nat × Nat × Nat × Nat)) (e : Nat × Nat × Nat × Nat) : List (Nat × Nat × Nat × Nat) :=
  if l.any (fun q => q.1 == e.1) then l.map (fun q => if q.1 = e.1 then e else q) else l ++ [e]

/-- A rank moves to another partition of this chip; none = no place, or no exception entry left. -/
def Dev.moveRank (d : Dev) (ctx : Nat) : Option (Dev × Nat) :=
  let n := d.ctxNi ctx
  match d.movePlace ctx with
  | none => none
  | some dst =>
    if 256 ≤ sdXcount (n.slice (ctx % 16)) then none
    else
      let id := (d.ctx ctx).sliceId
      let w := excWord (d.ctx ctx).rank n.ownChip (dst / 16) (dst % 16)
      let d1 := (d.partNodes (dst / 16)).foldl (fun d v =>
        let x := d.ni v
        d.setNi v { x with slices := smSet 0 x.slices (dst % 16) (smGet 0 n.slices (ctx % 16)),
                           exc := x.exc ++ (n.exc.filter (fun e => e.1 / 256 == ctx % 16)).map
                             (fun e => (256 * (dst % 16) + e.1 % 256, e.2)) }) d
      let d2 := (d1.sliceNis id).foldl (fun d e => d.setNi e.1 ((d.ni e.1).putExc e.2 (d1.ctx ctx).rank w)) d1
      let e := ((d1.ctx ctx).rank, n.ownChip, dst / 16, dst % 16)
      let d3 := { d2 with fm := { d2.fm with slices := d2.fm.slices.map (fun (x : SliceRec) => if x.id = id then { x with exc := putExc x.exc e } else x) } }
      some (d3.moveCtx ctx dst, dst)

/-- Every rank of a slice here whose partition has lost a vat is moved; false when one finds no place. -/
def Dev.moveFewer (d : Dev) (ctxs : List Nat) : Dev × Bool :=
  ctxs.foldl (fun acc c =>
    if !acc.2 || !(acc.1.part (c / 16)).fewer then acc
    else
      match acc.1.moveRank c with
      | some r => (r.1, true)
      | none => (acc.1, false)) (d, true)

/-! ## The end of a teardown -/

/-- Fences that waited for the contexts of a partition are put in place (R412, R416). -/
def Dev.doFences (d : Dev) (p : Nat) : Dev :=
  let us := (d.part p).fenceAfter
  us.foldl (fun d u => d.fenceUnit u) (d.setPart p { d.part p with fenceAfter := [] })

/-- Resets of a context or its partition still under way. -/
def Dev.resetting (d : Dev) (m : FltMsg) : Bool :=
  (match m.ctx with
   | some x => (d.ctx x).tear.isSome || (d.part (x / 16)).st == 3
   | none => false) ||
  (if m.src < 0x120 then
    (match d.partOf m.src with
     | some p => (d.part p).st == 3 || (match (d.part p).resident with | some s => (d.ctx (16 * p + s)).tear.isSome | none => false)
     | none => false)
   else if 0x400 ≤ m.src ∧ m.src < 0x800 then (d.ctx (m.src - 0x400)).tear.isSome
   else false)

/-- The entry's kind is cleared only when its condition ends (15_faults_cave.md R441, R447). -/
def stickyKind (k : Nat) : Bool := k == 0x67 || k == 0xA1

/-- Entries whose action has completed; an acknowledged one that is not sticky is cleared (15_faults_cave.md R447, R451). -/
def Dev.settleFaults (d : Dev) : Dev :=
  let ends (e : FltEntry) : Bool := !e.actionDone && !d.resetting e.m
  let n := (d.flt.list.filter (fun e => ends e && e.ack && !e.cleared && !stickyKind e.m.kind)).length
  let d1 := { d with flt := { d.flt with list := d.flt.list.map (fun e =>
      if ends e then { e with actionDone := true, cleared := e.cleared || (e.ack && !stickyKind e.m.kind) } else e) } }
  if n = 0 then d1 else d1.caveClear n d.flt.recoveries 1

/-- SLICE_DESTROY as a message: a slice destroyed with its context ends at the manager too (12_rennet.md R368). -/
def destroyReq (id : Nat) : List Byte := leBytes 2 0x0602 ++ leBytes 6 0 ++ leBytes 4 id

/-- All member contexts of a slice here have been torn down: the slice is destroyed, reported or resumed; the requester
is answered. `t` is the teardown that ended last. -/
def Dev.afterTear (d : Dev) (ctx : Nat) (t : Teardown) : Dev :=
  let id := (d.ctx ctx).sliceId
  let ctxs := d.sliceCtxs id
  if ctxs.any (fun c => (d.ctx c).tear.isSome) then d.answerReset t.req ctx 0 t.level
  else if t.destroy then
    let d1 := (ctxs.foldl (fun d c => d.removeCtx c) (d.dropTables id)).closeSlice id
    let d2 := if (d.fm.role = 1 ∨ d.fm.role = 2) ∧ d.fm.placed then d1.send (.request d.fm.mgr d.fm.epoch (256 * nobody) (destroyReq id)) else d1
    (d2.answerReq t.req 0 []).settleFaults
  else if d.multiChip ctx then
    ((d.reportTeardown id ctxs).answerReset t.req ctx 0 t.level).settleFaults
  else
    let m := if d.multiRank ctx then d.moveFewer ctxs else (d, ctxs.all (fun c => !(d.part (c / 16)).fewer))
    let cs := m.1.sliceCtxs id
    if !m.2 then
      ((m.1.leaveUnloaded id cs (if d.multiRank ctx then 6 else 1)).answerReset t.req ctx 0 t.level).settleFaults
    else if t.clear || (!t.resume && !autoResume d.rrc.cfg) then
      ((m.1.leaveUnloaded id cs 1).answerReset t.req ctx 0 t.level).settleFaults
    else
      let r := m.1.resumeHere id cs [] 3
      (r.1.answerReset t.req ctx (if r.2 || !t.resume then 0 else rFailed) t.level).settleFaults

/-- Step 4 and 5 of a context's teardown. -/
def Dev.finishTear (d : Dev) (ctx : Nat) : Dev :=
  match (d.ctx ctx).tear with
  | none => d
  | some t => ((d.advance ctx).doFences (ctx / 16)).afterTear ctx t

/-- The reset controller's record of the last reset (R434). -/
def Dev.noteReset (d : Dev) (level cause : Nat) (esc : Bool) : Dev :=
  { d with rrc := { d.rrc with lastLevel := level, lastCause := cause, escalated := esc } }

/-- Step 1 for one context. A context that is not resident has no engine involved: its generation advances at once
(02_programming_model.md R66). -/
def Dev.tearDown (d : Dev) (ctx : Nat) (t : Teardown) : Dev :=
  let c := d.ctx ctx
  if !c.live then d
  else
    match c.tear with
    | some u =>
      d.setCtx ctx { c with tear := some { u with req := if u.req.isNone then t.req else u.req, resume := u.resume || t.resume,
                                                  clear := u.clear || t.clear, destroy := u.destroy || t.destroy } }
    | none =>
      if d.isResident ctx then
        let units := d.busyUnits ctx
        let d1 := ((d.partNodes (ctx / 16)).foldl (fun d n => d.dropVat ctx n) d).dropColl ctx
        let d2 := d1.setPart (ctx / 16) { d1.part (ctx / 16) with switchTo := none }
        d2.setCtx ctx { d2.ctx ctx with tear := some { t with waitUnits := units } }
      else (d.setCtx ctx { c with tear := some t, saved := none }).finishTear ctx

/-- A teardown as it starts. -/
def newTear (cause : Nat) (resume clear destroy : Bool) (req : Option (Nat × Nat)) : Teardown :=
  { cause := cause, waitUnits := [], resume := resume, clear := clear, req := req, level := 0, destroy := destroy }

/-! ## The slice abort (R421, R422) -/

/-- UP ports that lead to another member chip of the slice. -/
def Dev.memberPorts (d : Dev) (ctx : Nat) : List Nat :=
  let n := d.ctxNi ctx
  (List.range 16).filter (fun p =>
    (d.port p).st == 2 && (d.port p).peerValid && (d.port p).peerChip != n.ownChip &&
      (inSlice n.cfg (n.slice (ctx % 16)) (d.port p).peerChip ||
        (smGetList 0 n.exc (256 * (ctx % 16)) (sdXcount (n.slice (ctx % 16)))).any (fun e => bits e.toNat 33 20 == (d.port p).peerChip)))

/-- The abort of a slice's generation has been acted on. -/
def Dev.noteAbort (d : Dev) (id gen : Nat) : Dev :=
  { d with fm := { d.fm with seenAborts := d.fm.seenAborts.filter (fun e => e.1 != id) ++ [(id, gen)] } }

/-- An abort is acted on once: every member context here is torn down, and the abort goes on. -/
def Dev.abortSlice (d : Dev) (ctx : Nat) (m : AbortMsg) (from_ : Option Nat) (t : Teardown) : Dev :=
  if d.fm.seenAborts.contains (m.sliceId, m.gen) then d.tearDown ctx t
  else
    let d1 := d.noteAbort m.sliceId m.gen
    let d2 := ((d.memberPorts ctx).filter (fun p => some p != from_)).foldl (fun d p => d.send (.sliceAbort p m)) d1
    let d3 := if from_.isNone ∧ d.multiChip ctx then d2.send (.abortTo d.fm.mgr m) else d2
    (d.sliceCtxs m.sliceId).foldl (fun d c => d.tearDown c (if c = ctx then t else { t with req := none })) d3

/-- A context reset: of a member of a multi-rank slice, the slice-wide abort (R47, R412). -/
def Dev.resetCtx (d : Dev) (ctx : Nat) (t : Teardown) : Dev :=
  let c := d.ctx ctx
  if !c.live then d
  else
    let d1 := (d.noteReset 0 t.cause false).sliceState c.sliceId 5
    if d.multiRank ctx && c.tear.isNone then
      d1.abortSlice ctx { sliceId := c.sliceId, gen := c.gen, origin := d.fm.chip, cause := t.cause } none t
    else d1.tearDown ctx t

/-! ## Engine and partition resets (R415, R416) -/

/-- Contexts whose work a unit holds: the one resident on its vat; of a port engine, those whose trees it combines. -/
def Dev.unitCtxs (d : Dev) (u : Nat) : List Nat :=
  if 0x9000 ≤ u then
    ((List.range 64).filterMap (fun p => (d.part p).resident.map (fun s => 16 * p + s))).filter (fun c =>
      (List.range 16).any (fun t =>
        let e := d.tree (0x140 + (u - 0x9000)) (16 * d.sliceHead c + t)
        teValid e && teEngine e == u - 0x9000 && teGen e == (d.ctx c).gen))
  else
    match d.ctxOf (u / 128) with
    | some c => [c]
    | none => []

/-- An engine reset starts (R415). -/
def Dev.engineReset (d : Dev) (u cause : Nat) (req : Option (Nat × Nat)) : Dev :=
  let d1 := (d.unitCtxs u).foldl (fun d c => d.resetCtx c (newTear cause false false false none)) d
  { d1 with rrc := { d1.rrc with
      lastLevel := 1, lastCause := cause, escalated := false,
      engineWait := if d1.rrc.engineWait.contains u then d1.rrc.engineWait else d1.rrc.engineWait ++ [u],
      engineReq := match req with | some r => d1.rrc.engineReq ++ [(u, r.1, r.2)] | none => d1.rrc.engineReq } }

/-- A tree node's copy of the tree table is at its reset value (08_collectives.md R247). -/
def Dev.clearTrees (d : Dev) (u : Nat) : Dev := { d with trees := d.trees.filter (fun e => e.1 / 1024 != u) }

/-- The engine returns to its reset state. -/
def Dev.clearUnit (d : Dev) (u : Nat) : Dev :=
  if 0x9000 ≤ u then
    (let p := u - 0x9000
     let d1 := d.portFails p
     (d1.setUnit (0x140 + p) CollUnit.init).clearTrees (0x140 + p))
  else
    let n := u / 128
    let i := u % 128
    if i < 68 then d.setCurd (curdKey n i) (d.curd (curdKey n i)).idled
    else if 0x50 ≤ i ∧ i < 0x54 then d.setDmaCh n (i - 0x50) { DmaCh.init with nextId := (d.dmaCh n (i - 0x50)).nextId }
    else if i = unitRu then (d.setUnit n CollUnit.init).clearTrees n
    else d

/-- The NI of a vat after a partition reset: every tag released, its tables kept. -/
def NI.purged (n : NI) : NI :=
  { NI.init with slices := n.slices, exc := n.exc, detour := n.detour, routeCfg := n.routeCfg, stop := n.stop,
                 linkKeys := n.linkKeys, allow := n.allow, marks := n.marks, refused := n.refused, reissued := n.reissued,
                 timeouts := n.timeouts, duplicates := n.duplicates, heldCount := n.heldCount }

/-- Every engine of a vat is reset, with no wait for work in flight. -/
def Dev.purgeVat (d : Dev) (node : Nat) : Dev :=
  let d1 := (List.range 68).foldl (fun d s => d.setCurd (curdKey node s) (d.curd (curdKey node s)).idled) d
  let v := d1.vat node
  let d2 := d1.setVat node { v with rq := [], dma := v.dma.map (fun e => (e.1, { DmaCh.init with nextId := e.2.nextId })) }
  let d3 := (d2.setNi node (d2.ni node).purged).setUnit node CollUnit.init
  [0, 1, 2, 3, 4].foldl (fun d u => d.setCvu u ((d.cvu u).dropNode node)) d3

/-- A partition reset starts: its vats' reset agents are to confirm. `esc`: it replaces a lower reset. -/
def Dev.partReset (d : Dev) (p cause : Nat) (esc : Bool) (req : Option (Nat × Nat)) : Dev :=
  let q := d.part p
  if q.st = 0 then d
  else if q.st = 3 then d.setPart p { q with resetWait := if q.resetWait.isNone then req else q.resetWait }
  else
    let d1 := match q.resident with
      | some s => d.resetCtx (16 * p + s) (newTear cause false false false none)
      | none => d
    let nodes := d.partNodes p
    let d2 := (nodes.foldl (fun d n => d.purgeVat n) d1).noteReset 2 cause esc
    let inq := (List.range 32).foldl (fun d c =>
      let x := d.chan c
      d.setChan c { x with inq := x.inq.filter (fun f => !(f.ctx.toNat / 16 == p && some (f.ctx.toNat % 16) == q.resident)) }) d2
    let d3 := match q.resident with
      | some s =>
        let c := inq.ctx (16 * p + s)
        inq.setCtx (16 * p + s) { c with tear := c.tear.map (fun (t : Teardown) => { t with level := 2, waitUnits := [] }) }
      | none => inq
    let units := nodes.map (fun n => vatUnit n unitControl)
    let wait := d3.rrc.engineWait.filter (fun u => !nodes.contains (u / 128)) ++ units
    let d4 := d3.setPart p { d3.part p with st := 3, resetWait := req, switchTo := none }
    { d4 with rrc := { d4.rrc with engineWait := wait } }

/-- A partition becomes FREE: its keys are destroyed, and its granules' bands return to the free pool (10_memory.md R320). -/
def Dev.freePart (d : Dev) (p : Nat) : Dev :=
  let q := d.part p
  let d1 := (q.grans.flatMap (fun g => g.bands)).foldl (fun d e =>
    d.setChan e.1 { d.chan e.1 with bands := (d.chan e.1).bands.erase e.2 }) (d.dropKeys p)
  d1.setPart p Part.init

/-- Every reset agent of the partition has confirmed: its contexts advance, and it is back in service, or FREE where a
scrub of PART_DESTROY ended meanwhile. -/
def Dev.endPartReset (d : Dev) (p : Nat) : Dev :=
  let q := d.part p
  let d1 := d.setPart p { q with st := if q.scrub then 2 else 1, resetWait := none }
  let d2 := match q.resident with
    | some s => if (d1.ctx (16 * p + s)).tear.isSome then d1.finishTear (16 * p + s) else d1.doFences p
    | none => d1.doFences p
  let d3 := match q.resetWait with
    | some (f, key) => d2.answerReset (some (f, key)) (16 * p + q.resident.getD 0) 0 2
    | none => d2
  (if q.destroying && !q.scrub then d3.freePart p else d3).settleFaults

end Sys2Proof.Machine
end

