-- ==== Sys2Proof/Machine/ChipReset.lean ====
section
/-! DEFINITION. The reset of a mailbox receiver, what waits for a channel, and the chip reset (11_host_mailboxes.md R332,
R342, R353, R354, 14_recovery.md R413, R417-R419, R429, 18_module.md R511, 00_scope.md R10). -/

namespace Sys2Proof.Machine

/-- Every listed entry changed alike. -/
def smMap {α : Type} [DecidableEq α] (d : α) (f : α → α) (m : SMap α) : SMap α :=
  (m.map (fun e => (e.1, f e.2))).filter (fun e => e.2 != d)

/-! ## Receivers (R333, R345, R353) -/

/-- The functions of the part: the physical one and one for each partition (11_host_mailboxes.md R330). -/
def Dev.funcIds (d : Dev) : List Nat := List.range (16 * d.sec.fuses.variant + 1)

/-- The mailbox keys of a receiver's channels at a function. -/
def chanKeys (sec : Bool) (f : Nat) : List Nat :=
  if sec then (if f = 0 then [8, 9, 10, 11] else []) else (if f = 0 then List.range 8 else [0, 1])

/-- A channel at a receiver's reset: ABORTED for a message taken, and for a queued one unless it stays for a new primary. -/
def Mbx.aborted (m : Mbx) (keepQueue : Bool) : Mbx :=
  let m0 := { m with orphan := none, begun := false }
  if m.st = 2 ∨ (m.st = 1 ∧ keepQueue = false) then
    { m0 with ack := BitVec.ofNat 32 (m.seq + 0x3F * 2 ^ 16 + 2 ^ 31), st := 0 }
  else m0

/-- A receiver resets; `failover` keeps recv_up and the queue (R353, R354). -/
def Dev.recvReset (d : Dev) (sec failover : Bool) : Dev :=
  let d1 := d.forget (fun f k => (d.mbx f k).st == 2 && (8 ≤ k) == sec)
  let up := d.host
  let d2 := { d1 with host := { d1.host with recvUp := up.recvUp && (sec || failover), recvUpSec := up.recvUpSec && (!sec || failover) } }
  d.funcIds.foldl (fun d f =>
    (chanKeys sec f).foldl (fun d k => (d.setMbx f k ((d.mbx f k).aborted failover)).doorbell f k 0x80000000) d) d2

/-! ## Host DMA at a reset (R332, R342) -/

/-- The status word of a descriptor in its ring (R339). -/
def Dev.hdmaStatusAddr (d : Dev) (r : HdmaRun) : Nat := bits (d.func r.func).ring 63 12 * 4096 + 64 * r.index + 0x18

/-- Every descriptor taken and not completed ends with ABORTED; queues stop. -/
def Dev.hdmaAbortAll (d : Dev) : Dev :=
  let d1 := d.host.engines.foldl (fun d e =>
    match e.2 with
    | some r => d.hostWrite (d.hdmaStatusAddr r) (leBytes 4 (0x3F + 2 ^ 8))
    | none => d) d
  let d2 := { d1 with host := { d1.host with engines := [] } }
  d.funcIds.foldl (fun d f =>
    d.setFunc f { d.func f with enable := false, lastCode := 0, winErr := 0, hdmaFail := [],
                                mbx := (d.func f).mbx.map (fun e => (e.1, { e.2 with raise := 0 })) }) d2

/-- The host node at a chip reset: its descriptors and window requests end (R332, R336, R342). -/
def Dev.hostReset (d : Dev) : Dev := d.hdmaAbortAll.winAbortAll

/-! ## The chip reset (R417) -/

/-- Contexts whose work a chip reset ends: resident ones, those being torn down, members of multi-rank slices. -/
def Dev.chipTorn (d : Dev) : List Nat :=
  (d.ctxs.filter (fun e => e.2.live && (d.isResident e.1 || e.2.tear.isSome || d.multiRank e.1))).map (fun e => e.1)

/-- Step 1: an abort for every multi-rank slice with a member here. -/
def Dev.chipAborts (d : Dev) (cause : Nat) : Dev :=
  d.chipTorn.foldl (fun d c =>
    let x := d.ctx c
    if d.multiRank c && !d.fm.seenAborts.contains (x.sliceId, x.gen) then
      (let m : AbortMsg := { sliceId := x.sliceId, gen := x.gen, origin := d.fm.chip, cause := cause }
       let d1 := d.noteAbort x.sliceId x.gen
       let d2 := (d.memberPorts c).foldl (fun d p => d.send (.sliceAbort p m)) d1
       if d.multiChip c then d2.send (.abortTo d.fm.mgr m) else d2)
    else d) d

/-- A torn-down context at a chip reset takes generation `g`; one being destroyed or cleared ends so. -/
def Dev.chipAdvance (d : Dev) (c g : Nat) : Dev :=
  let t := (d.ctx c).tear
  let d1 := d.advanceTo c g
  let d2 := d1.setCtx c { d1.ctx c with saved := none, cut := (d1.ctx c).prog == .started }
  match t with
  | some x =>
    if x.destroy then
      (let id := (d.ctx c).sliceId
       ((d2.dropTables id).removeCtx c).closeSlice id)
    else if x.clear || (d.ctx c).prog == .loaded then d2.unload c
    else d2
  | none => if (d.ctx c).prog == .loaded then d2.unload c else d2

/-- A curd after a chip reset: idle, its counters and flip registers as reset, its memories left for the fill of S6. -/
def Curd.chipReset (c : Curd) : Curd :=
  { c.idled with ldmEcc := Ecc.init, isEcc := Ecc.init, ldmFlip := Flip.init, isFlip := Flip.init }

def Vat.chipReset (v : Vat) : Vat :=
  { v with vsEcc := Ecc.init, vsFlip := Flip.init, rq := [], dma := [], bc := Bcast.init, reserve := 0, base := [] }

/-- An NI keeps its slice descriptors, exception entries and link keys (R419, 13_security.md R381). -/
def NI.chipReset (n : NI) : NI := { NI.init with slices := n.slices, exc := n.exc, linkKeys := n.linkKeys }

/-- A port comes out of a chip reset DOWN, with no settings in force but those of the configuration store. -/
def Port.chipReset (x : Port) : Port := { Port.init with st := if x.st = 3 then 3 else 0 }

/-- A memory controller keeps what the memory holds and which units are judged failed; its counts restart. -/
def Chan.chipReset (c : Chan) : Chan :=
  { c with errC := 0, errU := 0, errF := 0, errI := 0, flows := [], inq := [], heldReqs := [], retraining := false }

/-- A partition: a reset under way joins; a scrub goes on. -/
def Part.chipReset (p : Part) : Part :=
  { p with st := if p.st = 3 then (if p.scrub then 2 else 1) else p.st, switchTo := none, resetWait := none }

/-- The fabric manager agent's state after a chip reset; a module alone in its fabric keeps its slices. -/
def FM.chipReset (x : FM) : FM :=
  let alone := decide (x.modules.length ≤ 1)
  { x with role := 0, epoch := 0, mgr := 0, placed := false, key1 := none, key2 := none, relay := 0, unmanaged := false,
           neigh := [], control := false, acks := [], standby := none, mirror := none, syncWait := false, relays := [], silent := [],
           modules := if alone then x.modules else [], slices := if alone then x.slices else [], listed := [],
           waiting := [], handover := none, held := [], draining := [], installWait := [] }

def Rrc.chipReset (x : Rrc) (cause stamp : Nat) (count : Bool) : Rrc :=
  { x with lastLevel := 3, lastCause := cause, resets := if count then x.resets ++ [stamp] else x.resets, standbyOk := false,
           selftest := none, passes := 0, engineWait := [], engineReq := [] }

/-- BOOT_STAGE after a chip reset: its reset values; the kind of a start cut short is kept for S0 to repeat (R463, R465). -/
def Boot.chipReset (b : Boot) (now : Nat) : Boot :=
  { b with stage := 0, kind := 2, cut := if b.kind = 2 then b.cut else some b.kind, failed := false, stepNo := 0, error := 0, progress := 0,
           startAt := now, stageAt := now, elapsed := 0, running := true, chipResetting := true, degraded := false,
           noCopy := [], lateRelease := false }

/-- The side-band registers that a chip reset returns to their Reset column (R10, 18_module.md R514-R517); the bytes already
at SB_FW_DATA count for nothing once open is 0. -/
def SideBand.chipReset (s : SideBand) : SideBand :=
  { s with caveSel := 0, fwComp := 0, fwOpen := false, fwLength := 0, fwResult := 0, fwBusy := false, fwData := [] }

/-- The blocks on the core rail and the synchronous islands. -/
def Dev.coreReset (d : Dev) : Dev :=
  let d1 := { d with
    curds := smMap Curd.init Curd.chipReset d.curds, vats := smMap Vat.init Vat.chipReset d.vats,
    nis := smMap NI.init NI.chipReset d.nis, mesh := Mesh.init, ports := smMap Port.init Port.chipReset d.ports,
    coll := [], cv := [], ext := { d.ext with chans := smMap Chan.init Chan.chipReset d.ext.chans },
    parts := smMap Part.init Part.chipReset d.parts }
  d1.cfgAtReset

/-- A chip reset; one that meets another whose start has not begun joins it (R413). It needs the island rail only, so it works
while the core rail is off (01_architecture.md R25); with main power gone there is nothing left to reset. `count`: it adds to the chip-reset
count (R429). -/
def Dev.chipReset (d : Dev) (cause : Nat) (count esc : Bool) : Dev :=
  if d.boot.chipResetting || !d.pwr.islandUp || !d.pwr.ioUp then d
  else
    let d1 := (d.chipAborts cause).hostReset
    let d2 := d1.chipTorn.foldl (fun d c => d.chipAdvance c (((d1.ctx c).gen + 1) % 4096)) d1
    let d3 := (d2.recvReset false false).recvReset true false
    let d4 := d3.coreReset
    let d5 := { d4 with fm := d4.fm.chipReset, rrc := { d4.rrc.chipReset cause d4.opSec count with escalated := esc },
                        cfg := { d4.cfg with staged := [], stageCount := 0 }, sec := { d4.sec with debugScope := 0, jtag := if d4.sec.jtag = JtagOp.internal then JtagOp.bypass else d4.sec.jtag },
                        boot := d4.boot.chipReset d4.timer.toNat, sb := d4.sb.chipReset }
    let d6 := ((List.range 64).foldl (fun d p => d.doFences p) d5).settleFaults
    if d.boot.stage ≠ 0 ∨ d.boot.failed then d6.sbAlert 0 else d6

/-- Chip resets of the last oos_hours operating hours (R429). -/
def Dev.recentResets (d : Dev) : Nat := (d.rrc.resets.filter (fun t => d.opSec - t ≤ bits d.rrc.cfg 23 16 * 3600)).length

/-! ## The power cycle (R418, 18_module.md R511) -/

/-- PWRCYC_REQ_N goes low. -/
def Dev.assertPwrcyc (d : Dev) : Dev :=
  if d.pwr.pwrcyc then d else { d with pwr := { d.pwr with pwrcyc := true }, rrc := { d.rrc with pwrcycWanted := false } }.sbAlert 4

/-- A power cycle is requested once the cave is flushed; a cave that runs from RAM only has nothing to flush. -/
def Dev.askPowerCycle (d : Dev) (cause : Nat) : Dev :=
  let d1 := { d with rrc := { d.rrc with pwrcycWanted := true, lastLevel := 4, lastCause := cause } }
  if d.cave.store = 2 then d1.assertPwrcyc else { d1 with cave := { d1.cave with due := true } }

end Sys2Proof.Machine
end

