-- ==== Sys2Proof/Machine/Dma.lean ====
section
/-! DEFINITION. The DMA channel's rows, and the block a check-value unit accepts (05_local_memory.md R156-R169,
15_faults_cave.md R459). -/

namespace Sys2Proof.Machine

/-- The partition of a vat lets its engines start new work: no context switch and no teardown is under way (R65). -/
def Dev.mayStart (d : Dev) (node : Nat) : Bool :=
  match d.ctxOf node with
  | some x => (d.part (x / 16)).switchTo.isNone && (d.ctx x).tear.isNone
  | none => false

/-- DMA_DESCRIPTOR_START: the next queued descriptor is taken and checked, once the previous ones have issued their last
reads (R156, R161); with both check-value units fenced it cannot have a check value (15_faults_cave.md R461). -/
def doDmaDescriptorStart (d : Dev) (node chan : Nat) : Dev :=
  let ch := d.dmaCh node chan
  match ch.queue with
  | [] => d
  | x :: rest =>
    if !d.mayStart node || !ch.runs.all DmaRun.readAll then d
    else
      let r0 : DmaRun := { id := ch.nextId, d := x, off := 0, rd := 0, wr := 0, segs := [], landed := 0, code := 0,
                           stopped := false }
      let r := if !d.dmaOk node x then r0.fail 0x03
        else if x.poly ≠ 0 ∧ (d.cvFor node).isNone then r0.fail 0x09 else r0
      d.setDmaCh node chan { ch with queue := rest, runs := ch.runs ++ [r], nextId := ch.nextId + 1 }

def execDmaDescriptorStart (node chan : Nat) (s : State) : Answer := s.next (doDmaDescriptorStart s.dev node chan)

/-- The destination of R59 that a descriptor writes to. -/
def Dev.dmaDest (d : Dev) (node : Nat) (x : DmaDesc) : Nat :=
  if x.dstLocal then d.localDest node x.slot x.dst else destKey (d.ctx (d.vatCtx node)).rank x.dst

/-- A failure record that a descriptor with the order flag meets at its destination (R162). -/
def Dev.dmaRefused (d : Dev) (node chan : Nat) (x : DmaDesc) : Bool :=
  x.order && !x.cvOnly && (d.ni node).failRec.contains (100 + chan, d.dmaDest node x)

/-- The free half of a channel's share, if no segment of another channel still uses bytes of the share (R157, R164). -/
def Dev.freeHalf (d : Dev) (node chan : Nat) : Option (Nat × Nat) :=
  let v := d.vat node
  let half := v.share chan / 2
  let at_ := v.shareAt chan
  let open_ (c : Nat) : List DmaSeg := (v.ch c).runs.flatMap (fun r => r.segs)
  if (List.range 4).any (fun c => c != chan && (open_ c).any (fun s => s.meets at_ (2 * half))) then none
  else ([at_, at_ + half].find? (fun x => !(open_ chan).any (fun s => s.meets x half))).map (fun x => (x, half))

/-- A new segment of a run, in staging bytes from `at_`. -/
def DmaRun.begin_ (r : DmaRun) (at_ half : Nat) : DmaRun :=
  let hi := min r.d.len (r.off + half)
  let n := hi - r.off
  { r with segs := r.segs ++ [{
      lo := r.off, hi := hi, at_ := at_, room := half, todo := if r.d.cvOnly then [] else r.d.writePieces r.off hi n, data := [],
      toRead := n, toWrite := if r.d.cvOnly then 0 else n, toTake := 0 }] }

/-- Every run of a channel sends what it can. -/
def Dev.dmaPushAll (d : Dev) (node chan : Nat) : Dev := (d.dmaCh node chan).runs.foldl (fun d r => d.dmaPush node chan r.id) d

/-- The descriptor being read goes on: its segment's reads, or a new segment, which needs half the share free, no switch or
teardown under way, and, with the order flag, every earlier write performed (R164, R165). -/
def Dev.dmaAdvance (d : Dev) (node chan : Nat) : Dev :=
  let ch := d.dmaCh node chan
  match ch.runs.find? (fun r => !r.readAll) with
  | none => d
  | some r =>
    if r.off < r.lim then d.dmaFill node chan r.id (r.lim - r.off)
    else if !d.mayStart node || (r.d.order && !ch.earlierDone r.id) then d
    else if r.off = 0 ∧ d.dmaRefused node chan r.d then
      let n := d.ni node
      (d.setNi node { n with failRec := n.failRec.filter (fun e => e != (100 + chan, d.dmaDest node r.d)) }).dmaFail node chan r 0x09 r.d.dst
    else
      match d.freeHalf node chan with
      | none => d
      | some h =>
        let r1 := r.begin_ h.1 h.2
        (d.setDmaCh node chan (ch.setRun r1)).dmaFill node chan r.id (r1.lim - r.off)

/-- DMA_SEGMENT: what has been read goes out, and the channel reads on. -/
def doDmaSegment (d : Dev) (node chan : Nat) : Dev := (d.dmaPushAll node chan).dmaAdvance node chan

def execDmaSegment (node chan : Nat) (s : State) : Answer := s.next (doDmaSegment s.dev node chan)

/-! ## Completion (R163, R166) -/

/-- The bytes a check-value unit holds of a descriptor, in transfer order. -/
def Dev.cvBytes (d : Dev) (o : CvOwner) (len : Nat) : List Byte :=
  match ([0, 1, 2, 3, 4].flatMap (fun u => (d.cvu u).streams)).find? (fun x => x.owner == o) with
  | some x => memRead x.data 0 len
  | none => List.replicate len 0

/-- A stream ends. -/
def Dev.cvDrop (d : Dev) (o : CvOwner) : Dev :=
  [0, 1, 2, 3, 4].foldl (fun d u => d.setCvu u { d.cvu u with streams := (d.cvu u).streams.filter (fun x => x.owner != o) }) d

/-- DMA_COMPLETE: the check value is written, the issuer's counter increased, the completion signal sent. -/
def doDmaComplete (d : Dev) (node chan run : Nat) : Dev :=
  let ch := d.dmaCh node chan
  match ch.runOf run with
  | none => d
  | some r =>
    let tag := d.dmaTag node chan
    if !r.drained || (r.d.order && !ch.earlierDone run) || (r.code == 0 && r.d.done != 0 && tag.isNone) ||
        (r.d.poly != 0 && !d.sideRoom node r.d.slot r.d.cvOut 8) then d
    else
      let own : CvOwner := .dma node chan run
      let w := if r.code = 0 ∧ r.d.poly ≠ 0 then
          d.localWrite node r.d.slot r.d.cvOut (leBytes 8 (crcValue r.d.poly r.d.fold (d.cvBytes own r.d.len)))
        else (d, true)
      let code := if r.code ≠ 0 then r.code else if w.2 then 0 else 0x09
      let ch1 := w.1.dmaCh node chan
      let d1 := (w.1.setDmaCh node chan { ch1 with runs := ch1.runs.filter (fun x => x.id != run),
                                                   lastCode := if code = 0 then ch1.lastCode else code }).cvDrop own
      let d2 := d1.completeOp node r.d.slot r.d.k code
      let d3 := if code = 0x03 ∧ r.off = 0 then d2.logAccess node (unitDma chan) r.d.src else d2
      let d4 := match tag with
        | some t =>
          if code = 0 ∧ r.d.done ≠ 0 then
            d3.submitChecked node (d3.vatCtx node) t (.dmaSig chan)
              { request tSig true 0 0 [] with addr := BitVec.ofNat 48 r.d.doneCtr } r.d.done (100 + chan) 0
          else d3
        | none => d3
      d4.checkDoneAt node

def execDmaComplete (node chan run : Nat) (s : State) : Answer := s.next (doDmaComplete s.dev node chan run)

/-! ## CV_BLOCK (15_faults_cave.md R459) -/

/-- A unit's streams with a block combined by its offset. -/
def cvMerge (l : List CvStream) (b : CvBlock) : List CvStream :=
  if l.any (fun x => x.owner == b.owner) then
    l.map (fun x => if x.owner = b.owner then { x with data := memWrite x.data b.off b.data } else x)
  else l ++ [{ owner := b.owner, data := memWrite [] b.off b.data }]

/-- A block of a descriptor has been accepted: its staging may be free, and a check-only descriptor has moved on. -/
def Dev.cvAccepted (d : Dev) (node chan run o n : Nat) : Dev :=
  let ch := d.dmaCh node chan
  match ch.runOf run with
  | none => d
  | some r =>
    let r1 := r.onSeg o (fun s => { s with toTake := s.toTake - n })
    if r.d.cvOnly then d.dmaLanded node chan r1 o n else d.setDmaCh node chan (ch.setRun r1.release)

/-- CV_BLOCK: the unit accepts the next block; a culture entry's last block gives its crc, folded with the entry's
segment-space offset. -/
def doCvBlock (d : Dev) (unit : Nat) : Dev :=
  let u := d.cvu unit
  match u.inq with
  | [] => d
  | b :: rest =>
    if u.fenced then d
    else
      let d1 := d.setCvu unit { u with inq := rest, streams := cvMerge u.streams b }
      match b.owner with
      | .dma node chan run => d1.cvAccepted node chan run b.off b.data.length
      | .cult node =>
        if !b.last then d1
        else
          match (d1.ni node).cult with
          | [] => d1.cvDrop b.owner
          | x :: _ =>
            (d1.cvDrop b.owner).cultCrc node (crcValue 1 (x.record + x.pick) (d1.cvBytes b.owner 252))

def execCvBlock (unit : Nat) (s : State) : Answer := s.next (doCvBlock s.dev unit)

end Sys2Proof.Machine
end

