-- ==== Sys2Proof/Machine/NetRows.lean ====
section
/-! DEFINITION. The receiver's and the issuer's rows of the mesh and the ports: requests, the duplicate filter, replies,
timeouts and reissue (02_programming_model.md R46-R55, 06_mesh.md R174-R195, 07_links.md R225-R236). -/

namespace Sys2Proof.Machine

/-! ## Input buffers -/

def Dev.inbox (d : Dev) (node : Nat) : List Flit := if node < 0x120 then (d.ni node).reqBuf else (d.chan (node - 0x120)).inq

def Dev.setInbox (d : Dev) (node : Nat) (l : List Flit) : Dev :=
  if node < 0x120 then d.setNi node { d.ni node with reqBuf := l } else d.setChan (node - 0x120) { d.chan (node - 0x120) with inq := l }

def Dev.flowsAt (d : Dev) (node : Nat) : List Flow := if node < 0x120 then (d.ni node).flows else (d.chan (node - 0x120)).flows

def Dev.setFlows (d : Dev) (node : Nat) (l : List Flow) : Dev :=
  if node < 0x120 then d.setNi node { d.ni node with flows := l } else d.setChan (node - 0x120) { d.chan (node - 0x120) with flows := l }

def Dev.heldAt (d : Dev) (node : Nat) : List Flit := if node < 0x120 then (d.ni node).heldReqs else (d.chan (node - 0x120)).heldReqs

def Dev.setHeld (d : Dev) (node : Nat) (l : List Flit) : Dev :=
  if node < 0x120 then d.setNi node { d.ni node with heldReqs := l } else d.setChan (node - 0x120) { d.chan (node - 0x120) with heldReqs := l }

/-- The oldest flit of a type; a controller takes requests for one line in the order it accepted them (10_memory.md R308). -/
def takeTyp (typ : Nat) (lines : Bool) : List Nat → List Flit → Option (Flit × List Flit)
  | _, [] => none
  | seen, f :: fs =>
    if f.typ.toNat = typ ∧ !(lines && seen.contains (f.addr.toNat / 128)) then some (f, fs)
    else (takeTyp typ lines (f.addr.toNat / 128 :: seen) fs).map (fun r => (r.1, f :: r.2))

/-! ## Checks on receipt (R46, R176, R195) -/

/-- A request names a live context of its generation; at a vat, the one resident there. -/
def Dev.liveFor (d : Dev) (node : Nat) (q : Flit) : Bool :=
  let c := d.ctx q.ctx.toNat
  c.live && c.gen == q.gen.toNat && (0x120 ≤ node || d.ctxOf node == some q.ctx.toNat)

def isService (q : Flit) : Bool := q.addr.toNat / 2 ^ 47 == 1 && !q.xchip

/-- The address of a request takes one of the forms of R175. -/
def addrOk (node : Nat) (q : Flit) : Bool :=
  let a := q.addr.toNat
  if q.xchip then a < 2 ^ 44 && (q.typ.toNat != tSig || bits a 22 4 == 0)
  else if node < 0x120 then a < 2 ^ 29 && (q.typ.toNat != tSig || bits a 22 4 == 0)
  else if isService q then bits a 46 43 == 0
  else a < 2 ^ 43

/-- Fields that contradict the type, or an address of no form (R174-R176). -/
def malformed (node : Nat) (q : Flit) : Bool :=
  128 < q.bytes.toNat || q.reduce || !addrOk node q ||
    (match q.typ.toNat with
     | 0 | 1 => q.status != 0
     | 2 => !(4 ≤ q.status.toNat && q.status.toNat ≤ 12) || !(q.bytes == 4 || q.bytes == 8)
     | 3 => q.bytes != 0 || !q.order
     | _ => false) ||
    (isService q && !(q.src.toNat < 0x120 || q.src == 0x152)) || q.mcast

/-- The same of a reply: no data but what its type brings (R174, R176). -/
def malformedReply (f : Flit) : Bool :=
  128 < f.bytes.toNat || f.reduce || f.mcast || f.order ||
    (match f.typ.toNat with
     | 9 => f.bytes != 0
     | 10 => !(f.bytes == 0 || f.bytes == 8)
     | _ => false)

/-- A request is answered with a code and no data. -/
def Dev.answer (d : Dev) (node : Nat) (q : Flit) (code : Nat) : Dev := d.reply node q (replyTyp q) code []

/-! ## The addressed bytes (R50, R55, R175) -/

/-- Where a request lands: a curd's bytes, or an allocation offset at a controller. -/
inductive Landing where
  | core (slot : Nat) (p : Place)
  | ext (part off : Nat)
  | err (code : Nat)
  deriving DecidableEq, Repr

/-- A core-space offset of a curd of the vat. -/
def Dev.coreLanding (d : Dev) (node lcurd off n : Nat) : Landing :=
  let slot := (d.vat node).phys lcurd
  let c := d.curd (curdKey node slot)
  if c.fenced then .err 0x09
  else if off + n ≤ 0x10000 then .core slot (.ldm node slot off)
  else if 0x10000 ≤ off ∧ off + n ≤ min 0x800000 (0x10000 + c.declared * 4096) then
    match d.resolve node slot (off - 0x10000) with
    | some p => .core slot p
    | none => .err 0x04
  else .err 0x04

def Dev.landing (d : Dev) (node : Nat) (q : Flit) (write : Bool) : Landing :=
  let a := q.addr.toNat
  let ctx := q.ctx.toNat
  if node < 0x120 then
    if q.xchip ∧ 64 * (d.partNodes (ctx / 16)).length ≤ bits a 34 23 then .err 0x03
    else d.coreLanding node (if q.xchip then bits a 34 23 % 64 else bits a 28 23) (bits a 22 0) q.bytes.toNat
  else if isService q then .ext (ctx / 16) (bits a 42 0)
  else
    match (if fromHost q then (d.ctx ctx).segAny (bits a 42 0) q.bytes.toNat else (d.ctx ctx).segAt (bits a 42 0) q.bytes.toNat write) with
    | some off => .ext (ctx / 16) off
    | none => .err 0x04

def Dev.landRead (d : Dev) (node ctx : Nat) (x : Landing) (n : Nat) : Dev × Option (List Byte) :=
  match x with
  | .core _ p => d.placeRead node p n
  | .ext part off => d.extRead part off n (some ctx)
  | .err _ => (d, none)

def Dev.landWrite (d : Dev) (node ctx : Nat) (x : Landing) (bs : List Byte) : Dev × Bool :=
  match x with
  | .core _ p => d.placeWrite node p bs
  | .ext part off => d.extWrite part off bs (some ctx)
  | .err _ => (d, false)

/-- A far atomic's new value (03_curd_core.md R104): FP32 addition rounds to nearest even. -/
def farAmoFn (kind n old v cmp : Nat) : Nat :=
  let f (op : AmoOp) : Nat := amoFn op (8 * n) old (v % 2 ^ (8 * n)) (cmp % 2 ^ (8 * n))
  match kind with
  | 4 => f .add
  | 5 => f .swap
  | 6 => f .cas
  | 7 => f .min
  | 8 => f .max
  | 9 => f .and
  | 10 => f .or
  | 11 => f .xor
  | _ => (fadd32 (BitVec.ofNat 32 old) (BitVec.ofNat 32 v)).toNat

/-! ## Performing a request -/

/-- A request whose landing gives an error is answered with it, and logged (R46, R55). -/
def Dev.refuse (d : Dev) (node : Nat) (q : Flit) (code : Nat) : Dev :=
  (d.raiseAt node 0x11 (q.addr.toNat % 2 ^ 47) (some q.ctx.toNat)).answer node q code

def Dev.performRd (d : Dev) (node : Nat) (q : Flit) : Dev :=
  if q.bytes = 0 then d.answer node q 0
  else
    match d.landing node q false with
    | .err code => d.refuse node q code
    | x =>
      let r := d.landRead node q.ctx.toNat x q.bytes.toNat
      match r.2 with
      | some bs => r.1.reply node q tRdr 0 bs
      | none => r.1.answer node q 0x09

def Dev.performWr (d : Dev) (node : Nat) (q : Flit) (data : List Byte) : Dev :=
  if q.bytes = 0 then d.answer node q 0
  else
    match d.landing node q true with
    | .err code => d.refuse node q code
    | x =>
      let w := d.landWrite node q.ctx.toNat x (data.take q.bytes.toNat)
      let d1 := match x with
        | .ext _ _ => if isService q || fromHost q then w.1 else w.1.collWritten q.ctx.toNat (bits q.addr.toNat 42 0) q.bytes.toNat
        | _ => w.1
      d1.answer node q (if w.2 then 0 else 0x09)

def Dev.performAmo (d : Dev) (node : Nat) (q : Flit) (data : List Byte) : Dev :=
  match d.landing node q true with
  | .err code => d.refuse node q code
  | x =>
    let n := q.bytes.toNat
    let r := d.landRead node q.ctx.toNat x n
    match r.2 with
    | none => r.1.answer node q 0x09
    | some old =>
      let v := farAmoFn q.status.toNat n (leNat old) (leAt data 0 8) (leAt data 8 8)
      let w := r.1.landWrite node q.ctx.toNat x (leBytes n v)
      w.1.reply node q tAmor 0 (leBytes 8 (leNat old))

/-- A signal increments the counter it names, whatever the curd's state (03_curd_core.md R106). -/
def Dev.performSig (d : Dev) (node : Nat) (q : Flit) : Dev :=
  let a := q.addr.toNat
  if q.xchip ∧ 64 * (d.partNodes (q.ctx.toNat / 16)).length ≤ bits a 34 23 then d.refuse node q 0x03
  else
    let slot := (d.vat node).phys (if q.xchip then bits a 34 23 % 64 else bits a 28 23)
    if (d.curd (curdKey node slot)).fenced then d.refuse node q 0x09
    else (d.signalAt node slot (bits a 3 0)).answer node q 0

/-- A request is performed according to its type. -/
def Dev.perform (d : Dev) (node : Nat) (q : Flit) (data : List Byte) : Dev :=
  match q.typ.toNat with
  | 0 => d.performRd node q
  | 1 => d.performWr node q data
  | 2 => d.performAmo node q data
  | _ => d.performSig node q

/-! ## The filter (R229, R230) -/

def Dev.flowKey (d : Dev) (node : Nat) (q : Flit) : Nat :=
  let cfg := d.routeCfgAt node
  sourceChip cfg (rcOwnChip cfg) q.path.toNat q.hop.toNat * 512 + q.src.toNat

/-- What a duplicate is answered: FAILED for an atomic, success for the others (R230). -/
def Dev.duplicateAnswer (d : Dev) (node : Nat) (q : Flit) : Dev :=
  let d1 := if node < 0x120 then d.setNi node { d.ni node with duplicates := hold16 ((d.ni node).duplicates + 1) } else d
  d1.answer node q (if q.typ.toNat = tAmo then 0x09 else 0)

/-- A request passes the duplicate filter: RDs and requests of this chip without it (R229, R232). -/
def Dev.filtered (d : Dev) (node : Nat) (q : Flit) (data : List Byte) (again : Bool) : Dev :=
  if q.xchip = false ∨ q.typ.toNat = tRd then d.perform node q data
  else
    let r := filterFlow (d.flowsAt node) (d.flowKey node q) q.gen.toNat (bits q.link.toNat 13 0) d.timer.toNat d.hCounts
    let d1 := d.setFlows node r.2
    match r.1 with
    | .perform => d1.perform node q data
    | .duplicate => d1.duplicateAnswer node q
    | .stale => d1
    | .hold =>
      let d2 := if node < 0x120 ∧ again = false then d1.setNi node { d1.ni node with heldCount := hold16 ((d1.ni node).heldCount + 1) }
        else d1
      d2.setHeld node (if again then q :: d2.heldAt node else d2.heldAt node ++ [q])

/-- A request is judged: malformed ones are answered INVALID and logged, others act only for a live context; a sealed
packet whose tag fails is discarded and logged (R176, R195, R234). -/
def Dev.receive (d : Dev) (node : Nat) (q : Flit) (again : Bool) : Dev :=
  if malformed node q then (d.raiseAt node 0x10 (flitHeader q % 2 ^ 64) none).answer node q 0x03
  else if !d.liveFor node q then d
  else if q.xchip && d.confCtx q.ctx.toNat then
    match openFlit (d.linkKey q.ctx.toNat) (d.requestNonce q false (flitSeq q)) q with
    | none => d.raiseAt node 0x15 (q.addr.toNat % 2 ^ 47) (some q.ctx.toNat)
    | some data => d.filtered node q data again
  else d.filtered node q q.payload again

/-- A controller whose channel is being retrained takes nothing (14_recovery.md R427). -/
def Dev.retrains (d : Dev) (node : Nat) : Bool := 0x120 ≤ node && (d.chan (node - 0x120)).retraining

/-- The bytes a request names may be accessed now: at a vat, its overflow access takes its turn at the resolver, and the
target's admission queue has room (05_local_memory.md R143, R147). A signal and a fence access no bytes. -/
def Dev.landMay (d : Dev) (node : Nat) (q : Flit) : Bool :=
  if q.typ.toNat = tSig ∨ q.bytes = 0 then true
  else
  match d.landing node q false with
  | .core _ p =>
    (match p with
     | .ldm _ t _ => d.peerQueued node t < 40
     | _ => d.resolverFree node (bits q.addr.toNat 22 0) q.bytes.toNat)
  | _ => true

/-- The oldest request of a type at a vat's NI or a memory controller is taken. -/
def Dev.take (d : Dev) (node typ : Nat) : Dev :=
  match takeTyp typ (decide (0x120 ≤ node)) [] (d.inbox node) with
  | none => d
  | some (q, rest) => if d.retrains node || !d.landMay node q then d else (d.setInbox node rest).receive node q false

/-- RD. -/
def execRd (node : Nat) (s : State) : Answer := s.next (s.dev.take node tRd)
/-- WR. -/
def execWr (node : Nat) (s : State) : Answer := s.next (s.dev.take node tWr)
/-- AMO_PACKET. -/
def execAmoPacket (node : Nat) (s : State) : Answer := s.next (s.dev.take node tAmo)
/-- SIG. -/
def execSig (node : Nat) (s : State) : Answer := s.next (s.dev.take node tSig)

/-- HELD_REQUEST_RETRY: the oldest held request is taken again. -/
def doHeldRequestRetry (d : Dev) (node : Nat) : Dev :=
  match d.heldAt node with
  | [] => d
  | q :: rest => if d.retrains node || !d.landMay node q then d else (d.setHeld node rest).receive node q true

def execHeldRequestRetry (node : Nat) (s : State) : Answer := s.next (doHeldRequestRetry s.dev node)

/-! ## Replies (R182, R183, R185, R195, R225) -/

/-- The payload of a reply from another chip of a confidential slice: sealed under the nonce of the copy it answers. -/
def Dev.openReply (d : Dev) (node : Nat) (r : TagRec) (f : Flit) : Option (List Byte) :=
  match r.chip with
  | none => some f.payload
  | some chip =>
    if sdConf ((d.ni node).slice (r.ctx % 16)) then
      let eng := (d.vat node).lnum - (d.part (r.ctx / 16)).first
      ((List.range r.copies).filterMap (fun c =>
        openFlit (smGet 0 (d.ni node).linkKeys (r.ctx % 16)) (xNonce (d.ctx r.ctx).rank eng chip true c r.seq) f)).head?
    else some f.payload

/-- The engine whose operation has completed may move on. -/
def Dev.afterOp (d : Dev) (node : Nat) (r : TagRec) : Dev :=
  let d1 := match r.op with
    | .coll seq => d.collMove node r.ctx seq
    | _ => d
  d1.checkDone r.ctx

/-- The local bytes that a reply brings may be written now (05_local_memory.md R143, R147). -/
def Dev.replyMay (d : Dev) (node : Nat) (r : TagRec) : Bool :=
  match r.op with
  | .farGet slot _ dst len | .farAmo slot _ dst len => d.engineMay node slot dst len
  | _ => true

/-- A reply of a type is accepted if its tag is outstanding with its context and generation; any other is discarded. -/
def Dev.takeReply (d : Dev) (node typ : Nat) : Dev :=
  match takeTyp typ false [] (d.ni node).repBuf with
  | none => d
  | some (f, rest) =>
    let d0 := d.setNi node { d.ni node with repBuf := rest }
    if malformedReply f then d0.raiseAt node 0x10 (flitHeader f % 2 ^ 64) none
    else
    match (d.ni node).tagRec f.tag.toNat with
    | none => d0
    | some r =>
      if (r.st = .sent ∨ r.st = .parked ∨ (r.st = .waiting ∧ 0 < r.copies)) ∧ replyTyp r.flit = typ ∧ f.ctx.toNat = r.ctx ∧
          f.gen.toNat = r.gen then
        if f.status = 0 ∧ d.replyMay node r = false then d
        else match d0.openReply node r f with
        | none => d0.raiseVat node 0x15 unitNi r.ga
        | some data =>
          let d1 := if f.cmark then d0.marked node r.chip else d0
          (d1.finishTag node f.tag.toNat f.status.toNat 0x11 data).afterOp node r
      else d0

/-- AMOR. -/
def execAmor (node : Nat) (s : State) : Answer := s.next (s.dev.takeReply node tAmor)

/-! ## Timers (R225, R228, R231, R232, 09_fabric_manager.md R291) -/

def Dev.setTagSt (d : Dev) (node tag : Nat) (r : TagRec) (st : TagSt) : Dev :=
  d.setNi node ((d.ni node).setTag tag (some { r with st := st }))

/-- REQUEST_TIMEOUT: the next copy, parking while the slot is drained, or TIMEOUT. -/
def doRequestTimeout (d : Dev) (node tag : Nat) : Dev :=
  match (d.ni node).tagRec tag with
  | none => d
  | some r =>
    if r.st ≠ .sent ∨ r.chip.isNone then d
    else if r.copies < r.limit + 1 then
      (d.setTagSt node tag r (if (d.ni node).stop.getLsbD (r.ctx % 16) then .parked else .waiting)).checkDone r.ctx
    else (d.finishTag node tag 0x08 0x12 []).afterOp node r

def execRequestTimeout (node tag : Nat) (s : State) : Answer := s.next (doRequestTimeout s.dev node tag)

/-- The host node sends a line again at once (11_host_mailboxes.md R342). -/
def Dev.hostAgain (d : Dev) (node tag : Nat) (r : TagRec) : Dev :=
  (d.setNi node ((d.ni node).setTag tag (some { r with copies := r.copies + 1 }))).offer node .a r.flit

/-- ONDIE_TIMEOUT: an RD or WR is sent again, or completes with TIMEOUT once its copies are spent (R228, 14_recovery.md R414); an AMO
or SIG completes with FAILED. -/
def doOndieTimeout (d : Dev) (node tag : Nat) : Dev :=
  match (d.ni node).tagRec tag with
  | none => d
  | some r =>
    if r.st ≠ .sent ∨ r.chip.isSome then d
    else if r.flit.typ.toNat = tRd ∨ r.flit.typ.toNat = tWr then
      if r.limit < r.copies then (d.finishTag node tag 0x08 0x12 []).afterOp node r
      else if 288 ≤ node then d.hostAgain node tag r
      else (d.setTagSt node tag r (if (d.ni node).stop.getLsbD (r.ctx % 16) then .parked else .waiting)).checkDone r.ctx
    else (d.finishTag node tag 0x09 0x13 []).afterOp node r

/-- TAG_QUARANTINE_END: the tag is free. -/
def doTagQuarantineEnd (d : Dev) (node tag : Nat) : Dev :=
  match (d.ni node).tagRec tag with
  | some r => if r.st = .quarantine then d.setNi node ((d.ni node).setTag tag none) else d
  | none => d

def execTagQuarantineEnd (node tag : Nat) (s : State) : Answer := s.next (doTagQuarantineEnd s.dev node tag)

/-- RATE_LIMIT_RECOVERY: a chip's allowance rises by one, up to 64. -/
def doRateLimitRecovery (d : Dev) (node chip : Nat) : Dev :=
  let n := d.ni node
  let x := smGet ChipRec.init n.chips chip
  d.setNi node { n with chips := smSet ChipRec.init n.chips chip (x.setAllow d.timer.toNat (min 64 (x.allow + 1))) }

def execRateLimitRecovery (node chip : Nat) (s : State) : Answer := s.next (doRateLimitRecovery s.dev node chip)

end Sys2Proof.Machine
end

