-- ==== Sys2Proof/Machine/FaultOps.lean ====
section
/-! DEFINITION. The fault collector: severities, escalation, the fault list and the actions, with the failures of memory
channels, check-value units, ring stops and management cores (15_faults_cave.md R442-R450, R461, R462, 10_memory.md R325,
14_recovery.md R418, R428, R430, R431, 01_architecture.md R24). -/

namespace Sys2Proof.Machine

/-! ## Severities (R441, R443, R445, 10_memory.md R316, 14_recovery.md R436) -/

def defaultSev (k : Nat) : Nat :=
  match k with
  | 0x01 | 0x02 | 0x03 | 0x04 | 0x05 | 0x06 | 0x0A | 0x16 | 0x42 | 0x43 | 0x60 => 3
  | 0x08 | 0x15 | 0x20 | 0x21 | 0x22 | 0x23 | 0x40 | 0x44 | 0x45 | 0x49 | 0x65 | 0x66 | 0x91 | 0x92 => 1
  | 0x14 | 0x46 | 0x47 | 0x48 | 0x67 | 0x70 | 0x90 | 0xA0 | 0xA1 | 0xB0 => 2
  | 0x81 => 6
  | 0x82 => 5
  | _ => 0

/-- Kinds that record what has already been done: their severity decides only logging and ERR_N. -/
def fixedAction (k : Nat) : Bool := k == 0x49 || (0x61 ≤ k && k ≤ 0x64) || k == 0x69

/-- The programmed severity of a source's kind. -/
def progSev (r k : Nat) : Nat :=
  let dflt := defaultSev k
  if bit r 19 ∧ bits r 15 8 = k then bits r 18 16
  else if bits r 1 0 = 2 then bits r 4 2
  else if bits r 1 0 = 1 then (min 6 (max 0 ((dflt : Int) + toSigned 3 (bits r 7 5)))).toNat
  else dflt

def escCap (cfg : Nat) : Nat := bits cfg 14 12

/-- Severities of open entries of the same source, unit and class (R445). -/
def openSevs (l : List FltEntry) (m : FltMsg) : List Nat :=
  (l.filter (fun e => !e.ack && !e.cleared && e.m.src == m.src && e.m.unit == m.unit &&
    kindClass e.m.kind == kindClass m.kind)).map (fun e => e.sev)

/-- The severity applied. -/
def Flt.applied (x : Flt) (m : FltMsg) : Nat :=
  let p := progSev (smGet 0 x.sev m.src) m.kind
  if 2 ≤ p ∧ p ≤ 5 then
    match (openSevs x.list m).max? with
    | some s => max p (min (s + 1) (escCap x.cfg))
    | none => p
  else p

/-! ## The list (R446, R447) -/

/-- The entry made earliest among some, by its index. -/
def oldestOf (l : List FltEntry) (ok : FltEntry → Bool) : Option Nat :=
  match ((l.filter ok).map (fun e => e.made)).min? with
  | some n => l.findIdx? (fun e => ok e && e.made == n)
  | none => none

/-- The list after a fault is entered, and its entry. -/
def Flt.enter (x : Flt) (m : FltMsg) (sev now : Nat) : Flt × Option Nat :=
  match x.list.findIdx? (fun e => !e.cleared && e.sev == sev && e.m.word == m.word) with
  | some i => ({ x with list := x.list.modify i (fun e => { e with repeats := hold16 (e.repeats + 1) }) }, some i)
  | none =>
    let low := decide (sev ≤ 1)
    let e : FltEntry := { m := m, firstSeen := now, repeats := 0, sev := sev, ack := low, cleared := low, actionDone := low,
                          made := x.made }
    if x.list.length < 1024 then ({ x with list := x.list ++ [e], made := x.made + 1 }, some x.list.length)
    else
      match oldestOf x.list (fun e => e.cleared), oldestOf x.list (fun e => e.sev ≤ 1) with
      | some i, _ => ({ x with list := setNth x.list i e, made := x.made + 1 }, some i)
      | none, some i => ({ x with list := setNth x.list i e, made := x.made + 1 }, some i)
      | none, none => ({ x with overflow := true }, none)

/-- Uncleared entries of severity 2 or higher (R448, R450). -/
def Flt.openCount (x : Flt) : Nat := (x.list.filter (fun e => !e.cleared && 2 ≤ e.sev)).length

/-- The fault state, for which ERR_N is low (R449). -/
def Dev.faultState (d : Dev) : Bool := decide (0 < d.flt.openCount) || d.boot.failed

/-! ## What a failed unit loses -/

/-- A channel is LOST: the requests it holds fail, and every granule with a band on it is lost (10_memory.md R325). -/
def Dev.loseChan (d : Dev) (c : Nat) : Dev :=
  let x := d.chan c
  if x.st ≠ 1 then d
  else
    let d1 := d.setChan c { x with st := 3, inq := [], heldReqs := [], retraining := false }
    let mark (g : Granule) : Granule := { g with lost := g.lost || g.bands.any (fun b => b.1 == c) }
    let d2 := { d1 with parts := smMap Part.init (fun (p : Part) => { p with grans := p.grans.map mark }) d1.parts }
    ((x.inq ++ x.heldReqs).foldl (fun d q => d.answer (0x120 + c) q 0x09) d2).raise (plainMsg (0x120 + c) 0x48 0)

/-- What a check-value unit's owner loses: a descriptor or a culture update fails. -/
def Dev.cvOwnerFails (d : Dev) (o : CvOwner) : Dev :=
  match o with
  | .dma n c run =>
    let ch := d.dmaCh n c
    match ch.runOf run with
    | some r => d.setDmaCh n c (ch.setRun (DmaRun.fail { r with segs := r.segs.map (fun s => { s with toTake := 0 }) } 0x09))
    | none => d
  | .cult n => match (d.ni n).cult with
    | [] => d
    | x :: _ => if x.phase = 2 then d.cultEnd n 0x09 else d

/-- A check-value unit is fenced: what it held fails, and its partner serves its quadrant; without CV4 the firmware's
copies cannot be checked, and the chip is reset (R461, R462). -/
def Dev.cvFence (d : Dev) (u : Nat) : Dev :=
  let x := d.cvu u
  if x.fenced then d
  else
    let owners := ((x.streams.map (fun s => s.owner)) ++ (x.inq.map (fun b => b.owner))).dedup
    let d1 := owners.foldl (fun d o => d.cvOwnerFails o) (d.setCvu u { x with fenced := true, inq := [], streams := [], borrowed := false })
    if u = 4 then d1.chipReset 0xB0 true false
    else
      let q := u ^^^ 1
      if (d1.cvu q).fenced || !d1.quadOn q then d1 else d1.setCvu q { d1.cvu q with borrowed := true }

/-- The source number of a check-value unit. -/
def cvSrc (u : Nat) : Nat := if u = 4 then 0x806 else 0x154 + u

/-- A fence of a unit of a vat: the context it works for is reset first (R412, R442). -/
def Dev.fenceHolding (d : Dev) (u cause : Nat) : Dev :=
  let spare := u % 128 < 68 && ((d.vat (u / 128)).logical (u % 128)).isNone
  match d.partOf (u / 128), d.ctxOf (u / 128) with
  | some p, some c =>
    if spare then d.fenceUnit u
    else
      let q := d.part p
      (d.setPart p { q with fenceAfter := if q.fenceAfter.contains u then q.fenceAfter else q.fenceAfter ++ [u] }).resetCtx c
        (newTear cause false false false none)
  | _, _ => d.fenceUnit u

/-- An edge node is fenced: a memory channel, a fabric port, a check-value unit, a host attachment or the management gateway. -/
def Dev.fenceEdge (d : Dev) (s : Nat) : Dev :=
  if s < 0x140 then d.loseChan (s - 0x120)
  else if s < 0x150 then d.fencePort (s - 0x140)
  else if 0x154 ≤ s ∧ s < 0x158 then d.cvFence (s - 0x154)
  else if s < 0x153 ∧ !d.mesh.edgeOff.contains s then { d with mesh := { d.mesh with edgeOff := d.mesh.edgeOff ++ [s] } }
  else d

/-- The edge nodes attached to a router (01_architecture.md R14). -/
def edgesAt (node : Nat) : List Nat :=
  ((List.range 56).map (fun i => 0x120 + i)).filter (fun e => match attach e with | some a => a.1 == node | none => false)

/-- A router, its vat and the edge nodes attached to it (06_mesh.md R198): the tables change once the mesh is quiet. -/
def Dev.fenceRouter (d : Dev) (p : Plane) (node cause : Nat) : Dev :=
  let k := meshKey p node
  let m := d.mesh
  let d1 := if m.toFence.contains k || smGet false m.fenced k then d else { d with mesh := { m with toFence := m.toFence ++ [k] } }
  (edgesAt node).foldl (fun d e => d.fenceEdge e)
    (if d.quadOn (quadrant node) then d1.fenceHolding (vatUnit node unitControl) cause else d1)

/-- The blocks behind a ring stop (01_architecture.md R24): at a vat node its vat, its routers and what is attached to them. -/
def Dev.fenceStop (d : Dev) (s cause : Nat) : Dev :=
  if s < 0x120 then (d.fenceRouter .a s cause).fenceRouter .b s cause else d.fenceEdge s

/-- A ring stop that is in service: in a fused quadrant only the stops of the vat nodes are, for their routers (R18). -/
def Dev.stopServed (d : Dev) (s : Nat) : Bool :=
  s < 0x120 || (decide (s < 0x153) || (0x154 ≤ s && s < 0x158)) && d.quadOn (edgeQuadrant s)

/-- A management core fails over: the standby becomes primary, its start stage begins again (14_recovery.md R430,
16_bringup.md R480); with no standby both cores are restarted, a receiver reset (R431). -/
def Dev.failover (d : Dev) : Dev :=
  let r := d.rrc
  if r.bothDown then d
  else if r.standbyOk then
    let d1 := { d with rrc := { r with primaryB := !r.primaryB, standbyOk := false, failovers := hold16 (r.failovers + 1),
                                       selftest := some r.primaryB } }
    let d2 := if d.boot.running ∧ 1 ≤ d.boot.stage ∧ d.boot.stage < 8 then
        { d1 with boot := { d1.boot with stepNo := 0, progress := 0, stageAt := d.timer.toNat } }
      else d1
    (d2.recvReset false true).raise (plainMsg rrcSrc 0x65 0)
  else { d with rrc := { r with bothDown := true, selftest := none } }.recvReset false false

/-- A failed core is reset and tests itself; if it is the primary, the other takes over. -/
def Dev.coreFails (d : Dev) (b : Bool) : Dev :=
  if b = d.rrc.primaryB then d.failover
  else { d with rrc := { d.rrc with standbyOk := false, selftest := some b } }

/-! ## Actions (R442) -/

/-- Contexts whose work a source's unit holds. -/
def Dev.holders (d : Dev) (m : FltMsg) : List Nat :=
  if m.src < 0x120 then (match d.ctxOf m.src with | some c => [c] | none => [])
  else if m.src < 0x140 then
    (let x := d.chan (m.src - 0x120)
     (((x.inq ++ x.heldReqs).map (fun f => f.ctx.toNat)).filter (fun c => (d.ctx c).live)).dedup)
  else if m.src < 0x150 then d.unitCtxs (portUnit (m.src - 0x140))
  else if 0x154 ≤ m.src ∧ m.src < 0x158 then
    (let ns := (d.cvu (m.src - 0x154)).streams.map (fun s => match s.owner with | .dma n _ _ => n | .cult n => n)
     (ns.filterMap (fun n => d.ctxOf n)).dedup)
  else if 0x400 ≤ m.src ∧ m.src < 0x800 ∧ (d.ctx (m.src - 0x400)).live then [m.src - 0x400]
  else []

/-- The context a fault names. -/
def Dev.namedCtx (d : Dev) (m : FltMsg) : Option Nat :=
  match m.ctx with
  | some c => if (d.ctx c).live then some c else none
  | none => none

/-- The partition a fault concerns: that of the named context, else its source's. -/
def Dev.faultPart (d : Dev) (m : FltMsg) : Option Nat :=
  match m.ctx with
  | some c => some (c / 16)
  | none =>
    if m.src < 0x120 then d.partOf m.src
    else if 0x200 ≤ m.src ∧ m.src < 0x240 then (if (d.part (m.src - 0x200)).st = 0 then none else some (m.src - 0x200))
    else if 0x400 ≤ m.src ∧ m.src < 0x800 then some ((m.src - 0x400) / 16)
    else none

/-- Severity 2: the unit is fenced; true when there is something to fence. -/
def Dev.actFence (d : Dev) (m : FltMsg) : Dev × Bool :=
  if m.src < 0x120 then
    (if m.unit = 0x5C then d.fenceRouter .a m.src m.kind
     else if m.unit = 0x5D then d.fenceRouter .b m.src m.kind
     else d.fenceHolding (vatUnit m.src m.unit) m.kind, true)
  else if m.src < 0x140 then (if 0x44 ≤ m.kind ∧ m.kind ≤ 0x47 then (d, false) else (d.loseChan (m.src - 0x120), true))
  else if m.src < 0x150 then (d.fencePort (m.src - 0x140), true)
  else if 0x154 ≤ m.src ∧ m.src < 0x158 then (d.cvFence (m.src - 0x154), true)
  else if m.src = 0x806 then (d.cvFence 4, true)
  else if 0x808 ≤ m.src ∧ m.src < 0x80C then (d.fenceStop m.addr m.kind, true)
  else if m.src = 0x801 then (d.coreFails false, true)
  else if m.src = 0x802 then (d.coreFails true, true)
  else (d, false)

/-- The action of a severity: the state after it, and the level of the ACTION record, none when it starts nothing. -/
def Dev.act (d : Dev) (m : FltMsg) (sev : Nat) : Dev × Option Nat :=
  let sev := if d.boot.stage < 8 ∧ (sev = 3 ∨ sev = 4) then 2 else sev
  let fence : Dev × Option Nat := let x := d.actFence m; (x.1, if x.2 then some 7 else none)
  match sev with
  | 2 => fence
  | 3 =>
    (match (match d.namedCtx m with | some c => [c] | none => d.holders m) with
     | [] => fence
     | cs => (cs.foldl (fun d c => d.resetCtx c (newTear m.kind false false false none)) d,
              if cs.all (fun c => (d.ctx c).tear.isSome) then none else some 0))
  | 4 =>
    (match d.faultPart m with
     | some p => (d.partReset p m.kind false none, if (d.part p).st = 3 then none else some 2)
     | none => (d.chipReset m.kind true false, if d.boot.chipResetting then none else some 3))
  | 5 => (d.chipReset m.kind true false, if d.boot.chipResetting then none else some 3)
  | 6 => (d.askPowerCycle m.kind, some 4)
  | _ => (d, none)

/-- A new fault of severity 2 or higher rings on the physical function and on the partition's (11_host_mailboxes.md
R355). -/
def Dev.faultBell (d : Dev) (m : FltMsg) : Dev :=
  let d1 := d.doorbell 0 0 4
  match d.faultPart m with
  | some p => d1.doorbell (p + 1) 0 4
  | none => d1

/-- The collector takes a message: severity, entry, record, action (R442-R447, R452-R454); an address inside a rind is
written as 0 when captured (R439); a port that is DOWN is reported to the manager, and so is a tree edge over which an engine
has exhausted its resends (08_collectives.md R253): as state 3 of that port, which is no state of a port
(DESIGN CHOICE, notes/assumptions/13.md). -/
def Dev.collect (d : Dev) (msg : FltMsg) : Dev :=
  let hidden := d.inRind msg
  let m := if hidden then { msg with addr := 0 } else msg
  let sev := d.flt.applied m
  let esc := decide (progSev (smGet 0 d.flt.sev m.src) m.kind < sev)
  let x := d.flt.enter m sev d.opSec
  let d0 := { d with flt := x.1 }.caveFault m hidden sev esc x.2
  let d1 := if m.kind = 0x21 ∧ 0x140 ≤ m.src ∧ m.src < 0x150 then d0.tellPort (m.src - 0x140) 0 0
    else if m.kind = 0x22 ∧ m.addr < 16 then d0.tellPort m.addr 3 0
    else d0
  if sev ≤ 1 then d1
  else
    let d2 := (d1.faultBell m).sbAlert 3
    let a := if fixedAction m.kind then (d2, none) else d2.act m sev
    (match a.2 with
     | some level => a.1.caveAction m hidden sev x.2 level
     | none => a.1).settleFaults

end Sys2Proof.Machine
end

