-- ==== Sys2Proof/Machine/PowerOps.lean ====
section
/-! DEFINITION. Power: what a power cycle resets, the rails coming up, the end of a power-fail, the loss of the core rail
(15_faults_cave.md R456-R458, 17_rates_limits.md R491-R495, 18_module.md R502-R507, 14_recovery.md R419). -/

namespace Sys2Proof.Machine

def pwrSrc : Nat := 0x805
/-- The source of start-up and of the module inputs (15_faults_cave.md R438). -/
def bootSrc : Nat := 0x810

/-! ## Loss of the core rail -/

/-- The blocks on the core rail lose their state; which units stand for which is kept by the island. -/
def Dev.coreLost (d : Dev) : Dev :=
  { d with
    curds := smMap Curd.init (fun c => { Curd.init with fenced := c.fenced }) d.curds
    vats := smMap Vat.init (fun v => { Vat.init with lst := v.lst, lnum := v.lnum, remap := v.remap }) d.vats
    nis := [], mesh := Mesh.init, coll := [], cv := []
    pwr := { d.pwr with coreMv := 0, stepMsps := 0, limits := 0 } }

/-- A thermal trip: THERMTRIP_N, the core rail removed, a POWER record, the fault (17_rates_limits.md R492, 18_module.md
R509). -/
def Dev.trip (d : Dev) : Dev :=
  if d.pwr.thermtrip then d
  else
    let d1 := { d with pwr := { d.pwr with thermtrip := true } }.sbAlert 5
    (d1.coreLost.cavePower 2).raise (plainMsg pwrSrc 0x81 0)

/-! ## The power cycle (14_recovery.md R419, 13_security.md R381, 18_module.md R505) -/

/-- What of a channel outlasts a power cycle: the page remap table, in the configuration store (16_bringup.md R487). -/
def Chan.cycled (c : Chan) : Chan := { Chan.init with remap := c.remap, remapUsed := c.remapUsed }

/-- Every state that a power cycle resets but the fault list, the reset controller's own record and the start's. -/
def Dev.cycled (d : Dev) : Dev :=
  let h := d.host
  let d1 := { d with
    sec := { d.sec with models := [], secrets := [], debugScope := 0, jtag := .bypass }
    cfg := { d.cfg with staged := [], stageCount := 0 }
    curds := [], vats := defaultVats 288, nis := [], mesh := Mesh.init, ports := [], coll := [], trees := [], cv := []
    ext := { ExtMem.init with chans := smMap Chan.init Chan.cycled d.ext.chans }
    parts := [], ctxs := [], lastGen := []
    fm := { FM.init with stored := d.fm.stored }
    host := { HostSide.init with hostMem := h.hostMem, msixSent := h.msixSent, last := h.last, perst := h.perst, linkUp := false } }
  d1.cfgAtPowerOn

/-- The reset controller at a power-on: the chip-reset count and OUT_OF_SERVICE stand. -/
def Rrc.cycled (x : Rrc) : Rrc := { Rrc.init with cfg := x.cfg, resets := x.resets, oos := x.oos }

/-- The start begins at S0 (16_bringup.md R465); the module's requests of the side-band stand. -/
def Boot.cycled (b : Boot) (now : Nat) : Boot :=
  { Boot.init with memTest := b.memTest, fullTrain := b.fullTrain, hold := b.hold, startAt := now, stageAt := now }

/-- The sequence after the last record of the store. -/
def Cave.storeNext (c : Cave) : Nat := (((c.kept ++ c.circ).getLast?).map (fun r => r.seq + 1)).getD 0

/-- The cave at a power-on; `found` is the pair found working, where it ran from RAM only before. -/
def Cave.cycled (c : Cave) (found : Nat) : Cave :=
  let store := if c.store = 2 then found else c.store
  { c with cycles := c.cycles + 1, lost := 0, due := false, buf := [], cleanOff := false, failRun := 0, store := store,
           storeFailed := store == 2, next := if store = 2 then 0 else c.storeNext }

/-- The cave at a power-on; which of a failed store's pairs works again is open (notes/assumptions/4.md). -/
def Dev.caveCycled (d : Dev) : Dev :=
  if d.cave.store = 2 then
    (let x := d.draw
     let d1 : Dev := { x.2 with cave := d.cave.cycled (x.1.toNat % 3) }
     if d1.cave.store = 2 then d1.collect (plainMsg 0x800 0xA1 0) else d1)
  else { d with cave := d.cave.cycled 0 }

/-- The rails are in regulation and S0 begins (18_module.md R504). -/
def Dev.railsUp (d : Dev) : Dev :=
  let d1 := { d with flt := Flt.init, rrc := d.rrc.cycled, boot := d.boot.cycled d.timer.toNat }.cycled
  let d2 := { d1 with
    pwr := { d1.pwr with coreMv := 750, stepMsps := 0, ioUp := true, hold075 := true, capW := d1.cfg.capW.getD 1800, steps := 0,
                         energy := 0, limits := 0, capWait := [] }
    host := { d1.host with linkUp := d1.host.perst } }
  d2.caveCycled

/-- Main and standby power are in range, the hold-up capacitors charged, and no power-fail is being handled. -/
def Power.ready (p : Power) : Bool := p.main && p.standby && p.islandUp && p.holdUp && !p.failing

/-- The rails come up once all they need is there. -/
def Dev.tryRails (d : Dev) : Dev := if d.pwr.ready && !d.pwr.ioUp then d.railsUp else d

/-! ## Power-fail (15_faults_cave.md R456, 18_module.md R507) -/

/-- The flash is idle: the operating seconds are written; a main power that has returned meanwhile comes up. -/
def Dev.powerFailDone (d : Dev) : Dev :=
  { d with cave := { d.cave with opStored := d.opSec, cleanOff := true }, pwr := { d.pwr with failing := false } }.tryRails

/-- The core rail and the I/O islands stop, the keys are erased, the records are written. -/
def Dev.powerFails (d : Dev) : Dev :=
  let changed := decide (d.boot.stage ≠ 0) || d.boot.failed
  let d1 := { d with boot := { d.boot.cycled d.timer.toNat with running := false }, rrc := { d.rrc with pwrcycWanted := false } }.cycled
  let d2 := { d1 with pwr := { d1.pwr with coreMv := 0, stepMsps := 0, limits := 0, ioUp := false, capWait := [], failing := true } }
  let d3 := ((if changed then d2.sbAlert 0 else d2).collect (plainMsg bootSrc 0x83 0)).cavePower 0
  let d4 := { d3 with cave := { d3.cave with due := true } }
  if d4.cave.store = 2 then d4.powerFailDone else d4

end Sys2Proof.Machine
end

