-- ==== Sys2Proof/Machine/Faults.lean ====
section
/-! DEFINITION. The rows of the fault collector, the cave and the check-value units (15_faults_cave.md, 01_architecture.md
R24). -/

namespace Sys2Proof.Machine

/-! ## The collector -/

/-- FAULT_MESSAGE: the collector takes the oldest message of a ring stop it reaches. -/
def doFaultMessage (d : Dev) (src : Nat) : Dev :=
  let st := smGet Stop.init d.flt.stops src
  match st.queue with
  | [] => d
  | m :: rest =>
    if !d.pwr.islandUp || d.flt.lostStops.contains src then d
    else { d with flt := { d.flt with stops := smSet Stop.init d.flt.stops src { st with queue := rest } } }.collect m

def execFaultMessage (src : Nat) (s : State) : Answer := s.next (doFaultMessage s.dev src)

/-- STOP_OVERRUN: the count of messages a ring stop could not take goes out once it has room (R444). -/
def doStopOverrun (d : Dev) (src : Nat) : Dev :=
  let st := smGet Stop.init d.flt.stops src
  if st.lost = 0 ∨ 16 ≤ st.queue.length then d
  else
    let m : FltMsg := { plainMsg src 0x92 st.lost with unit := if src < 0x120 then unitControl else 0 }
    { d with flt := { d.flt with stops := smSet Stop.init d.flt.stops src { queue := st.queue ++ [m], lost := 0 } } }

def execStopOverrun (src : Nat) (s : State) : Answer := s.next (doStopOverrun s.dev src)

/-- The ring loop of a stop: its quadrant's; the host node and the gateway are on Q0's (01_architecture.md R23). -/
def loopOf (src : Nat) : Nat := if src < 0x120 then quadrant src else edgeQuadrant src

/-- RING_STOP_LOST: the fault goes out from the loop, and the blocks behind the stop are fenced; a stop that is held off is not
missed (01_architecture.md R18). -/
def doRingStopLost (d : Dev) (src : Nat) : Dev :=
  if d.stopServed src = false ∨ d.flt.lostStops.contains src then d
  else
    ({ d with flt := { d.flt with lostStops := d.flt.lostStops ++ [src] } }.raise (plainMsg (0x808 + loopOf src) 0x90 src)).fenceStop
      src 0x90

def execRingStopLost (src : Nat) (s : State) : Answer := s.next (doRingStopLost s.dev src)

/-- What the end of the quiet period clears (R448). -/
def quietClears (e : FltEntry) : Bool := !e.cleared && 2 ≤ e.sev && e.actionDone && !stickyKind e.m.kind

/-- QUIET_PERIOD. -/
def doQuietPeriod (d : Dev) : Dev :=
  let n := (d.flt.list.filter quietClears).length
  if n = 0 then d
  else
    let list := d.flt.list.map (fun e => if quietClears e then { e with cleared := true } else e)
    { d with flt := { d.flt with list := list, recoveries := d.flt.recoveries + 1 } }.caveClear n (d.flt.recoveries + 1) 0

def execQuietPeriod (s : State) : Answer := s.next (doQuietPeriod s.dev)

/-! ## The cave store (R454-R457) -/

/-- A record goes into the store: the first 4,096 are kept, the last 65,536 circulate. -/
def Cave.stored (c : Cave) (r : CaveRec) (rest : List CaveRec) : Cave :=
  let circ := c.circ ++ [r]
  { c with buf := rest, failRun := 0, kept := if r.seq < 4096 then c.kept ++ [r] else c.kept, circ := circ.drop (circ.length - 65536) }

/-- Two failures in a row fail the pair in use: pair B takes over with what A still holds, or the cave runs from RAM. -/
def Dev.pairFails (d : Dev) : Dev :=
  let c := d.cave
  if c.store = 0 then
    ({ d with cave := { c with store := 1, failRun := 0 } }.raise (plainMsg 0x800 0xA0 0)).caveStore 1 (c.kept.length + c.circ.length)
  else
    { d with cave := { c with store := 2, failRun := 0, storeFailed := true, due := false, buf := [] } }.collect (plainMsg 0x800 0xA1 0)

/-- Unflushed records are written in sequence order; each attempt's outcome is read back. -/
def Dev.flushGo (d : Dev) : Nat → List Bool → Dev
  | 0, _ => d
  | fuel + 1, outs =>
    match d.cave.buf with
    | [] => d
    | r :: rest =>
      if d.cave.store = 2 then d
      else if outs.headD true then { d with cave := d.cave.stored r rest }.flushGo fuel outs.tail
      else if d.cave.failRun = 0 then { d with cave := { d.cave with failRun := 1 } }.flushGo fuel outs.tail
      else d.pairFails.flushGo fuel outs.tail

/-- What waited for the flush: the end of a power-fail (R456), a power-cycle request (14_recovery.md R418). -/
def Dev.afterFlush (d : Dev) : Dev :=
  if d.pwr.failing then (if d.cave.buf = [] ∨ d.cave.store = 2 then d.powerFailDone else d)
  else if d.rrc.pwrcycWanted then d.assertPwrcyc
  else d

/-- CAVE_FLUSH. -/
def doCaveFlush (d : Dev) (outcomes : List Bool) : Dev :=
  if !d.cave.due || d.cave.store == 2 || !d.pwr.islandUp then d
  else
    let d1 := { d with cave := { d.cave with due := false } }.flushGo (d.cave.buf.length + outcomes.length + 4) outcomes
    d1.afterFlush

def execCaveFlush (outcomes : List Bool) (s : State) : Answer := s.next (doCaveFlush s.dev outcomes)

/-- CAVE_FLUSH_TIMER: the oldest unflushed record has waited 10 s. -/
def doCaveFlushTimer (d : Dev) : Dev :=
  if d.cave.buf = [] ∨ d.cave.store = 2 then d else { d with cave := { d.cave with due := true } }

def execCaveFlushTimer (s : State) : Answer := s.next (doCaveFlushTimer s.dev)

/-- OPERATING_SECONDS_WRITE (R451). -/
def doOperatingSecondsWrite (d : Dev) : Dev :=
  if d.pwr.islandUp then { d with cave := { d.cave with opStored := d.opSec } } else d

def execOperatingSecondsWrite (s : State) : Answer := s.next (doOperatingSecondsWrite s.dev)

/-! ## Check-value units -/

/-- CV_FAILED: the unit reports, fails what it holds and is fenced (R461, R462); a fused quadrant has none (01_architecture.md
R18). -/
def doCvFailed (d : Dev) (unit : Nat) : Dev :=
  if (d.cvu unit).fenced || (unit != 4 && !d.quadOn unit) then d else (d.raise (plainMsg (cvSrc unit) 0xB0 0)).cvFence unit

def execCvFailed (unit : Nat) (s : State) : Answer := s.next (doCvFailed s.dev unit)

end Sys2Proof.Machine
end

