-- ==== Sys2Proof/Machine/Fabric.lean ====
section
/-! DEFINITION. What the fabric manager computes: election keys, coordinates from the wiring, where a slice goes, its
hull, its paths and its trees (09_fabric_manager.md R267, R276-R289). -/

namespace Sys2Proof.Machine

/-! ## Keys (R267, R298) -/

def fmEligible (cfg : Nat) : Bool := bit cfg 0
def fmPrio (cfg : Nat) : Nat := bits cfg 16 1
def fmTakeback (cfg : Nat) : Bool := bit cfg 17

def keyLt (a b : ElKey) : Bool := a.prio < b.prio || (a.prio == b.prio && a.serial < b.serial)

/-- The two lowest of the keys known and one more. -/
def putKey (k : ElKey) (p : Option ElKey × Option ElKey) : Option ElKey × Option ElKey :=
  match p with
  | (none, _) => (some k, none)
  | (some a, none) => if k = a then p else if keyLt k a then (some k, some a) else (some a, some k)
  | (some a, some b) =>
    if k = a ∨ k = b then p
    else if keyLt k a then (some k, some a)
    else if keyLt k b then (some a, some k)
    else p

/-- A candidate's own key; a module that is not eligible, or is out of service (14_recovery.md R429), has none. -/
def Dev.ownKey (d : Dev) : Option ElKey :=
  if fmEligible d.fm.cfg && !d.rrc.oos then some { prio := fmPrio d.fm.cfg, serial := d.sec.fuses.serial } else none

/-- Ports that the part has, as a mask. -/
def Dev.presentPorts (d : Dev) : Nat :=
  ((List.range 16).map (fun p => if d.quadOn (edgeQuadrant (0x140 + p)) then 2 ^ p else 0)).foldl (· + ·) 0

/-- The part number's code: 0 to 2 by active quadrants, 3 more with the cap (00_scope.md R1). -/
def Dev.partCode (d : Dev) : Nat := (4 - d.sec.fuses.variant) + (if d.sec.fuses.cap then 3 else 0)

/-! ## Wiring (R277, R278) -/

def modOf (ms : List ModRec) (s : Nat) : Option ModRec := ms.find? (fun m => m.serial == s)

/-- What a module's port reaches. -/
def nbOf (ms : List ModRec) (s p : Nat) : Option Neighbour := (modOf ms s).bind (fun m => m.neigh.find? (fun n => n.port == p))

/-- Codes 1 to 4 of a port: they concern the cable alone. -/
def cableCode (ms : List ModRec) (s p : Nat) : Nat :=
  match nbOf ms s p with
  | none => 0
  | some n =>
    if n.serial = s then 1
    else if n.peerPort ≠ p ^^^ 2 then 2
    else
      match nbOf ms n.serial n.peerPort with
      | none => 3
      | some m =>
        if m.serial ≠ s ∨ m.peerPort ≠ p then 3
        else
          match nbOf ms s (p - 1) with
          | some r => if p % 2 = 1 ∧ r.serial ≠ n.serial then 4 else 0
          | none => 0

/-- A step of a walk over a sound cable. -/
def stepTo (ms : List ModRec) (p s : Nat) : Option Nat := if cableCode ms s p = 0 then (nbOf ms s p).map (fun n => n.serial) else none

/-- Steps that a walk through a port takes to come back. -/
def walkBack (ms : List ModRec) (p start : Nat) : Nat → Nat → Nat → Option Nat
  | 0, _, _ => none
  | fuel + 1, cur, n =>
    match stepTo ms p cur with
    | none => none
    | some t => if t = start then some (n + 1) else walkBack ms p start fuel t (n + 1)

/-- Modules on a ring; none where a cable of it is DOWN or unsound. -/
def ringLen (ms : List ModRec) (s p : Nat) : Option Nat := walkBack ms p s (ms.length + 1) s 0

def dimLimit (i : Nat) : Nat := if i ≤ 1 then 16 else 8

/-- NI_ROUTE_CFG of a chip (07_links.md R218). -/
def routeWord (ext : List Nat) (mask chip : Nat) (confined : Bool) : Nat :=
  let e (i : Nat) : Nat := ext.getD i 1 - 1
  mask + chip * 2 ^ 8 + e 0 * 2 ^ 22 + e 1 * 2 ^ 26 + e 2 * 2 ^ 30 + e 3 * 2 ^ 33 + boolNat confined * 2 ^ 36

/-- Modules reached by walks through the plus ports of ring 0, in any order of dimensions, with the places the walks give them. -/
def walkOn (ms : List ModRec) (ext : List Nat) : Nat → List (Nat × Nat) → List (Nat × Nat) → List (Nat × Nat)
  | 0, _, found => found
  | fuel + 1, front, found =>
    let cfg := routeWord ext 0 0 false
    let steps := front.flatMap (fun e => (List.range 4).filterMap (fun i =>
      if ext.getD i 1 = 1 then none else (stepTo ms (4 * i) e.1).map (fun t => (t, nextChip cfg e.2 (4 * i)))))
    let new := (steps.filter (fun e => !found.contains e)).dedup
    let fresh := new.filter (fun e => !found.any (fun q => q.1 == e.1))
    if fresh = [] then found ++ new else walkOn ms ext fuel fresh (found ++ new)

/-- The extents and the places that walks from the module of lowest serial give; a module found at two places, or at another's, has
none. -/
def walkPlaces (ms : List ModRec) : List Nat × List (Nat × Nat) :=
  match (ms.map (fun m => m.serial)).min? with
  | none => ([1, 1, 1, 1], [])
  | some o =>
    let ext := (List.range 4).map (fun i => let k := (ringLen ms o (4 * i)).getD 1; if dimLimit i < k then 1 else k)
    let l := walkOn ms ext (ms.length + 1) [(o, 0)] [(o, 0)]
    (ext, l.filter (fun e => l.all (fun f => (f.1 == e.1) == (f.2 == e.2))))

/-- Stored coordinates that every module holds and that agree with the wiring. -/
def storedPlaces (ms : List ModRec) : Option (List Nat × List (Nat × Nat)) :=
  let l : List (Nat × Nat) := ms.filterMap (fun m => m.stored.map (fun c => (m.serial, c)))
  let ext := (List.range 4).map (fun i => ((l.map (fun e => chipCoord e.2 i + 1)).max?).getD 1)
  let at_ (s : Nat) : Option Nat := (l.find? (fun e => e.1 == s)).map (fun e => e.2)
  let fits (s : Nat) : Bool := (List.range 16).all (fun p =>
    match stepTo ms p s, at_ s with
    | some t, some c => at_ t == some (nextChip (routeWord ext 0 0 false) c p)
    | _, _ => true)
  if !ms.isEmpty && l.length == ms.length && (l.map (fun e => e.2)).dedup.length == l.length && ms.all (fun m => fits m.serial) then
    some (ext, l)
  else none

/-- A port's code once the places are known; the shape is checked where FM_SHAPE.check is set. -/
def wiringCode (ms : List ModRec) (shape : Nat) (pl : List Nat × List (Nat × Nat)) (s p : Nat) : Nat :=
  let i := p / 4
  let n := pl.1.getD i 1
  let want := match i with | 0 => bits shape 3 0 + 1 | 1 => bits shape 7 4 + 1 | 2 => bits shape 10 8 + 1 | _ => bits shape 13 11 + 1
  let at_ (s : Nat) : Option Nat := (pl.2.find? (fun e => e.1 == s)).map (fun e => e.2)
  if cableCode ms s p ≠ 0 then cableCode ms s p
  else
    match nbOf ms s p with
    | none => 0
    | some t =>
      let k := (ringLen ms s (4 * i + p % 2)).getD n
      if dimLimit i < k then 7
      else if k ≠ n ∨ (bit shape 14 ∧ n ≠ want) then 5
      else
        match at_ s, at_ t.serial with
        | some c, some e => if e = nextChip (routeWord pl.1 0 0 false) c p then 0 else 6
        | _, _ => 6

/-- ring_mask: a ring is usable where every placed module has both its ports (R279). -/
def ringMaskOf (present : List Nat) : Nat :=
  ((List.range 8).map (fun k => if present.all (fun m => bit m (4 * (k / 2) + k % 2) && bit m (4 * (k / 2) + 2 + k % 2)) then 2 ^ k else 0)).foldl
    (· + ·) 0

/-! ## Slices (R280-R285) -/

/-- Chips of a hyper-rectangle, in rank order. -/
def rectChips (ring base ext : List Nat) : List Nat :=
  (List.range (ext.getD 0 1)).flatMap (fun a => (List.range (ext.getD 1 1)).flatMap (fun b =>
    (List.range (ext.getD 2 1)).flatMap (fun c => (List.range (ext.getD 3 1)).map (fun e =>
      chipId ([a, b, c, e].zipIdx.map (fun o => (base.getD o.2 0 + o.1) % ring.getD o.2 1))))))

/-- The descriptor (R280). -/
def SliceRec.word (x : SliceRec) : BitVec 256 :=
  let b (i : Nat) : Nat := x.base.getD i 0
  let e (i : Nat) : Nat := x.ext.getD i 1 - 1
  let pl := (x.plist.zipIdx.map (fun q => q.1 * 2 ^ (64 + 6 * q.2))).foldl (· + ·) 0
  BitVec.ofNat 256 (1 + boolNat x.conf * 2 + x.psize * 2 ^ 2 + (x.p - 1) * 2 ^ 5 + x.gen % 4096 * 2 ^ 9 + b 0 * 2 ^ 21 + b 1 * 2 ^ 25 +
    b 2 * 2 ^ 29 + b 3 * 2 ^ 32 + e 0 * 2 ^ 35 + e 1 * 2 ^ 39 + e 2 * 2 ^ 43 + e 3 * 2 ^ 46 + x.exc.length * 2 ^ 49 + pl + x.id * 2 ^ 160)

/-- Member chips: those of the hyper-rectangle that exceptions do not vacate, and those that exceptions name (R285). -/
def SliceRec.chips (x : SliceRec) (ring : List Nat) : List Nat :=
  let r := rectChips ring x.base x.ext
  let vacated (i : Nat) : Bool := (List.range x.p).all (fun k => x.exc.any (fun e => e.1 == i * x.p + k))
  ((r.zipIdx.filter (fun e => !vacated e.2)).map (fun e => e.1) ++ x.exc.map (fun e => e.2.1)).dedup

def SliceRec.ranks (x : SliceRec) : Nat := x.ext.foldl (· * ·) 1 * x.p

/-- A link lies in the hull of a slice (R285). -/
def SliceRec.inHull (x : SliceRec) (ring : List Nat) (chip port : Nat) : Bool :=
  let ms := x.chips ring
  (List.range 4).all (fun i => i == port / 4 || ms.any (fun c => chipCoord c i == chipCoord chip i)) &&
    (!x.conf || (rectChips ring x.base x.ext).contains chip &&
      (rectChips ring x.base x.ext).contains (nextChip (routeWord ring 0 0 false) chip port))

/-- An NI as the manager sees it at a chip: the slice's descriptor and a list of links not to be used. -/
def managerNi (ring : List Nat) (mask chip : Nat) (x : SliceRec) (listed : List (Nat × Nat)) : NI :=
  { NI.init with
    routeCfg := BitVec.ofNat 64 (routeWord ring mask chip x.conf), slices := [(x.slot, x.word)],
    detour := listed.zipIdx.map (fun e => (e.2, BitVec.ofNat 32 (e.1.1 + e.1.2 * 2 ^ 14 + 2 ^ 31))) }

/-- Every pair of members whose paths could cross a new link still has a path (R289). -/
def SliceRec.routable (x : SliceRec) (ring : List Nat) (mask : Nat) (listed new : List (Nat × Nat)) : Bool :=
  let ms := x.chips ring
  (new.filter (fun l => x.inHull ring l.1 l.2)).all (fun l =>
    let i := l.2 / 4
    [true, false].all (fun up =>
      let before (j : Nat) : Bool := if up then j < i else i < j
      let after (j : Nat) : Bool := if up then i < j else j < i
      ms.all (fun s => ms.all (fun t =>
        s == t || !((List.range 4).all (fun j => (!before j || chipCoord t j == chipCoord l.1 j) &&
            (!after j || chipCoord s j == chipCoord l.1 j))) ||
          ((managerNi ring mask s x listed).route 0 x.slot t).isSome))))

/-! ## Trees (R286, R287) -/

/-- The member that a usable link leads to. -/
def treeLink (ring : List Nat) (mask : Nat) (ms : List Nat) (listed : List (Nat × Nat)) (c p : Nat) : Option Nat :=
  let y := nextChip (routeWord ring mask 0 false) c p
  if ms.contains y && y != c && bit mask (2 * (p / 4) + p % 2) && !listed.contains (c, p) && !listed.contains (y, p ^^^ 2) then some y
  else none

/-- A chip joins a tree under another. -/
def addNode (t : List TreeNode) (x y p : Nat) : List TreeNode :=
  if t.any (fun n => n.chip == y) then t
  else t.map (fun n => if n.chip = x then { n with children := n.children + 2 ^ p } else n) ++
    [{ chip := y, parent := some (p ^^^ 2), children := 0 }]

/-- A line of members from a chip, one link per step; none where a member ahead has no usable link. -/
def treeLine (ring : List Nat) (mask : Nat) (ms : List Nat) (listed : List (Nat × Nat)) (i r dir : Nat) :
    Nat → Nat → List TreeNode → Option (List TreeNode)
  | 0, _, t => some t
  | k + 1, x, t =>
    let y := nextChip (routeWord ring mask 0 false) x (4 * i + 2 * dir)
    if !ms.contains y || y == x then some t
    else
      match [4 * i + 2 * dir + r, 4 * i + 2 * dir + (1 - r)].find? (fun p => (treeLink ring mask ms listed x p).isSome) with
      | some p => treeLine ring mask ms listed i r dir k y (addNode t x y p)
      | none => none

def putSorted (n : Nat) : List Nat → List Nat
  | [] => [n]
  | m :: l => if n ≤ m then n :: m :: l else m :: putSorted n l

def sortNat (l : List Nat) : List Nat := l.foldr putSorted []

/-- Every chip reached so far extends along one dimension, both ways. -/
def treeDim (x : SliceRec) (ring : List Nat) (mask : Nat) (ms : List Nat) (listed : List (Nat × Nat)) (r : Nat) (t : List TreeNode)
    (i : Nat) : Option (List TreeNode) :=
  let n := ring.getD i 1
  let e := x.ext.getD i 1
  (sortNat (t.map (fun k => k.chip))).foldl (fun acc c =>
    let o := (chipCoord c i + n - x.base.getD i 0) % n
    let plus := if e = n then n / 2 else e - 1 - o
    let minus := if e = n then n - 1 - n / 2 else o
    acc.bind (fun t => (treeLine ring mask ms listed i r 0 plus c t).bind (fun t => treeLine ring mask ms listed i r 1 minus c t))) (some t)

/-- Breadth first over usable links, ports in the tree's order. -/
def treeBfs (ring : List Nat) (mask : Nat) (ms : List Nat) (listed : List (Nat × Nat)) (ports : List Nat) :
    Nat → List Nat → List TreeNode → List TreeNode
  | 0, _, t => t
  | _, [], t => t
  | fuel + 1, c :: q, t =>
    let r := ports.foldl (fun acc p =>
      match treeLink ring mask ms listed c p with
      | some y => if acc.1.any (fun n => n.chip == y) then acc else (addNode acc.1 c y p, acc.2 ++ [y])
      | none => acc) (t, [])
    treeBfs ring mask ms listed ports fuel (q ++ r.2) r.1

/-- Tree t of a slice; none where the members are not connected. -/
def SliceRec.tree (x : SliceRec) (ring : List Nat) (mask : Nat) (listed : List (Nat × Nat)) (t : Nat) : Option (List TreeNode) :=
  let ms := x.chips ring
  let order := (List.range 4).map (fun i => (t + i) % 4)
  let r := t / 4 % 2
  let off (i : Nat) : Nat :=
    if x.ext.getD i 1 = ring.getD i 1 then t * (i + 1) % ring.getD i 1 else (x.ext.getD i 1 - 1) / 2
  let root0 := chipId ((List.range 4).map (fun i => (x.base.getD i 0 + off i) % ring.getD i 1))
  let root := if ms.contains root0 then root0 else (ms.min?).getD root0
  let start : List TreeNode := [{ chip := root, parent := none, children := 0 }]
  let all (l : List TreeNode) : Bool := ms.all (fun c => l.any (fun n => n.chip == c))
  let first := order.foldl (fun acc i => acc.bind (fun l => treeDim x ring mask ms listed (if bit mask (2 * i + r) then r else 0) l i)) (some start)
  let ports := order.flatMap (fun i => [4 * i + r, 4 * i + (1 - r), 4 * i + 2 + r, 4 * i + 2 + (1 - r)])
  match first with
  | some l => if all l then some l
    else (let b := treeBfs ring mask ms listed ports (ms.length + 1) [root] start; if all b then some b else none)
  | none => (let b := treeBfs ring mask ms listed ports (ms.length + 1) [root] start; if all b then some b else none)

/-- All trees: 16, or one for each member of a smaller slice. -/
def SliceRec.allTrees (x : SliceRec) (ring : List Nat) (mask : Nat) (listed : List (Nat × Nat)) : Option (List (List TreeNode)) :=
  let n := min 16 (x.chips ring).length
  (List.range n).foldl (fun acc t => acc.bind (fun l => (x.tree ring mask listed t).map (fun y => l ++ [y]))) (some [])

/-- The largest window that a number of free slots allows. -/
def windowFor (free : Nat) : Nat := ((List.range 6).map (fun k => 64 * 2 ^ k)).foldl (fun w n => if n ≤ free then n else w) 0

/-- Present ports of a chip, ascending. -/
def portsOf (mask : Nat) : List Nat := (List.range 16).filter (fun p => bit mask p)

/-- A tree's engine on a chip, from entry (t + chip) mod k on: the first with 64 free slots. -/
def engineFor (ports : List Nat) (free : Nat → Nat) (t chip : Nat) : Option Nat :=
  ((List.range ports.length).map (fun i => ports.getD ((t + chip + i) % ports.length) 0)).find? (fun p => 64 ≤ free p)

end Sys2Proof.Machine
end

