-- ==== Sys2Proof/Machine/Mesh.lean ====
section
/-! DEFINITION. The rows of the mesh: a router's step, an edge node's return, the limiter and the starvation mark, the
quiesce under which tables change, a failed router (01_architecture.md R15, 06_mesh.md R177-R186, R198, R199). -/

namespace Sys2Proof.Machine

/-- An operation refused at the NI has completed: the collective it was part of, and the program, may move on. -/
def Dev.afterRefusal (d : Dev) (node : Nat) : Dev :=
  match d.ctxOf node with
  | none => d
  | some ctx =>
    let u := d.rankUnit ctx
    (((d.unit u).ops.filter (fun o => o.ctx == ctx && o.d.rows)).foldl (fun d o => d.collAdvance u o) d).checkDone ctx

/-- ROUTER_STEP. -/
def execRouterStep (plane : Plane) (node : Nat) (s : State) : Answer :=
  let d := doRouterStep s.dev plane node
  s.next (if (d.ni node).live.length < (s.dev.ni node).live.length then d.afterRefusal node else d)

/-- EDGE_RETURN: the oldest flit an edge node holds for return reaches its router as an arrival, one deflection older; nothing
is sent towards a router that has failed (R199). -/
def doEdgeReturn (d : Dev) (p : Plane) (e : Nat) : Dev :=
  let k := 2 * e + planeNat p
  match (d.edge k).ret, attach e with
  | f :: rest, some (node, port) =>
    if smGet false d.mesh.failed (meshKey p node) then d
    else (d.setEdge k { d.edge k with ret := rest }).pushIn p node port { f with age := BitVec.ofNat 8 (min (f.age.toNat + 1) 255) }
  | _, _ => d

def execEdgeReturn (plane : Plane) (enode : Nat) (s : State) : Answer := s.next (doEdgeReturn s.dev plane enode)

/-- LIMITER_RECOVERY (R185). -/
def doLimiterRecovery (d : Dev) (node : Nat) : Dev := d.setNi node { d.ni node with allow := min 64 ((d.ni node).allow + 1) }

def execLimiterRecovery (node : Nat) (s : State) : Answer := s.next (doLimiterRecovery s.dev node)

/-- STARVATION_MARK: the router marks what leaves it until the waiting NI injects (R186). -/
def doStarvationMark (d : Dev) (p : Plane) (node : Nat) : Dev :=
  let n := d.ni node
  match p with
  | .a => if n.outA = [] then d else d.setNi node { n with starveA := true }
  | .b => if n.outB = [] then d else d.setNi node { n with starveB := true }

def execStarvationMark (plane : Plane) (node : Nat) (s : State) : Answer := s.next (doStarvationMark s.dev plane node)

/-! ## The quiesce (R198) -/

/-- MESH_QUIESCE.empty: no flit on the plane, neither on a link nor held for return. -/
def Dev.planeEmpty (d : Dev) (p : Plane) : Bool :=
  d.mesh.inq.all (fun e => e.1 / 4 / 288 != planeNat p || e.2.isEmpty) &&
    d.mesh.edges.all (fun e => e.1 % 2 != planeNat p || e.2.ret.isEmpty)

def execMeshStopA (s : State) : Answer := s.next { s.dev with mesh := { s.dev.mesh with stopA := true } }

/-- MESH_STOP_B: firmware sets stop_b once plane A is stopped and empty. -/
def doMeshStopB (d : Dev) : Dev :=
  if d.mesh.stopA ∧ d.planeEmpty .a then { d with mesh := { d.mesh with stopB := true } } else d

def execMeshStopB (s : State) : Answer := s.next (doMeshStopB s.dev)

/-- A group's tree from its source to a member, column first (R189): whether it passes a router. -/
def treePasses (src member node : Nat) : Bool :=
  let between (a b x : Nat) : Bool := (a ≤ x && x ≤ b) || (b ≤ x && x ≤ a)
  (node % 16 == src % 16 && between (src / 16) (member / 16) (node / 16)) ||
    (node / 16 == member / 16 && between (src % 16) (member % 16) (node % 16))

/-- Whether a valid group's tree passes one of the routers. -/
def groupPasses (x : Nat) (routers : List Nat) : Bool :=
  let src := (homeRouter (grpSource x)).getD 0
  grpValid x && (grpMembers x).any (fun m => routers.any (treePasses src m))

/-- Both planes are stopped and empty. -/
def Dev.meshQuiet (d : Dev) : Bool := d.mesh.stopA && d.mesh.stopB && d.planeEmpty .a && d.planeEmpty .b

/-- Group entries are written in every router's copies on both planes (R187), without valid where their tree passes a fenced
router of the plane. -/
def Mesh.putGroups (m : Mesh) (gs : List (Nat × BitVec 320)) : Mesh :=
  let gone (p : Nat) : List Nat := ((m.fenced.filter (fun e => e.2 && e.1 / 288 == p)).map (fun e => e.1 % 288))
  let word (k : Nat) (w : BitVec 320) : BitVec 320 := if groupPasses w.toNat (gone (k / 288)) then w - 1 else w
  { m with
    toGroups := []
    groups := gs.foldl (fun (t : SMap (BitVec 320)) (g : Nat × BitVec 320) =>
      (List.range 576).foldl (fun t k => smSet 0 t (k * 256 + g.1) (word k g.2)) t) m.groups }

/-- The tables are written on the quiet mesh: the routers marked are fenced, every direction mask becomes one that avoids
them, and groups through them lose valid. -/
def Mesh.applyFences (m : Mesh) : Mesh :=
  let gone (p : Nat) : List Nat := (m.toFence.filter (fun k => k / 288 == p)).map (fun k => k % 288)
  if m.toFence = [] then m
  else
    { m with
      fenced := m.toFence.foldl (fun t k => smSet false t k true) m.fenced
      toFence := []
      dir := m.dir.filter (fun e => (gone (e.1 / 512 / 288)).isEmpty)
      groups := m.groups.filterMap (fun e =>
        if groupPasses e.2.toNat (gone (e.1 / 256 / 288)) then
          (if e.2 - 1 = 0 then none else some (e.1, e.2 - 1))
        else some e) }

/-- Group entries are to be written: at once on the quiet mesh, else by the next quiesce (R198). -/
def Dev.askGroups (d : Dev) (gs : List (Nat × BitVec 320)) : Dev :=
  let l := d.mesh.toGroups.filter (fun e => !gs.any (fun g => g.1 == e.1)) ++ gs
  { d with mesh := if d.meshQuiet then d.mesh.putGroups l else { d.mesh with toGroups := l } }

/-- MESH_RESUME: both stops end; tables that wait for a quiesce are written first, and the installs that wait for them are
done (09_fabric_manager.md R293). -/
def doMeshResume (d : Dev) : Dev :=
  let q := d.meshQuiet
  let m := if q then (d.mesh.putGroups d.mesh.toGroups).applyFences else d.mesh
  let d1 := { d with mesh := { m with stopA := false, stopB := false } }
  if q then d.fm.installWait.foldl (fun d id => d.send (.installDone d.fm.mgr d.fm.epoch id)) { d1 with fm := { d1.fm with installWait := [] } }
  else d1

def execMeshResume (s : State) : Answer := s.next (doMeshResume s.dev)

/-- QUIESCE_TIMEOUT: the chip is reset; the reset names the failed router the quiesce was for, if there was one. -/
def doQuiesceTimeout (d : Dev) : Dev :=
  if (d.mesh.stopA || d.mesh.stopB) && !(d.planeEmpty .a && d.planeEmpty .b) then
    d.chipReset (if d.mesh.toFence = [] then 0 else 0x14) true false
  else d

def execQuiesceTimeout (s : State) : Answer := s.next (doQuiesceTimeout s.dev)

/-- A flit that has not reached a router is with its sender again: the neighbour router, or the edge node, which holds it. -/
def Dev.sendBack (d : Dev) (p : Plane) (node port : Nat) (f : Flit) : Dev :=
  match routerAt node port, edgeAt node port with
  | some n, _ => d.pushIn p n ((port + 2) % 4) f
  | none, some e => d.setEdge (2 * e + planeNat p) { d.edge (2 * e + planeNat p) with ret := (d.edge (2 * e + planeNat p)).ret ++ [f] }
  | none, none => d

/-- ROUTER_FAILED: the flit it holds at each port is lost, what still waits to be sent to it stays with its neighbours, and the
collector hears of it (R199). -/
def doRouterFailed (d : Dev) (p : Plane) (node : Nat) : Dev :=
  if 288 ≤ node ∨ smGet false d.mesh.failed (meshKey p node) then d
  else
    let lost : List Nat := [0, 1, 2, 3].map (inqKey p node)
    let d1 := { d with mesh := { d.mesh with failed := smSet false d.mesh.failed (meshKey p node) true,
                                             inq := d.mesh.inq.filter (fun e => !lost.contains e.1) } }
    ([0, 1, 2, 3].foldl (fun d' port =>
      ((smGet [] d.mesh.inq (inqKey p node port)).drop 1).foldl (fun d' f => d'.sendBack p node port f) d') d1).raiseVat
      node 0x14 (unitRouter p) 0

def execRouterFailed (plane : Plane) (node : Nat) (s : State) : Answer := s.next (doRouterFailed s.dev plane node)

end Sys2Proof.Machine
end

