-- ==== Sys2Proof/Machine/FmSlices.lean ====
section
/-! DEFINITION. The fabric manager's slices: carving, the tables a member writes, reactions, aborts and restarts, and the
commands of group 0x06 (09_fabric_manager.md R271, R272, R280-R297, 12_rennet.md R372, R373, 14_recovery.md R421-R425). -/

namespace Sys2Proof.Machine

/-! ## Decisions and messages (R272) -/

/-- A manager's order to a member: it leaves once the standby has acknowledged the decision. -/
def Dev.say (d : Dev) (m : FmMsg) : Dev :=
  if d.fm.syncWait then { d with fm := { d.fm with held := d.fm.held ++ [m] } } else d.send m

/-- Tags of the manager's own requests: a TAKEOVER to chip c has tag c, a STATE_SYNC to it 0x4000 + c. -/
def syncTag (chip : Nat) : Nat := 0x4000 + chip

/-- A request as another module is to answer it: one from a mailbox here by its reference. -/
def Dev.awayReq (d : Dev) (w : WaitReq) : WaitReq :=
  if w.chip.isNone then { w with chip := some d.fm.chip, a := 256 * w.a + w.b, b := 0, acked := true } else w

/-- The same on the other side: one that came from this module's own mailboxes. -/
def Dev.homeReq (d : Dev) (w : WaitReq) : WaitReq :=
  if w.chip = some d.fm.chip then { w with chip := none, a := w.a / 256, b := w.a % 256 } else w

/-- The manager's state, for its standby. -/
def Dev.fmState (d : Dev) : FmState :=
  { journal := d.fm.journal, modules := d.fm.modules, extents := d.fm.extents, ringMask := d.fm.ringMask,
    slices := d.fm.slices.map (fun x => { x with waiter := x.waiter.map d.awayReq }), listed := d.fm.listed, nextSlice := d.fm.nextSlice,
    waiting := d.fm.waiting.map d.awayReq }

/-- A decision, as it stands in the manager's state, goes to the standby before it is acted on. -/
def Dev.journalise (d : Dev) : Dev :=
  match d.fm.standby with
  | none => d
  | some s =>
    let d1 := { d with fm := { d.fm with journal := d.fm.journal + 1, syncWait := true, mgtTags := d.fm.mgtTags ++ [syncTag s] } }
    d1.send (.stateSync s d1.fm.epoch d1.fmState false)

/-- The standby has acknowledged, or is no longer waited for: what was held leaves. -/
def Dev.syncDone (d : Dev) : Dev :=
  d.fm.held.foldl (fun d m => d.send m) { d with fm := { d.fm with syncWait := false, held := [] } }

def Dev.sliceRec (d : Dev) (id : Nat) : Option SliceRec := d.fm.slices.find? (fun x => x.id == id)

def Dev.setSlice (d : Dev) (x : SliceRec) : Dev :=
  { d with fm := { d.fm with slices := d.fm.slices.map (fun y => if y.id = x.id then x else y) } }

/-- The slice's record with its state reported (R296). -/
def Dev.putSlice (d : Dev) (x : SliceRec) : Dev := (d.setSlice x).sliceState x.id x.st

def FM.managing (x : FM) : Bool := x.role == 3 && x.control

/-! ## What the manager knows of a chip (R282) -/

/-- Partitions in service: number, size, confidential, slots taken, slots with a context, last generations. -/
def Dev.ownParts (d : Dev) : List (Nat × Nat × Bool × Nat × Nat × List Nat) :=
  let mask (l : List Nat) : Nat := (l.map (fun s => 2 ^ s)).foldl (· + ·) 0
  (List.range 64).filterMap (fun p =>
    let q := d.part p
    if q.st ≠ 1 ∨ d.rrc.oos then none
    else some (p, q.psize, q.conf, mask ((List.range 16).filter (fun s => !d.slotFree p s)),
      mask ((List.range 16).filter (fun s => (d.ctx (16 * p + s)).live)), (List.range 16).map (fun s => smGet 0 d.lastGen (16 * p + s))))

def Dev.viewOf (d : Dev) (chip : Nat) : List (Nat × Nat × Bool × Nat × Nat × List Nat) :=
  if chip = d.fm.chip then d.ownParts else Config.remoteParts chip d.free

def Dev.placedChips (d : Dev) : List Nat := (d.fm.modules.filter (fun m => m.placed && !m.failed)).map (fun m => m.chip)

def Dev.portsAt (d : Dev) (chip : Nat) : List Nat :=
  if chip = d.fm.chip then portsOf d.presentPorts
  else match d.fm.modules.find? (fun m => m.placed && m.chip == chip) with
    | some m => portsOf m.present
    | none => []

/-- Free chunk slots of an engine without those of a slice's own trees (R287; other chips are taken as this one,
notes/assumptions/12.md). -/
def Dev.freeSlots (d : Dev) (head port : Nat) : Nat :=
  64 * 2 ^ (d.port port).bufSize -
    ((List.range 1024).map (fun t =>
      let e := d.tree (0x140 + port) t
      if teValid e ∧ teEngine e = port ∧ t / 16 ≠ head then teWindow e else 0)).foldl (· + ·) 0

/-- Engines and window of every tree of a slice, the windows of earlier trees taken off. -/
def Dev.planTrees (d : Dev) (head : Nat) (chips : List Nat) (n : Nat) : Option (List (List (Nat × Nat) × Nat)) :=
  ((List.range n).foldl (fun (acc : Option (List (List (Nat × Nat) × Nat) × List ((Nat × Nat) × Nat))) t =>
    acc.bind (fun a =>
      let used (c p : Nat) : Nat := ((a.2.filter (fun e => e.1 == (c, p))).map (fun e => e.2)).foldl (· + ·) 0
      let free (c p : Nat) : Nat := d.freeSlots head p - used c p
      let es := chips.map (fun c => (c, engineFor (d.portsAt c) (free c) t c))
      if es.any (fun e => e.2.isNone) then none
      else
        let l := es.map (fun e => (e.1, e.2.getD 0))
        let w := windowFor (min 2048 (((l.map (fun e => free e.1 e.2)).min?).getD 0))
        some (a.1 ++ [(l, w)], a.2 ++ l.map (fun e => (e, w))))) (some ([], []))).map (fun a => a.1)

/-! ## Tables of one member (R280, R281, R287, R288) -/

/-- Listed links in the slice's hull: what NI_DETOUR holds. -/
def Dev.detoursOf (d : Dev) (x : SliceRec) : List (Nat × Nat) := d.fm.listed.filter (fun l => x.inHull d.fm.extents l.1 l.2)

/-- A group of the chip that is not in use, the `n`-th of them. -/
def Dev.freeGroup (d : Dev) (n : Nat) : Option Nat := ((List.range 256).filter (fun g =>
  !grpValid (d.group .a 0 g) && !d.mesh.toGroups.any (fun e => e.1 == g && grpValid e.2.toNat)))[n]?

def Dev.sliceVats (d : Dev) (x : SliceRec) : List Nat := x.plist.flatMap (fun p => d.partNodes p)

/-- A tree entry (08_collectives.md R247). -/
def treeWord (x : SliceRec) (root : Bool) (engine parent children group window n : Nat) : BitVec 64 :=
  BitVec.ofNat 64 (1 + boolNat root * 2 + engine * 2 ^ 2 + parent * 2 ^ 6 + children * 2 ^ 10 + group * 2 ^ 26 + boolNat x.conf * 2 ^ 34 +
    window * 2 ^ 35 + x.gen * 2 ^ 47 + (n - 1) * 2 ^ 59)

/-- The router that an engine of the chip attaches to. -/
def engineRouter (p : Nat) : Nat := (homeRouter (0x140 + p)).getD 0

/-- What INSTALL carries to a chip; none where the trees find no slots. -/
def Dev.installMsg (d : Dev) (x : SliceRec) (chip : Nat) : Option InstallMsg :=
  let head := x.plist.headD 0
  let n := x.trees.length
  (d.planTrees head (x.chips d.fm.extents) n).map (fun plan =>
    let ent (t : Nat) : Nat × Nat × Option Nat :=
      let e := ((((plan.getD t ([], 0)).1.find? (fun q => q.1 == chip)).map (fun q => q.2))).getD 0
      (e, (plan.getD t ([], 0)).2, d.freeGroup t)
    let word (t : Nat) : BitVec 64 :=
      match (x.trees.getD t []).find? (fun k => k.chip == chip) with
      | some k => treeWord x k.parent.isNone (ent t).1 (k.parent.getD 0) k.children ((ent t).2.2.getD 255) (ent t).2.1 n
      | none => 0
    let grp (t : Nat) : Option (Nat × BitVec 320) := (ent t).2.2.map (fun g =>
      (g, BitVec.ofNat 320 (1 + engineRouter (ent t).1 * 2 ^ 2 + (16 * head + x.slot) * 2 ^ 11 +
        ((d.sliceVats x).map (fun v => 2 ^ (32 + v))).foldl (· + ·) 0)))
    { epoch := d.fm.epoch, sliceId := x.id, slot := x.slot,
      detours := (d.detoursOf x).zipIdx.map (fun e => (e.2, BitVec.ofNat 32 (e.1.1 + e.1.2 * 2 ^ 14 + 2 ^ 31))),
      routeCfg := BitVec.ofNat 64 (routeWord d.fm.extents d.fm.ringMask chip x.conf), slice := x.word,
      exc := x.exc.zipIdx.map (fun e => (e.2, excWord e.1.1 e.1.2.1 e.1.2.2.1 e.1.2.2.2)),
      trees := (List.range n).map (fun t => (16 * head + t, word t)),
      groups := (List.range n).filterMap grp, homes := (x.moves.filter (fun e => e.1 == chip)).map (fun e => e.2) })

/-- The tables of a slice's end: an invalid descriptor. -/
def Dev.clearMsg (d : Dev) (x : SliceRec) (chip : Nat) : InstallMsg :=
  { epoch := d.fm.epoch, sliceId := x.id, slot := x.slot, detours := [],
    routeCfg := BitVec.ofNat 64 (routeWord d.fm.extents d.fm.ringMask chip false), slice := 0, exc := [], trees := [], groups := [],
    homes := [] }

/-- Partitions of this chip that a descriptor makes members, with their slots. -/
def memberSlots (m : InstallMsg) (chip : Nat) : List (Nat × Nat) :=
  let x := m.slice.toNat
  ((List.range (sdP x)).map (fun i => (sdPlist x i, m.slot)) ++
    (m.exc.filter (fun e => bits e.2.toNat 33 20 == chip)).map (fun e => (bits e.2.toNat 39 34, bits e.2.toNat 43 40))).dedup

/-- A slice of one chip moves its ranks and ends its generations under its own firmware, without messages (14_recovery.md R424):
where its manager is another module, what it holds itself stands. -/
def Dev.ownTables (d : Dev) (m : InstallMsg) : InstallMsg :=
  match d.sliceNis m.sliceId with
  | [] => m
  | e :: _ =>
    let n := d.ni e.1
    let x := n.slice e.2
    let k := sdXcount x
    let w := m.slice.toNat
    if d.fm.slices.any (fun y => y.id == m.sliceId) || 1 < sdExt w 0 * sdExt w 1 * sdExt w 2 * sdExt w 3 || !m.exc.isEmpty ||
        n.spreads e.2 then m
    else { m with slice := BitVec.ofNat 256 (setBits (setBits w 20 9 (sdGen x)) 57 49 k),
                  exc := (List.range k).map (fun i => (i, smGet 0 n.exc (256 * e.2 + i))) }

/-- Contexts of a slice here whose rank now runs on another chip. -/
def Dev.movedOff (d : Dev) (m : InstallMsg) : List Nat :=
  (d.sliceCtxs m.sliceId).filter (fun c => m.exc.any (fun e =>
    bits e.2.toNat 19 0 == (d.ctx c).rank && bits e.2.toNat 33 20 != d.fm.chip))

/-- A member writes its tables in the order of R293; a second time it writes the same again. Group entries wait for a quiet mesh
(06_mesh.md R198). -/
def Dev.writeTables (d : Dev) (m0 : InstallMsg) : Dev :=
  if m0.slice = 0 then (d.sliceCtxs m0.sliceId).foldl (fun d c => d.removeCtx c) (d.dropTables m0.sliceId)
  else
    let m := d.ownTables m0
    let d0 := m.homes.foldl (fun d e => if (d.ctx e.1).live && !(d.ctx e.2).live then d.moveCtx e.1 e.2 else d)
      ((d.movedOff m).foldl (fun d c => d.removeCtx c) d)
    let ms := memberSlots m d0.fm.chip
    let gen := sdGen m.slice.toNat
    let d1 := ms.foldl (fun d e =>
      (d.partNodes e.1).foldl (fun d n =>
        let x := d.ni n
        d.setNi n { x with detour := m.detours, routeCfg := m.routeCfg, slices := smSet 0 x.slices e.2 m.slice,
                           exc := m.exc.foldl (fun t q => smSet 0 t (256 * e.2 + q.1) q.2) (x.exc.filter (fun q => q.1 / 256 != e.2)) })
        { d with lastGen := smSet 0 d.lastGen (16 * e.1 + e.2) gen }) d0
    let head := sdPlist m.slice.toNat 0
    let d2 := m.trees.foldl (fun d e => d.writeTree e.1 e.2) { d1 with trees := d1.trees.filter (fun e => e.1 % 1024 / 16 != head) }
    d2.askGroups m.groups

/-! ## Carving (R282, R283) -/

/-- A carve at one base; none where the base is passed over. -/
def Dev.carveAt (d : Dev) (x : SliceRec) : Option SliceRec :=
  let chips := rectChips d.fm.extents x.base x.ext
  if !chips.all (fun c => d.placedChips.contains c) then none
  else
    let fits (c q : Nat) : Bool := (d.viewOf c).any (fun v => v.1 == q && v.2.1 == x.psize && v.2.2.1 == x.conf)
    let l := ((List.range 64).filter (fun q => chips.all (fun c => fits c q))).take x.p
    let members (c : Nat) : List (Nat × Nat × Bool × Nat × Nat × List Nat) := (d.viewOf c).filter (fun v => l.contains v.1)
    if l.length < x.p then none
    else
      match (List.range 16).find? (fun s => chips.all (fun c => (members c).all (fun v => !bit v.2.2.2.1 s))) with
      | none => none
      | some s =>
        if (1 < x.p * chips.length || x.conf) && chips.any (fun c => (members c).any (fun v => v.2.2.2.2.1 != 0)) then none
        else
          let last := (chips.flatMap (fun c => (members c).map (fun v => v.2.2.2.2.2.getD s 0))).max?.getD 0
          let y := { x with plist := l, slot := s, gen := (last + 1) % 4096 }
          if !y.routable d.fm.extents d.fm.ringMask (d.detoursOf y) (d.detoursOf y) || 512 < (d.detoursOf y).length then none
          else
            match y.allTrees d.fm.extents d.fm.ringMask (d.detoursOf y) with
            | none => none
            | some ts => (let z := { y with trees := ts }
                          if (d.planTrees (l.headD 0) chips ts.length).isSome then some z else none)

/-- Every base of the fabric in ascending chip-id order. -/
def basesOf (ring : List Nat) : List (List Nat) :=
  (List.range (ring.getD 3 1)).flatMap (fun c3 => (List.range (ring.getD 2 1)).flatMap (fun c2 =>
    (List.range (ring.getD 1 1)).flatMap (fun c1 => (List.range (ring.getD 0 1)).map (fun c0 => [c0, c1, c2, c3]))))

def bytes4 (l : List Nat) : List Byte := (List.range 4).flatMap (fun i => leBytes 1 (l.getD i 0))

/-- The payload that SLICE_CREATE answers with. -/
def SliceRec.created (x : SliceRec) : List Byte :=
  leBytes 4 x.id ++ bytes4 x.base ++ leBytes 1 x.slot ++ leBytes 1 0 ++ leBytes 2 x.gen ++
    (List.range 16).flatMap (fun i => leBytes 1 (x.plist.getD i 0xFF))

/-- A slice whose members are this chip alone, under a manager without a standby, is written at once. -/
def Dev.writesHere (d : Dev) (x : SliceRec) : Bool := x.chips d.fm.extents == [d.fm.chip] && d.fm.standby.isNone

/-- INSTALL to every member. -/
def Dev.sayInstalls (d : Dev) (x : SliceRec) (msg : Nat → Option InstallMsg) : Dev :=
  (x.chips d.fm.extents).foldl (fun d c => match msg c with | some m => d.say (.install c m) | none => d) d

/-- SLICE_CREATE at the manager. -/
def Dev.sliceCreate (d : Dev) (w : WaitReq) : Dev :=
  let r := w.req
  let flags := leAt r 0x08 1
  let p := leAt r 0x09 1
  let psize := leAt r 0x0A 1
  let base := (List.range 4).map (fun i => leAt r (0x0C + i) 1)
  let ext := (List.range 4).map (fun i => leAt r (0x10 + i) 1)
  let ring := d.fm.extents
  let bad (off : Nat) : Dev := d.reply6 w rInvalid (leBytes 2 off ++ leBytes 2 0 ++ leBytes 4 0)
  if 4 ≤ flags then bad 0x08
  else if p = 0 ∨ 16 < p then bad 0x09
  else if 4 < psize then bad 0x0A
  else if bit flags 1 && !(List.range 4).all (fun i => base.getD i 0 < ring.getD i 1) then bad 0x0C
  else if !(List.range 4).all (fun i => 1 ≤ ext.getD i 0 && ext.getD i 0 ≤ ring.getD i 1) then bad 0x10
  else
    let x0 : SliceRec :=
      { id := d.fm.nextSlice, st := 0, conf := bit flags 0, base := base, ext := ext, p := p, psize := psize, slot := 0, gen := 0,
        plist := [], exc := [], trees := [], awaiting := [], installing := true, outcomes := [], newLinks := [],
        reports := [], waiter := some w, destroying := false, lastStep := 0, resumes := 0, moves := [], rebuilt := false, suspect := false }
    let bases := if bit flags 1 then [base] else basesOf ring
    let d1 := { d with free := d.free + 1 }
    match bases.findSome? (fun b => d.carveAt { x0 with base := b }) with
    | none => d1.reply6 w rNoResource (leBytes 8 0)
    | some x =>
      let d2 := { d1 with fm := { d1.fm with nextSlice := d1.fm.nextSlice + 1 } }
      if d.writesHere x then
        (let y := { x with st := 1, waiter := none }
         let d3 := { d2 with fm := { d2.fm with slices := d2.fm.slices ++ [y] } }
         let d4 := match d.installMsg x d.fm.chip with | some m => d3.writeTables m | none => d3
         d4.reply6 w 0 x.created)
      else
        let d3 := { d2 with fm := { d2.fm with slices := d2.fm.slices ++ [{ x with awaiting := x.chips ring }] } }.journalise
        d3.sayInstalls x (fun c => d.installMsg x c)

/-! ## Aborts (R297, 14_recovery.md R421-R423) -/

/-- The manager aborts a slice: every member is told, and is to report. -/
def Dev.managerAbort (d : Dev) (x : SliceRec) (cause : Nat) : Dev :=
  let cs := x.chips d.fm.extents
  let d1 := (d.putSlice { x with st := 5, awaiting := cs, installing := false, reports := [], outcomes := [], suspect := false }).journalise
  cs.foldl (fun d c => d.say (.abortTo c { sliceId := x.id, gen := x.gen, origin := d.fm.chip, cause := cause })) d1

/-- SLICE_DESTROY at the manager: the members tear down, then the tables go, then it answers (12_rennet.md R372). -/
def Dev.sliceDestroy (d : Dev) (w : WaitReq) (x : SliceRec) : Dev :=
  let y := { x with destroying := true, waiter := some w }
  if d.writesHere x then
    (let cs := d.sliceCtxs x.id
     match cs with
     | [] => ((d.setSlice y).dropTables x.id).closeSlice x.id
     | c :: _ => (d.setSlice y).resetCtx c (newTear 0 false false true none))
  else d.managerAbort y 0

/-! ## Group 0x06 (R271, R295, R373) -/

def inReaction (st : Nat) : Bool := st == 0 || st == 2 || st == 3 || st == 4 || st == 5

/-- The response of SLICE_QUERY. -/
def SliceRec.query (x : SliceRec) : List Byte :=
  leBytes 1 x.st ++ leBytes 1 (boolNat x.conf) ++ leBytes 2 x.gen ++ bytes4 x.base ++ bytes4 x.ext ++ leBytes 1 x.p ++ leBytes 1 x.psize ++
    leBytes 1 x.slot ++ leBytes 1 x.trees.length ++ leBytes 2 x.exc.length ++ leBytes 2 0 ++
    (List.range 16).flatMap (fun i => leBytes 1 (x.plist.getD i 0xFF))

/-- The response of FABRIC_MAP, and a record of each module (12_rennet.md R372). -/
def Dev.fabricHead (d : Dev) (st records : Nat) : List Byte :=
  let x := d.fm
  leBytes 1 st ++ leBytes 1 x.ringMask ++ leBytes 2 0 ++ bytes4 x.extents ++ leBytes 4 x.epoch ++
    leBytes 2 (if st = 0 then x.mgr else 0xFFFF) ++ leBytes 2 (x.standby.getD 0xFFFF) ++
    leBytes 2 (x.modules.filter (fun m => m.placed)).length ++ leBytes 2 (x.modules.filter (fun m => !m.placed)).length ++
    leBytes 4 x.listed.length ++ leBytes 4 records

def ModRec.record (m : ModRec) : List Byte :=
  leBytes 8 m.serial ++ leBytes 2 m.chip ++ leBytes 1 m.role ++ leBytes 1 (boolNat m.placed) ++ leBytes 4 0 ++
    (List.range 16).flatMap (fun p => leBytes 1 (smGet 0 m.portSt p))

/-- The manager serves a request, or keeps it while its slice is in a reaction. -/
def Dev.serve6 (d : Dev) (w : WaitReq) : Dev :=
  let id := leAt w.req 8 4
  let keep (d : Dev) : Dev := { d with fm := { d.fm with waiting := d.fm.waiting ++ [w] } }
  let absent : Dev := d.reply6 w rNotFound (leBytes 2 8 ++ leBytes 6 0)
  match leAt w.req 0 2 with
  | 0x0601 => d.sliceCreate w
  | 0x0602 =>
    (match d.sliceRec id with
     | none => absent
     | some x => if inReaction x.st || x.destroying then keep d else d.sliceDestroy w x)
  | 0x0603 =>
    (match d.sliceRec id with
     | none => absent
     | some x => if x.st = 2 ∨ x.st = 3 ∨ x.st = 4 then keep d else d.reply6 w 0 x.query)
  | 0x0604 => d.reply6 w 0 (d.fabricHead 0 d.fm.modules.length)
  | _ => d.reply6 w rInvalid (leBytes 8 0)

/-- Requests that waited for a slice are served. -/
def Dev.serveWaiting (d : Dev) (id : Nat) : Dev :=
  let mine (w : WaitReq) : Bool := (leAt w.req 0 2 == 0x0602 || leAt w.req 0 2 == 0x0603) && leAt w.req 8 4 == id
  let ws := d.fm.waiting.filter mine
  ws.foldl (fun d w => d.serve6 w) { d with fm := { d.fm with waiting := d.fm.waiting.filter (fun w => !mine w) } }

/-! ## Reactions (R290-R295) -/

/-- A reaction starts for a slice in service, or a change joins the one that runs. -/
def Dev.startReaction (d : Dev) (x : SliceRec) (links : List (Nat × Nat)) : Dev :=
  if x.st ≠ 1 then d.setSlice { x with newLinks := x.newLinks ++ links }
  else
    let cs := x.chips d.fm.extents
    let d1 := (d.putSlice { x with st := 2, awaiting := cs, installing := false, outcomes := [], newLinks := links }).journalise
    cs.foldl (fun d c => d.say (.drain c d.fm.epoch x.id x.slot)) d1

/-- A slice that cannot be repaired: its members run no program (R296, 14_recovery.md R424). -/
def Dev.giveUp (d : Dev) (x : SliceRec) (st : Nat) : Dev :=
  let d1 := (d.putSlice { x with st := st, awaiting := [] }).journalise
  (x.chips d.fm.extents).foldl (fun d c => d.say (.restart c d.fm.epoch x.id x.gen none)) d1

/-- New tables for a slice, and their installation; without a path or a tree it cannot go on. -/
def Dev.installNew (d : Dev) (x : SliceRec) (st : Nat) (refuse : Dev → SliceRec → Nat → Dev) : Dev :=
  let ds := d.detoursOf x
  if 512 < ds.length then refuse d x 6
  else if !x.routable d.fm.extents d.fm.ringMask ds x.newLinks then refuse d x 7
  else
    match x.allTrees d.fm.extents d.fm.ringMask ds with
    | none => refuse d x 6
    | some ts =>
      let y := { x with trees := ts, st := st, awaiting := x.chips d.fm.extents, installing := true, newLinks := [] }
      if (d.planTrees (y.plist.headD 0) (y.chips d.fm.extents) ts.length).isNone then refuse d x 6
      else ((d.putSlice y).journalise).sayInstalls y (fun c => d.installMsg y c)

/-- Every member is idle: tables, or the abort of a slice that has none (R290, R297). -/
def Dev.afterDrain (d : Dev) (x : SliceRec) : Dev := d.installNew { x with moves := [] } 3 (fun d x _ => d.managerAbort x 0)

/-- The code of every FAILING collective (08_collectives.md R261). -/
def outcomeOf (written : Bool) : Nat := if written then 0x09 else 0x0A

/-- The written bits of members' reports, one for each FAILING collective. -/
def mergeOutcomes (old new : List (Nat × Bool)) : List (Nat × Bool) :=
  new.foldl (fun l w => if l.any (fun q => q.1 == w.1) then l.map (fun q => if q.1 = w.1 then (q.1, q.2 || w.2) else q) else l ++ [w]) old

/-- A chip that is treated as failed. -/
def Dev.lostChip (d : Dev) (chip : Nat) : Bool :=
  d.fm.silent.contains chip || d.fm.modules.any (fun (m : ModRec) => m.placed && m.chip == chip && m.failed)

/-- Where a rank runs: chip, partition, slot. -/
def Dev.rankHome (d : Dev) (x : SliceRec) (rank : Nat) : Option (Nat × Nat × Nat) :=
  match x.exc.find? (fun e => e.1 == rank) with
  | some e => some (e.2.1, e.2.2.1, e.2.2.2)
  | none => (managerNi d.fm.extents d.fm.ringMask d.fm.chip x []).translate 0 x.slot rank

/-- Spare chips of a slice: neighbours of a member across an UP, unlisted link, in the order of the members and of their ports
(DESIGN CHOICE, notes/assumptions/48.md); a confidential slice has none (R283). -/
def Dev.spareChips (d : Dev) (x : SliceRec) : List Nat :=
  let ring := d.fm.extents
  let ms := x.chips ring
  let cfg := routeWord ring d.fm.ringMask 0 false
  if x.conf then []
  else
    ((ms.filter (fun c => !d.lostChip c)).flatMap (fun c => (d.portsAt c).filterMap (fun p =>
      let y := nextChip cfg c p
      if d.fm.listed.contains (c, p) || d.fm.listed.contains (y, p ^^^ 2) || !bit d.fm.ringMask (2 * (p / 4) + p % 2) || ms.contains y ||
          !d.placedChips.contains y then none
      else some y))).dedup

/-- Where the manager moves a rank (R284): another partition of its chip, its quadrant before another; then one of a spare chip; the
rank's own slot before the lowest free one. `taken` holds the places of earlier moves. Old context, and the new place. -/
def Dev.managerPlace (d : Dev) (x : SliceRec) (taken : List (Nat × Nat)) (rank : Nat) : Option (Nat × Nat × Nat × Nat) :=
  match d.rankHome x rank with
  | none => none
  | some (chip, part, slot) =>
    let free (c : Nat) (v : Nat × Nat × Bool × Nat × Nat × List Nat) : Bool :=
      v.2.1 == x.psize && v.2.2.1 == x.conf && v.2.2.2.2.1 == 0 && !taken.contains (c, v.1)
    let pick (c : Nat) (v : Nat × Nat × Bool × Nat × Nat × List Nat) : Option (Nat × Nat × Nat × Nat) :=
      if !bit v.2.2.2.1 slot then some (16 * part + slot, c, v.1, slot)
      else ((List.range 16).find? (fun s => !bit v.2.2.2.1 s)).map (fun s => (16 * part + slot, c, v.1, s))
    let own := if d.lostChip chip then []
      else (d.viewOf chip).filter (fun v => free chip v && v.1 != part && (chip != d.fm.chip || d.spareFor part v.1))
    match (own.filter (fun v => v.1 / 16 == part / 16) ++ own.filter (fun v => v.1 / 16 != part / 16)).findSome? (pick chip) with
    | some r => some r
    | none => (d.spareChips x).findSome? (fun c => ((d.viewOf c).filter (free c)).findSome? (pick c))

/-- The exceptions after the moves of some ranks, and (rank, chip, old context, new context) of each; none = no place, or no
exception entry left. -/
def Dev.moveRanks (d : Dev) (x : SliceRec) (ranks : List Nat) : Option (SliceRec × List (Nat × Nat × Nat × Nat)) :=
  ranks.foldl (fun acc r => acc.bind (fun (a : SliceRec × List (Nat × Nat × Nat × Nat)) =>
    match d.managerPlace { x with exc := a.1.exc } (a.2.map (fun m => (m.2.1, m.2.2.2 / 16))) r with
    | none => none
    | some (old, chip, p, s) =>
      let l := putExc a.1.exc (r, chip, p, s)
      if 256 < l.length then none else some ({ a.1 with exc := l }, a.2 ++ [(r, chip, old, 16 * p + s)]))) (some (x, []))

/-- Every member has reported: the slice ends, moves its ranks and is installed anew, or cannot go on (14_recovery.md R424,
R425, R428). A rank that leaves its chip leaves its memory and its report with it; a chip that no rank is left on is no member. -/
def Dev.afterReports (d : Dev) (x : SliceRec) : Dev :=
  let y := { x with gen := (x.reports.map (fun (r : RankReport) => r.gen)).head?.getD ((x.gen + 1) % 4096) }
  let ring := d.fm.extents
  if y.destroying then
    (let z := { y with awaiting := (y.chips ring).filter (fun c => !d.lostChip c), installing := true }
     if z.awaiting = [] then ((d.setSlice z).closeSlice z.id).journalise.serveWaiting z.id else
     (d.setSlice z).journalise.sayInstalls z (fun c => some (d.clearMsg z c)))
  else
    let home (r : Nat) : Option Nat := (d.rankHome y r).map (fun h => h.1)
    let lost := (List.range y.ranks).filter (fun r => ((home r).map d.lostChip).getD false)
    let fewer := ((y.reports.filter (fun (r : RankReport) => r.fenced)).map (fun (r : RankReport) => r.rank)).filter (fun r => !lost.contains r)
    match d.moveRanks y (fewer ++ lost) with
    | none => d.giveUp y 6
    | some (z, mv) =>
      let off (m : Nat × Nat × Nat × Nat) : Bool := home m.1 != some m.2.1
      let w := { z with reports := z.reports.filter (fun (r : RankReport) => !mv.any (fun m => m.1 == r.rank && off m)),
                        moves := (mv.filter (fun m => !off m)).map (fun m => m.2) }
      let gone := (y.chips ring).filter (fun c => !(w.chips ring).contains c && !d.lostChip c)
      let d1 := Dev.installNew { d with free := d.free + 1 } w 5 (fun d x st => d.giveUp x st)
      gone.foldl (fun d c => d.say (.install c (d.clearMsg w c))) d1

/-- Some rank has moved to a spare chip and has no context there: the job starts from outside (R428). -/
def SliceRec.unstarted (x : SliceRec) : Bool := x.exc.any (fun e => !x.reports.any (fun (r : RankReport) => r.rank == e.1))

/-- The manager chooses the step and sends RESTART; the slice runs, or has failed. -/
def Dev.restartAll (d : Dev) (x : SliceRec) : Dev :=
  let go (d : Dev) (x : SliceRec) (step : Option Nat) : Dev :=
    (x.chips d.fm.extents).foldl (fun d c => d.say (.restart c d.fm.epoch x.id x.gen step)) d.journalise
  if !autoResume d.rrc.cfg || x.unstarted then go (d.putSlice { x with st := 1 }) x none
  else
    match if x.reports.length < x.ranks then none else commonStep (x.reports.map (fun r => r.steps)) with
    | none => d.giveUp x 6
    | some n =>
      if x.lastStep = n ∧ x.resumes ≠ 0 ∧ resumeLimit d.rrc.cfg ≤ x.resumes then
        (d.raise (plainMsg rrcSrc 0x68 0)).giveUp x 6
      else
        let y := { x with st := 1, lastStep := n, resumes := if x.lastStep = n ∧ x.resumes ≠ 0 then x.resumes + 1 else 1 }
        go (d.putSlice y) y (some n)

/-- Every member has installed: a slice is created, resumed, restarted or gone. -/
def Dev.afterInstall (d : Dev) (x : SliceRec) : Dev :=
  if x.destroying then (d.closeSlice x.id).journalise.serveWaiting x.id
  else
    match x.st with
    | 0 =>
      let d1 := (d.putSlice { x with st := 1, waiter := none }).journalise
      (match x.waiter with | some w => d1.reply6 w 0 x.created | none => d1)
    | 3 =>
      let cs := x.chips d.fm.extents
      let d1 := (d.putSlice { x with st := 4 }).journalise
      let d2 := cs.foldl (fun d c => d.say (.resume c d.fm.epoch x.id x.slot (x.outcomes.map (fun q => (q.1, outcomeOf q.2))))) d1
      let y := { x with st := 1, newLinks := [] }
      let d3 := (d2.putSlice y).journalise.serveWaiting x.id
      if x.newLinks = [] then d3 else d3.startReaction y x.newLinks
    | 5 => (d.restartAll x).serveWaiting x.id
    | _ => d

/-! ## Failed links and chips (R288, R290, 14_recovery.md R428) -/

/-- Links listed in both directions, those not listed before. -/
def Dev.listLinks (d : Dev) (ls : List (Nat × Nat)) : Dev × List (Nat × Nat) :=
  let cfg := routeWord d.fm.extents 0 0 false
  let both := ls.flatMap (fun l => [l, (nextChip cfg l.1 l.2, l.2 ^^^ 2)])
  let new := (both.filter (fun l => !d.fm.listed.contains l)).dedup
  ({ d with fm := { d.fm with listed := d.fm.listed ++ new } }, new)

/-- A tree of the slice uses a link. -/
def SliceRec.treeUses (x : SliceRec) (l : Nat × Nat) : Bool :=
  x.trees.any (fun t => t.any (fun k => k.chip == l.1 && (bit k.children l.2 || k.parent == some l.2)))

/-- Every slice that the links affect reacts. -/
def Dev.reactTo (d : Dev) (new : List (Nat × Nat)) : Dev :=
  if new = [] then d
  else
    d.fm.slices.foldl (fun (d : Dev) (x : SliceRec) =>
      if x.chips d.fm.extents ≠ [d.fm.chip] && !x.destroying && new.any (fun l => x.inHull d.fm.extents l.1 l.2 || x.treeUses l) then
        d.startReaction x new
      else d) d

/-- The ports of a chip as far as they are known: those of the fabric's rings where the chip's module is not. -/
def Dev.ringPorts (d : Dev) (chip : Nat) : List Nat :=
  if d.fm.modules.any (fun (m : ModRec) => m.placed && m.chip == chip) then d.portsAt chip
  else (List.range 16).filter (fun p => bit d.fm.ringMask (2 * (p / 4) + p % 2))

/-- A chip is treated as failed: its links are listed, and the slices that have it as a member are aborted and carved anew onto
spare chips, where there are any. -/
def Dev.chipFails (d : Dev) (chip : Nat) : Dev :=
  if d.lostChip chip then d
  else
    let known := d.fm.modules.any (fun (m : ModRec) => m.placed && m.chip == chip)
    let d1 := { d with fm := { d.fm with
      modules := d.fm.modules.map (fun (m : ModRec) => if m.placed && m.chip == chip then { m with failed := true } else m),
      silent := if known then d.fm.silent else d.fm.silent ++ [chip],
      acks := d.fm.acks.filter (fun c => c != chip) } }
    let x := d1.listLinks ((d1.ringPorts chip).map (fun p => (chip, p)))
    let d2 := d1.fm.slices.foldl (fun (d : Dev) (s : SliceRec) =>
      if (s.chips d.fm.extents).contains chip && s.st != 6 && s.st != 7 then
        (let d3 := if s.st = 5 then d else d.managerAbort s 0
         match d3.sliceRec s.id with
         | some y => (let z := { y with awaiting := y.awaiting.filter (fun c => c != chip) }
                      if z.awaiting = [] ∨ z.installing then (d3.setSlice z).afterReports z else d3.setSlice z)
         | none => d3)
      else d) x.1.journalise
    d2.reactTo x.2

end Sys2Proof.Machine
end

