-- ==== Sys2Proof/Machine/FmRows.lean ====
section
/-! DEFINITION. The rows of the fabric manager agent: election, heartbeats, takeover, discovery, reactions, aborts and
restarts as a manager and as a member (09_fabric_manager.md R266-R300, 14_recovery.md R421-R428). -/

namespace Sys2Proof.Machine

/-- The agent runs from stage S7 of a start on. -/
def Dev.fmUp (d : Dev) : Bool := 7 ≤ d.boot.stage && !d.boot.chipResetting && !d.boot.failed && !d.mesh.edgeOff.contains 0x152

def Dev.upPorts (d : Dev) : List Nat := (List.range 16).filter d.portUp

/-! ## Epochs (R269) -/

/-- A manager that is one no more: MEMBER, without what it was doing and what it knew as a manager. -/
def FM.demoted (x : FM) : FM :=
  { x with role := 1, control := false, acks := [], standby := none, syncWait := false, held := [], handover := none, modules := [],
           slices := [], listed := [], silent := [], mirror := none }

/-- A higher epoch is adopted; a manager that learns of one becomes MEMBER and abandons what it is doing. -/
def Dev.learnEpoch (d : Dev) (e : Nat) : Dev :=
  if e ≤ d.fm.epoch then d
  else if d.fm.role = 3 ∨ d.fm.role = 4 then { d with fm := { d.fm.demoted with epoch := e } }
  else { d with fm := { d.fm with epoch := e } }

/-- A message is acted on unless its epoch is behind, and answered by an MGTR with the epoch known (R269, R300): to the chip, or
through the port, it came from. -/
def Dev.heed (d : Dev) (from_ : FmPeer) (e : Nat) (act : Dev → Dev) : Dev :=
  if !d.fmUp then d
  else if e < d.fm.epoch then d.send (.mgtr from_ d.fm.epoch 1)
  else (let d1 := act (d.learnEpoch e); d1.send (.mgtr from_ d1.fm.epoch 0))

/-- A message of the manager of the day. -/
def Dev.fromManager (d : Dev) (e : Nat) (act : Dev → Dev) : Dev := d.heed (.chip d.fm.mgr) e act

/-! ## Discovery (R276-R279) -/

/-- What a module says of itself through a port. -/
def Dev.self (d : Dev) (port peerPort : Nat) : Neighbour :=
  { port := port, serial := d.sec.fuses.serial, peerPort := peerPort, part := d.partCode, present := d.presentPorts }

/-- Every UP port is probed. -/
def Dev.probePorts (d : Dev) : Dev := d.upPorts.foldl (fun d p => d.send (.probe p (d.self p 0))) d

/-- PROBE is answered with serial, port, part number and present ports. -/
def doProbe (d : Dev) (port : Nat) (n : Neighbour) : Dev :=
  if d.fmUp && d.portUp port then ((d.heardAt port).send (.mgtr (.port port) d.fm.epoch 0)).send (.probeReply port (d.self port n.port)) else d

def execProbe (port : Nat) (n : Neighbour) (s : State) : Answer := s.next (doProbe s.dev port n)

/-- The manager's own line among its modules. -/
def Dev.mergeOwn (d : Dev) : Dev :=
  let id := d.sec.fuses.serial
  let m : ModRec := { serial := id, chip := d.fm.chip, placed := d.fm.placed, role := d.fm.role, part := d.partCode, present := d.presentPorts,
                      portSt := [], failed := false, neigh := d.fm.neigh, relay := 0, stored := d.fm.stored, key := d.ownKey }
  let line (x : ModRec) : ModRec := if x.serial = id then { m with portSt := x.portSt } else x
  let ms := if d.fm.modules.any (fun x => x.serial == id) then d.fm.modules.map line else d.fm.modules ++ [m]
  { d with fm := { d.fm with modules := ms } }

/-- A module takes its coordinates: NI_ROUTE_CFG, its peers, its store. -/
def Dev.takePlace (d : Dev) (chip : Nat) (ext : List Nat) (mask : Nat) : Dev :=
  let w := routeWord ext mask chip false
  let d1 := { d with fm := { d.fm with placed := true, chip := chip, extents := ext, ringMask := mask, stored := some chip },
                     cfg := if d.fm.stored = some chip then d.cfg else d.cfg.rewrite }
  let d2 := ((List.range 288).filter (fun n => (d.vat n).lst != .fusedOff)).foldl (fun d n =>
    d.setNi n { d.ni n with routeCfg := BitVec.ofNat 64 (setBits (d.ni n).routeCfg.toNat 35 0 w) }) d1
  d2.fm.neigh.foldl (fun d n =>
    d.setPort n.port { d.port n.port with peerChip := nextChip w chip n.port, peerPort := n.peerPort, peerValid := true }) d2

/-- A module's line once the places are known. -/
def placedMod (ms : List ModRec) (shape : Nat) (pl : List Nat × List (Nat × Nat)) (m : ModRec) : ModRec :=
  let at_ := (pl.2.find? (fun e => e.1 == m.serial)).map (fun e => e.2)
  { m with chip := at_.getD 0, placed := at_.isSome,
           portSt := (List.range 16).foldl (fun t p =>
             let st := if !bit m.present p then 3 else if (nbOf ms m.serial p).isSome then 2 + 4 * 4 else 0
             smSet 0 t p (st + 32 * wiringCode ms shape pl m.serial p)) [] }

/-- Links of placed modules not to be used: ports that break a rule, and ports of a ring with nothing behind them. -/
def badLinks (pl : List Nat × List (Nat × Nat)) (ms : List ModRec) : List (Nat × Nat) :=
  (ms.filter (fun m => m.placed)).flatMap (fun m =>
    ((List.range 16).filter (fun p => bit m.present p && pl.1.getD (p / 4) 1 != 1 &&
      (smGet 0 m.portSt p / 32 != 0 || smGet 0 m.portSt p % 4 != 2))).map (fun p => (m.chip, p)))

/-- Once every module that a table names has sent its own, the modules are placed and told, each by the port its table came
through. -/
def Dev.tryPlace (d : Dev) : Dev :=
  let ms := d.fm.modules
  if d.fm.role ≠ 3 ∨ !ms.all (fun m => m.neigh.all (fun n => ms.any (fun k => k.serial == n.serial))) then d
  else
    let pl := (storedPlaces ms).getD (walkPlaces ms)
    let ms1 := ms.map (placedMod ms d.fm.shape pl)
    let placed := ms1.filter (fun m => m.placed)
    let mask := ringMaskOf (placed.map (fun m => m.present))
    let d1 := { d with fm := { d.fm with modules := ms1, extents := pl.1, ringMask := mask } }
    let d2 := (d1.listLinks (badLinks pl ms1)).1.journalise
    placed.foldl (fun d m =>
      if m.serial = d.sec.fuses.serial then d.takePlace m.chip pl.1 mask
      else d.say (.assign m.relay d.fm.epoch m.serial m.chip pl.1 mask)) d2

/-! ## What a module reports (R275, R276) -/

/-- The tables of one slice in an NI. -/
def NI.report (n : NI) (slot : Nat) (trees : List (Nat × BitVec 64)) : TabReport :=
  let w := smGet 0 n.slices slot
  { slot := slot, slice := w, exc := (List.range (sdXcount w.toNat)).map (fun i => smGet 0 n.exc (256 * slot + i)),
    detours := n.detour.map (fun e => e.2), trees := trees, drained := n.stop.getLsbD slot }

/-- The tables that stand on this chip, slice by slice; the trees as a port engine holds them. -/
def Dev.tabReports (d : Dev) : List TabReport :=
  let ids := ((d.nis.flatMap (fun e => e.2.slices.map (fun s => s.2.toNat))).filter sdValid).map sdId
  ids.dedup.filterMap (fun id =>
    match d.sliceNis id with
    | [] => none
    | e :: _ =>
      let n := d.ni e.1
      let h := sdPlist (n.slice e.2) 0
      some (n.report e.2 ((List.range 16).map (fun t => (16 * h + t, BitVec.ofNat 64 (d.tree 0x140 (16 * h + t)))))))

/-- What the module says of itself to the manager. -/
def Dev.ownReport (d : Dev) : ModReport :=
  { serial := d.sec.fuses.serial, stored := d.fm.stored, key := d.ownKey, table := d.fm.neigh, slices := d.tabReports }

/-- Exceptions as the manager keeps them. -/
def excOfWord (w : BitVec 64) : Nat × Nat × Nat × Nat :=
  (bits w.toNat 19 0, bits w.toNat 33 20, bits w.toNat 39 34, bits w.toNat 43 40)

/-- A slice's trees with a member's nodes. -/
def addReportTrees (ts : List (List TreeNode)) (chip head : Nat) (l : List (Nat × BitVec 64)) : List (List TreeNode) :=
  let word (t : Nat) : Nat := ((l.find? (fun e => e.1 == 16 * head + t)).map (fun e => e.2.toNat)).getD 0
  (List.range 16).filterMap (fun t =>
    let old := ts.getD t []
    let w := word t
    let l := if teValid w then
        old.filter (fun k => k.chip != chip) ++ [{ chip := chip, parent := if teRoot w then none else some (teParent w), children := teChildren w }]
      else old
    if l = [] then none else some l)

/-- The record of a slice that a member reports and the manager does not know. -/
def TabReport.record (t : TabReport) : SliceRec :=
  let x := t.slice.toNat
  { id := sdId x, st := 1, conf := sdConf x, base := (List.range 4).map (sdBase x), ext := (List.range 4).map (sdExt x), p := sdP x,
    psize := sdPsize x, slot := t.slot, gen := sdGen x, plist := (List.range (sdP x)).map (sdPlist x), exc := t.exc.map excOfWord, trees := [],
    awaiting := [], installing := false, outcomes := [], newLinks := [], reports := [], waiter := none, destroying := false, lastStep := 0,
    resumes := 0, moves := [], rebuilt := true, suspect := false }

/-- A manager that rebuilds its state takes in a member's table: the slice, its trees and the listed links; one reported drained, or
on which members disagree, is aborted (R275). -/
def Dev.takeTable (d : Dev) (chip : Nat) (t : TabReport) : Dev :=
  let w := t.slice.toNat
  if !sdValid w then d
  else
    let links := (t.detours.filter (fun e => bit e.toNat 31)).map (fun e => (bits e.toNat 13 0, bits e.toNat 17 14))
    let d1 := { d with fm := { d.fm with listed := (d.fm.listed ++ links).dedup, nextSlice := max d.fm.nextSlice (sdId w + 1) } }
    let head := sdPlist w 0
    match d1.sliceRec (sdId w) with
    | none =>
      let x := t.record
      let y := { x with trees := addReportTrees [] chip head t.trees, suspect := t.drained }
      let d2 := { d1 with fm := { d1.fm with slices := d1.fm.slices ++ [y] } }
      if y.suspect && d2.fm.managing then d2.managerAbort y 0 else d2
    | some x =>
      if !x.rebuilt || x.st != 1 then d1
      else
        let y := { x with trees := addReportTrees x.trees chip head t.trees,
                          suspect := x.suspect || t.drained || x.word != t.slice || x.exc != t.exc.map excOfWord }
        let d2 := d1.setSlice y
        if y.suspect && d2.fm.managing then d2.managerAbort y 0 else d2

/-- The neighbour table goes to the manager along the relays. -/
def Dev.sendTable (d : Dev) : Dev := d.send (.neighbours d.fm.relay d.fm.epoch d.ownReport)

/-- PROBE_REPLY. -/
def doProbeReply (d : Dev) (port : Nat) (n : Neighbour) : Dev :=
  if !d.fmUp || !d.portUp port then d
  else
    let e : Neighbour := { n with port := port, peerPort := n.port }
    let d0 := (d.heardAt port).send (.mgtr (.port port) d.fm.epoch 0)
    let d1 := { d0 with fm := { d0.fm with neigh := d0.fm.neigh.filter (fun x => x.port != port) ++ [e] } }
    if d.fm.role = 3 then (d1.mergeOwn).tryPlace
    else if d.fm.role = 1 ∨ d.fm.role = 2 then d1.sendTable
    else d1

def execProbeReply (port : Nat) (n : Neighbour) (s : State) : Answer := s.next (doProbeReply s.dev port n)

/-- A module's line from its report. -/
def Dev.takeModule (d : Dev) (port : Nat) (m : ModReport) : Dev :=
  let old := modOf d.fm.modules m.serial
  let x : ModRec := { serial := m.serial, chip := (old.map (fun x => x.chip)).getD (m.stored.getD 0),
                      placed := (old.map (fun x => x.placed)).getD false,
                      role := 1, part := 0, present := 0, portSt := (old.map (fun x => x.portSt)).getD [], failed := false,
                      neigh := m.table, relay := port, stored := m.stored, key := m.key }
  let heard := ((d.fm.neigh ++ d.fm.modules.flatMap (fun (x : ModRec) => x.neigh)).find? (fun n => n.serial == m.serial))
  let y := match heard with | some n => { x with part := n.part, present := n.present } | none => x
  { d with fm := { d.fm with modules := d.fm.modules.filter (fun (x : ModRec) => x.serial != m.serial) ++ [y],
                             silent := d.fm.silent.filter (fun c => some c != m.stored) } }

/-- NEIGHBOURS: a manager takes the module and its tables in; any other module passes the message on by its relay port, and
remembers the way back (R268, R276). -/
def doNeighbours (d : Dev) (port epoch : Nat) (m : ModReport) : Dev :=
  (d.heardAt port).heed (.port port) epoch (fun d =>
    if m.serial = d.sec.fuses.serial then d
    else if d.fm.role = 3 ∨ d.fm.role = 4 then
      (m.slices.foldl (fun d t => d.takeTable (m.stored.getD 0) t) (d.takeModule port m)).mergeOwn.tryPlace
    else Dev.send { d with fm := { d.fm with relays := smSet 0 d.fm.relays m.serial port } } (.neighbours d.fm.relay epoch m))

def execNeighbours (port epoch : Nat) (m : ModId) (table : List Neighbour) (slices : List TabReport) (s : State) : Answer :=
  s.next (doNeighbours s.dev port epoch { serial := m.serial, stored := m.stored, key := m.key, table := table, slices := slices })

/-- ASSIGN: its module takes its place; any other passes it on the way that module's table came (R276). -/
def doAssign (d : Dev) (epoch serial chip : Nat) (extents : List Nat) (ringMask : Nat) : Dev :=
  d.fromManager epoch (fun d =>
    if serial = d.sec.fuses.serial then d.takePlace chip extents ringMask
    else if d.fm.relays.any (fun e => e.1 == serial) then
      d.send (.assign (smGet 0 d.fm.relays serial) epoch serial chip extents ringMask)
    else d)

def execAssign (target : FmTo) (chip : Nat) (extents : List Nat) (ringMask : Nat) (s : State) : Answer :=
  s.next (doAssign s.dev target.epoch target.serial chip extents ringMask)

/-! ## Control (R270, R271, R273) -/

/-- The lowest of some keys. -/
def lowestKey (l : List ElKey) : Option ElKey :=
  l.foldl (fun acc k => match acc with | some b => if keyLt k b then some k else acc | none => some k) none

/-- The standby is the candidate with the next key among the placed modules (R267); it takes the full state. -/
def Dev.nameStandby (d : Dev) (not_ : Option Nat) : Dev :=
  let ms := d.fm.modules.filter (fun (m : ModRec) => m.placed && !m.failed && m.serial != d.sec.fuses.serial && some m.chip != not_)
  match (lowestKey (ms.filterMap (fun (m : ModRec) => m.key))).bind (fun k => ms.find? (fun (m : ModRec) => m.key == some k)) with
  | some m =>
    let d1 := { d with fm := { d.fm with standby := some m.chip } }
    d1.send (.stateSync m.chip d1.fm.epoch d1.fmState true)
  | none => { d with fm := { d.fm with standby := none } }

/-- A new manager rebuilds its state, from its own tables first (R275). -/
def Dev.rebuild (d : Dev) : Dev := d.tabReports.foldl (fun d t => d.takeTable d.fm.chip t) d

/-- The primary's state becomes the new manager's own; requests that came from its own mailboxes are at home again (R273, R274). -/
def Dev.loadMirror (d : Dev) : Dev :=
  match d.fm.mirror with
  | none => d
  | some st =>
    let ws := st.waiting.map d.homeReq
    let xs := st.slices.map (fun x => { x with waiter := x.waiter.map d.homeReq })
    let taken (w : WaitReq) : Bool := (ws ++ xs.filterMap (fun x => x.waiter)).any (fun q => q.chip.isNone && q.a == w.a && q.b == w.b)
    { d with fm := { d.fm with
      modules := st.modules, extents := st.extents, ringMask := st.ringMask, slices := xs, listed := st.listed, nextSlice := st.nextSlice,
      journal := st.journal, waiting := d.fm.waiting.filter (fun w => !taken w) ++ ws } }

/-- What a new manager does with a slice it takes over (R273): an unanswered creation or destruction is undone and its requester
answered BUSY_RETRY; a reaction goes on from the first step that some chip has not confirmed; what members report as drained, or
disagree on, is aborted (R275). -/
def Dev.takeUp (d : Dev) (x : SliceRec) : Dev :=
  let ans (d : Dev) : Dev := match x.waiter with | some w => d.reply6 w rBusy (leBytes 8 0) | none => d
  let cs := x.chips d.fm.extents
  if x.st = 0 then
    (let d1 := cs.foldl (fun d c => d.say (.install c (d.clearMsg x c))) d
     ans { d1 with fm := { d1.fm with slices := d1.fm.slices.filter (fun y => y.id != x.id) } })
  else if x.suspect then d.managerAbort x 0
  else if x.st = 2 then
    (let y := { x with st := 1, newLinks := [] }
     (d.setSlice y).startReaction y x.newLinks)
  else if x.st = 3 then
    (let y := { x with awaiting := cs }
     (d.setSlice y).sayInstalls y (fun c => d.installMsg y c))
  else if x.st = 4 then (d.setSlice { x with st := 3 }).afterInstall { x with st := 3 }
  else if x.st = 5 then
    (let y := { x with destroying := false, waiter := none, installing := x.installing && !x.destroying,
                       awaiting := if x.installing then cs else x.awaiting }
     let d1 := ans (d.setSlice y)
     if y.installing then d1.sayInstalls y (fun c => d1.installMsg y c)
     else if y.awaiting = [] ∨ (x.installing && x.destroying) then d1.afterReports y
     else y.awaiting.foldl (fun d c => d.say (.abortTo c { sliceId := y.id, gen := y.gen, origin := d.fm.chip, cause := 0 })) d1)
  else d

/-- The manager that a module knows; a change of it is an event of the physical function (12_rennet.md R365 bit 6). -/
def Dev.knowMgr (d : Dev) (chip : Nat) : Dev :=
  if d.fm.mgr = chip ∧ d.fm.role ≠ 0 then d else { d with fm := { d.fm with mgr := chip } }.event 6 none

/-- Every placed module has acknowledged: the manager holds control, and what waited is answered. A module that took
control back serves what was passed across. -/
def Dev.gainControl (d : Dev) : Dev :=
  let mine := d.fm.handover == some d.fm.chip
  let d0 := if d.fm.mirror.isNone then d.rebuild else d
  let ws := d0.fm.waiting
  let d1 := { d0 with fm := { d0.fm with role := 3, control := true, acks := [], mgr := d.fm.chip, handover := none, waiting := [],
                                         mirror := none } }
  let d2 := (ws.foldl (fun d w => if mine then d.serve6 w else d.reply6 w rBusy (leBytes 8 0)) d1).event 6 none
  let d3 := (if mine then d2 else d2.fm.slices.foldl (fun d x => d.takeUp x) d2).mergeOwn
  d3.tryPlace.nameStandby none

/-- Chips of the fabric that a new manager announces itself to: those of the modules it knows, else every place of the fabric. -/
def Dev.fabricChips (d : Dev) : List Nat :=
  let known := d.placedChips
  (if known.any (fun c => c != d.fm.chip) then known
   else if d.fm.placed then rectChips d.fm.extents [0, 0, 0, 0] d.fm.extents
   else []).filter (fun c => c != d.fm.chip)

/-- A module announces its epoch to every placed module; the one it replaces is not counted (R270). -/
def Dev.takeControl (d : Dev) : Dev :=
  let cs := d.fabricChips
  let acks := cs.filter (fun c => c != d.fm.mgr)
  let d1 := { d with fm := { d.fm with role := 4, control := false, epoch := (d.fm.epoch + 1) % 2 ^ 32, mgr := d.fm.chip, acks := acks,
                                       standby := none, syncWait := false, held := [], mgtTags := d.fm.mgtTags ++ cs } }
  let d2 := cs.foldl (fun d c => d.send (.takeover c d.fm.epoch d.fm.chip)) d1
  if acks = [] then d2.gainControl else d2

/-- Requests here that no manager has taken in are answered BUSY_RETRY, once a manager has gained control (R271). -/
def Dev.flushWaiting (d : Dev) : Dev :=
  let out (w : WaitReq) : Bool := !w.acked || w.chip.isSome
  (d.fm.waiting.filter out).foldl (fun d w => d.reply6 w rBusy (leBytes 8 0))
    { d with fm := { d.fm with waiting := d.fm.waiting.filter (fun w => !out w) } }

/-! ## Elections (R267, R268, R275) -/

/-- An election begins: the module knows its own key. -/
def Dev.startElection (d : Dev) : Dev :=
  { d with fm := { d.fm with role := 0, control := false, key1 := d.ownKey, key2 := none, relay := 0, unmanaged := false, acks := [],
                             standby := none, syncWait := false, held := [], handover := none, mirror := none } }

/-- BEACON_SEND. -/
def doBeaconSend (d : Dev) : Dev :=
  if d.fmUp ∧ d.fm.role = 0 then d.upPorts.foldl (fun d p => d.send (.beacon p d.fm.key1 d.fm.key2 d.fm.epoch)) d else d

def execBeaconSend (s : State) : Answer := s.next (doBeaconSend s.dev)

/-- BEACON: in an election lower keys and a higher epoch are adopted; otherwise the message's epoch counts as any other's. -/
def doBeacon (d : Dev) (port : Nat) (k1 k2 : Option ElKey) (epoch : Nat) : Dev :=
  if !d.fmUp || !d.portUp port then d
  else if d.fm.role ≠ 0 then (d.heardAt port).heed (.port port) epoch (fun d => d)
  else
    let d := (d.heardAt port).send (.mgtr (.port port) (max d.fm.epoch epoch) 0)
    let put (k : Option ElKey) (p : Option ElKey × Option ElKey) : Option ElKey × Option ElKey :=
      match k with | some x => putKey x p | none => p
    let ks := put k2 (put k1 (d.fm.key1, d.fm.key2))
    { d with fm := { d.fm with key1 := ks.1, key2 := ks.2, epoch := max d.fm.epoch epoch,
                               relay := if ks.1 = d.fm.key1 then d.fm.relay else port } }

def execBeacon (port : Nat) (k1 k2 : Option ElKey) (epoch : Nat) (s : State) : Answer := s.next (doBeacon s.dev port k1 k2 epoch)

/-- ELECTION_COMPLETE: the module takes the role its key gives it; with no candidate it stays in ELECTING. -/
def doElectionComplete (d : Dev) : Dev :=
  if !d.fmUp || d.fm.role != 0 then d
  else
    match d.fm.key1 with
    | none => { d with fm := { d.fm with unmanaged := true } }
    | some k =>
      if d.ownKey = some k then d.takeControl
      else { d with fm := { d.fm with role := if d.ownKey.isSome ∧ d.fm.key2 = d.ownKey then 2 else 1 } }.sendTable

def execElectionComplete (s : State) : Answer := s.next (doElectionComplete s.dev)

/-- ALIVE_SEND. -/
def doAliveSend (d : Dev) : Dev :=
  if d.fm.managing then (d.placedChips.filter (fun c => c != d.fm.chip)).foldl (fun d c => d.send (.alive c d.fm.epoch)) d else d

def execAliveSend (s : State) : Answer := s.next (doAliveSend s.dev)

/-- ALIVE: the manager of the epoch is known and holds control; a module without one joins it. -/
def doAlive (d : Dev) (epoch chip : Nat) : Dev :=
  d.heed (.chip chip) epoch (fun e =>
    if e.fm.role = 3 ∨ e.fm.role = 4 then e
    else
      let d0 := e.knowMgr chip
      let d1 := { d0 with fm := { d0.fm with unmanaged := false, role := if e.fm.role = 0 then 1 else e.fm.role } }
      let d2 := if d.fm.epoch < epoch ∨ e.fm.role = 0 then d1.flushWaiting else d1
      if e.fm.role = 0 then d2.sendTable else d2)

def execAlive (epoch chip : Nat) (s : State) : Answer := s.next (doAlive s.dev epoch chip)

/-- ALIVE_TIMEOUT. -/
def doAliveTimeout (d : Dev) : Dev := if d.fmUp ∧ (d.fm.role = 1 ∨ d.fm.role = 2) then d.startElection else d

def execAliveTimeout (s : State) : Answer := s.next (doAliveTimeout s.dev)

/-! ## Heartbeats and takeover (R270, R272, R273) -/

/-- HEARTBEAT_SEND. -/
def doHeartbeatSend (d : Dev) : Dev :=
  match d.fm.role, d.fm.standby with
  | 3, some s => d.send (.heartbeat s d.fm.epoch d.fm.journal)
  | 2, _ => d.send (.heartbeat d.fm.mgr d.fm.epoch d.fm.journal)
  | _, _ => d

def execHeartbeatSend (s : State) : Answer := s.next (doHeartbeatSend s.dev)

/-- HEARTBEAT: a standby keeps the primary's journal position. -/
def doHeartbeat (d : Dev) (epoch journal : Nat) : Dev :=
  d.heed (.chip (if d.fm.role = 3 then d.fm.standby.getD d.fm.mgr else d.fm.mgr)) epoch (fun d =>
    if d.fm.role = 2 then { d with fm := { d.fm with journal := journal } } else d)

def execHeartbeat (epoch journal : Nat) (s : State) : Answer := s.next (doHeartbeat s.dev epoch journal)

/-- HEARTBEAT_LOSS: the standby takes over with the state it has mirrored; the primary it replaces is not waited for. -/
def doHeartbeatLoss (d : Dev) : Dev := if d.fmUp ∧ d.fm.role = 2 then d.loadMirror.mergeOwn.takeControl else d

def execHeartbeatLoss (s : State) : Answer := s.next (doHeartbeatLoss s.dev)

/-- STATE_SYNC: a journal entry or the full state is mirrored and acknowledged; after a TAKEBACK the full state is the
handover (R274). -/
def doStateSync (d : Dev) (epoch : Nat) (st : FmState) (full : Bool) : Dev :=
  d.fromManager epoch (fun d =>
    if d.fm.role = 3 ∨ d.fm.role = 4 then d
    else
      let d1 := { d with fm := { d.fm with mirror := some st, journal := st.journal, role := if full then 2 else d.fm.role } }
      if full && d.fm.handover == some d.fm.chip then d1.loadMirror.mergeOwn.takeControl else d1)

def execStateSync (epoch : Nat) (st : FmState) (full : Bool) (s : State) : Answer := s.next (doStateSync s.dev epoch st full)

/-- SYNC_ACK_TIMEOUT: the primary acts, and names the next candidate. -/
def doSyncAckTimeout (d : Dev) : Dev :=
  if d.fm.role = 3 ∧ d.fm.syncWait then (d.syncDone).nameStandby d.fm.standby else d

def execSyncAckTimeout (s : State) : Answer := s.next (doSyncAckTimeout s.dev)

/-- TAKEOVER: the new manager is acknowledged, and requests waiting here are answered (R271). A standby stays one only by
its key. -/
def doTakeover (d : Dev) (epoch chip : Nat) : Dev :=
  d.heed (.chip chip) epoch (fun d =>
    let stays := d.fm.role == 2 && d.ownKey.isSome && d.fm.key2 == d.ownKey
    let d0 := d.knowMgr chip
    Dev.flushWaiting { d0 with fm := { d0.fm with role := if stays then 2 else 1, control := false, unmanaged := false, handover := none } })

def execTakeover (epoch chip : Nat) (s : State) : Answer := s.next (doTakeover s.dev epoch chip)

/-- TAKEOVER_RESEND. -/
def doTakeoverResend (d : Dev) : Dev :=
  if d.fm.role = 4 then d.fm.acks.foldl (fun d c => d.send (.takeover c d.fm.epoch d.fm.chip)) d else d

def execTakeoverResend (s : State) : Answer := s.next (doTakeoverResend s.dev)

/-- TAKEOVER_SILENCE: a module silent for 10 ms counts as a failed chip. -/
def doTakeoverSilence (d : Dev) (chip : Nat) : Dev :=
  if d.fm.role = 4 ∧ d.fm.acks.contains chip then
    (let d1 := { d with fm := { d.fm with acks := d.fm.acks.filter (fun c => c != chip) } }.chipFails chip
     if d1.fm.acks = [] then d1.gainControl else d1)
  else d

def execTakeoverSilence (chip : Nat) (s : State) : Answer := s.next (doTakeoverSilence s.dev chip)

/-- A request of this module has been taken in by the manager. -/
def FM.ackRequest (x : FM) (tag : Nat) : FM :=
  { x with waiting := x.waiting.map (fun w => if w.chip.isNone ∧ 0x8000 + 256 * w.a + w.b = tag then { w with acked := true } else w) }

/-- MGTR: a request of the agent is acknowledged, or has met a higher epoch, which is adopted (R269); a member then sends its table
again. -/
def doMgtr (d : Dev) (tag epoch : Nat) : Dev :=
  if !d.fm.mgtTags.contains tag then d
  else
    let d1 := { d with fm := { d.fm with mgtTags := d.fm.mgtTags.erase tag } }
    if d.fm.epoch < epoch then
      (let d2 := d1.learnEpoch epoch
       if d.fm.role = 1 ∨ d.fm.role = 2 then d2.sendTable else d2)
    else if tag < 0x4000 then
      (let d2 := { d1 with fm := { d1.fm with acks := d1.fm.acks.filter (fun c => c != tag) } }
       if d2.fm.role = 4 ∧ d2.fm.acks = [] then d2.gainControl else d2)
    else if 0x8000 ≤ tag then { d1 with fm := d1.fm.ackRequest tag }
    else if d1.fm.syncWait && (d1.fm.standby.map syncTag) == some tag && !d1.fm.mgtTags.contains tag then d1.syncDone
    else d1

def execMgtr (reply : FmReply) (s : State) : Answer := s.next (doMgtr s.dev reply.tag reply.epoch)

/-! ## Take-back (R274) -/

/-- TAKEBACK_START: the preferred manager, quiet for 10 s. -/
def doTakebackStart (d : Dev) : Dev :=
  match d.ownKey with
  | none => d
  | some k =>
    if d.fmUp ∧ (d.fm.role = 1 ∨ d.fm.role = 2) ∧ fmTakeback d.fm.cfg ∧ d.fm.key1 = some k ∧ d.flt.openCount = 0 then
      { d with fm := { d.fm with handover := some d.fm.chip } }.send (.takeback d.fm.mgr d.fm.epoch k)
    else d

def execTakebackStart (s : State) : Answer := s.next (doTakebackStart s.dev)

/-- The handover happens once no slice is in a reaction: the full state with the requests that wait, then the module is a MEMBER;
those of its own mailboxes wait for the new primary's answers. -/
def Dev.tryHandover (d : Dev) : Dev :=
  match d.fm.handover with
  | none => d
  | some c =>
    if !d.fm.managing || c == d.fm.chip || d.fm.slices.any (fun x => x.st == 2 || x.st == 3 || x.st == 4) then d
    else
      let own := (d.fm.waiting ++ d.fm.slices.filterMap (fun x => x.waiter)).filter (fun w => w.chip.isNone)
      let d1 := d.send (.stateSync c d.fm.epoch d.fmState true)
      let held := own.map (fun (w : WaitReq) => { w with acked := true })
      Dev.event { d1 with fm := { d1.fm.demoted with mgr := c, waiting := held } } 6 none

/-- TAKEBACK at the primary. -/
def doTakeback (d : Dev) (epoch chip : Nat) (_key : ElKey) : Dev :=
  d.heed (.chip chip) epoch (fun d => if d.fm.managing then { d with fm := { d.fm with handover := some chip } }.tryHandover else d)

def execTakeback (sender : FmFrom) (key : ElKey) (s : State) : Answer := s.next (doTakeback s.dev sender.epoch sender.chip key)

/-! ## Reactions (R290-R295) -/

/-- PORT_EVENT at the manager: the link of a DOWN port, or of a failed tree edge, is listed and its slices react; a chip all of whose
ports are DOWN has failed (14_recovery.md R428). A link that comes UP is unlisted, unless its wiring holds it out (R278). -/
def doPortEvent (d : Dev) (epoch chip port state width : Nat) : Dev :=
  d.heed (.chip chip) epoch (fun d =>
  if !d.fm.managing then d
  else
    let upd (m : ModRec) : ModRec :=
      if m.placed && m.chip == chip then
        { m with portSt := smSet 0 m.portSt port (state % 4 + 4 * (width % 8) + 32 * (smGet 0 m.portSt port / 32)) } else m
    let d1 := if state = 3 then d else { d with fm := { d.fm with modules := d.fm.modules.map upd } }
    if state = 0 ∨ state = 3 then
      (let x := d1.listLinks [(chip, port)]
       let d2 := x.1.journalise.reactTo x.2
       match d2.fm.modules.find? (fun m => m.placed && m.chip == chip) with
       | some m => if chip ≠ d.fm.chip ∧ (portsOf m.present).all (fun p => smGet 0 m.portSt p % 4 == 0) then d2.chipFails chip else d2
       | none => d2)
    else if state = 2 then
      (let back := (nextChip (routeWord d.fm.extents 0 0 false) chip port, port ^^^ 2)
       let out (e : Nat × Nat) : Bool := d.fm.modules.any (fun (m : ModRec) => m.placed && m.chip == e.1 && smGet 0 m.portSt e.2 / 32 != 0)
       if out (chip, port) || out back then d1
       else { d1 with fm := { d1.fm with listed := d1.fm.listed.filter (fun l => l != (chip, port) && l != back) } }.journalise)
    else d1)

def execPortEvent (sender : FmFrom) (port state width : Nat) (s : State) : Answer :=
  s.next (doPortEvent s.dev sender.epoch sender.chip port state width)

/-- A vat's NI_DRAIN.stop changes; requests of the slots that come free are sent afresh (R291). -/
def Dev.setStop (d : Dev) (node : Nat) (w : BitVec 16) : Dev :=
  let n := d.ni node
  let upd (e : Nat × Option TagRec) : Nat × Option TagRec :=
    match e.2 with
    | some r => (e.1, some (if r.st = .parked ∧ w.getLsbD (r.ctx % 16) = false then { r with st := .waiting } else r))
    | none => e
  d.setNi node { n with stop := w, tags := n.tags.map upd }

def execNiDrainStop (node : Nat) (stop : BitVec 16) (s : State) : Answer := s.next (s.dev.setStop node stop)

/-- A slot's stop bit in every NI of a slice here. -/
def Dev.stopSlice (d : Dev) (id slot : Nat) (on : Bool) : Dev :=
  ((d.sliceNis id).filter (fun e => e.2 == slot)).foldl (fun d e =>
    let b := BitVec.ofNat 16 (2 ^ slot)
    d.setStop e.1 (if on then (d.ni e.1).stop ||| b else (d.ni e.1).stop &&& ~~~b)) d

/-- Every outstanding collective of the slice's contexts here enters FAILING (08_collectives.md R260). -/
def Dev.failColls (d : Dev) (ctx : Nat) : Dev :=
  let h := d.sliceHead ctx
  { d with coll := d.coll.map (fun (e : Nat × CollUnit) =>
      (e.1, { e.2 with
                       infos := (e.2.ops.filter (fun o => o.ctx == ctx && o.numbered)).foldl (fun m o => smSet (0, 0) m o.seq (0, 0)) e.2.infos,
                       slots := e.2.slots.filter (fun s => s.tree / 16 != h), toks := e.2.toks.filter (fun t => t.tree / 16 != h),
                       sent := e.2.sent.filter (fun s => s.tree / 16 != h),
                       ops := e.2.ops.map (fun (o : CollOp) => if o.ctx = ctx then { o with failing := true } else o) })) }

/-- DRAIN at a member. -/
def doDrain (d : Dev) (epoch id slot : Nat) : Dev :=
  d.fromManager epoch (fun d =>
    let d1 : Dev := (d.sliceCtxs id).foldl (fun d c => if c % 16 = slot then d.failColls c else d) (d.stopSlice id slot true)
    let l := d1.fm.draining.filter (fun (e : Nat × Nat) => e.1 != id) ++ [(id, slot)]
    let d2 : Dev := { d1 with fm := { d1.fm with draining := l } }
    d2.reportDrained id)

def execDrain (epoch sliceId slot : Nat) (s : State) : Answer := s.next (doDrain s.dev epoch sliceId slot)

/-- DRAIN_REPORT at the manager. -/
def doDrainReport (d : Dev) (epoch chip id : Nat) (idle : Bool) (written : List (Nat × Bool)) (_parked : Nat) : Dev :=
  d.heed (.chip chip) epoch (fun d =>
    match d.sliceRec id with
    | none => d
    | some x =>
      if !d.fm.managing || x.st != 2 || !x.awaiting.contains chip then d
      else if !idle then d.managerAbort x 0
      else
        let y := { x with awaiting := x.awaiting.filter (fun c => c != chip), outcomes := mergeOutcomes x.outcomes written }
        if y.awaiting = [] then (d.setSlice y).afterDrain y else d.setSlice y)

def execDrainReport (sender : FmFrom) (sliceId : Nat) (idle : Bool) (written : List (Nat × Bool)) (parked : Nat) (s : State) : Answer :=
  s.next (doDrainReport s.dev sender.epoch sender.chip sliceId idle written parked)

/-- DRAIN_LIMIT: a member that is not idle in time has the slice aborted (R292, R297). -/
def doDrainLimit (d : Dev) (id : Nat) : Dev :=
  match d.sliceRec id with
  | none => d
  | some x => if d.fm.managing && x.st == 2 && !x.awaiting.isEmpty then d.managerAbort x 0 else d

def execDrainLimit (sliceId : Nat) (s : State) : Answer := s.next (doDrainLimit s.dev sliceId)

/-- INSTALL at a member (R293); done once its group entries stand, which takes a quiesce of the mesh (06_mesh.md R198). -/
def doInstall (d : Dev) (m : InstallMsg) : Dev :=
  d.fromManager m.epoch (fun d =>
    let d1 := d.writeTables m
    if d1.mesh.toGroups = [] then d1.send (.installDone d.fm.mgr d.fm.epoch m.sliceId)
    else { d1 with fm := { d1.fm with installWait := d1.fm.installWait.filter (fun x => x != m.sliceId) ++ [m.sliceId] } })

def execInstall (m : InstallMsg) (s : State) : Answer := s.next (doInstall s.dev m)

/-- INSTALL_DONE at the manager. -/
def doInstallDone (d : Dev) (epoch chip id : Nat) : Dev :=
  d.heed (.chip chip) epoch (fun d =>
    match d.sliceRec id with
    | none => d
    | some x =>
      if !d.fm.managing || !x.installing || !x.awaiting.contains chip then d
      else
        let y := { x with awaiting := x.awaiting.filter (fun c => c != chip) }
        if y.awaiting = [] then
          (let z := { y with installing := false }
           ((d.setSlice z).afterInstall z).tryHandover)
        else d.setSlice y)

def execInstallDone (sender : FmFrom) (sliceId : Nat) (s : State) : Answer := s.next (doInstallDone s.dev sender.epoch sender.chip sliceId)

/-- RESUME at a member: the slot flows again, and every FAILING collective completes with its code (R294, 08_collectives.md
R261). -/
def doResume (d : Dev) (epoch id slot : Nat) (outcomes : List (Nat × Nat)) : Dev :=
  d.fromManager epoch (fun d =>
    let d1 := { d with fm := { d.fm with draining := d.fm.draining.filter (fun e => e.1 != id) } }.stopSlice id slot false
    (d1.sliceCtxs id).foldl (fun d c =>
      let u := d.rankUnit c
      ((d.unit u).ops.filter (fun o => o.ctx == c && o.failing)).foldl (fun d o =>
        match outcomes.find? (fun q => q.1 == o.seq) with
        | some q => d.collEnd u o q.2
        | none => d) d) d1)

def execResume (epoch sliceId slot : Nat) (outcomes : List (Nat × Nat)) (s : State) : Answer :=
  s.next (doResume s.dev epoch sliceId slot outcomes)

/-! ## Requests (R271, 12_rennet.md R373) -/

/-- REQUEST: served by the manager; where no manager holds control it waits. -/
def doRequest (d : Dev) (epoch chip ref : Nat) (req : List Byte) : Dev :=
  d.heed (.chip chip) epoch (fun d =>
    let w : WaitReq := { chip := some chip, a := ref, b := 0, req := req, acked := true }
    if d.fm.managing then d.serve6 w else { d with fm := { d.fm with waiting := d.fm.waiting ++ [{ w with acked := false }] } })

def execRequest (sender : FmFrom) (ref : Nat) (req : List Byte) (s : State) : Answer := s.next (doRequest s.dev sender.epoch sender.chip ref req)

/-- Bytes that no rule gives: free values (notes/assumptions/4.md). -/
def Dev.drawBytes (d : Dev) : Nat → Dev × List Byte
  | 0 => (d, [])
  | n + 1 =>
    let x := d.draw
    let r := x.2.drawBytes n
    (r.1, leBytes 8 x.1.toNat ++ r.2)

/-- ANSWER: the manager's answer reaches the mailbox that asked; the records of a FABRIC_MAP go to its buffer,
and none is written where it named none. -/
def Dev.takeAnswer (d : Dev) (ref : Nat) (rsp : List Byte) : Dev :=
  match d.fm.waiting.find? (fun w => w.chip.isNone && 256 * w.a + w.b == ref) with
  | none => d
  | some w =>
    let d1 := { d with fm := { d.fm with waiting := d.fm.waiting.filter (fun x => x != w) } }
    let d2 := if leAt w.req 0 2 = 0x0604 ∧ leAt rsp 2 1 = 0 ∧ leAt w.req 8 8 ≠ 0 then
        (let n := leAt rsp 0x20 4
         if leAt w.req 0x10 4 < 32 * n then d1
         else (let r := d1.drawBytes (4 * n); r.1.hostWrite (leAt w.req 8 8) r.2))
      else d1
    if leAt w.req 0 2 = 0x0604 ∧ leAt rsp 2 1 = 0 ∧ leAt w.req 8 8 ≠ 0 ∧ leAt w.req 0x10 4 < 32 * leAt rsp 0x20 4 then
      d2.refuseCmd w.a w.b rNoResource 0x10 0 (32 * leAt rsp 0x20 4)
    else
      let body := (rsp.drop 8).take (leAt rsp 4 2)
      let out := if leAt w.req 0 2 = 0x0604 ∧ leAt rsp 2 1 = 0 ∧ leAt w.req 8 8 = 0 then body.take 24 ++ leBytes 4 0 else body
      d2.respondFlag w.a w.b (leAt rsp 2 1) (leAt rsp 3 1) out

/-- ANSWER. -/
def doAnswer (d : Dev) (epoch ref : Nat) (rsp : List Byte) : Dev := d.fromManager epoch (fun d => d.takeAnswer ref rsp)

def execAnswer (ref : FmRef) (rsp : List Byte) (s : State) : Answer := s.next (doAnswer s.dev ref.epoch ref.ref rsp)

/-- GROUP6_WAIT_TIMEOUT. -/
def doGroup6WaitTimeout (d : Dev) (func chan : Nat) : Dev :=
  match d.fm.waiting.find? (fun w => w.chip.isNone && w.a == func && w.b == chan) with
  | none => d
  | some w =>
    if d.fm.managing then d
    else { d with fm := { d.fm with waiting := d.fm.waiting.filter (fun x => x != w) } }.fail func chan rTimeout 0

def execGroup6WaitTimeout (func chan : Nat) (s : State) : Answer := s.next (doGroup6WaitTimeout s.dev func chan)

/-! ## Aborts and restarts (14_recovery.md R421-R424, R428) -/

/-- The manager's side of an abort: the slice is ABORTED and its members are to report. -/
def Dev.noteManagerAbort (d : Dev) (m : AbortMsg) : Dev :=
  match d.sliceRec m.sliceId with
  | none => d
  | some x =>
    if !d.fm.managing || x.gen != m.gen || x.st == 5 then d
    else d.putSlice { x with st := 5, awaiting := x.chips d.fm.extents, installing := false, reports := [], outcomes := [] }

/-- A member chip without a context: the generation advances with that of the members elsewhere (02_programming_model.md R47). -/
def Dev.emptyAdvance (d : Dev) (id gen : Nat) : Dev :=
  let g := (gen + 1) % 4096
  let heads := ((d.sliceNis id).map (fun e => sdPlist ((d.ni e.1).slice e.2) 0)).dedup
  (heads.foldl (fun d h => d.treeGen h gen g) (d.noteAbort id gen)).memberGens id g

/-- The generation that an abort names has been torn down here already: the manager that sends it again has no report of it, and
hears once more (14_recovery.md R423, notes/assumptions/48.md). -/
def Dev.tornDown (d : Dev) (m : AbortMsg) : Bool :=
  d.fm.seenAborts.contains (m.sliceId, m.gen) &&
    (d.sliceCtxs m.sliceId).all (fun c => (d.ctx c).tear.isNone && (d.ctx c).gen == (m.gen + 1) % 4096)

/-- SLICE_ABORT: a chip with member contexts of the generation tears them down and passes the abort on; a member chip
without a context reports at once. -/
def doSliceAbort (d : Dev) (port : Nat) (m : AbortMsg) : Dev :=
  if !d.fmUp then d
  else
    let d1 := ((d.heardAt port).send (.mgtr (.port port) d.fm.epoch 0)).noteManagerAbort m
    match (d1.sliceCtxs m.sliceId).find? (fun c => (d1.ctx c).gen == m.gen) with
    | some c =>
      if d1.fm.seenAborts.contains (m.sliceId, m.gen) then d1
      else (((d1.noteReset 0 m.cause false).sliceState m.sliceId 5).abortSlice c m (some port) (newTear m.cause false false false none))
    | none =>
      if d1.sliceCtxs m.sliceId = [] ∧ d1.sliceNis m.sliceId ≠ [] ∧ !d1.fm.seenAborts.contains (m.sliceId, m.gen) then
        (d1.emptyAdvance m.sliceId m.gen).reportTeardown m.sliceId []
      else if d1.tornDown m && d1.fm.mgr != d1.fm.chip then d1.reportTeardown m.sliceId (d1.sliceCtxs m.sliceId)
      else d1

def execSliceAbort (port : Nat) (m : AbortMsg) (s : State) : Answer := s.next (doSliceAbort s.dev port m)

/-- TEARDOWN_REPORT at the manager. -/
def doTeardownReport (d : Dev) (chip id : Nat) (ranks : List RankReport) : Dev :=
  match d.sliceRec id with
  | none => d
  | some x =>
    if !d.fm.managing || x.st != 5 || x.installing || !x.awaiting.contains chip then d
    else
      let y := { x with awaiting := x.awaiting.filter (fun c => c != chip), reports := x.reports ++ ranks }
      if y.awaiting = [] then (d.setSlice y).afterReports y else d.setSlice y

def execTeardownReport (chip sliceId : Nat) (ranks : List RankReport) (s : State) : Answer :=
  s.next (doTeardownReport s.dev chip sliceId ranks)

/-- ABORT_RESEND: a member that has not reported within 1 ms is told again. -/
def doAbortResend (d : Dev) (id chip : Nat) : Dev :=
  match d.sliceRec id with
  | none => d
  | some x =>
    if d.fm.managing && x.st == 5 && !x.installing && x.awaiting.contains chip then
      d.say (.abortTo chip { sliceId := id, gen := x.gen, origin := d.fm.chip, cause := 0 })
    else d

def execAbortResend (sliceId chip : Nat) (s : State) : Answer := s.next (doAbortResend s.dev sliceId chip)

/-- RESTART at a member: every rank is reloaded at the step, or left with no program. A load that fails bars its step and
aborts the slice again. -/
def Dev.restartSlice (d : Dev) (id gen : Nat) (step : Option Nat) : Dev :=
  let cs := (d.sliceCtxs id).filter (fun c => (d.ctx c).gen == gen && (d.ctx c).tear.isNone)
  if cs.isEmpty then d
  else
    let d0 := { d with fm := { d.fm with draining := d.fm.draining.filter (fun e => e.1 != id) } }
    let d1 := ((d0.sliceNis id).map (fun e => e.2)).dedup.foldl (fun d s => d.stopSlice id s false) d0
    match step with
    | none => d1.leaveUnloaded id cs (match d1.sliceRec id with | some x => x.st | none => 6)
    | some n =>
      let d2 := cs.foldl (fun d c => d.setCtx c ((d.ctx c).resumedAt n)) d1
      let r := d2.reloadAll cs n
      if r.2 then
        cs.foldl (fun d c => (d.setCtx c { d.ctx c with barred := [] }).event 2 (some (c / 16))) (r.1.sliceState id 1)
      else
        let d3 := cs.foldl (fun d c => d.setCtx c { d.ctx c with barred := (d.ctx c).barred ++ [n] }) r.1
        match cs with
        | c :: _ => d3.resetCtx c (newTear 0 false false false none)
        | [] => d3

/-- RESTART. -/
def doRestart (d : Dev) (epoch id gen : Nat) (step : Option Nat) : Dev := d.fromManager epoch (fun d => d.restartSlice id gen step)

def execRestart (epoch sliceId : Nat) (start : FmStart) (s : State) : Answer :=
  s.next (doRestart s.dev epoch sliceId start.gen start.step)

/-- CHIP_NO_ANSWER. -/
def doChipNoAnswer (d : Dev) (chip : Nat) : Dev := if d.fm.managing ∧ chip ≠ d.fm.chip then d.chipFails chip else d

def execChipNoAnswer (chip : Nat) (s : State) : Answer := s.next (doChipNoAnswer s.dev chip)

end Sys2Proof.Machine
end

