-- ==== Sys2Proof/Machine/PowerRows.lean ====
section
/-! DEFINITION. The rows of the power inputs and of the power and thermal controller (15_faults_cave.md R456,
17_rates_limits.md R491-R496, 18_module.md R502-R511). -/

namespace Sys2Proof.Machine

/-! ## The inputs -/

/-- STANDBY_POWER_ON: the island starts; the management timer, BOOT_REQ and the side-band registers are reset, and the
operating seconds go on from their stored value (15_faults_cave.md R451, 18_module.md R504, R505). -/
def doStandbyPowerOn (d : Dev) : Dev :=
  if d.pwr.standby || d.pwr.failing then d
  else
    let c := d.cave
    { d with
      timer := 0
      pwr := { d.pwr with standby := true, islandUp := true, holdUp := false, thermtrip := false, pwrcyc := false, limits := 0 }
      sb := SideBand.init
      boot := { Boot.init with running := false }
      flt := Flt.init
      cave := { c with opBase := c.opStored + (if c.cleanOff then 0 else 64), cleanOff := false, buf := [], due := false,
                       next := if c.store = 2 then c.next else c.storeNext } }.cycled

def execStandbyPowerOn (s : State) : Answer := s.next (doStandbyPowerOn s.dev)

/-- HOLD_UP_CHARGED. -/
def doHoldUpCharged (d : Dev) : Dev :=
  if !d.pwr.standby || d.pwr.holdUp then d else { d with pwr := { d.pwr with holdUp := true } }.tryRails

def execHoldUpCharged (s : State) : Answer := s.next (doHoldUpCharged s.dev)

/-- MAIN_POWER_ON: at 40 V or more the main input is in range, and the rails come up once they may. -/
def doMainPowerOn (d : Dev) (mv : Nat) : Dev :=
  let d1 := { d with pwr := { d.pwr with inputMv := mv } }
  if mv < 40000 || d.pwr.main then d1 else { d1 with pwr := { d1.pwr with main := true } }.tryRails

def execMainPowerOn (mv : Nat) (s : State) : Answer := s.next (doMainPowerOn s.dev mv)

/-- POWER_FAIL: an input is lost. The core stops and the cave is flushed on hold-up; a second loss meanwhile changes only
what is there when the flash is idle. -/
def doPowerFail (d : Dev) (standbyLost : Bool) : Dev :=
  let p := d.pwr
  if (if standbyLost then !p.standby else !p.main) then d
  else
    let d1 := { d with pwr := { p with standby := p.standby && !standbyLost, main := p.main && standbyLost,
                                       inputMv := if standbyLost then p.inputMv else 0, thermtrip := false, pwrcyc := false } }
    if !p.islandUp || p.failing then d1 else d1.powerFails

def execPowerFail (standbyLost : Bool) (s : State) : Answer := s.next (doPowerFail s.dev standbyLost)

/-- HOLD_UP_EXHAUSTED: the island and the flash stop unless standby supplies them; what was not flushed is lost. -/
def doHoldUpExhausted (d : Dev) : Dev :=
  let p := d.pwr
  if (p.main && p.standby && !p.failing) || !p.islandUp then d
  else if p.standby then { d with pwr := { p with holdUp := false } }
  else { d with pwr := { p with holdUp := false, islandUp := false, failing := false },
                cave := { d.cave with buf := if d.cave.store = 2 then d.cave.buf else [], due := false } }

def execHoldUpExhausted (s : State) : Answer := s.next (doHoldUpExhausted s.dev)

/-! ## The controller (R491-R494) -/

/-- The lowest of the rails that the limits allow, within 0.55-0.90 V, in 5 mV steps. -/
def railTarget (o : PowerObs) : Nat := max 550 (min 900 (min (min o.maxCap o.maxTj) (min o.maxCur o.maxIn))) / 5 * 5

/-- One step of at most 5 mV towards a target. -/
def railStep (mv target : Nat) : Nat := if mv + 5 ≤ target then mv + 5 else if target + 5 ≤ mv then mv - 5 else mv

def hottest (tj : List Nat) : Nat := tj.foldl max 0

/-- Limits that bind: the lowest rail is theirs and below 0.90 V, or their bound is exceeded. -/
def limitsOf (o : PowerObs) (cap : Nat) : Nat :=
  let low := min (min o.maxCap o.maxTj) (min o.maxCur o.maxIn)
  let holds (m : Nat) (past : Bool) : Nat := boolNat ((m == low && decide (m < 900)) || past)
  holds o.maxCap (decide (cap < o.power10) || decide (11 * cap < 10 * o.power1)) + 2 * holds o.maxTj (decide (1050 < hottest o.tj)) +
    4 * holds o.maxCur (decide (2000 < o.coreA)) + 8 * holds o.maxIn (decide (420 < o.inputDa))

/-- The step-rate curve: millivolts, M steps/s at 70 °C, and the temperature coefficient in 0.01 % per °C (R488). -/
def rateCurve : List (Nat × Nat × Nat) := [(550, 620, 15), (650, 920, 12), (750, 1200, 10), (850, 1450, 8), (900, 1550, 7)]

/-- The rate and the coefficient at a core voltage, a hundredfold, interpolated in voltage. -/
def curveAt (mv : Nat) : List (Nat × Nat × Nat) → Nat × Nat
  | (v0, r0, c0) :: (v1, r1, c1) :: rest =>
    if v1 < mv then curveAt mv ((v1, r1, c1) :: rest)
    else
      let k := (mv - v0) * (100 / (v1 - v0))
      (100 * r0 + (r1 - r0) * k, 100 * c0 - (c0 - c1) * k)
  | [(_, r0, c0)] => (100 * r0, 100 * c0)
  | [] => (0, 0)

/-- The rate of the curve at a junction temperature in 0.1 °C, in units of 10^-9 M steps/s (R489). -/
def rateAt (mv tj : Nat) : Nat :=
  let r := curveAt (max 550 (min 900 mv)) rateCurve
  ((r.1 : Int) * (10 ^ 7 - (r.2 : Int) * ((tj : Int) - 700))).toNat

/-- The rate a part measures lies within 3 % of the curve's, and below 20 °C at or above the rate there: a measurement
is brought within those bounds, which no part leaves (R488, R489; DEDUCED, notes/assumptions/47.md). -/
def rateWithin (mv tj step : Nat) : Nat :=
  let x := rateAt mv (max 200 tj)
  let lo := (97 * x + 10 ^ 11 - 1) / 10 ^ 11
  let hi := 103 * x / 10 ^ 11
  max lo (if tj < 200 then step else min hi step)

/-- The measurements are recorded; steps and energy add up over the 50 µs. -/
def Power.measure (p : Power) (o : PowerObs) : Power :=
  let step := rateWithin p.coreMv (o.tj.foldl max 0) o.step
  { p with tj := o.tj, powerW := o.power10, power100 := o.power100, coreA := o.coreA, inputMv := o.inputMv, inputDa := o.inputDa,
           stepMsps := if p.coreMv = 0 then 0 else step, steps := if p.coreMv = 0 then p.steps else p.steps + 50 * step,
           energy := p.energy + o.power10 }

/-- Limits come into force; one that begins to bind is shown to the tray, and the junction's is a fault. -/
def Dev.bindLimits (d : Dev) (lim : Nat) : Dev :=
  let old := d.pwr.limits
  let d1 := { d with pwr := { d.pwr with limits := lim } }
  let fresh := (List.range 4).any (fun n => bit lim n && !bit old n)
  let d2 := if fresh then d1.sbAlert 1 else d1
  if bit lim 1 && !bit old 1 then d2.raise (plainMsg pwrSrc 0x80 0) else d2

/-- The PWR_LIMIT commands that wait for the rail are answered. -/
def Dev.capAnswers (d : Dev) : Dev :=
  d.pwr.capWait.foldl (fun d e => d.respond e.1 e.2 rOk (leBytes 2 d.pwr.capW)) { d with pwr := { d.pwr with capWait := [] } }

/-- The controller's work at a sample while the rail is up. -/
def Dev.control (d : Dev) (o : PowerObs) : Dev :=
  let hold := d.pwr.hold075
  let target := if hold then 750 else (railTarget o)
  let mv := railStep d.pwr.coreMv target
  let d1 := { d with pwr := { d.pwr with coreMv := mv } }.bindLimits (if hold then 0 else limitsOf o d.pwr.capW)
  if mv = target then d1.capAnswers else d1

/-- POWER_SAMPLE. -/
def doPowerSample (d : Dev) (o : PowerObs) : Dev :=
  if !d.pwr.islandUp then d
  else
    let hot := decide (1000 ≤ hottest o.tj) && decide (hottest d.pwr.tj < 1000)
    let d1 := { d with pwr := d.pwr.measure o }
    let d2 := if hot then d1.sbAlert 2 else d1
    if d.pwr.coreMv = 0 then d2
    else if 1150 ≤ hottest o.tj then d2.trip
    else d2.control o

def execPowerSample (obs : PowerObs) (s : State) : Answer := s.next (doPowerSample s.dev obs)

/-- CURRENT_FAST_PATH: the regulators lower the rail themselves. -/
def doCurrentFastPath (d : Dev) (coreA : Nat) : Dev :=
  if d.pwr.coreMv = 0 ∨ coreA ≤ 2000 then d
  else
    let lim := if bit d.pwr.limits 2 then d.pwr.limits else d.pwr.limits + 4
    { d with pwr := { d.pwr with coreMv := if 555 ≤ d.pwr.coreMv then d.pwr.coreMv - 5 else d.pwr.coreMv, coreA := coreA } }.bindLimits lim

def execCurrentFastPath (coreA : Nat) (s : State) : Answer := s.next (doCurrentFastPath s.dev coreA)

/-- THERMAL_TRIP: a quadrant has reached 115 °C. -/
def doThermalTrip (d : Dev) (tj : List Nat) : Dev :=
  if d.pwr.coreMv = 0 ∨ hottest tj < 1150 then d
  else
    let d1 := { d with pwr := { d.pwr with tj := tj } }
    (if hottest d.pwr.tj < 1000 then d1.sbAlert 2 else d1).trip

def execThermalTrip (tj : List Nat) (s : State) : Answer := s.next (doThermalTrip s.dev tj)

end Sys2Proof.Machine
end

