-- ==== Sys2Proof/Machine/Recovery.lean ====
section
/-! DEFINITION. The rows of the reset and recovery controller and of the management cores (14_recovery.md R406-R416,
R430-R432). -/

namespace Sys2Proof.Machine

/-! ## Hangs (R406-R410, 03_curd_core.md R118) -/

/-- Pending work of a resident context (R407). -/
def Dev.pendingWork (d : Dev) (ctx : Nat) : Bool :=
  (d.partCurds (ctx / 16)).any (fun e => let c := d.curd (curdKey e.1 e.2); c.st == .run || c.st == .wait) ||
    decide (d.dmaWork (ctx / 16) ≠ 0) || decide (d.inflight ctx ≠ 0)

/-- The sum of the progress counters of a context's engines (R406): its vats', and the port engines' that serve its
trees. -/
def Dev.progressSum (d : Dev) (ctx : Nat) : Nat :=
  let ns := d.partNodes (ctx / 16)
  sumOf ((d.partCurds (ctx / 16)).map (fun e => (smGet 0 (d.curd (curdKey e.1 e.2)).r.perf 0).toNat)) +
    sumOf (ns.map (fun n => sumOf ((List.range 4).map (fun c => (d.dmaCh n c).bytes)) + (d.unit n).chunks + (d.ni n).progress)) +
    sumOf ((List.range 16).map (fun p => if (d.unitCtxs (portUnit p)).contains ctx then (d.port p).pkts else 0))

/-- A tag's operation names a counter of a curd. -/
def TagOp.names (o : TagOp) (slot k : Nat) : Bool :=
  match o with
  | .farGet s j _ _ | .farAmo s j _ _ => s == slot && j == k
  | .farPut s j | .sig s j | .fence s j => s == slot && j == k
  | _ => false

/-- Samples in a full window (R406). -/
def hangWindow : Nat := 16

/-- A waiting curd counts as progressing while a far operation, signal, fence or culture update on its counter is
outstanding, or a collective on it waits for RELEASE within arrive_limit, or has had RELEASE and RU_CHUNKS of its vat has
moved within the last full window (R409, R118). -/
def Dev.waitProgress (d : Dev) (node slot : Nat) : Bool :=
  let c := d.curd (curdKey node slot)
  match c.st, c.waitK with
  | .wait, some k =>
    (d.ni node).live.any (fun r => r.op.names slot k) || (d.ni node).cult.any (fun x => x.slot == slot && x.k == k) ||
      (match d.ctxOf node with
       | some ctx => (d.unit (d.rankUnit ctx)).ops.any (fun o =>
           o.ctx == ctx && (if o.release.isNone then !o.timedOut else (d.unit node).still < hangWindow) && o.parts.any (fun p => p.node == node && p.slot == slot && p.k == k))
       | none => false)
  | _, _ => false

/-- No judgement is made while the slot is drained or a switch runs (R408). -/
def Dev.noJudgement (d : Dev) (ctx : Nat) : Bool :=
  (d.part (ctx / 16)).switchTo.isSome || (d.partNodes (ctx / 16)).any (fun n => (d.ni n).stop.getLsbD (ctx % 16))

/-- A reduction unit at a sample. -/
def CollUnit.sampled (u : CollUnit) : CollUnit :=
  { u with still := if u.chunks = u.seen then u.still + 1 else 0, seen := u.chunks }

/-- One context at a sample: hung at the sixteenth after it last progressed (R408, R410, R435). -/
def Dev.sampleCtx (d0 : Dev) (ctx : Nat) : Dev :=
  let d := (d0.partNodes (ctx / 16)).foldl (fun d n => d.setUnit n (d.unit n).sampled) d0
  let c := d.ctx ctx
  let sum := d.progressSum ctx
  let moved := d.noJudgement ctx || sum != c.lastSum || (d.partCurds (ctx / 16)).any (fun e => d.waitProgress e.1 e.2)
  let n := if moved then 0 else c.lastProg + 1
  let d1 := d.setCtx ctx { c with lastProg := n, lastSum := sum }
  if n = 16 ∧ d.pendingWork ctx ∧ c.tear.isNone then
    { d1 with rrc := { d1.rrc with hang := ctx + c.gen * 2 ^ 10 + bits d.timer.toNat 39 0 * 2 ^ 24 } }.raise
      (d1.ctxMsg (0x400 + ctx) 0x60 0 0 (some ctx))
  else if n ≥ 16 ∧ !d.pendingWork ctx then d.setCtx ctx { c with lastProg := 15, lastSum := sum }
  else d1

/-- HANG_SAMPLE. -/
def doHangSample (d : Dev) : Dev :=
  (((List.range 64).filterMap (fun p => (d.part p).resident.map (fun s => 16 * p + s))).filter (fun c => (d.ctx c).live)).foldl
    (fun d c => d.sampleCtx c) d

def execHangSample (s : State) : Answer := s.next (doHangSample s.dev)

/-! ## Teardown (R414) -/

/-- An engine's reset agent has confirmed its reset (R415, R416). -/
def Dev.engineConfirmed (d : Dev) (u : Nat) : Dev :=
  let wait := d.rrc.engineWait.erase u
  if u < 0x9000 ∧ u % 128 = unitControl then
    match d.partOf (u / 128) with
    | some p =>
      if (d.part p).st ≠ 3 then d
      else
        let d1 := { d with rrc := { d.rrc with engineWait := wait } }
        if wait.any (fun w => w < 0x9000 && w % 128 == unitControl && d.partOf (w / 128) == some p) then d1 else d1.endPartReset p
    | none => { d with rrc := { d.rrc with engineWait := wait } }
  else if (d.unitCtxs u).any (fun c => (d.ctx c).tear.isSome) then d
  else
    let reqs := d.rrc.engineReq.filter (fun e => e.1 == u)
    let d1 := { d with rrc := { d.rrc with engineWait := wait, engineReq := d.rrc.engineReq.filter (fun e => e.1 != u) } }.clearUnit u
    (reqs.foldl (fun d e => d.answerReset (some (e.2.1, e.2.2)) 0 0 1) d1).settleFaults

/-- RESET_AGENT_CONFIRM. -/
def doResetAgentConfirm (d : Dev) (ctx unit : Nat) : Dev :=
  let c := d.ctx ctx
  let d1 := match c.tear with
    | some t => d.setCtx ctx { c with tear := some { t with waitUnits := t.waitUnits.filter (fun u => u != unit) } }
    | none => d
  if d1.rrc.engineWait.contains unit then d1.engineConfirmed unit else d1

def execResetAgentConfirm (ctx unit : Nat) (s : State) : Answer := s.next (doResetAgentConfirm s.dev ctx unit)

/-- A teardown waits for nothing more, and its partition is not itself being reset. -/
def Dev.tornThrough (d : Dev) (ctx : Nat) (t : Teardown) : Bool :=
  t.waitUnits.isEmpty && d.inflight ctx == 0 && (d.part (ctx / 16)).st != 3

/-- A channel of the partition's memory is being retrained: the resume waits for it (R427). -/
def Dev.memoryAway (d : Dev) (p : Nat) : Bool :=
  (d.part p).grans.any (fun g => g.bands.any (fun b => (d.chan b.1).retraining))

/-- TEARDOWN_DRAINED. -/
def doTeardownDrained (d : Dev) (ctx : Nat) : Dev :=
  match (d.ctx ctx).tear with
  | some t => if d.tornThrough ctx t && !d.memoryAway (ctx / 16) then d.finishTear ctx else d
  | none => d

def execTeardownDrained (ctx : Nat) (s : State) : Answer := s.next (doTeardownDrained s.dev ctx)

/-- TEARDOWN_TIMEOUT: a partition reset. -/
def doTeardownTimeout (d : Dev) (ctx : Nat) : Dev :=
  match (d.ctx ctx).tear with
  | some t =>
    if d.tornThrough ctx t || (d.part (ctx / 16)).st == 3 then d
    else (d.raise (d.ctxMsg rrcSrc 0x61 0 0 (some ctx))).partReset (ctx / 16) t.cause true none
  | none => d

def execTeardownTimeout (ctx : Nat) (s : State) : Answer := s.next (doTeardownTimeout s.dev ctx)

/-- ENGINE_RESET_TIMEOUT: an engine that has not confirmed a teardown is reset; one that has not confirmed its reset takes
its partition with it, to be fenced; a port engine is fenced instead (R414, R415, R416). -/
def doEngineResetTimeout (d : Dev) (u : Nat) : Dev :=
  if d.rrc.engineWait.contains u then
    if u < 0x9000 ∧ u % 128 = unitControl then d
    else
      let reqs := d.rrc.engineReq.filter (fun e => e.1 == u)
      let d1 := { d with rrc := { d.rrc with engineWait := d.rrc.engineWait.erase u,
                                             engineReq := d.rrc.engineReq.filter (fun e => e.1 != u) } }.raise (plainMsg rrcSrc 0x62 u)
      let alone (d : Dev) : Dev := (reqs.foldl (fun d e => d.answerReset (some (e.2.1, e.2.2)) 0 0 1) d).settleFaults
      if 0x9000 ≤ u then alone (d1.fencePort (u - 0x9000))
      else
        match d1.partOf (u / 128) with
        | none => alone (d1.fenceUnit u)
        | some p =>
          let q := d1.part p
          (d1.setPart p { q with fenceAfter := if q.fenceAfter.contains u then q.fenceAfter else q.fenceAfter ++ [u] }).partReset p
            d1.rrc.lastCause true (reqs.head?.map (fun e => (e.2.1, e.2.2)))
  else
    match d.ctxs.find? (fun e => match e.2.tear with | some t => t.waitUnits.contains u | none => false) with
    | some e => d.engineReset u ((e.2.tear.map (fun (t : Teardown) => t.cause)).getD 0) none
    | none => d

def execEngineResetTimeout (unit : Nat) (s : State) : Answer := s.next (doEngineResetTimeout s.dev unit)

/-- PARTITION_RESET_TIMEOUT: the chip is reset; vats that did not confirm are fenced after it (R416). -/
def doPartitionResetTimeout (d : Dev) (p : Nat) : Dev :=
  let q := d.part p
  if q.st ≠ 3 then d
  else
    let late := (d.partNodes p).filter (fun n => d.rrc.engineWait.contains (vatUnit n unitControl))
    ((d.setPart p { q with fenceAfter := (q.fenceAfter ++ late.map (fun n => vatUnit n unitControl)).dedup }).raise
      (plainMsg rrcSrc 0x63 p)).chipReset d.rrc.lastCause true true

def execPartitionResetTimeout (part : Nat) (s : State) : Answer := s.next (doPartitionResetTimeout s.dev part)

/-! ## Management cores and self-test (R430-R432) -/

/-- MGMT_FAILOVER. -/
def execMgmtFailover (s : State) : Answer := s.next s.dev.failover

/-- STANDBY_SELFTEST_DONE: a reset core becomes the standby or is fenced; after a restart of both, the receivers are up
again, or the chip is reset. -/
def doStandbySelftestDone (d : Dev) (pass : Bool) : Dev :=
  let r := d.rrc
  if r.bothDown then
    if pass then { d with rrc := { r with bothDown := false, standbyOk := true }, host := { d.host with recvUp := true } }
    else ({ d with rrc := { r with bothDown := false } }.raise (plainMsg rrcSrc 0x69 0)).chipReset 0x69 true false
  else
    match r.selftest with
    | none => d
    | some b =>
      if pass then { d with rrc := { r with selftest := none, standbyOk := b != r.primaryB } }
      else { d with rrc := { r with selftest := none, mgmtBad := true, coreAOk := r.coreAOk && b, coreBOk := r.coreBOk && !b } }

def execStandbySelftestDone (pass : Bool) (s : State) : Answer := s.next (doStandbySelftestDone s.dev pass)

/-- A spare curd: one that stands for no logical curd. -/
def Dev.isSpareCurd (d : Dev) (node slot : Nat) : Bool :=
  !(d.curd (curdKey node slot)).fenced && ((d.vat node).logical slot).isNone && (d.vat node).lst != .fusedOff

/-- SPARE_SELFTEST: spares that fail are fenced, each reported. -/
def doSpareSelftest (d : Dev) (curds : List (Nat × Nat)) (vats : List Nat) : Dev :=
  let d1 := curds.foldl (fun d e =>
    if d.isSpareCurd e.1 e.2 then
      ({ d with rrc := { d.rrc with badCurds := min (d.rrc.badCurds + 1) 0xFF } }.fenceCurd e.1 e.2).raise
        (plainMsg rrcSrc 0x66 (vatUnit e.1 e.2))
    else d) d
  let d2 := vats.foldl (fun d n =>
    if (d.vat n).lst = .spare then
      ({ d with rrc := { d.rrc with badVats := min (d.rrc.badVats + 1) 0xFF } }.fenceVat n).raise
        (plainMsg rrcSrc 0x66 (vatUnit n unitControl))
    else d) d1
  { d2 with rrc := { d2.rrc with passes := hold16 (d2.rrc.passes + 1) } }

def execSpareSelftest (curds : List (Nat × Nat)) (vats : List Nat) (s : State) : Answer := s.next (doSpareSelftest s.dev curds vats)

end Sys2Proof.Machine
end

