-- ==== Sys2Proof/Machine/Memory.lean ====
section
/-! DEFINITION. The memory rows: fills and scrubs that end, patrol, band moves, lost and retraining channels, and the
channel registers as views (10_memory.md R316-R328, 14_recovery.md R427). -/

namespace Sys2Proof.Machine

/-! ## Brine's work (R317, R327, R328) -/

/-- A partition's memory, or what it is to be, lies on a channel. -/
def Dev.onChan (d : Dev) (p c : Nat) : Bool := (d.chanSet (d.part p)).contains c || (d.part p).grans.any (fun g => g.bands.any (fun b => b.1 == c))

/-- The job that has priority on a channel: 6 band move, 2 grant, 3 scrub, 4 patrol, 0 none; and its partition. -/
def Dev.brineJob (d : Dev) (c : Nat) : Nat × Nat :=
  let x := d.chan c
  if x.st ≠ 1 ∨ x.retraining then (0, 0)
  else if x.move.isSome ∨ x.moves ≠ [] then (6, 0)
  else
    match (List.range 64).find? (fun p => (d.part p).grants != [] && d.onChan p c) with
    | some p => (2, p)
    | none =>
      match (List.range 64).find? (fun p => (d.part p).scrub && d.onChan p c) with
      | some p => (3, p)
      | none => (4, 0)

/-- MC_STAT_c. -/
def Chan.statWord (c : Chan) : Nat :=
  c.st + c.rate * 2 ^ 2 + c.cap * 2 ^ 5 + c.ranks * 2 ^ 8 + c.retired % 16 * 2 ^ 10 + min 15 c.failedDev.length * 2 ^ 14 +
    c.remapUsed * 2 ^ 18 + c.spareBands * 2 ^ 35

/-- MC_ERR_c. -/
def Chan.errWord (c : Chan) : Nat :=
  c.errC + c.errU * 2 ^ 16 + c.errF * 2 ^ 32 + c.errI * 2 ^ 40 + hold16 c.passes * 2 ^ 48

/-- BRINE_STAT_c; a grant fill or scrub counts its lines whole at its end. -/
def Dev.brineStat (d : Dev) (c : Nat) : Nat :=
  let j := d.brineJob c
  let lines := if j.1 = 6 then ((d.chan c).move.map (fun m => m.cursor)).getD 0 else if j.1 = 4 then (d.chan c).patrol else 0
  j.1 + j.2 * 2 ^ 3 + lines % 2 ^ 32 * 2 ^ 9

/-- Brine may finish a job of a partition: no channel of it has work of a higher priority. -/
def Dev.brineFree (d : Dev) (p job : Nat) : Bool :=
  (List.range 32).all (fun c => !d.onChan p c || (d.brineJob c).1 == job || (d.brineJob c).1 == 0)

/-! ## Grants and scrubs (R319, R320) -/

/-- The slot of a context is still reserved for its slice. -/
def Dev.slotReserved (d : Dev) (ctx : Nat) : Bool := sdValid ((d.ctxNi ctx).slice (ctx % 16))

/-- A save area has been filled: the context exists (12_rennet.md R367). -/
def Dev.endCreate (d : Dev) (f key ctx : Nat) : Dev :=
  let c := d.ctx ctx
  let x := (d.ctxNi ctx).slice (ctx % 16)
  if c.live || !sdValid x then (d.setCtx ctx { c with save := if c.live then c.save else none }).fail f key rNotFound 0x08
  else
    let r := c.save.getD (0, 0)
    let rank := (d.ctxNi ctx).rankAt (ctx % 16) (ctx / 16)
    let d1 := (d.fillPages (ctx / 16) r.1 r.2).setCtx ctx { c with live := true, gen := sdGen x, sliceId := sdId x, rank := rank }
    { d1 with lastGen := smSet 0 d1.lastGen ctx (sdGen x) }.respond f key rOk (leBytes 2 ctx ++ leBytes 2 (sdGen x))

/-- A mapping's pages have been filled: the segment register is written, with a keep record where it keeps. -/
def Dev.endMap (d : Dev) (f key ctx seg flags base pages page : Nat) : Dev :=
  let c := d.ctx ctx
  if !c.live then d.fail f key rNotFound 0x08
  else
    let g : Seg := { valid := true, rd := bit flags 0, wr := bit flags 1, keep := bit flags 2, base := base, pages := pages, page := page }
    let d1 := (d.fillPages (ctx / 16) page pages).setCtx ctx { c with segs := smSet Seg.init c.segs seg g }
    let r : KeepRec := { sliceId := c.sliceId, rank := c.rank, seg := seg, base := base, pages := pages, part := ctx / 16, page := page }
    let d2 := if g.keep then { d1 with ext := { d1.ext with keeps := d1.ext.keeps ++ [r] } } else d1
    d2.respond f key rOk (leBytes 4 page)

/-- GRANT_FILL_DONE: the partition's oldest grant is filled. -/
def doGrantFillDone (d : Dev) (p : Nat) : Dev :=
  let q := d.part p
  match q.grants with
  | [] => d
  | g :: rest =>
    if !d.brineFree p 2 then d
    else
      let d1 := d.setPart p { q with grants := rest }
      match g with
      | .ctxCreate f k ctx => d1.endCreate f k ctx
      | .memMap f k ctx seg flags base pages page => d1.endMap f k ctx seg flags base pages page

def execGrantFillDone (part : Nat) (s : State) : Answer := s.next (doGrantFillDone s.dev part)

/-- SCRUB_DONE: every line of the partition is zero; it is back in service, or FREE. -/
def doScrubDone (d : Dev) (p : Nat) : Dev :=
  let q := d.part p
  if !q.scrub || !d.brineFree p 3 then d
  else
    let d1 := (d.fillGranules q.grans).setPart p { q with scrub := false, st := if q.st = 3 then 3 else 1 }
    let d2 := if q.destroying && q.st != 3 then d1.freePart p else d1
    d2.event 4 (some p)

def execScrubDone (part : Nat) (s : State) : Answer := s.next (doScrubDone s.dev part)

/-! ## Patrol and moves (R321, R324) -/

/-- Devices found in error beside those already known: their codewords' masks are joined. -/
def joinMarks (l : List (Nat × Nat)) (found : List (Nat × Nat)) : List (Nat × Nat) :=
  found.foldl (fun l e =>
    if l.any (fun x => x.1 == e.1) then l.map (fun x => if x.1 = e.1 then (x.1, x.2 ||| e.2) else x) else l ++ [e]) l

/-- Lines of a band. -/
def bandLines : Nat := 2 ^ 18

/-- The line of a patrol position: every band of the channel in turn. -/
def patrolLine (chan n : Nat) : Nat := lineAddr chan (n / bandLines) (n % bandLines)

def Dev.confLine (d : Dev) (la : Nat) : Bool :=
  match d.partOfLine la with
  | some p => (d.part p).conf
  | none => false

/-- PATROL_READ: the next line is read with the errors it shows. -/
def doPatrolRead (d : Dev) (c : Nat) (found : List (Nat × Nat)) : Dev :=
  let x := d.chan c
  if (d.brineJob c).1 ≠ 4 then d
  else
    let la := patrolLine c x.patrol
    let d1 := { d with ext := { d.ext with lineErr := smSet [] d.ext.lineErr la (joinMarks (smGet [] d.ext.lineErr la) found) } }
    let d2 := (d1.checkLine la (d1.confLine la) false none).1
    let y := d2.chan c
    let last := decide (bandsOf x.cap * bandLines ≤ x.patrol + 1)
    d2.setChan c { y with patrol := if last then 0 else x.patrol + 1, passes := if last then hold16 (y.passes + 1) else y.passes }

def execPatrolRead (chan : Nat) (found : List (Nat × Nat)) (s : State) : Answer := s.next (doPatrolRead s.dev chan found)

/-- BAND_MOVE: the next line goes to the spare band, corrected where it can be; after the last the band has moved. -/
def doBandMove (d : Dev) (c : Nat) : Dev :=
  let x := d.chan c
  if (d.brineJob c).1 ≠ 6 then d
  else
    match x.move with
    | none =>
      (match x.moves with
       | [] => d
       | m :: rest => d.setChan c { x with move := some { band := m.1, spare := m.2, cursor := 0 }, moves := rest })
    | some m =>
      let la := lineAddr c m.band m.cursor
      let d1 := (d.checkLine la (d.confLine la) false none).1
      let y := d1.chan c
      if m.cursor + 1 < bandLines then d1.setChan c { y with move := some { m with cursor := m.cursor + 1 } }
      else d1.setChan c { y with move := none, bandMap := smSet 0 y.bandMap m.band (m.spare + 1) }

def execBandMove (chan : Nat) (s : State) : Answer := s.next (doBandMove s.dev chan)

/-! ## Channels (R325, 14_recovery.md R427) -/

/-- CHANNEL_LOST. -/
def execChannelLost (chan : Nat) (s : State) : Answer := s.next (s.dev.loseChan chan)

/-- Resident contexts whose memory has a band on a channel. -/
def Dev.chanUsers (d : Dev) (c : Nat) : List Nat :=
  (List.range 64).filterMap (fun p =>
    if (d.part p).grans.any (fun g => g.bands.any (fun b => b.1 == c)) then (d.part p).resident.map (fun s => 16 * p + s) else none)

/-- MEM_TRAIN_LOST: the contexts with memory there are reset, and the PHY is retrained. -/
def doMemTrainLost (d : Dev) (c : Nat) : Dev :=
  let x := d.chan c
  if x.st ≠ 1 ∨ x.retraining then d
  else
    let d1 := (d.setChan c { x with retraining := true }).raise (plainMsg (0x120 + c) 0x49 0)
    (d1.chanUsers c).foldl (fun d k =>
      let m := d.ctxMsg (0x120 + c) 0x49 0 0 (some k)
      (d.caveAction m (d.inRind m) 1 none 0).resetCtx k (newTear 0x49 false false false none)) d1

def execMemTrainLost (chan : Nat) (s : State) : Answer := s.next (doMemTrainLost s.dev chan)

/-- MEM_RETRAIN_DONE: back in service, or lost. -/
def doMemRetrainDone (d : Dev) (c : Nat) (ok : Bool) : Dev :=
  let x := d.chan c
  if !x.retraining then d
  else if ok then d.setChan c { x with retraining := false }
  else d.loseChan c

def execMemRetrainDone (chan : Nat) (ok : Bool) (s : State) : Answer := s.next (doMemRetrainDone s.dev chan ok)

end Sys2Proof.Machine
end

