-- ==== Sys2Proof/Machine/RenDev.lean ====
section
/-! DEFINITION. The Rennet rows about the device, faults, events, telemetry and power: groups 0x01, 0x07 and 0x0B
(12_rennet.md R362-R364, R374, 15_faults_cave.md R446-R456, 17_rates_limits.md R493). -/

namespace Sys2Proof.Machine

/-! ## DEV_INFO (R362) -/

def variantName (v : Nat) : String := if v = 4 then "256" else if v = 3 then "192" else "128"

/-- The part number, NUL-padded (00_scope.md R1, R2). -/
def Dev.partNumber (d : Dev) : List Byte :=
  ((asciiBytes ("HNV-D9-" ++ variantName d.sec.fuses.variant ++ (if d.sec.fuses.cap then "-C" else ""))) ++ List.replicate 16 0).take 16

def Dev.countVats (d : Dev) (st : VatState) (nodes : List Nat) : Nat := (nodes.filter (fun n => (d.vat n).lst == st)).length

def allNodes : List Nat := List.range 288

/-- Ports that the part has, by mask. -/
def Dev.portMask (d : Dev) : Nat := d.presentPorts

def capBytes (cap : Nat) : Nat := if cap = 0 then 0 else 2 ^ 35 * 2 ^ (cap - 1)

def Dev.installedBytes (d : Dev) : Nat := sumOf (d.ext.chans.map (fun e => capBytes e.2.cap))

/-- What may be mapped (10_memory.md R322, 00_scope.md R2). -/
def Dev.mappableBytes (d : Dev) : Nat :=
  let n := sumOf (d.ext.chans.map (fun e => if e.2.st = 1 then capBytes e.2.cap / 64 * 63 else 0))
  if d.sec.fuses.cap then min n (2 ^ 41) else n

def Dev.chanMask (d : Dev) : Nat := sumOf ((List.range 32).map (fun c => if (d.chan c).st = 1 then 2 ^ c else 0))

/-- Spare slots of a vat that stand for a logical curd, by mask. -/
def Vat.spareMask (v : Vat) : Nat := sumOf ((List.range 4).map (fun n => if (v.logical (64 + n)).isSome then 2 ^ n else 0))

def Dev.fencedCurds (d : Dev) (node : Nat) : Nat := ((List.range 68).filter (fun s => (d.curd (curdKey node s)).fenced)).length

/-- Spare curds of a vat that work and stand for nothing. -/
def Dev.freeCurds (d : Dev) (node : Nat) : Nat :=
  ([64, 65, 66, 67].filter (fun s => !(d.curd (curdKey node s)).fenced && ((d.vat node).logical s).isNone)).length

def vatCode : VatState → Nat
  | .active => 0
  | .spare => 1
  | .fenced => 2
  | .fusedOff => 3

/-- One entry of the vat map. -/
def Dev.mapEntry (d : Dev) (node : Nat) : Nat :=
  let v := d.vat node
  v.lnum % 64 + quadrant node * 2 ^ 6 + vatCode v.lst * 2 ^ 8 + v.spareMask * 2 ^ 11 + min 31 (d.fencedCurds node) * 2 ^ 15

def Dev.vatMap (d : Dev) : List Byte := allNodes.flatMap (fun n => leBytes 4 (d.mapEntry n))

def Dev.mgmtCopy (d : Dev) : FwCopy := smGet FwCopy.init d.sec.fw (smGet 0 d.sec.running 0)

/-- The response of DEV_INFO. -/
def Dev.infoBytes (d : Dev) : List Byte :=
  d.partNumber ++ leBytes 8 d.sec.fuses.serial ++ leBytes 2 (d.countVats .active allNodes) ++ leBytes 1 (16 * d.sec.fuses.variant) ++
    leBytes 1 ((List.range 32).filter (fun c => (d.chan c).st == 1)).length ++ leBytes 2 d.portMask ++ leBytes 2 0 ++
    leBytes 8 d.installedBytes ++ leBytes 8 d.mappableBytes ++ leBytes 4 d.chanMask ++
    (List.range 4).flatMap (fun q => leBytes 1 (d.countVats .spare (quadNodes q))) ++
    leBytes 2 (sumOf ((allNodes.filter (fun n => (d.vat n).lst == .active)).map d.freeCurds)) ++ leBytes 2 0 ++
    leBytes 4 d.mgmtCopy.version

/-- DEV_INFO. -/
def doDevInfo (d : Dev) (f key : Nat) : Dev :=
  d.command f key 0x0101 anyMsg (fun d m =>
    let buf := leAt m 8 8
    if buf = 0 then d.respond f key rOk d.infoBytes
    else if leAt m 0x10 4 < 1152 then d.refuseCmd f key rNoResource 0x10 0 1152
    else d.sendBuf f key buf d.vatMap d.infoBytes)

def execDevInfo (func chan : Nat) (s : State) : Answer := s.next (doDevInfo s.dev func chan)

/-! ## DEV_HEALTH (R362, R365) -/

/-- A unit stays fenced with no spare, or a stage of the start completed degraded (15_faults_cave.md R448,
16_bringup.md R479). -/
def Dev.degraded (d : Dev) : Bool :=
  d.boot.degraded || d.parts.any (fun e => e.2.fewer) || d.ext.chans.any (fun e => e.2.st == 3) || d.ports.any (fun e => e.2.fenced) ||
    d.cv.any (fun e => e.2.fenced) || d.rrc.mgmtBad

/-- 0 STARTING, 1 READY, 2 DEGRADED, 3 FAULT, 4 OUT_OF_SERVICE. -/
def Dev.health (d : Dev) : Nat :=
  if d.rrc.oos then 4
  else if d.faultState then 3
  else if d.starting then 0
  else if d.degraded then 2
  else 1

/-- An entry concerns what a function may see (R359). -/
def Dev.entryFor (d : Dev) (f : Nat) (e : FltEntry) : Bool := f == 0 || d.faultPart e.m == some (f - 1)

def Dev.openFor (d : Dev) (f : Nat) : Nat := (d.flt.list.filter (fun e => !e.cleared && 2 ≤ e.sev && d.entryFor f e)).length

def Dev.healthFlags (d : Dev) : Nat :=
  boolNat d.cave.storeFailed + 2 * boolNat d.anyRind + 4 * boolNat (d.sec.debugScope != 0) +
    8 * boolNat (d.rrc.badCurds != 0 || d.rrc.badVats != 0 || d.rrc.badLanes != 0 || d.rrc.mgmtBad)

def Dev.healthBytes (d : Dev) (f : Nat) : List Byte :=
  leBytes 1 d.health ++ leBytes 1 d.boot.stage ++ leBytes 2 (hold16 (d.openFor f)) ++ leBytes 4 d.flt.recoveries ++
    leBytes 2 d.recentResets ++ leBytes 1 d.fm.role ++ leBytes 1 d.healthFlags ++ leBytes 4 (d.func f).events

/-- DEV_HEALTH: the function's event bits are returned and cleared. -/
def doDevHealth (d : Dev) (f key : Nat) : Dev :=
  d.command f key 0x0102 anyMsg (fun d _ =>
    (d.setFunc f { d.func f with events := 0 }).respond f key rOk (d.healthBytes f))

def execDevHealth (func chan : Nat) (s : State) : Answer := s.next (doDevHealth s.dev func chan)

/-! ## Configuration (R363, R364) -/

/-- CFG_GET. -/
def doCfgGet (d : Dev) (f key : Nat) : Dev :=
  d.command f key 0x0103 anyMsg (fun d m =>
    let item := leAt m 8 2
    let idx := leAt m 0x0A 2
    if cfgBits item = 0 then d.fail f key rInvalid 8
    else if !cfgIndexOk item idx then d.fail f key rInvalid 0x0A
    else
      let st := cfgFind d.cfg.staged item idx
      d.respond f key rOk (leBytes 8 (d.cfgValue item idx) ++ leBytes 8 ((st.map (fun e => e.value)).getD 0) ++
        leBytes 1 (boolNat st.isSome) ++ leBytes 3 0 ++ leBytes 4 d.cfg.stageCount))

def execCfgGet (func chan : Nat) (s : State) : Answer := s.next (doCfgGet s.dev func chan)

/-- Entry n of CFG_STAGE. -/
def stageEntry (m : List Byte) (n : Nat) : CfgEntry :=
  { item := leAt m (0x10 + 16 * n) 2, index := leAt m (0x12 + 16 * n) 2, value := leAt m (0x18 + 16 * n) 8 }

/-- CFG_STAGE: all entries or none. -/
def doCfgStage (d : Dev) (f key : Nat) : Dev :=
  d.command f key 0x0104 anyMsg (fun d m =>
    let n := leAt m 8 1
    if n = 0 ∨ 15 < n then d.fail f key rInvalid 8
    else if m.length < 0x10 + 16 * n then d.fail f key rInvalid 0
    else
      match (List.range n).find? (fun i => leAt m (0x14 + 16 * i) 4 != 0 || !cfgEntryOk (stageEntry m i)) with
      | some i => d.fail f key rInvalid (0x10 + 16 * i)
      | none =>
        let staged := (List.range n).foldl (fun l i => cfgPut l (stageEntry m i)) d.cfg.staged
        { d with cfg := { d.cfg with staged := staged, stageCount := d.cfg.stageCount + 1 } }.respond f key rOk
          (leBytes 4 (d.cfg.stageCount + 1)))

def execCfgStage (func chan : Nat) (s : State) : Answer := s.next (doCfgStage s.dev func chan)

/-- CFG_COMMIT: the staged set together, or refused whole. -/
def doCfgCommit (d : Dev) (f key : Nat) : Dev :=
  d.command f key 0x0105 anyMsg (fun d m =>
    let expect := leAt m 8 4
    let persist := bit (leAt m 0x0C 4) 0
    if expect ≠ 0 ∧ expect ≠ d.cfg.stageCount then d.refuseCmd f key rConflict 0 0 d.cfg.stageCount
    else if d.cfg.staged = [] then d.noChange f key []
    else
      match d.cfg.staged.find? d.cfgConflict with
      | some e => d.refuseCmd f key rConflict 0 e.item e.index
      | none =>
        let d1 := d.cfg.staged.foldl (fun d e => d.cfgTakes e) d
        let store := if persist then { d1.cfg.rewrite with persisted := d.cfg.staged.foldl cfgPut d1.cfg.persisted } else d1.cfg
        ({ d1 with cfg := { store with staged := [] } }.caveConfig d.cfg.stageCount persist).respond f key rOk [])

def execCfgCommit (func chan : Nat) (s : State) : Answer := s.next (doCfgCommit s.dev func chan)

/-! ## Faults and events (R374) -/

/-- An entry as FLT_LIST returns it. -/
def FltEntry.bytes (e : FltEntry) : List Byte :=
  leBytes 8 e.m.word ++ leBytes 4 e.firstSeen ++ leBytes 2 e.repeats ++ leBytes 1 e.sev ++ leBytes 1 (boolNat e.ack + 2 * boolNat e.cleared)

/-- Entries that a function sees of a severity and up, with their indices. -/
def Dev.listedFaults (d : Dev) (f sev : Nat) : List (FltEntry × Nat) :=
  (d.flt.list.zipIdx).filter (fun e => sev ≤ e.1.sev && d.entryFor f e.1)

/-- FLT_LIST with at most `n` entries. -/
def Dev.fltAnswer (d : Dev) (f key : Nat) (m : List Byte) (n : Nat) : Dev :=
  let l := d.listedFaults f (leAt m 0x0A 1)
  let out := (l.filter (fun e => leAt m 8 2 ≤ e.2)).take n
  d.respond f key rOk (leBytes 2 l.length ++ leBytes 1 out.length ++ leBytes 5 0 ++ out.flatMap (fun e => e.1.bytes))

/-- FLT_LIST. -/
def doFltList (d : Dev) (f key : Nat) : Dev := d.command f key 0x0701 anyMsg (fun d m => d.fltAnswer f key m 14)

def execFltList (func chan : Nat) (s : State) : Answer := s.next (doFltList s.dev func chan)

/-- Acknowledged entries; those whose action has completed and that are not sticky are cleared (15_faults_cave.md R447). -/
def Dev.ackFaults (d : Dev) (pick : Nat → Bool) : Dev :=
  let ends (e : FltEntry) : Bool := !e.cleared && e.actionDone && !stickyKind e.m.kind
  let n := (d.flt.list.zipIdx.filter (fun e => pick e.2 && ends e.1)).length
  let list := d.flt.list.zipIdx.map (fun e => if pick e.2 then { e.1 with ack := true, cleared := e.1.cleared || ends e.1 } else e.1)
  let d1 := { d with flt := { d.flt with list := list } }
  if n = 0 then d1 else d1.caveClear n d.flt.recoveries 1

/-- FLT_ACK. -/
def doFltAck (d : Dev) (f key : Nat) : Dev :=
  d.command f key 0x0702 anyMsg (fun d m =>
    let e := leAt m 8 2
    if e = 0xFFFF then (d.ackFaults (fun _ => true)).respond f key rOk []
    else if d.flt.list.length ≤ e then d.fail f key rNotFound 8
    else (d.ackFaults (fun i => i == e)).respond f key rOk [])

def execFltAck (func chan : Nat) (s : State) : Answer := s.next (doFltAck s.dev func chan)

/-- The records of an area of the cave, unflushed ones among them, in sequence order (15_faults_cave.md R456, R457). -/
def Cave.area (c : Cave) (a : Nat) : List CaveRec :=
  if c.store = 2 then (if a = 0 then [] else c.buf)
  else if a = 0 then c.kept ++ c.buf.filter (fun r => r.seq < 4096)
  else (let l := c.circ ++ c.buf; l.drop (l.length - 65536))

/-- EVT_READ with at most `n` records. -/
def Dev.evtAnswer (d : Dev) (f key : Nat) (m : List Byte) (n : Nat) : Dev :=
  let l := d.cave.area (leAt m 8 1)
  let oldest := ((l.head?).map (fun r => r.seq)).getD 0
  let first := max (leAt m 0x0C 4) oldest
  let out := (l.filter (fun r => first ≤ r.seq)).take n
  let next := ((out.getLast?).map (fun r => r.seq + 1)).getD first
  let payload := leBytes 4 out.length ++ leBytes 4 next ++ leBytes 4 oldest
  if out = [] then d.respond f key rOk payload else d.sendBuf f key (leAt m 0x10 8) (out.flatMap CaveRec.bytes) payload

/-- EVT_READ. -/
def doEvtRead (d : Dev) (f key : Nat) : Dev :=
  d.command f key 0x0703 anyMsg (fun d m =>
    if 1 < leAt m 8 1 then d.fail f key rInvalid 8 else d.evtAnswer f key m (leAt m 0x18 4))

def execEvtRead (func chan : Nat) (s : State) : Answer := s.next (doEvtRead s.dev func chan)

/-- EVT_MARK: a MARK record, and a flush (15_faults_cave.md R452, R454). -/
def doEvtMark (d : Dev) (f key : Nat) : Dev :=
  d.command f key 0x0704 anyMsg (fun d m =>
    let seq := d.cave.next
    let d1 := d.caveWrite 2 0 0 (padBody ((m.drop 0x10).take 32 ++ leBytes 2 (leAt m 8 2)))
    { d1 with cave := { d1.cave with due := true } }.respond f key rOk (leBytes 4 seq))

def execEvtMark (func chan : Nat) (s : State) : Answer := s.next (doEvtMark s.dev func chan)

/-! ## Telemetry and the power cap (R374, 17_rates_limits.md R493) -/

/-- The island rail: 0.75 V within 3 % (18_module.md R503); where in that range is open. -/
def islandMv (free : BitVec 64) : Nat := 728 + free.toNat % 45

/-- The response of TEL_READ; while a confidential partition exists, power, current and energy are in 25 W steps of the
100 ms average. -/
def Dev.telBytes (d : Dev) (free : BitVec 64) : List Byte :=
  let w := d.pwr
  let coarse := w.power100 / 25 * 25
  let rind := d.anyRind
  leBytes 8 d.timer.toNat ++ leBytes 2 (if rind then coarse else w.powerW) ++ leBytes 2 w.coreMv ++ leBytes 2 w.stepMsps ++ leBytes 2 w.capW ++
    (List.range 4).flatMap (fun q => leBytes 2 (w.tj.getD q 0)) ++ leBytes 2 (islandMv free) ++ leBytes 2 w.inputMv ++
    leBytes 2 (if rind then coarse * 10000 / max 1 w.inputMv else w.inputDa) ++ leBytes 2 w.limits ++
    leBytes 4 (let j := w.energy / 20000; if rind then j / 25 * 25 else j)

/-- TEL_READ. -/
def doTelRead (d : Dev) (f key : Nat) : Dev :=
  d.command f key 0x0B01 anyMsg (fun d _ =>
    let x := d.draw
    x.2.respond f key rOk (d.telBytes x.1))

def execTelRead (func chan : Nat) (s : State) : Answer := s.next (doTelRead s.dev func chan)

/-- PWR_LIMIT: the cap is in force at once; the answer waits for the rail to settle. -/
def doPwrLimit (d : Dev) (f key : Nat) : Dev :=
  d.command f key 0x0B02 anyMsg (fun d m =>
    let cap := leAt m 8 2
    let fl := leAt m 0x0A 1
    if cap < 1000 ∨ 1800 < cap then d.fail f key rInvalid 8
    else if 2 ≤ fl then d.fail f key rInvalid 0x0A
    else
      let d1 := { d with pwr := { d.pwr with capW := cap, capWait := d.pwr.capWait ++ [(f, key)] },
                         cfg := if bit fl 0 then { d.cfg.rewrite with capW := some cap } else d.cfg }
      (if cap = d.pwr.capW then d1 else d1.cavePower 1).begin_ f key)

def execPwrLimit (func chan : Nat) (s : State) : Answer := s.next (doPwrLimit s.dev func chan)

end Sys2Proof.Machine
end

