-- ==== Sys2Proof/Machine/Switch.lean ====
section
/-! DEFINITION. Time-sharing of a partition: whose turn is next, the switch and its limit, signals that wait for it
(02_programming_model.md R64-R66, 11_host_mailboxes.md R341, 14_recovery.md R408, R410). -/

namespace Sys2Proof.Machine

/-- A context that may take its turn: single-rank, started, in rotation, not being reset (R64, R65). -/
def Dev.mayRun (d : Dev) (ctx : Nat) : Bool :=
  let c := d.ctx ctx
  c.live && c.prog == .started && c.sliceMs != 0 && c.tear.isNone && !d.multiRank ctx

/-- The next slot after `s` in slot order whose context may run. -/
def Dev.nextSlot (d : Dev) (p s : Nat) : Option Nat :=
  ((List.range 15).map (fun i => (s + i + 1) % 16)).find? (fun t => d.mayRun (16 * p + t))

/-- Step 1 of a switch to a slot: the curds stop once what they have issued has finished; those that have ended stay
(03_curd_core.md R79, R119). -/
def Dev.beginSwitch (d : Dev) (p slot : Nat) : Dev :=
  (d.partCurds p).foldl (fun d e =>
    d.setCurd (curdKey e.1 e.2) (d.curd (curdKey e.1 e.2)).stopNow) (d.setPart p { d.part p with switchTo := some slot })

/-- A host DMA signal counts in the saved counter of a context that is not resident (R341). -/
def Ctx.signalSaved (c : Ctx) (core k : Nat) : Ctx :=
  match c.saved with
  | none => c
  | some s =>
    let x := smGet SavedCurd.init s.curds core
    { c with saved := some { s with curds := smSet SavedCurd.init s.curds core { x with r := x.r.count k 0 } } }

/-- A host DMA signal finds its counter: it waits out a switch of its context, and counts in the curd or the save area. -/
def Dev.hostSignal (d : Dev) (ctx core k : Nat) : Dev :=
  let p := ctx / 16
  let c := d.ctx ctx
  let q := d.part p
  if q.switchTo.isSome && (q.resident == some (ctx % 16) || q.switchTo == some (ctx % 16)) then
    d.setCtx ctx { c with waitSig := c.waitSig ++ [(core, k)] }
  else if d.isResident ctx then
    (match d.curdAt p core with
     | some (n, s) => d.signalAt n s k
     | none => d)
  else d.setCtx ctx (c.signalSaved core k)

/-- Signals that have waited for a switch are applied. -/
def Dev.applyWaiting (d : Dev) (ctx : Nat) : Dev :=
  let c := d.ctx ctx
  c.waitSig.foldl (fun d e => d.hostSignal ctx e.1 e.2) (d.setCtx ctx { c with waitSig := [] })

/-- A partition is given to a context at once where nothing resident stands in the way, else by a switch. -/
def Dev.giveTo (d : Dev) (ctx : Nat) : Dev :=
  let p := ctx / 16
  if (d.part p).switchTo.isSome then d
  else if (d.part p).resident.isNone then d.makeResident ctx
  else d.beginSwitch p (ctx % 16)

/-- TIME_SLICE_END: the resident context's slice has run out, and the next in slot order is switched in. -/
def doTimeSliceEnd (d : Dev) (p : Nat) : Dev :=
  let q := d.part p
  if q.st = 0 ∨ q.st = 3 ∨ q.switchTo.isSome then d
  else
    match q.resident with
    | none => (match d.nextSlot p 15 with | some t => d.giveTo (16 * p + t) | none => d)
    | some s =>
      if d.multiRank (16 * p + s) || (d.ctx (16 * p + s)).tear.isSome then d
      else
        match d.nextSlot p s with
        | some t => d.giveTo (16 * p + t)
        | none => d

def execTimeSliceEnd (part : Nat) (s : State) : Answer := s.next (doTimeSliceEnd s.dev part)

/-- SWITCH_DRAINED: with nothing of the outgoing context in flight its state is saved and the incoming one's restored. A
word that cannot be read for the save abandons the switch, and the outgoing context is reset (05_local_memory.md R150). -/
def doSwitchDrained (d : Dev) (p : Nat) : Dev :=
  let q := d.part p
  match q.resident, q.switchTo with
  | some s, some t =>
    let out := 16 * p + s
    if d.inflight out ≠ 0 then d
    else if d.unsavable p then
      ((d.saveReads p).setPart p { q with switchTo := none }).resetCtx out (newTear 0x09 false false false none)
    else (((d.saveCtx out).makeResident (16 * p + t)).applyWaiting out).applyWaiting (16 * p + t)
  | _, _ => d

def execSwitchDrained (part : Nat) (s : State) : Answer := s.next (doSwitchDrained s.dev part)

/-- SWITCH_TIMEOUT: an outgoing context not drained within 2 ms is hung (R65, 14_recovery.md R410). -/
def doSwitchTimeout (d : Dev) (p : Nat) : Dev :=
  let q := d.part p
  match q.resident, q.switchTo with
  | some s, some _ =>
    let out := 16 * p + s
    if d.inflight out = 0 then d
    else
      { d with rrc := { d.rrc with hang := out + (d.ctx out).gen * 2 ^ 10 + bits d.timer.toNat 39 0 * 2 ^ 24 } }.raise
        (d.ctxMsg (0x400 + out) 0x60 0 0 (some out))
  | _, _ => d

def execSwitchTimeout (part : Nat) (s : State) : Answer := s.next (doSwitchTimeout s.dev part)

end Sys2Proof.Machine
end

