-- ==== Sys2Proof/Machine/RenPart.lean ====
section
/-! DEFINITION. The Rennet rows about partitions and contexts: groups 0x02 and 0x03 (12_rennet.md R367, R368, R376-R378,
02_programming_model.md R37, R44-R48, R64-R66, 10_memory.md R304, R307, R320, 13_security.md R394). -/

namespace Sys2Proof.Machine

/-! ## Objects under change (R376, R378, 09_fabric_manager.md R295) -/

/-- A partition whose memory, contexts or residence are being changed. -/
def Dev.partBusy (d : Dev) (p : Nat) : Bool :=
  let q := d.part p
  q.st == 3 || q.grants != [] || q.switchTo.isSome || (List.range 16).any (fun s => (d.ctx (16 * p + s)).tear.isSome)

/-- A slice in a reaction: the slot is stopped, or the manager's record says so. -/
def Dev.sliceBusy (d : Dev) (ctx : Nat) : Bool :=
  (d.ctxNi ctx).stop.getLsbD (ctx % 16) ||
    d.fm.slices.any (fun x => x.id == (d.ctx ctx).sliceId && (x.st == 2 || x.st == 3 || x.st == 4))

def Dev.ctxBusy (d : Dev) (ctx : Nat) : Bool := d.partBusy (ctx / 16) || ((d.ctx ctx).live && d.sliceBusy ctx)

/-- A reset waits for a reset of its partition, for another's answer, and for a fill; it joins a teardown under way. -/
def Dev.resetBusy (d : Dev) (ctx : Nat) : Bool :=
  let q := d.part (ctx / 16)
  q.st == 3 || q.grants != [] || (match (d.ctx ctx).tear with | some t => t.req.isSome | none => false) ||
    ((d.ctx ctx).live && d.sliceBusy ctx)

/-- The request's context, for a function that reaches it. -/
def reqCtx (m : List Byte) : Nat := leAt m 8 2
def reqPart (m : List Byte) : Nat := leAt m 8 1

/-- A command about a context: it waits while the context is being changed, and needs it to be there (R359, R367). -/
def Dev.ctxCommand (d : Dev) (f key op : Nat) (pick : List Byte → Bool) (busy : Dev → List Byte → Bool) (act : Dev → List Byte → Dev) : Dev :=
  d.commandW f key op pick (fun d m => reaches f (reqCtx m / 16) && busy d m) (fun d m =>
    if !reaches f (reqCtx m / 16) then d.fail f key rDenied 8
    else if !(d.ctx (reqCtx m)).live then d.fail f key rNotFound 8
    else act d m)

def busyCtx (d : Dev) (m : List Byte) : Bool := d.ctxBusy (reqCtx m)

/-! ## Partitions (R37, R304, R320, R367) -/

/-- Logical vats of a quadrant that a partition holds. -/
def Dev.vatsTaken (d : Dev) (q : Nat) : List Nat :=
  (List.range 16).flatMap (fun i =>
    let x := d.part (16 * q + i)
    if x.st = 0 then [] else (List.range (vatsOf x.psize)).map (fun j => x.first + j))

/-- The lowest aligned block of a size that is unused and in service. -/
def Dev.freeBlock (d : Dev) (q psize : Nat) : Option Nat :=
  let k := vatsOf psize
  let taken := d.vatsTaken q
  ((List.range (64 / k)).map (fun j => j * k)).find? (fun a =>
    (List.range k).all (fun i => !taken.contains (a + i) && (d.vatAt q (a + i)).isSome))

/-- PART_CREATE. -/
def doPartCreate (d : Dev) (f key : Nat) : Dev :=
  d.commandW f key 0x0201 anyMsg (fun d m => d.partOn (reqPart m) && d.partBusy (reqPart m)) (fun d m =>
    let p := reqPart m
    let psize := leAt m 9 1
    let mode := leAt m 0x0A 1
    let fl := leAt m 0x0B 1
    let q := d.part p
    if !d.partOn p then d.fail f key rInvalid 8
    else if 4 < psize then d.fail f key rInvalid 9
    else if 1 < mode then d.fail f key rInvalid 0x0A
    else if 1 < fl then d.fail f key rInvalid 0x0B
    else if q.st = 1 ∧ q.psize = psize ∧ q.local_ = (mode == 1) ∧ q.conf = bit fl 0 then d.noChange f key (leBytes 1 q.first)
    else if q.st ≠ 0 then d.fail f key rConflict 8
    else if bit fl 0 && d.sec.debugScope != 0 then d.fail f key rConflict 0x0B
    else
      match d.freeBlock (p / 16) psize with
      | none => d.fail f key rNoResource 9
      | some first =>
        let d1 := d.setPart p { Part.init with
          st := 1, psize := psize, local_ := mode == 1, conf := bit fl 0, home := p / 16, first := first }
        (if bit fl 0 then d1.newKeys p else d1).respond f key rOk (leBytes 1 first))

def execPartCreate (func chan : Nat) (s : State) : Answer := s.next (doPartCreate s.dev func chan)

/-- The keep records of a partition are discarded. -/
def Dev.dropKeeps (d : Dev) (p : Nat) : Dev := { d with ext := { d.ext with keeps := d.ext.keeps.filter (fun k => k.part != p) } }

/-- Contexts of a partition, and those being created there. -/
def Dev.partCtxs (d : Dev) (p : Nat) : List Nat := (List.range 16).filter (fun s => (d.ctx (16 * p + s)).live)

/-- A scrub begins (R320 steps 1 and 2): `keys` says whether the key pairs are replaced. -/
def Dev.startScrub (d : Dev) (p : Nat) (destroy : Bool) : Dev :=
  let d1 := d.dropKeeps p
  let q := d1.part p
  let d2 := if q.conf then (if destroy then d1.dropKeys p else d1.newKeys p) else d1
  d2.setPart p { d2.part p with st := 2, scrub := true, destroying := destroy }

/-- PART_DESTROY: the scrub begins; one that runs already goes on and ends in FREE. -/
def doPartDestroy (d : Dev) (f key : Nat) : Dev :=
  d.commandW f key 0x0202 anyMsg (fun d m => d.partOn (reqPart m) && d.partBusy (reqPart m)) (fun d m =>
    let p := reqPart m
    let q := d.part p
    if !d.partOn p || q.st == 0 then d.fail f key rNotFound 8
    else if d.partCtxs p ≠ [] then d.fail f key rConflict 8
    else if q.scrub then (d.setPart p { q with destroying := true }).respond f key rOk []
    else (d.startScrub p true).respond f key rOk [])

def execPartDestroy (func chan : Nat) (s : State) : Answer := s.next (doPartDestroy s.dev func chan)

/-- The vat of a partition's i-th logical number: the active one, or the fenced one that no spare replaced. -/
def Dev.mapVat (d : Dev) (q lnum : Nat) : Option Nat :=
  match d.vatAt q lnum with
  | some n => some n
  | none => (quadNodes q).find? (fun n => (d.vat n).lst == .fenced && (d.vat n).lnum == lnum)

/-- Entry i of PART_QUERY's vat map. -/
def Dev.mapWord (d : Dev) (q lnum : Nat) : Nat :=
  match d.mapVat q lnum with
  | some n => n + boolNat ((d.vat n).lst == .fenced) * 2 ^ 9 + (d.vat n).spareMask * 2 ^ 10
  | none => 0

/-- Bytes of one granule of the partition. -/
def Dev.granSize (d : Dev) (q : Part) : Nat :=
  match q.grans with
  | g :: _ => granBytes g.bands.length
  | [] => (let n := (d.chanSet q).length; if n = 0 then 0 else granBytes n)

/-- Bytes mapped by segment registers, save areas and hidden spill segments. -/
def Dev.mappedBytes (d : Dev) (p : Nat) : Nat := 4096 * sumOf ((d.usedRuns p).map (fun r => r.2))

/-- The response of PART_QUERY. -/
def Dev.partBytes (d : Dev) (p : Nat) : List Byte :=
  let q := d.part p
  let k := if q.st = 0 then 0 else vatsOf q.psize
  let mapped := d.mappedBytes p
  leBytes 1 q.st ++ leBytes 1 q.psize ++ leBytes 1 (boolNat q.local_) ++
    leBytes 1 (boolNat q.conf + 2 * boolNat (q.grans.any (fun g => g.lost)) + 4 * boolNat q.fewer + q.home % 4 * 8) ++
    leBytes 1 q.first ++ leBytes 1 (if q.st = 0 then 0 else (d.partNodes p).length) ++
    leBytes 2 (sumOf ((d.partCtxs p).map (fun s => 2 ^ s))) ++ leBytes 4 q.grans.length ++ leBytes 4 (d.granSize q / 2 ^ 20) ++
    leBytes 8 mapped ++ leBytes 8 (q.allocPages * 4096 - mapped) ++
    (List.range 64).flatMap (fun i => leBytes 2 (if i < k then d.mapWord (p / 16) (q.first + i) else 0))

/-- PART_QUERY. -/
def doPartQuery (d : Dev) (f key : Nat) : Dev :=
  d.command f key 0x0203 anyMsg (fun d m =>
    let p := reqPart m
    if !reaches f p then d.fail f key rDenied 8
    else if !d.partOn p then d.fail f key rNotFound 8
    else d.respond f key rOk (d.partBytes p))

def execPartQuery (func chan : Nat) (s : State) : Answer := s.next (doPartQuery s.dev func chan)

/-- PART_SET_MODE. -/
def doPartSetMode (d : Dev) (f key : Nat) : Dev :=
  d.commandW f key 0x0204 anyMsg (fun d m => d.partOn (reqPart m) && d.partBusy (reqPart m)) (fun d m =>
    let p := reqPart m
    let set := leAt m 9 1
    let mode := leAt m 0x0A 1
    let conf := leAt m 0x0B 1
    let q := d.part p
    let newMode : Bool := bit set 0 && (mode == 1) != q.local_
    let newConf : Bool := bit set 1 && (conf == 1) != q.conf
    if !d.partOn p || q.st == 0 then d.fail f key rNotFound 8
    else if 3 < set then d.fail f key rInvalid 9
    else if 1 < mode then d.fail f key rInvalid 0x0A
    else if 1 < conf then d.fail f key rInvalid 0x0B
    else if newMode && q.grans != [] then d.fail f key rConflict 0x0A
    else if newConf && d.partCtxs p != [] then d.fail f key rConflict 0x0B
    else if newConf && conf == 1 && d.sec.debugScope != 0 then d.fail f key rConflict 0x0B
    else
      let d1 := d.setPart p { q with local_ := if newMode then mode == 1 else q.local_, home := if newMode then p / 16 else q.home }
      let d2 := if newConf then
          (let d3 := if conf = 1 then d1 else d1.dropKeys p
           (d3.setPart p { d3.part p with conf := conf == 1 }).startScrub p (d3.part p).destroying)
        else d1
      d2.respond f key rOk [])

def execPartSetMode (func chan : Nat) (s : State) : Answer := s.next (doPartSetMode s.dev func chan)

/-! ## Contexts (R66, R367, R368) -/

/-- Pages that a save area takes: 6,176 KiB for each vat (02_programming_model.md R66). -/
def savePages (psize : Nat) : Nat := 1544 * vatsOf psize

/-- The slot that a slice has on a partition. -/
def Dev.slotOf (d : Dev) (p id : Nat) : Option Nat :=
  (List.range 16).find? (fun s => let x := (d.ctxNi (16 * p + s)).slice s; sdValid x && sdId x == id)

/-- CTX_CREATE: the save area is placed, and filled before the context exists. -/
def doCtxCreate (d : Dev) (f key : Nat) : Dev :=
  d.commandW f key 0x0301 anyMsg (fun d m => reaches f (leAt m 0x0C 1) && d.partBusy (leAt m 0x0C 1)) (fun d m =>
    let id := leAt m 8 4
    let p := leAt m 0x0C 1
    let q := d.part p
    if !reaches f p then d.fail f key rDenied 0x0C
    else if d.partOn p && q.st == 2 then d.fail f key rBusy 0
    else
      match if d.partOn p then d.slotOf p id else none with
      | none => if f ≠ 0 then d.fail f key rDenied 8 else d.fail f key rNotFound (if d.sliceNis id = [] then 8 else 0x0C)
      | some s =>
        let ctx := 16 * p + s
        let c := d.ctx ctx
        let x := (d.ctxNi ctx).slice s
        if c.live then
          (if c.sliceId = id then d.noChange f key (leBytes 2 ctx ++ leBytes 2 c.gen) else d.fail f key rConflict 0x0C)
        else if q.st ≠ 1 ∨ q.psize ≠ sdPsize x ∨ q.conf ≠ sdConf x then d.fail f key rNotFound 0x0C
        else if q.conf && d.partCtxs p != [] then d.fail f key rDenied 0x0C
        else
          match d.takeRun p (savePages q.psize) 1 0 8192 with
          | none => d.fail f key rNoResource 0x0C
          | some (d1, page) =>
            let d2 := d1.setCtx ctx { Ctx.init with save := some (page, savePages q.psize) }
            (d2.setPart p { d2.part p with grants := (d2.part p).grants ++ [.ctxCreate f key ctx] }).begin_ f key)

def execCtxCreate (func chan : Nat) (s : State) : Answer := s.next (doCtxCreate s.dev func chan)

/-- CTX_DESTROY: a single-rank context is torn down, and its slice goes with it. -/
def doCtxDestroy (d : Dev) (f key : Nat) : Dev :=
  d.ctxCommand f key 0x0302 anyMsg (fun d m => d.resetBusy (reqCtx m)) (fun d m =>
    let ctx := reqCtx m
    if d.multiRank ctx then d.fail f key rConflict 8
    else (d.begin_ f key).resetCtx ctx (newTear 0 false false true (some (f, key))))

def execCtxDestroy (func chan : Nat) (s : State) : Answer := s.next (doCtxDestroy s.dev func chan)

/-- CTX_SCHED. -/
def doCtxSched (d : Dev) (f key : Nat) : Dev :=
  d.ctxCommand f key 0x0303 anyMsg busyCtx (fun d m =>
    let ctx := reqCtx m
    let ms := leAt m 0x0A 2
    if 1000 < ms then d.fail f key rInvalid 0x0A
    else if ms ≠ 0 ∧ d.multiRank ctx then d.fail f key rConflict 8
    else
      let d1 := d.setCtx ctx { d.ctx ctx with sliceMs := ms }
      let d2 := if d1.mayRun ctx && (d1.part (ctx / 16)).resident.isNone then d1.giveTo ctx else d1
      d2.respond f key rOk [])

def execCtxSched (func chan : Nat) (s : State) : Answer := s.next (doCtxSched s.dev func chan)

/-- CTX_RESET with a mode other than 1: the programs go. -/
def doCtxResetClear (d : Dev) (f key : Nat) : Dev :=
  d.ctxCommand f key 0x0304 (fun m => leAt m 0x0A 1 != 1) (fun d m => d.resetBusy (reqCtx m)) (fun d m =>
    if 1 < leAt m 0x0A 1 then d.fail f key rInvalid 0x0A
    else (d.begin_ f key).resetCtx (reqCtx m) (newTear 0 false true false (some (f, key))))

def execCtxResetClear (func chan : Nat) (s : State) : Answer := s.next (doCtxResetClear s.dev func chan)

/-- CTX_RESET with mode 1: resumed from the culture record. -/
def doCtxResetResume (d : Dev) (f key : Nat) : Dev :=
  d.ctxCommand f key 0x0304 (fun m => leAt m 0x0A 1 == 1) (fun d m => d.resetBusy (reqCtx m)) (fun d m =>
    (d.begin_ f key).resetCtx (reqCtx m) (newTear 0 true false false (some (f, key))))

def execCtxResetResume (func chan : Nat) (s : State) : Answer := s.next (doCtxResetResume s.dev func chan)

end Sys2Proof.Machine
end

