-- ==== Sys2Proof/Machine/RenReset.lean ====
section
/-! DEFINITION. The Rennet rows about resets and firmware: groups 0x08 and 0x09 (12_rennet.md R374, R378, 13_security.md
R382, R383, R386, R391, 14_recovery.md R411-R418, R429, 16_bringup.md R482-R486). -/

namespace Sys2Proof.Machine

/-! ## RESET_REQ -/

def reqLevel (m : List Byte) : Nat := leAt m 8 1
def reqTarget (m : List Byte) : Nat := leAt m 0x0C 4
def level (n : Nat) (m : List Byte) : Bool := reqLevel m == n

/-- Level 0: a context reset. A level that no row names is refused here. -/
def doResetReqContext (d : Dev) (f key : Nat) : Dev :=
  d.commandW f key 0x0801 (fun m => level 0 m || decide (4 < reqLevel m))
    (fun d m => level 0 m && reaches f (reqTarget m / 16) && d.resetBusy (reqTarget m)) (fun d m =>
    let ctx := reqTarget m
    if !level 0 m then d.fail f key rInvalid 8
    else if !reaches f (ctx / 16) then d.fail f key rDenied 0x0C
    else if !(d.ctx ctx).live then d.fail f key rNotFound 0x0C
    else (d.begin_ f key).resetCtx ctx (newTear 0 false false false (some (f, key))))

def execResetReqContext (func chan : Nat) (s : State) : Answer := s.next (doResetReqContext s.dev func chan)

/-- The engine that a target names: node [8:0], kind [10:9], index [17:11]. -/
def Dev.reqEngine (d : Dev) (t : Nat) : Option Nat :=
  let node := bits t 8 0
  let i := bits t 17 11
  let vat := node < 288 && (d.vat node).lst != .fusedOff
  if 2 ^ 18 ≤ t then none
  else
    match bits t 10 9 with
    | 0 => if vat && i < 68 then some (vatUnit node i) else none
    | 1 => if vat && i < 4 then some (vatUnit node (unitDma i)) else none
    | 2 => if 0x140 ≤ node && node < 0x150 && d.quadOn (edgeQuadrant node) then some (portUnit (node - 0x140)) else none
    | _ => if vat then some (vatUnit node unitRu) else none

/-- The engine's partition is being reset. -/
def Dev.engineBusy (d : Dev) (t : Nat) : Bool :=
  match d.reqEngine t with
  | some u => if 0x9000 ≤ u then false else (match d.partOf (u / 128) with | some p => (d.part p).st == 3 | none => false)
  | none => false

/-- Level 1: an engine reset. A fenced port engine has nothing to reset. -/
def doResetReqEngine (d : Dev) (f key : Nat) : Dev :=
  d.commandW f key 0x0801 (level 1) (fun d m => f == 0 && d.engineBusy (reqTarget m)) (fun d m =>
    if f ≠ 0 then d.fail f key rDenied 8
    else
      match d.reqEngine (reqTarget m) with
      | none => d.fail f key rNotFound 0x0C
      | some u =>
        if 0x9000 ≤ u ∧ (d.port (u - 0x9000)).fenced then d.respond f key rOk (leBytes 1 1)
        else (d.begin_ f key).engineReset u 0 (some (f, key)))

def execResetReqEngine (func chan : Nat) (s : State) : Answer := s.next (doResetReqEngine s.dev func chan)

/-- Level 2: a partition reset. -/
def doResetReqPartition (d : Dev) (f key : Nat) : Dev :=
  d.commandW f key 0x0801 (level 2)
    (fun d m => reaches f (reqTarget m) && ((d.part (reqTarget m)).st == 3 || (d.part (reqTarget m)).grants != [])) (fun d m =>
    let p := reqTarget m
    if !reaches f p then d.fail f key rDenied 0x0C
    else if !d.partOn p || (d.part p).st == 0 then d.fail f key rNotFound 0x0C
    else (d.begin_ f key).partReset p 0 false (some (f, key)))

def execResetReqPartition (func chan : Nat) (s : State) : Answer := s.next (doResetReqPartition s.dev func chan)

/-- Level 3: OK is written, then the chip reset starts. -/
def doResetReqChip (d : Dev) (f key : Nat) : Dev :=
  d.command f key 0x0801 (level 3) (fun d _ =>
    if f ≠ 0 then d.fail f key rDenied 8 else (d.respond f key rOk (leBytes 1 3)).chipReset 0 true false)

def execResetReqChip (func chan : Nat) (s : State) : Answer := s.next (doResetReqChip s.dev func chan)

/-- Level 4: OK is written, then the tray controller is asked for a power cycle. -/
def doResetReqPowerCycle (d : Dev) (f key : Nat) : Dev :=
  d.command f key 0x0801 (level 4) (fun d _ =>
    if f ≠ 0 then d.fail f key rDenied 8 else (d.respond f key rOk (leBytes 1 4)).askPowerCycle 0)

def execResetReqPowerCycle (func chan : Nat) (s : State) : Answer := s.next (doResetReqPowerCycle s.dev func chan)

/-! ## SERVICE_RETURN (14_recovery.md R429) -/

/-- The fault OUT_OF_SERVICE is acknowledged, and its condition has ended. -/
def Dev.clearService (d : Dev) : Dev :=
  let hit (e : FltEntry) : Bool := e.m.kind == 0x67 && !e.cleared
  let n := (d.flt.list.filter hit).length
  let d1 := { d with flt := { d.flt with list := d.flt.list.map (fun e => if hit e then { e with ack := true, cleared := true } else e) } }
  if n = 0 then d1 else d1.caveClear n d.flt.recoveries 2

/-- SERVICE_RETURN: the count goes, the fault is acknowledged, the D9 is in service. -/
def doServiceReturn (d : Dev) (f key : Nat) : Dev :=
  d.command f key 0x0802 anyMsg (fun d _ =>
    if !d.rrc.oos then d.fail f key rConflict 0
    else
      let d1 := { d with rrc := { d.rrc with resets := [], oos := false }, cfg := d.cfg.rewrite }
      d1.clearService.respond f key rOk [])

def execServiceReturn (func chan : Nat) (s : State) : Answer := s.next (doServiceReturn s.dev func chan)

/-! ## Firmware slots (16_bringup.md R482-R486, 13_security.md R382, R383) -/

def erasedSeq : Nat := 0xFFFFFFFF

/-- The sequence after one, never that of an erased copy. -/
def seqAfter (s : Nat) : Nat := if s + 1 = erasedSeq then 0 else (s + 1) % 2 ^ 32

def Sec.runCopy (x : Sec) (comp : Nat) : Nat := smGet 0 x.running comp
def Sec.copy (x : Sec) (comp k : Nat) : FwCopy := smGet FwCopy.init x.fw (2 * comp + k)
def Sec.setCopy (x : Sec) (comp k : Nat) (c : FwCopy) : Sec := { x with fw := smSet FwCopy.init x.fw (2 * comp + k) c }

/-- The copy that a component runs from, and the slot's other copy. -/
def Sec.running_ (x : Sec) (comp : Nat) : FwCopy := x.copy comp (x.runCopy comp)
def Sec.other (x : Sec) (comp : Nat) : FwCopy := x.copy comp (1 - x.runCopy comp)

/-- Header fields of an image. -/
def imgVersion (im : List Byte) : Nat := leAt im 0x08 4
def imgSec (im : List Byte) : Nat := leAt im 0x0C 2
def imgBody (im : List Byte) : Nat := leAt im 0x10 4
def imgDigest (im : List Byte) : BitVec 256 := shake256 (im.take 0x90)

/-- An image is accepted for a component: signer, signature, body, component, security version (R383). -/
def Sec.accepts (x : Sec) (comp : Nat) (im : List Byte) : Bool :=
  let n := leAt im 5 1
  let key := (im.drop 0x40).take 68
  let signer := if n = 0 then x.fuses.signer0 else x.fuses.signer1
  n ≤ 1 && 0xC00 + imgBody im ≤ im.length && shake256 key == signer && !bit x.fuses.signerRevoke n &&
    xmssVerify key (im.take 0x90) ((im.drop 0x90).take 2820) &&
    leAt im 0x20 32 == (shake256 ((im.drop 0xC00).take (imgBody im))).toNat && leAt im 4 1 == comp &&
    smGet 0 x.fuses.secVersion comp ≤ imgSec im

/-- A copy holding an image, its sequence erased. -/
def stagedCopy (im : List Byte) (seq : Nat) : FwCopy :=
  { FwCopy.init with version := imgVersion im, secVersion := imgSec im, digest := imgDigest im, verified := true, stagedSeq := seq }

def maxImage : Nat := 2 ^ 23

/-- FW_STAGE: a verified image goes into the slot's other copy. -/
def doFwStage (d : Dev) (f key : Nat) : Dev :=
  d.command f key 0x0901 anyMsg (fun d m =>
    let comp := leAt m 8 1
    let n := leAt m 0x18 4
    if 3 < comp then d.fail f key rInvalid 8
    else if d.sec.activating ≠ [] then d.fail f key rConflict 0
    else if maxImage < n then d.refuseCmd f key rNoResource 0x18 0 maxImage
    else if !d.host.linkUp then d.fail f key rFailed 0x10
    else
      let im := d.hostRead (leAt m 0x10 8) n
      if !d.sec.accepts comp im then (d.raise (plainMsg 0x803 0x71 0)).fail f key rFailed 0x10
      else
        let seq := seqAfter (d.sec.running_ comp).seq
        let d1 := { d with sec := d.sec.setCopy comp (1 - d.sec.runCopy comp) (stagedCopy im seq) }
        (d1.event 5 none).respond f key rOk (leBytes 4 seq ++ leBytes 4 0 ++ leBytes 32 (imgDigest im).toNat))

def execFwStage (func chan : Nat) (s : State) : Answer := s.next (doFwStage s.dev func chan)

/-- A verified staged image of a component. -/
def Sec.staged (x : Sec) (comp : Nat) : Bool := (x.other comp).verified && (x.other comp).seq == erasedSeq

/-- The staged copy's sequence is written. -/
def Sec.activate (x : Sec) (comp : Nat) : Sec :=
  let c := x.other comp
  { x.setCopy comp (1 - x.runCopy comp) { c with seq := c.stagedSeq, verified := false, starts := 0 } with
    activating := x.activating ++ [comp] }

/-- The checks of FW_ACTIVATE. -/
def Dev.activateFails (d : Dev) (m : List Byte) : Option (Nat × Nat) :=
  let comp := leAt m 8 1
  let when_ := leAt m 9 1
  if 3 < comp then some (rInvalid, 8)
  else if 1 < when_ then some (rInvalid, 9)
  else if when_ = 1 ∧ (comp = 1 ∨ comp = 3) then some (rInvalid, 9)
  else if d.sec.activating ≠ [] then some (rConflict, 0)
  else if !d.sec.staged comp then some (rConflict, 8)
  else none

/-- FW_ACTIVATE with a `when` other than 1: the image wins at the next chip reset. -/
def doFwActivateNextReset (d : Dev) (f key : Nat) : Dev :=
  d.command f key 0x0902 (fun m => leAt m 9 1 != 1) (fun d m =>
    match d.activateFails m with
    | some e => d.fail f key e.1 e.2
    | none => ({ d with sec := d.sec.activate (leAt m 8 1) }.event 5 none).respond f key rOk [])

def execFwActivateNextReset (func chan : Nat) (s : State) : Answer := s.next (doFwActivateNextReset s.dev func chan)

/-- A component runs its new image, measured. -/
def Sec.runNew (x : Sec) (comp : Nat) : Sec :=
  { x with running := smSet 0 x.running comp (1 - x.runCopy comp), activating := x.activating.filter (fun c => c != comp) }

/-- FW_ACTIVATE now: a management image is loaded and measured on the standby core, which then takes over; the
root-of-trust restarts on its new image. With no standby to load a management image, the command fails. -/
def doFwActivateNow (d : Dev) (f key : Nat) : Dev :=
  d.command f key 0x0902 (fun m => leAt m 9 1 == 1) (fun d m =>
    match d.activateFails m with
    | some e => d.fail f key e.1 e.2
    | none =>
      if leAt m 8 1 = 0 then
        if !d.rrc.standbyOk then d.fail f key rFailed 0
        else ((({ d with sec := (d.sec.activate 0).runNew 0 }.event 5 none).respond f key rOk [])).failover
      else (({ d with sec := d.sec.activate 2 }.event 5 none).respond f key rOk []).recvReset true false)

def execFwActivateNow (func chan : Nat) (s : State) : Answer := s.next (doFwActivateNow s.dev func chan)

/-- State of a component: 0 none staged, 1 staged and verified, 2 activating. -/
def Sec.fwState (x : Sec) (comp : Nat) : Nat := if x.activating.contains comp then 2 else if x.staged comp then 1 else 0

/-- The response of FW_QUERY. -/
def Sec.fwBytes (x : Sec) (comp : Nat) : List Byte :=
  let r := x.running_ comp
  let st := x.fwState comp
  let c := if st = 0 then { FwCopy.init with stagedSeq := 0 } else x.other comp
  leBytes 1 st ++ leBytes 3 0 ++ leBytes 4 r.version ++ leBytes 4 r.seq ++ leBytes 4 c.version ++ leBytes 4 c.stagedSeq ++ leBytes 4 0 ++
    leBytes 32 r.digest.toNat ++ leBytes 32 c.digest.toNat

/-- FW_QUERY. -/
def doFwQuery (d : Dev) (f key : Nat) : Dev :=
  d.command f key 0x0903 anyMsg (fun d m =>
    let comp := leAt m 8 1
    if 3 < comp then d.fail f key rInvalid 8 else d.respond f key rOk (d.sec.fwBytes comp))

def execFwQuery (func chan : Nat) (s : State) : Answer := s.next (doFwQuery s.dev func chan)

/-! ## The root-of-trust restarts (13_security.md R386, R387, R391) -/

/-- The mark that is loaded: the valid copy with the higher sequence. -/
def Xmss.mark (x : Xmss) : Option Nat :=
  match x.markA, x.markB with
  | some a, some b => some (if seqHigher b.1 a.1 then b.2 else a.2)
  | some a, none => some a.2
  | none, some b => some b.2
  | none, none => none

/-- Signing resumes at the mark; the unused rest of the batch is lost. -/
def Xmss.reload (x : Xmss) : Xmss := match x.mark with | some n => { x with next := n, limit := n } | none => { x with next := 0, limit := 0 }

/-- The root-of-trust runs again: a new image of its own is measured, the signing states are loaded, the secure channels
are served. -/
def Dev.rotRestart (d : Dev) : Dev :=
  let x := if d.sec.activating.contains 2 then d.sec.runNew 2 else d.sec
  { d with sec := { x with att := x.att.reload, idk := x.idk.reload }, host := { d.host with recvUpSec := true } }

/-- A root-of-trust that has been reset while the module runs has come back (notes/assumptions/6.md). -/
def Dev.rotBack (d : Dev) : Dev :=
  if !d.host.recvUpSec && d.pwr.islandUp && 1 ≤ d.boot.stage && !d.boot.chipResetting then d.rotRestart else d

/-- What passes on an empty queue: one count of the management timer, and a root-of-trust that has been reset comes back
(notes/assumptions/6.md). -/
def Dev.idle (d : Dev) : Dev := (tick d).rotBack

end Sys2Proof.Machine
end

