-- ==== Sys2Proof/Machine/BootOps.lean ====
section
/-! DEFINITION. What the stages of a start share: stage records, halts, the choice of configuration and firmware copies,
the numbering of curds and vats (16_bringup.md R463-R487). -/

namespace Sys2Proof.Machine

/-! ## Stages (R465-R468) -/

/-- A start is in a stage and may go on. -/
def Dev.atStage (d : Dev) (n : Nat) : Bool :=
  d.boot.running && !d.boot.failed && d.boot.stage == n && d.pwr.islandUp && d.pwr.coreMv != 0 && !d.boot.lateRelease

/-- A power-on start, not one that a chip reset began. -/
def Dev.powerOn (d : Dev) : Bool := d.boot.kind != 2

/-- Management-timer counts as milliseconds. -/
def msOf (counts : Nat) : Nat := counts / 25000

/-- The STAGE record of the stage under way (R467). -/
def Dev.stageRecord (d : Dev) (result : Nat) (detail : List Byte) : Dev :=
  d.caveWrite 4 0 0 (padBody (leBytes 1 d.boot.stage ++ leBytes 1 d.boot.kind ++ leBytes 1 result ++ leBytes 1 0 ++
    leBytes 4 (msOf (d.timer.toNat - d.boot.stageAt)) ++ leBytes 8 d.timer.toNat ++ detail))

/-- A stage completes: its record, the next stage, and the elapsed time once S8 is reached. -/
def Dev.endStage (d : Dev) (degr : Bool) (detail : List Byte) : Dev :=
  let d1 := d.stageRecord (boolNat degr) detail
  let b := d1.boot
  { d1 with boot := { b with stage := b.stage + 1, stepNo := 0, progress := 0, stageAt := d.timer.toNat, degraded := b.degraded || degr,
                             elapsed := if b.stage = 7 then msOf (d.timer.toNat - b.startAt) else b.elapsed } }.sbAlert 0

/-- A start is repeated from S0, of the same kind (R468, 18_module.md R517). -/
def Dev.startAgain (d : Dev) : Dev :=
  let b := d.boot
  let b1 : Boot := { b with stage := 0, failed := false, stepNo := 0, error := 0, progress := 0, startAt := d.timer.toNat,
                            stageAt := d.timer.toNat, elapsed := 0, running := true, repeated := true, degraded := false, noCopy := [],
                            lateRelease := false }
  ({ d with boot := b1 }.recvReset false false).sbAlert 0

/-- A start halts: the fault, the STAGE record, BOOT_STAGE; then a power-cycle request, a repeat, or a halt that lasts (R468). -/
def Dev.haltStart (d : Dev) (src kind : Nat) : Dev :=
  let d1 := (d.raise (plainMsg src kind 0)).stageRecord 2 []
  let d2 := { d1 with boot := { d1.boot with failed := true, error := kind, elapsed := msOf (d.timer.toNat - d.boot.startAt) } }.sbAlert 0
  if d.boot.kind = 2 then d2.askPowerCycle kind
  else if d.boot.repeated then d2
  else d2.startAgain

/-- The source and kind of a halt for want of a component. -/
def Dev.haltNoCopy (d : Dev) (comp : Nat) : Dev :=
  match d.boot.noCopy.find? (fun e => e.1 == comp) with
  | some e => d.haltStart (if e.2 = 0x71 then 0x803 else bootSrc) e.2
  | none => d

def Dev.lacksComp (d : Dev) (comp : Nat) : Bool := d.boot.noCopy.any (fun e => e.1 == comp)

/-! ## Firmware copies (R483, R486) -/

/-- Whether a copy's contents were found good; a copy that is not named was. -/
def copyFound (obs : List CopyObs) (comp k : Nat) : Bool :=
  match obs.find? (fun o => o.comp == comp) with
  | some o => if k = 0 then o.okA else o.okB
  | none => true

/-- A copy is valid: written, in force, its contents good, its security version not below the fused minimum. -/
def Sec.copyValid (x : Sec) (obs : List CopyObs) (comp k : Nat) : Bool :=
  let c := x.copy comp k
  c.seq != erasedSeq && !c.invalid && copyFound obs comp k && decide (smGet 0 x.fuses.secVersion comp ≤ c.secVersion)

/-- The kind that a written copy found invalid raises: refused for its security version, or bad. -/
def Sec.copyFault (x : Sec) (obs : List CopyObs) (comp k : Nat) : Option Nat :=
  let c := x.copy comp k
  if c.seq = erasedSeq ∨ x.copyValid obs comp k then none
  else if !c.invalid && copyFound obs comp k then some 0x71
  else some 0x91

/-- The copy that wins. -/
def Sec.winner (x : Sec) (obs : List CopyObs) (comp : Nat) : Option Nat :=
  let a := x.copyValid obs comp 0
  let b := x.copyValid obs comp 1
  if a && b then (if seqHigher (x.copy comp 1).seq (x.copy comp 0).seq then some 1 else some 0)
  else if a then some 0
  else if b then some 1
  else none

/-- A copy is chosen: its start count rises. -/
def Sec.choose (x : Sec) (comp k : Nat) : Sec :=
  let c := x.copy comp k
  { x.setCopy comp k { c with starts := c.starts + 1 } with running := smSet 0 x.running comp k }

def Dev.missing (d : Dev) (comp kind : Nat) : Dev := { d with boot := { d.boot with noCopy := d.boot.noCopy ++ [(comp, kind)] } }

/-- One component at S0: faults of its copies, the choice, and the fallback from a copy that has failed to reach S8 three
times. -/
def Dev.loadComp (d : Dev) (obs : List CopyObs) (comp : Nat) : Dev :=
  let x := d.sec
  let faults := [0, 1].filterMap (fun k => x.copyFault obs comp k)
  let d1 := faults.foldl (fun d k => d.raise (plainMsg (if k = 0x71 then 0x803 else bootSrc) k comp)) d
  match x.winner obs comp with
  | none => d1.missing comp (if faults.contains 0x71 then 0x71 else 0x91)
  | some k =>
    if (x.copy comp k).starts < 3 then { d1 with sec := x.choose comp k }
    else
      let y := x.setCopy comp k { x.copy comp k with invalid := true }
      let d2 := { d1 with sec := y }.raise (plainMsg 0x803 0x71 comp)
      if y.copyValid obs comp (1 - k) then { d2 with sec := y.choose comp (1 - k) } else d2.missing comp 0x71

/-! ## The configuration store (R483, R484, R487) -/

/-- The store as loaded: 0 copy A, 1 copy B, 2 defaults. -/
def CfgStore.load (x : CfgStore) (obsA obsB : Bool) : CfgStore × Nat :=
  let a := x.okA && obsA
  let b := x.okB && obsB
  let newB := x.okB && (!x.okA || seqHigher x.seqB x.seqA)
  let y := { x with okA := a, okB := b }
  let older : CfgStore := { y with persisted := x.old.persisted, capW := x.old.capW, training := x.old.training, linkTraining := x.old.linkTraining }
  if !a && !b then ({ CfgStore.init with staged := x.staged, stageCount := x.stageCount, seqA := x.seqA, seqB := x.seqB }, 2)
  else if newB then (if b then (y, 1) else (older, 0))
  else if a then (y, 0)
  else (older, 1)

/-- The configuration at S0: a bad copy is reported, and what is stored comes into force; with neither copy the values of
an empty store hold. -/
def Dev.loadConfig (d : Dev) (obsA obsB : Bool) : Dev × Nat :=
  let l := d.cfg.load obsA obsB
  let bad := (if d.cfg.okA && !obsA then 1 else 0) + (if d.cfg.okB && !obsB then 1 else 0)
  let d1 := (List.range bad).foldl (fun d _ => d.raise (plainMsg bootSrc 0x91 0)) { d with cfg := l.1 }
  let d2 := if l.2 = 2 then
      { d1 with fm := { d1.fm with stored := none }, rrc := { d1.rrc with resets := [] },
                ext := { d1.ext with chans := smMap Chan.init (fun (c : Chan) => { c with remap := [], remapUsed := 0 }) d1.ext.chans },
                sec := { d1.sec with fw := smMap FwCopy.init (fun (c : FwCopy) => { c with starts := 0 }) d1.sec.fw } }
    else d1
  (d2, l.2)

/-- A copy found invalid is rewritten from the winner. -/
def CfgStore.repair (x : CfgStore) : CfgStore := if x.okA != x.okB then x.rewrite else x

/-! ## Fused quadrants (R481) -/

/-- Blocks of a fused quadrant are held in reset: its vats and ports are absent. -/
def Dev.applyFuses (d : Dev) : Dev :=
  let d1 := ((List.range 288).filter (fun n => !d.quadOn (quadrant n))).foldl (fun d n => d.setVat n { d.vat n with lst := .fusedOff }) d
  ((List.range 16).filter (fun p => !d.quadOn (edgeQuadrant (0x140 + p)))).foldl (fun d p => d.setPort p { d.port p with st := 3 }) d1

/-! ## On-chip fill and numbering (R474, R478) -/

/-- A vat store filled, or left by the fill of a released vat. -/
def Vat.filled (v : Vat) : Vat := v.putVs v.vsBlock.filled

/-- The fill of R154 over every block. -/
def Dev.fillChip (d : Dev) : Dev :=
  { d with curds := smMap Curd.init Curd.filled d.curds, vats := smMap Vat.init Vat.filled d.vats }

/-- Broken curds of a vat's slots 0-63, each with the spare slot that replaces it; none when they run out. -/
def Dev.curdMap (d : Dev) (node : Nat) : Option (SMap Nat) :=
  let works (s : Nat) : Bool := !(d.curd (curdKey node s)).fenced
  let broken := (List.range 64).filter (fun s => !works s)
  let spares := [64, 65, 66, 67].filter works
  if spares.length < broken.length then none else some ((broken.zip spares).foldl (fun m e => smSet 0 m e.1 e.2) [])

/-- The vats of a quadrant in the order of their logical numbers: those of the factory default that work, a spare vat in
the place of each that does not; the missing numbers are the highest. -/
def Dev.quadOrder (d : Dev) (q : Nat) : List Nat :=
  let works (n : Nat) : Bool := (d.vat n).lst != .fenced && (d.curdMap n).isSome
  let ns := quadNodes q
  let spares := ns.filter (fun n => (defaultVat n).lst == .spare && works n)
  let at_ (i : Nat) : List Nat := ns.filter (fun n => (defaultVat n).lst == .active && (defaultVat n).lnum == i)
  let holes := (List.range 64).filter (fun i => !(at_ i).all works)
  let subst := holes.zip spares
  (List.range 64).filterMap (fun i =>
    if holes.contains i then (subst.find? (fun e => e.1 == i)).map (fun e => e.2) else (at_ i).head?)

/-- A vat after the numbering. -/
def Dev.numbered (d : Dev) (q n : Nat) : Vat :=
  let v := d.vat n
  match d.curdMap n with
  | none => { v with lst := .fenced, remap := [] }
  | some m =>
    if v.lst = .fenced then v
    else
      match (d.quadOrder q).findIdx? (fun x => x == n) with
      | some i => { v with lst := .active, lnum := i, remap := m }
      | none => { v with lst := .spare, lnum := 0, remap := m }

/-- Logical numbers are assigned afresh in every quadrant of the part. -/
def Dev.numberAll (d : Dev) : Dev :=
  ((List.range 4).filter d.quadOn).foldl (fun e q => (quadNodes q).foldl (fun e n => e.setVat n (d.numbered q n)) e) d

/-! ## Firmware broadcast (R475-R477) -/

/-- A slot lacks a chunk of the image being broadcast. -/
def Bcast.lacks (b : Bcast) (slot : Nat) : Bool :=
  b.armed && (List.range (b.nchunksM1 + 1)).any (fun n => !smGet false b.got (512 * slot + n))

/-- Curds that still lack a chunk. -/
def Dev.incomplete (d : Dev) : List (Nat × Nat) :=
  ((List.range 288).filter (fun n => (d.vat n).lst != .fusedOff && (d.vat n).bc.armed)).flatMap (fun n =>
    ((List.range 68).filter (d.vat n).bc.lacks).map (fun s => (n, s)))

/-- A chunk goes into one curd: the first 128 into its instruction store, the others into its local data memory. -/
def Dev.putChunk (d : Dev) (node slot n : Nat) (data : List Byte) : Dev :=
  let d1 := if n < 128 then (d.isWrite node slot (128 * n) data).1 else (d.ldmWrite node slot (128 * (n - 128)) data).1
  let v := d1.vat node
  d1.setVat node { v with bc := { v.bc with got := smSet false v.bc.got (512 * slot + n) true } }

end Sys2Proof.Machine
end

