-- ==== Sys2Proof/Machine/BootRows.lean ====
section
/-! DEFINITION. The rows of a start: the stages S0 to S8, its limit and its hold, the firmware broadcast (16_bringup.md
R463-R487, 10_memory.md R302, R318, 14_recovery.md R417, R429, 13_security.md R384). -/

namespace Sys2Proof.Machine

/-! ## S0 -/

/-- The kind of a start: warm after a chip reset once S4 has completed; a start cut short or repeated keeps its kind; else
cold or fast (R463). The serials are seen at S3. -/
def Dev.startKind (d : Dev) : Nat :=
  let b := d.boot
  if b.chipResetting && b.s4Done then 2
  else if b.chipResetting && b.cut.isSome then b.cut.getD 2
  else if !b.chipResetting && b.repeated then b.kind
  else if b.memTest || b.fullTrain || d.cfg.training == [] then 0
  else 1

/-- What a power-on start does at S0 besides: the stored power cap and items, the fused quadrants, a new device memory key
(R481, 17_rates_limits.md R493, 10_memory.md R311). A start of that kind that repeats one after a chip reset leaves what is kept as
it is in force (R10). -/
def Dev.powerOnS0 (d : Dev) (kept : Bool) : Dev :=
  let d1 := (if kept then d.cfgAtReset else d.cfgAtPowerOn).applyFuses
  { d1 with pwr := { d1.pwr with capW := if kept then d1.pwr.capW else d1.cfg.capW.getD 1800 }, sec := { d1.sec with keyEpoch := d1.sec.keyEpoch + 1 } }

/-- S0 record: the copy each component runs from, the copies refused, the configuration copy. -/
def s0Detail (d : Dev) (refused store : Nat) : List Byte :=
  leBytes 1 (sumOf ([0, 1, 2, 3].map (fun c => d.sec.runCopy c * 2 ^ c))) ++ leBytes 1 refused ++ leBytes 1 store

/-- Copies refused, bit 2c + k. -/
def Sec.refused (x : Sec) (obs : List CopyObs) : Nat :=
  sumOf ([0, 1, 2, 3].flatMap (fun c => [0, 1].map (fun k => if (x.copyFault obs c k).isSome then 2 ^ (2 * c + k) else 0)))

/-- BOOT_S0. -/
def doBootS0 (d : Dev) (copies : List CopyObs) (cfgA cfgB : Bool) : Dev :=
  if !d.atStage 0 then d
  else
    let c := d.loadConfig cfgA cfgB
    let kind := c.1.startKind
    let d1 := { c.1 with boot := { c.1.boot with kind := kind, chipResetting := false, cut := none, noCopy := [] } }
    let d2 := if kind = 2 then d1.cfgAtReset else d1.powerOnS0 (d.boot.chipResetting || d.boot.repeated)
    let refused := d2.sec.refused copies
    let d3 := [2, 0, 1, 3].foldl (fun d x => d.loadComp copies x) { d2 with sec := { d2.sec with activating := [] } }
    if d3.lacksComp 2 then d3.haltNoCopy 2
    else d3.rotRestart.endStage (refused != 0 || c.2 == 2) (s0Detail d3 refused c.2)

def execBootS0 (copies : List CopyObs) (cfgA cfgB : Bool) (s : State) : Answer := s.next (doBootS0 s.dev copies cfgA cfgB)

/-! ## S1 -/

/-- BOOT_S1: the cores take their roles, and the mailboxes are served. At a warm start a core fenced before stays so, and
the primary stays primary while it passes (14_recovery.md R434, R435). -/
def doBootS1 (d : Dev) (passA passB : Bool) : Dev :=
  let r := d.rrc
  let a := passA && (d.powerOn || r.coreAOk)
  let b := passB && (d.powerOn || r.coreBOk)
  if !d.atStage 1 then d
  else if d.lacksComp 0 then d.haltNoCopy 0
  else if !a && !b then d.haltStart rrcSrc 0x69
  else
    { d with rrc := { r with primaryB := if a && b then r.primaryB && !d.powerOn else b, standbyOk := a && b, mgmtBad := !(a && b),
                             coreAOk := a, coreBOk := b, selftest := none, bothDown := false },
             host := { d.host with recvUp := true } }.endStage (!(a && b)) []

def execBootS1 (passA passB : Bool) (s : State) : Answer := s.next (doBootS1 s.dev passA passB)

/-! ## S2 -/

/-- A block of the start is fenced at once: no context runs. -/
def Dev.fenceAtStart (d : Dev) (stop : Nat) : Dev :=
  if stop < 0x120 then
    (let m := { d.mesh with toFence := d.mesh.toFence ++ [meshKey .a stop, meshKey .b stop] }
     (edgesAt stop).foldl (fun d e => d.fenceEdge e) ({ d with mesh := m.applyFences }.fenceVat stop))
  else d.fenceEdge stop

/-- A router that fails its self-test is fenced, with its vat and its edge nodes (06_mesh.md R198). -/
def Dev.routerAtStart (d : Dev) (k : Nat) : Dev :=
  if 576 ≤ k ∨ smGet false d.mesh.fenced k then d
  else
    let m := { d.mesh with failed := smSet false d.mesh.failed k true, toFence := d.mesh.toFence ++ [k] }
    (edgesAt (k % 288)).foldl (fun d e => d.fenceEdge e) ({ d with mesh := m.applyFences }.fenceVat (k % 288))

/-- A ring stop that the island does not reach (01_architecture.md R24). -/
def Dev.stopAtStart (d : Dev) (s : Nat) : Dev :=
  if d.stopServed s = false ∨ d.flt.lostStops.contains s then d
  else ({ d with flt := { d.flt with lostStops := d.flt.lostStops ++ [s] } }.raise (plainMsg (0x808 + loopOf s) 0x90 s)).fenceAtStart s

/-- Check-value units of the quadrants of the part, and CV4, that returned the values of R460. -/
def Dev.cvTested (d : Dev) (bad : List Nat) : Dev :=
  ((List.range 5).filter (fun u => !bad.contains u && (u == 4 || d.quadOn u))).foldl
    (fun d u => d.setCvu u { d.cvu u with selftestOk := true }) d

def s2Detail (d : Dev) : List Byte :=
  leBytes 2 (d.mesh.fenced.length) ++ leBytes 2 d.flt.lostStops.length ++
    leBytes 1 (sumOf ((List.range 5).map (fun u => if (d.cvu u).fenced then 2 ^ u else 0)))

/-- The end of S2. -/
def Dev.endS2 (d : Dev) : Dev :=
  d.endStage (d.mesh.fenced != [] || d.flt.lostStops != [] || d.cv.any (fun e => e.2.fenced)) (s2Detail d)

/-- BOOT_S2: what fails is fenced; a hold stops the start here. -/
def doBootS2 (d : Dev) (failedRouters lostStops badCv : List Nat) : Dev :=
  if !d.atStage 2 then d
  else
    let d1 := failedRouters.foldl (fun d k => d.routerAtStart k) d
    let d2 := lostStops.foldl (fun d s => d.stopAtStart s) d1
    let d3 := ((badCv.filter (fun u => u < 4)).foldl (fun d u => (d.raise (plainMsg (cvSrc u) 0xB0 0)).cvFence u) d2).cvTested badCv
    if badCv.contains 4 then { d3 with cv := smSet CvUnit.init d3.cv 4 { d3.cvu 4 with fenced := true } }.haltStart (cvSrc 4) 0xB0
    else if d3.boot.hold then { d3 with boot := { d3.boot with lateRelease := true } }
    else d3.endS2

def execBootS2 (failedRouters lostStops badCv : List Nat) (s : State) : Answer := s.next (doBootS2 s.dev failedRouters lostStops badCv)

/-- BOOT_HOLD_RELEASE: the tray writes BOOT_REQ.hold 0; a start held at the end of S2 goes on, and EXTEST ends with it
(18_module.md R518). -/
def doBootHoldRelease (d : Dev) : Dev :=
  let d1 := { d with boot := { d.boot with hold := false } }
  if !d.pwr.islandUp then d
  else if d.boot.lateRelease then
    { d1 with boot := { d1.boot with lateRelease := false },
              sec := { d1.sec with jtag := if d1.sec.jtag = JtagOp.extest then JtagOp.bypass else d1.sec.jtag } }.endS2
  else d1

def execBootHoldRelease (s : State) : Answer := s.next (doBootHoldRelease s.dev)

/-! ## S3 (R469, R470, 10_memory.md R302) -/

/-- How many channels hold a configuration, then what a tie goes by: capacity, ranks, the lowest channel. -/
def refKey (obs : List ChanObs) (o : ChanObs) : Nat :=
  let n := (obs.filter (fun x => x.cap == o.cap && x.ranks == o.ranks)).length
  ((n * 8 + o.cap) * 8 + o.ranks) * 64 + (63 - o.chan)

/-- The channel whose module is the reference configuration. -/
def reference (obs : List ChanObs) : Option ChanObs :=
  match (obs.map (refKey obs)).max? with
  | some k => obs.find? (fun o => refKey obs o == k)
  | none => none

/-- Bands that a channel keeps as free spare bands: 1/64 of its 32 MiB bands, less the eight of the spare pages (R322). -/
def spareBandsOf (cap : Nat) : Nat := if cap = 0 then 0 else 2 ^ (cap - 1) * 16 - 8

/-- The saved training of a channel is that of the module found. -/
def CfgStore.trained (x : CfgStore) (o : ChanObs) : Bool := x.training.contains (o.chan, o.serial)

/-- The module differs from the one whose training is saved. -/
def CfgStore.otherSerial (x : CfgStore) (o : ChanObs) : Bool := x.training.any (fun e => e.1 == o.chan && e.2 != o.serial)

/-- What becomes of a channel at a power-on S3: 0 no module, 1 saved settings taken, 2 fully trained, 3 failed, 4 differing. -/
def trainOutcome (x : CfgStore) (full : Bool) (ref : Option ChanObs) (o : ChanObs) : Nat :=
  if !o.present then 0
  else if ref.any (fun r => r.cap != o.cap || r.ranks != o.ranks) then 4
  else if x.trained o && !full && o.savedOk then 1
  else if o.fullOk then 2
  else 3

/-- A channel after a power-on S3. -/
def Dev.trainChan (d : Dev) (o : ChanObs) (out rate : Nat) : Dev :=
  let c := d.chan o.chan
  let x : Chan := { c with st := if out = 0 then 0 else if out ≤ 2 then 1 else 2, rate := if out = 1 ∨ out = 2 then rate else 0,
                           cap := if o.present then o.cap else 0, ranks := if o.present then o.ranks else 0,
                           serial := if o.present then o.serial else 0, spareBands := if out = 1 ∨ out = 2 then spareBandsOf o.cap else 0 }
  let d1 := d.setChan o.chan x
  if out = 3 ∨ out = 4 then d1.raise (plainMsg (0x120 + o.chan) 0x48 0) else d1

def chanMaskOf (l : List (ChanObs × Nat)) (ok : Nat → Bool) : Nat := sumOf (l.map (fun e => if ok e.2 then 2 ^ e.1.chan else 0))

def s3Detail (d : Dev) (l : List (ChanObs × Nat)) : List Byte :=
  leBytes 4 (sumOf ((List.range 32).map (fun c => if (d.chan c).st = 1 then 2 ^ c else 0))) ++ leBytes 4 (chanMaskOf l (fun n => n == 2)) ++
    leBytes 4 (chanMaskOf l (fun n => n == 3)) ++ leBytes 4 (chanMaskOf l (fun n => n == 4))

/-- A channel that the mesh or the ring no longer reaches (06_mesh.md R198, 01_architecture.md R24). -/
def Dev.chanCut (d : Dev) (c : Nat) : Bool :=
  d.flt.lostStops.contains (0x120 + c) ||
    (match attach (0x120 + c) with | some a => smGet false d.mesh.fenced a.1 || smGet false d.mesh.fenced (288 + a.1) | none => false)

/-- A power-on S3: the reference, the rate, each channel; the channel set of WIDE; what is saved. -/
def Dev.powerOnS3 (d : Dev) (obs : List ChanObs) : Dev :=
  let obs := obs.filter (fun o => d.quadOn (o.chan / 8))
  let here := obs.filter (fun o => o.present)
  let ref := reference here
  let same := here.filter (fun o => ref.any (fun r => r.cap == o.cap && r.ranks == o.ranks))
  let rate := ((same.map (fun o => o.rate)).min?).getD 0
  let out := obs.map (fun o => (o, if o.present && d.chanCut o.chan then 3 else trainOutcome d.cfg d.boot.fullTrain ref o))
  let changed := here.any d.cfg.otherSerial
  let d1 := out.foldl (fun d e => d.trainChan e.1 e.2 rate) d
  let up := (List.range 32).filter (fun c => (d1.chan c).st == 1)
  let fresh := (out.filter (fun e => e.2 == 2)).map (fun e => (e.1.chan, e.1.serial))
  let training := d1.cfg.training.filter (fun e => !fresh.any (fun x => x.1 == e.1)) ++ fresh
  let cfg := if fresh != [] || (!d1.cfg.okA && !d1.cfg.okB) then { d1.cfg.rewrite with training := training } else d1.cfg
  let kind := if changed && d1.boot.kind == 1 then 0 else d1.boot.kind
  let tests := if kind ≠ 0 then []
    else if d1.boot.memTest then up
    else up.filter (fun c => here.any (fun o => o.chan == c && d.cfg.otherSerial o))
  let d2 := { d1 with ext := { d1.ext with wide := up }, cfg := cfg, boot := { d1.boot with kind := kind, testChans := tests } }
  d2.endStage (out.any (fun e => e.2 == 3 || e.2 == 4) || up == []) (s3Detail d2 out)

/-- A warm S3: a channel in service or LOST takes its saved settings; one that fails is LOST (R325, R469). -/
def Dev.warmS3 (d : Dev) (obs : List ChanObs) : Dev :=
  let mine := obs.filter (fun o => (d.chan o.chan).st == 1 || (d.chan o.chan).st == 3)
  let d1 := mine.foldl (fun d o =>
    let c := d.chan o.chan
    if o.savedOk && d.cfg.training.any (fun e => e.1 == o.chan) && !d.chanCut o.chan then d.setChan o.chan { c with st := 1, retraining := false }
    else d.loseChan o.chan) d
  d1.endStage ((List.range 32).any (fun c => (d1.chan c).st == 3)) (s3Detail d1 [])

/-- BOOT_S3. -/
def doBootS3 (d : Dev) (obs : List ChanObs) : Dev :=
  if !d.atStage 3 then d
  else if d.lacksComp 3 then d.haltNoCopy 3
  else if d.powerOn then d.powerOnS3 obs
  else d.warmS3 obs

def execBootS3 (obs : List ChanObs) (s : State) : Answer := s.next (doBootS3 s.dev obs)

/-! ## S4 -/

/-- A port that is not held DOWN trains from the start of S5 on (07_links.md R238). -/
def Dev.startTraining (d : Dev) (p : Nat) : Dev :=
  let x := d.port p
  if x.st = 0 ∧ portEnable x ∧ !x.fenced then d.setPort p { x with st := 1 } else d

/-- BOOT_S4: a power-on start tests the selected channels and fills every line; a warm start writes nothing. A test that
finds nothing bad leaves every channel as it was. -/
def doBootS4 (d : Dev) : Dev :=
  if !d.atStage 4 then d
  else
    let tested := sumOf (d.boot.testChans.map (fun c => 2 ^ c))
    let d1 := if d.powerOn then
        { d with ext := { d.ext with mem := [], lineErr := [], badFold := [], badMac := [] },
                 boot := { d.boot with memTest := false, testChans := [] } }
      else d
    let d2 := (List.range 16).foldl (fun d p => d.startTraining p) d1
    Dev.endStage { d2 with boot := { d2.boot with s4Done := true } } false (leBytes 4 (if d.powerOn then tested else 0))

def execBootS4 (s : State) : Answer := s.next (doBootS4 s.dev)

/-! ## S5 (R472, R473) -/

/-- The saved link training of a port is that of the peer found. -/
def CfgStore.linked (x : CfgStore) (o : PortObs) : Bool := x.linkTraining.contains (o.port, o.peerSerial, o.peerPort)

/-- A port trains: with its saved settings, or fully at a power-on start. -/
def Dev.trainPort (d : Dev) (o : PortObs) : Dev :=
  if !o.peer || (!d.powerOn && !d.cfg.linked o) then d else d.bringUp o.port o.txOk o.rxOk

/-- A port that trained fully. -/
def Dev.fullyTrained (d : Dev) (o : PortObs) : Bool :=
  d.powerOn && o.peer && (o.full || d.boot.fullTrain || !d.cfg.linked o)

def s5Detail (d : Dev) (obs : List PortObs) (full : List PortObs) : List Byte :=
  let w (p : Nat) : Nat := if (d.port p).st = 2 then (d.port p).txW else 0
  let bad (p : Nat) : Nat := (d.port p).badTx ||| (d.port p).badRx
  leBytes 8 (sumOf ((List.range 16).map (fun p => w p * 2 ^ (4 * p)))) ++
    leBytes 10 (sumOf ((List.range 16).map (fun p => bad p % 32 * 2 ^ (5 * p)))) ++ leBytes 2 (sumOf (full.map (fun o => 2 ^ o.port))) ++
    leBytes 2 (sumOf ((obs.filter (fun o => !o.peer)).map (fun o => 2 ^ o.port)))

/-- BOOT_S5. -/
def doBootS5 (d : Dev) (obs : List PortObs) : Dev :=
  if !d.atStage 5 then d
  else
    let obs := obs.filter (fun o => d.quadOn (edgeQuadrant (0x140 + o.port)))
    let d1 := (List.range 16).foldl (fun d p => if (d.port p).st = 1 then d.portFails p else d) (obs.foldl (fun d o => d.trainPort o) d)
    let full := obs.filter d.fullyTrained
    let won := (full.filter (fun o => (d1.port o.port).st == 2)).map (fun o => (o.port, o.peerSerial, o.peerPort))
    let links := d1.cfg.linkTraining.filter (fun e => !won.any (fun x => x.1 == e.1)) ++ won
    let cfg := if won = [] then d1.cfg else { d1.cfg.rewrite with linkTraining := links }
    let d2 := { d1 with cfg := cfg, boot := { d1.boot with fullTrain := d1.boot.fullTrain && !d.powerOn } }
    d2.endStage (obs.any (fun o => o.peer && ((d2.port o.port).st != 2 || (d2.port o.port).txW < 4 || (d2.port o.port).rxW < 4 ||
      (d2.port o.port).badTx != 0 || (d2.port o.port).badRx != 0))) (s5Detail d2 obs full)

def execBootS5 (obs : List PortObs) (s : State) : Answer := s.next (doBootS5 s.dev obs)

/-! ## S6 (R474-R478) -/

/-- A curd or vat that fails is fenced: at a power-on start before the numbering, at a warm start with its spare. -/
def Dev.failCurd (d : Dev) (node slot : Nat) : Dev :=
  if d.powerOn then d.setCurd (curdKey node slot) { d.curd (curdKey node slot) with fenced := true } else d.fenceCurd node slot

def Dev.failVat (d : Dev) (node : Nat) : Dev :=
  if d.powerOn then (if (d.vat node).lst = .fusedOff then d else d.setVat node { d.vat node with lst := .fenced }) else d.fenceVat node

def Dev.failUnits (d : Dev) (curds : List (Nat × Nat)) (vats : List Nat) : Dev :=
  vats.foldl (fun d n => d.failVat n) (curds.foldl (fun d e => d.failCurd e.1 e.2) d)

/-- Fenced curds of the vats of the part. -/
def Dev.fencedAll (d : Dev) : List (Nat × Nat) :=
  ((List.range 288).filter (fun n => (d.vat n).lst != .fusedOff)).flatMap (fun n =>
    ((List.range 68).filter (fun s => (d.curd (curdKey n s)).fenced)).map (fun s => (n, s)))

def s6Detail (d : Dev) (rounds : Nat) : List Byte :=
  let fencedVats := (List.range 288).filter (fun n => (d.vat n).lst == .fenced)
  let taken := (List.range 288).filter (fun n => (defaultVat n).lst == .spare && (d.vat n).lst == .active)
  leBytes 2 d.fencedAll.length ++ leBytes 2 (sumOf (d.vats.map (fun e => e.2.remap.length))) ++ leBytes 1 taken.length ++
    leBytes 1 (fencedVats.length - taken.length) ++ leBytes 1 rounds

/-- A curd is halted in IDLE once the start has released it. -/
def Curd.parked (c : Curd) : Curd := { c with st := .idle, r := CurdRegs.init }

/-- The broadcast is over. -/
def Dev.disarm (d : Dev) : Dev := { d with vats := smMap Vat.init (fun (v : Vat) => { v with bc := { v.bc with armed := false } }) d.vats }

/-- BOOT_S6, in two parts: fill and self-test first; after the broadcast the numbering and the known-answer runs. A curd
that still lacks chunks after the third repair round is fenced. -/
def doBootS6 (d : Dev) (badCurds : List (Nat × Nat)) (badVats : List Nat) : Dev :=
  if !d.atStage 6 then d
  else if d.lacksComp 1 then d.haltNoCopy 1
  else if d.boot.stepNo = 0 then
    let d1 := d.fillChip.failUnits badCurds badVats
    { d1 with boot := { d1.boot with stepNo := 1 } }
  else if d.incomplete ≠ [] ∧ d.boot.stepNo < 4 then d
  else
    let d1 := d.failUnits (d.incomplete ++ badCurds) badVats
    let d2 := (if d.powerOn then d1.numberAll else d1).disarm
    let d3 := { d2 with curds := smMap Curd.init Curd.parked d2.curds, pwr := { d2.pwr with hold075 := false } }
    d3.endStage (d3.fencedAll != [] || d3.vats.any (fun e => e.2.lst == .fenced)) (s6Detail d3 (d.boot.stepNo - 1))

def execBootS6 (badCurds : List (Nat × Nat)) (badVats : List Nat) (s : State) : Answer := s.next (doBootS6 s.dev badCurds badVats)

/-- VAT_BCAST_ARM: a write of VAT_BCAST; arming clears every bitmap of the vat. -/
def doVatBcastArm (d : Dev) (node : Nat) (w : Word) : Dev :=
  let v := d.vat node
  if v.lst = .fusedOff then d
  else
    let n := w.toNat
    d.setVat node { v with bc := { v.bc with armed := bit n 1, nchunksM1 := bits n 10 2, got := if bit n 1 then [] else v.bc.got } }

def execVatBcastArm (node : Nat) (w : Word) (s : State) : Answer := s.next (doVatBcastArm s.dev node w)

/-- FIRMWARE_CHUNK: a chunk whose CRC is good goes into each curd it is for; a bad one is discarded and counted. -/
def doFirmwareChunk (d : Dev) (node : Nat) (c : FwChunk) : Dev :=
  let v := d.vat node
  let data := padTo 128 c.data
  if v.lst = .fusedOff ∨ !d.atStage 6 then d
  else if crcValue 1 c.n data ≠ c.crc then d.setVat node { v with bc := { v.bc with crcFail := hold16 (v.bc.crcFail + 1) } }
  else
    let slots := if !c.unicast || c.slot == 0x7F then List.range 68 else (List.range 68).filter (fun s => s == c.slot)
    slots.foldl (fun d s => d.putChunk node s c.n data) d

def execFirmwareChunk (node : Nat) (c : FwChunk) (s : State) : Answer := s.next (doFirmwareChunk s.dev node c)

/-- REPAIR_ROUND: of at most three; the chunks it sends reach the vats as firmware chunks. -/
def doRepairRound (d : Dev) : Dev :=
  if !d.atStage 6 || d.boot.stepNo == 0 || decide (4 ≤ d.boot.stepNo) || d.incomplete == [] then d
  else { d with boot := { d.boot with stepNo := d.boot.stepNo + 1 } }

def execRepairRound (s : State) : Answer := s.next (doRepairRound s.dev)

/-! ## S7 (R479) -/

/-- Joining begins: an election at a power-on start; at a warm start the module, a member once more, goes to the manager of
the day with its stored coordinates. A module with no peer has no manager to go to. -/
def Dev.joinFabric (d : Dev) : Dev :=
  if !d.powerOn && d.fm.stored.isSome && d.upPorts != [] then
    ({ d with fm := { d.fm with role := 1, relay := d.upPorts.headD 0 } }.sendTable).probePorts
  else d.startElection.probePorts

def s7Detail (d : Dev) : List Byte :=
  leBytes 2 d.fm.chip ++ leBytes 1 d.fm.role ++ leBytes 1 (boolNat d.fm.placed) ++ leBytes 4 d.fm.epoch

/-- BOOT_S7: joining begins; at its end the module is placed, or UNPLACED, or has heard no manager. A warm start that no
manager answered runs an election first. -/
def doBootS7 (d : Dev) : Dev :=
  if !d.atStage 7 then d
  else if d.boot.stepNo = 0 then { d.joinFabric with boot := { d.boot with stepNo := 1 } }
  else if d.boot.stepNo = 1 ∧ d.powerOn = false ∧ d.fm.role = 1 ∧ d.fm.epoch = 0 then
    { d.startElection with boot := { d.boot with stepNo := 2 } }
  else d.endStage (!d.fm.placed) (s7Detail d)

def execBootS7 (s : State) : Answer := s.next (doBootS7 s.dev)

/-! ## S8 -/

/-- The copies that have reached S8: their start counts go, and the fused minimum rises to their security version (R384,
R486). -/
def Sec.proven (x : Sec) : Sec :=
  [0, 1, 2, 3].foldl (fun x c =>
    let k := x.copy c (x.runCopy c)
    let y := if k.seq = erasedSeq then x else x.setCopy c (x.runCopy c) { k with starts := 0 }
    { y with fuses := { y.fuses with secVersion := smSet 0 y.fuses.secVersion c (max (smGet 0 y.fuses.secVersion c) k.secVersion) } }) x

/-- The contexts whose runs a chip reset ended resume, slice by slice (14_recovery.md R417, R424). -/
def Dev.resumeCut (d : Dev) : Dev :=
  let cs := (d.ctxs.filter (fun e => e.2.live && e.2.cut)).map (fun e => e.1)
  let d1 := cs.foldl (fun d c => d.setCtx c { d.ctx c with cut := false }) d
  let firsts := cs.filter (fun c => !cs.any (fun x => x < c && (d.ctx x).sliceId == (d.ctx c).sliceId))
  firsts.foldl (fun d c => d.afterTear c (newTear 0 false false false none)) d1

/-- The chip-reset count has reached oos_resets: OUT_OF_SERVICE (14_recovery.md R429). -/
def Dev.enterOos (d : Dev) : Dev :=
  if d.rrc.oos || bits d.rrc.cfg 15 10 ≤ d.recentResets then
    (let d1 := if d.flt.list.any (fun e => e.m.kind == 0x67 && !e.cleared) then d else d.raise (plainMsg rrcSrc 0x67 0)
     { d1 with rrc := { d1.rrc with oos := true } }.sbAlert 6)
  else d

def s8Detail (d : Dev) : List Byte :=
  leBytes 2 ((List.range 288).filter (fun n => (d.vat n).lst == .active)).length ++
    leBytes 1 ((List.range 32).filter (fun c => (d.chan c).st == 1)).length ++ leBytes 1 0 ++
    leBytes 2 (sumOf ((List.range 16).map (fun p => if (d.port p).st = 2 then 2 ^ p else 0)))

/-- BOOT_S8: the start is over. -/
def doBootS8 (d : Dev) : Dev :=
  if !d.atStage 8 then d
  else
    let d1 := { d with boot := { d.boot with running := false, repeated := false, progress := 100 }, sec := d.sec.proven, cfg := d.cfg.repair }
    (d1.stageRecord (boolNat d1.boot.degraded) (s8Detail d1)).enterOos.resumeCut

def execBootS8 (s : State) : Answer := s.next (doBootS8 s.dev)

/-! ## The limit of a stage -/

/-- START_TIMEOUT: a stage passes its limit and halts the start; a held start has none, nor has the S4 of a warm start. -/
def doStartTimeout (d : Dev) : Dev :=
  if (List.range 8).any d.atStage && !(d.boot.stage == 4 && !d.powerOn) then d.haltStart bootSrc 0x64 else d

def execStartTimeout (s : State) : Answer := s.next (doStartTimeout s.dev)

end Sys2Proof.Machine
end

