-- ==== Sys2Proof/Machine/Collect.lean ====
section
/-! DEFINITION. The collective rows: chunks read, UP, DOWN, ARRIVE, RELEASE and ABORT packets, credits, resends
(08_collectives.md R249-R265). -/

namespace Sys2Proof.Machine

/-! ## RU_CHUNK_READ (R250, R252, R258) -/

/-- The vat's index in its partition. -/
def Dev.vatIndex (d : Dev) (ctx node : Nat) : Nat := (d.partNodes (ctx / 16)).idxOf node

/-- A tag of the third group is free for a chunk of the vat's reduction unit: its uncredited COLL packets hold one each (06_mesh.md
R193); an ARRIVE does not wait for one (notes/assumptions/13.md). -/
def Dev.collRoom (d : Dev) (u node : Nat) : Bool :=
  decide (((List.range 64).filter (fun i => ((d.ni node).tagRec (otherTagBase + i)).isSome)).length +
    ((d.unit u).sent.filter (fun e => e.dst == 100 && e.flit.src.toNat == node)).length < 64)

/-- Whether chunk g is the next the vat reads, with its window open at the engine (R252). -/
def Dev.mayRead (d : Dev) (u i : Nat) (o : CollOp) (g : Nat) : Bool :=
  let lo := smGet 0 o.next i
  let t := d.chunkTree o g
  lo ≤ g && d.vatReads o i g && (List.range (g - lo)).all (fun j => !d.vatReads o i (lo + j)) && d.windowOpen u t (posOf o.seq g) &&
    teValid (d.tree u t)

/-- RU_CHUNK_READ: a chunk of a tree operation is read, combined and sent up; of the all-to-all family, the next write
of the item under way is sent. -/
def doRuChunkRead (d : Dev) (node seq chunk : Nat) : Dev :=
  match d.ctxOf node with
  | none => d
  | some ctx =>
    let u := d.rankUnit ctx
    match (d.unit u).ops.find? (fun o => o.ctx == ctx && o.numbered && o.seq == seq) with
    | none => d
    | some o =>
      if o.failing || d.collMembers o != o.parts.length then d
      else if o.d.rows then
        if 1 ≤ o.phase ∧ o.phase ≤ 3 ∧ o.arrived = false ∧ o.item = chunk ∧ o.item < d.itemCount o then
          let d1 := d.sendItem u node o
          match (d1.unit u).ops.find? (fun o => o.ctx == ctx && o.numbered && o.seq == seq) with
          | some o1 => d1.collAdvance u o1
          | none => d1
        else d
      else
        let i := d.vatIndex ctx node
        if !o.ok || !d.mayRead u i o chunk || !d.collRoom u node then d
        else
          let r := d.readChunk node o chunk
          match r.2 with
          | none => r.1
          | some ws =>
            let o1 := { o with next := smSet 0 o.next i (chunk + 1), reads := o.reads + 1 }
            let d1 := (r.1.setOp u o1).ruCount node
            if o.d.cores then d1.partialIn u i o1 chunk (padChunk ws) else d1.sendUp u node o1 chunk ws

def execRuChunkRead (node seq chunk : Nat) (s : State) : Answer := s.next (doRuChunkRead s.dev node seq chunk)

/-! ## Packets taken -/

/-- The packets a unit may take: an engine's, or those that have reached a vat's NI. -/
def Dev.collBox (d : Dev) (u typ : Nat) : List Flit :=
  if u < 0x120 then (if typ = tColl then (d.ni u).reqBuf else (d.ni u).repBuf) else (d.unit u).inq

def Dev.setCollBox (d : Dev) (u typ : Nat) (l : List Flit) : Dev :=
  if u < 0x120 then
    (if typ = tColl then d.setNi u { d.ni u with reqBuf := l } else d.setNi u { d.ni u with repBuf := l })
  else d.setUnit u { d.unit u with inq := l }

/-- The oldest packet of a kind, taken off, with its clear payload and its resend number; packets of no valid tree, or of an older generation, and those whose tag
fails are discarded without a credit (R251, R263). -/
def Dev.takeColl (d : Dev) (u typ kind : Nat) : Option (Dev × Option (Flit × List Byte × Nat)) :=
  let box := d.collBox u typ
  match box.find? (fun f => f.typ.toNat == typ && (typ == tCollr || collKind f == kind)) with
  | none => none
  | some f =>
    let d1 := d.setCollBox u typ (box.erase f)
    if !d1.collLive u f then some (d1, none)
    else
      match d1.collOpen u f with
      | some r => some (d1, some (f, r))
      | none => some (d1.raiseAt u 0x15 0 (some f.ctx.toNat), none)

def Dev.dupColl (d : Dev) (u : Nat) : Dev :=
  if 0x140 ≤ u then d.setPort (u - 0x140) { d.port (u - 0x140) with collDup := hold16 ((d.port (u - 0x140)).collDup + 1) } else d

def Dev.countColl (d : Dev) (u : Nat) : Dev :=
  if 0x140 ≤ u then d.setPort (u - 0x140) { d.port (u - 0x140) with combined := min ((d.port (u - 0x140)).combined + 1) 0xFFFFFFFF } else d

/-! ## COLL_UP (R256) -/

/-- A contribution at an engine's slot: combined in arrival order, or forwarded alone. -/
def Dev.upInto (d : Dev) (u : Nat) (f : Flit) (tries : Nat) (ws : List Word32) : Dev :=
  let tree := collEntry f
  let pos := d.collPosOf f
  let x := d.unit u
  let here (s : CollSlot) : Bool := s.tree == tree && s.pos == pos
  let s0 := (x.slots.find? here).getD (CollSlot.fresh tree pos (if f.reduce then d.collExpect u tree f.ctx.toNat else 1))
  let s1 : CollSlot := { s0.take (d.kindOf tree (posSeq pos)) ws with
    got := s0.got ++ [d.collFrom f], complete := decide (s0.expect ≤ s0.got.length + 1) }
  let x1 := { x with slots := if x.slots.any here then x.slots.map (fun t => if t.tree = tree ∧ t.pos = pos then s1 else t) else x.slots ++ [s1] }
  (((d.setUnit u x1).countColl u).credit u f tries).slotSteps u (tree / 16) (flitSlot f)

/-- COLL_UP: a contribution is combined once; a copy of one already combined is credited again. -/
def doCollUp (d : Dev) (u : Nat) : Dev :=
  match d.takeColl u tColl kUp with
  | none => d
  | some (d1, none) => d1
  | some (d1, some (f, bs, r)) =>
    let tree := collEntry f
    let pos := d1.collPosOf f
    let seen := match (d1.unit u).slots.find? (fun s => s.tree == tree && s.pos == pos) with
      | some s => s.got.contains (d1.collFrom f)
      | none => false
    if d1.posGone u tree pos || seen then (d1.dupColl u).credit u f r else d1.upInto u f r (words bs)

def execCollUp (unit : Nat) (s : State) : Answer := s.next (doCollUp s.dev unit)

/-! ## COLL_DOWN (R250 step 6, R256, R257) -/

/-- The result of a chunk at a vat: rounded and written at every destination there. -/
def Dev.writeResult (d : Dev) (u node : Nat) (o : CollOp) (g : Nat) (ws : List Word32) : Dev :=
  let i := d.vatIndex o.ctx node
  let per := chunksIn o.d.count
  let c := g % max 1 per
  let q := if o.d.op = 3 then g / max 1 per else 0
  let off := (q * o.d.count + 32 * c) * o.d.esz
  let bs := elemsOut o.d (ws.take (o.d.chunkLen c))
  let w : Dev × Nat :=
    if o.d.cores then
      (o.parts.filter (fun p => p.node == node)).foldl (fun acc p =>
        let r := acc.1.localWrite node p.slot (p.d.dst + off) bs
        (r.1, if r.2 then acc.2 else 0x09)) (d, 0)
    else d.rankWrite o.ctx (gaOff o.d.dst + off) bs
  let o1 := { o with wrote := o.wrote ++ [64 * g + i], dirty := true, code := if o.code = 0 then w.2 else o.code }
  ((w.1.setOp u o1).ruCount node).collAdvance u o1

/-- A DOWN at a vat, if the vat runs a context of its slice (06_mesh.md R190): written once; a multicast copy at a vat that does
not take the chunk is left (R250, R256). -/
def Dev.downAtVat (d : Dev) (node : Nat) (f : Flit) (bs : List Byte) (r : Nat) : Dev :=
  match d.ctxOf node with
  | none => d
  | some ctx =>
    if ctx % 16 ≠ flitSlot f ∨ d.sliceHead ctx ≠ f.ctx.toNat / 16 then d
    else
      let u := d.rankUnit ctx
      let seq := d.collSeqOf f
      let g := collChunk f
      match (d.unit u).ops.find? (fun o => o.ctx == ctx && o.numbered && o.seq == seq) with
      | none => d.credit node f r
      | some o =>
        let i := d.vatIndex ctx node
        let k := (d.partNodes (ctx / 16)).length
        if !o.d.cores && g % max 1 (chunksIn o.d.count) % max 1 k != i then d
        else if o.failing then d
        else if o.wrote.contains (64 * g + i) then d.credit node f r
        else (d.credit node f r).writeResult u node o g (words bs)

/-- A DOWN at an engine: credited, and sent on once. -/
def Dev.downAtEngine (d : Dev) (u : Nat) (f : Flit) (bs : List Byte) (r : Nat) : Dev :=
  let tree := collEntry f
  let pos := d.collPosOf f
  let d1 := d.credit u f r
  let x := d1.unit u
  if d.posGone u tree pos then d1.dupColl u
  else
    match x.slots.find? (fun s => s.tree == tree && s.pos == pos) with
    | some s =>
      if s.downSent then d1.dupColl u
      else
        let y := { x with slots := x.slots.map (fun t =>
          if t.tree = tree ∧ t.pos = pos then { s with downSent := true, upCred := s.upCred || !s.upSent } else t) }
        (d1.setUnit u y).sendDown u tree (flitSlot f) pos (words bs)
    | none =>
      let y := { x with slots := x.slots ++ [{ CollSlot.fresh tree pos 0 with data := words bs, upCred := true, downSent := true }] }
      (d1.setUnit u y).sendDown u tree (flitSlot f) pos (words bs)

/-- COLL_DOWN. -/
def doCollDown (d : Dev) (u : Nat) : Dev :=
  match d.takeColl u tColl kDown with
  | none => d
  | some (d1, none) => d1
  | some (d1, some (f, bs, r)) => if u < 0x120 then (d1.downAtVat u f bs r).checkDoneAt u else d1.downAtEngine u f bs r

def execCollDown (unit : Nat) (s : State) : Answer := s.next (doCollDown s.dev unit)

/-! ## COLL_ARRIVE and COLL_RELEASE (R254, R258) -/

/-- RELEASE goes to every child port and to every member partition of the chip. -/
def Dev.spreadRelease (d : Dev) (u tree slot seq bar code : Nat) : Dev :=
  let f := d.collFlit u tree slot kRelease (posOf seq bar) 0 false (leBytes 1 code)
  let d1 := (teKids (d.tree u tree)).foldl (fun d p => d.collSend u p kRelease tree (posOf seq bar) f) d
  (d1.memberParts f.ctx.toNat).foldl (fun d p =>
    match d.firstVat p with
    | some n => d.collSend u (1000 + n) kRelease tree (posOf seq bar) { f with dst := BitVec.ofNat 9 n, src := BitVec.ofNat 9 u }
    | none => d) d1

/-- RELEASE is known on the chip: held results go down, or an invalid collective's slots are discarded at every engine and
reduction unit of its slice (R254, R255). -/
def Dev.chipRelease (d : Dev) (tree slot seq bar code : Nat) : Dev :=
  let h := tree / 16
  if bar ≠ 0 then d
  else if code = 0 then d.chipSteps h slot
  else
    let ru := (d.memberParts (16 * h + slot)).filterMap d.firstVat
    let d1 := ru.foldl (fun d n =>
      let x := d.unit n
      d.setUnit n { x.discard h seq with infos := smSet (0, 0) x.infos seq (0, 0) }) d
    (List.range 16).foldl (fun d p => d.setUnit (0x140 + p) ((d.unit (0x140 + p)).discard h seq)) d1

/-- Every expected token is held: the root decides and releases, any other engine passes one token on. -/
def Dev.tokDone (d : Dev) (u slot : Nat) (t : CollTok) : Dev :=
  let e := d.tree u t.tree
  let x := d.unit u
  if teRoot e then
    let code := if t.bad then 0x03 else 0
    (((d.setUnit u (x.setTok { t with release := some code, sentUp := true })).spreadRelease u t.tree slot t.seq t.bar code).chipRelease
      t.tree slot t.seq t.bar code)
  else
    let f := d.collFlit u t.tree slot kArrive (posOf t.seq t.bar) (t.digest.getD 0) false (leBytes 1 (if t.bad then 3 else 0))
    (d.setUnit u (x.setTok { t with sentUp := true })).collSend u (teParent e) kArrive t.tree (posOf t.seq t.bar) f

/-- COLL_ARRIVE: a token is held once per source; digests that differ, or an invalid participant, spoil it. A copy of a token
whose sequence has left the table is credited again. -/
def doCollArrive (d : Dev) (u : Nat) : Dev :=
  match d.takeColl u tColl kArrive with
  | none => d
  | some (d1, none) => d1
  | some (d1, some (f, bs, r)) =>
    let tree := collEntry f
    let seq := d1.collSeqOf f
    let bar := collChunk f
    if (d1.unit u).pruned (tree / 16) seq then (d1.credit u f r).dupColl u
    else
      let x := (d1.unit u).prune (tree / 16) seq
      if !x.tokRoom tree seq then d1
      else
        let t0 := (x.tok tree seq bar).getD { tree := tree, seq := seq, bar := bar, got := [], digest := none, bad := false,
                                              sentUp := false, release := none }
        let from_ := d1.collFrom f
        let d2 := d1.credit u f r
        if t0.got.contains from_ then d2.dupColl u
        else
          let dg := f.link.toNat
          let differs := bar == 0 && (match t0.digest with | some v => v != dg | none => false)
          let t := { t0 with got := t0.got ++ [from_], digest := some (t0.digest.getD dg), bad := t0.bad || differs || leAt bs 0 1 != 0 }
          let d3 := d2.setUnit u (((d2.unit u).prune (tree / 16) seq).setTok t)
          if d3.collExpect u tree f.ctx.toNat ≤ t.got.length ∧ t.sentUp = false then d3.tokDone u (flitSlot f) t else d3

def execCollArrive (unit : Nat) (s : State) : Answer := s.next (doCollArrive s.dev unit)

/-- COLL_RELEASE: at an engine it goes down and releases held results; at a vat it releases or ends the collective. -/
def doCollRelease (d : Dev) (u : Nat) : Dev :=
  match d.takeColl u tColl kRelease with
  | none => d
  | some (d1, none) => d1
  | some (d1, some (f, bs, r)) =>
    let tree := collEntry f
    let seq := d1.collSeqOf f
    let bar := collChunk f
    let code := leAt bs 0 1
    let d2 := d1.credit u f r
    if u < 0x120 then
      match d2.ctxOf u with
      | some ctx => (d2.rankRelease (d2.rankUnit ctx) seq bar code ctx).checkDone ctx
      | none => d2
    else
      match (d2.unit u).tok tree seq bar with
      | none => d2
      | some t =>
        if t.release.isSome then d2.dupColl u
        else
          (((d2.setUnit u ((d2.unit u).setTok { t with release := some code })).spreadRelease u tree (flitSlot f)
            seq bar code).chipRelease tree (flitSlot f) seq bar code)

def execCollRelease (unit : Nat) (s : State) : Answer := s.next (doCollRelease s.dev unit)

/-- COLL_ABORT: the unit credits the packet and discards the collective's slots and tokens (R251, R260). -/
def doCollAbort (d : Dev) (u : Nat) : Dev :=
  match d.takeColl u tColl kAbort with
  | none => d
  | some (d1, none) => d1
  | some (d1, some (f, _, r)) =>
    let seq := d1.collSeqOf f
    let h := collEntry f / 16
    let d2 := d1.credit u f r
    let v := if u < 0x120 then (match d2.ctxOf u with | some c => d2.rankUnit c | none => u) else u
    let x := (d2.unit v).discard h seq
    d2.setUnit v { x with toks := x.toks.filter (fun t => !(t.tree / 16 == h && t.seq == seq)),
                          ops := x.ops.map (fun o => if o.numbered ∧ o.seq = seq ∧ d2.sliceHead o.ctx = h then { o with failing := true } else o) }

def execCollAbort (unit : Nat) (s : State) : Answer := s.next (doCollAbort s.dev unit)

/-! ## COLLR (R252, R255) -/

/-- The neighbour a credit comes from, as packets to it are remembered. -/
def creditFrom (u : Nat) (f : Flit) : Nat :=
  if u < 0x120 then 100
  else if f.xchip then pathEntry f.path.toNat f.hop.toNat
  else 1000 + f.src.toNat

/-- A credited UP of this unit: the parent's low position, the slot, and the rank's count. -/
def Dev.upCredited (d : Dev) (u tree pos : Nat) : Dev :=
  let x := d.unit u
  if u < 0x120 then
    match x.ops.find? (fun o => o.numbered && o.seq == posSeq pos) with
    | some o =>
      let o1 := { o with upOut := o.upOut - 1 }
      (d.setOp u o1).collAdvance u o1
    | none => d
  else
    (d.setUnit u { x with slots := x.slots.map (fun s => if s.tree = tree ∧ s.pos = pos then { s with upCred := true } else s) }).trySlotFree
      u tree pos

/-- COLLR: the packet it answers needs no resend; the peer's low position opens the window; an echoed mark slows the vat, whose
reduction unit is one of its sources (06_mesh.md R183, R185). -/
def doCollr (d : Dev) (unit : Nat) : Dev :=
  match d.takeColl unit tCollr 0 with
  | none => d
  | some (d1, none) => d1
  | some (d0, some (f, bs, _)) =>
    let d1 := if unit < 0x120 ∧ f.cmark then d0.marked unit none else d0
    let u := if unit < 0x120 then (match d1.ctxOf unit with | some c => d1.rankUnit c | none => unit) else unit
    let tree := collEntry f
    let pos := d1.collPosOf f
    let kind := creditKind bs
    let low := creditLow bs
    let from_ := creditFrom unit f
    let x := d1.unit u
    match x.sent.find? (fun e => e.tree == tree && e.pos == pos && e.kind == kind && (e.dst == from_ || e.dst == 2000)) with
    | none => d1
    | some e =>
      let up := kind == kUp || kind == kArrive
      let d2 := d1.setUnit u { x with sent := x.sent.erase e,
                                      peerLow := if up ∧ smGet 0 x.peerLow tree < low then smSet 0 x.peerLow tree low else x.peerLow }
      let d3 := if kind = kUp then d2.upCredited u tree pos else if kind = kDown then d2.trySlotFree u tree pos else d2
      let d4 := if up ∧ 0x140 ≤ u then d3.slotSteps u (tree / 16) (flitSlot f) else d3
      if unit < 0x120 then d4.checkDoneAt unit else d4

def execCollr (unit : Nat) (s : State) : Answer := s.next (doCollr s.dev unit)

/-! ## COLL_RESEND and ARRIVE_LIMIT (R253, R255) -/

def collResends (d : Dev) : Nat := bits d.collTmo 17 16

/-- COLL_RESEND: packet `idx` is sent again; an engine that has exhausted its resends reports the tree edge. -/
def doCollResend (d : Dev) (u idx : Nat) : Dev :=
  let x := d.unit u
  match x.sent[idx]? with
  | none => d
  | some e =>
    if collResends d ≤ e.tries then
      if 0x140 ≤ u then d.raise (d.ctxMsg u 0x22 0 e.dst (some e.flit.ctx.toNat)) else d
    else
      let d1 := d.setUnit u { x with sent := setNth x.sent idx { e with tries := e.tries + 1 } }
      let d2 := if 0x140 ≤ u then d1.setPort (u - 0x140) { d1.port (u - 0x140) with resends := hold16 ((d1.port (u - 0x140)).resends + 1) }
        else d1
      if e.dst < 16 then d2.toPort u e.dst (e.kind == kUp || e.kind == kArrive) (posSeq e.pos) (e.tries + 1) e.flit
      else if e.flit.xchip then d2.overLinks u e.flit.path.toNat e.flit.cls (posSeq e.pos) (e.tries + 1) e.flit
      else d2.offer (if u < 0x120 then e.flit.src.toNat else u) .a e.flit

def execCollResend (unit idx : Nat) (s : State) : Answer := s.next (doCollResend s.dev unit idx)

/-- ARRIVE_LIMIT: for hang detection the collective counts as timed out; it does not complete on that account. -/
def doArriveLimit (d : Dev) (node seq : Nat) : Dev :=
  let x := d.unit node
  d.setUnit node { x with ops := x.ops.map (fun o =>
    if o.numbered ∧ o.seq = seq ∧ o.release = none then { o with timedOut := true } else o) }

def execArriveLimit (node seq : Nat) (s : State) : Answer := s.next (doArriveLimit s.dev node seq)

end Sys2Proof.Machine
end

