-- ==== Sys2Proof/Machine/HostRows.lean ====
section
/-! DEFINITION. The rows of the host attachment: mailbox sends and their receivers, doorbells, host DMA, the memory
window, resets of functions and of the endpoint (11_host_mailboxes.md R330-R356, 12_rennet.md R366, 18_module.md R506). -/

namespace Sys2Proof.Machine

def mbxKey (chan : Nat) (sec : Bool) : Nat := if sec then secKey chan else chan

/-! ## Sending (R347-R349) -/

/-- The request buffer's first bytes; bytes not written are 0. -/
def Mbx.request (m : Mbx) (len : Nat) : List Byte := (m.req ++ List.replicate 256 0).take len

def sendSeq (w : Nat) : Nat := bits w 15 0
def sendLen (w : Nat) : Nat := bits w 24 16
def sendGo (w : Nat) : Bool := bit w 31

/-- The first check that fails gives the code; a send that passes is ACCEPTED. -/
def sendCode (sec up : Bool) (m : Mbx) (w : Nat) : Nat :=
  let group := leAt (m.request 256) 1 1
  if bits w 30 25 ≠ 0 ∨ sendLen w < 8 ∨ 256 < sendLen w then rInvalid
  else if group = 0 ∨ 0x0B < group then rInvalid
  else if (group == 0x0A) != sec then rDenied
  else if !up then rBusy
  else if m.st = 1 ∨ m.st = 2 then rBusy
  else 0x01

def Dev.recvUp (d : Dev) (sec : Bool) : Bool := if sec then d.host.recvUpSec else d.host.recvUp

/-- MBX_SEND. -/
def doMbxSend (d : Dev) (f chan : Nat) (sec : Bool) (w : Word32) : Dev :=
  if !sendGo w.toNat || !d.hostUp || (sec && f != 0) then d
  else
    let key := mbxKey chan sec
    let m := d.mbx f key
    let n := w.toNat
    let code := sendCode sec (d.recvUp sec) m n
    let m1 := { m with ack := BitVec.ofNat 32 (sendSeq n + code * 2 ^ 16 + 2 ^ 31) }
    if code = 0x01 then
      { d with host := { d.host with accepts := d.host.accepts + 1 } }.setMbx f key
        { m1 with st := 1, msg := m.request (sendLen n), seq := sendSeq n, len := sendLen n, accepted := d.host.accepts, begun := false }
    else d.setMbx f key m1

/-! ## Receivers (R351, R353, 12_rennet.md R358, R366) -/

/-- Channels of a receiver with a message it may take: (acceptance number, function, key). -/
def Dev.queuedMsgs (d : Dev) (sec : Bool) : List (Nat × Nat × Nat) :=
  d.funcIds.flatMap (fun f => (chanKeys sec f).filterMap (fun k =>
    let m := d.mbx f k
    if m.st = 1 ∧ m.orphan.isNone then some (m.accepted, f, k) else none))

/-- The one accepted first. -/
def oldestMsg (l : List (Nat × Nat × Nat)) : Option (Nat × Nat) :=
  match (l.map (fun e => e.1)).min? with
  | some n => (l.find? (fun e => e.1 == n)).map (fun e => e.2)
  | none => none

/-- An opcode whose number its group defines. -/
def opDefined (op : Nat) : Bool := 1 ≤ op % 256 && op % 256 ≤ opsIn (op / 256)

/-- MBX_TAKE: the oldest queued message becomes ACTIVE; an undefined opcode is answered at once. -/
def doMbxTake (d : Dev) (sec : Bool) : Dev :=
  if !d.recvUp sec || !d.pwr.islandUp then d
  else
    match oldestMsg (d.queuedMsgs sec) with
    | none => d
    | some (f, key) =>
      let m := d.mbx f key
      let d1 := d.setMbx f key { m with st := 2, begun := false }
      let op := leAt m.msg 0 2
      if opDefined op then d1
      else
        match d1.stateAnswer op with
        | some (code, arg) => d1.refuseCmd f key code 0 0 arg
        | none => d1.fail f key rInvalid 0

def execMbxTake (sec : Bool) (s : State) : Answer := s.next (doMbxTake s.dev sec)

/-- RECEIVER_RESET: both management cores reset together and restart (14_recovery.md R431), or the root-of-trust does. -/
def doReceiverReset (d : Dev) (sec : Bool) : Dev :=
  if sec then d.recvReset true false
  else { d with rrc := { d.rrc with bothDown := true, selftest := none, standbyOk := false } }.recvReset false false

def execReceiverReset (sec : Bool) (s : State) : Answer := s.next (doReceiverReset s.dev sec)

/-- A notify bit is taken from DB_RAISE. -/
def Dev.takeNotify (d : Dev) (f chan b : Nat) : Dev :=
  let m := d.mbx f chan
  d.setMbx f chan { m with raise := if bit m.raise b then m.raise - 2 ^ b else m.raise }

/-- RESEND: the event doorbell rises again, with its vector where it is not masked. -/
def doResend (d : Dev) (f chan : Nat) : Dev :=
  if !bit (d.mbx f chan).raise 0 || !d.host.recvUp then d
  else
    let d1 := d.takeNotify f chan 0
    if (d1.func f).events = 0 then d1
    else
      let m := d1.mbx f 0
      let d2 := d1.setMbx f 0 { m with pend := m.pend ||| 2 }
      if m.mask.getLsbD 1 then d2 else d2.sendVector f 0

def execResend (func chan : Nat) (s : State) : Answer := s.next (doResend s.dev func chan)

/-! ## Doorbells (R344, R355, R356) -/

/-- Bits of DB_PEND that exist. -/
def pendBits : Word32 := 0x80000007

/-- DB_PEND_CLEAR: ones clear; what the device sets in the same step stands after. -/
def doDbPendClear (d : Dev) (f chan : Nat) (sec : Bool) (mask deviceSet : Word32) : Dev :=
  if !d.hostUp then d
  else
    let key := mbxKey chan sec
    let m := d.mbx f key
    (d.setMbx f key { m with pend := m.pend &&& ~~~mask }).doorbell f key (deviceSet &&& pendBits)

/-- DB_MASK_WRITE: an unmasking write that leaves a pending bit unmasked sends the vector. -/
def doDbMaskWrite (d : Dev) (f chan : Nat) (sec : Bool) (w : Word32) : Dev :=
  if !d.hostUp then d
  else
    let key := mbxKey chan sec
    let m := d.mbx f key
    let new := w &&& pendBits
    let d1 := d.setMbx f key { m with mask := new }
    if m.mask &&& ~~~new &&& m.pend = 0 then d1 else d1.sendVector f key

/-! ## Host DMA queues (R338) -/

def ringBase (ring : Nat) : Nat := bits ring 63 12 * 4096

/-- HDMA_RING_WRITE. -/
def doHdmaRingWrite (d : Dev) (f : Nat) (w : Word) : Dev :=
  let x := d.func f
  if !d.hostUp || x.enable then d else d.setFunc f { x with ring := bits w.toNat 63 12 * 4096 + bits w.toNat 3 0 }

/-- HDMA_TAIL_WRITE. -/
def doHdmaTailWrite (d : Dev) (f : Nat) (w : Word) : Dev :=
  if !d.hostUp then d else d.setFunc f { d.func f with tail := bits w.toNat 11 0 }

/-- HDMA_CTL_WRITE. -/
def doHdmaCtlWrite (d : Dev) (f : Nat) (w : Word) : Dev :=
  if !d.hostUp then d else d.setFunc f { d.func f with enable := w.getLsbD 0 }

/-! ## Reaching segment space from the host (R335, R336, R342) -/

/-- The chip is between a chip reset and the end of its warm start. -/
def Dev.resettingChip (d : Dev) : Bool := d.boot.chipResetting || (d.boot.kind == 2 && d.boot.stage < 8)

/-- Why a request of the host to a context is refused before its bytes are looked at; 0 = it is not. -/
def Dev.hostRefusal (d : Dev) (ctx : Nat) : Nat :=
  let p := d.part (ctx / 16)
  if p.st = 2 ∨ p.scrub then rBusy
  else if !(d.ctx ctx).live || p.conf then rDenied
  else 0

/-- A read of segment space by a service access of the root-of-trust, line by line (13_security.md R401): the bytes read and the first code that is not OK. -/
def Dev.hostSegRead (d : Dev) (ctx off n : Nat) : Dev × List Byte × Nat :=
  (lineSplit (n / 128 + 2) off 0 n).foldl (fun acc e =>
    if acc.2.2 ≠ 0 then acc
    else
      match (acc.1.ctx ctx).segAny e.1 e.2.2 with
      | none => (acc.1, acc.2.1, rDenied)
      | some a =>
        let r := acc.1.extLineRead (ctx / 16) a e.2.2 (some ctx)
        match r.2 with
        | some bs => (r.1, acc.2.1 ++ bs, 0)
        | none => (r.1, acc.2.1, rFailed)) (d, [], 0)

/-- A write by service accesses (13_security.md R400), line by line; lines before the first failure stay written. -/
def Dev.hostSegWrite (d : Dev) (ctx off : Nat) (bs : List Byte) : Dev × Nat :=
  (lineSplit (bs.length / 128 + 2) off 0 bs.length).foldl (fun acc e =>
    if acc.2 ≠ 0 then acc
    else
      match (acc.1.ctx ctx).segAny e.1 e.2.2 with
      | none => (acc.1, rDenied)
      | some a =>
        let r := acc.1.extLineWrite (ctx / 16) a ((bs.drop e.2.1).take e.2.2) (some ctx)
        (r.1, if r.2 then 0 else rFailed)) (d, 0)

/-! ## Descriptors (R339-R342) -/

/-- The function whose turn it is: the first from `nextFunc` on with an enabled queue that is not empty. -/
def Dev.nextQueue (d : Dev) : Option Nat :=
  let n := d.funcIds.length
  ((List.range n).map (fun i => (d.host.nextFunc + i) % n)).find? (fun f =>
    let x := d.func f
    x.enable && x.head != x.tail % ringSize x.ring)

/-- What the checks made before any byte moves give. -/
def Dev.hdmaCheck (d : Dev) (f : Nat) (desc : List Byte) : Nat :=
  let dev := leAt desc 8 8
  let ctl := leAt desc 0x14 4
  let part := if f = 0 then bits ctl 8 3 else f - 1
  if dev / 2 ^ 43 ≠ 0 ∨ bits ctl 31 30 ≠ 0 ∨ leAt desc 0x1C 36 ≠ 0 ∨ (f ≠ 0 ∧ bits ctl 8 3 ≠ 0) then rInvalid
  else if !d.partOn part then rInvalid
  else if bit ctl 13 && d.cores part ≤ bits ctl 25 14 && (d.part part).st != 0 then rInvalid
  else d.hostRefusal (16 * part + bits ctl 12 9)

/-- HDMA_DESCRIPTOR_START: an idle engine takes the next descriptor, round robin over the queues, and begins to move it. -/
def doHdmaDescriptorStart (d : Dev) (e : Nat) : Dev :=
  if (smGet none d.host.engines e).isSome || !d.hostUp || d.resettingChip then d
  else
    match d.nextQueue with
    | none => d
    | some f =>
      let x := d.func f
      let desc := d.hostRead (ringBase x.ring + 64 * x.head) 64
      let ctl := leAt desc 0x14 4
      let part := if f = 0 then bits ctl 8 3 else f - 1
      let r : HdmaRun :=
        { func := f, index := x.head, host := leAt desc 0 8, dev := leAt desc 8 8, len := leAt desc 0x10 4, ctl := ctl, part := part,
          slot := bits ctl 12 9, gen := (d.ctx (16 * part + bits ctl 12 9)).gen, code := d.hdmaCheck f desc,
          next := 0, out := 0 }
      let d1 := d.setFunc f { x with head := (x.head + 1) % ringSize x.ring }
      ({ d1 with host := { d1.host with nextFunc := (f + 1) % d.funcIds.length } }.setEngine e (some r)).hdmaFill e

def execHdmaDescriptorStart (engine : Nat) (s : State) : Answer := s.next (doHdmaDescriptorStart s.dev engine)

/-- A descriptor of an engine is over: signal, status, doorbell, in this order; those held behind it go on (R340). -/
def Dev.hdmaEnd (d : Dev) (e : Nat) (r : HdmaRun) : Dev :=
  let d1 := d.setEngine e none
  let d2 := if r.code = 0 && bit r.ctl 13 then d1.hostSignal r.ctxId (bits r.ctl 25 14) (bits r.ctl 29 26) else d1
  let d3 := d2.hostWrite (d.hdmaStatusAddr r) (leBytes 4 (r.code + 2 ^ 8))
  let d4 := if r.code = 0 then d3 else d3.setFunc r.func { d3.func r.func with lastCode := r.code }
  let d5 := if bit r.ctl 2 then d4.doorbell r.func 0 2 else d4
  d5.host.engines.foldl (fun d x => d.hdmaFill x.1) d5

/-- A descriptor not yet held to an end: a teardown of its context ends it with ABORTED (R342). -/
def Dev.hdmaTorn (d : Dev) (e : Nat) (r : HdmaRun) : Dev × HdmaRun :=
  if r.code = 0 && d.hdmaDead r then (d.hdmaDrop e, { r with code := 0x3F, out := 0 }) else (d, r)

/-- HDMA_COMPLETE: a descriptor whose lines have all been asked for and answered, or that has failed, completes; one that has lines to
ask for asks. -/
def doHdmaComplete (d : Dev) (e : Nat) : Dev :=
  match smGet none d.host.engines e with
  | none => d
  | some r =>
    if d.hdmaHeld r || !d.hostUp then d
    else
      let t := d.hdmaTorn e r
      if t.2.out = 0 ∧ (t.2.code ≠ 0 ∨ r.len ≤ r.next) then t.1.hdmaEnd e t.2 else d.hdmaFill e

def execHdmaComplete (engine : Nat) (s : State) : Answer := s.next (doHdmaComplete s.dev engine)

/-! ## The memory window (R335, R336) -/

/-- HOST_WIN_CFG_WRITE: the partition field of a virtual function is its own. -/
def doHostWinCfgWrite (d : Dev) (f : Nat) (w : Word) : Dev :=
  if !d.hostUp then d
  else
    let n := w.toNat
    let part := if f = 0 then bits n 5 0 else f - 1
    d.setFunc f { d.func f with win := part + bits n 9 6 * 2 ^ 6 + bits n 42 21 * 2 ^ 21, winClosed := false }

/-- HOST_WIN_CFG_WRITE. It need not wait for earlier window writes (R337): those keep the context and place of their arrival (R335). -/
def execHostWinCfgWrite (func : Nat) (w : Word) (s : State) : Answer := s.next (doHostWinCfgWrite s.dev func w)

/-- HOST_WIN_CFG as it reads: in a virtual function the partition is its own (R335). -/
def Func.winWord (x : Func) (f : Nat) : Nat := if f = 0 then x.win else setBits x.win 5 0 (f - 1)

/-- The context a window selects. -/
def Func.winCtx (x : Func) (f : Nat) : Nat := 16 * (if f = 0 then bits x.win 5 0 else f - 1) + bits x.win 9 6

def Func.winOff (x : Func) (off : Nat) : Nat := bits x.win 42 21 * 2 ^ 21 + off

/-- The causes of a refusal that do not depend on the bytes; 0 = none. -/
def Dev.winRefusal (d : Dev) (f : Nat) : Nat :=
  if d.resettingChip then 0x3F
  else if (d.func f).winClosed then rDenied
  else d.hostRefusal ((d.func f).winCtx f)

/-- A window request is taken, its context, generation and place as they are now. -/
def Dev.winTake (d : Dev) (f off n : Nat) (job : WinJob) : Dev :=
  let x := d.func f
  let w : WinReq := { id := d.host.winCount, func := f, ctx := x.winCtx f, gen := (d.ctx (x.winCtx f)).gen, off := x.winOff off, len := n,
                      job := job, next := 0, out := 0, code := 0 }
  { d with host := { d.host with wins := d.host.wins ++ [w], winCount := d.host.winCount + 1 } }.winSettle

/-- Every byte of a window request lies in a valid segment. -/
def Dev.winMapped (d : Dev) (f off n : Nat) : Bool :=
  let x := d.func f
  (lineSplit (n / 128 + 2) (x.winOff off) 0 n).all (fun e => ((d.ctx (x.winCtx f)).segAny e.1 e.2.2).isSome)

/-- Why a window request is refused at its arrival; 0 = it is not (R336). -/
def Dev.winCode (d : Dev) (f off n : Nat) : Nat :=
  let c := d.winRefusal f
  if c ≠ 0 then c else if d.winMapped f off n then 0 else rDenied

/-- HOST_WIN_READ: refused with Completer Abort, or asked for at the device once earlier window writes of the function have been
performed. -/
def doHostWinRead (d : Dev) (f off n : Nat) : Dev :=
  if !d.hostUp then d
  else
    let x := d.func f
    let code := d.winCode f off n
    if code = 0 then d.winTake f off n (.read [])
    else
      let d1 := d.winRefused f (x.winCtx f) (x.winOff off) code false
      { d1 with host := { d1.host with last := some .abort } }

def execHostWinRead (func off len : Nat) (s : State) : Answer := s.next (doHostWinRead s.dev func off len)

/-- HOST_WIN_WRITE: discarded, or sent to the device. -/
def doHostWinWrite (d : Dev) (f off : Nat) (data : List Byte) : Dev :=
  if !d.hostUp then d
  else
    let x := d.func f
    let code := d.winCode f off data.length
    if code = 0 then d.winTake f off data.length (.write data) else d.winRefused f (x.winCtx f) (x.winOff off) code true

def execHostWinWrite (func off : Nat) (data : List Byte) (s : State) : Answer := s.next (doHostWinWrite s.dev func off data)

/-! ## Resets of functions and of the endpoint (R332, R353, 18_module.md R506) -/

/-- A channel at a Function Level Reset: IDLE; a message taken and not begun runs on without its channel. -/
def Mbx.flr (m : Mbx) : Mbx :=
  { m with st := 0, begun := false, orphan := if m.st = 2 ∧ m.begun = false ∧ m.orphan.isNone then some m.msg else m.orphan }

/-- A Function Level Reset. -/
def Dev.flr (d : Dev) (f : Nat) : Dev :=
  let d1 := d.forget (fun g _ => g == f)
  let x := d1.func f
  let keys := chanKeys false f ++ chanKeys true f
  let d2 := d1.setFunc f { x with mbx := keys.foldl (fun m k => smSet Mbx.init m k (smGet Mbx.init m k).flr) x.mbx,
                                  enable := false, winClosed := true }
  d2.hostForget f

/-- FUNCTION_LEVEL_RESET. -/
def execFunctionLevelReset (func : Nat) (s : State) : Answer := s.next (s.dev.flr func)

/-- HOT_RESET: every function. -/
def Dev.hotReset (d : Dev) : Dev := d.funcIds.foldl (fun d f => d.flr f) d

def execHotReset (s : State) : Answer := s.next s.dev.hotReset

/-- PERST_N: low holds the endpoint in reset, the link down; high, with main power in range, trains the link. -/
def doPerstN (d : Dev) (level : Bool) : Dev :=
  if level then { d with host := { d.host with perst := true, linkUp := d.pwr.main && d.pwr.ioUp } }
  else
    let d1 := if d.host.perst then d.hotReset else d
    { d1 with host := { d1.host with perst := false, linkUp := false } }

def execPerstN (level : Bool) (s : State) : Answer := s.next (doPerstN s.dev level)

end Sys2Proof.Machine
end

