-- ==== Sys2Proof/Machine/ModuleRows.lean ====
section
/-! DEFINITION. The rows of the side-band and of JTAG, and REGISTER_WRITE: registers that have no row of their own
(00_scope.md R8, R9, 11_host_mailboxes.md R333-R355, 18_module.md R512-R518). -/

namespace Sys2Proof.Machine

/-! ## The side-band (R512-R517) -/

/-- The target answers the tray. -/
def Dev.sbUp (d : Dev) : Bool := d.pwr.standby && d.pwr.islandUp

/-- SB_CHIP_RESET. -/
def doSbChipReset (d : Dev) : Dev := if d.sbUp && d.pwr.main then d.chipReset 0 true false else d

def execSbChipReset (s : State) : Answer := s.next (doSbChipReset s.dev)

/-- SB_CAVE_FLUSH. -/
def doSbCaveFlush (d : Dev) : Dev :=
  if d.sbUp && d.cave.store != 2 then { d with cave := { d.cave with due := true } } else d

def execSbCaveFlush (s : State) : Answer := s.next (doSbCaveFlush s.dev)

/-- The start has halted for want of a valid copy. -/
def Dev.fwHalted (d : Dev) : Bool := d.boot.failed && (d.boot.error == 0x91 || d.boot.error == 0x71)

/-- SB_FW_OPEN: DENIED unless the start has halted for want of a valid copy. -/
def doSbFwOpen (d : Dev) : Dev :=
  if !d.sbUp then d
  else if d.fwHalted then { d with sb := { d.sb with fwOpen := true } }
  else { d with sb := { d.sb with fwResult := rDenied } }

def execSbFwOpen (s : State) : Answer := s.next (doSbFwOpen s.dev)

/-- The sequence above those that the copies of a component hold. -/
def Sec.seqAbove (x : Sec) (comp : Nat) : Nat :=
  let a := (x.copy comp 0).seq
  let b := (x.copy comp 1).seq
  if a = erasedSeq ∧ b = erasedSeq then 1
  else if a = erasedSeq then seqAfter b
  else if b = erasedSeq then seqAfter a
  else seqAfter (if seqHigher b a then b else a)

/-- The restored copy. -/
def restoredCopy (im : List Byte) (seq : Nat) : FwCopy :=
  { FwCopy.init with seq := seq, version := imgVersion im, secVersion := imgSec im, digest := imgDigest im }

/-- SB_FW_COMMIT: the image is verified, written as copy A, and the start repeated. -/
def doSbFwCommit (d : Dev) : Dev :=
  if !d.sbUp then d
  else if !d.sb.fwOpen || !d.fwHalted then { d with sb := { d.sb with fwResult := rDenied } }
  else
    let comp := d.sb.fwComp
    let im := memRead d.sb.fwData 0 d.sb.fwLength
    if !d.sec.accepts comp im then { d with sb := { d.sb with fwResult := rFailed } }.raise (plainMsg 0x803 0x71 comp)
    else
      { d with sec := d.sec.setCopy comp 0 (restoredCopy im (d.sec.seqAbove comp)),
               sb := { d.sb with fwResult := rOk, fwOpen := false } }.startAgain

def execSbFwCommit (s : State) : Answer := s.next (doSbFwCommit s.dev)

/-- DYNAMIC_ADDRESS_ASSIGNMENT. -/
def doDynamicAddressAssignment (d : Dev) (_method : DaaMethod) (addr : Nat) : Dev :=
  if d.sbUp then { d with sb := { d.sb with dynAddr := some addr } } else d

def execDynamicAddressAssignment (method : DaaMethod) (addr : Nat) (s : State) : Answer :=
  s.next (doDynamicAddressAssignment s.dev method addr)

/-! ## JTAG (R518) -/

/-- What an instruction loaded through the port selects. -/
def Dev.jtagSelects (d : Dev) (ir : JtagOp) : JtagOp :=
  match ir with
  | .bypass => .bypass
  | .idcode => .idcode
  | .sample => .sample
  | .extest => if d.boot.lateRelease then .extest else .bypass
  | .internal => if bit d.sec.debugScope 0 && !d.anyRind then .internal else .bypass

/-- JTAG_INSTRUCTION. -/
def doJtagInstruction (d : Dev) (ir : JtagOp) : Dev :=
  if d.pwr.islandUp then { d with sec := { d.sec with jtag := d.jtagSelects ir } } else d

def execJtagInstruction (ir : JtagOp) (s : State) : Answer := s.next (doJtagInstruction s.dev ir)

/-! ## Writes of side-band registers (R513-R517) -/

/-- A register of eight bytes written by 4 or 8 bytes: the other half stays as it is. -/
def mergeHalf (old off size w : Nat) : Nat :=
  if size = 8 then w
  else if off % 8 = 0 then old / 2 ^ 32 * 2 ^ 32 + w % 2 ^ 32
  else w % 2 ^ 32 * 2 ^ 32 + old % 2 ^ 32

/-- The bits that a write carries, at their places in the register; the half not written carries zeros. -/
def carriedBits (off size w : Nat) : Nat := mergeHalf 0 off size w

/-- Bits of a number cleared, of those that a mask names. -/
def clearBits (x mask : Nat) : Nat := x - (x &&& mask)

/-- SB_CTL: ibi_en, then the actions. -/
def Dev.writeSbCtl (d : Dev) (off size w : Nat) : Dev :=
  let x := carriedBits off size w
  let d1 := if size = 8 ∨ off % 8 = 0 then { d with sb := { d.sb with ibiEn := bit x 1 } } else d
  let d2 := if bit x 2 then doSbCaveFlush d1 else d1
  if bit x 0 then doSbChipReset d2 else d2

/-- SB_FW_CTL: component and length, then open, then commit. A length above 8 MiB is stored as 8 MiB: the spec says only that it
is at most that (DESIGN CHOICE, notes/assumptions/44.md). -/
def Dev.writeSbFwCtl (d : Dev) (off size w : Nat) : Dev :=
  let x := carriedBits off size w
  if off % 8 ≠ 0 then d
  else
    let d1 := { d with sb := { d.sb with fwComp := bits x 1 0, fwLength := min (bits x 27 4) maxImage } }
    let d2 := if bit x 2 then doSbFwOpen d1 else d1
    if bit x 3 then doSbFwCommit d2 else d2

/-- BOOT_REQ: the three requests; hold written 0 lets a held start go on. -/
def Dev.writeBootReq (d : Dev) (off size w : Nat) : Dev :=
  let x := carriedBits off size w
  if off % 8 ≠ 0 then d
  else
    let d1 := { d with boot := { d.boot with memTest := bit x 0, fullTrain := bit x 1, hold := bit x 2 } }
    if bit x 2 then d1 else doBootHoldRelease d1

/-- Bytes at SB_FW_DATA, taken while the window is open. -/
def Dev.writeFwData (d : Dev) (off size w : Nat) : Dev :=
  if d.sb.fwOpen && decide (size ≤ 8) then { d with sb := { d.sb with fwData := memWrite d.sb.fwData off (leBytes size w) } } else d

/-- A side-band write; other sizes, RO and reserved addresses are ignored. -/
def Dev.writeSideband (d : Dev) (addr size w : Nat) : Dev :=
  let s := d.sb
  if !d.sbUp then d
  else if 0x10000 ≤ addr ∧ addr + size ≤ 0x810000 then d.writeFwData (addr - 0x10000) size w
  else if !(size == 4 || size == 8) || addr % size != 0 then d
  else
    match addr / 8 * 8 with
    | 0x0008 => d.writeSbCtl addr size w
    | 0x0010 => { d with sb := { s with alert := clearBits s.alert (carriedBits addr size w) } }
    | 0x0018 => { d with sb := { s with alertMask := mergeHalf s.alertMask addr size w % 2 ^ 7 } }
    | 0x0020 => { d with sb := { s with caveSel := mergeHalf s.caveSel addr size w % 2 ^ 32 } }
    | 0x0028 => d.writeSbFwCtl addr size w
    | 0x0100 => d.writeBootReq addr size w
    | _ => d

/-! ## Writes of the control window (11_host_mailboxes.md R333-R355) -/

/-- Four bytes at an offset of a channel's block. -/
def Dev.writeChannel (d : Dev) (f chan : Nat) (sec : Bool) (o : Nat) (w : Word32) : Dev :=
  let key := mbxKey chan sec
  let m := d.mbx f key
  if o < 0x100 then
    d.setMbx f key { m with req := (padTo 256 m.req).take o ++ leBytes 4 w.toNat ++ (padTo 256 m.req).drop (o + 4) }
  else
    match o with
    | 0x200 => doMbxSend d f chan sec w
    | 0x210 => d.setMbx f key { m with raise := m.raise ||| w.toNat % 2 ^ 16 }
    | 0x214 => doDbPendClear d f chan sec w 0
    | 0x218 => doDbMaskWrite d f chan sec w
    | _ => d

/-- The channel at an offset, and the offset within its block; none where the function has none. -/
def channelAt (f off : Nat) : Option (Nat × Bool × Nat) :=
  if off < 0x2000 then
    (if off / 0x400 < (if f = 0 then 8 else 2) then some (off / 0x400, false, off % 0x400) else none)
  else if off < 0x3000 ∧ f = 0 then some ((off - 0x2000) / 0x400, true, off % 0x400)
  else none

/-- A register of the control window outside the channels. -/
def Dev.writeControl (d : Dev) (f off size w : Nat) : Dev :=
  let x := d.func f
  let c := carriedBits off size w
  match off / 8 * 8 with
  | 0x3018 => d.setFunc f { x with winErr := if bit c 63 then x.winErr % 2 ^ 63 else x.winErr }
  | 0x4000 => doHdmaRingWrite d f (BitVec.ofNat 64 (mergeHalf x.ring off size w))
  | 0x4008 => doHdmaTailWrite d f (BitVec.ofNat 64 (mergeHalf x.tail off size w))
  | 0x4010 => d.setFunc f { x with lastCode := clearBits x.lastCode (bits c 23 16) }
  | 0x4018 => doHdmaCtlWrite d f (BitVec.ofNat 64 (mergeHalf (boolNat x.enable) off size w))
  | 0x5000 => doHostWinCfgWrite d f (BitVec.ofNat 64 (mergeHalf x.win off size w))
  | n =>
    if 0xF000 ≤ n ∧ n < 0xF200 then
      let i := (n - 0xF000) / 8
      d.setFunc f { x with msix := smSet 0 x.msix i (BitVec.ofNat 64 (mergeHalf (smGet 0 x.msix i).toNat off size w)) }
    else d

/-- A host write into BAR 0; one that is not of 4 or 8 bytes, naturally aligned, is an Unsupported Request and changes
nothing. -/
def Dev.writeWindow (d : Dev) (f off size w : Nat) : Dev :=
  if !d.hostUp || !(size == 4 || size == 8) || off % size != 0 then d
  else if off < 0x3000 then
    match channelAt f off with
    | none => d
    | some (chan, sec, o) =>
      let d1 := d.writeChannel f chan sec o (BitVec.ofNat 32 w)
      if size = 8 then d1.writeChannel f chan sec (o + 4) (BitVec.ofNat 32 (w / 2 ^ 32)) else d1
  else d.writeControl f off size w

/-! ## Writes that wait for window writes (R337) -/

/-- A function's waiting writes to its control window are performed, in their order. -/
def Dev.ctlRun (d : Dev) (f : Nat) : Dev :=
  (d.host.wins.filter (fun w => w.func == f && w.job.isCtl)).foldl (fun d w =>
    match w.job with
    | .ctl off size x => (d.setWins (d.host.wins.filter (fun y => y.id != w.id))).writeWindow f off size x
    | _ => d) d

/-- Every function with no window write outstanding performs its waiting control writes. -/
def Dev.ctlRunAll (d : Dev) : Dev :=
  (d.host.wins.filter (fun w => w.job.isCtl)).foldl (fun d w => if d.winWriting w.func then d else d.ctlRun w.func) d

/-- A write to a function's control window: it waits while a window write of the function has not been performed. -/
def Dev.ctlWrite (d : Dev) (f off size w : Nat) (go : Dev → Dev) : Dev :=
  if d.hostUp && d.winWriting f then
    let x : WinReq := { id := d.host.winCount, func := f, ctx := 0, gen := 0, off := 0, len := 0, job := .ctl off size w, next := 0, out := 0, code := 0 }
    { d with host := { d.host with wins := d.host.wins ++ [x], winCount := d.host.winCount + 1 } }
  else go (d.ctlRun f)

/-- The offset of a register of a channel's block (R333). -/
def chanOff (chan : Nat) (sec : Bool) (o : Nat) : Nat := (if sec then 0x2000 else 0) + 0x400 * chan + o

def execMbxSend (func chan : Nat) (sec : Bool) (w : Word32) (s : State) : Answer :=
  s.next (s.dev.ctlWrite func (chanOff chan sec 0x200) 4 w.toNat (fun d => doMbxSend d func chan sec w))

/-- DB_PEND_CLEAR; what the device sets in the same step is set even where the host's write waits. -/
def execDbPendClear (func chan : Nat) (sec : Bool) (mask deviceSet : Word32) (s : State) : Answer :=
  let d := s.dev
  if d.hostUp && d.winWriting func then s.next ((d.ctlWrite func (chanOff chan sec 0x214) 4 mask.toNat id).doorbell func (mbxKey chan sec) (deviceSet &&& pendBits))
  else s.next (doDbPendClear (d.ctlRun func) func chan sec mask deviceSet)

def execDbMaskWrite (func chan : Nat) (sec : Bool) (w : Word32) (s : State) : Answer :=
  s.next (s.dev.ctlWrite func (chanOff chan sec 0x218) 4 w.toNat (fun d => doDbMaskWrite d func chan sec w))

def execHdmaRingWrite (func : Nat) (w : Word) (s : State) : Answer :=
  s.next (s.dev.ctlWrite func 0x4000 8 w.toNat (fun d => doHdmaRingWrite d func w))

def execHdmaTailWrite (func : Nat) (w : Word) (s : State) : Answer :=
  s.next (s.dev.ctlWrite func 0x4008 8 w.toNat (fun d => doHdmaTailWrite d func w))

def execHdmaCtlWrite (func : Nat) (w : Word) (s : State) : Answer :=
  s.next (s.dev.ctlWrite func 0x4018 8 w.toNat (fun d => doHdmaCtlWrite d func w))

/-- RDR: a reply with data; at the host node it may free control writes that waited. -/
def execRdr (node : Nat) (s : State) : Answer := s.next (s.dev.takeReply node tRdr).ctlRunAll

/-- ACK. -/
def execAck (node : Nat) (s : State) : Answer := s.next (s.dev.takeReply node tAck).ctlRunAll

def execOndieTimeout (node tag : Nat) (s : State) : Answer := s.next (doOndieTimeout s.dev node tag).ctlRunAll

/-! ## Writes over the management ring (R23) -/

/-- Word `i` of 64 bits of a wider register. -/
def putWord (old i w : Nat) : Nat := setBits old (64 * i + 63) (64 * i) w

/-- The bits of the registers that exist: group tables, slice descriptors, tree entries, exception entries. -/
def groupMask : Nat := (2 ^ 288 - 1) * 2 ^ 32 + (2 ^ 21 - 1)
def detourMask : Nat := 2 ^ 31 + (2 ^ 18 - 1)
def sliceMask : Nat := (2 ^ 128 - 1) * 2 ^ 64 + (2 ^ 58 - 1)
def excMask : Nat := 2 ^ 63 + (2 ^ 44 - 1)

/-- The ring stop behind which a register stands; none for those of the island. -/
def regStop : RegAddr → Option Nat
  | .routeCfg n | .detour n _ | .group _ n _ _ | .dirMask _ n _ | .niSlice n _ _ | .niExc n _ _ | .chStat n _ | .curd n _ _
  | .flip _ n _ _ => some n
  | .tree u _ => some u
  | .control _ _ _ | .sideband _ _ | .fltStat => none

/-- The island reaches a register: its stop is not lost, and in a fused quadrant only the routers are served
(01_architecture.md R18, R24). -/
def Dev.regServed (d : Dev) (a : RegAddr) : Bool :=
  match regStop a with
  | none => true
  | some s =>
    !d.flt.lostStops.contains s &&
      (match a with
       | .group _ _ _ _ | .dirMask _ _ _ => true
       | _ => d.quadOn (if s < 0x120 then quadrant s else edgeQuadrant s))

/-- A word of a group table entry. -/
def Dev.writeGroup (d : Dev) (p : Plane) (node g i w : Nat) : Dev :=
  let k := meshKey p node * 256 + g
  let new := putWord (smGet 0 d.mesh.groups k).toNat i w &&& groupMask
  if d.meshQuiet then { d with mesh := { d.mesh with groups := smSet 0 d.mesh.groups k (BitVec.ofNat 320 new) } } else d

/-- A direction mask. -/
def Dev.writeDirMask (d : Dev) (p : Plane) (node dst w : Nat) : Dev :=
  if d.meshQuiet then
    { d with mesh := { d.mesh with dir := smSet none d.mesh.dir (meshKey p node * 512 + dst) (some (BitVec.ofNat 4 w)) } }
  else d

/-- A flip register: masks, and arm written 1 sets it; where it takes no effect the write is ignored. -/
def Dev.writeFlip (d : Dev) (blk : MemBlk) (node slot : Nat) (chk : Bool) (w : Word) : Dev :=
  let f := d.getFlip blk node slot
  if !d.flipOpen blk node slot then d
  else if chk then d.setFlip blk node slot { f with chk := w.setWidth 8, arm := f.arm || w.getLsbD 8 }
  else d.setFlip blk node slot { f with data := w }

/-- REGISTER_WRITE: the write acts under the register's access code; one that reaches no stop in service acts on nothing. -/
def doRegisterWrite (d : Dev) (a : RegAddr) (w : Word) : Dev :=
  let n := w.toNat
  if d.regServed a = false then d
  else
  match a with
  | .control f off size =>
    if off / 8 = 0xA00 then d.writeWindow f off size n else d.ctlWrite f off size n (fun d => d.writeWindow f off size n)
  | .sideband addr size => d.writeSideband addr size n
  | .routeCfg node => d.setNi node { d.ni node with routeCfg := BitVec.ofNat 64 (n % 2 ^ 37) }
  | .detour node i => d.setNi node { d.ni node with detour := smSet 0 (d.ni node).detour i (BitVec.ofNat 32 (n &&& detourMask)) }
  | .group p node g i => d.writeGroup p node g i n
  | .dirMask p node dst => d.writeDirMask p node dst n
  | .niSlice node slot i =>
    let x := d.ni node
    let v := putWord (smGet 0 x.slices slot).toNat i n &&& sliceMask
    d.setNi node { x with slices := smSet 0 x.slices slot (BitVec.ofNat 256 v) }
  | .niExc node slot i =>
    d.setNi node { d.ni node with exc := smSet 0 (d.ni node).exc (256 * slot + i) (BitVec.ofNat 64 (n &&& excMask)) }
  | .tree u i => { d with trees := smSet 0 d.trees (treeKey u i) (BitVec.ofNat 64 (n % 2 ^ 63)) }
  | .chStat node c => d.setDmaCh node c { d.dmaCh node c with lastCode := clearBits (d.dmaCh node c).lastCode (bits n 15 8) }
  | .curd node slot i =>
    d.setCurd (curdKey node slot) { d.curd (curdKey node slot) with r := (d.curd (curdKey node slot)).r.csrWrite i w }
  | .flip blk node slot chk => d.writeFlip blk node slot chk w
  | .fltStat => { d with flt := { d.flt with overflow := d.flt.overflow && !bit n 28 } }

def execRegisterWrite (addr : RegAddr) (w : Word) (s : State) : Answer := s.next (doRegisterWrite s.dev addr w)

end Sys2Proof.Machine
end

