-- ==== Sys2Proof/Machine/RenProg.lean ====
section
/-! DEFINITION. The Rennet rows about programs and memory: groups 0x04 and 0x05 (12_rennet.md R369-R371,
02_programming_model.md R54, R55, R64-R68, 10_memory.md R306, R319-R323). -/

namespace Sys2Proof.Machine

/-! ## Programs (R369, R370) -/

/-- A program that has started and not completed. -/
def Ctx.running (c : Ctx) : Bool := c.prog == .started

/-- The position of the first line of a rank's range that does not read. -/
def Dev.firstBad (d : Dev) (p off n : Nat) (ctx : Nat) : Nat :=
  ((lineSplit (n / 128 + 2) off 0 n).find? (fun e => (d.extLineRead p e.1 e.2.2 (some ctx)).2.isNone)).elim 0 (fun e => e.2.1)

/-- PROG_LOAD. -/
def doProgLoad (d : Dev) (f key : Nat) : Dev :=
  d.commandW f key 0x0401 anyMsg (fun d m => reaches f (reqCtx m / 16) && d.ctxBusy (reqCtx m)) (fun d m =>
    let ctx := reqCtx m
    let off := leAt m 0x10 8
    let n := leAt m 0x18 4
    let c := d.ctx ctx
    if !reaches f (ctx / 16) then d.fail f key rDenied 8
    else if (d.part (ctx / 16)).st = 2 then d.fail f key rBusy 0
    else if !c.live then d.fail f key rNotFound 8
    else if c.running then d.fail f key rConflict 8
    else
      match c.segAt off n false with
      | none => d.fail f key rDenied 0x10
      | some a =>
        let r := d.extRead (ctx / 16) a n (some ctx)
        match r.2 with
        | none => r.1.refuseCmd f key rFailed 0x10 0 (d.firstBad (ctx / 16) a n ctx)
        | some im =>
          if imShort im then r.1.fail f key rInvalid 0x18
          else
            match imFault im (d.cores (ctx / 16)) with
            | some o => r.1.refuseCmd f key rInvalid 0x10 0 o
            | none =>
              let h := im.take (0xC0 + 16 * imSects im)
              match r.1.placeSpill ctx h with
              | none => r.1.fail f key rNoResource 0
              | some d1 =>
                let k := vatsOf (d.part (ctx / 16)).psize
                ((d1.place ctx im .idle none).recordLoad ctx im .loaded).respond f key rOk
                  (leBytes 2 (k * sumOf (imVs h)) ++ leBytes 2 0 ++ leBytes 4 (k * imVatExt h)))

def execProgLoad (func chan : Nat) (s : State) : Answer := s.next (doProgLoad s.dev func chan)

/-- The curds of a loaded program run: resident ones at once, else when their state is restored. -/
def Dev.releaseCurds (d : Dev) (ctx : Nat) : Dev :=
  if d.isResident ctx then
    (d.partCurds (ctx / 16)).foldl (fun d e =>
      d.setCurd (curdKey e.1 e.2) { d.curd (curdKey e.1 e.2) with st := .run }) d
  else
    let c := d.ctx ctx
    let s := c.saved.getD Saved.init
    let curds := (List.range (d.cores (ctx / 16))).foldl (fun m i =>
      smSet SavedCurd.init m i { smGet SavedCurd.init m i with st := .run }) s.curds
    d.setCtx ctx { c with saved := some { s with curds := curds } }

/-- A confidential slice of more than one chip whose link secret this chip does not hold (13_security.md R404). -/
def Dev.linkNeeded (d : Dev) (ctx : Nat) : Bool :=
  sdConf ((d.ctxNi ctx).slice (ctx % 16)) && d.multiChip ctx && !d.sec.secrets.any (fun x => x.sliceId == (d.ctx ctx).sliceId)

/-- PROG_START. That a single-rank context is answered CONFLICT while a pinned multi-rank context is resident is a DESIGN CHOICE
(notes/assumptions/44.md): 02_programming_model.md R64 names that answer for a multi-rank one. -/
def doProgStart (d : Dev) (f key : Nat) : Dev :=
  d.ctxCommand f key 0x0402 anyMsg busyCtx (fun d m =>
    let ctx := reqCtx m
    let c := d.ctx ctx
    let other : Option Nat := match (d.part (ctx / 16)).resident with
      | some s => if s = ctx % 16 then none else some (ctx / 16 * 16 + s)
      | none => none
    match c.prog with
    | .none_ => d.fail f key rConflict 8
    | .started => d.noChange f key []
    | .complete => d.refuseCmd f key rConflict 8 0 1
    | .loaded =>
      if d.linkNeeded ctx then d.refuseCmd f key rConflict 8 0 3
      else if other.isSome && (d.multiRank ctx || (other.map d.multiRank).getD false) then d.fail f key rConflict 8
      else
        let d1 := d.releaseCurds ctx
        let d2 := d1.setCtx ctx { d1.ctx ctx with prog := .started, lastProg := 0 }
        (if (d2.part (ctx / 16)).resident.isNone then d2.giveTo ctx else d2).respond f key rOk [])

def execProgStart (func chan : Nat) (s : State) : Answer := s.next (doProgStart s.dev func chan)

/-- A record that CULTURE_SET accepts: 512 bytes in one keep segment, aligned to 64 (R67). -/
def Ctx.recordOk (c : Ctx) (record : Nat) : Bool := record % 64 == 0 && (c.keepAt record 512).isSome

/-- CULTURE_SET with an op other than 1: the record is registered. -/
def doCultureSetRegister (d : Dev) (f key : Nat) : Dev :=
  d.ctxCommand f key 0x0403 (fun m => leAt m 0x0A 1 != 1) busyCtx (fun d m =>
    let ctx := reqCtx m
    let rec_ := leAt m 0x10 8
    if 1 < leAt m 0x0A 1 then d.fail f key rInvalid 0x0A
    else if !(d.ctx ctx).recordOk rec_ then d.fail f key rInvalid 0x10
    else (d.setCtx ctx { d.ctx ctx with culture := some rec_ }).respond f key rOk (leBytes 4 0))

def execCultureSetRegister (func chan : Nat) (s : State) : Answer := s.next (doCultureSetRegister s.dev func chan)

/-- The rank has culture updates queued: they come first. -/
def Dev.cultQueued (d : Dev) (ctx : Nat) : Bool :=
  (d.partNodes (ctx / 16)).any (fun n => (d.ni n).cult.any (fun x => x.ctx == ctx))

/-- An update of a record whose place in the allocation is `base`: the entry written and its sequence; none = a line
failed. -/
def Dev.writeEntry (d : Dev) (ctx rec_ base : Nat) (image : List Byte) : Dev × Option Nat :=
  let c := d.ctx ctx
  let p := ctx / 16
  let r := d.extRead p base 512 (some ctx)
  match r.2 with
  | none => (r.1, none)
  | some old =>
    let e0 := old.take 256
    let e1 := old.drop 256
    let w := cuChoose (c.cuValid rec_ e0) (c.cuValid (rec_ + 256) e1) (cuSeq e0) (cuSeq e1)
    let body := cuBody image w.2
    let x := r.1.extWrite p (base + w.1) body (some ctx)
    let y := x.1.extWrite p (base + w.1 + 0xFC) (leBytes 4 (crcValue 1 (rec_ + w.1) body)) (some ctx)
    (y.1, if x.2 && y.2 then some w.2 else none)

/-- CULTURE_SET with op 1: the record is registered and an entry written, after the rank's queued updates. -/
def doCultureSetWrite (d : Dev) (f key : Nat) : Dev :=
  d.ctxCommand f key 0x0403 (fun m => leAt m 0x0A 1 == 1) (fun d m => busyCtx d m || d.cultQueued (reqCtx m)) (fun d m =>
    let ctx := reqCtx m
    let rec_ := leAt m 0x10 8
    let image := d.hostRead (leAt m 0x18 8) 256
    if !(d.ctx ctx).recordOk rec_ then d.fail f key rInvalid 0x10
    else if !d.host.linkUp then d.fail f key rFailed 0
    else if !(d.ctx ctx).cuPlaced image then d.fail f key rInvalid 0x18
    else
      match (d.ctx ctx).keepAt rec_ 512 with
      | none => d.fail f key rInvalid 0x10
      | some base =>
        let d1 := d.setCtx ctx { d.ctx ctx with culture := some rec_ }
        let w := d1.writeEntry ctx rec_ base image
        match w.2 with
        | some seq => w.1.respond f key rOk (leBytes 4 seq)
        | none => w.1.fail f key rFailed 0)

def execCultureSetWrite (func chan : Nat) (s : State) : Answer := s.next (doCultureSetWrite s.dev func chan)

/-! ## Memory (R371) -/

/-- A register whose contents are those of a request. -/
def Seg.same (g : Seg) (flags base pages : Nat) : Bool :=
  g.rd == bit flags 0 && g.wr == bit flags 1 && g.keep == bit flags 2 && g.base == base && g.pages == pages

/-- MEM_MAP: the pages are placed, and mapped once they are filled. -/
def doMemMap (d : Dev) (f key : Nat) : Dev :=
  d.commandW f key 0x0501 anyMsg (fun d m => reaches f (reqCtx m / 16) && d.ctxBusy (reqCtx m)) (fun d m =>
    let ctx := reqCtx m
    let p := ctx / 16
    let seg := leAt m 0x0A 1
    let fl := leAt m 0x0B 1
    let off := leAt m 0x10 8
    let n := leAt m 0x18 4
    let base := off / 4096
    let c := d.ctx ctx
    let g := smGet Seg.init c.segs seg
    if !reaches f p then d.fail f key rDenied 8
    else if (d.part p).st = 2 then d.fail f key rBusy 0
    else if !c.live then d.fail f key rNotFound 8
    else if 63 < seg then d.fail f key rInvalid 0x0A
    else if 7 < fl then d.fail f key rInvalid 0x0B
    else if off % 4096 ≠ 0 ∨ 2 ^ 43 ≤ off then d.fail f key rInvalid 0x10
    else if n = 0 ∨ 0x80000000 < n ∨ 2 ^ 43 < off + n * 4096 then d.fail f key rInvalid 0x18
    else if g.valid then (if g.same fl base n then d.noChange f key (leBytes 4 g.page) else d.fail f key rConflict 0x0A)
    else if c.segs.any (fun e => e.2.valid && runsOverlap (base, n) (e.2.base, e.2.pages)) then d.fail f key rConflict 0x10
    else
      match d.takeRun p n 512 (base % 512) 8192 with
      | none => d.fail f key rNoResource 0x10
      | some (d1, page) =>
        (d1.setPart p { d1.part p with grants := (d1.part p).grants ++ [.memMap f key ctx seg fl base n page] }).begin_ f key)

def execMemMap (func chan : Nat) (s : State) : Answer := s.next (doMemMap s.dev func chan)

/-- MEM_UNMAP: the register and its keep record go. -/
def doMemUnmap (d : Dev) (f key : Nat) : Dev :=
  d.ctxCommand f key 0x0502 anyMsg busyCtx (fun d m =>
    let ctx := reqCtx m
    let seg := leAt m 0x0A 1
    let c := d.ctx ctx
    if 63 < seg then d.fail f key rInvalid 0x0A
    else if !(smGet Seg.init c.segs seg).valid then d.fail f key rNotFound 0x0A
    else if c.running then d.fail f key rConflict 8
    else
      let keeps := d.ext.keeps.filter (fun k => !(k.sliceId == c.sliceId && k.rank == c.rank && k.seg == seg))
      ({ d with ext := { d.ext with keeps := keeps } }.setCtx ctx { c with segs := smSet Seg.init c.segs seg Seg.init }).respond f key rOk [])

def execMemUnmap (func chan : Nat) (s : State) : Answer := s.next (doMemUnmap s.dev func chan)

/-- MEM_SCRUB. -/
def doMemScrub (d : Dev) (f key : Nat) : Dev :=
  d.commandW f key 0x0503 anyMsg (fun d m => d.partOn (reqPart m) && d.partBusy (reqPart m)) (fun d m =>
    let p := reqPart m
    let q := d.part p
    if !d.partOn p || q.st == 0 then d.fail f key rNotFound 8
    else if d.partCtxs p ≠ [] then d.fail f key rConflict 8
    else (d.startScrub p q.destroying).respond f key rOk [])

def execMemScrub (func chan : Nat) (s : State) : Answer := s.next (doMemScrub s.dev func chan)

/-- MEM_RETIRE: a named page goes to a spare page (10_memory.md R323). -/
def doMemRetire (d : Dev) (f key : Nat) : Dev :=
  d.command f key 0x0504 anyMsg (fun d m =>
    let ch := leAt m 8 1
    let page := leAt m 0x0C 4
    let band := bits page 25 13
    let la := lineAddr ch band (bits page 12 0 * 32)
    let c := d.chan ch
    if 32 ≤ ch ∨ c.st ≠ 1 then d.fail f key rNotFound 8
    else if 2 ^ 26 ≤ page ∨ bandsOf c.cap ≤ band then d.fail f key rInvalid 0x0C
    else
      let d1 := d.retirePage la (d.confLine la)
      if smGet 0 (d1.chan ch).remap (pageOf la) = 0 then d1.fail f key rNoResource 8
      else d1.respond f key rOk (leBytes 4 (65536 - (d1.chan ch).remapUsed)))

def execMemRetire (func chan : Nat) (s : State) : Answer := s.next (doMemRetire s.dev func chan)

end Sys2Proof.Machine
end

