-- ==== Sys2Proof/Machine/RenSec.lean ====
section
/-! DEFINITION. The secure rows: attestation, keys, envelopes and debug unlock, group 0x0A (13_security.md R379-R405,
12_rennet.md R374). -/

namespace Sys2Proof.Machine

/-! ## Signing states (R385-R388) -/

/-- The mark is written over the copy that did not win. -/
def Xmss.write (x : Xmss) (n : Nat) : Xmss :=
  match x.markA, x.markB with
  | some a, some b => if seqHigher b.1 a.1 then { x with markA := some ((b.1 + 1) % 2 ^ 32, n) } else { x with markB := some ((a.1 + 1) % 2 ^ 32, n) }
  | some a, none => { x with markB := some ((a.1 + 1) % 2 ^ 32, n) }
  | none, some b => { x with markA := some ((b.1 + 1) % 2 ^ 32, n) }
  | none, none => { x with markA := some (1, n) }

def attLeaves : Nat := 2 ^ 20
def idLeaves : Nat := 2 ^ 10
/-- Rollover begins with a mark above 90 % of the leaves. -/
def rolloverMark : Nat := 943718

/-- The identity key can sign once more. -/
def Sec.idReady (x : Sec) : Bool :=
  match x.idk.mark with
  | some n => n < idLeaves
  | none => false

/-- How an attempt to sign ends. -/
inductive LeafEnd where
  | leaf (n : Nat)     -- sign with this leaf
  | exhausted          -- no leaf is left
  | stuck              -- the mark cannot be written
  deriving DecidableEq, Repr

/-- The next attestation leaf: from the batch in use, else from one whose mark is written first. -/
def Sec.takeLeaf (x : Sec) : Sec × LeafEnd :=
  if x.att.next < x.att.limit then ({ x with att := { x.att with next := x.att.next + 1 } }, .leaf x.att.next)
  else
    match x.att.mark with
    | none => (x, .stuck)
    | some n =>
      if attLeaves ≤ n then (x, .exhausted)
      else if !x.att.writable then (x, .stuck)
      else
        let w := x.att.write (n + 64)
        ({ x with att := { w with next := n + 1, limit := n + 64 },
                  rollover := x.rollover || (decide (rolloverMark < n + 64) && x.idReady) }, .leaf n)

/-- ROLLOVER_DONE: the new attestation key is stored and certified by the identity key, whose leaf is reserved first. -/
def doRolloverDone (d : Dev) : Dev :=
  if !d.sec.rollover || !d.host.recvUpSec then d
  else
    match d.sec.idk.mark with
    | none => d
    | some n =>
      if idLeaves ≤ n then d
      else if !d.sec.idk.writable then d.raise (plainMsg 0x803 0x70 0)
      else
        let k := d.sec.idk.write (n + 1)
        { d with sec := { d.sec with
            idk := { k with next := n + 1, limit := n + 1 }, attIndex := d.sec.attIndex + 1, rollover := false,
            att := { markA := some (1, 0), markB := none, next := 0, limit := 0, writable := d.sec.att.writable } } }

def execRolloverDone (s : State) : Answer := s.next (doRolloverDone s.dev)

/-! ## Certificates (R385) -/

/-- The fields of a certificate before its signature. -/
def certFields (kind serial index : Nat) (pub signer : List Byte) : List Byte :=
  leBytes 4 1 ++ leBytes 4 kind ++ leBytes 8 serial ++ leBytes 4 index ++ leBytes 12 0 ++ padTo 68 pub ++ leBytes 28 0 ++
    leBytes 32 (shake256 signer).toNat

/-- The identity certificate: the issuer's digest is the fused one of the device CA. -/
def Dev.identityCert (d : Dev) : List Byte :=
  let body := leBytes 4 1 ++ leBytes 4 0 ++ leBytes 8 d.sec.fuses.serial ++ leBytes 4 0 ++ leBytes 12 0 ++
    padTo 68 Config.identityPublic ++ leBytes 28 0 ++ leBytes 32 d.sec.fuses.caDigest.toNat
  body ++ padTo 2820 (Config.caSignature body)

/-- The current attestation certificate; generation g is certified with leaf g of the identity key
(notes/assumptions/5.md). -/
def Dev.attCert (d : Dev) : List Byte :=
  let g := d.sec.attIndex
  let body := certFields 1 d.sec.fuses.serial g (Config.attPublic g) (padTo 68 Config.identityPublic)
  body ++ padTo 2500 (Config.xmssSign (padTo 68 Config.identityPublic) g body)

/-- The encapsulation key of a confidential partition, and its digest. -/
def Dev.ekOf (d : Dev) (p : Nat) : List Byte := padTo 1568 (Config.mlkemPublic (d.part p).keyNo)
def Dev.ekDigest (d : Dev) (p : Nat) : Nat := if (d.part p).conf then (shake256 (d.ekOf p)).toNat else 0

/-! ## ATTEST (R389-R393) -/

def partFlags (q : Part) : Nat := boolNat q.conf + 2 * boolNat q.local_ + 4 * boolNat q.fewer

/-- Layout bytes of a partition. -/
def Dev.layoutOf (d : Dev) (p : Nat) : List Byte :=
  let q := d.part p
  if d.partOn p then leBytes 1 q.st ++ leBytes 1 q.psize ++ leBytes 1 (partFlags q) ++ leBytes 1 q.first else leBytes 4 0xFF

/-- The context in a partition's one slot used. -/
def Dev.oneCtx (d : Dev) (p : Nat) : Option Nat :=
  match d.partCtxs p with
  | [s] => some (16 * p + s)
  | _ => none

/-- The partition block (R390, R392). -/
def Dev.partBlock (d : Dev) (p : Nat) : List Byte :=
  if p = 0xFF then leBytes 1 0xFF ++ List.replicate 0x34F 0
  else
    let q := d.part p
    let quiet := q.st == 2 || q.st == 3
    let c := d.oneCtx p
    let x := d.ctx (c.getD 0)
    let ks := if quiet then [] else d.sec.models.filter (fun k => k.part == p)
    let t := match c.bind (fun _ => d.sec.secrets.find? (fun s => s.sliceId == x.sliceId)) with | some s => s.round | none => 0xFFFFFFFF
    let one (k : ModelKey) : List Byte := leBytes 4 k.keyId ++ leBytes 4 0 ++ leBytes 8 k.bytes ++ padTo 32 k.digest
    leBytes 1 p ++ leBytes 1 q.st ++ leBytes 1 (partFlags q) ++ leBytes 1 ks.length ++ leBytes 2 (c.getD 0xFFFF) ++
      leBytes 2 (if c.isSome then x.gen else 0) ++ leBytes 4 (if c.isSome then x.sliceId else 0) ++ leBytes 4 t ++
      leBytes 32 (d.ekDigest p) ++ leBytes 32 (if quiet || c.isNone then 0 else x.digest.toNat) ++ padTo 768 (ks.flatMap one)

def comps : List Nat := [0, 1, 2, 3]

/-- flags of a report. -/
def Dev.reportFlags (d : Dev) : Nat :=
  boolNat (d.sec.debugScope != 0) + 2 * boolNat d.anyRind + sumOf (comps.map (fun c => boolNat (d.sec.staged c) * 2 ^ (4 + c))) +
    boolNat d.sec.rollover * 2 ^ 8

def Dev.fuseState (d : Dev) : Nat :=
  let x := d.sec.fuses
  boolNat x.debugDisable + x.signerRevoke % 4 * 2 + boolNat x.cap * 2 ^ 3 + sumOf (comps.map (fun q => boolNat (!d.quadOn q) * 2 ^ (4 + q)))

/-- Bytes 0x000-0x1BE7 of a report. -/
def Dev.reportBody (d : Dev) (p : Nat) (nonce : List Byte) : List Byte :=
  let x := d.sec
  leBytes 4 1 ++ leBytes 4 9964 ++ padTo 32 nonce ++ leBytes 8 x.fuses.serial ++ d.partNumber ++ leBytes 8 d.timer.toNat ++
    leBytes 4 d.reportFlags ++ leBytes 4 x.attIndex ++ comps.flatMap (fun c => leBytes 1 (smGet 0 x.fuses.secVersion c)) ++
    comps.flatMap (fun c => leBytes 1 (x.running_ c).secVersion) ++ leBytes 8 d.fuseState ++ leBytes 32 Config.starterDigest.toNat ++
    comps.flatMap (fun c => leBytes 32 (x.running_ c).digest.toNat) ++
    comps.flatMap (fun c => leBytes 32 (if x.staged c then (x.other c).digest.toNat else 0)) ++ (List.range 64).flatMap d.layoutOf ++
    d.partBlock p ++ leBytes 4 5640 ++ leBytes 12 0 ++ d.attCert ++ d.identityCert

/-- ATTEST. -/
def doAttest (d : Dev) (f key : Nat) : Dev :=
  d.command f key 0x0A01 anyMsg (fun d m =>
    let p := leAt m 8 1
    if p ≠ 0xFF ∧ !d.partOn p then d.fail f key rNotFound 8
    else if leAt m 0x38 4 < 9964 then d.refuseCmd f key rNoResource 0x38 0 9964
    else if d.sec.activating ≠ [] then d.fail f key rBusy 0
    else
      match d.sec.takeLeaf with
      | (x, .leaf n) =>
        let d1 := { d with sec := x }
        let body := d1.reportBody p ((m.drop 0x10).take 32)
        d1.sendBuf f key (leAt m 0x30 8) (body ++ padTo 2820 (Config.xmssSign (Config.attPublic x.attIndex) n body)) (leBytes 4 9964)
      | (_, .exhausted) => if d.sec.rollover then d.fail f key rBusy 0 else d.fail f key rNoResource 0
      | (_, .stuck) => (d.fail f key rNoResource 0).raise (plainMsg 0x803 0x70 0))

def execAttest (func chan : Nat) (s : State) : Answer := s.next (doAttest s.dev func (secKey chan))

/-! ## KEY_PUBLIC_GET (R397) -/

def doKeyPublicGet (d : Dev) (f key : Nat) : Dev :=
  d.command f key 0x0A02 anyMsg (fun d m =>
    let p := leAt m 9 1
    let give (bs : List Byte) : Dev :=
      if leAt m 0x18 4 < bs.length then d.refuseCmd f key rNoResource 0x18 0 bs.length
      else d.sendBuf f key (leAt m 0x10 8) bs (leBytes 4 bs.length)
    match leAt m 8 1 with
    | 0 => give d.identityCert
    | 1 => give d.attCert
    | 2 => if (d.part p).conf && (d.part p).st != 0 then give (d.ekOf p) else d.fail f key rNotFound 9
    | _ => d.fail f key rInvalid 8)

def execKeyPublicGet (func chan : Nat) (s : State) : Answer := s.next (doKeyPublicGet s.dev func (secKey chan))

/-! ## KEY_INSTALL (R397-R403) -/

def envelopeKind (d : Dev) (m : List Byte) : Nat := leAt (d.hostRead (leAt m 0x10 8) 128) 4 1

/-- Bytes of chunk i of a data envelope, and where the chunk begins in it. -/
def chunkLen (length i : Nat) : Nat := min 65536 (length - 65536 * i)
def chunkAt (i : Nat) : Nat := 128 + 65552 * i
def chunkCount (length : Nat) : Nat := (length + 65535) / 65536
def envelopeSize (length : Nat) : Nat := 128 + length + 16 * chunkCount length

/-- A data envelope's header that R399 allows: `imports` says which kind it is. -/
def Dev.dataHeaderOk (d : Dev) (h : List Byte) (keyId slice bufLen : Nat) (imports : Bool) : Bool :=
  let off := leAt h 0x10 8
  let n := leAt h 0x18 8
  leAt h 0 4 == 1 && leAt h 5 3 == 0 && leAt h 0x0C 4 == 0 && leAt h 0x34 76 == 0 && keyId != 0 && leAt h 8 4 == keyId &&
    leAt h 0x28 8 == d.sec.fuses.serial && leAt h 0x30 4 == slice && off % 128 == 0 && 1 ≤ n && n ≤ 0xF0000000 && off + n ≤ 2 ^ 43 &&
    bufLen == envelopeSize n && (!imports || !bit (leAt h 0x20 8) 63)

/-- A key envelope that R398 allows. -/
def Dev.keyHeaderOk (d : Dev) (h : List Byte) (keyId slice bufLen : Nat) : Bool :=
  leAt h 0 4 == 1 && leAt h 4 1 ≤ 1 && leAt h 5 3 == 0 && leAt h 0x0C 4 == 0 && leAt h 0x1C 4 == 0 && keyId != 0 && leAt h 8 4 == keyId &&
    leAt h 0x10 8 == d.sec.fuses.serial && leAt h 0x18 4 == slice && bufLen == 1680

/-- The key that an envelope wraps; none = FAILED. -/
def Dev.unwrap (d : Dev) (p : Nat) (h : List Byte) : Option (BitVec 256) :=
  if leAt h 0x20 32 ≠ d.ekDigest p then none
  else
    match Config.mlkemDecaps (d.part p).keyNo ((h.drop 0x40).take 1568) with
    | none => none
    | some ss =>
      let kek := shake256 (asciiBytes "LUADA-KEK" ++ ss ++ h.take 0x40)
      (gcmOpen kek (List.replicate 12 0) (h.take 0x40) ((h.drop 0x660).take 32) ((h.drop 0x680).take 16)).map
        (fun k => BitVec.ofNat 256 (leNat k))

/-- KEY_INSTALL of one kind of envelope: the partition is confidential and holds a context; the envelope is read. A
partition being reset makes it wait (12_rennet.md R378). -/
def Dev.keyInstall (d : Dev) (f key : Nat) (kind : Nat → Bool) (act : Dev → List Byte → Nat → Nat → Dev) : Dev :=
  d.commandW f key 0x0A03 (fun m => kind (envelopeKind d m)) (fun d m => (d.part (leAt m 8 1)).st == 3) (fun d m =>
    let p := leAt m 8 1
    match d.partCtxs p with
    | [] => d.fail f key rDenied 8
    | s :: _ =>
      if !(d.part p).conf then d.fail f key rDenied 8
      else if !d.host.linkUp then d.fail f key rFailed 0
      else act d m p (16 * p + s))

/-- MODEL: a model key is installed; an envelope of a kind that is not defined is refused here. -/
def doKeyInstallModel (d : Dev) (f key : Nat) : Dev :=
  d.keyInstall f key (fun k => k == 0 || decide (3 < k)) (fun d m p ctx =>
    let h := d.hostRead (leAt m 0x10 8) 1680
    let id := leAt m 0x0C 4
    if !d.keyHeaderOk h id (d.ctx ctx).sliceId (leAt m 0x18 4) then d.fail f key rInvalid 0x10
    else
      match d.unwrap p h with
      | none => d.fail f key rFailed 0x10
      | some k =>
        match d.sec.models.find? (fun x => x.part == p && x.keyId == id) with
        | some x => if x.key = k then d.noChange f key [] else d.fail f key rConflict 0x0C
        | none =>
          if 16 ≤ (d.sec.models.filter (fun x => x.part == p)).length then d.refuseCmd f key rNoResource 0 0 16
          else
            let x : ModelKey := { part := p, keyId := id, key := k, digest := List.replicate 32 0, bytes := 0, exports := 0 }
            { d with sec := { d.sec with models := d.sec.models ++ [x] } }.respond f key rOk [])

def execKeyInstallModel (func chan : Nat) (s : State) : Answer := s.next (doKeyInstallModel s.dev func (secKey chan))

/-- LINK: the slice's link secret is installed, and the key of round 0 written into every member NI here. -/
def doKeyInstallLink (d : Dev) (f key : Nat) : Dev :=
  d.keyInstall f key (fun k => k == 1) (fun d m p ctx =>
    let h := d.hostRead (leAt m 0x10 8) 1680
    let id := (d.ctx ctx).sliceId
    let x := (d.ctxNi ctx).slice (ctx % 16)
    if !d.keyHeaderOk h (leAt m 0x0C 4) id (leAt m 0x18 4) then d.fail f key rInvalid 0x10
    else
      match d.unwrap p h with
      | none => d.fail f key rFailed 0x10
      | some k =>
        if sdExt x 0 * sdExt x 1 * sdExt x 2 * sdExt x 3 = 1 then d.refuseCmd f key rConflict 0 0 4
        else
          match d.sec.secrets.find? (fun y => y.sliceId == id) with
          | some y => if y.secret = k then d.respond f key rOk [] else d.fail f key rConflict 0
          | none =>
            let y : LinkSecret := { sliceId := id, secret := k, round := 0 }
            ({ d with sec := { d.sec with secrets := d.sec.secrets ++ [y] } }.writeLinkKey id).respond f key rOk [])

def execKeyInstallLink (func chan : Nat) (s : State) : Answer := s.next (doKeyInstallLink s.dev func (secKey chan))

/-- Every line of a range lies in some valid segment. -/
def Ctx.rangeMapped (c : Ctx) (off n : Nat) : Bool := (lineSplit (n / 128 + 2) off 0 n).all (fun e => (c.segAny e.1 e.2.2).isSome)

/-- The checks that both kinds of data envelope share; the model key when they pass. -/
def Dev.dataChecks (d : Dev) (f key p ctx : Nat) (m h : List Byte) (imports : Bool) (act : Dev → ModelKey → Dev) : Dev :=
  let id := leAt m 0x0C 4
  if !d.dataHeaderOk h id (d.ctx ctx).sliceId (leAt m 0x18 4) imports then d.fail f key rInvalid 0x10
  else
    match d.sec.models.find? (fun x => x.part == p && x.keyId == id) with
    | none => d.fail f key rNotFound 0x0C
    | some k =>
      if !(d.ctx ctx).rangeMapped (leAt h 0x10 8) (leAt h 0x18 8) then d.fail f key rDenied 0x10
      else if (d.ctx ctx).tear.isSome then d.refuseCmd f key rFailed 0 0 0xFFFFFFFF
      else act d k

def chunkNonce (h : List Byte) (i : Nat) : List Byte := (h.drop 0x20).take 8 ++ leBytes 4 i

/-- Chunks of an import from `i` on: each is opened, then written; the plaintext, or the code and arg it ends with. -/
def Dev.importChunks (d : Dev) (ctx buf : Nat) (k : ModelKey) (h : List Byte) : Nat → Nat → Dev × (List Byte ⊕ Nat × Nat)
  | 0, _ => (d, .inl [])
  | fuel + 1, i =>
    let n := chunkLen (leAt h 0x18 8) i
    let ct := d.hostRead (buf + chunkAt i) n
    match gcmOpen k.key (chunkNonce h i) h ct (d.hostRead (buf + chunkAt i + n) 16) with
    | none => (d, .inr (rFailed, i))
    | some pt =>
      let w := d.hostSegWrite ctx (leAt h 0x10 8 + 65536 * i) (padTo n pt)
      if w.2 ≠ 0 then (w.1, .inr (rFailed, 0))
      else
        let r := w.1.importChunks ctx buf k h fuel (i + 1)
        (r.1, match r.2 with | .inl l => .inl (padTo n pt ++ l) | .inr e => .inr e)

/-- IMPORT: chunks that verify land, and the weight digest is extended once all have. -/
def doKeyInstallImport (d : Dev) (f key : Nat) : Dev :=
  d.keyInstall f key (fun k => k == 2) (fun d m p ctx =>
    let buf := leAt m 0x10 8
    let h := d.hostRead buf 128
    d.dataChecks f key p ctx m h true (fun d k =>
      let n := leAt h 0x18 8
      let r := d.importChunks ctx buf k h (chunkCount n) 0
      match r.2 with
      | .inr e => r.1.refuseCmd f key e.1 0 0 e.2
      | .inl pt =>
        let dg := shake256 (k.digest ++ leBytes 8 (leAt h 0x10 8) ++ leBytes 8 n ++ leBytes 32 (shake256 pt).toNat)
        let upd (x : ModelKey) : ModelKey := if x = k then { x with digest := leBytes 32 dg.toNat, bytes := x.bytes + n } else x
        { r.1 with sec := { r.1.sec with models := r.1.sec.models.map upd } }.respond f key rOk []))

def execKeyInstallImport (func chan : Nat) (s : State) : Answer := s.next (doKeyInstallImport s.dev func (secKey chan))

/-- Chunks of an export from `i` on: ciphertext and tag each. -/
def sealChunks (k : ModelKey) (h pt : List Byte) : Nat → Nat → List Byte
  | 0, _ => []
  | fuel + 1, i =>
    let n := chunkLen pt.length i
    padTo (n + 16) (gcmSeal k.key (chunkNonce h i) h ((pt.drop (65536 * i)).take n)) ++ sealChunks k h pt fuel (i + 1)

/-- EXPORT: the range leaves sealed, under a nonce that no import and no earlier export has. -/
def doKeyInstallExport (d : Dev) (f key : Nat) : Dev :=
  d.keyInstall f key (fun k => k == 3) (fun d m p ctx =>
    let buf := leAt m 0x10 8
    let h := d.hostRead buf 128
    d.dataChecks f key p ctx m h false (fun d k =>
      let n := leAt h 0x18 8
      let r := d.hostSegRead ctx (leAt h 0x10 8) n
      if r.2.2 ≠ 0 then r.1.fail f key rFailed 0
      else
        let h1 := h.take 0x20 ++ leBytes 8 (k.exports % 2 ^ 63 + 2 ^ 63) ++ h.drop 0x28
        let upd (x : ModelKey) : ModelKey := if x = k then { x with exports := x.exports + 1 } else x
        { r.1 with sec := { r.1.sec with models := r.1.sec.models.map upd } }.sendBuf f key buf
          (h1 ++ sealChunks k h1 r.2.1 (chunkCount n) 0) []))

def execKeyInstallExport (func chan : Nat) (s : State) : Answer := s.next (doKeyInstallExport s.dev func (secKey chan))

/-! ## DEBUG_UNLOCK (R395, R405) -/

def tokenLen : Nat := 2852

/-- The token is this device's, unused, and signed by the debug authority. -/
def Sec.tokenOk (x : Sec) (t : List Byte) : Bool :=
  leAt t 0 4 == 1 && leAt t 4 4 < 4 && leAt t 0x14 12 == 0 && leAt t 8 8 == x.fuses.serial && leAt t 0x10 4 == x.unlockCounter &&
    Config.fusedKeyVerify x.fuses.debugAuthority (t.take 0x20) (t.drop 0x20)

/-- DEBUG_UNLOCK. -/
def doDebugUnlock (d : Dev) (f key : Nat) : Dev :=
  d.command f key 0x0A04 anyMsg (fun d m =>
    let t := d.hostRead (leAt m 8 8) tokenLen
    if d.sec.fuses.debugDisable then d.refuseCmd f key rDenied 0 0 1
    else if d.anyRind then d.fail f key rDenied 0
    else if !d.host.linkUp || leAt m 0x10 4 < tokenLen || !d.sec.tokenOk t then d.fail f key rFailed 8
    else { d with sec := { d.sec with unlockCounter := d.sec.unlockCounter + 1, debugScope := leAt t 4 4 } }.respond f key rOk [])

def execDebugUnlock (func chan : Nat) (s : State) : Answer := s.next (doDebugUnlock s.dev func (secKey chan))

end Sys2Proof.Machine
end

