-- ==== Sys2Proof/Machine/RenSlice.lean ====
section
/-! DEFINITION. The Rennet rows about slices and the fabric, and CANCEL: group 0x06 and DB_RAISE bit 1 (12_rennet.md R366, R372,
R373, 09_fabric_manager.md R271, R295). -/

namespace Sys2Proof.Machine

/-! ## Requests for the manager (09_fabric_manager.md R271) -/

/-- The tag of a REQUEST of this module. -/
def reqTag (ref : Nat) : Nat := 0x8000 + ref

/-- A request of group 0x06 from a mailbox here: a manager in control serves it; else it waits, and a member's firmware
forwards it to its manager. -/
def Dev.ask6 (d : Dev) (f key : Nat) (m : List Byte) : Dev :=
  let w : WaitReq := { chip := none, a := f, b := key, req := m, acked := false }
  let d1 := d.begin_ f key
  if d.fm.managing then d1.serve6 w
  else
    let d2 := { d1 with fm := { d1.fm with waiting := d1.fm.waiting ++ [w] } }
    if d.fm.role = 1 ∨ d.fm.role = 2 then
      Dev.send { d2 with fm := { d2.fm with mgtTags := d2.fm.mgtTags ++ [reqTag (256 * f + key)] } } (.request d.fm.mgr d.fm.epoch (256 * f + key) m)
    else d2

/-- SLICE_CREATE. -/
def doSliceCreate (d : Dev) (f key : Nat) : Dev := d.command f key 0x0601 anyMsg (fun d m => d.ask6 f key m)

def execSliceCreate (func chan : Nat) (s : State) : Answer := s.next (doSliceCreate s.dev func chan)

/-- SLICE_DESTROY. -/
def doSliceDestroy (d : Dev) (f key : Nat) : Dev := d.command f key 0x0602 anyMsg (fun d m => d.ask6 f key m)

def execSliceDestroy (func chan : Nat) (s : State) : Answer := s.next (doSliceDestroy s.dev func chan)

/-- A virtual function reaches the slices whose partition list on this chip includes its partition (12_rennet.md R359). -/
def Dev.reachesSlice (d : Dev) (f id : Nat) : Bool := f == 0 || (d.slotOf (f - 1) id).isSome

/-- SLICE_QUERY. -/
def doSliceQuery (d : Dev) (f key : Nat) : Dev :=
  d.command f key 0x0603 anyMsg (fun d m => if d.reachesSlice f (leAt m 8 4) then d.ask6 f key m else d.fail f key rDenied 8)

def execSliceQuery (func chan : Nat) (s : State) : Answer := s.next (doSliceQuery s.dev func chan)

/-- FABRIC_MAP from the manager's own state, with at most `n` records. -/
def Dev.mapAnswer (d : Dev) (f key : Nat) (m : List Byte) (n : Nat) : Dev :=
  let ms := d.fm.modules.take n
  let buf := leAt m 8 8
  if buf = 0 then d.respond f key rOk (d.fabricHead 0 0)
  else if leAt m 0x10 4 < 32 * ms.length then d.refuseCmd f key rNoResource 0x10 0 (32 * ms.length)
  else if ms = [] then d.respond f key rOk (d.fabricHead 0 0)
  else d.sendBuf f key buf (ms.flatMap ModRec.record) (d.fabricHead 0 ms.length)

/-- FABRIC_MAP while no manager holds control (R373): NO_MANAGER after an election without a candidate, else NO_CONTROL. -/
def Dev.mapAlone (d : Dev) (f key : Nat) : Dev := d.respond f key rOk (d.fabricHead (if d.fm.unmanaged then 2 else 1) 0)

/-- FABRIC_MAP. -/
def doFabricMap (d : Dev) (f key : Nat) : Dev :=
  d.command f key 0x0604 anyMsg (fun d m =>
    if d.fm.managing then d.mapAnswer f key m d.fm.modules.length
    else if d.fm.role = 1 ∨ d.fm.role = 2 then d.ask6 f key m
    else d.mapAlone f key)

def execFabricMap (func chan : Nat) (s : State) : Answer := s.next (doFabricMap s.dev func chan)

/-! ## CANCEL (R366) -/

/-- The commands that CANCEL ends; the records returned so far are none, since a reading command here is one event. -/
def Dev.cancelled (d : Dev) (f key : Nat) : Dev :=
  match leAt (d.mbx f key).msg 0 2 with
  | 0x0701 => d.command f key 0x0701 anyMsg (fun d m => d.fltAnswer f key m 0)
  | 0x0703 => d.command f key 0x0703 anyMsg (fun d m =>
    if 1 < leAt m 8 1 then d.fail f key rInvalid 8 else d.evtAnswer f key m 0)
  | 0x0B01 => doTelRead d f key
  | 0x0604 =>
    (match d.fm.waiting.find? (fun w => w.chip.isNone && w.a == f && w.b == key) with
     | some w =>
       { d with fm := { d.fm with waiting := d.fm.waiting.filter (fun x => x != w) } }.respond f key rOk
         (d.fabricHead (if d.fm.role = 0 ∨ d.fm.role = 4 then 1 else 0) 0)
     | none => d.command f key 0x0604 anyMsg (fun d m => if d.fm.managing then d.mapAnswer f key m 0 else d.mapAlone f key))
  | _ => d

/-- CANCEL: the receiver takes the bit and ends the channel's ACTIVE message where it is a list or read command. -/
def doCancel (d : Dev) (f chan : Nat) : Dev :=
  if !bit (d.mbx f chan).raise 1 || !d.host.recvUp then d
  else
    let d1 := d.takeNotify f chan 1
    if (d1.mbx f chan).st = 2 then d1.cancelled f chan else d1

def execCancel (func chan : Nat) (s : State) : Answer := s.next (doCancel s.dev func chan)

end Sys2Proof.Machine
end

