-- ==== Sys2Proof/Machine/Dispatch.lean ====
section
/-! DEFINITION. exec: one arm per command, each one direct call of its meaning. -/

namespace Sys2Proof.Machine

def exec (i : Instr) (s : State) : Host.Outcome State Fault Refusal :=
  match i with
  | .alu node slot => Sys2Proof.Machine.execAlu node slot s
  | .addi node slot => Sys2Proof.Machine.execAddi node slot s
  | .andi node slot => Sys2Proof.Machine.execAndi node slot s
  | .ori node slot => Sys2Proof.Machine.execOri node slot s
  | .xori node slot => Sys2Proof.Machine.execXori node slot s
  | .shi node slot => Sys2Proof.Machine.execShi node slot s
  | .movz node slot => Sys2Proof.Machine.execMovz node slot s
  | .movk node slot => Sys2Proof.Machine.execMovk node slot s
  | .slti node slot => Sys2Proof.Machine.execSlti node slot s
  | .beq node slot => Sys2Proof.Machine.execBeq node slot s
  | .bne node slot => Sys2Proof.Machine.execBne node slot s
  | .blt node slot => Sys2Proof.Machine.execBlt node slot s
  | .bge node slot => Sys2Proof.Machine.execBge node slot s
  | .bltu node slot => Sys2Proof.Machine.execBltu node slot s
  | .bgeu node slot => Sys2Proof.Machine.execBgeu node slot s
  | .jal node slot => Sys2Proof.Machine.execJal node slot s
  | .jalr node slot => Sys2Proof.Machine.execJalr node slot s
  | .csrr node slot => Sys2Proof.Machine.execCsrr node slot s
  | .csrw node slot => Sys2Proof.Machine.execCsrw node slot s
  | .ldb node slot => Sys2Proof.Machine.execLdb node slot s
  | .ldh node slot => Sys2Proof.Machine.execLdh node slot s
  | .ldw node slot => Sys2Proof.Machine.execLdw node slot s
  | .ldd node slot => Sys2Proof.Machine.execLdd node slot s
  | .ldbu node slot => Sys2Proof.Machine.execLdbu node slot s
  | .ldhu node slot => Sys2Proof.Machine.execLdhu node slot s
  | .ldwu node slot => Sys2Proof.Machine.execLdwu node slot s
  | .stb node slot => Sys2Proof.Machine.execStb node slot s
  | .sth node slot => Sys2Proof.Machine.execSth node slot s
  | .stw node slot => Sys2Proof.Machine.execStw node slot s
  | .std node slot => Sys2Proof.Machine.execStd node slot s
  | .vld node slot => Sys2Proof.Machine.execVld node slot s
  | .vst node slot => Sys2Proof.Machine.execVst node slot s
  | .amo node slot => Sys2Proof.Machine.execAmo node slot s
  | .vop node slot => Sys2Proof.Machine.execVop node slot s
  | .vred node slot => Sys2Proof.Machine.execVred node slot s
  | .vmovSplat node slot => Sys2Proof.Machine.execVmovSplat node slot s
  | .vmovExtract node slot => Sys2Proof.Machine.execVmovExtract node slot s
  | .vmovPermute node slot => Sys2Proof.Machine.execVmovPermute node slot s
  | .vcvtNarrow node slot => Sys2Proof.Machine.execVcvtNarrow node slot s
  | .vcvtWiden node slot => Sys2Proof.Machine.execVcvtWiden node slot s
  | .tmma node slot => Sys2Proof.Machine.execTmma node slot s
  | .tld node slot => Sys2Proof.Machine.execTld node slot s
  | .tst node slot => Sys2Proof.Machine.execTst node slot s
  | .topClear node slot => Sys2Proof.Machine.execTopClear node slot s
  | .topCopy node slot => Sys2Proof.Machine.execTopCopy node slot s
  | .topAdd node slot => Sys2Proof.Machine.execTopAdd node slot s
  | .tensorExecute node slot => Sys2Proof.Machine.execTensorExecute node slot s
  | .farGet node slot => Sys2Proof.Machine.execFarGet node slot s
  | .farPut node slot => Sys2Proof.Machine.execFarPut node slot s
  | .farPutv node slot => Sys2Proof.Machine.execFarPutv node slot s
  | .farAtomic node slot => Sys2Proof.Machine.execFarAtomic node slot s
  | .farFp32Add node slot => Sys2Proof.Machine.execFarFp32Add node slot s
  | .dma node slot => Sys2Proof.Machine.execDma node slot s
  | .wait node slot => Sys2Proof.Machine.execWait node slot s
  | .signal node slot => Sys2Proof.Machine.execSignal node slot s
  | .fence node slot => Sys2Proof.Machine.execFence node slot s
  | .cult node slot => Sys2Proof.Machine.execCult node slot s
  | .cadd node slot => Sys2Proof.Machine.execCadd node slot s
  | .coll node slot => Sys2Proof.Machine.execColl node slot s
  | .nop node slot => Sys2Proof.Machine.execNop node slot s
  | .halt node slot => Sys2Proof.Machine.execHalt node slot s
  | .break_ node slot => Sys2Proof.Machine.execBreak node slot s
  | .iwr node slot => Sys2Proof.Machine.execIwr node slot s
  | .rand node slot => Sys2Proof.Machine.execRand node slot s
  | .loadResponse node slot idx => Sys2Proof.Machine.execLoadResponse node slot idx s
  | .resolverAccept node => Sys2Proof.Machine.execResolverAccept node s
  | .flipArm blk node slot dataMask checkMask => Sys2Proof.Machine.execFlipArm blk node slot dataMask checkMask s
  | .dmaDescriptorStart node chan => Sys2Proof.Machine.execDmaDescriptorStart node chan s
  | .dmaSegment node chan => Sys2Proof.Machine.execDmaSegment node chan s
  | .dmaComplete node chan run => Sys2Proof.Machine.execDmaComplete node chan run s
  | .timeSliceEnd part => Sys2Proof.Machine.execTimeSliceEnd part s
  | .switchDrained part => Sys2Proof.Machine.execSwitchDrained part s
  | .switchTimeout part => Sys2Proof.Machine.execSwitchTimeout part s
  | .routerStep plane node => Sys2Proof.Machine.execRouterStep plane node s
  | .edgeReturn plane enode => Sys2Proof.Machine.execEdgeReturn plane enode s
  | .limiterRecovery node => Sys2Proof.Machine.execLimiterRecovery node s
  | .starvationMark plane node => Sys2Proof.Machine.execStarvationMark plane node s
  | .meshStopA => Sys2Proof.Machine.execMeshStopA s
  | .meshStopB => Sys2Proof.Machine.execMeshStopB s
  | .meshResume => Sys2Proof.Machine.execMeshResume s
  | .quiesceTimeout => Sys2Proof.Machine.execQuiesceTimeout s
  | .routerFailed plane node => Sys2Proof.Machine.execRouterFailed plane node s
  | .rd node => Sys2Proof.Machine.execRd node s
  | .wr node => Sys2Proof.Machine.execWr node s
  | .amoPacket node => Sys2Proof.Machine.execAmoPacket node s
  | .sig node => Sys2Proof.Machine.execSig node s
  | .heldRequestRetry node => Sys2Proof.Machine.execHeldRequestRetry node s
  | .rdr node => Sys2Proof.Machine.execRdr node s
  | .ack node => Sys2Proof.Machine.execAck node s
  | .amor node => Sys2Proof.Machine.execAmor node s
  | .mgtr reply => Sys2Proof.Machine.execMgtr reply s
  | .edgePortAccept port => Sys2Proof.Machine.execEdgePortAccept port s
  | .portSend port => Sys2Proof.Machine.execPortSend port s
  | .codeword port cw => Sys2Proof.Machine.execCodeword port cw s
  | .idleFrame port => Sys2Proof.Machine.execIdleFrame port s
  | .pktFrame port => Sys2Proof.Machine.execPktFrame port s
  | .pktEncFrame port => Sys2Proof.Machine.execPktEncFrame port s
  | .creditFrame port => Sys2Proof.Machine.execCreditFrame port s
  | .linkCtlFrame port => Sys2Proof.Machine.execLinkCtlFrame port s
  | .creditReportTimer port => Sys2Proof.Machine.execCreditReportTimer port s
  | .laneFailed port lane => Sys2Proof.Machine.execLaneFailed port lane s
  | .laneMapSwitch port => Sys2Proof.Machine.execLaneMapSwitch port s
  | .portDown port => Sys2Proof.Machine.execPortDown port s
  | .laneRetrain port lane => Sys2Proof.Machine.execLaneRetrain port lane s
  | .portUp port txLanes rxLanes => Sys2Proof.Machine.execPortUp port txLanes rxLanes s
  | .rateLimitRecovery node chip => Sys2Proof.Machine.execRateLimitRecovery node chip s
  | .requestTimeout node tag => Sys2Proof.Machine.execRequestTimeout node tag s
  | .ondieTimeout node tag => Sys2Proof.Machine.execOndieTimeout node tag s
  | .tagQuarantineEnd node tag => Sys2Proof.Machine.execTagQuarantineEnd node tag s
  | .ruChunkRead node seq chunk => Sys2Proof.Machine.execRuChunkRead node seq chunk s
  | .collUp unit => Sys2Proof.Machine.execCollUp unit s
  | .collDown unit => Sys2Proof.Machine.execCollDown unit s
  | .collArrive unit => Sys2Proof.Machine.execCollArrive unit s
  | .collRelease unit => Sys2Proof.Machine.execCollRelease unit s
  | .collAbort unit => Sys2Proof.Machine.execCollAbort unit s
  | .collr unit => Sys2Proof.Machine.execCollr unit s
  | .collResend unit idx => Sys2Proof.Machine.execCollResend unit idx s
  | .arriveLimit node seq => Sys2Proof.Machine.execArriveLimit node seq s
  | .beaconSend => Sys2Proof.Machine.execBeaconSend s
  | .beacon port k1 k2 epoch => Sys2Proof.Machine.execBeacon port k1 k2 epoch s
  | .electionComplete => Sys2Proof.Machine.execElectionComplete s
  | .heartbeatSend => Sys2Proof.Machine.execHeartbeatSend s
  | .heartbeat epoch journal => Sys2Proof.Machine.execHeartbeat epoch journal s
  | .heartbeatLoss => Sys2Proof.Machine.execHeartbeatLoss s
  | .stateSync epoch st full => Sys2Proof.Machine.execStateSync epoch st full s
  | .syncAckTimeout => Sys2Proof.Machine.execSyncAckTimeout s
  | .takeover epoch chip => Sys2Proof.Machine.execTakeover epoch chip s
  | .takeoverResend => Sys2Proof.Machine.execTakeoverResend s
  | .takeoverSilence chip => Sys2Proof.Machine.execTakeoverSilence chip s
  | .aliveSend => Sys2Proof.Machine.execAliveSend s
  | .alive epoch chip => Sys2Proof.Machine.execAlive epoch chip s
  | .aliveTimeout => Sys2Proof.Machine.execAliveTimeout s
  | .takebackStart => Sys2Proof.Machine.execTakebackStart s
  | .takeback sender key => Sys2Proof.Machine.execTakeback sender key s
  | .probe port n => Sys2Proof.Machine.execProbe port n s
  | .probeReply port n => Sys2Proof.Machine.execProbeReply port n s
  | .neighbours port epoch m table slices => Sys2Proof.Machine.execNeighbours port epoch m table slices s
  | .assign target chip extents ringMask => Sys2Proof.Machine.execAssign target chip extents ringMask s
  | .portEvent sender port state width => Sys2Proof.Machine.execPortEvent sender port state width s
  | .drain epoch sliceId slot => Sys2Proof.Machine.execDrain epoch sliceId slot s
  | .niDrainStop node stop => Sys2Proof.Machine.execNiDrainStop node stop s
  | .drainReport sender sliceId idle written parked => Sys2Proof.Machine.execDrainReport sender sliceId idle written parked s
  | .drainLimit sliceId => Sys2Proof.Machine.execDrainLimit sliceId s
  | .install m => Sys2Proof.Machine.execInstall m s
  | .installDone sender sliceId => Sys2Proof.Machine.execInstallDone sender sliceId s
  | .resume epoch sliceId slot outcomes => Sys2Proof.Machine.execResume epoch sliceId slot outcomes s
  | .request sender ref req => Sys2Proof.Machine.execRequest sender ref req s
  | .answer ref rsp => Sys2Proof.Machine.execAnswer ref rsp s
  | .group6WaitTimeout func chan => Sys2Proof.Machine.execGroup6WaitTimeout func chan s
  | .sliceAbort port m => Sys2Proof.Machine.execSliceAbort port m s
  | .teardownReport chip sliceId ranks => Sys2Proof.Machine.execTeardownReport chip sliceId ranks s
  | .abortResend sliceId chip => Sys2Proof.Machine.execAbortResend sliceId chip s
  | .restart epoch sliceId start => Sys2Proof.Machine.execRestart epoch sliceId start s
  | .firmwareChunk node c => Sys2Proof.Machine.execFirmwareChunk node c s
  | .hangSample => Sys2Proof.Machine.execHangSample s
  | .resetAgentConfirm ctx unit => Sys2Proof.Machine.execResetAgentConfirm ctx unit s
  | .teardownDrained ctx => Sys2Proof.Machine.execTeardownDrained ctx s
  | .teardownTimeout ctx => Sys2Proof.Machine.execTeardownTimeout ctx s
  | .engineResetTimeout unit => Sys2Proof.Machine.execEngineResetTimeout unit s
  | .partitionResetTimeout part => Sys2Proof.Machine.execPartitionResetTimeout part s
  | .grantFillDone part => Sys2Proof.Machine.execGrantFillDone part s
  | .scrubDone part => Sys2Proof.Machine.execScrubDone part s
  | .patrolRead chan found => Sys2Proof.Machine.execPatrolRead chan found s
  | .bandMove chan => Sys2Proof.Machine.execBandMove chan s
  | .channelLost chan => Sys2Proof.Machine.execChannelLost chan s
  | .memTrainLost chan => Sys2Proof.Machine.execMemTrainLost chan s
  | .memRetrainDone chan ok => Sys2Proof.Machine.execMemRetrainDone chan ok s
  | .mbxSend func chan sec w => Sys2Proof.Machine.execMbxSend func chan sec w s
  | .mbxTake sec => Sys2Proof.Machine.execMbxTake sec s
  | .receiverReset sec => Sys2Proof.Machine.execReceiverReset sec s
  | .resend func chan => Sys2Proof.Machine.execResend func chan s
  | .cancel func chan => Sys2Proof.Machine.execCancel func chan s
  | .dbPendClear func chan sec mask deviceSet => Sys2Proof.Machine.execDbPendClear func chan sec mask deviceSet s
  | .dbMaskWrite func chan sec w => Sys2Proof.Machine.execDbMaskWrite func chan sec w s
  | .hdmaRingWrite func w => Sys2Proof.Machine.execHdmaRingWrite func w s
  | .hdmaTailWrite func w => Sys2Proof.Machine.execHdmaTailWrite func w s
  | .hdmaCtlWrite func w => Sys2Proof.Machine.execHdmaCtlWrite func w s
  | .hdmaDescriptorStart engine => Sys2Proof.Machine.execHdmaDescriptorStart engine s
  | .hdmaComplete engine => Sys2Proof.Machine.execHdmaComplete engine s
  | .hostWinCfgWrite func w => Sys2Proof.Machine.execHostWinCfgWrite func w s
  | .hostWinRead func off len => Sys2Proof.Machine.execHostWinRead func off len s
  | .hostWinWrite func off data => Sys2Proof.Machine.execHostWinWrite func off data s
  | .functionLevelReset func => Sys2Proof.Machine.execFunctionLevelReset func s
  | .hotReset => Sys2Proof.Machine.execHotReset s
  | .perstN level => Sys2Proof.Machine.execPerstN level s
  | .devInfo func chan => Sys2Proof.Machine.execDevInfo func chan s
  | .devHealth func chan => Sys2Proof.Machine.execDevHealth func chan s
  | .cfgGet func chan => Sys2Proof.Machine.execCfgGet func chan s
  | .cfgStage func chan => Sys2Proof.Machine.execCfgStage func chan s
  | .cfgCommit func chan => Sys2Proof.Machine.execCfgCommit func chan s
  | .partCreate func chan => Sys2Proof.Machine.execPartCreate func chan s
  | .partDestroy func chan => Sys2Proof.Machine.execPartDestroy func chan s
  | .partQuery func chan => Sys2Proof.Machine.execPartQuery func chan s
  | .partSetMode func chan => Sys2Proof.Machine.execPartSetMode func chan s
  | .ctxCreate func chan => Sys2Proof.Machine.execCtxCreate func chan s
  | .ctxDestroy func chan => Sys2Proof.Machine.execCtxDestroy func chan s
  | .ctxSched func chan => Sys2Proof.Machine.execCtxSched func chan s
  | .ctxResetClear func chan => Sys2Proof.Machine.execCtxResetClear func chan s
  | .ctxResetResume func chan => Sys2Proof.Machine.execCtxResetResume func chan s
  | .progLoad func chan => Sys2Proof.Machine.execProgLoad func chan s
  | .progStart func chan => Sys2Proof.Machine.execProgStart func chan s
  | .cultureSetRegister func chan => Sys2Proof.Machine.execCultureSetRegister func chan s
  | .cultureSetWrite func chan => Sys2Proof.Machine.execCultureSetWrite func chan s
  | .memMap func chan => Sys2Proof.Machine.execMemMap func chan s
  | .memUnmap func chan => Sys2Proof.Machine.execMemUnmap func chan s
  | .memScrub func chan => Sys2Proof.Machine.execMemScrub func chan s
  | .memRetire func chan => Sys2Proof.Machine.execMemRetire func chan s
  | .sliceCreate func chan => Sys2Proof.Machine.execSliceCreate func chan s
  | .sliceDestroy func chan => Sys2Proof.Machine.execSliceDestroy func chan s
  | .sliceQuery func chan => Sys2Proof.Machine.execSliceQuery func chan s
  | .fabricMap func chan => Sys2Proof.Machine.execFabricMap func chan s
  | .fltList func chan => Sys2Proof.Machine.execFltList func chan s
  | .fltAck func chan => Sys2Proof.Machine.execFltAck func chan s
  | .evtRead func chan => Sys2Proof.Machine.execEvtRead func chan s
  | .evtMark func chan => Sys2Proof.Machine.execEvtMark func chan s
  | .resetReqContext func chan => Sys2Proof.Machine.execResetReqContext func chan s
  | .resetReqEngine func chan => Sys2Proof.Machine.execResetReqEngine func chan s
  | .resetReqPartition func chan => Sys2Proof.Machine.execResetReqPartition func chan s
  | .resetReqChip func chan => Sys2Proof.Machine.execResetReqChip func chan s
  | .resetReqPowerCycle func chan => Sys2Proof.Machine.execResetReqPowerCycle func chan s
  | .serviceReturn func chan => Sys2Proof.Machine.execServiceReturn func chan s
  | .fwStage func chan => Sys2Proof.Machine.execFwStage func chan s
  | .fwActivateNextReset func chan => Sys2Proof.Machine.execFwActivateNextReset func chan s
  | .fwActivateNow func chan => Sys2Proof.Machine.execFwActivateNow func chan s
  | .fwQuery func chan => Sys2Proof.Machine.execFwQuery func chan s
  | .attest func chan => Sys2Proof.Machine.execAttest func chan s
  | .keyPublicGet func chan => Sys2Proof.Machine.execKeyPublicGet func chan s
  | .keyInstallModel func chan => Sys2Proof.Machine.execKeyInstallModel func chan s
  | .keyInstallLink func chan => Sys2Proof.Machine.execKeyInstallLink func chan s
  | .keyInstallImport func chan => Sys2Proof.Machine.execKeyInstallImport func chan s
  | .keyInstallExport func chan => Sys2Proof.Machine.execKeyInstallExport func chan s
  | .debugUnlock func chan => Sys2Proof.Machine.execDebugUnlock func chan s
  | .telRead func chan => Sys2Proof.Machine.execTelRead func chan s
  | .pwrLimit func chan => Sys2Proof.Machine.execPwrLimit func chan s
  | .rolloverDone => Sys2Proof.Machine.execRolloverDone s
  | .faultMessage src => Sys2Proof.Machine.execFaultMessage src s
  | .stopOverrun src => Sys2Proof.Machine.execStopOverrun src s
  | .ringStopLost src => Sys2Proof.Machine.execRingStopLost src s
  | .quietPeriod => Sys2Proof.Machine.execQuietPeriod s
  | .caveFlush outcomes => Sys2Proof.Machine.execCaveFlush outcomes s
  | .caveFlushTimer => Sys2Proof.Machine.execCaveFlushTimer s
  | .operatingSecondsWrite => Sys2Proof.Machine.execOperatingSecondsWrite s
  | .cvBlock unit => Sys2Proof.Machine.execCvBlock unit s
  | .cvFailed unit => Sys2Proof.Machine.execCvFailed unit s
  | .mgmtFailover => Sys2Proof.Machine.execMgmtFailover s
  | .standbySelftestDone pass => Sys2Proof.Machine.execStandbySelftestDone pass s
  | .spareSelftest curds vats => Sys2Proof.Machine.execSpareSelftest curds vats s
  | .bootS0 copies cfgA cfgB => Sys2Proof.Machine.execBootS0 copies cfgA cfgB s
  | .bootS1 passA passB => Sys2Proof.Machine.execBootS1 passA passB s
  | .bootS2 failedRouters lostStops badCv => Sys2Proof.Machine.execBootS2 failedRouters lostStops badCv s
  | .bootS3 obs => Sys2Proof.Machine.execBootS3 obs s
  | .bootS4 => Sys2Proof.Machine.execBootS4 s
  | .bootS5 obs => Sys2Proof.Machine.execBootS5 obs s
  | .bootS6 badCurds badVats => Sys2Proof.Machine.execBootS6 badCurds badVats s
  | .bootS7 => Sys2Proof.Machine.execBootS7 s
  | .bootS8 => Sys2Proof.Machine.execBootS8 s
  | .startTimeout => Sys2Proof.Machine.execStartTimeout s
  | .bootHoldRelease => Sys2Proof.Machine.execBootHoldRelease s
  | .vatBcastArm node w => Sys2Proof.Machine.execVatBcastArm node w s
  | .repairRound => Sys2Proof.Machine.execRepairRound s
  | .powerSample obs => Sys2Proof.Machine.execPowerSample obs s
  | .currentFastPath coreA => Sys2Proof.Machine.execCurrentFastPath coreA s
  | .thermalTrip tj => Sys2Proof.Machine.execThermalTrip tj s
  | .standbyPowerOn => Sys2Proof.Machine.execStandbyPowerOn s
  | .mainPowerOn mv => Sys2Proof.Machine.execMainPowerOn mv s
  | .powerFail standbyLost => Sys2Proof.Machine.execPowerFail standbyLost s
  | .sbChipReset => Sys2Proof.Machine.execSbChipReset s
  | .sbCaveFlush => Sys2Proof.Machine.execSbCaveFlush s
  | .sbFwOpen => Sys2Proof.Machine.execSbFwOpen s
  | .sbFwCommit => Sys2Proof.Machine.execSbFwCommit s
  | .registerWrite addr w => Sys2Proof.Machine.execRegisterWrite addr w s
  | .postedStorePerformed node slot idx => Sys2Proof.Machine.execPostedStorePerformed node slot idx s
  | .jtagInstruction ir => Sys2Proof.Machine.execJtagInstruction ir s
  | .dynamicAddressAssignment method addr => Sys2Proof.Machine.execDynamicAddressAssignment method addr s
  | .holdUpCharged => Sys2Proof.Machine.execHoldUpCharged s
  | .holdUpExhausted => Sys2Proof.Machine.execHoldUpExhausted s
  | .chipNoAnswer chip => Sys2Proof.Machine.execChipNoAnswer chip s

end Sys2Proof.Machine
end

