-- ==== Sys2Proof/WellFormed.lean ====
section
/-! DEFINITION. Well-formed commands: every operand names a unit, channel or field value that the part can have
(01_architecture.md R13, R14, 11_host_mailboxes.md R330-R345, 15_faults_cave.md R438). -/

namespace Sys2Proof

def nodeOk (n : Nat) : Bool := n < 288
/-- A receiver of requests: a vat's NI or a memory controller. -/
def receiverOk (n : Nat) : Bool := n < 0x140
/-- A node whose requests are answered: a vat's NI or an attachment of the host node (01_architecture.md R14). -/
def askerOk (n : Nat) : Bool := n < 288 || n == 0x150 || n == 0x151
def slotOk (n : Nat) : Bool := n < 68
def portOk (n : Nat) : Bool := n < 16
def laneOk (n : Nat) : Bool := n < 36
def partOk (n : Nat) : Bool := n < 64
def ctxOk (n : Nat) : Bool := n < 1024
def ctxSlotOk (n : Nat) : Bool := n < 16
def funcOk (n : Nat) : Bool := n ≤ 64
/-- The physical function has channels 0-7, a virtual function 0 and 1 (11_host_mailboxes.md R333, R345). -/
def boxOk (func chan : Nat) : Bool := chan < (if func = 0 then 8 else 2)
def engineOk (n : Nat) : Bool := n < 8
/-- The edge nodes of 01_architecture.md R14. -/
def edgeOk (n : Nat) : Bool := (0x120 ≤ n && n ≤ 0x152) || (0x154 ≤ n && n ≤ 0x157)
/-- The assigned fault sources of 15_faults_cave.md R438. -/
def srcOk (n : Nat) : Bool :=
  n < 0x152 || n = 0x152 || (0x154 ≤ n && n ≤ 0x157) || (0x200 ≤ n && n ≤ 0x23F) || (0x400 ≤ n && n ≤ 0x7FF) ||
  (0x800 ≤ n && n ≤ 0x80B) || n = 0x810
def dmaChanOk (n : Nat) : Bool := n < 4
def memChanOk (n : Nat) : Bool := n < 32
def cvOk (n : Nat) : Bool := n < 5
/-- A tree node: a vat's reduction unit or a port engine (08_collectives.md R246). -/
def treeUnitOk (n : Nat) : Bool := n < 288 || (0x140 ≤ n && n ≤ 0x14F)
/-- An engine with a reset agent: a vat's as 128 * node + unit, port engine p as 0x9000 + p (14_recovery.md R415). -/
def engineUnitOk (n : Nat) : Bool := n < 0x10000
/-- Tags of a network interface (06_mesh.md R193). -/
def tagOk (n : Nat) : Bool := n < 1152
def mgtTagOk (n : Nat) : Bool := n < 65536
/-- A chip id has 14 bits (07_links.md R214). -/
def chipOk (n : Nat) : Bool := n < 16384
def portStateOk (n : Nat) : Bool := n < 4
/-- A dynamic address of the side-band bus (18_module.md R512). -/
def dynAddrOk (n : Nat) : Bool := n < 128
def winOk (n : Nat) : Bool := n < 2 ^ 39
/-- A host access is at most 4 KiB, PCI Express's limit. -/
def accessLenOk (n : Nat) : Bool := n ≤ 4096
def msgOk (bs : List Byte) : Bool := bs.length ≤ 256

def Codeword.wf (c : Codeword) : Bool := laneOk c.lane && c.cseq < 4096
def Neighbour.wf (n : Neighbour) : Bool := portOk n.port && portOk n.peerPort
def AbortMsg.wf (m : AbortMsg) : Bool := m.gen < 4096 && chipOk m.origin
def InstallMsg.wf (m : InstallMsg) : Bool := ctxSlotOk m.slot && m.detours.length ≤ 512
def FwChunk.wf (c : FwChunk) : Bool := c.n < 512 && c.data.length ≤ 128

def RegAddr.wf : RegAddr → Bool
  | .control func off size => funcOk func && off < 0x10000 && (size = 4 || size = 8)
  | .sideband addr size => addr < 2 ^ 32 && size ≤ 64
  | .routeCfg node => nodeOk node
  | .detour node n => nodeOk node && n < 512
  | .group _ node g w => nodeOk node && g < 256 && w < 5
  | .dirMask _ node dst => nodeOk node && dst < 512
  | .niSlice node slot w => nodeOk node && ctxSlotOk slot && w < 4
  | .niExc node slot n => nodeOk node && ctxSlotOk slot && n < 256
  | .tree u n => treeUnitOk u && n < 1024
  | .chStat node chan => nodeOk node && dmaChanOk chan
  | .curd node slot n => nodeOk node && slotOk slot && n < 256
  | .flip _ node slot _ => nodeOk node && slotOk slot
  | .fltStat => true

/-- Every operand of the command is in its range. -/
def Instr.wf : Instr → Bool
  | .alu node slot => nodeOk node && slotOk slot
  | .addi node slot => nodeOk node && slotOk slot
  | .andi node slot => nodeOk node && slotOk slot
  | .ori node slot => nodeOk node && slotOk slot
  | .xori node slot => nodeOk node && slotOk slot
  | .shi node slot => nodeOk node && slotOk slot
  | .movz node slot => nodeOk node && slotOk slot
  | .movk node slot => nodeOk node && slotOk slot
  | .slti node slot => nodeOk node && slotOk slot
  | .beq node slot => nodeOk node && slotOk slot
  | .bne node slot => nodeOk node && slotOk slot
  | .blt node slot => nodeOk node && slotOk slot
  | .bge node slot => nodeOk node && slotOk slot
  | .bltu node slot => nodeOk node && slotOk slot
  | .bgeu node slot => nodeOk node && slotOk slot
  | .jal node slot => nodeOk node && slotOk slot
  | .jalr node slot => nodeOk node && slotOk slot
  | .csrr node slot => nodeOk node && slotOk slot
  | .csrw node slot => nodeOk node && slotOk slot
  | .ldb node slot => nodeOk node && slotOk slot
  | .ldh node slot => nodeOk node && slotOk slot
  | .ldw node slot => nodeOk node && slotOk slot
  | .ldd node slot => nodeOk node && slotOk slot
  | .ldbu node slot => nodeOk node && slotOk slot
  | .ldhu node slot => nodeOk node && slotOk slot
  | .ldwu node slot => nodeOk node && slotOk slot
  | .stb node slot => nodeOk node && slotOk slot
  | .sth node slot => nodeOk node && slotOk slot
  | .stw node slot => nodeOk node && slotOk slot
  | .std node slot => nodeOk node && slotOk slot
  | .vld node slot => nodeOk node && slotOk slot
  | .vst node slot => nodeOk node && slotOk slot
  | .amo node slot => nodeOk node && slotOk slot
  | .vop node slot => nodeOk node && slotOk slot
  | .vred node slot => nodeOk node && slotOk slot
  | .vmovSplat node slot => nodeOk node && slotOk slot
  | .vmovExtract node slot => nodeOk node && slotOk slot
  | .vmovPermute node slot => nodeOk node && slotOk slot
  | .vcvtNarrow node slot => nodeOk node && slotOk slot
  | .vcvtWiden node slot => nodeOk node && slotOk slot
  | .tmma node slot => nodeOk node && slotOk slot
  | .tld node slot => nodeOk node && slotOk slot
  | .tst node slot => nodeOk node && slotOk slot
  | .topClear node slot => nodeOk node && slotOk slot
  | .topCopy node slot => nodeOk node && slotOk slot
  | .topAdd node slot => nodeOk node && slotOk slot
  | .tensorExecute node slot => nodeOk node && slotOk slot
  | .farGet node slot => nodeOk node && slotOk slot
  | .farPut node slot => nodeOk node && slotOk slot
  | .farPutv node slot => nodeOk node && slotOk slot
  | .farAtomic node slot => nodeOk node && slotOk slot
  | .farFp32Add node slot => nodeOk node && slotOk slot
  | .dma node slot => nodeOk node && slotOk slot
  | .wait node slot => nodeOk node && slotOk slot
  | .signal node slot => nodeOk node && slotOk slot
  | .fence node slot => nodeOk node && slotOk slot
  | .cult node slot => nodeOk node && slotOk slot
  | .cadd node slot => nodeOk node && slotOk slot
  | .coll node slot => nodeOk node && slotOk slot
  | .nop node slot => nodeOk node && slotOk slot
  | .halt node slot => nodeOk node && slotOk slot
  | .break_ node slot => nodeOk node && slotOk slot
  | .iwr node slot => nodeOk node && slotOk slot
  | .rand node slot => nodeOk node && slotOk slot
  | .loadResponse node slot _ => nodeOk node && slotOk slot
  | .resolverAccept node => nodeOk node
  | .flipArm _ node slot _ _ => nodeOk node && slotOk slot
  | .dmaDescriptorStart node chan => nodeOk node && dmaChanOk chan
  | .dmaSegment node chan => nodeOk node && dmaChanOk chan
  | .dmaComplete node chan _ => nodeOk node && dmaChanOk chan
  | .timeSliceEnd part => partOk part
  | .switchDrained part => partOk part
  | .switchTimeout part => partOk part
  | .routerStep _ node => nodeOk node
  | .edgeReturn _ enode => edgeOk enode
  | .limiterRecovery node => nodeOk node
  | .starvationMark _ node => nodeOk node
  | .meshStopA => true
  | .meshStopB => true
  | .meshResume => true
  | .quiesceTimeout => true
  | .routerFailed _ node => nodeOk node
  | .rd node => receiverOk node
  | .wr node => receiverOk node
  | .amoPacket node => receiverOk node
  | .sig node => nodeOk node
  | .heldRequestRetry node => receiverOk node
  | .rdr node => askerOk node
  | .ack node => askerOk node
  | .amor node => nodeOk node
  | .mgtr r => mgtTagOk r.tag
  | .edgePortAccept port => portOk port
  | .portSend port => portOk port
  | .codeword port cw => portOk port && cw.wf
  | .idleFrame port => portOk port
  | .pktFrame port => portOk port
  | .pktEncFrame port => portOk port
  | .creditFrame port => portOk port
  | .linkCtlFrame port => portOk port
  | .creditReportTimer port => portOk port
  | .laneFailed port lane => portOk port && laneOk lane
  | .laneMapSwitch port => portOk port
  | .portDown port => portOk port
  | .laneRetrain port lane => portOk port && laneOk lane
  | .portUp port _ _ => portOk port
  | .rateLimitRecovery node chip => nodeOk node && chipOk chip
  | .requestTimeout node tag => nodeOk node && tagOk tag
  | .ondieTimeout node tag => askerOk node && tagOk tag
  | .tagQuarantineEnd node tag => askerOk node && tagOk tag
  | .ruChunkRead node _ _ => nodeOk node
  | .collUp unit => treeUnitOk unit
  | .collDown unit => treeUnitOk unit
  | .collArrive unit => treeUnitOk unit
  | .collRelease unit => treeUnitOk unit
  | .collAbort unit => treeUnitOk unit
  | .collr unit => treeUnitOk unit
  | .collResend unit _ => treeUnitOk unit
  | .arriveLimit node _ => nodeOk node
  | .beaconSend => true
  | .beacon port _ _ _ => portOk port
  | .electionComplete => true
  | .heartbeatSend => true
  | .heartbeat _ _ => true
  | .heartbeatLoss => true
  | .stateSync _ _ _ => true
  | .syncAckTimeout => true
  | .takeover _ chip => chipOk chip
  | .takeoverResend => true
  | .takeoverSilence chip => chipOk chip
  | .aliveSend => true
  | .alive _ chip => chipOk chip
  | .aliveTimeout => true
  | .takebackStart => true
  | .takeback x _ => chipOk x.chip
  | .probe port n => portOk port && n.wf
  | .probeReply port n => portOk port && n.wf
  | .neighbours port _ _ table _ => portOk port && table.all Neighbour.wf
  | .assign _ chip _ _ => chipOk chip
  | .portEvent x port state _ => chipOk x.chip && portOk port && portStateOk state
  | .drain _ _ slot => ctxSlotOk slot
  | .niDrainStop node _ => nodeOk node
  | .drainReport x _ _ _ _ => chipOk x.chip
  | .drainLimit _ => true
  | .install m => m.wf
  | .installDone x _ => chipOk x.chip
  | .resume _ _ slot _ => ctxSlotOk slot
  | .request x _ req => chipOk x.chip && msgOk req
  | .answer _ rsp => msgOk rsp
  | .group6WaitTimeout func chan => funcOk func && boxOk func chan
  | .sliceAbort port m => portOk port && m.wf
  | .teardownReport chip _ _ => chipOk chip
  | .abortResend _ chip => chipOk chip
  | .restart _ _ _ => true
  | .firmwareChunk node c => nodeOk node && c.wf
  | .hangSample => true
  | .resetAgentConfirm ctx unit => ctxOk ctx && engineUnitOk unit
  | .teardownDrained ctx => ctxOk ctx
  | .teardownTimeout ctx => ctxOk ctx
  | .engineResetTimeout unit => engineUnitOk unit
  | .partitionResetTimeout part => partOk part
  | .grantFillDone part => partOk part
  | .scrubDone part => partOk part
  | .patrolRead chan _ => memChanOk chan
  | .bandMove chan => memChanOk chan
  | .channelLost chan => memChanOk chan
  | .memTrainLost chan => memChanOk chan
  | .memRetrainDone chan _ => memChanOk chan
  | .mbxSend func chan _ _ => funcOk func && boxOk func chan
  | .mbxTake _ => true
  | .receiverReset _ => true
  | .resend func chan => funcOk func && boxOk func chan
  | .cancel func chan => funcOk func && boxOk func chan
  | .dbPendClear func chan _ _ _ => funcOk func && boxOk func chan
  | .dbMaskWrite func chan _ _ => funcOk func && boxOk func chan
  | .hdmaRingWrite func _ => funcOk func
  | .hdmaTailWrite func _ => funcOk func
  | .hdmaCtlWrite func _ => funcOk func
  | .hdmaDescriptorStart engine => engineOk engine
  | .hdmaComplete engine => engineOk engine
  | .hostWinCfgWrite func _ => funcOk func
  | .hostWinRead func off len => funcOk func && winOk off && accessLenOk len
  | .hostWinWrite func off data => funcOk func && winOk off && accessLenOk data.length
  | .functionLevelReset func => funcOk func
  | .hotReset => true
  | .perstN _ => true
  | .devInfo func chan => funcOk func && boxOk func chan
  | .devHealth func chan => funcOk func && boxOk func chan
  | .cfgGet func chan => funcOk func && boxOk func chan
  | .cfgStage func chan => funcOk func && boxOk func chan
  | .cfgCommit func chan => funcOk func && boxOk func chan
  | .partCreate func chan => funcOk func && boxOk func chan
  | .partDestroy func chan => funcOk func && boxOk func chan
  | .partQuery func chan => funcOk func && boxOk func chan
  | .partSetMode func chan => funcOk func && boxOk func chan
  | .ctxCreate func chan => funcOk func && boxOk func chan
  | .ctxDestroy func chan => funcOk func && boxOk func chan
  | .ctxSched func chan => funcOk func && boxOk func chan
  | .ctxResetClear func chan => funcOk func && boxOk func chan
  | .ctxResetResume func chan => funcOk func && boxOk func chan
  | .progLoad func chan => funcOk func && boxOk func chan
  | .progStart func chan => funcOk func && boxOk func chan
  | .cultureSetRegister func chan => funcOk func && boxOk func chan
  | .cultureSetWrite func chan => funcOk func && boxOk func chan
  | .memMap func chan => funcOk func && boxOk func chan
  | .memUnmap func chan => funcOk func && boxOk func chan
  | .memScrub func chan => funcOk func && boxOk func chan
  | .memRetire func chan => funcOk func && boxOk func chan
  | .sliceCreate func chan => funcOk func && boxOk func chan
  | .sliceDestroy func chan => funcOk func && boxOk func chan
  | .sliceQuery func chan => funcOk func && boxOk func chan
  | .fabricMap func chan => funcOk func && boxOk func chan
  | .fltList func chan => funcOk func && boxOk func chan
  | .fltAck func chan => funcOk func && boxOk func chan
  | .evtRead func chan => funcOk func && boxOk func chan
  | .evtMark func chan => funcOk func && boxOk func chan
  | .resetReqContext func chan => funcOk func && boxOk func chan
  | .resetReqEngine func chan => funcOk func && boxOk func chan
  | .resetReqPartition func chan => funcOk func && boxOk func chan
  | .resetReqChip func chan => funcOk func && boxOk func chan
  | .resetReqPowerCycle func chan => funcOk func && boxOk func chan
  | .serviceReturn func chan => funcOk func && boxOk func chan
  | .fwStage func chan => funcOk func && boxOk func chan
  | .fwActivateNextReset func chan => funcOk func && boxOk func chan
  | .fwActivateNow func chan => funcOk func && boxOk func chan
  | .fwQuery func chan => funcOk func && boxOk func chan
  | .attest func chan => funcOk func && boxOk func chan
  | .keyPublicGet func chan => funcOk func && boxOk func chan
  | .keyInstallModel func chan => funcOk func && boxOk func chan
  | .keyInstallLink func chan => funcOk func && boxOk func chan
  | .keyInstallImport func chan => funcOk func && boxOk func chan
  | .keyInstallExport func chan => funcOk func && boxOk func chan
  | .debugUnlock func chan => funcOk func && boxOk func chan
  | .telRead func chan => funcOk func && boxOk func chan
  | .pwrLimit func chan => funcOk func && boxOk func chan
  | .rolloverDone => true
  | .faultMessage src => srcOk src
  | .stopOverrun src => srcOk src
  | .ringStopLost src => srcOk src
  | .quietPeriod => true
  | .caveFlush _ => true
  | .caveFlushTimer => true
  | .operatingSecondsWrite => true
  | .cvBlock unit => cvOk unit
  | .cvFailed unit => cvOk unit
  | .mgmtFailover => true
  | .standbySelftestDone _ => true
  | .spareSelftest curds vats => curds.all (fun p => nodeOk p.1 && slotOk p.2) && vats.all nodeOk
  | .bootS0 _ _ _ => true
  | .bootS1 _ _ => true
  | .bootS2 _ _ _ => true
  | .bootS3 obs => obs.all (fun o => memChanOk o.chan)
  | .bootS4 => true
  | .bootS5 obs => obs.all (fun o => portOk o.port)
  | .bootS6 badCurds badVats => badCurds.all (fun p => nodeOk p.1 && slotOk p.2) && badVats.all nodeOk
  | .bootS7 => true
  | .bootS8 => true
  | .startTimeout => true
  | .bootHoldRelease => true
  | .vatBcastArm node _ => nodeOk node
  | .repairRound => true
  | .powerSample obs => obs.tj.length == 4
  | .currentFastPath _ => true
  | .thermalTrip tj => tj.length == 4
  | .standbyPowerOn => true
  | .mainPowerOn _ => true
  | .powerFail _ => true
  | .sbChipReset => true
  | .sbCaveFlush => true
  | .sbFwOpen => true
  | .sbFwCommit => true
  | .registerWrite addr _ => addr.wf
  | .postedStorePerformed node slot _ => nodeOk node && slotOk slot
  | .jtagInstruction _ => true
  | .dynamicAddressAssignment _ addr => dynAddrOk addr
  | .holdUpCharged => true
  | .holdUpExhausted => true
  | .chipNoAnswer chip => chipOk chip

end Sys2Proof
end

