-- ==== Sys2Proof/Safety.lean ====
section
/-! DEFINITION. What claims call a safe run, and the terms in which claims speak of a curd's issue: every waiting command is
well formed, and no step stops; a curd issues an instruction; a curd has retired one. -/

namespace Sys2Proof.Machine

/-- Every command that waits is well formed. -/
def State.wellFormed (s : State) : Prop := ∀ c ∈ s.pending, Instr.wf c = true

/-- The step answers a next state. -/
def State.runs (s : State) : Prop := ∃ t, step s = .next t

/-- A command answers a next state: the commands that wait are as they were, and `p` holds of the module. -/
def Completes (c : Instr) (s : State) (p : Dev → Prop) : Prop := ∃ t, exec c s = .next t ∧ t.pending = s.pending ∧ p t.dev

/-- The curd at a node and slot issues the instruction `i`: it is in RUN or WAIT, its core rail is up, the word at its pc reads as `i`,
and no load still owes it a register. `d` is the module then: after the fetch (a corrected word is written back) and the steps the
instruction waits for results of fixed latency (03_curd_core.md R74, R75). -/
def Issues (s : State) (node slot : Nat) (i : CurdInstr) (d : Dev) : Prop :=
  (s.dev.curd (curdKey node slot)).issuing = true ∧ s.dev.pwr.coreMv ≠ 0 ∧
    (∃ e, s.dev.fetch node slot = (e, .ok i) ∧ d = e.setCurd (curdKey node slot) ((e.curd (curdKey node slot)).stalled i)) ∧
    (d.curd (curdKey node slot)).regHolds i = false

/-- What the instruction at the pc leaves to become ready later (03_curd_core.md R75). -/
def latencyAt (s : State) (node slot : Nat) : List (Nat × Nat) :=
  match s.dev.fetch node slot with
  | (e, .ok i) => ((e.curd (curdKey node slot)).stalled i).latency i
  | _ => []

/-- A curd after it retires an instruction of `cost` steps with the registers `r`: the pc moves, the step counters count, a blocked
WAIT is over, results of a latency above 1 become ready later (03_curd_core.md R75, R77, R117). -/
def retiredCurd (c : Curd) (lat : List (Nat × Nat)) (r : CurdRegs) (pc : BitVec 12) (cost : Nat) : Curd :=
  { c with st := if c.st = .wait then .run else c.st, waitK := none, clock := c.clock + cost,
           ready := readyAfter c.ready c.clock (c.clock + cost) lat, r := { (r.perfAdd 0 1).perfAdd 1 cost with pc := pc } }

/-- The state after it: no other unit and no command changes. -/
def retired (s : State) (node slot : Nat) (d : Dev) (r : CurdRegs) (pc : BitVec 12) (cost : Nat) : State :=
  { s with dev := d.setCurd (curdKey node slot) (retiredCurd (d.curd (curdKey node slot)) (latencyAt s node slot) r pc cost) }

/-- The registers of the curd, and its next pc. -/
def regsOf (d : Dev) (node slot : Nat) : CurdRegs := (d.curd (curdKey node slot)).r

/-- The row of the table that a load, a store, is. -/
def LoadOp.row : LoadOp → Nat → Nat → Instr
  | .b => .ldb | .h => .ldh | .w => .ldw | .d => .ldd | .bu => .ldbu | .hu => .ldhu | .wu => .ldwu

def StoreOp.row : StoreOp → Nat → Nat → Instr
  | .b => .stb | .h => .sth | .w => .stw | .d => .std

/-- A curd stopped by a fault: FAULTED, its pc as it was, the first fault since it left IDLE kept (03_curd_core.md R77, R113, R120). -/
def FaultedBy (c c' : Curd) (cause : Nat) (pc : BitVec 12) (addr : Nat) : Prop :=
  c'.st = .faulted ∧ c'.r.pc = c.r.pc ∧ c'.r.g = c.r.g ∧
    (c.r.fault.toNat % 256 = 0 →
      c'.r.fault = BitVec.ofNat 64 (cause + 256 * pc.toNat) ∧ c'.r.faultAddr = BitVec.ofNat 64 addr) ∧
    (c.r.fault.toNat % 256 ≠ 0 → c'.r.fault = c.r.fault ∧ c'.r.faultAddr = c.r.faultAddr)

/-- The least key of a set, if it has one (09_fabric_manager.md R267). -/
def LeastKey (S : ElKey → Prop) : Option ElKey → Prop
  | none => ∀ k, ¬ S k
  | some m => S m ∧ ∀ k, S k → k = m ∨ keyLt m k = true

/-- The module after a WR has stored its bytes at a controller: a collective of the context whose result this is takes note of a
write that came over the mesh from an engine (08_collectives.md R260). -/
def collNoted (q : Flit) (x : Landing) (d : Dev) : Dev :=
  match x with
  | .ext _ _ => if isService q || fromHost q then d else d.collWritten q.ctx.toNat (bits q.addr.toNat 42 0) q.bytes.toNat
  | _ => d

/-- A Rennet message is ACTIVE at a channel, has not begun, and passes the device's state, its column and its framing: its row carries it out (12_rennet.md R358, R359, R378). -/
def Begins (s : State) (f key op : Nat) (m : List Byte) : Prop :=
  (s.dev.mbx f key).orphan = none ∧ (s.dev.mbx f key).st = 2 ∧ (s.dev.mbx f key).begun = false ∧ (s.dev.mbx f key).msg = m ∧ leAt m 0 2 = op ∧
    s.dev.stateAnswer op = none ∧ (physOnly op = true → f = 0) ∧ framing m (s.dev.mbx f key).len = none

/-- A chip reset has taken place: the start is back at stage S0, the blocks are at reset, the agent has no role and the receivers are down (14_recovery.md R417). -/
def ChipWasReset (e : Dev) (cause : Nat) : Prop :=
  e.boot.stage = 0 ∧ e.boot.chipResetting = true ∧ e.boot.failed = false ∧ e.rrc.lastLevel = 3 ∧ e.rrc.lastCause = cause ∧ e.rrc.standbyOk = false ∧
    (∀ k, (e.curd k).st = .idle) ∧ e.mesh = Mesh.init ∧ e.coll = [] ∧ e.cv = [] ∧ e.fm.role = 0 ∧ e.fm.control = false ∧ e.host.recvUp = false ∧ e.host.recvUpSec = false

/-- The rows that carry out Rennet commands: row, mailbox key of its channel, opcode, and which messages of the opcode are the row's (12_rennet.md R358, R362-R374). -/
def commandRows (d : Dev) (f c : Nat) : List (Instr × Nat × Nat × (List Byte → Bool)) :=
  [(.devInfo f c, c, 0x0101, fun _ => true), (.devHealth f c, c, 0x0102, fun _ => true), (.cfgGet f c, c, 0x0103, fun _ => true), (.cfgStage f c, c, 0x0104, fun _ => true),
   (.cfgCommit f c, c, 0x0105, fun _ => true), (.partCreate f c, c, 0x0201, fun _ => true), (.partDestroy f c, c, 0x0202, fun _ => true), (.partQuery f c, c, 0x0203, fun _ => true),
   (.partSetMode f c, c, 0x0204, fun _ => true), (.ctxCreate f c, c, 0x0301, fun _ => true), (.ctxDestroy f c, c, 0x0302, fun _ => true), (.ctxSched f c, c, 0x0303, fun _ => true),
   (.ctxResetClear f c, c, 0x0304, fun m => leAt m 10 1 != 1), (.ctxResetResume f c, c, 0x0304, fun m => leAt m 10 1 == 1), (.progLoad f c, c, 0x0401, fun _ => true),
   (.progStart f c, c, 0x0402, fun _ => true), (.cultureSetRegister f c, c, 0x0403, fun m => leAt m 10 1 != 1), (.cultureSetWrite f c, c, 0x0403, fun m => leAt m 10 1 == 1),
   (.memMap f c, c, 0x0501, fun _ => true), (.memUnmap f c, c, 0x0502, fun _ => true), (.memScrub f c, c, 0x0503, fun _ => true), (.memRetire f c, c, 0x0504, fun _ => true),
   (.sliceCreate f c, c, 0x0601, fun _ => true), (.sliceDestroy f c, c, 0x0602, fun _ => true), (.sliceQuery f c, c, 0x0603, fun _ => true), (.fabricMap f c, c, 0x0604, fun _ => true),
   (.fltList f c, c, 0x0701, fun _ => true), (.fltAck f c, c, 0x0702, fun _ => true), (.evtRead f c, c, 0x0703, fun _ => true), (.evtMark f c, c, 0x0704, fun _ => true),
   (.resetReqContext f c, c, 0x0801, fun m => leAt m 8 1 == 0), (.resetReqEngine f c, c, 0x0801, fun m => leAt m 8 1 == 1), (.resetReqPartition f c, c, 0x0801, fun m => leAt m 8 1 == 2),
   (.resetReqChip f c, c, 0x0801, fun m => leAt m 8 1 == 3), (.resetReqPowerCycle f c, c, 0x0801, fun m => leAt m 8 1 == 4), (.serviceReturn f c, c, 0x0802, fun _ => true),
   (.fwStage f c, c, 0x0901, fun _ => true), (.fwActivateNextReset f c, c, 0x0902, fun m => leAt m 9 1 != 1), (.fwActivateNow f c, c, 0x0902, fun m => leAt m 9 1 == 1),
   (.fwQuery f c, c, 0x0903, fun _ => true), (.attest f c, 8 + c, 0x0A01, fun _ => true), (.keyPublicGet f c, 8 + c, 0x0A02, fun _ => true),
   (.keyInstallModel f c, 8 + c, 0x0A03, fun m => envelopeKind d m == 0), (.keyInstallLink f c, 8 + c, 0x0A03, fun m => envelopeKind d m == 1),
   (.keyInstallImport f c, 8 + c, 0x0A03, fun m => envelopeKind d m == 2), (.keyInstallExport f c, 8 + c, 0x0A03, fun m => envelopeKind d m == 3),
   (.debugUnlock f c, 8 + c, 0x0A04, fun _ => true), (.telRead f c, c, 0x0B01, fun _ => true), (.pwrLimit f c, c, 0x0B02, fun _ => true)]

end Sys2Proof.Machine
end

