-- ==== Sys2Proof/Certificates/Slice0/Obligations.lean ====
section
/-! DEFINITION. The statements for the provers, family by family: the curd, the units beside it, the mesh and the links, collectives,
the fabric manager, resets, memory, the host, the Rennet commands, the start and the module; then what holds of every step. -/

open Sys2Proof Sys2Proof.Machine

/-- 03_curd_core.md R83-R85. Every scalar row writes its function of the registers to its destination (a write to g0 is discarded), moves the pc
by one, and changes nothing else. -/
def Obligations.ScalarRowsWriteOneRegister : Prop :=
  ∀ (s : State) (node slot : Nat) (d : Dev) (rd ra : Reg),
    let r := regsOf d node slot
    let t (x : Word) (cost : Nat) := Host.Outcome.next (φ := Fault) (ρ := Refusal) (retired s node slot d (r.setG rd x) (r.pc + 1) cost)
    (∀ op rb, Issues s node slot (.alu op rd ra rb) d →
      exec (.alu node slot) s =
        t (aluFn op (r.getG ra) (r.getG rb)) (match op with | .div | .divu | .rem | .remu => 34 | _ => 1)) ∧
    (∀ k, Issues s node slot (.imm .addi rd ra k) d → exec (.addi node slot) s = t (r.getG ra + k.signExtend 64) 1) ∧
    (∀ k, Issues s node slot (.imm .andi rd ra k) d → exec (.andi node slot) s = t (r.getG ra &&& k.setWidth 64) 1) ∧
    (∀ k, Issues s node slot (.imm .ori rd ra k) d → exec (.ori node slot) s = t (r.getG ra ||| k.setWidth 64) 1) ∧
    (∀ k, Issues s node slot (.imm .xori rd ra k) d → exec (.xori node slot) s = t (r.getG ra ^^^ k.setWidth 64) 1) ∧
    (∀ k, Issues s node slot (.imm .slti rd ra k) d →
      exec (.slti node slot) s = t (if (r.getG ra).toInt < k.toInt then 1 else 0) 1) ∧
    (∀ n, Issues s node slot (.shi .left rd ra n) d → exec (.shi node slot) s = t (r.getG ra <<< n.toNat) 1) ∧
    (∀ n, Issues s node slot (.shi .right rd ra n) d → exec (.shi node slot) s = t (r.getG ra >>> n.toNat) 1) ∧
    (∀ n, Issues s node slot (.shi .arith rd ra n) d → exec (.shi node slot) s = t ((r.getG ra).sshiftRight n.toNat) 1) ∧
    (∀ n, Issues s node slot (.shi .rotate rd ra n) d → exec (.shi node slot) s = t ((r.getG ra).rotateRight n.toNat) 1) ∧
    (∀ h k, Issues s node slot (.movz rd h k) d → exec (.movz node slot) s = t (k.setWidth 64 <<< (16 * h.toNat)) 1) ∧
    (∀ h k, Issues s node slot (.movk rd h k) d →
      exec (.movk node slot) s =
        t ((r.getG rd &&& ~~~((0xFFFF : Word) <<< (16 * h.toNat))) ||| (k.setWidth 64 <<< (16 * h.toNat))) 1)

/-- 03_curd_core.md R73, R75, R83. A branch goes to pc plus its offset when its condition holds, at a cost of 2, else on to pc + 1; a jump writes
pc + 1 to its link register. The registers keep their values otherwise. -/
def Obligations.BranchAndJumpRowsSetThePc : Prop :=
  ∀ (s : State) (node slot : Nat) (d : Dev) (ra rb : Reg) (off : Imm),
    let r := regsOf d node slot
    let a := r.getG ra
    let b := r.getG rb
    let t (taken : Bool) : Host.Outcome State Fault Refusal :=
      if taken then .next (retired s node slot d r (r.pc + BitVec.ofInt 12 off.toInt) 2) else .next (retired s node slot d r (r.pc + 1) 1)
    (Issues s node slot (.branch .eq ra rb off) d → exec (.beq node slot) s = t (decide (a = b))) ∧
    (Issues s node slot (.branch .ne ra rb off) d → exec (.bne node slot) s = t (decide (a ≠ b))) ∧
    (Issues s node slot (.branch .lt ra rb off) d → exec (.blt node slot) s = t (decide (a.toInt < b.toInt))) ∧
    (Issues s node slot (.branch .ge ra rb off) d → exec (.bge node slot) s = t (decide (b.toInt ≤ a.toInt))) ∧
    (Issues s node slot (.branch .ltu ra rb off) d → exec (.bltu node slot) s = t (decide (a.toNat < b.toNat))) ∧
    (Issues s node slot (.branch .geu ra rb off) d → exec (.bgeu node slot) s = t (decide (b.toNat ≤ a.toNat))) ∧
    (∀ target, Issues s node slot (.jal ra target) d →
      exec (.jal node slot) s = .next (retired s node slot d (r.setG ra (BitVec.ofNat 64 (r.pc.toNat + 1))) target 2)) ∧
    (∀ k, Issues s node slot (.jalr ra rb k) d →
      exec (.jalr node slot) s =
        .next (retired s node slot d (r.setG ra (BitVec.ofNat 64 (r.pc.toNat + 1)))
          (BitVec.ofNat 12 ((b + k.signExtend 64).toNat % 4096)) 2))

/-- 03_curd_core.md R74, R80, R86, R99, R102, R111-R115, 04_arithmetic.md R130, 13_security.md R405. CSRR reads a control register; CSRW of CRD_Kk writes its value and clears the code bits
written with ones; a generator write never leaves the generator at 0, and a generator access waits for a queued stochastic TST; CADD adds to a counter; NOP does nothing; BREAK stops the curd
when curd debug is unlocked and its partition is not confidential, and is a NOP otherwise; RAND takes one draw. -/
def Obligations.ControlRowsOfACurd : Prop :=
  ∀ (s : State) (node slot : Nat) (d : Dev) (ra : Reg),
    let c := d.curd (curdKey node slot)
    let r := c.r
    let t (r' : CurdRegs) : Host.Outcome State Fault Refusal := .next (retired s node slot d r' (r.pc + 1) 1)
    (∀ n, (n = 0x20 ∨ n = 0x21 → c.tensorDraws = false) → Issues s node slot (.csrr ra n) d →
      exec (.csrr node slot) s = t (r.setG ra (d.csrRead node slot n.toNat))) ∧
    (∀ n, n = 0x20 ∨ n = 0x21 → c.tensorDraws = true → ∀ row i, (row, i) = (Instr.csrr node slot, CurdInstr.csrr ra n) ∨ (row, i) = (.csrw node slot, .csrw ra n) →
      Issues s node slot i d → ∃ u, exec row s = .next u ∧ (regsOf u.dev node slot).pc = r.pc ∧ (regsOf u.dev node slot).g = r.g ∧
        (regsOf u.dev node slot).rng0 = r.rng0 ∧ (regsOf u.dev node slot).rng1 = r.rng1) ∧
    (∀ k : KNum, Issues s node slot (.csrw ra (0x10 + k.setWidth 8)) d →
      exec (.csrw node slot) s = t
        { r with kval := smSet 0 r.kval k.toNat (BitVec.ofNat 32 (r.getG ra).toNat)
                 kcode := smSet 0 r.kcode k.toNat
                   (smGet 0 r.kcode k.toNat &&& ~~~(BitVec.ofNat 8 ((r.getG ra).toNat / 2 ^ 32 % 256))) }) ∧
    (Issues s node slot (.csrw ra 0x20) d → c.tensorDraws = false →
      exec (.csrw node slot) s = t { r with rng0 := if r.getG ra = 0 ∧ r.rng1 = 0 then 1 else r.getG ra }) ∧
    (Issues s node slot (.csrw ra 0x21) d → c.tensorDraws = false →
      exec (.csrw node slot) s = t { r with rng1 := r.getG ra, rng0 := if r.getG ra = 0 ∧ r.rng0 = 0 then 1 else r.rng0 }) ∧
    (∀ n, n.toNat < 0x10 ∨ 0x22 ≤ n.toNat → Issues s node slot (.csrw ra n) d → exec (.csrw node slot) s = t r) ∧
    (∀ k, Issues s node slot (.cadd ra k) d →
      exec (.cadd node slot) s =
        t { r with kval := smSet 0 r.kval k.toNat (smGet 0 r.kval k.toNat + BitVec.ofNat 32 (r.getG ra).toNat) }) ∧
    (Issues s node slot .nop d → exec (.nop node slot) s = t r) ∧
    (Issues s node slot .brk d → (bit d.sec.debugScope 1 = false ∨ ∃ p, d.partOf node = some p ∧ (d.part p).conf = true) →
      exec (.break_ node slot) s = t r) ∧
    (Issues s node slot .brk d → bit d.sec.debugScope 1 = true → (∀ p, d.partOf node = some p → (d.part p).conf = false) →
      ∃ u, exec (.break_ node slot) s = .next u ∧ (u.dev.curd (curdKey node slot)).st = .stopped ∧
        (regsOf u.dev node slot).pc = r.pc + 1 ∧ (regsOf u.dev node slot).g = r.g) ∧
    (Issues s node slot (.rand ra) d → c.tensorDraws = false →
      exec (.rand node slot) s =
        t ({ r with rng0 := (rngNext r.rng0 r.rng1).2.1, rng1 := (rngNext r.rng0 r.rng1).2.2 }.setG ra (rngNext r.rng0 r.rng1).1))

/-- 03_curd_core.md R78. HALT leaves the curd HALTED with its registers, and every other curd as it was. -/
def Obligations.HaltEndsTheProgramOfACurd : Prop :=
  ∀ (s : State) (node slot : Nat) (d : Dev), Issues s node slot .halt d →
    ∃ t, exec (.halt node slot) s = .next t ∧ (t.dev.curd (curdKey node slot)).st = .halted ∧
      (regsOf t.dev node slot).g = (regsOf d node slot).g ∧ (regsOf t.dev node slot).v = (regsOf d node slot).v ∧
      (regsOf t.dev node slot).kval = (regsOf d node slot).kval ∧
      (∀ k, k ≠ curdKey node slot → t.dev.curd k = d.curd k) ∧ t.dev.vats = d.vats ∧ t.dev.nis = d.nis ∧
      t.dev.ext = d.ext

/-- 03_curd_core.md R103. WAIT returns a failure code first; else 0 once the counter has reached the target; else the curd goes to WAIT and its pc
stays. -/
def Obligations.WaitReadsACounterOrBlocks : Prop :=
  ∀ (s : State) (node slot : Nat) (d : Dev) (rd ra : Reg) (k : KNum), Issues s node slot (.wait rd ra k) d →
    let c := d.curd (curdKey node slot)
    let code := smGet 0 c.r.kcode k.toNat
    let val := smGet 0 c.r.kval k.toNat
    let target : Word32 := BitVec.ofNat 32 (c.r.getG ra).toNat
    (code ≠ 0 → exec (.wait node slot) s = .next (retired s node slot d (c.r.setG rd (code.setWidth 64)) (c.r.pc + 1) 1)) ∧
    (code = 0 → 0 ≤ (val - target).toInt →
      exec (.wait node slot) s = .next (retired s node slot d (c.r.setG rd 0) (c.r.pc + 1) 1)) ∧
    (code = 0 → (val - target).toInt < 0 → ∃ t, exec (.wait node slot) s = .next t ∧
      (t.dev.curd (curdKey node slot)).st = .wait ∧ (t.dev.curd (curdKey node slot)).waitK = some k.toNat ∧
      (regsOf t.dev node slot).pc = c.r.pc ∧ (regsOf t.dev node slot).g = c.r.g)

/-- 03_curd_core.md R83, R88, 04_arithmetic.md R131, R132, R138. The vector rows write one vector register (or one scalar register), lane by lane. -/
def Obligations.VectorRowsWriteOneRegister : Prop :=
  ∀ (s : State) (node slot : Nat) (d : Dev) (vd va vb : VReg) (gs : Reg),
    let c := d.curd (curdKey node slot)
    let r := c.r
    let t (r' : CurdRegs) : Host.Outcome State Fault Refusal := .next (retired s node slot d r' (r.pc + 1) 1)
    let lane (v : VReg) (i : Nat) : Word32 := smGet 0 r.v (32 * v.toNat + i)
    let g32 : Word32 := BitVec.ofNat 32 (r.getG gs).toNat
    let lanes (f : Nat → Word32) : List Word32 := (List.range 32).map f
    (∀ op, Issues s node slot (.vop op false vd va vb gs) d →
      exec (.vop node slot) s = t (r.setV vd (lanes (fun i => vopLane op (lane va i) (lane vb i) (lane vd i))))) ∧
    (∀ op, Issues s node slot (.vop op true vd va vb gs) d →
      exec (.vop node slot) s = t (r.setV vd (lanes (fun i => vopLane op (lane va i) g32 (lane vd i))))) ∧
    (∀ op, Issues s node slot (.vred op va gs) d →
      exec (.vred node slot) s = t (r.setG gs ((vredFn op (lanes (lane va))).setWidth 64))) ∧
    (Issues s node slot (.vsplat vd gs) d → exec (.vmovSplat node slot) s = t (r.setV vd (lanes (fun _ => g32)))) ∧
    (Issues s node slot (.vextract va vb gs) d →
      exec (.vmovExtract node slot) s = t (r.setG gs ((lane va ((lane vb 0).toNat % 32)).setWidth 64))) ∧
    (Issues s node slot (.vpermute vd va vb) d →
      exec (.vmovPermute node slot) s = t (r.setV vd (lanes (fun i => lane va ((lane vb i).toNat % 32))))) ∧
    (∀ f inf group, Issues s node slot (.vcvt true f false inf vd va group gs) d →
      exec (.vcvtWiden node slot) s = t (r.setV vd (lanes (fun i =>
        widenLane f inf (if gs = 0 then .fin 1 0 else f32 g32) (lanesNat (lanes (lane va))) (group.toNat * 32 * f.width) i)))) ∧
    (∀ f rnd inf group, Issues s node slot (.vcvt false f rnd inf vd va group gs) d → (rnd = true → c.tensorDraws = false) →
      let x := narrowLanes f rnd inf (if gs = 0 then .fin 1 0 else f32 g32) (group.toNat * 32 * f.width) (lanes (lane va)) 0
        (lanesNat (lanes (lane vd))) (r.rng0, r.rng1)
      exec (.vcvtNarrow node slot) s =
        t ({ r with rng0 := x.2.1, rng1 := x.2.2 }.setV vd (natLanes 32 x.1)))

/-- 03_curd_core.md R76, R83, R90, R97, 02_programming_model.md R63. A load of local data memory writes its register at once with the bytes read there, extended as
its row says, unless an own access is still to be performed; then, and always in the vat's reserved store, it is added to the curd's loads and
answers later; a misaligned one stops the curd with 0x03. -/
def Obligations.LoadRowsReadLocalMemory : Prop :=
  ∀ (s : State) (node slot : Nat) (d : Dev) (op : LoadOp) (rd ra : Reg) (k : Imm), Issues s node slot (.load op rd ra k) d →
    let c := d.curd (curdKey node slot)
    let a := (c.r.getG ra + k.signExtend 64).toNat
    let later (a : Nat) (p : Place) : Prop := ∃ t, exec (op.row node slot) s = .next t ∧ (regsOf t.dev node slot).pc = c.r.pc + 1 ∧
      (regsOf t.dev node slot).g = c.r.g ∧ t.dev.vats = d.vats ∧
      (t.dev.curd (curdKey node slot)).loads = c.loads ++
        [{ ord := c.ord, pc := c.r.pc, addr := a, kind := .scalar rd.toNat op.size op.signed, place := p, sent := false, resp := none }]
    (a % op.size ≠ 0 → ∃ t, exec (op.row node slot) s = .next t ∧
      FaultedBy c (t.dev.curd (curdKey node slot)) 0x03 c.r.pc a) ∧
    (a % op.size = 0 → a < 0x10000 → c.storeHolds a op.size = false → c.tensorHolds a op.size false = false → c.ownPending = false →
      ∀ d' bs, d.ldmRead node slot a op.size = (d', some bs) →
        exec (op.row node slot) s = .next (retired s node slot d'
          ((regsOf d' node slot).setG rd (extendTo64 op.size op.signed (leNat bs))) ((regsOf d' node slot).pc + 1) 1)) ∧
    (a % op.size = 0 → 0x01000000 ≤ a → a + op.size ≤ 0x01000000 + 4096 * (d.vat node).reserve → a < 0x01080000 →
      c.storeHolds a op.size = false → c.tensorHolds a op.size false = false → later a (.vs node (a - 0x01000000))) ∧
    (a % op.size = 0 → a < 0x10000 → c.storeHolds a op.size = false → c.tensorHolds a op.size false = false → c.ownPending = true →
      later a (.ldm node slot a))

/-- 03_curd_core.md R76, R83, R89, R97, 02_programming_model.md R63. A store to local data memory is performed at once, unless an own access is still to be performed: then it
takes its turn; to the vat's reserved store it is posted, unless eight wait. -/
def Obligations.StoreRowsWriteLocalMemory : Prop :=
  ∀ (s : State) (node slot : Nat) (d : Dev) (op : StoreOp) (rs ra : Reg) (k : Imm), Issues s node slot (.store op rs ra k) d →
    let c := d.curd (curdKey node slot)
    let a := (c.r.getG ra + k.signExtend 64).toNat
    let bs := leBytes op.size (c.r.getG rs).toNat
    let posted (a : Nat) (p : Place) : Prop := ∃ t, exec (op.row node slot) s = .next t ∧ (regsOf t.dev node slot).pc = c.r.pc + 1 ∧
      (regsOf t.dev node slot).g = c.r.g ∧ t.dev.vats = d.vats ∧
      (t.dev.curd (curdKey node slot)).stores = c.stores ++
        [{ ord := c.ord, addr := a, data := bs, place := p, sent := false, resp := none }]
    (a % op.size ≠ 0 → ∃ t, exec (op.row node slot) s = .next t ∧
      FaultedBy c (t.dev.curd (curdKey node slot)) 0x03 c.r.pc a) ∧
    (a % op.size = 0 → a < 0x10000 → c.tensorHolds a op.size true = false → c.ownPending = false →
      let d' := (d.ldmWrite node slot a bs).1
      exec (op.row node slot) s = .next (retired s node slot d' (regsOf d' node slot) (c.r.pc + 1) 1)) ∧
    (a % op.size = 0 → 0x01000000 ≤ a → a + op.size ≤ 0x01000000 + 4096 * (d.vat node).reserve → a < 0x01080000 →
      c.tensorHolds a op.size true = false → c.postedStores < 8 → posted a (.vs node (a - 0x01000000))) ∧
    (a % op.size = 0 → a < 0x10000 → c.tensorHolds a op.size true = false → c.ownPending = true → posted a (.ldm node slot a)) ∧
    (a % op.size = 0 → 0x01000000 ≤ a → a + op.size ≤ 0x01000000 + 4096 * (d.vat node).reserve → a < 0x01080000 →
      8 ≤ c.postedStores → ∃ t, exec (op.row node slot) s = .next t ∧ (regsOf t.dev node slot).pc = c.r.pc ∧
        (t.dev.curd (curdKey node slot)).stores = c.stores)

/-- 03_curd_core.md R83, R86, R87, R89. VLD, VST, AMO and IWR on local data memory. -/
def Obligations.WideRowsAccessLocalMemory : Prop :=
  ∀ (s : State) (node slot : Nat) (d : Dev),
    let c := d.curd (curdKey node slot)
    (∀ v ra k, Issues s node slot (.vld v ra k) d →
      let a := (c.r.getG ra + k.signExtend 64).toNat
      a % 128 = 0 → a < 0x10000 → c.storeHolds a 128 = false → c.tensorHolds a 128 false = false → c.ownPending = false →
      ∀ d' bs, d.ldmRead node slot a 128 = (d', some bs) →
        exec (.vld node slot) s = .next (retired s node slot d'
          ((regsOf d' node slot).setV v (bytesWords 32 bs)) ((regsOf d' node slot).pc + 1) 1)) ∧
    (∀ v ra k, Issues s node slot (.vst v ra k) d →
      let a := (c.r.getG ra + k.signExtend 64).toNat
      a % 128 = 0 → a < 0x10000 → c.tensorHolds a 128 true = false → c.ownPending = false →
      let d' := (d.ldmWrite node slot a ((c.r.getV v).flatMap (fun x => leBytes 4 x.toNat))).1
      exec (.vst node slot) s = .next (retired s node slot d' (regsOf d' node slot) (c.r.pc + 1) 1)) ∧
    (∀ op wide rd ra rb, Issues s node slot (.amo op wide rd ra rb) d →
      let n := if wide then 8 else 4
      let a := (c.r.getG ra).toNat
      a % n = 0 → a < 0x10000 → c.storeHolds a n = false → c.tensorHolds a n true = false → c.ownPending = false →
      ∀ d1 old, d.ldmRead node slot a n = (d1, some old) →
        let new := amoFn op (8 * n) (leNat old) ((c.r.getG rb).toNat % 2 ^ (8 * n)) ((c.r.getG rd).toNat % 2 ^ (8 * n))
        let d2 := (d1.ldmWrite node slot a (leBytes n new)).1
        exec (.amo node slot) s = .next (retired s node slot d2
          ((regsOf d2 node slot).setG rd (BitVec.ofNat 64 (leNat old))) ((regsOf d2 node slot).pc + 1) 1)) ∧
    (∀ ra rb, Issues s node slot (.iwr ra rb) d →
      let a := (c.r.getG ra).toNat
      let off := (c.r.getG rb).toNat % 16384
      a % 128 = 0 → off % 128 = 0 → a < 0x10000 → c.storeHolds a 128 = false → c.tensorHolds a 128 true = false →
      ∀ d1 bs, d.ldmRead node slot a 128 = (d1, some bs) →
        let d2 := (d1.isWrite node slot off bs).1
        exec (.iwr node slot) s = .next (retired s node slot d2 (regsOf d2 node slot) (c.r.pc + 1) 64))

/-- 05_local_memory.md R141, R149. Where no word of a block has flipped bits and no flip is armed, local data memory reads what was last written, and a
write changes only the bytes it names. -/
def Obligations.LocalDataMemoryHoldsItsBytes : Prop :=
  ∀ (d : Dev) (node slot a : Nat) (bs : List Byte) (b : Nat),
    let c := d.curd (curdKey node slot)
    c.ldmErr = [] → c.ldmFlip.arm = false →
      d.ldmRead node slot a bs.length = (d.setCurd (curdKey node slot) c, some (memRead c.ldm a bs.length)) ∧
      let d' := (d.ldmWrite node slot a bs).1
      memRead (d'.curd (curdKey node slot)).ldm a bs.length = bs ∧
      (b < a ∨ a + bs.length ≤ b → smGet 0 (d'.curd (curdKey node slot)).ldm b = smGet 0 c.ldm b) ∧
      (regsOf d' node slot) = c.r ∧ (∀ j, j ≠ curdKey node slot → d'.curd j = d.curd j)

/-- 03_curd_core.md R76, R90, R121, 05_local_memory.md R147, R152. Pending accesses complete: a load's answer, read there or brought by the reply to its line
request, lands in its register, an error faults the curd with 0x05, a posted store's bytes land and free its place,
the resolver's oldest access leaves its queue with its place, and a flip register arms. -/
def Obligations.PendingAccessesComplete : Prop :=
  ∀ (s : State) (node slot idx : Nat),
    let d := s.dev
    let key := curdKey node slot
    let c := d.curd key
    (∀ l, c.loads[idx]? = some l → l.place.known = true → c.inOrder l.ord l.addr = true → d.peerFenced l.addr l.place = false →
      l.byLine = false → l.resp = none → ∀ d' bs, (d.setCurd key { c with loads := c.loads.eraseIdx idx }).loadAnswer node l = (d', some bs) →
        ∃ t, exec (.loadResponse node slot idx) s = .next t ∧
          regsOf t.dev node slot = (regsOf d' node slot).land l.kind bs ∧
          (t.dev.curd key).loads = (d'.curd key).loads ∧ t.dev.vats = d'.vats ∧ t.dev.ext = d'.ext) ∧
    (∀ l bs, c.loads[idx]? = some l → l.place.known = true → c.inOrder l.ord l.addr = true → d.peerFenced l.addr l.place = false → l.resp = some (some bs) →
      ∃ t, exec (.loadResponse node slot idx) s = .next t ∧ regsOf t.dev node slot = c.r.land l.kind bs ∧
        (t.dev.curd key).loads = c.loads.eraseIdx idx ∧ t.dev.vats = d.vats ∧ t.dev.ext = d.ext) ∧
    (∀ l, c.loads[idx]? = some l → l.place.known = true → c.inOrder l.ord l.addr = true → d.peerFenced l.addr l.place = false → l.resp = some none →
      ∃ t, exec (.loadResponse node slot idx) s = .next t ∧ FaultedBy c (t.dev.curd key) 0x05 l.pc l.addr) ∧
    (∀ w off, c.stores[idx]? = some w → w.place = .vs node off → w.resp = none → c.inOrder w.ord w.addr = true →
      ∃ t, exec (.postedStorePerformed node slot idx) s = .next t ∧
        (t.dev.curd key).stores = c.stores.eraseIdx idx ∧ (t.dev.curd key).loads = c.loads ∧ regsOf t.dev node slot = c.r ∧
        ((d.vat node).vsErr = [] → (d.vat node).vsFlip.arm = false →
          (t.dev.vat node).vs = memWrite (d.vat node).vs off w.data)) ∧
    (∀ a rest off p, (d.vat node).rq = a :: rest → (d.curd (curdKey node a.slot)).windowOf a.ord = some off →
      d.resolve node a.slot off = some p →
      ∃ t, exec (.resolverAccept node) s = .next t ∧ (t.dev.vat node).rq = rest ∧
        t.dev.curd (curdKey node a.slot) = (d.curd (curdKey node a.slot)).placed a.ord p) ∧
    (∀ blk data chk, d.flipOpen blk node slot = true →
      ∃ t, exec (.flipArm blk node slot data chk) s = .next t ∧
        t.dev.getFlip blk node slot = { data := data, chk := chk, arm := true }) ∧
    (∀ blk data chk, d.flipOpen blk node slot = false → exec (.flipArm blk node slot data chk) s = .next s)

/-- 03_curd_core.md R91, R93, R95-R97. Issue of a tensor instruction: with its buffers aligned to 64 bytes, local and free of pending stores, it joins the
queue of two behind the executing one, its addresses captured; the registers and the tiles stay. With the queue full it waits. -/
def Obligations.TensorRowsJoinTheQueue : Prop :=
  ∀ (s : State) (node slot : Nat) (d : Dev),
    let key := curdKey node slot
    let c := d.curd key
    let joins (i : CurdInstr) (row : Instr) (op : TOp) (spans : List (Nat × Nat)) : Prop :=
      Issues s node slot i d →
        (∀ x ∈ spans, x.1 % 64 = 0 ∧ d.bufferOk node slot x.1 x.2 = true) →
        ((∀ x ∈ spans, c.storeHolds x.1 x.2 = false) → c.tq.length < 3 → ∃ t, exec row s = .next t ∧
          (t.dev.curd key).tq = c.tq ++ [{ op := op, pc := c.r.pc }] ∧ regsOf t.dev node slot =
            { ((c.r.perfAdd 0 1).perfAdd 1 1) with pc := c.r.pc + 1 } ∧ t.dev.vats = d.vats ∧ t.dev.ext = d.ext) ∧
        (3 ≤ c.tq.length → ∃ t, exec row s = .next t ∧ (t.dev.curd key).tq = c.tq ∧ (regsOf t.dev node slot).pc = c.r.pc)
    let g (r : Reg) : Nat := (c.r.getG r).toNat
    (∀ t f ga gb clr comp inf,
      joins (.tmma t f ga gb clr comp inf) (.tmma node slot) (.tmma t.toNat f.code (g ga) (g gb) clr comp inf)
        [(g ga, f.footprint), (g gb, f.footprint)]) ∧
    (∀ t ga, joins (.tld t ga) (.tld node slot) (.tld t.toNat (g ga)) [(g ga, 1024)]) ∧
    (∀ t f ga rnd comp inf clr,
      joins (.tst t f ga rnd comp inf clr) (.tst node slot) (.tst t.toNat f.code (g ga) rnd comp inf clr)
        [(g ga, 256 * f.tstBytes)]) ∧
    (∀ t u, joins (.topClear t u) (.topClear node slot) (.clear t.toNat) []) ∧
    (∀ t u, joins (.topCopy t u) (.topCopy node slot) (.copy t.toNat u.toNat) []) ∧
    (∀ t u, joins (.topAdd t u) (.topAdd node slot) (.add t.toNat u.toNat) [])

/-- 03_curd_core.md R93-R96. The unit takes the oldest queued instruction and runs it whole: tiles are cleared, copied, added element by element,
loaded, and multiplied and accumulated. -/
def Obligations.TensorExecuteRunsTheOldest : Prop :=
  ∀ (s : State) (node slot : Nat) (pc : BitVec 12) (rest : List TQEntry) (op : TOp),
    let key := curdKey node slot
    let c := s.dev.curd key
    let d := s.dev.setCurd key { c with tq := rest }
    let tile (t : Nat) : List Word32 := c.r.getTile t
    c.tq = { op := op, pc := pc } :: rest →
    (∀ t, op = .clear t → ∃ u, exec (.tensorExecute node slot) s = .next u ∧ (u.dev.curd key).tq = rest ∧
      (regsOf u.dev node slot).acc = (c.r.setTile t (List.replicate 256 0)).acc ∧ (regsOf u.dev node slot).g = c.r.g) ∧
    (∀ t v, op = .copy t v → ∃ u, exec (.tensorExecute node slot) s = .next u ∧ (u.dev.curd key).tq = rest ∧
      (regsOf u.dev node slot).acc = (c.r.setTile t (tile v)).acc ∧ (regsOf u.dev node slot).g = c.r.g) ∧
    (∀ t v, op = .add t v → ∃ u, exec (.tensorExecute node slot) s = .next u ∧ (u.dev.curd key).tq = rest ∧
      (regsOf u.dev node slot).acc = (c.r.setTile t ((tile t).zipWith fadd32 (tile v))).acc ∧
      (regsOf u.dev node slot).g = c.r.g) ∧
    (∀ t a d' bs, op = .tld t a → d.resolverFree node a 1024 = true → d.localRead node slot a 1024 = (d', .ok bs) →
      ∃ u, exec (.tensorExecute node slot) s = .next u ∧
        (regsOf u.dev node slot).acc = ((regsOf d' node slot).setTile t (bytesWords 256 bs)).acc) ∧
    (∀ t (f : Fmt) a b clr inf d1 abs d2 bbs, op = .tmma t f.code a b clr false inf → f.isInt = false →
      d.resolverFree node a f.footprint = true → d.resolverFree node b f.footprint = true →
      d.localRead node slot a f.footprint = (d1, .ok abs) → d1.localRead node slot b f.footprint = (d2, .ok bbs) →
      ∃ u, exec (.tensorExecute node slot) s = .next u ∧
        (regsOf u.dev node slot).acc = ((regsOf d2 node slot).setTile t ((List.range 256).map (fun n =>
          (tmmaElem f false inf abs bbs (n / 16) (n % 16)
            (if clr then (0, 0) else ((((regsOf d2 node slot).getTile t)[n]?).getD 0, 0))).1))).acc)

/-- 03_curd_core.md R99, R104-R107, R117. A FAR, SIGNAL or FENCE whose destination can be sent to takes the curd's lowest free far tag: the operation waits
there with its request, its counter has one more operation issued, and the pc moves on. -/
def Obligations.FarRowsHandTheirRequestToTheInterface : Prop :=
  ∀ (s : State) (node slot : Nat) (d : Dev) (ga gb : Reg) (k : KNum) (ord : Bool) (lenM1 : BitVec 7) (tag : Nat),
    let key := curdKey node slot
    let c := d.curd key
    let ctx := d.vatCtx node
    let n := lenM1.toNat + 1
    let a := (c.r.getG ga).toNat
    let b := (c.r.getG gb).toNat
    let sends (row : Instr) (x : Nat) (op : TagOp) (f : Flit) : Prop := ∃ t, exec row s = .next t ∧
      (regsOf t.dev node slot).pc = c.r.pc + 1 ∧ (regsOf t.dev node slot).g = c.r.g ∧
      smGet 0 (t.dev.curd key).issued k.toNat = smGet 0 c.issued k.toNat + 1 ∧
      ∃ r, (t.dev.ni node).tagRec tag = some r ∧ r.op = op ∧ r.flit = f ∧ r.ga = x ∧ r.ctx = ctx ∧ r.src = slot ∧ r.st = .waiting
    let open_ (x : Nat) : Prop := ∀ code, d.target node (ctx / 16) (ctx % 16) x ≠ .bad code
    (d.ni node).freeTag (d.farTagBase node slot) 16 = some tag →
    (Issues s node slot (.far .get ga gb k ord lenM1) d → open_ a → a % 128 + n ≤ 128 → d.bufferOk node slot b n = true →
      c.storeHolds b n = false → c.tensorHolds b n true = false → d.resolverFree node b n = true →
      sends (.farGet node slot) a (.farGet slot k.toNat b n) (request tRd ord n 0 [])) ∧
    (Issues s node slot (.far .put ga gb k ord lenM1) d → open_ a → a % 128 + n ≤ 128 → d.bufferOk node slot b n = true →
      c.storeHolds b n = false → c.tensorHolds b n false = false → d.resolverFree node b n = true → ∀ bs, d.localRead node slot b n = (d, .ok bs) →
      sends (.farPut node slot) a (.farPut slot k.toNat) (request tWr ord n 0 bs)) ∧
    (Issues s node slot (.far .putv ga gb k ord lenM1) d → open_ a → a % 128 + n ≤ 128 →
      sends (.farPutv node slot) a (.farPut slot k.toNat) (request tWr ord n 0 (leBytes n b))) ∧
    (∀ kind : FarKind, 4 ≤ kind.code → Issues s node slot (.far kind ga gb k ord lenM1) d → open_ a → a % 128 + n ≤ 128 → b % 8 = 0 →
      d.bufferOk node slot b 16 = true → c.storeHolds b 16 = false → c.tensorHolds b 16 true = false → d.resolverFree node b 16 = true →
      ∀ bs, d.localRead node slot b 16 = (d, .ok bs) →
      sends (if kind = .fadd then .farFp32Add node slot else .farAtomic node slot) a (.farAmo slot k.toNat b n)
        (request tAmo ord n kind.code bs)) ∧
    (∀ ctr, Issues s node slot (.signal ga ctr k) d → open_ a → a / 2 ^ 43 % 2 = 1 → a % 2 ^ 23 = 0 →
      sends (.signal node slot) a (.sig slot k.toNat) { request tSig true 0 0 [] with addr := BitVec.ofNat 48 ctr.toNat }) ∧
    (Issues s node slot (.fence ga k) d → open_ (fenceGa a) →
      sends (.fence node slot) (fenceGa a) (.fence slot k.toNat) (request tWr true 0 0 []))

/-- 03_curd_core.md R101, R104, R106. Where a FAR's bytes cross a 128-byte block, or a SIGNAL names no curd, nothing is sent: the operation completes at once with
INVALID at its counter, unless that holds a code already. With all sixteen far tags of the curd in use it waits at issue all the same. -/
def Obligations.FarRowsRefuseWhatNoPacketCanCarry : Prop :=
  ∀ (s : State) (node slot : Nat) (d : Dev) (ga gb : Reg) (k : KNum) (ord : Bool) (lenM1 : BitVec 7),
    let key := curdKey node slot
    let c := d.curd key
    let a := (c.r.getG ga).toNat
    Issues s node slot (.far .putv ga gb k ord lenM1) d → 128 < a % 128 + (lenM1.toNat + 1) →
      ((d.ni node).freeTag (d.farTagBase node slot) 16 = none → ∃ t, exec (.farPutv node slot) s = .next t ∧ (regsOf t.dev node slot).pc = c.r.pc ∧
        (regsOf t.dev node slot).kval = c.r.kval ∧ (regsOf t.dev node slot).kcode = c.r.kcode ∧ (t.dev.ni node).tags = (d.ni node).tags) ∧
      ((d.ni node).freeTag (d.farTagBase node slot) 16 ≠ none → d.tearing node = false → ∃ t, exec (.farPutv node slot) s = .next t ∧ (regsOf t.dev node slot).pc = c.r.pc + 1 ∧
        smGet 0 (regsOf t.dev node slot).kval k.toNat = smGet 0 c.r.kval k.toNat + 1 ∧
        (smGet 0 c.r.kcode k.toNat = 0 → smGet 0 (regsOf t.dev node slot).kcode k.toNat = 0x03) ∧
        (smGet 0 c.r.kcode k.toNat ≠ 0 → smGet 0 (regsOf t.dev node slot).kcode k.toNat = smGet 0 c.r.kcode k.toNat) ∧
        (t.dev.ni node).tags = (d.ni node).tags)

/-- 03_curd_core.md R108-R110. DMA, COLL and CULT hand their descriptor on: the channel's queue gains it; the unit counts one more collective of the curd; the
interface gains the update, in arrival order. -/
def Obligations.DescriptorRowsQueueTheirWork : Prop :=
  ∀ (s : State) (node slot : Nat) (d : Dev) (ga gb : Reg) (k : KNum) (bs : List Byte),
    let key := curdKey node slot
    let c := d.curd key
    let a := (c.r.getG ga).toNat
    let b := (c.r.getG gb).toNat
    (∀ chan : BitVec 2, Issues s node slot (.dma ga k chan) d → a % 64 = 0 → d.descOk node slot a 64 = true → c.storesDone = true →
      d.localRead node slot a 64 = (d, .ok bs) → (d.dmaCh node chan.toNat).queue.length < 64 →
      ∃ t, exec (.dma node slot) s = .next t ∧ (regsOf t.dev node slot).pc = c.r.pc + 1 ∧
        (t.dev.dmaCh node chan.toNat).queue = (d.dmaCh node chan.toNat).queue ++ [DmaDesc.ofBytes slot k.toNat bs] ∧
        smGet 0 (t.dev.curd key).issued k.toNat = smGet 0 c.issued k.toNat + 1 ∧ (regsOf t.dev node slot).g = c.r.g) ∧
    (Issues s node slot (.cult ga gb k) d → b % 64 = 0 → d.bufferOk node slot b 256 = true → c.storeHolds b 256 = false →
      c.tensorHolds b 256 false = false → d.resolverFree node b 256 = true → d.localRead node slot b 256 = (d, .ok bs) →
      ∃ t x, exec (.cult node slot) s = .next t ∧ (regsOf t.dev node slot).pc = c.r.pc + 1 ∧
        (t.dev.ni node).cult = (d.ni node).cult ++ [x] ∧ x.slot = slot ∧ x.k = k.toNat ∧ x.record = a ∧ x.entry = bs ∧ x.arr = (d.ctx (d.vatCtx node)).cults ∧
        smGet 0 (t.dev.curd key).issued k.toNat = smGet 0 c.issued k.toNat + 1) ∧
    (∀ ctx core, Issues s node slot (.coll ga k) d → a % 64 = 0 → d.descOk node slot a 64 = true → c.storesDone = true →
      d.localRead node slot a 64 = (d, .ok bs) → c.colls < 4 → d.ctxOf node = some ctx → d.coreOf node slot = some core →
      (d.ctx ctx).collSeq + (d.unit (d.rankUnit ctx)).unnumbered ctx < 2 ^ 32 →
      ∃ t, exec (.coll node slot) s = .next t ∧ (regsOf t.dev node slot).pc = c.r.pc + 1 ∧ (t.dev.curd key).colls = c.colls + 1 ∧
        smGet 0 (t.dev.curd key).issued k.toNat = smGet 0 c.issued k.toNat + 1 ∧
        (core = 0 ∨ (CollDesc.ofBytes bs).cores = false → (t.dev.ctx ctx).collSeq = (d.ctx ctx).collSeq + 1) ∧
        (core ≠ 0 → (CollDesc.ofBytes bs).cores = true → ∃ o ∈ (t.dev.unit (d.rankUnit ctx)).ops, o.ctx = ctx ∧
          ∃ p ∈ o.parts, p.core = core ∧ p.node = node ∧ p.slot = slot ∧ p.k = k.toNat ∧ p.d = CollDesc.ofBytes bs))

/-- 05_local_memory.md R156, R160-R166, 15_faults_cave.md R459, R461, R462. A DMA channel takes the next descriptor, checked, once the reads of the ones before have
issued; a segment reads through the network interface; a drained descriptor completes on its issuer's counter; a check-value unit
accepts a block; a failed one is fenced and its partner serves its quadrant, and a fused quadrant has none. -/
def Obligations.DmaAndCheckValueRows : Prop :=
  ∀ (s : State) (node chan : Nat),
    let d := s.dev
    let ch := d.dmaCh node chan
    (∀ x rest, ch.queue = x :: rest → d.mayStart node = true → (∀ r ∈ ch.runs, r.readAll = true) →
      Completes (.dmaDescriptorStart node chan) s (fun e => e = { d with vats := e.vats } ∧
        (e.dmaCh node chan).queue = rest ∧ ∃ r, (e.dmaCh node chan).runs = ch.runs ++ [r] ∧ r.d = x ∧ r.off = 0 ∧ r.landed = 0 ∧
          (d.dmaOk node x = true → x.poly = 0 ∨ (d.cvFor node).isSome = true → r.code = 0 ∧ r.stopped = false) ∧
          (d.dmaOk node x = true → x.poly ≠ 0 → d.cvFor node = none → r.code = 0x09 ∧ r.stopped = true) ∧
          (d.dmaOk node x = false → r.code = 0x03 ∧ r.stopped = true))) ∧
    (∀ r tag at_ half, ch.runs = [r] → r.stopped = false → r.off = 0 → r.d.srcLocal = false → 0 < r.d.len → r.d.len ≤ half →
      pieceLen r.d (r.d.srcAt 0) 0 r.d.len = r.d.len → d.mayStart node = true → r.segs = [] → d.dmaRefused node chan r.d = false →
      d.freeHalf node chan = some (at_, half) → d.dmaTag node chan = some tag →
      Completes (.dmaSegment node chan) s (fun e => (∃ q, (e.ni node).tagRec tag = some q ∧
          q.op = .dmaRd chan r.id 0 r.d.len ∧ q.flit = request tRd r.d.order r.d.len 0 [] ∧ q.ga = r.d.srcAt 0 ∧ q.st = .waiting) ∧
        (e.dmaCh node chan).runs = [{ r.begin_ at_ half with off := r.d.len, rd := r.rd + 1 }] ∧ e.curds = d.curds)) ∧
    (∀ r, ch.runs = [r] → r.drained = true → r.code = 0 → r.d.poly = 0 → r.d.done = 0 → d.tearing node = false →
      Completes (.dmaComplete node chan r.id) s (fun e => (e.dmaCh node chan).runs = [] ∧ (e.dmaCh node chan).lastCode = ch.lastCode ∧
        e.curd (curdKey node r.d.slot) = (d.curd (curdKey node r.d.slot)).complete r.d.k 0)) ∧
    (∀ r, ch.runs = [r] → r.drained = true → r.code ≠ 0 → (r.d.poly = 0 ∨ d.sideRoom node r.d.slot r.d.cvOut 8 = true) → d.tearing node = false →
      Completes (.dmaComplete node chan r.id) s (fun e => (e.dmaCh node chan).runs = [] ∧ (e.dmaCh node chan).lastCode = r.code ∧
        e.curd (curdKey node r.d.slot) = (d.curd (curdKey node r.d.slot)).complete r.d.k r.code)) ∧
    (∀ u b rest r, (d.cvu u).inq = b :: rest → (d.cvu u).fenced = false → (d.cvu u).streams = [] → b.owner = .dma node chan r.id →
      ch.runs = [r] → r.d.cvOnly = false →
      Completes (.cvBlock u) s (fun e => (e.cvu u).inq = rest ∧
        (e.cvu u).streams = [{ owner := b.owner, data := memWrite [] b.off b.data }] ∧
        (e.dmaCh node chan).runs = [(r.onSeg b.off (fun x => { x with toTake := x.toTake - b.data.length })).release] ∧ e.curds = d.curds ∧ e.nis = d.nis)) ∧
    (∀ u, u < 4 → d.quadOn u = false → exec (.cvFailed u) s = .next s) ∧
    (∀ u, u < 4 → d.quadOn u = true → (d.cvu u).fenced = false → Completes (.cvFailed u) s (fun e =>
      (e.cvu u).fenced = true ∧ (e.cvu u).inq = [] ∧ (e.cvu u).streams = [] ∧
      ((d.cvu (u ^^^ 1)).fenced = false → d.quadOn (u ^^^ 1) = true → (e.cvu (u ^^^ 1)).borrowed = true ∧ (e.cvu (u ^^^ 1)).fenced = false)))

/-- 15_faults_cave.md R444, R446-R448, 01_architecture.md R24. The collector takes the oldest message of a ring stop into the fault list and the cave; a stop that lost
messages says how many; a lost stop of the host attachments or the gateway is named and its node fenced; the quiet period clears what may be cleared. -/
def Obligations.CollectorRowsKeepTheFaultList : Prop :=
  ∀ (s : State) (src : Nat),
    let d := s.dev
    let st := smGet Stop.init d.flt.stops src
    (∀ m rest sev, st.queue = m :: rest → d.pwr.islandUp = true → d.flt.lostStops.contains src = false → d.inRind m = false →
      m.kind ≠ 0x21 → m.kind ≠ 0x22 → d.flt.applied m = sev → sev ≤ 1 → d.flt.list.length < 1024 → d.cave.buf.length < 4096 →
      (∀ x ∈ d.flt.list, x.cleared = true ∨ x.m.word ≠ m.word) → (∀ r, d.cave.buf.getLast? = some r → absorbs r m sev = false) →
      Completes (.faultMessage src) s (fun e => (smGet Stop.init e.flt.stops src).queue = rest ∧
        (∃ x, e.flt.list = d.flt.list ++ [x] ∧ x.m = m ∧ x.sev = sev ∧ x.firstSeen = d.opSec ∧ x.repeats = 0 ∧ x.ack = true ∧
          x.cleared = true) ∧
        (∃ r, e.cave.buf = d.cave.buf ++ [r] ∧ r.seq = d.cave.next ∧ r.typ = 0 ∧ r.sev = sev ∧ r.opSec = d.opSec ∧
          leAt r.body 0 8 = m.word % 2 ^ 64) ∧ e = { d with flt := e.flt, cave := e.cave })) ∧
    (st.lost ≠ 0 → st.queue.length < 16 → Completes (.stopOverrun src) s (fun e =>
      (smGet Stop.init e.flt.stops src).lost = 0 ∧ (∃ m, (smGet Stop.init e.flt.stops src).queue = st.queue ++ [m] ∧
        m.src = src ∧ m.kind = 0x92 ∧ m.addr = st.lost) ∧ e = { d with flt := { d.flt with stops := e.flt.stops } })) ∧
    (0x150 ≤ src → src < 0x153 → d.quadOn 0 = true → d.flt.lostStops.contains src = false → Completes (.ringStopLost src) s (fun e =>
      e.flt.lostStops = d.flt.lostStops ++ [src] ∧ e.mesh.edgeOff.contains src = true ∧
      smGet Stop.init e.flt.stops 0x808 = (smGet Stop.init d.flt.stops 0x808).take (plainMsg 0x808 0x90 src))) ∧
    ((∃ x ∈ d.flt.list, quietClears x = true) → Completes .quietPeriod s (fun e =>
      e.flt.list = d.flt.list.map (fun x => if quietClears x then { x with cleared := true } else x) ∧ e.flt.stops = d.flt.stops))

/-- 15_faults_cave.md R451, R454, R455. A triggered flush writes the unflushed records, the first 4,096 kept; the timer triggers one; the operating seconds are stored. -/
def Obligations.CaveRowsReachTheStore : Prop :=
  ∀ (s : State),
    let d := s.dev
    (d.cave.due = true → d.cave.store ≠ 2 → d.pwr.islandUp = true → d.pwr.failing = false → d.rrc.pwrcycWanted = false →
      Completes (.caveFlush []) s (fun e => e.cave.buf = [] ∧ e.cave.due = false ∧
        e.cave.kept = d.cave.kept ++ d.cave.buf.filter (fun r => r.seq < 4096) ∧ e.cave.next = d.cave.next ∧ e = { d with cave := e.cave })) ∧
    (d.cave.buf ≠ [] → d.cave.store ≠ 2 → Completes .caveFlushTimer s (fun e => e = { d with cave := { d.cave with due := true } })) ∧
    (d.pwr.islandUp = true → Completes .operatingSecondsWrite s (fun e => e = { d with cave := { d.cave with opStored := d.opSec } }))

/-- 02_programming_model.md R64, R65. The end of a time slice stops the resident context's curds and names the next slot; once nothing of
it is in flight its state is saved and the next one is resident; a switch that does not drain is reported as a hang. -/
def Obligations.TimeSharingRows : Prop :=
  ∀ (s : State) (p slot t : Nat),
    let d := s.dev
    (d.part p).resident = some slot →
    ((d.part p).st ≠ 0 → (d.part p).st ≠ 3 → (d.part p).switchTo = none → d.multiRank (16 * p + slot) = false →
      (d.ctx (16 * p + slot)).tear = none → d.nextSlot p slot = some t → t < 16 →
      Completes (.timeSliceEnd p) s (fun e => e = { d with parts := e.parts, curds := e.curds } ∧
        e.part p = { d.part p with switchTo := some t } ∧
        ∀ x ∈ d.partCurds p, e.curd (curdKey x.1 x.2) = (d.curd (curdKey x.1 x.2)).stopNow ∧
          (e.curd (curdKey x.1 x.2)).r = (d.curd (curdKey x.1 x.2)).r ∧ (e.curd (curdKey x.1 x.2)).ldm = (d.curd (curdKey x.1 x.2)).ldm)) ∧
    ((d.part p).switchTo = some t → t < 16 → slot < 16 → t ≠ slot → d.inflight (16 * p + slot) = 0 → d.unsavable p = false →
      (d.ctx (16 * p + slot)).waitSig = [] → (d.ctx (16 * p + t)).waitSig = [] →
      Completes (.switchDrained p) s (fun e => (e.part p).resident = some t ∧ (e.part p).switchTo = none ∧
        (e.ctx (16 * p + slot)).saved = ((d.saveCtx (16 * p + slot)).ctx (16 * p + slot)).saved ∧
        (e.ctx (16 * p + slot)).saved.isSome = true ∧ (e.ctx (16 * p + t)).saved = none)) ∧
    ((d.part p).switchTo = some t → d.inflight (16 * p + slot) ≠ 0 →
      Completes (.switchTimeout p) s (fun e => e = { d with rrc := e.rrc, flt := e.flt } ∧
        e.rrc = { d.rrc with hang := 16 * p + slot + (d.ctx (16 * p + slot)).gen * 2 ^ 10 + bits d.timer.toNat 39 0 * 2 ^ 24 } ∧
        e.flt = (d.raise (d.ctxMsg (0x400 + (16 * p + slot)) 0x60 0 0 (some (16 * p + slot)))).flt))

/-- 06_mesh.md R177-R186, 01_architecture.md R15, R16. One arriving flit of a step is ejected at its node where there is room, and
otherwise leaves on the first productive port with no change but a mark; with nothing arriving the head of the interface's queue is injected if its
destination may be entered, on plane A only within the allowance, and a router with nothing to place changes nothing. At a router with no edge node beside it the
arrivals are the heads of its input links, so the last three clauses say the same of plane B in the state's own terms. -/
def Obligations.MeshRouterRows : Prop :=
  ∀ (s : State) (p : Plane) (node : Nat),
    let d := s.dev
    let d0 := match p with
      | .a => (d.setNi node { d.ni node with hist := (d.ni node).hist <<< 1 }).niPump node
      | .b => d
    let waiting (n : NI) : List Flit := match p with | .a => n.outA | .b => n.outB
    let starved : Bool := match p with | .a => (d.ni node).starveA | .b => (d.ni node).starveB
    let ports := [0, 1, 2, 3].filter (fun i => d.portLive p node i)
    let link (q : Plane) (i : Nat) : List Flit := smGet [] d.mesh.inq (inqKey q node i)
    let live (e : Dev) : Nat := (e.ni node).live.length
    node < 288 → smGet false d.mesh.failed (meshKey p node) = false →
    (∀ a f, d0.arrivals p node ports.length = (a, [f]) → live d ≤ live a → f.mcast = false → f.mgmt = false → reservedTyp f.typ.toNat = false →
      f.dst.toNat = node → a.niAccepts p node = true → waiting (a.ni node) = [] →
      Completes (.routerStep p node) s (fun e => e = { a with nis := e.nis } ∧
        e.ni node = match p with
          | .a => { a.ni node with progress := (a.ni node).progress + 1, reqBuf := (a.ni node).reqBuf ++ [f] }
          | .b => { a.ni node with progress := (a.ni node).progress + 1, repBuf := (a.ni node).repBuf ++ [f] })) ∧
    (∀ a f i more n, d0.arrivals p node ports.length = (a, [f]) → live d ≤ live a → f.mcast = false →
      f.dst.toNat ≠ node → a.productive p node f.dst.toNat ports = i :: more → routerAt node i = some n → starved = false →
      d.stopped p = true →
      Completes (.routerStep p node) s (fun e => e = { a with mesh := e.mesh } ∧
        e.mesh.inq = smSet [] a.mesh.inq (inqKey p n ((i + 2) % 4)) (smGet [] a.mesh.inq (inqKey p n ((i + 2) % 4)) ++ [f]))) ∧
    (∀ a f rest i more n, d0.arrivals p node ports.length = (a, []) → live d ≤ live a →
      d.stopped p = false → waiting (a.ni node) = f :: rest → f.mcast = false → a.mayEnter p node node f = true →
      a.productive p node f.dst.toNat ports = i :: more → routerAt node i = some n → (p = .a → (a.ni node).mayInject = true) → starved = false →
      Completes (.routerStep p node) s (fun e => waiting (e.ni node) = rest ∧ (e.ni node).hist = (if p = .a then (a.ni node).hist ||| 1 else (a.ni node).hist) ∧
        e.mesh.inq = smSet [] a.mesh.inq (inqKey p n ((i + 2) % 4)) (smGet [] a.mesh.inq (inqKey p n ((i + 2) % 4)) ++ [f]) ∧
        e = { a with nis := e.nis, mesh := e.mesh })) ∧
    (p = .b → (∀ i < 4, link .b i = []) → (∀ i < 4, edgeAt node i = none) → (d.ni node).outB = [] → exec (.routerStep p node) s = .next s) ∧
    (∀ f q j i more n, p = .b → j < 4 → link .b j = f :: q → (∀ x < 4, x ≠ j → link .b x = [] ∧ edgeAt node x = none) → f.mcast = false →
      f.dst.toNat ≠ node → d.productive .b node f.dst.toNat ports = i :: more → routerAt node i = some n → starved = false → (d.ni node).outB = [] →
      Completes (.routerStep p node) s (fun e => e = { d with mesh := e.mesh } ∧
        ∃ t, t = smSet [] d.mesh.inq (inqKey .b node j) q ∧
          e.mesh.inq = smSet [] t (inqKey .b n ((i + 2) % 4)) (smGet [] t (inqKey .b n ((i + 2) % 4)) ++ [f]))) ∧
    (∀ f rest i more n, p = .b → (∀ x < 4, link .b x = [] ∧ edgeAt node x = none) → d.stopped .b = false → (d.ni node).outB = f :: rest → f.mcast = false →
      d.mayEnter .b node node f = true → d.productive .b node f.dst.toNat ports = i :: more → routerAt node i = some n → starved = false →
      Completes (.routerStep p node) s (fun e => e = { d with nis := e.nis, mesh := e.mesh } ∧
        e.ni node = { d.ni node with outB := rest, starveB := false, progress := (d.ni node).progress + 1 } ∧
        e.mesh.inq = smSet [] d.mesh.inq (inqKey .b n ((i + 2) % 4)) (smGet [] d.mesh.inq (inqKey .b n ((i + 2) % 4)) ++ [f])))

/-- 06_mesh.md R179, R185, R186, R198, R199, 01_architecture.md R15. The quiesce stops plane A, then plane B once A is empty; on the quiet mesh the routers that
wait to be fenced are fenced and both planes resume; a failed router loses the flit it holds at each port and is reported. An edge node's returned
flit reaches its router one deflection older; the allowance recovers by one, to at most 64; the starvation mark stands while a flit waits. -/
def Obligations.MeshQuiesceRows : Prop :=
  ∀ (s : State),
    let d := s.dev
    exec .meshStopA s = .next { s with dev := { d with mesh := { d.mesh with stopA := true } } } ∧
    (d.mesh.stopA = true → d.planeEmpty .a = true →
      exec .meshStopB s = .next { s with dev := { d with mesh := { d.mesh with stopB := true } } }) ∧
    (d.meshQuiet = true → d.fm.installWait = [] →
      Completes .meshResume s (fun e => e = { d with mesh := e.mesh } ∧ e.mesh.stopA = false ∧ e.mesh.stopB = false ∧ e.mesh.toFence = [] ∧ e.mesh.toGroups = [] ∧
        (∀ k, smGet false e.mesh.fenced k = (smGet false d.mesh.fenced k || d.mesh.toFence.contains k)) ∧ e.mesh.inq = d.mesh.inq)) ∧
    (d.meshQuiet = false →
      exec .meshResume s = .next { s with dev := { d with mesh := { d.mesh with stopA := false, stopB := false } } }) ∧
    (∀ p node, node < 288 → smGet false d.mesh.failed (meshKey p node) = false →
      (∀ i < 4, (smGet [] d.mesh.inq (inqKey p node i)).length ≤ 1) →
      Completes (.routerFailed p node) s (fun e => e = { d with mesh := e.mesh, flt := e.flt } ∧
        smGet false e.mesh.failed (meshKey p node) = true ∧ (∀ k, k ≠ meshKey p node → smGet false e.mesh.failed k = smGet false d.mesh.failed k) ∧
        (∀ x ∈ e.mesh.inq, ∀ i < 4, x.1 ≠ inqKey p node i) ∧ (∀ x ∈ d.mesh.inq, (∀ i < 4, x.1 ≠ inqKey p node i) → x ∈ e.mesh.inq) ∧
        e.flt = (d.raiseVat node 0x14 (unitRouter p) 0).flt)) ∧
    (∀ p enode r port f rest, attach enode = some (r, port) → (d.edge (2 * enode + planeNat p)).ret = f :: rest →
      (smGet false d.mesh.failed (meshKey p r) = false → Completes (.edgeReturn p enode) s (fun e =>
        (e.edge (2 * enode + planeNat p)).ret = rest ∧ e.mesh.inq = smSet [] d.mesh.inq (inqKey p r port)
          (smGet [] d.mesh.inq (inqKey p r port) ++ [{ f with age := BitVec.ofNat 8 (min (f.age.toNat + 1) 255) }]) ∧ e = { d with mesh := e.mesh })) ∧
      (smGet false d.mesh.failed (meshKey p r) = true → exec (.edgeReturn p enode) s = .next s)) ∧
    (∀ node, exec (.limiterRecovery node) s = .next { s with dev := d.setNi node { d.ni node with allow := min 64 ((d.ni node).allow + 1) } }) ∧
    (∀ node, (d.ni node).outA ≠ [] → exec (.starvationMark .a node) s = .next { s with dev := d.setNi node { d.ni node with starveA := true } }) ∧
    (∀ node, (d.ni node).outB ≠ [] → exec (.starvationMark .b node) s = .next { s with dev := d.setNi node { d.ni node with starveB := true } }) ∧
    (∀ node, ((d.ni node).outA = [] → exec (.starvationMark .a node) s = .next s) ∧ ((d.ni node).outB = [] → exec (.starvationMark .b node) s = .next s))

/-- 02_programming_model.md R46, R50, R55, 03_curd_core.md R104, R106, 06_mesh.md R195, 07_links.md R229, R230. A request taken from the input buffer that is well formed and names a live
context is performed and answered: a read with its bytes, a write once they are stored, an atomic with the old value, a signal once the counter is
incremented; one that lands nowhere is answered with its error and reported; a duplicate from another chip is answered and does nothing. -/
def Obligations.RequestRowsPerformAndAnswer : Prop :=
  ∀ (s : State) (node : Nat) (q : Flit) (rest : List Flit),
    let d := s.dev
    let a := d.setInbox node rest
    let slot := (a.vat node).phys (bits q.addr.toNat 28 23)
    takeTyp q.typ.toNat (decide (0x120 ≤ node)) [] (d.inbox node) = some (q, rest) → d.retrains node = false → d.landMay node q = true → malformed node q = false →
    a.liveFor node q = true →
    (q.xchip = false →
      (∀ x b bs, q.typ.toNat = tRd → q.bytes ≠ 0 → a.landing node q false = x → (∀ c, x ≠ .err c) →
        a.landRead node q.ctx.toNat x q.bytes.toNat = (b, some bs) →
        exec (.rd node) s = .next { s with dev := b.reply node q tRdr 0 bs }) ∧
      (∀ x b, q.typ.toNat = tWr → q.bytes ≠ 0 → a.landing node q true = x → (∀ c, x ≠ .err c) →
        a.landWrite node q.ctx.toNat x (q.payload.take q.bytes.toNat) = (b, true) →
        exec (.wr node) s = .next { s with dev := (collNoted q x b).reply node q tAck 0 [] }) ∧
      (∀ x b c old, q.typ.toNat = tAmo → a.landing node q true = x → (∀ c, x ≠ .err c) →
        a.landRead node q.ctx.toNat x q.bytes.toNat = (b, some old) →
        b.landWrite node q.ctx.toNat x (leBytes q.bytes.toNat (farAmoFn q.status.toNat q.bytes.toNat (leNat old)
          (leAt q.payload 0 8) (leAt q.payload 8 8))) = (c, true) →
        exec (.amoPacket node) s = .next { s with dev := c.reply node q tAmor 0 (leBytes 8 (leNat old)) }) ∧
      (q.typ.toNat = tSig → (a.curd (curdKey node slot)).fenced = false →
        exec (.sig node) s = .next { s with dev := (a.signalAt node slot (bits q.addr.toNat 3 0)).reply node q tAck 0 [] }) ∧
      (∀ code, q.typ.toNat = tRd ∨ q.typ.toNat = tWr ∨ q.typ.toNat = tAmo → q.bytes ≠ 0 →
        a.landing node q (q.typ.toNat != tRd) = .err code →
        exec (if q.typ.toNat = tRd then .rd node else if q.typ.toNat = tWr then .wr node else .amoPacket node) s =
          .next { s with dev := (a.raiseAt node 0x11 (q.addr.toNat % 2 ^ 47) (some q.ctx.toNat)).reply node q (replyTyp q) code [] })) ∧
    (q.xchip = true → a.confCtx q.ctx.toNat = false → ∀ fl, 1 ≤ q.typ.toNat → q.typ.toNat ≤ 3 →
      filterFlow (a.flowsAt node) (a.flowKey node q) q.gen.toNat (bits q.link.toNat 13 0) a.timer.toNat a.hCounts = (.duplicate, fl) →
      Completes (if q.typ.toNat = tWr then .wr node else if q.typ.toNat = tAmo then .amoPacket node else .sig node) s
        (fun e => e = { a with nis := e.nis, ext := e.ext, mesh := e.mesh } ∧
          e = ((a.setFlows node fl).duplicateAnswer node q) ∧ e.curds = d.curds))

/-- 07_links.md R229. The oldest held request is judged again and, if the filter now passes it, performed and answered; a write shows it. -/
def Obligations.HeldRequestsAreRetried : Prop :=
  ∀ (s : State) (node : Nat) (q : Flit) (rest : List Flit) (x : Landing) (b : Dev) (fl : List Flow),
    let d := s.dev
    let a := d.setHeld node rest
    d.heldAt node = q :: rest → d.retrains node = false → d.landMay node q = true → malformed node q = false → a.liveFor node q = true → q.typ.toNat = tWr → q.bytes ≠ 0 →
    q.xchip = true → a.confCtx q.ctx.toNat = false →
    filterFlow (a.flowsAt node) (a.flowKey node q) q.gen.toNat (bits q.link.toNat 13 0) a.timer.toNat a.hCounts = (.perform, fl) →
    (a.setFlows node fl).landing node q true = x → (∀ c, x ≠ .err c) →
    (a.setFlows node fl).landWrite node q.ctx.toNat x (q.payload.take q.bytes.toNat) = (b, true) →
    exec (.heldRequestRetry node) s = .next { s with dev := (collNoted q x b).reply node q tAck 0 [] }

/-- 02_programming_model.md R60, 03_curd_core.md R99-R106, 06_mesh.md R183, R195. A reply whose tag is outstanding with its context and generation completes the operation: the tag is free, the
bytes of a get or an atomic are in local memory, and the issuer's counter has counted it, with the status for a code other than 0. -/
def Obligations.ReplyRowsCompleteTheOperation : Prop :=
  ∀ (s : State) (node : Nat) (f : Flit) (rest : List Flit) (r : TagRec),
    let d := s.dev
    let n0 := { d.ni node with repBuf := rest }
    let n1 := n0.setTag f.tag.toNat none
    let a := (d.setNi node n0).setNi node n1
    takeTyp f.typ.toNat false [] (d.ni node).repBuf = some (f, rest) → (d.ni node).tagRec f.tag.toNat = some r → r.st = .sent →
    replyTyp r.flit = f.typ.toNat → f.ctx.toNat = r.ctx → f.gen.toNat = r.gen → r.chip = none → r.copies ≤ 1 → f.cmark = false →
    malformedReply f = false → d.tearing node = false → (∀ w ∈ d.host.wins, w.job.isCtl = false) →
    (∀ slot k, r.op = .farPut slot k ∨ r.op = .sig slot k ∨ r.op = .fence slot k → f.typ.toNat = tAck → f.status.toNat = 0 →
      Completes (.ack node) s (fun e => e.ni node = n1 ∧
        e.curd (curdKey node slot) = (d.curd (curdKey node slot)).complete k 0 ∧ (∀ i, i ≠ curdKey node slot → e.curd i = d.curd i) ∧
        e.vats = d.vats ∧ e.flt = d.flt)) ∧
    (∀ slot k, r.op = .farPut slot k ∨ r.op = .sig slot k ∨ r.op = .fence slot k → f.typ.toNat = tAck → f.status.toNat ≠ 0 → f.status.toNat ≠ 8 →
      Completes (.ack node) s (fun e => (e.ni node).tagRec f.tag.toNat = none ∧
        e.curd (curdKey node slot) = (d.curd (curdKey node slot)).complete k f.status.toNat ∧
        ((e.ni node).failRec.contains (r.src, r.dest) = true ∨ r.flit.order = true) ∧
        e.flt = (d.raise (d.ctxMsg node 0x11 unitNi r.ga (some r.ctx))).flt)) ∧
    (∀ slot k dst len b, r.op = .farGet slot k dst len → f.typ.toNat = tRdr → f.status.toNat = 0 → d.engineMay node slot dst len = true →
      a.localWrite node slot dst (f.payload.take len) = (b, true) → b.tearing node = false →
      Completes (.rdr node) s (fun e => e.ni node = b.ni node ∧ e.vats = b.vats ∧
        e.curd (curdKey node slot) = (b.curd (curdKey node slot)).complete k 0 ∧ (∀ i, i ≠ curdKey node slot → e.curd i = b.curd i))) ∧
    (∀ slot k dst len b, r.op = .farAmo slot k dst len → f.typ.toNat = tAmor → f.status.toNat = 0 → d.engineMay node slot dst len = true →
      a.localWrite node slot dst (f.payload.take len) = (b, true) → b.tearing node = false →
      Completes (.amor node) s (fun e => e.ni node = b.ni node ∧ e.vats = b.vats ∧
        e.curd (curdKey node slot) = (b.curd (curdKey node slot)).complete k 0 ∧ (∀ i, i ≠ curdKey node slot → e.curd i = b.curd i)))

/-- 02_programming_model.md R60, 07_links.md R225, R228, R231, R232, 06_mesh.md R183, 14_recovery.md R414. A request to another chip that has had no reply is sent again while copies are left, else it completes with TIMEOUT; a read
or write on the die likewise (by the host node at once), an atomic or a signal completes with FAILED; a quarantined tag becomes free; a chip's allowance rises by one. -/
def Obligations.TimerRowsReissueOrComplete : Prop :=
  ∀ (s : State) (node tag : Nat) (r : TagRec),
    let d := s.dev
    (d.ni node).tagRec tag = some r → (∀ w ∈ d.host.wins, w.job.isCtl = false) →
    (r.st = .sent → (d.ni node).stop.getLsbD (r.ctx % 16) = false →
      (∀ chip, r.chip = some chip → r.copies < r.limit + 1 →
        Completes (.requestTimeout node tag) s (fun e => e.ni node = (d.ni node).setTag tag (some { r with st := .waiting }) ∧
          (∀ i, i ≠ node → e.ni i = d.ni i) ∧ e.curds = d.curds ∧ e.vats = d.vats)) ∧
      (∀ chip slot k, r.chip = some chip → r.limit + 1 ≤ r.copies → 1 < r.copies → r.op = .farPut slot k → d.tearing node = false →
        Completes (.requestTimeout node tag) s (fun e => (e.ni node).tagRec tag = some { r with st := .quarantine } ∧
          e.curd (curdKey node slot) = (d.curd (curdKey node slot)).complete k 0x08 ∧
          (e.ni node).timeouts = hold16 ((d.ni node).timeouts + 1))) ∧
      (r.chip = none → r.flit.typ.toNat = tRd ∨ r.flit.typ.toNat = tWr → r.copies ≤ r.limit → node < 288 →
        Completes (.ondieTimeout node tag) s (fun e => e.ni node = (d.ni node).setTag tag (some { r with st := .waiting }) ∧
          (∀ i, i ≠ node → e.ni i = d.ni i) ∧ e.curds = d.curds ∧ e.vats = d.vats)) ∧
      (r.chip = none → r.flit.typ.toNat = tRd ∨ r.flit.typ.toNat = tWr → r.copies ≤ r.limit → 288 ≤ node →
        exec (.ondieTimeout node tag) s = .next { s with dev :=
          (d.setNi node ((d.ni node).setTag tag (some { r with copies := r.copies + 1 }))).offer node .a r.flit }) ∧
      (∀ slot k, r.chip = none → r.flit.typ.toNat = tRd ∨ r.flit.typ.toNat = tWr → r.limit < r.copies → 1 < r.copies → r.op = .farPut slot k → d.tearing node = false →
        Completes (.ondieTimeout node tag) s (fun e => (e.ni node).tagRec tag = some { r with st := .quarantine } ∧
          e.curd (curdKey node slot) = (d.curd (curdKey node slot)).complete k 0x08)) ∧
      (∀ slot k, r.chip = none → r.flit.typ.toNat = tSig → r.copies ≤ 1 → r.op = .sig slot k → d.tearing node = false →
        Completes (.ondieTimeout node tag) s (fun e => (e.ni node).tagRec tag = none ∧
          e.curd (curdKey node slot) = (d.curd (curdKey node slot)).complete k 0x09))) ∧
    (r.st = .quarantine →
      exec (.tagQuarantineEnd node tag) s = .next { s with dev := d.setNi node ((d.ni node).setTag tag none) }) ∧
    (∀ chip, let x := smGet ChipRec.init (d.ni node).chips chip
      Completes (.rateLimitRecovery node chip) s (fun e => e = { d with nis := e.nis } ∧
        (smGet ChipRec.init (e.ni node).chips chip).allow = min 64 (x.allow + 1) ∧
        (∀ c, c ≠ chip → smGet ChipRec.init (e.ni node).chips c = smGet ChipRec.init (d.ni node).chips c)))

/-- 07_links.md R205, R207-R210, R212, R213, R219, R224. A good codeword in order joins the receive stream, an uncorrectable one breaks it, an early one waits, and the lanes are
judged; the head frame of a type is taken off: IDLE does nothing else, CREDIT brings the counts of the three classes, a packet frame whose packet goes on waits in its class's input
buffer for the edge node of its next port, a LINK_CTL frame tells the map a receiver changes to or the lanes a transmitter gives up. A frame whose check fails is counted. -/
def Obligations.FrameRowsTakeTheStream : Prop :=
  ∀ (s : State) (p : Nat),
    let d := s.dev
    let x := d.port p
    x.st = 2 →
    (∀ c : Codeword, x.rxCw = [] → x.rxMap = none → x.rxSync = true → c.cseq = x.rxNext → c.result = .good → (∃ fr, headFrame (x.rxBytes ++ c.stream) = some fr) →
      exec (.codeword p c) s = .next { s with dev := (d.setPort p { x with rxBytes := x.rxBytes ++ c.stream, rxCount := x.rxCount + 1, lanes := smSet LaneRec.init x.lanes c.lane ((smGet LaneRec.init x.lanes c.lane).note true) }).judgeLanes p }) ∧
    (∀ c : Codeword, x.rxCw = [] → x.rxMap = none → c.cseq = x.rxNext → c.result = .uncorrectable →
      exec (.codeword p c) s = .next { s with dev := (d.setPort p { x with rxBytes := wholeFrames (x.rxBytes.length + 1) x.rxBytes, rxSync := false, uncorrectable := hold16 (x.uncorrectable + 1), rxCount := x.rxCount + 1, lanes := smSet LaneRec.init x.lanes c.lane ((smGet LaneRec.init x.lanes c.lane).note false) }).judgeLanes p }) ∧
    (∀ c : Codeword, x.rxCw = [] → x.rxMap = none → c.cseq ≠ x.rxNext → (c.cseq + 128 - x.rxNext) % 128 < 64 →
      exec (.codeword p c) s = .next { s with dev := (d.setPort p { x with rxCw := [c] }).judgeLanes p }) ∧
    (∀ fr, headFrame x.rxBytes = some fr →
      let y := { x with rxBytes := x.rxBytes.drop fr.length }.skipReserved
      let a := d.setPort p y
      (fType fr = 0 → exec (.idleFrame p) s = .next { s with dev := a }) ∧
      (fType fr = 3 → checkOk fr = true → Completes (.creditFrame p) s (fun e => e = { d with ports := e.ports } ∧ ∀ c < 3,
        smGet 0 (e.port p).cF c = (if fCclass fr = c then fFreed fr else leAt (fr.drop 4) (3 + c) 1) ∧ smGet 0 (e.port p).cR c = leAt (fr.drop 4) c 1 ∧
        smGet 0 (e.port p).cG c = (smGet 0 y.cG c + leAt (fr.drop 4) c 1 + 512 - smGet 0 y.cR c) % 256 ∧
        (e.port p).inb = y.inb ∧ (e.port p).rxBytes = y.rxBytes)) ∧
      (∀ l q, fType fr = 4 → checkOk fr = true → leAt fr 4 1 ≠ 0 → fCclass fr = 3 → l = (List.range (min 4 (leAt fr 5 1))).map (fun i => leAt fr (7 + i) 1) →
        q = leAt fr 6 1 % 128 → Completes (.linkCtlFrame p) s (fun e => e = { d with ports := e.ports } ∧
          ((x.rxNext + 128 - q) % 128 < 64 → e.port p = { y with rxLanes := l, rxW := l.length, rxMap := none }) ∧
          (64 ≤ (x.rxNext + 128 - q) % 128 → e.port p = { y with rxMap := some (l, q) }))) ∧
      (∀ bad l, fType fr = 4 → checkOk fr = true → leAt fr 4 1 = 0 → fCclass fr = 3 → bad = (y.badTx ||| leAt fr 5 1 % 32) → l = nextMap y bad → 2 ≤ l.length →
        portMin y ≤ l.length → l ≠ y.txLanes → y.txLanes.length ≤ 4 → Completes (.linkCtlFrame p) s (fun e => e = { d with ports := e.ports } ∧
          (e.port p).badTx = bad ∧ (e.port p).txLanes = y.txLanes ∧ (e.port p).txCw = y.txCw + max 1 y.txLanes.length ∧
          (e.port p).newMap = some (l, (y.txCw + max 1 y.txLanes.length) % 128))) ∧
      (checkOk fr = false → fType fr = 1 ∨ fType fr = 2 ∨ fType fr = 3 ∨ fType fr = 4 →
        exec (if fType fr = 1 then .pktFrame p else if fType fr = 2 then .pktEncFrame p else if fType fr = 3 then .creditFrame p else .linkCtlFrame p) s =
          .next { s with dev := a.setPort p { a.port p with frames := hold16 ((a.port p).frames + 1) } }) ∧
      (∀ enc f q, fType fr = (if enc then 2 else 1) → checkOk fr = true → fClass fr ≤ 2 → f = frameFlit fr enc → f.hop.toNat < 24 →
        q = pathEntry f.path.toNat f.hop.toNat → q ≠ p → d.portUp q = true → (fClass fr = if f.mgmt then 2 else if f.cls then 1 else 0) →
        Completes (if enc then .pktEncFrame p else .pktFrame p) s (fun e => e = { d with ports := e.ports } ∧
          (e.port p).inb = y.inb ++ [(fClass fr, { f with dst := BitVec.ofNat 9 (0x140 + q), cmark := f.cmark || (fClass fr != 2 && decide (72 < y.inCount (fClass fr) + 1)) })] ∧
          smGet 0 (e.port p).cR (fClass fr) = fSent fr ∧ (fCclass fr < 3 → smGet 0 (e.port p).cF (fCclass fr) = fFreed fr) ∧
          (e.port p).pkts = (y.pkts + 1) % 2 ^ 64)))

/-- 07_links.md R204-R208, R212, R215, R220-R222, 06_mesh.md R196. The departure engine takes a packet it holds a slot for and returns any other; the packet sent next leaves as a frame, one hop
older, with the counts of its class; a frame leaves in the codeword of the next sequence, on the next lane of the map, behind what the last codeword left over; a failed lane is given up, a worked one
comes back, the announced map is switched to; a port goes DOWN with its departures lost, and comes UP with counts of zero. -/
def Obligations.PortRowsMovePacketsAndLanes : Prop :=
  ∀ (s : State) (p : Nat),
    let d := s.dev
    let x := d.port p
    let k := 2 * (0x140 + p)
    (∀ f rest cl, (d.edge k).arr = f :: rest → (d.edge (k + 1)).arr = [] → forEngine p f = false → x.admits f = true →
      (cl = if f.mgmt then 2 else if f.cls then 1 else 0) →
      Completes (.edgePortAccept p) s (fun e => (e.edge k).arr = rest ∧ (e.edge k).ret = (d.edge k).ret ∧
        (e.port p).dep = x.dep ++ [{ cls := cl, entering := isEntering f, flit := { f with cmark := f.cmark || (cl != 2 && decide (18 < x.depCount cl + 1)) } }] ∧
        e = { d with mesh := e.mesh, ports := e.ports })) ∧
    (∀ f rest, (d.edge k).arr = f :: rest → (d.edge (k + 1)).arr = [] → forEngine p f = false → x.admits f = false →
      Completes (.edgePortAccept p) s (fun e => (e.edge k).arr = rest ∧ (e.edge k).ret = (d.edge k).ret ++ [f] ∧ e = { d with mesh := e.mesh })) ∧
    (∀ q fr, x.st = 2 → x.pick = some q →
      fr = packetFrame { q.flit with hop := q.flit.hop + 1 } q.cls ((smGet 0 x.cS q.cls + 1) % 256) x.rot (smGet 0 x.cG x.rot) →
      Completes (.portSend p) s (fun e => e = { d with ports := e.ports } ∧
        (e.port p).dep = x.dep.erase q ∧ smGet 0 (e.port p).cS q.cls = (smGet 0 x.cS q.cls + 1) % 256 ∧ (e.port p).pkts = (x.pkts + 1) % 2 ^ 64 ∧
        (e.port p).tx = (x.put fr).tx ∧ (e.port p).txRest = (x.put fr).txRest ∧ (e.port p).txCw = x.txCw + 1)) ∧
    (x.st ≠ 2 → exec (.portSend p) s = .next { s with dev := d.setPort p { x with dep := [], packets := hold16 (x.packets + x.dep.length) } }) ∧
    (∀ fr, x.st = 2 → fr = smallFrame 3 (leBytes 1 (smGet 0 x.cS 0) ++ leBytes 1 (smGet 0 x.cS 1) ++ leBytes 1 (smGet 0 x.cS 2) ++ leBytes 1 (smGet 0 x.cG 0) ++
        leBytes 1 (smGet 0 x.cG 1) ++ leBytes 1 (smGet 0 x.cG 2)) →
      Completes (.creditReportTimer p) s (fun e => e = { d with ports := e.ports } ∧ e.port p = x.put fr ∧
        (x.newMap = none → x.txRest.length ≤ 3 → ∃ w more, (e.port p).tx = x.tx ++ [w] ∧ w.lane = x.txLanes.getD (x.txCw % max 1 x.txLanes.length) 0 ∧
          w.first = x.txRest.length ∧ w.cseq = x.txCw % 128 ∧ w.stream = x.txRest ++ fr ++ more ∧ w.stream.length = 398))) ∧
    (∀ lane, x.st = 2 → bit x.badRx lane = false → 2 ≤ (lanesFor x (x.badRx + 2 ^ lane)).length → portMin x ≤ (lanesFor x (x.badRx + 2 ^ lane)).length →
      Completes (.laneFailed p lane) s (fun e => e.port p = Port.put { x with badRx := x.badRx + 2 ^ lane, lanes := smSet LaneRec.init x.lanes lane LaneRec.init }
          (smallFrame 4 (leBytes 1 0 ++ leBytes 1 (2 ^ lane))) ∧
        e.flt = (d.raise (plainMsg (0x140 + p) 0x20 lane)).flt ∧ e = { d with ports := e.ports, flt := e.flt })) ∧
    (∀ l n, x.newMap = some (l, n) → exec (.laneMapSwitch p) s = .next { s with dev := d.setPort p { x with txLanes := l, txW := l.length, newMap := none } }) ∧
    (∀ lane tx l, x.st = 2 → tx = (if bit x.badTx lane then x.badTx - 2 ^ lane else x.badTx) → l = nextMap x tx → 2 ≤ l.length → portMin x ≤ l.length → x.txLanes.length ≤ 4 →
      Completes (.laneRetrain p lane) s (fun e => e = { d with ports := e.ports } ∧ (e.port p).badTx = tx ∧
        (e.port p).badRx = (if bit x.badRx lane then x.badRx - 2 ^ lane else x.badRx) ∧ (e.port p).txLanes = x.txLanes ∧
        (e.port p).newMap = (if l = x.txLanes then x.newMap else some (l, (x.txCw + max 1 x.txLanes.length) % 128)))) ∧
    (x.st = 2 → Completes (.portDown p) s (fun e => (e.port p).st = 0 ∧ (e.port p).dep = [] ∧ (e.port p).txLanes = [] ∧ (e.port p).inb = x.inb ∧
      (e.port p).packets = hold16 (x.packets + x.dep.length) ∧ e.flt = (d.raise (plainMsg (0x140 + p) 0x21 0)).flt ∧ e = { d with ports := e.ports, flt := e.flt })) ∧
    (∀ tl rl t r, x.st ≤ 1 → x.fenced = false → d.quadOn (edgeQuadrant (0x140 + p)) = true → portEnable x = true → t = lanesFor x (31 - tl % 32) →
      r = lanesFor x (31 - rl % 32) → portMin x ≤ t.length → portMin x ≤ r.length →
      Completes (.portUp p tl rl) s (fun e => (e.port p).st = 2 ∧ (e.port p).txLanes = t ∧ (e.port p).rxLanes = r ∧ (e.port p).txW = t.length ∧
        (e.port p).rxW = r.length ∧ (e.port p).inb = [] ∧ (e.port p).dep = [] ∧ (∀ c, smGet 0 (e.port p).cS c = 0 ∧ smGet 0 (e.port p).cF c = 0 ∧ smGet 0 (e.port p).cR c = 0 ∧
          smGet 0 (e.port p).cG c = 0) ∧
        e.fm.out = (if d.fm.placed then d.fm.out ++ [.portEvent d.fm.mgr d.fm.epoch p 2 (min t.length r.length)] else d.fm.out) ∧ e = { d with ports := e.ports, fm := e.fm }))

/-- 08_collectives.md R250, R252-R256. A contribution is combined once at an engine's slot and credited, a copy of one already combined only credited; a result goes down once, and is written at the vat of its chunk; a
barrier's token is held once per source; the RELEASE of an invalid collective completes it at its participant with the code it carries; an abort drops the collective's
slots and tokens and makes it fail. -/
def Obligations.CollPacketRows : Prop :=
  ∀ (s : State) (u : Nat) (a : Dev) (f : Flit) (bs : List Byte) (n : Nat),
    let d := s.dev
    let tree := collEntry f
    let pos := a.collPosOf f
    let x := a.unit u
    let b := a.credit u f n
    (d.takeColl u tColl kUp = some (a, some (f, bs, n)) → a.posGone u tree pos = false → f.reduce = true →
      1 < a.collExpect u tree f.ctx.toNat → x.slots = [] →
      exec (.collUp u) s = .next { s with dev := ((a.setUnit u { x with slots := [{ CollSlot.fresh tree pos (a.collExpect u tree f.ctx.toNat) with
        data := words bs, got := [a.collFrom f] }] }).countColl u).credit u f n }) ∧
    (∀ sl k, d.takeColl u tColl kUp = some (a, some (f, bs, n)) → a.posGone u tree pos = false → x.slots = [sl] →
      sl.tree = tree → sl.pos = pos → sl.data ≠ [] → sl.more = [] → sl.got.contains (a.collFrom f) = false → sl.got.length + 1 < sl.expect → a.kindOf tree (posSeq pos) = some k →
      exec (.collUp u) s = .next { s with dev := ((a.setUnit u { x with slots := [{ sl with data := combineChunk k sl.data (words bs), more := [], got := sl.got ++ [a.collFrom f], complete := false }] }).countColl u).credit u f n }) ∧
    (∀ sl, d.takeColl u tColl kUp = some (a, some (f, bs, n)) → x.slots.find? (fun t => t.tree == tree && t.pos == pos) = some sl →
      sl.got.contains (a.collFrom f) = true → exec (.collUp u) s = .next { s with dev := (a.dupColl u).credit u f n }) ∧
    (∀ sl, 0x120 ≤ u → d.takeColl u tColl kDown = some (a, some (f, bs, n)) → a.posGone u tree pos = false →
      (b.unit u).slots.find? (fun t => t.tree == tree && t.pos == pos) = some sl → sl.downSent = false →
      exec (.collDown u) s = .next { s with dev := (b.setUnit u { b.unit u with slots := (b.unit u).slots.map (fun t => if t.tree = tree ∧ t.pos = pos then { sl with downSent := true, upCred := sl.upCred || !sl.upSent } else t) }).sendDown u tree (flitSlot f) pos (words bs) }) ∧
    (∀ ctx o g c w, u < 0x120 → d.takeColl u tColl kDown = some (a, some (f, bs, n)) → a.ctxOf u = some ctx → ctx % 16 = flitSlot f → a.sliceHead ctx = f.ctx.toNat / 16 →
      g = collChunk f → (a.unit (a.rankUnit ctx)).ops.find? (fun o => o.ctx == ctx && o.numbered && o.seq == a.collSeqOf f) = some o → o.d.cores = false →
      c = g % max 1 (chunksIn o.d.count) → c % max 1 (a.partNodes (ctx / 16)).length = a.vatIndex ctx u → o.failing = false → o.release = none → o.code = 0 →
      o.wrote.contains (64 * g + a.vatIndex ctx u) = false →
      b.rankWrite ctx (gaOff o.d.dst + ((if o.d.op = 3 then g / max 1 (chunksIn o.d.count) else 0) * o.d.count + 32 * c) * o.d.esz)
        (elemsOut o.d ((words bs).take (o.d.chunkLen c))) = (w, 0) →
      exec (.collDown u) s = .next { s with dev := ((w.setOp (a.rankUnit ctx) { o with wrote := o.wrote ++ [64 * g + a.vatIndex ctx u], dirty := true }).ruCount u).checkDoneAt u }) ∧
    (∀ e, d.takeColl u tColl kArrive = some (a, some (f, bs, n)) → x.pruned (tree / 16) (a.collSeqOf f) = false → (x.prune (tree / 16) (a.collSeqOf f)).tokRoom tree (a.collSeqOf f) = true →
      (x.prune (tree / 16) (a.collSeqOf f)).tok tree (a.collSeqOf f) (collChunk f) = none →
      e = b.setUnit u (((b.unit u).prune (tree / 16) (a.collSeqOf f)).setTok { tree := tree, seq := a.collSeqOf f, bar := collChunk f, got := [a.collFrom f], digest := some f.link.toNat, bad := leAt bs 0 1 != 0, sentUp := false, release := none }) →
      1 < e.collExpect u tree f.ctx.toNat → exec (.collArrive u) s = .next { s with dev := e }) ∧
    (∀ ctx o q, u < 0x120 → d.takeColl u tColl kRelease = some (a, some (f, bs, n)) → b.ctxOf u = some ctx → collChunk f = 0 →
      (b.unit (b.rankUnit ctx)).ops.find? (fun o => o.ctx == ctx && o.numbered && o.seq == a.collSeqOf f) = some o → o.bar = 0 → o.arrived = true →
      o.failing = false → leAt bs 0 1 ≠ 0 → o.parts = [q] →
      Completes (.collRelease u) s (fun e => e.curd (curdKey q.node q.slot) = { (d.curd (curdKey q.node q.slot)).complete q.k (leAt bs 0 1) with colls := (d.curd (curdKey q.node q.slot)).colls - 1 } ∧
        (∀ i, i ≠ curdKey q.node q.slot → e.curd i = d.curd i))) ∧
    (0x120 ≤ u → d.takeColl u tColl kAbort = some (a, some (f, bs, n)) →
      Completes (.collAbort u) s (fun e => (∀ t ∈ (e.unit u).slots, t ∈ (b.unit u).slots ∧ ¬ (t.tree / 16 = tree / 16 ∧ posSeq t.pos = a.collSeqOf f)) ∧
        (∀ t ∈ (e.unit u).toks, t ∈ (b.unit u).toks ∧ ¬ (t.tree / 16 = tree / 16 ∧ t.seq = a.collSeqOf f)) ∧
        (∀ t ∈ (e.unit u).sent, t ∈ (b.unit u).sent ∧ ¬ (t.tree / 16 = tree / 16 ∧ posSeq t.pos = a.collSeqOf f)) ∧ e = { b with coll := e.coll }))

/-- 08_collectives.md R250, R252, R253, R255, R258. A chunk whose turn has come is read and sent up, or the next write of an all-to-all row is handed to the
interface; a credit ends the memory of the packet it answers; a packet not credited is sent again, and an engine that has exhausted its resends reports the edge; arrive_limit marks the
collectives without RELEASE. -/
def Obligations.CollProgressRows : Prop :=
  ∀ (s : State) (node seq : Nat),
    let d := s.dev
    (∀ ctx o chunk b ws, d.ctxOf node = some ctx → (d.unit (d.rankUnit ctx)).ops.find? (fun o => o.ctx == ctx && o.numbered && o.seq == seq) = some o →
      o.failing = false → d.collMembers o = o.parts.length → o.d.rows = false → o.d.cores = false → o.ok = true →
      d.mayRead (d.rankUnit ctx) (d.vatIndex ctx node) o chunk = true → d.collRoom (d.rankUnit ctx) node = true → d.readChunk node o chunk = (b, some ws) →
      let o1 := { o with next := smSet 0 o.next (d.vatIndex ctx node) (chunk + 1), reads := o.reads + 1 }
      Completes (.ruChunkRead node seq chunk) s (fun e => e = (((b.setOp (d.rankUnit ctx) o1).ruCount node).sendUp (d.rankUnit ctx) node o1 chunk ws) ∧
        ∃ q ∈ (e.unit (d.rankUnit ctx)).sent, q.kind = kUp ∧ q.pos = posOf o.seq chunk ∧ q.dst = 100 ∧ q.tries = 0 ∧ q.flit.payload = lanesBytes (padChunk ws))) ∧
    (∀ ctx o chunk t it n bs, d.ctxOf node = some ctx → (d.unit (d.rankUnit ctx)).ops.find? (fun o => o.ctx == ctx && o.numbered && o.seq == seq) = some o →
      o.failing = false → d.collMembers o = o.parts.length → o.d.rows = true → 1 ≤ o.phase → o.phase ≤ 3 → o.arrived = false → o.release = some 0 → o.item = chunk →
      chunk < d.itemCount o → (d.ni node).freeTag otherTagBase 64 = some t → it = d.itemAt o → it.lit = some bs → o.piece = 0 → n = min it.len (128 - it.ga % 128) →
      0 < n → ¬ (o.d.op = 6 ∧ o.phase = 1) →
      exec (.ruChunkRead node seq chunk) s = .next { s with dev := ((d.setOp (d.rankUnit ctx) { o with item := if it.len ≤ n then chunk + 1 else chunk, piece := if it.len ≤ n then 0 else n, wrOut := o.wrOut + 1 }).submit node ctx t (.coll seq) (request tWr false n 0 (bs.take n)) it.ga collSrc 0).ruCount node }) ∧
    (∀ u a f bs n q, 0x120 ≤ u → d.takeColl u tCollr 0 = some (a, some (f, bs, n)) → creditKind bs = kRelease →
      (a.unit u).sent.find? (fun e => e.tree == collEntry f && e.pos == a.collPosOf f && e.kind == creditKind bs && (e.dst == creditFrom u f || e.dst == 2000)) = some q →
      exec (.collr u) s = .next { s with dev := a.setUnit u { a.unit u with sent := (a.unit u).sent.erase q } }) ∧
    (∀ u idx q, 0x140 ≤ u → (d.unit u).sent[idx]? = some q → q.tries < collResends d →
      Completes (.collResend u idx) s (fun e => (e.unit u).sent = setNth (d.unit u).sent idx { q with tries := q.tries + 1 } ∧
        (e.port (u - 0x140)).resends = hold16 ((d.port (u - 0x140)).resends + 1) ∧ e = { d with nis := e.nis, mesh := e.mesh, coll := e.coll, ports := e.ports })) ∧
    (∀ u idx q, 0x140 ≤ u → (d.unit u).sent[idx]? = some q → collResends d ≤ q.tries →
      exec (.collResend u idx) s = .next { s with dev := d.raise (d.ctxMsg u 0x22 0 q.dst (some q.flit.ctx.toNat)) }) ∧
    exec (.arriveLimit node seq) s = .next { s with dev := d.setUnit node { d.unit node with ops := (d.unit node).ops.map (fun o => if o.numbered = true ∧ o.seq = seq ∧ o.release = none then { o with timedOut := true } else o) } }

/-- 09_fabric_manager.md R267-R275. Beacons carry the two lowest keys known and the highest epoch; the module whose own key is lowest announces a new epoch to
every placed module, the others follow; heartbeats and state keep a standby, which takes over on loss; a module takes control back; the epoch decides which
messages count. -/
def Obligations.FmElectionRows : Prop :=
  ∀ (s : State),
    let d := s.dev
    let x := d.fm
    let acked (c ep : Nat) : List FmMsg := [.mgtr (.chip c) ep 0]
    (d.fmUp = true → x.role = 0 → Completes .beaconSend s (fun e => e = { d with fm := { x with out := x.out ++ d.upPorts.map (fun p => .beacon p x.key1 x.key2 x.epoch) }, ports := e.ports })) ∧
    (∀ (S : ElKey → Prop) port k1 k2 ep, d.fmUp = true → d.portUp port = true → x.role = 0 → LeastKey S x.key1 → LeastKey (fun k => S k ∧ some k ≠ x.key1) x.key2 →
      Completes (.beacon port k1 k2 ep) s (fun e => e = { d with fm := { x with key1 := e.fm.key1, key2 := e.fm.key2, epoch := max x.epoch ep, relay := if e.fm.key1 = x.key1 then x.relay else port, out := x.out ++ [.mgtr (.port port) (max x.epoch ep) 0] }, ports := e.ports } ∧
        LeastKey (fun k => S k ∨ some k = k1 ∨ some k = k2) e.fm.key1 ∧ LeastKey (fun k => (S k ∨ some k = k1 ∨ some k = k2) ∧ some k ≠ e.fm.key1) e.fm.key2)) ∧
    (d.fmUp = true → x.role = 0 → x.key1 = none → exec .electionComplete s = .next { s with dev := { d with fm := { x with unmanaged := true } } }) ∧
    (∀ k, d.fmUp = true → x.role = 0 → x.key1 = some k → d.ownKey ≠ some k → Completes .electionComplete s (fun e => e = { d with fm := { x with role := if d.ownKey.isSome ∧ x.key2 = d.ownKey then 2 else 1, out := x.out ++ [.neighbours x.relay x.epoch d.ownReport] }, ports := e.ports })) ∧
    (∀ k cs, d.fmUp = true → x.role = 0 → x.key1 = some k → d.ownKey = some k → cs = d.fabricChips → cs.filter (fun c => c != x.mgr) ≠ [] →
      exec .electionComplete s = .next { s with dev := { d with fm := { x with role := 4, control := false, epoch := (x.epoch + 1) % 2 ^ 32, mgr := x.chip, acks := cs.filter (fun c => c != x.mgr), standby := none, syncWait := false, held := [], mgtTags := x.mgtTags ++ cs, out := x.out ++ cs.map (fun c => .takeover c ((x.epoch + 1) % 2 ^ 32) x.chip) } } }) ∧
    (x.role = 3 → x.control = true → exec .aliveSend s = .next { s with dev := { d with fm := { x with out := x.out ++ (d.placedChips.filter (fun c => c != x.chip)).map (fun c => .alive c x.epoch) } } }) ∧
    (∀ ep chip, d.fmUp = true → x.epoch ≤ ep → x.role ≤ 2 → x.waiting = [] → Completes (.alive ep chip) s (fun e => e.fm.mgr = chip ∧ e.fm.epoch = ep ∧ e.fm.unmanaged = false ∧
      e.fm.role = (if x.role = 0 then 1 else x.role) ∧ e.fm.out = x.out ++ (if x.role = 0 then [.neighbours x.relay ep d.ownReport] else []) ++ acked chip ep ∧ e = { d with fm := e.fm, host := e.host, ports := e.ports } ∧
      ((x.mgr = chip ∧ x.role ≠ 0) → e.host = d.host))) ∧
    (∀ ep b, d.fmUp = true → x.epoch < ep → x.role = 1 ∨ x.role = 2 → b = { d with fm := { x with epoch := ep, unmanaged := false } }.flushWaiting →
      exec (.alive ep x.mgr) s = .next { s with dev := b.send (.mgtr (.chip x.mgr) b.fm.epoch 0) }) ∧
    (d.fmUp = true → x.role = 1 ∨ x.role = 2 → exec .aliveTimeout s = .next { s with dev := { d with fm := { x with role := 0, control := false, key1 := d.ownKey, key2 := none, relay := 0, unmanaged := false, acks := [], standby := none, syncWait := false, held := [], handover := none, mirror := none } } }) ∧
    (∀ c, x.role = 3 → x.standby = some c → exec .heartbeatSend s = .next { s with dev := { d with fm := { x with out := x.out ++ [.heartbeat c x.epoch x.journal] } } }) ∧
    (x.role = 2 → exec .heartbeatSend s = .next { s with dev := { d with fm := { x with out := x.out ++ [.heartbeat x.mgr x.epoch x.journal] } } }) ∧
    (∀ ep j, d.fmUp = true → x.role = 2 → x.epoch ≤ ep → exec (.heartbeat ep j) s = .next { s with dev := { d with fm := { x with epoch := ep, journal := j, out := x.out ++ acked x.mgr ep } } }) ∧
    (∀ ep j, d.fmUp = true → x.role ≠ 3 → ep < x.epoch → exec (.heartbeat ep j) s = .next { s with dev := { d with fm := { x with out := x.out ++ [.mgtr (.chip x.mgr) x.epoch 1] } } }) ∧
    (∀ b cs, d.fmUp = true → x.role = 2 → b = d.loadMirror.mergeOwn → cs = b.fabricChips → cs.filter (fun c => c != x.mgr) ≠ [] →
      Completes .heartbeatLoss s (fun e => e.fm.role = 4 ∧ e.fm.epoch = (x.epoch + 1) % 2 ^ 32 ∧ e.fm.mgr = x.chip ∧ e.fm.acks = cs.filter (fun c => c != x.mgr) ∧ x.mgr ∉ e.fm.acks ∧
        e.fm.out = x.out ++ cs.map (fun c => .takeover c ((x.epoch + 1) % 2 ^ 32) x.chip) ∧ e = { d with fm := e.fm } ∧
        (∀ st, x.mirror = some st → e.fm.slices = st.slices.map (fun y => { y with waiter := y.waiter.map d.homeReq }) ∧ e.fm.listed = st.listed ∧ e.fm.nextSlice = st.nextSlice ∧ e.fm.extents = st.extents))) ∧
    (∀ ep st full, d.fmUp = true → x.epoch ≤ ep → x.role ≤ 2 → (full && x.handover == some x.chip) = false → exec (.stateSync ep st full) s = .next { s with dev := { d with fm := { x with epoch := ep, mirror := some st, journal := st.journal, role := if full then 2 else x.role, out := x.out ++ acked x.mgr ep } } }) ∧
    (x.role = 3 → x.syncWait = true → Completes .syncAckTimeout s (fun e => e.fm.syncWait = false ∧ e.fm.held = [] ∧ (∃ l, e.fm.out = x.out ++ x.held ++ l) ∧ (e.fm.standby = none ∨ e.fm.standby ≠ x.standby) ∧ e = { d with fm := e.fm, ports := e.ports })) ∧
    (∀ ep chip, d.fmUp = true → x.epoch ≤ ep → x.waiting = [] → Completes (.takeover ep chip) s (fun e => e.fm.mgr = chip ∧ e.fm.epoch = ep ∧ e.fm.control = false ∧ (e.fm.role = 1 ∨ e.fm.role = 2) ∧
      (e.fm.role = 2 → x.role = 2 ∧ x.key2 = d.ownKey) ∧ e.fm.out = x.out ++ acked chip ep ∧ e = { d with fm := e.fm, host := e.host })) ∧
    (∀ ep b, d.fmUp = true → x.epoch ≤ ep → x.role = 1 → b = { d with fm := { x with epoch := ep, control := false, unmanaged := false, handover := none } }.flushWaiting →
      exec (.takeover ep x.mgr) s = .next { s with dev := b.send (.mgtr (.chip x.mgr) b.fm.epoch 0) }) ∧
    (∀ ep chip, d.fmUp = true → ep < x.epoch → exec (.takeover ep chip) s = .next { s with dev := { d with fm := { x with out := x.out ++ [.mgtr (.chip chip) x.epoch 1] } } }) ∧
    (x.role = 4 → exec .takeoverResend s = .next { s with dev := { d with fm := { x with out := x.out ++ x.acks.map (fun c => .takeover c x.epoch x.chip) } } }) ∧
    (∀ chip b, x.role = 4 → chip ∈ x.acks → b = { d with fm := { x with acks := x.acks.filter (fun c => c != chip) } }.chipFails chip → b.fm.acks ≠ [] → exec (.takeoverSilence chip) s = .next { s with dev := b }) ∧
    (∀ tag ep, tag ∈ x.mgtTags → ep ≤ x.epoch → tag < 0x4000 → x.role = 4 → x.acks.filter (fun c => c != tag) ≠ [] →
      exec (.mgtr ⟨tag, ep⟩) s = .next { s with dev := { d with fm := { x with mgtTags := x.mgtTags.erase tag, acks := x.acks.filter (fun c => c != tag) } } }) ∧
    (∀ c ep, c < 0x4000 → 0x4000 + c ∈ x.mgtTags → 0x4000 + c ∉ x.mgtTags.erase (0x4000 + c) → ep ≤ x.epoch → x.syncWait = true → x.standby = some c →
      Completes (.mgtr ⟨(0x4000 + c), ep⟩) s (fun e => e = { d with fm := { x with mgtTags := x.mgtTags.erase (0x4000 + c), syncWait := false, out := x.out ++ x.held, held := [] }, ports := e.ports })) ∧
    (∀ tag ep, tag ∈ x.mgtTags → ep ≤ x.epoch → 0x8000 ≤ tag → exec (.mgtr ⟨tag, ep⟩) s = .next { s with dev := { d with fm := { x with mgtTags := x.mgtTags.erase tag, waiting := x.waiting.map (fun w => if w.chip.isNone ∧ 0x8000 + 256 * w.a + w.b = tag then { w with acked := true } else w) } } }) ∧
    (∀ tag ep, tag ∈ x.mgtTags → x.epoch < ep → x.role = 1 ∨ x.role = 2 → Completes (.mgtr ⟨tag, ep⟩) s (fun e =>
      e = { d with fm := { x with mgtTags := x.mgtTags.erase tag, epoch := ep, out := x.out ++ [.neighbours x.relay ep d.ownReport] }, ports := e.ports })) ∧
    (∀ tag ep, tag ∈ x.mgtTags → x.epoch < ep → x.role = 3 ∨ x.role = 4 → Completes (.mgtr ⟨tag, ep⟩) s (fun e => e = { d with fm := e.fm } ∧ e.fm.epoch = ep ∧ e.fm.role = 1 ∧ e.fm.control = false ∧ e.fm.slices = [] ∧ e.fm.out = x.out)) ∧
    (∀ k, d.fmUp = true → x.role = 1 ∨ x.role = 2 → d.ownKey = some k → fmTakeback x.cfg = true → x.key1 = some k → d.flt.openCount = 0 →
      exec .takebackStart s = .next { s with dev := { d with fm := { x with handover := some x.chip, out := x.out ++ [.takeback x.mgr x.epoch k] } } }) ∧
    (∀ chip k, d.fmUp = true → x.role = 3 → x.control = true → chip ≠ x.chip → (∀ y ∈ x.slices, y.st ≠ 2 ∧ y.st ≠ 3 ∧ y.st ≠ 4) →
      Completes (.takeback ⟨x.epoch, chip⟩ k) s (fun e => e.fm.role = 1 ∧ e.fm.control = false ∧ e.fm.mgr = chip ∧ e.fm.out = x.out ++ [.stateSync chip x.epoch d.fmState true] ++ acked chip x.epoch ∧
        e.fm.waiting = ((x.waiting ++ x.slices.filterMap (fun y => y.waiter)).filter (fun w => w.chip.isNone)).map (fun w => { w with acked := true }) ∧ e = { d with fm := e.fm, host := e.host })) ∧
    (∀ chip k y, d.fmUp = true → x.role = 3 → x.control = true → y ∈ x.slices → y.st = 2 ∨ y.st = 3 ∨ y.st = 4 →
      exec (.takeback ⟨x.epoch, chip⟩ k) s = .next { s with dev := { d with fm := { x with handover := some chip, out := x.out ++ acked chip x.epoch } } })

/-- 09_fabric_manager.md R276-R279, R288, R290. A probe is answered; the answers make the neighbour table, which goes to the manager; once every module it names has sent its own,
the manager gives every placed module its coordinates, which the module writes to its interfaces; a port event changes what the manager knows of a port, lists the links of
a DOWN port in both directions, and a chip that no port reaches has failed. -/
def Obligations.FmDiscoveryRows : Prop :=
  ∀ (s : State),
    let d := s.dev
    let x := d.fm
    let acked (c : FmPeer) : List FmMsg := [.mgtr c x.epoch 0]
    (∀ p n, d.fmUp = true → d.portUp p = true → Completes (.probe p n) s (fun e => e = { d with fm := { x with out := x.out ++ acked (.port p) ++ [.probeReply p { port := p, serial := d.sec.fuses.serial, peerPort := n.port, part := d.partCode, present := d.presentPorts }] }, ports := e.ports })) ∧
    (∀ p n t, d.fmUp = true → d.portUp p = true → x.role = 1 ∨ x.role = 2 → t = x.neigh.filter (fun y => y.port != p) ++ [{ n with port := p, peerPort := n.port }] →
      Completes (.probeReply p n) s (fun e => e = { d with fm := { x with neigh := t, out := x.out ++ acked (.port p) ++ [.neighbours x.relay x.epoch { d.ownReport with table := t }] }, ports := e.ports })) ∧
    (∀ p n t b k, d.fmUp = true → d.portUp p = true → x.role = 3 → t = x.neigh.filter (fun y => y.port != p) ++ [{ n with port := p, peerPort := n.port }] → b = { d with fm := { x with neigh := t } }.mergeOwn →
      k ∈ t → (∀ m ∈ b.fm.modules, m.serial ≠ k.serial) → (∃ m ∈ b.fm.modules, m.neigh = t) →
      Completes (.probeReply p n) s (fun e => e = { d with fm := { x with neigh := t, modules := b.fm.modules, out := x.out ++ acked (.port p) }, ports := e.ports })) ∧
    (∀ (port : Nat) (r : ModReport) (b : Dev) pl ms mask heard, d.fmUp = true → x.role = 3 → (x.neigh ++ x.modules.flatMap (fun (y : ModRec) => y.neigh)).find? (fun (n : Neighbour) => n.serial == r.serial) = some heard → r.serial ≠ d.sec.fuses.serial → r.slices = [] →
      b = { d with fm := { x with modules := x.modules.filter (fun (y : ModRec) => y.serial != r.serial) ++ [({ serial := r.serial, chip := r.stored.getD 0, placed := false, role := 1, part := heard.part, present := heard.present, portSt := [], failed := false, neigh := r.table, relay := port, stored := r.stored, key := r.key } : ModRec)] } }.mergeOwn →
      modOf x.modules r.serial = none → (∀ m ∈ b.fm.modules, ∀ n ∈ m.neigh, ∃ k ∈ b.fm.modules, k.serial = n.serial) → pl = (storedPlaces b.fm.modules).getD (walkPlaces b.fm.modules) →
      ms = b.fm.modules.map (placedMod b.fm.modules x.shape pl) → mask = ringMaskOf ((ms.filter (fun m => m.placed)).map (fun m => m.present)) →
      Completes (.neighbours port x.epoch ⟨r.serial, r.stored, r.key⟩ r.table r.slices) s (fun e => e.fm.modules = ms ∧ e.fm.extents = pl.1 ∧ e.fm.ringMask = mask ∧
        (x.standby = none → x.syncWait = false → ∀ m ∈ ms, m.placed = true → m.serial ≠ d.sec.fuses.serial → .assign m.relay x.epoch m.serial m.chip pl.1 mask ∈ e.fm.out) ∧
        (x.standby ≠ none → ∀ m ∈ ms, m.placed = true → m.serial ≠ d.sec.fuses.serial → .assign m.relay x.epoch m.serial m.chip pl.1 mask ∈ e.fm.held) ∧
        (∀ l ∈ badLinks pl ms, l ∈ e.fm.listed ∧ (nextChip (routeWord pl.1 0 0 false) l.1 l.2, l.2 ^^^ 2) ∈ e.fm.listed) ∧ e = { d with fm := e.fm, cfg := e.cfg, nis := e.nis, ports := e.ports })) ∧
    (∀ (port ep : Nat) (r : ModReport), d.fmUp = true → x.epoch ≤ ep → x.role ≤ 2 → r.serial ≠ d.sec.fuses.serial → Completes (.neighbours port ep ⟨r.serial, r.stored, r.key⟩ r.table r.slices) s (fun e =>
      e = { d with fm := { x with epoch := ep, relays := smSet 0 x.relays r.serial port, out := x.out ++ [.neighbours x.relay ep r, .mgtr (.port port) ep 0] }, ports := e.ports })) ∧
    (∀ ep chip ext mask, d.fmUp = true → x.epoch ≤ ep → x.role ≤ 2 → Completes (.assign ⟨ep, d.sec.fuses.serial⟩ chip ext mask) s (fun e => e.fm = { x with epoch := ep, placed := true, chip := chip, extents := ext, ringMask := mask, stored := some chip, out := x.out ++ [.mgtr (.chip x.mgr) ep 0] } ∧
      (∀ n, n < 288 → (d.vat n).lst ≠ .fusedOff → e.ni n = { d.ni n with routeCfg := BitVec.ofNat 64 (setBits (d.ni n).routeCfg.toNat 35 0 (routeWord ext mask chip false)) }) ∧
      (∀ n, 288 ≤ n → e.ni n = d.ni n) ∧ e = { d with fm := e.fm, cfg := e.cfg, nis := e.nis, ports := e.ports } ∧ (x.stored = some chip → e.cfg = d.cfg))) ∧
    (∀ ep serial chip ext mask, d.fmUp = true → x.epoch ≤ ep → x.role ≤ 2 → serial ≠ d.sec.fuses.serial → (∃ q ∈ x.relays, q.1 = serial) → Completes (.assign ⟨ep, serial⟩ chip ext mask) s (fun e =>
      e = { d with fm := { x with epoch := ep, out := x.out ++ [.assign (smGet 0 x.relays serial) ep serial chip ext mask, .mgtr (.chip x.mgr) ep 0] }, ports := e.ports })) ∧
    (∀ chip port st w, d.fmUp = true → x.role = 3 → x.control = true → st = 1 ∨ 3 < st →
      Completes (.portEvent ⟨x.epoch, chip⟩ port st w) s (fun e => e = { d with fm := { x with modules := e.fm.modules, out := x.out ++ acked (.chip chip) } } ∧ e.fm.modules = x.modules.map (fun m => if m.placed = true ∧ m.chip = chip then
        { m with portSt := smSet 0 m.portSt port (st % 4 + 4 * (w % 8) + 32 * (smGet 0 m.portSt port / 32)) } else m))) ∧
    (∀ chip port w l0, d.fmUp = true → x.role = 3 → x.control = true → l0 = (nextChip (routeWord x.extents 0 0 false) chip port, port ^^^ 2) →
      (∀ m ∈ x.modules, m.placed = true → (m.chip = chip → smGet 0 m.portSt port / 32 = 0) ∧ (m.chip = l0.1 → smGet 0 m.portSt l0.2 / 32 = 0)) →
      Completes (.portEvent ⟨x.epoch, chip⟩ port 2 w) s (fun e => e = { d with fm := { x with modules := e.fm.modules, listed := e.fm.listed, journal := e.fm.journal, syncWait := e.fm.syncWait, mgtTags := e.fm.mgtTags, out := e.fm.out } } ∧
        (∀ l, l ∈ e.fm.listed ↔ l ∈ x.listed ∧ l ≠ (chip, port) ∧ l ≠ l0))) ∧
    (∀ chip port w m, d.fmUp = true → x.role = 3 → x.control = true → m ∈ x.modules → m.placed = true → m.chip = chip → smGet 0 m.portSt port / 32 ≠ 0 →
      Completes (.portEvent ⟨x.epoch, chip⟩ port 2 w) s (fun e => e = { d with fm := { x with modules := e.fm.modules, out := x.out ++ acked (.chip chip) } })) ∧
    (∀ port w, d.fmUp = true → x.role = 3 → x.control = true → x.slices = [] → Completes (.portEvent ⟨x.epoch, x.chip⟩ port 0 w) s (fun e =>
      e = { d with fm := { x with modules := e.fm.modules, listed := e.fm.listed, journal := e.fm.journal, syncWait := e.fm.syncWait, mgtTags := e.fm.mgtTags, out := e.fm.out } } ∧
      (∀ l, l ∈ e.fm.listed ↔ l ∈ x.listed ∨ l = (x.chip, port) ∨ l = (nextChip (routeWord x.extents 0 0 false) x.chip port, port ^^^ 2)))) ∧
    (∀ chip m, x.role = 3 → x.control = true → chip ≠ x.chip → x.slices = [] → d.lostChip chip = false → x.modules.find? (fun m => m.placed && m.chip == chip) = some m →
      Completes (.chipNoAnswer chip) s (fun e => e = { d with fm := { x with modules := e.fm.modules, acks := x.acks.filter (fun c => c != chip), listed := e.fm.listed, journal := e.fm.journal, syncWait := e.fm.syncWait, mgtTags := e.fm.mgtTags, out := e.fm.out } } ∧
        (∀ k ∈ e.fm.modules, k.placed = true → k.chip = chip → k.failed = true) ∧
        (∀ p, p < 16 → bit m.present p = true → (chip, p) ∈ e.fm.listed ∧ (nextChip (routeWord x.extents 0 0 false) chip p, p ^^^ 2) ∈ e.fm.listed)))

/-- 09_fabric_manager.md R290-R294, R297, 14_recovery.md R421-R425. A drain stops a slice's slot and fails its collectives; the manager goes on when every member has reported and aborts
the slice where one has not; a member writes the tables it is sent and reports; a resume opens the slot again; an abort reaches every member once; when every member has reported its teardown the
ranks are restarted or left without a program. -/
def Obligations.FmReactionRows : Prop :=
  ∀ (s : State) (chip id : Nat) (y : SliceRec),
    let d := s.dev
    let x := d.fm
    let cs := y.chips x.extents
    let acked : List FmMsg := [.mgtr (.chip chip) x.epoch 0]
    (∀ node stop, Completes (.niDrainStop node stop) s (fun e => (e.ni node).stop = stop ∧ e = { d with nis := e.nis } ∧ (∀ n, n ≠ node → e.ni n = d.ni n) ∧
      (∀ t r, (t, some r) ∈ (d.ni node).tags → (t, some (if r.st = .parked ∧ stop.getLsbD (r.ctx % 16) = false then { r with st := .waiting } else r)) ∈ (e.ni node).tags))) ∧
    (∀ ep slot, d.fmUp = true → x.epoch ≤ ep → x.role ≤ 2 → slot < 16 → Completes (.drain ep id slot) s (fun e => (∀ n, (n, slot) ∈ d.sliceNis id → (e.ni n).stop.getLsbD slot = true) ∧
      (∀ c u o, c ∈ d.sliceCtxs id → c % 16 = slot → o ∈ (e.unit u).ops → o.ctx = c → o.failing = true) ∧
      ((id, slot) ∈ e.fm.draining ∨ ∃ w k, .drainReport x.mgr ep id true w k ∈ e.fm.out) ∧ e = { d with nis := e.nis, coll := e.coll, fm := e.fm })) ∧
    (∀ w k, d.fmUp = true → x.role = 3 → x.control = true → d.sliceRec id = some y → y.st = 2 → chip ∈ y.awaiting → y.awaiting.filter (fun c => c != chip) ≠ [] →
      exec (.drainReport ⟨x.epoch, chip⟩ id true w k) s = .next { s with dev := { d with fm := { x with out := x.out ++ acked, slices := x.slices.map (fun z => if z.id = y.id then { y with awaiting := y.awaiting.filter (fun c => c != chip), outcomes := mergeOutcomes y.outcomes w } else z) } } }) ∧
    (∀ w k ts, d.fmUp = true → x.role = 3 → x.control = true → d.sliceRec id = some y → y.st = 2 → y.awaiting = [chip] → (d.detoursOf y).length ≤ 512 → y.routable x.extents x.ringMask (d.detoursOf y) y.newLinks = true →
      y.allTrees x.extents x.ringMask (d.detoursOf y) = some ts → (d.planTrees (y.plist.headD 0) cs ts.length).isSome = true →
      Completes (.drainReport ⟨x.epoch, chip⟩ id true w k) s (fun e => e.fm.slices = x.slices.map (fun z => if z.id = y.id then { y with trees := ts, st := 3, awaiting := cs, installing := true, newLinks := [], moves := [], outcomes := mergeOutcomes y.outcomes w } else z))) ∧
    (∀ row, (row = .drainLimit id ∧ y.awaiting ≠ [] ∨ d.fmUp = true ∧ ∃ w k, row = .drainReport ⟨x.epoch, chip⟩ id false w k ∧ chip ∈ y.awaiting) → x.role = 3 → x.control = true → d.sliceRec id = some y → y.st = 2 →
      Completes row s (fun e => e.fm.slices = x.slices.map (fun z => if z.id = y.id then { y with st := 5, awaiting := cs, installing := false, reports := [], outcomes := [], suspect := false } else z) ∧
        (x.standby = none → x.syncWait = false → ∃ l, e.fm.out = x.out ++ cs.map (fun c => .abortTo c { sliceId := y.id, gen := y.gen, origin := x.chip, cause := 0 }) ++ l) ∧
        (∀ b, x.standby = some b → (∃ st l, e.fm.out = x.out ++ [.stateSync b x.epoch st false] ++ l ∧ st.journal = x.journal + 1 ∧ st.slices = e.fm.slices.map (fun z => { z with waiter := z.waiter.map d.awayReq })) ∧
          e.fm.held = x.held ++ cs.map (fun c => .abortTo c { sliceId := y.id, gen := y.gen, origin := x.chip, cause := 0 })) ∧
        e = { d with fm := e.fm, host := e.host })) ∧
    (∀ m : InstallMsg, d.fmUp = true → x.epoch ≤ m.epoch → x.role ≤ 2 → m.slice ≠ 0 → m.homes = [] → d.ownTables m = m → d.movedOff m = [] → (m.trees.map (fun t => t.1)).Nodup → (∀ q ∈ m.trees, q.1 < 1024) →
      Completes (.install m) s (fun e => (∀ p sl n, (p, sl) ∈ memberSlots m x.chip → n ∈ d.partNodes p → (e.ni n).detour = m.detours ∧ (e.ni n).routeCfg = m.routeCfg ∧ smGet 0 (e.ni n).slices sl = m.slice) ∧
        (∀ p sl, (p, sl) ∈ memberSlots m x.chip → smGet 0 e.lastGen (16 * p + sl) = sdGen m.slice.toNat) ∧
        (∀ t w u, (t, w) ∈ m.trees → u ∈ treeUnits → e.tree u t = w.toNat) ∧ (d.mesh.stopA = false → e.mesh.groups = d.mesh.groups ∧ ∀ q ∈ m.groups, q ∈ e.mesh.toGroups) ∧
        (e.mesh.toGroups = [] → .installDone x.mgr m.epoch m.sliceId ∈ e.fm.out) ∧ (e.mesh.toGroups ≠ [] → m.sliceId ∈ e.fm.installWait) ∧
        e = { d with nis := e.nis, lastGen := e.lastGen, trees := e.trees, mesh := { d.mesh with groups := e.mesh.groups, toGroups := e.mesh.toGroups }, fm := e.fm })) ∧
    (∀ (m : InstallMsg) b, d.fmUp = true → x.epoch ≤ m.epoch → x.role ≤ 2 → m.slice = 0 → d.sliceCtxs m.sliceId = [] → b = { d with fm := { x with epoch := m.epoch } }.dropTables m.sliceId →
      (b.mesh.toGroups = [] → exec (.install m) s = .next { s with dev := (b.send (.installDone x.mgr m.epoch m.sliceId)).send (.mgtr (.chip x.mgr) m.epoch 0) }) ∧
      (b.mesh.toGroups ≠ [] → exec (.install m) s = .next { s with dev := { b with fm := { x with epoch := m.epoch, installWait := x.installWait.filter (fun i => i != m.sliceId) ++ [m.sliceId], out := x.out ++ [.mgtr (.chip x.mgr) m.epoch 0] } } })) ∧
    (d.fmUp = true → x.role = 3 → x.control = true → d.sliceRec id = some y → y.installing = true → chip ∈ y.awaiting → y.awaiting.filter (fun c => c != chip) ≠ [] →
      exec (.installDone ⟨x.epoch, chip⟩ id) s = .next { s with dev := { d with fm := { x with out := x.out ++ acked, slices := x.slices.map (fun z => if z.id = y.id then { y with awaiting := y.awaiting.filter (fun c => c != chip) } else z) } } }) ∧
    (d.fmUp = true → x.role = 3 → x.control = true → d.sliceRec id = some y → y.installing = true → y.awaiting = [chip] → y.st = 0 → y.destroying = false → y.waiter = none → x.handover = none →
      Completes (.installDone ⟨x.epoch, chip⟩ id) s (fun e => e.fm.slices = x.slices.map (fun z => if z.id = y.id then { y with awaiting := [], installing := false, st := 1 } else z) ∧ e = { d with fm := e.fm, host := e.host })) ∧
    (∀ ep slot, d.fmUp = true → x.epoch ≤ ep → x.role ≤ 2 → slot < 16 →
      Completes (.resume ep id slot []) s (fun e => (∀ n, (n, slot) ∈ d.sliceNis id → (e.ni n).stop.getLsbD slot = false) ∧ (∀ q ∈ e.fm.draining, q.1 ≠ id) ∧ e = { d with nis := e.nis, fm := e.fm })) ∧
    (∀ ep slot c o q code, d.fmUp = true → x.epoch ≤ ep → x.role ≤ 2 → d.sliceCtxs id = [c] → (d.unit (d.rankUnit c)).ops = [o] → o.ctx = c → o.failing = true → o.parts = [q] →
      Completes (.resume ep id slot [(o.seq, code)]) s (fun e => (e.unit (d.rankUnit c)).ops = [] ∧
        e.curd (curdKey q.node q.slot) = { (d.curd (curdKey q.node q.slot)).complete q.k code with colls := (d.curd (curdKey q.node q.slot)).colls - 1 } ∧ (∀ i, i ≠ curdKey q.node q.slot → e.curd i = d.curd i))) ∧
    (∀ m c, d.fmUp = true → x.role ≤ 2 → (d.sliceCtxs m.sliceId).find? (fun c => (d.ctx c).gen == m.gen) = some c → (m.sliceId, m.gen) ∈ x.seenAborts →
      Completes (.sliceAbort chip m) s (fun e => e = { d with fm := { x with out := x.out ++ [.mgtr (.port chip) x.epoch 0] }, ports := e.ports })) ∧
    (∀ m, d.fmUp = true → x.role ≤ 2 → d.sliceCtxs m.sliceId = [] → d.sliceNis m.sliceId ≠ [] → (m.sliceId, m.gen) ∉ x.seenAborts →
      Completes (.sliceAbort chip m) s (fun e => e.fm = { x with seenAborts := x.seenAborts.filter (fun q => q.1 != m.sliceId) ++ [(m.sliceId, m.gen)], out := x.out ++ [.mgtr (.port chip) x.epoch 0, .teardownReport x.mgr m.sliceId []] } ∧
        (∀ n sl p, (n, sl) ∈ d.sliceNis m.sliceId → d.partOf n = some p → (d.ctx (16 * p + sl)).live = false → sdGen (smGet 0 (e.ni n).slices sl).toNat = (m.gen + 1) % 4096) ∧
        e = { d with fm := e.fm, nis := e.nis, lastGen := e.lastGen, trees := e.trees, ctxs := e.ctxs, ports := e.ports })) ∧
    (∀ m c, d.fmUp = true → x.role ≤ 2 → d.sliceCtxs m.sliceId = [c] → (d.ctx c).gen = m.gen → (d.ctx c).live = true → (d.ctx c).tear = none → d.isResident c = true → (m.sliceId, m.gen) ∉ x.seenAborts →
      Completes (.sliceAbort chip m) s (fun e => (∃ t, (e.ctx c).tear = some t ∧ t.cause = m.cause ∧ t.waitUnits = d.busyUnits c) ∧ (m.sliceId, m.gen) ∈ e.fm.seenAborts ∧
        (∀ p ∈ d.memberPorts c, p ≠ chip → .sliceAbort p m ∈ e.fm.out) ∧ (e.part (c / 16)).switchTo = none)) ∧
    (∀ rs, x.role = 3 → x.control = true → d.sliceRec id = some y → y.st = 5 → y.installing = false → chip ∈ y.awaiting → y.awaiting.filter (fun c => c != chip) ≠ [] →
      exec (.teardownReport chip id rs) s = .next { s with dev := { d with fm := { x with slices := x.slices.map (fun z => if z.id = y.id then { y with awaiting := y.awaiting.filter (fun c => c != chip), reports := y.reports ++ rs } else z) } } }) ∧
    (x.role = 3 → x.control = true → d.sliceRec id = some y → y.st = 5 → y.installing = false → chip ∈ y.awaiting → x.syncWait = false →
      exec (.abortResend id chip) s = .next { s with dev := { d with fm := { x with out := x.out ++ [.abortTo chip { sliceId := id, gen := y.gen, origin := x.chip, cause := 0 }] } } }) ∧
    (∀ ep gen ks, d.fmUp = true → x.epoch ≤ ep → x.role ≤ 2 → ks = (d.sliceCtxs id).filter (fun c => (d.ctx c).gen == gen && (d.ctx c).tear.isNone) → ks ≠ [] →
      Completes (.restart ep id ⟨gen, none⟩) s (fun e => (∀ c ∈ ks, (e.ctx c).prog = .none_ ∧ (e.ctx c).saved = none) ∧ (∀ c, c ∉ ks → e.ctx c = d.ctx c) ∧ (∀ q ∈ e.fm.draining, q.1 ≠ id))) ∧
    (∀ ep gen n ks b c r t, d.fmUp = true → x.epoch ≤ ep → x.role ≤ 2 → ks = (d.sliceCtxs id).filter (fun c => (d.ctx c).gen == gen && (d.ctx c).tear.isNone) → ks ≠ [] →
      b = ((d.sliceNis id).map (fun q => q.2)).dedup.foldl (fun a q => a.stopSlice id q false) { d with fm := { x with epoch := ep, draining := x.draining.filter (fun q => q.1 != id) } } →
      c = ks.foldl (fun a q => a.setCtx q ((a.ctx q).resumedAt n)) b → c.reloadAll ks n = (r, true) →
      t = ks.foldl (fun a q => (a.setCtx q { a.ctx q with barred := [] }).event 2 (some (q / 16))) (r.sliceState id 1) →
      exec (.restart ep id ⟨gen, (some n)⟩) s = .next { s with dev := t.send (.mgtr (.chip x.mgr) t.fm.epoch 0) })

/-- 09_fabric_manager.md R271, R282, R295, R296, 12_rennet.md R372, R373. A request of group 0x06 reaches the manager from a mailbox or another module; SLICE_CREATE is checked field by
field and carved; a known slice is described, destroyed by an abort or kept waiting during a reaction; where no manager holds control a request waits, and then times out; the answer goes
back to the mailbox that asked. -/
def Obligations.FmRequestRows : Prop :=
  ∀ (s : State) (f key chip ref : Nat) (m : List Byte),
    let d := s.dev
    let x := d.fm
    let id := leAt m 8 4
    (∀ row op w a (fin : Dev → Dev), (row = .sliceCreate f key ∧ op = 0x0601 ∨ row = .sliceDestroy f key ∧ op = 0x0602 ∨ row = .sliceQuery f key ∧ op = 0x0603 ∧ d.reachesSlice f id = true) ∧ Begins s f key op m ∧ w = { chip := none, a := f, b := key, req := m, acked := false } ∧ a = d.begin_ f key ∧ fin = (fun e => e) ∨
        row = .request ⟨x.epoch, chip⟩ ref m ∧ d.fmUp = true ∧ leAt m 0 2 = op ∧ w = { chip := some chip, a := ref, b := 0, req := m, acked := true } ∧ a = d ∧ fin = (fun e : Dev => e.send (.mgtr (.chip chip) e.fm.epoch 0)) → x.role = 3 → x.control = true →
      (∀ y, op = 0x0603 → d.sliceRec id = some y → y.st ≠ 2 ∧ y.st ≠ 3 ∧ y.st ≠ 4 → exec row s = .next { s with dev := fin (a.reply6 w 0 y.query) }) ∧
      (op = 0x0602 ∨ op = 0x0603 → d.sliceRec id = none → exec row s = .next { s with dev := fin (a.reply6 w 5 (leBytes 2 8 ++ leBytes 6 0)) }) ∧
      (∀ y, op = 0x0603 → d.sliceRec id = some y → y.st = 2 ∨ y.st = 3 ∨ y.st = 4 → exec row s = .next { s with dev := fin { a with fm := { a.fm with waiting := a.fm.waiting ++ [w] } } }) ∧
      (∀ y, op = 0x0602 → d.sliceRec id = some y → inReaction y.st = true ∨ y.destroying = true → exec row s = .next { s with dev := fin { a with fm := { a.fm with waiting := a.fm.waiting ++ [w] } } }) ∧
      (∀ y, op = 0x0602 → d.sliceRec id = some y → inReaction y.st = false → y.destroying = false → d.writesHere y = false →
        Completes row s (fun e => e.fm.slices = x.slices.map (fun z => if z.id = y.id then { y with destroying := true, waiter := some w, st := 5, awaiting := y.chips x.extents, installing := false, reports := [], outcomes := [], suspect := false } else z))) ∧
      (∀ y, op = 0x0602 → d.sliceRec id = some y → inReaction y.st = false → y.destroying = false → d.writesHere y = true → d.sliceCtxs y.id = [] →
        exec row s = .next { s with dev := fin (((a.setSlice { y with destroying := true, waiter := some w }).dropTables y.id).closeSlice y.id) }) ∧
      (∀ off, op = 0x0601 → (4 ≤ leAt m 8 1 ∧ off = 8 ∨ leAt m 8 1 < 4 ∧ (leAt m 9 1 = 0 ∨ 16 < leAt m 9 1) ∧ off = 9 ∨ leAt m 8 1 < 4 ∧ leAt m 9 1 ≠ 0 ∧ leAt m 9 1 ≤ 16 ∧ 4 < leAt m 0xA 1 ∧ off = 0xA) →
        exec row s = .next { s with dev := fin (a.reply6 w 3 (leBytes 2 off ++ leBytes 2 0 ++ leBytes 4 0)) }) ∧
      (∀ (x0 : SliceRec) (r : Option SliceRec) (ext : List Nat) (bases : List (List Nat)), op = 0x0601 → leAt m 8 1 < 4 → leAt m 9 1 ≠ 0 → leAt m 9 1 ≤ 16 → leAt m 0xA 1 ≤ 4 → ext = (List.range 4).map (fun i => leAt m (0x10 + i) 1) →
        (∀ i, i < 4 → 1 ≤ ext.getD i 0 ∧ ext.getD i 0 ≤ x.extents.getD i 1) → bit (leAt m 8 1) 1 = false → bases = basesOf x.extents →
        x0 = { id := x.nextSlice, st := 0, conf := bit (leAt m 8 1) 0, base := (List.range 4).map (fun i => leAt m (0x0C + i) 1), ext := ext, p := leAt m 9 1, psize := leAt m 0xA 1, slot := 0, gen := 0, plist := [], exc := [], trees := [], awaiting := [], installing := true, outcomes := [], newLinks := [], reports := [], waiter := some w, destroying := false, lastStep := 0, resumes := 0, moves := [], rebuilt := false, suspect := false } → r = bases.findSome? (fun b => a.carveAt { x0 with base := b }) →
        (r = none → exec row s = .next { s with dev := fin (({ a with free := a.free + 1 } : Dev).reply6 w 6 (leBytes 8 0)) }) ∧
        (∀ y, r = some y → d.writesHere y = true → a.installMsg y x.chip = none → exec row s = .next { s with dev := fin (({ a with free := a.free + 1, fm := { a.fm with nextSlice := a.fm.nextSlice + 1, slices := a.fm.slices ++ [{ y with st := 1, waiter := none }] } } : Dev).reply6 w 0 y.created) }) ∧
        (∀ y t, r = some y → d.writesHere y = true → a.installMsg y x.chip = some t →
          exec row s = .next { s with dev := fin ((({ a with free := a.free + 1, fm := { a.fm with nextSlice := a.fm.nextSlice + 1, slices := a.fm.slices ++ [{ y with st := 1, waiter := none }] } } : Dev).writeTables t).reply6 w 0 y.created) }) ∧
        (∀ y, r = some y → d.writesHere y = false → Completes row s (fun e => e.fm.slices = x.slices ++ [{ y with awaiting := y.chips x.extents }] ∧ e.fm.nextSlice = x.nextSlice + 1)))) ∧
    (∀ ep, d.fmUp = true → x.epoch ≤ ep → x.role ≤ 2 → exec (.request ⟨ep, chip⟩ ref m) s = .next { s with dev := { d with fm := { x with epoch := ep, waiting := x.waiting ++ [{ chip := some chip, a := ref, b := 0, req := m, acked := false }], out := x.out ++ [.mgtr (.chip chip) ep 0] } } }) ∧
    (d.fmUp = true → x.role = 3 → x.control = true → leAt m 0 2 = 0x0604 → exec (.request ⟨x.epoch, chip⟩ ref m) s = .next { s with dev := { d with fm := { x with out := x.out ++ [.answer chip x.epoch ref (rspBytes 0 0 0 (d.fabricHead 0 x.modules.length)), .mgtr (.chip chip) x.epoch 0] } } }) ∧
    (∀ row op, (row = .sliceCreate f key ∧ op = 0x0601 ∨ row = .sliceDestroy f key ∧ op = 0x0602 ∨ row = .sliceQuery f key ∧ op = 0x0603 ∧ d.reachesSlice f id = true ∨ row = .fabricMap f key ∧ op = 0x0604) → Begins s f key op m → x.role = 1 ∨ x.role = 2 →
      Completes row s (fun e => (e.mbx f key).begun = true ∧ e.fm = { x with waiting := x.waiting ++ [{ chip := none, a := f, b := key, req := m, acked := false }], mgtTags := x.mgtTags ++ [0x8000 + (256 * f + key)], out := x.out ++ [.request x.mgr x.epoch (256 * f + key) m] } ∧ e = { d with fm := e.fm, host := e.host })) ∧
    (Begins s f key 0x0603 m → d.reachesSlice f id = false → exec (.sliceQuery f key) s = .next { s with dev := d.refuseCmd f key 4 8 0 0 }) ∧
    (Begins s f key 0x0604 m → x.role = 3 → x.control = true → leAt m 8 8 = 0 → exec (.fabricMap f key) s = .next { s with dev := d.respond f key 0 (d.fabricHead 0 0) }) ∧
    (Begins s f key 0x0604 m → x.role = 3 → x.control = true → leAt m 8 8 ≠ 0 → leAt m 0x10 4 < 32 * x.modules.length → exec (.fabricMap f key) s = .next { s with dev := d.refuseCmd f key 6 0x10 0 (32 * x.modules.length) }) ∧
    (Begins s f key 0x0604 m → x.role = 3 → x.control = true → leAt m 8 8 ≠ 0 → 32 * x.modules.length ≤ leAt m 0x10 4 → x.modules ≠ [] → d.host.linkUp = true →
      exec (.fabricMap f key) s = .next { s with dev := (d.hostWrite (leAt m 8 8) (x.modules.flatMap ModRec.record)).respond f key 0 (d.fabricHead 0 x.modules.length) }) ∧
    (Begins s f key 0x0604 m → x.role = 0 ∨ x.role = 4 → exec (.fabricMap f key) s = .next { s with dev := d.respond f key 0 (d.fabricHead (if x.unmanaged then 2 else 1) 0) }) ∧
    (∀ ep w rsp t, d.fmUp = true → x.epoch ≤ ep → x.role ≤ 2 → x.waiting.find? (fun w => w.chip.isNone && 256 * w.a + w.b == ref) = some w → leAt w.req 0 2 ≠ 0x0604 →
      t = ({ d with fm := { x with epoch := ep, waiting := x.waiting.filter (fun y => y != w) } } : Dev).respondFlag w.a w.b (leAt rsp 2 1) (leAt rsp 3 1) ((rsp.drop 8).take (leAt rsp 4 2)) →
      exec (.answer ⟨ep, ref⟩ rsp) s = .next { s with dev := t.send (.mgtr (.chip x.mgr) t.fm.epoch 0) }) ∧
    (∀ w, x.waiting.find? (fun w => w.chip.isNone && w.a == f && w.b == key) = some w → x.role ≠ 3 → exec (.group6WaitTimeout f key) s = .next { s with dev := ({ d with fm := { x with waiting := x.waiting.filter (fun y => y != w) } } : Dev).refuseCmd f key 8 0 0 0 }) ∧
    (∀ w, x.waiting.find? (fun w => w.chip.isNone && w.a == f && w.b == key) = some w → x.role = 3 → x.control = true → exec (.group6WaitTimeout f key) s = .next s)

/-- 06_mesh.md R194, 14_recovery.md R408, R414-R417, R430-R432. A hung context is reported at its sixteenth sample without progress; a teardown ends with the generation advanced once every unit has confirmed and nothing is in
flight; what does not confirm in time escalates to its partition and then to the chip; a failed core hands over to the standby or both are restarted; spares that fail are counted. -/
def Obligations.ResetRows : Prop :=
  ∀ (s : State) (ctx : Nat) (u : Nat),
    let d := s.dev
    let c := d.ctx ctx
    let p := ctx / 16
    let b := (d.partNodes p).foldl (fun (a : Dev) n => a.setUnit n (a.unit n).sampled) d
    (((List.range 64).filterMap (fun p => (d.part p).resident.map (fun s => 16 * p + s))).filter (fun c => (d.ctx c).live) = [ctx] →
      (b.noJudgement ctx = true ∨ b.progressSum ctx ≠ c.lastSum ∨ (∃ e ∈ b.partCurds p, b.waitProgress e.1 e.2 = true) →
        exec .hangSample s = .next { s with dev := b.setCtx ctx { c with lastProg := 0, lastSum := b.progressSum ctx } }) ∧
      (b.noJudgement ctx = false → b.progressSum ctx = c.lastSum → (∀ e ∈ b.partCurds p, b.waitProgress e.1 e.2 = false) →
        (c.lastProg < 15 → exec .hangSample s = .next { s with dev := b.setCtx ctx { c with lastProg := c.lastProg + 1 } }) ∧
        (c.lastProg = 15 → b.pendingWork ctx = true → c.tear = none → Completes .hangSample s (fun e => (e.ctx ctx).lastProg = 16 ∧ e.rrc.hang = ctx + c.gen * 2 ^ 10 + bits d.timer.toNat 39 0 * 2 ^ 24 ∧
          smGet Stop.init e.flt.stops (0x400 + ctx) = (smGet Stop.init d.flt.stops (0x400 + ctx)).take (d.ctxMsg (0x400 + ctx) 0x60 0 0 (some ctx)))))) ∧
    (∀ t, c.tear = some t → d.rrc.engineWait.contains u = false → exec (.resetAgentConfirm ctx u) s = .next { s with dev := d.setCtx ctx { c with tear := some { t with waitUnits := t.waitUnits.filter (fun v => v != u) } } }) ∧
    (c.tear = none → u ∈ d.rrc.engineWait → ¬ (u < 0x9000 ∧ u % 128 = unitControl) → (∀ x ∈ d.unitCtxs u, (d.ctx x).tear = none) → d.rrc.engineReq.filter (fun e => e.1 == u) = [] →
      exec (.resetAgentConfirm ctx u) s = .next { s with dev := (({ d with rrc := { d.rrc with engineWait := d.rrc.engineWait.erase u, engineReq := d.rrc.engineReq.filter (fun e => e.1 != u) } } : Dev).clearUnit u).settleFaults }) ∧
    (∀ t, c.tear = some t → d.tornThrough ctx t = true → d.memoryAway p = false → exec (.teardownDrained ctx) s = .next { s with dev := ((d.advance ctx).doFences p).afterTear ctx t } ∧
      (d.advance ctx).ctx ctx = { c with gen := (c.gen + 1) % 4096, tear := none, collSeq := 0, linkRound := c.linkRound + 1, waitSig := [] } ∧ smGet 0 (d.advance ctx).lastGen ctx = (c.gen + 1) % 4096) ∧
    (∀ t, c.tear = some t → d.tornThrough ctx t = false → exec (.teardownDrained ctx) s = .next s) ∧
    (∀ t, c.tear = some t → d.tornThrough ctx t = false → (d.part p).st ≠ 0 → (d.part p).st ≠ 3 → Completes (.teardownTimeout ctx) s (fun e => (e.part p).st = 3 ∧ (e.part p).switchTo = none ∧ e.rrc.lastLevel = 2 ∧ e.rrc.lastCause = t.cause ∧ e.rrc.escalated = true ∧
      ∀ n ∈ d.partNodes p, vatUnit n unitControl ∈ e.rrc.engineWait)) ∧
    (u ∈ d.rrc.engineWait → 0x9000 ≤ u → u < 0x9010 → d.rrc.engineReq.filter (fun e => e.1 == u) = [] → Completes (.engineResetTimeout u) s (fun e => e.rrc.engineWait = d.rrc.engineWait.erase u ∧ (e.port (u - 0x9000)).fenced = true ∧
      smGet Stop.init e.flt.stops rrcSrc = (smGet Stop.init d.flt.stops rrcSrc).take (plainMsg rrcSrc 0x62 u))) ∧
    (∀ q, u ∈ d.rrc.engineWait → u < 0x9000 → u % 128 ≠ unitControl → d.partOf (u / 128) = some q → (d.part q).st ≠ 0 → (d.part q).st ≠ 3 → Completes (.engineResetTimeout u) s (fun e => (e.part q).st = 3 ∧ e.rrc.lastLevel = 2 ∧ e.rrc.escalated = true)) ∧
    (∀ q, (d.part q).st = 3 → d.boot.chipResetting = false → d.pwr.islandUp = true → d.pwr.ioUp = true → Completes (.partitionResetTimeout q) s (fun e => ChipWasReset e d.rrc.lastCause)) ∧
    (d.mesh.stopA = true ∨ d.mesh.stopB = true → (d.planeEmpty .a && d.planeEmpty .b) = false → d.boot.chipResetting = false → d.pwr.islandUp = true → d.pwr.ioUp = true →
      Completes .quiesceTimeout s (fun e => ChipWasReset e (if d.mesh.toFence = [] then 0 else 0x14))) ∧
    (d.rrc.bothDown = false → d.rrc.standbyOk = true → Completes .mgmtFailover s (fun e => e.rrc.primaryB = !d.rrc.primaryB ∧ e.rrc.standbyOk = false ∧ e.rrc.failovers = hold16 (d.rrc.failovers + 1) ∧ e.rrc.selftest = some d.rrc.primaryB ∧
      e.host.recvUp = d.host.recvUp ∧ smGet Stop.init e.flt.stops rrcSrc = (smGet Stop.init d.flt.stops rrcSrc).take (plainMsg rrcSrc 0x65 0) ∧ (d.boot.running = true → 1 ≤ d.boot.stage → d.boot.stage < 8 → e.boot = { d.boot with stepNo := 0, progress := 0, stageAt := d.timer.toNat }))) ∧
    (d.rrc.bothDown = false → d.rrc.standbyOk = false → Completes .mgmtFailover s (fun e => e.rrc.bothDown = true ∧ e.rrc.selftest = none ∧ e.host.recvUp = false)) ∧
    (d.rrc.bothDown = true → exec .mgmtFailover s = .next s) ∧
    (d.rrc.bothDown = true → exec (.standbySelftestDone true) s = .next { s with dev := { d with rrc := { d.rrc with bothDown := false, standbyOk := true }, host := { d.host with recvUp := true } } }) ∧
    (d.rrc.bothDown = true → d.boot.chipResetting = false → d.pwr.islandUp = true → d.pwr.ioUp = true → Completes (.standbySelftestDone false) s (fun e => ChipWasReset e 0x69)) ∧
    (∀ b, d.rrc.bothDown = false → d.rrc.selftest = some b → exec (.standbySelftestDone true) s = .next { s with dev := { d with rrc := { d.rrc with selftest := none, standbyOk := b != d.rrc.primaryB } } }) ∧
    (∀ b, d.rrc.bothDown = false → d.rrc.selftest = some b → exec (.standbySelftestDone false) s = .next { s with dev := { d with rrc := { d.rrc with selftest := none, mgmtBad := true, coreAOk := d.rrc.coreAOk && b, coreBOk := d.rrc.coreBOk && !b } } }) ∧
    exec (.spareSelftest [] []) s = .next { s with dev := { d with rrc := { d.rrc with passes := hold16 (d.rrc.passes + 1) } } } ∧
    (∀ n k, d.isSpareCurd n k = true → Completes (.spareSelftest [(n, k)] []) s (fun e => (e.curd (curdKey n k)).fenced = true ∧ e.rrc = { d.rrc with badCurds := min (d.rrc.badCurds + 1) 0xFF, passes := hold16 (d.rrc.passes + 1) } ∧
      smGet Stop.init e.flt.stops rrcSrc = (smGet Stop.init d.flt.stops rrcSrc).take (plainMsg rrcSrc 0x66 (vatUnit n k)))) ∧
    (∀ n, (d.vat n).lst = .spare → Completes (.spareSelftest [] [n]) s (fun e => (e.vat n).lst = .fenced ∧ e.rrc = { d.rrc with badVats := min (d.rrc.badVats + 1) 0xFF, passes := hold16 (d.rrc.passes + 1) } ∧
      smGet Stop.init e.flt.stops rrcSrc = (smGet Stop.init d.flt.stops rrcSrc).take (plainMsg rrcSrc 0x66 (vatUnit n unitControl))))

/-- 10_memory.md R314, R315, R325. A line of external memory: a write of a whole line replaces its bytes and its error marks without a read, and the next read gives them; every other byte stays; an uncorrectable line fails its read, is counted and
reported, and a write of a part of it is discarded; a line of a lost granule or of a channel out of service fails both. -/
def Obligations.ExternalLinesHoldTheirBytes : Prop :=
  ∀ (d : Dev) (p off : Nat) (bs : List Byte) (ctx ctx2 : Option Nat) (g : Granule) (la : Nat), (d.part p).lineAt off = some (g, la) →
    let w := d.extLineWrite p off bs ctx
    (d.lineServed g la = true → bs.length = 128 → w.2 = true ∧ w.1.lineState la (d.part p).conf true = .good ∧ (off % 128 = 0 → (w.1.extLineRead p off 128 ctx2).2 = some bs) ∧
      ∀ a, a < 128 * la ∨ 128 * (la + 1) ≤ a → smGet 0 w.1.ext.mem a = smGet 0 d.ext.mem a) ∧
    (d.lineServed g la = true → d.lineState la (d.part p).conf true = .good → off % 128 + bs.length ≤ 128 → bs.length < 128 → w.2 = true ∧ (w.1.extLineRead p off bs.length ctx2).2 = some bs ∧
      ∀ a, a < 128 * la + off % 128 ∨ 128 * la + off % 128 + bs.length ≤ a → smGet 0 w.1.ext.mem a = smGet 0 d.ext.mem a) ∧
    (d.lineServed g la = true → d.lineState la (d.part p).conf true = .uncorrectable → autoRetire d.ext.cfg = false → ∀ n,
      (d.extLineRead p off n ctx).2 = none ∧ ((d.extLineRead p off n ctx).1.chan (lineChan la)).errU = hold16 ((d.chan (lineChan la)).errU + 1) ∧
        smGet Stop.init (d.extLineRead p off n ctx).1.flt.stops (0x120 + lineChan la) = (smGet Stop.init d.flt.stops (0x120 + lineChan la)).take (d.ctxMsg (0x120 + lineChan la) 0x41 0 la ctx) ∧
        (bs.length ≠ 128 → w.2 = false ∧ w.1.ext.mem = d.ext.mem ∧ w.1.ext.lineErr = d.ext.lineErr)) ∧
    (d.lineServed g la = false → w = (d, false) ∧ ∀ n, d.extLineRead p off n ctx = (d, none))

/-- 10_memory.md R317, R319-R325, R327, 12_rennet.md R367, R369, 14_recovery.md R427. Brine ends the oldest grant of a partition when no work of a higher priority is on its channels: the pages read as zero, then the segment register is written, or the
context exists, and the command is answered; a scrub ends with every line zero; patrol and band moves go line by line; a channel that is lost fails what it holds and loses its granules; one being retrained resets the contexts on it. -/
def Obligations.MemoryRows : Prop :=
  ∀ (s : State) (p c f k ctx seg fl base pages pg : Nat) (rest : List Grant) (found : List (Nat × Nat)) (ok : Bool),
    let d := s.dev
    let q := d.part p
    let x := d.chan c
    let t := d.ctx ctx
    (q.grants = [] ∨ d.brineFree p 2 = false → exec (.grantFillDone p) s = .next s) ∧
    (q.grants = .memMap f k ctx seg fl base pages pg :: rest → d.brineFree p 2 = true →
      let d1 := (d.setPart p { q with grants := rest }).fillPages (ctx / 16) pg pages
      let d2 := d1.setCtx ctx { t with segs := smSet Seg.init t.segs seg { valid := true, rd := bit fl 0, wr := bit fl 1, keep := bit fl 2, base := base, pages := pages, page := pg } }
      (t.live = false → exec (.grantFillDone p) s = .next { s with dev := (d.setPart p { q with grants := rest }).fail f k 0x05 8 }) ∧
      (t.live = true → bit fl 2 = false → exec (.grantFillDone p) s = .next { s with dev := d2.respond f k 0 (leBytes 4 pg) }) ∧
      (t.live = true → bit fl 2 = true → exec (.grantFillDone p) s = .next { s with dev := ({ d2 with ext := { d2.ext with keeps := d2.ext.keeps ++ [{ sliceId := t.sliceId, rank := t.rank, seg := seg, base := base, pages := pages, part := ctx / 16, page := pg }] } } : Dev).respond f k 0 (leBytes 4 pg) })) ∧
    (∀ r, q.grants = .ctxCreate f k ctx :: rest → d.brineFree p 2 = true → t.live = false → t.save = some r →
      let y := ((d.setPart p { q with grants := rest }).ctxNi ctx).slice (ctx % 16)
      let d1 := (d.setPart p { q with grants := rest })
      let d2 := (d1.fillPages (ctx / 16) r.1 r.2).setCtx ctx { t with live := true, gen := sdGen y, sliceId := sdId y, rank := (d1.ctxNi ctx).rankAt (ctx % 16) (ctx / 16) }
      sdValid y = true → exec (.grantFillDone p) s = .next { s with dev := ({ d2 with lastGen := smSet 0 d2.lastGen ctx (sdGen y) } : Dev).respond f k 0 (leBytes 2 ctx ++ leBytes 2 (sdGen y)) }) ∧
    (∀ a, smGet 0 (d.fillPages p pg pages).ext.mem a = (match q.offOf (a / 128) with
      | some off => if pg * 4096 ≤ off ∧ off < (pg + pages) * 4096 then 0 else smGet 0 d.ext.mem a
      | none => smGet 0 d.ext.mem a)) ∧
    (q.scrub = false ∨ d.brineFree p 3 = false → exec (.scrubDone p) s = .next s) ∧
    (q.scrub = true → d.brineFree p 3 = true → q.destroying = false → q.st ≠ 3 → exec (.scrubDone p) s = .next { s with dev := ((d.fillGranules q.grans).setPart p { q with scrub := false, st := 1 }).event 4 (some p) } ∧
      ∀ a, smGet 0 (d.fillGranules q.grans).ext.mem a = (if q.grans.any (fun g => g.bands.contains (lineChan (a / 128), lineBand (a / 128))) then 0 else smGet 0 d.ext.mem a)) ∧
    (q.scrub = true → d.brineFree p 3 = true → q.destroying = true → q.st ≠ 3 →
      exec (.scrubDone p) s = .next { s with dev := (((d.fillGranules q.grans).setPart p { q with scrub := false, st := 1 }).freePart p).event 4 (some p) }) ∧
    ((d.brineJob c).1 ≠ 4 → exec (.patrolRead c found) s = .next s) ∧
    ((d.brineJob c).1 = 4 → d.lineState (patrolLine c x.patrol) (d.confLine (patrolLine c x.patrol)) false = .good → found = [] → Completes (.patrolRead c found) s (fun e =>
      e.chan c = { x with patrol := if bandsOf x.cap * 2 ^ 18 ≤ x.patrol + 1 then 0 else x.patrol + 1, passes := if bandsOf x.cap * 2 ^ 18 ≤ x.patrol + 1 then hold16 (x.passes + 1) else x.passes } ∧ e.ext.mem = d.ext.mem ∧ e.flt = d.flt)) ∧
    ((d.brineJob c).1 ≠ 6 → exec (.bandMove c) s = .next s) ∧
    (∀ m more, (d.brineJob c).1 = 6 → x.move = none → x.moves = m :: more → exec (.bandMove c) s = .next { s with dev := d.setChan c { x with move := some { band := m.1, spare := m.2, cursor := 0 }, moves := more } }) ∧
    (∀ m, (d.brineJob c).1 = 6 → x.move = some m → d.lineState (lineAddr c m.band m.cursor) (d.confLine (lineAddr c m.band m.cursor)) false = .good →
      (m.cursor + 1 < 2 ^ 18 → exec (.bandMove c) s = .next { s with dev := d.setChan c { x with move := some { m with cursor := m.cursor + 1 } } }) ∧
      (m.cursor + 1 = 2 ^ 18 → exec (.bandMove c) s = .next { s with dev := d.setChan c { x with move := none, bandMap := smSet 0 x.bandMap m.band (m.spare + 1) } })) ∧
    (x.st ≠ 1 → exec (.channelLost c) s = .next s ∧ exec (.memTrainLost c) s = .next s) ∧
    (x.st = 1 → exec (.channelLost c) s = .next { s with dev := ((x.inq ++ x.heldReqs).foldl (fun (d : Dev) q => d.answer (0x120 + c) q 0x09) ({ d.setChan c { x with st := 3, inq := [], heldReqs := [], retraining := false } with parts := smMap Part.init (fun (p : Part) => { p with grans := p.grans.map (fun (g : Granule) => { g with lost := g.lost || g.bands.any (fun b => b.1 == c) }) }) d.parts } : Dev)).raise (plainMsg (0x120 + c) 0x48 0) }) ∧
    (x.st = 1 → x.retraining = false → d.chanUsers c = [] → exec (.memTrainLost c) s = .next { s with dev := (d.setChan c { x with retraining := true }).raise (plainMsg (0x120 + c) 0x49 0) }) ∧
    (x.st = 1 → x.retraining = false → d.chanUsers c = [ctx] → exec (.memTrainLost c) s = .next { s with dev := let d1 := (d.setChan c { x with retraining := true }).raise (plainMsg (0x120 + c) 0x49 0); let m := d1.ctxMsg (0x120 + c) 0x49 0 0 (some ctx); (d1.caveAction m (d1.inRind m) 1 none 0).resetCtx ctx (newTear 0x49 false false false none) }) ∧
    (x.retraining = false → exec (.memRetrainDone c ok) s = .next s) ∧
    (x.retraining = true → exec (.memRetrainDone c true) s = .next { s with dev := d.setChan c { x with retraining := false } } ∧ exec (.memRetrainDone c false) s = exec (.channelLost c) s)

/-- 11_host_mailboxes.md R337, R344-R356, 12_rennet.md R358, R366. A send with go is acknowledged by the first check that
fails, in the order of R349, or accepted and queued; the receiver takes the oldest queued message and answers an opcode
that no group defines; a receiver that resets goes down, aborts what it has taken and what is queued, and sets bit 31 of
the doorbells; a bit of DB_RAISE is taken from it; clears come before what the device sets; an unmasked bit that is
pending sends the vector. A write of the control window acts at once where no earlier window write or control write of the
function waits, else it waits its turn; CANCEL ends a list or read command that is ACTIVE, with no records. -/
def Obligations.MailboxRows : Prop :=
  ∀ (s : State) (f chan key : Nat) (sec : Bool) (w mask set : Word32),
    let d := s.dev
    let k := if sec then 8 + chan else chan
    let m := d.mbx f k
    let n := w.toNat
    let group := leAt ((m.req ++ List.replicate 256 0).take 256) 1 1
    let len := bits n 24 16
    let ack (code : Nat) : Word32 := BitVec.ofNat 32 (bits n 15 0 + code * 2 ^ 16 + 2 ^ 31)
    let quiet : Prop := ∀ x ∈ d.host.wins, x.func = f → x.job.isWrite = false ∧ x.job.isCtl = false
    let queued (off x : Nat) : Dev := { d with host := { d.host with winCount := d.host.winCount + 1, wins := d.host.wins ++ [{ id := d.host.winCount, func := f, ctx := 0, gen := 0, off := 0, len := 0, job := .ctl off 4 x, next := 0, out := 0, code := 0 }] } }
    let block (o : Nat) : Nat := (if sec then 0x2000 else 0) + 0x400 * chan + o
    (d.host.linkUp && d.host.perst) = true →
    (d.winWriting f = true → exec (.mbxSend f chan sec w) s = .next { s with dev := queued (block 0x200) n } ∧
      exec (.dbPendClear f chan sec mask set) s = .next { s with dev := (queued (block 0x214) mask.toNat).doorbell f k (set &&& 0x80000007) } ∧
      exec (.dbMaskWrite f chan sec w) s = .next { s with dev := queued (block 0x218) n }) ∧
    (quiet → bit n 31 = false → exec (.mbxSend f chan sec w) s = .next s) ∧
    (quiet → (sec = true → f = 0) → bit n 31 = true →
      (∀ code, (code = 0x03 ∧ (bits n 30 25 ≠ 0 ∨ len < 8 ∨ 256 < len ∨ group = 0 ∨ 0x0B < group)) ∨
          (code = 0x04 ∧ bits n 30 25 = 0 ∧ 8 ≤ len ∧ len ≤ 256 ∧ 1 ≤ group ∧ group ≤ 0x0B ∧ (group = 0x0A) ≠ (sec = true)) ∨
          (code = 0x02 ∧ bits n 30 25 = 0 ∧ 8 ≤ len ∧ len ≤ 256 ∧ 1 ≤ group ∧ group ≤ 0x0B ∧ ((group = 0x0A) ↔ (sec = true)) ∧ (d.recvUp sec = false ∨ m.st = 1 ∨ m.st = 2)) →
        exec (.mbxSend f chan sec w) s = .next { s with dev := d.setMbx f k { m with ack := ack code } }) ∧
      (bits n 30 25 = 0 → 8 ≤ len → len ≤ 256 → 1 ≤ group → group ≤ 0x0B → ((group = 0x0A) ↔ (sec = true)) → d.recvUp sec = true → m.st ≠ 1 → m.st ≠ 2 → Completes (.mbxSend f chan sec w) s (fun e =>
        e.mbx f k = { m with ack := ack 0x01, st := 1, msg := (m.req ++ List.replicate 256 0).take len, seq := bits n 15 0, len := len, accepted := d.host.accepts, begun := false } ∧ e.host.accepts = d.host.accepts + 1 ∧
          ∀ g j, ¬ (g = f ∧ j = k) → e.mbx g j = d.mbx g j))) ∧
    (∀ now, quiet → m.pend &&& ~~~mask = now → exec (.dbPendClear f chan sec mask set) s = .next { s with dev := (d.setMbx f k { m with pend := now }).doorbell f k (set &&& 0x80000007) }) ∧
    (let new := w &&& 0x80000007; quiet → (m.mask &&& ~~~new &&& m.pend = 0 → exec (.dbMaskWrite f chan sec w) s = .next { s with dev := d.setMbx f k { m with mask := new } }) ∧
      (m.mask &&& ~~~new &&& m.pend ≠ 0 → exec (.dbMaskWrite f chan sec w) s = .next { s with dev := (d.setMbx f k { m with mask := new }).sendVector f k })) ∧
    (bit (d.mbx f chan).raise 0 = false ∨ d.host.recvUp = false → exec (.resend f chan) s = .next s) ∧
    (bit (d.mbx f chan).raise 1 = false ∨ d.host.recvUp = false → exec (.cancel f chan) s = .next s) ∧
    (d.host.recvUp = true → bit (d.mbx f chan).raise 1 = true → ((d.mbx f chan).st ≠ 2 ∨ leAt (d.mbx f chan).msg 0 2 ∉ [0x0604, 0x0701, 0x0703, 0x0B01]) → exec (.cancel f chan) s = .next { s with dev := d.setMbx f chan { d.mbx f chan with raise := (d.mbx f chan).raise - 2 } }) ∧
    (d.host.recvUp = true → bit (d.mbx f chan).raise 1 = true → (d.mbx f chan).st = 2 →
      let c := d.mbx f chan
      let d1 := d.setMbx f chan { c with raise := c.raise - 2 }
      exec (.cancel f chan) s = .next { s with dev := d1.cancelled f chan } ∧
      (leAt c.msg 0 2 = 0x0701 → c.orphan = none → c.begun = false → framing c.msg c.len = none →
        exec (.cancel f chan) s = .next { s with dev := d1.respond f chan 0 (leBytes 2 (d1.listedFaults f (leAt c.msg 0x0A 1)).length ++ leBytes 1 0 ++ leBytes 5 0) }) ∧
      (∀ q, leAt c.msg 0 2 = 0x0604 → d.fm.waiting.find? (fun q => q.chip.isNone && q.a == f && q.b == chan) = some q → exec (.cancel f chan) s =
        .next { s with dev := Dev.respond { d1 with fm := { d1.fm with waiting := d1.fm.waiting.filter (fun x => x != q) } } f chan 0 (d1.fabricHead (if d.fm.role = 0 ∨ d.fm.role = 4 then 1 else 0) 0) })) ∧
    (d.host.recvUp = true → bit (d.mbx f chan).raise 0 = true → (d.func f).events = 0 → exec (.resend f chan) s = .next { s with dev := d.setMbx f chan { d.mbx f chan with raise := (d.mbx f chan).raise - 1 } }) ∧
    (d.host.recvUp = true → bit (d.mbx f chan).raise 0 = true → (d.func f).events ≠ 0 → Completes (.resend f chan) s (fun e => (e.mbx f 0).pend = (d.mbx f 0).pend ||| 2 ∧ (e.mbx f chan).raise = (d.mbx f chan).raise - 1 ∧
      e.host.msixSent = d.host.msixSent ++ (if (d.mbx f 0).mask.getLsbD 1 then [] else [(f, 0)]))) ∧
    (d.recvUp sec = false ∨ d.pwr.islandUp = false ∨ oldestMsg (d.queuedMsgs sec) = none → exec (.mbxTake sec) s = .next s) ∧
    (d.recvUp sec = true → d.pwr.islandUp = true → oldestMsg (d.queuedMsgs sec) = some (f, key) →
      let t := d.mbx f key
      let op := leAt t.msg 0 2
      let d1 := d.setMbx f key { t with st := 2, begun := false }
      (opDefined op = true → exec (.mbxTake sec) s = .next { s with dev := d1 }) ∧
      (opDefined op = false → d.stateAnswer op = none → exec (.mbxTake sec) s = .next { s with dev := d1.respond f key 0x03 (leBytes 8 0) })) ∧
    Completes (.receiverReset sec) s (fun e => e.recvUp sec = false ∧ e.recvUp (!sec) = d.recvUp (!sec) ∧
      ∀ g ∈ d.funcIds, ∀ j ∈ chanKeys sec g, e.mbx g j = (if (d.mbx g j).st = 2 ∨ (d.mbx g j).st = 1 then { d.mbx g j with orphan := none, begun := false, ack := BitVec.ofNat 32 ((d.mbx g j).seq + 0x3F * 2 ^ 16 + 2 ^ 31), st := 0, pend := (d.mbx g j).pend ||| 0x80000000 } else { d.mbx g j with orphan := none, begun := false, pend := (d.mbx g j).pend ||| 0x80000000 }))

/-- 11_host_mailboxes.md R344, R346, R351, 12_rennet.md R360, R377. A response is written whole to MBX_RSP of the channel whose message is ACTIVE; the channel is DONE, bit 0 of its doorbell rises, and a vector goes out where that bit was clear and is
not masked; every other channel stays, and a channel whose message has gone takes no response. -/
def Obligations.ResponsesReachTheirChannel : Prop :=
  ∀ (d : Dev) (f key code flags : Nat) (payload : List Byte),
    let m := d.mbx f key
    let e := d.respondFlag f key code flags payload
    (m.st ≠ 2 → e = d) ∧
    (m.st = 2 → e.mbx f key = { m with rsp := leBytes 2 m.seq ++ leBytes 1 code ++ leBytes 1 flags ++ leBytes 2 payload.length ++ leBytes 2 0 ++ payload, st := 3, begun := false, pend := m.pend ||| 1 } ∧
      e.host.msixSent = d.host.msixSent ++ (if m.pend.getLsbD 0 || m.mask.getLsbD 0 then [] else [(f, key)]) ∧ (∀ g j, ¬ (g = f ∧ j = key) → e.mbx g j = d.mbx g j) ∧ e = { d with host := e.host } ∧ e.host.hostMem = d.host.hostMem)

/-- 11_host_mailboxes.md R332, R335-R343, R353, 12_rennet.md R378, 18_module.md R506. A queue's base is written while the
queue is not enabled, its tail and enable at any time; an idle engine takes the next descriptor of the next queue with one
and checks it; its lines are asked for at the device and answered one by one, and its status, signal and doorbell follow
the last; the window of a function selects a context, its requests become lines too, and refused ones are recorded once; a
Function Level Reset closes queue, window and channels of the function; PERST# low resets every function. -/
def Obligations.HostRows : Prop :=
  ∀ (s : State) (f off n eng : Nat) (w : Word) (data : List Byte) (r : HdmaRun),
    let d := s.dev
    let x := d.func f
    let ctx := 16 * (if f = 0 then bits x.win 5 0 else f - 1) + bits x.win 9 6
    let at_ := bits x.win 42 21 * 2 ^ 21 + off
    let size := 2 ^ (bits x.ring 3 0 + 4)
    let desc := d.hostRead (bits x.ring 63 12 * 4096 + 64 * x.head) 64
    let part := if f = 0 then bits (leAt desc 0x14 4) 8 3 else f - 1
    let slot := bits (leAt desc 0x14 4) 12 9
    let run : HdmaRun := { func := f, index := x.head, host := leAt desc 0 8, dev := leAt desc 8 8, len := leAt desc 0x10 4, ctl := leAt desc 0x14 4, part := part, slot := slot, gen := (d.ctx (16 * part + slot)).gen, code := d.hdmaCheck f desc, next := 0, out := 0 }
    let quiet : Prop := ∀ q ∈ d.host.wins, q.func = f → q.job.isWrite = false ∧ q.job.isCtl = false
    let mapped (k : Nat) : Bool := (lineSplit (k / 128 + 2) at_ 0 k).all (fun e => ((d.ctx ctx).segAny e.1 e.2.2).isSome)
    let took (job : WinJob) (k : Nat) : Dev := { d with host := { d.host with winCount := d.host.winCount + 1, wins := d.host.wins ++ [{ id := d.host.winCount, func := f, ctx := ctx, gen := (d.ctx ctx).gen, off := at_, len := k, job := job, next := 0, out := 0, code := 0 }] } }
    let noWrite (code : Nat) : Prop := (bit x.winErr 63 = true → exec (.hostWinWrite f off data) s = .next s) ∧
      (bit x.winErr 63 = false → Completes (.hostWinWrite f off data) s (fun e => e.func f = { x with winErr := at_ % 2 ^ 43 + code * 2 ^ 43 + 2 ^ 51 + 2 ^ 63 } ∧
        smGet Stop.init e.flt.stops 0x150 = (smGet Stop.init d.flt.stops 0x150).take (d.ctxMsg 0x150 0x17 0 at_ (if (d.ctx ctx).live then some ctx else none))))
    let noRead (code : Nat) : Prop := (bit x.winErr 63 = true → exec (.hostWinRead f off n) s = .next { s with dev := { d with host := { d.host with last := some .abort } } }) ∧
      (bit x.winErr 63 = false → Completes (.hostWinRead f off n) s (fun e => (e.func f).winErr = at_ % 2 ^ 43 + code * 2 ^ 43 + 2 ^ 63 ∧ e.host.last = some .abort))
    (quiet → (d.host.linkUp && d.host.perst) = false → exec (.hdmaRingWrite f w) s = .next s ∧ exec (.hdmaTailWrite f w) s = .next s ∧ exec (.hdmaCtlWrite f w) s = .next s ∧ exec (.hostWinCfgWrite f w) s = .next s ∧
      exec (.hostWinRead f off n) s = .next s ∧ exec (.hostWinWrite f off data) s = .next s ∧ exec (.hdmaDescriptorStart eng) s = .next s) ∧
    ((d.host.linkUp && d.host.perst) = true →
      (quiet → x.enable = true → exec (.hdmaRingWrite f w) s = .next s) ∧
      (quiet → x.enable = false → exec (.hdmaRingWrite f w) s = .next { s with dev := d.setFunc f { x with ring := bits w.toNat 63 12 * 4096 + bits w.toNat 3 0 } }) ∧
      (quiet → exec (.hdmaTailWrite f w) s = .next { s with dev := d.setFunc f { x with tail := bits w.toNat 11 0 } }) ∧
      (quiet → exec (.hdmaCtlWrite f w) s = .next { s with dev := d.setFunc f { x with enable := w.getLsbD 0 } }) ∧
      (d.winWriting f = true → ∃ e, exec (.hdmaTailWrite f w) s = .next { s with dev := e } ∧ e.func f = x ∧ e.winWriting f = true ∧ (∃ q, q ∈ e.host.wins ∧ q.func = f ∧ q.job = .ctl 0x4008 8 w.toNat)) ∧
      exec (.hostWinCfgWrite f w) s = .next { s with dev := d.setFunc f { x with win := (if f = 0 then bits w.toNat 5 0 else f - 1) + bits w.toNat 9 6 * 2 ^ 6 + bits w.toNat 42 21 * 2 ^ 21, winClosed := false } } ∧
      (smGet none d.host.engines eng = none → d.resettingChip = false → d.nextQueue = some f →
        let b := ({ d.setFunc f { x with head := (x.head + 1) % size } with host := { (d.setFunc f { x with head := (x.head + 1) % size }).host with nextFunc := (f + 1) % d.funcIds.length } } : Dev).setEngine eng (some run)
        exec (.hdmaDescriptorStart eng) s = .next { s with dev := b.hdmaFill eng } ∧ (run.code ≠ 0 ∨ run.len = 0 → b.hdmaFill eng = b) ∧
        (leAt desc 8 8 / 2 ^ 43 ≠ 0 ∨ bits (leAt desc 0x14 4) 31 30 ≠ 0 ∨ leAt desc 0x1C 36 ≠ 0 → run.code = 0x03)) ∧
      (smGet none d.host.engines eng ≠ none ∨ d.resettingChip = true ∨ d.nextQueue = none → exec (.hdmaDescriptorStart eng) s = .next s) ∧
      (smGet none d.host.engines eng = none → exec (.hdmaComplete eng) s = .next s) ∧
      (smGet none d.host.engines eng = some r → d.hdmaHeld r = true → exec (.hdmaComplete eng) s = .next s ∧ d.hdmaFill eng = d) ∧
      (smGet none d.host.engines eng = some r → d.hdmaHeld r = false →
        let c := 16 * r.part + r.slot
        let gone : Prop := (d.ctx c).live = false ∨ (d.ctx c).gen ≠ r.gen ∨ (d.ctx c).tear ≠ none
        let ended (code : Nat) : Prop := Completes (.hdmaComplete eng) s (fun e => e.host.hostMem = memWrite d.host.hostMem (d.hdmaStatusAddr r) (leBytes 4 (code + 2 ^ 8)) ∧ smGet none e.host.engines eng = none ∧
          (code ≠ 0 → (e.func r.func).lastCode = code) ∧ (bit r.ctl 2 = true → (e.mbx r.func 0).pend = (d.mbx r.func 0).pend ||| 2))
        let place := r.dev + r.next
        let line := min (r.len - r.next) (128 - place % 128)
        (r.code = 0 → gone → ended 0x3F) ∧
        (r.code ≠ 0 → r.out = 0 → ended r.code) ∧
        (r.code = 0 → ¬ gone → r.out = 0 → r.len ≤ r.next → bit r.ctl 13 = false → ended 0) ∧
        (r.code = 0 → ¬ gone → r.out = 0 → r.len ≤ r.next → bit r.ctl 13 = true → bit r.ctl 2 = false → exec (.hdmaComplete eng) s = .next { s with dev :=
          (let e1 := ((d.setEngine eng none).hostSignal c (bits r.ctl 25 14) (bits r.ctl 29 26)).hostWrite (d.hdmaStatusAddr r) (leBytes 4 0x100); e1.host.engines.foldl (fun e q => e.hdmaFill q.1) e1) }) ∧
        ((r.code = 0 → ¬ gone) → (r.out ≠ 0 ∨ (r.code = 0 ∧ r.next < r.len)) → exec (.hdmaComplete eng) s = .next { s with dev := d.hdmaFill eng }) ∧
        (r.code = 0 → ¬ gone → r.next < r.len → r.out < 96 → bit r.ctl 0 = false → bit r.ctl 1 = true → r.next = 0 → (d.func r.func).hdmaFail.contains c = true →
          d.hdmaIssue eng = (d.setEngine eng (some { r with code := 0x09 })).setFunc r.func { d.func r.func with hdmaFail := (d.func r.func).hdmaFail.erase c }) ∧
        (r.code = 0 → ¬ gone → r.next < r.len → r.out < 96 → (bit r.ctl 0 = true ∨ bit r.ctl 1 = false ∨ r.next ≠ 0 ∨ (d.func r.func).hdmaFail.contains c = false) →
          ((d.ctx c).segAny place line = none → smGet none (d.hdmaIssue eng).host.engines eng = some { r with code := 0x04 } ∧ ((d.hdmaIssue eng).func r.func).hdmaFail.contains c = true) ∧
          (∀ al node tag, (d.ctx c).segAny place line = some al → d.mcOf r.part al = some node → r.slot < 16 → d.inService node = true → (d.ni (0x150 + eng % 2)).freeTag (96 * (eng / 2)) 96 = some tag →
            smGet none (d.hdmaIssue eng).host.engines eng = some { r with next := r.next + line, out := r.out + 1 } ∧ (d.hdmaIssue eng).host.hostMem = d.host.hostMem)) ∧
        (∀ o k bs, r.code = 0 → bit r.ctl 0 = true → d.hdmaLine eng o k 0 bs = ((d.setEngine eng (some { r with out := r.out - 1 })).hostWrite (r.host + o) (bs.take k)).hdmaFill eng) ∧
        (∀ o k code bs, r.code = 0 → code ≠ 0 → smGet none (d.hdmaLine eng o k code bs).host.engines eng = some { r with out := r.out - 1, code := 0x09 } ∧ (d.hdmaLine eng o k code bs).host.hostMem = d.host.hostMem)) ∧
      (d.resettingChip = false → x.winClosed = false → d.hostRefusal ctx = 0 →
        (mapped n = true → exec (.hostWinRead f off n) s = .next { s with dev := (took (.read []) n).winSettle }) ∧ (mapped n = false → noRead 0x04) ∧
        (mapped data.length = true → exec (.hostWinWrite f off data) s = .next { s with dev := (took (.write data) data.length).winSettle }) ∧ (mapped data.length = false → noWrite 0x04)) ∧
      (∀ q got o k bs, d.host.wins = [q] → q.code = 0 → q.out = 1 → q.len ≤ q.next → q.job = .read got →
        d.winLine q.id o k 0 bs = { d with host := { d.host with wins := [], last := some (.data (winData (got ++ [(o, bs.take k)]) q.len)) } }) ∧
      (∀ code, (code = 0x3F ∧ d.resettingChip = true) ∨ (code = 0x04 ∧ d.resettingChip = false ∧ x.winClosed = true) ∨ (code = 0x02 ∧ d.resettingChip = false ∧ x.winClosed = false ∧ ((d.part (ctx / 16)).st = 2 ∨ (d.part (ctx / 16)).scrub = true)) ∨
          (code = 0x04 ∧ d.resettingChip = false ∧ x.winClosed = false ∧ (d.part (ctx / 16)).st ≠ 2 ∧ (d.part (ctx / 16)).scrub = false ∧ ((d.ctx ctx).live = false ∨ (d.part (ctx / 16)).conf = true)) →
        noWrite code ∧ noRead code)) ∧
    (∀ g, g ≠ f → Completes (.functionLevelReset f) s (fun e => (e.func f).enable = false ∧ (e.func f).winClosed = true ∧ (∀ k ∈ chanKeys false f ++ chanKeys true f, (e.mbx f k).st = 0) ∧ e.func g = d.func g ∧
      (∀ q ∈ e.host.engines, ∀ r, q.2 = some r → r.func ≠ f) ∧ ∀ q ∈ e.host.wins, q.func ≠ f)) ∧
    (f ∈ d.funcIds → Completes .hotReset s (fun e => (e.func f).enable = false ∧ (e.func f).winClosed = true)) ∧
    exec (.perstN true) s = .next { s with dev := { d with host := { d.host with perst := true, linkUp := d.pwr.main && d.pwr.ioUp } } } ∧
    Completes (.perstN false) s (fun e => e.host.perst = false ∧ e.host.linkUp = false ∧ (d.host.perst = true → f ∈ d.funcIds → (e.func f).enable = false ∧ (e.func f).winClosed = true))

/-- 12_rennet.md R358-R360, R374, R378. Every command row acts on the ACTIVE message of its opcode that has not begun, and on no other; a message the device's state does not allow is answered DENIED out of service and BUSY_RETRY during a start; a command of the physical
function is DENIED to a virtual one; a request too short, or with a reserved byte set, is INVALID with the offset at fault; none of these does anything else. -/
def Obligations.CommandsAreChecked : Prop :=
  ∀ (s : State) (f c : Nat) (r : Instr × Nat × Nat × (List Byte → Bool)), r ∈ commandRows s.dev f c →
    let d := s.dev
    let key := r.2.1
    let op := r.2.2.1
    let x := d.mbx f key
    x.orphan = none →
    (x.st ≠ 2 ∨ x.begun = true ∨ leAt x.msg 0 2 ≠ op ∨ (r.2.2.2 x.msg = false ∧ op ≠ 0x0801 ∧ op ≠ 0x0A03) → exec r.1 s = .next s) ∧
    (x.st = 2 → x.begun = false → leAt x.msg 0 2 = op → r.2.2.2 x.msg = true →
      (d.rrc.oos = true → op / 256 ∈ [2, 3, 4, 5, 6] → exec r.1 s = .next { s with dev := d.respond f key 0x04 (leBytes 2 0 ++ leBytes 2 0 ++ leBytes 4 2) }) ∧
      (d.rrc.oos = false → (d.boot.stage < 8 ∨ d.boot.chipResetting = true) → op / 256 ∉ [1, 7, 8] → op ≠ 0x0903 → op ≠ 0x0B01 → exec r.1 s = .next { s with dev := d.respond f key 0x02 (leBytes 2 0 ++ leBytes 2 0 ++ leBytes 4 0) }) ∧
      (d.stateAnswer op = none → physOnly op = true → f ≠ 0 → exec r.1 s = .next { s with dev := d.respond f key 0x04 (leBytes 2 0 ++ leBytes 2 0 ++ leBytes 4 0) }) ∧
      (∀ off, d.stateAnswer op = none → (physOnly op = true → f = 0) →
        (x.len < 8 + payloadOf op ∧ off = 0) ∨ (8 + payloadOf op ≤ x.len ∧ leAt x.msg 2 6 ≠ 0 ∧ off = 2) ∨ (8 + payloadOf op ≤ x.len ∧ leAt x.msg 2 6 = 0 ∧ ∃ n, reservedOf op = [(off, n)] ∧ leAt x.msg off n ≠ 0) →
        exec r.1 s = .next { s with dev := d.respond f key 0x03 (leBytes 2 off ++ leBytes 2 0 ++ leBytes 4 0) }))

/-- 12_rennet.md R359-R366, R374, R377, 15_faults_cave.md R447, R452, R456, 17_rates_limits.md R493. Commands of groups 0x01, 0x07 and 0x0B: what each answers and changes. Configuration is staged whole or not at all and committed whole or refused with the first conflict; an acknowledged
entry whose action has completed is cleared unless its condition persists; events are read in sequence order from the one asked for; a power cap is in force at once and answered later. -/
def Obligations.DeviceCommandRows : Prop :=
  ∀ (s : State) (f c : Nat) (m : List Byte),
    let d := s.dev
    let refuse (code off item arg : Nat) : State := { s with dev := d.respond f c code (leBytes 2 off ++ leBytes 2 item ++ leBytes 4 arg) }
    (Begins s f c 0x0101 m → let buf := leAt m 8 8
      (buf = 0 → exec (.devInfo f c) s = .next { s with dev := d.respond f c 0 d.infoBytes }) ∧
      (buf ≠ 0 → leAt m 0x10 4 < 1152 → exec (.devInfo f c) s = .next (refuse 0x06 0x10 0 1152)) ∧
      (buf ≠ 0 → 1152 ≤ leAt m 0x10 4 → d.host.linkUp = true → exec (.devInfo f c) s = .next { s with dev := (d.hostWrite buf d.vatMap).respond f c 0 d.infoBytes }) ∧ d.vatMap.length = 1152 ∧ d.infoBytes.length = 64) ∧
    (Begins s f c 0x0102 m → exec (.devHealth f c) s = .next { s with dev := (d.setFunc f { d.func f with events := 0 }).respond f c 0 (leBytes 1 d.health ++ leBytes 1 d.boot.stage ++ leBytes 2 (hold16 (d.openFor f)) ++ leBytes 4 d.flt.recoveries ++ leBytes 2 d.recentResets ++ leBytes 1 d.fm.role ++ leBytes 1 (boolNat d.cave.storeFailed + 2 * boolNat d.anyRind + 4 * boolNat (d.sec.debugScope != 0) + 8 * boolNat (d.rrc.badCurds != 0 || d.rrc.badVats != 0 || d.rrc.badLanes != 0 || d.rrc.mgmtBad)) ++ leBytes 4 (d.func f).events) } ∧
      d.health = (if d.rrc.oos then 4 else if 0 < d.flt.openCount ∨ d.boot.failed = true then 3 else if d.boot.stage < 8 ∨ d.boot.chipResetting = true then 0 else if d.degraded then 2 else 1)) ∧
    (Begins s f c 0x0103 m → let item := leAt m 8 2; let idx := leAt m 0x0A 2
      (cfgBits item = 0 → exec (.cfgGet f c) s = .next (refuse 0x03 8 0 0)) ∧ (cfgBits item ≠ 0 → cfgIndexOk item idx = false → exec (.cfgGet f c) s = .next (refuse 0x03 0x0A 0 0)) ∧
      (cfgBits item ≠ 0 → cfgIndexOk item idx = true → exec (.cfgGet f c) s = .next { s with dev := d.respond f c 0 (leBytes 8 (d.cfgValue item idx) ++ leBytes 8 (((cfgFind d.cfg.staged item idx).map (fun e => e.value)).getD 0) ++ leBytes 1 (boolNat (cfgFind d.cfg.staged item idx).isSome) ++ leBytes 3 0 ++ leBytes 4 d.cfg.stageCount) })) ∧
    (Begins s f c 0x0104 m → let n := leAt m 8 1
      let entry (i : Nat) : CfgEntry := { item := leAt m (0x10 + 16 * i) 2, index := leAt m (0x12 + 16 * i) 2, value := leAt m (0x18 + 16 * i) 8 }
      let bad (i : Nat) : Prop := leAt m (0x14 + 16 * i) 4 ≠ 0 ∨ cfgEntryOk (entry i) = false
      (n = 0 ∨ 15 < n → exec (.cfgStage f c) s = .next (refuse 0x03 8 0 0)) ∧ (1 ≤ n → n ≤ 15 → m.length < 0x10 + 16 * n → exec (.cfgStage f c) s = .next (refuse 0x03 0 0 0)) ∧
      (∀ i, 1 ≤ n → n ≤ 15 → 0x10 + 16 * n ≤ m.length → i < n → bad i → (∀ j, j < i → ¬ bad j) → exec (.cfgStage f c) s = .next (refuse 0x03 (0x10 + 16 * i) 0 0)) ∧
      (1 ≤ n → n ≤ 15 → 0x10 + 16 * n ≤ m.length → (∀ j, j < n → ¬ bad j) → exec (.cfgStage f c) s = .next { s with dev := ({ d with cfg := { d.cfg with staged := (List.range n).foldl (fun l i => cfgPut l (entry i)) d.cfg.staged, stageCount := d.cfg.stageCount + 1 } } : Dev).respond f c 0 (leBytes 4 (d.cfg.stageCount + 1)) })) ∧
    (Begins s f c 0x0105 m → let expect := leAt m 8 4
      (expect ≠ 0 → expect ≠ d.cfg.stageCount → exec (.cfgCommit f c) s = .next (refuse 0x07 0 0 d.cfg.stageCount)) ∧
      (expect = 0 ∨ expect = d.cfg.stageCount → d.cfg.staged = [] → exec (.cfgCommit f c) s = .next { s with dev := d.respondFlag f c 0 1 [] }) ∧
      (∀ e, expect = 0 ∨ expect = d.cfg.stageCount → d.cfg.staged.find? d.cfgConflict = some e → exec (.cfgCommit f c) s = .next (refuse 0x07 0 e.item e.index)) ∧
      (expect = 0 ∨ expect = d.cfg.stageCount → d.cfg.staged ≠ [] → (∀ e ∈ d.cfg.staged, d.cfgConflict e = false) → bit (leAt m 0x0C 4) 0 = false → exec (.cfgCommit f c) s = .next { s with dev := (let d1 := d.cfg.staged.foldl (fun d e => Dev.cfgTakes d e) d; (({ d1 with cfg := { d1.cfg with staged := [] } } : Dev).caveConfig d.cfg.stageCount false).respond f c 0 []) }) ∧
      (expect = 0 ∨ expect = d.cfg.stageCount → d.cfg.staged ≠ [] → (∀ e ∈ d.cfg.staged, d.cfgConflict e = false) → bit (leAt m 0x0C 4) 0 = true → exec (.cfgCommit f c) s = .next { s with dev := (let d1 := d.cfg.staged.foldl (fun d e => Dev.cfgTakes d e) d; (({ d1 with cfg := { d1.cfg.rewrite with persisted := d.cfg.staged.foldl cfgPut d1.cfg.persisted, staged := [] } } : Dev).caveConfig d.cfg.stageCount true).respond f c 0 []) })) ∧
    (Begins s f c 0x0701 m → let l := (d.flt.list.zipIdx).filter (fun e => leAt m 0x0A 1 ≤ e.1.sev && (f == 0 || d.faultPart e.1.m == some (f - 1))); let out := (l.filter (fun e => leAt m 8 2 ≤ e.2)).take 14
      exec (.fltList f c) s = .next { s with dev := d.respond f c 0 (leBytes 2 l.length ++ leBytes 1 out.length ++ leBytes 5 0 ++ out.flatMap (fun e => leBytes 8 e.1.m.word ++ leBytes 4 e.1.firstSeen ++ leBytes 2 e.1.repeats ++ leBytes 1 e.1.sev ++ leBytes 1 (boolNat e.1.ack + 2 * boolNat e.1.cleared))) }) ∧
    (Begins s f c 0x0702 m → let e := leAt m 8 2
      (e ≠ 0xFFFF → d.flt.list.length ≤ e → exec (.fltAck f c) s = .next (refuse 0x05 8 0 0)) ∧
      (e = 0xFFFF ∨ e < d.flt.list.length → Completes (.fltAck f c) s (fun t => ∀ i x, d.flt.list[i]? = some x → (e = 0xFFFF ∨ e = i → t.flt.list[i]? = some { x with ack := true, cleared := x.cleared || (!x.cleared && x.actionDone && !(x.m.kind == 0x67 || x.m.kind == 0xA1)) }) ∧
        (e ≠ 0xFFFF → e ≠ i → t.flt.list[i]? = some x)))) ∧
    (Begins s f c 0x0703 m → (1 < leAt m 8 1 → exec (.evtRead f c) s = .next (refuse 0x03 8 0 0)) ∧
      (leAt m 8 1 ≤ 1 → let l := d.cave.area (leAt m 8 1); let oldest := ((l.head?).map (fun r => r.seq)).getD 0; let first := max (leAt m 0x0C 4) oldest; let out := (l.filter (fun r => first ≤ r.seq)).take (leAt m 0x18 4)
        let pay := leBytes 4 out.length ++ leBytes 4 (((out.getLast?).map (fun r => r.seq + 1)).getD first) ++ leBytes 4 oldest
        (out = [] → exec (.evtRead f c) s = .next { s with dev := d.respond f c 0 pay }) ∧ (out ≠ [] → d.host.linkUp = true → exec (.evtRead f c) s = .next { s with dev := (d.hostWrite (leAt m 0x10 8) (out.flatMap CaveRec.bytes)).respond f c 0 pay }) ∧
        (out ≠ [] → d.host.linkUp = false → exec (.evtRead f c) s = .next (refuse 0x09 0 0 0)))) ∧
    (Begins s f c 0x0704 m → exec (.evtMark f c) s = .next { s with dev := (let d1 := d.caveWrite 2 0 0 (padBody ((m.drop 0x10).take 32 ++ leBytes 2 (leAt m 8 2))); ({ d1 with cave := { d1.cave with due := true } } : Dev).respond f c 0 (leBytes 4 d.cave.next)) }) ∧
    (Begins s f c 0x0B01 m → exec (.telRead f c) s = .next { s with dev := d.draw.2.respond f c 0 (d.telBytes d.draw.1) } ∧ (d.anyRind = true → d.pwr.power100 < 2 ^ 16 → ∀ x, leAt (d.telBytes x) 8 2 = d.pwr.power100 / 25 * 25)) ∧
    (Begins s f c 0x0B02 m → let cap := leAt m 8 2; let fl := leAt m 0x0A 1
      (cap < 1000 ∨ 1800 < cap → exec (.pwrLimit f c) s = .next (refuse 0x03 8 0 0)) ∧ (1000 ≤ cap → cap ≤ 1800 → 2 ≤ fl → exec (.pwrLimit f c) s = .next (refuse 0x03 0x0A 0 0)) ∧
      (1000 ≤ cap → cap ≤ 1800 → fl < 2 → Completes (.pwrLimit f c) s (fun e => e.pwr = { d.pwr with capW := cap, capWait := d.pwr.capWait ++ [(f, c)] } ∧ e.mbx f c = { d.mbx f c with begun := true } ∧ (fl = 1 → e.cfg = { d.cfg.rewrite with capW := some cap }) ∧ (fl = 0 → e.cfg = d.cfg))))

/-- 02_programming_model.md R37, R66, 10_memory.md R304, R306, R307, R319, R320, R323, 12_rennet.md R367, R368, R371, R376, R377, 13_security.md R394. Commands of groups 0x02, 0x03 and 0x05: each refusal in the order of the fields, what a command that finds nothing to change answers, and what one that
passes changes; a command whose object is being changed waits. -/
def Obligations.PartitionCommandRows : Prop :=
  ∀ (s : State) (f c : Nat) (m : List Byte),
    let d := s.dev
    let refuse (code off : Nat) : State := { s with dev := d.respond f c code (leBytes 2 off ++ leBytes 2 0 ++ leBytes 4 0) }
    let p := leAt m 8 1
    let q := d.part p
    let b9 := leAt m 9 1
    let bA := leAt m 0x0A 1
    let bB := leAt m 0x0B 1
    let ctx := leAt m 8 2
    let k := d.ctx ctx
    let here := reaches f (ctx / 16) = true ∧ k.live = true
    let ctxRows : List (Instr × Nat) := [(.ctxDestroy f c, 0x0302), (.ctxSched f c, 0x0303), (.ctxResetClear f c, 0x0304), (.ctxResetResume f c, 0x0304), (.memUnmap f c, 0x0502)]
    (Begins s f c 0x0201 m → d.partBusy p = false →
      (d.partOn p = false → exec (.partCreate f c) s = .next (refuse 0x03 8)) ∧
      (d.partOn p = true → 4 < b9 → exec (.partCreate f c) s = .next (refuse 0x03 9)) ∧
      (d.partOn p = true → b9 ≤ 4 → 1 < bA → exec (.partCreate f c) s = .next (refuse 0x03 0x0A)) ∧
      (d.partOn p = true → b9 ≤ 4 → bA ≤ 1 → 1 < bB → exec (.partCreate f c) s = .next (refuse 0x03 0x0B)) ∧
      (d.partOn p = true → b9 ≤ 4 → bA ≤ 1 → bB ≤ 1 →
        (q.st = 1 → q.psize = b9 → q.local_ = (bA == 1) → q.conf = (bB == 1) → exec (.partCreate f c) s = .next { s with dev := d.respondFlag f c 0 1 (leBytes 1 q.first) }) ∧
        (q.st ≠ 0 → (q.st ≠ 1 ∨ q.psize ≠ b9 ∨ q.local_ ≠ (bA == 1) ∨ q.conf ≠ (bB == 1)) → exec (.partCreate f c) s = .next (refuse 0x07 8)) ∧
        (q.st = 0 → bB = 1 → d.sec.debugScope ≠ 0 → exec (.partCreate f c) s = .next (refuse 0x07 0x0B)) ∧
        (q.st = 0 → (bB = 1 → d.sec.debugScope = 0) → d.freeBlock (p / 16) b9 = none → exec (.partCreate f c) s = .next (refuse 0x06 9)) ∧
        (∀ first, q.st = 0 → d.freeBlock (p / 16) b9 = some first →
          (bB = 0 → exec (.partCreate f c) s = .next { s with dev := (d.setPart p { Part.init with st := 1, psize := b9, local_ := bA == 1, conf := false, home := p / 16, first := first }).respond f c 0 (leBytes 1 first) }) ∧
          (bB = 1 → d.sec.debugScope = 0 → exec (.partCreate f c) s = .next { s with dev := ((d.setPart p { Part.init with st := 1, psize := b9, local_ := bA == 1, conf := true, home := p / 16, first := first }).newKeys p).respond f c 0 (leBytes 1 first) }) ∧
          first % vatsOf b9 = 0 ∧ ∀ i, i < vatsOf b9 → first + i ∉ d.vatsTaken (p / 16) ∧ d.vatAt (p / 16) (first + i) ≠ none))) ∧
    (d.partOn p = true → d.partBusy p = true → (Begins s f c 0x0201 m → exec (.partCreate f c) s = .next s) ∧ (Begins s f c 0x0202 m → exec (.partDestroy f c) s = .next s) ∧ (Begins s f c 0x0204 m → exec (.partSetMode f c) s = .next s) ∧
      (Begins s f c 0x0503 m → exec (.memScrub f c) s = .next s)) ∧
    (∀ row op, (row, op) ∈ [(Instr.partDestroy f c, 0x0202), (.partSetMode f c, 0x0204), (.memScrub f c, 0x0503)] → Begins s f c op m → (d.partOn p = false ∨ (d.partBusy p = false ∧ q.st = 0)) → exec row s = .next (refuse 0x05 8)) ∧
    (d.partOn p = true → d.partBusy p = false → q.st ≠ 0 →
      (Begins s f c 0x0202 m → (d.partCtxs p ≠ [] → exec (.partDestroy f c) s = .next (refuse 0x07 8)) ∧
        (d.partCtxs p = [] → q.scrub = true → exec (.partDestroy f c) s = .next { s with dev := (d.setPart p { q with destroying := true }).respond f c 0 [] }) ∧
        (d.partCtxs p = [] → q.scrub = false → exec (.partDestroy f c) s = .next { s with dev := (d.startScrub p true).respond f c 0 [] })) ∧
      (Begins s f c 0x0503 m → (d.partCtxs p ≠ [] → exec (.memScrub f c) s = .next (refuse 0x07 8)) ∧ (d.partCtxs p = [] → exec (.memScrub f c) s = .next { s with dev := (d.startScrub p q.destroying).respond f c 0 [] })) ∧
      (Begins s f c 0x0204 m → (3 < b9 → exec (.partSetMode f c) s = .next (refuse 0x03 9)) ∧ (b9 ≤ 3 → 1 < bA → exec (.partSetMode f c) s = .next (refuse 0x03 0x0A)) ∧ (b9 ≤ 3 → bA ≤ 1 → 1 < bB → exec (.partSetMode f c) s = .next (refuse 0x03 0x0B)) ∧
        (bA ≤ 1 → bB ≤ 1 →
          (b9 = 0 → exec (.partSetMode f c) s = .next { s with dev := (d.setPart p { q with local_ := q.local_, home := q.home }).respond f c 0 [] }) ∧
          (b9 = 1 → (bA == 1) ≠ q.local_ → q.grans ≠ [] → exec (.partSetMode f c) s = .next (refuse 0x07 0x0A)) ∧
          (b9 = 1 → (bA == 1) ≠ q.local_ → q.grans = [] → exec (.partSetMode f c) s = .next { s with dev := (d.setPart p { q with local_ := bA == 1, home := p / 16 }).respond f c 0 [] }) ∧
          (b9 = 2 → (bB == 1) ≠ q.conf → d.partCtxs p ≠ [] → exec (.partSetMode f c) s = .next (refuse 0x07 0x0B)) ∧
          (b9 = 2 → bB = 1 → q.conf = false → d.partCtxs p = [] → d.sec.debugScope ≠ 0 → exec (.partSetMode f c) s = .next (refuse 0x07 0x0B)) ∧
          (b9 = 2 → bB = 1 → q.conf = false → d.partCtxs p = [] → d.sec.debugScope = 0 → q.destroying = false → Completes (.partSetMode f c) s (fun e => (e.part p).conf = true ∧ (e.part p).st = 2 ∧ (e.part p).scrub = true ∧ (e.part p).keyNo = d.sec.nextKey))))) ∧
    (d.partCtxs p = [] → ∀ destroy, ((d.startScrub p destroy).part p).st = 2 ∧ ((d.startScrub p destroy).part p).scrub = true ∧ ((d.startScrub p destroy).part p).destroying = destroy ∧ (∀ r ∈ (d.startScrub p destroy).ext.keeps, r.part ≠ p) ∧
      (q.conf = true → destroy = false → ((d.startScrub p destroy).part p).keyNo = d.sec.nextKey)) ∧
    (Begins s f c 0x0203 m → (reaches f p = false → exec (.partQuery f c) s = .next (refuse 0x04 8)) ∧ (reaches f p = true → d.partOn p = false → exec (.partQuery f c) s = .next (refuse 0x05 8)) ∧
      (reaches f p = true → d.partOn p = true → exec (.partQuery f c) s = .next { s with dev := d.respond f c 0 (d.partBytes p) } ∧ (d.partBytes p).length = 160)) ∧
    (∀ row op, (row, op) ∈ ctxRows → Begins s f c op m → (op = 0x0304 → (row = .ctxResetResume f c ↔ bA = 1)) →
      (reaches f (ctx / 16) = false → exec row s = .next (refuse 0x04 8)) ∧
      (reaches f (ctx / 16) = true → k.live = false → d.ctxBusy ctx = false → d.resetBusy ctx = false → exec row s = .next (refuse 0x05 8)) ∧
      (reaches f (ctx / 16) = true → (op = 0x0302 ∨ op = 0x0304 → d.resetBusy ctx = true) → (op = 0x0303 ∨ op = 0x0502 → d.ctxBusy ctx = true) → exec row s = .next s)) ∧
    (here → d.resetBusy ctx = false →
      (Begins s f c 0x0302 m → (d.multiRank ctx = true → exec (.ctxDestroy f c) s = .next (refuse 0x07 8)) ∧
        (d.multiRank ctx = false → exec (.ctxDestroy f c) s = .next { s with dev := (d.setMbx f c { d.mbx f c with begun := true }).resetCtx ctx { cause := 0, waitUnits := [], resume := false, clear := false, req := some (f, c), level := 0, destroy := true } })) ∧
      (Begins s f c 0x0304 m → (1 < bA → exec (.ctxResetClear f c) s = .next (refuse 0x03 0x0A)) ∧
        (bA = 0 → exec (.ctxResetClear f c) s = .next { s with dev := (d.setMbx f c { d.mbx f c with begun := true }).resetCtx ctx { cause := 0, waitUnits := [], resume := false, clear := true, req := some (f, c), level := 0, destroy := false } }) ∧
        (bA = 1 → exec (.ctxResetResume f c) s = .next { s with dev := (d.setMbx f c { d.mbx f c with begun := true }).resetCtx ctx { cause := 0, waitUnits := [], resume := true, clear := false, req := some (f, c), level := 0, destroy := false } }))) ∧
    (here → d.ctxBusy ctx = false →
      (Begins s f c 0x0303 m → let ms := leAt m 0x0A 2
        (1000 < ms → exec (.ctxSched f c) s = .next (refuse 0x03 0x0A)) ∧ (ms ≤ 1000 → ms ≠ 0 → d.multiRank ctx = true → exec (.ctxSched f c) s = .next (refuse 0x07 8)) ∧
        (ms ≤ 1000 → (ms = 0 ∨ d.multiRank ctx = false) → (d.part (ctx / 16)).resident ≠ none → exec (.ctxSched f c) s = .next { s with dev := (d.setCtx ctx { k with sliceMs := ms }).respond f c 0 [] })) ∧
      (Begins s f c 0x0502 m → (63 < bA → exec (.memUnmap f c) s = .next (refuse 0x03 0x0A)) ∧ (bA ≤ 63 → (smGet Seg.init k.segs bA).valid = false → exec (.memUnmap f c) s = .next (refuse 0x05 0x0A)) ∧
        (bA ≤ 63 → (smGet Seg.init k.segs bA).valid = true → k.prog = .started → exec (.memUnmap f c) s = .next (refuse 0x07 8)) ∧
        (bA ≤ 63 → (smGet Seg.init k.segs bA).valid = true → k.prog ≠ .started → exec (.memUnmap f c) s = .next { s with dev := (({ d with ext := { d.ext with keeps := d.ext.keeps.filter (fun (x : KeepRec) => !(x.sliceId == k.sliceId && x.rank == k.rank && x.seg == bA)) } } : Dev).setCtx ctx { k with segs := smSet Seg.init k.segs bA Seg.init }).respond f c 0 [] }))) ∧
    (Begins s f c 0x0501 m → let off := leAt m 0x10 8; let n := leAt m 0x18 4; let g := smGet Seg.init k.segs bA
      (reaches f (ctx / 16) = false → exec (.memMap f c) s = .next (refuse 0x04 8)) ∧
      (reaches f (ctx / 16) = true → d.ctxBusy ctx = true → exec (.memMap f c) s = .next s) ∧
      (reaches f (ctx / 16) = true → d.ctxBusy ctx = false → (d.part (ctx / 16)).st = 2 → exec (.memMap f c) s = .next (refuse 0x02 0)) ∧
      (here → d.ctxBusy ctx = false → (d.part (ctx / 16)).st ≠ 2 →
        (63 < bA → exec (.memMap f c) s = .next (refuse 0x03 0x0A)) ∧ (bA ≤ 63 → 7 < bB → exec (.memMap f c) s = .next (refuse 0x03 0x0B)) ∧
        (bA ≤ 63 → bB ≤ 7 → (off % 4096 ≠ 0 ∨ 2 ^ 43 ≤ off) → exec (.memMap f c) s = .next (refuse 0x03 0x10)) ∧
        (bA ≤ 63 → bB ≤ 7 → off % 4096 = 0 → off < 2 ^ 43 → (n = 0 ∨ 0x80000000 < n ∨ 2 ^ 43 < off + n * 4096) → exec (.memMap f c) s = .next (refuse 0x03 0x18)) ∧
        (bA ≤ 63 → bB ≤ 7 → off % 4096 = 0 → 1 ≤ n → n ≤ 0x80000000 → off + n * 4096 ≤ 2 ^ 43 →
          (g.valid = true → (g.rd = bit bB 0 ∧ g.wr = bit bB 1 ∧ g.keep = bit bB 2 ∧ g.base = off / 4096 ∧ g.pages = n) → exec (.memMap f c) s = .next { s with dev := d.respondFlag f c 0 1 (leBytes 4 g.page) }) ∧
          (g.valid = true → ¬ (g.rd = bit bB 0 ∧ g.wr = bit bB 1 ∧ g.keep = bit bB 2 ∧ g.base = off / 4096 ∧ g.pages = n) → exec (.memMap f c) s = .next (refuse 0x07 0x0A)) ∧
          (g.valid = false → (∃ e ∈ k.segs, e.2.valid = true ∧ off / 4096 < e.2.base + e.2.pages ∧ e.2.base < off / 4096 + n) → exec (.memMap f c) s = .next (refuse 0x07 0x10)) ∧
          (g.valid = false → (∀ e ∈ k.segs, ¬ (e.2.valid = true ∧ off / 4096 < e.2.base + e.2.pages ∧ e.2.base < off / 4096 + n)) →
            (d.takeRun (ctx / 16) n 512 (off / 4096 % 512) 8192 = none → exec (.memMap f c) s = .next (refuse 0x06 0x10)) ∧
            (∀ d1 page, d.takeRun (ctx / 16) n 512 (off / 4096 % 512) 8192 = some (d1, page) → exec (.memMap f c) s = .next { s with dev := (d1.setPart (ctx / 16) { d1.part (ctx / 16) with grants := (d1.part (ctx / 16)).grants ++ [.memMap f c ctx bA bB (off / 4096) n page] }).begin_ f c }))))) ∧
    (Begins s f c 0x0504 m → let ch := leAt m 8 1; let page := leAt m 0x0C 4; let la := ch + bits page 25 13 * 2 ^ 5 + bits page 12 0 * 32 * 2 ^ 18
      (32 ≤ ch ∨ (d.chan ch).st ≠ 1 → exec (.memRetire f c) s = .next (refuse 0x05 8)) ∧
      (ch < 32 → (d.chan ch).st = 1 → (2 ^ 26 ≤ page ∨ bandsOf (d.chan ch).cap ≤ bits page 25 13) → exec (.memRetire f c) s = .next (refuse 0x03 0x0C)) ∧
      (ch < 32 → (d.chan ch).st = 1 → page < 2 ^ 26 → bits page 25 13 < bandsOf (d.chan ch).cap → let d1 := d.retirePage la (d.confLine la)
        (smGet 0 (d1.chan ch).remap (pageOf la) = 0 → exec (.memRetire f c) s = .next { s with dev := d1.respond f c 0x06 (leBytes 2 8 ++ leBytes 2 0 ++ leBytes 4 0) }) ∧
        (smGet 0 (d1.chan ch).remap (pageOf la) ≠ 0 → exec (.memRetire f c) s = .next { s with dev := d1.respond f c 0 (leBytes 4 (65536 - (d1.chan ch).remapUsed)) }))) ∧
    (Begins s f c 0x0301 m → let pc := leAt m 0x0C 1; let id := leAt m 8 4
      (reaches f pc = false → exec (.ctxCreate f c) s = .next (refuse 0x04 0x0C)) ∧
      (reaches f pc = true → d.partBusy pc = true → exec (.ctxCreate f c) s = .next s) ∧
      (reaches f pc = true → d.partBusy pc = false → d.partOn pc = true → (d.part pc).st = 2 → exec (.ctxCreate f c) s = .next (refuse 0x02 0)) ∧
      (reaches f pc = true → d.partBusy pc = false → d.partOn pc = true → (d.part pc).st ≠ 2 → d.slotOf pc id = none →
        (f ≠ 0 → exec (.ctxCreate f c) s = .next (refuse 0x04 8)) ∧ (f = 0 → d.sliceNis id = [] → exec (.ctxCreate f c) s = .next (refuse 0x05 8)) ∧ (f = 0 → d.sliceNis id ≠ [] → exec (.ctxCreate f c) s = .next (refuse 0x05 0x0C))) ∧
      (∀ slot, reaches f pc = true → d.partBusy pc = false → d.partOn pc = true → d.slotOf pc id = some slot → let cx := 16 * pc + slot; let x := (d.ctxNi cx).slice slot
        ((d.part pc).st ≠ 2 → (d.ctx cx).live = true → (d.ctx cx).sliceId = id → exec (.ctxCreate f c) s = .next { s with dev := d.respondFlag f c 0 1 (leBytes 2 cx ++ leBytes 2 (d.ctx cx).gen) }) ∧
        ((d.part pc).st ≠ 2 → (d.ctx cx).live = false → ((d.part pc).st ≠ 1 ∨ (d.part pc).psize ≠ sdPsize x ∨ (d.part pc).conf ≠ sdConf x) → exec (.ctxCreate f c) s = .next (refuse 0x05 0x0C)) ∧
        ((d.ctx cx).live = false → (d.part pc).st = 1 → (d.part pc).psize = sdPsize x → (d.part pc).conf = sdConf x →
          ((d.part pc).conf = true → d.partCtxs pc ≠ [] → exec (.ctxCreate f c) s = .next (refuse 0x04 0x0C)) ∧
          (((d.part pc).conf = false ∨ d.partCtxs pc = []) →
            (d.takeRun pc (1544 * vatsOf (d.part pc).psize) 1 0 8192 = none → exec (.ctxCreate f c) s = .next (refuse 0x06 0x0C)) ∧
            (∀ d1 page, d.takeRun pc (1544 * vatsOf (d.part pc).psize) 1 0 8192 = some (d1, page) → exec (.ctxCreate f c) s = .next { s with dev := (let d2 := d1.setCtx cx { Ctx.init with save := some (page, 1544 * vatsOf (d.part pc).psize) }; (d2.setPart pc { d2.part pc with grants := (d2.part pc).grants ++ [.ctxCreate f c cx] }).begin_ f c) })))))

/-- 02_programming_model.md R64, R67, R68, 12_rennet.md R369, R370, R374, R376, R377, 13_security.md R404, 14_recovery.md R415-R418, R429. PROG_LOAD, PROG_START, CULTURE_SET, RESET_REQ and SERVICE_RETURN: what each refuses, in order, and what it changes; PROG_LOAD
accepts an image only with the fields and checks of its layout. -/
def Obligations.ProgramCommandRows : Prop :=
  ∀ (s : State) (f c : Nat) (m : List Byte),
    let d := s.dev
    let refuse (g : Dev) (code off arg : Nat) : Host.Outcome State Fault Refusal := .next { s with dev := g.respond f c code (leBytes 2 off ++ leBytes 2 0 ++ leBytes 4 arg) }
    let ctx := leAt m 8 2
    let p := ctx / 16
    let k := d.ctx ctx
    let here := reaches f p = true ∧ k.live = true ∧ d.ctxBusy ctx = false
    let rows : List (Instr × Nat) := [(.progLoad f c, 0x0401), (.progStart f c, 0x0402), (.cultureSetRegister f c, 0x0403), (.cultureSetWrite f c, 0x0403)]
    let off := leAt m 0x10 8
    let n := leAt m 0x18 4
    let t := leAt m 0x0C 4
    (∀ row op, (row, op) ∈ rows → Begins s f c op m → (op = 0x0403 → (row = .cultureSetWrite f c ↔ leAt m 10 1 = 1)) →
      (reaches f p = false → exec row s = refuse d 0x04 8 0) ∧
      (reaches f p = true → k.live = false → d.ctxBusy ctx = false → (op = 0x0401 → (d.part p).st ≠ 2) → d.cultQueued ctx = false → exec row s = refuse d 0x05 8 0) ∧
      (reaches f p = true → d.ctxBusy ctx = true → exec row s = .next s)) ∧
    (Begins s f c 0x0401 m → here → ((d.part p).st = 2 → exec (.progLoad f c) s = refuse d 0x02 0 0) ∧ ((d.part p).st ≠ 2 → k.prog = .started → exec (.progLoad f c) s = refuse d 0x07 8 0) ∧
      ((d.part p).st ≠ 2 → k.prog ≠ .started →
        (k.segAt off n false = none → exec (.progLoad f c) s = refuse d 0x04 0x10 0) ∧
        (∀ a, k.segAt off n false = some a → let r := d.extRead p a n (some ctx)
          (r.2 = none → exec (.progLoad f c) s = refuse r.1 0x09 0x10 (d.firstBad p a n ctx)) ∧
          (∀ im, r.2 = some im → (im.length < 0xC0 ∨ im.length < 0xC0 + 16 * leAt im 6 2) → exec (.progLoad f c) s = refuse r.1 0x03 0x18 0) ∧
          (∀ im o, r.2 = some im → imShort im = false → imFault im (d.cores p) = some o → exec (.progLoad f c) s = refuse r.1 0x03 0x10 o) ∧
          (∀ im, r.2 = some im → imShort im = false → imFault im (d.cores p) = none → let h := im.take (0xC0 + 16 * leAt im 6 2)
            (r.1.placeSpill ctx h = none → exec (.progLoad f c) s = refuse r.1 0x06 0 0) ∧
            (∀ d1, r.1.placeSpill ctx h = some d1 → let e := (d1.place ctx im .idle none).recordLoad ctx im .loaded
              exec (.progLoad f c) s = .next { s with dev := e.respond f c 0 (leBytes 2 (vatsOf (d.part p).psize * sumOf (imVs h)) ++ leBytes 2 0 ++ leBytes 4 (vatsOf (d.part p).psize * imVatExt h)) } ∧
              (e.ctx ctx).prog = .loaded ∧ (e.ctx ctx).loaded = some h ∧ (e.ctx ctx).digest = shake256 im))))) ∧
    (∀ im cores, imFault im cores = none → leAt im 0 4 = 1 ∧ leAt im 4 2 ≤ 128 ∧ 1 ≤ leAt im 6 2 ∧ leAt im 6 2 ≤ 256 ∧ leAt im 8 4 = im.length ∧ leAt im 12 4 = crcValue 1 0 (im.take 12 ++ leBytes 4 0 ++ im.drop 16) ∧ leAt im 0x10 48 = 0 ∧
      (∀ i, i < 64 → leAt im (0x40 + 2 * i) 2 ≤ 4080) ∧ ∀ i, i < leAt im 6 2 → let x := imSect im i
        x.first + x.cores ≤ cores ∧ x.code + 16384 ≤ im.length ∧ x.dlen ≤ 65536 ∧ x.data + x.dlen ≤ im.length ∧ ∀ j, j < i → let y := imSect im j
          y.first + y.cores ≤ x.first ∨ x.first + x.cores ≤ y.first) ∧
    (Begins s f c 0x0402 m → here → (k.prog = .none_ → exec (.progStart f c) s = refuse d 0x07 8 0) ∧ (k.prog = .complete → exec (.progStart f c) s = refuse d 0x07 8 1) ∧
      (k.prog = .started → exec (.progStart f c) s = .next { s with dev := d.respondFlag f c 0 1 [] }) ∧
      (k.prog = .loaded → sdConf ((d.ctxNi ctx).slice (ctx % 16)) = true → d.multiChip ctx = true → (∀ x ∈ d.sec.secrets, x.sliceId ≠ k.sliceId) → exec (.progStart f c) s = refuse d 0x07 8 3) ∧
      (k.prog = .loaded → d.linkNeeded ctx = false →
        (∀ o, (d.part p).resident = some o → o ≠ ctx % 16 → (d.multiRank ctx = true ∨ d.multiRank (p * 16 + o) = true) → exec (.progStart f c) s = refuse d 0x07 8 0) ∧
        ((∀ o, (d.part p).resident = some o → o = ctx % 16 ∨ (d.multiRank ctx = false ∧ d.multiRank (p * 16 + o) = false)) →
          let d1 := d.releaseCurds ctx; let d2 := d1.setCtx ctx { d1.ctx ctx with prog := .started, lastProg := 0 }
          (d2.ctx ctx).prog = .started ∧ ((d.part p).resident ≠ none → exec (.progStart f c) s = .next { s with dev := d2.respond f c 0 [] }) ∧
          ((d.part p).resident = none → (d.part p).switchTo = none → exec (.progStart f c) s = .next { s with dev := (d2.makeResident ctx).respond f c 0 [] }) ∧
          ((d.part p).resident = none → (d.part p).switchTo ≠ none → exec (.progStart f c) s = .next { s with dev := d2.respond f c 0 [] })))) ∧
    (d.isResident ctx = true → ∀ e ∈ d.partCurds p, ((d.releaseCurds ctx).curd (curdKey e.1 e.2)).st = .run) ∧
    (Begins s f c 0x0403 m → here → leAt m 10 1 ≠ 1 → (1 < leAt m 10 1 → exec (.cultureSetRegister f c) s = refuse d 0x03 0x0A 0) ∧
      (leAt m 10 1 = 0 → (off % 64 ≠ 0 ∨ k.keepAt off 512 = none) → exec (.cultureSetRegister f c) s = refuse d 0x03 0x10 0) ∧
      (leAt m 10 1 = 0 → off % 64 = 0 → k.keepAt off 512 ≠ none → exec (.cultureSetRegister f c) s = .next { s with dev := (d.setCtx ctx { k with culture := some off }).respond f c 0 (leBytes 4 0) })) ∧
    (Begins s f c 0x0403 m → here → leAt m 10 1 = 1 → let im := d.hostRead (leAt m 0x18 8) 256
      (d.cultQueued ctx = true → exec (.cultureSetWrite f c) s = .next s) ∧
      (d.cultQueued ctx = false → (off % 64 ≠ 0 ∨ k.keepAt off 512 = none) → exec (.cultureSetWrite f c) s = refuse d 0x03 0x10 0) ∧
      (d.cultQueued ctx = false → off % 64 = 0 → ∀ base, k.keepAt off 512 = some base →
        (d.host.linkUp = false → exec (.cultureSetWrite f c) s = refuse d 0x09 0 0) ∧ (d.host.linkUp = true → k.cuPlaced im = false → exec (.cultureSetWrite f c) s = refuse d 0x03 0x18 0) ∧
        (d.host.linkUp = true → k.cuPlaced im = true → let w := (d.setCtx ctx { k with culture := some off }).writeEntry ctx off base im
          (w.2 = none → exec (.cultureSetWrite f c) s = refuse w.1 0x09 0 0) ∧ (∀ q, w.2 = some q → exec (.cultureSetWrite f c) s = .next { s with dev := w.1.respond f c 0 (leBytes 4 q) })))) ∧
    (Begins s f c 0x0801 m → let lv := leAt m 8 1; let b := d.setMbx f c { d.mbx f c with begun := true }
      let tear : Teardown := { cause := 0, waitUnits := [], resume := false, clear := false, req := some (f, c), level := 0, destroy := false }
      (4 < lv → exec (.resetReqContext f c) s = refuse d 0x03 8 0) ∧
      (lv = 0 → (reaches f (t / 16) = false → exec (.resetReqContext f c) s = refuse d 0x04 0x0C 0) ∧ (reaches f (t / 16) = true → d.resetBusy t = true → exec (.resetReqContext f c) s = .next s) ∧
        (reaches f (t / 16) = true → d.resetBusy t = false → (d.ctx t).live = false → exec (.resetReqContext f c) s = refuse d 0x05 0x0C 0) ∧
        (reaches f (t / 16) = true → d.resetBusy t = false → (d.ctx t).live = true → exec (.resetReqContext f c) s = .next { s with dev := b.resetCtx t tear })) ∧
      (lv = 1 → (f ≠ 0 → exec (.resetReqEngine f c) s = refuse d 0x04 8 0) ∧ (f = 0 → d.engineBusy t = true → exec (.resetReqEngine f c) s = .next s) ∧ (f = 0 → d.reqEngine t = none → exec (.resetReqEngine f c) s = refuse d 0x05 0x0C 0) ∧
        (∀ u, f = 0 → d.engineBusy t = false → d.reqEngine t = some u → (u < 0x9000 ∨ (d.port (u - 0x9000)).fenced = false) → exec (.resetReqEngine f c) s = .next { s with dev := b.engineReset u 0 (some (f, c)) }) ∧
        (∀ u, f = 0 → d.reqEngine t = some u → 0x9000 ≤ u → (d.port (u - 0x9000)).fenced = true → d.engineBusy t = false → exec (.resetReqEngine f c) s = .next { s with dev := d.respond f c 0 (leBytes 1 1) })) ∧
      (lv = 2 → (reaches f t = false → exec (.resetReqPartition f c) s = refuse d 0x04 0x0C 0) ∧ (reaches f t = true → ((d.part t).st = 3 ∨ (d.part t).grants ≠ []) → exec (.resetReqPartition f c) s = .next s) ∧
        (reaches f t = true → (d.part t).st ≠ 3 → (d.part t).grants = [] → (d.partOn t = false ∨ (d.part t).st = 0) → exec (.resetReqPartition f c) s = refuse d 0x05 0x0C 0) ∧
        (reaches f t = true → (d.part t).st ≠ 3 → (d.part t).grants = [] → d.partOn t = true → (d.part t).st ≠ 0 → exec (.resetReqPartition f c) s = .next { s with dev := b.partReset t 0 false (some (f, c)) })) ∧
      (lv = 3 → (f ≠ 0 → exec (.resetReqChip f c) s = refuse d 0x04 8 0) ∧ (f = 0 → exec (.resetReqChip f c) s = .next { s with dev := (d.respond f c 0 (leBytes 1 3)).chipReset 0 true false }) ∧
        (f = 0 → d.boot.chipResetting = false → d.pwr.islandUp = true → d.pwr.ioUp = true → Completes (.resetReqChip f c) s (fun e => ChipWasReset e 0))) ∧
      (lv = 4 → (f ≠ 0 → exec (.resetReqPowerCycle f c) s = refuse d 0x04 8 0) ∧ (f = 0 → exec (.resetReqPowerCycle f c) s = .next { s with dev := (d.respond f c 0 (leBytes 1 4)).askPowerCycle 0 }) ∧
        (f = 0 → Completes (.resetReqPowerCycle f c) s (fun e => e.rrc.lastLevel = 4 ∧ e.rrc.lastCause = 0 ∧ (d.cave.store ≠ 2 → e.cave.due = true ∧ e.rrc.pwrcycWanted = true) ∧ (d.cave.store = 2 → e.pwr.pwrcyc = true))))) ∧
    (∀ node i, node < 288 → (d.vat node).lst ≠ .fusedOff → (i < 68 → d.reqEngine (node + i * 2 ^ 11) = some (128 * node + i)) ∧ (i < 4 → d.reqEngine (node + 2 ^ 9 + i * 2 ^ 11) = some (128 * node + (0x50 + i))) ∧
      d.reqEngine (node + 3 * 2 ^ 9) = some (128 * node + 0x59)) ∧
    (∀ i, i < 16 → d.quadOn (edgeQuadrant (0x140 + i)) = true → d.reqEngine (0x140 + i + 2 * 2 ^ 9) = some (0x9000 + i)) ∧
    (Begins s f c 0x0802 m → (d.rrc.oos = false → exec (.serviceReturn f c) s = refuse d 0x07 0 0) ∧ (d.rrc.oos = true → Completes (.serviceReturn f c) s (fun e => e.rrc = { d.rrc with resets := [], oos := false } ∧ e.cfg = d.cfg.rewrite ∧
      e.flt.list = d.flt.list.map (fun x => if x.m.kind == 0x67 && !x.cleared then { x with ack := true, cleared := true } else x) ∧ (e.mbx f c).rsp = rspBytes (d.mbx f c).seq 0 0 [])))

/-- 12_rennet.md R374, 13_security.md R383, R385-R389, R391, R395, R405, 14_recovery.md R430, 16_bringup.md R482. FW_STAGE, FW_ACTIVATE, FW_QUERY, ATTEST, DEBUG_UNLOCK and the end of a rollover: an image is staged only when it verifies and never into the running copy; a leaf is
used once, and none past a mark is used before the mark is written; a token serves once. -/
def Obligations.FirmwareAndAttestRows : Prop :=
  ∀ (s : State) (f c : Nat) (m : List Byte),
    let d := s.dev
    let say (g : Dev) (key code off arg : Nat) : Host.Outcome State Fault Refusal := .next { s with dev := g.respond f key code (leBytes 2 off ++ leBytes 2 0 ++ leBytes 4 arg) }
    let x := d.sec
    let comp := leAt m 8 1
    let when_ := leAt m 9 1
    let n := leAt m 0x18 4
    let im := d.hostRead (leAt m 0x10 8) n
    let other := 2 * comp + (1 - smGet 0 x.running comp)
    let slot := smGet FwCopy.init x.fw other
    let run := smGet FwCopy.init x.fw (2 * comp + smGet 0 x.running comp)
    let act := { d with sec := { x with fw := smSet FwCopy.init x.fw other { slot with seq := slot.stagedSeq, verified := false, starts := 0 }, activating := x.activating ++ [comp] } }
    let p := leAt m 8 1
    let sk := 8 + c
    let tok := d.hostRead (leAt m 8 8) 2852
    (Begins s f c 0x0901 m → (3 < comp → exec (.fwStage f c) s = say d c 0x03 8 0) ∧ (comp ≤ 3 → x.activating ≠ [] → exec (.fwStage f c) s = say d c 0x07 0 0) ∧
      (comp ≤ 3 → x.activating = [] → 2 ^ 23 < n → exec (.fwStage f c) s = say d c 0x06 0x18 (2 ^ 23)) ∧ (comp ≤ 3 → x.activating = [] → n ≤ 2 ^ 23 → d.host.linkUp = false → exec (.fwStage f c) s = say d c 0x09 0x10 0) ∧
      (comp ≤ 3 → x.activating = [] → n ≤ 2 ^ 23 → d.host.linkUp = true →
        (x.accepts comp im = false → exec (.fwStage f c) s = say (d.raise (plainMsg 0x803 0x71 0)) c 0x09 0x10 0) ∧
        (x.accepts comp im = true → let seq := if run.seq + 1 = 0xFFFFFFFF then 0 else (run.seq + 1) % 2 ^ 32
          exec (.fwStage f c) s = .next { s with dev := (({ d with sec := { x with fw := smSet FwCopy.init x.fw other { seq := 0xFFFFFFFF, version := leAt im 8 4, secVersion := leAt im 0x0C 2, digest := shake256 (im.take 0x90), invalid := false, verified := true, stagedSeq := seq, starts := 0 } } } : Dev).event 5 none).respond f c 0 (leBytes 4 seq ++ leBytes 4 0 ++ leBytes 32 (shake256 (im.take 0x90)).toNat) }))) ∧
    (∀ im : List Byte, x.accepts comp im = true ↔ leAt im 5 1 ≤ 1 ∧ 0xC00 + leAt im 0x10 4 ≤ im.length ∧ shake256 ((im.drop 0x40).take 68) = (if leAt im 5 1 = 0 then x.fuses.signer0 else x.fuses.signer1) ∧ bit x.fuses.signerRevoke (leAt im 5 1) = false ∧
      xmssVerify ((im.drop 0x40).take 68) (im.take 0x90) ((im.drop 0x90).take 2820) = true ∧ leAt im 0x20 32 = (shake256 ((im.drop 0xC00).take (leAt im 0x10 4))).toNat ∧ leAt im 4 1 = comp ∧ smGet 0 x.fuses.secVersion comp ≤ leAt im 0x0C 2) ∧
    (∀ row, (row = Instr.fwActivateNextReset f c ∧ when_ ≠ 1) ∨ (row = .fwActivateNow f c ∧ when_ = 1) → Begins s f c 0x0902 m → (3 < comp → exec row s = say d c 0x03 8 0) ∧ (comp ≤ 3 → 1 < when_ → exec row s = say d c 0x03 9 0) ∧
      (when_ = 1 → (comp = 1 ∨ comp = 3) → exec row s = say d c 0x03 9 0) ∧
      (comp ≤ 3 → when_ ≤ 1 → (when_ = 1 → comp = 0 ∨ comp = 2) → (x.activating ≠ [] → exec row s = say d c 0x07 0 0) ∧
        (x.activating = [] → (slot.verified = false ∨ slot.seq ≠ 0xFFFFFFFF) → exec row s = say d c 0x07 8 0))) ∧
    (Begins s f c 0x0902 m → comp ≤ 3 → x.activating = [] → slot.verified = true → slot.seq = 0xFFFFFFFF →
      (when_ = 0 → exec (.fwActivateNextReset f c) s = .next { s with dev := (act.event 5 none).respond f c 0 [] }) ∧
      (when_ = 1 → comp = 0 → d.rrc.standbyOk = false → exec (.fwActivateNow f c) s = say d c 0x09 0 0) ∧
      (when_ = 1 → comp = 0 → d.rrc.standbyOk = true → exec (.fwActivateNow f c) s = .next { s with dev := ((({ act with sec := { act.sec with running := smSet 0 x.running 0 (1 - smGet 0 x.running 0), activating := act.sec.activating.filter (fun k => k != 0) } } : Dev).event 5 none).respond f c 0 []).failover }) ∧
      (when_ = 1 → comp = 2 → exec (.fwActivateNow f c) s = .next { s with dev := ((act.event 5 none).respond f c 0 []).recvReset true false })) ∧
    (Begins s f c 0x0903 m → (3 < comp → exec (.fwQuery f c) s = say d c 0x03 8 0) ∧ (comp ≤ 3 →
      let st := if comp ∈ x.activating then 2 else if slot.verified = true ∧ slot.seq = 0xFFFFFFFF then 1 else 0
      exec (.fwQuery f c) s = .next { s with dev := d.respond f c 0 (leBytes 1 st ++ leBytes 3 0 ++ leBytes 4 run.version ++ leBytes 4 run.seq ++ leBytes 4 (if st = 0 then 0 else slot.version) ++ leBytes 4 (if st = 0 then 0 else slot.stagedSeq) ++ leBytes 4 0 ++ leBytes 32 run.digest.toNat ++ leBytes 32 (if st = 0 then 0 else slot.digest.toNat)) })) ∧
    (Begins s f sk 0x0A01 m → (p ≠ 0xFF → d.partOn p = false → exec (.attest f c) s = say d sk 0x05 8 0) ∧
      ((p = 0xFF ∨ d.partOn p = true) → (leAt m 0x38 4 < 9964 → exec (.attest f c) s = say d sk 0x06 0x38 9964) ∧ (9964 ≤ leAt m 0x38 4 → x.activating ≠ [] → exec (.attest f c) s = say d sk 0x02 0 0) ∧
        (9964 ≤ leAt m 0x38 4 → x.activating = [] →
          (∀ y k, x.takeLeaf = (y, .leaf k) → let b := ({ d with sec := y } : Dev).reportBody p ((m.drop 0x10).take 32); let r := b ++ padTo 2820 (Config.xmssSign (Config.attPublic y.attIndex) k b)
            (d.host.linkUp = true → exec (.attest f c) s = .next { s with dev := (({ d with sec := y } : Dev).hostWrite (leAt m 0x30 8) r).respond f sk 0 (leBytes 4 9964) }) ∧ (d.host.linkUp = false → exec (.attest f c) s = say { d with sec := y } sk 0x09 0 0)) ∧
          (∀ y, x.takeLeaf = (y, .exhausted) → exec (.attest f c) s = say d sk (if x.rollover = true then 0x02 else 0x06) 0 0) ∧
          (∀ y, x.takeLeaf = (y, .stuck) → exec (.attest f c) s = .next { s with dev := (d.respond f sk 0x06 (leBytes 2 0 ++ leBytes 2 0 ++ leBytes 4 0)).raise (plainMsg 0x803 0x70 0) })))) ∧
    (x.att.next < x.att.limit → x.takeLeaf = ({ x with att := { x.att with next := x.att.next + 1 } }, .leaf x.att.next)) ∧
    (x.att.limit ≤ x.att.next → (x.att.mark = none → x.takeLeaf = (x, .stuck)) ∧ (∀ k, x.att.mark = some k → 2 ^ 20 ≤ k → x.takeLeaf = (x, .exhausted)) ∧ (∀ k, x.att.mark = some k → k < 2 ^ 20 → x.att.writable = false → x.takeLeaf = (x, .stuck)) ∧
      (∀ k, x.att.mark = some k → k < 2 ^ 20 → x.att.writable = true → (x.takeLeaf.2 = .leaf k ∧ x.takeLeaf.1.att.next = k + 1 ∧ x.takeLeaf.1.att.limit = k + 64 ∧ ((∀ a, x.att.markA = some a → a.1 < 2 ^ 32) → (∀ a, x.att.markB = some a → a.1 < 2 ^ 32) → x.takeLeaf.1.att.mark = some (k + 64)) ∧
        (943718 < k + 64 → (∃ i, x.idk.mark = some i ∧ i < 2 ^ 10) → x.takeLeaf.1.rollover = true)))) ∧
    (x.rollover = false ∨ d.host.recvUpSec = false → exec .rolloverDone s = .next s) ∧
    (∀ k, x.rollover = true → d.host.recvUpSec = true → x.idk.mark = some k → (2 ^ 10 ≤ k → exec .rolloverDone s = .next s) ∧ (k < 2 ^ 10 → x.idk.writable = false → exec .rolloverDone s = .next { s with dev := d.raise (plainMsg 0x803 0x70 0) }) ∧
      (k < 2 ^ 10 → x.idk.writable = true → Completes .rolloverDone s (fun e => e.sec.rollover = false ∧ e.sec.attIndex = x.attIndex + 1 ∧ e.sec.att.mark = some 0 ∧ e.sec.att.next = 0 ∧ e.sec.att.limit = 0 ∧ e.sec.idk.next = k + 1 ∧ e.sec.fuses = x.fuses))) ∧
    (Begins s f sk 0x0A04 m → (x.fuses.debugDisable = true → exec (.debugUnlock f c) s = say d sk 0x04 0 1) ∧ (x.fuses.debugDisable = false → (∃ q ∈ d.parts, q.2.st ≠ 0 ∧ q.2.conf = true) → exec (.debugUnlock f c) s = say d sk 0x04 0 0) ∧
      (x.fuses.debugDisable = false → (∀ q ∈ d.parts, q.2.st = 0 ∨ q.2.conf = false) →
        let good := d.host.linkUp = true ∧ 2852 ≤ leAt m 0x10 4 ∧ leAt tok 0 4 = 1 ∧ leAt tok 4 4 < 4 ∧ leAt tok 0x14 12 = 0 ∧ leAt tok 8 8 = x.fuses.serial ∧ leAt tok 0x10 4 = x.unlockCounter ∧ Config.fusedKeyVerify x.fuses.debugAuthority (tok.take 0x20) (tok.drop 0x20) = true
        (¬ good → exec (.debugUnlock f c) s = say d sk 0x09 8 0) ∧ (good → exec (.debugUnlock f c) s = .next { s with dev := ({ d with sec := { x with unlockCounter := x.unlockCounter + 1, debugScope := leAt tok 4 4 } } : Dev).respond f sk 0 [] })))

/-- 12_rennet.md R374, R376, R377, R378, 13_security.md R397-R403. KEY_PUBLIC_GET and KEY_INSTALL: the answers in the order of R401's table, and what an accepted envelope changes. -/
def Obligations.KeyRows : Prop :=
  ∀ (s : State) (f c : Nat) (m : List Byte),
    let d := s.dev
    let k := 8 + c
    let say (g : Dev) (code off arg : Nat) : Host.Outcome State Fault Refusal := .next { s with dev := g.respond f k code (leBytes 2 off ++ leBytes 2 0 ++ leBytes 4 arg) }
    let p := leAt m 8 1
    let id := leAt m 0x0C 4
    let buf := leAt m 0x10 8
    let len := leAt m 0x18 4
    let kind := leAt (d.hostRead buf 128) 4 1
    let h := d.hostRead buf 1680
    let hd := d.hostRead buf 128
    let off := leAt hd 0x10 8
    let n := leAt hd 0x18 8
    let ek := shake256 (padTo 1568 (Config.mlkemPublic (d.part p).keyNo))
    (Begins s f k 0x0A02 m → let q := leAt m 9 1
      (∀ bs, (p = 0 ∧ bs = d.identityCert) ∨ (p = 1 ∧ bs = d.attCert) ∨ (p = 2 ∧ (d.part q).conf = true ∧ (d.part q).st ≠ 0 ∧ bs = padTo 1568 (Config.mlkemPublic (d.part q).keyNo)) →
        (len < bs.length → exec (.keyPublicGet f c) s = say d 0x06 0x18 bs.length) ∧ (bs.length ≤ len → d.host.linkUp = true → exec (.keyPublicGet f c) s = .next { s with dev := (d.hostWrite buf bs).respond f k 0 (leBytes 4 bs.length) }) ∧
        (bs.length ≤ len → d.host.linkUp = false → exec (.keyPublicGet f c) s = say d 0x09 0 0)) ∧
      (p = 2 → ((d.part q).conf = false ∨ (d.part q).st = 0) → exec (.keyPublicGet f c) s = say d 0x05 9 0) ∧ (2 < p → exec (.keyPublicGet f c) s = say d 0x03 8 0)) ∧
    (∀ row, (row = Instr.keyInstallModel f c ∧ (kind = 0 ∨ 3 < kind)) ∨ (row = .keyInstallLink f c ∧ kind = 1) ∨ (row = .keyInstallImport f c ∧ kind = 2) ∨ (row = .keyInstallExport f c ∧ kind = 3) → Begins s f k 0x0A03 m →
      ((d.part p).st = 3 → exec row s = .next s) ∧ ((d.part p).st ≠ 3 → (d.partCtxs p = [] ∨ (d.part p).conf = false) → exec row s = say d 0x04 8 0) ∧
      ((d.part p).st ≠ 3 → d.partCtxs p ≠ [] → (d.part p).conf = true → d.host.linkUp = false → exec row s = say d 0x09 0 0)) ∧
    (∀ slot rest, Begins s f k 0x0A03 m → (d.part p).st ≠ 3 → d.partCtxs p = slot :: rest → (d.part p).conf = true → d.host.linkUp = true → let ctx := 16 * p + slot; let sl := (d.ctx ctx).sliceId; let x := (d.ctxNi ctx).slice (ctx % 16)
      let mine := d.sec.models.filter (fun (y : ModelKey) => y.part == p)
      (((kind = 0 ∨ 3 < kind) → d.keyHeaderOk h id sl len = false → exec (.keyInstallModel f c) s = say d 0x03 0x10 0) ∧ (kind = 0 → d.keyHeaderOk h id sl len = true → d.unwrap p h = none → exec (.keyInstallModel f c) s = say d 0x09 0x10 0) ∧
        (∀ key, kind = 0 → d.keyHeaderOk h id sl len = true → d.unwrap p h = some key →
          (∀ y, d.sec.models.find? (fun (y : ModelKey) => y.part == p && y.keyId == id) = some y → (y.key = key → exec (.keyInstallModel f c) s = .next { s with dev := d.respondFlag f k 0 1 [] }) ∧ (y.key ≠ key → exec (.keyInstallModel f c) s = say d 0x07 0x0C 0)) ∧
          ((∀ y ∈ d.sec.models, ¬ (y.part = p ∧ y.keyId = id)) → (16 ≤ mine.length → exec (.keyInstallModel f c) s = say d 0x06 0 16) ∧
            (mine.length < 16 → exec (.keyInstallModel f c) s = .next { s with dev := ({ d with sec := { d.sec with models := d.sec.models ++ [{ part := p, keyId := id, key := key, digest := List.replicate 32 0, bytes := 0, exports := 0 }] } } : Dev).respond f k 0 [] })))) ∧
      (kind = 1 → (d.keyHeaderOk h id sl len = false → exec (.keyInstallLink f c) s = say d 0x03 0x10 0) ∧ (d.keyHeaderOk h id sl len = true → d.unwrap p h = none → exec (.keyInstallLink f c) s = say d 0x09 0x10 0) ∧
        (∀ key, d.keyHeaderOk h id sl len = true → d.unwrap p h = some key →
          (sdExt x 0 * sdExt x 1 * sdExt x 2 * sdExt x 3 = 1 → exec (.keyInstallLink f c) s = say d 0x07 0 4) ∧
          (sdExt x 0 * sdExt x 1 * sdExt x 2 * sdExt x 3 ≠ 1 →
            (∀ y, d.sec.secrets.find? (fun (y : LinkSecret) => y.sliceId == sl) = some y → (y.secret = key → exec (.keyInstallLink f c) s = .next { s with dev := d.respond f k 0 [] }) ∧ (y.secret ≠ key → exec (.keyInstallLink f c) s = say d 0x07 0 0)) ∧
            ((∀ y ∈ d.sec.secrets, y.sliceId ≠ sl) → exec (.keyInstallLink f c) s = .next { s with dev := (({ d with sec := { d.sec with secrets := d.sec.secrets ++ [{ sliceId := sl, secret := key, round := 0 }] } } : Dev).writeLinkKey sl).respond f k 0 [] })))) ∧
      (∀ row imports, (row = Instr.keyInstallImport f c ∧ kind = 2 ∧ imports = true) ∨ (row = .keyInstallExport f c ∧ kind = 3 ∧ imports = false) →
        (d.dataHeaderOk hd id sl len imports = false → exec row s = say d 0x03 0x10 0) ∧
        (d.dataHeaderOk hd id sl len imports = true → (∀ y ∈ d.sec.models, ¬ (y.part = p ∧ y.keyId = id)) → exec row s = say d 0x05 0x0C 0) ∧
        (∀ y, d.dataHeaderOk hd id sl len imports = true → d.sec.models.find? (fun (y : ModelKey) => y.part == p && y.keyId == id) = some y →
          ((∃ e ∈ lineSplit (n / 128 + 2) off 0 n, (d.ctx ctx).segAny e.1 e.2.2 = none) → exec row s = say d 0x04 0x10 0) ∧
          ((∀ e ∈ lineSplit (n / 128 + 2) off 0 n, (d.ctx ctx).segAny e.1 e.2.2 ≠ none) →
            ((d.ctx ctx).tear ≠ none → exec row s = say d 0x09 0 0xFFFFFFFF) ∧
            ((d.ctx ctx).tear = none → imports = true → let r := d.importChunks ctx buf y hd ((n + 65535) / 65536) 0
              (∀ code arg, r.2 = .inr (code, arg) → exec row s = say r.1 code 0 arg) ∧
              (∀ pt, r.2 = .inl pt → exec row s = .next { s with dev := (let g := r.1; ({ g with sec := { g.sec with models := g.sec.models.map (fun z => if z = y then { z with digest := leBytes 32 (shake256 (y.digest ++ leBytes 8 off ++ leBytes 8 n ++ leBytes 32 (shake256 pt).toNat)).toNat, bytes := z.bytes + n } else z) } } : Dev).respond f k 0 []) })) ∧
            ((d.ctx ctx).tear = none → imports = false → let r := d.hostSegRead ctx off n; let hn := hd.take 0x20 ++ leBytes 8 (y.exports % 2 ^ 63 + 2 ^ 63) ++ hd.drop 0x28
              (r.2.2 ≠ 0 → exec row s = say r.1 0x09 0 0) ∧
              (r.2.2 = 0 → exec row s = .next { s with dev := (let g := r.1; ({ g with sec := { g.sec with models := g.sec.models.map (fun z => if z = y then { z with exports := z.exports + 1 } else z) } } : Dev).sendBuf f k buf (hn ++ sealChunks y hn r.2.1 ((n + 65535) / 65536) 0) []) })))))) ∧
    (∀ (h : List Byte) key slice len, d.keyHeaderOk h key slice len = true ↔ leAt h 0 4 = 1 ∧ leAt h 4 1 ≤ 1 ∧ leAt h 5 3 = 0 ∧ leAt h 0x0C 4 = 0 ∧ leAt h 0x1C 4 = 0 ∧ key ≠ 0 ∧ leAt h 8 4 = key ∧ leAt h 0x10 8 = d.sec.fuses.serial ∧ leAt h 0x18 4 = slice ∧ len = 1680) ∧
    (∀ (h : List Byte) key slice len imports, d.dataHeaderOk h key slice len imports = true ↔ leAt h 0 4 = 1 ∧ leAt h 5 3 = 0 ∧ leAt h 0x0C 4 = 0 ∧ leAt h 0x34 76 = 0 ∧ key ≠ 0 ∧ leAt h 8 4 = key ∧ leAt h 0x28 8 = d.sec.fuses.serial ∧ leAt h 0x30 4 = slice ∧ leAt h 0x10 8 % 128 = 0 ∧ 1 ≤ leAt h 0x18 8 ∧
      leAt h 0x18 8 ≤ 0xF0000000 ∧ leAt h 0x10 8 + leAt h 0x18 8 ≤ 2 ^ 43 ∧ len = 128 + leAt h 0x18 8 + 16 * ((leAt h 0x18 8 + 65535) / 65536) ∧ (imports = true → bit (leAt h 0x20 8) 63 = false)) ∧
    (∀ h, (d.part p).conf = true → leAt h 0x20 32 ≠ ek.toNat → d.unwrap p h = none) ∧
    (∀ h ss, (d.part p).conf = true → leAt h 0x20 32 = ek.toNat → Config.mlkemDecaps (d.part p).keyNo ((h.drop 0x40).take 1568) = some ss →
      d.unwrap p h = (gcmOpen (shake256 (asciiBytes "LUADA-KEK" ++ ss ++ h.take 0x40)) (List.replicate 12 0) (h.take 0x40) ((h.drop 0x660).take 32) ((h.drop 0x680).take 16)).map (fun w => BitVec.ofNat 256 (leNat w)))

/-- 16_bringup.md R463, R466-R469, R474-R478, R483-R486, 13_security.md R384, 14_recovery.md R417. The rows of a start: what each stage does and writes, what halts a start and what a halt leads to, which copy of a component runs, and the firmware broadcast. The division of S6 and S7 into
two rows each is the model's (its log says so). -/
def Obligations.BootRows : Prop :=
  ∀ (s : State) (copies : List CopyObs) (cfgA cfgB pa pb : Bool) (la lb lc : List Nat) (chans : List ChanObs) (ports : List PortObs) (bad : List (Nat × Nat)) (node : Nat) (w : Word) (fc : FwChunk),
    let d := s.dev
    let At (n : Nat) : Prop := d.boot.running = true ∧ d.boot.failed = false ∧ d.boot.stage = n ∧ d.pwr.islandUp = true ∧ d.pwr.coreMv ≠ 0 ∧ d.boot.lateRelease = false
    let is (row : Instr) (e : Dev) : Prop := exec row s = .next { s with dev := e }
    (∀ row n, (row, n) ∈ [(Instr.bootS0 copies cfgA cfgB, 0), (.bootS1 pa pb, 1), (.bootS2 la lb lc, 2), (.bootS3 chans, 3), (.bootS4, 4), (.bootS5 ports, 5), (.bootS6 bad la, 6), (.repairRound, 6), (.bootS7, 7), (.bootS8, 8)] → ¬ At n → exec row s = .next s) ∧
    (∀ row n comp kind, (row, n, comp) ∈ [(Instr.bootS1 pa pb, 1, 0), (.bootS3 chans, 3, 3), (.bootS6 bad la, 6, 1)] → At n → d.boot.noCopy.find? (fun e => e.1 == comp) = some (comp, kind) → is row (d.haltStart (if kind = 0x71 then 0x803 else 0x810) kind)) ∧
    (∀ src kind, let e := d.haltStart src kind
      smGet Stop.init e.flt.stops src = (smGet Stop.init d.flt.stops src).take (plainMsg src kind 0) ∧
      (d.boot.kind = 2 → e.boot.failed = true ∧ e.boot.error = kind ∧ e.rrc.lastLevel = 4 ∧ e.rrc.lastCause = kind) ∧ (d.boot.kind ≠ 2 → d.boot.repeated = true → e.boot = { d.boot with failed := true, error := kind, elapsed := (d.timer.toNat - d.boot.startAt) / 25000 }) ∧
      (d.boot.kind ≠ 2 → d.boot.repeated = false → e.boot.stage = 0 ∧ e.boot.failed = false ∧ e.boot.kind = d.boot.kind ∧ e.boot.repeated = true ∧ e.boot.running = true ∧ e.boot.startAt = d.timer.toNat)) ∧
    (∀ (g : Dev) degr detail, let e := g.endStage degr detail
      e.boot = { g.boot with stage := g.boot.stage + 1, stepNo := 0, progress := 0, stageAt := g.timer.toNat, degraded := g.boot.degraded || degr, elapsed := if g.boot.stage = 7 then (g.timer.toNat - g.boot.startAt) / 25000 else g.boot.elapsed } ∧ e = { g with boot := e.boot, cave := e.cave, sb := e.sb }) ∧
    (At 0 → let cf := d.loadConfig cfgA cfgB; let k := cf.1.startKind; let d1 := { cf.1 with boot := { cf.1.boot with kind := k, chipResetting := false, cut := none, noCopy := [] } }; let d2 := if k = 2 then d1.cfgAtReset else d1.powerOnS0 (d.boot.chipResetting || d.boot.repeated)
      let d3 := [2, 0, 1, 3].foldl (fun (g : Dev) x => g.loadComp copies x) { d2 with sec := { d2.sec with activating := [] } }
      (∀ kind, d3.boot.noCopy.find? (fun e => e.1 == 2) = some (2, kind) → is (.bootS0 copies cfgA cfgB) (d3.haltStart (if kind = 0x71 then 0x803 else 0x810) kind)) ∧
      ((∀ e ∈ d3.boot.noCopy, e.1 ≠ 2) → is (.bootS0 copies cfgA cfgB) (d3.rotRestart.endStage (d2.sec.refused copies != 0 || cf.2 == 2) (s0Detail d3 (d2.sec.refused copies) cf.2)))) ∧
    (d.startKind = if d.boot.chipResetting = true ∧ d.boot.s4Done = true then 2 else if d.boot.chipResetting = true ∧ d.boot.cut.isSome = true then d.boot.cut.getD 2 else if d.boot.chipResetting = false ∧ d.boot.repeated = true then d.boot.kind else if d.boot.memTest = true ∨ d.boot.fullTrain = true ∨ d.cfg.training = [] then 0 else 1) ∧
    (∀ (x : Sec) comp k, let good (k : Nat) := x.copyValid copies comp k
      (good 0 = true → good 1 = true → x.winner copies comp = some (if seqHigher (smGet FwCopy.init x.fw (2 * comp + 1)).seq (smGet FwCopy.init x.fw (2 * comp)).seq then 1 else 0)) ∧ (good 0 = true → good 1 = false → x.winner copies comp = some 0) ∧
      (good 0 = false → good 1 = true → x.winner copies comp = some 1) ∧ (good 0 = false → good 1 = false → x.winner copies comp = none) ∧
      (good k = true → smGet 0 x.fuses.secVersion comp ≤ (smGet FwCopy.init x.fw (2 * comp + k)).secVersion ∧ (smGet FwCopy.init x.fw (2 * comp + k)).seq ≠ 0xFFFFFFFF ∧ (smGet FwCopy.init x.fw (2 * comp + k)).invalid = false)) ∧
    (At 1 → (∀ e ∈ d.boot.noCopy, e.1 ≠ 0) → let a := pa && (d.boot.kind != 2 || d.rrc.coreAOk); let b := pb && (d.boot.kind != 2 || d.rrc.coreBOk)
      (a = false → b = false → is (.bootS1 pa pb) (d.haltStart 0x804 0x69)) ∧
      (a = true ∨ b = true → is (.bootS1 pa pb) (({ d with rrc := { d.rrc with primaryB := if a && b then d.rrc.primaryB && d.boot.kind == 2 else b, standbyOk := a && b, mgmtBad := !(a && b), coreAOk := a, coreBOk := b, selftest := none, bothDown := false }, host := { d.host with recvUp := true } } : Dev).endStage (!(a && b)) []))) ∧
    (At 2 → let d2 := lb.foldl (fun (g : Dev) x => g.stopAtStart x) (la.foldl (fun (g : Dev) k => g.routerAtStart k) d)
      let e := ((lc.filter (fun u => decide (u < 4))).foldl (fun (g : Dev) u => (g.raise (plainMsg (0x154 + u) 0xB0 0)).cvFence u) d2).cvTested lc
      (4 ∈ lc → is (.bootS2 la lb lc) (({ e with cv := smSet CvUnit.init e.cv 4 { e.cvu 4 with fenced := true } } : Dev).haltStart 0x806 0xB0)) ∧
      (4 ∉ lc → e.boot.hold = true → is (.bootS2 la lb lc) { e with boot := { e.boot with lateRelease := true } }) ∧
      (4 ∉ lc → e.boot.hold = false → is (.bootS2 la lb lc) (e.endStage (e.mesh.fenced != [] || e.flt.lostStops != [] || e.cv.any (fun x => x.2.fenced)) (s2Detail e)))) ∧
    ((d.pwr.islandUp = false → exec .bootHoldRelease s = .next s) ∧ (d.pwr.islandUp = true → d.boot.lateRelease = false → is .bootHoldRelease { d with boot := { d.boot with hold := false } }) ∧
      (d.pwr.islandUp = true → d.boot.lateRelease = true → is .bootHoldRelease (({ d with boot := { d.boot with hold := false, lateRelease := false }, sec := { d.sec with jtag := if d.sec.jtag = JtagOp.extest then JtagOp.bypass else d.sec.jtag } } : Dev).endS2))) ∧
    (At 3 → (∀ e ∈ d.boot.noCopy, e.1 ≠ 3) → (d.boot.kind ≠ 2 → is (.bootS3 chans) (d.powerOnS3 chans)) ∧ (d.boot.kind = 2 → is (.bootS3 chans) (d.warmS3 chans))) ∧
    (∀ (o : ChanObs) full ref, let out := trainOutcome d.cfg full ref o
      (o.present = false → out = 0) ∧ (o.present = true → (∃ r, ref = some r ∧ (r.cap ≠ o.cap ∨ r.ranks ≠ o.ranks)) → out = 4) ∧
      (o.present = true → (∀ r, ref = some r → r.cap = o.cap ∧ r.ranks = o.ranks) → ((o.chan, o.serial) ∈ d.cfg.training → full = false → o.savedOk = true → out = 1) ∧ ((o.chan, o.serial) ∉ d.cfg.training ∨ full = true ∨ o.savedOk = false → out = if o.fullOk = true then 2 else 3))) ∧
    (∀ (o : ChanObs) out rate, out ≤ 4 → ((d.trainChan o out rate).chan o.chan).st = (if out = 0 then 0 else if out ≤ 2 then 1 else 2) ∧ ((d.trainChan o out rate).chan o.chan).rate = (if out = 1 ∨ out = 2 then rate else 0) ∧ (3 ≤ out → smGet Stop.init (d.trainChan o out rate).flt.stops (0x120 + o.chan) = (smGet Stop.init d.flt.stops (0x120 + o.chan)).take (plainMsg (0x120 + o.chan) 0x48 0))) ∧
    (At 4 → Completes .bootS4 s (fun e => e.boot.stage = 5 ∧ e.boot.s4Done = true ∧ (d.boot.kind = 2 → e.ext = d.ext) ∧ (d.boot.kind ≠ 2 → e.ext = { d.ext with mem := [], lineErr := [], badFold := [], badMac := [] } ∧ e.boot.memTest = false) ∧
      ∀ p, p < 16 → (e.port p).st = if (d.port p).st = 0 ∧ portEnable (d.port p) = true ∧ (d.port p).fenced = false then 1 else (d.port p).st)) ∧
    (At 5 → Completes (.bootS5 ports) s (fun e => e.boot.stage = 6 ∧ e.boot.fullTrain = (d.boot.fullTrain && d.boot.kind == 2) ∧ (ports = [] → e.cfg = d.cfg) ∧ 
      e.ports = (let t := (ports.filter (fun o => d.quadOn (edgeQuadrant (0x140 + o.port)))).foldl (fun (g : Dev) o => g.trainPort o) d; (List.range 16).foldl (fun (g : Dev) p => if (g.port p).st = 1 then g.setPort p { g.port p with st := 0 } else g) t).ports)) ∧
    (∀ o, (o.peer = false ∨ (d.boot.kind = 2 ∧ (o.port, o.peerSerial, o.peerPort) ∉ d.cfg.linkTraining) → d.trainPort o = d) ∧ (o.peer = true → (d.boot.kind ≠ 2 ∨ (o.port, o.peerSerial, o.peerPort) ∈ d.cfg.linkTraining) → d.trainPort o = d.bringUp o.port o.txOk o.rxOk)) ∧
    (At 6 → (∀ e ∈ d.boot.noCopy, e.1 ≠ 1) → (d.boot.stepNo = 0 → let g := d.fillChip.failUnits bad la; is (.bootS6 bad la) { g with boot := { g.boot with stepNo := 1 } }) ∧ (d.boot.stepNo ≠ 0 → d.boot.stepNo < 4 → d.incomplete ≠ [] → exec (.bootS6 bad la) s = .next s) ∧
      (d.boot.stepNo ≠ 0 → (d.incomplete = [] ∨ 4 ≤ d.boot.stepNo) → let g := d.failUnits (d.incomplete ++ bad) la; let g2 := (if d.boot.kind ≠ 2 then g.numberAll else g).disarm; let g3 := { g2 with curds := smMap Curd.init Curd.parked g2.curds, pwr := { g2.pwr with hold075 := false } }
        is (.bootS6 bad la) (g3.endStage (g3.fencedAll != [] || g3.vats.any (fun e => e.2.lst == .fenced)) (s6Detail g3 (d.boot.stepNo - 1))))) ∧
    (At 6 → (1 ≤ d.boot.stepNo → d.boot.stepNo < 4 → d.incomplete ≠ [] → is .repairRound { d with boot := { d.boot with stepNo := d.boot.stepNo + 1 } }) ∧ (d.boot.stepNo = 0 ∨ 4 ≤ d.boot.stepNo ∨ d.incomplete = [] → exec .repairRound s = .next s)) ∧
    (((d.vat node).lst = .fusedOff → exec (.vatBcastArm node w) s = .next s) ∧ ((d.vat node).lst ≠ .fusedOff → let v := d.vat node
      is (.vatBcastArm node w) (d.setVat node { v with bc := { v.bc with armed := bit w.toNat 1, nchunksM1 := bits w.toNat 10 2, got := if bit w.toNat 1 then [] else v.bc.got } }))) ∧
    (((d.vat node).lst = .fusedOff ∨ ¬ At 6 → exec (.firmwareChunk node fc) s = .next s) ∧ ((d.vat node).lst ≠ .fusedOff → At 6 → let v := d.vat node; let data := padTo 128 fc.data
      (crcValue 1 fc.n data ≠ fc.crc → is (.firmwareChunk node fc) (d.setVat node { v with bc := { v.bc with crcFail := hold16 (v.bc.crcFail + 1) } })) ∧
      (crcValue 1 fc.n data = fc.crc → fc.unicast = true → fc.slot < 68 → fc.slot ≠ 0x7F → is (.firmwareChunk node fc) (d.putChunk node fc.slot fc.n data)) ∧
      (crcValue 1 fc.n data = fc.crc → fc.unicast = false ∨ fc.slot = 0x7F → is (.firmwareChunk node fc) ((List.range 68).foldl (fun (g : Dev) q => g.putChunk node q fc.n data) d)))) ∧
    (At 7 → (d.boot.stepNo = 0 → let g := if d.boot.kind = 2 ∧ d.fm.stored ≠ none ∧ d.upPorts ≠ [] then ({ d with fm := { d.fm with role := 1, relay := d.upPorts.headD 0 } } : Dev).sendTable.probePorts else d.startElection.probePorts
        is .bootS7 { g with boot := { d.boot with stepNo := 1 } }) ∧
      (d.boot.stepNo = 1 → d.boot.kind = 2 → d.fm.role = 1 → d.fm.epoch = 0 → is .bootS7 { d.startElection with boot := { d.boot with stepNo := 2 } }) ∧
      (2 ≤ d.boot.stepNo ∨ (d.boot.stepNo = 1 ∧ (d.boot.kind ≠ 2 ∨ d.fm.role ≠ 1 ∨ d.fm.epoch ≠ 0)) → is .bootS7 (d.endStage (!d.fm.placed) (s7Detail d)))) ∧
    (At 8 → let g := { d with boot := { d.boot with running := false, repeated := false, progress := 100 }, sec := d.sec.proven, cfg := d.cfg.repair }; is .bootS8 ((g.stageRecord (boolNat g.boot.degraded) (s8Detail g)).enterOos.resumeCut)) ∧
    (∀ comp, comp < 4 → smGet 0 d.sec.proven.fuses.secVersion comp = max (smGet 0 d.sec.fuses.secVersion comp) (smGet FwCopy.init d.sec.fw (2 * comp + smGet 0 d.sec.running comp)).secVersion) ∧
    (∀ n, At n → (n < 8 → (n ≠ 4 ∨ d.boot.kind ≠ 2) → is .startTimeout (d.haltStart 0x810 0x64)) ∧ (n = 8 ∨ (n = 4 ∧ d.boot.kind = 2) → exec .startTimeout s = .next s)) ∧
    ((∀ n, ¬ At n) → exec .startTimeout s = .next s)

/-- 17_rates_limits.md R488, R489, R491, R492, 18_module.md R504-R507, R512-R518, 15_faults_cave.md R456, 06_mesh.md R198.
The rows of the power inputs, the power controller, the side-band, JTAG and REGISTER_WRITE: what each input and each
written register changes, and when nothing changes. The step rate that a sample measures is held to the curve (the bounds:
notes/assumptions/47.md). -/
def Obligations.PowerAndModuleRows : Prop :=
  ∀ (s : State) (o : PowerObs) (tj : List Nat) (amps mv : Nat) (lost : Bool) (w : Word) (op : JtagOp) (meth : DaaMethod) (adr : Nat),
    let d := s.dev
    let is (row : Instr) (e : Dev) : Prop := exec row s = .next { s with dev := e }
    let P := d.pwr
    let max4 := min (min o.maxCap o.maxTj) (min o.maxCur o.maxIn)
    let target := if P.hold075 = true then 750 else max 550 (min 900 max4) / 5 * 5
    let up := P.standby = true ∧ P.islandUp = true
    (∀ e ∈ [(550, 620), (650, 920), (750, 1200), (850, 1450), (900, 1550)], rateAt e.1 700 = e.2 * 10 ^ 9) ∧
    (P.islandUp = false → exec (.powerSample o) s = .next s) ∧
    (P.islandUp = true → Completes (.powerSample o) s (fun e => e.pwr.tj = o.tj ∧ e.pwr.powerW = o.power10 ∧ e.pwr.power100 = o.power100 ∧ e.pwr.inputMv = o.inputMv ∧ e.pwr.inputDa = o.inputDa ∧ e.pwr.energy = P.energy + o.power10 ∧
      (P.coreMv = 0 → e.pwr.coreMv = 0) ∧
      (P.coreMv ≠ 0 → hottest o.tj < 1150 → e.pwr.coreMv = (if P.coreMv + 5 ≤ target then P.coreMv + 5 else if target + 5 ≤ P.coreMv then P.coreMv - 5 else P.coreMv) ∧ (P.hold075 = true → e.pwr.limits = 0) ∧
        e.pwr.stepMsps = rateWithin P.coreMv (hottest o.tj) o.step ∧ e.pwr.steps = P.steps + 50 * e.pwr.stepMsps ∧ (P.hold075 = false → e.pwr.limits = limitsOf o P.capW) ∧ (P.hold075 = false → bit (limitsOf o P.capW) 1 = true → bit P.limits 1 = false → smGet Stop.init e.flt.stops 0x805 = (smGet Stop.init d.flt.stops 0x805).take (plainMsg 0x805 0x80 0))) ∧
      (P.coreMv ≠ 0 → 1150 ≤ hottest o.tj → P.thermtrip = false → e.pwr.coreMv = 0 ∧ e.pwr.thermtrip = true))) ∧
    ((P.coreMv = 0 ∨ amps ≤ 2000 → exec (.currentFastPath amps) s = .next s) ∧ (P.coreMv ≠ 0 → 2000 < amps → Completes (.currentFastPath amps) s (fun e => e.pwr.coreMv = (if 555 ≤ P.coreMv then P.coreMv - 5 else P.coreMv) ∧ e.pwr.coreA = amps ∧ bit e.pwr.limits 2 = true))) ∧
    ((P.coreMv = 0 ∨ hottest tj < 1150 → exec (.thermalTrip tj) s = .next s) ∧ (P.coreMv ≠ 0 → 1150 ≤ hottest tj → P.thermtrip = false → Completes (.thermalTrip tj) s (fun e => e.pwr.coreMv = 0 ∧ e.pwr.thermtrip = true ∧ e.pwr.tj = tj ∧ e.mesh = Mesh.init ∧
      (∀ k, (e.curd k).st = .idle) ∧ smGet Stop.init e.flt.stops 0x805 = (smGet Stop.init d.flt.stops 0x805).take (plainMsg 0x805 0x81 0)))) ∧
    ((P.standby = true ∨ P.failing = true → exec .standbyPowerOn s = .next s) ∧ (P.standby = false → P.failing = false → Completes .standbyPowerOn s (fun e => e.timer = 0 ∧ e.sb = SideBand.init ∧ e.pwr.standby = true ∧ e.pwr.islandUp = true ∧ e.boot = { Boot.init with running := false } ∧
      e.cave.opBase = d.cave.opStored + (if d.cave.cleanOff = true then 0 else 64) ∧ e.cave.kept = d.cave.kept ∧ e.cave.circ = d.cave.circ ∧ e.curds = []))) ∧
    ((P.standby = false ∨ P.holdUp = true → exec .holdUpCharged s = .next s) ∧ (P.standby = true → P.holdUp = false → is .holdUpCharged (({ d with pwr := { P with holdUp := true } } : Dev).tryRails))) ∧
    ((mv < 40000 ∨ P.main = true → is (.mainPowerOn mv) { d with pwr := { P with inputMv := mv } }) ∧ (40000 ≤ mv → P.main = false → is (.mainPowerOn mv) (({ d with pwr := { P with inputMv := mv, main := true } } : Dev).tryRails))) ∧
    (∀ g : Dev, (g.pwr.main = true ∧ g.pwr.standby = true ∧ g.pwr.islandUp = true ∧ g.pwr.holdUp = true ∧ g.pwr.failing = false ∧ g.pwr.ioUp = false → g.tryRails = g.railsUp) ∧
      (¬ (g.pwr.main = true ∧ g.pwr.standby = true ∧ g.pwr.islandUp = true ∧ g.pwr.holdUp = true ∧ g.pwr.failing = false ∧ g.pwr.ioUp = false) → g.tryRails = g) ∧ (g.cave.store ≠ 2 → g.railsUp.boot.stage = 0 ∧ g.railsUp.boot.running = true ∧ g.railsUp.pwr.coreMv = 750 ∧ g.railsUp.pwr.ioUp = true ∧ g.railsUp.pwr.hold075 = true ∧ g.railsUp.curds = [] ∧ g.railsUp.ctxs = [] ∧ g.railsUp.parts = [] ∧ g.railsUp.sec.models = [])) ∧
    ((lost = true → P.standby = false) ∧ (lost = false → P.main = false) → exec (.powerFail lost) s = .next s) ∧
    (((lost = true ∧ P.standby = true) ∨ (lost = false ∧ P.main = true)) → let p1 := { P with standby := P.standby && !lost, main := P.main && lost, inputMv := if lost = true then P.inputMv else 0, thermtrip := false, pwrcyc := false }
      (P.islandUp = false ∨ P.failing = true → is (.powerFail lost) { d with pwr := p1 }) ∧
      (P.islandUp = true → P.failing = false → is (.powerFail lost) ({ d with pwr := p1 } : Dev).powerFails)) ∧
    (∀ g : Dev, let a := ({ g with boot := { g.boot.cycled g.timer.toNat with running := false }, rrc := { g.rrc with pwrcycWanted := false } } : Dev).cycled; let b := { a with pwr := { a.pwr with coreMv := 0, stepMsps := 0, limits := 0, ioUp := false, capWait := [], failing := true } }
      b.sec.models = [] ∧ b.sec.secrets = [] ∧ b.curds = [] ∧ b.ctxs = [] ∧ b.boot.stage = 0 ∧ b.cave = g.cave ∧
      g.powerFails = (let c := ((if decide (g.boot.stage ≠ 0) || g.boot.failed then b.sbAlert 0 else b).collect (plainMsg 0x810 0x83 0)).cavePower 0; let e := { c with cave := { c.cave with due := true } }; if e.cave.store = 2 then e.powerFailDone else e)) ∧
    (((P.main = true ∧ P.standby = true ∧ P.failing = false) ∨ P.islandUp = false → exec .holdUpExhausted s = .next s) ∧ (¬ (P.main = true ∧ P.standby = true ∧ P.failing = false) → P.islandUp = true →
      (P.standby = true → is .holdUpExhausted { d with pwr := { P with holdUp := false } }) ∧
      (P.standby = false → is .holdUpExhausted { d with pwr := { P with holdUp := false, islandUp := false, failing := false }, cave := { d.cave with buf := if d.cave.store = 2 then d.cave.buf else [], due := false } }))) ∧
    ((¬ (up ∧ P.main = true) → exec .sbChipReset s = .next s) ∧ (up → P.main = true → is .sbChipReset (d.chipReset 0 true false)) ∧ (up → P.main = true → d.boot.chipResetting = false → P.ioUp = true → Completes .sbChipReset s (fun e => ChipWasReset e 0))) ∧
    ((¬ up ∨ d.cave.store = 2 → exec .sbCaveFlush s = .next s) ∧ (up → d.cave.store ≠ 2 → is .sbCaveFlush { d with cave := { d.cave with due := true } })) ∧
    ((¬ up → exec .sbFwOpen s = .next s ∧ exec .sbFwCommit s = .next s ∧ exec (.dynamicAddressAssignment meth adr) s = .next s) ∧
      (up → let halted := d.boot.failed = true ∧ (d.boot.error = 0x91 ∨ d.boot.error = 0x71); let comp := d.sb.fwComp; let im := memRead d.sb.fwData 0 d.sb.fwLength
        (halted → is .sbFwOpen { d with sb := { d.sb with fwOpen := true } }) ∧ (¬ halted → is .sbFwOpen { d with sb := { d.sb with fwResult := 0x04 } }) ∧
        (¬ (halted ∧ d.sb.fwOpen = true) → is .sbFwCommit { d with sb := { d.sb with fwResult := 0x04 } }) ∧
        (halted → d.sb.fwOpen = true → d.sec.accepts comp im = false → is .sbFwCommit (({ d with sb := { d.sb with fwResult := 0x09 } } : Dev).raise (plainMsg 0x803 0x71 comp))) ∧
        (halted → d.sb.fwOpen = true → d.sec.accepts comp im = true → Completes .sbFwCommit s (fun e => e.boot.stage = 0 ∧ e.boot.failed = false ∧ e.boot.running = true ∧ e.sb.fwOpen = false ∧ e.sb.fwResult = 0 ∧
          smGet FwCopy.init e.sec.fw (2 * comp) = { FwCopy.init with seq := d.sec.seqAbove comp, version := leAt im 8 4, secVersion := leAt im 0x0C 2, digest := shake256 (im.take 0x90) } ∧ (∀ j, j ≠ 2 * comp → smGet FwCopy.init e.sec.fw j = smGet FwCopy.init d.sec.fw j))) ∧
        is (.dynamicAddressAssignment meth adr) { d with sb := { d.sb with dynAddr := some adr } })) ∧
    ((P.islandUp = false → exec (.jtagInstruction op) s = .next s) ∧ (P.islandUp = true →
      is (.jtagInstruction op) { d with sec := { d.sec with jtag := match op with | .extest => if d.boot.lateRelease then .extest else .bypass | .internal => if bit d.sec.debugScope 0 && !d.anyRind then .internal else .bypass | x => x } })) ∧
    (∀ (pl : Plane) node slot i g dst c, let quiet := d.mesh.stopA = true ∧ d.mesh.stopB = true ∧ d.planeEmpty .a = true ∧ d.planeEmpty .b = true
      let lost (st : Nat) : Prop := d.flt.lostStops.contains st = true
      let off (st : Nat) : Prop := d.quadOn (if st < 0x120 then quadrant st else edgeQuadrant st) = false
      (∀ a, a ∈ [RegAddr.routeCfg node, .detour node i, .niSlice node slot i, .niExc node slot i, .tree node i, .chStat node c, .curd node slot i] → lost node ∨ off node → exec (.registerWrite a w) s = .next s) ∧
      (lost node → exec (.registerWrite (.group pl node g i) w) s = .next s ∧ exec (.registerWrite (.dirMask pl node dst) w) s = .next s) ∧
      is (.registerWrite .fltStat w) { d with flt := { d.flt with overflow := d.flt.overflow && !bit w.toNat 28 } } ∧
      (¬ lost node → ¬ quiet → exec (.registerWrite (.group pl node g i) w) s = .next s ∧ exec (.registerWrite (.dirMask pl node dst) w) s = .next s) ∧
      (¬ lost node → quiet → is (.registerWrite (.dirMask pl node dst) w) { d with mesh := { d.mesh with dir := smSet none d.mesh.dir (meshKey pl node * 512 + dst) (some (BitVec.ofNat 4 w.toNat)) } } ∧
        is (.registerWrite (.group pl node g i) w) { d with mesh := { d.mesh with groups := smSet 0 d.mesh.groups (meshKey pl node * 256 + g) (BitVec.ofNat 320 (setBits (smGet 0 d.mesh.groups (meshKey pl node * 256 + g)).toNat (64 * i + 63) (64 * i) w.toNat &&& ((2 ^ 288 - 1) * 2 ^ 32 + (2 ^ 21 - 1)))) } }) ∧
      (¬ lost node → ¬ off node → is (.registerWrite (.routeCfg node) w) (d.setNi node { d.ni node with routeCfg := BitVec.ofNat 64 (w.toNat % 2 ^ 37) }) ∧
      is (.registerWrite (.detour node i) w) (d.setNi node { d.ni node with detour := smSet 0 (d.ni node).detour i (BitVec.ofNat 32 (w.toNat &&& (2 ^ 31 + (2 ^ 18 - 1)))) }) ∧
      is (.registerWrite (.niSlice node slot i) w) (d.setNi node { d.ni node with slices := smSet 0 (d.ni node).slices slot (BitVec.ofNat 256 (setBits (smGet 0 (d.ni node).slices slot).toNat (64 * i + 63) (64 * i) w.toNat &&& ((2 ^ 128 - 1) * 2 ^ 64 + (2 ^ 58 - 1)))) }) ∧
      is (.registerWrite (.niExc node slot i) w) (d.setNi node { d.ni node with exc := smSet 0 (d.ni node).exc (256 * slot + i) (BitVec.ofNat 64 (w.toNat &&& (2 ^ 63 + (2 ^ 44 - 1)))) }) ∧
      is (.registerWrite (.tree node i) w) { d with trees := smSet 0 d.trees (1024 * node + i) (BitVec.ofNat 64 (w.toNat % 2 ^ 63)) } ∧
      is (.registerWrite (.chStat node c) w) (d.setDmaCh node c { d.dmaCh node c with lastCode := (d.dmaCh node c).lastCode - ((d.dmaCh node c).lastCode &&& bits w.toNat 15 8) }) ∧
      is (.registerWrite (.curd node slot i) w) (d.setCurd (curdKey node slot) { d.curd (curdKey node slot) with r := (d.curd (curdKey node slot)).r.csrWrite i w }))) ∧
    (∀ blk node slot chk, let r := d.getFlip blk node slot
      let served : Prop := d.flt.lostStops.contains node = false ∧ d.quadOn (if node < 0x120 then quadrant node else edgeQuadrant node) = true
      (d.flipOpen blk node slot = false ∨ ¬ served → exec (.registerWrite (.flip blk node slot chk) w) s = .next s) ∧
      (served → d.flipOpen blk node slot = true → is (.registerWrite (.flip blk node slot chk) w) (d.setFlip blk node slot (if chk = true then { r with chk := w.setWidth 8, arm := r.arm || w.getLsbD 8 } else { r with data := w })))) ∧
    (∀ a n, (¬ up ∨ (a < 0x10000 ∧ n ≠ 4 ∧ n ≠ 8) ∨ (a < 0x10000 ∧ a % n ≠ 0) → exec (.registerWrite (.sideband a n) w) s = .next s)) ∧
    (up → let off (x : Nat) := Instr.registerWrite (.sideband x 8) w
      is (off 0x10) { d with sb := { d.sb with alert := d.sb.alert - (d.sb.alert &&& w.toNat) } } ∧ is (off 0x18) { d with sb := { d.sb with alertMask := w.toNat % 2 ^ 7 } } ∧ is (off 0x20) { d with sb := { d.sb with caveSel := w.toNat % 2 ^ 32 } } ∧
      (bit w.toNat 2 = true → is (off 0x100) { d with boot := { d.boot with memTest := bit w.toNat 0, fullTrain := bit w.toNat 1, hold := true } }) ∧
      (bit w.toNat 0 = false → bit w.toNat 2 = false → is (off 8) { d with sb := { d.sb with ibiEn := bit w.toNat 1 } }) ∧
      (bit w.toNat 2 = false → bit w.toNat 3 = false → is (off 0x28) { d with sb := { d.sb with fwComp := bits w.toNat 1 0, fwLength := min (bits w.toNat 27 4) (2 ^ 23) } }) ∧
      is (off 0) d ∧ is (off 0x108) d ∧ is (off 0x120) d) ∧
    (∀ f, (∀ x ∈ d.host.wins, x.func = f → x.job.isWrite = false ∧ x.job.isCtl = false) →
      (∀ a n, d.hostUp = false ∨ (n ≠ 4 ∧ n ≠ 8) ∨ a % n ≠ 0 → exec (.registerWrite (.control f a n) w) s = .next s) ∧
      (d.hostUp = true → is (.registerWrite (.control f 0x3018 8) w) (d.setFunc f { d.func f with winErr := if bit w.toNat 63 then (d.func f).winErr % 2 ^ 63 else (d.func f).winErr }) ∧
        is (.registerWrite (.control f 0x4000 8) w) (doHdmaRingWrite d f w) ∧ is (.registerWrite (.control f 0x5000 8) w) (doHostWinCfgWrite d f w) ∧ is (.registerWrite (.control f 0x200 4) w) (doMbxSend d f 0 false (BitVec.ofNat 32 w.toNat)))) ∧
    (∀ f a n, d.hostUp = true → d.winWriting f = true → a / 8 ≠ 0xA00 → is (.registerWrite (.control f a n) w) { d with host := { d.host with winCount := d.host.winCount + 1, wins := d.host.wins ++ [{ id := d.host.winCount, func := f, ctx := 0, gen := 0, off := 0, len := 0, job := .ctl a n w.toNat, next := 0, out := 0, code := 0 }] } })

/-- 95_what_each_step_holds.md, 00_scope.md R8. A command at the front of the queue runs on the state with the queue's rest. -/
def Obligations.StepRunsTheFrontCommand : Prop :=
  ∀ (c : Instr) (rest : List Instr) (d : Dev), step ⟨c :: rest, d⟩ = exec c ⟨rest, d⟩

/-- 11_host_mailboxes.md R334, 13_security.md R387. The model's choice (notes/assumptions/6.md): with no command waiting, the management timer counts once while the island is up, and a root-of-trust that was reset outside a chip reset and after S0 comes back with its signing states at
their marks; nothing else passes by itself. -/
def Obligations.AnEmptyQueueLetsTimePass : Prop :=
  ∀ d : Dev, let d1 : Dev := if d.pwr.islandUp = true then { d with timer := d.timer + 1 } else d
    ((d.host.recvUpSec = true ∨ d.pwr.islandUp = false ∨ d.boot.stage = 0 ∨ d.boot.chipResetting = true) → step ⟨[], d⟩ = .next ⟨[], d1⟩) ∧
    (d.host.recvUpSec = false → d.pwr.islandUp = true → 1 ≤ d.boot.stage → d.boot.chipResetting = false → ∃ e, step ⟨[], d⟩ = .next ⟨[], e⟩ ∧ e.host = { d.host with recvUpSec := true } ∧ e.timer = d.timer + 1 ∧
      e.sec.att.next = d.sec.att.mark.getD 0 ∧ e.sec.att.limit = e.sec.att.next ∧ e.sec.idk.next = d.sec.idk.mark.getD 0 ∧ e.sec.fuses = d.sec.fuses ∧ e = { d1 with sec := e.sec, host := e.host })

/-- 00_scope.md R9, 95_what_each_step_holds.md. Every command of the table answers a next state from every state, and leaves the commands that wait as they were: none stops the model. -/
def Obligations.EveryCommandAnswersANextState : Prop :=
  ∀ (c : Instr) (s : State), ∃ d : Dev, exec c s = .next ⟨s.pending, d⟩

/-- 95_what_each_step_holds.md. A queue of well-formed commands stays one, whatever the step. -/
def Obligations.TheQueueStaysWellFormed : Prop :=
  ∀ s t : State, s.wellFormed → step s = .next t → t.wellFormed ∧ t.runs

/-- 01_architecture.md R20, 03_curd_core.md R111, 07_links.md R227, 08_collectives.md R253, 16_bringup.md R465, 18_module.md R505. What the spec says of the module before a start: every curd IDLE at pc 0 with no fault, no partition, no context, no message in a mailbox, BOOT_STAGE 0 of kind 2, the timers' reset
values, and vats numbered outside rows 8 and 9; and no command waits there, so its queue is well formed and a step answers. -/
def Obligations.ResetLeavesTheModuleUnstarted : Prop :=
  let d := State.reset.dev
  State.reset.pending = [] ∧ State.reset.wellFormed ∧ State.reset.runs ∧ (∀ k, d.curd k = Curd.init) ∧ Curd.init.st = .idle ∧ Curd.init.r.pc = 0 ∧ Curd.init.r.fault = 0 ∧ (∀ p, (d.part p).st = 0) ∧ (∀ c, (d.ctx c).live = false) ∧ (∀ f k, (d.mbx f k).st = 0) ∧ d.boot.stage = 0 ∧ d.boot.kind = 2 ∧ d.boot.failed = false ∧
    d.xlink % 2 ^ 16 = 2000 ∧ d.xlink / 2 ^ 16 = 3 ∧ d.collTmo % 2 ^ 16 = 200 ∧ d.collTmo / 2 ^ 16 % 4 = 3 ∧ d.collTmo / 2 ^ 18 = 10 ∧ d.mesh.stopA = false ∧ d.flt.list = [] ∧ d.sec.models = [] ∧ d.sec.secrets = [] ∧
    (∀ x y, x < 16 → y < 18 → ((d.vat (16 * y + x)).lst = .spare ↔ y = 8 ∨ y = 9))

/-- 05_local_memory.md, 10_memory.md R318. At reset every memory of the module is empty and so in its canonical form: a byte that nothing has written reads 0 (notes/assumptions/2.md). -/
def Obligations.ResetMemoriesReadZero : Prop :=
  let d := State.reset.dev
  (∀ k, (d.curd k).ldm.wf ∧ (d.curd k).is.wf) ∧ (∀ n, (d.vat n).vs.wf) ∧ d.ext.mem.wf ∧ ∀ a, smGet (0 : Byte) d.ext.mem a = 0

/-- 13_security.md R380, R384. Whatever the state and the step, the fused values stay as they are, but for the lowest security versions, which are never lowered. -/
def Obligations.FusesAreNeverLowered : Prop :=
  ∀ s t : State, step s = .next t → t.dev.sec.fuses = { s.dev.sec.fuses with secVersion := t.dev.sec.fuses.secVersion } ∧
    ∀ c, smGet 0 s.dev.sec.fuses.secVersion c ≤ smGet 0 t.dev.sec.fuses.secVersion c

/-- 03_curd_core.md R81, R83. Every well-formed instruction of a curd, with every value of every operand, is what its word decodes to. -/
def Obligations.CurdWordsRoundTrip : Prop := ∀ i : CurdInstr, i.wf = true → decodeCurd (encodeCurd i) = some i ∧ encodeCurd i < 2 ^ 32

/-- 03_curd_core.md R81-R84. A few words written out from the formats: ADD g3, g1, g2; BNE with off16 = -2; JAL g0, 0x123; WAIT g4, g5 on K3; VLD v2; TMMA of tile 1 clearing first; DMA on channel 2; HALT; and the all-zero word is none. -/
def Obligations.CurdWordsOfTheTable : Prop :=
  decodeCurd 0x04611000 = some (.alu .add 3 1 2) ∧ decodeCurd 0x4421FFFE = some (.branch .ne 1 1 0xFFFE) ∧ decodeCurd 0x58000123 = some (.jal 0 0x123) ∧ decodeCurd 0xF8850180 = some (.wait 4 5 3) ∧ decodeCurd 0xAC860010 = some (.vld 2 6 0x10) ∧
    decodeCurd 0xF4601800 = some (.dma 3 1 2) ∧ decodeCurd 0x68000001 = some .halt ∧ decodeCurd 0 = none

/-- 03_curd_core.md R82, R83, R113, R120. What is no instruction raises the illegal-instruction fault, and an uncorrectable word of the instruction store its own: the curd stops FAULTED, its pc as it was, whichever row issues. Reserved majors, and words with a reserved field that is not zero, are no instructions. -/
def Obligations.IllegalWordsFault : Prop :=
  (∀ (s : State) (node slot : Nat) (g : Dev) (row : Instr), let c := s.dev.curd (curdKey node slot); let k := curdKey node slot
    row ∈ [Instr.alu node slot, .addi node slot, .shi node slot, .beq node slot, .jal node slot, .csrr node slot, .ldd node slot, .std node slot, .vop node slot, .tmma node slot, .wait node slot, .rand node slot, .nop node slot] →
    c.issuing = true → s.dev.pwr.coreMv ≠ 0 → (g.curd k).r = c.r →
    (∀ bs, s.dev.isRead node slot (4 * c.r.pc.toNat) 4 = (g, some bs) → decodeCurd (leNat bs) = none → exec row s = .next { s with dev := g.curdFault node slot 0x01 c.r.pc 0 }) ∧
    (s.dev.isRead node slot (4 * c.r.pc.toNat) 4 = (g, none) → exec row s = .next { s with dev := g.curdFault node slot 0x06 c.r.pc 0 })) ∧
  (∀ (g : Dev) node slot cause pc addr, 0 < cause → cause < 256 → FaultedBy (g.curd (curdKey node slot)) ((g.curdFault node slot cause pc addr).curd (curdKey node slot)) cause pc addr) ∧
  (∀ w, bits w 31 26 ∈ [0, 0x0A, 0x0B, 0x0C, 0x0D, 0x0E, 0x0F, 0x1B, 0x1C, 0x1D, 0x1E, 0x1F, 0x2E, 0x2F, 0x34, 0x35, 0x36, 0x37] → decodeCurd w = none) ∧
  (∀ w i, decodeCurd w = some i → i.wf = true ∧ (bits w 31 26 = 0x06 → bits w 15 8 = 0) ∧ (bits w 31 26 = 0x07 ∨ bits w 31 26 = 0x08 → bits w 20 18 = 0) ∧ (bits w 31 26 = 0x16 → bits w 20 12 = 0) ∧ (bits w 31 26 = 0x18 → bits w 20 16 = 0 ∧ bits w 15 8 = 0) ∧ (bits w 31 26 = 0x19 → bits w 25 21 = 0 ∧ bits w 15 8 = 0) ∧
    (bits w 31 26 = 0x2B ∨ bits w 31 26 = 0x2C → bits w 21 21 = 0) ∧ (bits w 31 26 = 0x3D ∨ bits w 31 26 = 0x3F → bits w 20 16 = 0 ∧ bits w 9 0 = 0) ∧ (bits w 31 26 = 0x3E → bits w 6 4 = 0 ∧ bits w 3 0 ≤ 4))

/-- 03_curd_core.md R84. The function that each func code selects, on every pair of operands; a code that the table does not list selects none. -/
def Obligations.AluFunctionsAreTheTable : Prop :=
  ∀ a b : Word, let n := b.toNat % 64; let f (c : Nat) : Option Word := (AluOp.ofCode c).map (fun op => aluFn op a b)
    f 0x000 = some (a + b) ∧ f 0x001 = some (a - b) ∧ f 0x002 = some (a &&& b) ∧ f 0x003 = some (a ||| b) ∧ f 0x004 = some (a ^^^ b) ∧
    (∃ x, f 0x005 = some x ∧ x.toNat = a.toNat * 2 ^ n % 2 ^ 64) ∧ (∃ x, f 0x006 = some x ∧ x.toNat = a.toNat / 2 ^ n) ∧ (∃ x, f 0x007 = some x ∧ x.toInt = a.toInt / 2 ^ n) ∧
    f 0x008 = some (if a.toInt < b.toInt then 1 else 0) ∧ f 0x009 = some (if a.toNat < b.toNat then 1 else 0) ∧ (∃ x, f 0x00A = some x ∧ x.toInt = min a.toInt b.toInt) ∧ (∃ x, f 0x00B = some x ∧ x.toInt = max a.toInt b.toInt) ∧
    (∃ x, f 0x00C = some x ∧ x.toNat = min a.toNat b.toNat) ∧ (∃ x, f 0x00D = some x ∧ x.toNat = max a.toNat b.toNat) ∧
    (∃ x, f 0x010 = some x ∧ x.toNat = a.toNat * b.toNat % 2 ^ 64) ∧ (∃ x, f 0x011 = some x ∧ x.toInt = a.toInt * b.toInt / 2 ^ 64) ∧ (∃ x, f 0x012 = some x ∧ x.toNat = a.toNat * b.toNat / 2 ^ 64) ∧
    (∃ x y, f 0x018 = some x ∧ f 0x01A = some y ∧ (b ≠ 0 → ¬ (a.toInt = -2 ^ 63 ∧ b.toInt = -1) → x.toInt = a.toInt.tdiv b.toInt ∧ y.toInt = a.toInt.tmod b.toInt)) ∧ (∃ x y, f 0x019 = some x ∧ f 0x01B = some y ∧ (b ≠ 0 → x.toNat = a.toNat / b.toNat ∧ y.toNat = a.toNat % b.toNat)) ∧
    (∃ x, f 0x020 = some x ∧ x.toNat = ((List.range 64).filter (fun i => a.getLsbD i)).length) ∧
    (∃ x, f 0x021 = some x ∧ (a = 0 → x.toNat = 64) ∧ (a ≠ 0 → x.toNat < 64 ∧ 2 ^ (63 - x.toNat) ≤ a.toNat ∧ a.toNat < 2 ^ (64 - x.toNat))) ∧ (∃ x, f 0x022 = some x ∧ (a = 0 → x.toNat = 64) ∧ (a ≠ 0 → x.toNat < 64 ∧ a.getLsbD x.toNat = true ∧ ∀ i, i < x.toNat → a.getLsbD i = false)) ∧
    (∀ c, c ∉ [0, 1, 2, 3, 4, 5, 6, 7, 8, 9, 0x0A, 0x0B, 0x0C, 0x0D, 0x10, 0x11, 0x12, 0x18, 0x19, 0x1A, 0x1B, 0x20, 0x21, 0x22] → f c = none)

/-- 03_curd_core.md R85. The row of a division retires whatever the operands: a zero divisor gives all ones and leaves the dividend, the most negative number by -1 gives itself with remainder 0; sums, differences and products wrap. -/
def Obligations.DivisionNeverFaultsAndSumsWrap : Prop :=
  ∀ (s : State) (node slot : Nat) (d : Dev) (rd ra rb : Reg), let r := regsOf d node slot; let a := r.getG ra; let b := r.getG rb
    let gives (op : AluOp) (x : Word) : Prop := Issues s node slot (.alu op rd ra rb) d → ∃ cost, exec (.alu node slot) s = .next (retired s node slot d (r.setG rd x) (r.pc + 1) cost)
    (∀ op, ∃ x, gives op x) ∧ (b = 0 → gives .div (BitVec.allOnes 64) ∧ gives .divu (BitVec.allOnes 64) ∧ gives .rem a ∧ gives .remu a) ∧ (a = BitVec.intMin 64 → b = BitVec.allOnes 64 → gives .div a ∧ gives .rem 0) ∧
    (gives .add (BitVec.ofNat 64 (a.toNat + b.toNat)) ∧ gives .sub (BitVec.ofInt 64 (a.toInt - b.toInt)) ∧ gives .mul (BitVec.ofNat 64 (a.toNat * b.toNat)))
end

