-- ==== Sys2Proof/Laws/SMap.lean ====
section
/-! SUPPORT. Sparse tables and memories: what a read gives after a write, and that every operation keeps the canonical
form (keys strictly rising, no entry equal to the default). -/

namespace Sys2Proof

section
variable {α : Type}

@[simp] theorem smGet_nil (d : α) (i : Nat) : smGet d [] i = d := rfl

theorem smGet_insert_same (d : α) (m : SMap α) (i : Nat) (v : α) : smGet d (smInsert m i v) i = v := by
  induction m with
  | nil => simp [smInsert, smGet]
  | cons e m ih =>
    obtain ⟨k, w⟩ := e
    simp only [smInsert]
    split
    · simp [smGet]
    · split
      · simp [smGet]
      · simp only [smGet, ih]
        split
        · omega
        · rfl

theorem smGet_insert_other (d : α) (m : SMap α) (i j : Nat) (v : α) (h : j ≠ i) :
    smGet d (smInsert m i v) j = smGet d m j := by
  induction m with
  | nil => simp [smInsert, smGet, Ne.symm h]
  | cons e m ih =>
    obtain ⟨k, w⟩ := e
    simp only [smInsert]
    split
    · simp [smGet, Ne.symm h]
    · split
      · subst_vars
        simp [smGet, Ne.symm h]
      · simp only [smGet, ih]

theorem smGet_erase_same (d : α) (m : SMap α) (i : Nat) : smGet d (smErase m i) i = d := by
  induction m with
  | nil => rfl
  | cons e m ih =>
    obtain ⟨k, w⟩ := e
    simp only [smErase] at ih
    by_cases hk : k = i
    · simp [smErase, hk, ih]
    · simp [smErase, hk, smGet, ih]

theorem smGet_erase_other (d : α) (m : SMap α) (i j : Nat) (h : j ≠ i) : smGet d (smErase m i) j = smGet d m j := by
  induction m with
  | nil => rfl
  | cons e m ih =>
    obtain ⟨k, w⟩ := e
    simp only [smErase] at ih
    by_cases hk : k = i
    · subst hk
      simp [smErase, smGet, ih, Ne.symm h]
    · simp [smErase, hk, smGet, ih]

variable [DecidableEq α]

/-- A read after a write to the same place gives the value written. -/
@[simp] theorem smGet_set_same (d : α) (m : SMap α) (i : Nat) (v : α) : smGet d (smSet d m i v) i = v := by
  unfold smSet
  split
  · rw [smGet_erase_same]; exact Eq.symm ‹v = d›
  · exact smGet_insert_same d m i v

/-- A write leaves every other place alone. -/
theorem smGet_set_other (d : α) (m : SMap α) (i j : Nat) (v : α) (h : j ≠ i) :
    smGet d (smSet d m i v) j = smGet d m j := by
  unfold smSet
  split
  · exact smGet_erase_other d m i j h
  · exact smGet_insert_other d m i j v h

theorem smGet_set (d : α) (m : SMap α) (i j : Nat) (v : α) :
    smGet d (smSet d m i v) j = if j = i then v else smGet d m j := by
  by_cases h : j = i
  · subst h; simp
  · simp [h, smGet_set_other d m i j v h]

theorem smWfFrom_mono {d : α} {m : SMap α} {lo lo' : Nat} (h : lo' ≤ lo) (hm : smWfFrom d lo m = true) :
    smWfFrom d lo' m = true := by
  cases m with
  | nil => rfl
  | cons e m =>
    simp only [smWfFrom, Bool.and_eq_true, decide_eq_true_eq] at hm ⊢
    exact ⟨⟨by omega, hm.1.2⟩, hm.2⟩

theorem smWfFrom_insert {d : α} {m : SMap α} {lo i : Nat} {v : α} (hm : smWfFrom d lo m = true) (hv : v ≠ d)
    (hi : lo ≤ i) : smWfFrom d lo (smInsert m i v) = true := by
  induction m generalizing lo with
  | nil => simp [smInsert, smWfFrom, hi, hv]
  | cons e m ih =>
    obtain ⟨k, w⟩ := e
    simp only [smWfFrom, Bool.and_eq_true, decide_eq_true_eq] at hm
    simp only [smInsert]
    split
    · simp only [smWfFrom, Bool.and_eq_true, decide_eq_true_eq]
      exact ⟨⟨hi, by simpa using hv⟩, ⟨by omega, hm.1.2⟩, hm.2⟩
    · split
      · subst_vars
        simp only [smWfFrom, Bool.and_eq_true, decide_eq_true_eq]
        exact ⟨⟨hi, by simpa using hv⟩, hm.2⟩
      · simp only [smWfFrom, Bool.and_eq_true, decide_eq_true_eq]
        exact ⟨hm.1, ih hm.2 (by omega)⟩

/-- Leaving entries out keeps the canonical form. -/
theorem smWfFrom_filter {d : α} {m : SMap α} {lo : Nat} (p : Nat × α → Bool) (hm : smWfFrom d lo m = true) :
    smWfFrom d lo (m.filter p) = true := by
  induction m generalizing lo with
  | nil => rfl
  | cons e m ih =>
    obtain ⟨k, w⟩ := e
    simp only [smWfFrom, Bool.and_eq_true, decide_eq_true_eq] at hm
    by_cases hp : p (k, w)
    · simp only [List.filter_cons_of_pos hp, smWfFrom, Bool.and_eq_true, decide_eq_true_eq]
      exact ⟨hm.1, ih hm.2⟩
    · simp only [List.filter_cons_of_neg hp]
      exact ih (smWfFrom_mono (by omega) hm.2)

theorem smWf_filter {d : α} {m : SMap α} (p : Nat × α → Bool) (hm : smWf d m = true) : smWf d (m.filter p) = true :=
  smWfFrom_filter p hm

/-- A write keeps the canonical form. -/
theorem smWf_set {d : α} {m : SMap α} (i : Nat) (v : α) (hm : smWf d m = true) : smWf d (smSet d m i v) = true := by
  unfold smSet
  split
  · exact smWf_filter _ hm
  · exact smWfFrom_insert hm ‹_› (Nat.zero_le i)

end

namespace Machine

section
variable {α : Type} [DecidableEq α]

theorem smWf_setList {d : α} {m : SMap α} (i : Nat) (xs : List α) (hm : smWf d m = true) :
    smWf d (smSetList d m i xs) = true := by
  induction xs generalizing m i with
  | nil => exact hm
  | cons x xs ih => exact ih (i + 1) (smWf_set i x hm)

theorem smWf_clear {d : α} {m : SMap α} (lo hi : Nat) (hm : smWf d m = true) : smWf d (smClear m lo hi) = true :=
  smWf_filter _ hm

/-- Outside the entries written, a run of writes leaves the table as it was. -/
theorem smGet_setList_out (d : α) (m : SMap α) (i j : Nat) (xs : List α) (h : j < i ∨ i + xs.length ≤ j) :
    smGet d (smSetList d m i xs) j = smGet d m j := by
  induction xs generalizing m i with
  | nil => rfl
  | cons x xs ih =>
    have hl : (x :: xs).length = xs.length + 1 := rfl
    rw [smSetList, ih (smSet d m i x) (i + 1) (by omega), smGet_set_other d m i j x (by omega)]

/-- Within them it gives the entry written. -/
theorem smGet_setList_in (d : α) (m : SMap α) (i k : Nat) (xs : List α) (h : k < xs.length) :
    smGet d (smSetList d m i xs) (i + k) = xs[k] := by
  induction xs generalizing m i k with
  | nil => exact absurd h (Nat.not_lt_zero k)
  | cons x xs ih =>
    cases k with
    | zero =>
      have : smGet d (smSetList d (smSet d m i x) (i + 1) xs) i = x := by
        rw [smGet_setList_out d _ (i + 1) i xs (by omega), smGet_set_same]
      simpa [smSetList] using this
    | succ k =>
      have hk : k < xs.length := by simpa using h
      have := ih (smSet d m i x) (i + 1) k hk
      have e : i + 1 + k = i + (k + 1) := by omega
      simpa [smSetList, e] using this

omit [DecidableEq α] in
@[simp] theorem smGetList_length (d : α) (m : SMap α) (i n : Nat) : (smGetList d m i n).length = n := by
  induction n generalizing i with
  | zero => rfl
  | succ n ih => simp [smGetList, ih]

theorem smGetList_setList (d : α) (m : SMap α) (i : Nat) (xs : List α) :
    smGetList d (smSetList d m i xs) i xs.length = xs := by
  induction xs generalizing m i with
  | nil => rfl
  | cons x xs ih =>
    have h0 : smGet d (smSetList d (smSet d m i x) (i + 1) xs) i = x := by
      rw [smGet_setList_out d _ (i + 1) i xs (by omega), smGet_set_same]
    simp only [smSetList, List.length_cons, smGetList, h0, ih]

end

/-! ## Memories -/

theorem memWrite_wf {m : Memory} (a : Nat) (bs : List Byte) (hm : m.wf = true) : (memWrite m a bs).wf = true :=
  smWf_setList a bs hm

/-- A read of the bytes just written gives them back. -/
theorem memRead_write_same (m : Memory) (a : Nat) (bs : List Byte) : memRead (memWrite m a bs) a bs.length = bs :=
  smGetList_setList 0 m a bs

/-- A byte outside the bytes written reads as before. -/
theorem memGet_write_out (m : Memory) (a x : Nat) (bs : List Byte) (h : x < a ∨ a + bs.length ≤ x) :
    smGet (0 : Byte) (memWrite m a bs) x = smGet 0 m x :=
  smGet_setList_out 0 m a x bs h

theorem xorWord_wf {m : Memory} (w : Nat) (x : Word) (hm : m.wf = true) : (xorWord m w x).wf = true :=
  memWrite_wf _ _ hm

theorem writeBut_wf {m : Memory} (lost : List Nat) (a : Nat) (bs : List Byte) (hm : m.wf = true) :
    (writeBut m lost a bs).wf = true := by
  induction bs generalizing m a with
  | nil => exact hm
  | cons x xs ih =>
    simp only [writeBut]
    split
    · exact ih (a + 1) hm
    · exact ih (a + 1) (smWf_set a x hm)

/-- The bytes of lost words and those outside the write read as before. -/
theorem writeBut_keeps (m : Memory) (lost : List Nat) (a x : Nat) (bs : List Byte)
    (h : x < a ∨ a + bs.length ≤ x ∨ lost.contains (x / 8) = true) :
    smGet (0 : Byte) (writeBut m lost a bs) x = smGet 0 m x := by
  induction bs generalizing m a with
  | nil => rfl
  | cons y ys ih =>
    have hl : (y :: ys).length = ys.length + 1 := rfl
    simp only [writeBut]
    split
    · exact ih m (a + 1) (by rcases h with h | h | h <;> first | exact .inr (.inr h) | omega)
    · rename_i hc
      have hne : x ≠ a := by
        rintro rfl
        rcases h with h | h | h
        · omega
        · omega
        · exact hc h
      rw [ih _ (a + 1) (by rcases h with h | h | h <;> first | exact .inr (.inr h) | omega), smGet_set_other 0 m a x y hne]

/-! ## Blocks of on-chip memory (05_local_memory.md R149-R152) -/

theorem Block.readWord_wf {b : Block} (w : Nat) (mask : BitVec 72) (h : b.mem.wf = true) :
    (b.readWord w mask).1.mem.wf = true := by
  unfold Block.readWord
  split
  · exact h
  · exact xorWord_wf _ _ h
  · exact xorWord_wf _ _ h

theorem Block.readMarks_wf {b : Block} (l : List (Nat × BitVec 72)) (h : b.mem.wf = true) :
    (b.readMarks l).1.mem.wf = true := by
  induction l generalizing b with
  | nil => exact h
  | cons e l ih => simp only [Block.readMarks]; exact ih (Block.readWord_wf e.1 e.2 h)

theorem Block.read_wf {b : Block} (off n : Nat) (h : b.mem.wf = true) : (b.read off n).1.mem.wf = true := by
  simp only [Block.read]
  exact Block.readMarks_wf _ h

/-- What every step of a fold keeps, the fold keeps. -/
theorem foldl_keeps {α β : Type} (P : β → Prop) {f : β → α → β} (l : List α) (h : ∀ b, P b → ∀ a ∈ l, P (f b a)) {b : β}
    (hb : P b) : P (l.foldl f b) := by
  induction l generalizing b with
  | nil => exact hb
  | cons a l ih =>
    exact ih (fun b hb x hx => h b hb x (List.mem_cons_of_mem _ hx)) (h b hb a List.mem_cons_self)

theorem Block.clearMarks_wf {b : Block} (lost : List Nat) (off n : Nat) (h : b.mem.wf = true) :
    (b.clearMarks lost off n).1.mem.wf = true := by
  unfold Block.clearMarks
  refine foldl_keeps (fun acc : Block × List (Nat × Nat) => acc.1.mem.wf = true) _ (fun acc hacc e _ => ?_) h
  dsimp only
  split
  · exact hacc
  · split
    · dsimp only
      exact Block.readWord_wf e.1 e.2 hacc
    · exact hacc

@[simp] theorem Block.applyFlip_mem (b : Block) (may : Bool) (lost : List Nat) (off n : Nat) :
    (b.applyFlip may lost off n).mem = b.mem := by
  unfold Block.applyFlip
  split
  · split <;> rfl
  · rfl

theorem Block.write_wf {b : Block} (may : Bool) (off : Nat) (bs : List Byte) (h : b.mem.wf = true) :
    (b.write may off bs).1.mem.wf = true := by
  simp only [Block.write, Block.applyFlip_mem]
  exact writeBut_wf _ _ _ (Block.clearMarks_wf _ _ _ h)

/-- Without marks in its range a block reads as its contents stand, and nothing is reported. -/
theorem Block.read_clean {b : Block} {off n : Nat} (h : b.marks off n = []) :
    b.read off n = (b, some (memRead b.mem off n), []) := by
  simp [Block.read, h, Block.readMarks]

/-- Without marks in its range and no armed flip a write stores its bytes and nothing else. -/
theorem Block.write_clean {b : Block} {may : Bool} {off : Nat} {bs : List Byte} (h : b.marks off bs.length = [])
    (hf : b.flip.arm = false) : b.write may off bs = ({ b with mem := writeBut b.mem [] off bs }, true, []) := by
  simp [Block.write, Block.lostWords, h, Block.clearMarks, Block.applyFlip, hf]

theorem writeBut_nil (m : Memory) (a : Nat) (bs : List Byte) : writeBut m [] a bs = memWrite m a bs := by
  induction bs generalizing m a with
  | nil => rfl
  | cons x xs ih => simp [writeBut, memWrite, smSetList] at ih ⊢; exact ih _ _

end Machine
end Sys2Proof
end

