-- ==== Sys2Proof/Laws/State.lean ====
section
/-! SUPPORT. What each update of the state leaves alone, field by field, and what a unit reads after it is written. -/

namespace Sys2Proof.Machine

theorem State.next_eq (s : State) (d : Dev) : s.next d = .next { s with dev := d } := rfl

/-! ## Dev.setCurd -/

@[simp] theorem Dev.curd_setCurd_same (d : Dev) (i : Nat) (x : Curd) : (d.setCurd i x).curd i = x := smGet_set_same _ _ _ _

theorem Dev.curd_setCurd_other (d : Dev) (i j : Nat) (x : Curd) (h : j ≠ i) : (d.setCurd i x).curd j = d.curd j :=
  smGet_set_other _ _ _ _ _ h

@[simp] theorem Dev.setCurd_timer (d : Dev) (i : Nat) (x : Curd) : (d.setCurd i x).timer = d.timer := rfl
@[simp] theorem Dev.setCurd_pwr (d : Dev) (i : Nat) (x : Curd) : (d.setCurd i x).pwr = d.pwr := rfl
@[simp] theorem Dev.setCurd_boot (d : Dev) (i : Nat) (x : Curd) : (d.setCurd i x).boot = d.boot := rfl
@[simp] theorem Dev.setCurd_sec (d : Dev) (i : Nat) (x : Curd) : (d.setCurd i x).sec = d.sec := rfl
@[simp] theorem Dev.setCurd_cfg (d : Dev) (i : Nat) (x : Curd) : (d.setCurd i x).cfg = d.cfg := rfl
@[simp] theorem Dev.setCurd_vats (d : Dev) (i : Nat) (x : Curd) : (d.setCurd i x).vats = d.vats := rfl
@[simp] theorem Dev.setCurd_nis (d : Dev) (i : Nat) (x : Curd) : (d.setCurd i x).nis = d.nis := rfl
@[simp] theorem Dev.setCurd_mesh (d : Dev) (i : Nat) (x : Curd) : (d.setCurd i x).mesh = d.mesh := rfl
@[simp] theorem Dev.setCurd_ports (d : Dev) (i : Nat) (x : Curd) : (d.setCurd i x).ports = d.ports := rfl
@[simp] theorem Dev.setCurd_coll (d : Dev) (i : Nat) (x : Curd) : (d.setCurd i x).coll = d.coll := rfl
@[simp] theorem Dev.setCurd_trees (d : Dev) (i : Nat) (x : Curd) : (d.setCurd i x).trees = d.trees := rfl
@[simp] theorem Dev.setCurd_ext (d : Dev) (i : Nat) (x : Curd) : (d.setCurd i x).ext = d.ext := rfl
@[simp] theorem Dev.setCurd_parts (d : Dev) (i : Nat) (x : Curd) : (d.setCurd i x).parts = d.parts := rfl
@[simp] theorem Dev.setCurd_ctxs (d : Dev) (i : Nat) (x : Curd) : (d.setCurd i x).ctxs = d.ctxs := rfl
@[simp] theorem Dev.setCurd_lastGen (d : Dev) (i : Nat) (x : Curd) : (d.setCurd i x).lastGen = d.lastGen := rfl
@[simp] theorem Dev.setCurd_fm (d : Dev) (i : Nat) (x : Curd) : (d.setCurd i x).fm = d.fm := rfl
@[simp] theorem Dev.setCurd_host (d : Dev) (i : Nat) (x : Curd) : (d.setCurd i x).host = d.host := rfl
@[simp] theorem Dev.setCurd_rrc (d : Dev) (i : Nat) (x : Curd) : (d.setCurd i x).rrc = d.rrc := rfl
@[simp] theorem Dev.setCurd_flt (d : Dev) (i : Nat) (x : Curd) : (d.setCurd i x).flt = d.flt := rfl
@[simp] theorem Dev.setCurd_cave (d : Dev) (i : Nat) (x : Curd) : (d.setCurd i x).cave = d.cave := rfl
@[simp] theorem Dev.setCurd_cv (d : Dev) (i : Nat) (x : Curd) : (d.setCurd i x).cv = d.cv := rfl
@[simp] theorem Dev.setCurd_sb (d : Dev) (i : Nat) (x : Curd) : (d.setCurd i x).sb = d.sb := rfl
@[simp] theorem Dev.setCurd_xlink (d : Dev) (i : Nat) (x : Curd) : (d.setCurd i x).xlink = d.xlink := rfl
@[simp] theorem Dev.setCurd_collTmo (d : Dev) (i : Nat) (x : Curd) : (d.setCurd i x).collTmo = d.collTmo := rfl
@[simp] theorem Dev.setCurd_free (d : Dev) (i : Nat) (x : Curd) : (d.setCurd i x).free = d.free := rfl
@[simp] theorem Dev.setCurd_vat (d : Dev) (i j : Nat) (x : Curd) : (d.setCurd i x).vat j = d.vat j := rfl
@[simp] theorem Dev.setCurd_ni (d : Dev) (i j : Nat) (x : Curd) : (d.setCurd i x).ni j = d.ni j := rfl
@[simp] theorem Dev.setCurd_port (d : Dev) (i j : Nat) (x : Curd) : (d.setCurd i x).port j = d.port j := rfl
@[simp] theorem Dev.setCurd_unit (d : Dev) (i j : Nat) (x : Curd) : (d.setCurd i x).unit j = d.unit j := rfl
@[simp] theorem Dev.setCurd_part (d : Dev) (i j : Nat) (x : Curd) : (d.setCurd i x).part j = d.part j := rfl
@[simp] theorem Dev.setCurd_ctx (d : Dev) (i j : Nat) (x : Curd) : (d.setCurd i x).ctx j = d.ctx j := rfl
@[simp] theorem Dev.setCurd_cvu (d : Dev) (i j : Nat) (x : Curd) : (d.setCurd i x).cvu j = d.cvu j := rfl
@[simp] theorem Dev.setCurd_chan (d : Dev) (i j : Nat) (x : Curd) : (d.setCurd i x).chan j = d.chan j := rfl
@[simp] theorem Dev.setCurd_func (d : Dev) (i j : Nat) (x : Curd) : (d.setCurd i x).func j = d.func j := rfl
@[simp] theorem Dev.setCurd_edge (d : Dev) (i j : Nat) (x : Curd) : (d.setCurd i x).edge j = d.edge j := rfl

/-! ## Dev.setVat -/

@[simp] theorem Dev.vat_setVat_same (d : Dev) (i : Nat) (x : Vat) : (d.setVat i x).vat i = x := smGet_set_same _ _ _ _

theorem Dev.vat_setVat_other (d : Dev) (i j : Nat) (x : Vat) (h : j ≠ i) : (d.setVat i x).vat j = d.vat j :=
  smGet_set_other _ _ _ _ _ h

@[simp] theorem Dev.setVat_timer (d : Dev) (i : Nat) (x : Vat) : (d.setVat i x).timer = d.timer := rfl
@[simp] theorem Dev.setVat_pwr (d : Dev) (i : Nat) (x : Vat) : (d.setVat i x).pwr = d.pwr := rfl
@[simp] theorem Dev.setVat_boot (d : Dev) (i : Nat) (x : Vat) : (d.setVat i x).boot = d.boot := rfl
@[simp] theorem Dev.setVat_sec (d : Dev) (i : Nat) (x : Vat) : (d.setVat i x).sec = d.sec := rfl
@[simp] theorem Dev.setVat_cfg (d : Dev) (i : Nat) (x : Vat) : (d.setVat i x).cfg = d.cfg := rfl
@[simp] theorem Dev.setVat_curds (d : Dev) (i : Nat) (x : Vat) : (d.setVat i x).curds = d.curds := rfl
@[simp] theorem Dev.setVat_nis (d : Dev) (i : Nat) (x : Vat) : (d.setVat i x).nis = d.nis := rfl
@[simp] theorem Dev.setVat_mesh (d : Dev) (i : Nat) (x : Vat) : (d.setVat i x).mesh = d.mesh := rfl
@[simp] theorem Dev.setVat_ports (d : Dev) (i : Nat) (x : Vat) : (d.setVat i x).ports = d.ports := rfl
@[simp] theorem Dev.setVat_coll (d : Dev) (i : Nat) (x : Vat) : (d.setVat i x).coll = d.coll := rfl
@[simp] theorem Dev.setVat_trees (d : Dev) (i : Nat) (x : Vat) : (d.setVat i x).trees = d.trees := rfl
@[simp] theorem Dev.setVat_ext (d : Dev) (i : Nat) (x : Vat) : (d.setVat i x).ext = d.ext := rfl
@[simp] theorem Dev.setVat_parts (d : Dev) (i : Nat) (x : Vat) : (d.setVat i x).parts = d.parts := rfl
@[simp] theorem Dev.setVat_ctxs (d : Dev) (i : Nat) (x : Vat) : (d.setVat i x).ctxs = d.ctxs := rfl
@[simp] theorem Dev.setVat_lastGen (d : Dev) (i : Nat) (x : Vat) : (d.setVat i x).lastGen = d.lastGen := rfl
@[simp] theorem Dev.setVat_fm (d : Dev) (i : Nat) (x : Vat) : (d.setVat i x).fm = d.fm := rfl
@[simp] theorem Dev.setVat_host (d : Dev) (i : Nat) (x : Vat) : (d.setVat i x).host = d.host := rfl
@[simp] theorem Dev.setVat_rrc (d : Dev) (i : Nat) (x : Vat) : (d.setVat i x).rrc = d.rrc := rfl
@[simp] theorem Dev.setVat_flt (d : Dev) (i : Nat) (x : Vat) : (d.setVat i x).flt = d.flt := rfl
@[simp] theorem Dev.setVat_cave (d : Dev) (i : Nat) (x : Vat) : (d.setVat i x).cave = d.cave := rfl
@[simp] theorem Dev.setVat_cv (d : Dev) (i : Nat) (x : Vat) : (d.setVat i x).cv = d.cv := rfl
@[simp] theorem Dev.setVat_sb (d : Dev) (i : Nat) (x : Vat) : (d.setVat i x).sb = d.sb := rfl
@[simp] theorem Dev.setVat_xlink (d : Dev) (i : Nat) (x : Vat) : (d.setVat i x).xlink = d.xlink := rfl
@[simp] theorem Dev.setVat_collTmo (d : Dev) (i : Nat) (x : Vat) : (d.setVat i x).collTmo = d.collTmo := rfl
@[simp] theorem Dev.setVat_free (d : Dev) (i : Nat) (x : Vat) : (d.setVat i x).free = d.free := rfl
@[simp] theorem Dev.setVat_curd (d : Dev) (i j : Nat) (x : Vat) : (d.setVat i x).curd j = d.curd j := rfl
@[simp] theorem Dev.setVat_ni (d : Dev) (i j : Nat) (x : Vat) : (d.setVat i x).ni j = d.ni j := rfl
@[simp] theorem Dev.setVat_port (d : Dev) (i j : Nat) (x : Vat) : (d.setVat i x).port j = d.port j := rfl
@[simp] theorem Dev.setVat_unit (d : Dev) (i j : Nat) (x : Vat) : (d.setVat i x).unit j = d.unit j := rfl
@[simp] theorem Dev.setVat_part (d : Dev) (i j : Nat) (x : Vat) : (d.setVat i x).part j = d.part j := rfl
@[simp] theorem Dev.setVat_ctx (d : Dev) (i j : Nat) (x : Vat) : (d.setVat i x).ctx j = d.ctx j := rfl
@[simp] theorem Dev.setVat_cvu (d : Dev) (i j : Nat) (x : Vat) : (d.setVat i x).cvu j = d.cvu j := rfl
@[simp] theorem Dev.setVat_chan (d : Dev) (i j : Nat) (x : Vat) : (d.setVat i x).chan j = d.chan j := rfl
@[simp] theorem Dev.setVat_func (d : Dev) (i j : Nat) (x : Vat) : (d.setVat i x).func j = d.func j := rfl
@[simp] theorem Dev.setVat_edge (d : Dev) (i j : Nat) (x : Vat) : (d.setVat i x).edge j = d.edge j := rfl

/-! ## Dev.setNi -/

@[simp] theorem Dev.ni_setNi_same (d : Dev) (i : Nat) (x : NI) : (d.setNi i x).ni i = x := smGet_set_same _ _ _ _

theorem Dev.ni_setNi_other (d : Dev) (i j : Nat) (x : NI) (h : j ≠ i) : (d.setNi i x).ni j = d.ni j :=
  smGet_set_other _ _ _ _ _ h

@[simp] theorem Dev.setNi_timer (d : Dev) (i : Nat) (x : NI) : (d.setNi i x).timer = d.timer := rfl
@[simp] theorem Dev.setNi_pwr (d : Dev) (i : Nat) (x : NI) : (d.setNi i x).pwr = d.pwr := rfl
@[simp] theorem Dev.setNi_boot (d : Dev) (i : Nat) (x : NI) : (d.setNi i x).boot = d.boot := rfl
@[simp] theorem Dev.setNi_sec (d : Dev) (i : Nat) (x : NI) : (d.setNi i x).sec = d.sec := rfl
@[simp] theorem Dev.setNi_cfg (d : Dev) (i : Nat) (x : NI) : (d.setNi i x).cfg = d.cfg := rfl
@[simp] theorem Dev.setNi_curds (d : Dev) (i : Nat) (x : NI) : (d.setNi i x).curds = d.curds := rfl
@[simp] theorem Dev.setNi_vats (d : Dev) (i : Nat) (x : NI) : (d.setNi i x).vats = d.vats := rfl
@[simp] theorem Dev.setNi_mesh (d : Dev) (i : Nat) (x : NI) : (d.setNi i x).mesh = d.mesh := rfl
@[simp] theorem Dev.setNi_ports (d : Dev) (i : Nat) (x : NI) : (d.setNi i x).ports = d.ports := rfl
@[simp] theorem Dev.setNi_coll (d : Dev) (i : Nat) (x : NI) : (d.setNi i x).coll = d.coll := rfl
@[simp] theorem Dev.setNi_trees (d : Dev) (i : Nat) (x : NI) : (d.setNi i x).trees = d.trees := rfl
@[simp] theorem Dev.setNi_ext (d : Dev) (i : Nat) (x : NI) : (d.setNi i x).ext = d.ext := rfl
@[simp] theorem Dev.setNi_parts (d : Dev) (i : Nat) (x : NI) : (d.setNi i x).parts = d.parts := rfl
@[simp] theorem Dev.setNi_ctxs (d : Dev) (i : Nat) (x : NI) : (d.setNi i x).ctxs = d.ctxs := rfl
@[simp] theorem Dev.setNi_lastGen (d : Dev) (i : Nat) (x : NI) : (d.setNi i x).lastGen = d.lastGen := rfl
@[simp] theorem Dev.setNi_fm (d : Dev) (i : Nat) (x : NI) : (d.setNi i x).fm = d.fm := rfl
@[simp] theorem Dev.setNi_host (d : Dev) (i : Nat) (x : NI) : (d.setNi i x).host = d.host := rfl
@[simp] theorem Dev.setNi_rrc (d : Dev) (i : Nat) (x : NI) : (d.setNi i x).rrc = d.rrc := rfl
@[simp] theorem Dev.setNi_flt (d : Dev) (i : Nat) (x : NI) : (d.setNi i x).flt = d.flt := rfl
@[simp] theorem Dev.setNi_cave (d : Dev) (i : Nat) (x : NI) : (d.setNi i x).cave = d.cave := rfl
@[simp] theorem Dev.setNi_cv (d : Dev) (i : Nat) (x : NI) : (d.setNi i x).cv = d.cv := rfl
@[simp] theorem Dev.setNi_sb (d : Dev) (i : Nat) (x : NI) : (d.setNi i x).sb = d.sb := rfl
@[simp] theorem Dev.setNi_xlink (d : Dev) (i : Nat) (x : NI) : (d.setNi i x).xlink = d.xlink := rfl
@[simp] theorem Dev.setNi_collTmo (d : Dev) (i : Nat) (x : NI) : (d.setNi i x).collTmo = d.collTmo := rfl
@[simp] theorem Dev.setNi_free (d : Dev) (i : Nat) (x : NI) : (d.setNi i x).free = d.free := rfl
@[simp] theorem Dev.setNi_curd (d : Dev) (i j : Nat) (x : NI) : (d.setNi i x).curd j = d.curd j := rfl
@[simp] theorem Dev.setNi_vat (d : Dev) (i j : Nat) (x : NI) : (d.setNi i x).vat j = d.vat j := rfl
@[simp] theorem Dev.setNi_port (d : Dev) (i j : Nat) (x : NI) : (d.setNi i x).port j = d.port j := rfl
@[simp] theorem Dev.setNi_unit (d : Dev) (i j : Nat) (x : NI) : (d.setNi i x).unit j = d.unit j := rfl
@[simp] theorem Dev.setNi_part (d : Dev) (i j : Nat) (x : NI) : (d.setNi i x).part j = d.part j := rfl
@[simp] theorem Dev.setNi_ctx (d : Dev) (i j : Nat) (x : NI) : (d.setNi i x).ctx j = d.ctx j := rfl
@[simp] theorem Dev.setNi_cvu (d : Dev) (i j : Nat) (x : NI) : (d.setNi i x).cvu j = d.cvu j := rfl
@[simp] theorem Dev.setNi_chan (d : Dev) (i j : Nat) (x : NI) : (d.setNi i x).chan j = d.chan j := rfl
@[simp] theorem Dev.setNi_func (d : Dev) (i j : Nat) (x : NI) : (d.setNi i x).func j = d.func j := rfl
@[simp] theorem Dev.setNi_edge (d : Dev) (i j : Nat) (x : NI) : (d.setNi i x).edge j = d.edge j := rfl

/-! ## Dev.setPort -/

@[simp] theorem Dev.port_setPort_same (d : Dev) (i : Nat) (x : Port) : (d.setPort i x).port i = x := smGet_set_same _ _ _ _

theorem Dev.port_setPort_other (d : Dev) (i j : Nat) (x : Port) (h : j ≠ i) : (d.setPort i x).port j = d.port j :=
  smGet_set_other _ _ _ _ _ h

@[simp] theorem Dev.setPort_timer (d : Dev) (i : Nat) (x : Port) : (d.setPort i x).timer = d.timer := rfl
@[simp] theorem Dev.setPort_pwr (d : Dev) (i : Nat) (x : Port) : (d.setPort i x).pwr = d.pwr := rfl
@[simp] theorem Dev.setPort_boot (d : Dev) (i : Nat) (x : Port) : (d.setPort i x).boot = d.boot := rfl
@[simp] theorem Dev.setPort_sec (d : Dev) (i : Nat) (x : Port) : (d.setPort i x).sec = d.sec := rfl
@[simp] theorem Dev.setPort_cfg (d : Dev) (i : Nat) (x : Port) : (d.setPort i x).cfg = d.cfg := rfl
@[simp] theorem Dev.setPort_curds (d : Dev) (i : Nat) (x : Port) : (d.setPort i x).curds = d.curds := rfl
@[simp] theorem Dev.setPort_vats (d : Dev) (i : Nat) (x : Port) : (d.setPort i x).vats = d.vats := rfl
@[simp] theorem Dev.setPort_nis (d : Dev) (i : Nat) (x : Port) : (d.setPort i x).nis = d.nis := rfl
@[simp] theorem Dev.setPort_mesh (d : Dev) (i : Nat) (x : Port) : (d.setPort i x).mesh = d.mesh := rfl
@[simp] theorem Dev.setPort_coll (d : Dev) (i : Nat) (x : Port) : (d.setPort i x).coll = d.coll := rfl
@[simp] theorem Dev.setPort_trees (d : Dev) (i : Nat) (x : Port) : (d.setPort i x).trees = d.trees := rfl
@[simp] theorem Dev.setPort_ext (d : Dev) (i : Nat) (x : Port) : (d.setPort i x).ext = d.ext := rfl
@[simp] theorem Dev.setPort_parts (d : Dev) (i : Nat) (x : Port) : (d.setPort i x).parts = d.parts := rfl
@[simp] theorem Dev.setPort_ctxs (d : Dev) (i : Nat) (x : Port) : (d.setPort i x).ctxs = d.ctxs := rfl
@[simp] theorem Dev.setPort_lastGen (d : Dev) (i : Nat) (x : Port) : (d.setPort i x).lastGen = d.lastGen := rfl
@[simp] theorem Dev.setPort_fm (d : Dev) (i : Nat) (x : Port) : (d.setPort i x).fm = d.fm := rfl
@[simp] theorem Dev.setPort_host (d : Dev) (i : Nat) (x : Port) : (d.setPort i x).host = d.host := rfl
@[simp] theorem Dev.setPort_rrc (d : Dev) (i : Nat) (x : Port) : (d.setPort i x).rrc = d.rrc := rfl
@[simp] theorem Dev.setPort_flt (d : Dev) (i : Nat) (x : Port) : (d.setPort i x).flt = d.flt := rfl
@[simp] theorem Dev.setPort_cave (d : Dev) (i : Nat) (x : Port) : (d.setPort i x).cave = d.cave := rfl
@[simp] theorem Dev.setPort_cv (d : Dev) (i : Nat) (x : Port) : (d.setPort i x).cv = d.cv := rfl
@[simp] theorem Dev.setPort_sb (d : Dev) (i : Nat) (x : Port) : (d.setPort i x).sb = d.sb := rfl
@[simp] theorem Dev.setPort_xlink (d : Dev) (i : Nat) (x : Port) : (d.setPort i x).xlink = d.xlink := rfl
@[simp] theorem Dev.setPort_collTmo (d : Dev) (i : Nat) (x : Port) : (d.setPort i x).collTmo = d.collTmo := rfl
@[simp] theorem Dev.setPort_free (d : Dev) (i : Nat) (x : Port) : (d.setPort i x).free = d.free := rfl
@[simp] theorem Dev.setPort_curd (d : Dev) (i j : Nat) (x : Port) : (d.setPort i x).curd j = d.curd j := rfl
@[simp] theorem Dev.setPort_vat (d : Dev) (i j : Nat) (x : Port) : (d.setPort i x).vat j = d.vat j := rfl
@[simp] theorem Dev.setPort_ni (d : Dev) (i j : Nat) (x : Port) : (d.setPort i x).ni j = d.ni j := rfl
@[simp] theorem Dev.setPort_unit (d : Dev) (i j : Nat) (x : Port) : (d.setPort i x).unit j = d.unit j := rfl
@[simp] theorem Dev.setPort_part (d : Dev) (i j : Nat) (x : Port) : (d.setPort i x).part j = d.part j := rfl
@[simp] theorem Dev.setPort_ctx (d : Dev) (i j : Nat) (x : Port) : (d.setPort i x).ctx j = d.ctx j := rfl
@[simp] theorem Dev.setPort_cvu (d : Dev) (i j : Nat) (x : Port) : (d.setPort i x).cvu j = d.cvu j := rfl
@[simp] theorem Dev.setPort_chan (d : Dev) (i j : Nat) (x : Port) : (d.setPort i x).chan j = d.chan j := rfl
@[simp] theorem Dev.setPort_func (d : Dev) (i j : Nat) (x : Port) : (d.setPort i x).func j = d.func j := rfl
@[simp] theorem Dev.setPort_edge (d : Dev) (i j : Nat) (x : Port) : (d.setPort i x).edge j = d.edge j := rfl

/-! ## Dev.setUnit -/

@[simp] theorem Dev.unit_setUnit_same (d : Dev) (i : Nat) (x : CollUnit) : (d.setUnit i x).unit i = x := smGet_set_same _ _ _ _

theorem Dev.unit_setUnit_other (d : Dev) (i j : Nat) (x : CollUnit) (h : j ≠ i) : (d.setUnit i x).unit j = d.unit j :=
  smGet_set_other _ _ _ _ _ h

@[simp] theorem Dev.setUnit_timer (d : Dev) (i : Nat) (x : CollUnit) : (d.setUnit i x).timer = d.timer := rfl
@[simp] theorem Dev.setUnit_pwr (d : Dev) (i : Nat) (x : CollUnit) : (d.setUnit i x).pwr = d.pwr := rfl
@[simp] theorem Dev.setUnit_boot (d : Dev) (i : Nat) (x : CollUnit) : (d.setUnit i x).boot = d.boot := rfl
@[simp] theorem Dev.setUnit_sec (d : Dev) (i : Nat) (x : CollUnit) : (d.setUnit i x).sec = d.sec := rfl
@[simp] theorem Dev.setUnit_cfg (d : Dev) (i : Nat) (x : CollUnit) : (d.setUnit i x).cfg = d.cfg := rfl
@[simp] theorem Dev.setUnit_curds (d : Dev) (i : Nat) (x : CollUnit) : (d.setUnit i x).curds = d.curds := rfl
@[simp] theorem Dev.setUnit_vats (d : Dev) (i : Nat) (x : CollUnit) : (d.setUnit i x).vats = d.vats := rfl
@[simp] theorem Dev.setUnit_nis (d : Dev) (i : Nat) (x : CollUnit) : (d.setUnit i x).nis = d.nis := rfl
@[simp] theorem Dev.setUnit_mesh (d : Dev) (i : Nat) (x : CollUnit) : (d.setUnit i x).mesh = d.mesh := rfl
@[simp] theorem Dev.setUnit_ports (d : Dev) (i : Nat) (x : CollUnit) : (d.setUnit i x).ports = d.ports := rfl
@[simp] theorem Dev.setUnit_trees (d : Dev) (i : Nat) (x : CollUnit) : (d.setUnit i x).trees = d.trees := rfl
@[simp] theorem Dev.setUnit_ext (d : Dev) (i : Nat) (x : CollUnit) : (d.setUnit i x).ext = d.ext := rfl
@[simp] theorem Dev.setUnit_parts (d : Dev) (i : Nat) (x : CollUnit) : (d.setUnit i x).parts = d.parts := rfl
@[simp] theorem Dev.setUnit_ctxs (d : Dev) (i : Nat) (x : CollUnit) : (d.setUnit i x).ctxs = d.ctxs := rfl
@[simp] theorem Dev.setUnit_lastGen (d : Dev) (i : Nat) (x : CollUnit) : (d.setUnit i x).lastGen = d.lastGen := rfl
@[simp] theorem Dev.setUnit_fm (d : Dev) (i : Nat) (x : CollUnit) : (d.setUnit i x).fm = d.fm := rfl
@[simp] theorem Dev.setUnit_host (d : Dev) (i : Nat) (x : CollUnit) : (d.setUnit i x).host = d.host := rfl
@[simp] theorem Dev.setUnit_rrc (d : Dev) (i : Nat) (x : CollUnit) : (d.setUnit i x).rrc = d.rrc := rfl
@[simp] theorem Dev.setUnit_flt (d : Dev) (i : Nat) (x : CollUnit) : (d.setUnit i x).flt = d.flt := rfl
@[simp] theorem Dev.setUnit_cave (d : Dev) (i : Nat) (x : CollUnit) : (d.setUnit i x).cave = d.cave := rfl
@[simp] theorem Dev.setUnit_cv (d : Dev) (i : Nat) (x : CollUnit) : (d.setUnit i x).cv = d.cv := rfl
@[simp] theorem Dev.setUnit_sb (d : Dev) (i : Nat) (x : CollUnit) : (d.setUnit i x).sb = d.sb := rfl
@[simp] theorem Dev.setUnit_xlink (d : Dev) (i : Nat) (x : CollUnit) : (d.setUnit i x).xlink = d.xlink := rfl
@[simp] theorem Dev.setUnit_collTmo (d : Dev) (i : Nat) (x : CollUnit) : (d.setUnit i x).collTmo = d.collTmo := rfl
@[simp] theorem Dev.setUnit_free (d : Dev) (i : Nat) (x : CollUnit) : (d.setUnit i x).free = d.free := rfl
@[simp] theorem Dev.setUnit_curd (d : Dev) (i j : Nat) (x : CollUnit) : (d.setUnit i x).curd j = d.curd j := rfl
@[simp] theorem Dev.setUnit_vat (d : Dev) (i j : Nat) (x : CollUnit) : (d.setUnit i x).vat j = d.vat j := rfl
@[simp] theorem Dev.setUnit_ni (d : Dev) (i j : Nat) (x : CollUnit) : (d.setUnit i x).ni j = d.ni j := rfl
@[simp] theorem Dev.setUnit_port (d : Dev) (i j : Nat) (x : CollUnit) : (d.setUnit i x).port j = d.port j := rfl
@[simp] theorem Dev.setUnit_part (d : Dev) (i j : Nat) (x : CollUnit) : (d.setUnit i x).part j = d.part j := rfl
@[simp] theorem Dev.setUnit_ctx (d : Dev) (i j : Nat) (x : CollUnit) : (d.setUnit i x).ctx j = d.ctx j := rfl
@[simp] theorem Dev.setUnit_cvu (d : Dev) (i j : Nat) (x : CollUnit) : (d.setUnit i x).cvu j = d.cvu j := rfl
@[simp] theorem Dev.setUnit_chan (d : Dev) (i j : Nat) (x : CollUnit) : (d.setUnit i x).chan j = d.chan j := rfl
@[simp] theorem Dev.setUnit_func (d : Dev) (i j : Nat) (x : CollUnit) : (d.setUnit i x).func j = d.func j := rfl
@[simp] theorem Dev.setUnit_edge (d : Dev) (i j : Nat) (x : CollUnit) : (d.setUnit i x).edge j = d.edge j := rfl

/-! ## Dev.setPart -/

@[simp] theorem Dev.part_setPart_same (d : Dev) (i : Nat) (x : Part) : (d.setPart i x).part i = x := smGet_set_same _ _ _ _

theorem Dev.part_setPart_other (d : Dev) (i j : Nat) (x : Part) (h : j ≠ i) : (d.setPart i x).part j = d.part j :=
  smGet_set_other _ _ _ _ _ h

@[simp] theorem Dev.setPart_timer (d : Dev) (i : Nat) (x : Part) : (d.setPart i x).timer = d.timer := rfl
@[simp] theorem Dev.setPart_pwr (d : Dev) (i : Nat) (x : Part) : (d.setPart i x).pwr = d.pwr := rfl
@[simp] theorem Dev.setPart_boot (d : Dev) (i : Nat) (x : Part) : (d.setPart i x).boot = d.boot := rfl
@[simp] theorem Dev.setPart_sec (d : Dev) (i : Nat) (x : Part) : (d.setPart i x).sec = d.sec := rfl
@[simp] theorem Dev.setPart_cfg (d : Dev) (i : Nat) (x : Part) : (d.setPart i x).cfg = d.cfg := rfl
@[simp] theorem Dev.setPart_curds (d : Dev) (i : Nat) (x : Part) : (d.setPart i x).curds = d.curds := rfl
@[simp] theorem Dev.setPart_vats (d : Dev) (i : Nat) (x : Part) : (d.setPart i x).vats = d.vats := rfl
@[simp] theorem Dev.setPart_nis (d : Dev) (i : Nat) (x : Part) : (d.setPart i x).nis = d.nis := rfl
@[simp] theorem Dev.setPart_mesh (d : Dev) (i : Nat) (x : Part) : (d.setPart i x).mesh = d.mesh := rfl
@[simp] theorem Dev.setPart_ports (d : Dev) (i : Nat) (x : Part) : (d.setPart i x).ports = d.ports := rfl
@[simp] theorem Dev.setPart_coll (d : Dev) (i : Nat) (x : Part) : (d.setPart i x).coll = d.coll := rfl
@[simp] theorem Dev.setPart_trees (d : Dev) (i : Nat) (x : Part) : (d.setPart i x).trees = d.trees := rfl
@[simp] theorem Dev.setPart_ext (d : Dev) (i : Nat) (x : Part) : (d.setPart i x).ext = d.ext := rfl
@[simp] theorem Dev.setPart_ctxs (d : Dev) (i : Nat) (x : Part) : (d.setPart i x).ctxs = d.ctxs := rfl
@[simp] theorem Dev.setPart_lastGen (d : Dev) (i : Nat) (x : Part) : (d.setPart i x).lastGen = d.lastGen := rfl
@[simp] theorem Dev.setPart_fm (d : Dev) (i : Nat) (x : Part) : (d.setPart i x).fm = d.fm := rfl
@[simp] theorem Dev.setPart_host (d : Dev) (i : Nat) (x : Part) : (d.setPart i x).host = d.host := rfl
@[simp] theorem Dev.setPart_rrc (d : Dev) (i : Nat) (x : Part) : (d.setPart i x).rrc = d.rrc := rfl
@[simp] theorem Dev.setPart_flt (d : Dev) (i : Nat) (x : Part) : (d.setPart i x).flt = d.flt := rfl
@[simp] theorem Dev.setPart_cave (d : Dev) (i : Nat) (x : Part) : (d.setPart i x).cave = d.cave := rfl
@[simp] theorem Dev.setPart_cv (d : Dev) (i : Nat) (x : Part) : (d.setPart i x).cv = d.cv := rfl
@[simp] theorem Dev.setPart_sb (d : Dev) (i : Nat) (x : Part) : (d.setPart i x).sb = d.sb := rfl
@[simp] theorem Dev.setPart_xlink (d : Dev) (i : Nat) (x : Part) : (d.setPart i x).xlink = d.xlink := rfl
@[simp] theorem Dev.setPart_collTmo (d : Dev) (i : Nat) (x : Part) : (d.setPart i x).collTmo = d.collTmo := rfl
@[simp] theorem Dev.setPart_free (d : Dev) (i : Nat) (x : Part) : (d.setPart i x).free = d.free := rfl
@[simp] theorem Dev.setPart_curd (d : Dev) (i j : Nat) (x : Part) : (d.setPart i x).curd j = d.curd j := rfl
@[simp] theorem Dev.setPart_vat (d : Dev) (i j : Nat) (x : Part) : (d.setPart i x).vat j = d.vat j := rfl
@[simp] theorem Dev.setPart_ni (d : Dev) (i j : Nat) (x : Part) : (d.setPart i x).ni j = d.ni j := rfl
@[simp] theorem Dev.setPart_port (d : Dev) (i j : Nat) (x : Part) : (d.setPart i x).port j = d.port j := rfl
@[simp] theorem Dev.setPart_unit (d : Dev) (i j : Nat) (x : Part) : (d.setPart i x).unit j = d.unit j := rfl
@[simp] theorem Dev.setPart_ctx (d : Dev) (i j : Nat) (x : Part) : (d.setPart i x).ctx j = d.ctx j := rfl
@[simp] theorem Dev.setPart_cvu (d : Dev) (i j : Nat) (x : Part) : (d.setPart i x).cvu j = d.cvu j := rfl
@[simp] theorem Dev.setPart_chan (d : Dev) (i j : Nat) (x : Part) : (d.setPart i x).chan j = d.chan j := rfl
@[simp] theorem Dev.setPart_func (d : Dev) (i j : Nat) (x : Part) : (d.setPart i x).func j = d.func j := rfl
@[simp] theorem Dev.setPart_edge (d : Dev) (i j : Nat) (x : Part) : (d.setPart i x).edge j = d.edge j := rfl

/-! ## Dev.setCtx -/

@[simp] theorem Dev.ctx_setCtx_same (d : Dev) (i : Nat) (x : Ctx) : (d.setCtx i x).ctx i = x := smGet_set_same _ _ _ _

theorem Dev.ctx_setCtx_other (d : Dev) (i j : Nat) (x : Ctx) (h : j ≠ i) : (d.setCtx i x).ctx j = d.ctx j :=
  smGet_set_other _ _ _ _ _ h

@[simp] theorem Dev.setCtx_timer (d : Dev) (i : Nat) (x : Ctx) : (d.setCtx i x).timer = d.timer := rfl
@[simp] theorem Dev.setCtx_pwr (d : Dev) (i : Nat) (x : Ctx) : (d.setCtx i x).pwr = d.pwr := rfl
@[simp] theorem Dev.setCtx_boot (d : Dev) (i : Nat) (x : Ctx) : (d.setCtx i x).boot = d.boot := rfl
@[simp] theorem Dev.setCtx_sec (d : Dev) (i : Nat) (x : Ctx) : (d.setCtx i x).sec = d.sec := rfl
@[simp] theorem Dev.setCtx_cfg (d : Dev) (i : Nat) (x : Ctx) : (d.setCtx i x).cfg = d.cfg := rfl
@[simp] theorem Dev.setCtx_curds (d : Dev) (i : Nat) (x : Ctx) : (d.setCtx i x).curds = d.curds := rfl
@[simp] theorem Dev.setCtx_vats (d : Dev) (i : Nat) (x : Ctx) : (d.setCtx i x).vats = d.vats := rfl
@[simp] theorem Dev.setCtx_nis (d : Dev) (i : Nat) (x : Ctx) : (d.setCtx i x).nis = d.nis := rfl
@[simp] theorem Dev.setCtx_mesh (d : Dev) (i : Nat) (x : Ctx) : (d.setCtx i x).mesh = d.mesh := rfl
@[simp] theorem Dev.setCtx_ports (d : Dev) (i : Nat) (x : Ctx) : (d.setCtx i x).ports = d.ports := rfl
@[simp] theorem Dev.setCtx_coll (d : Dev) (i : Nat) (x : Ctx) : (d.setCtx i x).coll = d.coll := rfl
@[simp] theorem Dev.setCtx_trees (d : Dev) (i : Nat) (x : Ctx) : (d.setCtx i x).trees = d.trees := rfl
@[simp] theorem Dev.setCtx_ext (d : Dev) (i : Nat) (x : Ctx) : (d.setCtx i x).ext = d.ext := rfl
@[simp] theorem Dev.setCtx_parts (d : Dev) (i : Nat) (x : Ctx) : (d.setCtx i x).parts = d.parts := rfl
@[simp] theorem Dev.setCtx_lastGen (d : Dev) (i : Nat) (x : Ctx) : (d.setCtx i x).lastGen = d.lastGen := rfl
@[simp] theorem Dev.setCtx_fm (d : Dev) (i : Nat) (x : Ctx) : (d.setCtx i x).fm = d.fm := rfl
@[simp] theorem Dev.setCtx_host (d : Dev) (i : Nat) (x : Ctx) : (d.setCtx i x).host = d.host := rfl
@[simp] theorem Dev.setCtx_rrc (d : Dev) (i : Nat) (x : Ctx) : (d.setCtx i x).rrc = d.rrc := rfl
@[simp] theorem Dev.setCtx_flt (d : Dev) (i : Nat) (x : Ctx) : (d.setCtx i x).flt = d.flt := rfl
@[simp] theorem Dev.setCtx_cave (d : Dev) (i : Nat) (x : Ctx) : (d.setCtx i x).cave = d.cave := rfl
@[simp] theorem Dev.setCtx_cv (d : Dev) (i : Nat) (x : Ctx) : (d.setCtx i x).cv = d.cv := rfl
@[simp] theorem Dev.setCtx_sb (d : Dev) (i : Nat) (x : Ctx) : (d.setCtx i x).sb = d.sb := rfl
@[simp] theorem Dev.setCtx_xlink (d : Dev) (i : Nat) (x : Ctx) : (d.setCtx i x).xlink = d.xlink := rfl
@[simp] theorem Dev.setCtx_collTmo (d : Dev) (i : Nat) (x : Ctx) : (d.setCtx i x).collTmo = d.collTmo := rfl
@[simp] theorem Dev.setCtx_free (d : Dev) (i : Nat) (x : Ctx) : (d.setCtx i x).free = d.free := rfl
@[simp] theorem Dev.setCtx_curd (d : Dev) (i j : Nat) (x : Ctx) : (d.setCtx i x).curd j = d.curd j := rfl
@[simp] theorem Dev.setCtx_vat (d : Dev) (i j : Nat) (x : Ctx) : (d.setCtx i x).vat j = d.vat j := rfl
@[simp] theorem Dev.setCtx_ni (d : Dev) (i j : Nat) (x : Ctx) : (d.setCtx i x).ni j = d.ni j := rfl
@[simp] theorem Dev.setCtx_port (d : Dev) (i j : Nat) (x : Ctx) : (d.setCtx i x).port j = d.port j := rfl
@[simp] theorem Dev.setCtx_unit (d : Dev) (i j : Nat) (x : Ctx) : (d.setCtx i x).unit j = d.unit j := rfl
@[simp] theorem Dev.setCtx_part (d : Dev) (i j : Nat) (x : Ctx) : (d.setCtx i x).part j = d.part j := rfl
@[simp] theorem Dev.setCtx_cvu (d : Dev) (i j : Nat) (x : Ctx) : (d.setCtx i x).cvu j = d.cvu j := rfl
@[simp] theorem Dev.setCtx_chan (d : Dev) (i j : Nat) (x : Ctx) : (d.setCtx i x).chan j = d.chan j := rfl
@[simp] theorem Dev.setCtx_func (d : Dev) (i j : Nat) (x : Ctx) : (d.setCtx i x).func j = d.func j := rfl
@[simp] theorem Dev.setCtx_edge (d : Dev) (i j : Nat) (x : Ctx) : (d.setCtx i x).edge j = d.edge j := rfl

/-! ## Dev.setCvu -/

@[simp] theorem Dev.cvu_setCvu_same (d : Dev) (i : Nat) (x : CvUnit) : (d.setCvu i x).cvu i = x := smGet_set_same _ _ _ _

theorem Dev.cvu_setCvu_other (d : Dev) (i j : Nat) (x : CvUnit) (h : j ≠ i) : (d.setCvu i x).cvu j = d.cvu j :=
  smGet_set_other _ _ _ _ _ h

@[simp] theorem Dev.setCvu_timer (d : Dev) (i : Nat) (x : CvUnit) : (d.setCvu i x).timer = d.timer := rfl
@[simp] theorem Dev.setCvu_pwr (d : Dev) (i : Nat) (x : CvUnit) : (d.setCvu i x).pwr = d.pwr := rfl
@[simp] theorem Dev.setCvu_boot (d : Dev) (i : Nat) (x : CvUnit) : (d.setCvu i x).boot = d.boot := rfl
@[simp] theorem Dev.setCvu_sec (d : Dev) (i : Nat) (x : CvUnit) : (d.setCvu i x).sec = d.sec := rfl
@[simp] theorem Dev.setCvu_cfg (d : Dev) (i : Nat) (x : CvUnit) : (d.setCvu i x).cfg = d.cfg := rfl
@[simp] theorem Dev.setCvu_curds (d : Dev) (i : Nat) (x : CvUnit) : (d.setCvu i x).curds = d.curds := rfl
@[simp] theorem Dev.setCvu_vats (d : Dev) (i : Nat) (x : CvUnit) : (d.setCvu i x).vats = d.vats := rfl
@[simp] theorem Dev.setCvu_nis (d : Dev) (i : Nat) (x : CvUnit) : (d.setCvu i x).nis = d.nis := rfl
@[simp] theorem Dev.setCvu_mesh (d : Dev) (i : Nat) (x : CvUnit) : (d.setCvu i x).mesh = d.mesh := rfl
@[simp] theorem Dev.setCvu_ports (d : Dev) (i : Nat) (x : CvUnit) : (d.setCvu i x).ports = d.ports := rfl
@[simp] theorem Dev.setCvu_coll (d : Dev) (i : Nat) (x : CvUnit) : (d.setCvu i x).coll = d.coll := rfl
@[simp] theorem Dev.setCvu_trees (d : Dev) (i : Nat) (x : CvUnit) : (d.setCvu i x).trees = d.trees := rfl
@[simp] theorem Dev.setCvu_ext (d : Dev) (i : Nat) (x : CvUnit) : (d.setCvu i x).ext = d.ext := rfl
@[simp] theorem Dev.setCvu_parts (d : Dev) (i : Nat) (x : CvUnit) : (d.setCvu i x).parts = d.parts := rfl
@[simp] theorem Dev.setCvu_ctxs (d : Dev) (i : Nat) (x : CvUnit) : (d.setCvu i x).ctxs = d.ctxs := rfl
@[simp] theorem Dev.setCvu_lastGen (d : Dev) (i : Nat) (x : CvUnit) : (d.setCvu i x).lastGen = d.lastGen := rfl
@[simp] theorem Dev.setCvu_fm (d : Dev) (i : Nat) (x : CvUnit) : (d.setCvu i x).fm = d.fm := rfl
@[simp] theorem Dev.setCvu_host (d : Dev) (i : Nat) (x : CvUnit) : (d.setCvu i x).host = d.host := rfl
@[simp] theorem Dev.setCvu_rrc (d : Dev) (i : Nat) (x : CvUnit) : (d.setCvu i x).rrc = d.rrc := rfl
@[simp] theorem Dev.setCvu_flt (d : Dev) (i : Nat) (x : CvUnit) : (d.setCvu i x).flt = d.flt := rfl
@[simp] theorem Dev.setCvu_cave (d : Dev) (i : Nat) (x : CvUnit) : (d.setCvu i x).cave = d.cave := rfl
@[simp] theorem Dev.setCvu_sb (d : Dev) (i : Nat) (x : CvUnit) : (d.setCvu i x).sb = d.sb := rfl
@[simp] theorem Dev.setCvu_xlink (d : Dev) (i : Nat) (x : CvUnit) : (d.setCvu i x).xlink = d.xlink := rfl
@[simp] theorem Dev.setCvu_collTmo (d : Dev) (i : Nat) (x : CvUnit) : (d.setCvu i x).collTmo = d.collTmo := rfl
@[simp] theorem Dev.setCvu_free (d : Dev) (i : Nat) (x : CvUnit) : (d.setCvu i x).free = d.free := rfl
@[simp] theorem Dev.setCvu_curd (d : Dev) (i j : Nat) (x : CvUnit) : (d.setCvu i x).curd j = d.curd j := rfl
@[simp] theorem Dev.setCvu_vat (d : Dev) (i j : Nat) (x : CvUnit) : (d.setCvu i x).vat j = d.vat j := rfl
@[simp] theorem Dev.setCvu_ni (d : Dev) (i j : Nat) (x : CvUnit) : (d.setCvu i x).ni j = d.ni j := rfl
@[simp] theorem Dev.setCvu_port (d : Dev) (i j : Nat) (x : CvUnit) : (d.setCvu i x).port j = d.port j := rfl
@[simp] theorem Dev.setCvu_unit (d : Dev) (i j : Nat) (x : CvUnit) : (d.setCvu i x).unit j = d.unit j := rfl
@[simp] theorem Dev.setCvu_part (d : Dev) (i j : Nat) (x : CvUnit) : (d.setCvu i x).part j = d.part j := rfl
@[simp] theorem Dev.setCvu_ctx (d : Dev) (i j : Nat) (x : CvUnit) : (d.setCvu i x).ctx j = d.ctx j := rfl
@[simp] theorem Dev.setCvu_chan (d : Dev) (i j : Nat) (x : CvUnit) : (d.setCvu i x).chan j = d.chan j := rfl
@[simp] theorem Dev.setCvu_func (d : Dev) (i j : Nat) (x : CvUnit) : (d.setCvu i x).func j = d.func j := rfl
@[simp] theorem Dev.setCvu_edge (d : Dev) (i j : Nat) (x : CvUnit) : (d.setCvu i x).edge j = d.edge j := rfl

/-! ## Dev.setChan -/

@[simp] theorem Dev.chan_setChan_same (d : Dev) (i : Nat) (x : Chan) : (d.setChan i x).chan i = x := smGet_set_same _ _ _ _

theorem Dev.chan_setChan_other (d : Dev) (i j : Nat) (x : Chan) (h : j ≠ i) : (d.setChan i x).chan j = d.chan j :=
  smGet_set_other _ _ _ _ _ h

@[simp] theorem Dev.setChan_timer (d : Dev) (i : Nat) (x : Chan) : (d.setChan i x).timer = d.timer := rfl
@[simp] theorem Dev.setChan_pwr (d : Dev) (i : Nat) (x : Chan) : (d.setChan i x).pwr = d.pwr := rfl
@[simp] theorem Dev.setChan_boot (d : Dev) (i : Nat) (x : Chan) : (d.setChan i x).boot = d.boot := rfl
@[simp] theorem Dev.setChan_sec (d : Dev) (i : Nat) (x : Chan) : (d.setChan i x).sec = d.sec := rfl
@[simp] theorem Dev.setChan_cfg (d : Dev) (i : Nat) (x : Chan) : (d.setChan i x).cfg = d.cfg := rfl
@[simp] theorem Dev.setChan_curds (d : Dev) (i : Nat) (x : Chan) : (d.setChan i x).curds = d.curds := rfl
@[simp] theorem Dev.setChan_vats (d : Dev) (i : Nat) (x : Chan) : (d.setChan i x).vats = d.vats := rfl
@[simp] theorem Dev.setChan_nis (d : Dev) (i : Nat) (x : Chan) : (d.setChan i x).nis = d.nis := rfl
@[simp] theorem Dev.setChan_mesh (d : Dev) (i : Nat) (x : Chan) : (d.setChan i x).mesh = d.mesh := rfl
@[simp] theorem Dev.setChan_ports (d : Dev) (i : Nat) (x : Chan) : (d.setChan i x).ports = d.ports := rfl
@[simp] theorem Dev.setChan_coll (d : Dev) (i : Nat) (x : Chan) : (d.setChan i x).coll = d.coll := rfl
@[simp] theorem Dev.setChan_trees (d : Dev) (i : Nat) (x : Chan) : (d.setChan i x).trees = d.trees := rfl
@[simp] theorem Dev.setChan_parts (d : Dev) (i : Nat) (x : Chan) : (d.setChan i x).parts = d.parts := rfl
@[simp] theorem Dev.setChan_ctxs (d : Dev) (i : Nat) (x : Chan) : (d.setChan i x).ctxs = d.ctxs := rfl
@[simp] theorem Dev.setChan_lastGen (d : Dev) (i : Nat) (x : Chan) : (d.setChan i x).lastGen = d.lastGen := rfl
@[simp] theorem Dev.setChan_fm (d : Dev) (i : Nat) (x : Chan) : (d.setChan i x).fm = d.fm := rfl
@[simp] theorem Dev.setChan_host (d : Dev) (i : Nat) (x : Chan) : (d.setChan i x).host = d.host := rfl
@[simp] theorem Dev.setChan_rrc (d : Dev) (i : Nat) (x : Chan) : (d.setChan i x).rrc = d.rrc := rfl
@[simp] theorem Dev.setChan_flt (d : Dev) (i : Nat) (x : Chan) : (d.setChan i x).flt = d.flt := rfl
@[simp] theorem Dev.setChan_cave (d : Dev) (i : Nat) (x : Chan) : (d.setChan i x).cave = d.cave := rfl
@[simp] theorem Dev.setChan_cv (d : Dev) (i : Nat) (x : Chan) : (d.setChan i x).cv = d.cv := rfl
@[simp] theorem Dev.setChan_sb (d : Dev) (i : Nat) (x : Chan) : (d.setChan i x).sb = d.sb := rfl
@[simp] theorem Dev.setChan_xlink (d : Dev) (i : Nat) (x : Chan) : (d.setChan i x).xlink = d.xlink := rfl
@[simp] theorem Dev.setChan_collTmo (d : Dev) (i : Nat) (x : Chan) : (d.setChan i x).collTmo = d.collTmo := rfl
@[simp] theorem Dev.setChan_free (d : Dev) (i : Nat) (x : Chan) : (d.setChan i x).free = d.free := rfl
@[simp] theorem Dev.setChan_curd (d : Dev) (i j : Nat) (x : Chan) : (d.setChan i x).curd j = d.curd j := rfl
@[simp] theorem Dev.setChan_vat (d : Dev) (i j : Nat) (x : Chan) : (d.setChan i x).vat j = d.vat j := rfl
@[simp] theorem Dev.setChan_ni (d : Dev) (i j : Nat) (x : Chan) : (d.setChan i x).ni j = d.ni j := rfl
@[simp] theorem Dev.setChan_port (d : Dev) (i j : Nat) (x : Chan) : (d.setChan i x).port j = d.port j := rfl
@[simp] theorem Dev.setChan_unit (d : Dev) (i j : Nat) (x : Chan) : (d.setChan i x).unit j = d.unit j := rfl
@[simp] theorem Dev.setChan_part (d : Dev) (i j : Nat) (x : Chan) : (d.setChan i x).part j = d.part j := rfl
@[simp] theorem Dev.setChan_ctx (d : Dev) (i j : Nat) (x : Chan) : (d.setChan i x).ctx j = d.ctx j := rfl
@[simp] theorem Dev.setChan_cvu (d : Dev) (i j : Nat) (x : Chan) : (d.setChan i x).cvu j = d.cvu j := rfl
@[simp] theorem Dev.setChan_func (d : Dev) (i j : Nat) (x : Chan) : (d.setChan i x).func j = d.func j := rfl
@[simp] theorem Dev.setChan_edge (d : Dev) (i j : Nat) (x : Chan) : (d.setChan i x).edge j = d.edge j := rfl

/-! ## Dev.setFunc -/

@[simp] theorem Dev.func_setFunc_same (d : Dev) (i : Nat) (x : Func) : (d.setFunc i x).func i = x := smGet_set_same _ _ _ _

theorem Dev.func_setFunc_other (d : Dev) (i j : Nat) (x : Func) (h : j ≠ i) : (d.setFunc i x).func j = d.func j :=
  smGet_set_other _ _ _ _ _ h

@[simp] theorem Dev.setFunc_timer (d : Dev) (i : Nat) (x : Func) : (d.setFunc i x).timer = d.timer := rfl
@[simp] theorem Dev.setFunc_pwr (d : Dev) (i : Nat) (x : Func) : (d.setFunc i x).pwr = d.pwr := rfl
@[simp] theorem Dev.setFunc_boot (d : Dev) (i : Nat) (x : Func) : (d.setFunc i x).boot = d.boot := rfl
@[simp] theorem Dev.setFunc_sec (d : Dev) (i : Nat) (x : Func) : (d.setFunc i x).sec = d.sec := rfl
@[simp] theorem Dev.setFunc_cfg (d : Dev) (i : Nat) (x : Func) : (d.setFunc i x).cfg = d.cfg := rfl
@[simp] theorem Dev.setFunc_curds (d : Dev) (i : Nat) (x : Func) : (d.setFunc i x).curds = d.curds := rfl
@[simp] theorem Dev.setFunc_vats (d : Dev) (i : Nat) (x : Func) : (d.setFunc i x).vats = d.vats := rfl
@[simp] theorem Dev.setFunc_nis (d : Dev) (i : Nat) (x : Func) : (d.setFunc i x).nis = d.nis := rfl
@[simp] theorem Dev.setFunc_mesh (d : Dev) (i : Nat) (x : Func) : (d.setFunc i x).mesh = d.mesh := rfl
@[simp] theorem Dev.setFunc_ports (d : Dev) (i : Nat) (x : Func) : (d.setFunc i x).ports = d.ports := rfl
@[simp] theorem Dev.setFunc_coll (d : Dev) (i : Nat) (x : Func) : (d.setFunc i x).coll = d.coll := rfl
@[simp] theorem Dev.setFunc_trees (d : Dev) (i : Nat) (x : Func) : (d.setFunc i x).trees = d.trees := rfl
@[simp] theorem Dev.setFunc_ext (d : Dev) (i : Nat) (x : Func) : (d.setFunc i x).ext = d.ext := rfl
@[simp] theorem Dev.setFunc_parts (d : Dev) (i : Nat) (x : Func) : (d.setFunc i x).parts = d.parts := rfl
@[simp] theorem Dev.setFunc_ctxs (d : Dev) (i : Nat) (x : Func) : (d.setFunc i x).ctxs = d.ctxs := rfl
@[simp] theorem Dev.setFunc_lastGen (d : Dev) (i : Nat) (x : Func) : (d.setFunc i x).lastGen = d.lastGen := rfl
@[simp] theorem Dev.setFunc_fm (d : Dev) (i : Nat) (x : Func) : (d.setFunc i x).fm = d.fm := rfl
@[simp] theorem Dev.setFunc_rrc (d : Dev) (i : Nat) (x : Func) : (d.setFunc i x).rrc = d.rrc := rfl
@[simp] theorem Dev.setFunc_flt (d : Dev) (i : Nat) (x : Func) : (d.setFunc i x).flt = d.flt := rfl
@[simp] theorem Dev.setFunc_cave (d : Dev) (i : Nat) (x : Func) : (d.setFunc i x).cave = d.cave := rfl
@[simp] theorem Dev.setFunc_cv (d : Dev) (i : Nat) (x : Func) : (d.setFunc i x).cv = d.cv := rfl
@[simp] theorem Dev.setFunc_sb (d : Dev) (i : Nat) (x : Func) : (d.setFunc i x).sb = d.sb := rfl
@[simp] theorem Dev.setFunc_xlink (d : Dev) (i : Nat) (x : Func) : (d.setFunc i x).xlink = d.xlink := rfl
@[simp] theorem Dev.setFunc_collTmo (d : Dev) (i : Nat) (x : Func) : (d.setFunc i x).collTmo = d.collTmo := rfl
@[simp] theorem Dev.setFunc_free (d : Dev) (i : Nat) (x : Func) : (d.setFunc i x).free = d.free := rfl
@[simp] theorem Dev.setFunc_curd (d : Dev) (i j : Nat) (x : Func) : (d.setFunc i x).curd j = d.curd j := rfl
@[simp] theorem Dev.setFunc_vat (d : Dev) (i j : Nat) (x : Func) : (d.setFunc i x).vat j = d.vat j := rfl
@[simp] theorem Dev.setFunc_ni (d : Dev) (i j : Nat) (x : Func) : (d.setFunc i x).ni j = d.ni j := rfl
@[simp] theorem Dev.setFunc_port (d : Dev) (i j : Nat) (x : Func) : (d.setFunc i x).port j = d.port j := rfl
@[simp] theorem Dev.setFunc_unit (d : Dev) (i j : Nat) (x : Func) : (d.setFunc i x).unit j = d.unit j := rfl
@[simp] theorem Dev.setFunc_part (d : Dev) (i j : Nat) (x : Func) : (d.setFunc i x).part j = d.part j := rfl
@[simp] theorem Dev.setFunc_ctx (d : Dev) (i j : Nat) (x : Func) : (d.setFunc i x).ctx j = d.ctx j := rfl
@[simp] theorem Dev.setFunc_cvu (d : Dev) (i j : Nat) (x : Func) : (d.setFunc i x).cvu j = d.cvu j := rfl
@[simp] theorem Dev.setFunc_chan (d : Dev) (i j : Nat) (x : Func) : (d.setFunc i x).chan j = d.chan j := rfl
@[simp] theorem Dev.setFunc_edge (d : Dev) (i j : Nat) (x : Func) : (d.setFunc i x).edge j = d.edge j := rfl

/-! ## Dev.setEdge -/

@[simp] theorem Dev.edge_setEdge_same (d : Dev) (i : Nat) (x : Edge) : (d.setEdge i x).edge i = x := smGet_set_same _ _ _ _

theorem Dev.edge_setEdge_other (d : Dev) (i j : Nat) (x : Edge) (h : j ≠ i) : (d.setEdge i x).edge j = d.edge j :=
  smGet_set_other _ _ _ _ _ h

@[simp] theorem Dev.setEdge_timer (d : Dev) (i : Nat) (x : Edge) : (d.setEdge i x).timer = d.timer := rfl
@[simp] theorem Dev.setEdge_pwr (d : Dev) (i : Nat) (x : Edge) : (d.setEdge i x).pwr = d.pwr := rfl
@[simp] theorem Dev.setEdge_boot (d : Dev) (i : Nat) (x : Edge) : (d.setEdge i x).boot = d.boot := rfl
@[simp] theorem Dev.setEdge_sec (d : Dev) (i : Nat) (x : Edge) : (d.setEdge i x).sec = d.sec := rfl
@[simp] theorem Dev.setEdge_cfg (d : Dev) (i : Nat) (x : Edge) : (d.setEdge i x).cfg = d.cfg := rfl
@[simp] theorem Dev.setEdge_curds (d : Dev) (i : Nat) (x : Edge) : (d.setEdge i x).curds = d.curds := rfl
@[simp] theorem Dev.setEdge_vats (d : Dev) (i : Nat) (x : Edge) : (d.setEdge i x).vats = d.vats := rfl
@[simp] theorem Dev.setEdge_nis (d : Dev) (i : Nat) (x : Edge) : (d.setEdge i x).nis = d.nis := rfl
@[simp] theorem Dev.setEdge_ports (d : Dev) (i : Nat) (x : Edge) : (d.setEdge i x).ports = d.ports := rfl
@[simp] theorem Dev.setEdge_coll (d : Dev) (i : Nat) (x : Edge) : (d.setEdge i x).coll = d.coll := rfl
@[simp] theorem Dev.setEdge_trees (d : Dev) (i : Nat) (x : Edge) : (d.setEdge i x).trees = d.trees := rfl
@[simp] theorem Dev.setEdge_ext (d : Dev) (i : Nat) (x : Edge) : (d.setEdge i x).ext = d.ext := rfl
@[simp] theorem Dev.setEdge_parts (d : Dev) (i : Nat) (x : Edge) : (d.setEdge i x).parts = d.parts := rfl
@[simp] theorem Dev.setEdge_ctxs (d : Dev) (i : Nat) (x : Edge) : (d.setEdge i x).ctxs = d.ctxs := rfl
@[simp] theorem Dev.setEdge_lastGen (d : Dev) (i : Nat) (x : Edge) : (d.setEdge i x).lastGen = d.lastGen := rfl
@[simp] theorem Dev.setEdge_fm (d : Dev) (i : Nat) (x : Edge) : (d.setEdge i x).fm = d.fm := rfl
@[simp] theorem Dev.setEdge_host (d : Dev) (i : Nat) (x : Edge) : (d.setEdge i x).host = d.host := rfl
@[simp] theorem Dev.setEdge_rrc (d : Dev) (i : Nat) (x : Edge) : (d.setEdge i x).rrc = d.rrc := rfl
@[simp] theorem Dev.setEdge_flt (d : Dev) (i : Nat) (x : Edge) : (d.setEdge i x).flt = d.flt := rfl
@[simp] theorem Dev.setEdge_cave (d : Dev) (i : Nat) (x : Edge) : (d.setEdge i x).cave = d.cave := rfl
@[simp] theorem Dev.setEdge_cv (d : Dev) (i : Nat) (x : Edge) : (d.setEdge i x).cv = d.cv := rfl
@[simp] theorem Dev.setEdge_sb (d : Dev) (i : Nat) (x : Edge) : (d.setEdge i x).sb = d.sb := rfl
@[simp] theorem Dev.setEdge_xlink (d : Dev) (i : Nat) (x : Edge) : (d.setEdge i x).xlink = d.xlink := rfl
@[simp] theorem Dev.setEdge_collTmo (d : Dev) (i : Nat) (x : Edge) : (d.setEdge i x).collTmo = d.collTmo := rfl
@[simp] theorem Dev.setEdge_free (d : Dev) (i : Nat) (x : Edge) : (d.setEdge i x).free = d.free := rfl
@[simp] theorem Dev.setEdge_curd (d : Dev) (i j : Nat) (x : Edge) : (d.setEdge i x).curd j = d.curd j := rfl
@[simp] theorem Dev.setEdge_vat (d : Dev) (i j : Nat) (x : Edge) : (d.setEdge i x).vat j = d.vat j := rfl
@[simp] theorem Dev.setEdge_ni (d : Dev) (i j : Nat) (x : Edge) : (d.setEdge i x).ni j = d.ni j := rfl
@[simp] theorem Dev.setEdge_port (d : Dev) (i j : Nat) (x : Edge) : (d.setEdge i x).port j = d.port j := rfl
@[simp] theorem Dev.setEdge_unit (d : Dev) (i j : Nat) (x : Edge) : (d.setEdge i x).unit j = d.unit j := rfl
@[simp] theorem Dev.setEdge_part (d : Dev) (i j : Nat) (x : Edge) : (d.setEdge i x).part j = d.part j := rfl
@[simp] theorem Dev.setEdge_ctx (d : Dev) (i j : Nat) (x : Edge) : (d.setEdge i x).ctx j = d.ctx j := rfl
@[simp] theorem Dev.setEdge_cvu (d : Dev) (i j : Nat) (x : Edge) : (d.setEdge i x).cvu j = d.cvu j := rfl
@[simp] theorem Dev.setEdge_chan (d : Dev) (i j : Nat) (x : Edge) : (d.setEdge i x).chan j = d.chan j := rfl
@[simp] theorem Dev.setEdge_func (d : Dev) (i j : Nat) (x : Edge) : (d.setEdge i x).func j = d.func j := rfl

/-! ## Dev.raise: only the ring stops of the fault collector change -/

@[simp] theorem Dev.raise_timer (d : Dev) (m : FltMsg) : (d.raise m).timer = d.timer := rfl
@[simp] theorem Dev.raise_pwr (d : Dev) (m : FltMsg) : (d.raise m).pwr = d.pwr := rfl
@[simp] theorem Dev.raise_boot (d : Dev) (m : FltMsg) : (d.raise m).boot = d.boot := rfl
@[simp] theorem Dev.raise_sec (d : Dev) (m : FltMsg) : (d.raise m).sec = d.sec := rfl
@[simp] theorem Dev.raise_cfg (d : Dev) (m : FltMsg) : (d.raise m).cfg = d.cfg := rfl
@[simp] theorem Dev.raise_curds (d : Dev) (m : FltMsg) : (d.raise m).curds = d.curds := rfl
@[simp] theorem Dev.raise_vats (d : Dev) (m : FltMsg) : (d.raise m).vats = d.vats := rfl
@[simp] theorem Dev.raise_nis (d : Dev) (m : FltMsg) : (d.raise m).nis = d.nis := rfl
@[simp] theorem Dev.raise_mesh (d : Dev) (m : FltMsg) : (d.raise m).mesh = d.mesh := rfl
@[simp] theorem Dev.raise_ports (d : Dev) (m : FltMsg) : (d.raise m).ports = d.ports := rfl
@[simp] theorem Dev.raise_coll (d : Dev) (m : FltMsg) : (d.raise m).coll = d.coll := rfl
@[simp] theorem Dev.raise_trees (d : Dev) (m : FltMsg) : (d.raise m).trees = d.trees := rfl
@[simp] theorem Dev.raise_ext (d : Dev) (m : FltMsg) : (d.raise m).ext = d.ext := rfl
@[simp] theorem Dev.raise_parts (d : Dev) (m : FltMsg) : (d.raise m).parts = d.parts := rfl
@[simp] theorem Dev.raise_ctxs (d : Dev) (m : FltMsg) : (d.raise m).ctxs = d.ctxs := rfl
@[simp] theorem Dev.raise_lastGen (d : Dev) (m : FltMsg) : (d.raise m).lastGen = d.lastGen := rfl
@[simp] theorem Dev.raise_fm (d : Dev) (m : FltMsg) : (d.raise m).fm = d.fm := rfl
@[simp] theorem Dev.raise_host (d : Dev) (m : FltMsg) : (d.raise m).host = d.host := rfl
@[simp] theorem Dev.raise_rrc (d : Dev) (m : FltMsg) : (d.raise m).rrc = d.rrc := rfl
@[simp] theorem Dev.raise_cave (d : Dev) (m : FltMsg) : (d.raise m).cave = d.cave := rfl
@[simp] theorem Dev.raise_cv (d : Dev) (m : FltMsg) : (d.raise m).cv = d.cv := rfl
@[simp] theorem Dev.raise_sb (d : Dev) (m : FltMsg) : (d.raise m).sb = d.sb := rfl
@[simp] theorem Dev.raise_xlink (d : Dev) (m : FltMsg) : (d.raise m).xlink = d.xlink := rfl
@[simp] theorem Dev.raise_collTmo (d : Dev) (m : FltMsg) : (d.raise m).collTmo = d.collTmo := rfl
@[simp] theorem Dev.raise_free (d : Dev) (m : FltMsg) : (d.raise m).free = d.free := rfl
@[simp] theorem Dev.raise_curd (d : Dev) (m : FltMsg) (j : Nat) : (d.raise m).curd j = d.curd j := rfl
@[simp] theorem Dev.raise_vat (d : Dev) (m : FltMsg) (j : Nat) : (d.raise m).vat j = d.vat j := rfl
@[simp] theorem Dev.raise_ni (d : Dev) (m : FltMsg) (j : Nat) : (d.raise m).ni j = d.ni j := rfl
@[simp] theorem Dev.raise_port (d : Dev) (m : FltMsg) (j : Nat) : (d.raise m).port j = d.port j := rfl
@[simp] theorem Dev.raise_unit (d : Dev) (m : FltMsg) (j : Nat) : (d.raise m).unit j = d.unit j := rfl
@[simp] theorem Dev.raise_part (d : Dev) (m : FltMsg) (j : Nat) : (d.raise m).part j = d.part j := rfl
@[simp] theorem Dev.raise_ctx (d : Dev) (m : FltMsg) (j : Nat) : (d.raise m).ctx j = d.ctx j := rfl
@[simp] theorem Dev.raise_cvu (d : Dev) (m : FltMsg) (j : Nat) : (d.raise m).cvu j = d.cvu j := rfl
@[simp] theorem Dev.raise_chan (d : Dev) (m : FltMsg) (j : Nat) : (d.raise m).chan j = d.chan j := rfl
@[simp] theorem Dev.raise_func (d : Dev) (m : FltMsg) (j : Nat) : (d.raise m).func j = d.func j := rfl
@[simp] theorem Dev.raise_edge (d : Dev) (m : FltMsg) (j : Nat) : (d.raise m).edge j = d.edge j := rfl
@[simp] theorem Dev.raise_flt_list (d : Dev) (m : FltMsg) : (d.raise m).flt.list = d.flt.list := rfl
@[simp] theorem Dev.raise_flt_sev (d : Dev) (m : FltMsg) : (d.raise m).flt.sev = d.flt.sev := rfl
@[simp] theorem Dev.raise_flt_cfg (d : Dev) (m : FltMsg) : (d.raise m).flt.cfg = d.flt.cfg := rfl
@[simp] theorem Dev.raise_flt_overflow (d : Dev) (m : FltMsg) : (d.raise m).flt.overflow = d.flt.overflow := rfl
@[simp] theorem Dev.raise_flt_recoveries (d : Dev) (m : FltMsg) : (d.raise m).flt.recoveries = d.flt.recoveries := rfl
@[simp] theorem Dev.raise_flt_loaded (d : Dev) (m : FltMsg) : (d.raise m).flt.loaded = d.flt.loaded := rfl
@[simp] theorem Dev.raise_flt_lostStops (d : Dev) (m : FltMsg) : (d.raise m).flt.lostStops = d.flt.lostStops := rfl
@[simp] theorem Dev.raise_flt_made (d : Dev) (m : FltMsg) : (d.raise m).flt.made = d.flt.made := rfl
@[simp] theorem Dev.raiseVat_timer (d : Dev) (node kind unit addr : Nat) : (d.raiseVat node kind unit addr).timer = d.timer := rfl
@[simp] theorem Dev.raiseVat_pwr (d : Dev) (node kind unit addr : Nat) : (d.raiseVat node kind unit addr).pwr = d.pwr := rfl
@[simp] theorem Dev.raiseVat_boot (d : Dev) (node kind unit addr : Nat) : (d.raiseVat node kind unit addr).boot = d.boot := rfl
@[simp] theorem Dev.raiseVat_sec (d : Dev) (node kind unit addr : Nat) : (d.raiseVat node kind unit addr).sec = d.sec := rfl
@[simp] theorem Dev.raiseVat_cfg (d : Dev) (node kind unit addr : Nat) : (d.raiseVat node kind unit addr).cfg = d.cfg := rfl
@[simp] theorem Dev.raiseVat_curds (d : Dev) (node kind unit addr : Nat) : (d.raiseVat node kind unit addr).curds = d.curds := rfl
@[simp] theorem Dev.raiseVat_vats (d : Dev) (node kind unit addr : Nat) : (d.raiseVat node kind unit addr).vats = d.vats := rfl
@[simp] theorem Dev.raiseVat_nis (d : Dev) (node kind unit addr : Nat) : (d.raiseVat node kind unit addr).nis = d.nis := rfl
@[simp] theorem Dev.raiseVat_mesh (d : Dev) (node kind unit addr : Nat) : (d.raiseVat node kind unit addr).mesh = d.mesh := rfl
@[simp] theorem Dev.raiseVat_ports (d : Dev) (node kind unit addr : Nat) : (d.raiseVat node kind unit addr).ports = d.ports := rfl
@[simp] theorem Dev.raiseVat_coll (d : Dev) (node kind unit addr : Nat) : (d.raiseVat node kind unit addr).coll = d.coll := rfl
@[simp] theorem Dev.raiseVat_trees (d : Dev) (node kind unit addr : Nat) : (d.raiseVat node kind unit addr).trees = d.trees := rfl
@[simp] theorem Dev.raiseVat_ext (d : Dev) (node kind unit addr : Nat) : (d.raiseVat node kind unit addr).ext = d.ext := rfl
@[simp] theorem Dev.raiseVat_parts (d : Dev) (node kind unit addr : Nat) : (d.raiseVat node kind unit addr).parts = d.parts := rfl
@[simp] theorem Dev.raiseVat_ctxs (d : Dev) (node kind unit addr : Nat) : (d.raiseVat node kind unit addr).ctxs = d.ctxs := rfl
@[simp] theorem Dev.raiseVat_lastGen (d : Dev) (node kind unit addr : Nat) : (d.raiseVat node kind unit addr).lastGen = d.lastGen := rfl
@[simp] theorem Dev.raiseVat_fm (d : Dev) (node kind unit addr : Nat) : (d.raiseVat node kind unit addr).fm = d.fm := rfl
@[simp] theorem Dev.raiseVat_host (d : Dev) (node kind unit addr : Nat) : (d.raiseVat node kind unit addr).host = d.host := rfl
@[simp] theorem Dev.raiseVat_rrc (d : Dev) (node kind unit addr : Nat) : (d.raiseVat node kind unit addr).rrc = d.rrc := rfl
@[simp] theorem Dev.raiseVat_cave (d : Dev) (node kind unit addr : Nat) : (d.raiseVat node kind unit addr).cave = d.cave := rfl
@[simp] theorem Dev.raiseVat_cv (d : Dev) (node kind unit addr : Nat) : (d.raiseVat node kind unit addr).cv = d.cv := rfl
@[simp] theorem Dev.raiseVat_sb (d : Dev) (node kind unit addr : Nat) : (d.raiseVat node kind unit addr).sb = d.sb := rfl
@[simp] theorem Dev.raiseVat_xlink (d : Dev) (node kind unit addr : Nat) : (d.raiseVat node kind unit addr).xlink = d.xlink := rfl
@[simp] theorem Dev.raiseVat_collTmo (d : Dev) (node kind unit addr : Nat) : (d.raiseVat node kind unit addr).collTmo = d.collTmo := rfl
@[simp] theorem Dev.raiseVat_free (d : Dev) (node kind unit addr : Nat) : (d.raiseVat node kind unit addr).free = d.free := rfl
@[simp] theorem Dev.raiseVat_curd (d : Dev) (node kind unit addr j : Nat) : (d.raiseVat node kind unit addr).curd j = d.curd j := rfl
@[simp] theorem Dev.raiseVat_vat (d : Dev) (node kind unit addr j : Nat) : (d.raiseVat node kind unit addr).vat j = d.vat j := rfl
@[simp] theorem Dev.raiseVat_ni (d : Dev) (node kind unit addr j : Nat) : (d.raiseVat node kind unit addr).ni j = d.ni j := rfl
@[simp] theorem Dev.raiseVat_port (d : Dev) (node kind unit addr j : Nat) : (d.raiseVat node kind unit addr).port j = d.port j := rfl
@[simp] theorem Dev.raiseVat_unit (d : Dev) (node kind unit addr j : Nat) : (d.raiseVat node kind unit addr).unit j = d.unit j := rfl
@[simp] theorem Dev.raiseVat_part (d : Dev) (node kind unit addr j : Nat) : (d.raiseVat node kind unit addr).part j = d.part j := rfl
@[simp] theorem Dev.raiseVat_ctx (d : Dev) (node kind unit addr j : Nat) : (d.raiseVat node kind unit addr).ctx j = d.ctx j := rfl
@[simp] theorem Dev.raiseVat_cvu (d : Dev) (node kind unit addr j : Nat) : (d.raiseVat node kind unit addr).cvu j = d.cvu j := rfl
@[simp] theorem Dev.raiseVat_chan (d : Dev) (node kind unit addr j : Nat) : (d.raiseVat node kind unit addr).chan j = d.chan j := rfl
@[simp] theorem Dev.raiseVat_func (d : Dev) (node kind unit addr j : Nat) : (d.raiseVat node kind unit addr).func j = d.func j := rfl
@[simp] theorem Dev.raiseVat_edge (d : Dev) (node kind unit addr j : Nat) : (d.raiseVat node kind unit addr).edge j = d.edge j := rfl

/-! ## Dev.draw: only the count of free values moves on -/

@[simp] theorem Dev.draw_timer (d : Dev) : d.draw.2.timer = d.timer := rfl
@[simp] theorem Dev.draw_pwr (d : Dev) : d.draw.2.pwr = d.pwr := rfl
@[simp] theorem Dev.draw_boot (d : Dev) : d.draw.2.boot = d.boot := rfl
@[simp] theorem Dev.draw_sec (d : Dev) : d.draw.2.sec = d.sec := rfl
@[simp] theorem Dev.draw_cfg (d : Dev) : d.draw.2.cfg = d.cfg := rfl
@[simp] theorem Dev.draw_curds (d : Dev) : d.draw.2.curds = d.curds := rfl
@[simp] theorem Dev.draw_vats (d : Dev) : d.draw.2.vats = d.vats := rfl
@[simp] theorem Dev.draw_nis (d : Dev) : d.draw.2.nis = d.nis := rfl
@[simp] theorem Dev.draw_mesh (d : Dev) : d.draw.2.mesh = d.mesh := rfl
@[simp] theorem Dev.draw_ports (d : Dev) : d.draw.2.ports = d.ports := rfl
@[simp] theorem Dev.draw_coll (d : Dev) : d.draw.2.coll = d.coll := rfl
@[simp] theorem Dev.draw_trees (d : Dev) : d.draw.2.trees = d.trees := rfl
@[simp] theorem Dev.draw_ext (d : Dev) : d.draw.2.ext = d.ext := rfl
@[simp] theorem Dev.draw_parts (d : Dev) : d.draw.2.parts = d.parts := rfl
@[simp] theorem Dev.draw_ctxs (d : Dev) : d.draw.2.ctxs = d.ctxs := rfl
@[simp] theorem Dev.draw_lastGen (d : Dev) : d.draw.2.lastGen = d.lastGen := rfl
@[simp] theorem Dev.draw_fm (d : Dev) : d.draw.2.fm = d.fm := rfl
@[simp] theorem Dev.draw_host (d : Dev) : d.draw.2.host = d.host := rfl
@[simp] theorem Dev.draw_rrc (d : Dev) : d.draw.2.rrc = d.rrc := rfl
@[simp] theorem Dev.draw_flt (d : Dev) : d.draw.2.flt = d.flt := rfl
@[simp] theorem Dev.draw_cave (d : Dev) : d.draw.2.cave = d.cave := rfl
@[simp] theorem Dev.draw_cv (d : Dev) : d.draw.2.cv = d.cv := rfl
@[simp] theorem Dev.draw_sb (d : Dev) : d.draw.2.sb = d.sb := rfl
@[simp] theorem Dev.draw_xlink (d : Dev) : d.draw.2.xlink = d.xlink := rfl
@[simp] theorem Dev.draw_collTmo (d : Dev) : d.draw.2.collTmo = d.collTmo := rfl
@[simp] theorem Dev.draw_free (d : Dev) : d.draw.2.free = d.free + 1 := rfl

/-! ## Curd registers (03_curd_core.md R71, R72) -/

/-- g0 reads as 0. -/
@[simp] theorem CurdRegs.getG_zero (r : CurdRegs) : r.getG 0 = 0 := rfl

/-- A write to g0 is discarded. -/
@[simp] theorem CurdRegs.setG_zero (r : CurdRegs) (x : Word) : r.setG 0 x = r := rfl

theorem CurdRegs.getG_setG (r : CurdRegs) (i j : Reg) (x : Word) :
    (r.setG i x).getG j = if j = i ∧ i ≠ 0 then x else r.getG j := by
  by_cases hi : i = 0
  · rw [hi, CurdRegs.setG_zero, if_neg (fun h => h.2 rfl)]
  · have hset : r.setG i x = { r with g := smSet 0 r.g i.toNat x } := if_neg hi
    rw [hset]
    by_cases hj : j = i
    · rw [if_pos ⟨hj, hi⟩, hj]
      exact (if_neg hi).trans (smGet_set_same _ _ _ _)
    · rw [if_neg (fun h => hj h.1)]
      unfold CurdRegs.getG
      have hn : j.toNat ≠ i.toNat := fun h => hj (BitVec.eq_of_toNat_eq h)
      rw [smGet_set_other 0 r.g i.toNat j.toNat x hn]

@[simp] theorem CurdRegs.setG_pc (r : CurdRegs) (i : Reg) (x : Word) : (r.setG i x).pc = r.pc := by unfold CurdRegs.setG; split <;> rfl
@[simp] theorem CurdRegs.setG_v (r : CurdRegs) (i : Reg) (x : Word) : (r.setG i x).v = r.v := by unfold CurdRegs.setG; split <;> rfl
@[simp] theorem CurdRegs.setG_acc (r : CurdRegs) (i : Reg) (x : Word) : (r.setG i x).acc = r.acc := by unfold CurdRegs.setG; split <;> rfl
@[simp] theorem CurdRegs.setG_kval (r : CurdRegs) (i : Reg) (x : Word) : (r.setG i x).kval = r.kval := by unfold CurdRegs.setG; split <;> rfl
@[simp] theorem CurdRegs.setG_kcode (r : CurdRegs) (i : Reg) (x : Word) : (r.setG i x).kcode = r.kcode := by unfold CurdRegs.setG; split <;> rfl
@[simp] theorem CurdRegs.setG_rng0 (r : CurdRegs) (i : Reg) (x : Word) : (r.setG i x).rng0 = r.rng0 := by unfold CurdRegs.setG; split <;> rfl
@[simp] theorem CurdRegs.setG_rng1 (r : CurdRegs) (i : Reg) (x : Word) : (r.setG i x).rng1 = r.rng1 := by unfold CurdRegs.setG; split <;> rfl
@[simp] theorem CurdRegs.setG_perf (r : CurdRegs) (i : Reg) (x : Word) : (r.setG i x).perf = r.perf := by unfold CurdRegs.setG; split <;> rfl
@[simp] theorem CurdRegs.setG_fault (r : CurdRegs) (i : Reg) (x : Word) : (r.setG i x).fault = r.fault := by unfold CurdRegs.setG; split <;> rfl
@[simp] theorem CurdRegs.setG_faultAddr (r : CurdRegs) (i : Reg) (x : Word) : (r.setG i x).faultAddr = r.faultAddr := by unfold CurdRegs.setG; split <;> rfl
@[simp] theorem CurdRegs.setG_id (r : CurdRegs) (i : Reg) (x : Word) : (r.setG i x).id = r.id := by unfold CurdRegs.setG; split <;> rfl
@[simp] theorem CurdRegs.setG_ovf (r : CurdRegs) (i : Reg) (x : Word) : (r.setG i x).ovf = r.ovf := by unfold CurdRegs.setG; split <;> rfl
@[simp] theorem CurdRegs.setV_pc (r : CurdRegs) (i : VReg) (x : List Word32) : (r.setV i x).pc = r.pc := rfl
@[simp] theorem CurdRegs.setV_g (r : CurdRegs) (i : VReg) (x : List Word32) : (r.setV i x).g = r.g := rfl
@[simp] theorem CurdRegs.setV_acc (r : CurdRegs) (i : VReg) (x : List Word32) : (r.setV i x).acc = r.acc := rfl
@[simp] theorem CurdRegs.setV_kval (r : CurdRegs) (i : VReg) (x : List Word32) : (r.setV i x).kval = r.kval := rfl
@[simp] theorem CurdRegs.setV_kcode (r : CurdRegs) (i : VReg) (x : List Word32) : (r.setV i x).kcode = r.kcode := rfl
@[simp] theorem CurdRegs.setV_rng0 (r : CurdRegs) (i : VReg) (x : List Word32) : (r.setV i x).rng0 = r.rng0 := rfl
@[simp] theorem CurdRegs.setV_rng1 (r : CurdRegs) (i : VReg) (x : List Word32) : (r.setV i x).rng1 = r.rng1 := rfl
@[simp] theorem CurdRegs.setV_perf (r : CurdRegs) (i : VReg) (x : List Word32) : (r.setV i x).perf = r.perf := rfl
@[simp] theorem CurdRegs.setV_fault (r : CurdRegs) (i : VReg) (x : List Word32) : (r.setV i x).fault = r.fault := rfl
@[simp] theorem CurdRegs.setV_faultAddr (r : CurdRegs) (i : VReg) (x : List Word32) : (r.setV i x).faultAddr = r.faultAddr := rfl
@[simp] theorem CurdRegs.setV_id (r : CurdRegs) (i : VReg) (x : List Word32) : (r.setV i x).id = r.id := rfl
@[simp] theorem CurdRegs.setV_ovf (r : CurdRegs) (i : VReg) (x : List Word32) : (r.setV i x).ovf = r.ovf := rfl
@[simp] theorem CurdRegs.setTile_pc (r : CurdRegs) (i : Nat) (x : List Word32) : (r.setTile i x).pc = r.pc := rfl
@[simp] theorem CurdRegs.setTile_g (r : CurdRegs) (i : Nat) (x : List Word32) : (r.setTile i x).g = r.g := rfl
@[simp] theorem CurdRegs.setTile_v (r : CurdRegs) (i : Nat) (x : List Word32) : (r.setTile i x).v = r.v := rfl
@[simp] theorem CurdRegs.setTile_kval (r : CurdRegs) (i : Nat) (x : List Word32) : (r.setTile i x).kval = r.kval := rfl
@[simp] theorem CurdRegs.setTile_kcode (r : CurdRegs) (i : Nat) (x : List Word32) : (r.setTile i x).kcode = r.kcode := rfl
@[simp] theorem CurdRegs.setTile_rng0 (r : CurdRegs) (i : Nat) (x : List Word32) : (r.setTile i x).rng0 = r.rng0 := rfl
@[simp] theorem CurdRegs.setTile_rng1 (r : CurdRegs) (i : Nat) (x : List Word32) : (r.setTile i x).rng1 = r.rng1 := rfl
@[simp] theorem CurdRegs.setTile_perf (r : CurdRegs) (i : Nat) (x : List Word32) : (r.setTile i x).perf = r.perf := rfl
@[simp] theorem CurdRegs.setTile_fault (r : CurdRegs) (i : Nat) (x : List Word32) : (r.setTile i x).fault = r.fault := rfl
@[simp] theorem CurdRegs.setTile_faultAddr (r : CurdRegs) (i : Nat) (x : List Word32) : (r.setTile i x).faultAddr = r.faultAddr := rfl
@[simp] theorem CurdRegs.setTile_id (r : CurdRegs) (i : Nat) (x : List Word32) : (r.setTile i x).id = r.id := rfl
@[simp] theorem CurdRegs.setTile_ovf (r : CurdRegs) (i : Nat) (x : List Word32) : (r.setTile i x).ovf = r.ovf := rfl
@[simp] theorem CurdRegs.perfAdd_pc (r : CurdRegs) (i x : Nat) : (r.perfAdd i x).pc = r.pc := rfl
@[simp] theorem CurdRegs.perfAdd_g (r : CurdRegs) (i x : Nat) : (r.perfAdd i x).g = r.g := rfl
@[simp] theorem CurdRegs.perfAdd_v (r : CurdRegs) (i x : Nat) : (r.perfAdd i x).v = r.v := rfl
@[simp] theorem CurdRegs.perfAdd_acc (r : CurdRegs) (i x : Nat) : (r.perfAdd i x).acc = r.acc := rfl
@[simp] theorem CurdRegs.perfAdd_kval (r : CurdRegs) (i x : Nat) : (r.perfAdd i x).kval = r.kval := rfl
@[simp] theorem CurdRegs.perfAdd_kcode (r : CurdRegs) (i x : Nat) : (r.perfAdd i x).kcode = r.kcode := rfl
@[simp] theorem CurdRegs.perfAdd_rng0 (r : CurdRegs) (i x : Nat) : (r.perfAdd i x).rng0 = r.rng0 := rfl
@[simp] theorem CurdRegs.perfAdd_rng1 (r : CurdRegs) (i x : Nat) : (r.perfAdd i x).rng1 = r.rng1 := rfl
@[simp] theorem CurdRegs.perfAdd_fault (r : CurdRegs) (i x : Nat) : (r.perfAdd i x).fault = r.fault := rfl
@[simp] theorem CurdRegs.perfAdd_faultAddr (r : CurdRegs) (i x : Nat) : (r.perfAdd i x).faultAddr = r.faultAddr := rfl
@[simp] theorem CurdRegs.perfAdd_id (r : CurdRegs) (i x : Nat) : (r.perfAdd i x).id = r.id := rfl
@[simp] theorem CurdRegs.perfAdd_ovf (r : CurdRegs) (i x : Nat) : (r.perfAdd i x).ovf = r.ovf := rfl

end Sys2Proof.Machine
end

