-- ==== Sys2Proof/Laws/Ops.lean ====
section
/-! SUPPORT. Shared operations, each said once: which part of the module it may change (its frame equation), and from it
every other field; what a fault makes of a curd; what local data memory gives back. -/

namespace Sys2Proof.Machine

/-! ## Doorbells and events: the host side alone changes -/

theorem Dev.doorbell_frame (d : Dev) (f k : Nat) (w : Word32) :
    d.doorbell f k w = { d with host := (d.doorbell f k w).host } := by
  unfold Dev.doorbell
  dsimp only
  split <;> rfl

@[simp] theorem Dev.doorbell_timer (d : Dev) (f k : Nat) (w : Word32) : (d.doorbell f k w).timer = d.timer := by rw [Dev.doorbell_frame]
@[simp] theorem Dev.doorbell_pwr (d : Dev) (f k : Nat) (w : Word32) : (d.doorbell f k w).pwr = d.pwr := by rw [Dev.doorbell_frame]
@[simp] theorem Dev.doorbell_boot (d : Dev) (f k : Nat) (w : Word32) : (d.doorbell f k w).boot = d.boot := by rw [Dev.doorbell_frame]
@[simp] theorem Dev.doorbell_sec (d : Dev) (f k : Nat) (w : Word32) : (d.doorbell f k w).sec = d.sec := by rw [Dev.doorbell_frame]
@[simp] theorem Dev.doorbell_cfg (d : Dev) (f k : Nat) (w : Word32) : (d.doorbell f k w).cfg = d.cfg := by rw [Dev.doorbell_frame]
@[simp] theorem Dev.doorbell_curds (d : Dev) (f k : Nat) (w : Word32) : (d.doorbell f k w).curds = d.curds := by rw [Dev.doorbell_frame]
@[simp] theorem Dev.doorbell_vats (d : Dev) (f k : Nat) (w : Word32) : (d.doorbell f k w).vats = d.vats := by rw [Dev.doorbell_frame]
@[simp] theorem Dev.doorbell_nis (d : Dev) (f k : Nat) (w : Word32) : (d.doorbell f k w).nis = d.nis := by rw [Dev.doorbell_frame]
@[simp] theorem Dev.doorbell_mesh (d : Dev) (f k : Nat) (w : Word32) : (d.doorbell f k w).mesh = d.mesh := by rw [Dev.doorbell_frame]
@[simp] theorem Dev.doorbell_ports (d : Dev) (f k : Nat) (w : Word32) : (d.doorbell f k w).ports = d.ports := by rw [Dev.doorbell_frame]
@[simp] theorem Dev.doorbell_coll (d : Dev) (f k : Nat) (w : Word32) : (d.doorbell f k w).coll = d.coll := by rw [Dev.doorbell_frame]
@[simp] theorem Dev.doorbell_trees (d : Dev) (f k : Nat) (w : Word32) : (d.doorbell f k w).trees = d.trees := by rw [Dev.doorbell_frame]
@[simp] theorem Dev.doorbell_ext (d : Dev) (f k : Nat) (w : Word32) : (d.doorbell f k w).ext = d.ext := by rw [Dev.doorbell_frame]
@[simp] theorem Dev.doorbell_parts (d : Dev) (f k : Nat) (w : Word32) : (d.doorbell f k w).parts = d.parts := by rw [Dev.doorbell_frame]
@[simp] theorem Dev.doorbell_ctxs (d : Dev) (f k : Nat) (w : Word32) : (d.doorbell f k w).ctxs = d.ctxs := by rw [Dev.doorbell_frame]
@[simp] theorem Dev.doorbell_lastGen (d : Dev) (f k : Nat) (w : Word32) : (d.doorbell f k w).lastGen = d.lastGen := by rw [Dev.doorbell_frame]
@[simp] theorem Dev.doorbell_fm (d : Dev) (f k : Nat) (w : Word32) : (d.doorbell f k w).fm = d.fm := by rw [Dev.doorbell_frame]
@[simp] theorem Dev.doorbell_rrc (d : Dev) (f k : Nat) (w : Word32) : (d.doorbell f k w).rrc = d.rrc := by rw [Dev.doorbell_frame]
@[simp] theorem Dev.doorbell_flt (d : Dev) (f k : Nat) (w : Word32) : (d.doorbell f k w).flt = d.flt := by rw [Dev.doorbell_frame]
@[simp] theorem Dev.doorbell_cave (d : Dev) (f k : Nat) (w : Word32) : (d.doorbell f k w).cave = d.cave := by rw [Dev.doorbell_frame]
@[simp] theorem Dev.doorbell_cv (d : Dev) (f k : Nat) (w : Word32) : (d.doorbell f k w).cv = d.cv := by rw [Dev.doorbell_frame]
@[simp] theorem Dev.doorbell_sb (d : Dev) (f k : Nat) (w : Word32) : (d.doorbell f k w).sb = d.sb := by rw [Dev.doorbell_frame]
@[simp] theorem Dev.doorbell_xlink (d : Dev) (f k : Nat) (w : Word32) : (d.doorbell f k w).xlink = d.xlink := by rw [Dev.doorbell_frame]
@[simp] theorem Dev.doorbell_collTmo (d : Dev) (f k : Nat) (w : Word32) : (d.doorbell f k w).collTmo = d.collTmo := by rw [Dev.doorbell_frame]
@[simp] theorem Dev.doorbell_free (d : Dev) (f k : Nat) (w : Word32) : (d.doorbell f k w).free = d.free := by rw [Dev.doorbell_frame]
@[simp] theorem Dev.doorbell_curd (d : Dev) (f k : Nat) (w : Word32) (j : Nat) : (d.doorbell f k w).curd j = d.curd j := by rw [Dev.doorbell_frame]; rfl
@[simp] theorem Dev.doorbell_vat (d : Dev) (f k : Nat) (w : Word32) (j : Nat) : (d.doorbell f k w).vat j = d.vat j := by rw [Dev.doorbell_frame]; rfl
@[simp] theorem Dev.doorbell_ni (d : Dev) (f k : Nat) (w : Word32) (j : Nat) : (d.doorbell f k w).ni j = d.ni j := by rw [Dev.doorbell_frame]; rfl
@[simp] theorem Dev.doorbell_port (d : Dev) (f k : Nat) (w : Word32) (j : Nat) : (d.doorbell f k w).port j = d.port j := by rw [Dev.doorbell_frame]; rfl
@[simp] theorem Dev.doorbell_unit (d : Dev) (f k : Nat) (w : Word32) (j : Nat) : (d.doorbell f k w).unit j = d.unit j := by rw [Dev.doorbell_frame]; rfl
@[simp] theorem Dev.doorbell_part (d : Dev) (f k : Nat) (w : Word32) (j : Nat) : (d.doorbell f k w).part j = d.part j := by rw [Dev.doorbell_frame]; rfl
@[simp] theorem Dev.doorbell_ctx (d : Dev) (f k : Nat) (w : Word32) (j : Nat) : (d.doorbell f k w).ctx j = d.ctx j := by rw [Dev.doorbell_frame]; rfl
@[simp] theorem Dev.doorbell_cvu (d : Dev) (f k : Nat) (w : Word32) (j : Nat) : (d.doorbell f k w).cvu j = d.cvu j := by rw [Dev.doorbell_frame]; rfl
@[simp] theorem Dev.doorbell_chan (d : Dev) (f k : Nat) (w : Word32) (j : Nat) : (d.doorbell f k w).chan j = d.chan j := by rw [Dev.doorbell_frame]; rfl
@[simp] theorem Dev.doorbell_edge (d : Dev) (f k : Nat) (w : Word32) (j : Nat) : (d.doorbell f k w).edge j = d.edge j := by rw [Dev.doorbell_frame]; rfl

theorem Dev.eventAt_frame (d : Dev) (f b : Nat) : d.eventAt f b = { d with host := (d.eventAt f b).host } :=
  Dev.doorbell_frame _ _ _ _

@[simp] theorem Dev.eventAt_timer (d : Dev) (f b : Nat) : (d.eventAt f b).timer = d.timer := by rw [Dev.eventAt_frame]
@[simp] theorem Dev.eventAt_pwr (d : Dev) (f b : Nat) : (d.eventAt f b).pwr = d.pwr := by rw [Dev.eventAt_frame]
@[simp] theorem Dev.eventAt_boot (d : Dev) (f b : Nat) : (d.eventAt f b).boot = d.boot := by rw [Dev.eventAt_frame]
@[simp] theorem Dev.eventAt_sec (d : Dev) (f b : Nat) : (d.eventAt f b).sec = d.sec := by rw [Dev.eventAt_frame]
@[simp] theorem Dev.eventAt_cfg (d : Dev) (f b : Nat) : (d.eventAt f b).cfg = d.cfg := by rw [Dev.eventAt_frame]
@[simp] theorem Dev.eventAt_curds (d : Dev) (f b : Nat) : (d.eventAt f b).curds = d.curds := by rw [Dev.eventAt_frame]
@[simp] theorem Dev.eventAt_vats (d : Dev) (f b : Nat) : (d.eventAt f b).vats = d.vats := by rw [Dev.eventAt_frame]
@[simp] theorem Dev.eventAt_nis (d : Dev) (f b : Nat) : (d.eventAt f b).nis = d.nis := by rw [Dev.eventAt_frame]
@[simp] theorem Dev.eventAt_mesh (d : Dev) (f b : Nat) : (d.eventAt f b).mesh = d.mesh := by rw [Dev.eventAt_frame]
@[simp] theorem Dev.eventAt_ports (d : Dev) (f b : Nat) : (d.eventAt f b).ports = d.ports := by rw [Dev.eventAt_frame]
@[simp] theorem Dev.eventAt_coll (d : Dev) (f b : Nat) : (d.eventAt f b).coll = d.coll := by rw [Dev.eventAt_frame]
@[simp] theorem Dev.eventAt_trees (d : Dev) (f b : Nat) : (d.eventAt f b).trees = d.trees := by rw [Dev.eventAt_frame]
@[simp] theorem Dev.eventAt_ext (d : Dev) (f b : Nat) : (d.eventAt f b).ext = d.ext := by rw [Dev.eventAt_frame]
@[simp] theorem Dev.eventAt_parts (d : Dev) (f b : Nat) : (d.eventAt f b).parts = d.parts := by rw [Dev.eventAt_frame]
@[simp] theorem Dev.eventAt_ctxs (d : Dev) (f b : Nat) : (d.eventAt f b).ctxs = d.ctxs := by rw [Dev.eventAt_frame]
@[simp] theorem Dev.eventAt_lastGen (d : Dev) (f b : Nat) : (d.eventAt f b).lastGen = d.lastGen := by rw [Dev.eventAt_frame]
@[simp] theorem Dev.eventAt_fm (d : Dev) (f b : Nat) : (d.eventAt f b).fm = d.fm := by rw [Dev.eventAt_frame]
@[simp] theorem Dev.eventAt_rrc (d : Dev) (f b : Nat) : (d.eventAt f b).rrc = d.rrc := by rw [Dev.eventAt_frame]
@[simp] theorem Dev.eventAt_flt (d : Dev) (f b : Nat) : (d.eventAt f b).flt = d.flt := by rw [Dev.eventAt_frame]
@[simp] theorem Dev.eventAt_cave (d : Dev) (f b : Nat) : (d.eventAt f b).cave = d.cave := by rw [Dev.eventAt_frame]
@[simp] theorem Dev.eventAt_cv (d : Dev) (f b : Nat) : (d.eventAt f b).cv = d.cv := by rw [Dev.eventAt_frame]
@[simp] theorem Dev.eventAt_sb (d : Dev) (f b : Nat) : (d.eventAt f b).sb = d.sb := by rw [Dev.eventAt_frame]
@[simp] theorem Dev.eventAt_xlink (d : Dev) (f b : Nat) : (d.eventAt f b).xlink = d.xlink := by rw [Dev.eventAt_frame]
@[simp] theorem Dev.eventAt_collTmo (d : Dev) (f b : Nat) : (d.eventAt f b).collTmo = d.collTmo := by rw [Dev.eventAt_frame]
@[simp] theorem Dev.eventAt_free (d : Dev) (f b : Nat) : (d.eventAt f b).free = d.free := by rw [Dev.eventAt_frame]
@[simp] theorem Dev.eventAt_curd (d : Dev) (f b : Nat) (j : Nat) : (d.eventAt f b).curd j = d.curd j := by rw [Dev.eventAt_frame]; rfl
@[simp] theorem Dev.eventAt_vat (d : Dev) (f b : Nat) (j : Nat) : (d.eventAt f b).vat j = d.vat j := by rw [Dev.eventAt_frame]; rfl
@[simp] theorem Dev.eventAt_ni (d : Dev) (f b : Nat) (j : Nat) : (d.eventAt f b).ni j = d.ni j := by rw [Dev.eventAt_frame]; rfl
@[simp] theorem Dev.eventAt_port (d : Dev) (f b : Nat) (j : Nat) : (d.eventAt f b).port j = d.port j := by rw [Dev.eventAt_frame]; rfl
@[simp] theorem Dev.eventAt_unit (d : Dev) (f b : Nat) (j : Nat) : (d.eventAt f b).unit j = d.unit j := by rw [Dev.eventAt_frame]; rfl
@[simp] theorem Dev.eventAt_part (d : Dev) (f b : Nat) (j : Nat) : (d.eventAt f b).part j = d.part j := by rw [Dev.eventAt_frame]; rfl
@[simp] theorem Dev.eventAt_ctx (d : Dev) (f b : Nat) (j : Nat) : (d.eventAt f b).ctx j = d.ctx j := by rw [Dev.eventAt_frame]; rfl
@[simp] theorem Dev.eventAt_cvu (d : Dev) (f b : Nat) (j : Nat) : (d.eventAt f b).cvu j = d.cvu j := by rw [Dev.eventAt_frame]; rfl
@[simp] theorem Dev.eventAt_chan (d : Dev) (f b : Nat) (j : Nat) : (d.eventAt f b).chan j = d.chan j := by rw [Dev.eventAt_frame]; rfl
@[simp] theorem Dev.eventAt_edge (d : Dev) (f b : Nat) (j : Nat) : (d.eventAt f b).edge j = d.edge j := by rw [Dev.eventAt_frame]; rfl

theorem Dev.event_frame (d : Dev) (b : Nat) (p : Option Nat) :
    d.event b p = { d with host := (d.event b p).host } := by
  unfold Dev.event
  cases p with
  | none => exact Dev.eventAt_frame _ _ _
  | some q =>
    dsimp only
    split
    · rw [Dev.eventAt_frame (d.eventAt 0 b)]
      simp
    · exact Dev.eventAt_frame _ _ _

@[simp] theorem Dev.event_timer (d : Dev) (b : Nat) (p : Option Nat) : (d.event b p).timer = d.timer := by rw [Dev.event_frame]
@[simp] theorem Dev.event_pwr (d : Dev) (b : Nat) (p : Option Nat) : (d.event b p).pwr = d.pwr := by rw [Dev.event_frame]
@[simp] theorem Dev.event_boot (d : Dev) (b : Nat) (p : Option Nat) : (d.event b p).boot = d.boot := by rw [Dev.event_frame]
@[simp] theorem Dev.event_sec (d : Dev) (b : Nat) (p : Option Nat) : (d.event b p).sec = d.sec := by rw [Dev.event_frame]
@[simp] theorem Dev.event_cfg (d : Dev) (b : Nat) (p : Option Nat) : (d.event b p).cfg = d.cfg := by rw [Dev.event_frame]
@[simp] theorem Dev.event_curds (d : Dev) (b : Nat) (p : Option Nat) : (d.event b p).curds = d.curds := by rw [Dev.event_frame]
@[simp] theorem Dev.event_vats (d : Dev) (b : Nat) (p : Option Nat) : (d.event b p).vats = d.vats := by rw [Dev.event_frame]
@[simp] theorem Dev.event_nis (d : Dev) (b : Nat) (p : Option Nat) : (d.event b p).nis = d.nis := by rw [Dev.event_frame]
@[simp] theorem Dev.event_mesh (d : Dev) (b : Nat) (p : Option Nat) : (d.event b p).mesh = d.mesh := by rw [Dev.event_frame]
@[simp] theorem Dev.event_ports (d : Dev) (b : Nat) (p : Option Nat) : (d.event b p).ports = d.ports := by rw [Dev.event_frame]
@[simp] theorem Dev.event_coll (d : Dev) (b : Nat) (p : Option Nat) : (d.event b p).coll = d.coll := by rw [Dev.event_frame]
@[simp] theorem Dev.event_trees (d : Dev) (b : Nat) (p : Option Nat) : (d.event b p).trees = d.trees := by rw [Dev.event_frame]
@[simp] theorem Dev.event_ext (d : Dev) (b : Nat) (p : Option Nat) : (d.event b p).ext = d.ext := by rw [Dev.event_frame]
@[simp] theorem Dev.event_parts (d : Dev) (b : Nat) (p : Option Nat) : (d.event b p).parts = d.parts := by rw [Dev.event_frame]
@[simp] theorem Dev.event_ctxs (d : Dev) (b : Nat) (p : Option Nat) : (d.event b p).ctxs = d.ctxs := by rw [Dev.event_frame]
@[simp] theorem Dev.event_lastGen (d : Dev) (b : Nat) (p : Option Nat) : (d.event b p).lastGen = d.lastGen := by rw [Dev.event_frame]
@[simp] theorem Dev.event_fm (d : Dev) (b : Nat) (p : Option Nat) : (d.event b p).fm = d.fm := by rw [Dev.event_frame]
@[simp] theorem Dev.event_rrc (d : Dev) (b : Nat) (p : Option Nat) : (d.event b p).rrc = d.rrc := by rw [Dev.event_frame]
@[simp] theorem Dev.event_flt (d : Dev) (b : Nat) (p : Option Nat) : (d.event b p).flt = d.flt := by rw [Dev.event_frame]
@[simp] theorem Dev.event_cave (d : Dev) (b : Nat) (p : Option Nat) : (d.event b p).cave = d.cave := by rw [Dev.event_frame]
@[simp] theorem Dev.event_cv (d : Dev) (b : Nat) (p : Option Nat) : (d.event b p).cv = d.cv := by rw [Dev.event_frame]
@[simp] theorem Dev.event_sb (d : Dev) (b : Nat) (p : Option Nat) : (d.event b p).sb = d.sb := by rw [Dev.event_frame]
@[simp] theorem Dev.event_xlink (d : Dev) (b : Nat) (p : Option Nat) : (d.event b p).xlink = d.xlink := by rw [Dev.event_frame]
@[simp] theorem Dev.event_collTmo (d : Dev) (b : Nat) (p : Option Nat) : (d.event b p).collTmo = d.collTmo := by rw [Dev.event_frame]
@[simp] theorem Dev.event_free (d : Dev) (b : Nat) (p : Option Nat) : (d.event b p).free = d.free := by rw [Dev.event_frame]
@[simp] theorem Dev.event_curd (d : Dev) (b : Nat) (p : Option Nat) (j : Nat) : (d.event b p).curd j = d.curd j := by rw [Dev.event_frame]; rfl
@[simp] theorem Dev.event_vat (d : Dev) (b : Nat) (p : Option Nat) (j : Nat) : (d.event b p).vat j = d.vat j := by rw [Dev.event_frame]; rfl
@[simp] theorem Dev.event_ni (d : Dev) (b : Nat) (p : Option Nat) (j : Nat) : (d.event b p).ni j = d.ni j := by rw [Dev.event_frame]; rfl
@[simp] theorem Dev.event_port (d : Dev) (b : Nat) (p : Option Nat) (j : Nat) : (d.event b p).port j = d.port j := by rw [Dev.event_frame]; rfl
@[simp] theorem Dev.event_unit (d : Dev) (b : Nat) (p : Option Nat) (j : Nat) : (d.event b p).unit j = d.unit j := by rw [Dev.event_frame]; rfl
@[simp] theorem Dev.event_part (d : Dev) (b : Nat) (p : Option Nat) (j : Nat) : (d.event b p).part j = d.part j := by rw [Dev.event_frame]; rfl
@[simp] theorem Dev.event_ctx (d : Dev) (b : Nat) (p : Option Nat) (j : Nat) : (d.event b p).ctx j = d.ctx j := by rw [Dev.event_frame]; rfl
@[simp] theorem Dev.event_cvu (d : Dev) (b : Nat) (p : Option Nat) (j : Nat) : (d.event b p).cvu j = d.cvu j := by rw [Dev.event_frame]; rfl
@[simp] theorem Dev.event_chan (d : Dev) (b : Nat) (p : Option Nat) (j : Nat) : (d.event b p).chan j = d.chan j := by rw [Dev.event_frame]; rfl
@[simp] theorem Dev.event_edge (d : Dev) (b : Nat) (p : Option Nat) (j : Nat) : (d.event b p).edge j = d.edge j := by rw [Dev.event_frame]; rfl

/-! ## Reports of a memory block: the ring stops alone change -/

theorem Dev.raiseBlock_frame (d : Dev) (node unit base : Nat) (ev : List (Nat × Nat)) :
    d.raiseBlock node unit base ev = { d with flt := (d.raiseBlock node unit base ev).flt } := by
  unfold Dev.raiseBlock
  induction ev generalizing d with
  | nil => rfl
  | cons e ev ih =>
    rw [List.foldl_cons, ih (d.raiseVat node e.1 unit (base + e.2))]
    rfl

@[simp] theorem Dev.raiseBlock_timer (d : Dev) (node unit base : Nat) (ev : List (Nat × Nat)) : (d.raiseBlock node unit base ev).timer = d.timer := by rw [Dev.raiseBlock_frame]
@[simp] theorem Dev.raiseBlock_pwr (d : Dev) (node unit base : Nat) (ev : List (Nat × Nat)) : (d.raiseBlock node unit base ev).pwr = d.pwr := by rw [Dev.raiseBlock_frame]
@[simp] theorem Dev.raiseBlock_boot (d : Dev) (node unit base : Nat) (ev : List (Nat × Nat)) : (d.raiseBlock node unit base ev).boot = d.boot := by rw [Dev.raiseBlock_frame]
@[simp] theorem Dev.raiseBlock_sec (d : Dev) (node unit base : Nat) (ev : List (Nat × Nat)) : (d.raiseBlock node unit base ev).sec = d.sec := by rw [Dev.raiseBlock_frame]
@[simp] theorem Dev.raiseBlock_cfg (d : Dev) (node unit base : Nat) (ev : List (Nat × Nat)) : (d.raiseBlock node unit base ev).cfg = d.cfg := by rw [Dev.raiseBlock_frame]
@[simp] theorem Dev.raiseBlock_curds (d : Dev) (node unit base : Nat) (ev : List (Nat × Nat)) : (d.raiseBlock node unit base ev).curds = d.curds := by rw [Dev.raiseBlock_frame]
@[simp] theorem Dev.raiseBlock_vats (d : Dev) (node unit base : Nat) (ev : List (Nat × Nat)) : (d.raiseBlock node unit base ev).vats = d.vats := by rw [Dev.raiseBlock_frame]
@[simp] theorem Dev.raiseBlock_nis (d : Dev) (node unit base : Nat) (ev : List (Nat × Nat)) : (d.raiseBlock node unit base ev).nis = d.nis := by rw [Dev.raiseBlock_frame]
@[simp] theorem Dev.raiseBlock_mesh (d : Dev) (node unit base : Nat) (ev : List (Nat × Nat)) : (d.raiseBlock node unit base ev).mesh = d.mesh := by rw [Dev.raiseBlock_frame]
@[simp] theorem Dev.raiseBlock_ports (d : Dev) (node unit base : Nat) (ev : List (Nat × Nat)) : (d.raiseBlock node unit base ev).ports = d.ports := by rw [Dev.raiseBlock_frame]
@[simp] theorem Dev.raiseBlock_coll (d : Dev) (node unit base : Nat) (ev : List (Nat × Nat)) : (d.raiseBlock node unit base ev).coll = d.coll := by rw [Dev.raiseBlock_frame]
@[simp] theorem Dev.raiseBlock_trees (d : Dev) (node unit base : Nat) (ev : List (Nat × Nat)) : (d.raiseBlock node unit base ev).trees = d.trees := by rw [Dev.raiseBlock_frame]
@[simp] theorem Dev.raiseBlock_ext (d : Dev) (node unit base : Nat) (ev : List (Nat × Nat)) : (d.raiseBlock node unit base ev).ext = d.ext := by rw [Dev.raiseBlock_frame]
@[simp] theorem Dev.raiseBlock_parts (d : Dev) (node unit base : Nat) (ev : List (Nat × Nat)) : (d.raiseBlock node unit base ev).parts = d.parts := by rw [Dev.raiseBlock_frame]
@[simp] theorem Dev.raiseBlock_ctxs (d : Dev) (node unit base : Nat) (ev : List (Nat × Nat)) : (d.raiseBlock node unit base ev).ctxs = d.ctxs := by rw [Dev.raiseBlock_frame]
@[simp] theorem Dev.raiseBlock_lastGen (d : Dev) (node unit base : Nat) (ev : List (Nat × Nat)) : (d.raiseBlock node unit base ev).lastGen = d.lastGen := by rw [Dev.raiseBlock_frame]
@[simp] theorem Dev.raiseBlock_fm (d : Dev) (node unit base : Nat) (ev : List (Nat × Nat)) : (d.raiseBlock node unit base ev).fm = d.fm := by rw [Dev.raiseBlock_frame]
@[simp] theorem Dev.raiseBlock_host (d : Dev) (node unit base : Nat) (ev : List (Nat × Nat)) : (d.raiseBlock node unit base ev).host = d.host := by rw [Dev.raiseBlock_frame]
@[simp] theorem Dev.raiseBlock_rrc (d : Dev) (node unit base : Nat) (ev : List (Nat × Nat)) : (d.raiseBlock node unit base ev).rrc = d.rrc := by rw [Dev.raiseBlock_frame]
@[simp] theorem Dev.raiseBlock_cave (d : Dev) (node unit base : Nat) (ev : List (Nat × Nat)) : (d.raiseBlock node unit base ev).cave = d.cave := by rw [Dev.raiseBlock_frame]
@[simp] theorem Dev.raiseBlock_cv (d : Dev) (node unit base : Nat) (ev : List (Nat × Nat)) : (d.raiseBlock node unit base ev).cv = d.cv := by rw [Dev.raiseBlock_frame]
@[simp] theorem Dev.raiseBlock_sb (d : Dev) (node unit base : Nat) (ev : List (Nat × Nat)) : (d.raiseBlock node unit base ev).sb = d.sb := by rw [Dev.raiseBlock_frame]
@[simp] theorem Dev.raiseBlock_xlink (d : Dev) (node unit base : Nat) (ev : List (Nat × Nat)) : (d.raiseBlock node unit base ev).xlink = d.xlink := by rw [Dev.raiseBlock_frame]
@[simp] theorem Dev.raiseBlock_collTmo (d : Dev) (node unit base : Nat) (ev : List (Nat × Nat)) : (d.raiseBlock node unit base ev).collTmo = d.collTmo := by rw [Dev.raiseBlock_frame]
@[simp] theorem Dev.raiseBlock_free (d : Dev) (node unit base : Nat) (ev : List (Nat × Nat)) : (d.raiseBlock node unit base ev).free = d.free := by rw [Dev.raiseBlock_frame]
@[simp] theorem Dev.raiseBlock_curd (d : Dev) (node unit base : Nat) (ev : List (Nat × Nat)) (j : Nat) : (d.raiseBlock node unit base ev).curd j = d.curd j := by rw [Dev.raiseBlock_frame]; rfl
@[simp] theorem Dev.raiseBlock_vat (d : Dev) (node unit base : Nat) (ev : List (Nat × Nat)) (j : Nat) : (d.raiseBlock node unit base ev).vat j = d.vat j := by rw [Dev.raiseBlock_frame]; rfl
@[simp] theorem Dev.raiseBlock_ni (d : Dev) (node unit base : Nat) (ev : List (Nat × Nat)) (j : Nat) : (d.raiseBlock node unit base ev).ni j = d.ni j := by rw [Dev.raiseBlock_frame]; rfl
@[simp] theorem Dev.raiseBlock_port (d : Dev) (node unit base : Nat) (ev : List (Nat × Nat)) (j : Nat) : (d.raiseBlock node unit base ev).port j = d.port j := by rw [Dev.raiseBlock_frame]; rfl
@[simp] theorem Dev.raiseBlock_unit (d : Dev) (node unit base : Nat) (ev : List (Nat × Nat)) (j : Nat) : (d.raiseBlock node unit base ev).unit j = d.unit j := by rw [Dev.raiseBlock_frame]; rfl
@[simp] theorem Dev.raiseBlock_part (d : Dev) (node unit base : Nat) (ev : List (Nat × Nat)) (j : Nat) : (d.raiseBlock node unit base ev).part j = d.part j := by rw [Dev.raiseBlock_frame]; rfl
@[simp] theorem Dev.raiseBlock_ctx (d : Dev) (node unit base : Nat) (ev : List (Nat × Nat)) (j : Nat) : (d.raiseBlock node unit base ev).ctx j = d.ctx j := by rw [Dev.raiseBlock_frame]; rfl
@[simp] theorem Dev.raiseBlock_cvu (d : Dev) (node unit base : Nat) (ev : List (Nat × Nat)) (j : Nat) : (d.raiseBlock node unit base ev).cvu j = d.cvu j := by rw [Dev.raiseBlock_frame]; rfl
@[simp] theorem Dev.raiseBlock_chan (d : Dev) (node unit base : Nat) (ev : List (Nat × Nat)) (j : Nat) : (d.raiseBlock node unit base ev).chan j = d.chan j := by rw [Dev.raiseBlock_frame]; rfl
@[simp] theorem Dev.raiseBlock_func (d : Dev) (node unit base : Nat) (ev : List (Nat × Nat)) (j : Nat) : (d.raiseBlock node unit base ev).func j = d.func j := by rw [Dev.raiseBlock_frame]; rfl
@[simp] theorem Dev.raiseBlock_edge (d : Dev) (node unit base : Nat) (ev : List (Nat × Nat)) (j : Nat) : (d.raiseBlock node unit base ev).edge j = d.edge j := by rw [Dev.raiseBlock_frame]; rfl

/-! ## Curd faults: one curd, the ring stops and the host side change -/

theorem Dev.curdFault_frame (d : Dev) (node slot cause : Nat) (pc : BitVec 12) (addr : Nat) :
    d.curdFault node slot cause pc addr =
      { d with curds := (d.curdFault node slot cause pc addr).curds, flt := (d.curdFault node slot cause pc addr).flt,
               host := (d.curdFault node slot cause pc addr).host } := by
  unfold Dev.curdFault
  rw [Dev.event_frame]
  rfl

/-- The curd takes the fault, and no other curd changes. -/
theorem Dev.curdFault_curd (d : Dev) (node slot cause : Nat) (pc : BitVec 12) (addr j : Nat) :
    (d.curdFault node slot cause pc addr).curd j =
      if j = curdKey node slot then (d.curd j).takeFault cause pc addr else d.curd j := by
  unfold Dev.curdFault
  simp only [Dev.event_curd, Dev.raiseVat_curd]
  split
  · subst_vars
    exact Dev.curd_setCurd_same _ _ _
  · exact Dev.curd_setCurd_other _ _ _ _ ‹_›

@[simp] theorem Dev.curdFault_timer (d : Dev) (node slot cause : Nat) (pc : BitVec 12) (addr : Nat) :
    (d.curdFault node slot cause pc addr).timer = d.timer := by rw [Dev.curdFault_frame]
@[simp] theorem Dev.curdFault_pwr (d : Dev) (node slot cause : Nat) (pc : BitVec 12) (addr : Nat) :
    (d.curdFault node slot cause pc addr).pwr = d.pwr := by rw [Dev.curdFault_frame]
@[simp] theorem Dev.curdFault_boot (d : Dev) (node slot cause : Nat) (pc : BitVec 12) (addr : Nat) :
    (d.curdFault node slot cause pc addr).boot = d.boot := by rw [Dev.curdFault_frame]
@[simp] theorem Dev.curdFault_sec (d : Dev) (node slot cause : Nat) (pc : BitVec 12) (addr : Nat) :
    (d.curdFault node slot cause pc addr).sec = d.sec := by rw [Dev.curdFault_frame]
@[simp] theorem Dev.curdFault_cfg (d : Dev) (node slot cause : Nat) (pc : BitVec 12) (addr : Nat) :
    (d.curdFault node slot cause pc addr).cfg = d.cfg := by rw [Dev.curdFault_frame]
@[simp] theorem Dev.curdFault_vats (d : Dev) (node slot cause : Nat) (pc : BitVec 12) (addr : Nat) :
    (d.curdFault node slot cause pc addr).vats = d.vats := by rw [Dev.curdFault_frame]
@[simp] theorem Dev.curdFault_nis (d : Dev) (node slot cause : Nat) (pc : BitVec 12) (addr : Nat) :
    (d.curdFault node slot cause pc addr).nis = d.nis := by rw [Dev.curdFault_frame]
@[simp] theorem Dev.curdFault_mesh (d : Dev) (node slot cause : Nat) (pc : BitVec 12) (addr : Nat) :
    (d.curdFault node slot cause pc addr).mesh = d.mesh := by rw [Dev.curdFault_frame]
@[simp] theorem Dev.curdFault_ports (d : Dev) (node slot cause : Nat) (pc : BitVec 12) (addr : Nat) :
    (d.curdFault node slot cause pc addr).ports = d.ports := by rw [Dev.curdFault_frame]
@[simp] theorem Dev.curdFault_coll (d : Dev) (node slot cause : Nat) (pc : BitVec 12) (addr : Nat) :
    (d.curdFault node slot cause pc addr).coll = d.coll := by rw [Dev.curdFault_frame]
@[simp] theorem Dev.curdFault_trees (d : Dev) (node slot cause : Nat) (pc : BitVec 12) (addr : Nat) :
    (d.curdFault node slot cause pc addr).trees = d.trees := by rw [Dev.curdFault_frame]
@[simp] theorem Dev.curdFault_ext (d : Dev) (node slot cause : Nat) (pc : BitVec 12) (addr : Nat) :
    (d.curdFault node slot cause pc addr).ext = d.ext := by rw [Dev.curdFault_frame]
@[simp] theorem Dev.curdFault_parts (d : Dev) (node slot cause : Nat) (pc : BitVec 12) (addr : Nat) :
    (d.curdFault node slot cause pc addr).parts = d.parts := by rw [Dev.curdFault_frame]
@[simp] theorem Dev.curdFault_ctxs (d : Dev) (node slot cause : Nat) (pc : BitVec 12) (addr : Nat) :
    (d.curdFault node slot cause pc addr).ctxs = d.ctxs := by rw [Dev.curdFault_frame]
@[simp] theorem Dev.curdFault_lastGen (d : Dev) (node slot cause : Nat) (pc : BitVec 12) (addr : Nat) :
    (d.curdFault node slot cause pc addr).lastGen = d.lastGen := by rw [Dev.curdFault_frame]
@[simp] theorem Dev.curdFault_fm (d : Dev) (node slot cause : Nat) (pc : BitVec 12) (addr : Nat) :
    (d.curdFault node slot cause pc addr).fm = d.fm := by rw [Dev.curdFault_frame]
@[simp] theorem Dev.curdFault_rrc (d : Dev) (node slot cause : Nat) (pc : BitVec 12) (addr : Nat) :
    (d.curdFault node slot cause pc addr).rrc = d.rrc := by rw [Dev.curdFault_frame]
@[simp] theorem Dev.curdFault_cave (d : Dev) (node slot cause : Nat) (pc : BitVec 12) (addr : Nat) :
    (d.curdFault node slot cause pc addr).cave = d.cave := by rw [Dev.curdFault_frame]
@[simp] theorem Dev.curdFault_cv (d : Dev) (node slot cause : Nat) (pc : BitVec 12) (addr : Nat) :
    (d.curdFault node slot cause pc addr).cv = d.cv := by rw [Dev.curdFault_frame]
@[simp] theorem Dev.curdFault_sb (d : Dev) (node slot cause : Nat) (pc : BitVec 12) (addr : Nat) :
    (d.curdFault node slot cause pc addr).sb = d.sb := by rw [Dev.curdFault_frame]
@[simp] theorem Dev.curdFault_xlink (d : Dev) (node slot cause : Nat) (pc : BitVec 12) (addr : Nat) :
    (d.curdFault node slot cause pc addr).xlink = d.xlink := by rw [Dev.curdFault_frame]
@[simp] theorem Dev.curdFault_collTmo (d : Dev) (node slot cause : Nat) (pc : BitVec 12) (addr : Nat) :
    (d.curdFault node slot cause pc addr).collTmo = d.collTmo := by rw [Dev.curdFault_frame]
@[simp] theorem Dev.curdFault_free (d : Dev) (node slot cause : Nat) (pc : BitVec 12) (addr : Nat) :
    (d.curdFault node slot cause pc addr).free = d.free := by rw [Dev.curdFault_frame]

/-! ## Program completion: a context, the host side and the manager's messages change -/

theorem Dev.reportDrained_frame (d : Dev) (id : Nat) :
    d.reportDrained id = { d with fm := (d.reportDrained id).fm } := by
  unfold Dev.reportDrained
  dsimp only
  split <;> rfl

@[simp] theorem Dev.reportDrained_timer (d : Dev) (id : Nat) : (d.reportDrained id).timer = d.timer := by rw [Dev.reportDrained_frame]
@[simp] theorem Dev.reportDrained_pwr (d : Dev) (id : Nat) : (d.reportDrained id).pwr = d.pwr := by rw [Dev.reportDrained_frame]
@[simp] theorem Dev.reportDrained_boot (d : Dev) (id : Nat) : (d.reportDrained id).boot = d.boot := by rw [Dev.reportDrained_frame]
@[simp] theorem Dev.reportDrained_sec (d : Dev) (id : Nat) : (d.reportDrained id).sec = d.sec := by rw [Dev.reportDrained_frame]
@[simp] theorem Dev.reportDrained_cfg (d : Dev) (id : Nat) : (d.reportDrained id).cfg = d.cfg := by rw [Dev.reportDrained_frame]
@[simp] theorem Dev.reportDrained_curds (d : Dev) (id : Nat) : (d.reportDrained id).curds = d.curds := by rw [Dev.reportDrained_frame]
@[simp] theorem Dev.reportDrained_vats (d : Dev) (id : Nat) : (d.reportDrained id).vats = d.vats := by rw [Dev.reportDrained_frame]
@[simp] theorem Dev.reportDrained_nis (d : Dev) (id : Nat) : (d.reportDrained id).nis = d.nis := by rw [Dev.reportDrained_frame]
@[simp] theorem Dev.reportDrained_mesh (d : Dev) (id : Nat) : (d.reportDrained id).mesh = d.mesh := by rw [Dev.reportDrained_frame]
@[simp] theorem Dev.reportDrained_ports (d : Dev) (id : Nat) : (d.reportDrained id).ports = d.ports := by rw [Dev.reportDrained_frame]
@[simp] theorem Dev.reportDrained_coll (d : Dev) (id : Nat) : (d.reportDrained id).coll = d.coll := by rw [Dev.reportDrained_frame]
@[simp] theorem Dev.reportDrained_trees (d : Dev) (id : Nat) : (d.reportDrained id).trees = d.trees := by rw [Dev.reportDrained_frame]
@[simp] theorem Dev.reportDrained_ext (d : Dev) (id : Nat) : (d.reportDrained id).ext = d.ext := by rw [Dev.reportDrained_frame]
@[simp] theorem Dev.reportDrained_parts (d : Dev) (id : Nat) : (d.reportDrained id).parts = d.parts := by rw [Dev.reportDrained_frame]
@[simp] theorem Dev.reportDrained_ctxs (d : Dev) (id : Nat) : (d.reportDrained id).ctxs = d.ctxs := by rw [Dev.reportDrained_frame]
@[simp] theorem Dev.reportDrained_lastGen (d : Dev) (id : Nat) : (d.reportDrained id).lastGen = d.lastGen := by rw [Dev.reportDrained_frame]
@[simp] theorem Dev.reportDrained_host (d : Dev) (id : Nat) : (d.reportDrained id).host = d.host := by rw [Dev.reportDrained_frame]
@[simp] theorem Dev.reportDrained_rrc (d : Dev) (id : Nat) : (d.reportDrained id).rrc = d.rrc := by rw [Dev.reportDrained_frame]
@[simp] theorem Dev.reportDrained_flt (d : Dev) (id : Nat) : (d.reportDrained id).flt = d.flt := by rw [Dev.reportDrained_frame]
@[simp] theorem Dev.reportDrained_cave (d : Dev) (id : Nat) : (d.reportDrained id).cave = d.cave := by rw [Dev.reportDrained_frame]
@[simp] theorem Dev.reportDrained_cv (d : Dev) (id : Nat) : (d.reportDrained id).cv = d.cv := by rw [Dev.reportDrained_frame]
@[simp] theorem Dev.reportDrained_sb (d : Dev) (id : Nat) : (d.reportDrained id).sb = d.sb := by rw [Dev.reportDrained_frame]
@[simp] theorem Dev.reportDrained_xlink (d : Dev) (id : Nat) : (d.reportDrained id).xlink = d.xlink := by rw [Dev.reportDrained_frame]
@[simp] theorem Dev.reportDrained_collTmo (d : Dev) (id : Nat) : (d.reportDrained id).collTmo = d.collTmo := by rw [Dev.reportDrained_frame]
@[simp] theorem Dev.reportDrained_free (d : Dev) (id : Nat) : (d.reportDrained id).free = d.free := by rw [Dev.reportDrained_frame]
@[simp] theorem Dev.reportDrained_curd (d : Dev) (id : Nat) (j : Nat) : (d.reportDrained id).curd j = d.curd j := by rw [Dev.reportDrained_frame]; rfl
@[simp] theorem Dev.reportDrained_vat (d : Dev) (id : Nat) (j : Nat) : (d.reportDrained id).vat j = d.vat j := by rw [Dev.reportDrained_frame]; rfl
@[simp] theorem Dev.reportDrained_ni (d : Dev) (id : Nat) (j : Nat) : (d.reportDrained id).ni j = d.ni j := by rw [Dev.reportDrained_frame]; rfl
@[simp] theorem Dev.reportDrained_port (d : Dev) (id : Nat) (j : Nat) : (d.reportDrained id).port j = d.port j := by rw [Dev.reportDrained_frame]; rfl
@[simp] theorem Dev.reportDrained_unit (d : Dev) (id : Nat) (j : Nat) : (d.reportDrained id).unit j = d.unit j := by rw [Dev.reportDrained_frame]; rfl
@[simp] theorem Dev.reportDrained_part (d : Dev) (id : Nat) (j : Nat) : (d.reportDrained id).part j = d.part j := by rw [Dev.reportDrained_frame]; rfl
@[simp] theorem Dev.reportDrained_ctx (d : Dev) (id : Nat) (j : Nat) : (d.reportDrained id).ctx j = d.ctx j := by rw [Dev.reportDrained_frame]; rfl
@[simp] theorem Dev.reportDrained_cvu (d : Dev) (id : Nat) (j : Nat) : (d.reportDrained id).cvu j = d.cvu j := by rw [Dev.reportDrained_frame]; rfl
@[simp] theorem Dev.reportDrained_chan (d : Dev) (id : Nat) (j : Nat) : (d.reportDrained id).chan j = d.chan j := by rw [Dev.reportDrained_frame]; rfl
@[simp] theorem Dev.reportDrained_func (d : Dev) (id : Nat) (j : Nat) : (d.reportDrained id).func j = d.func j := by rw [Dev.reportDrained_frame]; rfl
@[simp] theorem Dev.reportDrained_edge (d : Dev) (id : Nat) (j : Nat) : (d.reportDrained id).edge j = d.edge j := by rw [Dev.reportDrained_frame]; rfl

theorem Dev.checkDone_frame (d : Dev) (ctx : Nat) :
    d.checkDone ctx = { d with fm := (d.checkDone ctx).fm, ctxs := (d.checkDone ctx).ctxs,
                               host := (d.checkDone ctx).host } := by
  unfold Dev.checkDone
  dsimp only
  split
  · rw [Dev.reportDrained_frame, Dev.event_frame]
    rfl
  · rw [Dev.reportDrained_frame]

@[simp] theorem Dev.checkDone_timer (d : Dev) (ctx : Nat) : (d.checkDone ctx).timer = d.timer := by rw [Dev.checkDone_frame]
@[simp] theorem Dev.checkDone_pwr (d : Dev) (ctx : Nat) : (d.checkDone ctx).pwr = d.pwr := by rw [Dev.checkDone_frame]
@[simp] theorem Dev.checkDone_boot (d : Dev) (ctx : Nat) : (d.checkDone ctx).boot = d.boot := by rw [Dev.checkDone_frame]
@[simp] theorem Dev.checkDone_sec (d : Dev) (ctx : Nat) : (d.checkDone ctx).sec = d.sec := by rw [Dev.checkDone_frame]
@[simp] theorem Dev.checkDone_cfg (d : Dev) (ctx : Nat) : (d.checkDone ctx).cfg = d.cfg := by rw [Dev.checkDone_frame]
@[simp] theorem Dev.checkDone_curds (d : Dev) (ctx : Nat) : (d.checkDone ctx).curds = d.curds := by rw [Dev.checkDone_frame]
@[simp] theorem Dev.checkDone_vats (d : Dev) (ctx : Nat) : (d.checkDone ctx).vats = d.vats := by rw [Dev.checkDone_frame]
@[simp] theorem Dev.checkDone_nis (d : Dev) (ctx : Nat) : (d.checkDone ctx).nis = d.nis := by rw [Dev.checkDone_frame]
@[simp] theorem Dev.checkDone_mesh (d : Dev) (ctx : Nat) : (d.checkDone ctx).mesh = d.mesh := by rw [Dev.checkDone_frame]
@[simp] theorem Dev.checkDone_ports (d : Dev) (ctx : Nat) : (d.checkDone ctx).ports = d.ports := by rw [Dev.checkDone_frame]
@[simp] theorem Dev.checkDone_coll (d : Dev) (ctx : Nat) : (d.checkDone ctx).coll = d.coll := by rw [Dev.checkDone_frame]
@[simp] theorem Dev.checkDone_trees (d : Dev) (ctx : Nat) : (d.checkDone ctx).trees = d.trees := by rw [Dev.checkDone_frame]
@[simp] theorem Dev.checkDone_ext (d : Dev) (ctx : Nat) : (d.checkDone ctx).ext = d.ext := by rw [Dev.checkDone_frame]
@[simp] theorem Dev.checkDone_parts (d : Dev) (ctx : Nat) : (d.checkDone ctx).parts = d.parts := by rw [Dev.checkDone_frame]
@[simp] theorem Dev.checkDone_lastGen (d : Dev) (ctx : Nat) : (d.checkDone ctx).lastGen = d.lastGen := by rw [Dev.checkDone_frame]
@[simp] theorem Dev.checkDone_rrc (d : Dev) (ctx : Nat) : (d.checkDone ctx).rrc = d.rrc := by rw [Dev.checkDone_frame]
@[simp] theorem Dev.checkDone_flt (d : Dev) (ctx : Nat) : (d.checkDone ctx).flt = d.flt := by rw [Dev.checkDone_frame]
@[simp] theorem Dev.checkDone_cave (d : Dev) (ctx : Nat) : (d.checkDone ctx).cave = d.cave := by rw [Dev.checkDone_frame]
@[simp] theorem Dev.checkDone_cv (d : Dev) (ctx : Nat) : (d.checkDone ctx).cv = d.cv := by rw [Dev.checkDone_frame]
@[simp] theorem Dev.checkDone_sb (d : Dev) (ctx : Nat) : (d.checkDone ctx).sb = d.sb := by rw [Dev.checkDone_frame]
@[simp] theorem Dev.checkDone_xlink (d : Dev) (ctx : Nat) : (d.checkDone ctx).xlink = d.xlink := by rw [Dev.checkDone_frame]
@[simp] theorem Dev.checkDone_collTmo (d : Dev) (ctx : Nat) : (d.checkDone ctx).collTmo = d.collTmo := by rw [Dev.checkDone_frame]
@[simp] theorem Dev.checkDone_free (d : Dev) (ctx : Nat) : (d.checkDone ctx).free = d.free := by rw [Dev.checkDone_frame]
@[simp] theorem Dev.checkDone_curd (d : Dev) (ctx : Nat) (j : Nat) : (d.checkDone ctx).curd j = d.curd j := by rw [Dev.checkDone_frame]; rfl
@[simp] theorem Dev.checkDone_vat (d : Dev) (ctx : Nat) (j : Nat) : (d.checkDone ctx).vat j = d.vat j := by rw [Dev.checkDone_frame]; rfl
@[simp] theorem Dev.checkDone_ni (d : Dev) (ctx : Nat) (j : Nat) : (d.checkDone ctx).ni j = d.ni j := by rw [Dev.checkDone_frame]; rfl
@[simp] theorem Dev.checkDone_port (d : Dev) (ctx : Nat) (j : Nat) : (d.checkDone ctx).port j = d.port j := by rw [Dev.checkDone_frame]; rfl
@[simp] theorem Dev.checkDone_unit (d : Dev) (ctx : Nat) (j : Nat) : (d.checkDone ctx).unit j = d.unit j := by rw [Dev.checkDone_frame]; rfl
@[simp] theorem Dev.checkDone_part (d : Dev) (ctx : Nat) (j : Nat) : (d.checkDone ctx).part j = d.part j := by rw [Dev.checkDone_frame]; rfl
@[simp] theorem Dev.checkDone_cvu (d : Dev) (ctx : Nat) (j : Nat) : (d.checkDone ctx).cvu j = d.cvu j := by rw [Dev.checkDone_frame]; rfl
@[simp] theorem Dev.checkDone_chan (d : Dev) (ctx : Nat) (j : Nat) : (d.checkDone ctx).chan j = d.chan j := by rw [Dev.checkDone_frame]; rfl
@[simp] theorem Dev.checkDone_edge (d : Dev) (ctx : Nat) (j : Nat) : (d.checkDone ctx).edge j = d.edge j := by rw [Dev.checkDone_frame]; rfl

theorem Dev.checkDoneAt_frame (d : Dev) (node : Nat) :
    d.checkDoneAt node = { d with fm := (d.checkDoneAt node).fm, ctxs := (d.checkDoneAt node).ctxs,
                                  host := (d.checkDoneAt node).host } := by
  unfold Dev.checkDoneAt
  split
  · exact Dev.checkDone_frame _ _
  · rfl

@[simp] theorem Dev.checkDoneAt_timer (d : Dev) (node : Nat) : (d.checkDoneAt node).timer = d.timer := by rw [Dev.checkDoneAt_frame]
@[simp] theorem Dev.checkDoneAt_pwr (d : Dev) (node : Nat) : (d.checkDoneAt node).pwr = d.pwr := by rw [Dev.checkDoneAt_frame]
@[simp] theorem Dev.checkDoneAt_boot (d : Dev) (node : Nat) : (d.checkDoneAt node).boot = d.boot := by rw [Dev.checkDoneAt_frame]
@[simp] theorem Dev.checkDoneAt_sec (d : Dev) (node : Nat) : (d.checkDoneAt node).sec = d.sec := by rw [Dev.checkDoneAt_frame]
@[simp] theorem Dev.checkDoneAt_cfg (d : Dev) (node : Nat) : (d.checkDoneAt node).cfg = d.cfg := by rw [Dev.checkDoneAt_frame]
@[simp] theorem Dev.checkDoneAt_curds (d : Dev) (node : Nat) : (d.checkDoneAt node).curds = d.curds := by rw [Dev.checkDoneAt_frame]
@[simp] theorem Dev.checkDoneAt_vats (d : Dev) (node : Nat) : (d.checkDoneAt node).vats = d.vats := by rw [Dev.checkDoneAt_frame]
@[simp] theorem Dev.checkDoneAt_nis (d : Dev) (node : Nat) : (d.checkDoneAt node).nis = d.nis := by rw [Dev.checkDoneAt_frame]
@[simp] theorem Dev.checkDoneAt_mesh (d : Dev) (node : Nat) : (d.checkDoneAt node).mesh = d.mesh := by rw [Dev.checkDoneAt_frame]
@[simp] theorem Dev.checkDoneAt_ports (d : Dev) (node : Nat) : (d.checkDoneAt node).ports = d.ports := by rw [Dev.checkDoneAt_frame]
@[simp] theorem Dev.checkDoneAt_coll (d : Dev) (node : Nat) : (d.checkDoneAt node).coll = d.coll := by rw [Dev.checkDoneAt_frame]
@[simp] theorem Dev.checkDoneAt_trees (d : Dev) (node : Nat) : (d.checkDoneAt node).trees = d.trees := by rw [Dev.checkDoneAt_frame]
@[simp] theorem Dev.checkDoneAt_ext (d : Dev) (node : Nat) : (d.checkDoneAt node).ext = d.ext := by rw [Dev.checkDoneAt_frame]
@[simp] theorem Dev.checkDoneAt_parts (d : Dev) (node : Nat) : (d.checkDoneAt node).parts = d.parts := by rw [Dev.checkDoneAt_frame]
@[simp] theorem Dev.checkDoneAt_lastGen (d : Dev) (node : Nat) : (d.checkDoneAt node).lastGen = d.lastGen := by rw [Dev.checkDoneAt_frame]
@[simp] theorem Dev.checkDoneAt_rrc (d : Dev) (node : Nat) : (d.checkDoneAt node).rrc = d.rrc := by rw [Dev.checkDoneAt_frame]
@[simp] theorem Dev.checkDoneAt_flt (d : Dev) (node : Nat) : (d.checkDoneAt node).flt = d.flt := by rw [Dev.checkDoneAt_frame]
@[simp] theorem Dev.checkDoneAt_cave (d : Dev) (node : Nat) : (d.checkDoneAt node).cave = d.cave := by rw [Dev.checkDoneAt_frame]
@[simp] theorem Dev.checkDoneAt_cv (d : Dev) (node : Nat) : (d.checkDoneAt node).cv = d.cv := by rw [Dev.checkDoneAt_frame]
@[simp] theorem Dev.checkDoneAt_sb (d : Dev) (node : Nat) : (d.checkDoneAt node).sb = d.sb := by rw [Dev.checkDoneAt_frame]
@[simp] theorem Dev.checkDoneAt_xlink (d : Dev) (node : Nat) : (d.checkDoneAt node).xlink = d.xlink := by rw [Dev.checkDoneAt_frame]
@[simp] theorem Dev.checkDoneAt_collTmo (d : Dev) (node : Nat) : (d.checkDoneAt node).collTmo = d.collTmo := by rw [Dev.checkDoneAt_frame]
@[simp] theorem Dev.checkDoneAt_free (d : Dev) (node : Nat) : (d.checkDoneAt node).free = d.free := by rw [Dev.checkDoneAt_frame]
@[simp] theorem Dev.checkDoneAt_curd (d : Dev) (node : Nat) (j : Nat) : (d.checkDoneAt node).curd j = d.curd j := by rw [Dev.checkDoneAt_frame]; rfl
@[simp] theorem Dev.checkDoneAt_vat (d : Dev) (node : Nat) (j : Nat) : (d.checkDoneAt node).vat j = d.vat j := by rw [Dev.checkDoneAt_frame]; rfl
@[simp] theorem Dev.checkDoneAt_ni (d : Dev) (node : Nat) (j : Nat) : (d.checkDoneAt node).ni j = d.ni j := by rw [Dev.checkDoneAt_frame]; rfl
@[simp] theorem Dev.checkDoneAt_port (d : Dev) (node : Nat) (j : Nat) : (d.checkDoneAt node).port j = d.port j := by rw [Dev.checkDoneAt_frame]; rfl
@[simp] theorem Dev.checkDoneAt_unit (d : Dev) (node : Nat) (j : Nat) : (d.checkDoneAt node).unit j = d.unit j := by rw [Dev.checkDoneAt_frame]; rfl
@[simp] theorem Dev.checkDoneAt_part (d : Dev) (node : Nat) (j : Nat) : (d.checkDoneAt node).part j = d.part j := by rw [Dev.checkDoneAt_frame]; rfl
@[simp] theorem Dev.checkDoneAt_cvu (d : Dev) (node : Nat) (j : Nat) : (d.checkDoneAt node).cvu j = d.cvu j := by rw [Dev.checkDoneAt_frame]; rfl
@[simp] theorem Dev.checkDoneAt_chan (d : Dev) (node : Nat) (j : Nat) : (d.checkDoneAt node).chan j = d.chan j := by rw [Dev.checkDoneAt_frame]; rfl
@[simp] theorem Dev.checkDoneAt_edge (d : Dev) (node : Nat) (j : Nat) : (d.checkDoneAt node).edge j = d.edge j := by rw [Dev.checkDoneAt_frame]; rfl

end Sys2Proof.Machine
end

