-- ==== Sys2Proof/Laws/Curd.lean ====
section
/-! SUPPORT. What an issue step of a curd can do, said once: the rows of the curd cite these in place of unfolding
Dev.curdStep and Dev.settle. -/

namespace Sys2Proof.Machine

theorem CState.retired_eq (x : CState) : x.retired = if x = .wait then .run else x := by cases x <;> rfl

/-- A retired instruction leaves the module `d1` with its curd retired. -/
theorem settle_retire (d d1 : Dev) (node slot : Nat) (lat : List (Nat × Nat)) (c : Curd) (pc : BitVec 12) (cost : Nat) :
    d.settle node slot lat (.retire d1 c pc cost) = d1.setCurd (curdKey node slot) (retiredCurd c lat c.r pc cost) := by
  simp only [Dev.settle, CState.retired_eq]
  rfl

theorem settle_hold (d : Dev) (node slot n : Nat) (lat : List (Nat × Nat)) :
    d.settle node slot lat (.hold n) =
      d.setCurd (curdKey node slot) (((d.curd (curdKey node slot)).spend 1).perfAdd n 1) := rfl

theorem settle_fault (d : Dev) (node slot cause addr : Nat) (lat : List (Nat × Nat)) :
    d.settle node slot lat (.fault cause addr) =
      d.curdFault node slot cause (d.curd (curdKey node slot)).r.pc addr := rfl

theorem latencyAt_issues {s : State} {node slot : Nat} {i : CurdInstr} {d : Dev} (h : Issues s node slot i d) :
    latencyAt s node slot = (d.curd (curdKey node slot)).latency i := by
  obtain ⟨-, -, ⟨e, he, rfl⟩, -⟩ := h
  simp [latencyAt, he]

/-- A curd that issues an instruction of the row does what the row says. -/
theorem curdStep_issues {s : State} {node slot : Nat} {i : CurdInstr} {d : Dev}
    {run : Dev → Curd → CurdInstr → Option Issue} {x : Issue} (h : Issues s node slot i d)
    (hr : run d (d.curd (curdKey node slot)) i = some x) :
    s.dev.curdStep node slot run = d.settle node slot (latencyAt s node slot) x := by
  rw [latencyAt_issues h]
  obtain ⟨h1, h2, ⟨e, h3, rfl⟩, h4⟩ := h
  have hr0 : (s.dev.pwr.coreMv == 0) = false := by simpa using h2
  rw [Dev.curd_setCurd_same] at hr h4 ⊢
  simp [Dev.curdStep, h1, hr0, h3, hr, h4]

/-- A row whose instruction retires with new registers alone answers the retired state. -/
theorem issue_retires {s : State} {node slot : Nat} {i : CurdInstr} {d : Dev}
    {run : Dev → Curd → CurdInstr → Option Issue} {r : CurdRegs} {pc : BitVec 12} {cost : Nat} (h : Issues s node slot i d)
    (hr : run d (d.curd (curdKey node slot)) i =
      some (.retire d { d.curd (curdKey node slot) with r := r } pc cost)) :
    s.next (s.dev.curdStep node slot run) = .next (retired s node slot d r pc cost) := by
  rw [curdStep_issues h hr, settle_retire]
  rfl

/-- All an issue step can do: nothing; the fault of its fetch; or what the row makes of the instruction at the pc once the steps it
waits for have passed, held if a load still owes it a register. -/
theorem curdStep_cases (d : Dev) (node slot : Nat) (run : Dev → Curd → CurdInstr → Option Issue) :
    d.curdStep node slot run = d ∨
    (∃ cause, (d.fetch node slot).2 = .error cause ∧
      d.curdStep node slot run = (d.fetch node slot).1.curdFault node slot cause (d.curd (curdKey node slot)).r.pc 0) ∨
    (∃ i c x e, (d.fetch node slot).2 = .ok i ∧ c = ((d.fetch node slot).1.curd (curdKey node slot)).stalled i ∧
      e = (d.fetch node slot).1.setCurd (curdKey node slot) c ∧ run e c i = some x ∧
      d.curdStep node slot run = e.settle node slot (c.latency i) (if c.regHolds i then .hold 2 else x)) := by
  by_cases hc : (!(d.curd (curdKey node slot)).issuing || d.pwr.coreMv == 0) = true
  · exact .inl (by simp only [Dev.curdStep, hc, if_true])
  · cases hf : (d.fetch node slot).2 with
    | error cause => exact .inr (.inl ⟨cause, rfl, by simp only [Dev.curdStep, hc, hf]; rfl⟩)
    | ok i =>
      cases hx : run ((d.fetch node slot).1.setCurd (curdKey node slot) (((d.fetch node slot).1.curd (curdKey node slot)).stalled i))
          (((d.fetch node slot).1.curd (curdKey node slot)).stalled i) i with
      | none => exact .inl (by simp only [Dev.curdStep, hc, hf, hx]; rfl)
      | some x => exact .inr (.inr ⟨i, _, x, _, rfl, rfl, rfl, hx, by simp only [Dev.curdStep, hc, hf, hx]; rfl⟩)

/-! ## What a curd has issued finishes -/

@[simp] theorem Curd.stopQuiet_r (c : Curd) : c.stopQuiet.r = c.r := by unfold Curd.stopQuiet; split <;> rfl
@[simp] theorem Curd.stopQuiet_loads (c : Curd) : c.stopQuiet.loads = c.loads := by unfold Curd.stopQuiet; split <;> rfl
@[simp] theorem Curd.stopQuiet_stores (c : Curd) : c.stopQuiet.stores = c.stores := by unfold Curd.stopQuiet; split <;> rfl
@[simp] theorem Curd.stopQuiet_tq (c : Curd) : c.stopQuiet.tq = c.tq := by unfold Curd.stopQuiet; split <;> rfl

theorem Curd.stopQuiet_st (c : Curd) (h : c.st ≠ .run) : c.stopQuiet.st = c.st := by unfold Curd.stopQuiet; split <;> simp [h]

/-- All that Dev.curdDone does to the curds: the one it names may enter STOPPED. -/
theorem Dev.curdDone_curd (d : Dev) (node slot j : Nat) :
    (d.curdDone node slot).curd j = if j = curdKey node slot then (d.curd j).stopQuiet else d.curd j := by
  unfold Dev.curdDone
  rw [Dev.checkDoneAt_curd]
  split
  · subst j; rw [Dev.curd_setCurd_same]
  · exact Dev.curd_setCurd_other _ _ _ _ ‹_›

@[simp] theorem Dev.curdDone_vats (d : Dev) (node slot : Nat) : (d.curdDone node slot).vats = d.vats := by simp [Dev.curdDone]
@[simp] theorem Dev.curdDone_ext (d : Dev) (node slot : Nat) : (d.curdDone node slot).ext = d.ext := by simp [Dev.curdDone]
@[simp] theorem Dev.curdDone_nis (d : Dev) (node slot : Nat) : (d.curdDone node slot).nis = d.nis := by simp [Dev.curdDone]
@[simp] theorem Dev.curdDone_vat (d : Dev) (node slot j : Nat) : (d.curdDone node slot).vat j = d.vat j := by simp [Dev.vat]

end Sys2Proof.Machine
end

