-- ==== Sys2Proof/Laws/Fuses.lean ====
section
/-! SUPPORT. Every operation of the model leaves the fuses alone, one lemma each, callees first, so that a proof about
the fuses never unfolds a command. BOOT_S8 alone has none (its Sec.proven raises security versions). An operation that
takes another as an argument has a hypothesis about it. -/

namespace Sys2Proof.Machine

theorem fold_fuses {α : Type} (f : Dev → α → Dev) (l : List α) (h : ∀ d x, (f d x).sec.fuses = d.sec.fuses) (d : Dev) : (l.foldl f d).sec.fuses = d.sec.fuses := by
  induction l generalizing d with
  | nil => rfl
  | cons x xs ih => exact (ih _).trans (h d x)

theorem fold1_fuses {α β : Type} (f : Dev × β → α → Dev × β) (l : List α) (h : ∀ d x, (f d x).1.sec.fuses = d.1.sec.fuses) (d : Dev × β) : (l.foldl f d).1.sec.fuses = d.1.sec.fuses := by
  induction l generalizing d with
  | nil => rfl
  | cons x xs ih => exact (ih _).trans (h d x)

theorem foldR_fuses {α : Type} (f : RStep → α → RStep) (l : List α) (h : ∀ d x, (f d x).d.sec.fuses = d.d.sec.fuses) (d : RStep) : (l.foldl f d).d.sec.fuses = d.d.sec.fuses := by
  induction l generalizing d with
  | nil => rfl
  | cons x xs ih => exact (ih _).trans (h d x)

theorem ite_fuses {c : Prop} [Decidable c] {a b : Dev} {f : Fuses} (ha : a.sec.fuses = f) (hb : b.sec.fuses = f) : (if c then a else b).sec.fuses = f := by
  split
  · exact ha
  · exact hb

/-- The module that an issue leaves has the fuses `f`. -/

def Issue.fusesAre (x : Issue) (f : Fuses) : Prop :=
  match x with
  | .faultIn d1 _ _ => d1.sec.fuses = f
  | .retire d1 _ _ _ => d1.sec.fuses = f
  | _ => True

theorem Dev.setCurd_fuses (d : Dev) (i : Nat) (x : Curd) : (Dev.setCurd d i x).sec.fuses = d.sec.fuses := by unfold Dev.setCurd; rfl

theorem Dev.setVat_fuses (d : Dev) (i : Nat) (x : Vat) : (Dev.setVat d i x).sec.fuses = d.sec.fuses := by unfold Dev.setVat; rfl

theorem Dev.setNi_fuses (d : Dev) (i : Nat) (x : NI) : (Dev.setNi d i x).sec.fuses = d.sec.fuses := by unfold Dev.setNi; rfl

theorem Dev.setPort_fuses (d : Dev) (i : Nat) (x : Port) : (Dev.setPort d i x).sec.fuses = d.sec.fuses := by unfold Dev.setPort; rfl

theorem Dev.setUnit_fuses (d : Dev) (i : Nat) (x : CollUnit) : (Dev.setUnit d i x).sec.fuses = d.sec.fuses := by unfold Dev.setUnit; rfl

theorem Dev.setPart_fuses (d : Dev) (i : Nat) (x : Part) : (Dev.setPart d i x).sec.fuses = d.sec.fuses := by unfold Dev.setPart; rfl

theorem Dev.setCtx_fuses (d : Dev) (i : Nat) (x : Ctx) : (Dev.setCtx d i x).sec.fuses = d.sec.fuses := by unfold Dev.setCtx; rfl

theorem Dev.setCvu_fuses (d : Dev) (i : Nat) (x : CvUnit) : (Dev.setCvu d i x).sec.fuses = d.sec.fuses := by unfold Dev.setCvu; rfl

theorem Dev.setChan_fuses (d : Dev) (c : Nat) (x : Chan) : (Dev.setChan d c x).sec.fuses = d.sec.fuses := by unfold Dev.setChan; rfl

theorem Dev.setFunc_fuses (d : Dev) (f : Nat) (x : Func) : (Dev.setFunc d f x).sec.fuses = d.sec.fuses := by unfold Dev.setFunc; rfl

theorem Dev.setEdge_fuses (d : Dev) (k : Nat) (x : Edge) : (Dev.setEdge d k x).sec.fuses = d.sec.fuses := by unfold Dev.setEdge; rfl

theorem Dev.draw_fuses (d : Dev) : (Dev.draw d).2.sec.fuses = d.sec.fuses := by unfold Dev.draw; rfl

theorem tick_fuses (d : Dev) : (tick d).sec.fuses = d.sec.fuses := by
  unfold tick; split <;> rfl

theorem Dev.raise_fuses (d : Dev) (m : FltMsg) : (Dev.raise d m).sec.fuses = d.sec.fuses := by unfold Dev.raise; rfl

theorem Dev.raiseVat_fuses (d : Dev) (node kind unit addr : Nat) : (Dev.raiseVat d node kind unit addr).sec.fuses = d.sec.fuses := by unfold Dev.raiseVat; rfl

theorem Dev.raiseBlock_fuses (d : Dev) (node unit base : Nat) (ev : List (Nat × Nat)) : (Dev.raiseBlock d node unit base ev).sec.fuses = d.sec.fuses := by
  unfold Dev.raiseBlock
  repeat' first | with_reducible rfl | with_reducible refine ite_fuses ?_ ?_ | dsimp only | simp only [Dev.raiseVat_fuses] | split | with_reducible refine (fold_fuses _ _ (fun _ _ => ?_) _).trans ?_ | with_reducible refine (fold1_fuses _ _ (fun _ _ => ?_) _).trans ?_

theorem Dev.ldmRead_fuses (d : Dev) (node slot off n : Nat) : (Dev.ldmRead d node slot off n).1.sec.fuses = d.sec.fuses := by
  simp only [Dev.ldmRead, Dev.setCurd_fuses, Dev.raiseBlock_fuses]

theorem Dev.ldmWrite_fuses (d : Dev) (node slot off : Nat) (bs : List Byte) : (Dev.ldmWrite d node slot off bs).1.sec.fuses = d.sec.fuses := by
  simp only [Dev.ldmWrite, Dev.setCurd_fuses, Dev.raiseBlock_fuses]

theorem Dev.isRead_fuses (d : Dev) (node slot off n : Nat) : (Dev.isRead d node slot off n).1.sec.fuses = d.sec.fuses := by
  simp only [Dev.isRead, Dev.setCurd_fuses, Dev.raiseBlock_fuses]

theorem Dev.isWrite_fuses (d : Dev) (node slot off : Nat) (bs : List Byte) : (Dev.isWrite d node slot off bs).1.sec.fuses = d.sec.fuses := by
  simp only [Dev.isWrite, Dev.setCurd_fuses, Dev.raiseBlock_fuses]

theorem Dev.vsRead_fuses (d : Dev) (node off n : Nat) : (Dev.vsRead d node off n).1.sec.fuses = d.sec.fuses := by
  simp only [Dev.vsRead, Dev.setVat_fuses, Dev.raiseBlock_fuses]

theorem Dev.vsWrite_fuses (d : Dev) (node off : Nat) (bs : List Byte) : (Dev.vsWrite d node off bs).1.sec.fuses = d.sec.fuses := by
  simp only [Dev.vsWrite, Dev.setVat_fuses, Dev.raiseBlock_fuses]

theorem Dev.completeOp_fuses (d : Dev) (node slot k code : Nat) : (Dev.completeOp d node slot k code).sec.fuses = d.sec.fuses := by
  unfold Dev.completeOp; split <;> simp only [Dev.setCurd_fuses]

theorem Dev.signalAt_fuses (d : Dev) (node slot k : Nat) : (Dev.signalAt d node slot k).sec.fuses = d.sec.fuses := by
  unfold Dev.signalAt; split <;> simp only [Dev.setCurd_fuses]

theorem Dev.setMbx_fuses (d : Dev) (f key : Nat) (x : Mbx) : (Dev.setMbx d f key x).sec.fuses = d.sec.fuses := by unfold Dev.setMbx; rfl

theorem Dev.sendVector_fuses (d : Dev) (f v : Nat) : (Dev.sendVector d f v).sec.fuses = d.sec.fuses := by unfold Dev.sendVector; rfl

theorem Dev.doorbell_fuses (d : Dev) (f key : Nat) (set : Word32) : (Dev.doorbell d f key set).sec.fuses = d.sec.fuses := by
  unfold Dev.doorbell
  repeat' first | with_reducible rfl | simp only [Dev.setMbx_fuses, Dev.sendVector_fuses] | split

theorem Dev.eventAt_fuses (d : Dev) (f b : Nat) : (Dev.eventAt d f b).sec.fuses = d.sec.fuses := by
  simp only [Dev.eventAt, Dev.setFunc_fuses, Dev.doorbell_fuses]

theorem Dev.event_fuses (d : Dev) (b : Nat) (part : Option Nat) : (Dev.event d b part).sec.fuses = d.sec.fuses := by
  unfold Dev.event
  repeat' first | with_reducible rfl | simp only [Dev.eventAt_fuses] | split

theorem Dev.sbAlert_fuses (d : Dev) (b : Nat) : (Dev.sbAlert d b).sec.fuses = d.sec.fuses := by
  unfold Dev.sbAlert
  repeat' first | with_reducible rfl | dsimp only | split

theorem Dev.curdFault_fuses (d : Dev) (node slot cause : Nat) (pc : BitVec 12) (addr : Nat) : (Dev.curdFault d node slot cause pc addr).sec.fuses = d.sec.fuses := by
  simp only [Dev.curdFault, Dev.setCurd_fuses, Dev.raiseVat_fuses, Dev.event_fuses]

theorem Dev.retirePage_fuses (d : Dev) (la : Nat) (conf : Bool) : (Dev.retirePage d la conf).sec.fuses = d.sec.fuses := by
  unfold Dev.retirePage
  repeat' first | with_reducible rfl | simp only [Dev.raise_fuses, Dev.setChan_fuses] | split

theorem Dev.retireRank_fuses (d : Dev) (ch rank la : Nat) : (Dev.retireRank d ch rank la).sec.fuses = d.sec.fuses := by
  unfold Dev.retireRank
  repeat' first | with_reducible rfl | simp only [Dev.setChan_fuses, Dev.raise_fuses] | split

theorem Dev.failDevice_fuses (d : Dev) (ch dev la : Nat) : (Dev.failDevice d ch dev la).sec.fuses = d.sec.fuses := by
  unfold Dev.failDevice
  repeat' first | with_reducible rfl | simp only [Dev.setChan_fuses, Dev.raise_fuses, Dev.retireRank_fuses] | split

theorem Dev.noteCorrected_fuses (d : Dev) (la : Nat) (conf : Bool) (devs : List Nat) : (Dev.noteCorrected d la conf devs).sec.fuses = d.sec.fuses := by
  unfold Dev.noteCorrected
  repeat' first | with_reducible rfl | with_reducible refine ite_fuses ?_ ?_ | dsimp only | simp only [Dev.setChan_fuses, Dev.raise_fuses, Dev.retirePage_fuses, Dev.failDevice_fuses] | split | with_reducible refine (fold_fuses _ _ (fun _ _ => ?_) _).trans ?_ | with_reducible refine (fold1_fuses _ _ (fun _ _ => ?_) _).trans ?_

theorem Dev.checkLine_fuses (d : Dev) (la : Nat) (conf mac : Bool) (ctx : Option Nat) : (Dev.checkLine d la conf mac ctx).1.sec.fuses = d.sec.fuses := by
  unfold Dev.checkLine
  repeat' first | with_reducible rfl | simp only [Dev.noteCorrected_fuses, Dev.setChan_fuses, Dev.raise_fuses, Dev.retirePage_fuses, fold_fuses] | split

theorem Dev.extLineRead_fuses (d : Dev) (p off n : Nat) (ctx : Option Nat) : (Dev.extLineRead d p off n ctx).1.sec.fuses = d.sec.fuses := by
  unfold Dev.extLineRead
  repeat' first | with_reducible rfl | simp only [Dev.checkLine_fuses] | split

theorem Dev.extLineWrite_fuses (d : Dev) (p off : Nat) (bs : List Byte) (ctx : Option Nat) : (Dev.extLineWrite d p off bs ctx).1.sec.fuses = d.sec.fuses := by
  unfold Dev.extLineWrite
  repeat' first | with_reducible rfl | simp only [Dev.checkLine_fuses] | split

theorem Dev.extRead_fuses (d : Dev) (p off n : Nat) (ctx : Option Nat) : (Dev.extRead d p off n ctx).1.sec.fuses = d.sec.fuses := by
  unfold Dev.extRead
  repeat' first | with_reducible rfl | with_reducible refine ite_fuses ?_ ?_ | dsimp only | simp only [Dev.extLineRead_fuses] | split | with_reducible refine (fold_fuses _ _ (fun _ _ => ?_) _).trans ?_ | with_reducible refine (fold1_fuses _ _ (fun _ _ => ?_) _).trans ?_

theorem Dev.extWrite_fuses (d : Dev) (p off : Nat) (bs : List Byte) (ctx : Option Nat) : (Dev.extWrite d p off bs ctx).1.sec.fuses = d.sec.fuses := by
  unfold Dev.extWrite
  repeat' first | with_reducible rfl | with_reducible refine ite_fuses ?_ ?_ | dsimp only | simp only [Dev.extLineWrite_fuses] | split | with_reducible refine (fold_fuses _ _ (fun _ _ => ?_) _).trans ?_ | with_reducible refine (fold1_fuses _ _ (fun _ _ => ?_) _).trans ?_

theorem Dev.fillPages_fuses (d : Dev) (p page pages : Nat) : (Dev.fillPages d p page pages).sec.fuses = d.sec.fuses := by unfold Dev.fillPages; rfl

theorem Dev.fillGranules_fuses (d : Dev) (gs : List Granule) : (Dev.fillGranules d gs).sec.fuses = d.sec.fuses := by unfold Dev.fillGranules; rfl

theorem Dev.addGranule_fuses (d : Dev) (p : Nat) {y : Dev} : Dev.addGranule d p = some y → y.sec.fuses = d.sec.fuses := by
  unfold Dev.addGranule
  repeat' first | with_reducible rfl | with_reducible refine ite_fuses ?_ ?_ | dsimp only | simp only [Dev.setChan_fuses, Dev.setPart_fuses, Dev.fillGranules_fuses] | split | (intro h; cases h) | with_reducible refine (fold_fuses _ _ (fun _ _ => ?_) _).trans ?_ | with_reducible refine (fold1_fuses _ _ (fun _ _ => ?_) _).trans ?_

theorem Dev.takeRun_fuses (d : Dev) (p n m res : Nat) (x0 : Nat) {y : (Dev × Nat)} : Dev.takeRun d p n m res x0 = some y → y.1.sec.fuses = d.sec.fuses := by
  induction x0 generalizing d with
  | zero => intro h; cases h
  | succ k ih =>
    unfold Dev.takeRun
    split
    · intro h; cases h; rfl
    · split
      · rename_i d1 h1; intro h; exact (ih _ h).trans (Dev.addGranule_fuses _ _ h1)
      · intro h; cases h

theorem Dev.placeRead_fuses (d : Dev) (node : Nat) (p : Place) (n : Nat) : (Dev.placeRead d node p n).1.sec.fuses = d.sec.fuses := by
  unfold Dev.placeRead; split <;> simp only [Dev.ldmRead_fuses, Dev.vsRead_fuses, Dev.extRead_fuses]

theorem Dev.placeWrite_fuses (d : Dev) (node : Nat) (p : Place) (bs : List Byte) : (Dev.placeWrite d node p bs).1.sec.fuses = d.sec.fuses := by
  unfold Dev.placeWrite; split <;> simp only [Dev.ldmWrite_fuses, Dev.vsWrite_fuses, Dev.extWrite_fuses]

theorem Dev.localRead_fuses (d : Dev) (node slot a n : Nat) : (Dev.localRead d node slot a n).1.sec.fuses = d.sec.fuses := by
  unfold Dev.localRead
  repeat' first | with_reducible rfl | with_reducible refine ite_fuses ?_ ?_ | dsimp only | simp only [Dev.placeRead_fuses] | split | with_reducible refine (fold_fuses _ _ (fun _ _ => ?_) _).trans ?_ | with_reducible refine (fold1_fuses _ _ (fun _ _ => ?_) _).trans ?_

theorem Dev.logAccess_fuses (d : Dev) (node unit a : Nat) : (Dev.logAccess d node unit a).sec.fuses = d.sec.fuses := by unfold Dev.logAccess; rfl

theorem Dev.localWrite_fuses (d : Dev) (node slot a : Nat) (bs : List Byte) : (Dev.localWrite d node slot a bs).1.sec.fuses = d.sec.fuses := by
  unfold Dev.localWrite
  repeat' first | with_reducible rfl | with_reducible refine ite_fuses ?_ ?_ | dsimp only | simp only [Dev.placeWrite_fuses, Dev.logAccess_fuses] | split | with_reducible refine (fold_fuses _ _ (fun _ _ => ?_) _).trans ?_ | with_reducible refine (fold1_fuses _ _ (fun _ _ => ?_) _).trans ?_

theorem Dev.settle_fuses (d : Dev) (node slot : Nat) (lat : List (Nat × Nat)) (x : Issue) (h : x.fusesAre d.sec.fuses) : (d.settle node slot lat x).sec.fuses = d.sec.fuses := by
  cases x <;> simp only [Dev.settle, Dev.setCurd_fuses, Dev.curdFault_fuses] <;> exact h

theorem Dev.fetch_fuses (d : Dev) (node slot : Nat) : (Dev.fetch d node slot).1.sec.fuses = d.sec.fuses := by
  unfold Dev.fetch
  repeat' first | with_reducible rfl | simp only [Dev.isRead_fuses] | split

theorem Dev.curdStep_fuses (d : Dev) (node slot : Nat) (run : Dev → Curd → CurdInstr → Option Issue)
    (h : ∀ e c i x, run e c i = some x → x.fusesAre e.sec.fuses) : (d.curdStep node slot run).sec.fuses = d.sec.fuses := by
  rcases curdStep_cases d node slot run with h1 | ⟨cause, hf, h1⟩ | ⟨i, c, x, e, hf, hc, he, hx, h1⟩ <;> rw [h1]
  · rw [Dev.curdFault_fuses, Dev.fetch_fuses]
  · have hd : e.sec.fuses = d.sec.fuses := by rw [he, Dev.setCurd_fuses, Dev.fetch_fuses]
    rw [Dev.settle_fuses, hd]
    split
    · trivial
    · exact h _ _ _ _ hx

theorem retireG_fuses (d : Dev) (c : Curd) (rd : Reg) (x : Word) (cost : Nat) : (retireG d c rd x cost).fusesAre d.sec.fuses := by unfold retireG; rfl

theorem retireV_fuses (d : Dev) (c : Curd) (v : VReg) (xs : List Word32) : (retireV d c v xs).fusesAre d.sec.fuses := by unfold retireV; rfl

theorem branchOn_fuses (d : Dev) (c : Curd) (taken : Bool) (off : Imm) : (branchOn d c taken off).fusesAre d.sec.fuses := by
  unfold branchOn; split <;> simp only [Issue.fusesAre]

theorem jumpTo_fuses (d : Dev) (c : Curd) (rd : Reg) (target : BitVec 12) : (jumpTo d c rd target).fusesAre d.sec.fuses := by unfold jumpTo; rfl

theorem waitOn_fuses (d : Dev) (c : Curd) (rd : Reg) (target : Word32) (k : Nat) : (waitOn d c rd target k).fusesAre d.sec.fuses := by
  unfold waitOn
  repeat' first | trivial | with_reducible rfl | dsimp only | exact retireG_fuses .. | split | dsimp only [Issue.fusesAre]

theorem runCsrr_fuses (node slot : Nat) (d : Dev) (c : Curd) (i : CurdInstr) (x : Issue) : runCsrr node slot d c i = some x → x.fusesAre d.sec.fuses := by
  unfold runCsrr
  repeat' first | trivial | with_reducible rfl | dsimp only | exact retireG_fuses .. | (intro h; cases h) | split | dsimp only [Issue.fusesAre]

theorem runAlu_fuses (d : Dev) (c : Curd) (i : CurdInstr) (x : Issue) : runAlu d c i = some x → x.fusesAre d.sec.fuses := by
  unfold runAlu
  repeat' first | trivial | with_reducible rfl | dsimp only | exact retireG_fuses .. | (intro h; cases h) | split | dsimp only [Issue.fusesAre]

theorem runAddi_fuses (d : Dev) (c : Curd) (i : CurdInstr) (x : Issue) : runAddi d c i = some x → x.fusesAre d.sec.fuses := by
  unfold runAddi
  repeat' first | trivial | with_reducible rfl | dsimp only | exact retireG_fuses .. | (intro h; cases h) | split | dsimp only [Issue.fusesAre]

theorem runAndi_fuses (d : Dev) (c : Curd) (i : CurdInstr) (x : Issue) : runAndi d c i = some x → x.fusesAre d.sec.fuses := by
  unfold runAndi
  repeat' first | trivial | with_reducible rfl | dsimp only | exact retireG_fuses .. | (intro h; cases h) | split | dsimp only [Issue.fusesAre]

theorem runOri_fuses (d : Dev) (c : Curd) (i : CurdInstr) (x : Issue) : runOri d c i = some x → x.fusesAre d.sec.fuses := by
  unfold runOri
  repeat' first | trivial | with_reducible rfl | dsimp only | exact retireG_fuses .. | (intro h; cases h) | split | dsimp only [Issue.fusesAre]

theorem runXori_fuses (d : Dev) (c : Curd) (i : CurdInstr) (x : Issue) : runXori d c i = some x → x.fusesAre d.sec.fuses := by
  unfold runXori
  repeat' first | trivial | with_reducible rfl | dsimp only | exact retireG_fuses .. | (intro h; cases h) | split | dsimp only [Issue.fusesAre]

theorem runSlti_fuses (d : Dev) (c : Curd) (i : CurdInstr) (x : Issue) : runSlti d c i = some x → x.fusesAre d.sec.fuses := by
  unfold runSlti
  repeat' first | trivial | with_reducible rfl | dsimp only | exact retireG_fuses .. | (intro h; cases h) | split | dsimp only [Issue.fusesAre]

theorem runShi_fuses (d : Dev) (c : Curd) (i : CurdInstr) (x : Issue) : runShi d c i = some x → x.fusesAre d.sec.fuses := by
  unfold runShi
  repeat' first | trivial | with_reducible rfl | dsimp only | exact retireG_fuses .. | (intro h; cases h) | split | dsimp only [Issue.fusesAre]

theorem runMovz_fuses (d : Dev) (c : Curd) (i : CurdInstr) (x : Issue) : runMovz d c i = some x → x.fusesAre d.sec.fuses := by
  unfold runMovz
  repeat' first | trivial | with_reducible rfl | dsimp only | exact retireG_fuses .. | (intro h; cases h) | split | dsimp only [Issue.fusesAre]

theorem runMovk_fuses (d : Dev) (c : Curd) (i : CurdInstr) (x : Issue) : runMovk d c i = some x → x.fusesAre d.sec.fuses := by
  unfold runMovk
  repeat' first | trivial | with_reducible rfl | dsimp only | exact retireG_fuses .. | (intro h; cases h) | split | dsimp only [Issue.fusesAre]

theorem runBeq_fuses (d : Dev) (c : Curd) (i : CurdInstr) (x : Issue) : runBeq d c i = some x → x.fusesAre d.sec.fuses := by
  unfold runBeq
  repeat' first | trivial | with_reducible rfl | dsimp only | exact branchOn_fuses .. | simp only [branchOn_fuses] | (intro h; cases h) | split | dsimp only [Issue.fusesAre]

theorem runBne_fuses (d : Dev) (c : Curd) (i : CurdInstr) (x : Issue) : runBne d c i = some x → x.fusesAre d.sec.fuses := by
  unfold runBne
  repeat' first | trivial | with_reducible rfl | dsimp only | exact branchOn_fuses .. | simp only [branchOn_fuses] | (intro h; cases h) | split | dsimp only [Issue.fusesAre]

theorem runBlt_fuses (d : Dev) (c : Curd) (i : CurdInstr) (x : Issue) : runBlt d c i = some x → x.fusesAre d.sec.fuses := by
  unfold runBlt
  repeat' first | trivial | with_reducible rfl | dsimp only | exact branchOn_fuses .. | simp only [branchOn_fuses] | (intro h; cases h) | split | dsimp only [Issue.fusesAre]

theorem runBge_fuses (d : Dev) (c : Curd) (i : CurdInstr) (x : Issue) : runBge d c i = some x → x.fusesAre d.sec.fuses := by
  unfold runBge
  repeat' first | trivial | with_reducible rfl | dsimp only | exact branchOn_fuses .. | simp only [branchOn_fuses] | (intro h; cases h) | split | dsimp only [Issue.fusesAre]

theorem runBltu_fuses (d : Dev) (c : Curd) (i : CurdInstr) (x : Issue) : runBltu d c i = some x → x.fusesAre d.sec.fuses := by
  unfold runBltu
  repeat' first | trivial | with_reducible rfl | dsimp only | exact branchOn_fuses .. | simp only [branchOn_fuses] | (intro h; cases h) | split | dsimp only [Issue.fusesAre]

theorem runBgeu_fuses (d : Dev) (c : Curd) (i : CurdInstr) (x : Issue) : runBgeu d c i = some x → x.fusesAre d.sec.fuses := by
  unfold runBgeu
  repeat' first | trivial | with_reducible rfl | dsimp only | exact branchOn_fuses .. | simp only [branchOn_fuses] | (intro h; cases h) | split | dsimp only [Issue.fusesAre]

theorem runJal_fuses (d : Dev) (c : Curd) (i : CurdInstr) (x : Issue) : runJal d c i = some x → x.fusesAre d.sec.fuses := by
  unfold runJal
  repeat' first | trivial | with_reducible rfl | dsimp only | exact jumpTo_fuses .. | (intro h; cases h) | split | dsimp only [Issue.fusesAre]

theorem runJalr_fuses (d : Dev) (c : Curd) (i : CurdInstr) (x : Issue) : runJalr d c i = some x → x.fusesAre d.sec.fuses := by
  unfold runJalr
  repeat' first | trivial | with_reducible rfl | dsimp only | exact jumpTo_fuses .. | (intro h; cases h) | split | dsimp only [Issue.fusesAre]

theorem runCadd_fuses (d : Dev) (c : Curd) (i : CurdInstr) (x : Issue) : runCadd d c i = some x → x.fusesAre d.sec.fuses := by
  unfold runCadd
  repeat' first | trivial | with_reducible rfl | dsimp only | (intro h; cases h) | split | dsimp only [Issue.fusesAre]

theorem runNop_fuses (d : Dev) (c : Curd) (i : CurdInstr) (x : Issue) : runNop d c i = some x → x.fusesAre d.sec.fuses := by
  unfold runNop
  repeat' first | trivial | with_reducible rfl | dsimp only | (intro h; cases h) | split | dsimp only [Issue.fusesAre]

theorem runRand_fuses (d : Dev) (c : Curd) (i : CurdInstr) (x : Issue) : runRand d c i = some x → x.fusesAre d.sec.fuses := by
  unfold runRand
  repeat' first | trivial | with_reducible rfl | dsimp only | exact retireG_fuses .. | simp only [Dev.draw_fuses, retireG_fuses] | (intro h; cases h) | split | dsimp only [Issue.fusesAre]

theorem runCsrw_fuses (d : Dev) (c : Curd) (i : CurdInstr) (x : Issue) : runCsrw d c i = some x → x.fusesAre d.sec.fuses := by
  unfold runCsrw
  repeat' first | trivial | with_reducible rfl | dsimp only | (intro h; cases h) | split | dsimp only [Issue.fusesAre]

theorem runWait_fuses (d : Dev) (c : Curd) (i : CurdInstr) (x : Issue) : runWait d c i = some x → x.fusesAre d.sec.fuses := by
  unfold runWait
  repeat' first | trivial | with_reducible rfl | dsimp only | exact waitOn_fuses .. | (intro h; cases h) | split | dsimp only [Issue.fusesAre]

theorem runVop_fuses (d : Dev) (c : Curd) (i : CurdInstr) (x : Issue) : runVop d c i = some x → x.fusesAre d.sec.fuses := by
  unfold runVop
  repeat' first | trivial | with_reducible rfl | dsimp only | exact retireV_fuses .. | (intro h; cases h) | split | dsimp only [Issue.fusesAre]

theorem runVred_fuses (d : Dev) (c : Curd) (i : CurdInstr) (x : Issue) : runVred d c i = some x → x.fusesAre d.sec.fuses := by
  unfold runVred
  repeat' first | trivial | with_reducible rfl | dsimp only | exact retireG_fuses .. | (intro h; cases h) | split | dsimp only [Issue.fusesAre]

theorem runVmovSplat_fuses (d : Dev) (c : Curd) (i : CurdInstr) (x : Issue) : runVmovSplat d c i = some x → x.fusesAre d.sec.fuses := by
  unfold runVmovSplat
  repeat' first | trivial | with_reducible rfl | dsimp only | exact retireV_fuses .. | (intro h; cases h) | split | dsimp only [Issue.fusesAre]

theorem runVmovExtract_fuses (d : Dev) (c : Curd) (i : CurdInstr) (x : Issue) : runVmovExtract d c i = some x → x.fusesAre d.sec.fuses := by
  unfold runVmovExtract
  repeat' first | trivial | with_reducible rfl | dsimp only | exact retireG_fuses .. | (intro h; cases h) | split | dsimp only [Issue.fusesAre]

theorem runVmovPermute_fuses (d : Dev) (c : Curd) (i : CurdInstr) (x : Issue) : runVmovPermute d c i = some x → x.fusesAre d.sec.fuses := by
  unfold runVmovPermute
  repeat' first | trivial | with_reducible rfl | dsimp only | exact retireV_fuses .. | (intro h; cases h) | split | dsimp only [Issue.fusesAre]

theorem runVcvtNarrow_fuses (d : Dev) (c : Curd) (i : CurdInstr) (x : Issue) : runVcvtNarrow d c i = some x → x.fusesAre d.sec.fuses := by
  unfold runVcvtNarrow
  repeat' first | trivial | with_reducible rfl | dsimp only | exact retireV_fuses .. | (intro h; cases h) | split | dsimp only [Issue.fusesAre]

theorem runVcvtWiden_fuses (d : Dev) (c : Curd) (i : CurdInstr) (x : Issue) : runVcvtWiden d c i = some x → x.fusesAre d.sec.fuses := by
  unfold runVcvtWiden
  repeat' first | trivial | with_reducible rfl | dsimp only | exact retireV_fuses .. | (intro h; cases h) | split | dsimp only [Issue.fusesAre]

theorem Dev.ldmAccess_fuses (d : Dev) (node slot off : Nat) (k : LoadKind) : (Dev.ldmAccess d node slot off k).1.sec.fuses = d.sec.fuses := by
  unfold Dev.ldmAccess
  repeat' first | with_reducible rfl | simp only [Dev.ldmRead_fuses, Dev.ldmWrite_fuses] | split

theorem loadIssue_fuses (d : Dev) (node slot : Nat) (c : Curd) (a : Nat) (k : LoadKind) : (loadIssue d node slot c a k).fusesAre d.sec.fuses := by
  unfold loadIssue
  repeat' first | trivial | with_reducible rfl | dsimp only | simp only [Dev.ldmAccess_fuses, Dev.setVat_fuses] | split | dsimp only [Issue.fusesAre]

theorem runLoad_fuses (op : LoadOp) (node slot : Nat) (d : Dev) (c : Curd) (i : CurdInstr) (x : Issue) : runLoad op node slot d c i = some x → x.fusesAre d.sec.fuses := by
  unfold runLoad
  repeat' first | trivial | with_reducible rfl | dsimp only | exact loadIssue_fuses .. | (intro h; cases h) | split | dsimp only [Issue.fusesAre]

theorem runVld_fuses (node slot : Nat) (d : Dev) (c : Curd) (i : CurdInstr) (x : Issue) : runVld node slot d c i = some x → x.fusesAre d.sec.fuses := by
  unfold runVld
  repeat' first | trivial | with_reducible rfl | dsimp only | exact loadIssue_fuses .. | (intro h; cases h) | split | dsimp only [Issue.fusesAre]

theorem runAmo_fuses (node slot : Nat) (d : Dev) (c : Curd) (i : CurdInstr) (x : Issue) : runAmo node slot d c i = some x → x.fusesAre d.sec.fuses := by
  unfold runAmo
  repeat' first | trivial | with_reducible rfl | dsimp only | exact loadIssue_fuses .. | (intro h; cases h) | split | dsimp only [Issue.fusesAre]

theorem storeIssue_fuses (d : Dev) (node slot : Nat) (c : Curd) (a : Nat) (bs : List Byte) : (storeIssue d node slot c a bs).fusesAre d.sec.fuses := by
  unfold storeIssue
  repeat' first | trivial | with_reducible rfl | dsimp only | simp only [Dev.ldmWrite_fuses, Dev.setVat_fuses] | split | dsimp only [Issue.fusesAre]

theorem runStore_fuses (op : StoreOp) (node slot : Nat) (d : Dev) (c : Curd) (i : CurdInstr) (x : Issue) : runStore op node slot d c i = some x → x.fusesAre d.sec.fuses := by
  unfold runStore
  repeat' first | trivial | with_reducible rfl | dsimp only | exact storeIssue_fuses .. | (intro h; cases h) | split | dsimp only [Issue.fusesAre]

theorem runVst_fuses (node slot : Nat) (d : Dev) (c : Curd) (i : CurdInstr) (x : Issue) : runVst node slot d c i = some x → x.fusesAre d.sec.fuses := by
  unfold runVst
  repeat' first | trivial | with_reducible rfl | dsimp only | exact storeIssue_fuses .. | (intro h; cases h) | split | dsimp only [Issue.fusesAre]

theorem runIwr_fuses (node slot : Nat) (d : Dev) (c : Curd) (i : CurdInstr) (x : Issue) : runIwr node slot d c i = some x → x.fusesAre d.sec.fuses := by
  unfold runIwr
  repeat' first | trivial | with_reducible rfl | dsimp only | simp only [Dev.ldmRead_fuses, Dev.isWrite_fuses] | (intro h; cases h) | split | dsimp only [Issue.fusesAre]

theorem runBreak_fuses (node : Nat) (d : Dev) (c : Curd) (i : CurdInstr) (x : Issue) : runBreak node d c i = some x → x.fusesAre d.sec.fuses := by
  unfold runBreak
  repeat' first | trivial | with_reducible rfl | dsimp only | (intro h; cases h) | split | dsimp only [Issue.fusesAre]

theorem Dev.loadAnswer_fuses (d : Dev) (node : Nat) (l : PLoad) : (Dev.loadAnswer d node l).1.sec.fuses = d.sec.fuses := by
  unfold Dev.loadAnswer
  repeat' first | with_reducible rfl | simp only [Dev.placeRead_fuses, Dev.placeWrite_fuses] | split

theorem doLoadResponse_fuses (d : Dev) (node slot idx : Nat) : (doLoadResponse d node slot idx).sec.fuses = d.sec.fuses := by
  unfold doLoadResponse
  repeat' first | with_reducible rfl | simp only [Dev.setCurd_fuses, Dev.curdFault_fuses, Dev.loadAnswer_fuses] | split

theorem Dev.notePeerFail_fuses (d : Dev) (node slot a : Nat) : (Dev.notePeerFail d node slot a).sec.fuses = d.sec.fuses := by
  unfold Dev.notePeerFail
  repeat' first | with_reducible rfl | with_reducible refine ite_fuses ?_ ?_ | dsimp only | simp only [Dev.setNi_fuses] | split | with_reducible refine (fold_fuses _ _ (fun _ _ => ?_) _).trans ?_ | with_reducible refine (fold1_fuses _ _ (fun _ _ => ?_) _).trans ?_

theorem doPostedStorePerformed_fuses (d : Dev) (node slot idx : Nat) : (doPostedStorePerformed d node slot idx).sec.fuses = d.sec.fuses := by
  unfold doPostedStorePerformed
  repeat' first | with_reducible rfl | simp only [Dev.setCurd_fuses, Dev.logAccess_fuses, Dev.placeWrite_fuses, Dev.notePeerFail_fuses] | split

theorem doResolverAccept_fuses (d : Dev) (node : Nat) : (doResolverAccept d node).sec.fuses = d.sec.fuses := by
  unfold doResolverAccept
  repeat' first | with_reducible rfl | simp only [Dev.setVat_fuses, Dev.setCurd_fuses] | split

theorem Dev.setFlip_fuses (d : Dev) (blk : MemBlk) (node slot : Nat) (f : Flip) : (Dev.setFlip d blk node slot f).sec.fuses = d.sec.fuses := by
  unfold Dev.setFlip; split <;> simp only [Dev.setCurd_fuses, Dev.setVat_fuses]

theorem doFlipArm_fuses (d : Dev) (blk : MemBlk) (node slot : Nat) (data : BitVec 64) (chk : BitVec 8) : (doFlipArm d blk node slot data chk).sec.fuses = d.sec.fuses := by
  unfold doFlipArm; split <;> simp only [Dev.setFlip_fuses]

theorem tensorIssue_fuses (d : Dev) (node slot : Nat) (c : Curd) (op : TOp) : (tensorIssue d node slot c op).fusesAre d.sec.fuses := by
  unfold tensorIssue
  repeat' first | trivial | with_reducible rfl | dsimp only | split | dsimp only [Issue.fusesAre]

theorem runTmma_fuses (node slot : Nat) (d : Dev) (c : Curd) (i : CurdInstr) (x : Issue) : runTmma node slot d c i = some x → x.fusesAre d.sec.fuses := by
  unfold runTmma
  repeat' first | trivial | with_reducible rfl | dsimp only | exact tensorIssue_fuses .. | (intro h; cases h) | split | dsimp only [Issue.fusesAre]

theorem runTld_fuses (node slot : Nat) (d : Dev) (c : Curd) (i : CurdInstr) (x : Issue) : runTld node slot d c i = some x → x.fusesAre d.sec.fuses := by
  unfold runTld
  repeat' first | trivial | with_reducible rfl | dsimp only | exact tensorIssue_fuses .. | (intro h; cases h) | split | dsimp only [Issue.fusesAre]

theorem runTst_fuses (node slot : Nat) (d : Dev) (c : Curd) (i : CurdInstr) (x : Issue) : runTst node slot d c i = some x → x.fusesAre d.sec.fuses := by
  unfold runTst
  repeat' first | trivial | with_reducible rfl | dsimp only | exact tensorIssue_fuses .. | (intro h; cases h) | split | dsimp only [Issue.fusesAre]

theorem runTopClear_fuses (node slot : Nat) (d : Dev) (c : Curd) (i : CurdInstr) (x : Issue) : runTopClear node slot d c i = some x → x.fusesAre d.sec.fuses := by
  unfold runTopClear
  repeat' first | trivial | with_reducible rfl | dsimp only | exact tensorIssue_fuses .. | (intro h; cases h) | split | dsimp only [Issue.fusesAre]

theorem runTopCopy_fuses (node slot : Nat) (d : Dev) (c : Curd) (i : CurdInstr) (x : Issue) : runTopCopy node slot d c i = some x → x.fusesAre d.sec.fuses := by
  unfold runTopCopy
  repeat' first | trivial | with_reducible rfl | dsimp only | exact tensorIssue_fuses .. | (intro h; cases h) | split | dsimp only [Issue.fusesAre]

theorem runTopAdd_fuses (node slot : Nat) (d : Dev) (c : Curd) (i : CurdInstr) (x : Issue) : runTopAdd node slot d c i = some x → x.fusesAre d.sec.fuses := by
  unfold runTopAdd
  repeat' first | trivial | with_reducible rfl | dsimp only | exact tensorIssue_fuses .. | (intro h; cases h) | split | dsimp only [Issue.fusesAre]

theorem Dev.drawStall_fuses (d : Dev) (bound : Option Nat) : (Dev.drawStall d bound).2.sec.fuses = d.sec.fuses := by
  unfold Dev.drawStall
  repeat' first | with_reducible rfl | with_reducible refine ite_fuses ?_ ?_ | dsimp only | simp only [Dev.draw_fuses] | split | with_reducible refine (fold_fuses _ _ (fun _ _ => ?_) _).trans ?_ | with_reducible refine (fold1_fuses _ _ (fun _ _ => ?_) _).trans ?_

theorem tensorRun_fuses (d : Dev) (node slot : Nat) (e : TQEntry) : (tensorRun d node slot e).sec.fuses = d.sec.fuses := by
  unfold tensorRun
  repeat' first | with_reducible rfl | simp only [Dev.setCurd_fuses, Dev.localRead_fuses, Dev.curdFault_fuses, Dev.localWrite_fuses, Dev.drawStall_fuses] | split

theorem doTensorExecute_fuses (d : Dev) (node slot : Nat) : (doTensorExecute d node slot).sec.fuses = d.sec.fuses := by
  unfold doTensorExecute
  repeat' first | with_reducible rfl | simp only [tensorRun_fuses, Dev.setCurd_fuses] | split

theorem Dev.submitTo_fuses (d : Dev) (node ctx tag : Nat) (op : TagOp) (f : Flit) (ga src ord dest : Nat) : (Dev.submitTo d node ctx tag op f ga src ord dest).sec.fuses = d.sec.fuses := by
  unfold Dev.submitTo
  repeat' first | with_reducible rfl | with_reducible refine ite_fuses ?_ ?_ | dsimp only | simp only [Dev.setNi_fuses] | split | with_reducible refine (fold_fuses _ _ (fun _ _ => ?_) _).trans ?_ | with_reducible refine (fold1_fuses _ _ (fun _ _ => ?_) _).trans ?_

theorem Dev.submit_fuses (d : Dev) (node ctx tag : Nat) (op : TagOp) (f : Flit) (ga src ord : Nat) : (Dev.submit d node ctx tag op f ga src ord).sec.fuses = d.sec.fuses := by unfold Dev.submit; rfl

theorem Dev.offer_fuses (d : Dev) (node : Nat) (p : Plane) (f : Flit) : (Dev.offer d node p f).sec.fuses = d.sec.fuses := by
  unfold Dev.offer
  repeat' first | with_reducible rfl | simp only [Dev.setNi_fuses, Dev.setEdge_fuses] | split

theorem Dev.reply_fuses (d : Dev) (node : Nat) (q : Flit) (typ status : Nat) (data : List Byte) : (Dev.reply d node q typ status data).sec.fuses = d.sec.fuses := by
  unfold Dev.reply
  repeat' first | with_reducible rfl | simp only [Dev.offer_fuses, Dev.setNi_fuses] | split

theorem Dev.raiseAt_fuses (d : Dev) (node kind addr : Nat) (ctx : Option Nat) : (Dev.raiseAt d node kind addr ctx).sec.fuses = d.sec.fuses := by unfold Dev.raiseAt; rfl

theorem Dev.hostWrite_fuses (d : Dev) (a : Nat) (bs : List Byte) : (Dev.hostWrite d a bs).sec.fuses = d.sec.fuses := by unfold Dev.hostWrite; rfl

theorem Dev.hostLine_fuses (d : Dev) (node lo cnt ctx gen off n : Nat) (op : TagOp) (w : Option (List Byte)) {y : Dev × Nat} : d.hostLine node lo cnt ctx gen off n op w = some y → y.1.sec.fuses = d.sec.fuses := by
  unfold Dev.hostLine
  repeat' first | (intro h; cases h) | with_reducible rfl | dsimp only | simp only [Dev.raise_fuses, Dev.offer_fuses, Dev.setNi_fuses] | split

theorem Dev.setEngine_fuses (d : Dev) (e : Nat) (r : Option HdmaRun) : (Dev.setEngine d e r).sec.fuses = d.sec.fuses := by
  unfold Dev.setEngine
  repeat' first | with_reducible rfl | with_reducible refine ite_fuses ?_ ?_ | dsimp only | split | with_reducible refine (fold_fuses _ _ (fun _ _ => ?_) _).trans ?_ | with_reducible refine (fold1_fuses _ _ (fun _ _ => ?_) _).trans ?_

theorem Dev.hdmaLost_fuses (d : Dev) (e : Nat) (r : HdmaRun) (code : Nat) : (Dev.hdmaLost d e r code).sec.fuses = d.sec.fuses := by
  unfold Dev.hdmaLost
  repeat' first | with_reducible rfl | with_reducible refine ite_fuses ?_ ?_ | dsimp only | simp only [Dev.setFunc_fuses, Dev.setEngine_fuses] | split | with_reducible refine (fold_fuses _ _ (fun _ _ => ?_) _).trans ?_ | with_reducible refine (fold1_fuses _ _ (fun _ _ => ?_) _).trans ?_

theorem Dev.hdmaIssue_fuses (d : Dev) (e : Nat) : (Dev.hdmaIssue d e).sec.fuses = d.sec.fuses := by
  unfold Dev.hdmaIssue
  repeat' first | with_reducible rfl | with_reducible refine ite_fuses ?_ ?_ | dsimp only | simp only [Dev.setFunc_fuses, Dev.hostLine_fuses, Dev.setEngine_fuses, Dev.hdmaLost_fuses] | split | with_reducible refine (fold_fuses _ _ (fun _ _ => ?_) _).trans ?_ | with_reducible refine (fold1_fuses _ _ (fun _ _ => ?_) _).trans ?_ | exact Dev.hostLine_fuses _ _ _ _ _ _ _ _ _ _ ‹_›

theorem Dev.hdmaFill_fuses (d : Dev) (e : Nat) : (Dev.hdmaFill d e).sec.fuses = d.sec.fuses := by
  unfold Dev.hdmaFill
  repeat' first | with_reducible rfl | with_reducible refine ite_fuses ?_ ?_ | dsimp only | simp only [Dev.hdmaIssue_fuses] | split | with_reducible refine (fold_fuses _ _ (fun _ _ => ?_) _).trans ?_ | with_reducible refine (fold1_fuses _ _ (fun _ _ => ?_) _).trans ?_

theorem Dev.hdmaLine_fuses (d : Dev) (e off n code : Nat) (data : List Byte) : (Dev.hdmaLine d e off n code data).sec.fuses = d.sec.fuses := by
  unfold Dev.hdmaLine
  repeat' first | with_reducible rfl | with_reducible refine ite_fuses ?_ ?_ | dsimp only | simp only [Dev.hostWrite_fuses, Dev.setEngine_fuses, Dev.hdmaLost_fuses, Dev.hdmaFill_fuses] | split | with_reducible refine (fold_fuses _ _ (fun _ _ => ?_) _).trans ?_ | with_reducible refine (fold1_fuses _ _ (fun _ _ => ?_) _).trans ?_

theorem Dev.hdmaDrop_fuses (d : Dev) (e : Nat) : (Dev.hdmaDrop d e).sec.fuses = d.sec.fuses := by
  unfold Dev.hdmaDrop
  repeat' first | with_reducible rfl | with_reducible refine ite_fuses ?_ ?_ | dsimp only | simp only [Dev.setNi_fuses] | split | with_reducible refine (fold_fuses _ _ (fun _ _ => ?_) _).trans ?_ | with_reducible refine (fold1_fuses _ _ (fun _ _ => ?_) _).trans ?_

theorem Dev.setWins_fuses (d : Dev) (l : List WinReq) : (Dev.setWins d l).sec.fuses = d.sec.fuses := by
  unfold Dev.setWins
  repeat' first | with_reducible rfl | with_reducible refine ite_fuses ?_ ?_ | dsimp only | split | with_reducible refine (fold_fuses _ _ (fun _ _ => ?_) _).trans ?_ | with_reducible refine (fold1_fuses _ _ (fun _ _ => ?_) _).trans ?_

theorem Dev.setWin_fuses (d : Dev) (w : WinReq) : (Dev.setWin d w).sec.fuses = d.sec.fuses := by
  unfold Dev.setWin
  repeat' first | with_reducible rfl | with_reducible refine ite_fuses ?_ ?_ | dsimp only | simp only [Dev.setWins_fuses] | split | with_reducible refine (fold_fuses _ _ (fun _ _ => ?_) _).trans ?_ | with_reducible refine (fold1_fuses _ _ (fun _ _ => ?_) _).trans ?_

theorem Dev.winRefused_fuses (d : Dev) (f ctx off code : Nat) (write : Bool) : (Dev.winRefused d f ctx off code write).sec.fuses = d.sec.fuses := by
  unfold Dev.winRefused
  repeat' first | with_reducible rfl | simp only [Dev.setFunc_fuses, Dev.raise_fuses] | split

theorem Dev.winIssue_fuses (d : Dev) (id : Nat) : (Dev.winIssue d id).sec.fuses = d.sec.fuses := by
  unfold Dev.winIssue
  repeat' first | with_reducible rfl | with_reducible refine ite_fuses ?_ ?_ | dsimp only | simp only [Dev.hostLine_fuses, Dev.setWin_fuses] | split | with_reducible refine (fold_fuses _ _ (fun _ _ => ?_) _).trans ?_ | with_reducible refine (fold1_fuses _ _ (fun _ _ => ?_) _).trans ?_ | exact Dev.hostLine_fuses _ _ _ _ _ _ _ _ _ _ ‹_›

theorem Dev.winFill_fuses (d : Dev) : (Dev.winFill d).sec.fuses = d.sec.fuses := by
  unfold Dev.winFill
  repeat' first | with_reducible rfl | with_reducible refine ite_fuses ?_ ?_ | dsimp only | simp only [Dev.winIssue_fuses] | split | with_reducible refine (fold_fuses _ _ (fun _ _ => ?_) _).trans ?_ | with_reducible refine (fold1_fuses _ _ (fun _ _ => ?_) _).trans ?_

theorem Dev.winEnd_fuses (d : Dev) (w : WinReq) : (Dev.winEnd d w).sec.fuses = d.sec.fuses := by
  unfold Dev.winEnd
  repeat' first | with_reducible rfl | with_reducible refine ite_fuses ?_ ?_ | dsimp only | simp only [Dev.isWrite_fuses, Dev.setWins_fuses, Dev.winRefused_fuses] | split | with_reducible refine (fold_fuses _ _ (fun _ _ => ?_) _).trans ?_ | with_reducible refine (fold1_fuses _ _ (fun _ _ => ?_) _).trans ?_

theorem Dev.winSettle_fuses (d : Dev) : (Dev.winSettle d).sec.fuses = d.sec.fuses := by
  unfold Dev.winSettle
  repeat' first | with_reducible rfl | with_reducible refine ite_fuses ?_ ?_ | dsimp only | simp only [Dev.winFill_fuses, Dev.winEnd_fuses] | split | with_reducible refine (fold_fuses _ _ (fun _ _ => ?_) _).trans ?_ | with_reducible refine (fold1_fuses _ _ (fun _ _ => ?_) _).trans ?_

theorem Dev.winLine_fuses (d : Dev) (id off n code : Nat) (data : List Byte) : (Dev.winLine d id off n code data).sec.fuses = d.sec.fuses := by
  unfold Dev.winLine
  repeat' first | with_reducible rfl | with_reducible refine ite_fuses ?_ ?_ | dsimp only | simp only [Dev.setWin_fuses, Dev.winSettle_fuses] | split | with_reducible refine (fold_fuses _ _ (fun _ _ => ?_) _).trans ?_ | with_reducible refine (fold1_fuses _ _ (fun _ _ => ?_) _).trans ?_

theorem Dev.winAbortAll_fuses (d : Dev) : (Dev.winAbortAll d).sec.fuses = d.sec.fuses := by
  unfold Dev.winAbortAll
  repeat' first | with_reducible rfl | with_reducible refine ite_fuses ?_ ?_ | dsimp only | simp only [Dev.winEnd_fuses] | split | with_reducible refine (fold_fuses _ _ (fun _ _ => ?_) _).trans ?_ | with_reducible refine (fold1_fuses _ _ (fun _ _ => ?_) _).trans ?_

theorem Dev.hostForget_fuses (d : Dev) (f : Nat) : (Dev.hostForget d f).sec.fuses = d.sec.fuses := by
  unfold Dev.hostForget
  repeat' first | with_reducible rfl | with_reducible refine ite_fuses ?_ ?_ | dsimp only | simp only [Dev.hdmaDrop_fuses] | split | with_reducible refine (fold_fuses _ _ (fun _ _ => ?_) _).trans ?_ | with_reducible refine (fold1_fuses _ _ (fun _ _ => ?_) _).trans ?_

theorem Dev.setDmaCh_fuses (d : Dev) (node c : Nat) (x : DmaCh) : (Dev.setDmaCh d node c x).sec.fuses = d.sec.fuses := by unfold Dev.setDmaCh; rfl

theorem Dev.cvSend_fuses (d : Dev) (node : Nat) (b : CvBlock) : (Dev.cvSend d node b).sec.fuses = d.sec.fuses := by
  unfold Dev.cvSend; split <;> simp only [Dev.setCvu_fuses]

theorem Dev.dmaLanded_fuses (d : Dev) (node c : Nat) (r : DmaRun) (o n : Nat) : (Dev.dmaLanded d node c r o n).sec.fuses = d.sec.fuses := by unfold Dev.dmaLanded; rfl

theorem Dev.dmaFail_fuses (d : Dev) (node c : Nat) (r : DmaRun) (code a : Nat) : (Dev.dmaFail d node c r code a).sec.fuses = d.sec.fuses := by
  unfold Dev.dmaFail
  repeat' first | with_reducible rfl | with_reducible refine ite_fuses ?_ ?_ | dsimp only | simp only [Dev.setNi_fuses, Dev.logAccess_fuses, Dev.setDmaCh_fuses] | split | with_reducible refine (fold_fuses _ _ (fun _ _ => ?_) _).trans ?_ | with_reducible refine (fold1_fuses _ _ (fun _ _ => ?_) _).trans ?_

theorem Dev.dmaPacket_fuses (d : Dev) (node c t : Nat) (r : DmaRun) (op : TagOp) (typ n a : Nat) (bs : List Byte) : (Dev.dmaPacket d node c t r op typ n a bs).sec.fuses = d.sec.fuses := by
  unfold Dev.dmaPacket
  repeat' first | with_reducible rfl | with_reducible refine ite_fuses ?_ ?_ | dsimp only | simp only [Dev.submit_fuses] | split | with_reducible refine (fold_fuses _ _ (fun _ _ => ?_) _).trans ?_ | with_reducible refine (fold1_fuses _ _ (fun _ _ => ?_) _).trans ?_

theorem Dev.dmaSpill_fuses (d : Dev) (node c t : Nat) (r : DmaRun) (op : TagOp) (typ n off a : Nat) (bs : List Byte) : (Dev.dmaSpill d node c t r op typ n off a bs).sec.fuses = d.sec.fuses := by
  unfold Dev.dmaSpill
  repeat' first | with_reducible rfl | with_reducible refine ite_fuses ?_ ?_ | dsimp only | simp only [Dev.submitTo_fuses] | split | with_reducible refine (fold_fuses _ _ (fun _ _ => ?_) _).trans ?_ | with_reducible refine (fold1_fuses _ _ (fun _ _ => ?_) _).trans ?_

theorem Dev.dmaDrain_fuses (d : Dev) (node c id : Nat) (x0 : Nat) : (Dev.dmaDrain d node c id x0).sec.fuses = d.sec.fuses := by
  induction x0 generalizing d with
  | zero => rfl
  | succ n ih =>
    unfold Dev.dmaDrain
    repeat' first | with_reducible rfl | dsimp only | simp only [ih, Dev.submit_fuses, Dev.setDmaCh_fuses, Dev.dmaFail_fuses, Dev.dmaLanded_fuses, Dev.localWrite_fuses, Dev.dmaPacket_fuses, Dev.dmaSpill_fuses] | split

theorem Dev.dmaPush_fuses (d : Dev) (node c id : Nat) : (Dev.dmaPush d node c id).sec.fuses = d.sec.fuses := by
  unfold Dev.dmaPush
  repeat' first | with_reducible rfl | with_reducible refine ite_fuses ?_ ?_ | dsimp only | simp only [Dev.dmaDrain_fuses] | split | with_reducible refine (fold_fuses _ _ (fun _ _ => ?_) _).trans ?_ | with_reducible refine (fold1_fuses _ _ (fun _ _ => ?_) _).trans ?_

theorem Dev.dmaGot_fuses (d : Dev) (node c id o : Nat) (bs : List Byte) : (Dev.dmaGot d node c id o bs).sec.fuses = d.sec.fuses := by
  unfold Dev.dmaGot
  repeat' first | with_reducible rfl | simp only [Dev.setDmaCh_fuses, Dev.cvSend_fuses, Dev.dmaDrain_fuses, Dev.dmaPush_fuses] | split

theorem Dev.dmaFill_fuses (d : Dev) (node c id : Nat) (x0 : Nat) : (Dev.dmaFill d node c id x0).sec.fuses = d.sec.fuses := by
  induction x0 generalizing d with
  | zero => rfl
  | succ n ih =>
    unfold Dev.dmaFill
    repeat' first | with_reducible rfl | dsimp only | simp only [ih, Dev.submit_fuses, Dev.setDmaCh_fuses, Dev.dmaFail_fuses, Dev.dmaGot_fuses, Dev.localRead_fuses, Dev.dmaPacket_fuses, Dev.dmaSpill_fuses] | split

theorem Dev.dmaReadDone_fuses (d : Dev) (node c id o n code : Nat) (data : List Byte) : (Dev.dmaReadDone d node c id o n code data).sec.fuses = d.sec.fuses := by
  unfold Dev.dmaReadDone
  repeat' first | with_reducible rfl | simp only [Dev.setDmaCh_fuses, Dev.dmaGot_fuses] | split

theorem Dev.dmaWriteDone_fuses (d : Dev) (node c id o n code : Nat) : (Dev.dmaWriteDone d node c id o n code).sec.fuses = d.sec.fuses := by
  unfold Dev.dmaWriteDone
  repeat' first | with_reducible rfl | simp only [Dev.dmaLanded_fuses, Dev.setDmaCh_fuses, Dev.dmaDrain_fuses, Dev.dmaPush_fuses] | split

theorem Dev.cultAccess_fuses (d : Dev) (node : Nat) (x : CultOp) (op : TagOp) (typ n off : Nat) (payload : List Byte) : (Dev.cultAccess d node x op typ n off payload).sec.fuses = d.sec.fuses := by
  unfold Dev.cultAccess; split <;> simp only [Dev.submit_fuses]

theorem Dev.setCultHead_fuses (d : Dev) (node : Nat) (x : CultOp) : (Dev.setCultHead d node x).sec.fuses = d.sec.fuses := by unfold Dev.setCultHead; rfl

theorem Dev.cultEnd_fuses (d : Dev) (node code : Nat) : (Dev.cultEnd d node code).sec.fuses = d.sec.fuses := by
  unfold Dev.cultEnd
  repeat' first | with_reducible rfl | simp only [Dev.setNi_fuses, Dev.completeOp_fuses, Dev.raise_fuses] | split

theorem Dev.cultStart_fuses (d : Dev) (node : Nat) : (Dev.cultStart d node).sec.fuses = d.sec.fuses := by
  unfold Dev.cultStart
  repeat' first | with_reducible rfl | with_reducible refine ite_fuses ?_ ?_ | dsimp only | simp only [Dev.cultEnd_fuses, Dev.cultAccess_fuses, Dev.setCultHead_fuses] | split | with_reducible refine (fold_fuses _ _ (fun _ _ => ?_) _).trans ?_ | with_reducible refine (fold1_fuses _ _ (fun _ _ => ?_) _).trans ?_

theorem Dev.cultPick_fuses (d : Dev) (node : Nat) (x : CultOp) : (Dev.cultPick d node x).sec.fuses = d.sec.fuses := by
  unfold Dev.cultPick
  repeat' first | with_reducible rfl | simp only [Dev.cultEnd_fuses, Dev.setCultHead_fuses, Dev.setCtx_fuses, Dev.cultAccess_fuses, Dev.cvSend_fuses] | split

theorem Dev.cultCrcOut_fuses (d : Dev) (node : Nat) (x : CultOp) : (Dev.cultCrcOut d node x).sec.fuses = d.sec.fuses := by
  unfold Dev.cultCrcOut
  repeat' first | with_reducible rfl | simp only [Dev.setCultHead_fuses, Dev.cultAccess_fuses] | split

theorem Dev.cultDone_fuses (d : Dev) (node : Nat) (op : TagOp) (code : Nat) (data : List Byte) : (Dev.cultDone d node op code data).sec.fuses = d.sec.fuses := by
  unfold Dev.cultDone
  repeat' first | with_reducible rfl | simp only [Dev.setCultHead_fuses, Dev.cultEnd_fuses, Dev.cultPick_fuses, Dev.cultCrcOut_fuses] | split

theorem Dev.cultCrc_fuses (d : Dev) (node v : Nat) : (Dev.cultCrc d node v).sec.fuses = d.sec.fuses := by
  unfold Dev.cultCrc; split <;> simp only [Dev.setCultHead_fuses, Dev.cultCrcOut_fuses]

theorem Dev.finishOp_fuses (d : Dev) (node : Nat) (r : TagRec) (code : Nat) (data : List Byte) : (Dev.finishOp d node r code data).sec.fuses = d.sec.fuses := by
  unfold Dev.finishOp
  repeat' first | with_reducible rfl | simp only [Dev.localWrite_fuses, Dev.completeOp_fuses, Dev.dmaReadDone_fuses, Dev.dmaWriteDone_fuses, Dev.setUnit_fuses, Dev.cultDone_fuses, Dev.setCurd_fuses, Dev.raise_fuses, Dev.hdmaLine_fuses, Dev.winLine_fuses, Dev.cultCrc_fuses] | split

theorem Dev.finishTag_fuses (d : Dev) (node tag code kind : Nat) (data : List Byte) : (Dev.finishTag d node tag code kind data).sec.fuses = d.sec.fuses := by
  unfold Dev.finishTag
  repeat' first | with_reducible rfl | simp only [Dev.setNi_fuses, Dev.raise_fuses, Dev.finishOp_fuses] | split

theorem Dev.marked_fuses (d : Dev) (node : Nat) (chip : Option Nat) : (Dev.marked d node chip).sec.fuses = d.sec.fuses := by
  unfold Dev.marked
  repeat' first | with_reducible rfl | with_reducible refine ite_fuses ?_ ?_ | dsimp only | simp only [Dev.setNi_fuses] | split | with_reducible refine (fold_fuses _ _ (fun _ _ => ?_) _).trans ?_ | with_reducible refine (fold1_fuses _ _ (fun _ _ => ?_) _).trans ?_

theorem Dev.sendDie_fuses (d : Dev) (node tag : Nat) (r : TagRec) (f : Flit) : (Dev.sendDie d node tag r f).sec.fuses = d.sec.fuses := by
  unfold Dev.sendDie
  repeat' first | with_reducible rfl | simp only [Dev.setNi_fuses] | split

theorem Dev.sendChip_fuses (d : Dev) (node tag : Nat) (r : TagRec) (f : Flit) (chip part slot : Nat) : (Dev.sendChip d node tag r f chip part slot).sec.fuses = d.sec.fuses := by
  unfold Dev.sendChip
  repeat' first | with_reducible rfl | simp only [Dev.setNi_fuses, Dev.raise_fuses, Dev.finishTag_fuses] | split

theorem Dev.inject_fuses (d : Dev) (node tag : Nat) (r : TagRec) : (Dev.inject d node tag r).sec.fuses = d.sec.fuses := by
  unfold Dev.inject
  repeat' first | with_reducible rfl | simp only [Dev.setNi_fuses, Dev.finishTag_fuses, Dev.sendDie_fuses, Dev.sendChip_fuses] | split

theorem Dev.lineStart_fuses (d : Dev) (node : Nat) : (Dev.lineStart d node).sec.fuses = d.sec.fuses := by
  unfold Dev.lineStart
  repeat' first | with_reducible rfl | with_reducible refine ite_fuses ?_ ?_ | dsimp only | simp only [Dev.setCurd_fuses, Dev.submitTo_fuses] | split | with_reducible refine (fold_fuses _ _ (fun _ _ => ?_) _).trans ?_ | with_reducible refine (fold1_fuses _ _ (fun _ _ => ?_) _).trans ?_

theorem Dev.niPump_fuses (d : Dev) (node : Nat) : (Dev.niPump d node).sec.fuses = d.sec.fuses := by
  unfold Dev.niPump
  repeat' first | with_reducible rfl | simp only [Dev.cultStart_fuses, Dev.inject_fuses, Dev.lineStart_fuses] | split

theorem Dev.submitChecked_fuses (d : Dev) (node ctx tag : Nat) (op : TagOp) (f : Flit) (ga src ord : Nat) : (Dev.submitChecked d node ctx tag op f ga src ord).sec.fuses = d.sec.fuses := by
  unfold Dev.submitChecked
  repeat' first | with_reducible rfl | simp only [Dev.submit_fuses, Dev.finishTag_fuses] | split

theorem Dev.toEdgeNode_fuses (d : Dev) (e : Nat) (p : Plane) (f : Flit) : (Dev.toEdgeNode d e p f).sec.fuses = d.sec.fuses := by
  unfold Dev.toEdgeNode
  repeat' first | with_reducible rfl | simp only [Dev.setEdge_fuses, Dev.setChan_fuses, Dev.setNi_fuses, Dev.raise_fuses] | split

theorem Dev.pushIn_fuses (d : Dev) (p : Plane) (node port : Nat) (f : Flit) : (Dev.pushIn d p node port f).sec.fuses = d.sec.fuses := by unfold Dev.pushIn; rfl

theorem Dev.sendOut_fuses (d : Dev) (p : Plane) (node port : Nat) (f : Flit) : (Dev.sendOut d p node port f).sec.fuses = d.sec.fuses := by
  unfold Dev.sendOut
  repeat' first | with_reducible rfl | simp only [Dev.pushIn_fuses, Dev.toEdgeNode_fuses] | split

theorem RStep.mk'_fuses (d : Dev) (free : List Nat) (mark : Bool) : (RStep.mk' d free mark).d.sec.fuses = d.sec.fuses := by unfold RStep.mk'; rfl

theorem Dev.countDefl_fuses (d : Dev) (p : Plane) (node defl marks : Nat) : (Dev.countDefl d p node defl marks).sec.fuses = d.sec.fuses := by unfold Dev.countDefl; rfl

theorem RStep.out_fuses (r : RStep) (p : Plane) (node port : Nat) (f : Flit) : (RStep.out r p node port f).d.sec.fuses = r.d.sec.fuses := by
  simp only [RStep.out, Dev.countDefl_fuses, Dev.sendOut_fuses]

theorem Dev.ejectTo_fuses (d : Dev) (p : Plane) (node : Nat) (f : Flit) : (Dev.ejectTo d p node f).sec.fuses = d.sec.fuses := by
  unfold Dev.ejectTo
  repeat' first | with_reducible rfl | simp only [Dev.setNi_fuses, Dev.raise_fuses] | split

theorem RStep.deflect_fuses (r : RStep) (p : Plane) (node : Nat) (f : Flit) : (RStep.deflect r p node f).d.sec.fuses = r.d.sec.fuses := by
  unfold RStep.deflect; split <;> simp only [Dev.countDefl_fuses, RStep.out_fuses, Dev.pushIn_fuses]

theorem RStep.branch_fuses (r : RStep) (p : Plane) (node : Nat) (f : Flit) : (RStep.branch r p node f).d.sec.fuses = r.d.sec.fuses := by
  unfold RStep.branch
  repeat' first | with_reducible rfl | dsimp only | simp only [RStep.out_fuses, Dev.ejectTo_fuses, Dev.pushIn_fuses] | split | refine (foldR_fuses _ _ (fun _ _ => ?_) _).trans ?_

theorem RStep.place_fuses (r : RStep) (p : Plane) (node : Nat) (f : Flit) : (RStep.place r p node f).d.sec.fuses = r.d.sec.fuses := by
  unfold RStep.place
  repeat' first | with_reducible rfl | simp only [RStep.branch_fuses, Dev.ejectTo_fuses, Dev.setNi_fuses, RStep.deflect_fuses, RStep.out_fuses] | split

theorem Dev.refuseEntry_fuses (d : Dev) (p : Plane) (node : Nat) (f : Flit) : (Dev.refuseEntry d p node f).sec.fuses = d.sec.fuses := by
  unfold Dev.refuseEntry
  repeat' first | with_reducible rfl | with_reducible refine ite_fuses ?_ ?_ | dsimp only | simp only [Dev.raise_fuses, Dev.reply_fuses, Dev.finishTag_fuses] | split | with_reducible refine (fold_fuses _ _ (fun _ _ => ?_) _).trans ?_ | with_reducible refine (fold1_fuses _ _ (fun _ _ => ?_) _).trans ?_

theorem Dev.portOffer_fuses (d : Dev) (port : Nat) (p : Plane) : (Dev.portOffer d port p).1.sec.fuses = d.sec.fuses := by
  unfold Dev.portOffer
  repeat' first | with_reducible rfl | simp only [Dev.setPort_fuses] | split

theorem Dev.entering_fuses (d : Dev) (p : Plane) (router e : Nat) (f : Flit) : (Dev.entering d p router e f).1.sec.fuses = d.sec.fuses := by
  unfold Dev.entering
  repeat' first | with_reducible rfl | with_reducible refine ite_fuses ?_ ?_ | dsimp only | simp only [Dev.refuseEntry_fuses] | split | with_reducible refine (fold_fuses _ _ (fun _ _ => ?_) _).trans ?_ | with_reducible refine (fold1_fuses _ _ (fun _ _ => ?_) _).trans ?_

theorem Dev.arrive_fuses (d : Dev) (p : Plane) (node port : Nat) : (Dev.arrive d p node port).1.sec.fuses = d.sec.fuses := by
  unfold Dev.arrive
  repeat' first | with_reducible rfl | simp only [Dev.setEdge_fuses, Dev.portOffer_fuses, RStep.out_fuses, Dev.entering_fuses] | split

theorem Dev.arrivals_fuses (d : Dev) (p : Plane) (node outputs : Nat) : (Dev.arrivals d p node outputs).1.sec.fuses = d.sec.fuses := by
  unfold Dev.arrivals
  repeat' first | with_reducible rfl | with_reducible refine ite_fuses ?_ ?_ | dsimp only | simp only [Dev.arrive_fuses] | split | with_reducible refine (fold_fuses _ _ (fun _ _ => ?_) _).trans ?_ | with_reducible refine (fold1_fuses _ _ (fun _ _ => ?_) _).trans ?_

theorem RStep.inject_fuses (r : RStep) (p : Plane) (node : Nat) : (RStep.inject r p node).d.sec.fuses = r.d.sec.fuses := by
  unfold RStep.inject
  repeat' first | with_reducible rfl | simp only [Dev.setNi_fuses, RStep.branch_fuses, RStep.out_fuses, Dev.refuseEntry_fuses] | split

theorem RStep.placeAll_fuses (p : Plane) (node : Nat) (l : List Flit) (r : RStep) : (RStep.placeAll p node r l).d.sec.fuses = r.d.sec.fuses := by
  induction l generalizing r with
  | nil => rfl
  | cons f fs ih =>
    unfold RStep.placeAll
    exact (ih _).trans (RStep.place_fuses _ _ _ _)

theorem doRouterStep_fuses (d : Dev) (p : Plane) (node : Nat) : (doRouterStep d p node).sec.fuses = d.sec.fuses := by
  unfold doRouterStep
  split
  · rfl
  · cases p
    · dsimp only
      split
      · refine (RStep.placeAll_fuses _ _ _ _).trans ?_
        simp only [RStep.mk', Dev.arrivals_fuses, Dev.niPump_fuses, Dev.setNi_fuses]
      · refine (RStep.inject_fuses _ _ _).trans ((RStep.placeAll_fuses _ _ _ _).trans ?_)
        simp only [RStep.mk', Dev.arrivals_fuses, Dev.niPump_fuses, Dev.setNi_fuses]
    · dsimp only
      split
      · refine (RStep.placeAll_fuses _ _ _ _).trans ?_
        simp only [RStep.mk', Dev.arrivals_fuses]
      · refine (RStep.inject_fuses _ _ _).trans ((RStep.placeAll_fuses _ _ _ _).trans ?_)
        simp only [RStep.mk', Dev.arrivals_fuses]

theorem Dev.rankRead_fuses (d : Dev) (ctx off n : Nat) : (Dev.rankRead d ctx off n).1.sec.fuses = d.sec.fuses := by
  unfold Dev.rankRead; split <;> simp only [Dev.extRead_fuses]

theorem Dev.rankWrite_fuses (d : Dev) (ctx off : Nat) (bs : List Byte) : (Dev.rankWrite d ctx off bs).1.sec.fuses = d.sec.fuses := by
  unfold Dev.rankWrite; split <;> simp only [Dev.extWrite_fuses]

theorem Dev.rankWord_fuses (d : Dev) (ctx off : Nat) : (Dev.rankWord d ctx off).1.sec.fuses = d.sec.fuses := by
  simp only [Dev.rankWord, Dev.rankRead_fuses]

theorem Dev.writeTree_fuses (d : Dev) (t : Nat) (w : BitVec 64) : (Dev.writeTree d t w).sec.fuses = d.sec.fuses := by
  unfold Dev.writeTree
  repeat' first | with_reducible rfl | with_reducible refine ite_fuses ?_ ?_ | dsimp only | split | with_reducible refine (fold_fuses _ _ (fun _ _ => ?_) _).trans ?_ | with_reducible refine (fold1_fuses _ _ (fun _ _ => ?_) _).trans ?_

theorem Dev.freePos_fuses (d : Dev) (u tree pos : Nat) : (Dev.freePos d u tree pos).sec.fuses = d.sec.fuses := by unfold Dev.freePos; rfl

theorem Dev.overLinks_fuses (d : Dev) (unit path : Nat) (cls : Bool) (seq tries : Nat) (f : Flit) : (Dev.overLinks d unit path cls seq tries f).sec.fuses = d.sec.fuses := by
  unfold Dev.overLinks
  repeat' first | with_reducible rfl | with_reducible refine ite_fuses ?_ ?_ | dsimp only | simp only [Dev.offer_fuses] | split | with_reducible refine (fold_fuses _ _ (fun _ _ => ?_) _).trans ?_ | with_reducible refine (fold1_fuses _ _ (fun _ _ => ?_) _).trans ?_

theorem Dev.toPort_fuses (d : Dev) (unit port : Nat) (up : Bool) (seq tries : Nat) (f : Flit) : (Dev.toPort d unit port up seq tries f).sec.fuses = d.sec.fuses := by
  simp only [Dev.toPort, Dev.offer_fuses, Dev.overLinks_fuses]

theorem Dev.credit_fuses (d : Dev) (unit : Nat) (f : Flit) (tries : Nat) : (Dev.credit d unit f tries).sec.fuses = d.sec.fuses := by
  unfold Dev.credit; split <;> simp only [Dev.toPort_fuses, Dev.offer_fuses, Dev.overLinks_fuses]

theorem Dev.collSend_fuses (d : Dev) (unit dst kind tree pos : Nat) (f : Flit) : (Dev.collSend d unit dst kind tree pos f).sec.fuses = d.sec.fuses := by
  unfold Dev.collSend; split <;> simp only [Dev.setUnit_fuses, Dev.toPort_fuses, Dev.offer_fuses]

theorem Dev.toEngine_fuses (d : Dev) (unit vat tree kind pos : Nat) (f : Flit) : (Dev.toEngine d unit vat tree kind pos f).sec.fuses = d.sec.fuses := by
  simp only [Dev.toEngine, Dev.collSend_fuses]

theorem Dev.sendDown_fuses (d : Dev) (unit tree slot pos : Nat) (data : List Word32) : (Dev.sendDown d unit tree slot pos data).sec.fuses = d.sec.fuses := by
  unfold Dev.sendDown
  repeat' first | with_reducible rfl | with_reducible refine ite_fuses ?_ ?_ | dsimp only | simp only [Dev.collSend_fuses, Dev.setUnit_fuses, Dev.offer_fuses] | split | with_reducible refine (fold_fuses _ _ (fun _ _ => ?_) _).trans ?_ | with_reducible refine (fold1_fuses _ _ (fun _ _ => ?_) _).trans ?_

theorem Dev.sendToRank_fuses (d : Dev) (unit tree slot pos rank : Nat) (data : List Word32) : (Dev.sendToRank d unit tree slot pos rank data).sec.fuses = d.sec.fuses := by
  unfold Dev.sendToRank
  repeat' first | with_reducible rfl | simp only [Dev.setUnit_fuses, Dev.offer_fuses, Dev.overLinks_fuses] | split

theorem Dev.slotStep_fuses (d : Dev) (unit slot : Nat) (s0 : CollSlot) : (Dev.slotStep d unit slot s0).sec.fuses = d.sec.fuses := by
  unfold Dev.slotStep
  repeat' first | with_reducible rfl | simp only [Dev.setUnit_fuses, Dev.sendToRank_fuses, Dev.sendDown_fuses, Dev.collSend_fuses, Dev.settle_fuses] | split

theorem Dev.slotSteps_fuses (d : Dev) (unit h slot : Nat) : (Dev.slotSteps d unit h slot).sec.fuses = d.sec.fuses := by
  unfold Dev.slotSteps
  repeat' first | with_reducible rfl | with_reducible refine ite_fuses ?_ ?_ | dsimp only | simp only [Dev.slotStep_fuses] | split | with_reducible refine (fold_fuses _ _ (fun _ _ => ?_) _).trans ?_ | with_reducible refine (fold1_fuses _ _ (fun _ _ => ?_) _).trans ?_

theorem Dev.chipSteps_fuses (d : Dev) (h slot : Nat) : (Dev.chipSteps d h slot).sec.fuses = d.sec.fuses := by
  unfold Dev.chipSteps
  repeat' first | with_reducible rfl | with_reducible refine ite_fuses ?_ ?_ | dsimp only | simp only [Dev.slotSteps_fuses] | split | with_reducible refine (fold_fuses _ _ (fun _ _ => ?_) _).trans ?_ | with_reducible refine (fold1_fuses _ _ (fun _ _ => ?_) _).trans ?_

theorem Dev.trySlotFree_fuses (d : Dev) (unit tree pos : Nat) : (Dev.trySlotFree d unit tree pos).sec.fuses = d.sec.fuses := by
  unfold Dev.trySlotFree
  repeat' first | with_reducible rfl | simp only [Dev.freePos_fuses] | split

theorem Dev.setOp_fuses (d : Dev) (u : Nat) (o : CollOp) : (Dev.setOp d u o).sec.fuses = d.sec.fuses := by unfold Dev.setOp; rfl

theorem Dev.sendArrive_fuses (d : Dev) (u : Nat) (o : CollOp) : (Dev.sendArrive d u o).sec.fuses = d.sec.fuses := by
  unfold Dev.sendArrive
  repeat' first | with_reducible rfl | simp only [Dev.toEngine_fuses] | split

theorem Dev.tryArrive_fuses (d : Dev) (u : Nat) (o : CollOp) : (Dev.tryArrive d u o).sec.fuses = d.sec.fuses := by
  unfold Dev.tryArrive; split <;> simp only [Dev.setOp_fuses, Dev.sendArrive_fuses]

theorem Dev.collEnd_fuses (d : Dev) (u : Nat) (o : CollOp) (code : Nat) : (Dev.collEnd d u o code).sec.fuses = d.sec.fuses := by
  unfold Dev.collEnd
  repeat' first | with_reducible rfl | with_reducible refine ite_fuses ?_ ?_ | dsimp only | simp only [Dev.setUnit_fuses, Dev.setCurd_fuses, Dev.raise_fuses] | split | with_reducible refine (fold_fuses _ _ (fun _ _ => ?_) _).trans ?_ | with_reducible refine (fold1_fuses _ _ (fun _ _ => ?_) _).trans ?_

theorem Dev.numberOp_fuses (d : Dev) (u ctx tmp : Nat) (x : CollDesc) : (Dev.numberOp d u ctx tmp x).1.sec.fuses = d.sec.fuses := by unfold Dev.numberOp; rfl

theorem Dev.collAccept_fuses (d : Dev) (node slot k : Nat) (bs : List Byte) : (Dev.collAccept d node slot k bs).sec.fuses = d.sec.fuses := by
  unfold Dev.collAccept
  repeat' first | with_reducible rfl | simp only [Dev.raise_fuses, Dev.setUnit_fuses, Dev.numberOp_fuses, Dev.tryArrive_fuses, Dev.chipSteps_fuses] | split

theorem Dev.readChunk_fuses (d : Dev) (node : Nat) (o : CollOp) (g : Nat) : (Dev.readChunk d node o g).1.sec.fuses = d.sec.fuses := by
  unfold Dev.readChunk
  repeat' first | with_reducible rfl | with_reducible refine ite_fuses ?_ ?_ | dsimp only | simp only [Dev.localRead_fuses, Dev.rankRead_fuses] | split | with_reducible refine (fold_fuses _ _ (fun _ _ => ?_) _).trans ?_ | with_reducible refine (fold1_fuses _ _ (fun _ _ => ?_) _).trans ?_

theorem Dev.ruCount_fuses (d : Dev) (node : Nat) : (Dev.ruCount d node).sec.fuses = d.sec.fuses := by unfold Dev.ruCount; rfl

theorem Dev.sendUp_fuses (d : Dev) (u vat : Nat) (o : CollOp) (g : Nat) (ws : List Word32) : (Dev.sendUp d u vat o g ws).sec.fuses = d.sec.fuses := by
  simp only [Dev.sendUp, Dev.setOp_fuses, Dev.toEngine_fuses, Dev.ruCount_fuses]

theorem Dev.partialIn_fuses (d : Dev) (u i : Nat) (o : CollOp) (g : Nat) (ws : List Word32) : (Dev.partialIn d u i o g ws).sec.fuses = d.sec.fuses := by
  unfold Dev.partialIn
  repeat' first | with_reducible rfl | simp only [Dev.setUnit_fuses, Dev.sendUp_fuses, Dev.ruCount_fuses] | split

theorem Dev.sendItem_fuses (d : Dev) (u node : Nat) (o : CollOp) : (Dev.sendItem d u node o).sec.fuses = d.sec.fuses := by
  unfold Dev.sendItem
  repeat' first | with_reducible rfl | simp only [Dev.setOp_fuses, Dev.rankRead_fuses, Dev.submit_fuses, Dev.ruCount_fuses] | split

theorem Dev.collWritten_fuses (d : Dev) (ctx off n : Nat) : (Dev.collWritten d ctx off n).sec.fuses = d.sec.fuses := by
  unfold Dev.collWritten
  repeat' first | with_reducible rfl | with_reducible refine ite_fuses ?_ ?_ | dsimp only | simp only [Dev.setUnit_fuses] | split | with_reducible refine (fold_fuses _ _ (fun _ _ => ?_) _).trans ?_ | with_reducible refine (fold1_fuses _ _ (fun _ _ => ?_) _).trans ?_

theorem Dev.collAdvance_fuses (d : Dev) (u : Nat) (o : CollOp) : (Dev.collAdvance d u o).sec.fuses = d.sec.fuses := by
  unfold Dev.collAdvance
  repeat' first | with_reducible rfl | simp only [Dev.collEnd_fuses, Dev.setOp_fuses, Dev.sendArrive_fuses] | split

theorem Dev.rankRelease_fuses (d : Dev) (u seq bar code : Nat) (ctx : Nat) : (Dev.rankRelease d u seq bar code ctx).sec.fuses = d.sec.fuses := by
  unfold Dev.rankRelease
  repeat' first | with_reducible rfl | simp only [Dev.collEnd_fuses, Dev.setOp_fuses, Dev.collAdvance_fuses] | split

theorem Dev.collMove_fuses (d : Dev) (node ctx seq : Nat) : (Dev.collMove d node ctx seq).sec.fuses = d.sec.fuses := by
  unfold Dev.collMove
  repeat' first | with_reducible rfl | simp only [Dev.collAdvance_fuses] | split

theorem Dev.send_fuses (d : Dev) (m : FmMsg) : (Dev.send d m).sec.fuses = d.sec.fuses := by
  unfold Dev.send
  repeat' first | with_reducible rfl | with_reducible refine ite_fuses ?_ ?_ | dsimp only | simp only [Dev.setPort_fuses, RStep.out_fuses] | split | with_reducible refine (fold_fuses _ _ (fun _ _ => ?_) _).trans ?_ | with_reducible refine (fold1_fuses _ _ (fun _ _ => ?_) _).trans ?_

theorem Dev.heardAt_fuses (d : Dev) (p : Nat) : (Dev.heardAt d p).sec.fuses = d.sec.fuses := by
  unfold Dev.heardAt
  repeat' first | with_reducible rfl | with_reducible refine ite_fuses ?_ ?_ | dsimp only | simp only [Dev.setPort_fuses] | split | with_reducible refine (fold_fuses _ _ (fun _ _ => ?_) _).trans ?_ | with_reducible refine (fold1_fuses _ _ (fun _ _ => ?_) _).trans ?_

theorem Dev.reportDrained_fuses (d : Dev) (id : Nat) : (Dev.reportDrained d id).sec.fuses = d.sec.fuses := by
  unfold Dev.reportDrained
  repeat' first | with_reducible rfl | simp only [Dev.send_fuses] | split

theorem Dev.checkDone_fuses (d : Dev) (ctx : Nat) : (Dev.checkDone d ctx).sec.fuses = d.sec.fuses := by
  unfold Dev.checkDone
  repeat' first | with_reducible rfl | simp only [Dev.setCtx_fuses, Dev.event_fuses, Dev.reportDrained_fuses] | split

theorem Dev.checkDoneAt_fuses (d : Dev) (node : Nat) : (Dev.checkDoneAt d node).sec.fuses = d.sec.fuses := by
  unfold Dev.checkDoneAt; split <;> simp only [Dev.checkDone_fuses]

theorem Dev.caveWrite_fuses (d : Dev) (typ sev flags : Nat) (body : List Byte) : (Dev.caveWrite d typ sev flags body).sec.fuses = d.sec.fuses := by unfold Dev.caveWrite; rfl

theorem Dev.caveFault_fuses (d : Dev) (m : FltMsg) (hidden : Bool) (sev : Nat) (esc : Bool) (entry : Option Nat) : (Dev.caveFault d m hidden sev esc entry).sec.fuses = d.sec.fuses := by
  unfold Dev.caveFault
  repeat' first | with_reducible rfl | simp only [Dev.caveWrite_fuses] | split

theorem Dev.caveAction_fuses (d : Dev) (m : FltMsg) (hidden : Bool) (sev : Nat) (entry : Option Nat) (level : Nat) : (Dev.caveAction d m hidden sev entry level).sec.fuses = d.sec.fuses := by unfold Dev.caveAction; rfl

theorem Dev.cavePower_fuses (d : Dev) (cause : Nat) : (Dev.cavePower d cause).sec.fuses = d.sec.fuses := by unfold Dev.cavePower; rfl

theorem Dev.caveStore_fuses (d : Dev) (event copied : Nat) : (Dev.caveStore d event copied).sec.fuses = d.sec.fuses := by unfold Dev.caveStore; rfl

theorem Dev.caveClear_fuses (d : Dev) (n recov cause : Nat) : (Dev.caveClear d n recov cause).sec.fuses = d.sec.fuses := by unfold Dev.caveClear; rfl

theorem Dev.caveConfig_fuses (d : Dev) (count : Nat) (persist : Bool) : (Dev.caveConfig d count persist).sec.fuses = d.sec.fuses := by unfold Dev.caveConfig; rfl

theorem Dev.respondFlag_fuses (d : Dev) (f key code flags : Nat) (payload : List Byte) : (Dev.respondFlag d f key code flags payload).sec.fuses = d.sec.fuses := by
  unfold Dev.respondFlag
  repeat' first | with_reducible rfl | simp only [Dev.setMbx_fuses, Dev.doorbell_fuses] | split

theorem Dev.respond_fuses (d : Dev) (f key code : Nat) (payload : List Byte) : (Dev.respond d f key code payload).sec.fuses = d.sec.fuses := by
  simp only [Dev.respond, Dev.respondFlag_fuses]

theorem Dev.noChange_fuses (d : Dev) (f key : Nat) (payload : List Byte) : (Dev.noChange d f key payload).sec.fuses = d.sec.fuses := by
  simp only [Dev.noChange, Dev.respondFlag_fuses]

theorem Dev.refuseCmd_fuses (d : Dev) (f key code detail item arg : Nat) : (Dev.refuseCmd d f key code detail item arg).sec.fuses = d.sec.fuses := by
  simp only [Dev.refuseCmd, Dev.respond_fuses]

theorem Dev.fail_fuses (d : Dev) (f key code detail : Nat) : (Dev.fail d f key code detail).sec.fuses = d.sec.fuses := by
  simp only [Dev.fail, Dev.refuseCmd_fuses]

theorem Dev.answerReq_fuses (d : Dev) (q : Option (Nat × Nat)) (code : Nat) (payload : List Byte) : (Dev.answerReq d q code payload).sec.fuses = d.sec.fuses := by
  unfold Dev.answerReq; split <;> simp only [Dev.respond_fuses]

theorem Dev.begin__fuses (d : Dev) (f key : Nat) : (Dev.begin_ d f key).sec.fuses = d.sec.fuses := by unfold Dev.begin_; rfl

theorem Dev.forget_fuses (d : Dev) (gone : Nat → Nat → Bool) : (Dev.forget d gone).sec.fuses = d.sec.fuses := by unfold Dev.forget; rfl

theorem Dev.command_fuses (d : Dev) (f key op : Nat) (pick : List Byte → Bool) (act : Dev → List Byte → Dev) (h_act : ∀ (e : Dev) (v0 : List Byte), (act e v0).sec.fuses = e.sec.fuses) : (Dev.command d f key op pick act).sec.fuses = d.sec.fuses := by
  unfold Dev.command
  repeat' first | with_reducible rfl | with_reducible refine ite_fuses ?_ ?_ | dsimp only | simp only [Dev.setMbx_fuses, Dev.refuseCmd_fuses, Dev.fail_fuses, Dev.forget_fuses] | simp only [h_act] | split

theorem Dev.commandW_fuses (d : Dev) (f key op : Nat) (pick : List Byte → Bool) (wait : Dev → List Byte → Bool) (act : Dev → List Byte → Dev) (h_act : ∀ (e : Dev) (v0 : List Byte), (act e v0).sec.fuses = e.sec.fuses) : (Dev.commandW d f key op pick wait act).sec.fuses = d.sec.fuses := by
  unfold Dev.commandW
  repeat' first | with_reducible rfl | with_reducible refine ite_fuses ?_ ?_ | dsimp only | refine (Dev.command_fuses _ _ _ _ _ _ (fun _ _ => ?_) ).trans ?_ | simp only [h_act] | split

theorem Dev.sendBuf_fuses (d : Dev) (f key buf : Nat) (bs payload : List Byte) : (Dev.sendBuf d f key buf bs payload).sec.fuses = d.sec.fuses := by
  unfold Dev.sendBuf; split <;> simp only [Dev.hostWrite_fuses, Dev.respond_fuses, Dev.fail_fuses]

theorem Dev.place_fuses (d : Dev) (ctx : Nat) (im : List Byte) (st : CState) (from_ : Option (Nat × Nat)) : (Dev.place d ctx im st from_).sec.fuses = d.sec.fuses := by
  unfold Dev.place
  repeat' first | with_reducible rfl | with_reducible refine ite_fuses ?_ ?_ | dsimp only | simp only [Dev.setVat_fuses, Dev.setCurd_fuses, Dev.setCtx_fuses] | split | with_reducible refine (fold_fuses _ _ (fun _ _ => ?_) _).trans ?_ | with_reducible refine (fold1_fuses _ _ (fun _ _ => ?_) _).trans ?_

theorem Dev.placeSpill_fuses (d : Dev) (ctx : Nat) (h : List Byte) {y : Dev} : Dev.placeSpill d ctx h = some y → y.sec.fuses = d.sec.fuses := by
  unfold Dev.placeSpill
  repeat' first | with_reducible rfl | with_reducible refine ite_fuses ?_ ?_ | dsimp only | simp only [Dev.setCtx_fuses, Dev.fillPages_fuses, Dev.takeRun_fuses] | refine (Dev.takeRun_fuses _ _ _ _ _ _ ‹Dev.takeRun _ _ _ _ _ _ = some _›).trans ?_ | split | (intro h; cases h) | with_reducible refine (fold_fuses _ _ (fun _ _ => ?_) _).trans ?_ | with_reducible refine (fold1_fuses _ _ (fun _ _ => ?_) _).trans ?_

theorem Dev.recordLoad_fuses (d : Dev) (ctx : Nat) (im : List Byte) (st : ProgSt) : (Dev.recordLoad d ctx im st).sec.fuses = d.sec.fuses := by unfold Dev.recordLoad; rfl

theorem Dev.saveReads_fuses (d : Dev) (p : Nat) : (Dev.saveReads d p).sec.fuses = d.sec.fuses := by
  unfold Dev.saveReads
  repeat' first | with_reducible rfl | with_reducible refine ite_fuses ?_ ?_ | dsimp only | simp only [Dev.setCurd_fuses, Dev.setVat_fuses, Dev.raiseBlock_fuses] | split | with_reducible refine (fold_fuses _ _ (fun _ _ => ?_) _).trans ?_ | with_reducible refine (fold1_fuses _ _ (fun _ _ => ?_) _).trans ?_

theorem Dev.restoreColls_fuses (d : Dev) (ctx : Nat) (ops : List CollOp) : (Dev.restoreColls d ctx ops).sec.fuses = d.sec.fuses := by
  unfold Dev.restoreColls
  repeat' first | with_reducible rfl | with_reducible refine ite_fuses ?_ ?_ | dsimp only | simp only [Dev.setCurd_fuses, Dev.setUnit_fuses] | split | with_reducible refine (fold_fuses _ _ (fun _ _ => ?_) _).trans ?_ | with_reducible refine (fold1_fuses _ _ (fun _ _ => ?_) _).trans ?_

theorem Dev.saveCtx_fuses (d0 : Dev) (ctx : Nat) : (Dev.saveCtx d0 ctx).sec.fuses = d0.sec.fuses := by
  unfold Dev.saveCtx
  exact (Dev.setCtx_fuses _ _ _).trans (Dev.saveReads_fuses _ _)

theorem Dev.issueQueued_fuses (d : Dev) (node : Nat) (x : DmaCh) : (Dev.issueQueued d node x).sec.fuses = d.sec.fuses := by
  unfold Dev.issueQueued
  repeat' first | with_reducible rfl | with_reducible refine ite_fuses ?_ ?_ | dsimp only | simp only [Dev.setCurd_fuses] | split | with_reducible refine (fold_fuses _ _ (fun _ _ => ?_) _).trans ?_ | with_reducible refine (fold1_fuses _ _ (fun _ _ => ?_) _).trans ?_

theorem Dev.restoreCtx_fuses (d : Dev) (ctx : Nat) : (Dev.restoreCtx d ctx).sec.fuses = d.sec.fuses := by
  unfold Dev.restoreCtx
  repeat' first | with_reducible rfl | with_reducible refine ite_fuses ?_ ?_ | dsimp only | simp only [Dev.setVat_fuses, Dev.setNi_fuses, Dev.setUnit_fuses, Dev.setCurd_fuses, Dev.issueQueued_fuses, Dev.setCtx_fuses, Dev.restoreColls_fuses] | split | with_reducible refine (fold_fuses _ _ (fun _ _ => ?_) _).trans ?_ | with_reducible refine (fold1_fuses _ _ (fun _ _ => ?_) _).trans ?_

theorem Dev.makeResident_fuses (d : Dev) (ctx : Nat) : (Dev.makeResident d ctx).sec.fuses = d.sec.fuses := by
  simp only [Dev.makeResident, Dev.setPart_fuses, Dev.restoreCtx_fuses, Dev.setCtx_fuses]

theorem Dev.entryImage_fuses (d : Dev) (ctx : Nat) (e : List Byte) : (Dev.entryImage d ctx e).1.sec.fuses = d.sec.fuses := by
  unfold Dev.entryImage
  repeat' first | with_reducible rfl | simp only [Dev.rankRead_fuses] | split

theorem Dev.usable_fuses (d : Dev) (ctx : Nat) : (Dev.usable d ctx).1.sec.fuses = d.sec.fuses := by
  unfold Dev.usable
  repeat' first | with_reducible rfl | with_reducible refine ite_fuses ?_ ?_ | dsimp only | simp only [Dev.rankRead_fuses, Dev.entryImage_fuses] | split | with_reducible refine (fold_fuses _ _ (fun _ _ => ?_) _).trans ?_ | with_reducible refine (fold1_fuses _ _ (fun _ _ => ?_) _).trans ?_

theorem Dev.reload_fuses (d : Dev) (ctx step : Nat) : (Dev.reload d ctx step).1.sec.fuses = d.sec.fuses := by
  unfold Dev.reload
  repeat' first | with_reducible rfl | with_reducible refine ite_fuses ?_ ?_ | dsimp only | simp only [Dev.usable_fuses, Dev.place_fuses, Dev.recordLoad_fuses, RStep.place_fuses, Dev.placeSpill_fuses, Dev.makeResident_fuses] | refine (Dev.placeSpill_fuses _ _ _ ‹Dev.placeSpill _ _ _ = some _›).trans ?_ | split

theorem Dev.takeFrame_fuses (d : Dev) (p ftype : Nat) {y : (Dev × List Byte)} : Dev.takeFrame d p ftype = some y → y.1.sec.fuses = d.sec.fuses := by
  unfold Dev.takeFrame
  repeat' first | with_reducible rfl | with_reducible refine ite_fuses ?_ ?_ | dsimp only | simp only [Dev.setPort_fuses] | split | (intro h; cases h)

theorem Dev.badFrame_fuses (d : Dev) (p : Nat) : (Dev.badFrame d p).sec.fuses = d.sec.fuses := by unfold Dev.badFrame; rfl

theorem doIdleFrame_fuses (d : Dev) (p : Nat) : (doIdleFrame d p).sec.fuses = d.sec.fuses := by
  unfold doIdleFrame
  repeat' first | with_reducible rfl | with_reducible refine ite_fuses ?_ ?_ | dsimp only | refine (Dev.takeFrame_fuses _ _ _ ‹Dev.takeFrame _ _ _ = some _›).trans ?_ | split

theorem doCreditFrame_fuses (d : Dev) (p : Nat) : (doCreditFrame d p).sec.fuses = d.sec.fuses := by
  unfold doCreditFrame
  repeat' first | with_reducible rfl | with_reducible refine ite_fuses ?_ ?_ | dsimp only | simp only [Dev.setPort_fuses, Dev.badFrame_fuses, Dev.takeFrame_fuses] | refine (Dev.takeFrame_fuses _ _ _ ‹Dev.takeFrame _ _ _ = some _›).trans ?_ | split | with_reducible refine (fold_fuses _ _ (fun _ _ => ?_) _).trans ?_ | with_reducible refine (fold1_fuses _ _ (fun _ _ => ?_) _).trans ?_

theorem doCreditReportTimer_fuses (d : Dev) (p : Nat) : (doCreditReportTimer d p).sec.fuses = d.sec.fuses := by
  unfold doCreditReportTimer
  repeat' first | with_reducible rfl | simp only [Dev.setPort_fuses] | split

theorem Dev.dropPacket_fuses (d : Dev) (p c : Nat) (count : Bool) : (Dev.dropPacket d p c count).sec.fuses = d.sec.fuses := by unfold Dev.dropPacket; rfl

theorem Dev.arrivePacket_fuses (d : Dev) (p c : Nat) (f0 : Flit) : (Dev.arrivePacket d p c f0).sec.fuses = d.sec.fuses := by
  unfold Dev.arrivePacket
  repeat' first | with_reducible rfl | simp only [Dev.dropPacket_fuses, Dev.setUnit_fuses, Dev.setPort_fuses] | split

theorem Dev.takePacket_fuses (d : Dev) (p ftype : Nat) : (Dev.takePacket d p ftype).sec.fuses = d.sec.fuses := by
  unfold Dev.takePacket
  repeat' first | with_reducible rfl | with_reducible refine ite_fuses ?_ ?_ | dsimp only | simp only [Dev.setPort_fuses, Dev.arrivePacket_fuses, Dev.badFrame_fuses, Dev.takeFrame_fuses] | refine (Dev.takeFrame_fuses _ _ _ ‹Dev.takeFrame _ _ _ = some _›).trans ?_ | split

theorem Dev.portAccept_fuses (d : Dev) (p : Nat) (pl : Plane) : (Dev.portAccept d p pl).sec.fuses = d.sec.fuses := by
  unfold Dev.portAccept
  repeat' first | with_reducible rfl | simp only [Dev.setEdge_fuses, Dev.setUnit_fuses, Dev.setPort_fuses, Dev.entering_fuses] | split

theorem doEdgePortAccept_fuses (d : Dev) (p : Nat) : (doEdgePortAccept d p).sec.fuses = d.sec.fuses := by
  simp only [doEdgePortAccept, Dev.portAccept_fuses]

theorem doPortSend_fuses (d : Dev) (p : Nat) : (doPortSend d p).sec.fuses = d.sec.fuses := by
  unfold doPortSend
  repeat' first | with_reducible rfl | simp only [Dev.setPort_fuses] | split

theorem Dev.portFails_fuses (d : Dev) (p : Nat) : (Dev.portFails d p).sec.fuses = d.sec.fuses := by
  unfold Dev.portFails
  repeat' first | with_reducible rfl | simp only [Dev.setPort_fuses, Dev.raise_fuses] | split

theorem Dev.relane_fuses (d : Dev) (p bad : Nat) : (Dev.relane d p bad).sec.fuses = d.sec.fuses := by
  unfold Dev.relane
  repeat' first | with_reducible rfl | simp only [Dev.setPort_fuses, Dev.portFails_fuses] | split

theorem doLinkCtlFrame_fuses (d : Dev) (p : Nat) : (doLinkCtlFrame d p).sec.fuses = d.sec.fuses := by
  unfold doLinkCtlFrame
  repeat' first | with_reducible rfl | with_reducible refine ite_fuses ?_ ?_ | dsimp only | simp only [Dev.badFrame_fuses, Dev.relane_fuses, Dev.setPort_fuses, Dev.takeFrame_fuses] | refine (Dev.takeFrame_fuses _ _ _ ‹Dev.takeFrame _ _ _ = some _›).trans ?_ | split

theorem Dev.laneFails_fuses (d : Dev) (p lane : Nat) : (Dev.laneFails d p lane).sec.fuses = d.sec.fuses := by
  unfold Dev.laneFails
  repeat' first | with_reducible rfl | with_reducible refine ite_fuses ?_ ?_ | dsimp only | simp only [Dev.setPort_fuses, Dev.raise_fuses, Dev.portFails_fuses] | split | with_reducible refine (fold_fuses _ _ (fun _ _ => ?_) _).trans ?_ | with_reducible refine (fold1_fuses _ _ (fun _ _ => ?_) _).trans ?_

theorem Dev.judgeLanes_fuses (d : Dev) (p : Nat) : (Dev.judgeLanes d p).sec.fuses = d.sec.fuses := by
  unfold Dev.judgeLanes
  repeat' first | with_reducible rfl | with_reducible refine ite_fuses ?_ ?_ | dsimp only | simp only [Dev.laneFails_fuses] | split | with_reducible refine (fold_fuses _ _ (fun _ _ => ?_) _).trans ?_ | with_reducible refine (fold1_fuses _ _ (fun _ _ => ?_) _).trans ?_

theorem doCodeword_fuses (d : Dev) (p : Nat) (c : Codeword) : (doCodeword d p c).sec.fuses = d.sec.fuses := by
  unfold doCodeword
  repeat' first | with_reducible rfl | simp only [Dev.setPort_fuses, Dev.judgeLanes_fuses] | split

theorem doLaneMapSwitch_fuses (d : Dev) (p : Nat) : (doLaneMapSwitch d p).sec.fuses = d.sec.fuses := by
  unfold doLaneMapSwitch
  repeat' first | with_reducible rfl | simp only [Dev.setPort_fuses] | split

theorem doLaneRetrain_fuses (d : Dev) (p lane : Nat) : (doLaneRetrain d p lane).sec.fuses = d.sec.fuses := by
  unfold doLaneRetrain
  repeat' first | with_reducible rfl | simp only [Dev.setPort_fuses, Dev.relane_fuses] | split

theorem Dev.portCtlTakes_fuses (d : Dev) (p old : Nat) : (Dev.portCtlTakes d p old).sec.fuses = d.sec.fuses := by
  unfold Dev.portCtlTakes
  repeat' first | with_reducible rfl | with_reducible refine ite_fuses ?_ ?_ | dsimp only | simp only [Dev.setPort_fuses, Dev.portFails_fuses, Dev.relane_fuses, Dev.judgeLanes_fuses] | split | with_reducible refine (fold_fuses _ _ (fun _ _ => ?_) _).trans ?_ | with_reducible refine (fold1_fuses _ _ (fun _ _ => ?_) _).trans ?_

theorem Dev.bringUp_fuses (d : Dev) (p txLanes rxLanes : Nat) : (Dev.bringUp d p txLanes rxLanes).sec.fuses = d.sec.fuses := by
  unfold Dev.bringUp
  repeat' first | with_reducible rfl | simp only [Dev.setPort_fuses] | split

theorem Dev.tellPort_fuses (d : Dev) (p st width : Nat) : (Dev.tellPort d p st width).sec.fuses = d.sec.fuses := by
  unfold Dev.tellPort; split <;> simp only [Dev.send_fuses]

theorem doPortUp_fuses (d : Dev) (p txLanes rxLanes : Nat) : (doPortUp d p txLanes rxLanes).sec.fuses = d.sec.fuses := by
  unfold doPortUp
  repeat' first | with_reducible rfl | simp only [Dev.bringUp_fuses, Dev.tellPort_fuses] | split

theorem Dev.cfgApply_fuses (d : Dev) (e : CfgEntry) : (Dev.cfgApply d e).sec.fuses = d.sec.fuses := by
  unfold Dev.cfgApply
  repeat' first | with_reducible rfl | with_reducible refine ite_fuses ?_ ?_ | dsimp only | simp only [Dev.setVat_fuses, Dev.setPort_fuses] | split | with_reducible refine (fold_fuses _ _ (fun _ _ => ?_) _).trans ?_ | with_reducible refine (fold1_fuses _ _ (fun _ _ => ?_) _).trans ?_

theorem Dev.cfgTakes_fuses (d : Dev) (e : CfgEntry) : (Dev.cfgTakes d e).sec.fuses = d.sec.fuses := by
  unfold Dev.cfgTakes
  repeat' first | with_reducible rfl | with_reducible refine ite_fuses ?_ ?_ | dsimp only | simp only [Dev.portCtlTakes_fuses, Dev.cfgApply_fuses] | split | with_reducible refine (fold_fuses _ _ (fun _ _ => ?_) _).trans ?_ | with_reducible refine (fold1_fuses _ _ (fun _ _ => ?_) _).trans ?_

theorem Dev.cfgAtReset_fuses (d : Dev) : (Dev.cfgAtReset d).sec.fuses = d.sec.fuses := by
  unfold Dev.cfgAtReset
  repeat' first | with_reducible rfl | with_reducible refine ite_fuses ?_ ?_ | dsimp only | simp only [Dev.setVat_fuses, Dev.setPort_fuses, Dev.cfgApply_fuses] | split | with_reducible refine (fold_fuses _ _ (fun _ _ => ?_) _).trans ?_ | with_reducible refine (fold1_fuses _ _ (fun _ _ => ?_) _).trans ?_

theorem Dev.cfgAtPowerOn_fuses (d : Dev) : (Dev.cfgAtPowerOn d).sec.fuses = d.sec.fuses := by
  unfold Dev.cfgAtPowerOn
  repeat' first | with_reducible rfl | with_reducible refine ite_fuses ?_ ?_ | dsimp only | simp only [Dev.cfgAtReset_fuses, Dev.cfgApply_fuses] | split | with_reducible refine (fold_fuses _ _ (fun _ _ => ?_) _).trans ?_ | with_reducible refine (fold1_fuses _ _ (fun _ _ => ?_) _).trans ?_

theorem Dev.writeLinkKey_fuses (d : Dev) (id : Nat) : (Dev.writeLinkKey d id).sec.fuses = d.sec.fuses := by
  unfold Dev.writeLinkKey
  repeat' first | with_reducible rfl | with_reducible refine ite_fuses ?_ ?_ | dsimp only | simp only [Dev.setNi_fuses] | split | with_reducible refine (fold_fuses _ _ (fun _ _ => ?_) _).trans ?_ | with_reducible refine (fold1_fuses _ _ (fun _ _ => ?_) _).trans ?_

theorem Dev.linkAdvance_fuses (d : Dev) (id : Nat) : (Dev.linkAdvance d id).sec.fuses = d.sec.fuses := by
  simp only [Dev.linkAdvance, Dev.writeLinkKey_fuses]

theorem Dev.newKeys_fuses (d : Dev) (p : Nat) : (Dev.newKeys d p).sec.fuses = d.sec.fuses := by unfold Dev.newKeys; rfl

theorem Dev.dropKeys_fuses (d : Dev) (p : Nat) : (Dev.dropKeys d p).sec.fuses = d.sec.fuses := by unfold Dev.dropKeys; rfl

theorem Dev.dropSliceKeys_fuses (d : Dev) (id : Nat) (ctxs : List Nat) : (Dev.dropSliceKeys d id ctxs).sec.fuses = d.sec.fuses := by
  unfold Dev.dropSliceKeys
  repeat' first | with_reducible rfl | with_reducible refine ite_fuses ?_ ?_ | dsimp only | simp only [Dev.setNi_fuses] | split | with_reducible refine (fold_fuses _ _ (fun _ _ => ?_) _).trans ?_ | with_reducible refine (fold1_fuses _ _ (fun _ _ => ?_) _).trans ?_

theorem Dev.fenceVat_fuses (d : Dev) (node : Nat) : (Dev.fenceVat d node).sec.fuses = d.sec.fuses := by
  unfold Dev.fenceVat
  repeat' first | with_reducible rfl | with_reducible refine ite_fuses ?_ ?_ | dsimp only | simp only [Dev.setVat_fuses, Dev.setCurd_fuses, Dev.setNi_fuses, Dev.setPart_fuses] | split | with_reducible refine (fold_fuses _ _ (fun _ _ => ?_) _).trans ?_ | with_reducible refine (fold1_fuses _ _ (fun _ _ => ?_) _).trans ?_

theorem Dev.fenceCurd_fuses (d : Dev) (node slot : Nat) : (Dev.fenceCurd d node slot).sec.fuses = d.sec.fuses := by
  unfold Dev.fenceCurd
  repeat' first | with_reducible rfl | with_reducible refine ite_fuses ?_ ?_ | dsimp only | simp only [Dev.setCurd_fuses, Dev.setVat_fuses, Dev.fenceVat_fuses] | split

theorem Dev.fenceUnit_fuses (d : Dev) (u : Nat) : (Dev.fenceUnit d u).sec.fuses = d.sec.fuses := by
  unfold Dev.fenceUnit
  repeat' first | with_reducible rfl | with_reducible refine ite_fuses ?_ ?_ | dsimp only | simp only [Dev.fenceCurd_fuses, Dev.fenceVat_fuses] | split

theorem Dev.fencePort_fuses (d : Dev) (p : Nat) : (Dev.fencePort d p).sec.fuses = d.sec.fuses := by
  simp only [Dev.fencePort, Dev.portFails_fuses, Dev.setPort_fuses]

theorem Dev.dropVat_fuses (d : Dev) (ctx node : Nat) : (Dev.dropVat d ctx node).sec.fuses = d.sec.fuses := by unfold Dev.dropVat; rfl

theorem Dev.dropColl_fuses (d : Dev) (ctx : Nat) : (Dev.dropColl d ctx).sec.fuses = d.sec.fuses := by
  unfold Dev.dropColl
  repeat' first | with_reducible rfl | with_reducible refine ite_fuses ?_ ?_ | dsimp only | simp only [Dev.setUnit_fuses] | split | with_reducible refine (fold_fuses _ _ (fun _ _ => ?_) _).trans ?_ | with_reducible refine (fold1_fuses _ _ (fun _ _ => ?_) _).trans ?_

theorem Dev.treeGen_fuses (d : Dev) (h old new : Nat) : (Dev.treeGen d h old new).sec.fuses = d.sec.fuses := by unfold Dev.treeGen; rfl

theorem Dev.advanceVat_fuses (d : Dev) (ctx gen node : Nat) : (Dev.advanceVat d ctx gen node).sec.fuses = d.sec.fuses := by unfold Dev.advanceVat; rfl

theorem Dev.setSliceGen_fuses (d : Dev) (node slot g : Nat) : (Dev.setSliceGen d node slot g).sec.fuses = d.sec.fuses := by
  unfold Dev.setSliceGen
  repeat' first | with_reducible rfl | with_reducible refine ite_fuses ?_ ?_ | dsimp only | simp only [Dev.setNi_fuses] | split | with_reducible refine (fold_fuses _ _ (fun _ _ => ?_) _).trans ?_ | with_reducible refine (fold1_fuses _ _ (fun _ _ => ?_) _).trans ?_

theorem Dev.memberGen_fuses (d : Dev) (node slot g : Nat) : (Dev.memberGen d node slot g).sec.fuses = d.sec.fuses := by
  unfold Dev.memberGen
  repeat' first | with_reducible rfl | with_reducible refine ite_fuses ?_ ?_ | dsimp only | simp only [Dev.setCtx_fuses, Dev.setSliceGen_fuses] | split | with_reducible refine (fold_fuses _ _ (fun _ _ => ?_) _).trans ?_ | with_reducible refine (fold1_fuses _ _ (fun _ _ => ?_) _).trans ?_

theorem Dev.memberGens_fuses (d : Dev) (id g : Nat) : (Dev.memberGens d id g).sec.fuses = d.sec.fuses := by
  unfold Dev.memberGens
  repeat' first | with_reducible rfl | with_reducible refine ite_fuses ?_ ?_ | dsimp only | simp only [Dev.memberGen_fuses] | split | with_reducible refine (fold_fuses _ _ (fun _ _ => ?_) _).trans ?_ | with_reducible refine (fold1_fuses _ _ (fun _ _ => ?_) _).trans ?_

theorem Dev.advanceTo_fuses (d : Dev) (ctx g : Nat) : (Dev.advanceTo d ctx g).sec.fuses = d.sec.fuses := by
  unfold Dev.advanceTo
  repeat' first | with_reducible rfl | with_reducible refine ite_fuses ?_ ?_ | dsimp only | simp only [Dev.setCtx_fuses, Dev.event_fuses, Dev.linkAdvance_fuses, Dev.treeGen_fuses, Dev.advanceVat_fuses, Dev.setSliceGen_fuses, Dev.memberGens_fuses] | split | with_reducible refine (fold_fuses _ _ (fun _ _ => ?_) _).trans ?_ | with_reducible refine (fold1_fuses _ _ (fun _ _ => ?_) _).trans ?_

theorem Dev.advance_fuses (d : Dev) (ctx : Nat) : (Dev.advance d ctx).sec.fuses = d.sec.fuses := by
  unfold Dev.advance
  repeat' first | with_reducible rfl | with_reducible refine ite_fuses ?_ ?_ | dsimp only | simp only [Dev.treeGen_fuses, Dev.advanceVat_fuses, Dev.setNi_fuses, Dev.setCtx_fuses, Dev.linkAdvance_fuses, Dev.event_fuses, Dev.advanceTo_fuses] | split | with_reducible refine (fold_fuses _ _ (fun _ _ => ?_) _).trans ?_ | with_reducible refine (fold1_fuses _ _ (fun _ _ => ?_) _).trans ?_

theorem Dev.unload_fuses (d : Dev) (ctx : Nat) : (Dev.unload d ctx).sec.fuses = d.sec.fuses := by
  unfold Dev.unload
  repeat' first | with_reducible rfl | with_reducible refine ite_fuses ?_ ?_ | dsimp only | simp only [Dev.setPart_fuses, Dev.setCtx_fuses] | split | with_reducible refine (fold_fuses _ _ (fun _ _ => ?_) _).trans ?_ | with_reducible refine (fold1_fuses _ _ (fun _ _ => ?_) _).trans ?_

theorem Dev.sliceState_fuses (d : Dev) (id st : Nat) : (Dev.sliceState d id st).sec.fuses = d.sec.fuses := by
  unfold Dev.sliceState
  repeat' first | with_reducible rfl | with_reducible refine ite_fuses ?_ ?_ | dsimp only | simp only [Dev.event_fuses] | split | with_reducible refine (fold_fuses _ _ (fun _ _ => ?_) _).trans ?_ | with_reducible refine (fold1_fuses _ _ (fun _ _ => ?_) _).trans ?_

theorem Dev.sliceSteps_fuses (d : Dev) (ctxs : List Nat) : (Dev.sliceSteps d ctxs).1.sec.fuses = d.sec.fuses := by
  unfold Dev.sliceSteps
  repeat' first | with_reducible rfl | with_reducible refine ite_fuses ?_ ?_ | dsimp only | simp only [Dev.usable_fuses] | split | with_reducible refine (fold_fuses _ _ (fun _ _ => ?_) _).trans ?_ | with_reducible refine (fold1_fuses _ _ (fun _ _ => ?_) _).trans ?_

theorem Dev.reloadAll_fuses (d : Dev) (ctxs : List Nat) (step : Nat) : (Dev.reloadAll d ctxs step).1.sec.fuses = d.sec.fuses := by
  unfold Dev.reloadAll
  repeat' first | with_reducible rfl | with_reducible refine ite_fuses ?_ ?_ | dsimp only | simp only [Dev.reload_fuses] | split | with_reducible refine (fold_fuses _ _ (fun _ _ => ?_) _).trans ?_ | with_reducible refine (fold1_fuses _ _ (fun _ _ => ?_) _).trans ?_

theorem Dev.leaveUnloaded_fuses (d : Dev) (id : Nat) (ctxs : List Nat) (st : Nat) : (Dev.leaveUnloaded d id ctxs st).sec.fuses = d.sec.fuses := by
  unfold Dev.leaveUnloaded
  repeat' first | with_reducible rfl | with_reducible refine ite_fuses ?_ ?_ | dsimp only | simp only [Dev.unload_fuses, Dev.sliceState_fuses] | split | with_reducible refine (fold_fuses _ _ (fun _ _ => ?_) _).trans ?_ | with_reducible refine (fold1_fuses _ _ (fun _ _ => ?_) _).trans ?_

theorem Dev.resumeHere_fuses (d : Dev) (id : Nat) (ctxs barred : List Nat) (x0 : Nat) : (Dev.resumeHere d id ctxs barred x0).1.sec.fuses = d.sec.fuses := by
  induction x0 generalizing d barred with
  | zero => simp only [Dev.resumeHere, Dev.leaveUnloaded_fuses, Dev.setCtx_fuses, Dev.raise_fuses, Dev.event_fuses, Dev.advanceTo_fuses, Dev.unload_fuses, Dev.sliceState_fuses, Dev.sliceSteps_fuses, Dev.reloadAll_fuses]
  | succ n ih =>
    unfold Dev.resumeHere
    repeat' first | with_reducible rfl | dsimp only | simp only [ih, Dev.leaveUnloaded_fuses, Dev.sliceSteps_fuses, Dev.raise_fuses, Dev.setCtx_fuses, Dev.reloadAll_fuses, Dev.event_fuses, Dev.sliceState_fuses, Dev.unload_fuses, Dev.advance_fuses, Dev.advanceTo_fuses] | split | refine (fold_fuses _ _ (fun _ _ => ?_) _).trans ?_

theorem Dev.rankReport_fuses (d : Dev) (ctx : Nat) : (Dev.rankReport d ctx).1.sec.fuses = d.sec.fuses := by
  simp only [Dev.rankReport, Dev.usable_fuses]

theorem Dev.reportTeardown_fuses (d : Dev) (id : Nat) (ctxs : List Nat) : (Dev.reportTeardown d id ctxs).sec.fuses = d.sec.fuses := by
  unfold Dev.reportTeardown
  repeat' first | with_reducible rfl | with_reducible refine ite_fuses ?_ ?_ | dsimp only | simp only [Dev.rankReport_fuses, Dev.send_fuses] | split | with_reducible refine (fold_fuses _ _ (fun _ _ => ?_) _).trans ?_ | with_reducible refine (fold1_fuses _ _ (fun _ _ => ?_) _).trans ?_

theorem Dev.answerReset_fuses (d : Dev) (q : Option (Nat × Nat)) (ctx code level : Nat) : (Dev.answerReset d q ctx code level).sec.fuses = d.sec.fuses := by
  unfold Dev.answerReset
  repeat' first | with_reducible rfl | simp only [Dev.fail_fuses, Dev.respond_fuses] | split

theorem Dev.removeCtx_fuses (d : Dev) (ctx : Nat) : (Dev.removeCtx d ctx).sec.fuses = d.sec.fuses := by
  simp only [Dev.removeCtx, Dev.setPart_fuses, Dev.setCtx_fuses, Dev.dropSliceKeys_fuses]

theorem Dev.reply6_fuses (d : Dev) (w : WaitReq) (code : Nat) (payload : List Byte) : (Dev.reply6 d w code payload).sec.fuses = d.sec.fuses := by
  unfold Dev.reply6; split <;> simp only [Dev.respond_fuses, Dev.send_fuses]

theorem Dev.closeSlice_fuses (d : Dev) (id : Nat) : (Dev.closeSlice d id).sec.fuses = d.sec.fuses := by
  unfold Dev.closeSlice
  repeat' first | with_reducible rfl | simp only [Dev.reply6_fuses] | split

theorem Dev.dropTables_fuses (d : Dev) (id : Nat) : (Dev.dropTables d id).sec.fuses = d.sec.fuses := by
  unfold Dev.dropTables
  repeat' first | with_reducible rfl | with_reducible refine ite_fuses ?_ ?_ | dsimp only | simp only [Dev.setNi_fuses] | split | with_reducible refine (fold_fuses _ _ (fun _ _ => ?_) _).trans ?_ | with_reducible refine (fold1_fuses _ _ (fun _ _ => ?_) _).trans ?_

theorem Dev.moveCtx_fuses (d : Dev) (ctx dst : Nat) : (Dev.moveCtx d ctx dst).sec.fuses = d.sec.fuses := by
  unfold Dev.moveCtx
  repeat' first | with_reducible rfl | with_reducible refine ite_fuses ?_ ?_ | dsimp only | simp only [Dev.setPart_fuses, Dev.setCtx_fuses, Dev.fillPages_fuses] | split | with_reducible refine (fold_fuses _ _ (fun _ _ => ?_) _).trans ?_ | with_reducible refine (fold1_fuses _ _ (fun _ _ => ?_) _).trans ?_

theorem Dev.moveRank_fuses (d : Dev) (ctx : Nat) {y : (Dev × Nat)} : Dev.moveRank d ctx = some y → y.1.sec.fuses = d.sec.fuses := by
  unfold Dev.moveRank
  repeat' first | with_reducible rfl | with_reducible refine ite_fuses ?_ ?_ | dsimp only | simp only [Dev.setNi_fuses, Dev.moveCtx_fuses] | split | (intro h; cases h) | with_reducible refine (fold_fuses _ _ (fun _ _ => ?_) _).trans ?_ | with_reducible refine (fold1_fuses _ _ (fun _ _ => ?_) _).trans ?_

theorem Dev.moveFewer_fuses (d : Dev) (ctxs : List Nat) : (Dev.moveFewer d ctxs).1.sec.fuses = d.sec.fuses := by
  unfold Dev.moveFewer
  repeat' first | with_reducible rfl | with_reducible refine ite_fuses ?_ ?_ | dsimp only | refine (Dev.moveRank_fuses _ _ ‹Dev.moveRank _ _ = some _›).trans ?_ | split | with_reducible refine (fold_fuses _ _ (fun _ _ => ?_) _).trans ?_ | with_reducible refine (fold1_fuses _ _ (fun _ _ => ?_) _).trans ?_

theorem Dev.doFences_fuses (d : Dev) (p : Nat) : (Dev.doFences d p).sec.fuses = d.sec.fuses := by
  unfold Dev.doFences
  repeat' first | with_reducible rfl | with_reducible refine ite_fuses ?_ ?_ | dsimp only | simp only [Dev.fenceUnit_fuses, Dev.setPart_fuses] | split | with_reducible refine (fold_fuses _ _ (fun _ _ => ?_) _).trans ?_ | with_reducible refine (fold1_fuses _ _ (fun _ _ => ?_) _).trans ?_

theorem Dev.settleFaults_fuses (d : Dev) : (Dev.settleFaults d).sec.fuses = d.sec.fuses := by
  unfold Dev.settleFaults
  repeat' first | with_reducible rfl | simp only [Dev.caveClear_fuses] | split

theorem Dev.afterTear_fuses (d : Dev) (ctx : Nat) (t : Teardown) : (Dev.afterTear d ctx t).sec.fuses = d.sec.fuses := by
  unfold Dev.afterTear
  repeat' first | with_reducible rfl | with_reducible refine ite_fuses ?_ ?_ | dsimp only | simp only [Dev.answerReset_fuses, Dev.removeCtx_fuses, Dev.dropTables_fuses, Dev.closeSlice_fuses, Dev.send_fuses, Dev.answerReq_fuses, Dev.settleFaults_fuses, Dev.reportTeardown_fuses, Dev.moveFewer_fuses, Dev.leaveUnloaded_fuses, Dev.resumeHere_fuses] | split | with_reducible refine (fold_fuses _ _ (fun _ _ => ?_) _).trans ?_ | with_reducible refine (fold1_fuses _ _ (fun _ _ => ?_) _).trans ?_

theorem Dev.finishTear_fuses (d : Dev) (ctx : Nat) : (Dev.finishTear d ctx).sec.fuses = d.sec.fuses := by
  unfold Dev.finishTear; split <;> simp only [Dev.advance_fuses, Dev.doFences_fuses, Dev.afterTear_fuses]

theorem Dev.noteReset_fuses (d : Dev) (level cause : Nat) (esc : Bool) : (Dev.noteReset d level cause esc).sec.fuses = d.sec.fuses := by unfold Dev.noteReset; rfl

theorem Dev.tearDown_fuses (d : Dev) (ctx : Nat) (t : Teardown) : (Dev.tearDown d ctx t).sec.fuses = d.sec.fuses := by
  unfold Dev.tearDown
  repeat' first | with_reducible rfl | with_reducible refine ite_fuses ?_ ?_ | dsimp only | simp only [Dev.setCtx_fuses, Dev.dropVat_fuses, Dev.dropColl_fuses, Dev.setPart_fuses, Dev.finishTear_fuses] | split | with_reducible refine (fold_fuses _ _ (fun _ _ => ?_) _).trans ?_ | with_reducible refine (fold1_fuses _ _ (fun _ _ => ?_) _).trans ?_

theorem Dev.noteAbort_fuses (d : Dev) (id gen : Nat) : (Dev.noteAbort d id gen).sec.fuses = d.sec.fuses := by unfold Dev.noteAbort; rfl

theorem Dev.abortSlice_fuses (d : Dev) (ctx : Nat) (m : AbortMsg) (from_ : Option Nat) (t : Teardown) : (Dev.abortSlice d ctx m from_ t).sec.fuses = d.sec.fuses := by
  unfold Dev.abortSlice
  repeat' first | with_reducible rfl | with_reducible refine ite_fuses ?_ ?_ | dsimp only | simp only [Dev.tearDown_fuses, Dev.noteAbort_fuses, Dev.send_fuses] | split | with_reducible refine (fold_fuses _ _ (fun _ _ => ?_) _).trans ?_ | with_reducible refine (fold1_fuses _ _ (fun _ _ => ?_) _).trans ?_

theorem Dev.resetCtx_fuses (d : Dev) (ctx : Nat) (t : Teardown) : (Dev.resetCtx d ctx t).sec.fuses = d.sec.fuses := by
  unfold Dev.resetCtx
  repeat' first | with_reducible rfl | simp only [Dev.noteReset_fuses, Dev.sliceState_fuses, Dev.abortSlice_fuses, Dev.tearDown_fuses] | split

theorem Dev.engineReset_fuses (d : Dev) (u cause : Nat) (req : Option (Nat × Nat)) : (Dev.engineReset d u cause req).sec.fuses = d.sec.fuses := by
  unfold Dev.engineReset
  repeat' first | with_reducible rfl | with_reducible refine ite_fuses ?_ ?_ | dsimp only | simp only [Dev.resetCtx_fuses] | split | with_reducible refine (fold_fuses _ _ (fun _ _ => ?_) _).trans ?_ | with_reducible refine (fold1_fuses _ _ (fun _ _ => ?_) _).trans ?_

theorem Dev.clearTrees_fuses (d : Dev) (u : Nat) : (Dev.clearTrees d u).sec.fuses = d.sec.fuses := by
  unfold Dev.clearTrees
  repeat' first | with_reducible rfl | with_reducible refine ite_fuses ?_ ?_ | dsimp only | split | with_reducible refine (fold_fuses _ _ (fun _ _ => ?_) _).trans ?_ | with_reducible refine (fold1_fuses _ _ (fun _ _ => ?_) _).trans ?_

theorem Dev.clearUnit_fuses (d : Dev) (u : Nat) : (Dev.clearUnit d u).sec.fuses = d.sec.fuses := by
  unfold Dev.clearUnit
  repeat' first | with_reducible rfl | simp only [Dev.portFails_fuses, Dev.setUnit_fuses, Dev.setCurd_fuses, Dev.setDmaCh_fuses, Dev.clearTrees_fuses] | split

theorem Dev.purgeVat_fuses (d : Dev) (node : Nat) : (Dev.purgeVat d node).sec.fuses = d.sec.fuses := by unfold Dev.purgeVat; rfl

theorem Dev.partReset_fuses (d : Dev) (p cause : Nat) (esc : Bool) (req : Option (Nat × Nat)) : (Dev.partReset d p cause esc req).sec.fuses = d.sec.fuses := by
  unfold Dev.partReset
  repeat' first | with_reducible rfl | with_reducible refine ite_fuses ?_ ?_ | dsimp only | simp only [Dev.setPart_fuses, Dev.resetCtx_fuses, Dev.purgeVat_fuses, Dev.noteReset_fuses, Dev.setChan_fuses, Dev.setCtx_fuses] | split | with_reducible refine (fold_fuses _ _ (fun _ _ => ?_) _).trans ?_ | with_reducible refine (fold1_fuses _ _ (fun _ _ => ?_) _).trans ?_

theorem Dev.freePart_fuses (d : Dev) (p : Nat) : (Dev.freePart d p).sec.fuses = d.sec.fuses := by
  unfold Dev.freePart
  repeat' first | with_reducible rfl | with_reducible refine ite_fuses ?_ ?_ | dsimp only | simp only [Dev.setChan_fuses, Dev.dropKeys_fuses, Dev.setPart_fuses] | split | with_reducible refine (fold_fuses _ _ (fun _ _ => ?_) _).trans ?_ | with_reducible refine (fold1_fuses _ _ (fun _ _ => ?_) _).trans ?_

theorem Dev.endPartReset_fuses (d : Dev) (p : Nat) : (Dev.endPartReset d p).sec.fuses = d.sec.fuses := by
  unfold Dev.endPartReset
  repeat' first | with_reducible rfl | simp only [Dev.setPart_fuses, Dev.finishTear_fuses, Dev.doFences_fuses, Dev.answerReset_fuses, Dev.freePart_fuses, Dev.settleFaults_fuses] | split

theorem Dev.recvReset_fuses (d : Dev) (sec failover : Bool) : (Dev.recvReset d sec failover).sec.fuses = d.sec.fuses := by
  unfold Dev.recvReset
  repeat' first | with_reducible rfl | with_reducible refine ite_fuses ?_ ?_ | dsimp only | simp only [Dev.forget_fuses, Dev.setMbx_fuses, Dev.doorbell_fuses] | split | with_reducible refine (fold_fuses _ _ (fun _ _ => ?_) _).trans ?_ | with_reducible refine (fold1_fuses _ _ (fun _ _ => ?_) _).trans ?_

theorem Dev.hdmaAbortAll_fuses (d : Dev) : (Dev.hdmaAbortAll d).sec.fuses = d.sec.fuses := by
  unfold Dev.hdmaAbortAll
  repeat' first | with_reducible rfl | with_reducible refine ite_fuses ?_ ?_ | dsimp only | simp only [Dev.hostWrite_fuses, Dev.setFunc_fuses, Dev.raise_fuses] | split | with_reducible refine (fold_fuses _ _ (fun _ _ => ?_) _).trans ?_ | with_reducible refine (fold1_fuses _ _ (fun _ _ => ?_) _).trans ?_

theorem Dev.hostReset_fuses (d : Dev) : (Dev.hostReset d).sec.fuses = d.sec.fuses := by
  unfold Dev.hostReset
  repeat' first | with_reducible rfl | with_reducible refine ite_fuses ?_ ?_ | dsimp only | simp only [Dev.winAbortAll_fuses, Dev.hdmaAbortAll_fuses] | split | with_reducible refine (fold_fuses _ _ (fun _ _ => ?_) _).trans ?_ | with_reducible refine (fold1_fuses _ _ (fun _ _ => ?_) _).trans ?_

theorem Dev.chipAborts_fuses (d : Dev) (cause : Nat) : (Dev.chipAborts d cause).sec.fuses = d.sec.fuses := by
  unfold Dev.chipAborts
  repeat' first | with_reducible rfl | with_reducible refine ite_fuses ?_ ?_ | dsimp only | simp only [Dev.noteAbort_fuses, Dev.send_fuses] | split | with_reducible refine (fold_fuses _ _ (fun _ _ => ?_) _).trans ?_ | with_reducible refine (fold1_fuses _ _ (fun _ _ => ?_) _).trans ?_

theorem Dev.chipAdvance_fuses (d : Dev) (c g : Nat) : (Dev.chipAdvance d c g).sec.fuses = d.sec.fuses := by
  unfold Dev.chipAdvance
  repeat' first | with_reducible rfl | simp only [Dev.advance_fuses, Dev.setCtx_fuses, Dev.dropTables_fuses, Dev.removeCtx_fuses, Dev.closeSlice_fuses, Dev.unload_fuses, Dev.advanceTo_fuses] | split

theorem Dev.coreReset_fuses (d : Dev) : (Dev.coreReset d).sec.fuses = d.sec.fuses := by
  simp only [Dev.coreReset, Dev.cfgAtReset_fuses]

theorem Dev.chipReset_fuses (d : Dev) (cause : Nat) (count esc : Bool) : (Dev.chipReset d cause count esc).sec.fuses = d.sec.fuses := by
  unfold Dev.chipReset
  repeat' first | with_reducible rfl | with_reducible refine ite_fuses ?_ ?_ | dsimp only | simp only [Dev.chipAborts_fuses, Dev.hdmaAbortAll_fuses, Dev.chipAdvance_fuses, Dev.recvReset_fuses, Dev.coreReset_fuses, Dev.doFences_fuses, Dev.settleFaults_fuses, Dev.sbAlert_fuses, Dev.hostReset_fuses] | split | with_reducible refine (fold_fuses _ _ (fun _ _ => ?_) _).trans ?_ | with_reducible refine (fold1_fuses _ _ (fun _ _ => ?_) _).trans ?_

theorem Dev.assertPwrcyc_fuses (d : Dev) : (Dev.assertPwrcyc d).sec.fuses = d.sec.fuses := by
  unfold Dev.assertPwrcyc; split <;> simp only [Dev.sbAlert_fuses]

theorem Dev.askPowerCycle_fuses (d : Dev) (cause : Nat) : (Dev.askPowerCycle d cause).sec.fuses = d.sec.fuses := by
  unfold Dev.askPowerCycle; split <;> simp only [Dev.assertPwrcyc_fuses]

theorem farStart_fuses (node slot : Nat) (k : KNum) (d : Dev) (c : Curd) (op : Nat → TagOp) (f : Flit) (ga : Nat) : (farStart node slot k d c op f ga).fusesAre d.sec.fuses := by
  unfold farStart
  repeat' first | trivial | with_reducible rfl | dsimp only | simp only [Dev.setCurd_fuses, Dev.submitChecked_fuses] | split | dsimp only [Issue.fusesAre]

theorem farInvalid_fuses (node slot : Nat) (k : KNum) (d : Dev) (c : Curd) (ga : Nat) : (farInvalid node slot k d c ga).fusesAre d.sec.fuses := by
  unfold farInvalid
  repeat' first | trivial | with_reducible rfl | dsimp only | simp only [Dev.setCurd_fuses, Dev.completeOp_fuses, Dev.raiseVat_fuses] | split | dsimp only [Issue.fusesAre]

theorem farTagged_fuses (d : Dev) (node slot : Nat) (go : Issue) (h : go.fusesAre d.sec.fuses) : (farTagged d node slot go).fusesAre d.sec.fuses := by
  unfold farTagged
  split
  · trivial
  · exact h

theorem farLocal_fuses (d : Dev) (node slot : Nat) (c : Curd) (a n align : Nat) (write : Bool) (go : Issue) (h_go : go.fusesAre d.sec.fuses) : (farLocal d node slot c a n align write go).fusesAre d.sec.fuses := by
  unfold farLocal
  repeat' first | trivial | with_reducible rfl | dsimp only | exact h_go | exact h_go _ _ (by simp only [Dev.localRead_fuses]) | split | dsimp only [Issue.fusesAre]

theorem farCapture_fuses (node slot a n : Nat) (d : Dev) (go : Dev → List Byte → Issue) (h_go : ∀ e bs, e.sec.fuses = d.sec.fuses → (go e bs).fusesAre d.sec.fuses) : (farCapture node slot a n d go).fusesAre d.sec.fuses := by
  unfold farCapture
  repeat' first | trivial | with_reducible rfl | dsimp only | exact h_go | exact h_go _ _ (by simp only [Dev.localRead_fuses]) | simp only [Dev.localRead_fuses] | split | dsimp only [Issue.fusesAre]

theorem runFarGet_fuses (node slot : Nat) (d : Dev) (c : Curd) (i : CurdInstr) (x : Issue) : runFarGet node slot d c i = some x → x.fusesAre d.sec.fuses := by
  unfold runFarGet
  repeat' first | trivial | with_reducible rfl | dsimp only | exact farStart_fuses .. | exact farInvalid_fuses .. | refine farLocal_fuses _ _ _ _ _ _ _ _ _ ?_ | refine farTagged_fuses _ _ _ _ ?_ | (intro h; cases h) | split | dsimp only [Issue.fusesAre]

theorem runFarPut_fuses (node slot : Nat) (d : Dev) (c : Curd) (i : CurdInstr) (x : Issue) : runFarPut node slot d c i = some x → x.fusesAre d.sec.fuses := by
  unfold runFarPut
  repeat' first | trivial | with_reducible rfl | dsimp only | exact farStart_fuses .. | exact farInvalid_fuses .. | refine farLocal_fuses _ _ _ _ _ _ _ _ _ ?_ | refine farTagged_fuses _ _ _ _ ?_ | refine farCapture_fuses _ _ _ _ _ _ (fun _ _ he => ?_) | (rw [← he]; exact farStart_fuses ..) | (intro h; cases h) | split | dsimp only [Issue.fusesAre]

theorem runFarPutv_fuses (node slot : Nat) (d : Dev) (c : Curd) (i : CurdInstr) (x : Issue) : runFarPutv node slot d c i = some x → x.fusesAre d.sec.fuses := by
  unfold runFarPutv
  repeat' first | trivial | with_reducible rfl | dsimp only | exact farStart_fuses .. | exact farInvalid_fuses .. | refine farTagged_fuses _ _ _ _ ?_ | (intro h; cases h) | split | dsimp only [Issue.fusesAre]

theorem farAtomicIssue_fuses (node slot : Nat) (d : Dev) (c : Curd) (kind : FarKind) (ga gb : Reg) (k : KNum) (ord : Bool) (lenM1 : BitVec 7) : (farAtomicIssue node slot d c kind ga gb k ord lenM1).fusesAre d.sec.fuses := by
  unfold farAtomicIssue
  repeat' first | trivial | with_reducible rfl | dsimp only | exact farStart_fuses .. | exact farInvalid_fuses .. | refine farLocal_fuses _ _ _ _ _ _ _ _ _ ?_ | refine farTagged_fuses _ _ _ _ ?_ | refine farCapture_fuses _ _ _ _ _ _ (fun _ _ he => ?_) | (rw [← he]; exact farStart_fuses ..) | exact he | split | dsimp only [Issue.fusesAre]

theorem runFarAtomic_fuses (node slot : Nat) (d : Dev) (c : Curd) (i : CurdInstr) (x : Issue) : runFarAtomic node slot d c i = some x → x.fusesAre d.sec.fuses := by
  unfold runFarAtomic
  repeat' first | trivial | with_reducible rfl | dsimp only | exact farAtomicIssue_fuses .. | (intro h; cases h) | split | dsimp only [Issue.fusesAre]

theorem runFarFp32Add_fuses (node slot : Nat) (d : Dev) (c : Curd) (i : CurdInstr) (x : Issue) : runFarFp32Add node slot d c i = some x → x.fusesAre d.sec.fuses := by
  unfold runFarFp32Add
  repeat' first | trivial | with_reducible rfl | dsimp only | exact farAtomicIssue_fuses .. | (intro h; cases h) | split | dsimp only [Issue.fusesAre]

theorem runSignal_fuses (node slot : Nat) (d : Dev) (c : Curd) (i : CurdInstr) (x : Issue) : runSignal node slot d c i = some x → x.fusesAre d.sec.fuses := by
  unfold runSignal
  repeat' first | trivial | with_reducible rfl | dsimp only | exact farStart_fuses .. | exact farInvalid_fuses .. | refine farTagged_fuses _ _ _ _ ?_ | (intro h; cases h) | split | dsimp only [Issue.fusesAre]

theorem runFence_fuses (node slot : Nat) (d : Dev) (c : Curd) (i : CurdInstr) (x : Issue) : runFence node slot d c i = some x → x.fusesAre d.sec.fuses := by
  unfold runFence
  repeat' first | trivial | with_reducible rfl | dsimp only | exact farStart_fuses .. | (intro h; cases h) | split | dsimp only [Issue.fusesAre]

theorem runCult_fuses (node slot : Nat) (d : Dev) (c : Curd) (i : CurdInstr) (x : Issue) : runCult node slot d c i = some x → x.fusesAre d.sec.fuses := by
  unfold runCult
  repeat' first | trivial | with_reducible rfl | dsimp only | refine farLocal_fuses _ _ _ _ _ _ _ _ _ ?_ | refine farCapture_fuses _ _ _ _ _ _ (fun _ _ he => ?_) | simp only [Dev.setNi_fuses, Dev.setCtx_fuses, farLocal_fuses, farCapture_fuses] | (rw [← he]; exact farStart_fuses ..) | exact he | (intro h; cases h) | split | dsimp only [Issue.fusesAre]

theorem descIssue_fuses (d : Dev) (node slot a : Nat) (c : Curd) (go : Dev → List Byte → Issue) (h_go : ∀ e bs, e.sec.fuses = d.sec.fuses → (go e bs).fusesAre d.sec.fuses) : (descIssue d node slot a c go).fusesAre d.sec.fuses := by
  unfold descIssue
  repeat' first | trivial | split | exact farCapture_fuses _ _ _ _ _ _ h_go

theorem runDma_fuses (node slot : Nat) (d : Dev) (c : Curd) (i : CurdInstr) (x : Issue) : runDma node slot d c i = some x → x.fusesAre d.sec.fuses := by
  unfold runDma
  repeat' first | trivial | with_reducible rfl | dsimp only | refine descIssue_fuses _ _ _ _ _ _ (fun _ _ he => ?_) | simp only [Dev.setDmaCh_fuses, descIssue_fuses] | (rw [← he]; exact farStart_fuses ..) | exact he | (intro h; cases h) | split | dsimp only [Issue.fusesAre]

theorem runColl_fuses (node slot : Nat) (d : Dev) (c : Curd) (i : CurdInstr) (x : Issue) : runColl node slot d c i = some x → x.fusesAre d.sec.fuses := by
  unfold runColl
  repeat' first | trivial | with_reducible rfl | dsimp only | refine descIssue_fuses _ _ _ _ _ _ (fun _ _ he => ?_) | simp only [Dev.setCurd_fuses, Dev.collAccept_fuses, descIssue_fuses] | (rw [← he]; exact farStart_fuses ..) | exact he | (intro h; cases h) | split | dsimp only [Issue.fusesAre]

theorem Dev.curdDone_fuses (d : Dev) (node slot : Nat) : (Dev.curdDone d node slot).sec.fuses = d.sec.fuses := by
  unfold Dev.curdDone
  repeat' first | with_reducible rfl | with_reducible refine ite_fuses ?_ ?_ | dsimp only | simp only [Dev.setCurd_fuses, Dev.checkDoneAt_fuses] | split | with_reducible refine (fold_fuses _ _ (fun _ _ => ?_) _).trans ?_ | with_reducible refine (fold1_fuses _ _ (fun _ _ => ?_) _).trans ?_

theorem runHalt_fuses (d : Dev) (c : Curd) (i : CurdInstr) (x : Issue) : runHalt d c i = some x → x.fusesAre d.sec.fuses := by
  unfold runHalt
  repeat' first | trivial | with_reducible rfl | dsimp only | (intro h; cases h) | split | dsimp only [Issue.fusesAre]

theorem Dev.setInbox_fuses (d : Dev) (node : Nat) (l : List Flit) : (Dev.setInbox d node l).sec.fuses = d.sec.fuses := by
  unfold Dev.setInbox; split <;> simp only [Dev.setNi_fuses, Dev.setChan_fuses]

theorem Dev.setFlows_fuses (d : Dev) (node : Nat) (l : List Flow) : (Dev.setFlows d node l).sec.fuses = d.sec.fuses := by
  unfold Dev.setFlows; split <;> simp only [Dev.setNi_fuses, Dev.setChan_fuses]

theorem Dev.setHeld_fuses (d : Dev) (node : Nat) (l : List Flit) : (Dev.setHeld d node l).sec.fuses = d.sec.fuses := by
  unfold Dev.setHeld; split <;> simp only [Dev.setNi_fuses, Dev.setChan_fuses]

theorem Dev.answer_fuses (d : Dev) (node : Nat) (q : Flit) (code : Nat) : (Dev.answer d node q code).sec.fuses = d.sec.fuses := by
  simp only [Dev.answer, Dev.reply_fuses]

theorem Dev.landRead_fuses (d : Dev) (node ctx : Nat) (x : Landing) (n : Nat) : (Dev.landRead d node ctx x n).1.sec.fuses = d.sec.fuses := by
  unfold Dev.landRead; split <;> simp only [Dev.placeRead_fuses, Dev.extRead_fuses]

theorem Dev.landWrite_fuses (d : Dev) (node ctx : Nat) (x : Landing) (bs : List Byte) : (Dev.landWrite d node ctx x bs).1.sec.fuses = d.sec.fuses := by
  unfold Dev.landWrite; split <;> simp only [Dev.placeWrite_fuses, Dev.extWrite_fuses]

theorem Dev.refuse_fuses (d : Dev) (node : Nat) (q : Flit) (code : Nat) : (Dev.refuse d node q code).sec.fuses = d.sec.fuses := by
  simp only [Dev.refuse, Dev.raiseAt_fuses, Dev.answer_fuses]

theorem Dev.performRd_fuses (d : Dev) (node : Nat) (q : Flit) : (Dev.performRd d node q).sec.fuses = d.sec.fuses := by
  unfold Dev.performRd
  repeat' first | with_reducible rfl | simp only [Dev.answer_fuses, Dev.refuse_fuses, Dev.landRead_fuses, Dev.reply_fuses] | split

theorem Dev.performWr_fuses (d : Dev) (node : Nat) (q : Flit) (data : List Byte) : (Dev.performWr d node q data).sec.fuses = d.sec.fuses := by
  unfold Dev.performWr
  repeat' first | with_reducible rfl | simp only [Dev.answer_fuses, Dev.refuse_fuses, Dev.landWrite_fuses, Dev.collWritten_fuses] | split

theorem Dev.performAmo_fuses (d : Dev) (node : Nat) (q : Flit) (data : List Byte) : (Dev.performAmo d node q data).sec.fuses = d.sec.fuses := by
  unfold Dev.performAmo
  repeat' first | with_reducible rfl | simp only [Dev.refuse_fuses, Dev.landRead_fuses, Dev.answer_fuses, Dev.landWrite_fuses, Dev.reply_fuses] | split

theorem Dev.performSig_fuses (d : Dev) (node : Nat) (q : Flit) : (Dev.performSig d node q).sec.fuses = d.sec.fuses := by
  unfold Dev.performSig
  repeat' first | with_reducible rfl | simp only [Dev.refuse_fuses, Dev.signalAt_fuses, Dev.answer_fuses] | split

theorem Dev.perform_fuses (d : Dev) (node : Nat) (q : Flit) (data : List Byte) : (Dev.perform d node q data).sec.fuses = d.sec.fuses := by
  unfold Dev.perform; split <;> simp only [Dev.performRd_fuses, Dev.performWr_fuses, Dev.performAmo_fuses, Dev.performSig_fuses]

theorem Dev.duplicateAnswer_fuses (d : Dev) (node : Nat) (q : Flit) : (Dev.duplicateAnswer d node q).sec.fuses = d.sec.fuses := by
  unfold Dev.duplicateAnswer; split <;> simp only [Dev.setNi_fuses, Dev.answer_fuses]

theorem Dev.filtered_fuses (d : Dev) (node : Nat) (q : Flit) (data : List Byte) (again : Bool) : (Dev.filtered d node q data again).sec.fuses = d.sec.fuses := by
  unfold Dev.filtered
  repeat' first | with_reducible rfl | simp only [Dev.perform_fuses, Dev.setFlows_fuses, Dev.duplicateAnswer_fuses, Dev.setNi_fuses, Dev.setHeld_fuses] | split

theorem Dev.receive_fuses (d : Dev) (node : Nat) (q : Flit) (again : Bool) : (Dev.receive d node q again).sec.fuses = d.sec.fuses := by
  unfold Dev.receive
  repeat' first | with_reducible rfl | simp only [Dev.raiseAt_fuses, Dev.answer_fuses, Dev.filtered_fuses] | split

theorem Dev.take_fuses (d : Dev) (node typ : Nat) : (Dev.take d node typ).sec.fuses = d.sec.fuses := by
  unfold Dev.take
  repeat' first | with_reducible rfl | simp only [Dev.setInbox_fuses, Dev.receive_fuses] | split

theorem doHeldRequestRetry_fuses (d : Dev) (node : Nat) : (doHeldRequestRetry d node).sec.fuses = d.sec.fuses := by
  unfold doHeldRequestRetry
  repeat' first | with_reducible rfl | simp only [Dev.setHeld_fuses, Dev.receive_fuses] | split

theorem Dev.afterOp_fuses (d : Dev) (node : Nat) (r : TagRec) : (Dev.afterOp d node r).sec.fuses = d.sec.fuses := by
  unfold Dev.afterOp; split <;> simp only [Dev.collMove_fuses, Dev.checkDone_fuses]

theorem Dev.takeReply_fuses (d : Dev) (node typ : Nat) : (Dev.takeReply d node typ).sec.fuses = d.sec.fuses := by
  unfold Dev.takeReply
  repeat' first | with_reducible rfl | simp only [Dev.setNi_fuses, Dev.raiseVat_fuses, Dev.finishTag_fuses, Dev.afterOp_fuses, Dev.raiseAt_fuses, Dev.marked_fuses] | split

theorem Dev.setTagSt_fuses (d : Dev) (node tag : Nat) (r : TagRec) (st : TagSt) : (Dev.setTagSt d node tag r st).sec.fuses = d.sec.fuses := by unfold Dev.setTagSt; rfl

theorem doRequestTimeout_fuses (d : Dev) (node tag : Nat) : (doRequestTimeout d node tag).sec.fuses = d.sec.fuses := by
  unfold doRequestTimeout
  repeat' first | with_reducible rfl | simp only [Dev.setTagSt_fuses, Dev.checkDone_fuses, Dev.finishTag_fuses, Dev.afterOp_fuses] | split

theorem Dev.hostAgain_fuses (d : Dev) (node tag : Nat) (r : TagRec) : (Dev.hostAgain d node tag r).sec.fuses = d.sec.fuses := by
  unfold Dev.hostAgain
  repeat' first | with_reducible rfl | with_reducible refine ite_fuses ?_ ?_ | dsimp only | simp only [Dev.setNi_fuses, Dev.offer_fuses] | split | with_reducible refine (fold_fuses _ _ (fun _ _ => ?_) _).trans ?_ | with_reducible refine (fold1_fuses _ _ (fun _ _ => ?_) _).trans ?_

theorem doOndieTimeout_fuses (d : Dev) (node tag : Nat) : (doOndieTimeout d node tag).sec.fuses = d.sec.fuses := by
  unfold doOndieTimeout
  repeat' first | with_reducible rfl | simp only [Dev.setTagSt_fuses, Dev.checkDone_fuses, Dev.finishTag_fuses, Dev.afterOp_fuses, Dev.hostAgain_fuses] | split

theorem doTagQuarantineEnd_fuses (d : Dev) (node tag : Nat) : (doTagQuarantineEnd d node tag).sec.fuses = d.sec.fuses := by
  unfold doTagQuarantineEnd
  repeat' first | with_reducible rfl | simp only [Dev.setNi_fuses] | split

theorem doRateLimitRecovery_fuses (d : Dev) (node chip : Nat) : (doRateLimitRecovery d node chip).sec.fuses = d.sec.fuses := by unfold doRateLimitRecovery; rfl

theorem doDmaDescriptorStart_fuses (d : Dev) (node chan : Nat) : (doDmaDescriptorStart d node chan).sec.fuses = d.sec.fuses := by
  unfold doDmaDescriptorStart
  repeat' first | with_reducible rfl | simp only [Dev.setDmaCh_fuses, Dev.fail_fuses] | split

theorem Dev.dmaPushAll_fuses (d : Dev) (node chan : Nat) : (Dev.dmaPushAll d node chan).sec.fuses = d.sec.fuses := by
  unfold Dev.dmaPushAll
  repeat' first | with_reducible rfl | with_reducible refine ite_fuses ?_ ?_ | dsimp only | simp only [Dev.dmaPush_fuses] | split | with_reducible refine (fold_fuses _ _ (fun _ _ => ?_) _).trans ?_ | with_reducible refine (fold1_fuses _ _ (fun _ _ => ?_) _).trans ?_

theorem Dev.dmaAdvance_fuses (d : Dev) (node chan : Nat) : (Dev.dmaAdvance d node chan).sec.fuses = d.sec.fuses := by
  unfold Dev.dmaAdvance
  repeat' first | with_reducible rfl | dsimp only | simp only [Dev.setNi_fuses, Dev.setDmaCh_fuses, Dev.dmaFail_fuses, Dev.dmaFill_fuses] | split

theorem doDmaSegment_fuses (d : Dev) (node chan : Nat) : (doDmaSegment d node chan).sec.fuses = d.sec.fuses := by
  unfold doDmaSegment
  repeat' first | with_reducible rfl | simp only [Dev.setNi_fuses, Dev.dmaFail_fuses, Dev.dmaFill_fuses, Dev.dmaPushAll_fuses, Dev.dmaAdvance_fuses] | split

theorem Dev.cvDrop_fuses (d : Dev) (o : CvOwner) : (Dev.cvDrop d o).sec.fuses = d.sec.fuses := by unfold Dev.cvDrop; rfl

theorem doDmaComplete_fuses (d : Dev) (node chan run : Nat) : (doDmaComplete d node chan run).sec.fuses = d.sec.fuses := by
  unfold doDmaComplete
  repeat' first | with_reducible rfl | simp only [Dev.localWrite_fuses, Dev.setDmaCh_fuses, Dev.cvDrop_fuses, Dev.completeOp_fuses, Dev.logAccess_fuses, Dev.submitChecked_fuses, Dev.checkDoneAt_fuses, fold_fuses] | split

theorem Dev.cvAccepted_fuses (d : Dev) (node chan run o n : Nat) : (Dev.cvAccepted d node chan run o n).sec.fuses = d.sec.fuses := by
  unfold Dev.cvAccepted
  repeat' first | with_reducible rfl | simp only [Dev.dmaLanded_fuses, Dev.setDmaCh_fuses] | split

theorem doCvBlock_fuses (d : Dev) (unit : Nat) : (doCvBlock d unit).sec.fuses = d.sec.fuses := by
  unfold doCvBlock
  repeat' first | with_reducible rfl | simp only [Dev.setCvu_fuses, Dev.cvAccepted_fuses, Dev.cvDrop_fuses, Dev.cultCrc_fuses] | split

theorem doRuChunkRead_fuses (d : Dev) (node seq chunk : Nat) : (doRuChunkRead d node seq chunk).sec.fuses = d.sec.fuses := by
  unfold doRuChunkRead
  repeat' first | with_reducible rfl | simp only [Dev.sendItem_fuses, Dev.collAdvance_fuses, Dev.readChunk_fuses, Dev.setOp_fuses, Dev.ruCount_fuses, Dev.partialIn_fuses, Dev.sendUp_fuses] | split

theorem Dev.setCollBox_fuses (d : Dev) (u typ : Nat) (l : List Flit) : (Dev.setCollBox d u typ l).sec.fuses = d.sec.fuses := by
  unfold Dev.setCollBox
  repeat' first | with_reducible rfl | simp only [Dev.setNi_fuses, Dev.setUnit_fuses] | split

theorem Dev.takeColl_fuses (d : Dev) (u typ kind : Nat) {y : Dev × Option (Flit × List Byte × Nat)} : Dev.takeColl d u typ kind = some y → y.1.sec.fuses = d.sec.fuses := by
  unfold Dev.takeColl
  repeat' first | with_reducible rfl | with_reducible refine ite_fuses ?_ ?_ | dsimp only | simp only [Dev.setCollBox_fuses, Dev.raiseAt_fuses] | split | (intro h; cases h)

theorem Dev.dupColl_fuses (d : Dev) (u : Nat) : (Dev.dupColl d u).sec.fuses = d.sec.fuses := by
  unfold Dev.dupColl; split <;> simp only [Dev.setPort_fuses]

theorem Dev.countColl_fuses (d : Dev) (u : Nat) : (Dev.countColl d u).sec.fuses = d.sec.fuses := by
  unfold Dev.countColl; split <;> simp only [Dev.setPort_fuses]

theorem Dev.upInto_fuses (d : Dev) (u : Nat) (f : Flit) (tries : Nat) (ws : List Word32) : (Dev.upInto d u f tries ws).sec.fuses = d.sec.fuses := by
  simp only [Dev.upInto, Dev.setUnit_fuses, Dev.countColl_fuses, Dev.credit_fuses, Dev.slotSteps_fuses, Dev.take_fuses]

theorem doCollUp_fuses (d : Dev) (u : Nat) : (doCollUp d u).sec.fuses = d.sec.fuses := by
  unfold doCollUp
  repeat' first | with_reducible rfl | with_reducible refine ite_fuses ?_ ?_ | dsimp only | simp only [Dev.dupColl_fuses, Dev.credit_fuses, Dev.upInto_fuses, Dev.takeColl_fuses] | refine (Dev.takeColl_fuses _ _ _ _ ‹Dev.takeColl _ _ _ _ = some _›).trans ?_ | split

theorem Dev.writeResult_fuses (d : Dev) (u node : Nat) (o : CollOp) (g : Nat) (ws : List Word32) : (Dev.writeResult d u node o g ws).sec.fuses = d.sec.fuses := by
  unfold Dev.writeResult
  repeat' first | with_reducible rfl | with_reducible refine ite_fuses ?_ ?_ | dsimp only | simp only [Dev.localWrite_fuses, Dev.rankWrite_fuses, Dev.setOp_fuses, Dev.ruCount_fuses, Dev.collAdvance_fuses, Dev.take_fuses] | split | with_reducible refine (fold_fuses _ _ (fun _ _ => ?_) _).trans ?_ | with_reducible refine (fold1_fuses _ _ (fun _ _ => ?_) _).trans ?_

theorem Dev.downAtVat_fuses (d : Dev) (node : Nat) (f : Flit) (bs : List Byte) (r : Nat) : (Dev.downAtVat d node f bs r).sec.fuses = d.sec.fuses := by
  unfold Dev.downAtVat
  repeat' first | with_reducible rfl | simp only [Dev.credit_fuses, Dev.writeResult_fuses] | split

theorem Dev.downAtEngine_fuses (d : Dev) (u : Nat) (f : Flit) (bs : List Byte) (r : Nat) : (Dev.downAtEngine d u f bs r).sec.fuses = d.sec.fuses := by
  unfold Dev.downAtEngine
  repeat' first | with_reducible rfl | simp only [Dev.credit_fuses, Dev.dupColl_fuses, Dev.setUnit_fuses, Dev.countColl_fuses, Dev.sendDown_fuses] | split

theorem doCollDown_fuses (d : Dev) (u : Nat) : (doCollDown d u).sec.fuses = d.sec.fuses := by
  unfold doCollDown
  repeat' first | with_reducible rfl | with_reducible refine ite_fuses ?_ ?_ | dsimp only | simp only [Dev.downAtVat_fuses, Dev.checkDoneAt_fuses, Dev.downAtEngine_fuses, Dev.takeColl_fuses] | refine (Dev.takeColl_fuses _ _ _ _ ‹Dev.takeColl _ _ _ _ = some _›).trans ?_ | split

theorem Dev.spreadRelease_fuses (d : Dev) (u tree slot seq bar code : Nat) : (Dev.spreadRelease d u tree slot seq bar code).sec.fuses = d.sec.fuses := by
  unfold Dev.spreadRelease
  repeat' first | with_reducible rfl | with_reducible refine ite_fuses ?_ ?_ | dsimp only | simp only [Dev.collSend_fuses] | split | with_reducible refine (fold_fuses _ _ (fun _ _ => ?_) _).trans ?_ | with_reducible refine (fold1_fuses _ _ (fun _ _ => ?_) _).trans ?_

theorem Dev.chipRelease_fuses (d : Dev) (tree slot seq bar code : Nat) : (Dev.chipRelease d tree slot seq bar code).sec.fuses = d.sec.fuses := by
  unfold Dev.chipRelease
  repeat' first | with_reducible rfl | with_reducible refine ite_fuses ?_ ?_ | dsimp only | simp only [Dev.setUnit_fuses, Dev.slotSteps_fuses, Dev.chipSteps_fuses] | split | with_reducible refine (fold_fuses _ _ (fun _ _ => ?_) _).trans ?_ | with_reducible refine (fold1_fuses _ _ (fun _ _ => ?_) _).trans ?_

theorem Dev.tokDone_fuses (d : Dev) (u slot : Nat) (t : CollTok) : (Dev.tokDone d u slot t).sec.fuses = d.sec.fuses := by
  unfold Dev.tokDone
  repeat' first | with_reducible rfl | simp only [Dev.setUnit_fuses, Dev.spreadRelease_fuses, Dev.chipRelease_fuses, Dev.collSend_fuses] | split

theorem doCollArrive_fuses (d : Dev) (u : Nat) : (doCollArrive d u).sec.fuses = d.sec.fuses := by
  unfold doCollArrive
  repeat' first | with_reducible rfl | with_reducible refine ite_fuses ?_ ?_ | dsimp only | simp only [Dev.credit_fuses, Dev.dupColl_fuses, Dev.setUnit_fuses, Dev.countColl_fuses, Dev.tokDone_fuses, Dev.takeColl_fuses] | refine (Dev.takeColl_fuses _ _ _ _ ‹Dev.takeColl _ _ _ _ = some _›).trans ?_ | split

theorem doCollRelease_fuses (d : Dev) (u : Nat) : (doCollRelease d u).sec.fuses = d.sec.fuses := by
  unfold doCollRelease
  repeat' first | with_reducible rfl | with_reducible refine ite_fuses ?_ ?_ | dsimp only | simp only [Dev.credit_fuses, Dev.rankRelease_fuses, Dev.checkDone_fuses, Dev.dupColl_fuses, Dev.setUnit_fuses, Dev.spreadRelease_fuses, Dev.chipRelease_fuses, Dev.takeColl_fuses] | refine (Dev.takeColl_fuses _ _ _ _ ‹Dev.takeColl _ _ _ _ = some _›).trans ?_ | split

theorem doCollAbort_fuses (d : Dev) (u : Nat) : (doCollAbort d u).sec.fuses = d.sec.fuses := by
  unfold doCollAbort
  repeat' first | with_reducible rfl | with_reducible refine ite_fuses ?_ ?_ | dsimp only | simp only [Dev.credit_fuses, Dev.setUnit_fuses, Dev.takeColl_fuses] | refine (Dev.takeColl_fuses _ _ _ _ ‹Dev.takeColl _ _ _ _ = some _›).trans ?_ | split

theorem Dev.upCredited_fuses (d : Dev) (u tree pos : Nat) : (Dev.upCredited d u tree pos).sec.fuses = d.sec.fuses := by
  unfold Dev.upCredited
  repeat' first | with_reducible rfl | simp only [Dev.setOp_fuses, Dev.collAdvance_fuses, Dev.setUnit_fuses, Dev.trySlotFree_fuses] | split

theorem doCollr_fuses (d : Dev) (unit : Nat) : (doCollr d unit).sec.fuses = d.sec.fuses := by
  unfold doCollr
  repeat' first | with_reducible rfl | with_reducible refine ite_fuses ?_ ?_ | dsimp only | simp only [Dev.setUnit_fuses, Dev.upCredited_fuses, Dev.trySlotFree_fuses, Dev.slotSteps_fuses, Dev.checkDoneAt_fuses, Dev.marked_fuses, Dev.takeColl_fuses] | refine (Dev.takeColl_fuses _ _ _ _ ‹Dev.takeColl _ _ _ _ = some _›).trans ?_ | split

theorem doCollResend_fuses (d : Dev) (u idx : Nat) : (doCollResend d u idx).sec.fuses = d.sec.fuses := by
  unfold doCollResend
  repeat' first | with_reducible rfl | simp only [Dev.raise_fuses, Dev.setUnit_fuses, Dev.setPort_fuses, Dev.toPort_fuses, Dev.offer_fuses, Dev.overLinks_fuses] | split

theorem doArriveLimit_fuses (d : Dev) (node seq : Nat) : (doArriveLimit d node seq).sec.fuses = d.sec.fuses := by unfold doArriveLimit; rfl

theorem Dev.loseChan_fuses (d : Dev) (c : Nat) : (Dev.loseChan d c).sec.fuses = d.sec.fuses := by
  unfold Dev.loseChan
  repeat' first | with_reducible rfl | with_reducible refine ite_fuses ?_ ?_ | dsimp only | simp only [Dev.setChan_fuses, Dev.answer_fuses, Dev.raise_fuses] | split | with_reducible refine (fold_fuses _ _ (fun _ _ => ?_) _).trans ?_ | with_reducible refine (fold1_fuses _ _ (fun _ _ => ?_) _).trans ?_

theorem Dev.cvOwnerFails_fuses (d : Dev) (o : CvOwner) : (Dev.cvOwnerFails d o).sec.fuses = d.sec.fuses := by
  unfold Dev.cvOwnerFails
  repeat' first | with_reducible rfl | simp only [Dev.setDmaCh_fuses, Dev.cultEnd_fuses, Dev.fail_fuses] | split

theorem Dev.cvFence_fuses (d : Dev) (u : Nat) : (Dev.cvFence d u).sec.fuses = d.sec.fuses := by
  unfold Dev.cvFence
  repeat' first | with_reducible rfl | with_reducible refine ite_fuses ?_ ?_ | dsimp only | simp only [Dev.cvOwnerFails_fuses, Dev.setCvu_fuses, Dev.chipReset_fuses] | split | with_reducible refine (fold_fuses _ _ (fun _ _ => ?_) _).trans ?_ | with_reducible refine (fold1_fuses _ _ (fun _ _ => ?_) _).trans ?_

theorem Dev.fenceHolding_fuses (d : Dev) (u cause : Nat) : (Dev.fenceHolding d u cause).sec.fuses = d.sec.fuses := by
  unfold Dev.fenceHolding
  repeat' first | with_reducible rfl | simp only [Dev.fenceUnit_fuses, Dev.setPart_fuses, Dev.resetCtx_fuses] | split

theorem Dev.fenceEdge_fuses (d : Dev) (s : Nat) : (Dev.fenceEdge d s).sec.fuses = d.sec.fuses := by
  unfold Dev.fenceEdge
  repeat' first | with_reducible rfl | with_reducible refine ite_fuses ?_ ?_ | dsimp only | simp only [Dev.fencePort_fuses, Dev.loseChan_fuses, Dev.cvFence_fuses] | split | with_reducible refine (fold_fuses _ _ (fun _ _ => ?_) _).trans ?_ | with_reducible refine (fold1_fuses _ _ (fun _ _ => ?_) _).trans ?_

theorem Dev.fenceRouter_fuses (d : Dev) (p : Plane) (node cause : Nat) : (Dev.fenceRouter d p node cause).sec.fuses = d.sec.fuses := by
  unfold Dev.fenceRouter
  repeat' first | with_reducible rfl | with_reducible refine ite_fuses ?_ ?_ | dsimp only | simp only [Dev.fenceHolding_fuses, Dev.fenceEdge_fuses] | split | with_reducible refine (fold_fuses _ _ (fun _ _ => ?_) _).trans ?_ | with_reducible refine (fold1_fuses _ _ (fun _ _ => ?_) _).trans ?_

theorem Dev.fenceStop_fuses (d : Dev) (s cause : Nat) : (Dev.fenceStop d s cause).sec.fuses = d.sec.fuses := by
  unfold Dev.fenceStop
  repeat' first | with_reducible rfl | simp only [Dev.fenceHolding_fuses, Dev.loseChan_fuses, Dev.fencePort_fuses, Dev.cvFence_fuses, Dev.fenceEdge_fuses, Dev.fenceRouter_fuses] | split

theorem Dev.failover_fuses (d : Dev) : (Dev.failover d).sec.fuses = d.sec.fuses := by
  unfold Dev.failover
  repeat' first | with_reducible rfl | simp only [Dev.recvReset_fuses, Dev.raise_fuses] | split

theorem Dev.coreFails_fuses (d : Dev) (b : Bool) : (Dev.coreFails d b).sec.fuses = d.sec.fuses := by
  unfold Dev.coreFails; split <;> simp only [Dev.failover_fuses]

theorem Dev.actFence_fuses (d : Dev) (m : FltMsg) : (Dev.actFence d m).1.sec.fuses = d.sec.fuses := by
  unfold Dev.actFence
  repeat' first | with_reducible rfl | simp only [Dev.fenceRouter_fuses, Dev.fenceHolding_fuses, Dev.loseChan_fuses, Dev.fencePort_fuses, Dev.cvFence_fuses, Dev.fenceStop_fuses, Dev.coreFails_fuses] | split

theorem Dev.act_fuses (d : Dev) (m : FltMsg) (sev : Nat) : (Dev.act d m sev).1.sec.fuses = d.sec.fuses := by
  unfold Dev.act
  repeat' first | with_reducible rfl | with_reducible refine ite_fuses ?_ ?_ | dsimp only | simp only [Dev.actFence_fuses, Dev.resetCtx_fuses, Dev.partReset_fuses, Dev.chipReset_fuses, Dev.askPowerCycle_fuses] | split | with_reducible refine (fold_fuses _ _ (fun _ _ => ?_) _).trans ?_ | with_reducible refine (fold1_fuses _ _ (fun _ _ => ?_) _).trans ?_

theorem Dev.faultBell_fuses (d : Dev) (m : FltMsg) : (Dev.faultBell d m).sec.fuses = d.sec.fuses := by
  unfold Dev.faultBell; split <;> simp only [Dev.doorbell_fuses]

theorem Dev.collect_fuses (d : Dev) (msg : FltMsg) : (Dev.collect d msg).sec.fuses = d.sec.fuses := by
  unfold Dev.collect
  repeat' first | with_reducible rfl | simp only [Dev.caveFault_fuses, Dev.tellPort_fuses, Dev.faultBell_fuses, Dev.sbAlert_fuses, Dev.act_fuses, Dev.caveAction_fuses, Dev.settleFaults_fuses] | split

theorem Dev.coreLost_fuses (d : Dev) : (Dev.coreLost d).sec.fuses = d.sec.fuses := by unfold Dev.coreLost; rfl

theorem Dev.trip_fuses (d : Dev) : (Dev.trip d).sec.fuses = d.sec.fuses := by
  unfold Dev.trip; split <;> simp only [Dev.sbAlert_fuses, Dev.coreLost_fuses, Dev.cavePower_fuses, Dev.raise_fuses]

theorem Dev.cycled_fuses (d : Dev) : (Dev.cycled d).sec.fuses = d.sec.fuses := by
  simp only [Dev.cycled, Dev.cfgAtPowerOn_fuses]

theorem Dev.caveCycled_fuses (d : Dev) : (Dev.caveCycled d).sec.fuses = d.sec.fuses := by
  unfold Dev.caveCycled
  repeat' first | with_reducible rfl | simp only [Dev.draw_fuses, Dev.collect_fuses, Dev.cycled_fuses] | split

theorem Dev.railsUp_fuses (d : Dev) : (Dev.railsUp d).sec.fuses = d.sec.fuses := by
  simp only [Dev.railsUp, Dev.cycled_fuses, Dev.caveCycled_fuses]

theorem Dev.tryRails_fuses (d : Dev) : (Dev.tryRails d).sec.fuses = d.sec.fuses := by
  unfold Dev.tryRails; split <;> simp only [Dev.railsUp_fuses]

theorem Dev.powerFailDone_fuses (d : Dev) : (Dev.powerFailDone d).sec.fuses = d.sec.fuses := by
  simp only [Dev.powerFailDone, Dev.tryRails_fuses]

theorem Dev.powerFails_fuses (d : Dev) : (Dev.powerFails d).sec.fuses = d.sec.fuses := by
  unfold Dev.powerFails
  repeat' first | with_reducible rfl | simp only [Dev.cycled_fuses, Dev.sbAlert_fuses, Dev.collect_fuses, Dev.cavePower_fuses, Dev.powerFailDone_fuses] | split

theorem doFaultMessage_fuses (d : Dev) (src : Nat) : (doFaultMessage d src).sec.fuses = d.sec.fuses := by
  unfold doFaultMessage
  repeat' first | with_reducible rfl | simp only [Dev.collect_fuses] | split

theorem doStopOverrun_fuses (d : Dev) (src : Nat) : (doStopOverrun d src).sec.fuses = d.sec.fuses := by
  unfold doStopOverrun
  repeat' first | with_reducible rfl | dsimp only | split

theorem doRingStopLost_fuses (d : Dev) (src : Nat) : (doRingStopLost d src).sec.fuses = d.sec.fuses := by
  unfold doRingStopLost; split <;> simp only [Dev.raise_fuses, Dev.fenceStop_fuses]

theorem doQuietPeriod_fuses (d : Dev) : (doQuietPeriod d).sec.fuses = d.sec.fuses := by
  unfold doQuietPeriod
  repeat' first | with_reducible rfl | simp only [Dev.caveClear_fuses] | split

theorem Dev.pairFails_fuses (d : Dev) : (Dev.pairFails d).sec.fuses = d.sec.fuses := by
  unfold Dev.pairFails
  repeat' first | with_reducible rfl | simp only [Dev.raise_fuses, Dev.caveStore_fuses, Dev.collect_fuses] | split

theorem Dev.flushGo_fuses (d : Dev) (x0 : Nat) (x1 : List Bool) : (Dev.flushGo d x0 x1).sec.fuses = d.sec.fuses := by
  induction x0 generalizing d x1 with
  | zero => rfl
  | succ n ih =>
    unfold Dev.flushGo
    repeat' first | with_reducible rfl | dsimp only | simp only [ih, Dev.pairFails_fuses] | split

theorem Dev.afterFlush_fuses (d : Dev) : (Dev.afterFlush d).sec.fuses = d.sec.fuses := by
  unfold Dev.afterFlush
  repeat' first | with_reducible rfl | simp only [Dev.powerFailDone_fuses, Dev.assertPwrcyc_fuses] | split

theorem doCaveFlush_fuses (d : Dev) (outcomes : List Bool) : (doCaveFlush d outcomes).sec.fuses = d.sec.fuses := by
  unfold doCaveFlush; split <;> simp only [Dev.flushGo_fuses, Dev.afterFlush_fuses]

theorem doCaveFlushTimer_fuses (d : Dev) : (doCaveFlushTimer d).sec.fuses = d.sec.fuses := by
  unfold doCaveFlushTimer; split <;> rfl

theorem doOperatingSecondsWrite_fuses (d : Dev) : (doOperatingSecondsWrite d).sec.fuses = d.sec.fuses := by
  unfold doOperatingSecondsWrite; split <;> rfl

theorem doCvFailed_fuses (d : Dev) (unit : Nat) : (doCvFailed d unit).sec.fuses = d.sec.fuses := by
  unfold doCvFailed; split <;> simp only [Dev.raise_fuses, Dev.cvFence_fuses]

theorem Dev.sampleCtx_fuses (d0 : Dev) (ctx : Nat) : (Dev.sampleCtx d0 ctx).sec.fuses = d0.sec.fuses := by
  have h0 : ∀ (d : Dev) (l : List Nat), (l.foldl (fun d n => d.setUnit n (d.unit n).sampled) d).sec.fuses = d.sec.fuses :=
    fun d l => fold_fuses _ l (fun _ _ => Dev.setUnit_fuses _ _ _) d
  unfold Dev.sampleCtx
  dsimp only
  repeat' first | with_reducible rfl | simp only [Dev.setCtx_fuses, Dev.raise_fuses, h0] | split

theorem doHangSample_fuses (d : Dev) : (doHangSample d).sec.fuses = d.sec.fuses := by
  unfold doHangSample
  repeat' first | with_reducible rfl | with_reducible refine ite_fuses ?_ ?_ | dsimp only | simp only [Dev.sampleCtx_fuses] | split | with_reducible refine (fold_fuses _ _ (fun _ _ => ?_) _).trans ?_ | with_reducible refine (fold1_fuses _ _ (fun _ _ => ?_) _).trans ?_

theorem Dev.engineConfirmed_fuses (d : Dev) (u : Nat) : (Dev.engineConfirmed d u).sec.fuses = d.sec.fuses := by
  unfold Dev.engineConfirmed
  repeat' first | with_reducible rfl | with_reducible refine ite_fuses ?_ ?_ | dsimp only | simp only [Dev.endPartReset_fuses, Dev.clearUnit_fuses, Dev.answerReset_fuses, Dev.settleFaults_fuses] | split | with_reducible refine (fold_fuses _ _ (fun _ _ => ?_) _).trans ?_ | with_reducible refine (fold1_fuses _ _ (fun _ _ => ?_) _).trans ?_

theorem doResetAgentConfirm_fuses (d : Dev) (ctx unit : Nat) : (doResetAgentConfirm d ctx unit).sec.fuses = d.sec.fuses := by
  unfold doResetAgentConfirm
  repeat' first | with_reducible rfl | simp only [Dev.setCtx_fuses, Dev.engineConfirmed_fuses] | split

theorem doTeardownDrained_fuses (d : Dev) (ctx : Nat) : (doTeardownDrained d ctx).sec.fuses = d.sec.fuses := by
  unfold doTeardownDrained
  repeat' first | with_reducible rfl | simp only [Dev.finishTear_fuses] | split

theorem doTeardownTimeout_fuses (d : Dev) (ctx : Nat) : (doTeardownTimeout d ctx).sec.fuses = d.sec.fuses := by
  unfold doTeardownTimeout
  repeat' first | with_reducible rfl | with_reducible refine ite_fuses ?_ ?_ | dsimp only | simp only [Dev.raise_fuses, Dev.partReset_fuses] | split

theorem doEngineResetTimeout_fuses (d : Dev) (u : Nat) : (doEngineResetTimeout d u).sec.fuses = d.sec.fuses := by
  unfold doEngineResetTimeout
  repeat' first | with_reducible rfl | with_reducible refine ite_fuses ?_ ?_ | dsimp only | simp only [Dev.raise_fuses, Dev.answerReset_fuses, Dev.settleFaults_fuses, Dev.fencePort_fuses, Dev.fenceUnit_fuses, Dev.setPart_fuses, Dev.partReset_fuses, Dev.engineReset_fuses] | split | with_reducible refine (fold_fuses _ _ (fun _ _ => ?_) _).trans ?_ | with_reducible refine (fold1_fuses _ _ (fun _ _ => ?_) _).trans ?_

theorem doPartitionResetTimeout_fuses (d : Dev) (p : Nat) : (doPartitionResetTimeout d p).sec.fuses = d.sec.fuses := by
  unfold doPartitionResetTimeout
  repeat' first | with_reducible rfl | simp only [Dev.setPart_fuses, Dev.raise_fuses, Dev.chipReset_fuses] | split

theorem doStandbySelftestDone_fuses (d : Dev) (pass : Bool) : (doStandbySelftestDone d pass).sec.fuses = d.sec.fuses := by
  unfold doStandbySelftestDone
  repeat' first | with_reducible rfl | simp only [Dev.raise_fuses, Dev.chipReset_fuses] | split

theorem doSpareSelftest_fuses (d : Dev) (curds : List (Nat × Nat)) (vats : List Nat) : (doSpareSelftest d curds vats).sec.fuses = d.sec.fuses := by
  unfold doSpareSelftest
  repeat' first | with_reducible rfl | with_reducible refine ite_fuses ?_ ?_ | dsimp only | simp only [Dev.fenceCurd_fuses, Dev.raise_fuses, Dev.fenceVat_fuses] | split | with_reducible refine (fold_fuses _ _ (fun _ _ => ?_) _).trans ?_ | with_reducible refine (fold1_fuses _ _ (fun _ _ => ?_) _).trans ?_

theorem Dev.afterRefusal_fuses (d : Dev) (node : Nat) : (Dev.afterRefusal d node).sec.fuses = d.sec.fuses := by
  unfold Dev.afterRefusal
  repeat' first | with_reducible rfl | with_reducible refine ite_fuses ?_ ?_ | dsimp only | simp only [Dev.collAdvance_fuses, Dev.checkDone_fuses] | split | with_reducible refine (fold_fuses _ _ (fun _ _ => ?_) _).trans ?_ | with_reducible refine (fold1_fuses _ _ (fun _ _ => ?_) _).trans ?_

theorem doEdgeReturn_fuses (d : Dev) (p : Plane) (e : Nat) : (doEdgeReturn d p e).sec.fuses = d.sec.fuses := by
  unfold doEdgeReturn
  repeat' first | with_reducible rfl | simp only [Dev.setEdge_fuses, Dev.pushIn_fuses] | split

theorem doLimiterRecovery_fuses (d : Dev) (node : Nat) : (doLimiterRecovery d node).sec.fuses = d.sec.fuses := by unfold doLimiterRecovery; rfl

theorem doStarvationMark_fuses (d : Dev) (p : Plane) (node : Nat) : (doStarvationMark d p node).sec.fuses = d.sec.fuses := by
  unfold doStarvationMark
  repeat' first | with_reducible rfl | simp only [Dev.setNi_fuses] | split

theorem doMeshStopB_fuses (d : Dev) : (doMeshStopB d).sec.fuses = d.sec.fuses := by
  unfold doMeshStopB; split <;> rfl

theorem Dev.askGroups_fuses (d : Dev) (gs : List (Nat × BitVec 320)) : (Dev.askGroups d gs).sec.fuses = d.sec.fuses := by
  unfold Dev.askGroups
  repeat' first | with_reducible rfl | with_reducible refine ite_fuses ?_ ?_ | dsimp only | split | with_reducible refine (fold_fuses _ _ (fun _ _ => ?_) _).trans ?_ | with_reducible refine (fold1_fuses _ _ (fun _ _ => ?_) _).trans ?_

theorem doMeshResume_fuses (d : Dev) : (doMeshResume d).sec.fuses = d.sec.fuses := by
  unfold doMeshResume
  repeat' first | with_reducible rfl | with_reducible refine ite_fuses ?_ ?_ | dsimp only | simp only [Dev.send_fuses] | split | with_reducible refine (fold_fuses _ _ (fun _ _ => ?_) _).trans ?_ | with_reducible refine (fold1_fuses _ _ (fun _ _ => ?_) _).trans ?_

theorem doQuiesceTimeout_fuses (d : Dev) : (doQuiesceTimeout d).sec.fuses = d.sec.fuses := by
  unfold doQuiesceTimeout; split <;> simp only [Dev.chipReset_fuses]

theorem Dev.sendBack_fuses (d : Dev) (p : Plane) (node port : Nat) (f : Flit) : (Dev.sendBack d p node port f).sec.fuses = d.sec.fuses := by
  unfold Dev.sendBack
  repeat' first | with_reducible rfl | with_reducible refine ite_fuses ?_ ?_ | dsimp only | simp only [Dev.setEdge_fuses, Dev.pushIn_fuses] | split | with_reducible refine (fold_fuses _ _ (fun _ _ => ?_) _).trans ?_ | with_reducible refine (fold1_fuses _ _ (fun _ _ => ?_) _).trans ?_

theorem doRouterFailed_fuses (d : Dev) (p : Plane) (node : Nat) : (doRouterFailed d p node).sec.fuses = d.sec.fuses := by
  unfold doRouterFailed
  repeat' first | with_reducible rfl | with_reducible refine ite_fuses ?_ ?_ | dsimp only | simp only [Dev.raiseVat_fuses, Dev.sendBack_fuses] | split | with_reducible refine (fold_fuses _ _ (fun _ _ => ?_) _).trans ?_ | with_reducible refine (fold1_fuses _ _ (fun _ _ => ?_) _).trans ?_

theorem Dev.beginSwitch_fuses (d : Dev) (p slot : Nat) : (Dev.beginSwitch d p slot).sec.fuses = d.sec.fuses := by
  unfold Dev.beginSwitch
  repeat' first | with_reducible rfl | with_reducible refine ite_fuses ?_ ?_ | dsimp only | simp only [Dev.setCurd_fuses, Dev.setPart_fuses] | split | with_reducible refine (fold_fuses _ _ (fun _ _ => ?_) _).trans ?_ | with_reducible refine (fold1_fuses _ _ (fun _ _ => ?_) _).trans ?_

theorem Dev.hostSignal_fuses (d : Dev) (ctx core k : Nat) : (Dev.hostSignal d ctx core k).sec.fuses = d.sec.fuses := by
  unfold Dev.hostSignal
  repeat' first | with_reducible rfl | simp only [Dev.setCtx_fuses, Dev.signalAt_fuses] | split

theorem Dev.applyWaiting_fuses (d : Dev) (ctx : Nat) : (Dev.applyWaiting d ctx).sec.fuses = d.sec.fuses := by
  unfold Dev.applyWaiting
  repeat' first | with_reducible rfl | with_reducible refine ite_fuses ?_ ?_ | dsimp only | simp only [Dev.hostSignal_fuses, Dev.setCtx_fuses] | split | with_reducible refine (fold_fuses _ _ (fun _ _ => ?_) _).trans ?_ | with_reducible refine (fold1_fuses _ _ (fun _ _ => ?_) _).trans ?_

theorem Dev.giveTo_fuses (d : Dev) (ctx : Nat) : (Dev.giveTo d ctx).sec.fuses = d.sec.fuses := by
  unfold Dev.giveTo
  repeat' first | with_reducible rfl | simp only [Dev.makeResident_fuses, Dev.beginSwitch_fuses] | split

theorem doTimeSliceEnd_fuses (d : Dev) (p : Nat) : (doTimeSliceEnd d p).sec.fuses = d.sec.fuses := by
  unfold doTimeSliceEnd
  repeat' first | with_reducible rfl | simp only [Dev.giveTo_fuses] | split

theorem doSwitchDrained_fuses (d : Dev) (p : Nat) : (doSwitchDrained d p).sec.fuses = d.sec.fuses := by
  unfold doSwitchDrained
  repeat' first | with_reducible rfl | simp only [Dev.setPart_fuses, Dev.resetCtx_fuses, Dev.saveCtx_fuses, Dev.makeResident_fuses, Dev.applyWaiting_fuses, RStep.out_fuses, Dev.saveReads_fuses] | split

theorem doSwitchTimeout_fuses (d : Dev) (p : Nat) : (doSwitchTimeout d p).sec.fuses = d.sec.fuses := by
  unfold doSwitchTimeout
  repeat' first | with_reducible rfl | with_reducible refine ite_fuses ?_ ?_ | dsimp only | simp only [Dev.raise_fuses, RStep.out_fuses] | split

theorem Dev.say_fuses (d : Dev) (m : FmMsg) : (Dev.say d m).sec.fuses = d.sec.fuses := by
  unfold Dev.say; split <;> simp only [Dev.send_fuses]

theorem Dev.journalise_fuses (d : Dev) : (Dev.journalise d).sec.fuses = d.sec.fuses := by
  unfold Dev.journalise
  repeat' first | with_reducible rfl | with_reducible refine ite_fuses ?_ ?_ | dsimp only | simp only [Dev.send_fuses] | split | with_reducible refine (fold_fuses _ _ (fun _ _ => ?_) _).trans ?_ | with_reducible refine (fold1_fuses _ _ (fun _ _ => ?_) _).trans ?_

theorem Dev.syncDone_fuses (d : Dev) : (Dev.syncDone d).sec.fuses = d.sec.fuses := by
  unfold Dev.syncDone
  repeat' first | with_reducible rfl | with_reducible refine ite_fuses ?_ ?_ | dsimp only | simp only [Dev.send_fuses] | split | with_reducible refine (fold_fuses _ _ (fun _ _ => ?_) _).trans ?_ | with_reducible refine (fold1_fuses _ _ (fun _ _ => ?_) _).trans ?_

theorem Dev.setSlice_fuses (d : Dev) (x : SliceRec) : (Dev.setSlice d x).sec.fuses = d.sec.fuses := by unfold Dev.setSlice; rfl

theorem Dev.putSlice_fuses (d : Dev) (x : SliceRec) : (Dev.putSlice d x).sec.fuses = d.sec.fuses := by
  simp only [Dev.putSlice, Dev.setSlice_fuses, Dev.sliceState_fuses]

theorem Dev.writeTables_fuses (d : Dev) (m0 : InstallMsg) : (Dev.writeTables d m0).sec.fuses = d.sec.fuses := by
  unfold Dev.writeTables
  repeat' first | with_reducible rfl | with_reducible refine ite_fuses ?_ ?_ | dsimp only | simp only [Dev.removeCtx_fuses, Dev.dropTables_fuses, Dev.moveCtx_fuses, Dev.setNi_fuses, Dev.writeTree_fuses, Dev.askGroups_fuses] | split | with_reducible refine (fold_fuses _ _ (fun _ _ => ?_) _).trans ?_ | with_reducible refine (fold1_fuses _ _ (fun _ _ => ?_) _).trans ?_

theorem Dev.sayInstalls_fuses (d : Dev) (x : SliceRec) (msg : Nat → Option InstallMsg) : (Dev.sayInstalls d x msg).sec.fuses = d.sec.fuses := by
  unfold Dev.sayInstalls
  repeat' first | with_reducible rfl | with_reducible refine ite_fuses ?_ ?_ | dsimp only | simp only [Dev.say_fuses] | split | with_reducible refine (fold_fuses _ _ (fun _ _ => ?_) _).trans ?_ | with_reducible refine (fold1_fuses _ _ (fun _ _ => ?_) _).trans ?_

theorem Dev.sliceCreate_fuses (d : Dev) (w : WaitReq) : (Dev.sliceCreate d w).sec.fuses = d.sec.fuses := by
  unfold Dev.sliceCreate
  repeat' first | with_reducible rfl | simp only [Dev.reply6_fuses, Dev.writeTables_fuses, Dev.journalise_fuses, Dev.sayInstalls_fuses] | split

theorem Dev.managerAbort_fuses (d : Dev) (x : SliceRec) (cause : Nat) : (Dev.managerAbort d x cause).sec.fuses = d.sec.fuses := by
  unfold Dev.managerAbort
  repeat' first | with_reducible rfl | with_reducible refine ite_fuses ?_ ?_ | dsimp only | simp only [Dev.journalise_fuses, Dev.putSlice_fuses, Dev.say_fuses] | split | with_reducible refine (fold_fuses _ _ (fun _ _ => ?_) _).trans ?_ | with_reducible refine (fold1_fuses _ _ (fun _ _ => ?_) _).trans ?_

theorem Dev.sliceDestroy_fuses (d : Dev) (w : WaitReq) (x : SliceRec) : (Dev.sliceDestroy d w x).sec.fuses = d.sec.fuses := by
  unfold Dev.sliceDestroy
  repeat' first | with_reducible rfl | simp only [Dev.setSlice_fuses, Dev.dropTables_fuses, Dev.closeSlice_fuses, Dev.resetCtx_fuses, Dev.managerAbort_fuses] | split

theorem Dev.serve6_fuses (d : Dev) (w : WaitReq) : (Dev.serve6 d w).sec.fuses = d.sec.fuses := by
  unfold Dev.serve6
  repeat' first | with_reducible rfl | simp only [Dev.reply6_fuses, Dev.sliceCreate_fuses, Dev.sliceDestroy_fuses] | split

theorem Dev.serveWaiting_fuses (d : Dev) (id : Nat) : (Dev.serveWaiting d id).sec.fuses = d.sec.fuses := by
  unfold Dev.serveWaiting
  repeat' first | with_reducible rfl | with_reducible refine ite_fuses ?_ ?_ | dsimp only | simp only [Dev.serve6_fuses] | split | with_reducible refine (fold_fuses _ _ (fun _ _ => ?_) _).trans ?_ | with_reducible refine (fold1_fuses _ _ (fun _ _ => ?_) _).trans ?_

theorem Dev.startReaction_fuses (d : Dev) (x : SliceRec) (links : List (Nat × Nat)) : (Dev.startReaction d x links).sec.fuses = d.sec.fuses := by
  unfold Dev.startReaction
  repeat' first | with_reducible rfl | with_reducible refine ite_fuses ?_ ?_ | dsimp only | simp only [Dev.setSlice_fuses, Dev.journalise_fuses, Dev.putSlice_fuses, Dev.say_fuses] | split | with_reducible refine (fold_fuses _ _ (fun _ _ => ?_) _).trans ?_ | with_reducible refine (fold1_fuses _ _ (fun _ _ => ?_) _).trans ?_

theorem Dev.giveUp_fuses (d : Dev) (x : SliceRec) (st : Nat) : (Dev.giveUp d x st).sec.fuses = d.sec.fuses := by
  unfold Dev.giveUp
  repeat' first | with_reducible rfl | with_reducible refine ite_fuses ?_ ?_ | dsimp only | simp only [Dev.putSlice_fuses, Dev.say_fuses, Dev.journalise_fuses] | split | with_reducible refine (fold_fuses _ _ (fun _ _ => ?_) _).trans ?_ | with_reducible refine (fold1_fuses _ _ (fun _ _ => ?_) _).trans ?_

theorem Dev.installNew_fuses (d : Dev) (x : SliceRec) (st : Nat) (refuse : Dev → SliceRec → Nat → Dev) (h_refuse : ∀ (e : Dev) (v0 : SliceRec) (v1 : Nat), (refuse e v0 v1).sec.fuses = e.sec.fuses) : (Dev.installNew d x st refuse).sec.fuses = d.sec.fuses := by
  unfold Dev.installNew
  repeat' first | with_reducible rfl | with_reducible refine ite_fuses ?_ ?_ | dsimp only | simp only [Dev.putSlice_fuses, Dev.journalise_fuses, Dev.sayInstalls_fuses, h_refuse] | split

theorem Dev.afterDrain_fuses (d : Dev) (x : SliceRec) : (Dev.afterDrain d x).sec.fuses = d.sec.fuses := by
  unfold Dev.afterDrain
  exact Dev.installNew_fuses _ _ _ _ (fun _ _ _ => Dev.managerAbort_fuses _ _ _)

theorem Dev.afterReports_fuses (d : Dev) (x : SliceRec) : (Dev.afterReports d x).sec.fuses = d.sec.fuses := by
  unfold Dev.afterReports
  repeat' first | with_reducible rfl | with_reducible refine ite_fuses ?_ ?_ | dsimp only | simp only [Dev.closeSlice_fuses, Dev.say_fuses, Dev.journalise_fuses, Dev.setSlice_fuses, Dev.sayInstalls_fuses, Dev.serveWaiting_fuses, Dev.giveUp_fuses, Dev.installNew_fuses] | split | with_reducible refine (fold_fuses _ _ (fun _ _ => ?_) _).trans ?_ | with_reducible refine (fold1_fuses _ _ (fun _ _ => ?_) _).trans ?_ | refine (Dev.installNew_fuses _ _ _ _ (fun _ _ _ => ?_)).trans ?_

theorem Dev.restartAll_fuses (d : Dev) (x : SliceRec) : (Dev.restartAll d x).sec.fuses = d.sec.fuses := by
  unfold Dev.restartAll
  repeat' first | with_reducible rfl | with_reducible refine ite_fuses ?_ ?_ | dsimp only | simp only [Dev.say_fuses, Dev.putSlice_fuses, Dev.giveUp_fuses, Dev.raise_fuses, Dev.journalise_fuses] | split | with_reducible refine (fold_fuses _ _ (fun _ _ => ?_) _).trans ?_ | with_reducible refine (fold1_fuses _ _ (fun _ _ => ?_) _).trans ?_

theorem Dev.afterInstall_fuses (d : Dev) (x : SliceRec) : (Dev.afterInstall d x).sec.fuses = d.sec.fuses := by
  unfold Dev.afterInstall
  repeat' first | with_reducible rfl | with_reducible refine ite_fuses ?_ ?_ | dsimp only | simp only [Dev.closeSlice_fuses, Dev.serveWaiting_fuses, Dev.putSlice_fuses, Dev.reply6_fuses, Dev.journalise_fuses, Dev.say_fuses, Dev.startReaction_fuses, Dev.restartAll_fuses] | split | with_reducible refine (fold_fuses _ _ (fun _ _ => ?_) _).trans ?_ | with_reducible refine (fold1_fuses _ _ (fun _ _ => ?_) _).trans ?_

theorem Dev.listLinks_fuses (d : Dev) (ls : List (Nat × Nat)) : (Dev.listLinks d ls).1.sec.fuses = d.sec.fuses := by unfold Dev.listLinks; rfl

theorem Dev.reactTo_fuses (d : Dev) (new : List (Nat × Nat)) : (Dev.reactTo d new).sec.fuses = d.sec.fuses := by
  unfold Dev.reactTo
  repeat' first | with_reducible rfl | with_reducible refine ite_fuses ?_ ?_ | dsimp only | simp only [Dev.startReaction_fuses] | split | with_reducible refine (fold_fuses _ _ (fun _ _ => ?_) _).trans ?_ | with_reducible refine (fold1_fuses _ _ (fun _ _ => ?_) _).trans ?_

theorem Dev.chipFails_fuses (d : Dev) (chip : Nat) : (Dev.chipFails d chip).sec.fuses = d.sec.fuses := by
  unfold Dev.chipFails
  repeat' first | with_reducible rfl | with_reducible refine ite_fuses ?_ ?_ | dsimp only | simp only [Dev.listLinks_fuses, Dev.managerAbort_fuses, Dev.setSlice_fuses, Dev.afterReports_fuses, Dev.reactTo_fuses, Dev.journalise_fuses] | split | with_reducible refine (fold_fuses _ _ (fun _ _ => ?_) _).trans ?_ | with_reducible refine (fold1_fuses _ _ (fun _ _ => ?_) _).trans ?_

theorem Dev.learnEpoch_fuses (d : Dev) (e : Nat) : (Dev.learnEpoch d e).sec.fuses = d.sec.fuses := by
  unfold Dev.learnEpoch
  repeat' first | with_reducible rfl | dsimp only | split

theorem Dev.heed_fuses (d : Dev) (from_ : FmPeer) (e : Nat) (act : Dev → Dev) (h_act : ∀ (e : Dev), (act e).sec.fuses = e.sec.fuses) : (Dev.heed d from_ e act).sec.fuses = d.sec.fuses := by
  unfold Dev.heed
  repeat' first | with_reducible rfl | with_reducible refine ite_fuses ?_ ?_ | dsimp only | simp only [Dev.send_fuses, h_act, Dev.learnEpoch_fuses]

theorem Dev.fromManager_fuses (d : Dev) (e : Nat) (act : Dev → Dev) (h_act : ∀ (e : Dev), (act e).sec.fuses = e.sec.fuses) : (Dev.fromManager d e act).sec.fuses = d.sec.fuses :=
  Dev.heed_fuses _ _ _ _ h_act

theorem Dev.probePorts_fuses (d : Dev) : (Dev.probePorts d).sec.fuses = d.sec.fuses := by
  unfold Dev.probePorts
  repeat' first | with_reducible rfl | with_reducible refine ite_fuses ?_ ?_ | dsimp only | simp only [Dev.send_fuses] | split | with_reducible refine (fold_fuses _ _ (fun _ _ => ?_) _).trans ?_ | with_reducible refine (fold1_fuses _ _ (fun _ _ => ?_) _).trans ?_

theorem doProbe_fuses (d : Dev) (port : Nat) (n : Neighbour) : (doProbe d port n).sec.fuses = d.sec.fuses := by
  unfold doProbe; split <;> simp only [Dev.send_fuses, Dev.heardAt_fuses]

theorem Dev.mergeOwn_fuses (d : Dev) : (Dev.mergeOwn d).sec.fuses = d.sec.fuses := by unfold Dev.mergeOwn; rfl

theorem Dev.takePlace_fuses (d : Dev) (chip : Nat) (ext : List Nat) (mask : Nat) : (Dev.takePlace d chip ext mask).sec.fuses = d.sec.fuses := by
  unfold Dev.takePlace
  repeat' first | with_reducible rfl | with_reducible refine ite_fuses ?_ ?_ | dsimp only | simp only [Dev.setNi_fuses, Dev.setPort_fuses] | split | with_reducible refine (fold_fuses _ _ (fun _ _ => ?_) _).trans ?_ | with_reducible refine (fold1_fuses _ _ (fun _ _ => ?_) _).trans ?_

theorem Dev.tryPlace_fuses (d : Dev) : (Dev.tryPlace d).sec.fuses = d.sec.fuses := by
  unfold Dev.tryPlace
  repeat' first | with_reducible rfl | with_reducible refine ite_fuses ?_ ?_ | dsimp only | simp only [Dev.listLinks_fuses, Dev.takePlace_fuses, Dev.send_fuses, Dev.say_fuses, Dev.journalise_fuses] | split | with_reducible refine (fold_fuses _ _ (fun _ _ => ?_) _).trans ?_ | with_reducible refine (fold1_fuses _ _ (fun _ _ => ?_) _).trans ?_

theorem Dev.takeTable_fuses (d : Dev) (chip : Nat) (t : TabReport) : (Dev.takeTable d chip t).sec.fuses = d.sec.fuses := by
  unfold Dev.takeTable
  repeat' first | with_reducible rfl | with_reducible refine ite_fuses ?_ ?_ | dsimp only | simp only [Dev.setSlice_fuses, Dev.managerAbort_fuses] | split | with_reducible refine (fold_fuses _ _ (fun _ _ => ?_) _).trans ?_ | with_reducible refine (fold1_fuses _ _ (fun _ _ => ?_) _).trans ?_

theorem Dev.sendTable_fuses (d : Dev) : (Dev.sendTable d).sec.fuses = d.sec.fuses := by
  unfold Dev.sendTable
  repeat' first | with_reducible rfl | with_reducible refine ite_fuses ?_ ?_ | dsimp only | simp only [Dev.send_fuses] | split | with_reducible refine (fold_fuses _ _ (fun _ _ => ?_) _).trans ?_ | with_reducible refine (fold1_fuses _ _ (fun _ _ => ?_) _).trans ?_

theorem doProbeReply_fuses (d : Dev) (port : Nat) (n : Neighbour) : (doProbeReply d port n).sec.fuses = d.sec.fuses := by
  unfold doProbeReply
  repeat' first | with_reducible rfl | simp only [Dev.mergeOwn_fuses, Dev.tryPlace_fuses, Dev.sendTable_fuses, Dev.send_fuses, Dev.heardAt_fuses] | split

theorem Dev.takeModule_fuses (d : Dev) (port : Nat) (m : ModReport) : (Dev.takeModule d port m).sec.fuses = d.sec.fuses := by
  unfold Dev.takeModule
  repeat' first | with_reducible rfl | with_reducible refine ite_fuses ?_ ?_ | dsimp only | split | with_reducible refine (fold_fuses _ _ (fun _ _ => ?_) _).trans ?_ | with_reducible refine (fold1_fuses _ _ (fun _ _ => ?_) _).trans ?_

theorem doNeighbours_fuses (d : Dev) (port epoch : Nat) (m : ModReport) : (doNeighbours d port epoch m).sec.fuses = d.sec.fuses := by
  unfold doNeighbours
  refine (Dev.heed_fuses _ _ _ _ (fun _ => ?_)).trans (Dev.heardAt_fuses _ _)
  repeat' first | with_reducible rfl | with_reducible refine ite_fuses ?_ ?_ | dsimp only | simp only [Dev.send_fuses, Dev.heardAt_fuses, Dev.heed_fuses, Dev.mergeOwn_fuses, Dev.tryPlace_fuses, Dev.takeTable_fuses, Dev.takeModule_fuses] | split | with_reducible refine (fold_fuses _ _ (fun _ _ => ?_) _).trans ?_ | with_reducible refine (fold1_fuses _ _ (fun _ _ => ?_) _).trans ?_

theorem doAssign_fuses (d : Dev) (epoch serial chip : Nat) (extents : List Nat) (ringMask : Nat) : (doAssign d epoch serial chip extents ringMask).sec.fuses = d.sec.fuses := by
  unfold doAssign
  refine Dev.fromManager_fuses _ _ _ (fun _ => ?_)
  repeat' first | with_reducible rfl | with_reducible refine ite_fuses ?_ ?_ | dsimp only | simp only [Dev.send_fuses, Dev.fromManager_fuses, Dev.takePlace_fuses] | split | with_reducible refine (fold_fuses _ _ (fun _ _ => ?_) _).trans ?_ | with_reducible refine (fold1_fuses _ _ (fun _ _ => ?_) _).trans ?_

theorem Dev.nameStandby_fuses (d : Dev) (not_ : Option Nat) : (Dev.nameStandby d not_).sec.fuses = d.sec.fuses := by
  unfold Dev.nameStandby
  repeat' first | with_reducible rfl | simp only [Dev.send_fuses] | split

theorem Dev.rebuild_fuses (d : Dev) : (Dev.rebuild d).sec.fuses = d.sec.fuses := by
  unfold Dev.rebuild
  repeat' first | with_reducible rfl | with_reducible refine ite_fuses ?_ ?_ | dsimp only | simp only [Dev.takeTable_fuses, Dev.takeTable_fuses] | split | with_reducible refine (fold_fuses _ _ (fun _ _ => ?_) _).trans ?_ | with_reducible refine (fold1_fuses _ _ (fun _ _ => ?_) _).trans ?_

theorem Dev.loadMirror_fuses (d : Dev) : (Dev.loadMirror d).sec.fuses = d.sec.fuses := by
  unfold Dev.loadMirror
  repeat' first | with_reducible rfl | with_reducible refine ite_fuses ?_ ?_ | dsimp only | split | with_reducible refine (fold_fuses _ _ (fun _ _ => ?_) _).trans ?_ | with_reducible refine (fold1_fuses _ _ (fun _ _ => ?_) _).trans ?_

theorem Dev.takeUp_fuses (d : Dev) (x : SliceRec) : (Dev.takeUp d x).sec.fuses = d.sec.fuses := by
  unfold Dev.takeUp
  repeat' first | with_reducible rfl | with_reducible refine ite_fuses ?_ ?_ | dsimp only | simp only [Dev.say_fuses, Dev.reply6_fuses, Dev.setSlice_fuses, Dev.startReaction_fuses, Dev.sayInstalls_fuses, Dev.managerAbort_fuses, Dev.afterReports_fuses, Dev.afterInstall_fuses] | split | with_reducible refine (fold_fuses _ _ (fun _ _ => ?_) _).trans ?_ | with_reducible refine (fold1_fuses _ _ (fun _ _ => ?_) _).trans ?_

theorem Dev.knowMgr_fuses (d : Dev) (chip : Nat) : (Dev.knowMgr d chip).sec.fuses = d.sec.fuses := by
  unfold Dev.knowMgr; split <;> simp only [Dev.event_fuses]

theorem Dev.gainControl_fuses (d : Dev) : (Dev.gainControl d).sec.fuses = d.sec.fuses := by
  unfold Dev.gainControl
  repeat' first | with_reducible rfl | with_reducible refine ite_fuses ?_ ?_ | dsimp only | simp only [Dev.serve6_fuses, Dev.reply6_fuses, Dev.rebuild_fuses, Dev.event_fuses, Dev.takeUp_fuses, Dev.mergeOwn_fuses, Dev.tryPlace_fuses, Dev.nameStandby_fuses] | split | with_reducible refine (fold_fuses _ _ (fun _ _ => ?_) _).trans ?_ | with_reducible refine (fold1_fuses _ _ (fun _ _ => ?_) _).trans ?_

theorem Dev.takeControl_fuses (d : Dev) : (Dev.takeControl d).sec.fuses = d.sec.fuses := by
  unfold Dev.takeControl
  repeat' first | with_reducible rfl | with_reducible refine ite_fuses ?_ ?_ | dsimp only | simp only [Dev.send_fuses, Dev.gainControl_fuses] | split | with_reducible refine (fold_fuses _ _ (fun _ _ => ?_) _).trans ?_ | with_reducible refine (fold1_fuses _ _ (fun _ _ => ?_) _).trans ?_

theorem Dev.flushWaiting_fuses (d : Dev) : (Dev.flushWaiting d).sec.fuses = d.sec.fuses := by
  unfold Dev.flushWaiting
  repeat' first | with_reducible rfl | with_reducible refine ite_fuses ?_ ?_ | dsimp only | simp only [RStep.out_fuses, Dev.reply6_fuses] | split | with_reducible refine (fold_fuses _ _ (fun _ _ => ?_) _).trans ?_ | with_reducible refine (fold1_fuses _ _ (fun _ _ => ?_) _).trans ?_

theorem Dev.startElection_fuses (d : Dev) : (Dev.startElection d).sec.fuses = d.sec.fuses := by unfold Dev.startElection; rfl

theorem doBeaconSend_fuses (d : Dev) : (doBeaconSend d).sec.fuses = d.sec.fuses := by
  unfold doBeaconSend
  repeat' first | with_reducible rfl | with_reducible refine ite_fuses ?_ ?_ | dsimp only | simp only [Dev.send_fuses] | split | with_reducible refine (fold_fuses _ _ (fun _ _ => ?_) _).trans ?_ | with_reducible refine (fold1_fuses _ _ (fun _ _ => ?_) _).trans ?_

theorem doBeacon_fuses (d : Dev) (port : Nat) (k1 k2 : Option ElKey) (epoch : Nat) : (doBeacon d port k1 k2 epoch).sec.fuses = d.sec.fuses := by
  unfold doBeacon
  repeat' first | with_reducible rfl | with_reducible refine ite_fuses ?_ ?_ | dsimp only | simp only [Dev.send_fuses, Dev.heardAt_fuses, Dev.heed_fuses, Dev.heardAt_fuses, Dev.send_fuses] | split | with_reducible refine (fold_fuses _ _ (fun _ _ => ?_) _).trans ?_ | with_reducible refine (fold1_fuses _ _ (fun _ _ => ?_) _).trans ?_| refine (Dev.heed_fuses _ _ _ _ (fun _ => ?_)).trans ?_

theorem doElectionComplete_fuses (d : Dev) : (doElectionComplete d).sec.fuses = d.sec.fuses := by
  unfold doElectionComplete
  repeat' first | with_reducible rfl | simp only [Dev.takeControl_fuses, Dev.sendTable_fuses] | split

theorem doAliveSend_fuses (d : Dev) : (doAliveSend d).sec.fuses = d.sec.fuses := by
  unfold doAliveSend
  repeat' first | with_reducible rfl | with_reducible refine ite_fuses ?_ ?_ | dsimp only | simp only [Dev.send_fuses] | split | with_reducible refine (fold_fuses _ _ (fun _ _ => ?_) _).trans ?_ | with_reducible refine (fold1_fuses _ _ (fun _ _ => ?_) _).trans ?_

theorem doAlive_fuses (d : Dev) (epoch chip : Nat) : (doAlive d epoch chip).sec.fuses = d.sec.fuses := by
  unfold doAlive
  refine Dev.heed_fuses _ _ _ _ (fun _ => ?_)
  repeat' first | with_reducible rfl | with_reducible refine ite_fuses ?_ ?_ | dsimp only | simp only [Dev.heed_fuses, Dev.sendTable_fuses, Dev.knowMgr_fuses, Dev.flushWaiting_fuses] | split | with_reducible refine (fold_fuses _ _ (fun _ _ => ?_) _).trans ?_ | with_reducible refine (fold1_fuses _ _ (fun _ _ => ?_) _).trans ?_

theorem doAliveTimeout_fuses (d : Dev) : (doAliveTimeout d).sec.fuses = d.sec.fuses := by
  unfold doAliveTimeout; split <;> simp only [Dev.startElection_fuses]

theorem doHeartbeatSend_fuses (d : Dev) : (doHeartbeatSend d).sec.fuses = d.sec.fuses := by
  unfold doHeartbeatSend; split <;> simp only [Dev.send_fuses]

theorem doHeartbeat_fuses (d : Dev) (epoch journal : Nat) : (doHeartbeat d epoch journal).sec.fuses = d.sec.fuses := by
  unfold doHeartbeat
  refine Dev.heed_fuses _ _ _ _ (fun _ => ?_)
  repeat' first | with_reducible rfl | with_reducible refine ite_fuses ?_ ?_ | dsimp only | simp only [Dev.heed_fuses] | split | with_reducible refine (fold_fuses _ _ (fun _ _ => ?_) _).trans ?_ | with_reducible refine (fold1_fuses _ _ (fun _ _ => ?_) _).trans ?_

theorem doHeartbeatLoss_fuses (d : Dev) : (doHeartbeatLoss d).sec.fuses = d.sec.fuses := by
  unfold doHeartbeatLoss; split <;> simp only [Dev.mergeOwn_fuses, Dev.takeControl_fuses, Dev.loadMirror_fuses]

theorem doStateSync_fuses (d : Dev) (epoch : Nat) (st : FmState) (full : Bool) : (doStateSync d epoch st full).sec.fuses = d.sec.fuses := by
  unfold doStateSync
  repeat' first | with_reducible rfl | with_reducible refine ite_fuses ?_ ?_ | dsimp only | simp only [Dev.send_fuses, Dev.takeControl_fuses, Dev.fromManager_fuses, Dev.mergeOwn_fuses, Dev.loadMirror_fuses] | refine (Dev.fromManager_fuses _ _ _ (fun _ => ?_) ).trans ?_ | split

theorem doSyncAckTimeout_fuses (d : Dev) : (doSyncAckTimeout d).sec.fuses = d.sec.fuses := by
  unfold doSyncAckTimeout; split <;> simp only [Dev.syncDone_fuses, Dev.nameStandby_fuses]

theorem doTakeover_fuses (d : Dev) (epoch chip : Nat) : (doTakeover d epoch chip).sec.fuses = d.sec.fuses := by
  unfold doTakeover
  refine Dev.heed_fuses _ _ _ _ (fun _ => ?_)
  repeat' first | with_reducible rfl | with_reducible refine ite_fuses ?_ ?_ | dsimp only | simp only [Dev.heed_fuses, Dev.knowMgr_fuses, Dev.flushWaiting_fuses] | split | with_reducible refine (fold_fuses _ _ (fun _ _ => ?_) _).trans ?_ | with_reducible refine (fold1_fuses _ _ (fun _ _ => ?_) _).trans ?_

theorem doTakeoverResend_fuses (d : Dev) : (doTakeoverResend d).sec.fuses = d.sec.fuses := by
  unfold doTakeoverResend
  repeat' first | with_reducible rfl | with_reducible refine ite_fuses ?_ ?_ | dsimp only | simp only [Dev.send_fuses] | split | with_reducible refine (fold_fuses _ _ (fun _ _ => ?_) _).trans ?_ | with_reducible refine (fold1_fuses _ _ (fun _ _ => ?_) _).trans ?_

theorem doTakeoverSilence_fuses (d : Dev) (chip : Nat) : (doTakeoverSilence d chip).sec.fuses = d.sec.fuses := by
  unfold doTakeoverSilence
  repeat' first | with_reducible rfl | simp only [Dev.chipFails_fuses, Dev.gainControl_fuses] | split

theorem doMgtr_fuses (d : Dev) (tag epoch : Nat) : (doMgtr d tag epoch).sec.fuses = d.sec.fuses := by
  unfold doMgtr
  repeat' first | with_reducible rfl | simp only [Dev.gainControl_fuses, Dev.syncDone_fuses, Dev.learnEpoch_fuses, Dev.sendTable_fuses] | split

theorem doTakebackStart_fuses (d : Dev) : (doTakebackStart d).sec.fuses = d.sec.fuses := by
  unfold doTakebackStart
  repeat' first | with_reducible rfl | simp only [Dev.send_fuses] | split

theorem Dev.tryHandover_fuses (d : Dev) : (Dev.tryHandover d).sec.fuses = d.sec.fuses := by
  unfold Dev.tryHandover
  repeat' first | with_reducible rfl | with_reducible refine ite_fuses ?_ ?_ | dsimp only | simp only [Dev.send_fuses, Dev.event_fuses] | split | with_reducible refine (fold_fuses _ _ (fun _ _ => ?_) _).trans ?_ | with_reducible refine (fold1_fuses _ _ (fun _ _ => ?_) _).trans ?_

theorem doTakeback_fuses (d : Dev) (epoch chip : Nat) (_key : ElKey) : (doTakeback d epoch chip _key).sec.fuses = d.sec.fuses := by
  unfold doTakeback
  refine Dev.heed_fuses _ _ _ _ (fun _ => ?_)
  repeat' first | with_reducible rfl | with_reducible refine ite_fuses ?_ ?_ | dsimp only | simp only [Dev.heed_fuses, Dev.tryHandover_fuses] | split | with_reducible refine (fold_fuses _ _ (fun _ _ => ?_) _).trans ?_ | with_reducible refine (fold1_fuses _ _ (fun _ _ => ?_) _).trans ?_

theorem doPortEvent_fuses (d : Dev) (epoch chip port state width : Nat) : (doPortEvent d epoch chip port state width).sec.fuses = d.sec.fuses := by
  unfold doPortEvent
  refine Dev.heed_fuses _ _ _ _ (fun _ => ?_)
  repeat' first | with_reducible rfl | with_reducible refine ite_fuses ?_ ?_ | dsimp only | simp only [RStep.out_fuses, Dev.journalise_fuses, Dev.listLinks_fuses, Dev.reactTo_fuses, Dev.chipFails_fuses, Dev.heed_fuses] | split | with_reducible refine (fold_fuses _ _ (fun _ _ => ?_) _).trans ?_ | with_reducible refine (fold1_fuses _ _ (fun _ _ => ?_) _).trans ?_

theorem Dev.setStop_fuses (d : Dev) (node : Nat) (w : BitVec 16) : (Dev.setStop d node w).sec.fuses = d.sec.fuses := by unfold Dev.setStop; rfl

theorem Dev.stopSlice_fuses (d : Dev) (id slot : Nat) (on : Bool) : (Dev.stopSlice d id slot on).sec.fuses = d.sec.fuses := by
  unfold Dev.stopSlice
  repeat' first | with_reducible rfl | with_reducible refine ite_fuses ?_ ?_ | dsimp only | simp only [Dev.setStop_fuses] | split | with_reducible refine (fold_fuses _ _ (fun _ _ => ?_) _).trans ?_ | with_reducible refine (fold1_fuses _ _ (fun _ _ => ?_) _).trans ?_

theorem Dev.failColls_fuses (d : Dev) (ctx : Nat) : (Dev.failColls d ctx).sec.fuses = d.sec.fuses := by unfold Dev.failColls; rfl

theorem doDrain_fuses (d : Dev) (epoch id slot : Nat) : (doDrain d epoch id slot).sec.fuses = d.sec.fuses := by
  unfold doDrain
  repeat' first | with_reducible rfl | with_reducible refine ite_fuses ?_ ?_ | dsimp only | simp only [Dev.failColls_fuses, Dev.stopSlice_fuses, Dev.reportDrained_fuses, Dev.fromManager_fuses] | refine (Dev.fromManager_fuses _ _ _ (fun _ => ?_) ).trans ?_ | split | with_reducible refine (fold_fuses _ _ (fun _ _ => ?_) _).trans ?_ | with_reducible refine (fold1_fuses _ _ (fun _ _ => ?_) _).trans ?_

theorem doDrainReport_fuses (d : Dev) (epoch chip id : Nat) (idle : Bool) (written : List (Nat × Bool)) (_parked : Nat) : (doDrainReport d epoch chip id idle written _parked).sec.fuses = d.sec.fuses := by
  unfold doDrainReport
  refine Dev.heed_fuses _ _ _ _ (fun _ => ?_)
  repeat' first | with_reducible rfl | with_reducible refine ite_fuses ?_ ?_ | dsimp only | simp only [Dev.setSlice_fuses, Dev.managerAbort_fuses, Dev.afterDrain_fuses, Dev.heed_fuses] | split | with_reducible refine (fold_fuses _ _ (fun _ _ => ?_) _).trans ?_ | with_reducible refine (fold1_fuses _ _ (fun _ _ => ?_) _).trans ?_

theorem doDrainLimit_fuses (d : Dev) (id : Nat) : (doDrainLimit d id).sec.fuses = d.sec.fuses := by
  unfold doDrainLimit
  repeat' first | with_reducible rfl | simp only [Dev.managerAbort_fuses] | split

theorem doInstall_fuses (d : Dev) (m : InstallMsg) : (doInstall d m).sec.fuses = d.sec.fuses := by
  unfold doInstall
  repeat' first | with_reducible rfl | with_reducible refine ite_fuses ?_ ?_ | dsimp only | simp only [Dev.writeTables_fuses, Dev.send_fuses, Dev.fromManager_fuses] | refine (Dev.fromManager_fuses _ _ _ (fun _ => ?_) ).trans ?_ | split

theorem doInstallDone_fuses (d : Dev) (epoch chip id : Nat) : (doInstallDone d epoch chip id).sec.fuses = d.sec.fuses := by
  unfold doInstallDone
  refine Dev.heed_fuses _ _ _ _ (fun _ => ?_)
  repeat' first | with_reducible rfl | with_reducible refine ite_fuses ?_ ?_ | dsimp only | simp only [Dev.setSlice_fuses, Dev.afterInstall_fuses, Dev.heed_fuses, Dev.tryHandover_fuses] | split | with_reducible refine (fold_fuses _ _ (fun _ _ => ?_) _).trans ?_ | with_reducible refine (fold1_fuses _ _ (fun _ _ => ?_) _).trans ?_

theorem doResume_fuses (d : Dev) (epoch id slot : Nat) (outcomes : List (Nat × Nat)) : (doResume d epoch id slot outcomes).sec.fuses = d.sec.fuses := by
  unfold doResume
  repeat' first | with_reducible rfl | with_reducible refine ite_fuses ?_ ?_ | dsimp only | simp only [Dev.stopSlice_fuses, Dev.collEnd_fuses, Dev.fromManager_fuses] | refine (Dev.fromManager_fuses _ _ _ (fun _ => ?_) ).trans ?_ | split | with_reducible refine (fold_fuses _ _ (fun _ _ => ?_) _).trans ?_ | with_reducible refine (fold1_fuses _ _ (fun _ _ => ?_) _).trans ?_

theorem doRequest_fuses (d : Dev) (epoch chip ref : Nat) (req : List Byte) : (doRequest d epoch chip ref req).sec.fuses = d.sec.fuses := by
  unfold doRequest
  refine Dev.heed_fuses _ _ _ _ (fun _ => ?_)
  repeat' first | with_reducible rfl | with_reducible refine ite_fuses ?_ ?_ | dsimp only | simp only [Dev.serve6_fuses, Dev.heed_fuses] | split | with_reducible refine (fold_fuses _ _ (fun _ _ => ?_) _).trans ?_ | with_reducible refine (fold1_fuses _ _ (fun _ _ => ?_) _).trans ?_

theorem Dev.drawBytes_fuses (d : Dev) (x0 : Nat) : (Dev.drawBytes d x0).1.sec.fuses = d.sec.fuses := by
  induction x0 generalizing d with
  | zero => rfl
  | succ n ih =>
    unfold Dev.drawBytes
    repeat' first | with_reducible rfl | dsimp only | simp only [ih, Dev.draw_fuses] | split

theorem Dev.takeAnswer_fuses (d : Dev) (ref : Nat) (rsp : List Byte) : (Dev.takeAnswer d ref rsp).sec.fuses = d.sec.fuses := by
  unfold Dev.takeAnswer
  repeat' first | with_reducible rfl | with_reducible refine ite_fuses ?_ ?_ | dsimp only | simp only [Dev.hostWrite_fuses, RStep.out_fuses, Dev.respondFlag_fuses, Dev.refuseCmd_fuses, Dev.take_fuses, Dev.drawBytes_fuses] | split | with_reducible refine (fold_fuses _ _ (fun _ _ => ?_) _).trans ?_ | with_reducible refine (fold1_fuses _ _ (fun _ _ => ?_) _).trans ?_

theorem doAnswer_fuses (d : Dev) (epoch ref : Nat) (rsp : List Byte) : (doAnswer d epoch ref rsp).sec.fuses = d.sec.fuses := by
  unfold doAnswer
  exact Dev.fromManager_fuses _ _ _ (fun _ => Dev.takeAnswer_fuses _ _ _)

theorem doGroup6WaitTimeout_fuses (d : Dev) (func chan : Nat) : (doGroup6WaitTimeout d func chan).sec.fuses = d.sec.fuses := by
  unfold doGroup6WaitTimeout
  repeat' first | with_reducible rfl | simp only [Dev.fail_fuses] | split

theorem Dev.noteManagerAbort_fuses (d : Dev) (m : AbortMsg) : (Dev.noteManagerAbort d m).sec.fuses = d.sec.fuses := by
  unfold Dev.noteManagerAbort
  repeat' first | with_reducible rfl | simp only [Dev.putSlice_fuses] | split

theorem Dev.emptyAdvance_fuses (d : Dev) (id gen : Nat) : (Dev.emptyAdvance d id gen).sec.fuses = d.sec.fuses := by
  unfold Dev.emptyAdvance
  repeat' first | with_reducible rfl | with_reducible refine ite_fuses ?_ ?_ | dsimp only | simp only [Dev.treeGen_fuses, Dev.memberGens_fuses, Dev.noteAbort_fuses] | split | with_reducible refine (fold_fuses _ _ (fun _ _ => ?_) _).trans ?_ | with_reducible refine (fold1_fuses _ _ (fun _ _ => ?_) _).trans ?_

theorem doSliceAbort_fuses (d : Dev) (port : Nat) (m : AbortMsg) : (doSliceAbort d port m).sec.fuses = d.sec.fuses := by
  unfold doSliceAbort
  repeat' first | with_reducible rfl | simp only [Dev.noteManagerAbort_fuses, Dev.noteReset_fuses, Dev.sliceState_fuses, Dev.abortSlice_fuses, Dev.noteAbort_fuses, Dev.reportTeardown_fuses, Dev.send_fuses, Dev.heardAt_fuses, Dev.emptyAdvance_fuses] | split

theorem doTeardownReport_fuses (d : Dev) (chip id : Nat) (ranks : List RankReport) : (doTeardownReport d chip id ranks).sec.fuses = d.sec.fuses := by
  unfold doTeardownReport
  repeat' first | with_reducible rfl | simp only [Dev.setSlice_fuses, Dev.afterReports_fuses] | split

theorem doAbortResend_fuses (d : Dev) (id chip : Nat) : (doAbortResend d id chip).sec.fuses = d.sec.fuses := by
  unfold doAbortResend
  repeat' first | with_reducible rfl | simp only [Dev.say_fuses] | split

theorem Dev.restartSlice_fuses (d : Dev) (id gen : Nat) (step : Option Nat) : (Dev.restartSlice d id gen step).sec.fuses = d.sec.fuses := by
  unfold Dev.restartSlice
  repeat' first | with_reducible rfl | with_reducible refine ite_fuses ?_ ?_ | dsimp only | simp only [Dev.setCtx_fuses, Dev.event_fuses, Dev.sliceState_fuses, Dev.reloadAll_fuses, Dev.leaveUnloaded_fuses, Dev.resetCtx_fuses, Dev.stopSlice_fuses] | split | with_reducible refine (fold_fuses _ _ (fun _ _ => ?_) _).trans ?_ | with_reducible refine (fold1_fuses _ _ (fun _ _ => ?_) _).trans ?_

theorem doRestart_fuses (d : Dev) (epoch id gen : Nat) (step : Option Nat) : (doRestart d epoch id gen step).sec.fuses = d.sec.fuses := by
  unfold doRestart
  exact Dev.fromManager_fuses _ _ _ (fun _ => Dev.restartSlice_fuses _ _ _ _)

theorem doChipNoAnswer_fuses (d : Dev) (chip : Nat) : (doChipNoAnswer d chip).sec.fuses = d.sec.fuses := by
  unfold doChipNoAnswer; split <;> simp only [Dev.chipFails_fuses]

theorem Dev.endCreate_fuses (d : Dev) (f key ctx : Nat) : (Dev.endCreate d f key ctx).sec.fuses = d.sec.fuses := by
  unfold Dev.endCreate
  repeat' first | with_reducible rfl | simp only [Dev.setCtx_fuses, Dev.fail_fuses, Dev.fillPages_fuses, Dev.respond_fuses] | split

theorem Dev.endMap_fuses (d : Dev) (f key ctx seg flags base pages page : Nat) : (Dev.endMap d f key ctx seg flags base pages page).sec.fuses = d.sec.fuses := by
  unfold Dev.endMap
  repeat' first | with_reducible rfl | simp only [Dev.fail_fuses, Dev.fillPages_fuses, Dev.setCtx_fuses, Dev.respond_fuses] | split

theorem doGrantFillDone_fuses (d : Dev) (p : Nat) : (doGrantFillDone d p).sec.fuses = d.sec.fuses := by
  unfold doGrantFillDone
  repeat' first | with_reducible rfl | simp only [Dev.setPart_fuses, Dev.endCreate_fuses, Dev.endMap_fuses] | split

theorem doScrubDone_fuses (d : Dev) (p : Nat) : (doScrubDone d p).sec.fuses = d.sec.fuses := by
  unfold doScrubDone
  repeat' first | with_reducible rfl | simp only [Dev.fillGranules_fuses, Dev.setPart_fuses, Dev.freePart_fuses, Dev.event_fuses] | split

theorem doPatrolRead_fuses (d : Dev) (c : Nat) (found : List (Nat × Nat)) : (doPatrolRead d c found).sec.fuses = d.sec.fuses := by
  unfold doPatrolRead; split <;> simp only [Dev.checkLine_fuses, Dev.setChan_fuses]

theorem doBandMove_fuses (d : Dev) (c : Nat) : (doBandMove d c).sec.fuses = d.sec.fuses := by
  unfold doBandMove
  repeat' first | with_reducible rfl | simp only [Dev.setChan_fuses, Dev.checkLine_fuses] | split

theorem doMemTrainLost_fuses (d : Dev) (c : Nat) : (doMemTrainLost d c).sec.fuses = d.sec.fuses := by
  unfold doMemTrainLost
  repeat' first | with_reducible rfl | with_reducible refine ite_fuses ?_ ?_ | dsimp only | simp only [Dev.setChan_fuses, Dev.raise_fuses, Dev.caveAction_fuses, Dev.resetCtx_fuses] | split | with_reducible refine (fold_fuses _ _ (fun _ _ => ?_) _).trans ?_ | with_reducible refine (fold1_fuses _ _ (fun _ _ => ?_) _).trans ?_

theorem doMemRetrainDone_fuses (d : Dev) (c : Nat) (ok : Bool) : (doMemRetrainDone d c ok).sec.fuses = d.sec.fuses := by
  unfold doMemRetrainDone
  repeat' first | with_reducible rfl | simp only [Dev.setChan_fuses, Dev.loseChan_fuses] | split

theorem doMbxSend_fuses (d : Dev) (f chan : Nat) (sec : Bool) (w : Word32) : (doMbxSend d f chan sec w).sec.fuses = d.sec.fuses := by
  unfold doMbxSend
  repeat' first | with_reducible rfl | simp only [Dev.setMbx_fuses] | split

theorem doMbxTake_fuses (d : Dev) (sec : Bool) : (doMbxTake d sec).sec.fuses = d.sec.fuses := by
  unfold doMbxTake
  repeat' first | with_reducible rfl | simp only [Dev.setMbx_fuses, Dev.refuseCmd_fuses, Dev.fail_fuses] | split

theorem doReceiverReset_fuses (d : Dev) (sec : Bool) : (doReceiverReset d sec).sec.fuses = d.sec.fuses := by
  unfold doReceiverReset; split <;> simp only [Dev.recvReset_fuses]

theorem Dev.takeNotify_fuses (d : Dev) (f chan b : Nat) : (Dev.takeNotify d f chan b).sec.fuses = d.sec.fuses := by unfold Dev.takeNotify; rfl

theorem doResend_fuses (d : Dev) (f chan : Nat) : (doResend d f chan).sec.fuses = d.sec.fuses := by
  unfold doResend
  repeat' first | with_reducible rfl | simp only [Dev.takeNotify_fuses, Dev.setMbx_fuses, Dev.sendVector_fuses, Dev.raise_fuses] | split

theorem doDbPendClear_fuses (d : Dev) (f chan : Nat) (sec : Bool) (mask deviceSet : Word32) : (doDbPendClear d f chan sec mask deviceSet).sec.fuses = d.sec.fuses := by
  unfold doDbPendClear; split <;> simp only [Dev.setMbx_fuses, Dev.doorbell_fuses]

theorem doDbMaskWrite_fuses (d : Dev) (f chan : Nat) (sec : Bool) (w : Word32) : (doDbMaskWrite d f chan sec w).sec.fuses = d.sec.fuses := by
  unfold doDbMaskWrite
  repeat' first | with_reducible rfl | simp only [Dev.setMbx_fuses, Dev.sendVector_fuses] | split

theorem doHdmaRingWrite_fuses (d : Dev) (f : Nat) (w : Word) : (doHdmaRingWrite d f w).sec.fuses = d.sec.fuses := by
  unfold doHdmaRingWrite
  repeat' first | with_reducible rfl | simp only [Dev.setFunc_fuses] | split

theorem doHdmaTailWrite_fuses (d : Dev) (f : Nat) (w : Word) : (doHdmaTailWrite d f w).sec.fuses = d.sec.fuses := by
  unfold doHdmaTailWrite; split <;> simp only [Dev.setFunc_fuses]

theorem doHdmaCtlWrite_fuses (d : Dev) (f : Nat) (w : Word) : (doHdmaCtlWrite d f w).sec.fuses = d.sec.fuses := by
  unfold doHdmaCtlWrite; split <;> simp only [Dev.setFunc_fuses]

theorem Dev.hostSegRead_fuses (d : Dev) (ctx off n : Nat) : (Dev.hostSegRead d ctx off n).1.sec.fuses = d.sec.fuses := by
  unfold Dev.hostSegRead
  repeat' first | with_reducible rfl | with_reducible refine ite_fuses ?_ ?_ | dsimp only | simp only [Dev.extLineRead_fuses] | split | with_reducible refine (fold_fuses _ _ (fun _ _ => ?_) _).trans ?_ | with_reducible refine (fold1_fuses _ _ (fun _ _ => ?_) _).trans ?_

theorem Dev.hostSegWrite_fuses (d : Dev) (ctx off : Nat) (bs : List Byte) : (Dev.hostSegWrite d ctx off bs).1.sec.fuses = d.sec.fuses := by
  unfold Dev.hostSegWrite
  repeat' first | with_reducible rfl | with_reducible refine ite_fuses ?_ ?_ | dsimp only | simp only [Dev.extLineWrite_fuses, Dev.take_fuses] | split | with_reducible refine (fold_fuses _ _ (fun _ _ => ?_) _).trans ?_ | with_reducible refine (fold1_fuses _ _ (fun _ _ => ?_) _).trans ?_

theorem doHdmaDescriptorStart_fuses (d : Dev) (e : Nat) : (doHdmaDescriptorStart d e).sec.fuses = d.sec.fuses := by
  unfold doHdmaDescriptorStart
  repeat' first | with_reducible rfl | simp only [Dev.setFunc_fuses, Dev.setEngine_fuses, Dev.hdmaFill_fuses, RStep.out_fuses] | split

theorem Dev.hdmaEnd_fuses (d : Dev) (e : Nat) (r : HdmaRun) : (Dev.hdmaEnd d e r).sec.fuses = d.sec.fuses := by
  unfold Dev.hdmaEnd
  repeat' first | with_reducible rfl | with_reducible refine ite_fuses ?_ ?_ | dsimp only | simp only [Dev.setFunc_fuses, Dev.doorbell_fuses, Dev.hostWrite_fuses, Dev.setEngine_fuses, Dev.hdmaFill_fuses, Dev.hostSignal_fuses] | split | with_reducible refine (fold_fuses _ _ (fun _ _ => ?_) _).trans ?_ | with_reducible refine (fold1_fuses _ _ (fun _ _ => ?_) _).trans ?_

theorem Dev.hdmaTorn_fuses (d : Dev) (e : Nat) (r : HdmaRun) : (Dev.hdmaTorn d e r).1.sec.fuses = d.sec.fuses := by
  unfold Dev.hdmaTorn
  repeat' first | with_reducible rfl | with_reducible refine ite_fuses ?_ ?_ | dsimp only | simp only [Dev.hdmaDrop_fuses, RStep.out_fuses] | split | with_reducible refine (fold_fuses _ _ (fun _ _ => ?_) _).trans ?_ | with_reducible refine (fold1_fuses _ _ (fun _ _ => ?_) _).trans ?_

theorem doHdmaComplete_fuses (d : Dev) (e : Nat) : (doHdmaComplete d e).sec.fuses = d.sec.fuses := by
  unfold doHdmaComplete
  repeat' first | with_reducible rfl | simp only [Dev.hostSignal_fuses, Dev.hostWrite_fuses, Dev.setFunc_fuses, Dev.doorbell_fuses, Dev.hdmaFill_fuses, RStep.out_fuses, Dev.hdmaEnd_fuses, Dev.hdmaTorn_fuses] | split

theorem doHostWinCfgWrite_fuses (d : Dev) (f : Nat) (w : Word) : (doHostWinCfgWrite d f w).sec.fuses = d.sec.fuses := by
  unfold doHostWinCfgWrite; split <;> simp only [Dev.setFunc_fuses]

theorem Dev.winTake_fuses (d : Dev) (f off n : Nat) (job : WinJob) : (Dev.winTake d f off n job).sec.fuses = d.sec.fuses := by
  unfold Dev.winTake
  repeat' first | with_reducible rfl | with_reducible refine ite_fuses ?_ ?_ | dsimp only | simp only [Dev.winSettle_fuses, RStep.out_fuses] | split | with_reducible refine (fold_fuses _ _ (fun _ _ => ?_) _).trans ?_ | with_reducible refine (fold1_fuses _ _ (fun _ _ => ?_) _).trans ?_

theorem doHostWinRead_fuses (d : Dev) (f off n : Nat) : (doHostWinRead d f off n).sec.fuses = d.sec.fuses := by
  unfold doHostWinRead
  repeat' first | with_reducible rfl | simp only [Dev.hostSegRead_fuses, Dev.winRefused_fuses, Dev.winTake_fuses] | split

theorem doHostWinWrite_fuses (d : Dev) (f off : Nat) (data : List Byte) : (doHostWinWrite d f off data).sec.fuses = d.sec.fuses := by
  unfold doHostWinWrite
  repeat' first | with_reducible rfl | simp only [Dev.hostSegWrite_fuses, Dev.winRefused_fuses, Dev.winTake_fuses] | split

theorem Dev.flr_fuses (d : Dev) (f : Nat) : (Dev.flr d f).sec.fuses = d.sec.fuses := by
  unfold Dev.flr
  repeat' first | with_reducible rfl | with_reducible refine ite_fuses ?_ ?_ | dsimp only | simp only [Dev.setFunc_fuses, Dev.hostForget_fuses, Dev.forget_fuses] | split | with_reducible refine (fold_fuses _ _ (fun _ _ => ?_) _).trans ?_ | with_reducible refine (fold1_fuses _ _ (fun _ _ => ?_) _).trans ?_

theorem Dev.hotReset_fuses (d : Dev) : (Dev.hotReset d).sec.fuses = d.sec.fuses := by
  unfold Dev.hotReset
  repeat' first | with_reducible rfl | with_reducible refine ite_fuses ?_ ?_ | dsimp only | simp only [Dev.flr_fuses] | split | with_reducible refine (fold_fuses _ _ (fun _ _ => ?_) _).trans ?_ | with_reducible refine (fold1_fuses _ _ (fun _ _ => ?_) _).trans ?_

theorem doPerstN_fuses (d : Dev) (level : Bool) : (doPerstN d level).sec.fuses = d.sec.fuses := by
  unfold doPerstN
  repeat' first | with_reducible rfl | simp only [Dev.hotReset_fuses] | split

theorem doDevInfo_fuses (d : Dev) (f key : Nat) : (doDevInfo d f key).sec.fuses = d.sec.fuses := by
  unfold doDevInfo
  repeat' first | with_reducible rfl | with_reducible refine ite_fuses ?_ ?_ | dsimp only | simp only [Dev.respond_fuses, Dev.refuseCmd_fuses, Dev.sendBuf_fuses, Dev.command_fuses] | refine (Dev.command_fuses _ _ _ _ _ _ (fun _ _ => ?_) ).trans ?_ | split

theorem doDevHealth_fuses (d : Dev) (f key : Nat) : (doDevHealth d f key).sec.fuses = d.sec.fuses := by
  unfold doDevHealth
  repeat' first | with_reducible rfl | with_reducible refine ite_fuses ?_ ?_ | dsimp only | simp only [Dev.setFunc_fuses, Dev.respond_fuses, Dev.command_fuses] | refine (Dev.command_fuses _ _ _ _ _ _ (fun _ _ => ?_) ).trans ?_ | split

theorem doCfgGet_fuses (d : Dev) (f key : Nat) : (doCfgGet d f key).sec.fuses = d.sec.fuses := by
  unfold doCfgGet
  repeat' first | with_reducible rfl | with_reducible refine ite_fuses ?_ ?_ | dsimp only | simp only [Dev.fail_fuses, Dev.respond_fuses, Dev.command_fuses] | refine (Dev.command_fuses _ _ _ _ _ _ (fun _ _ => ?_) ).trans ?_ | split

theorem doCfgStage_fuses (d : Dev) (f key : Nat) : (doCfgStage d f key).sec.fuses = d.sec.fuses := by
  unfold doCfgStage
  repeat' first | with_reducible rfl | with_reducible refine ite_fuses ?_ ?_ | dsimp only | simp only [Dev.fail_fuses, Dev.respond_fuses, Dev.command_fuses] | refine (Dev.command_fuses _ _ _ _ _ _ (fun _ _ => ?_) ).trans ?_ | split | with_reducible refine (fold_fuses _ _ (fun _ _ => ?_) _).trans ?_ | with_reducible refine (fold1_fuses _ _ (fun _ _ => ?_) _).trans ?_

theorem doCfgCommit_fuses (d : Dev) (f key : Nat) : (doCfgCommit d f key).sec.fuses = d.sec.fuses := by
  unfold doCfgCommit
  repeat' first | with_reducible rfl | with_reducible refine ite_fuses ?_ ?_ | dsimp only | simp only [Dev.refuseCmd_fuses, Dev.noChange_fuses, Dev.cfgApply_fuses, Dev.caveConfig_fuses, Dev.respond_fuses, Dev.command_fuses, Dev.cfgTakes_fuses] | refine (Dev.command_fuses _ _ _ _ _ _ (fun _ _ => ?_) ).trans ?_ | split | with_reducible refine (fold_fuses _ _ (fun _ _ => ?_) _).trans ?_ | with_reducible refine (fold1_fuses _ _ (fun _ _ => ?_) _).trans ?_

theorem Dev.fltAnswer_fuses (d : Dev) (f key : Nat) (m : List Byte) (n : Nat) : (Dev.fltAnswer d f key m n).sec.fuses = d.sec.fuses := by
  simp only [Dev.fltAnswer, Dev.respond_fuses, RStep.out_fuses, Dev.take_fuses]

theorem doFltList_fuses (d : Dev) (f key : Nat) : (doFltList d f key).sec.fuses = d.sec.fuses := by
  unfold doFltList
  repeat' first | with_reducible rfl | with_reducible refine ite_fuses ?_ ?_ | dsimp only | simp only [Dev.fltAnswer_fuses, Dev.command_fuses] | refine (Dev.command_fuses _ _ _ _ _ _ (fun _ _ => ?_) ).trans ?_ | split

theorem Dev.ackFaults_fuses (d : Dev) (pick : Nat → Bool) : (Dev.ackFaults d pick).sec.fuses = d.sec.fuses := by
  unfold Dev.ackFaults
  repeat' first | with_reducible rfl | simp only [Dev.caveClear_fuses] | split

theorem doFltAck_fuses (d : Dev) (f key : Nat) : (doFltAck d f key).sec.fuses = d.sec.fuses := by
  unfold doFltAck
  repeat' first | with_reducible rfl | with_reducible refine ite_fuses ?_ ?_ | dsimp only | simp only [Dev.ackFaults_fuses, Dev.respond_fuses, Dev.fail_fuses, Dev.command_fuses] | refine (Dev.command_fuses _ _ _ _ _ _ (fun _ _ => ?_) ).trans ?_ | split

theorem Dev.evtAnswer_fuses (d : Dev) (f key : Nat) (m : List Byte) (n : Nat) : (Dev.evtAnswer d f key m n).sec.fuses = d.sec.fuses := by
  unfold Dev.evtAnswer
  repeat' first | with_reducible rfl | simp only [Dev.respond_fuses, Dev.sendBuf_fuses, RStep.out_fuses, Dev.take_fuses] | split

theorem doEvtRead_fuses (d : Dev) (f key : Nat) : (doEvtRead d f key).sec.fuses = d.sec.fuses := by
  unfold doEvtRead
  repeat' first | with_reducible rfl | with_reducible refine ite_fuses ?_ ?_ | dsimp only | simp only [Dev.fail_fuses, Dev.evtAnswer_fuses, Dev.command_fuses] | refine (Dev.command_fuses _ _ _ _ _ _ (fun _ _ => ?_) ).trans ?_ | split

theorem doEvtMark_fuses (d : Dev) (f key : Nat) : (doEvtMark d f key).sec.fuses = d.sec.fuses := by
  unfold doEvtMark
  repeat' first | with_reducible rfl | with_reducible refine ite_fuses ?_ ?_ | dsimp only | simp only [Dev.caveWrite_fuses, Dev.respond_fuses, Dev.command_fuses, Dev.take_fuses] | refine (Dev.command_fuses _ _ _ _ _ _ (fun _ _ => ?_) ).trans ?_ | split

theorem doTelRead_fuses (d : Dev) (f key : Nat) : (doTelRead d f key).sec.fuses = d.sec.fuses := by
  unfold doTelRead
  repeat' first | with_reducible rfl | with_reducible refine ite_fuses ?_ ?_ | dsimp only | simp only [Dev.draw_fuses, Dev.respond_fuses, Dev.command_fuses] | refine (Dev.command_fuses _ _ _ _ _ _ (fun _ _ => ?_) ).trans ?_ | split

theorem doPwrLimit_fuses (d : Dev) (f key : Nat) : (doPwrLimit d f key).sec.fuses = d.sec.fuses := by
  unfold doPwrLimit
  repeat' first | with_reducible rfl | with_reducible refine ite_fuses ?_ ?_ | dsimp only | simp only [Dev.fail_fuses, Dev.cavePower_fuses, Dev.begin__fuses, Dev.command_fuses] | refine (Dev.command_fuses _ _ _ _ _ _ (fun _ _ => ?_) ).trans ?_ | split

theorem Dev.ctxCommand_fuses (d : Dev) (f key op : Nat) (pick : List Byte → Bool) (busy : Dev → List Byte → Bool) (act : Dev → List Byte → Dev) (h_act : ∀ (e : Dev) (v0 : List Byte), (act e v0).sec.fuses = e.sec.fuses) : (Dev.ctxCommand d f key op pick busy act).sec.fuses = d.sec.fuses := by
  unfold Dev.ctxCommand
  repeat' first | with_reducible rfl | with_reducible refine ite_fuses ?_ ?_ | dsimp only | simp only [Dev.fail_fuses, Dev.commandW_fuses, Dev.act_fuses] | refine (Dev.commandW_fuses _ _ _ _ _ _ _ (fun _ _ => ?_) ).trans ?_ | simp only [h_act] | split

theorem doPartCreate_fuses (d : Dev) (f key : Nat) : (doPartCreate d f key).sec.fuses = d.sec.fuses := by
  unfold doPartCreate
  repeat' first | with_reducible rfl | with_reducible refine ite_fuses ?_ ?_ | dsimp only | simp only [Dev.fail_fuses, Dev.noChange_fuses, Dev.setPart_fuses, Dev.newKeys_fuses, Dev.respond_fuses, Dev.commandW_fuses] | refine (Dev.commandW_fuses _ _ _ _ _ _ _ (fun _ _ => ?_) ).trans ?_ | split

theorem Dev.dropKeeps_fuses (d : Dev) (p : Nat) : (Dev.dropKeeps d p).sec.fuses = d.sec.fuses := by unfold Dev.dropKeeps; rfl

theorem Dev.startScrub_fuses (d : Dev) (p : Nat) (destroy : Bool) : (Dev.startScrub d p destroy).sec.fuses = d.sec.fuses := by
  unfold Dev.startScrub
  repeat' first | with_reducible rfl | simp only [Dev.dropKeeps_fuses, Dev.dropKeys_fuses, Dev.newKeys_fuses, Dev.setPart_fuses] | split

theorem doPartDestroy_fuses (d : Dev) (f key : Nat) : (doPartDestroy d f key).sec.fuses = d.sec.fuses := by
  unfold doPartDestroy
  repeat' first | with_reducible rfl | with_reducible refine ite_fuses ?_ ?_ | dsimp only | simp only [Dev.fail_fuses, Dev.setPart_fuses, Dev.respond_fuses, Dev.startScrub_fuses, Dev.commandW_fuses] | refine (Dev.commandW_fuses _ _ _ _ _ _ _ (fun _ _ => ?_) ).trans ?_ | split

theorem doPartQuery_fuses (d : Dev) (f key : Nat) : (doPartQuery d f key).sec.fuses = d.sec.fuses := by
  unfold doPartQuery
  repeat' first | with_reducible rfl | with_reducible refine ite_fuses ?_ ?_ | dsimp only | simp only [Dev.fail_fuses, Dev.respond_fuses, Dev.command_fuses] | refine (Dev.command_fuses _ _ _ _ _ _ (fun _ _ => ?_) ).trans ?_ | split

theorem doPartSetMode_fuses (d : Dev) (f key : Nat) : (doPartSetMode d f key).sec.fuses = d.sec.fuses := by
  unfold doPartSetMode
  repeat' first | with_reducible rfl | with_reducible refine ite_fuses ?_ ?_ | dsimp only | simp only [Dev.fail_fuses, Dev.setPart_fuses, Dev.dropKeys_fuses, Dev.startScrub_fuses, Dev.respond_fuses, Dev.commandW_fuses] | refine (Dev.commandW_fuses _ _ _ _ _ _ _ (fun _ _ => ?_) ).trans ?_ | split

theorem doCtxCreate_fuses (d : Dev) (f key : Nat) : (doCtxCreate d f key).sec.fuses = d.sec.fuses := by
  unfold doCtxCreate
  repeat' first | with_reducible rfl | with_reducible refine ite_fuses ?_ ?_ | dsimp only | simp only [Dev.fail_fuses, Dev.noChange_fuses, Dev.setCtx_fuses, Dev.setPart_fuses, Dev.begin__fuses, Dev.takeRun_fuses, Dev.commandW_fuses] | refine (Dev.commandW_fuses _ _ _ _ _ _ _ (fun _ _ => ?_) ).trans ?_ | refine (Dev.takeRun_fuses _ _ _ _ _ _ ‹Dev.takeRun _ _ _ _ _ _ = some _›).trans ?_ | split

theorem doCtxDestroy_fuses (d : Dev) (f key : Nat) : (doCtxDestroy d f key).sec.fuses = d.sec.fuses := by
  unfold doCtxDestroy
  repeat' first | with_reducible rfl | with_reducible refine ite_fuses ?_ ?_ | dsimp only | simp only [Dev.fail_fuses, Dev.begin__fuses, Dev.resetCtx_fuses, Dev.ctxCommand_fuses] | refine (Dev.ctxCommand_fuses _ _ _ _ _ _ _ (fun _ _ => ?_) ).trans ?_ | split

theorem doCtxSched_fuses (d : Dev) (f key : Nat) : (doCtxSched d f key).sec.fuses = d.sec.fuses := by
  unfold doCtxSched
  repeat' first | with_reducible rfl | with_reducible refine ite_fuses ?_ ?_ | dsimp only | simp only [Dev.fail_fuses, Dev.setCtx_fuses, Dev.giveTo_fuses, Dev.respond_fuses, Dev.ctxCommand_fuses] | refine (Dev.ctxCommand_fuses _ _ _ _ _ _ _ (fun _ _ => ?_) ).trans ?_ | split

theorem doCtxResetClear_fuses (d : Dev) (f key : Nat) : (doCtxResetClear d f key).sec.fuses = d.sec.fuses := by
  unfold doCtxResetClear
  repeat' first | with_reducible rfl | with_reducible refine ite_fuses ?_ ?_ | dsimp only | simp only [Dev.fail_fuses, Dev.begin__fuses, Dev.resetCtx_fuses, Dev.ctxCommand_fuses] | refine (Dev.ctxCommand_fuses _ _ _ _ _ _ _ (fun _ _ => ?_) ).trans ?_ | split

theorem doCtxResetResume_fuses (d : Dev) (f key : Nat) : (doCtxResetResume d f key).sec.fuses = d.sec.fuses := by
  unfold doCtxResetResume
  repeat' first | with_reducible rfl | with_reducible refine ite_fuses ?_ ?_ | dsimp only | simp only [Dev.begin__fuses, Dev.resetCtx_fuses, Dev.ctxCommand_fuses] | refine (Dev.ctxCommand_fuses _ _ _ _ _ _ _ (fun _ _ => ?_) ).trans ?_ | split

theorem doProgLoad_fuses (d : Dev) (f key : Nat) : (doProgLoad d f key).sec.fuses = d.sec.fuses := by
  unfold doProgLoad
  refine (Dev.commandW_fuses _ _ _ _ _ _ _ (fun d m => ?_)).trans ?_
  · dsimp only
    generalize reqCtx m = ctx
    generalize leAt m 16 8 = off
    generalize leAt m 24 4 = n
    repeat' with_reducible refine ite_fuses ?_ ?_
    all_goals first | exact Dev.fail_fuses .. | skip
    split
    · exact Dev.fail_fuses ..
    · rename_i a _
      generalize hr : d.extRead (ctx / 16) a n (some ctx) = r
      have h1 : r.1.sec.fuses = d.sec.fuses := by rw [← hr]; exact Dev.extRead_fuses ..
      rw [← h1]
      split
      · exact Dev.refuseCmd_fuses ..
      · with_reducible refine ite_fuses (Dev.fail_fuses ..) ?_
        split
        · exact Dev.refuseCmd_fuses ..
        · split
          · exact Dev.fail_fuses ..
          · rename_i d1 hp
            rw [Dev.respond_fuses, Dev.recordLoad_fuses, Dev.place_fuses]
            exact Dev.placeSpill_fuses _ _ _ hp
  · rfl

theorem Dev.releaseCurds_fuses (d : Dev) (ctx : Nat) : (Dev.releaseCurds d ctx).sec.fuses = d.sec.fuses := by
  unfold Dev.releaseCurds
  repeat' first | with_reducible rfl | with_reducible refine ite_fuses ?_ ?_ | dsimp only | simp only [Dev.setCurd_fuses, Dev.setCtx_fuses] | split | with_reducible refine (fold_fuses _ _ (fun _ _ => ?_) _).trans ?_ | with_reducible refine (fold1_fuses _ _ (fun _ _ => ?_) _).trans ?_

theorem doProgStart_fuses (d : Dev) (f key : Nat) : (doProgStart d f key).sec.fuses = d.sec.fuses := by
  unfold doProgStart
  repeat' first | with_reducible rfl | with_reducible refine ite_fuses ?_ ?_ | dsimp only | simp only [Dev.fail_fuses, Dev.noChange_fuses, Dev.refuseCmd_fuses, Dev.releaseCurds_fuses, Dev.setCtx_fuses, Dev.giveTo_fuses, Dev.respond_fuses, Dev.ctxCommand_fuses] | refine (Dev.ctxCommand_fuses _ _ _ _ _ _ _ (fun _ _ => ?_) ).trans ?_ | split

theorem doCultureSetRegister_fuses (d : Dev) (f key : Nat) : (doCultureSetRegister d f key).sec.fuses = d.sec.fuses := by
  unfold doCultureSetRegister
  repeat' first | with_reducible rfl | with_reducible refine ite_fuses ?_ ?_ | dsimp only | simp only [Dev.fail_fuses, Dev.setCtx_fuses, Dev.respond_fuses, Dev.ctxCommand_fuses] | refine (Dev.ctxCommand_fuses _ _ _ _ _ _ _ (fun _ _ => ?_) ).trans ?_ | split

theorem Dev.writeEntry_fuses (d : Dev) (ctx rec_ base : Nat) (image : List Byte) : (Dev.writeEntry d ctx rec_ base image).1.sec.fuses = d.sec.fuses := by
  unfold Dev.writeEntry
  repeat' first | with_reducible rfl | simp only [Dev.extRead_fuses, Dev.extWrite_fuses, Dev.take_fuses] | split

theorem doCultureSetWrite_fuses (d : Dev) (f key : Nat) : (doCultureSetWrite d f key).sec.fuses = d.sec.fuses := by
  unfold doCultureSetWrite
  repeat' first | with_reducible rfl | with_reducible refine ite_fuses ?_ ?_ | dsimp only | simp only [Dev.fail_fuses, Dev.setCtx_fuses, Dev.writeEntry_fuses, Dev.respond_fuses, Dev.ctxCommand_fuses] | refine (Dev.ctxCommand_fuses _ _ _ _ _ _ _ (fun _ _ => ?_) ).trans ?_ | split

theorem doMemMap_fuses (d : Dev) (f key : Nat) : (doMemMap d f key).sec.fuses = d.sec.fuses := by
  unfold doMemMap
  repeat' first | with_reducible rfl | with_reducible refine ite_fuses ?_ ?_ | dsimp only | simp only [Dev.fail_fuses, Dev.noChange_fuses, Dev.setPart_fuses, Dev.begin__fuses, Dev.takeRun_fuses, Dev.commandW_fuses] | refine (Dev.commandW_fuses _ _ _ _ _ _ _ (fun _ _ => ?_) ).trans ?_ | refine (Dev.takeRun_fuses _ _ _ _ _ _ ‹Dev.takeRun _ _ _ _ _ _ = some _›).trans ?_ | split

theorem doMemUnmap_fuses (d : Dev) (f key : Nat) : (doMemUnmap d f key).sec.fuses = d.sec.fuses := by
  unfold doMemUnmap
  repeat' first | with_reducible rfl | with_reducible refine ite_fuses ?_ ?_ | dsimp only | simp only [Dev.fail_fuses, Dev.setCtx_fuses, Dev.respond_fuses, Dev.ctxCommand_fuses] | refine (Dev.ctxCommand_fuses _ _ _ _ _ _ _ (fun _ _ => ?_) ).trans ?_ | split

theorem doMemScrub_fuses (d : Dev) (f key : Nat) : (doMemScrub d f key).sec.fuses = d.sec.fuses := by
  unfold doMemScrub
  repeat' first | with_reducible rfl | with_reducible refine ite_fuses ?_ ?_ | dsimp only | simp only [Dev.fail_fuses, Dev.startScrub_fuses, Dev.respond_fuses, Dev.commandW_fuses] | refine (Dev.commandW_fuses _ _ _ _ _ _ _ (fun _ _ => ?_) ).trans ?_ | split

theorem doMemRetire_fuses (d : Dev) (f key : Nat) : (doMemRetire d f key).sec.fuses = d.sec.fuses := by
  unfold doMemRetire
  repeat' first | with_reducible rfl | with_reducible refine ite_fuses ?_ ?_ | dsimp only | simp only [Dev.fail_fuses, Dev.retirePage_fuses, Dev.respond_fuses, Dev.command_fuses] | refine (Dev.command_fuses _ _ _ _ _ _ (fun _ _ => ?_) ).trans ?_ | split

theorem Dev.ask6_fuses (d : Dev) (f key : Nat) (m : List Byte) : (Dev.ask6 d f key m).sec.fuses = d.sec.fuses := by
  unfold Dev.ask6
  repeat' first | with_reducible rfl | simp only [Dev.begin__fuses, Dev.serve6_fuses, Dev.send_fuses] | split

theorem doSliceCreate_fuses (d : Dev) (f key : Nat) : (doSliceCreate d f key).sec.fuses = d.sec.fuses := by
  unfold doSliceCreate
  repeat' first | with_reducible rfl | with_reducible refine ite_fuses ?_ ?_ | dsimp only | simp only [Dev.ask6_fuses, Dev.command_fuses] | refine (Dev.command_fuses _ _ _ _ _ _ (fun _ _ => ?_) ).trans ?_ | split

theorem doSliceDestroy_fuses (d : Dev) (f key : Nat) : (doSliceDestroy d f key).sec.fuses = d.sec.fuses := by
  unfold doSliceDestroy
  repeat' first | with_reducible rfl | with_reducible refine ite_fuses ?_ ?_ | dsimp only | simp only [Dev.ask6_fuses, Dev.command_fuses] | refine (Dev.command_fuses _ _ _ _ _ _ (fun _ _ => ?_) ).trans ?_ | split

theorem doSliceQuery_fuses (d : Dev) (f key : Nat) : (doSliceQuery d f key).sec.fuses = d.sec.fuses := by
  unfold doSliceQuery
  repeat' first | with_reducible rfl | with_reducible refine ite_fuses ?_ ?_ | dsimp only | simp only [Dev.ask6_fuses, Dev.fail_fuses, Dev.command_fuses] | refine (Dev.command_fuses _ _ _ _ _ _ (fun _ _ => ?_) ).trans ?_ | split

theorem Dev.mapAnswer_fuses (d : Dev) (f key : Nat) (m : List Byte) (n : Nat) : (Dev.mapAnswer d f key m n).sec.fuses = d.sec.fuses := by
  unfold Dev.mapAnswer
  repeat' first | with_reducible rfl | simp only [Dev.respond_fuses, Dev.refuseCmd_fuses, Dev.sendBuf_fuses, Dev.take_fuses] | split

theorem Dev.mapAlone_fuses (d : Dev) (f key : Nat) : (Dev.mapAlone d f key).sec.fuses = d.sec.fuses := by
  simp only [Dev.mapAlone, Dev.respond_fuses]

theorem doFabricMap_fuses (d : Dev) (f key : Nat) : (doFabricMap d f key).sec.fuses = d.sec.fuses := by
  unfold doFabricMap
  repeat' first | with_reducible rfl | with_reducible refine ite_fuses ?_ ?_ | dsimp only | simp only [Dev.mapAnswer_fuses, Dev.ask6_fuses, Dev.mapAlone_fuses, Dev.command_fuses] | refine (Dev.command_fuses _ _ _ _ _ _ (fun _ _ => ?_) ).trans ?_ | split

theorem Dev.cancelled_fuses (d : Dev) (f key : Nat) : (Dev.cancelled d f key).sec.fuses = d.sec.fuses := by
  unfold Dev.cancelled
  repeat' first | with_reducible rfl | with_reducible refine ite_fuses ?_ ?_ | dsimp only | simp only [Dev.fltAnswer_fuses, Dev.fail_fuses, Dev.evtAnswer_fuses, doTelRead_fuses, Dev.respond_fuses, Dev.mapAnswer_fuses, Dev.mapAlone_fuses, Dev.command_fuses] | refine (Dev.command_fuses _ _ _ _ _ _ (fun _ _ => ?_) ).trans ?_ | split

theorem doCancel_fuses (d : Dev) (f chan : Nat) : (doCancel d f chan).sec.fuses = d.sec.fuses := by
  unfold doCancel
  repeat' first | with_reducible rfl | simp only [Dev.takeNotify_fuses, Dev.cancelled_fuses, Dev.raise_fuses] | split

theorem doResetReqContext_fuses (d : Dev) (f key : Nat) : (doResetReqContext d f key).sec.fuses = d.sec.fuses := by
  unfold doResetReqContext
  repeat' first | with_reducible rfl | with_reducible refine ite_fuses ?_ ?_ | dsimp only | simp only [Dev.fail_fuses, Dev.begin__fuses, Dev.resetCtx_fuses, Dev.commandW_fuses] | refine (Dev.commandW_fuses _ _ _ _ _ _ _ (fun _ _ => ?_) ).trans ?_ | split

theorem doResetReqEngine_fuses (d : Dev) (f key : Nat) : (doResetReqEngine d f key).sec.fuses = d.sec.fuses := by
  unfold doResetReqEngine
  repeat' first | with_reducible rfl | with_reducible refine ite_fuses ?_ ?_ | dsimp only | simp only [Dev.fail_fuses, Dev.respond_fuses, Dev.begin__fuses, Dev.engineReset_fuses, Dev.commandW_fuses] | refine (Dev.commandW_fuses _ _ _ _ _ _ _ (fun _ _ => ?_) ).trans ?_ | split

theorem doResetReqPartition_fuses (d : Dev) (f key : Nat) : (doResetReqPartition d f key).sec.fuses = d.sec.fuses := by
  unfold doResetReqPartition
  repeat' first | with_reducible rfl | with_reducible refine ite_fuses ?_ ?_ | dsimp only | simp only [Dev.fail_fuses, Dev.begin__fuses, Dev.partReset_fuses, Dev.commandW_fuses] | refine (Dev.commandW_fuses _ _ _ _ _ _ _ (fun _ _ => ?_) ).trans ?_ | split

theorem doResetReqChip_fuses (d : Dev) (f key : Nat) : (doResetReqChip d f key).sec.fuses = d.sec.fuses := by
  unfold doResetReqChip
  repeat' first | with_reducible rfl | with_reducible refine ite_fuses ?_ ?_ | dsimp only | simp only [Dev.fail_fuses, Dev.respond_fuses, Dev.chipReset_fuses, Dev.command_fuses] | refine (Dev.command_fuses _ _ _ _ _ _ (fun _ _ => ?_) ).trans ?_ | split

theorem doResetReqPowerCycle_fuses (d : Dev) (f key : Nat) : (doResetReqPowerCycle d f key).sec.fuses = d.sec.fuses := by
  unfold doResetReqPowerCycle
  repeat' first | with_reducible rfl | with_reducible refine ite_fuses ?_ ?_ | dsimp only | simp only [Dev.fail_fuses, Dev.respond_fuses, Dev.askPowerCycle_fuses, Dev.command_fuses] | refine (Dev.command_fuses _ _ _ _ _ _ (fun _ _ => ?_) ).trans ?_ | split

theorem Dev.clearService_fuses (d : Dev) : (Dev.clearService d).sec.fuses = d.sec.fuses := by
  unfold Dev.clearService
  repeat' first | with_reducible rfl | simp only [Dev.caveClear_fuses] | split

theorem doServiceReturn_fuses (d : Dev) (f key : Nat) : (doServiceReturn d f key).sec.fuses = d.sec.fuses := by
  unfold doServiceReturn
  repeat' first | with_reducible rfl | with_reducible refine ite_fuses ?_ ?_ | dsimp only | simp only [Dev.fail_fuses, Dev.clearService_fuses, Dev.respond_fuses, Dev.command_fuses] | refine (Dev.command_fuses _ _ _ _ _ _ (fun _ _ => ?_) ).trans ?_ | split

theorem Sec.setCopy_fuses (x : Sec) (c k : Nat) (y : FwCopy) : (x.setCopy c k y).fuses = x.fuses := rfl

theorem doFwStage_fuses (d : Dev) (f key : Nat) : (doFwStage d f key).sec.fuses = d.sec.fuses := by
  unfold doFwStage
  repeat' first | with_reducible rfl | with_reducible refine ite_fuses ?_ ?_ | dsimp only | simp only [Dev.fail_fuses, Dev.refuseCmd_fuses, Dev.raise_fuses, Dev.event_fuses, Dev.respond_fuses, Sec.setCopy_fuses, Dev.command_fuses] | refine (Dev.command_fuses _ _ _ _ _ _ (fun _ _ => ?_) ).trans ?_ | split

theorem Sec.activate_fuses (x : Sec) (c : Nat) : (x.activate c).fuses = x.fuses := by unfold Sec.activate; rfl

theorem doFwActivateNextReset_fuses (d : Dev) (f key : Nat) : (doFwActivateNextReset d f key).sec.fuses = d.sec.fuses := by
  unfold doFwActivateNextReset
  repeat' first | with_reducible rfl | with_reducible refine ite_fuses ?_ ?_ | dsimp only | simp only [Dev.fail_fuses, Dev.event_fuses, Dev.respond_fuses, Sec.activate_fuses, Dev.command_fuses] | refine (Dev.command_fuses _ _ _ _ _ _ (fun _ _ => ?_) ).trans ?_ | split

theorem Sec.runNew_fuses (x : Sec) (c : Nat) : (x.runNew c).fuses = x.fuses := rfl

theorem doFwActivateNow_fuses (d : Dev) (f key : Nat) : (doFwActivateNow d f key).sec.fuses = d.sec.fuses := by
  unfold doFwActivateNow
  repeat' first | with_reducible rfl | with_reducible refine ite_fuses ?_ ?_ | dsimp only | simp only [Dev.fail_fuses, Dev.event_fuses, Dev.respond_fuses, Dev.failover_fuses, Dev.recvReset_fuses, Sec.runNew_fuses, Sec.activate_fuses, Dev.command_fuses] | refine (Dev.command_fuses _ _ _ _ _ _ (fun _ _ => ?_) ).trans ?_ | split

theorem doFwQuery_fuses (d : Dev) (f key : Nat) : (doFwQuery d f key).sec.fuses = d.sec.fuses := by
  unfold doFwQuery
  repeat' first | with_reducible rfl | with_reducible refine ite_fuses ?_ ?_ | dsimp only | simp only [Dev.fail_fuses, Dev.respond_fuses, Dev.command_fuses] | refine (Dev.command_fuses _ _ _ _ _ _ (fun _ _ => ?_) ).trans ?_ | split

theorem Dev.rotRestart_fuses (d : Dev) : (Dev.rotRestart d).sec.fuses = d.sec.fuses := by
  unfold Dev.rotRestart; split <;> simp only [Sec.runNew_fuses, Dev.reload_fuses]

theorem Dev.rotBack_fuses (d : Dev) : (Dev.rotBack d).sec.fuses = d.sec.fuses := by
  unfold Dev.rotBack; split <;> simp only [Dev.rotRestart_fuses]

theorem Dev.idle_fuses (d : Dev) : (Dev.idle d).sec.fuses = d.sec.fuses := by
  simp only [Dev.idle, tick_fuses, Dev.rotBack_fuses]

theorem Sec.takeLeaf_fuses (x : Sec) : x.takeLeaf.1.fuses = x.fuses := by
  unfold Sec.takeLeaf; repeat' first | rfl | split

theorem doRolloverDone_fuses (d : Dev) : (doRolloverDone d).sec.fuses = d.sec.fuses := by
  unfold doRolloverDone
  repeat' first | with_reducible rfl | simp only [Dev.raise_fuses] | split

theorem doAttest_fuses (d : Dev) (f key : Nat) : (doAttest d f key).sec.fuses = d.sec.fuses := by
  unfold doAttest
  refine (Dev.command_fuses _ _ _ _ _ _ (fun d m => ?_)).trans ?_
  · dsimp only
    repeat' with_reducible refine ite_fuses ?_ ?_
    all_goals first | with_reducible exact Dev.fail_fuses .. | with_reducible exact Dev.refuseCmd_fuses .. | skip
    split
    · rename_i x n hx
      rw [Dev.sendBuf_fuses]
      have := Sec.takeLeaf_fuses d.sec
      rw [hx] at this; exact this
    · with_reducible refine ite_fuses (Dev.fail_fuses ..) (Dev.fail_fuses ..)
    · rw [Dev.raise_fuses]; exact Dev.fail_fuses ..
  · rfl

theorem doKeyPublicGet_fuses (d : Dev) (f key : Nat) : (doKeyPublicGet d f key).sec.fuses = d.sec.fuses := by
  unfold doKeyPublicGet
  repeat' first | with_reducible rfl | with_reducible refine ite_fuses ?_ ?_ | dsimp only | simp only [Dev.refuseCmd_fuses, Dev.sendBuf_fuses, Dev.fail_fuses, Dev.command_fuses] | refine (Dev.command_fuses _ _ _ _ _ _ (fun _ _ => ?_) ).trans ?_ | split

theorem Dev.keyInstall_fuses (d : Dev) (f key : Nat) (kind : Nat → Bool) (act : Dev → List Byte → Nat → Nat → Dev) (h_act : ∀ (e : Dev) (v0 : List Byte) (v1 : Nat) (v2 : Nat), (act e v0 v1 v2).sec.fuses = e.sec.fuses) : (Dev.keyInstall d f key kind act).sec.fuses = d.sec.fuses := by
  unfold Dev.keyInstall
  repeat' first | with_reducible rfl | with_reducible refine ite_fuses ?_ ?_ | dsimp only | simp only [Dev.fail_fuses, Dev.commandW_fuses, Dev.act_fuses] | refine (Dev.commandW_fuses _ _ _ _ _ _ _ (fun _ _ => ?_) ).trans ?_ | simp only [h_act] | split

theorem doKeyInstallModel_fuses (d : Dev) (f key : Nat) : (doKeyInstallModel d f key).sec.fuses = d.sec.fuses := by
  unfold doKeyInstallModel
  refine (Dev.keyInstall_fuses _ _ _ _ _ (fun d m p c => ?_)).trans ?_
  · dsimp only
    generalize d.hostRead (leAt m 16 8) 1680 = h
    with_reducible refine ite_fuses (Dev.fail_fuses ..) ?_
    split
    · exact Dev.fail_fuses ..
    · split
      · with_reducible refine ite_fuses (Dev.noChange_fuses ..) (Dev.fail_fuses ..)
      · with_reducible refine ite_fuses (Dev.refuseCmd_fuses ..) ?_
        rw [Dev.respond_fuses]
  · rfl

theorem doKeyInstallLink_fuses (d : Dev) (f key : Nat) : (doKeyInstallLink d f key).sec.fuses = d.sec.fuses := by
  unfold doKeyInstallLink
  refine (Dev.keyInstall_fuses _ _ _ _ _ (fun d m p c => ?_)).trans ?_
  · dsimp only
    generalize d.hostRead (leAt m 16 8) 1680 = h
    with_reducible refine ite_fuses (Dev.fail_fuses ..) ?_
    split
    · exact Dev.fail_fuses ..
    · with_reducible refine ite_fuses (Dev.refuseCmd_fuses ..) ?_
      split
      · with_reducible refine ite_fuses (Dev.respond_fuses ..) (Dev.fail_fuses ..)
      · rw [Dev.respond_fuses, Dev.writeLinkKey_fuses]
  · rfl

theorem Dev.dataChecks_fuses (d : Dev) (f key p ctx : Nat) (m h : List Byte) (imports : Bool) (act : Dev → ModelKey → Dev) (h_act : ∀ (e : Dev) (v0 : ModelKey), (act e v0).sec.fuses = e.sec.fuses) : (Dev.dataChecks d f key p ctx m h imports act).sec.fuses = d.sec.fuses := by
  unfold Dev.dataChecks
  repeat' first | with_reducible rfl | with_reducible refine ite_fuses ?_ ?_ | dsimp only | simp only [Dev.fail_fuses, Dev.refuseCmd_fuses, Dev.act_fuses] | simp only [h_act] | split

theorem Dev.importChunks_fuses (d : Dev) (ctx buf : Nat) (k : ModelKey) (h : List Byte) (x0 : Nat) (x1 : Nat) : (Dev.importChunks d ctx buf k h x0 x1).1.sec.fuses = d.sec.fuses := by
  induction x0 generalizing d x1 with
  | zero => rfl
  | succ n ih =>
    unfold Dev.importChunks
    repeat' first | with_reducible rfl | dsimp only | simp only [ih, Dev.hostSegWrite_fuses] | split

theorem doKeyInstallImport_fuses (d : Dev) (f key : Nat) : (doKeyInstallImport d f key).sec.fuses = d.sec.fuses := by
  unfold doKeyInstallImport
  repeat' first | with_reducible rfl | with_reducible refine ite_fuses ?_ ?_ | dsimp only | simp only [Dev.importChunks_fuses, Dev.refuseCmd_fuses, Dev.respond_fuses, Dev.keyInstall_fuses, Dev.dataChecks_fuses] | refine (Dev.keyInstall_fuses _ _ _ _ _ (fun _ _ _ _ => ?_) ).trans ?_ | refine (Dev.dataChecks_fuses _ _ _ _ _ _ _ _ _ (fun _ _ => ?_) ).trans ?_ | split

theorem doKeyInstallExport_fuses (d : Dev) (f key : Nat) : (doKeyInstallExport d f key).sec.fuses = d.sec.fuses := by
  unfold doKeyInstallExport
  repeat' first | with_reducible rfl | with_reducible refine ite_fuses ?_ ?_ | dsimp only | simp only [Dev.hostSegRead_fuses, Dev.fail_fuses, Dev.sendBuf_fuses, Dev.take_fuses, Dev.keyInstall_fuses, Dev.dataChecks_fuses] | refine (Dev.keyInstall_fuses _ _ _ _ _ (fun _ _ _ _ => ?_) ).trans ?_ | refine (Dev.dataChecks_fuses _ _ _ _ _ _ _ _ _ (fun _ _ => ?_) ).trans ?_ | split

theorem doDebugUnlock_fuses (d : Dev) (f key : Nat) : (doDebugUnlock d f key).sec.fuses = d.sec.fuses := by
  unfold doDebugUnlock
  repeat' first | with_reducible rfl | with_reducible refine ite_fuses ?_ ?_ | dsimp only | simp only [Dev.refuseCmd_fuses, Dev.fail_fuses, Dev.respond_fuses, Dev.command_fuses] | refine (Dev.command_fuses _ _ _ _ _ _ (fun _ _ => ?_) ).trans ?_ | split

theorem doStandbyPowerOn_fuses (d : Dev) : (doStandbyPowerOn d).sec.fuses = d.sec.fuses := by
  unfold doStandbyPowerOn; split <;> simp only [Dev.cycled_fuses]

theorem doHoldUpCharged_fuses (d : Dev) : (doHoldUpCharged d).sec.fuses = d.sec.fuses := by
  unfold doHoldUpCharged; split <;> simp only [Dev.tryRails_fuses]

theorem doMainPowerOn_fuses (d : Dev) (mv : Nat) : (doMainPowerOn d mv).sec.fuses = d.sec.fuses := by
  unfold doMainPowerOn; split <;> simp only [Dev.tryRails_fuses]

theorem doPowerFail_fuses (d : Dev) (standbyLost : Bool) : (doPowerFail d standbyLost).sec.fuses = d.sec.fuses := by
  unfold doPowerFail
  repeat' first | with_reducible rfl | simp only [Dev.powerFails_fuses] | split

theorem doHoldUpExhausted_fuses (d : Dev) : (doHoldUpExhausted d).sec.fuses = d.sec.fuses := by
  unfold doHoldUpExhausted
  repeat' first | with_reducible rfl | dsimp only | split

theorem Dev.bindLimits_fuses (d : Dev) (lim : Nat) : (Dev.bindLimits d lim).sec.fuses = d.sec.fuses := by
  unfold Dev.bindLimits
  repeat' first | with_reducible rfl | simp only [Dev.sbAlert_fuses, Dev.raise_fuses] | split

theorem Dev.capAnswers_fuses (d : Dev) : (Dev.capAnswers d).sec.fuses = d.sec.fuses := by
  unfold Dev.capAnswers
  repeat' first | with_reducible rfl | with_reducible refine ite_fuses ?_ ?_ | dsimp only | simp only [Dev.respond_fuses] | split | with_reducible refine (fold_fuses _ _ (fun _ _ => ?_) _).trans ?_ | with_reducible refine (fold1_fuses _ _ (fun _ _ => ?_) _).trans ?_

theorem Dev.control_fuses (d : Dev) (o : PowerObs) : (Dev.control d o).sec.fuses = d.sec.fuses := by
  unfold Dev.control
  repeat' first | with_reducible rfl | simp only [Dev.bindLimits_fuses, Dev.capAnswers_fuses] | split

theorem doPowerSample_fuses (d : Dev) (o : PowerObs) : (doPowerSample d o).sec.fuses = d.sec.fuses := by
  unfold doPowerSample
  repeat' first | with_reducible rfl | simp only [Dev.sbAlert_fuses, Dev.trip_fuses, Dev.control_fuses] | split

theorem doCurrentFastPath_fuses (d : Dev) (coreA : Nat) : (doCurrentFastPath d coreA).sec.fuses = d.sec.fuses := by
  unfold doCurrentFastPath; split <;> simp only [Dev.bindLimits_fuses]

theorem doThermalTrip_fuses (d : Dev) (tj : List Nat) : (doThermalTrip d tj).sec.fuses = d.sec.fuses := by
  unfold doThermalTrip
  repeat' first | with_reducible rfl | simp only [Dev.sbAlert_fuses, Dev.trip_fuses] | split

theorem Dev.stageRecord_fuses (d : Dev) (result : Nat) (detail : List Byte) : (Dev.stageRecord d result detail).sec.fuses = d.sec.fuses := by unfold Dev.stageRecord; rfl

theorem Dev.endStage_fuses (d : Dev) (degr : Bool) (detail : List Byte) : (Dev.endStage d degr detail).sec.fuses = d.sec.fuses := by
  simp only [Dev.endStage, Dev.stageRecord_fuses, Dev.sbAlert_fuses]

theorem Dev.startAgain_fuses (d : Dev) : (Dev.startAgain d).sec.fuses = d.sec.fuses := by
  simp only [Dev.startAgain, Dev.recvReset_fuses, Dev.sbAlert_fuses]

theorem Dev.haltStart_fuses (d : Dev) (src kind : Nat) : (Dev.haltStart d src kind).sec.fuses = d.sec.fuses := by
  unfold Dev.haltStart
  repeat' first | with_reducible rfl | simp only [Dev.raise_fuses, Dev.stageRecord_fuses, Dev.sbAlert_fuses, Dev.askPowerCycle_fuses, Dev.startAgain_fuses] | split

theorem Dev.haltNoCopy_fuses (d : Dev) (comp : Nat) : (Dev.haltNoCopy d comp).sec.fuses = d.sec.fuses := by
  unfold Dev.haltNoCopy; split <;> simp only [Dev.haltStart_fuses]

theorem Sec.choose_fuses (x : Sec) (c k : Nat) : (x.choose c k).fuses = x.fuses := rfl

theorem Dev.missing_fuses (d : Dev) (comp kind : Nat) : (Dev.missing d comp kind).sec.fuses = d.sec.fuses := by unfold Dev.missing; rfl

theorem Dev.loadComp_fuses (d : Dev) (obs : List CopyObs) (comp : Nat) : (Dev.loadComp d obs comp).sec.fuses = d.sec.fuses := by
  unfold Dev.loadComp
  repeat' first | with_reducible rfl | with_reducible refine ite_fuses ?_ ?_ | dsimp only | simp only [Dev.raise_fuses, Dev.missing_fuses, Sec.setCopy_fuses, Sec.choose_fuses] | split | with_reducible refine (fold_fuses _ _ (fun _ _ => ?_) _).trans ?_ | with_reducible refine (fold1_fuses _ _ (fun _ _ => ?_) _).trans ?_

theorem Dev.loadConfig_fuses (d : Dev) (obsA obsB : Bool) : (Dev.loadConfig d obsA obsB).1.sec.fuses = d.sec.fuses := by
  unfold Dev.loadConfig
  repeat' first | with_reducible rfl | with_reducible refine ite_fuses ?_ ?_ | dsimp only | simp only [Dev.raise_fuses] | split | with_reducible refine (fold_fuses _ _ (fun _ _ => ?_) _).trans ?_ | with_reducible refine (fold1_fuses _ _ (fun _ _ => ?_) _).trans ?_

theorem Dev.applyFuses_fuses (d : Dev) : (Dev.applyFuses d).sec.fuses = d.sec.fuses := by
  unfold Dev.applyFuses
  repeat' first | with_reducible rfl | with_reducible refine ite_fuses ?_ ?_ | dsimp only | simp only [Dev.setVat_fuses, Dev.setPort_fuses] | split | with_reducible refine (fold_fuses _ _ (fun _ _ => ?_) _).trans ?_ | with_reducible refine (fold1_fuses _ _ (fun _ _ => ?_) _).trans ?_

theorem Dev.fillChip_fuses (d : Dev) : (Dev.fillChip d).sec.fuses = d.sec.fuses := by unfold Dev.fillChip; rfl

theorem Dev.numberAll_fuses (d : Dev) : (Dev.numberAll d).sec.fuses = d.sec.fuses := by
  unfold Dev.numberAll
  repeat' first | with_reducible rfl | with_reducible refine ite_fuses ?_ ?_ | dsimp only | simp only [Dev.setVat_fuses] | split | with_reducible refine (fold_fuses _ _ (fun _ _ => ?_) _).trans ?_ | with_reducible refine (fold1_fuses _ _ (fun _ _ => ?_) _).trans ?_

theorem Dev.putChunk_fuses (d : Dev) (node slot n : Nat) (data : List Byte) : (Dev.putChunk d node slot n data).sec.fuses = d.sec.fuses := by
  unfold Dev.putChunk; split <;> simp only [Dev.isWrite_fuses, Dev.ldmWrite_fuses, Dev.setVat_fuses]

theorem Dev.powerOnS0_fuses (d : Dev) (kept : Bool) : (Dev.powerOnS0 d kept).sec.fuses = d.sec.fuses := by
  unfold Dev.powerOnS0
  repeat' first | with_reducible rfl | with_reducible refine ite_fuses ?_ ?_ | dsimp only | simp only [Dev.cfgAtReset_fuses, Dev.cfgAtPowerOn_fuses, Dev.applyFuses_fuses] | split | with_reducible refine (fold_fuses _ _ (fun _ _ => ?_) _).trans ?_ | with_reducible refine (fold1_fuses _ _ (fun _ _ => ?_) _).trans ?_

theorem doBootS0_fuses (d : Dev) (copies : List CopyObs) (cfgA cfgB : Bool) : (doBootS0 d copies cfgA cfgB).sec.fuses = d.sec.fuses := by
  unfold doBootS0
  repeat' first | with_reducible rfl | with_reducible refine ite_fuses ?_ ?_ | dsimp only | simp only [Dev.loadConfig_fuses, Dev.cfgAtReset_fuses, Dev.powerOnS0_fuses, Dev.loadComp_fuses, Dev.haltNoCopy_fuses, Dev.rotRestart_fuses, Dev.endStage_fuses] | split | with_reducible refine (fold_fuses _ _ (fun _ _ => ?_) _).trans ?_ | with_reducible refine (fold1_fuses _ _ (fun _ _ => ?_) _).trans ?_

theorem doBootS1_fuses (d : Dev) (passA passB : Bool) : (doBootS1 d passA passB).sec.fuses = d.sec.fuses := by
  unfold doBootS1
  repeat' first | with_reducible rfl | simp only [Dev.haltNoCopy_fuses, Dev.haltStart_fuses, Dev.endStage_fuses] | split

theorem Dev.fenceAtStart_fuses (d : Dev) (stop : Nat) : (Dev.fenceAtStart d stop).sec.fuses = d.sec.fuses := by
  unfold Dev.fenceAtStart
  repeat' first | with_reducible rfl | with_reducible refine ite_fuses ?_ ?_ | dsimp only | simp only [Dev.fenceVat_fuses, Dev.fenceEdge_fuses] | split | with_reducible refine (fold_fuses _ _ (fun _ _ => ?_) _).trans ?_ | with_reducible refine (fold1_fuses _ _ (fun _ _ => ?_) _).trans ?_

theorem Dev.routerAtStart_fuses (d : Dev) (k : Nat) : (Dev.routerAtStart d k).sec.fuses = d.sec.fuses := by
  unfold Dev.routerAtStart
  repeat' first | with_reducible rfl | with_reducible refine ite_fuses ?_ ?_ | dsimp only | simp only [Dev.fenceStop_fuses, Dev.fenceVat_fuses, Dev.fenceEdge_fuses] | split | with_reducible refine (fold_fuses _ _ (fun _ _ => ?_) _).trans ?_ | with_reducible refine (fold1_fuses _ _ (fun _ _ => ?_) _).trans ?_

theorem Dev.stopAtStart_fuses (d : Dev) (s : Nat) : (Dev.stopAtStart d s).sec.fuses = d.sec.fuses := by
  unfold Dev.stopAtStart; split <;> simp only [Dev.raise_fuses, Dev.fenceAtStart_fuses]

theorem Dev.cvTested_fuses (d : Dev) (bad : List Nat) : (Dev.cvTested d bad).sec.fuses = d.sec.fuses := by
  unfold Dev.cvTested
  repeat' first | with_reducible rfl | with_reducible refine ite_fuses ?_ ?_ | dsimp only | simp only [Dev.setCvu_fuses] | split | with_reducible refine (fold_fuses _ _ (fun _ _ => ?_) _).trans ?_ | with_reducible refine (fold1_fuses _ _ (fun _ _ => ?_) _).trans ?_

theorem Dev.endS2_fuses (d : Dev) : (Dev.endS2 d).sec.fuses = d.sec.fuses := by
  simp only [Dev.endS2, Dev.endStage_fuses]

theorem doBootS2_fuses (d : Dev) (failedRouters lostStops badCv : List Nat) : (doBootS2 d failedRouters lostStops badCv).sec.fuses = d.sec.fuses := by
  unfold doBootS2
  repeat' first | with_reducible rfl | with_reducible refine ite_fuses ?_ ?_ | dsimp only | simp only [Dev.routerAtStart_fuses, Dev.stopAtStart_fuses, Dev.raise_fuses, Dev.cvFence_fuses, Dev.cvTested_fuses, Dev.haltStart_fuses, Dev.endS2_fuses] | split | with_reducible refine (fold_fuses _ _ (fun _ _ => ?_) _).trans ?_ | with_reducible refine (fold1_fuses _ _ (fun _ _ => ?_) _).trans ?_

theorem doBootHoldRelease_fuses (d : Dev) : (doBootHoldRelease d).sec.fuses = d.sec.fuses := by
  unfold doBootHoldRelease
  repeat' first | with_reducible rfl | simp only [Dev.endS2_fuses] | split

theorem Dev.trainChan_fuses (d : Dev) (o : ChanObs) (out rate : Nat) : (Dev.trainChan d o out rate).sec.fuses = d.sec.fuses := by
  unfold Dev.trainChan
  repeat' first | with_reducible rfl | simp only [Dev.setChan_fuses, Dev.raise_fuses, RStep.out_fuses] | split

theorem Dev.powerOnS3_fuses (d : Dev) (obs : List ChanObs) : (Dev.powerOnS3 d obs).sec.fuses = d.sec.fuses := by
  unfold Dev.powerOnS3
  repeat' first | with_reducible rfl | with_reducible refine ite_fuses ?_ ?_ | dsimp only | simp only [Dev.trainChan_fuses, Dev.endStage_fuses, RStep.out_fuses] | split | with_reducible refine (fold_fuses _ _ (fun _ _ => ?_) _).trans ?_ | with_reducible refine (fold1_fuses _ _ (fun _ _ => ?_) _).trans ?_

theorem Dev.warmS3_fuses (d : Dev) (obs : List ChanObs) : (Dev.warmS3 d obs).sec.fuses = d.sec.fuses := by
  unfold Dev.warmS3
  repeat' first | with_reducible rfl | with_reducible refine ite_fuses ?_ ?_ | dsimp only | simp only [Dev.setChan_fuses, Dev.loseChan_fuses, Dev.endStage_fuses] | split | with_reducible refine (fold_fuses _ _ (fun _ _ => ?_) _).trans ?_ | with_reducible refine (fold1_fuses _ _ (fun _ _ => ?_) _).trans ?_

theorem doBootS3_fuses (d : Dev) (obs : List ChanObs) : (doBootS3 d obs).sec.fuses = d.sec.fuses := by
  unfold doBootS3
  repeat' first | with_reducible rfl | simp only [Dev.haltNoCopy_fuses, Dev.powerOnS3_fuses, Dev.warmS3_fuses] | split

theorem Dev.startTraining_fuses (d : Dev) (p : Nat) : (Dev.startTraining d p).sec.fuses = d.sec.fuses := by
  unfold Dev.startTraining
  repeat' first | with_reducible rfl | with_reducible refine ite_fuses ?_ ?_ | dsimp only | simp only [Dev.setPort_fuses] | split | with_reducible refine (fold_fuses _ _ (fun _ _ => ?_) _).trans ?_ | with_reducible refine (fold1_fuses _ _ (fun _ _ => ?_) _).trans ?_

theorem doBootS4_fuses (d : Dev) : (doBootS4 d).sec.fuses = d.sec.fuses := by
  unfold doBootS4
  repeat' first | with_reducible rfl | with_reducible refine ite_fuses ?_ ?_ | dsimp only | simp only [Dev.endStage_fuses, Dev.startTraining_fuses] | split | with_reducible refine (fold_fuses _ _ (fun _ _ => ?_) _).trans ?_ | with_reducible refine (fold1_fuses _ _ (fun _ _ => ?_) _).trans ?_

theorem Dev.trainPort_fuses (d : Dev) (o : PortObs) : (Dev.trainPort d o).sec.fuses = d.sec.fuses := by
  unfold Dev.trainPort; split <;> simp only [Dev.bringUp_fuses]

theorem doBootS5_fuses (d : Dev) (obs : List PortObs) : (doBootS5 d obs).sec.fuses = d.sec.fuses := by
  unfold doBootS5
  repeat' first | with_reducible rfl | with_reducible refine ite_fuses ?_ ?_ | dsimp only | simp only [Dev.trainPort_fuses, Dev.endStage_fuses, Dev.portFails_fuses] | split | with_reducible refine (fold_fuses _ _ (fun _ _ => ?_) _).trans ?_ | with_reducible refine (fold1_fuses _ _ (fun _ _ => ?_) _).trans ?_

theorem Dev.failCurd_fuses (d : Dev) (node slot : Nat) : (Dev.failCurd d node slot).sec.fuses = d.sec.fuses := by
  unfold Dev.failCurd; split <;> simp only [Dev.setCurd_fuses, Dev.fenceCurd_fuses]

theorem Dev.failVat_fuses (d : Dev) (node : Nat) : (Dev.failVat d node).sec.fuses = d.sec.fuses := by
  unfold Dev.failVat
  repeat' first | with_reducible rfl | with_reducible refine ite_fuses ?_ ?_ | dsimp only | simp only [Dev.setVat_fuses, Dev.fenceVat_fuses] | split

theorem Dev.failUnits_fuses (d : Dev) (curds : List (Nat × Nat)) (vats : List Nat) : (Dev.failUnits d curds vats).sec.fuses = d.sec.fuses := by
  unfold Dev.failUnits
  repeat' first | with_reducible rfl | with_reducible refine ite_fuses ?_ ?_ | dsimp only | simp only [Dev.failVat_fuses, Dev.failCurd_fuses] | split | with_reducible refine (fold_fuses _ _ (fun _ _ => ?_) _).trans ?_ | with_reducible refine (fold1_fuses _ _ (fun _ _ => ?_) _).trans ?_

theorem Dev.disarm_fuses (d : Dev) : (Dev.disarm d).sec.fuses = d.sec.fuses := by unfold Dev.disarm; rfl

theorem doBootS6_fuses (d : Dev) (badCurds : List (Nat × Nat)) (badVats : List Nat) : (doBootS6 d badCurds badVats).sec.fuses = d.sec.fuses := by
  unfold doBootS6
  repeat' first | with_reducible rfl | simp only [Dev.haltNoCopy_fuses, Dev.fillChip_fuses, Dev.failUnits_fuses, Dev.numberAll_fuses, Dev.disarm_fuses, Dev.endStage_fuses] | split

theorem doVatBcastArm_fuses (d : Dev) (node : Nat) (w : Word) : (doVatBcastArm d node w).sec.fuses = d.sec.fuses := by
  unfold doVatBcastArm
  repeat' first | with_reducible rfl | simp only [Dev.setVat_fuses] | split

theorem doFirmwareChunk_fuses (d : Dev) (node : Nat) (c : FwChunk) : (doFirmwareChunk d node c).sec.fuses = d.sec.fuses := by
  unfold doFirmwareChunk
  repeat' first | with_reducible rfl | with_reducible refine ite_fuses ?_ ?_ | dsimp only | simp only [Dev.setVat_fuses, Dev.putChunk_fuses] | split | with_reducible refine (fold_fuses _ _ (fun _ _ => ?_) _).trans ?_ | with_reducible refine (fold1_fuses _ _ (fun _ _ => ?_) _).trans ?_

theorem doRepairRound_fuses (d : Dev) : (doRepairRound d).sec.fuses = d.sec.fuses := by
  unfold doRepairRound; split <;> rfl

theorem Dev.joinFabric_fuses (d : Dev) : (Dev.joinFabric d).sec.fuses = d.sec.fuses := by
  unfold Dev.joinFabric; split <;> simp only [Dev.sendTable_fuses, Dev.probePorts_fuses, Dev.startElection_fuses]

theorem doBootS7_fuses (d : Dev) : (doBootS7 d).sec.fuses = d.sec.fuses := by
  unfold doBootS7
  repeat' first | with_reducible rfl | simp only [Dev.joinFabric_fuses, Dev.startElection_fuses, Dev.endStage_fuses] | split

theorem Dev.resumeCut_fuses (d : Dev) : (Dev.resumeCut d).sec.fuses = d.sec.fuses := by
  unfold Dev.resumeCut
  repeat' first | with_reducible rfl | with_reducible refine ite_fuses ?_ ?_ | dsimp only | simp only [Dev.setCtx_fuses, Dev.afterTear_fuses] | split | with_reducible refine (fold_fuses _ _ (fun _ _ => ?_) _).trans ?_ | with_reducible refine (fold1_fuses _ _ (fun _ _ => ?_) _).trans ?_

theorem Dev.enterOos_fuses (d : Dev) : (Dev.enterOos d).sec.fuses = d.sec.fuses := by
  unfold Dev.enterOos
  repeat' first | with_reducible rfl | simp only [Dev.raise_fuses, Dev.sbAlert_fuses] | split

theorem doStartTimeout_fuses (d : Dev) : (doStartTimeout d).sec.fuses = d.sec.fuses := by
  unfold doStartTimeout; split <;> simp only [Dev.haltStart_fuses]

theorem doSbChipReset_fuses (d : Dev) : (doSbChipReset d).sec.fuses = d.sec.fuses := by
  unfold doSbChipReset; split <;> simp only [Dev.chipReset_fuses]

theorem doSbCaveFlush_fuses (d : Dev) : (doSbCaveFlush d).sec.fuses = d.sec.fuses := by
  unfold doSbCaveFlush; split <;> rfl

theorem doSbFwOpen_fuses (d : Dev) : (doSbFwOpen d).sec.fuses = d.sec.fuses := by
  unfold doSbFwOpen
  repeat' first | with_reducible rfl | dsimp only | split

theorem doSbFwCommit_fuses (d : Dev) : (doSbFwCommit d).sec.fuses = d.sec.fuses := by
  unfold doSbFwCommit
  repeat' first | with_reducible rfl | simp only [Dev.raise_fuses, Dev.startAgain_fuses, Sec.setCopy_fuses] | split

theorem doDynamicAddressAssignment_fuses (d : Dev) (_method : DaaMethod) (addr : Nat) : (doDynamicAddressAssignment d _method addr).sec.fuses = d.sec.fuses := by
  unfold doDynamicAddressAssignment; split <;> rfl

theorem doJtagInstruction_fuses (d : Dev) (ir : JtagOp) : (doJtagInstruction d ir).sec.fuses = d.sec.fuses := by
  unfold doJtagInstruction; split <;> rfl

theorem Dev.writeSbCtl_fuses (d : Dev) (off size w : Nat) : (Dev.writeSbCtl d off size w).sec.fuses = d.sec.fuses := by
  unfold Dev.writeSbCtl
  repeat' first | with_reducible rfl | simp only [doSbCaveFlush_fuses, doSbChipReset_fuses] | split

theorem Dev.writeSbFwCtl_fuses (d : Dev) (off size w : Nat) : (Dev.writeSbFwCtl d off size w).sec.fuses = d.sec.fuses := by
  unfold Dev.writeSbFwCtl
  repeat' first | with_reducible rfl | simp only [doSbFwOpen_fuses, doSbFwCommit_fuses] | split

theorem Dev.writeBootReq_fuses (d : Dev) (off size w : Nat) : (Dev.writeBootReq d off size w).sec.fuses = d.sec.fuses := by
  unfold Dev.writeBootReq
  repeat' first | with_reducible rfl | simp only [doBootHoldRelease_fuses] | split

theorem Dev.writeFwData_fuses (d : Dev) (off size w : Nat) : (Dev.writeFwData d off size w).sec.fuses = d.sec.fuses := by
  unfold Dev.writeFwData; split <;> rfl

theorem Dev.writeSideband_fuses (d : Dev) (addr size w : Nat) : (Dev.writeSideband d addr size w).sec.fuses = d.sec.fuses := by
  unfold Dev.writeSideband
  repeat' first | with_reducible rfl | simp only [Dev.writeFwData_fuses, Dev.writeSbCtl_fuses, Dev.writeSbFwCtl_fuses, Dev.writeBootReq_fuses] | split

theorem Dev.writeChannel_fuses (d : Dev) (f chan : Nat) (sec : Bool) (o : Nat) (w : Word32) : (Dev.writeChannel d f chan sec o w).sec.fuses = d.sec.fuses := by
  unfold Dev.writeChannel
  repeat' first | with_reducible rfl | simp only [Dev.setMbx_fuses, doMbxSend_fuses, doDbPendClear_fuses, doDbMaskWrite_fuses, Dev.raise_fuses, Dev.take_fuses] | split

theorem Dev.writeControl_fuses (d : Dev) (f off size w : Nat) : (Dev.writeControl d f off size w).sec.fuses = d.sec.fuses := by
  unfold Dev.writeControl
  repeat' first | with_reducible rfl | simp only [Dev.setFunc_fuses, doHdmaRingWrite_fuses, doHdmaTailWrite_fuses, doHdmaCtlWrite_fuses, doHostWinCfgWrite_fuses] | split

theorem Dev.writeWindow_fuses (d : Dev) (f off size w : Nat) : (Dev.writeWindow d f off size w).sec.fuses = d.sec.fuses := by
  unfold Dev.writeWindow
  repeat' first | with_reducible rfl | simp only [Dev.writeChannel_fuses, Dev.writeControl_fuses] | split

theorem Dev.ctlRun_fuses (d : Dev) (f : Nat) : (Dev.ctlRun d f).sec.fuses = d.sec.fuses := by
  unfold Dev.ctlRun
  repeat' first | with_reducible rfl | with_reducible refine ite_fuses ?_ ?_ | dsimp only | simp only [Dev.setWins_fuses, Dev.writeWindow_fuses] | split | with_reducible refine (fold_fuses _ _ (fun _ _ => ?_) _).trans ?_ | with_reducible refine (fold1_fuses _ _ (fun _ _ => ?_) _).trans ?_

theorem Dev.ctlRunAll_fuses (d : Dev) : (Dev.ctlRunAll d).sec.fuses = d.sec.fuses := by
  unfold Dev.ctlRunAll
  repeat' first | with_reducible rfl | with_reducible refine ite_fuses ?_ ?_ | dsimp only | simp only [Dev.ctlRun_fuses] | split | with_reducible refine (fold_fuses _ _ (fun _ _ => ?_) _).trans ?_ | with_reducible refine (fold1_fuses _ _ (fun _ _ => ?_) _).trans ?_

theorem Dev.ctlWrite_fuses (d : Dev) (f off size w : Nat) (go : Dev → Dev) (h_go : ∀ (e : Dev), (go e).sec.fuses = e.sec.fuses) : (Dev.ctlWrite d f off size w go).sec.fuses = d.sec.fuses := by
  unfold Dev.ctlWrite
  repeat' first | with_reducible rfl | dsimp only | simp only [h_go, Dev.ctlRun_fuses] | split

theorem Dev.writeGroup_fuses (d : Dev) (p : Plane) (node g i w : Nat) : (Dev.writeGroup d p node g i w).sec.fuses = d.sec.fuses := by
  unfold Dev.writeGroup; split <;> rfl

theorem Dev.writeDirMask_fuses (d : Dev) (p : Plane) (node dst w : Nat) : (Dev.writeDirMask d p node dst w).sec.fuses = d.sec.fuses := by
  unfold Dev.writeDirMask; split <;> rfl

theorem Dev.writeFlip_fuses (d : Dev) (blk : MemBlk) (node slot : Nat) (chk : Bool) (w : Word) : (Dev.writeFlip d blk node slot chk w).sec.fuses = d.sec.fuses := by
  unfold Dev.writeFlip
  repeat' first | with_reducible rfl | simp only [Dev.setFlip_fuses] | split

theorem doRegisterWrite_fuses (d : Dev) (a : RegAddr) (w : Word) : (doRegisterWrite d a w).sec.fuses = d.sec.fuses := by
  unfold doRegisterWrite
  repeat' first | with_reducible rfl | with_reducible refine ite_fuses ?_ ?_ | dsimp only | simp only [Dev.setCurd_fuses, Dev.setNi_fuses, Dev.setDmaCh_fuses, Dev.control_fuses, Dev.writeSideband_fuses, Dev.writeWindow_fuses, Dev.ctlWrite_fuses, Dev.writeGroup_fuses, Dev.writeDirMask_fuses, Dev.writeFlip_fuses] | split | with_reducible refine (fold_fuses _ _ (fun _ _ => ?_) _).trans ?_ | with_reducible refine (fold1_fuses _ _ (fun _ _ => ?_) _).trans ?_ | exact Dev.ctlWrite_fuses _ _ _ _ _ _ (fun _ => Dev.writeWindow_fuses _ _ _ _ _)

end Sys2Proof.Machine
end

