-- ==== Sys2Proof/Laws/Host.lean ====
section
/-! SUPPORT. Writes to a control window: where none waits and no window write is outstanding, they act at once; and what leaves the
window requests alone. -/

namespace Sys2Proof.Machine

@[simp] theorem Dev.setMbx_wins (d : Dev) (f k : Nat) (x : Mbx) : (d.setMbx f k x).host.wins = d.host.wins := rfl
@[simp] theorem Dev.setFunc_wins (d : Dev) (f : Nat) (x : Func) : (d.setFunc f x).host.wins = d.host.wins := rfl

@[simp] theorem Dev.doorbell_wins (d : Dev) (f k : Nat) (w : Word32) : (d.doorbell f k w).host.wins = d.host.wins := by
  unfold Dev.doorbell
  repeat' first | rfl | split | dsimp only

@[simp] theorem Dev.eventAt_wins (d : Dev) (f b : Nat) : (d.eventAt f b).host.wins = d.host.wins := by simp [Dev.eventAt]

@[simp] theorem Dev.event_wins (d : Dev) (b : Nat) (p : Option Nat) : (d.event b p).host.wins = d.host.wins := by
  unfold Dev.event
  cases p <;> dsimp only
  · simp
  · split <;> simp

@[simp] theorem Dev.reportDrained_wins (d : Dev) (id : Nat) : (d.reportDrained id).host.wins = d.host.wins := by
  rw [Dev.reportDrained_frame]

@[simp] theorem Dev.checkDone_wins (d : Dev) (ctx : Nat) : (d.checkDone ctx).host.wins = d.host.wins := by
  unfold Dev.checkDone
  dsimp only
  split <;> simp [Dev.setCtx]

/-- No write to a control window waits. -/
theorem Dev.ctlRunAll_none (d : Dev) (h : ∀ w ∈ d.host.wins, w.job.isCtl = false) : d.ctlRunAll = d := by
  unfold Dev.ctlRunAll
  rw [List.filter_eq_nil_iff.2 (fun w hw => by simp [h w hw])]
  rfl

theorem Dev.ctlRun_none (d : Dev) (f : Nat) (h : ∀ w ∈ d.host.wins, w.func = f → w.job.isCtl = false) : d.ctlRun f = d := by
  unfold Dev.ctlRun
  rw [List.filter_eq_nil_iff.2 (fun w hw => by
    by_cases e : w.func = f
    · simp [h w hw e]
    · simp [e])]
  rfl

/-- A write to a control window of a function with no window request but reads acts at once. -/
theorem Dev.ctlWrite_now (d : Dev) (f off size w : Nat) (go : Dev → Dev)
    (h : ∀ x ∈ d.host.wins, x.func = f → x.job.isWrite = false ∧ x.job.isCtl = false) : d.ctlWrite f off size w go = go d := by
  unfold Dev.ctlWrite
  have hw : d.winWriting f = false := by
    unfold Dev.winWriting
    rw [List.any_eq_false]
    intro x hx
    by_cases e : x.func = f
    · simp [(h x hx e).1]
    · simp [e]
  rw [hw, Bool.and_false, if_neg (by simp), d.ctlRun_none f (fun x hx e => (h x hx e).2)]

/-- While a window write of the function is outstanding, the write waits behind it. -/
theorem Dev.ctlWrite_waits (d : Dev) (f off size w : Nat) (go : Dev → Dev) (hu : d.hostUp = true) (h : d.winWriting f = true) :
    d.ctlWrite f off size w go = { d with host := { d.host with
      wins := d.host.wins ++ [{ id := d.host.winCount, func := f, ctx := 0, gen := 0, off := 0, len := 0, job := .ctl off size w,
                                next := 0, out := 0, code := 0 }], winCount := d.host.winCount + 1 } } := by
  unfold Dev.ctlWrite
  rw [hu, h]
  rfl

end Sys2Proof.Machine
end

