-- ==== Sys2Proof/Laws/Net.lean ====
section
/-! SUPPORT. What the shared steps of counters, interfaces and reduction units leave alone, said once each. -/

namespace Sys2Proof.Machine

@[simp] theorem Dev.tearing_setCurd (d : Dev) (i : Nat) (c : Curd) (node : Nat) : (d.setCurd i c).tearing node = d.tearing node := rfl

/-- Where no teardown is under way, a completed operation counts at its curd and nowhere else. -/
theorem Dev.completeOp_counts (d : Dev) (node slot k code : Nat) (h : d.tearing node = false) :
    d.completeOp node slot k code = d.setCurd (curdKey node slot) ((d.curd (curdKey node slot)).complete k code) := by
  simp [Dev.completeOp, h]

/-- While one is, it counts nowhere. -/
theorem Dev.completeOp_torn (d : Dev) (node slot k code : Nat) (h : d.tearing node = true) : d.completeOp node slot k code = d := by
  simp [Dev.completeOp, h]

theorem Dev.offer_frame (d : Dev) (node : Nat) (p : Plane) (f : Flit) :
    d.offer node p f = { d with nis := (d.offer node p f).nis, mesh := (d.offer node p f).mesh } := by
  unfold Dev.offer; cases p <;> dsimp only <;> split <;> rfl

@[simp] theorem Dev.offer_curds (d : Dev) (node : Nat) (p : Plane) (f : Flit) : (d.offer node p f).curds = d.curds := by
  rw [Dev.offer_frame]

@[simp] theorem Dev.offer_coll (d : Dev) (node : Nat) (p : Plane) (f : Flit) : (d.offer node p f).coll = d.coll := by
  rw [Dev.offer_frame]

@[simp] theorem Dev.offer_ctxs (d : Dev) (node : Nat) (p : Plane) (f : Flit) : (d.offer node p f).ctxs = d.ctxs := by
  rw [Dev.offer_frame]

@[simp] theorem Dev.overLinks_curds (d : Dev) (u path : Nat) (cls : Bool) (seq tries : Nat) (f : Flit) :
    (d.overLinks u path cls seq tries f).curds = d.curds := by simp [Dev.overLinks]

@[simp] theorem Dev.overLinks_coll (d : Dev) (u path : Nat) (cls : Bool) (seq tries : Nat) (f : Flit) :
    (d.overLinks u path cls seq tries f).coll = d.coll := by simp [Dev.overLinks]

@[simp] theorem Dev.overLinks_ctxs (d : Dev) (u path : Nat) (cls : Bool) (seq tries : Nat) (f : Flit) :
    (d.overLinks u path cls seq tries f).ctxs = d.ctxs := by simp [Dev.overLinks]

@[simp] theorem Dev.toPort_curds (d : Dev) (u port : Nat) (up : Bool) (seq tries : Nat) (f : Flit) :
    (d.toPort u port up seq tries f).curds = d.curds := by simp [Dev.toPort]

@[simp] theorem Dev.toPort_coll (d : Dev) (u port : Nat) (up : Bool) (seq tries : Nat) (f : Flit) :
    (d.toPort u port up seq tries f).coll = d.coll := by simp [Dev.toPort]

@[simp] theorem Dev.toPort_ctxs (d : Dev) (u port : Nat) (up : Bool) (seq tries : Nat) (f : Flit) :
    (d.toPort u port up seq tries f).ctxs = d.ctxs := by simp [Dev.toPort]

@[simp] theorem Dev.collSend_curds (d : Dev) (u dst kind tree pos : Nat) (f : Flit) :
    (d.collSend u dst kind tree pos f).curds = d.curds := by
  unfold Dev.collSend; dsimp only; split <;> simp

@[simp] theorem Dev.collSend_ctxs (d : Dev) (u dst kind tree pos : Nat) (f : Flit) :
    (d.collSend u dst kind tree pos f).ctxs = d.ctxs := by
  unfold Dev.collSend; dsimp only; split <;> simp

/-- A packet sent is remembered at its unit until credited. -/
theorem Dev.collSend_coll (d : Dev) (u dst kind tree pos : Nat) (f : Flit) :
    (d.collSend u dst kind tree pos f).coll = (d.setUnit u { d.unit u with
      sent := (d.unit u).sent ++ [{ dst := dst, kind := kind, tree := tree, pos := pos, tries := 0, flit := f }] }).coll := by
  unfold Dev.collSend; dsimp only; split <;> simp

@[simp] theorem Dev.sendArrive_curds (d : Dev) (u : Nat) (o : CollOp) : (d.sendArrive u o).curds = d.curds := by
  unfold Dev.sendArrive; dsimp only; split <;> simp [Dev.toEngine]

@[simp] theorem Dev.sendArrive_ctxs (d : Dev) (u : Nat) (o : CollOp) : (d.sendArrive u o).ctxs = d.ctxs := by
  unfold Dev.sendArrive; dsimp only; split <;> simp [Dev.toEngine]

theorem Dev.unit_of_coll {d e : Dev} (h : d.coll = e.coll) (v : Nat) : d.unit v = e.unit v := by simp [Dev.unit, h]

/-- A unit's operations after an ARRIVE has been sent are as they were. -/
@[simp] theorem Dev.sendArrive_ops (d : Dev) (u : Nat) (o : CollOp) (v : Nat) : ((d.sendArrive u o).unit v).ops = (d.unit v).ops := by
  unfold Dev.sendArrive
  dsimp only
  split
  · rw [Dev.toEngine, Dev.unit_of_coll (Dev.collSend_coll ..)]
    by_cases h : v = u
    · subst h; simp
    · simp [Dev.unit, Dev.setUnit, smGet_set_other _ _ _ _ _ h]
  · rfl

@[simp] theorem Dev.tryArrive_curds (d : Dev) (u : Nat) (o : CollOp) : (d.tryArrive u o).curds = d.curds := by
  unfold Dev.tryArrive; dsimp only; split <;> simp [Dev.setOp]

@[simp] theorem Dev.tryArrive_ctxs (d : Dev) (u : Nat) (o : CollOp) : (d.tryArrive u o).ctxs = d.ctxs := by
  unfold Dev.tryArrive; dsimp only; split <;> simp [Dev.setOp]

/-- Neither curds nor contexts differ. -/
def Dev.sameRun (d e : Dev) : Prop := e.curds = d.curds ∧ e.ctxs = d.ctxs

theorem Dev.sameRun_trans {a b c : Dev} (h : a.sameRun b) (k : b.sameRun c) : a.sameRun c := ⟨k.1.trans h.1, k.2.trans h.2⟩

theorem Dev.sameRun_fold {α : Type} {f : Dev → α → Dev} (h : ∀ d a, Dev.sameRun d (f d a)) (l : List α) (d : Dev) :
    d.sameRun (l.foldl f d) := by
  induction l generalizing d with
  | nil => exact ⟨rfl, rfl⟩
  | cons a l ih => exact Dev.sameRun_trans (h d a) (ih _)

theorem Dev.sameRun_offer {d e : Dev} {u : Nat} {p : Plane} {f : Flit} (h : d.sameRun e) : d.sameRun (e.offer u p f) :=
  ⟨(Dev.offer_curds ..).trans h.1, (Dev.offer_ctxs ..).trans h.2⟩

/-- A result on its way down changes neither. -/
theorem Dev.sendDown_run (d : Dev) (unit tree slot pos : Nat) (data : List Word32) :
    d.sameRun (d.sendDown unit tree slot pos data) := by
  unfold Dev.sendDown
  dsimp only
  split
  · refine Dev.sameRun_offer (Dev.sameRun_trans (Dev.sameRun_fold (fun d p => ?_) _ d) (Dev.sameRun_fold (fun d n => ?_) _ _))
    · exact ⟨Dev.collSend_curds .., Dev.collSend_ctxs ..⟩
    · exact ⟨rfl, rfl⟩
  · refine Dev.sameRun_trans (Dev.sameRun_fold (fun d p => ?_) _ d) (Dev.sameRun_fold (fun d p => ?_) _ _)
    · exact ⟨Dev.collSend_curds .., Dev.collSend_ctxs ..⟩
    · exact ⟨Dev.collSend_curds .., Dev.collSend_ctxs ..⟩

theorem Dev.sendToRank_run (d : Dev) (unit tree slot pos rank : Nat) (data : List Word32) :
    d.sameRun (d.sendToRank unit tree slot pos rank data) := by
  unfold Dev.sendToRank
  dsimp only
  repeat' first | exact ⟨rfl, rfl⟩ | (refine ⟨?_, ?_⟩ <;> simp) | split

/-- A complete slot that moves on changes neither, nor do all of a chip's. -/
theorem Dev.slotStep_run (d : Dev) (unit slot : Nat) (s : CollSlot) : d.sameRun (d.slotStep unit slot s) := by
  unfold Dev.slotStep
  dsimp only
  repeat' first
    | exact ⟨rfl, rfl⟩
    | exact Dev.sameRun_trans ⟨rfl, rfl⟩ (Dev.sendToRank_run ..)
    | exact Dev.sameRun_trans ⟨rfl, rfl⟩ (Dev.sendDown_run ..)
    | exact Dev.sameRun_trans ⟨rfl, rfl⟩ ⟨Dev.collSend_curds .., Dev.collSend_ctxs ..⟩
    | split

theorem Dev.chipSteps_run (d : Dev) (h slot : Nat) : d.sameRun (d.chipSteps h slot) :=
  Dev.sameRun_fold (fun d _ => Dev.sameRun_fold (fun d s => Dev.slotStep_run d _ _ s) _ d) _ d

@[simp] theorem Dev.chipSteps_curds (d : Dev) (h slot : Nat) : (d.chipSteps h slot).curds = d.curds := (d.chipSteps_run h slot).1

@[simp] theorem Dev.chipSteps_ctx (d : Dev) (h slot i : Nat) : (d.chipSteps h slot).ctx i = d.ctx i := by
  simp [Dev.ctx, (d.chipSteps_run h slot).2]

/-- A COLL that reaches the reduction unit changes no curd. -/
@[simp] theorem Dev.collAccept_curds (d : Dev) (node slot k : Nat) (bs : List Byte) : (d.collAccept node slot k bs).curds = d.curds := by
  unfold Dev.collAccept
  extract_lets x
  split
  · extract_lets u y o
    split
    · exact Dev.raise_curds ..
    · split
      · split
        · rw [Dev.chipSteps_curds, Dev.tryArrive_curds]
          rfl
        · rfl
      · rw [Dev.tryArrive_curds]
        rfl
  · rfl

@[simp] theorem Dev.tryArrive_ctx (d : Dev) (u : Nat) (o : CollOp) (i : Nat) : (d.tryArrive u o).ctx i = d.ctx i := by simp [Dev.ctx]

theorem Dev.numberOp_ctx (d : Dev) (u ctx tmp : Nat) (x : CollDesc) :
    (d.numberOp u ctx tmp x).1.ctx ctx = { d.ctx ctx with collSeq := (d.ctx ctx).collSeq + 1 } := by simp [Dev.numberOp]

/-- Core 0's COLL, and any RANK-scope one, takes the next sequence of its context. -/
theorem Dev.collAccept_numbers (d : Dev) (node slot k ctx core : Nat) (bs : List Byte) (hx : d.ctxOf node = some ctx)
    (hc : d.coreOf node slot = some core) (hn : core = 0 ∨ (CollDesc.ofBytes bs).cores = false)
    (h : (d.ctx ctx).collSeq + (d.unit (d.rankUnit ctx)).unnumbered ctx < 2 ^ 32) :
    ((d.collAccept node slot k bs).ctx ctx).collSeq = (d.ctx ctx).collSeq + 1 := by
  unfold Dev.collAccept
  simp only [hx, hc]
  rw [if_neg (by rintro ⟨_, h1⟩; omega)]
  rw [if_pos hn]
  split <;> simp only [Dev.chipSteps_ctx, Dev.tryArrive_ctx, Dev.numberOp_ctx, Dev.setUnit_ctx]

/-- Any other core's CORES-scope one joins its rank's collective as a participant. -/
theorem Dev.collAccept_joins (d : Dev) (node slot k ctx core : Nat) (bs : List Byte) (hx : d.ctxOf node = some ctx)
    (hc : d.coreOf node slot = some core) (hn : core ≠ 0) (hs : (CollDesc.ofBytes bs).cores = true)
    (h : (d.ctx ctx).collSeq + (d.unit (d.rankUnit ctx)).unnumbered ctx < 2 ^ 32) :
    ∃ o ∈ ((d.collAccept node slot k bs).unit (d.rankUnit ctx)).ops, o.ctx = ctx ∧
      ∃ p ∈ o.parts, p.core = core ∧ p.node = node ∧ p.slot = slot ∧ p.k = k ∧ p.d = CollDesc.ofBytes bs := by
  unfold Dev.collAccept
  simp only [hx, hc]
  rw [if_neg (by rintro ⟨_, h1⟩; omega), if_neg (by rintro (h1 | h1); exacts [hn h1, by simp [hs] at h1])]
  have arrive : ∀ (e : Dev) (u : Nat) (o : CollOp), o ∈ (e.unit u).ops → o.ctx = ctx →
      (∃ p ∈ o.parts, p.core = core ∧ p.node = node ∧ p.slot = slot ∧ p.k = k ∧ p.d = CollDesc.ofBytes bs) →
      ∃ x ∈ ((e.tryArrive u o).unit u).ops, x.ctx = ctx ∧
        ∃ p ∈ x.parts, p.core = core ∧ p.node = node ∧ p.slot = slot ∧ p.k = k ∧ p.d = CollDesc.ofBytes bs := by
    intro e u o ho hctx hp
    unfold Dev.tryArrive
    dsimp only
    split
    · simp only [Dev.sendArrive_ops, Dev.setOp, Dev.unit_setUnit_same]
      exact ⟨_, List.mem_map.2 ⟨o, ho, if_pos ⟨rfl, rfl, rfl⟩⟩, hctx, hp⟩
    · exact ⟨o, ho, hctx, hp⟩
  have last : ∀ ps : List CollPart, ∀ q : CollPart, q ∈ ps ++ [q] := fun ps q => List.mem_append.2 (.inr (List.mem_singleton.2 rfl))
  split
  · rename_i o hf
    have hm := List.mem_of_find?_eq_some hf
    have hp := List.find?_some hf
    have hctx : o.ctx = ctx := by simp at hp; exact hp.1.1.1
    refine arrive _ _ _ ?_ hctx ⟨_, last _ _, rfl, rfl, rfl, rfl, rfl⟩
    rw [Dev.unit_setUnit_same]
    exact List.mem_map.2 ⟨o, hm, if_pos ⟨hctx, rfl, rfl⟩⟩
  · refine arrive _ _ _ ?_ rfl ⟨_, last _ _, rfl, rfl, rfl, rfl, rfl⟩
    rw [Dev.unit_setUnit_same]
    exact List.mem_append.2 (.inr (List.mem_singleton.2 rfl))

end Sys2Proof.Machine
end

