-- ==== Sys2Proof/Machine/Views.lean ====
section
/-! DEFINITION. What registers read as: the values that status registers take from the state (00_scope.md R8, 05_local_memory.md
R153, R170, 06_mesh.md R197, R198, 07_links.md R238-R240, 08_collectives.md R265, 09_fabric_manager.md R298, R299, 11_host_mailboxes.md R333-R355, 14_recovery.md R434, R435, 15_faults_cave.md R450, R458, R462, 16_bringup.md R465, R476,
17_rates_limits.md R495, R496, 18_module.md R513-R517). The table has no command that reads a register. -/

namespace Sys2Proof.Machine

/-- Fields laid out from bit 0 up, each with its width. -/
def packFields : List (Nat × Nat) → Nat
  | [] => 0
  | (w, v) :: r => v % 2 ^ w + 2 ^ w * packFields r

/-! ## Vats and the mesh -/

/-- LDM_ECC, IS_ECC, VS_ECC (R153). -/
def eccStat (e : Ecc) : Nat := packFields [(16, e.corrected), (16, e.uncorrected), (16, e.lastWord)]

/-- DMA_CH_STAT_n and DMA_BYTES_n (R170). -/
def chStat (c : DmaCh) : Nat := packFields [(7, c.queue.length), (1, boolNat (c.runs != [])), (8, c.lastCode)]
def dmaBytes (c : DmaCh) : Nat := c.bytes

/-- NI_MESH_STAT (R197). -/
def niMeshStat (n : NI) : Nat :=
  packFields [(7, n.allow), (1, 0), (1, boolNat n.starveA), (1, boolNat n.starveB), (6, 0), (16, n.marks), (16, n.refused)]

/-- NI_XSTAT (07_links.md R240). -/
def niXstat (n : NI) : Nat := packFields [(16, n.reissued), (16, n.timeouts), (16, n.duplicates), (16, n.heldCount)]

/-- MESH_RTR_STAT of a router (R197). -/
def Dev.routerStat (d : Dev) (p : Plane) (node : Nat) : Nat :=
  let k := meshKey p node
  packFields [(32, smGet 0 d.mesh.deflected k), (16, smGet 0 d.mesh.marked k), (1, boolNat (smGet false d.mesh.fenced k))]

/-- MESH_QUIESCE (R198). -/
def Dev.quiesceReg (d : Dev) : Nat :=
  packFields [(1, boolNat d.mesh.stopA), (1, boolNat d.mesh.stopB), (1, 0), (1, boolNat (d.planeEmpty .a)), (1, boolNat (d.planeEmpty .b))]

/-- Tags of a slot that are in flight, and those parked (09_fabric_manager.md R299). -/
def NI.inFlight (n : NI) (slot : Nat) : Bool :=
  n.tags.any (fun e => match e.2 with | some r => r.ctx % 16 == slot && r.st != .quarantine && r.st != .parked | none => false)

def NI.parkedCount (n : NI) : Nat :=
  (n.tags.filter (fun e => match e.2 with | some r => r.st == .parked | none => false)).length

/-- NI_DRAIN (R299). -/
def niDrain (n : NI) : Nat :=
  packFields [(16, n.stop.toNat), (16, sumOf ((List.range 16).map (fun s => if n.inFlight s then 0 else 2 ^ s))), (16, hold16 n.parkedCount)]

/-- VAT_BCAST, VAT_BCAST_SLOTS and BCAST_MAP_s_w (R476). -/
def bcastReg (b : Bcast) : Nat :=
  let slots := (List.range 68).filter b.lacks
  packFields [(1, boolNat (slots != [])), (1, boolNat b.armed), (9, b.nchunksM1), (5, 0), (16, b.crcFail), (7, slots.length)]

def bcastSlots (b : Bcast) : Nat := sumOf (((List.range 68).filter b.lacks).map (fun s => 2 ^ s))

def bcastMap (b : Bcast) (slot w : Nat) : Nat :=
  sumOf ((List.range 64).map (fun i => if smGet false b.got (512 * slot + 64 * w + i) then 2 ^ i else 0))

/-! ## Ports and collectives -/

/-- PORT_STAT_p, PORT_ERR_p, PORT_BUF_p (07_links.md R238, R239). -/
def portStat (x : Port) : Nat :=
  packFields [(2, x.st), (3, x.txW), (3, x.rxW), (5, laneMask x.txLanes), (5, laneMask x.rxLanes), (14, x.peerChip), (4, x.peerPort), (1, boolNat x.peerValid)]

def portErr (x : Port) : Nat := packFields [(16, x.corrected), (16, x.uncorrectable), (16, x.frames), (16, x.packets)]

def portBuf (x : Port) : Nat :=
  let i (c : Nat) : Nat := (x.inb.filter (fun e => e.1 == c)).length
  let o (c : Nat) : Nat := (x.dep.filter (fun e => e.cls == c)).length
  packFields [(7, i 0), (7, i 1), (5, i 2), (5, o 0), (5, o 1), (3, o 2)]

/-- PORT_PKTS_p (07_links.md R240). -/
def portPkts (x : Port) : Nat := packFields [(64, x.pkts)]

/-- PORT_COLL_p (08_collectives.md R265). -/
def portColl (x : Port) : Nat := packFields [(32, x.combined), (16, x.resends), (16, x.collDup)]

/-! ## The island -/

/-- FM_STAT (09_fabric_manager.md R298). -/
def fmStat (x : FM) : Nat := packFields [(3, x.role), (32, x.epoch), (14, x.mgr), (1, boolNat x.placed)]

/-- RRC_STAT, RRC_HANG, RRC_SPARE (14_recovery.md R434, R435). -/
def Dev.rrcStat (d : Dev) : Nat :=
  let r := d.rrc
  packFields [(3, r.lastLevel), (8, r.lastCause), (1, boolNat r.escalated), (6, min 32 d.recentResets), (1, boolNat r.oos),
    (1, boolNat r.primaryB), (1, boolNat r.standbyOk), (11, 0), (16, r.failovers)]

def rrcSpare (r : Rrc) : Nat := packFields [(16, r.passes), (8, r.badCurds), (8, r.badVats), (8, r.badLanes), (1, boolNat r.mgmtBad)]

/-- FLT_STAT (15_faults_cave.md R450). -/
def Dev.fltStat (d : Dev) : Nat :=
  packFields [(11, d.flt.list.length), (5, 0), (11, d.flt.openCount), (1, boolNat d.faultState), (1, boolNat d.flt.overflow), (3, 0),
    (32, d.flt.recoveries)]

/-- EVR_STAT (R458). -/
def evrStat (c : Cave) : Nat := packFields [(32, c.next), (13, if c.store = 2 then 0 else c.buf.length), (2, c.store), (1, 0), (16, c.lost)]

/-- CV_STAT of a unit (R462). -/
def cvStat (x : CvUnit) : Nat := packFields [(1, boolNat x.fenced), (1, boolNat x.selftestOk), (1, boolNat x.borrowed), (10, x.streams.length)]

/-- BOOT_STAGE (16_bringup.md R465): elapsed_ms counts until S8 or a halt. -/
def Dev.bootStage (d : Dev) : Nat :=
  let b := d.boot
  let ms := if b.running && b.stage < 8 && !b.failed then msOf (d.timer.toNat - b.startAt) else b.elapsed
  packFields [(4, b.stage), (2, b.kind), (1, boolNat b.failed), (1, 0), (8, b.stepNo), (8, b.error), (8, b.progress), (32, ms)]

/-- BOOT_REQ (R464). -/
def bootReq (b : Boot) : Nat := packFields [(1, boolNat b.memTest), (1, boolNat b.fullTrain), (1, boolNat b.hold)]

/-- PWR_STAT (17_rates_limits.md R495): while a confidential partition exists, power is in 25 W steps of the 100 ms average. -/
def Dev.pwrStat (d : Dev) : Nat :=
  let p := d.pwr
  packFields [(10, p.coreMv), (12, p.stepMsps), (11, p.capW), (4, p.limits), (1, boolNat (p.coreMv != 0)), (10, hottest p.tj / 10),
    (16, if d.anyRind then p.power100 / 25 * 25 else p.powerW)]

/-! ## Windows -/

/-- HOST_ID (11_host_mailboxes.md R334). -/
def Dev.hostId (d : Dev) (f : Nat) : Nat :=
  packFields [(7, f), (1, 0), (6, f - 1), (2, 0), (14, if d.fm.placed then d.fm.chip else 0), (1, boolNat d.fm.placed)]

/-- MBX_STATE (R350). -/
def Dev.mbxState (d : Dev) (f chan : Nat) (sec : Bool) : Nat :=
  packFields [(3, (d.mbx f (mbxKey chan sec)).st), (1, boolNat (d.recvUp sec)), (1, boolNat sec)]

/-- HDMA_STAT (R338). -/
def hdmaStat (x : Func) : Nat := packFields [(12, x.head), (1, boolNat x.enable), (3, 0), (8, x.lastCode)]

/-- Eight aligned bytes of a channel's block; MBX_SEND reads as 0 (R8, R345). -/
def Dev.channelReg (d : Dev) (f chan : Nat) (sec : Bool) (o : Nat) : Nat :=
  let m := d.mbx f (mbxKey chan sec)
  if o < 0x100 then leAt (padTo 256 m.req) o 8
  else if o < 0x200 then leAt (padTo 256 m.rsp) (o - 0x100) 8
  else
    match o with
    | 0x200 => m.ack.toNat * 2 ^ 32
    | 0x208 => d.mbxState f chan sec
    | 0x210 => m.raise + m.pend.toNat * 2 ^ 32
    | 0x218 => m.mask.toNat
    | _ => 0

/-- Eight aligned bytes of a function's control window (R333). -/
def Dev.controlReg (d : Dev) (f off : Nat) : Nat :=
  let x := d.func f
  if off < 0x3000 then
    (match channelAt f off with
     | some (chan, sec, o) => d.channelReg f chan sec o
     | none => 0)
  else
    match off with
    | 0x3000 => d.hostId f
    | 0x3008 => d.timer.toNat
    | 0x3010 => d.bootStage
    | 0x3018 => x.winErr
    | 0x4000 => x.ring
    | 0x4008 => x.tail
    | 0x4010 => hdmaStat x
    | 0x4018 => boolNat x.enable
    | 0x5000 => x.winWord f
    | 0xF800 => x.pba
    | n => if 0xF000 ≤ n ∧ n < 0xF200 then (smGet 0 x.msix ((n - 0xF000) / 8)).toNat else 0

/-! ## The side-band and the contacts (18_module.md R510-R517) -/

/-- The cave record of a sequence, in the buffer or the store. -/
def Cave.find (c : Cave) (seq : Nat) : Option CaveRec :=
  ((if c.store = 2 then [] else c.kept ++ c.circ) ++ c.buf).find? (fun r => r.seq == seq)

/-- SB_CAVE_SEL (R516). -/
def Dev.sbCaveSel (d : Dev) : Nat :=
  packFields [(32, d.sb.caveSel), (1, boolNat (d.cave.find d.sb.caveSel).isSome), (1, boolNat (d.cave.store == 2))]

/-- SB_CAVE_DATA: 64 bytes, all ones while no slot holds the record. -/
def Dev.sbCaveData (d : Dev) : List Byte :=
  match d.cave.find d.sb.caveSel with
  | some r => r.bytes
  | none => List.replicate 64 0xFF

/-- SB_FW_CTL (R517). -/
def sbFwCtl (x : SideBand) : Nat :=
  packFields [(2, x.fwComp), (1, boolNat x.fwOpen), (1, 0), (24, x.fwLength), (8, x.fwResult), (1, boolNat x.fwBusy)]

/-- Eight aligned bytes of the side-band's space (R513). -/
def Dev.sidebandReg (d : Dev) (addr : Nat) : Nat :=
  match addr with
  | 0x0000 => d.sec.fuses.serial
  | 0x0008 => 2 * boolNat d.sb.ibiEn
  | 0x0010 => d.sb.alert
  | 0x0018 => d.sb.alertMask
  | 0x0020 => d.sbCaveSel
  | 0x0028 => sbFwCtl d.sb
  | 0x0100 => bootReq d.boot
  | 0x0108 => d.bootStage
  | 0x0110 => d.pwrStat
  | 0x0118 => d.pwr.steps % 2 ^ 64
  | 0x0120 => d.timer.toNat
  | 0x0128 => d.rrcStat
  | 0x0130 => d.fltStat
  | 0x0138 => evrStat d.cave
  | n => if 0x40 ≤ n ∧ n < 0x80 then leAt d.sbCaveData (n - 0x40) 8 else 0

/-- The open-drain contacts that are low: ERR_N, ALERT_N, THERMTRIP_N, PWRCYC_REQ_N (R510). -/
def Dev.errLow (d : Dev) : Bool := d.sbUp && (d.faultState || d.cave.storeFailed)
def Dev.alertLow (d : Dev) : Bool := d.sbUp && clearBits d.sb.alert d.sb.alertMask != 0

/-- IDCODE (R518). -/
def idcode : Nat := packFields [(1, 1), (11, Config.jep106.toNat), (16, 0x0D09), (4, Config.dieRevision.toNat)]

end Sys2Proof.Machine
end

