-- ==== Sys2Proof/Tests/Slice0.lean ====
section
/-! SUPPORT. The model's own tests: a term that each check of well-formedness refuses, words written out from the formats of
03_curd_core.md, one step on a small state for a few commands, and, for each statement, a state that meets its hypotheses. -/

namespace Sys2Proof.Tests

open Sys2Proof.Machine

/-! ## Each check of well-formedness refuses -/

theorem test_wf_node : Instr.wf (.alu 288 0) = false ∧ Instr.wf (.alu 287 67) = true := by decide
theorem test_wf_slot : Instr.wf (.alu 0 68) = false := by decide
theorem test_wf_receiver : Instr.wf (.rd 0x140) = false ∧ Instr.wf (.rd 0x13F) = true := by decide
theorem test_wf_port : Instr.wf (.portUp 16 0 0) = false := by decide
theorem test_wf_lane : Instr.wf (.laneFailed 0 36) = false := by decide
theorem test_wf_part : Instr.wf (.timeSliceEnd 64) = false := by decide
theorem test_wf_ctx : Instr.wf (.teardownDrained 1024) = false := by decide
theorem test_wf_ctx_slot : Instr.wf (.drain 0 0 16) = false := by decide
theorem test_wf_func : Instr.wf (.functionLevelReset 65) = false ∧ Instr.wf (.functionLevelReset 64) = true := by decide
theorem test_wf_box : Instr.wf (.mbxSend 1 2 false 0) = false ∧ Instr.wf (.mbxSend 0 7 false 0) = true ∧ Instr.wf (.mbxSend 0 8 false 0) = false := by decide
theorem test_wf_engine : Instr.wf (.hdmaComplete 8) = false := by decide
theorem test_wf_edge : Instr.wf (.edgeReturn .a 0x153) = false ∧ Instr.wf (.edgeReturn .a 0x11F) = false ∧ Instr.wf (.edgeReturn .b 0x157) = true := by decide
theorem test_wf_src : Instr.wf (.faultMessage 0x153) = false := by decide
theorem test_wf_dma_chan : Instr.wf (.dmaSegment 0 4) = false := by decide
theorem test_wf_mem_chan : Instr.wf (.bandMove 32) = false := by decide
theorem test_wf_cv : Instr.wf (.cvFailed 5) = false := by decide
theorem test_wf_tree_unit : Instr.wf (.collUp 0x150) = false ∧ Instr.wf (.collUp 0x120) = false ∧ Instr.wf (.collUp 0x14F) = true := by decide
theorem test_wf_engine_unit : Instr.wf (.engineResetTimeout 0x10000) = false := by decide
theorem test_wf_tag : Instr.wf (.tagQuarantineEnd 0 1152) = false := by decide
theorem test_wf_mgt_tag : Instr.wf (.mgtr ⟨65536, 0⟩) = false := by decide
theorem test_wf_chip : Instr.wf (.takeover 0 16384) = false := by decide
theorem test_wf_port_state : Instr.wf (.portEvent ⟨0, 0⟩ 0 4 0) = false := by decide
theorem test_wf_dyn_addr : Instr.wf (.dynamicAddressAssignment .entdaa 128) = false := by decide
theorem test_wf_window : Instr.wf (.hostWinRead 0 (2 ^ 39) 4) = false := by decide
theorem test_wf_access_len : Instr.wf (.hostWinRead 0 0 4097) = false := by decide
theorem test_wf_message : Instr.wf (.request ⟨0, 0⟩ 0 (List.replicate 257 0)) = false := by rw [Instr.wf, msgOk, List.length_replicate]; decide
theorem test_wf_codeword : Instr.wf (.codeword 0 { lane := 36, first := 0, cseq := 0, stream := [], result := .good }) = false ∧
    Instr.wf (.codeword 0 { lane := 0, first := 0, cseq := 4096, stream := [], result := .good }) = false := by decide
theorem test_wf_neighbour : Instr.wf (.probe 0 { port := 0, serial := 0, peerPort := 16, part := 0, present := 0 }) = false := by decide
theorem test_wf_abort : Instr.wf (.sliceAbort 0 { sliceId := 0, gen := 4096, origin := 0, cause := 0 }) = false := by decide
theorem test_wf_install : Instr.wf (.install { epoch := 0, sliceId := 0, slot := 16, detours := [], routeCfg := 0, slice := 0, exc := [], trees := [], groups := [], homes := [] }) = false := by decide
theorem test_wf_chunk : Instr.wf (.firmwareChunk 0 { n := 512, crc := 0, slot := 0, unicast := false, data := [] }) = false := by decide
theorem test_wf_asker : Instr.wf (.rdr 0x152) = false ∧ Instr.wf (.ack 0x151) = true ∧ Instr.wf (.ondieTimeout 0x120 0) = false := by decide
theorem test_wf_register : Instr.wf (.registerWrite (.tree 0x140 1024) 0) = false ∧ Instr.wf (.registerWrite (.tree 0x150 0) 0) = false ∧ Instr.wf (.registerWrite (.control 0 0x10000 8) 0) = false ∧
    Instr.wf (.registerWrite (.control 0 0 2) 0) = false ∧ Instr.wf (.registerWrite (.detour 0 512) 0) = false ∧ Instr.wf (.registerWrite (.group .a 0 0 5) 0) = false := by decide
theorem test_wf_sample : Instr.wf (.thermalTrip [0, 0, 0]) = false ∧ Instr.wf (.thermalTrip [0, 0, 0, 0]) = true := by decide

/-! ## Words, field by field from the formats of R81 and the tables of R82-R110 -/

theorem test_decode_alu : decodeCurd (0x01 * 2 ^ 26 + 31 * 2 ^ 21 + 2 * 2 ^ 16 + 1 * 2 ^ 11 + 0x018) = some (.alu .div 31 2 1) := by decide
theorem test_decode_slti : decodeCurd (0x09 * 2 ^ 26 + 5 * 2 ^ 21 + 6 * 2 ^ 16 + 0xFFFF) = some (.imm .slti 5 6 0xFFFF) := by decide
theorem test_decode_branch : decodeCurd (0x15 * 2 ^ 26 + 5 * 2 ^ 21 + 6 * 2 ^ 16 + 2) = some (.branch .geu 5 6 2) := by decide
theorem test_decode_ldd : decodeCurd (0x23 * 2 ^ 26 + 5 * 2 ^ 21 + 6 * 2 ^ 16 + 8) = some (.load .d 5 6 8) := by decide
theorem test_decode_reserved : decodeCurd (0x0A * 2 ^ 26) = none ∧ decodeCurd (0x01 * 2 ^ 26 + 0x00E) = none := by decide
theorem test_table_word : decodeTableWord 32 0 = none := by decide

/-! ## The cryptographic functions (13_security.md R381, R398, 07_links.md R234): the first vectors of their standards -/

/-- The empty message of FIPS 202's SHAKE256. -/
theorem test_shake256_empty : (leBytes 32 (shake256 []).toNat).take 8 = [0x46, 0xB9, 0xDD, 0x2B, 0x0B, 0xA8, 0x8D, 0x13] := by decide +kernel
/-- Test case 14 of the GCM specification: key, nonce and a block of text all zero. -/
theorem test_gcm_zero_block : gcmSeal 0 (List.replicate 12 0) [] (List.replicate 16 0) =
    [0xCE, 0xA7, 0x40, 0x3D, 0x4D, 0x60, 0x6B, 0x6E, 0x07, 0x4E, 0xC5, 0xD3, 0xBA, 0xF3, 0x9D, 0x18] ++
    [0xD0, 0xD1, 0xC8, 0xA7, 0x99, 0x99, 0x6B, 0xF0, 0x26, 0x5B, 0x98, 0xB5, 0xD4, 0x8A, 0xB9, 0x19] := by unfold gcmSeal; decide +kernel

/-! ## A curd on a small state -/

/-- The module with the rails up, started, partition 0 of four vats READY and context 0 live and resident on it, one page of vat store
reserved at node 0. -/
def home : Dev :=
  let d := State.reset.dev
  { d with
    pwr := { d.pwr with coreMv := 750, islandUp := true, standby := true, main := true, holdUp := true, ioUp := true },
    boot := { d.boot with stage := 8, running := false },
    parts := [(0, { Part.init with st := 1, resident := some 0 })],
    ctxs := [(0, { Ctx.init with live := true, sliceId := 1, segs := [(0, { Seg.init with valid := true, rd := true, wr := true, pages := 1 })] })],
    nis := [(0, { NI.init with slices := [(0, 1 + 2 ^ 160)] })],
    vats := smSet Vat.init d.vats 0 { d.vat 0 with reserve := 1 },
    host := { d.host with recvUp := true, recvUpSec := true, linkUp := true, perst := true } }

def at_ (d : Dev) : State := { pending := [], dev := d }

/-- A curd at its node 0, slot 0. -/
def rig (c : Curd) : State := at_ (home.setCurd (curdKey 0 0) c)

/-- That curd running, with the word `w` at pc 0 and the registers `g`. -/
def running (w : Nat) (g : SMap Word) : Curd :=
  { Curd.init with st := .run, is := memWrite [] 0 (leBytes 4 w), r := { CurdRegs.init with g := g } }

/-- The module once the curd has fetched `i` and waited for its operands. -/
def fetched (c : Curd) (i : CurdInstr) : Dev :=
  let e := ((rig c).dev.fetch 0 0).1
  e.setCurd (curdKey 0 0) ((e.curd (curdKey 0 0)).stalled i)

def issuesAt (c : Curd) (i : CurdInstr) : Bool :=
  let s := rig c
  (s.dev.curd (curdKey 0 0)).issuing && s.dev.pwr.coreMv != 0 && (match (s.dev.fetch 0 0).2 with | .ok j => decide (j = i) | _ => false) &&
    !((fetched c i).curd (curdKey 0 0)).regHolds i

theorem issues_of_issuesAt (c : Curd) (i : CurdInstr) (h : issuesAt c i = true) : Issues (rig c) 0 0 i (fetched c i) := by
  simp only [issuesAt, Bool.and_eq_true, bne_iff_ne, Bool.not_eq_true'] at h
  obtain ⟨⟨⟨h1, h2⟩, h3⟩, h4⟩ := h
  refine ⟨h1, h2, ⟨((rig c).dev.fetch 0 0).1, ?_, rfl⟩, h4⟩
  cases hf : (rig c).dev.fetch 0 0 with
  | mk d r =>
    rw [hf] at h3
    cases r with
    | ok j => simp only [decide_eq_true_eq] at h3; rw [h3]
    | error n => simp at h3

/-- The word of `i` at the pc of the running curd reads as `i`. -/
def issuesWord (i : CurdInstr) : Bool := issuesAt (running (encodeCurd i) []) i

theorem test_issues_scalar : ∀ i ∈ [CurdInstr.alu .div 3 1 2, .imm .addi 31 1 0xFFFF, .imm .andi 0 1 1, .imm .ori 1 1 1, .imm .xori 1 1 1, .imm .slti 1 1 1],
    issuesWord i = true := by decide
theorem test_issues_moves : ∀ i ∈ [CurdInstr.shi .left 3 1 63, .shi .right 3 1 0, .shi .arith 3 1 1, .shi .rotate 3 1 1, .movz 1 3 0xFFFF, .movk 1 0 1],
    issuesWord i = true := by decide
theorem test_issues_branches : ∀ i ∈ [CurdInstr.branch .eq 1 2 0xFFFE, .branch .ne 1 2 1, .branch .lt 1 2 1, .branch .ge 1 2 1, .branch .ltu 1 2 1, .branch .geu 1 2 1, .jal 1 0xFFF, .jalr 1 2 3],
    issuesWord i = true := by decide
theorem test_issues_control : ∀ i ∈ [CurdInstr.csrr 1 0, .csrw 1 0x10, .csrw 1 0x1F, .csrw 1 0x20, .csrw 1 0x21, .csrw 1 0x0F, .csrw 1 0x22, .cadd 1 15, .nop, .brk, .rand 1, .halt],
    issuesWord i = true := by decide
theorem test_issues_wait : ∀ i ∈ [CurdInstr.wait 4 5 3, .signal 1 2 3, .fence 1 2, .cult 1 2 3, .dma 1 2 3, .coll 1 2], issuesWord i = true := by decide
theorem test_issues_vector : ∀ i ∈ [CurdInstr.vop .fma false 1 2 3 0, .vop .iadd true 1 2 0 4, .vred .fsum 1 2, .vsplat 1 2, .vextract 1 2 3, .vpermute 1 2 3,
    .vcvt true .bf16 false true 1 2 0 3, .vcvt false .e4m3 true true 1 2 1 3], issuesWord i = true := by decide
theorem test_issues_memory : ∀ i ∈ [CurdInstr.load .b 1 2 3, .load .wu 1 2 4, .load .d 1 2 8, .store .b 1 2 3, .store .d 1 2 8, .vld 1 2 0x80, .vst 1 2 0x80, .amo .add true 1 2 3, .amo .cas false 1 2 3, .iwr 1 2],
    issuesWord i = true := by decide
theorem test_issues_tensor : ∀ i ∈ [CurdInstr.tmma 1 .bf16 2 3 true false false, .tld 1 2, .tst 1 .fp32 2 false false false false, .topClear 1 0, .topCopy 1 2, .topAdd 1 2],
    issuesWord i = true := by decide
theorem test_issues_far : ∀ i ∈ [CurdInstr.far .get 1 2 3 true 127, .far .put 1 2 3 false 0, .far .putv 1 2 3 false 7, .far .add 1 2 3 false 7, .far .fadd 1 2 3 false 3],
    issuesWord i = true := by decide

/-- ADD g3, g1, g2 with 2^64 - 1 and 2 wraps to 1, leaves the pc at 1 and another register as it was. -/
theorem test_add_wraps : (match exec (.alu 0 0) (rig (running 0x04611000 [(1, BitVec.allOnes 64), (2, 2)])) with
    | .next t => decide ((regsOf t.dev 0 0).getG 3 = 1 ∧ (regsOf t.dev 0 0).pc = 1 ∧ (regsOf t.dev 0 0).getG 2 = 2)
    | _ => false) = true := by decide
/-- The row of another major leaves the curd as it is. -/
theorem test_other_row : (match exec (.addi 0 0) (rig (running 0x04611000 [])) with
    | .next t => decide ((regsOf t.dev 0 0).pc = 0)
    | _ => false) = true := by decide
/-- HALT leaves the curd HALTED. -/
theorem test_halt : (match exec (.halt 0 0) (rig (running 0x68000001 [])) with
    | .next t => decide ((t.dev.curd 0).st = .halted)
    | _ => false) = true := by decide
/-- A word that is no instruction stops the curd with 0x01. -/
theorem test_illegal : (match exec (.alu 0 0) (rig (running 0 [])) with
    | .next t => decide ((t.dev.curd 0).st = .faulted ∧ (regsOf t.dev 0 0).fault = 1)
    | _ => false) = true := by decide
/-- LDH from an odd address stops the curd with 0x03. -/
theorem test_misaligned : (match exec (.ldh 0 0) (rig (running (encodeCurd (.load .h 1 2 1)) [])) with
    | .next t => decide ((t.dev.curd 0).st = .faulted ∧ (regsOf t.dev 0 0).fault.toNat % 256 = 3)
    | _ => false) = true := by decide
/-- STW then a read of the word gives its bytes, least significant first. -/
theorem test_store_word : (match exec (.stw 0 0) (rig (running (encodeCurd (.store .w 1 2 4)) [(1, 0x11223344)])) with
    | .next t => decide (memRead (t.dev.curd 0).ldm 4 4 = [0x44, 0x33, 0x22, 0x11] ∧ memRead (t.dev.curd 0).ldm 8 1 = [0])
    | _ => false) = true := by decide

/-- What a curd's statement asks beside its issue, of the state, the module as the fetch leaves it and the curd. -/
def rigged (i : CurdInstr) (also : Dev → Curd → Bool) : Prop :=
  ∃ s d, Issues s 0 0 i d ∧ also d (d.curd (curdKey 0 0)) = true

theorem rigged_of (i : CurdInstr) (g : SMap Word) (also : Dev → Curd → Bool) (h : issuesAt (running (encodeCurd i) g) i = true)
    (ha : (let d := fetched (running (encodeCurd i) g) i; also d (d.curd (curdKey 0 0))) = true) : rigged i also :=
  ⟨_, _, issues_of_issuesAt _ _ h, ha⟩

/-! ## States that meet the hypotheses of the statements about a curd -/

theorem test_hyp_load_local : rigged (.load .d 1 2 8) (fun d c => !c.ownPending && !c.storeHolds 8 8 && !c.tensorHolds 8 8 false && (d.ldmRead 0 0 8 8).2.isSome) :=
  rigged_of _ [] _ (by decide) (by decide)
theorem test_hyp_load_local_top : rigged (.load .d 1 2 0) (fun d c => (c.r.getG 2).toNat == 0xFFF8 && !c.storeHolds 0xFFF8 8 && (d.ldmRead 0 0 0xFFF8 8).2.isSome) :=
  rigged_of _ [(2, 0xFFF8)] _ (by decide) (by decide)
theorem test_hyp_load_store_top : rigged (.load .d 1 2 0) (fun d c => (c.r.getG 2).toNat + 8 == 0x01000000 + 4096 * (d.vat 0).reserve && !c.storeHolds 0x01000FF8 8 && !c.tensorHolds 0x01000FF8 8 false) :=
  rigged_of _ [(2, 0x01000FF8)] _ (by decide) (by decide)
theorem test_hyp_store_posted : rigged (.store .d 1 2 0) (fun d c => (c.r.getG 2).toNat + 8 == 0x01000000 + 4096 * (d.vat 0).reserve && !c.tensorHolds 0x01000FF8 8 true && c.postedStores < 8) :=
  rigged_of _ [(2, 0x01000FF8)] _ (by decide) (by decide)
theorem test_hyp_own_pending : ∃ s d, Issues s 0 0 (.load .b 1 2 8) d ∧ (d.curd (curdKey 0 0)).ownPending = true ∧ (d.curd (curdKey 0 0)).storeHolds 8 1 = false :=
  ⟨_, _, issues_of_issuesAt { running (encodeCurd (.load .b 1 2 8)) [] with stores := [{ ord := 0, addr := 0x01000000, data := [0], place := .vs 0 0, sent := false, resp := none }] } _ (by decide), by decide⟩
theorem test_hyp_store_waits : ∃ s d, Issues s 0 0 (.store .b 1 2 0) d ∧ 8 ≤ (d.curd (curdKey 0 0)).postedStores :=
  ⟨_, _, issues_of_issuesAt { running (encodeCurd (.store .b 1 2 0)) [(2, 0x01000000)] with stores := List.replicate 8 { ord := 0, addr := 0x01000000, data := [0], place := .vs 0 0, sent := false, resp := none } } _ (by decide), by decide⟩
theorem test_hyp_wide : rigged (.iwr 1 2) (fun d c => !c.tensorHolds 0x80 128 true && (d.ldmRead 0 0 0x80 128).2.isSome) :=
  rigged_of _ [(1, 0x80), (2, 0x100)] _ (by decide) (by decide)
theorem test_hyp_amo : rigged (.amo .add true 1 2 3) (fun d c => !c.storeHolds 0x40 8 && !c.tensorHolds 0x40 8 true && (d.ldmRead 0 0 0x40 8).2.isSome) :=
  rigged_of _ [(2, 0x40)] _ (by decide) (by decide)
theorem test_hyp_wait_blocks : rigged (.wait 4 5 3) (fun _ c => smGet 0 c.r.kcode 3 == 0 && decide ((smGet 0 c.r.kval 3 - (BitVec.ofNat 32 (c.r.getG 5).toNat)).toInt < 0)) :=
  rigged_of _ [(5, 1)] _ (by decide) (by decide)
theorem test_hyp_wait_code : ∃ s d, Issues s 0 0 (.wait 4 5 3) d ∧ smGet 0 (d.curd (curdKey 0 0)).r.kcode 3 ≠ 0 :=
  ⟨_, _, issues_of_issuesAt { running (encodeCurd (.wait 4 5 3)) [] with r := { CurdRegs.init with kcode := [(3, 9)] } } _ (by decide), by decide⟩
theorem test_hyp_break : ∃ s d, Issues s 0 0 .brk d ∧ bit d.sec.debugScope 1 = false := ⟨_, _, issues_of_issuesAt (running (encodeCurd .brk) []) _ (by decide), by decide⟩
theorem test_hyp_memory_holds : (home.curd 0).ldmErr = [] ∧ (home.curd 0).ldmFlip.arm = false := by decide
theorem test_hyp_tensor_joins : rigged (.tld 1 2) (fun d c => d.bufferOk 0 0 0x40 1024 && d.resolverFree 0 0x40 1024 && !c.storeHolds 0x40 1024 && c.tq.length < 3) :=
  rigged_of _ [(2, 0x40)] _ (by decide) (by decide)
theorem test_hyp_tensor_full : ∃ s d, Issues s 0 0 (.topClear 1 0) d ∧ 3 ≤ (d.curd (curdKey 0 0)).tq.length :=
  ⟨_, _, issues_of_issuesAt { running (encodeCurd (.topClear 1 0)) [] with tq := List.replicate 3 { op := .clear 0, pc := 0 } } _ (by decide), by decide⟩
theorem test_hyp_tensor_runs : ∃ s : State, ∃ pc rest, (s.dev.curd (curdKey 0 0)).tq = { op := .tld 1 0x40, pc := pc } :: rest ∧
    (match (s.dev.localRead 0 0 0x40 1024).2 with | .ok _ => true | _ => false) = true :=
  ⟨rig { Curd.init with tq := [{ op := .tld 1 0x40, pc := 0 }] }, 0, [], by decide, by decide⟩
def homeCore (d : Dev) (ga : Nat) : Bool := match d.target 0 0 0 ga with | .bad _ => false | _ => true
theorem test_hyp_far : rigged (.far .get 1 2 3 true 7) (fun d c => (d.ni 0).freeTag (d.farTagBase 0 0) 16 == some 0 && homeCore d (2 ^ 43) && d.bufferOk 0 0 0x40 8 &&
    !c.storeHolds 0x40 8 && !c.tensorHolds 0x40 8 true) := rigged_of _ [(1, 2 ^ 43), (2, 0x40)] _ (by decide) (by decide +kernel)
theorem test_hyp_signal : rigged (.signal 1 2 3) (fun d _ => (d.ni 0).freeTag (d.farTagBase 0 0) 16 == some 0 && homeCore d (2 ^ 43)) := rigged_of _ [(1, 2 ^ 43)] _ (by decide) (by decide +kernel)
theorem test_hyp_far_refused : rigged (.far .putv 1 2 3 true 7) (fun d _ => decide (128 < 121 % 128 + (7 + 1)) && !d.tearing 0) := rigged_of _ [(1, 121)] _ (by decide) (by decide)
theorem test_hyp_dma : rigged (.dma 1 2 3) (fun d c => d.descOk 0 0 0 64 && c.storesDone && (d.dmaCh 0 3).queue.length < 64 && (match (d.localRead 0 0 0 64).2 with | .ok _ => true | _ => false)) :=
  rigged_of _ [] _ (by decide) (by decide)
theorem test_hyp_coll : rigged (.coll 1 2) (fun d c => d.descOk 0 0 0 64 && c.storesDone && c.colls < 4 && d.ctxOf 0 == some 0 && d.coreOf 0 0 == some 0) :=
  rigged_of _ [] _ (by decide) (by decide)
theorem test_hyp_load_answer : ∃ (c : Curd) (l : PLoad), c.loads[0]? = some l ∧ l.place.known = true ∧ c.inOrder l.ord l.addr = true ∧ home.peerFenced l.addr l.place = false ∧ l.byLine = false ∧
    ((home.setCurd 0 c).loadAnswer 0 l).2.isSome = true :=
  ⟨{ Curd.init with loads := [{ ord := 0, pc := 0, addr := 0x01000000, kind := .scalar 1 8 false, place := .vs 0 0, sent := false, resp := none }] }, _, rfl, by decide, by decide, by decide, by decide, by decide⟩
theorem test_hyp_flip : home.flipOpen .ldm 0 0 = false ∧ ({ home with boot := { home.boot with memTest := true }, sec := { home.sec with debugScope := 3 } } : Dev).flipOpen .ldm 0 0 = true := by decide

/-! ## States that meet the hypotheses of the statements about the other units -/

def desc0 : DmaDesc := { slot := 0, k := 1, src := 2 ^ 43, dst := 0, len := 128, row := 0, srcStride := 0, dstStride := 0, ctl := 0, cvSeq := 0, cvOut := 0, done := 0, rsv := 0 }
def run0 : DmaRun := { id := 0, d := desc0, off := 128, rd := 0, wr := 0, segs := [], landed := 128, code := 0, stopped := false }

theorem test_hyp_dma_start : ∃ s : State, (s.dev.dmaCh 0 3).queue = [desc0] ∧ s.dev.mayStart 0 = true ∧ (s.dev.dmaCh 0 3).runs = [] :=
  ⟨at_ (home.setDmaCh 0 3 { DmaCh.init with queue := [desc0] }), by decide⟩
theorem test_hyp_dma_segment : ∃ (s : State) (r : DmaRun), (s.dev.dmaCh 0 0).runs = [r] ∧ r.stopped = false ∧ r.off = 0 ∧ r.d.srcLocal = false ∧ 0 < r.d.len ∧ r.d.len ≤ 16384 ∧
    pieceLen r.d (r.d.srcAt 0) 0 r.d.len = r.d.len ∧ s.dev.mayStart 0 = true ∧ r.segs = [] ∧ s.dev.dmaRefused 0 0 r.d = false ∧ s.dev.freeHalf 0 0 = some (0, 16384) ∧ s.dev.dmaTag 0 0 = some dmaTagBase :=
  ⟨at_ (home.setDmaCh 0 0 { DmaCh.init with runs := [{ run0 with off := 0, landed := 0 }] }), { run0 with off := 0, landed := 0 }, by decide⟩
theorem test_hyp_dma_complete : ∃ (s : State) (r : DmaRun), (s.dev.dmaCh 0 0).runs = [r] ∧ r.drained = true ∧ r.code = 0 ∧ r.d.poly = 0 ∧ r.d.done = 0 ∧ s.dev.tearing 0 = false :=
  ⟨at_ (home.setDmaCh 0 0 { DmaCh.init with runs := [run0] }), run0, by decide⟩
theorem test_hyp_cv_block : ∃ (s : State) (b : CvBlock), (s.dev.cvu 0).inq = [b] ∧ (s.dev.cvu 0).fenced = false ∧ (s.dev.cvu 0).streams = [] ∧ b.owner = .dma 0 0 0 ∧
    (s.dev.dmaCh 0 0).runs = [run0] ∧ run0.d.cvOnly = false :=
  ⟨at_ { home.setDmaCh 0 0 { DmaCh.init with runs := [run0] } with cv := [(0, { CvUnit.init with inq := [{ owner := .dma 0 0 0, off := 0, data := [1], last := true }] })] },
    { owner := .dma 0 0 0, off := 0, data := [1], last := true }, by decide⟩
theorem test_hyp_cv_failed : (home.cvu 3).fenced = false ∧ (home.cvu (3 ^^^ 1)).fenced = false ∧ home.quadOn (3 ^^^ 1) = true ∧ home.quadOn 3 = true := by decide

def msg0 : FltMsg := plainMsg 0x152 0x96 0
theorem test_hyp_collector : ∃ s : State, (smGet Stop.init s.dev.flt.stops 0x152).queue = [msg0] ∧ s.dev.pwr.islandUp = true ∧ s.dev.flt.lostStops.contains 0x152 = false ∧
    s.dev.inRind msg0 = false ∧ msg0.kind ≠ 0x21 ∧ s.dev.flt.list = [] ∧ s.dev.cave.buf = [] :=
  ⟨at_ { home with flt := { home.flt with stops := [(0x152, { queue := [msg0], lost := 0 })] } }, by decide⟩
theorem test_hyp_overrun : ∃ s : State, (smGet Stop.init s.dev.flt.stops 0x152).lost ≠ 0 ∧ (smGet Stop.init s.dev.flt.stops 0x152).queue.length < 16 :=
  ⟨at_ { home with flt := { home.flt with stops := [(0x152, { queue := [], lost := 1 })] } }, by decide⟩
def entry0 : FltEntry := { m := msg0, firstSeen := 0, repeats := 0, sev := 3, ack := false, cleared := false, actionDone := true, made := 0 }
theorem test_hyp_quiet : ∃ s : State, ∃ x ∈ s.dev.flt.list, quietClears x = true := ⟨at_ { home with flt := { home.flt with list := [entry0] } }, by decide⟩
def rec0 : CaveRec := { seq := 0, opSec := 0, cycles := 0, typ := 0, repeats := 0, sev := 0, flags := 0, body := [] }
theorem test_hyp_cave : ∃ s : State, s.dev.cave.due = true ∧ s.dev.cave.buf ≠ [] ∧ s.dev.cave.store ≠ 2 ∧ s.dev.pwr.islandUp = true ∧ s.dev.pwr.failing = false ∧ s.dev.rrc.pwrcycWanted = false :=
  ⟨at_ { home with cave := { home.cave with due := true, buf := [rec0] } }, by decide⟩

/-- A second context that may run in slot 1. -/
def shared : Dev := { home with ctxs := home.ctxs ++ [(1, { Ctx.init with live := true, sliceId := 2, sliceMs := 1, prog := .started })] }
def switching : Dev := shared.setPart 0 { shared.part 0 with switchTo := some 1 }
theorem test_hyp_switch :
    ((shared.part 0).resident = some 0 ∧ (shared.part 0).st = 1 ∧ (shared.part 0).switchTo = none ∧ shared.multiRank 0 = false ∧ (shared.ctx 0).tear = none ∧
    shared.nextSlot 0 0 = some 1) ∧
    ((switching.part 0).resident = some 0 ∧ (switching.part 0).switchTo = some 1 ∧ switching.inflight 0 = 0 ∧ switching.unsavable 0 = false ∧ (switching.ctx 0).waitSig = [] ∧
    (switching.ctx 1).waitSig = []) := by decide +kernel
def flit0 : Flit := { blankFlit tWr 0 1 with ctx := 0, bytes := 8, payload := List.replicate 8 1 }
def tag0 : TagRec := { op := .farPut 0 3, flit := flit0, ga := 2 ^ 43, ctx := 0, gen := 0, src := 0, idx := 0, ord := 0, dest := 1, chip := none, seq := 0, st := .sent, copies := 1, limit := 3 }
def busy : Dev := switching.setNi 0 ((switching.ni 0).setTag 0 (some tag0))
theorem test_hyp_switch_timeout : (busy.part 0).resident = some 0 ∧ (busy.part 0).switchTo = some 1 ∧ busy.inflight 0 ≠ 0 := by decide

/-! The mesh and its links -/

/-- A flit waits at the east port of router 0, plane A. -/
def arriving (dst : Nat) : Dev := { home with mesh := { home.mesh with inq := [(inqKey .a 0 1, [{ flit0 with dst := BitVec.ofNat 9 dst }])] } }
def pumped (d : Dev) : Dev := (d.setNi 0 { d.ni 0 with hist := (d.ni 0).hist <<< 1 }).niPump 0
theorem test_hyp_eject : ((pumped (arriving 0)).arrivals .a 0 4).2 = [{ flit0 with dst := 0 }] ∧ smGet false (arriving 0).mesh.failed (meshKey .a 0) = false ∧
    ((pumped (arriving 0)).arrivals .a 0 4).1.niAccepts .a 0 = true ∧ (((pumped (arriving 0)).arrivals .a 0 4).1.ni 0).outA = [] := by decide
theorem test_hyp_pass : ((pumped (arriving 1)).arrivals .a 0 4).2 = [{ flit0 with dst := 1 }] ∧
    ((pumped (arriving 1)).arrivals .a 0 4).1.productive .a 0 1 [0, 1, 2, 3] = [1] ∧ [0, 1, 2, 3].filter (fun i => home.portLive .a 0 i) = [0, 1, 2, 3] ∧ routerAt 0 1 = some 1 := by decide
def injecting : Dev := home.setNi 0 { home.ni 0 with outB := [{ blankFlit tAck 1 0 with ctx := 0 }] }
theorem test_hyp_inject : (injecting.arrivals .b 0 4).2 = [] ∧ ((injecting.arrivals .b 0 4).1.ni 0).outB ≠ [] ∧ (injecting.arrivals .b 0 4).1.productive .b 0 1 [0, 1, 2, 3] = [1] ∧ (injecting.ni 0).starveB = false ∧
    (injecting.arrivals .b 0 4).1.mayEnter .b 0 0 { blankFlit tAck 1 0 with ctx := 0 } = true ∧ injecting.stopped .b = false := by decide
theorem test_hyp_edge_return : attach 0x120 = some (0, 0) ∧ attach 0x157 = some (223, 1) ∧
    (({ home with mesh := { home.mesh with edges := [(2 * 0x120, { Edge.init with ret := [flit0] })] } } : Dev).edge (2 * 0x120)).ret = [flit0] := by decide
theorem test_hyp_quiesce : ({ home with mesh := { home.mesh with stopA := true, stopB := true } } : Dev).planeEmpty .a = true ∧
    ({ home with mesh := { home.mesh with stopA := true, stopB := true } } : Dev).planeEmpty .b = true ∧ smGet false home.mesh.failed (meshKey .b 287) = false := by decide

def asked (f : Flit) : Dev := home.setNi 0 { home.ni 0 with reqBuf := [f] }
theorem test_hyp_request : takeTyp tWr false [] ((asked flit0).inbox 0) = some (flit0, []) ∧ (asked flit0).retrains 0 = false ∧ (asked flit0).landMay 0 flit0 = true ∧ malformed 0 flit0 = false ∧ ((asked flit0).setInbox 0 []).liveFor 0 flit0 = true ∧
    flit0.xchip = false ∧ flit0.bytes ≠ 0 ∧ (match ((asked flit0).setInbox 0 []).landing 0 flit0 true with | .err _ => false | _ => true) = true ∧
    (((asked flit0).setInbox 0 []).landWrite 0 0 (((asked flit0).setInbox 0 []).landing 0 flit0 true) (flit0.payload.take 8)).2 = true := by decide
def beyond : Flit := { flit0 with addr := 0x7FFFF8 }
theorem test_hyp_request_error : malformed 0 beyond = false ∧ ((asked beyond).setInbox 0 []).liveFor 0 beyond = true ∧
    (match ((asked beyond).setInbox 0 []).landing 0 beyond true with | .err _ => true | _ => false) = true := by decide
def crossing : Flit := { flit0 with xchip := true, link := 5 }
theorem test_hyp_filter : home.confCtx 0 = false ∧ (filterFlow [] (home.flowKey 0 crossing) 0 5 0 home.hCounts).1 = .perform ∧
    (filterFlow (filterFlow [] (home.flowKey 0 crossing) 0 5 0 home.hCounts).2 (home.flowKey 0 crossing) 0 5 0 home.hCounts).1 = .duplicate := by decide
def answered : Dev := (home.setNi 0 ((home.ni 0).setTag 0 (some tag0))).setNi 0 { (home.ni 0).setTag 0 (some tag0) with repBuf := [blankFlit tAck 0 1] }
theorem test_hyp_reply : takeTyp tAck false [] (answered.ni 0).repBuf = some (blankFlit tAck 0 1, []) ∧ (answered.ni 0).tagRec 0 = some tag0 ∧ replyTyp tag0.flit = tAck ∧ answered.tearing 0 = false ∧
    (blankFlit tAck 0 1).status.toNat = 0 ∧ (blankFlit tAck 0 1).cmark = false := by decide
theorem test_hyp_timer : (answered.ni 0).tagRec 0 = some tag0 ∧ tag0.st = .sent ∧ (answered.ni 0).stop.getLsbD 0 = false ∧ tag0.chip = none ∧ tag0.flit.typ.toNat = tWr ∧
    tag0.copies ≤ tag0.limit ∧ ({ tag0 with copies := 4 } : TagRec).limit < 4 ∧ malformedReply (blankFlit tAck 0 1) = false := by decide

def portOf (x : Port) : Dev := home.setPort 0 x
def up : Port := { Port.init with st := 2, txLanes := [0, 1, 2, 3], rxLanes := [0, 1, 2, 3], txW := 4, rxW := 4 }
def creditFrame0 : List Byte := smallFrame 3 (List.replicate 6 0)
theorem test_hyp_codeword_early : (63 + 128 - up.rxNext) % 128 < 64 ∧ 63 ≠ up.rxNext := by decide
def laneFrame (kind x : Nat) : List Byte := smallFrame 4 (leBytes 1 kind ++ leBytes 1 x)
/-- A flit whose first hop is port 0 and whose second is port 1. -/
def hopping : Flit := { blankFlit tWr 0 0 with xchip := true, hop := 1, path := BitVec.ofNat 96 (1 * 16) }
theorem test_hyp_frames :
    (up.st = 2 ∧ up.rxCw = [] ∧ up.rxSync = true ∧ up.rxNext = 0 ∧ (headFrame creditFrame0).isSome = true ∧ fType creditFrame0 = 3 ∧ checkOk creditFrame0 = true) ∧
    (checkOk (laneFrame 0 1) = true ∧ fType (laneFrame 0 1) = 4 ∧ leAt (laneFrame 0 1) 4 1 = 0 ∧ fCclass (laneFrame 0 1) = 3 ∧ nextMap up 1 = [4, 1, 2, 3] ∧ nextMap { up with ctl := 1 } 1 = [1, 2, 3] ∧ portMin up ≤ 3 ∧ nextMap up 1 ≠ up.txLanes ∧
    leAt (laneFrame 1 3) 4 1 = 1) ∧
    (pathEntry hopping.path.toNat 1 = 1 ∧ (home.setPort 1 up).portUp 1 = true ∧ checkOk (packetFrame hopping 0 1 0 0) = true ∧ fType (packetFrame hopping 0 1 0 0) = 1 ∧
    frameFlit (packetFrame hopping 0 1 0 0) false = hopping) := by decide +kernel
theorem test_hyp_accept : (({ home with mesh := { home.mesh with edges := [(2 * 0x140, { Edge.init with arr := [hopping] })] } } : Dev).edge (2 * 0x140)).arr = [hopping] ∧ forEngine 0 hopping = false ∧
    up.admits hopping = true := by decide
def waiting1 : Port := { up with dep := [{ cls := 0, entering := true, flit := hopping }] }
theorem test_hyp_send : waiting1.st = 2 ∧ waiting1.pick = some { cls := 0, entering := true, flit := hopping } := by decide
theorem test_hyp_lane_failed : bit up.badRx 3 = false ∧ 2 ≤ (lanesFor up (up.badRx + 2 ^ 3)).length ∧ portMin up ≤ (lanesFor up (up.badRx + 2 ^ 3)).length := by decide
theorem test_hyp_port_up : Port.init.fenced = false ∧ home.quadOn (edgeQuadrant 0x140) = true ∧ portEnable { Port.init with ctl := 1, st := 0 } = true ∧
    portMin { Port.init with ctl := 1, st := 0 } ≤ (lanesFor { Port.init with ctl := 1, st := 0 } (31 - 15 % 32)).length := by decide

/-! Collectives -/

def collDesc0 : CollDesc := { op := 1, typ := 0, flags := 0, count := 32, src := 0, dst := 0, root := 0, rowlen := 0, table := 0, index := 0, origin := 0, rsv := 0, raw := [] }
def part0 : CollPart := { core := 0, node := 0, slot := 0, k := 1, d := collDesc0, ok := true }
def op0 : CollOp := { ctx := 0, seq := 0, numbered := true, d := collDesc0, parts := [part0], ok := true, bar := 0, arrived := true, release := none, phase := 0, next := [], reads := 0, item := 0, piece := 0, firsts := [], upOut := 0, wrote := [], wrOut := 0, code := 0, failing := false, dirty := false, timedOut := false }
def ranked : Dev := home.setUnit (home.rankUnit 0) { home.unit (home.rankUnit 0) with ops := [op0] }
theorem test_hyp_coll_op : ranked.ctxOf 0 = some 0 ∧ (ranked.unit (ranked.rankUnit 0)).ops.find? (fun o => o.ctx == 0 && o.numbered && o.seq == 0) = some op0 ∧ op0.failing = false ∧ op0.d.rows = false ∧
    op0.d.cores = false ∧ op0.ok = true := by decide
def sent0 : CollSent := { dst := 2000, kind := kUp, tree := 0, pos := 0, tries := 0, flit := blankFlit tColl 0 0 }
theorem test_hyp_resend : ((home.setUnit 0x140 { home.unit 0x140 with sent := [sent0] }).unit 0x140).sent[0]? = some sent0 ∧ sent0.tries < collResends home := by decide

/-! The fabric manager -/

def fmDev (x : FM) : Dev := { home with fm := x }
theorem test_hyp_fm_up : (fmDev FM.init).fmUp = true ∧ FM.init.role = 0 ∧ (home.setPort 0 up).portUp 0 = true ∧ FM.init.key1 = none := by decide
theorem test_hyp_keys : LeastKey (fun k => k = { prio := 1, serial := 2 }) (some { prio := 1, serial := 2 }) ∧
    LeastKey (fun k => k = { prio := 1, serial := 2 } ∧ some k ≠ some { prio := 1, serial := 2 }) none := by
  refine ⟨⟨rfl, fun k h => Or.inl h⟩, fun k h => h.2 (by rw [h.1])⟩
def mod1 : ModRec := { serial := 7, chip := 1, placed := true, role := 1, part := 0, present := 1, portSt := [], failed := false, neigh := [], relay := 0, stored := none, key := some { prio := 1, serial := 7 } }
theorem test_hyp_elected : ∃ k, (fmDev { FM.init with key1 := home.ownKey, placed := true, modules := [mod1] }).ownKey = some k ∧ home.ownKey = some k ∧
    ((fmDev { FM.init with key1 := home.ownKey, placed := true, modules := [mod1] }).placedChips.filter (fun c => c != FM.init.chip)) = [1] := ⟨{ prio := fmPrio home.fm.cfg, serial := home.sec.fuses.serial }, by decide⟩
def slice1 : SliceRec := { id := 1, st := 2, conf := false, base := [0, 0, 0, 0], ext := [1, 1, 1, 1], p := 1, psize := 0, slot := 0, gen := 0, plist := [0], exc := [], trees := [], awaiting := [1, 2], installing := false, outcomes := [], newLinks := [], reports := [], waiter := none, destroying := false, lastStep := 0, resumes := 0, moves := [], rebuilt := false, suspect := false }
def managing (y : SliceRec) : Dev := fmDev { FM.init with role := 3, control := true, placed := true, modules := [mod1], slices := [y] }
theorem test_hyp_drain_report : (managing slice1).sliceRec 1 = some slice1 ∧ slice1.st = 2 ∧ 1 ∈ slice1.awaiting ∧ slice1.awaiting.filter (fun c => c != 1) ≠ [] ∧ (managing slice1).fm.control = true := by decide
theorem test_hyp_install_done : (managing { slice1 with st := 0, awaiting := [1], installing := true }).sliceRec 1 = some { slice1 with st := 0, awaiting := [1], installing := true } := by decide
theorem test_hyp_no_answer : (managing slice1).fm.modules.find? (fun m => m.placed && m.chip == 1) = some mod1 ∧ mod1.failed = false ∧ (1 : Nat) ≠ (managing slice1).fm.chip := by decide

/-! Resets and memory -/

def tear0 : Teardown := { cause := 0x60, waitUnits := [], resume := false, clear := false, req := none, level := 0, destroy := false }
def torn : Dev := home.setCtx 0 { home.ctx 0 with tear := some tear0 }
theorem test_hyp_torn : (torn.ctx 0).tear = some tear0 ∧ torn.tornThrough 0 tear0 = true ∧ torn.memoryAway 0 = false ∧ torn.tornThrough 0 { tear0 with waitUnits := [1] } = false := by decide
theorem test_hyp_abort_and_sample :
    (home.sliceCtxs 1 = [0] ∧ (home.ctx 0).live = true ∧ (home.ctx 0).tear = none ∧ home.isResident 0 = true ∧ home.sliceNis 1 = [(0, 0)] ∧ (1, 0) ∉ home.fm.seenAborts ∧ home.fmUp = true) ∧
    ((((List.range 64).filterMap (fun p => (home.part p).resident.map (fun s => 16 * p + s))).filter (fun c => (home.ctx c).live)) = [0] ∧ home.noJudgement 0 = false ∧
    home.progressSum 0 = (home.ctx 0).lastSum) := by decide +kernel
theorem test_hyp_chip_reset : home.boot.chipResetting = false ∧ home.pwr.islandUp = true ∧ home.pwr.coreMv ≠ 0 ∧ home.rrc.bothDown = false := by decide
theorem test_hyp_spare : home.isSpareCurd 0 64 = true ∧ (home.vat 128).lst = .spare := by decide

/-- Partition 0 holds one granule on channel 0, which is in service. -/
def gran0 : Granule := { bands := [(0, 0)], lost := false }
def stored : Dev := { home.setPart 0 { home.part 0 with grans := [gran0] } with ext := { home.ext with chans := [(0, { Chan.init with st := 1, cap := 1 })] } }
theorem test_hyp_line : (stored.part 0).lineAt 0 = some (gran0, 0) ∧ stored.lineServed gran0 0 = true ∧ stored.lineState 0 false true = .good := by decide
theorem test_hyp_line_bad : ({ stored with ext := { stored.ext with lineErr := [(0, [(0, 1), (1, 1), (2, 1)])] } } : Dev).lineState 0 false true = .uncorrectable ∧ autoRetire { stored with ext := { stored.ext with cfg := 0 } }.ext.cfg = false := by
  decide
theorem test_hyp_scrub : (stored.setPart 0 { stored.part 0 with scrub := true, st := 2 }).brineFree 0 3 = true := by decide
theorem test_hyp_grant : ∃ g, (stored.setPart 0 { stored.part 0 with grants := [g] }).brineFree 0 2 = true ∧ g = .memMap 0 0 0 63 7 0 1 0 := ⟨.memMap 0 0 0 63 7 0 1 0, by decide, rfl⟩
theorem test_hyp_move : ∃ m, ((stored.setChan 0 { stored.chan 0 with moves := [m] }).brineJob 0).1 = 6 := ⟨(0, 31), by decide⟩

/-! The host and the commands -/

/-- A message ACTIVE at a channel. -/
def mail (f key : Nat) (m : List Byte) : State := at_ (home.setMbx f key { Mbx.init with st := 2, msg := m, len := m.length })
def msgOf (op : Nat) (m : List Byte) : List Byte := leBytes 2 op ++ List.replicate 6 0 ++ m ++ List.replicate (payloadOf op - m.length) 0
def begins (f key op : Nat) (m : List Byte) : Bool :=
  let s := mail f key m
  (s.dev.mbx f key).orphan.isNone && (s.dev.mbx f key).st == 2 && !(s.dev.mbx f key).begun && (s.dev.mbx f key).msg == m && leAt m 0 2 == op && (s.dev.stateAnswer op).isNone &&
    (!physOnly op || f == 0) && (framing m (s.dev.mbx f key).len).isNone
theorem begins_of (f key op : Nat) (m : List Byte) (h : begins f key op m = true) : Begins (mail f key m) f key op m := by
  simp only [begins, Bool.and_eq_true, Option.isNone_iff_eq_none, beq_iff_eq, Bool.not_eq_true', Bool.or_eq_true] at h
  obtain ⟨⟨⟨⟨⟨⟨⟨h1, h2⟩, h3⟩, h4⟩, h5⟩, h6⟩, h7⟩, h8⟩ := h
  exact ⟨h1, h2, h3, h4, h5, h6, fun hp => h7.resolve_left (by simp [hp]), h8⟩

/-- Each opcode has a message that its row takes up. -/
theorem test_hyp_begins : ∀ op ∈ [0x0101, 0x0102, 0x0103, 0x0104, 0x0105, 0x0201, 0x0202, 0x0203, 0x0204, 0x0301, 0x0302, 0x0303, 0x0304, 0x0401, 0x0402, 0x0403, 0x0501, 0x0502, 0x0503, 0x0504, 0x0601, 0x0602, 0x0603,
    0x0604, 0x0701, 0x0702, 0x0703, 0x0704, 0x0801, 0x0802, 0x0901, 0x0902, 0x0903, 0x0B01, 0x0B02], begins 0 0 op (msgOf op []) = true := by decide
theorem test_hyp_begins_secure : ∀ op ∈ [0x0A01, 0x0A02, 0x0A03, 0x0A04], begins 0 8 op (msgOf op []) = true := by decide
theorem test_hyp_begins_statement : Begins (mail 0 0 (msgOf 0x0102 [])) 0 0 0x0102 (msgOf 0x0102 []) := begins_of _ _ _ _ (by decide)
theorem test_hyp_virtual : begins 64 1 0x0203 (msgOf 0x0203 [63]) = true ∧ reaches 64 63 = true ∧ reaches 64 0 = false := by decide
theorem test_hyp_partition_commands :
    (home.partBusy 63 = false ∧ home.partOn 63 = true ∧ home.freeBlock 3 4 = some 0 ∧ (home.part 63).st = 0) ∧
    (reaches 0 0 = true ∧ (home.ctx 0).live = true ∧ home.ctxBusy 0 = false ∧ home.resetBusy 0 = false ∧ home.multiRank 0 = false) := by decide +kernel
theorem test_hyp_leaf : (home.sec.att.next < home.sec.att.limit ∨ home.sec.att.limit ≤ home.sec.att.next) ∧ home.sec.rollover = false := by decide

theorem test_hyp_mailbox : (home.host.linkUp && home.host.perst) = true ∧ home.recvUp false = true ∧ (home.mbx 64 1).st ≠ 1 ∧ (home.mbx 64 1).st ≠ 2 ∧ bit (8 * 2 ^ 16 + 2 ^ 31) 31 = true ∧
    bits (8 * 2 ^ 16 + 2 ^ 31) 24 16 = 8 ∧ bits (256 * 2 ^ 16 + 2 ^ 31) 24 16 = 256 ∧ bits (256 * 2 ^ 16 + 2 ^ 31) 30 25 = 0 := by decide
/-- Function 3 waits for a window write. -/
def winning : Dev := { home with host := { home.host with wins := [{ id := 0, func := 3, ctx := 0, gen := 0, off := 0, len := 4, job := .write [1, 2, 3, 4], next := 4, out := 1, code := 0 }], winCount := 1 } }
theorem test_hyp_control_writes : (winning.winWriting 3 = true ∧ winning.hostUp = true) ∧ (home.host.wins = [] ∧ ∀ x ∈ winning.host.wins, x.func = 2 → x.job.isWrite = false ∧ x.job.isCtl = false) := by decide
theorem test_hyp_cancel : let m := msgOf 0x0701 []
    bit ({ Mbx.init with st := 2, msg := m, len := m.length, raise := 2 } : Mbx).raise 1 = true ∧ leAt m 0 2 = 0x0701 ∧ framing m m.length = none ∧
    (({ home.fm with waiting := [{ chip := none, a := 0, b := 1, req := msgOf 0x0604 [], acked := false }] } : FM).waiting.find? (fun q => q.chip.isNone && q.a == 0 && q.b == 1)).isSome = true := by decide
theorem test_hyp_take : oldestMsg ((home.setMbx 0 0 { Mbx.init with st := 1, msg := msgOf 0x0102 [], len := 8 }).queuedMsgs false) = some (0, 0) ∧ opDefined 0x0102 = true ∧ opDefined 0x01FF = false := by decide
theorem test_hyp_queue : (home.setFunc 0 { home.func 0 with enable := true, tail := 1 }).nextQueue = some 0 ∧ home.resettingChip = false ∧ smGet none home.host.engines 7 = none := by decide
def hdma0 : HdmaRun := { func := 0, index := 0, host := 0, dev := 0, len := 128, ctl := 1, part := 0, slot := 0, gen := 0, code := 0, next := 128, out := 0 }
theorem test_hyp_hdma : smGet none ({ home with host := { home.host with engines := [(0, some hdma0)] } } : Dev).host.engines 0 = some hdma0 ∧ home.hdmaHeld hdma0 = false ∧ home.hdmaDead hdma0 = false ∧ hdma0.len ≤ hdma0.next := by
  decide
/-- A line of context 0 lies on channel 0, whose node is in service, and H0 has a tag for it. -/
theorem test_hyp_host_line : ((stored.ctx 0).segAny 0 128).isSome = true ∧ ({ stored with ext := { stored.ext with wide := [0] } } : Dev).mcOf 0 0 = some 0x120 ∧ stored.inService 0x120 = true ∧ (stored.ni 0x150).freeTag 0 96 = some 0 ∧ (stored.ni 0x151).freeTag 512 640 = some 512 := by
  decide +kernel
theorem test_hyp_window : ({ stored.func 0 with winClosed := true } : Func).winClosed = true ∧ (stored.func 0).winClosed = false ∧ stored.hostRefusal 0 = 0 ∧ stored.resettingChip = false ∧
    stored.winMapped 0 0 4096 = true ∧ stored.winMapped 0 4095 2 = false := by decide

/-! The start, the power inputs and the side-band -/

theorem test_hyp_at : ∀ n ∈ [0, 1, 2, 3, 4, 5, 6, 7, 8], let d := { home with boot := { home.boot with running := true, stage := n } }
    d.boot.running = true ∧ d.boot.failed = false ∧ d.boot.stage = n ∧ d.pwr.islandUp = true ∧ d.pwr.coreMv ≠ 0 ∧ d.boot.lateRelease = false := by decide
theorem test_hyp_power : home.pwr.coreMv = 750 ∧ hottest [0, 0, 0, 1150] = 1150 ∧ home.pwr.thermtrip = false ∧ hottest [1149, 0, 0, 0] < 1150 ∧ ({ home with pwr := { home.pwr with standby := false } } : Dev).pwr.standby = false ∧ home.pwr.failing = false ∧ home.pwr.main = true := by
  decide
theorem test_hyp_rails : ({ home with pwr := { home.pwr with ioUp := false } } : Dev).pwr.main = true ∧ home.pwr.standby = true ∧ home.pwr.islandUp = true ∧ home.pwr.holdUp = true ∧ home.pwr.failing = false := by decide
theorem test_hyp_registers : home.flt.lostStops.contains 287 = false ∧ home.quadOn (quadrant 287) = true ∧ home.quadOn (edgeQuadrant 0x14F) = true ∧
    ({ home with mesh := { home.mesh with stopA := true, stopB := true } } : Dev).meshQuiet = true ∧ home.fm.installWait = [] := by decide
theorem test_hyp_idle : home.host.recvUpSec = true ∧ ({ home with host := { home.host with recvUpSec := false } } : Dev).host.recvUpSec = false ∧ 1 ≤ home.boot.stage := by decide
theorem test_hyp_wellformed : State.reset.wellFormed := fun _ h => by cases h

/-- Tree 0 with a child and this chip's partition, and a contribution of 32 words that has come to port 0's engine by the ring. -/
def treed : Dev := ranked.setUnit (ranked.rankUnit 0) { ranked.unit (ranked.rankUnit 0) with infos := [(0, (1, 1))], known := 1 }
def upFlit : Flit := { treed.collFlit 0x140 0 0 kUp 0 0 true (List.replicate 128 1) with xchip := true }
def contributed : Dev := ({ treed with trees := [(treeKey 0x140 0, 1 + 2 ^ 11)] } : Dev).setUnit 0x140 { treed.unit 0x140 with inq := [upFlit] }
/-- The same chip as its rank's only member, the whole window open. -/
def reading : Dev := { treed with trees := [(treeKey 0 0, 1 + 4095 * 2 ^ 35)], parts := [(0, { treed.part 0 with grans := [gran0] })], ext := stored.ext }
theorem test_hyp_collective :
    ((match contributed.takeColl 0x140 tColl kUp with
    | some (a, some (f, bs, n)) => f == upFlit && bs.length == 128 && n == 0 && decide (1 < a.collExpect 0x140 (collEntry f) f.ctx.toNat) && !a.posGone 0x140 (collEntry f) (a.collPosOf f) && f.reduce && (a.unit 0x140).slots.isEmpty
    | _ => false) = true) ∧
    (reading.mayRead (reading.rankUnit 0) (reading.vatIndex 0 0) op0 0 = true ∧ (reading.readChunk 0 op0 0).2.isSome = true ∧ reading.collMembers op0 = op0.parts.length) := by decide +kernel
/-- A result for the vat, and the credit of a RELEASE at an engine. -/
def downFlit : Flit := reading.collFlit 0 0 0 kDown 0 0 false (List.replicate 128 1)
def downed : Dev := reading.setNi 0 { reading.ni 0 with reqBuf := [downFlit] }
def creditFlit : Flit := { blankFlit tCollr 0 0x140 with bytes := 8, payload := leBytes 8 (kRelease * 2 ^ 61), xchip := true }
def credited : Dev := ({ treed with trees := [(treeKey 0x140 0, 1)] } : Dev).setUnit 0x140 { treed.unit 0x140 with inq := [creditFlit], sent := [{ sent0 with kind := kRelease }] }
def resultFits (d : Dev) : Bool :=
  match d.takeColl 0 tColl kDown with
  | some (a, some (f, bs, n)) => a.ctxOf 0 == some 0 && flitSlot f == 0 && a.sliceHead 0 == f.ctx.toNat / 16 && op0.wrote == [] && op0.release == none && op0.code == 0 &&
    ((a.credit 0 f n).rankWrite 0 (gaOff op0.d.dst) (elemsOut op0.d ((words bs).take (op0.d.chunkLen 0)))).2 == 0
  | _ => false
def creditFits (d : Dev) : Bool :=
  match d.takeColl 0x140 tCollr 0 with
  | some (a, some (f, bs, _)) => creditKind bs == kRelease && (a.unit 0x140).sent.any (fun (q : CollSent) => q.tree == collEntry f && q.pos == a.collPosOf f && q.kind == creditKind bs && (q.dst == creditFrom 0x140 f || q.dst == 2000))
  | _ => false
theorem test_hyp_coll_replies : resultFits downed = true ∧ creditFits credited = true := by decide +kernel
def install0 : InstallMsg := { epoch := 0, sliceId := 1, slot := 0, detours := [], routeCfg := 0, slice := 1, exc := [], trees := [(0, 1)], groups := [], homes := [] }
theorem test_hyp_install : home.fmUp = true ∧ home.fm.epoch ≤ install0.epoch ∧ home.fm.role ≤ 2 ∧ install0.slice ≠ 0 ∧ home.ownTables install0 = install0 ∧ home.movedOff install0 = [] ∧
    memberSlots install0 home.fm.chip = [(0, 0)] ∧ home.sliceCtxs 2 = [] ∧ (home.dropTables 2).mesh.toGroups = [] ∧ (managing slice1).writesHere slice1 = true := by decide +kernel
theorem test_hyp_group6 : begins 0 0 0x0603 (msgOf 0x0603 (leBytes 4 1)) = true ∧ home.reachesSlice 0 1 = true ∧ (managing slice1).sliceRec 1 = some slice1 ∧ (managing slice1).sliceRec 2 = none := by decide
end Sys2Proof.Tests
end

section
/-! PROOFS. Scalar arithmetic (03_curd_core.md R84, R85): what each function of the ALU is on the numbers that its operands stand
for, that the row of the ALU always retires, and the two statements of the family. -/

namespace Sys2Proof.Machine

/-! ## The func codes of R84 -/

theorem AluOp.ofCode_reserved (c : Nat)
    (h : c ∉ [0, 1, 2, 3, 4, 5, 6, 7, 8, 9, 0x0A, 0x0B, 0x0C, 0x0D, 0x10, 0x11, 0x12, 0x18, 0x19, 0x1A, 0x1B, 0x20, 0x21, 0x22]) :
    AluOp.ofCode c = none := by
  unfold AluOp.ofCode
  split
  case h_25 => rfl
  all_goals simp at h

/-! ## How popcNat, ctzNat and clzNat count -/

theorem popcNat_eq_count (n x : Nat) : popcNat n x = ((List.range n).filter x.testBit).length := by
  induction n generalizing x with
  | zero => rfl
  | succ n ih =>
    have hshift : x.testBit ∘ Nat.succ = (x / 2).testBit := funext (Nat.testBit_succ x)
    rw [popcNat, ih, List.range_succ_eq_map, List.filter_cons, List.filter_map, hshift, Nat.testBit_zero]
    rcases Nat.mod_two_eq_zero_or_one x with h | h <;> simp [h, Nat.add_comm]

theorem popcNat_le (n x : Nat) : popcNat n x ≤ n := by
  rw [popcNat_eq_count]
  exact (List.length_filter_le _ _).trans_eq List.length_range

theorem ctzNat_zero (n : Nat) : ctzNat n 0 = n := by
  induction n with
  | zero => rfl
  | succ n ih => simp [ctzNat, ih, Nat.add_comm]

theorem ctzNat_le (n x : Nat) : ctzNat n x ≤ n := by
  induction n generalizing x with
  | zero => exact Nat.le_refl 0
  | succ n ih =>
    have := ih (x / 2)
    rw [ctzNat]; split <;> omega

/-- Below the count every bit is clear. -/
theorem testBit_of_lt_ctzNat {n x i : Nat} (h : i < ctzNat n x) : x.testBit i = false := by
  induction n generalizing x i with
  | zero => exact absurd h (Nat.not_lt_zero i)
  | succ n ih =>
    rw [ctzNat] at h
    split at h
    · exact absurd h (Nat.not_lt_zero i)
    · cases i with
      | zero => simpa using ‹¬ x % 2 = 1›
      | succ i => rw [Nat.testBit_succ]; exact ih (by omega)

/-- At the count stands the lowest bit set, if there is one among the `n`. -/
theorem testBit_ctzNat {n x : Nat} (h0 : x ≠ 0) (hn : x < 2 ^ n) : ctzNat n x < n ∧ x.testBit (ctzNat n x) = true := by
  induction n generalizing x with
  | zero => omega
  | succ n ih =>
    rw [ctzNat]
    split
    · simpa using ‹x % 2 = 1›
    · obtain ⟨hlt, hbit⟩ := ih (x := x / 2) (by omega) (by omega)
      rw [Nat.add_comm, Nat.testBit_succ]
      exact ⟨Nat.succ_lt_succ hlt, hbit⟩

theorem clzNat_zero (n : Nat) : clzNat n 0 = n := rfl

theorem clzNat_le (n x : Nat) : clzNat n x ≤ n := by
  unfold clzNat
  split <;> omega

/-- A number of `n` bits lies between the powers of two that its leading zeros name. -/
theorem clzNat_bounds {n x : Nat} (h0 : x ≠ 0) (hn : x < 2 ^ n) :
    clzNat n x < n ∧ 2 ^ (n - 1 - clzNat n x) ≤ x ∧ x < 2 ^ (n - clzNat n x) := by
  have hlog : Nat.log2 x < n := (Nat.log2_lt h0).2 hn
  have hclz : clzNat n x = n - 1 - Nat.log2 x := if_neg h0
  rw [hclz, show n - 1 - (n - 1 - Nat.log2 x) = Nat.log2 x by omega, show n - (n - 1 - Nat.log2 x) = Nat.log2 x + 1 by omega]
  exact ⟨by omega, Nat.log2_self_le h0, Nat.lt_log2_self⟩

/-! ## The functions of R84, on the numbers that the words stand for -/

theorem aluFn_shl_toNat (a b : Word) : (aluFn .shl a b).toNat = a.toNat * 2 ^ (b.toNat % 64) % 2 ^ 64 := by
  simp [aluFn, Nat.shiftLeft_eq]

theorem aluFn_shr_toNat (a b : Word) : (aluFn .shr a b).toNat = a.toNat / 2 ^ (b.toNat % 64) := by
  simp [aluFn, Nat.shiftRight_eq_div_pow]

theorem aluFn_sra_toInt (a b : Word) : (aluFn .sra a b).toInt = a.toInt / 2 ^ (b.toNat % 64) := by
  simp [aluFn, Int.shiftRight_eq_div_pow]

theorem aluFn_slt (a b : Word) : aluFn .slt a b = if a.toInt < b.toInt then 1 else 0 := by
  simp [aluFn, BitVec.slt_iff_toInt_lt]

theorem aluFn_sltu (a b : Word) : aluFn .sltu a b = if a.toNat < b.toNat then 1 else 0 := by
  simp [aluFn, BitVec.ult_iff_toNat_lt]

theorem aluFn_min_toInt (a b : Word) : (aluFn .min a b).toInt = min a.toInt b.toInt := by
  simp only [aluFn, BitVec.slt_iff_toInt_lt]
  split <;> omega

theorem aluFn_max_toInt (a b : Word) : (aluFn .max a b).toInt = max a.toInt b.toInt := by
  simp only [aluFn, BitVec.slt_iff_toInt_lt]
  split <;> omega

theorem aluFn_minu_toNat (a b : Word) : (aluFn .minu a b).toNat = min a.toNat b.toNat := by
  simp only [aluFn, BitVec.ult_iff_toNat_lt]
  split <;> omega

theorem aluFn_maxu_toNat (a b : Word) : (aluFn .maxu a b).toNat = max a.toNat b.toNat := by
  simp only [aluFn, BitVec.ult_iff_toNat_lt]
  split <;> omega

theorem aluFn_mul_toNat (a b : Word) : (aluFn .mul a b).toNat = a.toNat * b.toNat % 2 ^ 64 := BitVec.toNat_mul a b

/-- The high half of a signed product of two words is a word: the product's magnitude is at most 2^126. -/
theorem aluFn_mulh_toInt (a b : Word) : (aluFn .mulh a b).toInt = a.toInt * b.toInt / 2 ^ 64 := by
  have hlo : -2 ^ 126 ≤ a.toInt * b.toInt := BitVec.le_toInt_mul_toInt
  have hhi : a.toInt * b.toInt ≤ 2 ^ 126 := BitVec.toInt_mul_toInt_le
  exact BitVec.toInt_ofInt_eq_self (by decide) (by omega) (by omega)

theorem aluFn_mulhu_toNat (a b : Word) : (aluFn .mulhu a b).toNat = a.toNat * b.toNat / 2 ^ 64 := by
  have hprod : a.toNat * b.toNat < 2 ^ 64 * 2 ^ 64 := Nat.mul_lt_mul'' a.isLt b.isLt
  exact Nat.mod_eq_of_lt (Nat.div_lt_of_lt_mul hprod)

theorem aluFn_add_wraps (a b : Word) : aluFn .add a b = BitVec.ofNat 64 (a.toNat + b.toNat) := rfl

theorem aluFn_sub_wraps (a b : Word) : aluFn .sub a b = BitVec.ofInt 64 (a.toInt - b.toInt) := by
  apply BitVec.eq_of_toInt_eq
  rw [aluFn, BitVec.toInt_sub, BitVec.toInt_ofInt]

theorem aluFn_mul_wraps (a b : Word) : aluFn .mul a b = BitVec.ofNat 64 (a.toNat * b.toNat) := rfl

/-! ## Division (R85): a zero divisor has its own answers, any other divides -/

theorem aluFn_div_of_zero (a : Word) {b : Word} (hb : b = 0) : aluFn .div a b = BitVec.allOnes 64 := if_pos hb
theorem aluFn_divu_of_zero (a : Word) {b : Word} (hb : b = 0) : aluFn .divu a b = BitVec.allOnes 64 := if_pos hb
theorem aluFn_rem_of_zero (a : Word) {b : Word} (hb : b = 0) : aluFn .rem a b = a := if_pos hb
theorem aluFn_remu_of_zero (a : Word) {b : Word} (hb : b = 0) : aluFn .remu a b = a := if_pos hb

theorem aluFn_div_of_ne {a b : Word} (hb : b ≠ 0) : aluFn .div a b = a.sdiv b := if_neg hb
theorem aluFn_divu_of_ne {a b : Word} (hb : b ≠ 0) : aluFn .divu a b = BitVec.ofNat 64 (a.toNat / b.toNat) := if_neg hb
theorem aluFn_rem_of_ne {a b : Word} (hb : b ≠ 0) : aluFn .rem a b = a.srem b := if_neg hb
theorem aluFn_remu_of_ne {a b : Word} (hb : b ≠ 0) : aluFn .remu a b = BitVec.ofNat 64 (a.toNat % b.toNat) := if_neg hb

theorem aluFn_div_overflow {a b : Word} (ha : a = BitVec.intMin 64) (hb : b = BitVec.allOnes 64) : aluFn .div a b = a := by
  subst ha hb; decide

theorem aluFn_rem_overflow {a b : Word} (ha : a = BitVec.intMin 64) (hb : b = BitVec.allOnes 64) : aluFn .rem a b = 0 := by
  subst ha hb; decide

/-- The quotient is exact unless it is 2^63, which no word holds: that is the most negative number by -1. -/
theorem aluFn_div_toInt {a b : Word} (hb : b ≠ 0) (hov : ¬ (a.toInt = -2 ^ 63 ∧ b.toInt = -1)) :
    (aluFn .div a b).toInt = a.toInt.tdiv b.toInt := by
  have hne : a ≠ BitVec.intMin 64 ∨ b ≠ -1#64 := by
    by_contra h
    obtain ⟨rfl, rfl⟩ : a = BitVec.intMin 64 ∧ b = -1#64 := by simpa using h
    exact hov (by decide)
  rw [aluFn_div_of_ne hb, BitVec.toInt_sdiv_of_ne_or_ne a b hne]

theorem aluFn_rem_toInt {a b : Word} (hb : b ≠ 0) : (aluFn .rem a b).toInt = a.toInt.tmod b.toInt := by
  rw [aluFn_rem_of_ne hb, BitVec.toInt_srem]

theorem aluFn_divu_toNat {a b : Word} (hb : b ≠ 0) : (aluFn .divu a b).toNat = a.toNat / b.toNat := by
  have hq : a.toNat / b.toNat < 2 ^ 64 := (Nat.div_le_self _ _).trans_lt a.isLt
  rw [aluFn_divu_of_ne hb, BitVec.toNat_ofNat, Nat.mod_eq_of_lt hq]

theorem aluFn_remu_toNat {a b : Word} (hb : b ≠ 0) : (aluFn .remu a b).toNat = a.toNat % b.toNat := by
  have hr : a.toNat % b.toNat < 2 ^ 64 := (Nat.mod_le _ _).trans_lt a.isLt
  rw [aluFn_remu_of_ne hb, BitVec.toNat_ofNat, Nat.mod_eq_of_lt hr]

/-! ## The counts of R84 -/

theorem aluFn_popc_toNat (a b : Word) : (aluFn .popc a b).toNat = ((List.range 64).filter (fun i => a.getLsbD i)).length := by
  have hle := popcNat_le 64 a.toNat
  rw [aluFn, BitVec.toNat_ofNat, Nat.mod_eq_of_lt (by omega), popcNat_eq_count]
  rfl

theorem aluFn_clz_toNat (a b : Word) : (aluFn .clz a b).toNat = clzNat 64 a.toNat :=
  Nat.mod_eq_of_lt ((clzNat_le 64 a.toNat).trans_lt (by decide))

theorem aluFn_ctz_toNat (a b : Word) : (aluFn .ctz a b).toNat = ctzNat 64 a.toNat :=
  Nat.mod_eq_of_lt ((ctzNat_le 64 a.toNat).trans_lt (by decide))

theorem aluFn_clz_zero {a : Word} (ha : a = 0) (b : Word) : (aluFn .clz a b).toNat = 64 := by
  rw [aluFn_clz_toNat, ha]; exact clzNat_zero 64

theorem aluFn_ctz_zero {a : Word} (ha : a = 0) (b : Word) : (aluFn .ctz a b).toNat = 64 := by
  rw [aluFn_ctz_toNat, ha]; exact ctzNat_zero 64

theorem aluFn_clz_bounds {a : Word} (ha : a ≠ 0) (b : Word) :
    (aluFn .clz a b).toNat < 64 ∧ 2 ^ (63 - (aluFn .clz a b).toNat) ≤ a.toNat ∧ a.toNat < 2 ^ (64 - (aluFn .clz a b).toNat) := by
  rw [aluFn_clz_toNat]
  exact clzNat_bounds (BitVec.toNat_ne_iff_ne.2 ha) a.isLt

theorem aluFn_ctz_lowest {a : Word} (ha : a ≠ 0) (b : Word) :
    (aluFn .ctz a b).toNat < 64 ∧ a.getLsbD (aluFn .ctz a b).toNat = true ∧ ∀ i, i < (aluFn .ctz a b).toNat → a.getLsbD i = false := by
  rw [aluFn_ctz_toNat]
  obtain ⟨hlt, hbit⟩ := testBit_ctzNat (BitVec.toNat_ne_iff_ne.2 ha) a.isLt
  exact ⟨hlt, hbit, fun _ hi => testBit_of_lt_ctzNat hi⟩

/-! ## The row of the ALU (R85, R120) -/

/-- The ALU row retires its instruction, whatever the function and the operands: it has no fault of its own. -/
theorem exec_alu_of_issues {s : State} {node slot : Nat} {op : AluOp} {rd ra rb : Reg} {d : Dev}
    (h : Issues s node slot (.alu op rd ra rb) d) :
    let r := regsOf d node slot
    exec (.alu node slot) s = .next (retired s node slot d (r.setG rd (aluFn op (r.getG ra) (r.getG rb))) (r.pc + 1) (aluCost op)) :=
  issue_retires (run := runAlu) h rfl

/-! ## The statements -/

/-- Settles O59: each code of R84 selects its function, and no other code selects one. -/
theorem aluFunctionsAreTheTable : Obligations.AluFunctionsAreTheTable := by
  unfold Obligations.AluFunctionsAreTheTable
  intro a b n f
  exact ⟨rfl, rfl, rfl, rfl, rfl, ⟨_, rfl, aluFn_shl_toNat a b⟩, ⟨_, rfl, aluFn_shr_toNat a b⟩, ⟨_, rfl, aluFn_sra_toInt a b⟩,
    congrArg some (aluFn_slt a b), congrArg some (aluFn_sltu a b), ⟨_, rfl, aluFn_min_toInt a b⟩, ⟨_, rfl, aluFn_max_toInt a b⟩,
    ⟨_, rfl, aluFn_minu_toNat a b⟩, ⟨_, rfl, aluFn_maxu_toNat a b⟩,
    ⟨_, rfl, aluFn_mul_toNat a b⟩, ⟨_, rfl, aluFn_mulh_toInt a b⟩, ⟨_, rfl, aluFn_mulhu_toNat a b⟩,
    ⟨_, _, rfl, rfl, fun hb hov => ⟨aluFn_div_toInt hb hov, aluFn_rem_toInt hb⟩⟩,
    ⟨_, _, rfl, rfl, fun hb => ⟨aluFn_divu_toNat hb, aluFn_remu_toNat hb⟩⟩, ⟨_, rfl, aluFn_popc_toNat a b⟩,
    ⟨_, rfl, fun ha => aluFn_clz_zero ha b, fun ha => aluFn_clz_bounds ha b⟩,
    ⟨_, rfl, fun ha => aluFn_ctz_zero ha b, fun ha => aluFn_ctz_lowest ha b⟩,
    fun c hc => congrArg (Option.map (aluFn · a b)) (AluOp.ofCode_reserved c hc)⟩

/-- Settles O60: the row retires with its function's value whatever the operands, so each clause is a value of that function. -/
theorem divisionNeverFaultsAndSumsWrap : Obligations.DivisionNeverFaultsAndSumsWrap := by
  unfold Obligations.DivisionNeverFaultsAndSumsWrap
  intro s node slot d rd ra rb r a b gives
  have row (op : AluOp) {x : Word} (hx : aluFn op a b = x) : gives op x := fun h => ⟨aluCost op, hx ▸ exec_alu_of_issues h⟩
  exact ⟨fun op => ⟨_, row op rfl⟩,
    fun hb => ⟨row .div (aluFn_div_of_zero a hb), row .divu (aluFn_divu_of_zero a hb),
      row .rem (aluFn_rem_of_zero a hb), row .remu (aluFn_remu_of_zero a hb)⟩,
    fun ha hb => ⟨row .div (aluFn_div_overflow ha hb), row .rem (aluFn_rem_overflow ha hb)⟩,
    row .add (aluFn_add_wraps a b), row .sub (aluFn_sub_wraps a b), row .mul (aluFn_mul_wraps a b)⟩

end Sys2Proof.Machine
end

section
/-! PROOFS. Every command and every step: a command answers a next state and leaves the queue alone (00_scope.md R9), the fuses
(13_security.md R380, R384), the empty queue, and the module at reset. -/

namespace Sys2Proof.Machine

/-! ## What a command answers -/

theorem exec_dbPendClear_keeps_fuses (s : State) (f ch : Nat) (sec : Bool) (mask dev : Word32) :
    ∃ d, exec (.dbPendClear f ch sec mask dev) s = s.next d ∧ d.sec.fuses = s.dev.sec.fuses := by
  simp only [exec, execDbPendClear]
  split
  · exact ⟨_, rfl, (Dev.doorbell_fuses ..).trans (Dev.ctlWrite_fuses _ _ _ _ _ _ (fun _ => rfl))⟩
  · exact ⟨_, rfl, (doDbPendClear_fuses ..).trans (Dev.ctlRun_fuses ..)⟩

/-- Every command but BOOT_S8 answers a next state with the fuses as they were: row by row, the lemma of its operation. -/
theorem exec_keeps_fuses (s : State) : ∀ c : Instr, c ≠ .bootS8 → ∃ d, exec c s = s.next d ∧ d.sec.fuses = s.dev.sec.fuses
  | .alu .., _ => ⟨_, rfl, Dev.curdStep_fuses _ _ _ _ runAlu_fuses⟩
  | .addi .., _ => ⟨_, rfl, Dev.curdStep_fuses _ _ _ _ runAddi_fuses⟩
  | .andi .., _ => ⟨_, rfl, Dev.curdStep_fuses _ _ _ _ runAndi_fuses⟩
  | .ori .., _ => ⟨_, rfl, Dev.curdStep_fuses _ _ _ _ runOri_fuses⟩
  | .xori .., _ => ⟨_, rfl, Dev.curdStep_fuses _ _ _ _ runXori_fuses⟩
  | .shi .., _ => ⟨_, rfl, Dev.curdStep_fuses _ _ _ _ runShi_fuses⟩
  | .movz .., _ => ⟨_, rfl, Dev.curdStep_fuses _ _ _ _ runMovz_fuses⟩
  | .movk .., _ => ⟨_, rfl, Dev.curdStep_fuses _ _ _ _ runMovk_fuses⟩
  | .slti .., _ => ⟨_, rfl, Dev.curdStep_fuses _ _ _ _ runSlti_fuses⟩
  | .beq .., _ => ⟨_, rfl, Dev.curdStep_fuses _ _ _ _ runBeq_fuses⟩
  | .bne .., _ => ⟨_, rfl, Dev.curdStep_fuses _ _ _ _ runBne_fuses⟩
  | .blt .., _ => ⟨_, rfl, Dev.curdStep_fuses _ _ _ _ runBlt_fuses⟩
  | .bge .., _ => ⟨_, rfl, Dev.curdStep_fuses _ _ _ _ runBge_fuses⟩
  | .bltu .., _ => ⟨_, rfl, Dev.curdStep_fuses _ _ _ _ runBltu_fuses⟩
  | .bgeu .., _ => ⟨_, rfl, Dev.curdStep_fuses _ _ _ _ runBgeu_fuses⟩
  | .jal .., _ => ⟨_, rfl, Dev.curdStep_fuses _ _ _ _ runJal_fuses⟩
  | .jalr .., _ => ⟨_, rfl, Dev.curdStep_fuses _ _ _ _ runJalr_fuses⟩
  | .csrr .., _ => ⟨_, rfl, Dev.curdStep_fuses _ _ _ _ (runCsrr_fuses _ _)⟩
  | .csrw .., _ => ⟨_, rfl, Dev.curdStep_fuses _ _ _ _ runCsrw_fuses⟩
  | .ldb .., _ => ⟨_, rfl, Dev.curdStep_fuses _ _ _ _ (runLoad_fuses _ _ _)⟩
  | .ldh .., _ => ⟨_, rfl, Dev.curdStep_fuses _ _ _ _ (runLoad_fuses _ _ _)⟩
  | .ldw .., _ => ⟨_, rfl, Dev.curdStep_fuses _ _ _ _ (runLoad_fuses _ _ _)⟩
  | .ldd .., _ => ⟨_, rfl, Dev.curdStep_fuses _ _ _ _ (runLoad_fuses _ _ _)⟩
  | .ldbu .., _ => ⟨_, rfl, Dev.curdStep_fuses _ _ _ _ (runLoad_fuses _ _ _)⟩
  | .ldhu .., _ => ⟨_, rfl, Dev.curdStep_fuses _ _ _ _ (runLoad_fuses _ _ _)⟩
  | .ldwu .., _ => ⟨_, rfl, Dev.curdStep_fuses _ _ _ _ (runLoad_fuses _ _ _)⟩
  | .stb .., _ => ⟨_, rfl, Dev.curdStep_fuses _ _ _ _ (runStore_fuses _ _ _)⟩
  | .sth .., _ => ⟨_, rfl, Dev.curdStep_fuses _ _ _ _ (runStore_fuses _ _ _)⟩
  | .stw .., _ => ⟨_, rfl, Dev.curdStep_fuses _ _ _ _ (runStore_fuses _ _ _)⟩
  | .std .., _ => ⟨_, rfl, Dev.curdStep_fuses _ _ _ _ (runStore_fuses _ _ _)⟩
  | .vld .., _ => ⟨_, rfl, Dev.curdStep_fuses _ _ _ _ (runVld_fuses _ _)⟩
  | .vst .., _ => ⟨_, rfl, Dev.curdStep_fuses _ _ _ _ (runVst_fuses _ _)⟩
  | .amo .., _ => ⟨_, rfl, Dev.curdStep_fuses _ _ _ _ (runAmo_fuses _ _)⟩
  | .vop .., _ => ⟨_, rfl, Dev.curdStep_fuses _ _ _ _ runVop_fuses⟩
  | .vred .., _ => ⟨_, rfl, Dev.curdStep_fuses _ _ _ _ runVred_fuses⟩
  | .vmovSplat .., _ => ⟨_, rfl, Dev.curdStep_fuses _ _ _ _ runVmovSplat_fuses⟩
  | .vmovExtract .., _ => ⟨_, rfl, Dev.curdStep_fuses _ _ _ _ runVmovExtract_fuses⟩
  | .vmovPermute .., _ => ⟨_, rfl, Dev.curdStep_fuses _ _ _ _ runVmovPermute_fuses⟩
  | .vcvtNarrow .., _ => ⟨_, rfl, Dev.curdStep_fuses _ _ _ _ runVcvtNarrow_fuses⟩
  | .vcvtWiden .., _ => ⟨_, rfl, Dev.curdStep_fuses _ _ _ _ runVcvtWiden_fuses⟩
  | .tmma .., _ => ⟨_, rfl, Dev.curdStep_fuses _ _ _ _ (runTmma_fuses _ _)⟩
  | .tld .., _ => ⟨_, rfl, Dev.curdStep_fuses _ _ _ _ (runTld_fuses _ _)⟩
  | .tst .., _ => ⟨_, rfl, Dev.curdStep_fuses _ _ _ _ (runTst_fuses _ _)⟩
  | .topClear .., _ => ⟨_, rfl, Dev.curdStep_fuses _ _ _ _ (runTopClear_fuses _ _)⟩
  | .topCopy .., _ => ⟨_, rfl, Dev.curdStep_fuses _ _ _ _ (runTopCopy_fuses _ _)⟩
  | .topAdd .., _ => ⟨_, rfl, Dev.curdStep_fuses _ _ _ _ (runTopAdd_fuses _ _)⟩
  | .tensorExecute .., _ => ⟨_, rfl, (Dev.curdDone_fuses ..).trans (doTensorExecute_fuses ..)⟩
  | .farGet .., _ => ⟨_, rfl, Dev.curdStep_fuses _ _ _ _ (runFarGet_fuses _ _)⟩
  | .farPut .., _ => ⟨_, rfl, Dev.curdStep_fuses _ _ _ _ (runFarPut_fuses _ _)⟩
  | .farPutv .., _ => ⟨_, rfl, Dev.curdStep_fuses _ _ _ _ (runFarPutv_fuses _ _)⟩
  | .farAtomic .., _ => ⟨_, rfl, Dev.curdStep_fuses _ _ _ _ (runFarAtomic_fuses _ _)⟩
  | .farFp32Add .., _ => ⟨_, rfl, Dev.curdStep_fuses _ _ _ _ (runFarFp32Add_fuses _ _)⟩
  | .dma .., _ => ⟨_, rfl, Dev.curdStep_fuses _ _ _ _ (runDma_fuses _ _)⟩
  | .wait .., _ => ⟨_, rfl, Dev.curdStep_fuses _ _ _ _ runWait_fuses⟩
  | .signal .., _ => ⟨_, rfl, Dev.curdStep_fuses _ _ _ _ (runSignal_fuses _ _)⟩
  | .fence .., _ => ⟨_, rfl, Dev.curdStep_fuses _ _ _ _ (runFence_fuses _ _)⟩
  | .cult .., _ => ⟨_, rfl, Dev.curdStep_fuses _ _ _ _ (runCult_fuses _ _)⟩
  | .cadd .., _ => ⟨_, rfl, Dev.curdStep_fuses _ _ _ _ runCadd_fuses⟩
  | .coll .., _ => ⟨_, rfl, Dev.curdStep_fuses _ _ _ _ (runColl_fuses _ _)⟩
  | .nop .., _ => ⟨_, rfl, Dev.curdStep_fuses _ _ _ _ runNop_fuses⟩
  | .halt .., _ => ⟨_, rfl, (Dev.checkDoneAt_fuses ..).trans (Dev.curdStep_fuses _ _ _ _ runHalt_fuses)⟩
  | .break_ .., _ => ⟨_, rfl, Dev.curdStep_fuses _ _ _ _ (runBreak_fuses _)⟩
  | .iwr .., _ => ⟨_, rfl, Dev.curdStep_fuses _ _ _ _ (runIwr_fuses _ _)⟩
  | .rand .., _ => ⟨_, rfl, Dev.curdStep_fuses _ _ _ _ runRand_fuses⟩
  | .loadResponse .., _ => ⟨_, rfl, (Dev.curdDone_fuses ..).trans (doLoadResponse_fuses ..)⟩
  | .resolverAccept .., _ => ⟨_, rfl, doResolverAccept_fuses ..⟩
  | .flipArm .., _ => ⟨_, rfl, doFlipArm_fuses ..⟩
  | .dmaDescriptorStart .., _ => ⟨_, rfl, doDmaDescriptorStart_fuses ..⟩
  | .dmaSegment .., _ => ⟨_, rfl, doDmaSegment_fuses ..⟩
  | .dmaComplete .., _ => ⟨_, rfl, doDmaComplete_fuses ..⟩
  | .timeSliceEnd .., _ => ⟨_, rfl, doTimeSliceEnd_fuses ..⟩
  | .switchDrained .., _ => ⟨_, rfl, doSwitchDrained_fuses ..⟩
  | .switchTimeout .., _ => ⟨_, rfl, doSwitchTimeout_fuses ..⟩
  | .routerStep .., _ => ⟨_, rfl, ite_fuses ((Dev.afterRefusal_fuses ..).trans (doRouterStep_fuses ..)) (doRouterStep_fuses ..)⟩
  | .edgeReturn .., _ => ⟨_, rfl, doEdgeReturn_fuses ..⟩
  | .limiterRecovery .., _ => ⟨_, rfl, doLimiterRecovery_fuses ..⟩
  | .starvationMark .., _ => ⟨_, rfl, doStarvationMark_fuses ..⟩
  | .meshStopA, _ => ⟨_, rfl, rfl⟩
  | .meshStopB, _ => ⟨_, rfl, doMeshStopB_fuses ..⟩
  | .meshResume, _ => ⟨_, rfl, doMeshResume_fuses ..⟩
  | .quiesceTimeout, _ => ⟨_, rfl, doQuiesceTimeout_fuses ..⟩
  | .routerFailed .., _ => ⟨_, rfl, doRouterFailed_fuses ..⟩
  | .rd .., _ => ⟨_, rfl, Dev.take_fuses ..⟩
  | .wr .., _ => ⟨_, rfl, Dev.take_fuses ..⟩
  | .amoPacket .., _ => ⟨_, rfl, Dev.take_fuses ..⟩
  | .sig .., _ => ⟨_, rfl, Dev.take_fuses ..⟩
  | .heldRequestRetry .., _ => ⟨_, rfl, doHeldRequestRetry_fuses ..⟩
  | .rdr .., _ => ⟨_, rfl, (Dev.ctlRunAll_fuses ..).trans (Dev.takeReply_fuses ..)⟩
  | .ack .., _ => ⟨_, rfl, (Dev.ctlRunAll_fuses ..).trans (Dev.takeReply_fuses ..)⟩
  | .amor .., _ => ⟨_, rfl, Dev.takeReply_fuses ..⟩
  | .mgtr .., _ => ⟨_, rfl, doMgtr_fuses ..⟩
  | .edgePortAccept .., _ => ⟨_, rfl, doEdgePortAccept_fuses ..⟩
  | .portSend .., _ => ⟨_, rfl, doPortSend_fuses ..⟩
  | .codeword .., _ => ⟨_, rfl, doCodeword_fuses ..⟩
  | .idleFrame .., _ => ⟨_, rfl, doIdleFrame_fuses ..⟩
  | .pktFrame .., _ => ⟨_, rfl, Dev.takePacket_fuses ..⟩
  | .pktEncFrame .., _ => ⟨_, rfl, Dev.takePacket_fuses ..⟩
  | .creditFrame .., _ => ⟨_, rfl, doCreditFrame_fuses ..⟩
  | .linkCtlFrame .., _ => ⟨_, rfl, doLinkCtlFrame_fuses ..⟩
  | .creditReportTimer .., _ => ⟨_, rfl, doCreditReportTimer_fuses ..⟩
  | .laneFailed .., _ => ⟨_, rfl, Dev.laneFails_fuses ..⟩
  | .laneMapSwitch .., _ => ⟨_, rfl, doLaneMapSwitch_fuses ..⟩
  | .portDown .., _ => ⟨_, rfl, Dev.portFails_fuses ..⟩
  | .laneRetrain .., _ => ⟨_, rfl, doLaneRetrain_fuses ..⟩
  | .portUp .., _ => ⟨_, rfl, doPortUp_fuses ..⟩
  | .rateLimitRecovery .., _ => ⟨_, rfl, doRateLimitRecovery_fuses ..⟩
  | .requestTimeout .., _ => ⟨_, rfl, doRequestTimeout_fuses ..⟩
  | .ondieTimeout .., _ => ⟨_, rfl, (Dev.ctlRunAll_fuses ..).trans (doOndieTimeout_fuses ..)⟩
  | .tagQuarantineEnd .., _ => ⟨_, rfl, doTagQuarantineEnd_fuses ..⟩
  | .ruChunkRead .., _ => ⟨_, rfl, doRuChunkRead_fuses ..⟩
  | .collUp .., _ => ⟨_, rfl, doCollUp_fuses ..⟩
  | .collDown .., _ => ⟨_, rfl, doCollDown_fuses ..⟩
  | .collArrive .., _ => ⟨_, rfl, doCollArrive_fuses ..⟩
  | .collRelease .., _ => ⟨_, rfl, doCollRelease_fuses ..⟩
  | .collAbort .., _ => ⟨_, rfl, doCollAbort_fuses ..⟩
  | .collr .., _ => ⟨_, rfl, doCollr_fuses ..⟩
  | .collResend .., _ => ⟨_, rfl, doCollResend_fuses ..⟩
  | .arriveLimit .., _ => ⟨_, rfl, doArriveLimit_fuses ..⟩
  | .beaconSend, _ => ⟨_, rfl, doBeaconSend_fuses ..⟩
  | .beacon .., _ => ⟨_, rfl, doBeacon_fuses ..⟩
  | .electionComplete, _ => ⟨_, rfl, doElectionComplete_fuses ..⟩
  | .heartbeatSend, _ => ⟨_, rfl, doHeartbeatSend_fuses ..⟩
  | .heartbeat .., _ => ⟨_, rfl, doHeartbeat_fuses ..⟩
  | .heartbeatLoss, _ => ⟨_, rfl, doHeartbeatLoss_fuses ..⟩
  | .stateSync .., _ => ⟨_, rfl, doStateSync_fuses ..⟩
  | .syncAckTimeout, _ => ⟨_, rfl, doSyncAckTimeout_fuses ..⟩
  | .takeover .., _ => ⟨_, rfl, doTakeover_fuses ..⟩
  | .takeoverResend, _ => ⟨_, rfl, doTakeoverResend_fuses ..⟩
  | .takeoverSilence .., _ => ⟨_, rfl, doTakeoverSilence_fuses ..⟩
  | .aliveSend, _ => ⟨_, rfl, doAliveSend_fuses ..⟩
  | .alive .., _ => ⟨_, rfl, doAlive_fuses ..⟩
  | .aliveTimeout, _ => ⟨_, rfl, doAliveTimeout_fuses ..⟩
  | .takebackStart, _ => ⟨_, rfl, doTakebackStart_fuses ..⟩
  | .takeback .., _ => ⟨_, rfl, doTakeback_fuses ..⟩
  | .probe .., _ => ⟨_, rfl, doProbe_fuses ..⟩
  | .probeReply .., _ => ⟨_, rfl, doProbeReply_fuses ..⟩
  | .neighbours .., _ => ⟨_, rfl, doNeighbours_fuses ..⟩
  | .assign .., _ => ⟨_, rfl, doAssign_fuses ..⟩
  | .portEvent .., _ => ⟨_, rfl, doPortEvent_fuses ..⟩
  | .drain .., _ => ⟨_, rfl, doDrain_fuses ..⟩
  | .niDrainStop .., _ => ⟨_, rfl, Dev.setStop_fuses ..⟩
  | .drainReport .., _ => ⟨_, rfl, doDrainReport_fuses ..⟩
  | .drainLimit .., _ => ⟨_, rfl, doDrainLimit_fuses ..⟩
  | .install .., _ => ⟨_, rfl, doInstall_fuses ..⟩
  | .installDone .., _ => ⟨_, rfl, doInstallDone_fuses ..⟩
  | .resume .., _ => ⟨_, rfl, doResume_fuses ..⟩
  | .request .., _ => ⟨_, rfl, doRequest_fuses ..⟩
  | .answer .., _ => ⟨_, rfl, doAnswer_fuses ..⟩
  | .group6WaitTimeout .., _ => ⟨_, rfl, doGroup6WaitTimeout_fuses ..⟩
  | .sliceAbort .., _ => ⟨_, rfl, doSliceAbort_fuses ..⟩
  | .teardownReport .., _ => ⟨_, rfl, doTeardownReport_fuses ..⟩
  | .abortResend .., _ => ⟨_, rfl, doAbortResend_fuses ..⟩
  | .restart .., _ => ⟨_, rfl, doRestart_fuses ..⟩
  | .firmwareChunk .., _ => ⟨_, rfl, doFirmwareChunk_fuses ..⟩
  | .hangSample, _ => ⟨_, rfl, doHangSample_fuses ..⟩
  | .resetAgentConfirm .., _ => ⟨_, rfl, doResetAgentConfirm_fuses ..⟩
  | .teardownDrained .., _ => ⟨_, rfl, doTeardownDrained_fuses ..⟩
  | .teardownTimeout .., _ => ⟨_, rfl, doTeardownTimeout_fuses ..⟩
  | .engineResetTimeout .., _ => ⟨_, rfl, doEngineResetTimeout_fuses ..⟩
  | .partitionResetTimeout .., _ => ⟨_, rfl, doPartitionResetTimeout_fuses ..⟩
  | .grantFillDone .., _ => ⟨_, rfl, doGrantFillDone_fuses ..⟩
  | .scrubDone .., _ => ⟨_, rfl, doScrubDone_fuses ..⟩
  | .patrolRead .., _ => ⟨_, rfl, doPatrolRead_fuses ..⟩
  | .bandMove .., _ => ⟨_, rfl, doBandMove_fuses ..⟩
  | .channelLost .., _ => ⟨_, rfl, Dev.loseChan_fuses ..⟩
  | .memTrainLost .., _ => ⟨_, rfl, doMemTrainLost_fuses ..⟩
  | .memRetrainDone .., _ => ⟨_, rfl, doMemRetrainDone_fuses ..⟩
  | .mbxSend .., _ => ⟨_, rfl, Dev.ctlWrite_fuses _ _ _ _ _ _ (fun _ => doMbxSend_fuses ..)⟩
  | .mbxTake .., _ => ⟨_, rfl, doMbxTake_fuses ..⟩
  | .receiverReset .., _ => ⟨_, rfl, doReceiverReset_fuses ..⟩
  | .resend .., _ => ⟨_, rfl, doResend_fuses ..⟩
  | .cancel .., _ => ⟨_, rfl, doCancel_fuses ..⟩
  | .dbPendClear .., _ => exec_dbPendClear_keeps_fuses ..
  | .dbMaskWrite .., _ => ⟨_, rfl, Dev.ctlWrite_fuses _ _ _ _ _ _ (fun _ => doDbMaskWrite_fuses ..)⟩
  | .hdmaRingWrite .., _ => ⟨_, rfl, Dev.ctlWrite_fuses _ _ _ _ _ _ (fun _ => doHdmaRingWrite_fuses ..)⟩
  | .hdmaTailWrite .., _ => ⟨_, rfl, Dev.ctlWrite_fuses _ _ _ _ _ _ (fun _ => doHdmaTailWrite_fuses ..)⟩
  | .hdmaCtlWrite .., _ => ⟨_, rfl, Dev.ctlWrite_fuses _ _ _ _ _ _ (fun _ => doHdmaCtlWrite_fuses ..)⟩
  | .hdmaDescriptorStart .., _ => ⟨_, rfl, doHdmaDescriptorStart_fuses ..⟩
  | .hdmaComplete .., _ => ⟨_, rfl, doHdmaComplete_fuses ..⟩
  | .hostWinCfgWrite .., _ => ⟨_, rfl, doHostWinCfgWrite_fuses ..⟩
  | .hostWinRead .., _ => ⟨_, rfl, doHostWinRead_fuses ..⟩
  | .hostWinWrite .., _ => ⟨_, rfl, doHostWinWrite_fuses ..⟩
  | .functionLevelReset .., _ => ⟨_, rfl, Dev.flr_fuses ..⟩
  | .hotReset, _ => ⟨_, rfl, Dev.hotReset_fuses ..⟩
  | .perstN .., _ => ⟨_, rfl, doPerstN_fuses ..⟩
  | .devInfo .., _ => ⟨_, rfl, doDevInfo_fuses ..⟩
  | .devHealth .., _ => ⟨_, rfl, doDevHealth_fuses ..⟩
  | .cfgGet .., _ => ⟨_, rfl, doCfgGet_fuses ..⟩
  | .cfgStage .., _ => ⟨_, rfl, doCfgStage_fuses ..⟩
  | .cfgCommit .., _ => ⟨_, rfl, doCfgCommit_fuses ..⟩
  | .partCreate .., _ => ⟨_, rfl, doPartCreate_fuses ..⟩
  | .partDestroy .., _ => ⟨_, rfl, doPartDestroy_fuses ..⟩
  | .partQuery .., _ => ⟨_, rfl, doPartQuery_fuses ..⟩
  | .partSetMode .., _ => ⟨_, rfl, doPartSetMode_fuses ..⟩
  | .ctxCreate .., _ => ⟨_, rfl, doCtxCreate_fuses ..⟩
  | .ctxDestroy .., _ => ⟨_, rfl, doCtxDestroy_fuses ..⟩
  | .ctxSched .., _ => ⟨_, rfl, doCtxSched_fuses ..⟩
  | .ctxResetClear .., _ => ⟨_, rfl, doCtxResetClear_fuses ..⟩
  | .ctxResetResume .., _ => ⟨_, rfl, doCtxResetResume_fuses ..⟩
  | .progLoad .., _ => ⟨_, rfl, doProgLoad_fuses ..⟩
  | .progStart .., _ => ⟨_, rfl, doProgStart_fuses ..⟩
  | .cultureSetRegister .., _ => ⟨_, rfl, doCultureSetRegister_fuses ..⟩
  | .cultureSetWrite .., _ => ⟨_, rfl, doCultureSetWrite_fuses ..⟩
  | .memMap .., _ => ⟨_, rfl, doMemMap_fuses ..⟩
  | .memUnmap .., _ => ⟨_, rfl, doMemUnmap_fuses ..⟩
  | .memScrub .., _ => ⟨_, rfl, doMemScrub_fuses ..⟩
  | .memRetire .., _ => ⟨_, rfl, doMemRetire_fuses ..⟩
  | .sliceCreate .., _ => ⟨_, rfl, doSliceCreate_fuses ..⟩
  | .sliceDestroy .., _ => ⟨_, rfl, doSliceDestroy_fuses ..⟩
  | .sliceQuery .., _ => ⟨_, rfl, doSliceQuery_fuses ..⟩
  | .fabricMap .., _ => ⟨_, rfl, doFabricMap_fuses ..⟩
  | .fltList .., _ => ⟨_, rfl, doFltList_fuses ..⟩
  | .fltAck .., _ => ⟨_, rfl, doFltAck_fuses ..⟩
  | .evtRead .., _ => ⟨_, rfl, doEvtRead_fuses ..⟩
  | .evtMark .., _ => ⟨_, rfl, doEvtMark_fuses ..⟩
  | .resetReqContext .., _ => ⟨_, rfl, doResetReqContext_fuses ..⟩
  | .resetReqEngine .., _ => ⟨_, rfl, doResetReqEngine_fuses ..⟩
  | .resetReqPartition .., _ => ⟨_, rfl, doResetReqPartition_fuses ..⟩
  | .resetReqChip .., _ => ⟨_, rfl, doResetReqChip_fuses ..⟩
  | .resetReqPowerCycle .., _ => ⟨_, rfl, doResetReqPowerCycle_fuses ..⟩
  | .serviceReturn .., _ => ⟨_, rfl, doServiceReturn_fuses ..⟩
  | .fwStage .., _ => ⟨_, rfl, doFwStage_fuses ..⟩
  | .fwActivateNextReset .., _ => ⟨_, rfl, doFwActivateNextReset_fuses ..⟩
  | .fwActivateNow .., _ => ⟨_, rfl, doFwActivateNow_fuses ..⟩
  | .fwQuery .., _ => ⟨_, rfl, doFwQuery_fuses ..⟩
  | .attest .., _ => ⟨_, rfl, doAttest_fuses ..⟩
  | .keyPublicGet .., _ => ⟨_, rfl, doKeyPublicGet_fuses ..⟩
  | .keyInstallModel .., _ => ⟨_, rfl, doKeyInstallModel_fuses ..⟩
  | .keyInstallLink .., _ => ⟨_, rfl, doKeyInstallLink_fuses ..⟩
  | .keyInstallImport .., _ => ⟨_, rfl, doKeyInstallImport_fuses ..⟩
  | .keyInstallExport .., _ => ⟨_, rfl, doKeyInstallExport_fuses ..⟩
  | .debugUnlock .., _ => ⟨_, rfl, doDebugUnlock_fuses ..⟩
  | .telRead .., _ => ⟨_, rfl, doTelRead_fuses ..⟩
  | .pwrLimit .., _ => ⟨_, rfl, doPwrLimit_fuses ..⟩
  | .rolloverDone, _ => ⟨_, rfl, doRolloverDone_fuses ..⟩
  | .faultMessage .., _ => ⟨_, rfl, doFaultMessage_fuses ..⟩
  | .stopOverrun .., _ => ⟨_, rfl, doStopOverrun_fuses ..⟩
  | .ringStopLost .., _ => ⟨_, rfl, doRingStopLost_fuses ..⟩
  | .quietPeriod, _ => ⟨_, rfl, doQuietPeriod_fuses ..⟩
  | .caveFlush .., _ => ⟨_, rfl, doCaveFlush_fuses ..⟩
  | .caveFlushTimer, _ => ⟨_, rfl, doCaveFlushTimer_fuses ..⟩
  | .operatingSecondsWrite, _ => ⟨_, rfl, doOperatingSecondsWrite_fuses ..⟩
  | .cvBlock .., _ => ⟨_, rfl, doCvBlock_fuses ..⟩
  | .cvFailed .., _ => ⟨_, rfl, doCvFailed_fuses ..⟩
  | .mgmtFailover, _ => ⟨_, rfl, Dev.failover_fuses ..⟩
  | .standbySelftestDone .., _ => ⟨_, rfl, doStandbySelftestDone_fuses ..⟩
  | .spareSelftest .., _ => ⟨_, rfl, doSpareSelftest_fuses ..⟩
  | .bootS0 .., _ => ⟨_, rfl, doBootS0_fuses ..⟩
  | .bootS1 .., _ => ⟨_, rfl, doBootS1_fuses ..⟩
  | .bootS2 .., _ => ⟨_, rfl, doBootS2_fuses ..⟩
  | .bootS3 .., _ => ⟨_, rfl, doBootS3_fuses ..⟩
  | .bootS4, _ => ⟨_, rfl, doBootS4_fuses ..⟩
  | .bootS5 .., _ => ⟨_, rfl, doBootS5_fuses ..⟩
  | .bootS6 .., _ => ⟨_, rfl, doBootS6_fuses ..⟩
  | .bootS7, _ => ⟨_, rfl, doBootS7_fuses ..⟩
  | .bootS8, h => absurd rfl h
  | .startTimeout, _ => ⟨_, rfl, doStartTimeout_fuses ..⟩
  | .bootHoldRelease, _ => ⟨_, rfl, doBootHoldRelease_fuses ..⟩
  | .vatBcastArm .., _ => ⟨_, rfl, doVatBcastArm_fuses ..⟩
  | .repairRound, _ => ⟨_, rfl, doRepairRound_fuses ..⟩
  | .powerSample .., _ => ⟨_, rfl, doPowerSample_fuses ..⟩
  | .currentFastPath .., _ => ⟨_, rfl, doCurrentFastPath_fuses ..⟩
  | .thermalTrip .., _ => ⟨_, rfl, doThermalTrip_fuses ..⟩
  | .standbyPowerOn, _ => ⟨_, rfl, doStandbyPowerOn_fuses ..⟩
  | .mainPowerOn .., _ => ⟨_, rfl, doMainPowerOn_fuses ..⟩
  | .powerFail .., _ => ⟨_, rfl, doPowerFail_fuses ..⟩
  | .sbChipReset, _ => ⟨_, rfl, doSbChipReset_fuses ..⟩
  | .sbCaveFlush, _ => ⟨_, rfl, doSbCaveFlush_fuses ..⟩
  | .sbFwOpen, _ => ⟨_, rfl, doSbFwOpen_fuses ..⟩
  | .sbFwCommit, _ => ⟨_, rfl, doSbFwCommit_fuses ..⟩
  | .registerWrite .., _ => ⟨_, rfl, doRegisterWrite_fuses ..⟩
  | .postedStorePerformed .., _ => ⟨_, rfl, (Dev.curdDone_fuses ..).trans (doPostedStorePerformed_fuses ..)⟩
  | .jtagInstruction .., _ => ⟨_, rfl, doJtagInstruction_fuses ..⟩
  | .dynamicAddressAssignment .., _ => ⟨_, rfl, doDynamicAddressAssignment_fuses ..⟩
  | .holdUpCharged, _ => ⟨_, rfl, doHoldUpCharged_fuses ..⟩
  | .holdUpExhausted, _ => ⟨_, rfl, doHoldUpExhausted_fuses ..⟩
  | .chipNoAnswer .., _ => ⟨_, rfl, doChipNoAnswer_fuses ..⟩

theorem exec_answers (c : Instr) (s : State) : ∃ d, exec c s = s.next d := by
  by_cases h : c = .bootS8
  · exact ⟨doBootS8 s.dev, by rw [h]; rfl⟩
  · obtain ⟨d, hd, -⟩ := exec_keeps_fuses s c h
    exact ⟨d, hd⟩

/-- Settles O51. -/
theorem everyCommandAnswersANextState : Obligations.EveryCommandAnswersANextState := by
  unfold Obligations.EveryCommandAnswersANextState
  exact exec_answers

/-! ## Steps -/

theorem step_cons (c : Instr) (rest : List Instr) (d : Dev) : step ⟨c :: rest, d⟩ = exec c ⟨rest, d⟩ := rfl

theorem step_nil (d : Dev) : step ⟨[], d⟩ = .next ⟨[], d.idle⟩ := rfl

theorem State.always_runs (s : State) : s.runs := by
  obtain ⟨_ | ⟨c, rest⟩, d⟩ := s
  · exact ⟨_, step_nil d⟩
  · obtain ⟨e, he⟩ := exec_answers c ⟨rest, d⟩
    exact ⟨_, he⟩

/-- A step takes at most the front of the queue. -/
theorem step_pending {s t : State} (h : step s = .next t) : t.pending = s.pending.tail := by
  obtain ⟨_ | ⟨c, rest⟩, d⟩ := s
  · cases (step_nil d).symm.trans h; rfl
  · obtain ⟨e, he⟩ := exec_answers c ⟨rest, d⟩
    cases he.symm.trans h; rfl

/-- Settles O49. -/
theorem stepRunsTheFrontCommand : Obligations.StepRunsTheFrontCommand := by
  unfold Obligations.StepRunsTheFrontCommand
  exact step_cons

/-- Settles O52: what waits after a step waited before it. -/
theorem theQueueStaysWellFormed : Obligations.TheQueueStaysWellFormed := by
  unfold Obligations.TheQueueStaysWellFormed
  intro s t hwf hstep
  refine ⟨fun c hc => hwf c ?_, t.always_runs⟩
  rw [step_pending hstep] at hc
  exact List.mem_of_mem_tail hc

/-! ## The fuses -/

/-- The fuses `g` are `f` but for security versions, none of which is lower. -/
def FusesRaised (f g : Fuses) : Prop := g = { f with secVersion := g.secVersion } ∧ ∀ c, smGet 0 f.secVersion c ≤ smGet 0 g.secVersion c

theorem FusesRaised.of_eq {f g : Fuses} (h : g = f) : FusesRaised f g := by
  subst h; exact ⟨rfl, fun _ => Nat.le_refl _⟩

theorem FusesRaised.trans {f g k : Fuses} (h : FusesRaised f g) (h' : FusesRaised g k) : FusesRaised f k := by
  obtain ⟨hg, hle⟩ := h
  obtain ⟨hk, hle'⟩ := h'
  exact ⟨by rw [hk, hg], fun c => (hle c).trans (hle' c)⟩

/-- The fused minimum of a component raised to at least `v`. -/
theorem FusesRaised.raise (f : Fuses) (c v : Nat) :
    FusesRaised f { f with secVersion := smSet 0 f.secVersion c (max (smGet 0 f.secVersion c) v) } := by
  refine ⟨rfl, fun j => ?_⟩
  rw [smGet_set]
  split
  · subst j; exact Nat.le_max_left _ _
  · exact Nat.le_refl _

theorem Sec.proven_raises (x : Sec) : FusesRaised x.fuses x.proven.fuses := by
  unfold Sec.proven
  refine foldl_keeps (fun y : Sec => FusesRaised x.fuses y.fuses) _ (fun y hy c _ => ?_) (.of_eq rfl)
  dsimp only
  split
  · exact hy.trans (.raise ..)
  · exact hy.trans (.raise ..)

theorem doBootS8_raises (d : Dev) : FusesRaised d.sec.fuses (doBootS8 d).sec.fuses := by
  unfold doBootS8
  split
  · exact .of_eq rfl
  · simpa only [Dev.resumeCut_fuses, Dev.enterOos_fuses, Dev.stageRecord_fuses] using d.sec.proven_raises

theorem exec_raises {c : Instr} {s t : State} (h : exec c s = .next t) : FusesRaised s.dev.sec.fuses t.dev.sec.fuses := by
  by_cases hc : c = .bootS8
  · subst hc; cases h; exact doBootS8_raises s.dev
  · obtain ⟨d, hd, hf⟩ := exec_keeps_fuses s c hc
    cases hd.symm.trans h; exact .of_eq hf

/-- Settles O55: no command but BOOT_S8 touches the fuses, and BOOT_S8 raises security versions to a maximum (R384). -/
theorem fusesAreNeverLowered : Obligations.FusesAreNeverLowered := by
  unfold Obligations.FusesAreNeverLowered
  intro s t h
  obtain ⟨_ | ⟨c, rest⟩, d⟩ := s
  · cases (step_nil d).symm.trans h; exact FusesRaised.of_eq d.idle_fuses
  · exact exec_raises (s := ⟨rest, d⟩) h

/-! ## The empty queue (notes/assumptions/6.md) -/

theorem Dev.rotBack_of_stays {d : Dev} (h : d.host.recvUpSec = true ∨ d.pwr.islandUp = false ∨ d.boot.stage = 0 ∨ d.boot.chipResetting = true) :
    d.rotBack = d := by
  refine if_neg fun hc => ?_
  simp only [Bool.and_eq_true, Bool.not_eq_true', decide_eq_true_eq] at hc
  obtain ⟨⟨⟨hrecv, hisl⟩, hst⟩, hchip⟩ := hc
  rcases h with h | h | h | h
  · simp [h] at hrecv
  · simp [h] at hisl
  · omega
  · simp [h] at hchip

theorem Xmss.reload_next (x : Xmss) : x.reload.next = x.mark.getD 0 := by unfold Xmss.reload; split <;> simp [*]
theorem Xmss.reload_limit (x : Xmss) : x.reload.limit = x.reload.next := by unfold Xmss.reload; split <;> rfl

@[simp] theorem tick_host (d : Dev) : (tick d).host = d.host := by unfold tick; split <;> rfl
@[simp] theorem tick_boot (d : Dev) : (tick d).boot = d.boot := by unfold tick; split <;> rfl
@[simp] theorem tick_pwr (d : Dev) : (tick d).pwr = d.pwr := by unfold tick; split <;> rfl
@[simp] theorem tick_sec (d : Dev) : (tick d).sec = d.sec := by unfold tick; split <;> rfl

/-- The signing states of a root-of-trust that runs again stand at their marks. -/
theorem Dev.rotRestart_marks (d : Dev) :
    d.rotRestart.sec.att.next = d.sec.att.mark.getD 0 ∧ d.rotRestart.sec.att.limit = d.rotRestart.sec.att.next ∧
      d.rotRestart.sec.idk.next = d.sec.idk.mark.getD 0 := by
  have hatt : d.rotRestart.sec.att = d.sec.att.reload := by unfold Dev.rotRestart; dsimp only; split <;> rfl
  have hidk : d.rotRestart.sec.idk = d.sec.idk.reload := by unfold Dev.rotRestart; dsimp only; split <;> rfl
  rw [hatt, hidk]
  exact ⟨d.sec.att.reload_next, d.sec.att.reload_limit, d.sec.idk.reload_next⟩

/-- Settles O50. -/
theorem anEmptyQueueLetsTimePass : Obligations.AnEmptyQueueLetsTimePass := by
  unfold Obligations.AnEmptyQueueLetsTimePass
  intro d d1
  refine ⟨fun h => ?_, fun hrecv hisl hst hchip => ?_⟩
  · rw [step_nil, Dev.idle, Dev.rotBack_of_stays (by simpa using h)]; rfl
  · have hidle : d.idle = (tick d).rotRestart := if_pos (by simp [hrecv, hisl, hst, hchip])
    obtain ⟨hn, hl, hi⟩ := (tick d).rotRestart_marks
    have htimer : (tick d).timer = d.timer + 1 := by simp [tick, hisl]
    have hhost : (tick d).rotRestart.host = { (tick d).host with recvUpSec := true } := rfl
    rw [tick_sec] at hn hi
    rw [tick_host] at hhost
    exact ⟨(tick d).rotRestart, hidle ▸ step_nil d, hhost, htimer, hn, hl, hi, by rw [Dev.rotRestart_fuses, tick_fuses], rfl⟩

/-! ## The module at reset -/

/-- A table built from a function over the first `n` keys gives its values back. -/
theorem smGet_range {α : Type} (z : α) (f : Nat → α) {n j : Nat} (h : j < n) :
    smGet z ((List.range n).map (fun i => (i, f i))) j = f j := by
  have aux (m : Nat) : ∀ lo, lo ≤ j → j < lo + m → smGet z ((List.range' lo m).map (fun i => (i, f i))) j = f j := by
    induction m with
    | zero => intro lo hlo hhi; omega
    | succ m ih =>
      intro lo hlo hhi
      rw [List.range'_succ, List.map_cons, smGet]
      split
      · subst lo; rfl
      · exact ih (lo + 1) (by omega) (by omega)
  rw [List.range_eq_range']
  exact aux n 0 (Nat.zero_le j) (by omega)

theorem Dev.reset_vat {n : Nat} (h : n < 288) : Dev.reset.vat n = defaultVat n := smGet_range _ _ h

/-- Rows 8 and 9 of the mesh hold the spare vats (01_architecture.md R20). -/
theorem defaultVat_spare (x y : Nat) (hx : x < 16) : (defaultVat (16 * y + x)).lst = .spare ↔ y = 8 ∨ y = 9 := by
  have hy : (16 * y + x) / 16 = y := by omega
  unfold defaultVat
  rw [hy]
  by_cases h : y = 8 ∨ y = 9
  · simp [h]
  · simp [h]

/-- Settles O53. -/
theorem resetLeavesTheModuleUnstarted : Obligations.ResetLeavesTheModuleUnstarted := by
  unfold Obligations.ResetLeavesTheModuleUnstarted
  intro d
  refine ⟨rfl, fun _ hc => absurd hc List.not_mem_nil, State.reset.always_runs, fun _ => rfl, rfl, rfl, rfl, fun _ => rfl, fun _ => rfl, fun _ _ => rfl,
    rfl, rfl, rfl, by decide, by decide, by decide, by decide, by decide, rfl, rfl, rfl, rfl, fun x y hx hy => ?_⟩
  rw [show d.vat (16 * y + x) = defaultVat (16 * y + x) from Dev.reset_vat (by omega)]
  exact defaultVat_spare x y hx

theorem Memory.wf_nil : Memory.wf [] = true := rfl

theorem defaultVat_vs (n : Nat) : (defaultVat n).vs = [] := by unfold defaultVat; dsimp only; split <;> rfl

theorem smGet_vs_nil {m : SMap Vat} (h : ∀ e ∈ m, e.2.vs = []) (n : Nat) : (smGet Vat.init m n).vs = [] := by
  induction m with
  | nil => rfl
  | cons e m ih =>
    rw [smGet]
    split
    · exact h e List.mem_cons_self
    · exact ih (fun e he => h e (List.mem_cons_of_mem _ he))

theorem Dev.reset_vat_vs (n : Nat) : (Dev.reset.vat n).vs = [] := by
  refine smGet_vs_nil (fun e he => ?_) n
  obtain ⟨i, -, rfl⟩ := List.mem_map.1 he
  exact defaultVat_vs i

/-- Settles O54. -/
theorem resetMemoriesReadZero : Obligations.ResetMemoriesReadZero := by
  unfold Obligations.ResetMemoriesReadZero
  intro d
  refine ⟨fun _ => ⟨rfl, rfl⟩, fun n => ?_, rfl, fun _ => rfl⟩
  rw [show (d.vat n).vs = [] from Dev.reset_vat_vs n]
  exact Memory.wf_nil

end Sys2Proof.Machine
end

section
/-! PROOFS. The curd's words (03_curd_core.md R81-R96, R102, R104): the fields of each format's word, that decoding an encoded
instruction gives it back, and that what decodes keeps its reserved fields at zero. -/

namespace Sys2Proof.Machine

/-! ## Fields of a word -/

/-- A field read inside a wider field. -/
theorem bits_bits (w : Nat) {hi lo H L : Nat} (hl : L ≤ lo) (hh : hi ≤ H) (hlh : lo ≤ hi) :
    bits (bits w H L) (hi - L) (lo - L) = bits w hi lo := by
  obtain ⟨a, rfl⟩ : ∃ a, lo = L + a := ⟨lo - L, by omega⟩
  unfold bits
  have hsplit : 2 ^ (H + 1 - L) = 2 ^ a * 2 ^ (H + 1 - (L + a)) := by rw [← pow_add]; congr 1; omega
  have hdvd : 2 ^ (hi + 1 - (L + a)) ∣ 2 ^ (H + 1 - (L + a)) := pow_dvd_pow 2 (by omega)
  rw [Nat.add_sub_cancel_left, hsplit, Nat.mod_mul_right_div_self, Nat.div_div_eq_div_mul, ← pow_add,
    show hi - L + 1 - a = hi + 1 - (L + a) by omega, Nat.mod_mod_of_dvd _ hdvd]

/-- A field read inside a field whose value is known. -/
theorem bits_of_field {w f H L : Nat} (hf : bits w H L = f) (hi lo : Nat) (hl : L ≤ lo) (hh : hi ≤ H) (hlh : lo ≤ hi) :
    bits w hi lo = bits f (hi - L) (lo - L) := by
  rw [← hf, bits_bits w hl hh hlh]

theorem bits_of_low {w f H : Nat} (hf : bits w H 0 = f) (hi lo : Nat) (hh : hi ≤ H) (hlh : lo ≤ hi) : bits w hi lo = bits f hi lo :=
  bits_of_field hf hi lo (Nat.zero_le lo) hh hlh

theorem fReg_of_bits {w hi lo : Nat} {r : Reg} (h : bits w hi lo = r.toNat) (hhi : hi = lo + 4) : fReg w lo = r := by
  rw [fReg, ← hhi, h, BitVec.ofNat_toNat, BitVec.setWidth_eq]

theorem fV_of_bits {w hi lo : Nat} {v : VReg} (h : bits w hi lo = v.toNat) (hhi : hi = lo + 3) : fV w lo = v := by
  rw [fV, ← hhi, h, BitVec.ofNat_toNat, BitVec.setWidth_eq]

theorem fImm_of_bits {w : Nat} {i : Imm} (h : bits w 15 0 = i.toNat) : fImm w = i := by
  rw [fImm, h, BitVec.ofNat_toNat, BitVec.setWidth_eq]

theorem bit_of_bits {w i : Nat} {b : Bool} (h : bits w i i = boolNat b) : bit w i = b := by
  have hb : w / 2 ^ i % 2 = boolNat b := by rw [← h, bits, Nat.add_sub_cancel_left, pow_one]
  rw [bit, hb]; cases b <;> rfl

theorem boolNat_le (b : Bool) : boolNat b ≤ 1 := by cases b <;> decide

/-! ## Codes -/

theorem AluOp.ofCode_code (op : AluOp) : AluOp.ofCode op.code = some op := by cases op <;> rfl
theorem AluOp.code_lt (op : AluOp) : op.code < 2048 := by cases op <;> decide
theorem ShOp.ofCode_code (op : ShOp) : ShOp.ofCode op.code = op := by cases op <;> rfl
theorem ShOp.code_lt (op : ShOp) : op.code < 4 := by cases op <;> decide
theorem AmoOp.ofCode_code (op : AmoOp) : AmoOp.ofCode op.code = some op := by cases op <;> rfl
theorem AmoOp.code_lt (op : AmoOp) : op.code < 16 := by cases op <;> decide
theorem VOp.ofCode_code (op : VOp) : VOp.ofCode op.code = some op := by cases op <;> rfl
theorem VOp.code_lt (op : VOp) : op.code < 256 := by cases op <;> decide
theorem RedOp.ofCode_code (op : RedOp) : RedOp.ofCode op.code = some op := by cases op <;> rfl
theorem RedOp.code_lt (op : RedOp) : op.code < 512 := by cases op <;> decide
theorem Fmt.ofCode_code (f : Fmt) : Fmt.ofCode f.code = some f := by cases f <;> rfl
theorem Fmt.code_lt (f : Fmt) : f.code < 16 := by cases f <;> decide
theorem FarKind.ofCode_code (k : FarKind) : FarKind.ofCode k.code = some k := by cases k <;> rfl
theorem FarKind.code_lt (k : FarKind) : k.code < 16 := by cases k <;> decide

/-! ## Formats (R81): the fields of a word of each -/

theorem encA_fields {m d a b f : Nat} (hm : m < 64) (hd : d < 32) (ha : a < 32) (hb : b < 32) (hf : f < 2048) :
    ∃ w, encA m d a b f = w ∧ bits w 31 26 = m ∧ bits w 25 21 = d ∧ bits w 20 16 = a ∧
      bits w 15 11 = b ∧ bits w 10 0 = f ∧ w < 2 ^ 32 := by
  refine ⟨_, rfl, ?_⟩
  unfold encA bits
  exact ⟨by omega, by omega, by omega, by omega, by omega⟩

theorem encI_fields {m d a i : Nat} (hm : m < 64) (hd : d < 32) (ha : a < 32) (hi : i < 65536) :
    ∃ w, encI m d a i = w ∧ bits w 31 26 = m ∧ bits w 25 21 = d ∧ bits w 20 16 = a ∧
      bits w 15 0 = i ∧ w < 2 ^ 32 := by
  refine ⟨_, rfl, ?_⟩
  unfold encI bits
  exact ⟨by omega, by omega, by omega, by omega⟩

theorem encS_fields {d a b k f : Nat} (hd : d < 32) (ha : a < 32) (hb : b < 32) (hk : k < 16) (hf : f < 128) :
    ∃ w, encS d a b k f = w ∧ bits w 31 26 = 0x3E ∧ bits w 25 21 = d ∧ bits w 20 16 = a ∧
      bits w 15 11 = b ∧ bits w 10 7 = k ∧ bits w 6 0 = f ∧ w < 2 ^ 32 := by
  refine ⟨_, rfl, ?_⟩
  unfold encS bits
  exact ⟨by omega, by omega, by omega, by omega, by omega, by omega⟩

theorem encQ_fields {m ga k c : Nat} (hm : m < 64) (hg : ga < 32) (hk : k < 16) (hc : c < 4) :
    ∃ w, encQ m ga k c = w ∧ bits w 31 26 = m ∧ bits w 25 21 = ga ∧ bits w 20 16 = 0 ∧
      bits w 15 12 = k ∧ bits w 11 10 = c ∧ bits w 9 0 = 0 ∧ w < 2 ^ 32 := by
  refine ⟨_, rfl, ?_⟩
  unfold encQ bits
  exact ⟨by omega, by omega, by omega, by omega, by omega, by omega⟩

theorem encV_fields {m vd va vb gs f : Nat} (hm : m < 64) (hd : vd < 16) (ha : va < 16) (hb : vb < 16) (hg : gs < 32) (hf : f < 512) :
    ∃ w, encV m vd va vb gs f = w ∧ bits w 31 26 = m ∧ bits w 25 22 = vd ∧ bits w 21 18 = va ∧ bits w 17 14 = vb ∧ bits w 13 9 = gs ∧ bits w 8 0 = f ∧ w < 2 ^ 32 := by
  refine ⟨_, rfl, ?_⟩
  unfold encV bits
  exact ⟨by omega, by omega, by omega, by omega, by omega⟩

theorem encVM_fields {m v a i : Nat} (hm : m < 64) (hv : v < 16) (ha : a < 32) (hi : i < 65536) :
    ∃ w, encVM m v a i = w ∧ bits w 31 26 = m ∧ bits w 25 22 = v ∧ bits w 21 21 = 0 ∧ bits w 20 16 = a ∧
      bits w 15 0 = i ∧ w < 2 ^ 32 := by
  refine ⟨_, rfl, ?_⟩
  unfold encVM bits
  exact ⟨by omega, by omega, by omega, by omega, by omega⟩

theorem encT_fields {m t fmt ga gb f : Nat} (hm : m < 64) (ht : t < 4) (hfm : fmt < 16) (hga : ga < 32) (hgb : gb < 32) (hf : f < 1024) :
    ∃ w, encT m t fmt ga gb f = w ∧ bits w 31 26 = m ∧ bits w 25 24 = t ∧ bits w 23 20 = fmt ∧ bits w 19 15 = ga ∧ bits w 14 10 = gb ∧ bits w 9 0 = f ∧ w < 2 ^ 32 := by
  refine ⟨_, rfl, ?_⟩
  unfold encT bits
  exact ⟨by omega, by omega, by omega, by omega, by omega⟩

/-- The word of a far operation. -/
theorem encFar_fields {ga gb k c o l : Nat} (hga : ga < 32) (hgb : gb < 32) (hk : k < 16) (hc : c < 16) (ho : o ≤ 1) (hl : l < 128) :
    ∃ w, 0x3C * 2 ^ 26 + ga * 2 ^ 21 + gb * 2 ^ 16 + k * 2 ^ 12 + c * 2 ^ 8 + o * 2 ^ 7 + l = w ∧ bits w 31 26 = 0x3C ∧ bits w 25 21 = ga ∧
      bits w 20 16 = gb ∧ bits w 15 12 = k ∧ bits w 11 8 = c ∧ bits w 7 7 = o ∧ bits w 6 0 = l ∧ w < 2 ^ 32 := by
  refine ⟨_, rfl, ?_⟩
  unfold bits
  exact ⟨by omega, by omega, by omega, by omega, by omega, by omega, by omega, by omega⟩

/-! ## Decoding what was encoded -/

/-- The instruction is what its word decodes to, and the word has 32 bits. -/
def CurdInstr.RoundTrips (i : CurdInstr) : Prop := decodeCurd (encodeCurd i) = some i ∧ encodeCurd i < 2 ^ 32

theorem CurdInstr.RoundTrips.of_word {i : CurdInstr} {w : Nat} (hw : encodeCurd i = w) (hd : decodeCurd w = some i) (hlt : w < 2 ^ 32) :
    i.RoundTrips := by
  subst hw; exact ⟨hd, hlt⟩

theorem onlyIf_of {α : Type} {c : Bool} {a : α} (h : c = true) : onlyIf c a = some a := by subst h; rfl

/-- The words of format A. -/
theorem roundTrips_alu (op : AluOp) (d a b : Reg) : (CurdInstr.alu op d a b).RoundTrips := by
  obtain ⟨w, hw, hm, hd, ha, hb, hf, hlt⟩ := encA_fields (m := 0x01) (by decide) d.isLt a.isLt b.isLt op.code_lt
  refine .of_word hw ?_ hlt
  delta decodeCurd; rw [hm]; change decAlu w = _; simp only [decAlu, hf, op.ofCode_code, fReg_of_bits hd rfl, fReg_of_bits ha rfl, fReg_of_bits hb rfl]

theorem roundTrips_nop : CurdInstr.nop.RoundTrips := ⟨by decide, by decide⟩
theorem roundTrips_halt : CurdInstr.halt.RoundTrips := ⟨by decide, by decide⟩
theorem roundTrips_brk : CurdInstr.brk.RoundTrips := ⟨by decide, by decide⟩

theorem roundTrips_iwr (a b : Reg) : (CurdInstr.iwr a b).RoundTrips := by
  obtain ⟨w, hw, hm, -, ha, hb, hf, hlt⟩ := encA_fields (m := 0x1A) (d := 0) (f := 3) (by decide) (by decide) a.isLt b.isLt (by decide)
  refine .of_word hw ?_ hlt
  delta decodeCurd; rw [hm]; change decSys w = _; simp only [decSys, hf, fReg_of_bits ha rfl, fReg_of_bits hb rfl]

theorem roundTrips_rand (d : Reg) : (CurdInstr.rand d).RoundTrips := by
  obtain ⟨w, hw, hm, hd, -, -, hf, hlt⟩ := encA_fields (m := 0x1A) (a := 0) (b := 0) (f := 4) (by decide) d.isLt (by decide) (by decide) (by decide)
  refine .of_word hw ?_ hlt
  delta decodeCurd; rw [hm]; change decSys w = _; simp only [decSys, hf, fReg_of_bits hd rfl]

theorem roundTrips_amo (op : AmoOp) (wide : Bool) (d a b : Reg) : (CurdInstr.amo op wide d a b).RoundTrips := by
  have hop := op.code_lt
  have hwide := boolNat_le wide
  obtain ⟨w, hw, hm, hd, ha, hb, hf, hlt⟩ := encA_fields (m := 0x2D) (f := op.code + 16 * boolNat wide) (by decide) d.isLt a.isLt b.isLt (by omega)
  have hcode := (bits_of_low hf 3 0 (by decide) (by decide)).trans (show _ = op.code by unfold bits; omega)
  have hbit := (bits_of_low hf 4 4 (by decide) (by decide)).trans (show _ = boolNat wide by unfold bits; omega)
  have hzero := (bits_of_low hf 10 5 (by decide) (by decide)).trans (show _ = 0 by unfold bits; omega)
  refine .of_word hw ?_ hlt
  delta decodeCurd; rw [hm]; change decAmo w = _; simp [decAmo, onlyIf_of, hcode, hzero, op.ofCode_code, bit_of_bits hbit, fReg_of_bits hd rfl, fReg_of_bits ha rfl,
    fReg_of_bits hb rfl]

/-- The words of formats I and B. -/
theorem roundTrips_imm (op : ImmOp) (d a : Reg) (i : Imm) : (CurdInstr.imm op d a i).RoundTrips := by
  obtain ⟨w, hw, hm, hd, ha, hi, hlt⟩ := encI_fields (m := op.major) (by cases op <;> decide) d.isLt a.isLt i.isLt
  refine .of_word hw ?_ hlt
  delta decodeCurd; rw [hm]
  cases op <;> (change decImm _ w = _; rw [decImm, fReg_of_bits hd rfl, fReg_of_bits ha rfl, fImm_of_bits hi])

theorem roundTrips_branch (c : Cond) (a b : Reg) (off : Imm) : (CurdInstr.branch c a b off).RoundTrips := by
  obtain ⟨w, hw, hm, ha, hb, hi, hlt⟩ := encI_fields (m := 0x10 + c.code) (by cases c <;> decide) a.isLt b.isLt off.isLt
  refine .of_word hw ?_ hlt
  delta decodeCurd; rw [hm]
  cases c <;> (change decBranch _ w = _; rw [decBranch, fReg_of_bits ha rfl, fReg_of_bits hb rfl, fImm_of_bits hi])

theorem roundTrips_load (op : LoadOp) (d a : Reg) (i : Imm) : (CurdInstr.load op d a i).RoundTrips := by
  obtain ⟨w, hw, hm, hd, ha, hi, hlt⟩ := encI_fields (m := 0x20 + op.code) (by cases op <;> decide) d.isLt a.isLt i.isLt
  refine .of_word hw ?_ hlt
  delta decodeCurd; rw [hm]
  cases op <;> (change decLoad _ w = _; rw [decLoad, fReg_of_bits hd rfl, fReg_of_bits ha rfl, fImm_of_bits hi])

theorem roundTrips_store (op : StoreOp) (d a : Reg) (i : Imm) : (CurdInstr.store op d a i).RoundTrips := by
  obtain ⟨w, hw, hm, hd, ha, hi, hlt⟩ := encI_fields (m := 0x27 + op.code) (by cases op <;> decide) d.isLt a.isLt i.isLt
  refine .of_word hw ?_ hlt
  delta decodeCurd; rw [hm]
  cases op <;> (change decStore _ w = _; rw [decStore, fReg_of_bits hd rfl, fReg_of_bits ha rfl, fImm_of_bits hi])

theorem roundTrips_jalr (d a : Reg) (i : Imm) : (CurdInstr.jalr d a i).RoundTrips := by
  obtain ⟨w, hw, hm, hd, ha, hi, hlt⟩ := encI_fields (m := 0x17) (by decide) d.isLt a.isLt i.isLt
  refine .of_word hw ?_ hlt
  delta decodeCurd; rw [hm]; change some (CurdInstr.jalr (fReg w 21) (fReg w 16) (fImm w)) = _; rw [fReg_of_bits hd rfl, fReg_of_bits ha rfl, fImm_of_bits hi]

theorem roundTrips_shi (op : ShOp) (d a : Reg) (n : BitVec 6) : (CurdInstr.shi op d a n).RoundTrips := by
  have hop := op.code_lt
  have hn := n.isLt
  obtain ⟨w, hw, hm, hd, ha, hi, hlt⟩ := encI_fields (m := 0x06) (i := op.code * 64 + n.toNat) (by decide) d.isLt a.isLt (by omega)
  have hzero := (bits_of_low hi 15 8 (by decide) (by decide)).trans (show _ = 0 by unfold bits; omega)
  have hcode := (bits_of_low hi 7 6 (by decide) (by decide)).trans (show _ = op.code by unfold bits; omega)
  have hcount := (bits_of_low hi 5 0 (by decide) (by decide)).trans (show _ = n.toNat by unfold bits; omega)
  refine .of_word hw ?_ hlt
  delta decodeCurd; rw [hm]; change decShi w = _; simp [decShi, onlyIf_of, hzero, hcode, hcount, op.ofCode_code, fReg_of_bits hd rfl, fReg_of_bits ha rfl]

theorem roundTrips_movz (d : Reg) (h : BitVec 2) (i : Imm) : (CurdInstr.movz d h i).RoundTrips := by
  have hh := h.isLt
  obtain ⟨w, hw, hm, hd, hha, hi, hlt⟩ := encI_fields (m := 0x07) (a := h.toNat) (by decide) d.isLt (by omega) i.isLt
  have hzero := (bits_of_field hha 20 18 (by decide) (by decide) (by decide)).trans (show bits h.toNat 4 2 = 0 by unfold bits; omega)
  have hsel := (bits_of_field hha 17 16 (by decide) (by decide) (by decide)).trans (show bits h.toNat 1 0 = h.toNat by unfold bits; omega)
  refine .of_word hw ?_ hlt
  delta decodeCurd; rw [hm]; change decMovz w = _; simp [decMovz, onlyIf_of, hzero, hsel, fReg_of_bits hd rfl, fImm_of_bits hi]

theorem roundTrips_movk (d : Reg) (h : BitVec 2) (i : Imm) : (CurdInstr.movk d h i).RoundTrips := by
  have hh := h.isLt
  obtain ⟨w, hw, hm, hd, hha, hi, hlt⟩ := encI_fields (m := 0x08) (a := h.toNat) (by decide) d.isLt (by omega) i.isLt
  have hzero := (bits_of_field hha 20 18 (by decide) (by decide) (by decide)).trans (show bits h.toNat 4 2 = 0 by unfold bits; omega)
  have hsel := (bits_of_field hha 17 16 (by decide) (by decide) (by decide)).trans (show bits h.toNat 1 0 = h.toNat by unfold bits; omega)
  refine .of_word hw ?_ hlt
  delta decodeCurd; rw [hm]; change decMovk w = _; simp [decMovk, onlyIf_of, hzero, hsel, fReg_of_bits hd rfl, fImm_of_bits hi]

theorem roundTrips_jal (d : Reg) (target : BitVec 12) : (CurdInstr.jal d target).RoundTrips := by
  have ht := target.isLt
  obtain ⟨w, hw, hm, hd, ha, hi, hlt⟩ := encI_fields (m := 0x16) (a := 0) (i := target.toNat) (by decide) d.isLt (by decide) (by omega)
  have hlow := (bits_of_low hi 11 0 (by decide) (by decide)).trans (show _ = target.toNat by unfold bits; omega)
  have hzero : bits w 20 12 = 0 := by unfold bits at ha hi ⊢; omega
  refine .of_word hw ?_ hlt
  delta decodeCurd; rw [hm]; change decJal w = _; simp [decJal, onlyIf_of, hzero, hlow, fReg_of_bits hd rfl]

theorem roundTrips_csrr (d : Reg) (n : Byte) : (CurdInstr.csrr d n).RoundTrips := by
  have hn := n.isLt
  obtain ⟨w, hw, hm, hd, hzero, hi, hlt⟩ := encI_fields (m := 0x18) (a := 0) (i := n.toNat) (by decide) d.isLt (by decide) (by omega)
  have hhigh := (bits_of_low hi 15 8 (by decide) (by decide)).trans (show _ = 0 by unfold bits; omega)
  have hlow := (bits_of_low hi 7 0 (by decide) (by decide)).trans (show _ = n.toNat by unfold bits; omega)
  refine .of_word hw ?_ hlt
  delta decodeCurd; rw [hm]; change decCsrr w = _; simp [decCsrr, onlyIf_of, hzero, hhigh, hlow, fReg_of_bits hd rfl]

theorem roundTrips_csrw (a : Reg) (n : Byte) : (CurdInstr.csrw a n).RoundTrips := by
  have hn := n.isLt
  obtain ⟨w, hw, hm, hzero, ha, hi, hlt⟩ := encI_fields (m := 0x19) (d := 0) (i := n.toNat) (by decide) (by decide) a.isLt (by omega)
  have hhigh := (bits_of_low hi 15 8 (by decide) (by decide)).trans (show _ = 0 by unfold bits; omega)
  have hlow := (bits_of_low hi 7 0 (by decide) (by decide)).trans (show _ = n.toNat by unfold bits; omega)
  refine .of_word hw ?_ hlt
  delta decodeCurd; rw [hm]; change decCsrw w = _; simp [decCsrw, onlyIf_of, hzero, hhigh, hlow, fReg_of_bits ha rfl]

/-- The words of format VM. -/
theorem roundTrips_vld (v : VReg) (a : Reg) (i : Imm) : (CurdInstr.vld v a i).RoundTrips := by
  obtain ⟨w, hw, hm, hv, hzero, ha, hi, hlt⟩ := encVM_fields (m := 0x2B) (by decide) v.isLt a.isLt i.isLt
  refine .of_word hw ?_ hlt
  delta decodeCurd; rw [hm]; change decVld w = _; simp [decVld, onlyIf_of, hzero, fV_of_bits hv rfl, fReg_of_bits ha rfl, fImm_of_bits hi]

theorem roundTrips_vst (v : VReg) (a : Reg) (i : Imm) : (CurdInstr.vst v a i).RoundTrips := by
  obtain ⟨w, hw, hm, hv, hzero, ha, hi, hlt⟩ := encVM_fields (m := 0x2C) (by decide) v.isLt a.isLt i.isLt
  refine .of_word hw ?_ hlt
  delta decodeCurd; rw [hm]; change decVst w = _; simp [decVst, onlyIf_of, hzero, fV_of_bits hv rfl, fReg_of_bits ha rfl, fImm_of_bits hi]

/-- The words of format V. -/
theorem roundTrips_vop (op : VOp) (splat : Bool) (vd va vb : VReg) (gs : Reg) : (CurdInstr.vop op splat vd va vb gs).RoundTrips := by
  have hop := op.code_lt
  have hsplat := boolNat_le splat
  obtain ⟨w, hw, hm, hd, ha, hb, hg, hf, hlt⟩ := encV_fields (m := 0x30) (f := op.code + 256 * boolNat splat) (by decide) vd.isLt va.isLt vb.isLt gs.isLt (by omega)
  have hcode := (bits_of_low hf 7 0 (by decide) (by decide)).trans (show _ = op.code by unfold bits; omega)
  have hbit := (bits_of_low hf 8 8 (by decide) (by decide)).trans (show _ = boolNat splat by unfold bits; omega)
  refine .of_word hw ?_ hlt
  delta decodeCurd; rw [hm]; change decVop w = _; simp only [decVop, hcode, op.ofCode_code, bit_of_bits hbit, fV_of_bits hd rfl, fV_of_bits ha rfl, fV_of_bits hb rfl,
    fReg_of_bits hg rfl]

theorem roundTrips_vred (op : RedOp) (va : VReg) (gs : Reg) : (CurdInstr.vred op va gs).RoundTrips := by
  obtain ⟨w, hw, hm, -, ha, -, hg, hf, hlt⟩ := encV_fields (m := 0x31) (vd := 0) (vb := 0) (by decide) (by decide) va.isLt (by decide) gs.isLt op.code_lt
  refine .of_word hw ?_ hlt
  delta decodeCurd; rw [hm]; change decVred w = _; simp only [decVred, hf, op.ofCode_code, fV_of_bits ha rfl, fReg_of_bits hg rfl]

theorem roundTrips_vsplat (vd : VReg) (gs : Reg) : (CurdInstr.vsplat vd gs).RoundTrips := by
  obtain ⟨w, hw, hm, hd, -, -, hg, hf, hlt⟩ := encV_fields (m := 0x32) (va := 0) (vb := 0) (f := 0) (by decide) vd.isLt (by decide) (by decide) gs.isLt (by decide)
  refine .of_word hw ?_ hlt
  delta decodeCurd; rw [hm]; change decVmov w = _; simp only [decVmov, hf, fV_of_bits hd rfl, fReg_of_bits hg rfl]

theorem roundTrips_vextract (va vb : VReg) (gs : Reg) : (CurdInstr.vextract va vb gs).RoundTrips := by
  obtain ⟨w, hw, hm, -, ha, hb, hg, hf, hlt⟩ := encV_fields (m := 0x32) (vd := 0) (f := 1) (by decide) (by decide) va.isLt vb.isLt gs.isLt (by decide)
  refine .of_word hw ?_ hlt
  delta decodeCurd; rw [hm]; change decVmov w = _; simp only [decVmov, hf, fV_of_bits ha rfl, fV_of_bits hb rfl, fReg_of_bits hg rfl]

theorem roundTrips_vpermute (vd va vb : VReg) : (CurdInstr.vpermute vd va vb).RoundTrips := by
  obtain ⟨w, hw, hm, hd, ha, hb, -, hf, hlt⟩ := encV_fields (m := 0x32) (gs := 0) (f := 2) (by decide) vd.isLt va.isLt vb.isLt (by decide) (by decide)
  refine .of_word hw ?_ hlt
  delta decodeCurd; rw [hm]; change decVmov w = _; simp only [decVmov, hf, fV_of_bits hd rfl, fV_of_bits ha rfl, fV_of_bits hb rfl]

theorem roundTrips_vcvt {widen : Bool} {f : Fmt} {rnd inf : Bool} (vd va : VReg) {group : BitVec 3} (gs : Reg)
    (hok : vcvtOk widen f rnd inf group.toNat = true) : (CurdInstr.vcvt widen f rnd inf vd va group gs).RoundTrips := by
  have hfmt := f.code_lt
  have hgrp := group.isLt
  have hwiden := boolNat_le widen
  have hrnd := boolNat_le rnd
  have hinf := boolNat_le inf
  obtain ⟨w, hw, hm, hd, ha, hb, hg, hf, hlt⟩ := encV_fields (m := 0x33) (vb := group.toNat)
    (f := 256 * boolNat widen + 16 * f.code + 8 * boolNat rnd + 4 * boolNat inf) (by decide) vd.isLt va.isLt (by omega) gs.isLt (by omega)
  have hcode := (bits_of_low hf 7 4 (by decide) (by decide)).trans (show _ = f.code by unfold bits; omega)
  have hbw := (bits_of_low hf 8 8 (by decide) (by decide)).trans (show _ = boolNat widen by unfold bits; omega)
  have hbr := (bits_of_low hf 3 3 (by decide) (by decide)).trans (show _ = boolNat rnd by unfold bits; omega)
  have hbi := (bits_of_low hf 2 2 (by decide) (by decide)).trans (show _ = boolNat inf by unfold bits; omega)
  have hlow := (bits_of_low hf 1 0 (by decide) (by decide)).trans (show _ = 0 by unfold bits; omega)
  have hgroup := (bits_of_field hb 16 14 (by decide) (by decide) (by decide)).trans (show bits group.toNat 2 0 = group.toNat by unfold bits; omega)
  have htop := (bits_of_field hb 17 17 (by decide) (by decide) (by decide)).trans (show bits group.toNat 3 3 = 0 by unfold bits; omega)
  refine .of_word hw ?_ hlt
  delta decodeCurd; rw [hm]; change decVcvt w = _; simp [decVcvt, onlyIf_of, hcode, hlow, hgroup, htop, f.ofCode_code, bit_of_bits hbw, bit_of_bits hbr,
    bit_of_bits hbi, hok, fV_of_bits hd rfl, fV_of_bits ha rfl, fReg_of_bits hg rfl]

/-- The words of format T. -/
theorem roundTrips_tmma {t : Tile} {f : Fmt} (ga gb : Reg) (clr : Bool) {comp inf : Bool} (hok : tmmaOk t f comp inf = true) :
    (CurdInstr.tmma t f ga gb clr comp inf).RoundTrips := by
  have hclr := boolNat_le clr
  have hcomp := boolNat_le comp
  have hinf := boolNat_le inf
  obtain ⟨w, hw, hm, ht, hfm, ha, hb, hf, hlt⟩ := encT_fields (m := 0x38) (f := 512 * boolNat clr + 256 * boolNat comp + 128 * boolNat inf)
    (by decide) t.isLt f.code_lt ga.isLt gb.isLt (by omega)
  have hbclr := (bits_of_low hf 9 9 (by decide) (by decide)).trans (show _ = boolNat clr by unfold bits; omega)
  have hbcomp := (bits_of_low hf 8 8 (by decide) (by decide)).trans (show _ = boolNat comp by unfold bits; omega)
  have hbinf := (bits_of_low hf 7 7 (by decide) (by decide)).trans (show _ = boolNat inf by unfold bits; omega)
  have hlow := (bits_of_low hf 6 0 (by decide) (by decide)).trans (show _ = 0 by unfold bits; omega)
  refine .of_word hw ?_ hlt
  delta decodeCurd; rw [hm]; change decTmma w = _; simp [decTmma, onlyIf_of, ht, hfm, hlow, f.ofCode_code, bit_of_bits hbclr, bit_of_bits hbcomp, bit_of_bits hbinf,
    hok, fReg_of_bits ha rfl, fReg_of_bits hb rfl]

theorem roundTrips_tld (t : Tile) (ga : Reg) : (CurdInstr.tld t ga).RoundTrips := by
  obtain ⟨w, hw, hm, ht, hfm, ha, hb, hf, hlt⟩ := encT_fields (m := 0x39) (fmt := 0) (gb := 0) (f := 0) (by decide) t.isLt (by decide) ga.isLt (by decide) (by decide)
  refine .of_word hw ?_ hlt
  delta decodeCurd; rw [hm]; change decTld w = _; simp [decTld, onlyIf_of, ht, hfm, hb, hf, fReg_of_bits ha rfl]

theorem roundTrips_tst {t : Tile} {f : Fmt} (ga : Reg) {rnd comp inf : Bool} (clr : Bool) (hok : tstOk t f rnd comp inf = true) :
    (CurdInstr.tst t f ga rnd comp inf clr).RoundTrips := by
  have hrnd := boolNat_le rnd
  have hcomp := boolNat_le comp
  have hinf := boolNat_le inf
  have hclr := boolNat_le clr
  obtain ⟨w, hw, hm, ht, hfm, ha, -, hf, hlt⟩ := encT_fields (m := 0x3A) (gb := 0)
    (f := 512 * boolNat rnd + 256 * boolNat comp + 128 * boolNat inf + 64 * boolNat clr) (by decide) t.isLt f.code_lt ga.isLt (by decide) (by omega)
  have hbrnd := (bits_of_low hf 9 9 (by decide) (by decide)).trans (show _ = boolNat rnd by unfold bits; omega)
  have hbcomp := (bits_of_low hf 8 8 (by decide) (by decide)).trans (show _ = boolNat comp by unfold bits; omega)
  have hbinf := (bits_of_low hf 7 7 (by decide) (by decide)).trans (show _ = boolNat inf by unfold bits; omega)
  have hbclr := (bits_of_low hf 6 6 (by decide) (by decide)).trans (show _ = boolNat clr by unfold bits; omega)
  have hlow := (bits_of_low hf 5 0 (by decide) (by decide)).trans (show _ = 0 by unfold bits; omega)
  refine .of_word hw ?_ hlt
  delta decodeCurd; rw [hm]; change decTst w = _; simp [decTst, onlyIf_of, ht, hfm, hlow, f.ofCode_code, bit_of_bits hbrnd, bit_of_bits hbcomp, bit_of_bits hbinf,
    bit_of_bits hbclr, hok, fReg_of_bits ha rfl]

theorem roundTrips_topClear (t u : Tile) : (CurdInstr.topClear t u).RoundTrips := by
  have hul := u.isLt
  obtain ⟨w, hw, hm, ht, hfm, hu, hb, hf, hlt⟩ := encT_fields (m := 0x3B) (fmt := 0) (ga := u.toNat) (gb := 0) (f := 0) (by decide) t.isLt (by decide) (by omega) (by decide) (by decide)
  have hzero := (bits_of_field hu 19 17 (by decide) (by decide) (by decide)).trans (show bits u.toNat 4 2 = 0 by unfold bits; omega)
  have htile := (bits_of_field hu 16 15 (by decide) (by decide) (by decide)).trans (show bits u.toNat 1 0 = u.toNat by unfold bits; omega)
  have hcode := (bits_of_low hf 9 8 (by decide) (by decide)).trans (show _ = 0 by decide)
  have hlow := (bits_of_low hf 7 0 (by decide) (by decide)).trans (show _ = 0 by decide)
  refine .of_word hw ?_ hlt
  delta decodeCurd; rw [hm]; change decTop w = _; simp [decTop, ht, hfm, hzero, htile, hb, hcode, hlow]

theorem roundTrips_topCopy (t u : Tile) : (CurdInstr.topCopy t u).RoundTrips := by
  have hul := u.isLt
  obtain ⟨w, hw, hm, ht, hfm, hu, hb, hf, hlt⟩ := encT_fields (m := 0x3B) (fmt := 0) (ga := u.toNat) (gb := 0) (f := 256) (by decide) t.isLt (by decide) (by omega) (by decide) (by decide)
  have hzero := (bits_of_field hu 19 17 (by decide) (by decide) (by decide)).trans (show bits u.toNat 4 2 = 0 by unfold bits; omega)
  have htile := (bits_of_field hu 16 15 (by decide) (by decide) (by decide)).trans (show bits u.toNat 1 0 = u.toNat by unfold bits; omega)
  have hcode := (bits_of_low hf 9 8 (by decide) (by decide)).trans (show _ = 1 by decide)
  have hlow := (bits_of_low hf 7 0 (by decide) (by decide)).trans (show _ = 0 by decide)
  refine .of_word hw ?_ hlt
  delta decodeCurd; rw [hm]; change decTop w = _; simp [decTop, ht, hfm, hzero, htile, hb, hcode, hlow]

theorem roundTrips_topAdd (t u : Tile) : (CurdInstr.topAdd t u).RoundTrips := by
  have hul := u.isLt
  obtain ⟨w, hw, hm, ht, hfm, hu, hb, hf, hlt⟩ := encT_fields (m := 0x3B) (fmt := 0) (ga := u.toNat) (gb := 0) (f := 512) (by decide) t.isLt (by decide) (by omega) (by decide) (by decide)
  have hzero := (bits_of_field hu 19 17 (by decide) (by decide) (by decide)).trans (show bits u.toNat 4 2 = 0 by unfold bits; omega)
  have htile := (bits_of_field hu 16 15 (by decide) (by decide) (by decide)).trans (show bits u.toNat 1 0 = u.toNat by unfold bits; omega)
  have hcode := (bits_of_low hf 9 8 (by decide) (by decide)).trans (show _ = 2 by decide)
  have hlow := (bits_of_low hf 7 0 (by decide) (by decide)).trans (show _ = 0 by decide)
  refine .of_word hw ?_ hlt
  delta decodeCurd; rw [hm]; change decTop w = _; simp [decTop, ht, hfm, hzero, htile, hb, hcode, hlow]

/-- The words of a far operation (R104). -/
theorem roundTrips_far {kind : FarKind} (ga gb : Reg) (k : KNum) (ord : Bool) {len : BitVec 7} (hok : farLenOk kind len.toNat = true) :
    (CurdInstr.far kind ga gb k ord len).RoundTrips := by
  obtain ⟨w, hw, hm, ha, hb, hk, hcode, hbit, hlow, hlt⟩ := encFar_fields ga.isLt gb.isLt k.isLt kind.code_lt (boolNat_le ord) len.isLt
  refine .of_word hw ?_ hlt
  delta decodeCurd; rw [hm]; change decFar w = _; simp [decFar, onlyIf_of, hcode, hlow, kind.ofCode_code, hok, bit_of_bits hbit, fReg_of_bits ha rfl, fReg_of_bits hb rfl,
    fV_of_bits hk rfl]

/-- The words of format Q. -/
theorem roundTrips_dma (ga : Reg) (k : KNum) (chan : BitVec 2) : (CurdInstr.dma ga k chan).RoundTrips := by
  obtain ⟨w, hw, hm, ha, h1, hk, hc, h2, hlt⟩ := encQ_fields (m := 0x3D) (by decide) ga.isLt k.isLt chan.isLt
  refine .of_word hw ?_ hlt
  delta decodeCurd; rw [hm]; change decDma w = _; simp [decDma, onlyIf_of, h1, h2, hc, fReg_of_bits ha rfl, fV_of_bits hk rfl]

theorem roundTrips_coll (ga : Reg) (k : KNum) : (CurdInstr.coll ga k).RoundTrips := by
  obtain ⟨w, hw, hm, ha, h1, hk, -, h2, hlt⟩ := encQ_fields (m := 0x3F) (c := 0) (by decide) ga.isLt k.isLt (by decide)
  refine .of_word hw ?_ hlt
  delta decodeCurd; rw [hm]; change decColl w = _; simp [decColl, onlyIf_of, h1, h2, fReg_of_bits ha rfl, fV_of_bits hk rfl]

/-- A word of format S, by its function. -/
theorem bits_func {w f : Nat} (hf : bits w 6 0 = f) (hlt : f < 16) : bits w 6 4 = 0 ∧ bits w 3 0 = f :=
  ⟨(bits_of_low hf 6 4 (by decide) (by decide)).trans (by unfold bits; omega), (bits_of_low hf 3 0 (by decide) (by decide)).trans (by unfold bits; omega)⟩

theorem roundTrips_wait (d a : Reg) (k : KNum) : (CurdInstr.wait d a k).RoundTrips := by
  obtain ⟨w, hw, hm, hd, ha, hb, hk, hf, hlt⟩ := encS_fields (b := 0) (f := 0) d.isLt a.isLt (by decide) k.isLt (by decide)
  obtain ⟨hz, hc⟩ := bits_func hf (by decide)
  refine .of_word hw ?_ hlt
  delta decodeCurd; rw [hm]; change decSync w = _; simp [decSync, onlyIf_of, hz, hc, hb, fReg_of_bits hd rfl, fReg_of_bits ha rfl, fV_of_bits hk rfl]

theorem roundTrips_signal (a : Reg) (target k : KNum) : (CurdInstr.signal a target k).RoundTrips := by
  have ht := target.isLt
  obtain ⟨w, hw, hm, -, ha, hb, hk, hf, hlt⟩ := encS_fields (d := 0) (b := target.toNat) (f := 1) (by decide) a.isLt (by omega) k.isLt (by decide)
  obtain ⟨hz, hc⟩ := bits_func hf (by decide)
  have htarget := (bits_of_field hb 14 11 (by decide) (by decide) (by decide)).trans (show bits target.toNat 3 0 = target.toNat by unfold bits; omega)
  have htop := (bits_of_field hb 15 15 (by decide) (by decide) (by decide)).trans (show bits target.toNat 4 4 = 0 by unfold bits; omega)
  refine .of_word hw ?_ hlt
  delta decodeCurd; rw [hm]; change decSync w = _; simp [decSync, onlyIf_of, hz, hc, htop, fReg_of_bits ha rfl, fV_of_bits htarget rfl, fV_of_bits hk rfl]

theorem roundTrips_fence (a : Reg) (k : KNum) : (CurdInstr.fence a k).RoundTrips := by
  obtain ⟨w, hw, hm, hd, ha, hb, hk, hf, hlt⟩ := encS_fields (d := 0) (b := 0) (f := 2) (by decide) a.isLt (by decide) k.isLt (by decide)
  obtain ⟨hz, hc⟩ := bits_func hf (by decide)
  refine .of_word hw ?_ hlt
  delta decodeCurd; rw [hm]; change decSync w = _; simp [decSync, onlyIf_of, hz, hc, hd, hb, fReg_of_bits ha rfl, fV_of_bits hk rfl]

theorem roundTrips_cult (a b : Reg) (k : KNum) : (CurdInstr.cult a b k).RoundTrips := by
  obtain ⟨w, hw, hm, -, ha, hb, hk, hf, hlt⟩ := encS_fields (d := 0) (f := 3) (by decide) a.isLt b.isLt k.isLt (by decide)
  obtain ⟨hz, hc⟩ := bits_func hf (by decide)
  refine .of_word hw ?_ hlt
  delta decodeCurd; rw [hm]; change decSync w = _; simp [decSync, hz, hc, fReg_of_bits ha rfl, fReg_of_bits hb rfl, fV_of_bits hk rfl]

theorem roundTrips_cadd (a : Reg) (k : KNum) : (CurdInstr.cadd a k).RoundTrips := by
  obtain ⟨w, hw, hm, hd, ha, hb, hk, hf, hlt⟩ := encS_fields (d := 0) (b := 0) (f := 4) (by decide) a.isLt (by decide) k.isLt (by decide)
  obtain ⟨hz, hc⟩ := bits_func hf (by decide)
  refine .of_word hw ?_ hlt
  delta decodeCurd; rw [hm]; change decSync w = _; simp [decSync, onlyIf_of, hz, hc, hd, hb, fReg_of_bits ha rfl, fV_of_bits hk rfl]

/-- Settles O56, constructor by constructor. -/
theorem curdWordsRoundTrip : Obligations.CurdWordsRoundTrip := by
  unfold Obligations.CurdWordsRoundTrip
  intro i hwf
  change i.RoundTrips
  cases i with
  | alu => exact roundTrips_alu ..
  | imm => exact roundTrips_imm ..
  | shi => exact roundTrips_shi ..
  | movz => exact roundTrips_movz ..
  | movk => exact roundTrips_movk ..
  | branch => exact roundTrips_branch ..
  | jal => exact roundTrips_jal ..
  | jalr => exact roundTrips_jalr ..
  | csrr => exact roundTrips_csrr ..
  | csrw => exact roundTrips_csrw ..
  | nop => exact roundTrips_nop
  | halt => exact roundTrips_halt
  | brk => exact roundTrips_brk
  | iwr => exact roundTrips_iwr ..
  | rand => exact roundTrips_rand ..
  | load => exact roundTrips_load ..
  | store => exact roundTrips_store ..
  | vld => exact roundTrips_vld ..
  | vst => exact roundTrips_vst ..
  | amo => exact roundTrips_amo ..
  | vop => exact roundTrips_vop ..
  | vred => exact roundTrips_vred ..
  | vsplat => exact roundTrips_vsplat ..
  | vextract => exact roundTrips_vextract ..
  | vpermute => exact roundTrips_vpermute ..
  | vcvt => exact roundTrips_vcvt _ _ _ hwf
  | tmma => exact roundTrips_tmma _ _ _ hwf
  | tld => exact roundTrips_tld ..
  | tst => exact roundTrips_tst _ _ hwf
  | topClear => exact roundTrips_topClear ..
  | topCopy => exact roundTrips_topCopy ..
  | topAdd => exact roundTrips_topAdd ..
  | far => exact roundTrips_far _ _ _ _ hwf
  | dma => exact roundTrips_dma ..
  | coll => exact roundTrips_coll ..
  | wait => exact roundTrips_wait ..
  | signal => exact roundTrips_signal ..
  | fence => exact roundTrips_fence ..
  | cult => exact roundTrips_cult ..
  | cadd => exact roundTrips_cadd ..

/-- Settles O57. -/
theorem curdWordsOfTheTable : Obligations.CurdWordsOfTheTable := by
  unfold Obligations.CurdWordsOfTheTable
  decide

end Sys2Proof.Machine
end

section
/-! PROOFS. The rows of a curd that change its registers alone (03_curd_core.md R73-R75, R77, R78, R80, R83-R88, R99, R102, R103,
R111-R115): scalar, branch, control, HALT, WAIT and vector rows. -/

namespace Sys2Proof.Machine

/-! ## What a row leaves of the curd -/

section
variable (c : Curd) (n k : Nat)
@[simp] theorem Curd.perfAdd_r : (c.perfAdd n k).r = c.r.perfAdd n k := rfl
@[simp] theorem Curd.spend_r : (c.spend n).r = c.r.perfAdd 1 n := rfl
@[simp] theorem Curd.nextPc_eq : c.nextPc = c.r.pc + 1 := rfl
end

section
variable (c : Curd) (lat : List (Nat × Nat)) (r : CurdRegs) (pc : BitVec 12) (cost : Nat)
theorem retiredCurd_st : (retiredCurd c lat r pc cost).st = if c.st = .wait then .run else c.st := rfl
@[simp] theorem retiredCurd_r : (retiredCurd c lat r pc cost).r = { (r.perfAdd 0 1).perfAdd 1 cost with pc := pc } := rfl
end

theorem regsOf_setCurd (d : Dev) (node slot : Nat) (c : Curd) : regsOf (d.setCurd (curdKey node slot) c) node slot = c.r := by
  rw [regsOf, Dev.curd_setCurd_same]

/-- The next state of a row whose instruction the curd issues. -/
theorem issue_answers {s : State} {node slot : Nat} {i : CurdInstr} {d : Dev} {run : Dev → Curd → CurdInstr → Option Issue} {x : Issue}
    {p : State → Prop} (h : Issues s node slot i d) (hr : run d (d.curd (curdKey node slot)) i = some x)
    (hp : p { s with dev := d.settle node slot (latencyAt s node slot) x }) : ∃ t, s.next (s.dev.curdStep node slot run) = .next t ∧ p t :=
  ⟨_, congrArg s.next (curdStep_issues h hr), hp⟩

/-! ## Scalar rows -/

theorem immFn_slti (a : Word) (k : Imm) : immFn .slti a k = if a.toInt < k.toInt then 1 else 0 := by
  simp only [immFn, BitVec.slt_iff_toInt_lt, BitVec.toInt_signExtend_of_le (show 16 ≤ 64 by decide)]

/-- Settles O1: each row retires with its function of the registers. -/
theorem scalarRowsWriteOneRegister : Obligations.ScalarRowsWriteOneRegister := by
  unfold Obligations.ScalarRowsWriteOneRegister
  intro s node slot d rd ra r t
  refine ⟨fun op rb h => ?_, fun k h => issue_retires (run := runAddi) h rfl, fun k h => issue_retires (run := runAndi) h rfl,
    fun k h => issue_retires (run := runOri) h rfl, fun k h => issue_retires (run := runXori) h rfl, fun k h => ?_,
    fun n h => issue_retires (run := runShi) h rfl, fun n h => issue_retires (run := runShi) h rfl,
    fun n h => issue_retires (run := runShi) h rfl, fun n h => issue_retires (run := runShi) h rfl,
    fun q k h => issue_retires (run := runMovz) h rfl, fun q k h => issue_retires (run := runMovk) h rfl⟩
  · cases op <;> exact exec_alu_of_issues h
  · rw [← immFn_slti]; exact issue_retires (run := runSlti) h rfl

/-! ## Branches and jumps -/

/-- A branch row retires at its target or at the next pc. -/
theorem issue_branches {s : State} {node slot : Nat} {d : Dev} {c : Cond} {ra rb : Reg} {off : Imm} {taken : Bool}
    {run : Dev → Curd → CurdInstr → Option Issue} (h : Issues s node slot (.branch c ra rb off) d)
    (hr : run d (d.curd (curdKey node slot)) (.branch c ra rb off) = some (branchOn d (d.curd (curdKey node slot)) taken off)) :
    s.next (s.dev.curdStep node slot run) =
      if taken then .next (retired s node slot d (regsOf d node slot) ((regsOf d node slot).pc + BitVec.ofInt 12 off.toInt) 2)
      else .next (retired s node slot d (regsOf d node slot) ((regsOf d node slot).pc + 1) 1) := by
  cases taken
  · exact issue_retires h hr
  · exact issue_retires h hr

theorem decide_toInt_lt (a b : Word) : decide (a.toInt < b.toInt) = a.slt b := (BitVec.slt_eq_decide).symm
theorem decide_toInt_le (a b : Word) : decide (b.toInt ≤ a.toInt) = !a.slt b := by rw [BitVec.slt_eq_decide, ← decide_not]; simp only [Int.not_lt]
theorem decide_toNat_lt (a b : Word) : decide (a.toNat < b.toNat) = a.ult b := rfl
theorem decide_toNat_le (a b : Word) : decide (b.toNat ≤ a.toNat) = !a.ult b := by rw [BitVec.ult, ← decide_not]; simp only [Nat.not_lt]

/-- Settles O2. -/
theorem branchAndJumpRowsSetThePc : Obligations.BranchAndJumpRowsSetThePc := by
  unfold Obligations.BranchAndJumpRowsSetThePc
  intro s node slot d ra rb off r a b t
  refine ⟨fun h => ?_, fun h => ?_, fun h => ?_, fun h => ?_, fun h => ?_, fun h => ?_,
    fun target h => issue_retires (run := runJal) h rfl, fun k h => ?_⟩
  · exact issue_branches (run := runBeq) h rfl
  · exact issue_branches (run := runBne) h (by rw [decide_not]; rfl)
  · rw [decide_toInt_lt]; exact issue_branches (run := runBlt) h rfl
  · rw [decide_toInt_le]; exact issue_branches (run := runBge) h rfl
  · rw [decide_toNat_lt]; exact issue_branches (run := runBltu) h rfl
  · rw [decide_toNat_le]; exact issue_branches (run := runBgeu) h rfl
  · rw [show BitVec.ofNat 12 ((b + k.signExtend 64).toNat % 4096) = BitVec.ofNat 12 (b + k.signExtend 64).toNat from
      BitVec.eq_of_toNat_eq (by simp)]
    exact issue_retires (run := runJalr) h rfl

/-! ## Control registers, counters and NOP, BREAK, RAND -/

/-- A held instruction leaves the registers but for the step counters, and the pc. -/
theorem issue_holds {s : State} {node slot n : Nat} {d : Dev} {i : CurdInstr} {run : Dev → Curd → CurdInstr → Option Issue}
    {p : State → Prop} (h : Issues s node slot i d) (hr : run d (d.curd (curdKey node slot)) i = some (.hold n))
    (hp : p { s with dev := d.setCurd (curdKey node slot) (((d.curd (curdKey node slot)).spend 1).perfAdd n 1) }) :
    ∃ t, s.next (s.dev.curdStep node slot run) = .next t ∧ p t :=
  issue_answers h hr hp

theorem Curd.rngHolds_of_draws {c : Curd} (h : c.tensorDraws = false) (n : Nat) : c.rngHolds n = false := by simp [Curd.rngHolds, h]

theorem Curd.rngHolds_of_ne {c : Curd} {n : Nat} (h : n ≠ 0x20) (h' : n ≠ 0x21) : c.rngHolds n = false := by simp [Curd.rngHolds, h, h']

theorem Curd.rngHolds_of_rng {c : Curd} {n : BitVec 8} (h : n = 0x20 ∨ n = 0x21) (hd : c.tensorDraws = true) : c.rngHolds n.toNat = true := by
  rcases h with rfl | rfl <;> simp [Curd.rngHolds, hd]

/-- A write of a control register retires, unless a generator access is held. -/
theorem exec_csrw_of_issues {s : State} {node slot : Nat} {d : Dev} {ra : Reg} {n : Byte} (h : Issues s node slot (.csrw ra n) d)
    (hn : (d.curd (curdKey node slot)).rngHolds n.toNat = false) :
    let r := regsOf d node slot
    exec (.csrw node slot) s = .next (retired s node slot d (r.csrWrite n.toNat (r.getG ra)) (r.pc + 1) 1) :=
  issue_retires (run := runCsrw) h (by rw [runCsrw, hn]; rfl)

theorem KNum.csr_toNat (k : KNum) : ((0x10 + k.setWidth 8 : BitVec 8)).toNat = 0x10 + k.toNat := by
  have := k.isLt
  rw [BitVec.toNat_add, BitVec.toNat_setWidth]
  simp; omega

theorem csrWrite_counter (r : CurdRegs) (k : KNum) (x : Word) :
    r.csrWrite (0x10 + k.toNat) x =
      { r with kval := smSet 0 r.kval k.toNat (BitVec.ofNat 32 x.toNat)
               kcode := smSet 0 r.kcode k.toNat (smGet 0 r.kcode k.toNat &&& ~~~(BitVec.ofNat 8 (x.toNat / 2 ^ 32 % 256))) } := by
  have := k.isLt
  rw [CurdRegs.csrWrite, if_pos ⟨by omega, by omega⟩, Nat.add_sub_cancel_left]
  rfl

theorem csrWrite_other (r : CurdRegs) {n : Nat} (h : n < 0x10 ∨ 0x22 ≤ n) (x : Word) : r.csrWrite n x = r := by
  rw [CurdRegs.csrWrite, if_neg (by omega), if_neg (by omega), if_neg (by omega)]

theorem Dev.debugOpen_of {d : Dev} {node : Nat} (hb : bit d.sec.debugScope 1 = true) (hp : ∀ p, d.partOf node = some p → (d.part p).conf = false) :
    d.debugOpen node = true := by
  rw [Dev.debugOpen, Dev.curdDebug, hb, Bool.true_and]
  split
  · rw [hp _ ‹_›]; rfl
  · rfl

theorem Dev.debugOpen_not {d : Dev} {node : Nat} (h : bit d.sec.debugScope 1 = false ∨ ∃ p, d.partOf node = some p ∧ (d.part p).conf = true) :
    d.debugOpen node = false := by
  rw [Dev.debugOpen, Dev.curdDebug]
  rcases h with h | ⟨p, hp, hc⟩
  · rw [h, Bool.false_and]
  · simp [hp, hc]

/-- BREAK with debug open: the curd has retired it and is STOPPED. -/
theorem exec_break_stops {s : State} {node slot : Nat} {d : Dev} (h : Issues s node slot .brk d) (ho : d.debugOpen node = true) :
    ∃ u, exec (.break_ node slot) s = .next u ∧ (u.dev.curd (curdKey node slot)).st = .stopped ∧
      (regsOf u.dev node slot).pc = (regsOf d node slot).pc + 1 ∧ (regsOf u.dev node slot).g = (regsOf d node slot).g := by
  have hr : runBreak node d (d.curd (curdKey node slot)) .brk =
      some (.retire d { d.curd (curdKey node slot) with st := .stopped } (d.curd (curdKey node slot)).nextPc 1) := by
    rw [runBreak, if_pos ho]
  apply issue_answers (run := runBreak node) h hr
  rw [settle_retire]
  simp [regsOf, retiredCurd_st]

/-- Settles O3. -/
theorem controlRowsOfACurd : Obligations.ControlRowsOfACurd := by
  unfold Obligations.ControlRowsOfACurd
  intro s node slot d ra c r t
  refine ⟨fun n hn h => ?_, fun n hn hd row i hrow h => ?_, fun k h => ?_, fun h hd => ?_, fun h hd => ?_, fun n hn h => ?_,
    fun k h => issue_retires (run := runCadd) h rfl, fun h => issue_retires (run := runNop) h rfl, fun h hb => ?_,
    fun h hb hp => exec_break_stops h (Dev.debugOpen_of hb hp), fun h hd => ?_⟩
  · have hold : c.rngHolds n.toNat = false := by
      by_cases hr : n = 0x20 ∨ n = 0x21
      · exact Curd.rngHolds_of_draws (hn hr) _
      · exact Curd.rngHolds_of_ne (fun e => hr (.inl (BitVec.eq_of_toNat_eq e))) (fun e => hr (.inr (BitVec.eq_of_toNat_eq e)))
    exact issue_retires (run := runCsrr node slot) h (by rw [runCsrr, hold]; rfl)
  · have hold : c.rngHolds n.toNat = true := Curd.rngHolds_of_rng hn hd
    rcases hrow with hrow | hrow <;> cases hrow
    · exact issue_holds (run := runCsrr node slot) h (by rw [runCsrr, hold]; rfl) (by simp [regsOf, c, r])
    · exact issue_holds (run := runCsrw) h (by rw [runCsrw, hold]; rfl) (by simp [regsOf, c, r])
  · have hk := k.csr_toNat
    have hlt := k.isLt
    rw [exec_csrw_of_issues h (Curd.rngHolds_of_ne (by omega) (by omega)), hk, csrWrite_counter]
    rfl
  · exact exec_csrw_of_issues h (Curd.rngHolds_of_draws hd _)
  · exact exec_csrw_of_issues h (Curd.rngHolds_of_draws hd _)
  · rw [exec_csrw_of_issues h (Curd.rngHolds_of_ne (by omega) (by omega)), csrWrite_other _ hn]
    rfl
  · exact issue_retires (run := runBreak node) h (by rw [runBreak, Dev.debugOpen_not hb]; rfl)
  · exact issue_retires (run := runRand) h (by rw [runRand, if_neg (by simp [c, hd])]; rfl)

/-! ## HALT and WAIT -/

/-- Settles O4. -/
theorem haltEndsTheProgramOfACurd : Obligations.HaltEndsTheProgramOfACurd := by
  unfold Obligations.HaltEndsTheProgramOfACurd
  intro s node slot d h
  have hstep := (curdStep_issues (run := runHalt) h rfl).trans (settle_retire ..)
  refine ⟨_, congrArg (fun e : Dev => s.next (e.checkDoneAt node)) hstep, ?_⟩
  simp only [regsOf, Dev.checkDoneAt_curd, Dev.checkDoneAt_vats, Dev.checkDoneAt_nis, Dev.checkDoneAt_ext, Dev.curd_setCurd_same]
  simp +contextual [retiredCurd_st, Dev.curd_setCurd_other]

/-- Settles O5. -/
theorem waitReadsACounterOrBlocks : Obligations.WaitReadsACounterOrBlocks := by
  unfold Obligations.WaitReadsACounterOrBlocks
  intro s node slot d rd ra k h c code val target
  refine ⟨fun hc => ?_, fun hc hv => ?_, fun hc hv => ?_⟩
  · exact issue_retires (run := runWait) h (by rw [runWait, waitOn, if_pos hc]; rfl)
  · exact issue_retires (run := runWait) h (by rw [runWait, waitOn, if_neg (not_not.2 hc), if_pos hv]; rfl)
  · have hr : runWait d c (.wait rd ra k) = some (.block k.toNat) := by
      rw [runWait, waitOn, if_neg (not_not.2 hc), if_neg (not_le.2 hv)]
    apply issue_answers (run := runWait) h hr
    simp [Dev.settle, regsOf, c]

/-! ## Vector rows -/

theorem smGetList_eq_map {α : Type} (z : α) (m : SMap α) (i n : Nat) :
    smGetList z m i n = (List.range n).map (fun k => smGet z m (i + k)) := by
  induction n generalizing i with
  | zero => rfl
  | succ n ih =>
    rw [smGetList, ih, List.range_succ_eq_map, List.map_cons, List.map_map]
    exact congrArg _ (List.map_congr_left fun k _ => by rw [Function.comp_apply, Nat.succ_eq_add_one, Nat.add_right_comm, Nat.add_assoc])

/-- A vector register, lane by lane. -/
theorem CurdRegs.getV_eq (r : CurdRegs) (v : VReg) : r.getV v = (List.range 32).map (fun i => smGet 0 r.v (32 * v.toNat + i)) :=
  smGetList_eq_map _ _ _ _

theorem zip_map_range {α β γ δ : Type} (f : Nat → α) (g : Nat → β) (k : Nat → γ) (op : α → β → γ → δ) (n : Nat) :
    (((List.range n).map f).zip (((List.range n).map g).zip ((List.range n).map k))).map (fun x => op x.1 x.2.1 x.2.2) =
      (List.range n).map (fun i => op (f i) (g i) (k i)) := by
  simp only [List.zip_map', List.map_map, Function.comp_def]

theorem replicate_eq_map {α : Type} (n : Nat) (x : α) : List.replicate n x = (List.range n).map (fun _ => x) := by
  rw [List.map_const', List.length_range]

theorem laneOf_getV (r : CurdRegs) (v : VReg) {i : Nat} (h : i < 32) : laneOf (r.getV v) i = smGet 0 r.v (32 * v.toNat + i) := by
  rw [laneOf, CurdRegs.getV_eq, List.getElem?_map, List.getElem?_range h]; rfl

theorem headD_getV (r : CurdRegs) (v : VReg) : (r.getV v).headD 0 = smGet 0 r.v (32 * v.toNat + 0) := rfl

/-- Settles O6. -/
theorem vectorRowsWriteOneRegister : Obligations.VectorRowsWriteOneRegister := by
  unfold Obligations.VectorRowsWriteOneRegister
  intro s node slot d vd va vb gs c r t lane g32 lanes
  have hget (v : VReg) : r.getV v = lanes (lane v) := r.getV_eq v
  refine ⟨fun op h => ?_, fun op h => ?_, fun op h => ?_, fun h => ?_, fun h => ?_, fun h => ?_, fun f inf group h => ?_,
    fun f rnd inf group h hd => ?_⟩
  · rw [show lanes _ = _ from (zip_map_range (lane va) (lane vb) (lane vd) (vopLane op) 32).symm]
    change _ = t (r.setV vd (List.map _ (List.zip (lanes (lane va)) (List.zip (lanes (lane vb)) (lanes (lane vd))))))
    rw [← hget, ← hget, ← hget]
    exact issue_retires (run := runVop) h rfl
  · rw [show lanes _ = _ from (zip_map_range (lane va) (fun _ => g32) (lane vd) (vopLane op) 32).symm, ← replicate_eq_map]
    change _ = t (r.setV vd (List.map _ (List.zip (lanes (lane va)) (List.zip _ (lanes (lane vd))))))
    rw [← hget, ← hget]
    exact issue_retires (run := runVop) h rfl
  · rw [← hget]; exact issue_retires (run := runVred) h rfl
  · rw [show lanes (fun _ => g32) = List.replicate 32 g32 from (replicate_eq_map ..).symm]
    exact issue_retires (run := runVmovSplat) h rfl
  · rw [show lane va _ = _ from (laneOf_getV r va (Nat.mod_lt _ (by decide))).symm, show lane vb 0 = _ from (headD_getV r vb).symm]
    exact issue_retires (run := runVmovExtract) h rfl
  · have hperm : lanes (fun i => lane va ((lane vb i).toNat % 32)) = (r.getV vb).map (fun x => laneOf (r.getV va) (x.toNat % 32)) := by
      rw [hget vb, List.map_map]
      exact List.map_congr_left fun i _ => (laneOf_getV r va (Nat.mod_lt _ (by decide))).symm
    rw [hperm]; exact issue_retires (run := runVmovPermute) h rfl
  · rw [← hget]; exact issue_retires (run := runVcvtWiden) h rfl
  · have hfree : (rnd && c.tensorDraws) = false := by cases rnd <;> simp_all
    dsimp only
    rw [← hget, ← hget]
    exact issue_retires (run := runVcvtNarrow) h (by rw [runVcvtNarrow, if_neg (by simp [c, hfree])]; rfl)

end Sys2Proof.Machine
end

section
/-! PROOFS. Words that are no instruction (03_curd_core.md R82, R83, R113, R120): what a failing fetch does to the curd, whichever row
issues; reserved majors and reserved fields. -/

namespace Sys2Proof.Machine

/-! ## The fault of a fetch -/

/-- A fetch that fails stops the curd, whichever row issues. -/
theorem curdStep_fetch_error {d g : Dev} {node slot cause : Nat} (run : Dev → Curd → CurdInstr → Option Issue)
    (hi : (d.curd (curdKey node slot)).issuing = true) (hp : d.pwr.coreMv ≠ 0) (hf : d.fetch node slot = (g, .error cause)) :
    d.curdStep node slot run = g.curdFault node slot cause (d.curd (curdKey node slot)).r.pc 0 := by
  have hmv : (d.pwr.coreMv == 0) = false := by simpa using hp
  simp [Dev.curdStep, hi, hmv, hf]

theorem fetch_illegal {d g : Dev} {node slot : Nat} {bs : List Byte}
    (hr : d.isRead node slot (4 * (d.curd (curdKey node slot)).r.pc.toNat) 4 = (g, some bs)) (hd : decodeCurd (leNat bs) = none) :
    d.fetch node slot = (g, .error 0x01) := by
  simp [Dev.fetch, hr, hd]

theorem fetch_unreadable {d g : Dev} {node slot : Nat}
    (hr : d.isRead node slot (4 * (d.curd (curdKey node slot)).r.pc.toNat) 4 = (g, none)) : d.fetch node slot = (g, .error 0x06) := by
  simp [Dev.fetch, hr]

theorem bits_low_byte (x : Nat) : bits x 7 0 = x % 256 := by simp [bits]

/-- A curd that takes a fault keeps its pc, its registers and the first fault. -/
theorem FaultedBy.takeFault (c : Curd) (cause : Nat) (pc : BitVec 12) (addr : Nat) : FaultedBy c (c.takeFault cause pc addr) cause pc addr := by
  unfold FaultedBy Curd.takeFault
  rw [bits_low_byte]
  dsimp only
  split
  next h => exact ⟨rfl, rfl, rfl, fun _ => ⟨rfl, rfl⟩, fun h' => absurd h h'⟩
  next h => exact ⟨rfl, rfl, rfl, fun h' => absurd h' h, fun _ => ⟨rfl, rfl⟩⟩

theorem Dev.curdFault_faultedBy (g : Dev) (node slot cause : Nat) (pc : BitVec 12) (addr : Nat) :
    FaultedBy (g.curd (curdKey node slot)) ((g.curdFault node slot cause pc addr).curd (curdKey node slot)) cause pc addr := by
  rw [Dev.curdFault_curd, if_pos rfl]
  exact .takeFault ..

/-! ## Words that decode -/

theorem onlyIf_eq_some {α : Type} {c : Bool} {a b : α} (h : onlyIf c a = some b) : c = true ∧ a = b := by
  cases c
  · simp [onlyIf] at h
  · exact ⟨rfl, Option.some.inj h⟩

/-- An instruction that `r` decodes to is well formed, and its word keeps `p`. -/
def Reserves (r : Option CurdInstr) (p : Prop) : Prop := ∀ i, r = some i → i.wf = true ∧ p

theorem reserves_some {i : CurdInstr} {p : Prop} (hi : i.wf = true) (hp : p) : Reserves (some i) p := fun _ h => Option.some.inj h ▸ ⟨hi, hp⟩

theorem reserves_none {p : Prop} : Reserves none p := fun _ h => nomatch h

theorem reserves_onlyIf {c : Bool} {i : CurdInstr} {p : Prop} (hi : c = true → i.wf = true) (hp : c = true → p) : Reserves (onlyIf c i) p := by
  intro j h
  obtain ⟨hc, rfl⟩ := onlyIf_eq_some h
  exact ⟨hi hc, hp hc⟩

theorem Reserves.mono {r : Option CurdInstr} {p q : Prop} (h : Reserves r p) (hpq : p → q) : Reserves r q :=
  fun i hi => ⟨(h i hi).1, hpq (h i hi).2⟩

theorem decAlu_reserves (w : Nat) : Reserves (decAlu w) True := by
  unfold decAlu; split
  · exact reserves_some rfl trivial
  · exact reserves_none

theorem decShi_reserves (w : Nat) : Reserves (decShi w) (bits w 15 8 = 0) := reserves_onlyIf (fun _ => rfl) (fun h => by simpa using h)
theorem decMovz_reserves (w : Nat) : Reserves (decMovz w) (bits w 20 18 = 0) := reserves_onlyIf (fun _ => rfl) (fun h => by simpa using h)
theorem decMovk_reserves (w : Nat) : Reserves (decMovk w) (bits w 20 18 = 0) := reserves_onlyIf (fun _ => rfl) (fun h => by simpa using h)
theorem decJal_reserves (w : Nat) : Reserves (decJal w) (bits w 20 12 = 0) := reserves_onlyIf (fun _ => rfl) (fun h => by simpa using h)
theorem decCsrr_reserves (w : Nat) : Reserves (decCsrr w) (bits w 20 16 = 0 ∧ bits w 15 8 = 0) :=
  reserves_onlyIf (fun _ => rfl) (fun h => by simpa using h)
theorem decCsrw_reserves (w : Nat) : Reserves (decCsrw w) (bits w 25 21 = 0 ∧ bits w 15 8 = 0) :=
  reserves_onlyIf (fun _ => rfl) (fun h => by simpa using h)

theorem decSys_reserves (w : Nat) : Reserves (decSys w) True := by
  unfold decSys
  split
  case h_6 => exact reserves_none
  all_goals exact reserves_some rfl trivial

theorem decVld_reserves (w : Nat) : Reserves (decVld w) (bits w 21 21 = 0) := reserves_onlyIf (fun _ => rfl) (fun h => by simpa using h)
theorem decVst_reserves (w : Nat) : Reserves (decVst w) (bits w 21 21 = 0) := reserves_onlyIf (fun _ => rfl) (fun h => by simpa using h)

theorem decAmo_reserves (w : Nat) : Reserves (decAmo w) True := by
  unfold decAmo; split
  · exact reserves_onlyIf (fun _ => rfl) (fun _ => trivial)
  · exact reserves_none

theorem decVop_reserves (w : Nat) : Reserves (decVop w) True := by
  unfold decVop; split
  · exact reserves_some rfl trivial
  · exact reserves_none

theorem decVred_reserves (w : Nat) : Reserves (decVred w) True := by
  unfold decVred; split
  · exact reserves_some rfl trivial
  · exact reserves_none

theorem decVmov_reserves (w : Nat) : Reserves (decVmov w) True := by
  unfold decVmov
  split
  case h_4 => exact reserves_none
  all_goals exact reserves_some rfl trivial

/-- A field of `n + 1` bits kept in as many bits. -/
theorem toNat_ofNat_bits (w hi lo n : Nat) (h : hi + 1 - lo ≤ n) : (BitVec.ofNat n (bits w hi lo)).toNat = bits w hi lo :=
  Nat.mod_eq_of_lt ((Nat.mod_lt _ (Nat.two_pow_pos _)).trans_le (Nat.pow_le_pow_right (by decide) h))

theorem decVcvt_reserves (w : Nat) : Reserves (decVcvt w) True := by
  unfold decVcvt; split
  · refine reserves_onlyIf (fun h => ?_) (fun _ => trivial)
    simp only [Bool.and_eq_true] at h
    rw [CurdInstr.wf, toNat_ofNat_bits _ _ _ _ (by decide)]
    exact h.1.1
  · exact reserves_none

theorem decTmma_reserves (w : Nat) : Reserves (decTmma w) True := by
  unfold decTmma; split
  · exact reserves_onlyIf (fun h => (Bool.and_eq_true_iff.1 h).1) (fun _ => trivial)
  · exact reserves_none

theorem decTld_reserves (w : Nat) : Reserves (decTld w) True := reserves_onlyIf (fun _ => rfl) (fun _ => trivial)

theorem decTst_reserves (w : Nat) : Reserves (decTst w) True := by
  unfold decTst; split
  · exact reserves_onlyIf (fun h => (Bool.and_eq_true_iff.1 h).1) (fun _ => trivial)
  · exact reserves_none

theorem decTop_reserves (w : Nat) : Reserves (decTop w) True := by
  unfold decTop
  dsimp only
  split
  · split
    case h_4 => exact reserves_none
    all_goals exact reserves_some rfl trivial
  · exact reserves_none

theorem decFar_reserves (w : Nat) : Reserves (decFar w) True := by
  unfold decFar; split
  · refine reserves_onlyIf (fun h => ?_) (fun _ => trivial)
    rw [CurdInstr.wf, toNat_ofNat_bits _ _ _ _ (by decide)]
    exact h
  · exact reserves_none

theorem decDma_reserves (w : Nat) : Reserves (decDma w) (bits w 20 16 = 0 ∧ bits w 9 0 = 0) :=
  reserves_onlyIf (fun _ => rfl) (fun h => by simpa using h)
theorem decColl_reserves (w : Nat) : Reserves (decColl w) (bits w 20 16 = 0 ∧ bits w 9 0 = 0) :=
  reserves_onlyIf (fun _ => rfl) (fun h => by simpa using h)

theorem decSync_reserves (w : Nat) : Reserves (decSync w) (bits w 6 4 = 0 ∧ bits w 3 0 ≤ 4) := by
  unfold decSync
  split
  next hz =>
    have hz' : bits w 6 4 = 0 := by simpa using hz
    split
    case h_1 h | h_2 h | h_3 h | h_5 h => exact reserves_onlyIf (fun _ => rfl) (fun _ => ⟨hz', by omega⟩)
    case h_4 h => exact reserves_some rfl ⟨hz', by omega⟩
    case h_6 => exact reserves_none
  · exact reserves_none

/-- The reserved fields of the majors that have some (R83). -/
def ReservedZero (w : Nat) : Prop :=
  (bits w 31 26 = 0x06 → bits w 15 8 = 0) ∧ (bits w 31 26 = 0x07 ∨ bits w 31 26 = 0x08 → bits w 20 18 = 0) ∧ (bits w 31 26 = 0x16 → bits w 20 12 = 0) ∧
    (bits w 31 26 = 0x18 → bits w 20 16 = 0 ∧ bits w 15 8 = 0) ∧ (bits w 31 26 = 0x19 → bits w 25 21 = 0 ∧ bits w 15 8 = 0) ∧
    (bits w 31 26 = 0x2B ∨ bits w 31 26 = 0x2C → bits w 21 21 = 0) ∧ (bits w 31 26 = 0x3D ∨ bits w 31 26 = 0x3F → bits w 20 16 = 0 ∧ bits w 9 0 = 0) ∧
    (bits w 31 26 = 0x3E → bits w 6 4 = 0 ∧ bits w 3 0 ≤ 4)

/-- Every instruction that a word decodes to is well formed, and its reserved fields are zero: major by major. -/
theorem decodeCurd_reserves (w : Nat) : Reserves (decodeCurd w) (ReservedZero w) := by
  unfold decodeCurd ReservedZero
  split
  next hm => exact (decAlu_reserves w).mono fun _ => by simp [hm]
  next hm => exact reserves_some rfl (by simp [hm])
  next hm => exact reserves_some rfl (by simp [hm])
  next hm => exact reserves_some rfl (by simp [hm])
  next hm => exact reserves_some rfl (by simp [hm])
  next hm => exact (decShi_reserves w).mono fun h => by simp [hm, h]
  next hm => exact (decMovz_reserves w).mono fun h => by simp [hm, h]
  next hm => exact (decMovk_reserves w).mono fun h => by simp [hm, h]
  next hm => exact reserves_some rfl (by simp [hm])
  next hm => exact reserves_some rfl (by simp [hm])
  next hm => exact reserves_some rfl (by simp [hm])
  next hm => exact reserves_some rfl (by simp [hm])
  next hm => exact reserves_some rfl (by simp [hm])
  next hm => exact reserves_some rfl (by simp [hm])
  next hm => exact reserves_some rfl (by simp [hm])
  next hm => exact (decJal_reserves w).mono fun h => by simp [hm, h]
  next hm => exact reserves_some rfl (by simp [hm])
  next hm => exact (decCsrr_reserves w).mono fun h => by simp [hm, h]
  next hm => exact (decCsrw_reserves w).mono fun h => by simp [hm, h]
  next hm => exact (decSys_reserves w).mono fun _ => by simp [hm]
  next hm => exact reserves_some rfl (by simp [hm])
  next hm => exact reserves_some rfl (by simp [hm])
  next hm => exact reserves_some rfl (by simp [hm])
  next hm => exact reserves_some rfl (by simp [hm])
  next hm => exact reserves_some rfl (by simp [hm])
  next hm => exact reserves_some rfl (by simp [hm])
  next hm => exact reserves_some rfl (by simp [hm])
  next hm => exact reserves_some rfl (by simp [hm])
  next hm => exact reserves_some rfl (by simp [hm])
  next hm => exact reserves_some rfl (by simp [hm])
  next hm => exact reserves_some rfl (by simp [hm])
  next hm => exact (decVld_reserves w).mono fun h => by simp [hm, h]
  next hm => exact (decVst_reserves w).mono fun h => by simp [hm, h]
  next hm => exact (decAmo_reserves w).mono fun _ => by simp [hm]
  next hm => exact (decVop_reserves w).mono fun _ => by simp [hm]
  next hm => exact (decVred_reserves w).mono fun _ => by simp [hm]
  next hm => exact (decVmov_reserves w).mono fun _ => by simp [hm]
  next hm => exact (decVcvt_reserves w).mono fun _ => by simp [hm]
  next hm => exact (decTmma_reserves w).mono fun _ => by simp [hm]
  next hm => exact (decTld_reserves w).mono fun _ => by simp [hm]
  next hm => exact (decTst_reserves w).mono fun _ => by simp [hm]
  next hm => exact (decTop_reserves w).mono fun _ => by simp [hm]
  next hm => exact (decFar_reserves w).mono fun _ => by simp [hm]
  next hm => exact (decDma_reserves w).mono fun h => by simp [hm, h]
  next hm => exact (decSync_reserves w).mono fun h => by simp [hm, h]
  next hm => exact (decColl_reserves w).mono fun h => by simp [hm, h]
  next => exact reserves_none

theorem decodeCurd_reservedMajor {w : Nat} (h : bits w 31 26 ∈ [0, 0x0A, 0x0B, 0x0C, 0x0D, 0x0E, 0x0F, 0x1B, 0x1C, 0x1D, 0x1E, 0x1F, 0x2E, 0x2F,
    0x34, 0x35, 0x36, 0x37]) : decodeCurd w = none := by
  simp only [List.mem_cons, List.not_mem_nil, or_false] at h
  rw [decodeCurd]
  rcases h with h | h | h | h | h | h | h | h | h | h | h | h | h | h | h | h | h | h <;> simp only [h]

/-- The rows of the list issue: each is an issue step of its curd. -/
theorem exec_listed_row {s : State} {node slot : Nat} {row : Instr}
    (h : row ∈ [Instr.alu node slot, .addi node slot, .shi node slot, .beq node slot, .jal node slot, .csrr node slot, .ldd node slot, .std node slot,
      .vop node slot, .tmma node slot, .wait node slot, .rand node slot, .nop node slot]) :
    ∃ run, exec row s = s.next (s.dev.curdStep node slot run) := by
  simp only [List.mem_cons, List.not_mem_nil, or_false] at h
  rcases h with rfl | rfl | rfl | rfl | rfl | rfl | rfl | rfl | rfl | rfl | rfl | rfl | rfl <;> exact ⟨_, rfl⟩

/-- Settles O58. -/
theorem illegalWordsFault : Obligations.IllegalWordsFault := by
  unfold Obligations.IllegalWordsFault
  refine ⟨?_, fun g node slot cause pc addr _ _ => g.curdFault_faultedBy .., fun w => decodeCurd_reservedMajor,
    fun w i h => decodeCurd_reserves w i h⟩
  intro s node slot g row c k hrow hi hp _
  obtain ⟨run, hrun⟩ := exec_listed_row (s := s) hrow
  exact ⟨fun bs hread hdec => by rw [hrun, curdStep_fetch_error run hi hp (fetch_illegal hread hdec)]; rfl,
    fun hread => by rw [hrun, curdStep_fetch_error run hi hp (fetch_unreadable hread)]; rfl⟩

end Sys2Proof.Machine
end

section
/-! PROOFS. The memory rows of a curd (03_curd_core.md R76, R83, R86, R87, R89, R90, R97, R121; 02_programming_model.md R63;
05_local_memory.md R141, R147, R149, R152): where an address lands, what a load or store at issue becomes, local data memory, and
what completes later. -/

namespace Sys2Proof.Machine

/-! ## Where an address lands (R51-R53) -/

section
variable {d : Dev} {node slot a n : Nat}

theorem regionOf_ldm (h : a < 0x10000) : regionOf a = .ldm := if_pos h

theorem regionOf_vs (h : 0x01000000 ≤ a) (h' : a < 0x01080000) : regionOf a = .vs := by
  rw [regionOf, if_neg (by omega), if_neg (by omega), if_pos h']

theorem isPeer_ldm (h : a < 0x10000) : isPeer a = false := by rw [isPeer, regionOf_ldm h]

theorem isPeer_vs (h : 0x01000000 ≤ a) (h' : a < 0x01080000) : isPeer a = false := by rw [isPeer, regionOf_vs h h']

theorem ownPlace_ldm (h : a < 0x10000) (hn : a + n ≤ 0x10000) : d.ownPlace node slot a n = some (.ldm node slot a) := by
  rw [Dev.ownPlace, regionOf_ldm h]; exact if_pos hn

theorem ownPlace_vs (h : 0x01000000 ≤ a) (h' : a < 0x01080000) (hn : a + n ≤ 0x01000000 + 4096 * (d.vat node).reserve) :
    d.ownPlace node slot a n = some (.vs node (a - 0x01000000)) := by
  rw [Dev.ownPlace, regionOf_vs h h']; exact if_pos (by rw [vsBase]; omega)

end

/-- An access of a size that divides the region's stays within it. -/
theorem add_le_of_aligned {a n : Nat} (h : a < 0x10000) (ha : a % n = 0) (hn : n ∣ 0x10000) : a + n ≤ 0x10000 := by
  obtain ⟨k, hk⟩ := hn
  obtain ⟨j, rfl⟩ := Nat.dvd_of_mod_eq_zero ha
  rw [hk] at h ⊢
  have hjk : j < k := Nat.lt_of_mul_lt_mul_left h
  calc n * j + n = n * (j + 1) := (Nat.mul_succ n j).symm
    _ ≤ n * k := Nat.mul_le_mul_left n hjk

/-! ## Loads at issue -/

section
variable {d : Dev} {node slot a : Nat} {c : Curd} {k : LoadKind}

theorem loadIssue_misaligned (h : a % k.size ≠ 0) : loadIssue d node slot c a k = .fault 0x03 a := if_pos h

/-- A load of local data memory that nothing holds reads at once. -/
theorem loadIssue_ldm {d' : Dev} {bs : List Byte} (ha : a % k.size = 0) (h : a < 0x10000) (hn : a + k.size ≤ 0x10000)
    (hst : c.storeHolds a k.size = false) (ht : c.tensorHolds a k.size k.isAmo = false) (ho : c.ownPending = false)
    (hr : d.ldmAccess node slot a k = (d', some bs)) :
    loadIssue d node slot c a k =
      .retire d' { d'.curd (curdKey node slot) with r := (d'.curd (curdKey node slot)).r.land k bs } (d'.curd (curdKey node slot)).nextPc 1 := by
  simp [loadIssue, ha, ownPlace_ldm h hn, isPeer_ldm h, hst, ht, ho, Dev.accepts, hr]

/-- The curd whose access joins its loads. -/
def Curd.withLoad (c : Curd) (a : Nat) (k : LoadKind) (p : Place) : Curd :=
  { c with loads := c.loads ++ [{ ord := c.ord, pc := c.r.pc, addr := a, kind := k, place := p, sent := false, resp := none }], ord := c.ord + 1 }

/-- A load behind an own access still to be performed answers later. -/
theorem loadIssue_ldm_later (ha : a % k.size = 0) (h : a < 0x10000) (hn : a + k.size ≤ 0x10000)
    (hst : c.storeHolds a k.size = false) (ht : c.tensorHolds a k.size k.isAmo = false) (ho : c.ownPending = true) :
    loadIssue d node slot c a k = .retire d (c.withLoad a k (.ldm node slot a)) c.nextPc 1 := by
  simp [loadIssue, ha, ownPlace_ldm h hn, isPeer_ldm h, hst, ht, ho, Dev.accepts, Curd.withLoad]

/-- A load of the vat's reserved store answers later. -/
theorem loadIssue_vs_later (ha : a % k.size = 0) (h : 0x01000000 ≤ a) (h' : a < 0x01080000) (hn : a + k.size ≤ 0x01000000 + 4096 * (d.vat node).reserve)
    (hst : c.storeHolds a k.size = false) (ht : c.tensorHolds a k.size k.isAmo = false) :
    loadIssue d node slot c a k = .retire d (c.withLoad a k (.vs node (a - 0x01000000))) c.nextPc 1 := by
  simp [loadIssue, ha, ownPlace_vs h h' hn, isPeer_vs h h', hst, ht, Dev.accepts, Curd.withLoad]

end

/-! ## Stores at issue -/

section
variable {d : Dev} {node slot a : Nat} {c : Curd} {bs : List Byte}

theorem storeIssue_misaligned (h : a % bs.length ≠ 0) : storeIssue d node slot c a bs = .fault 0x03 a := if_pos h

theorem storeIssue_ldm (ha : a % bs.length = 0) (h : a < 0x10000) (hn : a + bs.length ≤ 0x10000)
    (ht : c.tensorHolds a bs.length true = false) (ho : c.ownPending = false) :
    storeIssue d node slot c a bs =
      .retire (d.ldmWrite node slot a bs).1 ((d.ldmWrite node slot a bs).1.curd (curdKey node slot)) c.nextPc 1 := by
  simp [storeIssue, ha, ownPlace_ldm h hn, isPeer_ldm h, ht, ho]

/-- The curd whose store joins its stores. -/
def Curd.withStore (c : Curd) (a : Nat) (bs : List Byte) (p : Place) : Curd :=
  { c with stores := c.stores ++ [{ ord := c.ord, addr := a, data := bs, place := p, sent := false, resp := none }], ord := c.ord + 1 }

theorem storeIssue_ldm_later (ha : a % bs.length = 0) (h : a < 0x10000) (hn : a + bs.length ≤ 0x10000)
    (ht : c.tensorHolds a bs.length true = false) (ho : c.ownPending = true) :
    storeIssue d node slot c a bs = .retire d (c.withStore a bs (.ldm node slot a)) c.nextPc 1 := by
  simp [storeIssue, ha, ownPlace_ldm h hn, isPeer_ldm h, regionOf_ldm h, ht, ho, Dev.accepts, Curd.withStore]

theorem storeIssue_vs (ha : a % bs.length = 0) (h : 0x01000000 ≤ a) (h' : a < 0x01080000) (hn : a + bs.length ≤ 0x01000000 + 4096 * (d.vat node).reserve)
    (ht : c.tensorHolds a bs.length true = false) (hp : c.postedStores < 8) :
    storeIssue d node slot c a bs = .retire d (c.withStore a bs (.vs node (a - 0x01000000))) c.nextPc 1 := by
  simp [storeIssue, ha, ownPlace_vs h h' hn, regionOf_vs h h', ht, Dev.accepts, Curd.withStore, hp]

/-- A ninth posted store waits. -/
theorem storeIssue_vs_waits (ha : a % bs.length = 0) (h : 0x01000000 ≤ a) (h' : a < 0x01080000) (hn : a + bs.length ≤ 0x01000000 + 4096 * (d.vat node).reserve)
    (hp : 8 ≤ c.postedStores) : ∃ n, storeIssue d node slot c a bs = .hold n := by
  cases ht : c.tensorHolds a bs.length true
  · exact ⟨3, by simp [storeIssue, ha, ownPlace_vs h h' hn, regionOf_vs h h', ht, hp]⟩
  · exact ⟨3, by simp [storeIssue, ha, ownPlace_vs h h' hn, ht]⟩

end

/-! ## The rows -/

theorem LoadOp.size_dvd (op : LoadOp) : op.size ∣ 0x10000 := by cases op <;> decide
theorem StoreOp.size_dvd (op : StoreOp) : op.size ∣ 0x10000 := by cases op <;> decide

theorem leBytes_length (n x : Nat) : (leBytes n x).length = n := by
  induction n generalizing x with
  | zero => rfl
  | succ n ih => rw [leBytes, List.length_cons, ih]

theorem lanesBytes_length (xs : List Word32) : (lanesBytes xs).length = 4 * xs.length := by
  simp [lanesBytes, List.length_flatMap, leBytes_length, Nat.mul_comm]

theorem ofNat_toNat_reg {n : Nat} (r : BitVec n) : BitVec.ofNat n r.toNat = r := by rw [BitVec.ofNat_toNat, BitVec.setWidth_eq]

theorem exec_load (op : LoadOp) (node slot : Nat) (s : State) :
    exec (op.row node slot) s = s.next (s.dev.curdStep node slot (runLoad op node slot)) := by cases op <;> rfl

theorem exec_store (op : StoreOp) (node slot : Nat) (s : State) :
    exec (op.row node slot) s = s.next (s.dev.curdStep node slot (runStore op node slot)) := by cases op <;> rfl

/-- A row that retires in a module of its own answers the retired state. -/
theorem issue_retires_in {s : State} {node slot : Nat} {i : CurdInstr} {d d' : Dev} {run : Dev → Curd → CurdInstr → Option Issue} {r : CurdRegs}
    {pc : BitVec 12} {cost : Nat} (h : Issues s node slot i d)
    (hr : run d (d.curd (curdKey node slot)) i = some (.retire d' { d'.curd (curdKey node slot) with r := r } pc cost)) :
    s.next (s.dev.curdStep node slot run) = .next (retired s node slot d' r pc cost) := by
  rw [curdStep_issues h hr, settle_retire]; rfl

/-- A row that faults stops the curd. -/
theorem issue_faults {s : State} {node slot cause addr : Nat} {i : CurdInstr} {d : Dev} {run : Dev → Curd → CurdInstr → Option Issue}
    (h : Issues s node slot i d) (hr : run d (d.curd (curdKey node slot)) i = some (.fault cause addr)) :
    ∃ t, s.next (s.dev.curdStep node slot run) = .next t ∧
      FaultedBy (d.curd (curdKey node slot)) (t.dev.curd (curdKey node slot)) cause (d.curd (curdKey node slot)).r.pc addr :=
  issue_answers h hr (d.curdFault_faultedBy node slot cause _ addr)

section
variable (c : Curd) (lat : List (Nat × Nat)) (r : CurdRegs) (pc : BitVec 12) (cost : Nat)
@[simp] theorem retiredCurd_loads : (retiredCurd c lat r pc cost).loads = c.loads := rfl
@[simp] theorem retiredCurd_stores : (retiredCurd c lat r pc cost).stores = c.stores := rfl
end

section
variable (c : Curd) (n k : Nat)
@[simp] theorem Curd.perfAdd_stores : (c.perfAdd n k).stores = c.stores := rfl
@[simp] theorem Curd.spend_stores : (c.spend n).stores = c.stores := rfl
end

/-- A load or store that joins the pending ones: the pc moves on, the registers and the vats stay. -/
theorem issue_queues {s : State} {node slot : Nat} {i : CurdInstr} {d : Dev} {run : Dev → Curd → CurdInstr → Option Issue} {c' : Curd}
    (h : Issues s node slot i d) (hr : run d (d.curd (curdKey node slot)) i = some (.retire d c' (d.curd (curdKey node slot)).nextPc 1))
    (hc : c'.r = (d.curd (curdKey node slot)).r) :
    ∃ t, s.next (s.dev.curdStep node slot run) = .next t ∧ (regsOf t.dev node slot).pc = (d.curd (curdKey node slot)).r.pc + 1 ∧
      (regsOf t.dev node slot).g = (d.curd (curdKey node slot)).r.g ∧ t.dev.vats = d.vats ∧
      (t.dev.curd (curdKey node slot)).loads = c'.loads ∧ (t.dev.curd (curdKey node slot)).stores = c'.stores := by
  apply issue_answers h hr
  rw [settle_retire]
  simp [regsOf, hc]

/-- Settles O7. -/
theorem loadRowsReadLocalMemory : Obligations.LoadRowsReadLocalMemory := by
  unfold Obligations.LoadRowsReadLocalMemory
  intro s node slot d op rd ra k h c a later
  rw [exec_load]
  let kind : LoadKind := .scalar rd.toNat op.size op.signed
  have hrun (x : Issue) (hx : loadIssue d node slot c a kind = x) : runLoad op node slot d c (.load op rd ra k) = some x := by
    rw [← hx]; exact if_pos rfl
  have hlater {a' : Nat} {p : Place} (ha' : a' = a) (hx : loadIssue d node slot c a kind = .retire d (c.withLoad a kind p) c.nextPc 1) : later a' p := by
    subst ha'
    obtain ⟨t, ht, hpc, hg, hv, hl, -⟩ := issue_queues h (hrun _ hx) rfl
    exact ⟨t, (exec_load op node slot s).trans ht, hpc, hg, hv, hl⟩
  refine ⟨fun ha => ?_, fun ha hlt hst ht ho d' bs hr => ?_, fun ha hlo hn hhi hst ht => ?_, fun ha hlt hst ht ho => ?_⟩
  · exact issue_faults h (hrun _ (loadIssue_misaligned ha))
  · have hacc : d.ldmAccess node slot a kind = (d', some bs) := by simp only [Dev.ldmAccess, kind, LoadKind.size, hr, LoadKind.combine]
    have hx := loadIssue_ldm (k := kind) ha hlt (add_le_of_aligned hlt ha op.size_dvd) hst ht ho hacc
    rw [show (d'.curd (curdKey node slot)).r.land kind bs = (regsOf d' node slot).setG rd (extendTo64 op.size op.signed (leNat bs)) by
      simp only [kind, CurdRegs.land, ofNat_toNat_reg, regsOf]] at hx
    exact issue_retires_in h (hrun _ hx)
  · exact hlater rfl (loadIssue_vs_later (k := kind) ha hlo hhi hn hst ht)
  · exact hlater rfl (loadIssue_ldm_later (k := kind) ha hlt (add_le_of_aligned hlt ha op.size_dvd) hst ht ho)

/-- Settles O8. -/
theorem storeRowsWriteLocalMemory : Obligations.StoreRowsWriteLocalMemory := by
  unfold Obligations.StoreRowsWriteLocalMemory
  intro s node slot d op rs ra k h c a bs posted
  rw [exec_store]
  have hlen : bs.length = op.size := leBytes_length _ _
  have hrun (x : Issue) (hx : storeIssue d node slot c a bs = x) : runStore op node slot d c (.store op rs ra k) = some x := by
    rw [← hx]; exact if_pos rfl
  have hposted {p : Place} (hx : storeIssue d node slot c a bs = .retire d (c.withStore a bs p) c.nextPc 1) : posted a p := by
    obtain ⟨t, ht, hpc, hg, hv, -, hs⟩ := issue_queues h (hrun _ hx) rfl
    exact ⟨t, (exec_store op node slot s).trans ht, hpc, hg, hv, hs⟩
  rw [← hlen]
  have hfit (ha : a % bs.length = 0) (hlt : a < 0x10000) : a + bs.length ≤ 0x10000 := add_le_of_aligned hlt ha (hlen ▸ op.size_dvd)
  refine ⟨fun ha => ?_, fun ha hlt ht ho => ?_, fun ha hlo hn hhi ht hp => ?_, fun ha hlt ht ho => ?_, fun ha hlo hn hhi hp => ?_⟩
  · exact issue_faults h (hrun _ (storeIssue_misaligned ha))
  · exact issue_retires_in h (hrun _ (storeIssue_ldm ha hlt (hfit ha hlt) ht ho))
  · exact hposted (storeIssue_vs ha hlo hhi hn ht hp)
  · exact hposted (storeIssue_ldm_later ha hlt (hfit ha hlt) ht ho)
  · obtain ⟨n, hx⟩ := storeIssue_vs_waits (bs := bs) ha hlo hhi hn hp
    refine issue_holds h (hrun _ hx) ?_
    simp [regsOf, c]

/-- Settles O9. -/
theorem wideRowsAccessLocalMemory : Obligations.WideRowsAccessLocalMemory := by
  unfold Obligations.WideRowsAccessLocalMemory
  intro s node slot d c
  refine ⟨?_, ?_, ?_, ?_⟩
  · intro v ra k h a ha hlt hst ht ho d' bs hr
    have hacc : d.ldmAccess node slot a (.vec v.toNat) = (d', some bs) := by simp only [Dev.ldmAccess, LoadKind.size, hr, LoadKind.combine]
    have hx := loadIssue_ldm (k := .vec v.toNat) ha hlt (add_le_of_aligned hlt ha (show 128 ∣ 0x10000 by decide)) hst ht ho hacc
    rw [CurdRegs.land, ofNat_toNat_reg] at hx
    exact issue_retires_in (run := runVld node slot) h (congrArg some hx)
  · intro v ra k h a ha hlt ht ho d'
    have hlen : (lanesBytes (c.r.getV v)).length = 128 := by rw [lanesBytes_length, CurdRegs.getV, smGetList_length]
    rw [← hlen] at ha ht
    have hx := storeIssue_ldm (d := d) (node := node) (slot := slot) ha hlt (add_le_of_aligned hlt ha (by rw [hlen]; decide)) ht ho
    exact issue_retires_in (run := runVst node slot) h (congrArg some hx)
  · intro op wide rd ra rb h n a ha hlt hst ht ho d1 old hr new d2
    let kind : LoadKind := .amo rd.toNat op.code wide (c.r.getG rb) (c.r.getG rd)
    have hcomb : kind.combine old = some (leBytes n new) := by simp only [kind, LoadKind.combine, op.ofCode_code]; rfl
    have hacc : d.ldmAccess node slot a kind = (d2, some old) := by
      rw [Dev.ldmAccess, show kind.size = n from rfl, hr]
      simp only [hcomb]; rfl
    have hx := loadIssue_ldm (k := kind) ha hlt (add_le_of_aligned hlt ha (show (if wide then 8 else 4) ∣ 0x10000 by cases wide <;> decide)) hst ht ho hacc
    rw [CurdRegs.land, ofNat_toNat_reg] at hx
    exact issue_retires_in (run := runAmo node slot) h (congrArg some hx)
  · intro ra rb h a off ha hoff hlt hst ht d1 bs hr d2
    refine issue_retires_in (run := runIwr node slot) h (r := regsOf d2 node slot) ?_
    have hfree : (c.storeHolds a 128 || c.tensorHolds a 128 true) = false := by rw [hst, ht]; rfl
    simp only [runIwr]
    rw [if_neg (by simp [ha, hoff, a, off, c]), if_neg (by simp only [a, c] at hlt; omega), if_neg (by simpa [a, c] using hfree), hr]
    rfl

/-! ## Local data memory (05_local_memory.md R141, R149) -/

section
variable {d : Dev} {node slot : Nat}

theorem Block.marks_nil {b : Block} (h : b.err = []) (off n : Nat) : b.marks off n = [] := by rw [Block.marks, h]; rfl

/-- A read without flipped words leaves the module as it was. -/
theorem ldmRead_clean (he : (d.curd (curdKey node slot)).ldmErr = []) (a n : Nat) :
    d.ldmRead node slot a n = (d.setCurd (curdKey node slot) (d.curd (curdKey node slot)), some (memRead (d.curd (curdKey node slot)).ldm a n)) := by
  rw [Dev.ldmRead, Block.read_clean (Block.marks_nil he a n)]; rfl

/-- A write without flipped words and no armed flip stores its bytes. -/
theorem ldmWrite_clean (he : (d.curd (curdKey node slot)).ldmErr = []) (hf : (d.curd (curdKey node slot)).ldmFlip.arm = false) (a : Nat) (bs : List Byte) :
    d.ldmWrite node slot a bs =
      (d.setCurd (curdKey node slot) { d.curd (curdKey node slot) with ldm := memWrite (d.curd (curdKey node slot)).ldm a bs }, true) := by
  rw [Dev.ldmWrite, Block.write_clean (Block.marks_nil he a bs.length) hf, writeBut_nil]; rfl

end

/-- Settles O10. -/
theorem localDataMemoryHoldsItsBytes : Obligations.LocalDataMemoryHoldsItsBytes := by
  unfold Obligations.LocalDataMemoryHoldsItsBytes
  intro d node slot a bs b c he hf
  refine ⟨ldmRead_clean he a bs.length, ?_⟩
  rw [ldmWrite_clean he hf]
  simp only [Dev.curd_setCurd_same, regsOf_setCurd]
  exact ⟨memRead_write_same .., fun hb => memGet_write_out _ _ _ _ hb, rfl, fun j hj => Dev.curd_setCurd_other _ _ _ _ hj⟩

/-! ## Pending accesses (03_curd_core.md R76, R90, R120, R121) -/

section
variable {d : Dev} {node slot idx : Nat} {l : PLoad}

/-- The module once pending load `idx` has left the curd. -/
def Dev.loadTaken (d : Dev) (node slot idx : Nat) : Dev :=
  d.setCurd (curdKey node slot) { d.curd (curdKey node slot) with loads := (d.curd (curdKey node slot)).loads.eraseIdx idx }

/-- A load that may be performed answers with what is read, or with what its reply brought. -/
theorem doLoadResponse_of (hl : (d.curd (curdKey node slot)).loads[idx]? = some l) (hk : l.place.known = true)
    (ho : (d.curd (curdKey node slot)).inOrder l.ord l.addr = true) (hp : d.peerFenced l.addr l.place = false)
    (hline : (l.byLine && l.resp.isNone) = false) {r : Dev × Option (List Byte)}
    (hr : (match l.resp with | some x => (d.loadTaken node slot idx, x) | none => (d.loadTaken node slot idx).loadAnswer node l) = r) :
    doLoadResponse d node slot idx =
      match r.2 with
      | none => r.1.curdFault node slot 0x05 l.pc l.addr
      | some bs => r.1.setCurd (curdKey node slot)
          { r.1.curd (curdKey node slot) with r := (r.1.curd (curdKey node slot)).r.land l.kind bs } := by
  subst hr
  simp only [doLoadResponse, hl, hk, ho, hp, hline, Dev.loadTaken]
  rfl

end

theorem exec_loadResponse (node slot idx : Nat) (s : State) :
    exec (.loadResponse node slot idx) s = s.next ((doLoadResponse s.dev node slot idx).curdDone node slot) := rfl

theorem exec_postedStorePerformed (node slot idx : Nat) (s : State) :
    exec (.postedStorePerformed node slot idx) s = s.next ((doPostedStorePerformed s.dev node slot idx).curdDone node slot) := rfl

/-- What the finish of an instruction leaves of its curd. -/
theorem curdDone_same (d : Dev) (node slot : Nat) : (d.curdDone node slot).curd (curdKey node slot) = (d.curd (curdKey node slot)).stopQuiet := by
  rw [Dev.curdDone_curd, if_pos rfl]

theorem FaultedBy.stopQuiet {c c' : Curd} {cause addr : Nat} {pc : BitVec 12} (h : FaultedBy c c' cause pc addr) :
    FaultedBy c c'.stopQuiet cause pc addr := by
  have hst : c'.stopQuiet.st = c'.st := c'.stopQuiet_st (by rw [h.1]; decide)
  unfold FaultedBy at h ⊢
  rwa [hst, Curd.stopQuiet_r]

/-- A load that answers: its register is written, and the curd keeps the loads of the module that answered. -/
theorem loadResponse_answers {s : State} {node slot idx : Nat} {l : PLoad} {d' : Dev} {bs : List Byte}
    (h : doLoadResponse s.dev node slot idx =
      d'.setCurd (curdKey node slot) { d'.curd (curdKey node slot) with r := (d'.curd (curdKey node slot)).r.land l.kind bs }) :
    ∃ t, exec (.loadResponse node slot idx) s = .next t ∧ regsOf t.dev node slot = (regsOf d' node slot).land l.kind bs ∧
      (t.dev.curd (curdKey node slot)).loads = (d'.curd (curdKey node slot)).loads ∧ t.dev.vats = d'.vats ∧ t.dev.ext = d'.ext :=
  ⟨_, exec_loadResponse .., by simp [h, regsOf, curdDone_same]⟩

theorem regsOf_loadTaken (d : Dev) (node slot idx : Nat) : regsOf (d.loadTaken node slot idx) node slot = regsOf d node slot := by
  rw [Dev.loadTaken, regsOf_setCurd]; rfl

@[simp] theorem Dev.logAccess_curds (d : Dev) (node unit a : Nat) : (d.logAccess node unit a).curds = d.curds := by simp [Dev.logAccess]
@[simp] theorem Dev.logAccess_vats (d : Dev) (node unit a : Nat) : (d.logAccess node unit a).vats = d.vats := by simp [Dev.logAccess]

@[simp] theorem Dev.notePeerFail_curds (d : Dev) (node slot a : Nat) : (d.notePeerFail node slot a).curds = d.curds := by
  unfold Dev.notePeerFail; dsimp only; split
  · exact Dev.setNi_curds ..
  · rfl

@[simp] theorem Dev.notePeerFail_vats (d : Dev) (node slot a : Nat) : (d.notePeerFail node slot a).vats = d.vats := by
  unfold Dev.notePeerFail; dsimp only; split
  · exact Dev.setNi_vats ..
  · rfl

/-- A posted store that is performed leaves the curds as they are after its write, and the vats too. -/
theorem doPostedStorePerformed_vs {d : Dev} {node slot idx off : Nat} {w : PStore} (hw : (d.curd (curdKey node slot)).stores[idx]? = some w)
    (hp : w.place = .vs node off) (hr : w.resp = none) (ho : (d.curd (curdKey node slot)).inOrder w.ord w.addr = true) :
    ∃ e, e = (d.setCurd (curdKey node slot)
        { d.curd (curdKey node slot) with stores := (d.curd (curdKey node slot)).stores.eraseIdx idx }).vsWrite node off w.data ∧
      (doPostedStorePerformed d node slot idx).curds = e.1.curds ∧ (doPostedStorePerformed d node slot idx).vats = e.1.vats := by
  refine ⟨_, rfl, ?_⟩
  simp only [doPostedStorePerformed, hw, hp, ho, hr, Place.known, Place.isExt, Dev.peerFenced, Dev.placeWrite]
  simp only [Bool.not_true, Bool.or_self, Bool.false_and, if_false, Bool.or_false, Bool.false_eq_true]
  split
  · exact ⟨rfl, rfl⟩
  · simp

/-- A write to the vat store leaves the curds. -/
theorem vsWrite_curds (d : Dev) (node off : Nat) (bs : List Byte) : (d.vsWrite node off bs).1.curds = d.curds := by
  simp [Dev.vsWrite]

theorem vsWrite_clean {d : Dev} {node : Nat} (he : (d.vat node).vsErr = []) (hf : (d.vat node).vsFlip.arm = false) (off : Nat) (bs : List Byte) :
    ((d.vsWrite node off bs).1.vat node).vs = memWrite (d.vat node).vs off bs := by
  rw [Dev.vsWrite, Block.write_clean (Block.marks_nil he off bs.length) hf, writeBut_nil]
  simp [Vat.putVs, Vat.vsBlock]

/-- The resolver's oldest access leaves its queue with its place. -/
theorem doResolverAccept_of {d : Dev} {node off : Nat} {a : RAccess} {rest : List RAccess} {p : Place} (hq : (d.vat node).rq = a :: rest)
    (hw : (d.curd (curdKey node a.slot)).windowOf a.ord = some off) (hp : d.resolve node a.slot off = some p) :
    ((doResolverAccept d node).vat node).rq = rest ∧
      (doResolverAccept d node).curd (curdKey node a.slot) = (d.curd (curdKey node a.slot)).placed a.ord p := by
  simp [doResolverAccept, hq, hw, hp]

theorem getFlip_setFlip (d : Dev) (blk : MemBlk) (node slot : Nat) (f : Flip) : (d.setFlip blk node slot f).getFlip blk node slot = f := by
  cases blk <;> simp [Dev.setFlip, Dev.getFlip]

/-- Settles O11. -/
theorem pendingAccessesComplete : Obligations.PendingAccessesComplete := by
  unfold Obligations.PendingAccessesComplete
  intro s node slot idx d key c
  refine ⟨fun l hl hk ho hp hb hresp d' bs hr => ?_, fun l bs hl hk ho hp hresp => ?_, fun l hl hk ho hp hresp => ?_, fun w off hw hp hr ho => ?_,
    fun a rest off p hq hwin hres => ?_, fun blk data chk ho => ?_, fun blk data chk ho => ?_⟩
  · exact loadResponse_answers (doLoadResponse_of hl hk ho hp (by rw [hb]; rfl) (r := (d', some bs)) (by rw [hresp]; exact hr))
  · obtain ⟨t, ht, hregs, hloads, hv, he⟩ := loadResponse_answers (l := l) (d' := d.loadTaken node slot idx) (bs := bs)
      (doLoadResponse_of hl hk ho hp (by rw [hresp]; simp) (r := (d.loadTaken node slot idx, some bs)) (by rw [hresp]))
    rw [regsOf_loadTaken] at hregs
    exact ⟨t, ht, hregs, hloads.trans (by simp [Dev.loadTaken, c, key]), hv, he⟩
  · have hdo := doLoadResponse_of hl hk ho hp (by rw [hresp]; simp) (r := (d.loadTaken node slot idx, none)) (by rw [hresp])
    refine ⟨_, exec_loadResponse .., ?_⟩
    rw [hdo, curdDone_same]
    have hf := (d.loadTaken node slot idx).curdFault_faultedBy node slot 0x05 l.pc l.addr
    rw [Dev.loadTaken, Dev.curd_setCurd_same] at hf
    exact FaultedBy.stopQuiet (c := c) hf
  · obtain ⟨e, he, hcurds, hvats⟩ := doPostedStorePerformed_vs hw hp hr ho
    have hcurd : (doPostedStorePerformed d node slot idx).curd key = { c with stores := c.stores.eraseIdx idx } := by
      rw [Dev.curd, hcurds, he, vsWrite_curds]; exact Dev.curd_setCurd_same ..
    refine ⟨_, exec_postedStorePerformed .., ?_, ?_, ?_, fun herr harm => ?_⟩
    · rw [curdDone_same, hcurd]; simp
    · rw [curdDone_same, hcurd]; simp
    · rw [regsOf, curdDone_same, hcurd]; simp
    · have hvat : (doPostedStorePerformed d node slot idx).vat node = e.1.vat node := congrArg (smGet Vat.init · node) hvats
      rw [Dev.curdDone_vat, hvat, he]
      exact vsWrite_clean (d := d.setCurd _ _) herr harm off w.data
  · exact ⟨_, rfl, doResolverAccept_of hq hwin hres⟩
  · exact ⟨_, rfl, by rw [doFlipArm, if_pos ho, getFlip_setFlip]⟩
  · exact congrArg s.next (if_neg (Bool.eq_false_iff.1 ho))

end Sys2Proof.Machine
end

section
/-! PROOFS. The tensor unit (03_curd_core.md R91-R96): what a tensor instruction becomes at issue, and what each queued instruction
does when the unit runs it. -/

namespace Sys2Proof.Machine

/-! ## Issue (R91, R93, R95, R97) -/

section
variable {d : Dev} {node slot : Nat} {c : Curd} {op : TOp}

/-- Aligned operands in bytes the curd may name: the instruction queues, or waits. -/
theorem tensorIssue_operands_ok (h : ∀ x ∈ op.reads ++ op.writes, x.1 % 64 = 0 ∧ d.bufferOk node slot x.1 x.2 = true) :
    tensorIssue d node slot c op = if 3 ≤ c.tq.length then .hold 3
      else if (op.reads ++ op.writes).any (fun s => c.storeHolds s.1 s.2) then .hold 3
      else .retire d { c with tq := c.tq ++ [{ op := op, pc := c.r.pc }] } c.nextPc 1 := by
  have haligned : (op.reads ++ op.writes).find? (fun s => s.1 % 64 != 0) = none :=
    List.find?_eq_none.2 fun x hx => by simp [(h x hx).1]
  have hplaced : (op.reads ++ op.writes).find? (fun s => !d.bufferOk node slot s.1 s.2) = none :=
    List.find?_eq_none.2 fun x hx => by simp [(h x hx).2]
  simp only [tensorIssue, haligned, hplaced]

theorem tensorIssue_queues (h : ∀ x ∈ op.reads ++ op.writes, x.1 % 64 = 0 ∧ d.bufferOk node slot x.1 x.2 = true)
    (hfree : ∀ x ∈ op.reads ++ op.writes, c.storeHolds x.1 x.2 = false) (hq : c.tq.length < 3) :
    tensorIssue d node slot c op = .retire d { c with tq := c.tq ++ [{ op := op, pc := c.r.pc }] } c.nextPc 1 := by
  have hany : (op.reads ++ op.writes).any (fun s => c.storeHolds s.1 s.2) = false :=
    List.any_eq_false.2 fun x hx => by simp [hfree x hx]
  rw [tensorIssue_operands_ok h, if_neg (by omega), hany]
  rfl

theorem tensorIssue_full (h : ∀ x ∈ op.reads ++ op.writes, x.1 % 64 = 0 ∧ d.bufferOk node slot x.1 x.2 = true)
    (hq : 3 ≤ c.tq.length) : tensorIssue d node slot c op = .hold 3 := by
  rw [tensorIssue_operands_ok h, if_pos hq]

end

theorem TOp.reads_tmma (t : Nat) (f : Fmt) (a b : Nat) (clr comp inf : Bool) :
    (TOp.tmma t f.code a b clr comp inf).reads = [(a, f.footprint), (b, f.footprint)] := by
  rw [TOp.reads, Fmt.ofCode_code]

theorem TOp.writes_tst (t : Nat) (f : Fmt) (a : Nat) (rnd comp inf clr : Bool) :
    (TOp.tst t f.code a rnd comp inf clr).writes = [(a, 256 * f.tstBytes)] := by
  rw [TOp.writes, Fmt.ofCode_code]

@[simp] theorem retiredCurd_tq (c : Curd) (lat : List (Nat × Nat)) (r : CurdRegs) (pc : BitVec 12) (cost : Nat) :
    (retiredCurd c lat r pc cost).tq = c.tq := rfl

@[simp] theorem Curd.perfAdd_tq (c : Curd) (n k : Nat) : (c.perfAdd n k).tq = c.tq := rfl
@[simp] theorem Curd.spend_tq (c : Curd) (n : Nat) : (c.spend n).tq = c.tq := rfl

/-- A row that puts its instruction into the queue: it joins, or waits while the queue is full. -/
theorem tensorRow_joins {s : State} {node slot : Nat} {i : CurdInstr} {d : Dev} {run : Dev → Curd → CurdInstr → Option Issue} {op : TOp}
    {spans : List (Nat × Nat)} (hrun : run d (d.curd (curdKey node slot)) i = some (tensorIssue d node slot (d.curd (curdKey node slot)) op))
    (hop : op.reads ++ op.writes = spans) (h : Issues s node slot i d)
    (hok : ∀ x ∈ spans, x.1 % 64 = 0 ∧ d.bufferOk node slot x.1 x.2 = true) :
    let c := d.curd (curdKey node slot)
    ((∀ x ∈ spans, c.storeHolds x.1 x.2 = false) → c.tq.length < 3 → ∃ t, s.next (s.dev.curdStep node slot run) = .next t ∧
      (t.dev.curd (curdKey node slot)).tq = c.tq ++ [{ op := op, pc := c.r.pc }] ∧ regsOf t.dev node slot =
        { ((c.r.perfAdd 0 1).perfAdd 1 1) with pc := c.r.pc + 1 } ∧ t.dev.vats = d.vats ∧ t.dev.ext = d.ext) ∧
    (3 ≤ c.tq.length → ∃ t, s.next (s.dev.curdStep node slot run) = .next t ∧
      (t.dev.curd (curdKey node slot)).tq = c.tq ∧ (regsOf t.dev node slot).pc = c.r.pc) := by
  subst hop
  intro c
  refine ⟨fun hfree hq => ?_, fun hq => ?_⟩
  · rw [tensorIssue_queues hok hfree hq] at hrun
    apply issue_answers h hrun
    rw [settle_retire]
    simp [regsOf, c]
  · rw [tensorIssue_full hok hq] at hrun
    apply issue_holds h hrun
    simp [regsOf, c]

/-- Settles O12. -/
theorem tensorRowsJoinTheQueue : Obligations.TensorRowsJoinTheQueue := by
  unfold Obligations.TensorRowsJoinTheQueue
  intro s node slot d
  refine ⟨fun t f ga gb clr comp inf => ?_, fun t ga => ?_, fun t f ga rnd comp inf clr => ?_, fun t u => ?_, fun t u => ?_, fun t u => ?_⟩
  · exact tensorRow_joins (run := runTmma node slot) rfl (by rw [TOp.reads_tmma]; rfl)
  · exact tensorRow_joins (run := runTld node slot) rfl rfl
  · exact tensorRow_joins (run := runTst node slot) rfl (TOp.writes_tst t.toNat f _ rnd comp inf clr)
  · exact tensorRow_joins (run := runTopClear node slot) rfl rfl
  · exact tensorRow_joins (run := runTopCopy node slot) rfl rfl
  · exact tensorRow_joins (run := runTopAdd node slot) rfl rfl

/-! ## Execution (R93-R96) -/

/-- The module once the unit has taken the head of the queue. -/
def Dev.tookTensor (d : Dev) (node slot : Nat) (rest : List TQEntry) : Dev :=
  d.setCurd (curdKey node slot) { d.curd (curdKey node slot) with tq := rest }

/-- The unit takes the head of the queue once the resolver is free for its bytes. -/
theorem exec_tensorExecute {s : State} {node slot : Nat} {e : TQEntry} {rest : List TQEntry}
    (hq : (s.dev.curd (curdKey node slot)).tq = e :: rest)
    (hf : ∀ x ∈ e.op.reads ++ e.op.writes, (s.dev.tookTensor node slot rest).resolverFree node x.1 x.2 = true) :
    exec (.tensorExecute node slot) s = s.next ((tensorRun (s.dev.tookTensor node slot rest) node slot e).curdDone node slot) := by
  have hfree : (e.op.reads ++ e.op.writes).all (fun x => s.dev.resolverFree node x.1 x.2) = true :=
    List.all_eq_true.2 fun x hx => by
      simpa only [Dev.tookTensor, Dev.resolverFree, Dev.vat, Dev.setCurd_vats] using hf x hx
  change s.next ((doTensorExecute s.dev node slot).curdDone node slot) = _
  simp only [doTensorExecute, hq, hfree, if_true]
  rfl

section
variable (c : Curd) (n k : Nat)
@[simp] theorem Curd.tensorDone_tq : (c.tensorDone n k).tq = c.tq := rfl
@[simp] theorem Curd.tensorDone_acc : (c.tensorDone n k).r.acc = c.r.acc := rfl
@[simp] theorem Curd.tensorDone_g : (c.tensorDone n k).r.g = c.r.g := rfl
end

/-- A tile replaced, the registers and the queue kept: what clearing, copying and adding leave of the curd. -/
theorem setTile_done {d e : Dev} {node slot t n : Nat} {rest : List TQEntry} {xs : List Word32}
    (he : e = ((d.tookTensor node slot rest).setCurd (curdKey node slot)
      ({ d.curd (curdKey node slot) with tq := rest, r := (d.curd (curdKey node slot)).r.setTile t xs }.tensorDone n 0)).curdDone node slot) :
    (e.curd (curdKey node slot)).tq = rest ∧ (regsOf e node slot).acc = ((d.curd (curdKey node slot)).r.setTile t xs).acc ∧
      (regsOf e node slot).g = (d.curd (curdKey node slot)).r.g := by
  subst he
  simp [regsOf, curdDone_same]

theorem tookTensor_curd (d : Dev) (node slot : Nat) (rest : List TQEntry) :
    (d.tookTensor node slot rest).curd (curdKey node slot) = { d.curd (curdKey node slot) with tq := rest } :=
  Dev.curd_setCurd_same ..

/-- A tile load that reads its bytes. -/
theorem tensorRun_tld {d d' : Dev} {node slot t a : Nat} {pc : BitVec 12} {bs : List Byte} (h : d.localRead node slot a 1024 = (d', .ok bs)) :
    (regsOf ((tensorRun d node slot { op := .tld t a, pc := pc }).curdDone node slot) node slot).acc =
      ((regsOf d' node slot).setTile t (bytesWords 256 bs)).acc := by
  simp [tensorRun, h, regsOf, curdDone_same]

@[simp] theorem Dev.drawStall_curd (d : Dev) (bound : Option Nat) (j : Nat) : (d.drawStall bound).2.curd j = d.curd j := by
  unfold Dev.drawStall; split <;> rfl

/-- A floating product without compensation: each element of the tile accumulates its row and column. -/
theorem tensorRun_tmma {d d1 d2 : Dev} {node slot t a b : Nat} {f : Fmt} {clr inf : Bool} {pc : BitVec 12} {abs bbs : List Byte}
    (hf : f.isInt = false) (ha : d.localRead node slot a f.footprint = (d1, .ok abs)) (hb : d1.localRead node slot b f.footprint = (d2, .ok bbs)) :
    (regsOf ((tensorRun d node slot { op := .tmma t f.code a b clr false inf, pc := pc }).curdDone node slot) node slot).acc =
      ((regsOf d2 node slot).setTile t ((List.range 256).map fun n => (tmmaElem f false inf abs bbs (n / 16) (n % 16)
        (if clr then (0, 0) else ((((regsOf d2 node slot).getTile t)[n]?).getD 0, 0))).1)).acc := by
  simp [tensorRun, Fmt.ofCode_code, ha, hb, regsOf, curdDone_same, tmmaTile, hf, Function.comp_def]

/-- Settles O13. -/
theorem tensorExecuteRunsTheOldest : Obligations.TensorExecuteRunsTheOldest := by
  unfold Obligations.TensorExecuteRunsTheOldest
  intro s node slot pc rest op key c d tile hq
  have hrun := fun hf => exec_tensorExecute (s := s) (node := node) (slot := slot) hq hf
  refine ⟨?_, ?_, ?_, ?_, ?_⟩
  · rintro t rfl
    refine ⟨_, hrun (by simp [TOp.reads, TOp.writes]), setTile_done (n := 1) ?_⟩
    simp only [tensorRun, tookTensor_curd]
  · rintro t v rfl
    refine ⟨_, hrun (by simp [TOp.reads, TOp.writes]), setTile_done (n := 16) ?_⟩
    simp only [tensorRun, tookTensor_curd]; rfl
  · rintro t v rfl
    refine ⟨_, hrun (by simp [TOp.reads, TOp.writes]), setTile_done (n := 16) ?_⟩
    simp only [tensorRun, tookTensor_curd]; rfl
  · rintro t a d' bs rfl hfree hr
    exact ⟨_, hrun (List.forall_mem_singleton.2 hfree), tensorRun_tld hr⟩
  · rintro t f a b clr inf d1 abs d2 bbs rfl hf hfa hfb ha hb
    refine ⟨_, hrun ?_, tensorRun_tmma hf ha hb⟩
    rw [TOp.reads_tmma]
    exact List.forall_mem_cons.2 ⟨hfa, List.forall_mem_singleton.2 hfb⟩

end Sys2Proof.Machine
end

section
/-! PROOFS. The rows of a curd that hand work on (03_curd_core.md R99, R101, R104-R110, R117): FAR, SIGNAL and FENCE take a far tag,
or complete at once with INVALID; DMA, COLL and CULT queue their descriptor. -/

namespace Sys2Proof.Machine

/-! ## Tags and targets -/

@[simp] theorem NI.tagRec_setTag_same (n : NI) (t : Nat) (r : Option TagRec) : (n.setTag t r).tagRec t = r := smGet_set_same ..

/-- The record of an operation that an engine hands to the interface. -/
def Dev.tagOf (d : Dev) (node ctx : Nat) (op : TagOp) (f : Flit) (ga src ord : Nat) : TagRec :=
  { op := op, flit := f, ga := ga, ctx := ctx, gen := (d.ctx ctx).gen, src := src, idx := (d.ni node).accepts, ord := ord,
    dest := destKey (d.ctx ctx).rank ga, chip := none, seq := 0, st := .waiting, copies := 0, limit := 0 }

section
variable (d : Dev) (node ctx tag : Nat) (op : TagOp) (f : Flit) (ga src ord : Nat)

theorem Dev.submit_eq : d.submit node ctx tag op f ga src ord =
    d.setNi node { (d.ni node).setTag tag (some (d.tagOf node ctx op f ga src ord)) with accepts := (d.ni node).accepts + 1 } := rfl

theorem Dev.submit_tagRec : ((d.submit node ctx tag op f ga src ord).ni node).tagRec tag = some (d.tagOf node ctx op f ga src ord) := by
  rw [Dev.submit_eq, Dev.ni_setNi_same]
  exact smGet_set_same none (d.ni node).tags tag (some (d.tagOf node ctx op f ga src ord))

/-- Where an operation goes does not depend on the tags in use. -/
theorem Dev.target_submit (part slot x : Nat) : (d.submit node ctx tag op f ga src ord).target node part slot x = d.target node part slot x := by
  rw [Dev.submit_eq]
  unfold Dev.target
  rw [Dev.ni_setNi_same]
  rfl

/-- An operation whose destination can be sent to waits under its tag. -/
theorem Dev.submitChecked_open (h : ∀ code, d.target node (ctx / 16) (ctx % 16) ga ≠ .bad code) :
    d.submitChecked node ctx tag op f ga src ord = d.submit node ctx tag op f ga src ord := by
  rw [Dev.submitChecked, Dev.target_submit]
  split
  next code hcode => exact absurd hcode (h code)
  next => rfl

end

/-! ## FAR, SIGNAL and FENCE (R104-R107) -/

/-- The curd that has issued one more far operation on a counter. -/
def Curd.farIssued (c : Curd) (k : Nat) : Curd := ({ c with ord := c.ord + 1 }.issue k).perfAdd 7 1

/-- The module once a far operation of the curd waits under its tag. -/
def Dev.farSubmitted (d : Dev) (node slot tag k : Nat) (op : TagOp) (f : Flit) (ga : Nat) : Dev :=
  (d.setCurd (curdKey node slot) ((d.curd (curdKey node slot)).farIssued k)).submit node (d.vatCtx node) tag op f ga slot
    (d.curd (curdKey node slot)).ord

section
variable {d : Dev} {node slot tag ga n b : Nat} {k : KNum} {op : Nat → TagOp} {f : Flit} {go : Issue}

theorem farStart_open (ht : (d.ni node).freeTag (d.farTagBase node slot) 16 = some tag)
    (ho : ∀ code, d.target node (d.vatCtx node / 16) (d.vatCtx node % 16) ga ≠ .bad code) :
    farStart node slot k d (d.curd (curdKey node slot)) op f ga =
      .retire (d.farSubmitted node slot tag k.toNat (op k.toNat) f ga)
        ((d.farSubmitted node slot tag k.toNat (op k.toNat) f ga).curd (curdKey node slot)) (d.curd (curdKey node slot)).nextPc 2 := by
  simp only [farStart, ht]
  rw [Dev.submitChecked_open (d := d.setCurd _ _) (h := ho)]
  rfl

theorem farTagged_free (ht : (d.ni node).freeTag (d.farTagBase node slot) 16 = some tag) : farTagged d node slot go = go :=
  if_neg (by simp [ht])

theorem farTagged_none (ht : (d.ni node).freeTag (d.farTagBase node slot) 16 = none) : farTagged d node slot go = .hold 3 :=
  if_pos (by simp [ht])

theorem farLocal_free {a align : Nat} {write : Bool} {c : Curd} (ha : a % align = 0) (hb : d.bufferOk node slot a n = true)
    (hs : c.storeHolds a n = false) (ht : c.tensorHolds a n write = false) (hr : d.resolverFree node a n = true) :
    farLocal d node slot c a n align write go = go := by
  simp [farLocal, ha, hb, hs, ht, hr]

theorem farCapture_ok {a : Nat} {e : Dev} {bs : List Byte} {next : Dev → List Byte → Issue} (h : d.localRead node slot a n = (e, .ok bs)) :
    farCapture node slot a n d next = next e bs := by
  simp [farCapture, h]

theorem oneBlock_of {a len : Nat} (h : a % 128 + len ≤ 128) : oneBlock a len = true := decide_eq_true h

end

section
variable (c : Curd) (lat : List (Nat × Nat)) (r : CurdRegs) (pc : BitVec 12) (n k : Nat)
@[simp] theorem retiredCurd_issued : (retiredCurd c lat r pc n).issued = c.issued := rfl
@[simp] theorem retiredCurd_colls : (retiredCurd c lat r pc n).colls = c.colls := rfl
@[simp] theorem Curd.perfAdd_issued : (c.perfAdd n k).issued = c.issued := rfl
@[simp] theorem Curd.issue_r : (c.issue k).r = c.r := rfl
@[simp] theorem Curd.issue_issued : (c.issue k).issued = smSet 0 c.issued k (smGet 0 c.issued k + 1) := rfl
@[simp] theorem Curd.issue_colls : (c.issue k).colls = c.colls := rfl
@[simp] theorem Curd.farIssued_issued : (c.farIssued k).issued = smSet 0 c.issued k (smGet 0 c.issued k + 1) := rfl
@[simp] theorem Curd.farIssued_r : (c.farIssued k).r = c.r.perfAdd 7 1 := rfl
end

section
variable (d : Dev) (node slot tag k : Nat) (op : TagOp) (f : Flit) (ga : Nat)

@[simp] theorem Dev.farSubmitted_curd :
    (d.farSubmitted node slot tag k op f ga).curd (curdKey node slot) = (d.curd (curdKey node slot)).farIssued k := by
  rw [Dev.farSubmitted, Dev.submit_eq, Dev.setNi_curd, Dev.curd_setCurd_same]

theorem Dev.farSubmitted_tagRec :
    ((d.farSubmitted node slot tag k op f ga).ni node).tagRec tag =
      some (d.tagOf node (d.vatCtx node) op f ga slot (d.curd (curdKey node slot)).ord) := by
  rw [Dev.farSubmitted, Dev.submit_tagRec]
  rfl

end

/-- A row that hands its request to the interface under a tag. -/
theorem issue_sends {s : State} {node slot tag ga : Nat} {i : CurdInstr} {d : Dev} {k : KNum} {run : Dev → Curd → CurdInstr → Option Issue}
    {op : Nat → TagOp} {f : Flit} (h : Issues s node slot i d) (ht : (d.ni node).freeTag (d.farTagBase node slot) 16 = some tag)
    (ho : ∀ code, d.target node (d.vatCtx node / 16) (d.vatCtx node % 16) ga ≠ .bad code)
    (hr : run d (d.curd (curdKey node slot)) i = some (farStart node slot k d (d.curd (curdKey node slot)) op f ga)) :
    ∃ t, s.next (s.dev.curdStep node slot run) = .next t ∧ (regsOf t.dev node slot).pc = (d.curd (curdKey node slot)).r.pc + 1 ∧
      (regsOf t.dev node slot).g = (d.curd (curdKey node slot)).r.g ∧
      smGet 0 (t.dev.curd (curdKey node slot)).issued k.toNat = smGet 0 (d.curd (curdKey node slot)).issued k.toNat + 1 ∧
      ∃ r, (t.dev.ni node).tagRec tag = some r ∧ r.op = op k.toNat ∧ r.flit = f ∧ r.ga = ga ∧ r.ctx = d.vatCtx node ∧ r.src = slot ∧ r.st = .waiting := by
  rw [farStart_open ht ho] at hr
  apply issue_answers h hr
  rw [settle_retire]
  refine ⟨by simp [regsOf], by simp [regsOf], by simp,
    d.tagOf node (d.vatCtx node) (op k.toNat) f ga slot (d.curd (curdKey node slot)).ord, ?_, rfl, rfl, rfl, rfl, rfl, rfl⟩
  rw [Dev.setCurd_ni]
  exact Dev.farSubmitted_tagRec ..

theorem gaCore_of {a : Nat} (h : a / 2 ^ 43 % 2 = 1) : gaCore a = true := by
  simpa [gaCore, bit] using h

/-- A far atomic whose operands are in place hands its request over. -/
theorem farAtomicIssue_starts {d : Dev} {node slot tag : Nat} {kind : FarKind} {ga gb : Reg} {k : KNum} {ord : Bool} {lenM1 : BitVec 7}
    {bs : List Byte} (ht : (d.ni node).freeTag (d.farTagBase node slot) 16 = some tag) :
    let c := d.curd (curdKey node slot)
    let n := lenM1.toNat + 1
    let a := (c.r.getG ga).toNat
    let b := (c.r.getG gb).toNat
    a % 128 + n ≤ 128 → b % 8 = 0 → d.bufferOk node slot b 16 = true → c.storeHolds b 16 = false → c.tensorHolds b 16 true = false →
      d.resolverFree node b 16 = true → d.localRead node slot b 16 = (d, .ok bs) →
      farAtomicIssue node slot d c kind ga gb k ord lenM1 =
        farStart node slot k d c (fun k => .farAmo slot k b n) (request tAmo ord n kind.code bs) a := by
  intro c n a b hblock hal hb hs hth hr hread
  rw [farAtomicIssue, farLocal_free hal hb hs hth hr, farTagged_free ht, if_pos (oneBlock_of hblock), farCapture_ok hread]

/-- Settles O14. -/
theorem farRowsHandTheirRequestToTheInterface : Obligations.FarRowsHandTheirRequestToTheInterface := by
  unfold Obligations.FarRowsHandTheirRequestToTheInterface
  intro s node slot d ga gb k ord lenM1 tag key c ctx n a b sends open_ ht
  refine ⟨fun h ho hblock hb hs hth hr => ?_, fun h ho hblock hb hs hth hr bs hread => ?_, fun h ho hblock => ?_,
    fun kind hk h ho hblock hal hb hs hth hr bs hread => ?_, fun ctr h ho hcore hlow => ?_, fun h ho => ?_⟩
  · refine issue_sends (run := runFarGet node slot) (op := fun k => .farGet slot k b n) h ht ho ?_
    simp only [runFarGet]
    rw [farLocal_free (Nat.mod_one b) hb hs hth hr, farTagged_free ht, if_pos (oneBlock_of hblock)]
  · refine issue_sends (run := runFarPut node slot) (op := fun k => .farPut slot k) h ht ho ?_
    simp only [runFarPut]
    rw [farLocal_free (Nat.mod_one b) hb hs hth hr, farTagged_free ht, if_pos (oneBlock_of hblock), farCapture_ok hread]
  · refine issue_sends (run := runFarPutv node slot) (op := fun k => .farPut slot k) h ht ho ?_
    simp only [runFarPutv]
    rw [farTagged_free ht, if_pos (oneBlock_of hblock)]
  · have hstart := farAtomicIssue_starts (kind := kind) (ga := ga) (gb := gb) (k := k) (ord := ord) ht hblock hal hb hs hth hr hread
    by_cases hadd : kind = .fadd
    · subst hadd
      refine issue_sends (run := runFarFp32Add node slot) (op := fun k => .farAmo slot k b n) h ht ho ?_
      exact congrArg some hstart
    · rw [if_neg hadd]
      have hcode : kind.code ≤ 11 := by cases kind <;> first | contradiction | decide
      refine issue_sends (run := runFarAtomic node slot) (op := fun k => .farAmo slot k b n) h ht ho ?_
      simp only [runFarAtomic]
      rw [if_pos ⟨hk, hcode⟩, hstart]
  · refine issue_sends (run := runSignal node slot) (op := fun k => .sig slot k) h ht ho ?_
    have hcurd : (gaCore a && bits a 22 0 == 0) = true := by
      rw [gaCore_of hcore, bits]; simpa using hlow
    simp only [runSignal]
    rw [farTagged_free ht, if_pos hcurd]
  · exact issue_sends (run := runFence node slot) (op := fun k => .fence slot k) h ht ho rfl

/-! ## What no packet can carry (R101, R104) -/

/-- The curd whose far operation completes at once with INVALID. -/
def Curd.farRefused (c : Curd) (k : Nat) : Curd := ((c.issue k).perfAdd 7 1).complete k 0x03

theorem farInvalid_counts {d : Dev} {node slot ga : Nat} {k : KNum} {c : Curd} (h : d.tearing node = false) :
    ∃ e : Dev, e.curd (curdKey node slot) = c.farRefused k.toNat ∧ e.nis = d.nis ∧
      farInvalid node slot k d c ga = .retire e (e.curd (curdKey node slot)) c.nextPc 2 := by
  refine ⟨_, ?_, ?_, rfl⟩
  · rw [Dev.completeOp_counts _ _ _ _ _ (by rwa [Dev.tearing_setCurd]), Dev.raiseVat_curd, Dev.curd_setCurd_same, Dev.curd_setCurd_same]; rfl
  · rw [Dev.completeOp_counts _ _ _ _ _ (by rwa [Dev.tearing_setCurd])]; rfl

section
variable (c : Curd) (k : Nat)
@[simp] theorem Curd.farRefused_kval : (c.farRefused k).r.kval = smSet 0 c.r.kval k (smGet 0 c.r.kval k + 1) := rfl
theorem Curd.farRefused_kcode_first (h : smGet 0 c.r.kcode k = 0) : smGet 0 (c.farRefused k).r.kcode k = 3 := by
  rw [show (c.farRefused k).r.kcode = smSet 0 c.r.kcode k 3 from if_pos ⟨by decide, h⟩, smGet_set_same]
theorem Curd.farRefused_kcode_later (h : smGet 0 c.r.kcode k ≠ 0) : (c.farRefused k).r.kcode = c.r.kcode := if_neg fun h' => h h'.2
end

/-- Settles O15. -/
theorem farRowsRefuseWhatNoPacketCanCarry : Obligations.FarRowsRefuseWhatNoPacketCanCarry := by
  unfold Obligations.FarRowsRefuseWhatNoPacketCanCarry
  intro s node slot d ga gb k ord lenM1 key c a h hblock
  refine ⟨fun ht => ?_, fun ht htear => ?_⟩
  · refine issue_holds (run := runFarPutv node slot) h (n := 3) ?_ (by simp [regsOf, c, key, CurdRegs.perfAdd])
    simp only [runFarPutv]
    rw [farTagged_none ht]
  · obtain ⟨tag, ht⟩ := Option.ne_none_iff_exists'.1 ht
    obtain ⟨e, hcurd, hni, hrefuse⟩ := farInvalid_counts (slot := slot) (ga := a) (k := k) (c := c) htear
    have hr : runFarPutv node slot d c (.far .putv ga gb k ord lenM1) = some (.retire e (e.curd key) c.nextPc 2) := by
      simp only [runFarPutv]
      rw [farTagged_free ht, if_neg (by simpa [oneBlock] using hblock), hrefuse]
    apply issue_answers h hr
    rw [settle_retire, hcurd]
    have hnis : (e.ni node).tags = (d.ni node).tags := by rw [Dev.ni, hni]; rfl
    have hkcode : (regsOf (e.setCurd key (retiredCurd (c.farRefused k.toNat) (latencyAt s node slot) (c.farRefused k.toNat).r c.nextPc 2)) node slot).kcode =
        (c.farRefused k.toNat).r.kcode := by rw [regsOf_setCurd]; rfl
    refine ⟨by simp [regsOf], by simp [regsOf, CurdRegs.perfAdd], fun h0 => ?_, fun h0 => ?_, hnis⟩
    · rw [hkcode]; exact c.farRefused_kcode_first _ h0
    · rw [hkcode, c.farRefused_kcode_later _ h0]

/-! ## Descriptors (R108-R110) -/

/-- A descriptor in place, with every store of the curd performed, is read at issue. -/
theorem descIssue_ready {d : Dev} {node slot a : Nat} {c : Curd} {bs : List Byte} {go : Dev → List Byte → Issue} (ha : a % 64 = 0)
    (hd : d.descOk node slot a 64 = true) (hs : c.storesDone = true) (hr : d.localRead node slot a 64 = (d, .ok bs)) :
    descIssue d node slot a c go = go d bs := by
  simp [descIssue, ha, hd, hs, farCapture_ok hr]

@[simp] theorem Dev.dmaCh_setDmaCh_same (d : Dev) (node c : Nat) (x : DmaCh) : (d.setDmaCh node c x).dmaCh node c = x := by
  simp [Dev.dmaCh, Dev.setDmaCh, Vat.ch]

@[simp] theorem Dev.setDmaCh_curd (d : Dev) (node c : Nat) (x : DmaCh) (j : Nat) : (d.setDmaCh node c x).curd j = d.curd j := rfl

@[simp] theorem Dev.setCurd_dmaCh (d : Dev) (i : Nat) (x : Curd) (node c : Nat) : (d.setCurd i x).dmaCh node c = d.dmaCh node c := rfl

/-- The update that a CULT of the curd hands to the interface, with its arrival number. -/
def Dev.cultOp (d : Dev) (node slot k record : Nat) (bs : List Byte) : CultOp :=
  { slot := slot, k := k, ctx := d.vatCtx node, record := record, base := 0, entry := bs, phase := 0, got := [], wait := 0, pick := 0,
    crc := none, arr := (d.ctx (d.vatCtx node)).cults, code := 0 }

def Dev.withCult (d : Dev) (node : Nat) (x : CultOp) : Dev :=
  (d.setNi node { d.ni node with cult := (d.ni node).cult ++ [x] }).setCtx (d.vatCtx node)
    { d.ctx (d.vatCtx node) with cults := (d.ctx (d.vatCtx node)).cults + 1 }

theorem runCult_queues {d : Dev} {node slot : Nat} {ga gb : Reg} {k : KNum} {bs : List Byte} :
    let c := d.curd (curdKey node slot)
    let b := (c.r.getG gb).toNat
    b % 64 = 0 → d.bufferOk node slot b 256 = true → c.storeHolds b 256 = false → c.tensorHolds b 256 false = false →
      d.resolverFree node b 256 = true → d.localRead node slot b 256 = (d, .ok bs) →
      runCult node slot d c (.cult ga gb k) =
        some (.retire (d.withCult node (d.cultOp node slot k.toNat (c.r.getG ga).toNat bs)) (c.issue k.toNat) c.nextPc 4) := by
  intro c b hb hbuf hs ht hres hr
  simp only [runCult]
  rw [farLocal_free hb hbuf hs ht hres, farCapture_ok hr]
  rfl

/-- Settles O16. -/
theorem descriptorRowsQueueTheirWork : Obligations.DescriptorRowsQueueTheirWork := by
  unfold Obligations.DescriptorRowsQueueTheirWork
  intro s node slot d ga gb k bs key c a b
  refine ⟨fun chan h ha hd hs hr hq => ?_, fun h hb hbuf hs ht hres hr => ?_, fun ctx core h ha hd hs hr hc hctx hcore hseq => ?_⟩
  · have hrun : runDma node slot d c (.dma ga k chan) = some (.retire
        (d.setDmaCh node chan.toNat { d.dmaCh node chan.toNat with queue := (d.dmaCh node chan.toNat).queue ++ [DmaDesc.ofBytes slot k.toNat bs] })
        (c.issue k.toNat) c.nextPc 4) := by
      simp only [runDma]
      rw [descIssue_ready ha hd hs hr, if_neg (by omega)]
      rfl
    apply issue_answers h hrun
    rw [settle_retire]
    simp [regsOf, c, key]
  · refine ⟨_, d.cultOp node slot k.toNat a bs, congrArg s.next (curdStep_issues h (runCult_queues hb hbuf hs ht hres hr)), ?_⟩
    rw [settle_retire]
    simp [regsOf, Dev.withCult, Dev.cultOp, a, c, key]
  · let e := (d.setCurd key { c.issue k.toNat with colls := c.colls + 1 }).collAccept node slot k.toNat bs
    have hrun : runColl node slot d c (.coll ga k) = some (.retire e (e.curd key) c.nextPc 4) := by
      simp only [runColl]
      rw [descIssue_ready ha hd hs hr, if_neg (by omega)]
    have hcurd : e.curd key = { c.issue k.toNat with colls := c.colls + 1 } := by
      rw [Dev.curd, Dev.collAccept_curds]; exact Dev.curd_setCurd_same ..
    apply issue_answers h hrun
    rw [settle_retire, hcurd]
    refine ⟨by simp [regsOf, c], by simp [key], by simp [key], fun hn => ?_, fun hn hcores => ?_⟩
    · rw [Dev.setCurd_ctx]
      exact Dev.collAccept_numbers (d.setCurd _ _) node slot k.toNat ctx core bs hctx hcore hn hseq
    · rw [Dev.setCurd_unit]
      exact Dev.collAccept_joins (d.setCurd _ _) node slot k.toNat ctx core bs hctx hcore hn hcores hseq

end Sys2Proof.Machine
end

section
/-! PROOFS. DMA channels and check-value units (05_local_memory.md R156, R160-R166, 15_faults_cave.md R459, R461, R462): what the start
of a descriptor, a segment, a completion and an accepted block do to a channel with one run, and the fence of a unit. -/

namespace Sys2Proof.Machine

/-- What every step of a fold leaves alone, the fold leaves alone. -/
theorem foldl_field {α β : Type} (g : Dev → β) {f : Dev → α → Dev} (h : ∀ d a, g (f d a) = g d) (l : List α) (d : Dev) :
    g (l.foldl f d) = g d :=
  foldl_keeps (fun e => g e = g d) l (fun e he a _ => (h e a).trans he) rfl

/-! ## Channels -/

section
variable {ch : DmaCh} {r x : DmaRun}

/-- The run of a channel with one. -/
theorem DmaCh.runOf_single (h : ch.runs = [r]) : ch.runOf r.id = some r := by simp [DmaCh.runOf, h]

theorem DmaCh.setRun_single (h : ch.runs = [r]) (hx : x.id = r.id) : (ch.setRun x).runs = [x] := by simp [DmaCh.setRun, h, hx]

/-- No descriptor comes before a channel's only run. -/
theorem DmaCh.earlierDone_single (h : ch.runs = [r]) : ch.earlierDone r.id = true := by simp [DmaCh.earlierDone, h]

end

/-! ## Where bytes lie does not depend on the channels -/

/-- A vat whose channels alone differ. -/
def Dev.withDma (d : Dev) (node : Nat) (m : SMap DmaCh) : Dev := d.setVat node { d.vat node with dma := m }

theorem Dev.setDmaCh_eq (d : Dev) (node c : Nat) (x : DmaCh) :
    d.setDmaCh node c x = d.withDma node (smSet DmaCh.init (d.vat node).dma c x) := rfl

section
variable (d : Dev) (node : Nat) (m : SMap DmaCh) (n slot a k : Nat)

/-- A field of a vat other than its channels. -/
theorem Dev.vat_withDma {β : Type} (g : Vat → β) (hg : ∀ v : Vat, g { v with dma := m } = g v) : g ((d.withDma node m).vat n) = g (d.vat n) := by
  by_cases h : n = node
  · subst h; rw [Dev.withDma, Dev.vat_setVat_same, hg]
  · rw [Dev.withDma, Dev.vat_setVat_other _ _ _ _ h]

theorem Dev.partOf_withDma : (d.withDma node m).partOf n = d.partOf n := by
  have hl : ((d.withDma node m).vat n).lst = (d.vat n).lst := d.vat_withDma node m n Vat.lst fun _ => rfl
  have hn : ((d.withDma node m).vat n).lnum = (d.vat n).lnum := d.vat_withDma node m n Vat.lnum fun _ => rfl
  unfold Dev.partOf
  dsimp only
  rw [hl, hn]
  rfl

theorem Dev.ctxOf_withDma : (d.withDma node m).ctxOf n = d.ctxOf n := by
  rw [Dev.ctxOf, Dev.partOf_withDma]; rfl

theorem Dev.logical_withDma : ((d.withDma node m).vat n).logical slot = (d.vat n).logical slot :=
  d.vat_withDma node m n (fun v => v.logical slot) fun _ => rfl

theorem Dev.coreOf_withDma : (d.withDma node m).coreOf n slot = d.coreOf n slot := by
  have hn : ((d.withDma node m).vat n).lnum = (d.vat n).lnum := d.vat_withDma node m n Vat.lnum fun _ => rfl
  rw [Dev.coreOf, Dev.partOf_withDma, Dev.logical_withDma, hn]; rfl

theorem Dev.ownPlace_withDma : (d.withDma node m).ownPlace n slot a k = d.ownPlace n slot a k := by
  have hr : ((d.withDma node m).vat n).reserve = (d.vat n).reserve := d.vat_withDma node m n Vat.reserve fun _ => rfl
  have hp (i : Nat) : ((d.withDma node m).vat n).phys i = (d.vat n).phys i := d.vat_withDma node m n (fun v => v.phys i) fun _ => rfl
  unfold Dev.ownPlace
  simp only [hr, hp]
  rfl

theorem Dev.resolve_withDma : (d.withDma node m).resolve n slot a = d.resolve n slot a := by
  have hb : ((d.withDma node m).vat n).base = (d.vat n).base := d.vat_withDma node m n Vat.base fun _ => rfl
  unfold Dev.resolve
  simp only [Dev.logical_withDma, Dev.ctxOf_withDma, Dev.coreOf_withDma, hb]
  rfl

theorem Dev.pieceAt_withDma : (d.withDma node m).pieceAt n slot a k = d.pieceAt n slot a k := by
  unfold Dev.pieceAt
  simp only [Dev.ownPlace_withDma, Dev.resolve_withDma]

theorem Dev.wantsTag_withDma (r : DmaRun) : (d.withDma node m).wantsTag n r = d.wantsTag n r := by
  unfold Dev.wantsTag Dev.tagged
  simp only [Dev.pieceAt_withDma]

end

/-- A channel's own runs do not decide whether it gets a tag. -/
theorem Dev.dmaTag_setDmaCh (d : Dev) (node c : Nat) (x : DmaCh) : (d.setDmaCh node c x).dmaTag node c = d.dmaTag node c := by
  have hothers (o : Nat) : (o != c && ((d.setDmaCh node c x).dmaCh node o).runs.any ((d.setDmaCh node c x).wantsTag node)) =
      (o != c && (d.dmaCh node o).runs.any (d.wantsTag node)) := by
    by_cases ho : o = c
    · simp [ho]
    · have hch : (d.setDmaCh node c x).dmaCh node o = d.dmaCh node o := by
        simp [Dev.dmaCh, Dev.setDmaCh, Vat.ch, smGet_set_other _ _ _ _ _ ho]
      rw [hch, Dev.setDmaCh_eq, funext (d.wantsTag_withDma node _ node)]
  unfold Dev.dmaTag
  simp only [hothers]
  rfl

/-! ## A descriptor starts (R156, R161) -/

/-- The run that a descriptor starts: failed at once where its checks fail. -/
def Dev.startedRun (d : Dev) (node id : Nat) (x : DmaDesc) : DmaRun :=
  let r0 : DmaRun := { id := id, d := x, off := 0, rd := 0, wr := 0, segs := [], landed := 0, code := 0, stopped := false }
  if !d.dmaOk node x then r0.fail 0x03 else if x.poly ≠ 0 ∧ (d.cvFor node).isNone then r0.fail 0x09 else r0

theorem doDmaDescriptorStart_of {d : Dev} {node chan : Nat} {x : DmaDesc} {rest : List DmaDesc} (hq : (d.dmaCh node chan).queue = x :: rest)
    (hm : d.mayStart node = true) (hr : ∀ r ∈ (d.dmaCh node chan).runs, r.readAll = true) :
    doDmaDescriptorStart d node chan = d.setDmaCh node chan { d.dmaCh node chan with
      queue := rest, runs := (d.dmaCh node chan).runs ++ [d.startedRun node (d.dmaCh node chan).nextId x], nextId := (d.dmaCh node chan).nextId + 1 } := by
  have hall : (d.dmaCh node chan).runs.all DmaRun.readAll = true := List.all_eq_true.2 hr
  simp only [doDmaDescriptorStart, hq, hm, hall]
  rfl

section
variable {d : Dev} {node id : Nat} {x : DmaDesc}

theorem Dev.startedRun_d : (d.startedRun node id x).d = x ∧ (d.startedRun node id x).off = 0 ∧ (d.startedRun node id x).landed = 0 := by
  unfold Dev.startedRun
  dsimp only
  split
  · exact ⟨rfl, rfl, rfl⟩
  · split <;> exact ⟨rfl, rfl, rfl⟩

theorem Dev.startedRun_ok (h : d.dmaOk node x = true) (hp : x.poly = 0 ∨ (d.cvFor node).isSome = true) :
    (d.startedRun node id x).code = 0 ∧ (d.startedRun node id x).stopped = false := by
  have hcv : ¬ (x.poly ≠ 0 ∧ (d.cvFor node).isNone = true) := fun ⟨h0, h1⟩ =>
    hp.elim h0 fun h2 => by simp [Option.isNone_iff_eq_none.1 h1] at h2
  rw [Dev.startedRun, if_neg (by simp [h]), if_neg hcv]
  exact ⟨rfl, rfl⟩

theorem Dev.startedRun_unchecked (h : d.dmaOk node x = true) (hp : x.poly ≠ 0) (hcv : d.cvFor node = none) :
    (d.startedRun node id x).code = 9 ∧ (d.startedRun node id x).stopped = true := by
  rw [Dev.startedRun, if_neg (by simp [h]), if_pos ⟨hp, by simp [hcv]⟩]
  exact ⟨rfl, rfl⟩

theorem Dev.startedRun_bad (h : d.dmaOk node x = false) :
    (d.startedRun node id x).code = 3 ∧ (d.startedRun node id x).stopped = true := by
  rw [Dev.startedRun, if_pos (by simp [h])]
  exact ⟨rfl, rfl⟩

end

/-! ## A segment (R160, R164) -/

/-- With no segment there is nothing to write. -/
theorem dmaPushAll_idle {d : Dev} {node chan : Nat} {r : DmaRun} (h : (d.dmaCh node chan).runs = [r]) (hs : r.segs = []) :
    d.dmaPushAll node chan = d := by
  have hp : r.pieces = 0 := by simp [DmaRun.pieces, hs]
  simp [Dev.dmaPushAll, h, Dev.dmaPush, DmaCh.runOf_single h, hp, Dev.dmaDrain]

theorem DmaRun.lim_begin (r : DmaRun) (at_ half : Nat) : (r.begin_ at_ half).lim = min r.d.len (r.off + half) := by
  simp [DmaRun.lim, DmaRun.begin_]

/-- A run whose segment has been read reads no more. -/
theorem dmaFill_end {d : Dev} {node chan : Nat} {r : DmaRun} (h : (d.dmaCh node chan).runs = [r]) (hl : r.lim ≤ r.off) (fuel : Nat) :
    d.dmaFill node chan r.id fuel = d := by
  cases fuel with
  | zero => rfl
  | succ fuel => simp [Dev.dmaFill, DmaCh.runOf_single h, hl]

/-- The run once a read of the rest of its segment has gone out. -/
def DmaRun.readOut (r : DmaRun) : DmaRun := { r with off := r.off + (r.lim - r.off), rd := r.rd + 1 }

theorem DmaRun.readOut_lim (r : DmaRun) : r.readOut.lim ≤ r.readOut.off := by
  cases h : r.segs.getLast? <;> simp only [DmaRun.readOut, DmaRun.lim, h] <;> omega

/-- The module once that read waits under its tag. -/
def Dev.dmaReadOut (d : Dev) (node chan tag : Nat) (r : DmaRun) : Dev :=
  (d.setDmaCh node chan ((d.dmaCh node chan).setRun r.readOut)).dmaPacket node chan tag r
    (.dmaRd chan r.id r.off (r.lim - r.off)) tRd (r.lim - r.off) (r.d.srcAt r.off) []

section
variable {d : Dev} {node chan tag : Nat} {r : DmaRun}

theorem Dev.dmaReadOut_runs (h : (d.dmaCh node chan).runs = [r]) : ((d.dmaReadOut node chan tag r).dmaCh node chan).runs = [r.readOut] := by
  rw [show (d.dmaReadOut node chan tag r).dmaCh node chan = (d.dmaCh node chan).setRun r.readOut from Dev.dmaCh_setDmaCh_same ..]
  exact DmaCh.setRun_single h rfl

theorem Dev.dmaReadOut_tagRec : ((d.dmaReadOut node chan tag r).ni node).tagRec tag = some
    ((d.setDmaCh node chan ((d.dmaCh node chan).setRun r.readOut)).tagOf node (d.vatCtx node) (.dmaRd chan r.id r.off (r.lim - r.off))
      (request tRd r.d.order (r.lim - r.off) 0 []) (r.d.srcAt r.off) (100 + chan) 0) := by
  have hv : (d.setDmaCh node chan ((d.dmaCh node chan).setRun r.readOut)).vatCtx node = d.vatCtx node := by
    rw [Dev.vatCtx, Dev.vatCtx, Dev.setDmaCh_eq, Dev.ctxOf_withDma]
  rw [Dev.dmaReadOut, Dev.dmaPacket, hv, Dev.submit_tagRec]

/-- One read packet takes a whole segment of a global source. -/
theorem dmaFill_once (h : (d.dmaCh node chan).runs = [r]) (hst : r.stopped = false) (hl : r.d.srcLocal = false) (hlim : r.off < r.lim)
    (hpiece : pieceLen r.d (r.d.srcAt r.off) r.off (r.lim - r.off) = r.lim - r.off) (ht : d.dmaTag node chan = some tag) {fuel : Nat} (hf : fuel ≠ 0) :
    d.dmaFill node chan r.id fuel = d.dmaReadOut node chan tag r := by
  obtain ⟨fuel, rfl⟩ := Nat.exists_eq_succ_of_ne_zero hf
  have hgo : (r.stopped || decide (r.lim ≤ r.off)) = false := by simpa [hst] using hlim
  rw [Dev.dmaFill]
  simp only [DmaCh.runOf_single h, hgo, hl, hpiece, ht]
  rw [if_neg (by decide), if_neg (by omega), if_neg (by decide)]
  exact dmaFill_end (Dev.dmaReadOut_runs h) r.readOut_lim fuel

/-- A run begins a segment and reads it whole, in one packet. -/
theorem doDmaSegment_single {at_ half : Nat} (h : (d.dmaCh node chan).runs = [r]) (hst : r.stopped = false) (hoff : r.off = 0)
    (hl : r.d.srcLocal = false) (hpos : 0 < r.d.len) (hhalf : r.d.len ≤ half) (hpiece : pieceLen r.d (r.d.srcAt 0) 0 r.d.len = r.d.len)
    (hm : d.mayStart node = true) (hs : r.segs = []) (href : d.dmaRefused node chan r.d = false) (hfree : d.freeHalf node chan = some (at_, half))
    (ht : d.dmaTag node chan = some tag) :
    doDmaSegment d node chan =
      (d.setDmaCh node chan ((d.dmaCh node chan).setRun (r.begin_ at_ half))).dmaReadOut node chan tag (r.begin_ at_ half) := by
  have hlim : (r.begin_ at_ half).lim = r.d.len := by rw [DmaRun.lim_begin, hoff]; omega
  have hall : r.readAll = false := by simp [DmaRun.readAll, hst, hoff]; omega
  have hown : ¬ r.off < r.lim := by simp [DmaRun.lim, hs]
  have hgo : (!d.mayStart node || (r.d.order && !(d.dmaCh node chan).earlierDone r.id)) = false := by simp [hm, DmaCh.earlierDone_single h]
  rw [doDmaSegment, dmaPushAll_idle h hs, Dev.dmaAdvance]
  simp only [h, List.find?_cons, hall, Bool.not_false, hgo, href, hfree]
  rw [if_neg hown, if_neg (by decide), if_neg (by simp), hlim, hoff]
  have hruns : ((d.setDmaCh node chan ((d.dmaCh node chan).setRun (r.begin_ at_ half))).dmaCh node chan).runs = [r.begin_ at_ half] := by
    rw [Dev.dmaCh_setDmaCh_same]; exact DmaCh.setRun_single h rfl
  have hboff : (r.begin_ at_ half).off = 0 := hoff
  refine dmaFill_once hruns hst hl (by rw [hlim, hboff]; exact hpos) ?_ (by rw [Dev.dmaTag_setDmaCh]; exact ht) (by omega)
  rw [hlim, hboff]
  exact hpiece

end

/-! ## Completion (R163, R166) -/

@[simp] theorem Dev.setCvu_dmaCh (d : Dev) (u : Nat) (x : CvUnit) (node c : Nat) : (d.setCvu u x).dmaCh node c = d.dmaCh node c := rfl

@[simp] theorem Dev.cvDrop_dmaCh (d : Dev) (o : CvOwner) (node c : Nat) : (d.cvDrop o).dmaCh node c = d.dmaCh node c := by
  unfold Dev.cvDrop
  exact foldl_field (fun d => d.dmaCh node c) (fun _ _ => by rfl) _ _

@[simp] theorem Dev.cvDrop_curd (d : Dev) (o : CvOwner) (j : Nat) : (d.cvDrop o).curd j = d.curd j := by
  unfold Dev.cvDrop
  exact foldl_field (fun d => d.curd j) (fun _ _ => by rfl) _ _

@[simp] theorem Dev.cvDrop_tearing (d : Dev) (o : CvOwner) (node : Nat) : (d.cvDrop o).tearing node = d.tearing node := by
  unfold Dev.cvDrop
  exact foldl_field (fun d => d.tearing node) (fun _ _ => by rfl) _ _

@[simp] theorem Dev.setDmaCh_tearing (d : Dev) (node c : Nat) (x : DmaCh) (n : Nat) : (d.setDmaCh node c x).tearing n = d.tearing n := by
  rw [Dev.tearing, Dev.setDmaCh_eq, Dev.ctxOf_withDma]; rfl

@[simp] theorem Dev.checkDoneAt_dmaCh (d : Dev) (n node c : Nat) : (d.checkDoneAt n).dmaCh node c = d.dmaCh node c := by
  rw [Dev.dmaCh, Dev.checkDoneAt_vat]; rfl

/-- The module once a run that writes no check value has left its channel and its issuer's counter has counted it. -/
def Dev.dmaEnded (d : Dev) (node chan code : Nat) (r : DmaRun) : Dev :=
  ((d.setDmaCh node chan { d.dmaCh node chan with
    runs := (d.dmaCh node chan).runs.filter (fun x => x.id != r.id),
    lastCode := if code = 0 then (d.dmaCh node chan).lastCode else code }).cvDrop (.dma node chan r.id)).completeOp node r.d.slot r.d.k code

section
variable {d : Dev} {node chan code : Nat} {r : DmaRun}

theorem Dev.dmaEnded_dmaCh : (d.dmaEnded node chan code r).dmaCh node chan = { d.dmaCh node chan with
    runs := (d.dmaCh node chan).runs.filter (fun x => x.id != r.id), lastCode := if code = 0 then (d.dmaCh node chan).lastCode else code } := by
  have hc (e : Dev) : (e.completeOp node r.d.slot r.d.k code).dmaCh node chan = e.dmaCh node chan := by
    unfold Dev.completeOp; split <;> rfl
  rw [Dev.dmaEnded, hc, Dev.cvDrop_dmaCh, Dev.dmaCh_setDmaCh_same]

theorem Dev.dmaEnded_curd (h : d.tearing node = false) : (d.dmaEnded node chan code r).curd (curdKey node r.d.slot) =
    (d.curd (curdKey node r.d.slot)).complete r.d.k code := by
  rw [Dev.dmaEnded, Dev.completeOp_counts _ _ _ _ _ (by simpa using h), Dev.curd_setCurd_same, Dev.cvDrop_curd, Dev.setDmaCh_curd]

/-- A drained run with nothing more to write or signal ends; a logged address changes no channel and no curd. -/
theorem doDmaComplete_ends (h : (d.dmaCh node chan).runs = [r]) (hdr : r.drained = true) (hroom : r.d.poly = 0 ∨ d.sideRoom node r.d.slot r.d.cvOut 8 = true)
    (hquiet : r.code ≠ 0 ∨ (r.d.poly = 0 ∧ r.d.done = 0)) :
    ∃ e, (e = d.dmaEnded node chan r.code r ∨ e = (d.dmaEnded node chan r.code r).logAccess node (unitDma chan) r.d.src) ∧
      doDmaComplete d node chan r.id = e.checkDoneAt node := by
  have hgo : (!r.drained || (r.d.order && !(d.dmaCh node chan).earlierDone r.id) || (r.code == 0 && r.d.done != 0 && (d.dmaTag node chan).isNone) ||
      (r.d.poly != 0 && !d.sideRoom node r.d.slot r.d.cvOut 8)) = false := by
    rcases hroom with h0 | h0 <;> rcases hquiet with h1 | ⟨h1, h2⟩ <;> simp [*, DmaCh.earlierDone_single h]
  have hw : ¬ (r.code = 0 ∧ r.d.poly ≠ 0) := fun ⟨h0, h1⟩ => hquiet.elim (· h0) (fun h2 => h1 h2.1)
  have hs : ¬ (r.code = 0 ∧ r.d.done ≠ 0) := fun ⟨h0, h1⟩ => hquiet.elim (· h0) (fun h2 => h1 h2.2)
  have hcode : (if r.code ≠ 0 then r.code else if true = true then 0 else 0x09) = r.code := by
    by_cases h0 : r.code = 0 <;> simp [h0]
  let e := d.dmaEnded node chan r.code r
  refine ⟨if r.code = 0x03 ∧ r.off = 0 then e.logAccess node (unitDma chan) r.d.src else e, ?_, ?_⟩
  · split
    · exact .inr rfl
    · exact .inl rfl
  · rw [doDmaComplete]
    simp only [DmaCh.runOf_single h, hgo]
    rw [if_neg (by decide), if_neg hw, hcode]
    cases ht : d.dmaTag node chan
    · rfl
    · simp only [if_neg hs]; rfl

theorem doDmaComplete_single (h : (d.dmaCh node chan).runs = [r]) (hdr : r.drained = true) (hroom : r.d.poly = 0 ∨ d.sideRoom node r.d.slot r.d.cvOut 8 = true)
    (hquiet : r.code ≠ 0 ∨ (r.d.poly = 0 ∧ r.d.done = 0)) (htear : d.tearing node = false) :
    ((doDmaComplete d node chan r.id).dmaCh node chan).runs = [] ∧
      ((doDmaComplete d node chan r.id).dmaCh node chan).lastCode = (if r.code = 0 then (d.dmaCh node chan).lastCode else r.code) ∧
      (doDmaComplete d node chan r.id).curd (curdKey node r.d.slot) = (d.curd (curdKey node r.d.slot)).complete r.d.k r.code := by
  obtain ⟨e, he, hdo⟩ := doDmaComplete_ends h hdr hroom hquiet
  have hch : e.dmaCh node chan = (d.dmaEnded node chan r.code r).dmaCh node chan := by rcases he with rfl | rfl <;> rfl
  have hcurd : e.curd (curdKey node r.d.slot) = (d.dmaEnded node chan r.code r).curd (curdKey node r.d.slot) := by rcases he with rfl | rfl <;> rfl
  rw [hdo, Dev.checkDoneAt_dmaCh, Dev.checkDoneAt_curd, hch, hcurd, Dev.dmaEnded_dmaCh, Dev.dmaEnded_curd htear]
  exact ⟨by simp [h], rfl, rfl⟩

end

/-! ## Check-value units (15_faults_cave.md R459, R461, R462) -/

/-- A unit with no stream accepts the block of a channel's only run. -/
theorem doCvBlock_single {d : Dev} {u node chan : Nat} {b : CvBlock} {rest : List CvBlock} {r : DmaRun} (hq : (d.cvu u).inq = b :: rest)
    (hf : (d.cvu u).fenced = false) (hs : (d.cvu u).streams = []) (ho : b.owner = .dma node chan r.id) (hr : (d.dmaCh node chan).runs = [r])
    (hc : r.d.cvOnly = false) :
    doCvBlock d u = (d.setCvu u { d.cvu u with inq := rest, streams := [{ owner := b.owner, data := memWrite [] b.off b.data }] }).setDmaCh node chan
      ((d.dmaCh node chan).setRun (r.onSeg b.off (fun x => { x with toTake := x.toTake - b.data.length })).release) := by
  simp [doCvBlock, hq, hf, hs, ho, cvMerge, Dev.cvAccepted, DmaCh.runOf_single hr, hc, DmaRun.onSeg]

/-- What a check-value unit's owner loses, no other unit does. -/
theorem Dev.cvOwnerFails_cvu (d : Dev) (o : CvOwner) (u : Nat) : (d.cvOwnerFails o).cvu u = d.cvu u := by
  have hend (n : Nat) : (d.cultEnd n 9).cvu u = d.cvu u := by
    unfold Dev.cultEnd Dev.completeOp
    dsimp only
    split
    · rfl
    · rw [if_neg (by decide)]; split <;> rfl
  unfold Dev.cvOwnerFails
  split
  · dsimp only; split <;> rfl
  · split
    · rfl
    · split
      · exact hend _
      · rfl

/-- A unit of a quadrant that is fenced: it holds nothing, and a partner that serves takes its quadrant over. -/
theorem Dev.cvFence_cvu {d : Dev} {u : Nat} (hu : u < 4) (hf : (d.cvu u).fenced = false) :
    let e := d.cvFence u
    (e.cvu u).fenced = true ∧ (e.cvu u).inq = [] ∧ (e.cvu u).streams = [] ∧
      ((d.cvu (u ^^^ 1)).fenced = false → d.quadOn (u ^^^ 1) = true → (e.cvu (u ^^^ 1)).borrowed = true ∧ (e.cvu (u ^^^ 1)).fenced = false) := by
  have hne : u ^^^ 1 ≠ u := by
    intro h
    have := congrArg (u ^^^ ·) h
    simp at this
  have hfold (l : List CvOwner) (e : Dev) (j : Nat) : (l.foldl (fun d o => d.cvOwnerFails o) e).cvu j = e.cvu j :=
    foldl_field (fun d => d.cvu j) (fun d o => d.cvOwnerFails_cvu o j) l e
  have hquad (l : List CvOwner) (e : Dev) (j : Nat) : (l.foldl (fun d o => d.cvOwnerFails o) e).quadOn j = e.quadOn j := by
    rw [Dev.quadOn, fold_fuses _ _ (fun d o => d.cvOwnerFails_fuses o)]; rfl
  unfold Dev.cvFence
  simp only [hf, Bool.false_eq_true, if_false, if_neg (show u ≠ 4 by omega), hfold, hquad, Dev.cvu_setCvu_other _ _ _ _ hne]
  split
  next hoff =>
    refine ⟨?_, ?_, ?_, fun h0 h1 => ?_⟩
    · rw [hfold, Dev.cvu_setCvu_same]
    · rw [hfold, Dev.cvu_setCvu_same]
    · rw [hfold, Dev.cvu_setCvu_same]
    · rw [h0, show (d.setCvu u _).quadOn (u ^^^ 1) = true from h1] at hoff
      exact absurd hoff (by decide)
  next hon =>
    refine ⟨?_, ?_, ?_, fun h0 h1 => ?_⟩
    · rw [Dev.cvu_setCvu_other _ _ _ _ hne.symm, hfold, Dev.cvu_setCvu_same]
    · rw [Dev.cvu_setCvu_other _ _ _ _ hne.symm, hfold, Dev.cvu_setCvu_same]
    · rw [Dev.cvu_setCvu_other _ _ _ _ hne.symm, hfold, Dev.cvu_setCvu_same]
    · rw [Dev.cvu_setCvu_same]; exact ⟨rfl, h0⟩

/-- Settles O17. -/
theorem dmaAndCheckValueRows : Obligations.DmaAndCheckValueRows := by
  unfold Obligations.DmaAndCheckValueRows
  intro s node chan d ch
  refine ⟨fun x rest hq hm hr => ?_, fun r tag at_ half h hst hoff hl hpos hhalf hpiece hm hs href hfree ht => ?_, fun r h hdr hcode hpoly hdone htear => ?_,
    fun r h hdr hcode hroom htear => ?_, fun u b rest r hq hf hs ho hr hc => ?_, fun u hu hq => ?_, fun u hu hq hf => ?_⟩
  · refine ⟨_, congrArg s.next (doDmaDescriptorStart_of hq hm hr), rfl, rfl, ?_⟩
    obtain ⟨hd, hoff, hland⟩ := Dev.startedRun_d (d := d) (node := node) (id := ch.nextId) (x := x)
    simp only [Dev.dmaCh_setDmaCh_same]
    exact ⟨trivial, _, rfl, hd, hoff, hland, Dev.startedRun_ok, Dev.startedRun_unchecked, Dev.startedRun_bad⟩
  · refine ⟨_, congrArg s.next (doDmaSegment_single h hst hoff hl hpos hhalf hpiece hm hs href hfree ht), rfl, ?_⟩
    have hruns : ((d.setDmaCh node chan (ch.setRun (r.begin_ at_ half))).dmaCh node chan).runs = [r.begin_ at_ half] := by
      rw [Dev.dmaCh_setDmaCh_same]; exact DmaCh.setRun_single h rfl
    have hlim : (r.begin_ at_ half).lim = r.d.len := by rw [DmaRun.lim_begin, hoff]; omega
    have hboff : (r.begin_ at_ half).off = 0 := hoff
    refine ⟨⟨_, Dev.dmaReadOut_tagRec, ?_, ?_, ?_, rfl⟩, ?_, rfl⟩
    · simp only [Dev.tagOf, hlim, hboff]; rfl
    · simp only [Dev.tagOf, hlim, hboff]; rfl
    · simp only [Dev.tagOf, hboff]; rfl
    · rw [Dev.dmaReadOut_runs hruns, DmaRun.readOut, hlim, hboff, Nat.sub_zero, Nat.zero_add]; rfl
  · obtain ⟨hruns, hlast, hcurd⟩ := doDmaComplete_single h hdr (.inl hpoly) (.inr ⟨hpoly, hdone⟩) htear
    exact ⟨_, rfl, rfl, hruns, by rw [hlast, if_pos hcode], by rw [hcurd, hcode]⟩
  · obtain ⟨hruns, hlast, hcurd⟩ := doDmaComplete_single h hdr hroom (.inl hcode) htear
    exact ⟨_, rfl, rfl, hruns, by rw [hlast, if_neg hcode], hcurd⟩
  · refine ⟨_, congrArg s.next (doCvBlock_single hq hf hs ho hr hc), rfl, ?_, ?_, ?_, rfl, rfl⟩
    · simp [Dev.setDmaCh]
    · simp [Dev.setDmaCh]
    · rw [Dev.dmaCh_setDmaCh_same]; exact DmaCh.setRun_single hr rfl
  · have hne : (u != 4) = true := by simp; omega
    change s.next (doCvFailed d u) = _
    rw [doCvFailed, hq, hne, if_pos (by simp)]; rfl
  · have hdo : doCvFailed d u = (d.raise (plainMsg (cvSrc u) 0xB0 0)).cvFence u := if_neg (by simp [hf, hq])
    refine ⟨_, congrArg s.next hdo, rfl, ?_⟩
    exact Dev.cvFence_cvu (d := d.raise _) hu hf

end Sys2Proof.Machine
end

section
/-! PROOFS. The fault collector and the cave (15_faults_cave.md R444, R446-R448, R451, R454, R455, 01_architecture.md R24): a new
entry, the count of what a stop lost, a lost stop, the quiet period, and the records that reach the store. -/

namespace Sys2Proof.Machine

/-! ## Bytes of a number -/

theorem leNat_leBytes (n x : Nat) : leNat (leBytes n x) = x % 256 ^ n := by
  induction n generalizing x with
  | zero => simp [leBytes, leNat, Nat.mod_one]
  | succ n ih =>
    rw [leBytes, leNat, ih, Nat.pow_succ, Nat.mul_comm (256 ^ n) 256, Nat.mod_mul]
    simp

/-- The number that a byte string begins with. -/
theorem leAt_leBytes_append (n x : Nat) (bs : List Byte) : leAt (leBytes n x ++ bs) 0 n = x % 256 ^ n := by
  have htake : ((leBytes n x ++ bs).drop 0).take n = leBytes n x := by
    rw [List.drop_zero, List.take_append_of_le_length (leBytes_length n x).ge, List.take_of_length_le (leBytes_length n x).le]
  rw [leAt, htake, leNat_leBytes]

/-! ## The list and the cave -/

/-- A new message of severity 0 or 1 joins the list as a cleared and acknowledged entry. -/
def newEntry (m : FltMsg) (sev now made : Nat) : FltEntry :=
  { m := m, firstSeen := now, repeats := 0, sev := sev, ack := true, cleared := true, actionDone := true, made := made }

theorem Flt.enter_new {x : Flt} {m : FltMsg} {sev : Nat} (hs : sev ≤ 1) (hl : x.list.length < 1024)
    (hn : ∀ e ∈ x.list, e.cleared = true ∨ e.m.word ≠ m.word) (now : Nat) :
    x.enter m sev now = ({ x with list := x.list ++ [newEntry m sev now x.made], made := x.made + 1 }, some x.list.length) := by
  have hfind : x.list.findIdx? (fun e => !e.cleared && e.sev == sev && e.m.word == m.word) = none := by
    rw [List.findIdx?_eq_none_iff]
    intro e he
    rcases hn e he with h | h <;> simp [h]
  simp [Flt.enter, hfind, hl, hs, newEntry]

/-- The record of a message that the last one does not absorb. -/
def Dev.faultRec (d : Dev) (m : FltMsg) (hidden : Bool) (sev : Nat) (esc : Bool) (entry : Option Nat) : CaveRec :=
  { seq := d.cave.next, opSec := d.opSec, cycles := d.cave.cycles, typ := 0, repeats := 0, sev := sev,
    flags := boolNat esc + 2 * boolNat hidden + (if d.cave.store = 2 then 4 else 0),
    body := faultBody m hidden d.timer.toNat entry 7 0 }

theorem Dev.caveFault_new {d : Dev} {m : FltMsg} {sev : Nat} (hidden esc : Bool) (entry : Option Nat) (hs : sev ≤ 1)
    (hc : d.cave.buf.length < 4096) (ha : ∀ r, d.cave.buf.getLast? = some r → absorbs r m sev = false) :
    ∃ c, d.caveFault m hidden sev esc entry = { d with cave := c } ∧ c.buf = d.cave.buf ++ [d.faultRec m hidden sev esc entry] := by
  refine ⟨{ d.cave.push (d.faultRec m hidden sev esc entry) with
    due := (d.cave.push (d.faultRec m hidden sev esc entry)).due || decide (1024 ≤ (d.cave.push (d.faultRec m hidden sev esc entry)).buf.length) }, ?_, ?_⟩
  · unfold Dev.caveFault
    dsimp only
    rw [if_neg (by omega)]
    split
    next r hr => rw [if_neg (by simp [ha r hr])]; rfl
    next => rfl
  · simp [Cave.push, hc]

/-- What collecting a minor message does: one new entry and one new record, and nothing else. -/
theorem Dev.collect_minor {d : Dev} {m : FltMsg} (hr : d.inRind m = false) (h1 : m.kind ≠ 0x21) (h2 : m.kind ≠ 0x22) (hs : d.flt.applied m ≤ 1)
    (hl : d.flt.list.length < 1024) (hn : ∀ e ∈ d.flt.list, e.cleared = true ∨ e.m.word ≠ m.word) (hc : d.cave.buf.length < 4096)
    (ha : ∀ r, d.cave.buf.getLast? = some r → absorbs r m (d.flt.applied m) = false) :
    ∃ c esc entry, d.collect m = { d with
        flt := { d.flt with list := d.flt.list ++ [newEntry m (d.flt.applied m) d.opSec d.flt.made], made := d.flt.made + 1 }
        cave := c } ∧ c.buf = d.cave.buf ++ [d.faultRec m false (d.flt.applied m) esc entry] := by
  have henter := Flt.enter_new (m := m) hs hl hn d.opSec
  let esc := decide (progSev (smGet 0 d.flt.sev m.src) m.kind < d.flt.applied m)
  obtain ⟨c, hcave, hbuf⟩ := Dev.caveFault_new
    (d := { d with flt := { d.flt with list := d.flt.list ++ [newEntry m (d.flt.applied m) d.opSec d.flt.made], made := d.flt.made + 1 } })
    (m := m) false esc (some d.flt.list.length) hs hc ha
  refine ⟨c, esc, some d.flt.list.length, ?_, hbuf⟩
  simp only [Dev.collect, hr, Bool.false_eq_true, if_false, henter]
  rw [if_pos hs, if_neg (fun h => h1 h.1), if_neg (fun h => h2 h.1)]
  exact hcave

/-! ## Lost stops -/

theorem edgeQuadrant_host {src : Nat} (h : 0x150 ≤ src) (h' : src < 0x153) : edgeQuadrant src = 0 := by
  rw [edgeQuadrant, if_neg (by omega), if_neg (by omega), if_pos (by omega)]

theorem fenceStop_host {d : Dev} {src : Nat} (h : 0x150 ≤ src) (h' : src < 0x153) (cause : Nat) :
    d.fenceStop src cause = if d.mesh.edgeOff.contains src then d else { d with mesh := { d.mesh with edgeOff := d.mesh.edgeOff ++ [src] } } := by
  rw [Dev.fenceStop, if_neg (by omega), Dev.fenceEdge, if_neg (by omega), if_neg (by omega), if_neg (by omega)]
  cases d.mesh.edgeOff.contains src <;> simp [h']

/-- Settles O18. -/
theorem collectorRowsKeepTheFaultList : Obligations.CollectorRowsKeepTheFaultList := by
  unfold Obligations.CollectorRowsKeepTheFaultList
  intro s src d st
  refine ⟨fun m rest sev hq hup hlost hrind h1 h2 hsev hs hl hc hn ha => ?_, fun hlost hroom => ?_, fun hlo hhi hon hlost => ?_, fun hquiet => ?_⟩
  · subst hsev
    let d0 : Dev := { d with flt := { d.flt with stops := smSet Stop.init d.flt.stops src { st with queue := rest } } }
    obtain ⟨c, esc, entry, hcollect, hbuf⟩ := Dev.collect_minor (d := d0) (m := m) hrind h1 h2 hs hl hn hc ha
    have hdo : doFaultMessage d src = d0.collect m := by
      rw [doFaultMessage]
      simp only [show (smGet Stop.init d.flt.stops src).queue = m :: rest from hq, hup, hlost]
      rfl
    refine ⟨_, congrArg s.next (hdo.trans hcollect), rfl, ?_, ⟨_, rfl, rfl, rfl, rfl, rfl, rfl, rfl⟩, ⟨_, hbuf, rfl, rfl, rfl, rfl, ?_⟩, rfl⟩
    · exact congrArg Stop.queue (smGet_set_same ..)
    · rw [Dev.faultRec, faultBody]
      simp only [List.append_assoc]
      exact leAt_leBytes_append ..
  · let m : FltMsg := { plainMsg src 0x92 st.lost with unit := if src < 0x120 then unitControl else 0 }
    let after : Stop := { queue := st.queue ++ [m], lost := 0 }
    have hdo : doStopOverrun d src = { d with flt := { d.flt with stops := smSet Stop.init d.flt.stops src after } } :=
      if_neg fun h => h.elim hlost hroom.not_ge
    refine ⟨_, congrArg s.next hdo, rfl, ?_, ⟨m, ?_, rfl, rfl, rfl⟩, rfl⟩
    · exact congrArg Stop.lost (smGet_set_same ..)
    · exact congrArg Stop.queue (smGet_set_same ..)
  · have hserved : d.stopServed src = true := by
      rw [Dev.stopServed, edgeQuadrant_host hlo hhi, hon]; simp [hhi]
    have hloop : loopOf src = 0 := by rw [loopOf, if_neg (by omega), edgeQuadrant_host hlo hhi]
    have hdo : doRingStopLost d src =
        (({ d with flt := { d.flt with lostStops := d.flt.lostStops ++ [src] } } : Dev).raise (plainMsg 0x808 0x90 src)).fenceStop src 0x90 := by
      rw [doRingStopLost, if_neg (by rw [hserved, hlost]; decide), hloop]
    rw [fenceStop_host hlo hhi] at hdo
    refine ⟨_, congrArg s.next hdo, rfl, ?_⟩
    dsimp only
    split
    next hoff => exact ⟨rfl, hoff, smGet_set_same ..⟩
    next => exact ⟨rfl, by simp, smGet_set_same ..⟩
  · obtain ⟨x, hx, hclear⟩ := hquiet
    have hn : (d.flt.list.filter quietClears).length ≠ 0 := by
      rw [Ne, List.length_eq_zero_iff]
      exact List.ne_nil_of_mem (List.mem_filter.2 ⟨hx, hclear⟩)
    exact ⟨_, congrArg s.next (if_neg hn), rfl, rfl, rfl⟩

/-! ## The store (R454, R455) -/

/-- A flush without failures writes every record of the buffer, in order. -/
theorem Dev.flushGo_all {d : Dev} (hs : d.cave.store ≠ 2) {fuel : Nat} (hf : d.cave.buf.length ≤ fuel) :
    ∃ c, d.flushGo fuel [] = { d with cave := c } ∧ c.buf = [] ∧ c.due = d.cave.due ∧
      c.kept = d.cave.kept ++ d.cave.buf.filter (fun r => r.seq < 4096) ∧ c.next = d.cave.next := by
  induction fuel generalizing d with
  | zero =>
    have hb : d.cave.buf = [] := List.eq_nil_of_length_eq_zero (by omega)
    exact ⟨d.cave, rfl, hb, rfl, by simp [hb], rfl⟩
  | succ fuel ih =>
    cases hb : d.cave.buf with
    | nil => exact ⟨d.cave, by simp [Dev.flushGo, hb], hb, rfl, by simp, rfl⟩
    | cons r rest =>
      obtain ⟨c, hgo, hbuf, hdue, hkept, hnext⟩ := ih (d := { d with cave := d.cave.stored r rest }) hs
        (by change rest.length ≤ fuel; rw [hb] at hf; simpa using hf)
      refine ⟨c, ?_, hbuf, hdue, ?_, hnext⟩
      · rw [Dev.flushGo]
        simp only [hb, if_neg hs]
        exact hgo
      · rw [hkept]
        by_cases hseq : r.seq < 4096 <;> simp [Cave.stored, hseq]

/-- Settles O19. -/
theorem caveRowsReachTheStore : Obligations.CaveRowsReachTheStore := by
  unfold Obligations.CaveRowsReachTheStore
  intro s d
  refine ⟨fun hdue hstore hup hfail hcyc => ?_, fun hb hs => ?_, fun hup => ?_⟩
  · let d0 : Dev := { d with cave := { d.cave with due := false } }
    obtain ⟨c, hgo, hbuf, hd, hkept, hnext⟩ := Dev.flushGo_all (d := d0) hstore (fuel := d.cave.buf.length + 0 + 4) (by change d.cave.buf.length ≤ _; omega)
    have hdo : doCaveFlush d [] = { d with cave := c } := by
      rw [doCaveFlush, if_neg (by simp [hdue, hstore, hup])]
      change (d0.flushGo (d.cave.buf.length + 0 + 4) []).afterFlush = _
      rw [hgo, Dev.afterFlush, if_neg (by simpa [d0] using hfail), if_neg (by simpa [d0] using hcyc)]
    exact ⟨_, congrArg s.next hdo, rfl, hbuf, hd, hkept, hnext, rfl⟩
  · exact ⟨_, congrArg s.next (if_neg fun h => h.elim hb hs), rfl, rfl⟩
  · exact ⟨_, congrArg s.next (if_pos hup), rfl, rfl⟩

end Sys2Proof.Machine
end

section
/-! PROOFS. Time-sharing (02_programming_model.md R64, R65): what the beginning of a switch does to the curds, what saving and
restoring leave alone, and the report of a switch that does not drain. -/

namespace Sys2Proof.Machine

/-! ## The curds of a partition stop -/

/-- A curd told to stop twice is told once. -/
theorem Curd.stopNow_stopNow (c : Curd) : c.stopNow.stopNow = c.stopNow := by
  unfold Curd.stopNow
  cases hq : c.quiet <;> cases hs : c.st <;> simp [hs, Curd.quiet] <;> simp_all [Curd.quiet]

theorem Curd.stopNow_r (c : Curd) : c.stopNow.r = c.r ∧ c.stopNow.ldm = c.ldm := by
  unfold Curd.stopNow
  split
  · split <;> exact ⟨rfl, rfl⟩
  · split <;> exact ⟨rfl, rfl⟩
  · exact ⟨rfl, rfl⟩

/-- The same change made at a list of curds, once or more at each. -/
theorem foldl_setCurd_curd {g : Curd → Curd} (hg : ∀ c, g (g c) = g c) (l : List (Nat × Nat)) (d : Dev) (j : Nat) :
    (l.foldl (fun d e => d.setCurd (curdKey e.1 e.2) (g (d.curd (curdKey e.1 e.2)))) d).curd j =
      if j ∈ l.map (fun e => curdKey e.1 e.2) then g (d.curd j) else d.curd j := by
  induction l generalizing d with
  | nil => simp
  | cons a l ih =>
    rw [List.foldl_cons, ih]
    by_cases h : j = curdKey a.1 a.2
    · subst h; simp [hg]
    · rw [Dev.curd_setCurd_other _ _ _ _ h]
      simp only [List.map_cons, List.mem_cons, h, false_or]

theorem foldl_setCurd_frame {g : Dev → Nat × Nat → Curd} (l : List (Nat × Nat)) (d : Dev) :
    l.foldl (fun d e => d.setCurd (curdKey e.1 e.2) (g d e)) d =
      { d with curds := (l.foldl (fun d e => d.setCurd (curdKey e.1 e.2) (g d e)) d).curds } :=
  foldl_keeps (fun e : Dev => e = { d with curds := e.curds }) l (fun e he a _ => by rw [he]; rfl) rfl

theorem Dev.beginSwitch_frame (d : Dev) (p t : Nat) :
    d.beginSwitch p t = { d with parts := (d.setPart p { d.part p with switchTo := some t }).parts, curds := (d.beginSwitch p t).curds } := by
  conv_lhs => rw [Dev.beginSwitch, foldl_setCurd_frame]
  rfl

theorem Dev.beginSwitch_curd {d : Dev} {p t : Nat} {x : Nat × Nat} (hx : x ∈ d.partCurds p) :
    (d.beginSwitch p t).curd (curdKey x.1 x.2) = (d.curd (curdKey x.1 x.2)).stopNow := by
  rw [Dev.beginSwitch, foldl_setCurd_curd Curd.stopNow_stopNow, if_pos (List.mem_map_of_mem hx)]
  rfl

/-- The end of a slice begins the switch to the next slot. -/
theorem doTimeSliceEnd_switches {d : Dev} {p slot t : Nat} (hres : (d.part p).resident = some slot) (h0 : (d.part p).st ≠ 0) (h3 : (d.part p).st ≠ 3)
    (hsw : (d.part p).switchTo = none) (hm : d.multiRank (16 * p + slot) = false) (ht : (d.ctx (16 * p + slot)).tear = none)
    (hn : d.nextSlot p slot = some t) (ht16 : t < 16) : doTimeSliceEnd d p = d.beginSwitch p t := by
  have hdiv : (16 * p + t) / 16 = p := by omega
  have hmod : (16 * p + t) % 16 = t := by omega
  rw [doTimeSliceEnd]
  simp only [hres, hm, ht, hn]
  rw [if_neg (by simp [h0, h3, hsw]), if_neg (by decide), Dev.giveTo]
  simp only [hdiv, hmod, hsw, hres]
  rfl

/-! ## Saving and restoring leave the partitions and the other contexts alone -/

/-- Neither partitions nor contexts differ. -/
def Dev.sameSlots (d e : Dev) : Prop := e.parts = d.parts ∧ e.ctxs = d.ctxs

theorem Dev.sameSlots.trans {a b c : Dev} (h : a.sameSlots b) (k : b.sameSlots c) : a.sameSlots c := ⟨k.1.trans h.1, k.2.trans h.2⟩

theorem Dev.sameSlots_fold {α : Type} {f : Dev → α → Dev} (h : ∀ d a, Dev.sameSlots d (f d a)) (l : List α) (d : Dev) :
    d.sameSlots (l.foldl f d) :=
  ⟨foldl_field Dev.parts (fun d a => (h d a).1) l d, foldl_field Dev.ctxs (fun d a => (h d a).2) l d⟩

theorem Dev.saveReads_slots (d : Dev) (p : Nat) : d.sameSlots (d.saveReads p) := by
  unfold Dev.saveReads
  refine (Dev.sameSlots_fold (fun d e => ?_) _ d).trans (Dev.sameSlots_fold (fun d n => ?_) _ _)
  · simp [Dev.sameSlots]
  · simp [Dev.sameSlots]

theorem Dev.issueQueued_slots (d : Dev) (node : Nat) (x : DmaCh) : d.sameSlots (d.issueQueued node x) := by
  unfold Dev.issueQueued
  refine Dev.sameSlots_fold (fun _ _ => ?_) _ d
  exact ⟨rfl, rfl⟩

theorem Dev.restoreColls_slots (d : Dev) (ctx : Nat) (ops : List CollOp) : d.sameSlots (d.restoreColls ctx ops) := by
  unfold Dev.restoreColls
  extract_lets ns u h own num seq low x d1 d2
  have h1 : d.sameSlots d1 := ⟨rfl, rfl⟩
  have h2 : d1.sameSlots d2 := Dev.sameSlots_fold (fun _ _ => by exact ⟨rfl, rfl⟩) _ d1
  exact (h1.trans h2).trans (Dev.sameSlots_fold (fun _ _ => by exact ⟨rfl, rfl⟩) _ d2)

/-- A restored context's save area is used up; the other contexts and the partitions stay. -/
theorem Dev.restoreCtx_slots (d : Dev) (ctx : Nat) : (d.setCtx ctx { d.ctx ctx with saved := none }).sameSlots (d.restoreCtx ctx) := by
  unfold Dev.restoreCtx
  extract_lets c p h s d1 d4 d5 own
  have h1 : d.sameSlots d1 := by
    refine Dev.sameSlots_fold (fun d e => ?_) _ d
    constructor <;> simp only [Dev.setUnit_parts, Dev.setNi_parts, Dev.setVat_parts, Dev.setUnit_ctxs, Dev.setNi_ctxs, Dev.setVat_ctxs]
  have h4 : d1.sameSlots d4 := Dev.sameSlots_fold (fun _ _ => by exact ⟨rfl, rfl⟩) _ d1
  have h5 : d4.sameSlots d5 := Dev.sameSlots_fold (fun _ _ => Dev.sameSlots_fold (fun _ _ => Dev.issueQueued_slots ..) _ _) _ d4
  have h6 := (h1.trans h4).trans h5
  clear_value d5
  have hctx : d5.ctx ctx = d.ctx ctx := congrArg (smGet Ctx.init · ctx) h6.2
  have h7 := h6.trans (Dev.restoreColls_slots d5 ctx s.colls)
  have hown : own = c := hctx
  refine ⟨h7.1, ?_⟩
  rw [hown]
  exact congrArg (smSet Ctx.init · ctx _) h7.2

section
variable (d : Dev) (ctx j : Nat)

theorem Dev.makeResident_part : (d.makeResident ctx).part j =
    if j = ctx / 16 then { d.part (ctx / 16) with resident := some (ctx % 16), switchTo := none } else d.part j := by
  unfold Dev.makeResident
  extract_lets p q d1 h d2 d3
  have h3 : d3.parts = d1.parts := (d2.restoreCtx_slots ctx).1
  rw [Dev.setCtx_part, Dev.part, h3]
  exact smGet_set ..

/-- Residence changes the context that becomes resident, and no other. -/
theorem Dev.makeResident_ctx : (d.makeResident ctx).ctx j = if j = ctx then { d.ctx ctx with saved := none, lastProg := 0 } else d.ctx j := by
  unfold Dev.makeResident
  extract_lets p q d1 h d2 d3 own
  have h3 (i : Nat) : d3.ctx i = (d2.setCtx ctx { d2.ctx ctx with saved := none }).ctx i := congrArg (smGet Ctx.init · i) (d2.restoreCtx_slots ctx).2
  have hsame : d3.ctx ctx = { d.ctx ctx with saved := none } := by rw [h3, Dev.ctx_setCtx_same]; rfl
  have hown : own = { d.ctx ctx with saved := none } := hsame
  by_cases hj : j = ctx
  · subst hj; rw [Dev.ctx_setCtx_same, hown, if_pos rfl]
  · rw [Dev.ctx_setCtx_other _ _ _ _ hj, h3, Dev.ctx_setCtx_other _ _ _ _ hj, if_neg hj]; rfl

/-- A save reads the partition's words and writes the save area. -/
theorem Dev.saveCtx_eq : ∃ x, d.saveCtx ctx =
    (d.saveReads (ctx / 16)).setCtx ctx { (d.saveReads (ctx / 16)).ctx ctx with saved := some x } := ⟨_, rfl⟩

theorem Dev.saveCtx_part : (d.saveCtx ctx).part j = d.part j := by
  obtain ⟨x, hx⟩ := d.saveCtx_eq ctx
  rw [hx, Dev.setCtx_part, Dev.part, (d.saveReads_slots (ctx / 16)).1]
  rfl

/-- A save changes the save area of its context, and no other context. -/
theorem Dev.saveCtx_ctx : ∃ x, ∀ j, (d.saveCtx ctx).ctx j = if j = ctx then { d.ctx ctx with saved := some x } else d.ctx j := by
  obtain ⟨x, hx⟩ := d.saveCtx_eq ctx
  have hread (i : Nat) : (d.saveReads (ctx / 16)).ctx i = d.ctx i := congrArg (smGet Ctx.init · i) (d.saveReads_slots (ctx / 16)).2
  refine ⟨x, fun j => ?_⟩
  rw [hx]
  by_cases hj : j = ctx
  · subst hj; rw [Dev.ctx_setCtx_same, if_pos rfl, hread]
  · rw [Dev.ctx_setCtx_other _ _ _ _ hj, if_neg hj, hread]

/-- Where no signal waited for the switch, nothing is applied. -/
theorem Dev.applyWaiting_none (h : (d.ctx ctx).waitSig = []) : (d.applyWaiting ctx).ctx j = d.ctx j ∧ (d.applyWaiting ctx).part j = d.part j := by
  have hdo : d.applyWaiting ctx = d.setCtx ctx { d.ctx ctx with waitSig := [] } := by rw [Dev.applyWaiting]; simp only [h]; rfl
  rw [hdo]
  refine ⟨?_, rfl⟩
  by_cases hj : j = ctx
  · subst hj; rw [Dev.ctx_setCtx_same, ← h]
  · rw [Dev.ctx_setCtx_other _ _ _ _ hj]

end

/-- Settles O20. -/
theorem timeSharingRows : Obligations.TimeSharingRows := by
  unfold Obligations.TimeSharingRows
  intro s p slot t d hres
  refine ⟨fun h0 h3 hsw hm ht hn ht16 => ?_, fun hsw ht16 hs16 hne hin hsave hwo hwi => ?_, fun hsw hin => ?_⟩
  · refine ⟨_, congrArg s.next (doTimeSliceEnd_switches hres h0 h3 hsw hm ht hn ht16), rfl, ?_, ?_, fun x hx => ?_⟩
    · conv_lhs => rw [Dev.beginSwitch_frame]
      conv_rhs => rw [Dev.beginSwitch_frame]
    · rw [Dev.beginSwitch_frame]; exact Dev.part_setPart_same ..
    · have hcurd := Dev.beginSwitch_curd (t := t) hx
      refine ⟨hcurd, ?_, ?_⟩
      · exact (congrArg Curd.r hcurd).trans (Curd.stopNow_r _).1
      · exact (congrArg Curd.ldm hcurd).trans (Curd.stopNow_r _).2
  · let out := 16 * p + slot
    let inn := 16 * p + t
    let d1 := d.saveCtx out
    let d2 := d1.makeResident inn
    have hdo : doSwitchDrained d p = (d2.applyWaiting out).applyWaiting inn := by
      rw [doSwitchDrained]
      simp only [hres, hsw]
      rw [if_neg (by simp only [hin]; decide), hsave]
      rfl
    have hio : inn ≠ out := by omega
    obtain ⟨x, hsaved⟩ := d.saveCtx_ctx out
    have hout := hsaved out
    have hinn := hsaved inn
    rw [if_pos rfl] at hout
    rw [if_neg hio] at hinn
    have hout2 : d2.ctx out = d1.ctx out := by rw [Dev.makeResident_ctx, if_neg hio.symm]
    have hinn2 : d2.ctx inn = { d1.ctx inn with saved := none, lastProg := 0 } := by rw [Dev.makeResident_ctx, if_pos rfl]
    have happly (j : Nat) := d2.applyWaiting_none out j (by rw [hout2, hout]; exact hwo)
    have happly' (j : Nat) := (d2.applyWaiting out).applyWaiting_none inn j (by rw [(happly inn).1, hinn2, hinn]; exact hwi)
    have hpart : d2.part p = { d.part p with resident := some t, switchTo := none } := by
      rw [Dev.makeResident_part, if_pos (by omega), Dev.saveCtx_part, show inn / 16 = p by omega, show inn % 16 = t by omega]
    refine ⟨_, congrArg s.next hdo, rfl, ?_⟩
    dsimp only
    rw [(happly' p).2, (happly p).2, hpart, (happly' out).1, (happly out).1, hout2, hout, (happly' inn).1, (happly inn).1, hinn2]
    exact ⟨rfl, rfl, rfl, rfl, rfl⟩
  · have hdo : doSwitchTimeout d p = ({ d with rrc := { d.rrc with hang := 16 * p + slot + (d.ctx (16 * p + slot)).gen * 2 ^ 10 + bits d.timer.toNat 39 0 * 2 ^ 24 } } : Dev).raise
        (d.ctxMsg (0x400 + (16 * p + slot)) 0x60 0 0 (some (16 * p + slot))) := by
      rw [doSwitchTimeout]
      simp only [hres, hsw]
      exact if_neg hin
    exact ⟨_, congrArg s.next hdo, rfl, rfl, rfl, rfl⟩

end Sys2Proof.Machine
end

section
/-! PROOFS. The mesh (06_mesh.md R177-R186, R198, R199, 01_architecture.md R15, R16): one flit that arrives or is injected at a router,
the quiesce, a failed router, the returns of the edge nodes. -/

namespace Sys2Proof.Machine

/-! ## What arrives (R177, R181) -/

section
variable {d : Dev} {p : Plane} {node : Nat}

theorem Dev.arrive_link {port : Nat} {f : Flit} {q : List Flit} (h : smGet [] d.mesh.inq (inqKey p node port) = f :: q) :
    d.arrive p node port = ({ d with mesh := { d.mesh with inq := smSet [] d.mesh.inq (inqKey p node port) q } }, some f) := by
  simp only [Dev.arrive, h]

/-- On a port with an empty link and no edge node beside it nothing arrives. -/
theorem Dev.arrive_idle {port : Nat} (h : smGet [] d.mesh.inq (inqKey p node port) = []) (he : edgeAt node port = none) :
    d.arrive p node port = (d, none) := by
  simp only [Dev.arrive, h, he]

/-- The arrival of one port joins those before it. -/
def arriveStep (p : Plane) (node outputs : Nat) (acc : Dev × List Flit) (port : Nat) : Dev × List Flit :=
  if outputs ≤ acc.2.length then acc
  else
    let x := acc.1.arrive p node port
    (x.1, match x.2 with | some f => acc.2 ++ [f] | none => acc.2)

theorem Dev.arrivals_eq (d : Dev) (p : Plane) (node outputs : Nat) :
    d.arrivals p node outputs = [0, 1, 2, 3].foldl (arriveStep p node outputs) (d, []) := rfl

theorem foldl_arriveStep_idle {outputs : Nat} {l : List Nat} {acc : List Flit} (h : ∀ x ∈ l, d.arrive p node x = (d, none)) :
    l.foldl (arriveStep p node outputs) (d, acc) = (d, acc) := by
  induction l with
  | nil => rfl
  | cons x l ih =>
    have hx : arriveStep p node outputs (d, acc) x = (d, acc) := by
      simp [arriveStep, h x List.mem_cons_self]
    rw [List.foldl_cons, hx, ih fun y hy => h y (List.mem_cons_of_mem _ hy)]

theorem mem_ports {x : Nat} : x ∈ [0, 1, 2, 3] ↔ x < 4 := by simp; omega

theorem Dev.arrivals_none (outputs : Nat) (h : ∀ x < 4, d.arrive p node x = (d, none)) : d.arrivals p node outputs = (d, []) :=
  foldl_arriveStep_idle fun x hx => h x (mem_ports.1 hx)

theorem inqKey_inj {i j : Nat} (h : inqKey p node i = inqKey p node j) : i = j := Nat.add_left_cancel h

/-- Where one link alone holds flits, its oldest is what arrives. -/
theorem Dev.arrivals_one {outputs j : Nat} {f : Flit} {q : List Flit} (ho : 0 < outputs) (hj : j < 4) (hl : smGet [] d.mesh.inq (inqKey p node j) = f :: q)
    (h : ∀ x < 4, x ≠ j → smGet [] d.mesh.inq (inqKey p node x) = [] ∧ edgeAt node x = none) :
    d.arrivals p node outputs = ({ d with mesh := { d.mesh with inq := smSet [] d.mesh.inq (inqKey p node j) q } }, [f]) := by
  obtain ⟨l₁, l₂, hsplit⟩ := List.append_of_mem (mem_ports.2 hj)
  have hnodup : (l₁ ++ j :: l₂).Nodup := hsplit ▸ (by decide : [0, 1, 2, 3].Nodup)
  have hmem (x : Nat) (hx : x ∈ l₁ ∨ x ∈ l₂) : x < 4 ∧ x ≠ j := by
    refine ⟨mem_ports.1 (hsplit ▸ ?_), fun hxj => ?_⟩
    · rcases hx with hx | hx <;> simp [hx]
    · subst hxj; simp [List.nodup_append, List.nodup_cons] at hnodup; grind
  have hbefore (x : Nat) (hx : x ∈ l₁) : d.arrive p node x = (d, none) := by
    obtain ⟨h4, hne⟩ := hmem x (.inl hx)
    exact Dev.arrive_idle (h x h4 hne).1 (h x h4 hne).2
  have hafter (x : Nat) (hx : x ∈ l₂) :
      Dev.arrive { d with mesh := { d.mesh with inq := smSet [] d.mesh.inq (inqKey p node j) q } } p node x =
        ({ d with mesh := { d.mesh with inq := smSet [] d.mesh.inq (inqKey p node j) q } }, none) := by
    obtain ⟨h4, hne⟩ := hmem x (.inr hx)
    refine Dev.arrive_idle ?_ (h x h4 hne).2
    exact (smGet_set_other _ _ _ _ _ fun hk => hne (inqKey_inj hk)).trans (h x h4 hne).1
  have hj' : arriveStep p node outputs (d, []) j = ({ d with mesh := { d.mesh with inq := smSet [] d.mesh.inq (inqKey p node j) q } }, [f]) := by
    simp [arriveStep, Dev.arrive_link hl, ho.ne']
  rw [Dev.arrivals_eq, hsplit, List.foldl_append, foldl_arriveStep_idle hbefore, List.foldl_cons, hj', foldl_arriveStep_idle hafter]

end

/-! ## Placing and injecting one flit (R179-R186) -/

/-- A flit sent on to the next router. -/
def Dev.passOn (d : Dev) (p : Plane) (node port n : Nat) (f : Flit) : Dev := (d.countDefl p node 0 0).pushIn p n ((port + 2) % 4) f

section
variable {r : RStep} {p : Plane} {node i n : Nat} {f : Flit} {more : List Nat}

/-- What leaves a router that is not starving is unmarked. -/
theorem RStep.out_d (hm : r.mark = false) (hn : routerAt node i = some n) : (r.out p node i f).d = r.d.passOn p node i n f := by
  simp [RStep.out, hm, Dev.sendOut, hn, Dev.passOn]

theorem RStep.place_pass_d (hm : f.mcast = false) (hd : f.dst.toNat ≠ node) (hp : r.d.productive p node f.dst.toNat r.free = i :: more)
    (hmark : r.mark = false) (hn : routerAt node i = some n) : (r.place p node f).d = r.d.passOn p node i n f := by
  simp only [RStep.place, hm, hp]
  rw [if_neg (by simp), if_neg (by simp [hd])]
  exact RStep.out_d hmark hn

theorem RStep.place_eject_d (hm : f.mcast = false) (hd : f.dst.toNat = node) (he : 0 < r.eject) (ha : r.d.niAccepts p node = true) :
    (r.place p node f).d = r.d.ejectTo p node f := by
  simp only [RStep.place, hm]
  rw [if_neg (by simp), if_pos (by simp [hd]), if_pos (by simp [he, ha])]

/-- An interface once its oldest waiting flit has been injected. -/
def NI.injected (n : NI) (p : Plane) (rest : List Flit) : NI :=
  match p with
  | .a => { n with outA := rest, hist := n.hist ||| 1, starveA := false, progress := n.progress + 1 }
  | .b => { n with outB := rest, starveB := false, progress := n.progress + 1 }

/-- The flits an interface offers to a plane. -/
def NI.waitingOn (n : NI) (p : Plane) : List Flit := match p with | .a => n.outA | .b => n.outB

theorem RStep.inject_none (h : (r.d.ni node).waitingOn p = []) : r.inject p node = r := by
  cases p <;> simp only [NI.waitingOn] at h <;> simp only [RStep.inject, h]

theorem RStep.inject_d {rest : List Flit} (hw : (r.d.ni node).waitingOn p = f :: rest) (hm : f.mcast = false) (he : r.d.mayEnter p node node f = true)
    (hp : r.d.productive p node f.dst.toNat r.free = i :: more) (hn : routerAt node i = some n) (hinj : p = .a → (r.d.ni node).mayInject = true)
    (hmark : r.mark = false) :
    (r.inject p node).d = (r.d.setNi node ((r.d.ni node).injected p rest)).passOn p node i n f := by
  cases p
  all_goals
    simp only [NI.waitingOn] at hw
    simp only [RStep.inject, hw, he, hp, hm]
    rw [if_neg (by decide), if_neg (by simp [hinj]), if_neg (by decide)]
    exact RStep.out_d (r := { r with d := _ }) hmark hn

end

/-! ## One router step -/

/-- The module at the start of a step: on plane A a window of the limiter has passed and the interface has offered. -/
def Dev.stepStart (d : Dev) (p : Plane) (node : Nat) : Dev :=
  match p with
  | .a => (d.setNi node { d.ni node with hist := (d.ni node).hist <<< 1 }).niPump node
  | .b => d

def Dev.livePorts (d : Dev) (p : Plane) (node : Nat) : List Nat := [0, 1, 2, 3].filter (fun i => d.portLive p node i)

def NI.starvedOn (n : NI) (p : Plane) : Bool := match p with | .a => n.starveA | .b => n.starveB

/-- Where a step stands before any flit is placed. -/
def Dev.firstStep (d a : Dev) (p : Plane) (node : Nat) : RStep := RStep.mk' a (d.livePorts p node) ((d.ni node).starvedOn p)

/-- A step places what arrives and then injects, unless the plane is stopped; no operation is refused where none ends. -/
theorem exec_routerStep {s : State} {p : Plane} {node : Nat} {a e : Dev} {fs : List Flit} (hn : node < 288)
    (hf : smGet false s.dev.mesh.failed (meshKey p node) = false)
    (ha : (s.dev.stepStart p node).arrivals p node (s.dev.livePorts p node).length = (a, fs))
    (he : (if s.dev.stopped p then RStep.placeAll p node (s.dev.firstStep a p node) (byPriority fs)
      else (RStep.placeAll p node (s.dev.firstStep a p node) (byPriority fs)).inject p node).d = e)
    (hl : (s.dev.ni node).live.length ≤ (e.ni node).live.length) : exec (.routerStep p node) s = s.next e := by
  have hgo : ¬ (288 ≤ node ∨ smGet false s.dev.mesh.failed (meshKey p node) = true) := by simp [hf]; omega
  have hdo : doRouterStep s.dev p node = e := by
    unfold doRouterStep
    rw [if_neg hgo, ← he]
    cases p <;> simp only [Dev.stepStart, Dev.livePorts] at ha <;> simp only [ha] <;> rfl
  change execRouterStep p node s = _
  rw [execRouterStep]
  simp only [hdo]
  rw [if_neg (by omega)]

/-- The interface of a vat takes a flit addressed to it. -/
def NI.ejected (n : NI) (p : Plane) (f : Flit) : NI :=
  match p with
  | .a => { n with progress := n.progress + 1, reqBuf := n.reqBuf ++ [f] }
  | .b => { n with progress := n.progress + 1, repBuf := n.repBuf ++ [f] }

theorem Dev.ejectTo_own {d : Dev} {p : Plane} {node : Nat} {f : Flit} (hm : f.mcast = false) (hg : f.mgmt = false) (hr : reservedTyp f.typ.toNat = false) :
    d.ejectTo p node f = d.setNi node ((d.ni node).ejected p f) := by
  cases p <;> simp [Dev.ejectTo, hm, hg, hr, NI.ejected]

theorem NI.ejected_live (n : NI) (p : Plane) (f : Flit) : (n.ejected p f).live = n.live ∧ (n.ejected p f).waitingOn p = n.waitingOn p := by
  cases p <;> exact ⟨rfl, rfl⟩

theorem NI.injected_live (n : NI) (p : Plane) (rest : List Flit) : (n.injected p rest).live = n.live ∧ (n.injected p rest).waitingOn p = rest := by
  cases p <;> exact ⟨rfl, rfl⟩

section
variable {s : State} {p : Plane} {node : Nat} {a : Dev} {f : Flit} {i n : Nat} {more rest : List Nat}

theorem RStep.placeAll_single (r : RStep) : RStep.placeAll p node r (byPriority [f]) = { r with later := 0 }.place p node f := rfl

theorem routerStep_ejects (hn : node < 288) (hf : smGet false s.dev.mesh.failed (meshKey p node) = false)
    (ha : (s.dev.stepStart p node).arrivals p node (s.dev.livePorts p node).length = (a, [f])) (hl : (s.dev.ni node).live.length ≤ (a.ni node).live.length)
    (hm : f.mcast = false) (hg : f.mgmt = false) (hr : reservedTyp f.typ.toNat = false) (hd : f.dst.toNat = node) (hacc : a.niAccepts p node = true)
    (hw : (a.ni node).waitingOn p = []) : exec (.routerStep p node) s = s.next (a.setNi node ((a.ni node).ejected p f)) := by
  have hplace : (RStep.placeAll p node (s.dev.firstStep a p node) (byPriority [f])).d = a.setNi node ((a.ni node).ejected p f) := by
    rw [RStep.placeAll_single, RStep.place_eject_d hm hd (Nat.zero_lt_two) hacc]
    exact Dev.ejectTo_own hm hg hr
  refine exec_routerStep hn hf ha ?_ ?_
  · split
    · exact hplace
    · rw [RStep.inject_none, hplace]
      rw [hplace, Dev.ni_setNi_same, (NI.ejected_live ..).2, hw]
  · rw [Dev.ni_setNi_same, (NI.ejected_live ..).1]; exact hl

theorem routerStep_passes (hn : node < 288) (hf : smGet false s.dev.mesh.failed (meshKey p node) = false)
    (ha : (s.dev.stepStart p node).arrivals p node (s.dev.livePorts p node).length = (a, [f])) (hl : (s.dev.ni node).live.length ≤ (a.ni node).live.length)
    (hm : f.mcast = false) (hd : f.dst.toNat ≠ node) (hp : a.productive p node f.dst.toNat (s.dev.livePorts p node) = i :: more)
    (hr : routerAt node i = some n) (hs : (s.dev.ni node).starvedOn p = false) (hw : s.dev.stopped p = true ∨ (a.ni node).waitingOn p = []) :
    exec (.routerStep p node) s = s.next (a.passOn p node i n f) := by
  have hplace : (RStep.placeAll p node (s.dev.firstStep a p node) (byPriority [f])).d = a.passOn p node i n f := by
    rw [RStep.placeAll_single]
    exact RStep.place_pass_d hm hd hp hs hr
  refine exec_routerStep hn hf ha ?_ hl
  split
  · exact hplace
  next hstop =>
    rw [RStep.inject_none, hplace]
    rw [hplace]
    exact hw.resolve_left hstop

theorem routerStep_injects {rest : List Flit} (hn : node < 288) (hf : smGet false s.dev.mesh.failed (meshKey p node) = false)
    (ha : (s.dev.stepStart p node).arrivals p node (s.dev.livePorts p node).length = (a, [])) (hl : (s.dev.ni node).live.length ≤ (a.ni node).live.length)
    (hstop : s.dev.stopped p = false) (hw : (a.ni node).waitingOn p = f :: rest) (hm : f.mcast = false) (he : a.mayEnter p node node f = true)
    (hp : a.productive p node f.dst.toNat (s.dev.livePorts p node) = i :: more) (hr : routerAt node i = some n)
    (hinj : p = .a → (a.ni node).mayInject = true) (hs : (s.dev.ni node).starvedOn p = false) :
    exec (.routerStep p node) s = s.next ((a.setNi node ((a.ni node).injected p rest)).passOn p node i n f) := by
  refine exec_routerStep hn hf ha ?_ ?_
  · rw [hstop, if_neg (by decide)]
    exact RStep.inject_d hw hm he hp hr hinj hs
  · change _ ≤ ((a.setNi node ((a.ni node).injected p rest)).ni node).live.length
    rw [Dev.ni_setNi_same, (NI.injected_live ..).1]; exact hl

theorem routerStep_idle (hn : node < 288) (hf : smGet false s.dev.mesh.failed (meshKey .b node) = false)
    (ha : ∀ x < 4, s.dev.arrive .b node x = (s.dev, none)) (hw : (s.dev.ni node).outB = []) : exec (.routerStep .b node) s = .next s := by
  refine exec_routerStep hn hf (Dev.arrivals_none (d := s.dev) _ ha) ?_ le_rfl
  split
  · rfl
  · rw [RStep.inject_none]
    · rfl
    · exact hw

end

/-- Settles O21. -/
theorem meshRouterRows : Obligations.MeshRouterRows := by
  unfold Obligations.MeshRouterRows
  intro s p node d d0 waiting starved ports link live hn hf
  have hd0 : d0 = d.stepStart p node := by cases p <;> rfl
  have hwait (m : NI) : waiting m = m.waitingOn p := by cases p <;> rfl
  have hstarve : starved = (d.ni node).starvedOn p := by cases p <;> rfl
  simp only [hwait, hstarve, hd0]
  refine ⟨fun a f ha hl hm hg hr hd hacc hw => ?_, fun a f i more n ha hl hm hd hp hr hs hstop => ?_,
    fun a f rest i more n ha hl hstop hw hm he hp hr hinj hs => ?_, fun hb hlinks hedges hw => ?_,
    fun f q j i more n hb hj hlink hothers hm hd hp hr hs hw => ?_, fun f rest i more n hb hothers hstop hw hm he hp hr hs => ?_⟩
  · refine ⟨_, routerStep_ejects hn hf ha hl hm hg hr hd hacc hw, rfl, rfl, ?_⟩
    cases p <;> exact Dev.ni_setNi_same ..
  · exact ⟨_, routerStep_passes hn hf ha hl hm hd hp hr hs (.inl hstop), rfl, rfl, rfl⟩
  · refine ⟨_, routerStep_injects hn hf ha hl hstop hw hm he hp hr hinj hs, rfl, ?_, ?_, rfl, rfl⟩
    · change ((a.setNi node ((a.ni node).injected p rest)).ni node).waitingOn p = rest
      rw [Dev.ni_setNi_same, (NI.injected_live ..).2]
    · change ((a.setNi node ((a.ni node).injected p rest)).ni node).hist = _
      rw [Dev.ni_setNi_same]
      cases p <;> rfl
  · subst hb
    exact routerStep_idle hn hf (fun x hx => Dev.arrive_idle (hlinks x hx) (hedges x hx)) hw
  · subst hb
    have hports : 0 < (d.livePorts .b node).length := by
      have hi : i ∈ d.productive .b node f.dst.toNat ports := by rw [hp]; exact List.mem_cons_self
      simp only [Dev.productive, List.mem_filter, Bool.and_eq_true, List.contains_iff_mem] at hi
      exact List.length_pos_of_mem hi.2.1
    have ha := Dev.arrivals_one (d := d) hports hj hlink hothers
    exact ⟨_, routerStep_passes hn hf ha le_rfl hm hd hp hr hs (.inr hw), rfl, rfl, _, rfl, rfl⟩
  · subst hb
    have ha := Dev.arrivals_none (d := d) (p := .b) (node := node) (d.livePorts .b node).length
      fun x hx => Dev.arrive_idle (hothers x hx).1 (hothers x hx).2
    refine ⟨_, routerStep_injects hn hf ha le_rfl hstop hw hm he hp hr (fun h => nomatch h) hs, rfl, rfl, ?_, rfl⟩
    exact Dev.ni_setNi_same ..

/-! ## The quiesce (R198, R199) -/

theorem smGet_foldl_set_true (l : List Nat) (t : SMap Bool) (k : Nat) :
    smGet false (l.foldl (fun t k => smSet false t k true) t) k = (smGet false t k || l.contains k) := by
  induction l generalizing t with
  | nil => simp
  | cons x l ih =>
    rw [List.foldl_cons, ih, smGet_set]
    by_cases h : k = x <;> simp [h]

theorem Mesh.applyFences_eq (m : Mesh) : (m.applyFences).toFence = [] ∧ (m.applyFences).toGroups = m.toGroups ∧ (m.applyFences).inq = m.inq ∧
    ∀ k, smGet false (m.applyFences).fenced k = (smGet false m.fenced k || m.toFence.contains k) := by
  unfold Mesh.applyFences
  dsimp only
  split
  next h => exact ⟨h, rfl, rfl, fun k => by simp [h]⟩
  next => exact ⟨rfl, rfl, rfl, fun k => smGet_foldl_set_true ..⟩

/-- Nothing but the mesh changes where no install waits for the quiet mesh. -/
theorem doMeshResume_quiet {d : Dev} (hq : d.meshQuiet = true) (hi : d.fm.installWait = []) :
    doMeshResume d = { d with mesh := { (d.mesh.putGroups d.mesh.toGroups).applyFences with stopA := false, stopB := false } } := by
  have hfm : ({ d.fm with installWait := [] } : FM) = d.fm := by rw [← hi]
  simp only [doMeshResume, hq, hi, hfm]
  rfl

/-- Where no port holds more than one flit, a failed router sends nothing back. -/
theorem doRouterFailed_single {d : Dev} {p : Plane} {node : Nat} (hn : node < 288) (hf : smGet false d.mesh.failed (meshKey p node) = false)
    (hone : ∀ i < 4, (smGet [] d.mesh.inq (inqKey p node i)).length ≤ 1) :
    doRouterFailed d p node = ({ d with mesh := { d.mesh with
      failed := smSet false d.mesh.failed (meshKey p node) true
      inq := d.mesh.inq.filter (fun e => !([0, 1, 2, 3].map (inqKey p node)).contains e.1) } } : Dev).raiseVat node 0x14 (unitRouter p) 0 := by
  have hgo : ¬ (288 ≤ node ∨ smGet false d.mesh.failed (meshKey p node) = true) := by simp [hf]; omega
  have hdrop (i : Nat) (hi : i < 4) : (smGet [] d.mesh.inq (inqKey p node i)).drop 1 = [] := List.drop_eq_nil_of_le (hone i hi)
  rw [doRouterFailed, if_neg hgo]
  simp only [List.foldl_cons, List.foldl_nil, hdrop 0 (by decide), hdrop 1 (by decide), hdrop 2 (by decide), hdrop 3 (by decide)]

/-- A link of a router, among its four. -/
theorem contains_inqKeys {p : Plane} {node k : Nat} :
    ([0, 1, 2, 3].map (inqKey p node)).contains k = false ↔ ∀ i < 4, k ≠ inqKey p node i := by
  rw [← Bool.not_eq_true, List.contains_iff_mem, List.mem_map]
  constructor
  · intro h i hi hk
    exact h ⟨i, mem_ports.2 hi, hk.symm⟩
  · rintro h ⟨i, hi, hk⟩
    exact h i (mem_ports.1 hi) hk.symm

/-- Settles O22. -/
theorem meshQuiesceRows : Obligations.MeshQuiesceRows := by
  unfold Obligations.MeshQuiesceRows
  intro s d
  refine ⟨rfl, fun ha he => congrArg s.next (if_pos ⟨ha, he⟩), fun hq hi => ?_, fun hq => ?_, fun p node hn hf hone => ?_,
    fun p enode r port f rest hat hret => ⟨fun hf => ?_, fun hf => ?_⟩, fun node => rfl, fun node h => ?_, fun node h => ?_, fun node => ⟨fun h => ?_, fun h => ?_⟩⟩
  · obtain ⟨hfence, hgroups, hinq, hfenced⟩ := (d.mesh.putGroups d.mesh.toGroups).applyFences_eq
    exact ⟨_, congrArg s.next (doMeshResume_quiet hq hi), rfl, rfl, rfl, rfl, hfence, hgroups, hfenced, hinq⟩
  · change s.next (doMeshResume d) = _
    simp only [doMeshResume, hq]; rfl
  · refine ⟨_, congrArg s.next (doRouterFailed_single hn hf hone), rfl, rfl, smGet_set_same false d.mesh.failed _ true, fun k hk => smGet_set_other false d.mesh.failed _ k true hk, fun x hx => ?_, fun x hx hk => ?_, rfl⟩
    · have := (List.mem_filter.1 hx).2
      exact contains_inqKeys.1 (by simpa using this)
    · refine List.mem_filter.2 ⟨hx, ?_⟩
      rw [contains_inqKeys.2 hk]; rfl
  · have hdo : doEdgeReturn d p enode = (d.setEdge (2 * enode + planeNat p) { d.edge (2 * enode + planeNat p) with ret := rest }).pushIn p r port
        { f with age := BitVec.ofNat 8 (min (f.age.toNat + 1) 255) } := by
      simp only [doEdgeReturn, hret, hat, hf]; rfl
    refine ⟨_, congrArg s.next hdo, rfl, ?_, rfl, rfl⟩
    exact congrArg Edge.ret (Dev.edge_setEdge_same ..)
  · change s.next (doEdgeReturn d p enode) = _
    simp only [doEdgeReturn, hret, hat, hf]; rfl
  · exact congrArg s.next (if_neg h)
  · exact congrArg s.next (if_neg h)
  · exact congrArg s.next (if_pos h)
  · exact congrArg s.next (if_pos h)

end Sys2Proof.Machine
end

section
/-! PROOFS. Requests, replies and timers at an interface (02_programming_model.md R46, R50, R55, R60, 06_mesh.md R183, R195, 07_links.md
R225, R228-R232): what a receiver performs and answers, what a reply or a timeout does to the tag and its issuer. -/

namespace Sys2Proof.Machine

/-! ## Performing a request (R46, R50, R55) -/

section
variable {d a b c : Dev} {node slot code : Nat} {q : Flit} {data bs old : List Byte} {x : Landing}

theorem Dev.performRd_ok (hb : q.bytes ≠ 0) (hl : d.landing node q false = x) (hx : ∀ c, x ≠ .err c)
    (hr : d.landRead node q.ctx.toNat x q.bytes.toNat = (b, some bs)) : d.performRd node q = b.reply node q tRdr 0 bs := by
  rw [Dev.performRd, if_neg hb, hl]
  cases x with
  | err c => exact absurd rfl (hx c)
  | core s p => simp only [hr]
  | ext p off => simp only [hr]

theorem Dev.performWr_ok (ht : q.typ.toNat = tWr) (hb : q.bytes ≠ 0) (hl : d.landing node q true = x) (hx : ∀ c, x ≠ .err c)
    (hw : d.landWrite node q.ctx.toNat x (data.take q.bytes.toNat) = (b, true)) :
    d.performWr node q data = (collNoted q x b).reply node q tAck 0 [] := by
  have hans (e : Dev) : e.answer node q 0 = e.reply node q tAck 0 [] := by rw [Dev.answer, replyTyp, ht]; rfl
  rw [Dev.performWr, if_neg hb, hl]
  cases x with
  | err c => exact absurd rfl (hx c)
  | core s p => simp only [hw]; exact hans _
  | ext p off => simp only [hw]; exact hans _

theorem Dev.performAmo_ok (hl : d.landing node q true = x) (hx : ∀ c, x ≠ .err c) (hr : d.landRead node q.ctx.toNat x q.bytes.toNat = (b, some old))
    (hw : b.landWrite node q.ctx.toNat x (leBytes q.bytes.toNat (farAmoFn q.status.toNat q.bytes.toNat (leNat old) (leAt data 0 8) (leAt data 8 8))) = (c, true)) :
    d.performAmo node q data = c.reply node q tAmor 0 (leBytes 8 (leNat old)) := by
  rw [Dev.performAmo, hl]
  cases x with
  | err c => exact absurd rfl (hx c)
  | core s p => simp only [hr, hw]
  | ext p off => simp only [hr, hw]

theorem Dev.performSig_ok (ht : q.typ.toNat = tSig) (hx : q.xchip = false) (hs : slot = (d.vat node).phys (bits q.addr.toNat 28 23))
    (hf : (d.curd (curdKey node slot)).fenced = false) :
    d.performSig node q = (d.signalAt node slot (bits q.addr.toNat 3 0)).reply node q tAck 0 [] := by
  subst hs
  rw [Dev.performSig]
  simp only [hx, hf, Bool.false_eq_true, false_and, if_false]
  rw [Dev.answer, replyTyp, ht]
  rfl

/-- A request that lands nowhere is answered with its error. -/
theorem Dev.perform_refused (ht : q.typ.toNat = tRd ∨ q.typ.toNat = tWr ∨ q.typ.toNat = tAmo) (hb : q.bytes ≠ 0)
    (hl : d.landing node q (q.typ.toNat != tRd) = .err code) : d.perform node q data = d.refuse node q code := by
  rcases ht with ht | ht | ht <;> rw [ht] at hl
  · rw [Dev.perform, ht]
    change d.performRd node q = _
    rw [Dev.performRd, if_neg hb, show d.landing node q false = _ from hl]
  · rw [Dev.perform, ht]
    change d.performWr node q data = _
    rw [Dev.performWr, if_neg hb, show d.landing node q true = _ from hl]
  · rw [Dev.perform, ht]
    change d.performAmo node q data = _
    rw [Dev.performAmo, show d.landing node q true = _ from hl]

theorem Dev.filtered_own (again : Bool) (hx : q.xchip = false) : d.filtered node q data again = d.perform node q data := if_pos (.inl hx)

/-- A request of a live context that is not sealed comes to the filter. -/
theorem Dev.receive_open {again : Bool} (hm : malformed node q = false) (hl : d.liveFor node q = true) (hx : (q.xchip && d.confCtx q.ctx.toNat) = false) :
    d.receive node q again = d.filtered node q q.payload again := by
  rw [Dev.receive, if_neg (by simp [hm]), if_neg (by simp [hl]), if_neg (by simp [hx])]

/-- The oldest request of a type is judged where its bytes may be accessed now. -/
theorem Dev.take_receives {rest : List Flit} (ht : takeTyp q.typ.toNat (decide (0x120 ≤ node)) [] (d.inbox node) = some (q, rest)) (hr : d.retrains node = false)
    (hl : d.landMay node q = true) : d.take node q.typ.toNat = (d.setInbox node rest).receive node q false := by
  rw [Dev.take, ht]
  simp only [hr, hl]
  rfl

end

theorem Dev.offer_eq (d : Dev) (node : Nat) (p : Plane) (f : Flit) : ∃ nis mesh, d.offer node p f = { d with nis := nis, mesh := mesh } :=
  ⟨_, _, d.offer_frame node p f⟩

/-- An answer changes interfaces and edge nodes alone. -/
theorem Dev.reply_eq (d : Dev) (node : Nat) (q : Flit) (typ status : Nat) (data : List Byte) :
    ∃ nis mesh, d.reply node q typ status data = { d with nis := nis, mesh := mesh } := by
  unfold Dev.reply
  extract_lets sctx base es f seq g n
  split
  · exact d.offer_eq node .b _
  · split
    · exact ⟨_, d.mesh, rfl⟩
    · split
      · exact d.offer_eq node .b _
      · exact ⟨d.nis, d.mesh, rfl⟩

theorem Dev.duplicateAnswer_eq (d : Dev) (node : Nat) (q : Flit) : ∃ nis mesh, d.duplicateAnswer node q = { d with nis := nis, mesh := mesh } := by
  unfold Dev.duplicateAnswer Dev.answer
  split
  · obtain ⟨nis, mesh, h⟩ := (d.setNi node { d.ni node with duplicates := hold16 ((d.ni node).duplicates + 1) }).reply_eq node q (replyTyp q)
      (if q.typ.toNat = tAmo then 0x09 else 0) []
    exact ⟨nis, mesh, h⟩
  · exact d.reply_eq ..

theorem Dev.setFlows_eq (d : Dev) (node : Nat) (l : List Flow) : ∃ nis ext, d.setFlows node l = { d with nis := nis, ext := ext } := by
  unfold Dev.setFlows
  split
  · exact ⟨_, d.ext, rfl⟩
  · exact ⟨d.nis, _, rfl⟩

theorem Dev.setInbox_curds (d : Dev) (node : Nat) (l : List Flit) : (d.setInbox node l).curds = d.curds := by
  unfold Dev.setInbox
  split <;> rfl

/-- The row that takes a request. -/
theorem exec_request {s : State} {node : Nat} {q : Flit} {row : Instr}
    (h : (row = .rd node ∧ q.typ.toNat = tRd) ∨ (row = .wr node ∧ q.typ.toNat = tWr) ∨ (row = .amoPacket node ∧ q.typ.toNat = tAmo) ∨
      (row = .sig node ∧ q.typ.toNat = tSig)) : exec row s = s.next (s.dev.take node q.typ.toNat) := by
  rcases h with ⟨rfl, h⟩ | ⟨rfl, h⟩ | ⟨rfl, h⟩ | ⟨rfl, h⟩ <;> rw [h] <;> rfl

theorem Dev.filtered_duplicate {d : Dev} {node : Nat} {q : Flit} {data : List Byte} {fl : List Flow} (again : Bool) (hx : q.xchip = true) (ht : 1 ≤ q.typ.toNat)
    (hf : filterFlow (d.flowsAt node) (d.flowKey node q) q.gen.toNat (bits q.link.toNat 13 0) d.timer.toNat d.hCounts = (.duplicate, fl)) :
    d.filtered node q data again = (d.setFlows node fl).duplicateAnswer node q := by
  have h0 : ¬ (q.xchip = false ∨ q.typ.toNat = tRd) := by simp [hx, tRd]; omega
  rw [Dev.filtered, if_neg h0]
  simp only [hf]

theorem Dev.filtered_performs {d : Dev} {node : Nat} {q : Flit} {data : List Byte} {fl : List Flow} (again : Bool) (hx : q.xchip = true) (ht : 1 ≤ q.typ.toNat)
    (hf : filterFlow (d.flowsAt node) (d.flowKey node q) q.gen.toNat (bits q.link.toNat 13 0) d.timer.toNat d.hCounts = (.perform, fl)) :
    d.filtered node q data again = (d.setFlows node fl).perform node q data := by
  have h0 : ¬ (q.xchip = false ∨ q.typ.toNat = tRd) := by simp [hx, tRd]; omega
  rw [Dev.filtered, if_neg h0]
  simp only [hf]

/-- Settles O23. -/
theorem requestRowsPerformAndAnswer : Obligations.RequestRowsPerformAndAnswer := by
  unfold Obligations.RequestRowsPerformAndAnswer
  intro s node q rest d a slot ht hr hm hbad hlive
  have htake := Dev.take_receives ht hr hm
  refine ⟨fun hx => ?_, fun hx hconf fl h1 h3 hf => ?_⟩
  · have hown : d.take node q.typ.toNat = a.perform node q q.payload := by
      rw [htake, Dev.receive_open hbad hlive (by simp [hx]), Dev.filtered_own false hx]
    have hrow (row : Instr) (h : _) : exec row s = s.next (a.perform node q q.payload) := (exec_request (row := row) h).trans (congrArg s.next hown)
    refine ⟨fun x b bs h hb hl hne hread => ?_, fun x b h hb hl hne hw => ?_, fun x b c old h hl hne hread hw => ?_, fun h hf => ?_, fun code h hb hl => ?_⟩
    · rw [hrow _ (.inl ⟨rfl, h⟩), Dev.perform, h]
      exact congrArg s.next (Dev.performRd_ok hb hl hne hread)
    · rw [hrow _ (.inr (.inl ⟨rfl, h⟩)), Dev.perform, h]
      exact congrArg s.next (Dev.performWr_ok h hb hl hne hw)
    · rw [hrow _ (.inr (.inr (.inl ⟨rfl, h⟩))), Dev.perform, h]
      exact congrArg s.next (Dev.performAmo_ok hl hne hread hw)
    · rw [hrow _ (.inr (.inr (.inr ⟨rfl, h⟩))), Dev.perform, h]
      exact congrArg s.next (Dev.performSig_ok h hx rfl hf)
    · rw [hrow, Dev.perform_refused h hb hl]
      · rfl
      · rcases h with h | h | h <;> simp [h, tRd, tWr, tAmo, tSig]
  · have hdup : d.take node q.typ.toNat = (a.setFlows node fl).duplicateAnswer node q := by
      rw [htake, Dev.receive_open hbad hlive (by simp [hconf]), Dev.filtered_duplicate false hx h1 hf]
    have hrow (row : Instr) (h : _) : exec row s = s.next ((a.setFlows node fl).duplicateAnswer node q) :=
      (exec_request (row := row) h).trans (congrArg s.next hdup)
    obtain ⟨nis, ext, hflows⟩ := a.setFlows_eq node fl
    obtain ⟨nis', mesh, hans⟩ := (a.setFlows node fl).duplicateAnswer_eq node q
    refine ⟨_, hrow _ ?_, rfl, ?_, rfl, ?_⟩
    · have h : q.typ.toNat = 1 ∨ q.typ.toNat = 2 ∨ q.typ.toNat = 3 := by omega
      rcases h with h | h | h <;> simp [h, tRd, tWr, tAmo, tSig]
    · change (a.setFlows node fl).duplicateAnswer node q = _
      rw [hans, hflows]
    · change ((a.setFlows node fl).duplicateAnswer node q).curds = _
      rw [hans, hflows]
      exact d.setInbox_curds node rest

/-- Settles O24. -/
theorem heldRequestsAreRetried : Obligations.HeldRequestsAreRetried := by
  unfold Obligations.HeldRequestsAreRetried
  intro s node q rest x b fl d a hq hr hm hbad hlive ht hb hx hconf hf hl hne hw
  have hdo : doHeldRequestRetry d node = a.receive node q true := by
    simp only [doHeldRequestRetry, hq, hr, hm]; rfl
  have hperf : (a.setFlows node fl).perform node q q.payload = (a.setFlows node fl).performWr node q q.payload := by rw [Dev.perform, ht]; rfl
  have hopen : (q.xchip && a.confCtx q.ctx.toNat) = false := by simp [hconf]
  change s.next (doHeldRequestRetry d node) = _
  rw [hdo, Dev.receive_open hbad hlive hopen, Dev.filtered_performs true hx (by rw [ht]; decide) hf, hperf, Dev.performWr_ok ht hb hl hne hw]
  rfl

/-! ## What an access of external memory leaves alone (10_memory.md R314-R327) -/

/-- Two states that differ in external memory and the fault collector alone. -/
def Dev.sameButExt (d e : Dev) : Prop := e = { d with ext := e.ext, flt := e.flt }

theorem Dev.sameButExt_refl (d : Dev) : d.sameButExt d := rfl

theorem Dev.sameButExt_trans {d e f : Dev} (h : d.sameButExt e) (h' : e.sameButExt f) : d.sameButExt f := by
  unfold Dev.sameButExt at h h' ⊢
  rw [h', h]

theorem Dev.sameButExt_host {d e : Dev} (h : d.sameButExt e) : e.host = d.host := by rw [h]

theorem Dev.sameButExt_ite {d e f : Dev} {p : Prop} [Decidable p] (h : d.sameButExt e) (h' : d.sameButExt f) : d.sameButExt (if p then e else f) := by
  split
  · exact h
  · exact h'

theorem Dev.sameButExt_foldl {α : Type} {f : Dev → α → Dev} (h : ∀ (d : Dev) a, d.sameButExt (f d a)) (l : List α) (d : Dev) : d.sameButExt (l.foldl f d) :=
  foldl_keeps d.sameButExt l (fun e he a _ => Dev.sameButExt_trans he (h e a)) d.sameButExt_refl

theorem Dev.retirePage_sameButExt (d : Dev) (la : Nat) (conf : Bool) : d.sameButExt (d.retirePage la conf) := by
  unfold Dev.retirePage
  extract_lets ch c pg base lines err
  split
  · rfl
  · split <;> rfl

theorem Dev.retireRank_sameButExt (d : Dev) (ch rank la : Nat) : d.sameButExt (d.retireRank ch rank la) := by
  unfold Dev.retireRank
  extract_lets c inRank total spares moves c1 d1
  exact Dev.sameButExt_ite rfl rfl

theorem Dev.failDevice_sameButExt (d : Dev) (ch dev la : Nat) : d.sameButExt (d.failDevice ch dev la) := by
  unfold Dev.failDevice
  extract_lets c d1 rank
  exact Dev.sameButExt_ite rfl (Dev.sameButExt_ite (Dev.sameButExt_trans (e := d1) rfl (d1.retireRank_sameButExt ch rank la)) rfl)

theorem Dev.noteCorrected_sameButExt (d : Dev) (la : Nat) (conf : Bool) (devs : List Nat) : d.sameButExt (d.noteCorrected la conf devs) := by
  unfold Dev.noteCorrected
  extract_lets ch c failed rank now live hits fresh pg cnt d1 d2
  have h1 : d.sameButExt d1 := rfl
  have h2 : d.sameButExt d2 := Dev.sameButExt_ite (Dev.sameButExt_trans h1 (d1.retirePage_sameButExt la conf)) h1
  exact Dev.sameButExt_trans h2 (Dev.sameButExt_foldl (fun e x => e.failDevice_sameButExt ..) _ d2)

theorem Dev.checkLine_sameButExt (d : Dev) (la : Nat) (conf mac : Bool) (ctx : Option Nat) : d.sameButExt (d.checkLine la conf mac ctx).1 := by
  unfold Dev.checkLine
  extract_lets ch c cfg d1
  cases d.lineState la conf mac with
  | good => rfl
  | corrected devs => exact Dev.sameButExt_trans (e := { d with ext := { d.ext with lineErr := smSet [] d.ext.lineErr la [] } }) rfl (Dev.noteCorrected_sameButExt ..)
  | uncorrectable => exact Dev.sameButExt_ite (Dev.sameButExt_trans (e := d1) rfl (d1.retirePage_sameButExt la conf)) rfl
  | fold => rfl
  | mac => rfl

theorem Dev.extLineWrite_sameButExt (d : Dev) (p off : Nat) (bs : List Byte) (ctx : Option Nat) : d.sameButExt (d.extLineWrite p off bs ctx).1 := by
  unfold Dev.extLineWrite
  cases (d.part p).lineAt off with
  | none => rfl
  | some gl =>
    obtain ⟨g, la⟩ := gl
    dsimp only
    have hck := d.checkLine_sameButExt la (d.part p).conf true ctx
    split
    · rfl
    · split
      · rfl
      · split
        · exact Dev.sameButExt_trans hck rfl
        · exact hck

theorem Dev.extWrite_sameButExt (d : Dev) (p off : Nat) (bs : List Byte) (ctx : Option Nat) : d.sameButExt (d.extWrite p off bs ctx).1 := by
  unfold Dev.extWrite
  refine foldl_keeps (fun acc : Dev × Bool => d.sameButExt acc.1) _ (fun acc h e _ => ?_) d.sameButExt_refl
  exact Dev.sameButExt_trans h (acc.1.extLineWrite_sameButExt ..)

theorem Dev.placeWrite_host (d : Dev) (node : Nat) (p : Place) (bs : List Byte) : (d.placeWrite node p bs).1.host = d.host := by
  cases p with
  | ldm nd sl off => simp [Dev.placeWrite, Dev.ldmWrite]
  | vs nd off => simp [Dev.placeWrite, Dev.vsWrite]
  | ext part off => exact Dev.sameButExt_host (d.extWrite_sameButExt part off bs (d.ctxOf node))
  | window w => rfl

theorem Dev.localWrite_host (d : Dev) (node slot a : Nat) (bs : List Byte) : (d.localWrite node slot a bs).1.host = d.host := by
  unfold Dev.localWrite
  refine foldl_keeps (fun acc : Dev × Bool => acc.1.host = d.host) _ (fun acc h e _ => ?_) rfl
  cases acc.1.pieceAt node slot e.1 e.2.2 with
  | none => exact h
  | some p =>
    have hp := (acc.1.placeWrite_host node p ((bs.drop e.2.1).take e.2.2)).trans h
    cases p with
    | ext part off =>
      dsimp only
      split
      · exact hp
      · exact hp
    | ldm nd sl off => exact hp
    | vs nd off => exact hp
    | window w => exact hp

/-! ## A tag's operation completes (03_curd_core.md R99-R105, 07_links.md R231) -/

/-- An interface once the operation `r` of its tag has ended with a code: the tag is free, or quarantined after several copies. -/
def NI.tagDone (n : NI) (tag : Nat) (r : TagRec) (code : Nat) : NI :=
  let n1 := n.setTag tag (if 1 < r.copies then some { r with st := .quarantine } else none)
  let n2 := match r.chip with
    | some c => { n1 with chips := smSet ChipRec.init n1.chips c { smGet ChipRec.init n1.chips c with outst := (smGet ChipRec.init n1.chips c).outst - 1 } }
    | none => n1
  let n3 := if code = 0 ∨ r.op.isOvf then n2 else n2.noteFail r
  if code = 0x08 then { n3 with timeouts := hold16 (n3.timeouts + 1) } else n3

section
variable {n : NI} {d : Dev} {node tag code kind slot dst len typ : Nat} {r : TagRec} {data : List Byte} {k : Nat} {f : Flit} {rest : List Flit}

@[simp] theorem NI.noteFail_tags : (n.noteFail r).tags = n.tags := by unfold NI.noteFail; split <;> rfl
@[simp] theorem NI.noteFail_timeouts : (n.noteFail r).timeouts = n.timeouts := by unfold NI.noteFail; split <;> rfl

theorem NI.noteFail_recorded : (n.noteFail r).failRec.contains (r.src, r.dest) = true ∨ r.flit.order = true := by
  unfold NI.noteFail
  by_cases ho : r.flit.order = true
  · exact .inr ho
  · by_cases hc : n.failRec.contains (r.src, r.dest) = true
    · rw [if_pos (by rw [hc, Bool.or_true])]
      exact .inl hc
    · rw [if_neg (by rw [Bool.or_eq_true]; exact fun h => h.elim ho hc)]
      exact .inl (by simp)

theorem NI.tagDone_tagRec : (n.tagDone tag r code).tagRec tag = if 1 < r.copies then some { r with st := .quarantine } else none := by
  have h (m : NI) (hm : m.tags = (n.setTag tag (if 1 < r.copies then some { r with st := .quarantine } else none)).tags) :
      m.tagRec tag = if 1 < r.copies then some { r with st := .quarantine } else none := by
    rw [NI.tagRec, hm]
    exact NI.tagRec_setTag_same ..
  apply h
  unfold NI.tagDone
  cases r.chip <;> dsimp only <;> split <;> split <;> simp

/-- A single copy on the chip that has succeeded leaves nothing behind. -/
theorem NI.tagDone_ok (hc : r.chip = none) (h1 : r.copies ≤ 1) : n.tagDone tag r 0 = n.setTag tag none := by
  simp [NI.tagDone, hc, Nat.not_lt.2 h1]

theorem NI.tagDone_failRec (h0 : code ≠ 0) (ho : r.op.isOvf = false) : (n.tagDone tag r code).failRec.contains (r.src, r.dest) = true ∨ r.flit.order = true := by
  unfold NI.tagDone
  extract_lets n1 n2 n3
  have h3 : n3 = n2.noteFail r := if_neg (by simp [h0, ho])
  have := NI.noteFail_recorded (n := n2) (r := r)
  rw [h3]
  split <;> exact this

theorem NI.tagDone_timeouts : (n.tagDone tag r 0x08).timeouts = hold16 (n.timeouts + 1) := by
  unfold NI.tagDone
  cases r.chip <;> dsimp only <;> rw [if_pos rfl] <;> split <;> simp [NI.setTag]

theorem Dev.finishTag_ok (h : (d.ni node).tagRec tag = some r) :
    d.finishTag node tag 0 kind data = (d.setNi node ((d.ni node).tagDone tag r 0)).finishOp node r 0 data := by
  simp only [Dev.finishTag, h]
  rfl

theorem Dev.finishTag_fails (h : (d.ni node).tagRec tag = some r) (h0 : code ≠ 0) (ho : r.op.isOvf = false) :
    d.finishTag node tag code kind data =
      ((d.setNi node ((d.ni node).tagDone tag r code)).raise (d.ctxMsg node kind unitNi r.ga (some r.ctx))).finishOp node r code data := by
  have hno : ¬ (code = 0 ∨ r.op.isOvf = true) := by simp [h0, ho]
  simp only [Dev.finishTag, h, NI.tagDone, if_neg hno]
  rfl

/-- The operations whose reply brings only a count. -/
def TagOp.counts (op : TagOp) (slot k : Nat) : Prop := op = .farPut slot k ∨ op = .sig slot k ∨ op = .fence slot k

theorem TagOp.counts_isOvf {op : TagOp} (h : op.counts slot k) : op.isOvf = false := by
  rcases h with rfl | rfl | rfl <;> rfl

theorem Dev.finishOp_counts (h : r.op.counts slot k) (ht : d.tearing node = false) :
    d.finishOp node r code data = d.setCurd (curdKey node slot) ((d.curd (curdKey node slot)).complete k code) := by
  rw [← Dev.completeOp_counts d node slot k code ht]
  rcases h with h | h | h <;> rw [Dev.finishOp, h]

theorem Dev.finishOp_lands {b : Dev} (h : r.op = .farGet slot k dst len ∨ r.op = .farAmo slot k dst len)
    (hw : d.localWrite node slot dst (data.take len) = (b, true)) (ht : b.tearing node = false) :
    d.finishOp node r 0 data = b.setCurd (curdKey node slot) ((b.curd (curdKey node slot)).complete k 0) := by
  rw [← Dev.completeOp_counts b node slot k 0 ht]
  rcases h with h | h <;> simp [Dev.finishOp, h, hw]

theorem Dev.afterOp_done (h : ∀ seq, r.op ≠ .coll seq) : d.afterOp node r = d.checkDone r.ctx := by
  unfold Dev.afterOp
  cases hop : r.op with
  | coll seq => exact absurd hop (h seq)
  | _ => rfl

/-- A reply that answers an operation on the chip completes it. -/
theorem Dev.takeReply_completes (ht : takeTyp typ false [] (d.ni node).repBuf = some (f, rest)) (hr : (d.ni node).tagRec f.tag.toNat = some r)
    (hst : r.st = .sent) (htyp : replyTyp r.flit = typ) (hctx : f.ctx.toNat = r.ctx) (hgen : f.gen.toNat = r.gen) (hchip : r.chip = none)
    (hmark : f.cmark = false) (hok : malformedReply f = false) (hmay : f.status.toNat = 0 → d.replyMay node r = true) (hop : ∀ seq, r.op ≠ .coll seq) :
    d.takeReply node typ = ((d.setNi node { d.ni node with repBuf := rest }).finishTag node f.tag.toNat f.status.toNat 0x11 f.payload).checkDone r.ctx := by
  have hgo : ¬ (f.status = 0 ∧ d.replyMay node r = false) := by
    rintro ⟨h0, hno⟩
    rw [hmay (by simp [h0])] at hno
    cases hno
  simp only [Dev.takeReply, ht, hok, hr, hst, htyp, hctx, hgen, if_neg hgo, Dev.openReply, hchip, hmark]
  exact Dev.afterOp_done hop

end


/-- A row that ends with a context's check and runs the control writes that waited, of which there are none. -/
theorem completes_checkDone {c : Instr} {s : State} {x e : Dev} {ctx : Nat} {P : Dev → Prop} (hc : exec c s = s.next x.ctlRunAll) (hx : x = e.checkDone ctx)
    (he : ∀ w ∈ e.host.wins, w.job.isCtl = false) (hP : P (e.checkDone ctx)) : Completes c s P := by
  rw [hx, Dev.ctlRunAll_none _ (by rw [Dev.checkDone_wins]; exact he)] at hc
  exact ⟨_, hc, rfl, hP⟩

/-- Settles O25. -/
theorem replyRowsCompleteTheOperation : Obligations.ReplyRowsCompleteTheOperation := by
  unfold Obligations.ReplyRowsCompleteTheOperation
  intro s node f rest r d n0 n1 a ht hr hst htyp hctx hgen hchip hcop hmark hok htear hwins
  have hni : (d.setNi node n0).ni node = n0 := Dev.ni_setNi_same ..
  have hr0 : ((d.setNi node n0).ni node).tagRec f.tag.toNat = some r := by rw [hni]; exact hr
  have hreply := Dev.takeReply_completes ht hr hst htyp hctx hgen hchip hmark hok
  have hfree : (d.setNi node n0).setNi node (((d.setNi node n0).ni node).tagDone f.tag.toNat r 0) = a := by
    rw [NI.tagDone_ok hchip hcop, hni]
  have hcounts (slot k : Nat) (hop : r.op.counts slot k) (seq : Nat) : r.op ≠ .coll seq := by
    rcases hop with h | h | h <;> rw [h] <;> exact fun h => nomatch h
  have hnomay (slot k : Nat) (hop : r.op.counts slot k) : d.replyMay node r = true := by
    rcases hop with h | h | h <;> rw [Dev.replyMay, h]
  have hlands (slot k dst len : Nat) (b : Dev) (hop : r.op = .farGet slot k dst len ∨ r.op = .farAmo slot k dst len) (h0 : f.status.toNat = 0)
      (hmay : d.engineMay node slot dst len = true) (hw : a.localWrite node slot dst (f.payload.take len) = (b, true)) (hb : b.tearing node = false) :
      d.takeReply node f.typ.toNat = (b.setCurd (curdKey node slot) ((b.curd (curdKey node slot)).complete k 0)).checkDone r.ctx := by
    rw [hreply (fun _ => by rcases hop with h | h <;> rw [Dev.replyMay, h] <;> exact hmay) (by rcases hop with h | h <;> rw [h] <;> exact fun _ h => nomatch h),
      h0, Dev.finishTag_ok hr0, hfree, Dev.finishOp_lands hop hw hb]
  refine ⟨fun slot k hop hty h0 => ?_, fun slot k hop hty h0 h8 => ?_, fun slot k dst len b hop hty h0 hmay hw hb => ?_, fun slot k dst len b hop hty h0 hmay hw hb => ?_⟩
  · have hdev : d.takeReply node f.typ.toNat = (a.setCurd (curdKey node slot) ((a.curd (curdKey node slot)).complete k 0)).checkDone r.ctx := by
      rw [hreply (fun _ => hnomay slot k hop) (hcounts slot k hop), h0, Dev.finishTag_ok hr0, hfree, Dev.finishOp_counts hop (show a.tearing node = false from htear)]
    rw [hty] at hdev
    refine completes_checkDone rfl hdev hwins ?_
    refine ⟨?_, ?_, fun i hi => ?_, ?_, ?_⟩
    · simp [a, Dev.ni_setNi_same]
    · simp [a]
    · simp [a, Dev.curd_setCurd_other _ _ _ _ hi]
    · simp [a]
    · simp [a]
  · have hdev := hreply (fun _ => hnomay slot k hop) (hcounts slot k hop)
    rw [Dev.finishTag_fails hr0 h0 (TagOp.counts_isOvf hop), Dev.finishOp_counts hop (by exact htear), hty] at hdev
    refine completes_checkDone rfl hdev hwins ?_
    refine ⟨?_, ?_, ?_, ?_⟩
    · simp [Dev.ni_setNi_same, NI.tagDone_tagRec, Nat.not_lt.2 hcop]
    · simp
    · simpa [Dev.ni_setNi_same] using NI.tagDone_failRec (n := n0) (tag := f.tag.toNat) (r := r) h0 (TagOp.counts_isOvf hop)
    · simp; rfl
  · have hdev := hlands slot k dst len b (.inl hop) h0 hmay hw hb
    have hbh : b.host = d.host := by have := a.localWrite_host node slot dst (f.payload.take len); rw [hw] at this; exact this
    rw [hty] at hdev
    refine completes_checkDone rfl hdev (hbh.symm ▸ hwins) ?_
    exact ⟨by simp, by simp, by simp, fun i hi => by simp [Dev.curd_setCurd_other _ _ _ _ hi]⟩
  · have hdev := hlands slot k dst len b (.inr hop) h0 hmay hw hb
    rw [hty] at hdev
    refine ⟨_, congrArg s.next hdev, rfl, ?_⟩
    dsimp only
    exact ⟨by simp, by simp, by simp, fun i hi => by simp [Dev.curd_setCurd_other _ _ _ _ hi]⟩

/-! ## Timers -/

section
variable {d : Dev} {node tag slot k code : Nat} {r : TagRec}

theorem doRequestTimeout_resends (hr : (d.ni node).tagRec tag = some r) (hst : r.st = .sent) (hc : r.chip.isNone = false)
    (hrun : (d.ni node).stop.getLsbD (r.ctx % 16) = false) (hleft : r.copies < r.limit + 1) :
    doRequestTimeout d node tag = (d.setTagSt node tag r .waiting).checkDone r.ctx := by
  simp [doRequestTimeout, hr, hst, hc, hleft, hrun]

theorem doRequestTimeout_ends (hr : (d.ni node).tagRec tag = some r) (hst : r.st = .sent) (hc : r.chip.isNone = false) (hleft : r.limit + 1 ≤ r.copies)
    (hop : ∀ seq, r.op ≠ .coll seq) : doRequestTimeout d node tag = (d.finishTag node tag 0x08 0x12 []).checkDone r.ctx := by
  rw [← Dev.afterOp_done (node := node) hop]
  simp [doRequestTimeout, hr, hst, hc, Nat.not_lt.2 hleft]

theorem doOndieTimeout_resends (hr : (d.ni node).tagRec tag = some r) (hst : r.st = .sent) (hc : r.chip = none) (ht : r.flit.typ.toNat = tRd ∨ r.flit.typ.toNat = tWr)
    (hrun : (d.ni node).stop.getLsbD (r.ctx % 16) = false) (hleft : r.copies ≤ r.limit) (hn : node < 288) :
    doOndieTimeout d node tag = (d.setTagSt node tag r .waiting).checkDone r.ctx := by
  simp [doOndieTimeout, hr, hst, hc, ht, Nat.not_lt.2 hleft, Nat.not_le.2 hn, hrun]

theorem doOndieTimeout_hostAgain (hr : (d.ni node).tagRec tag = some r) (hst : r.st = .sent) (hc : r.chip = none) (ht : r.flit.typ.toNat = tRd ∨ r.flit.typ.toNat = tWr)
    (hleft : r.copies ≤ r.limit) (hn : 288 ≤ node) : doOndieTimeout d node tag = d.hostAgain node tag r := by
  simp [doOndieTimeout, hr, hst, hc, ht, Nat.not_lt.2 hleft, hn]

theorem doOndieTimeout_ends (hr : (d.ni node).tagRec tag = some r) (hst : r.st = .sent) (hc : r.chip = none) (ht : r.flit.typ.toNat = tRd ∨ r.flit.typ.toNat = tWr)
    (hleft : r.limit < r.copies) (hop : ∀ seq, r.op ≠ .coll seq) : doOndieTimeout d node tag = (d.finishTag node tag 0x08 0x12 []).checkDone r.ctx := by
  rw [← Dev.afterOp_done (node := node) hop]
  simp [doOndieTimeout, hr, hst, hc, ht, hleft]

theorem doOndieTimeout_fails (hr : (d.ni node).tagRec tag = some r) (hst : r.st = .sent) (hc : r.chip = none) (ht : r.flit.typ.toNat = tSig)
    (hop : ∀ seq, r.op ≠ .coll seq) : doOndieTimeout d node tag = (d.finishTag node tag 0x09 0x13 []).checkDone r.ctx := by
  rw [← Dev.afterOp_done (node := node) hop]
  simp [doOndieTimeout, hr, hst, hc, ht, tSig, tRd, tWr]

end

/-- Settles O26. -/
theorem timerRowsReissueOrComplete : Obligations.TimerRowsReissueOrComplete := by
  unfold Obligations.TimerRowsReissueOrComplete
  intro s node tag r d hr hwins
  have hagain : ((d.setTagSt node tag r .waiting).checkDone r.ctx).ni node = (d.ni node).setTag tag (some { r with st := .waiting }) ∧
      (∀ i, i ≠ node → ((d.setTagSt node tag r .waiting).checkDone r.ctx).ni i = d.ni i) ∧
      ((d.setTagSt node tag r .waiting).checkDone r.ctx).curds = d.curds ∧ ((d.setTagSt node tag r .waiting).checkDone r.ctx).vats = d.vats := by
    refine ⟨by simp [Dev.setTagSt, Dev.ni_setNi_same], fun i hi => by simp [Dev.setTagSt, Dev.ni_setNi_other _ _ _ _ hi], by simp [Dev.setTagSt], by simp [Dev.setTagSt]⟩
  have hfails (code kind slot k : Nat) (h0 : code ≠ 0) (hop : r.op.counts slot k) (htear : d.tearing node = false) :
      d.finishTag node tag code kind [] =
        ((d.setNi node ((d.ni node).tagDone tag r code)).raise (d.ctxMsg node kind unitNi r.ga (some r.ctx))).setCurd (curdKey node slot)
          ((d.curd (curdKey node slot)).complete k code) := by
    rw [Dev.finishTag_fails hr h0 (TagOp.counts_isOvf hop), Dev.finishOp_counts hop (by exact htear)]
    simp
  have hcounts (slot k : Nat) (hop : r.op.counts slot k) (seq : Nat) : r.op ≠ .coll seq := by
    rcases hop with h | h | h <;> rw [h] <;> exact fun h => nomatch h
  refine ⟨fun hst hrun => ⟨fun chip hc hleft => ?_, fun chip slot k hc hleft hcop hop htear => ?_, fun hc ht hleft hn => ?_, fun hc ht hleft hn => ?_,
    fun slot k hc ht hleft hcop hop htear => ?_, fun slot k hc ht hcop hop htear => ?_⟩, fun hst => ?_, fun chip => ?_⟩
  · have hdo := doRequestTimeout_resends hr hst (by simp [hc]) hrun hleft
    refine ⟨_, congrArg s.next hdo, rfl, hagain⟩
  · have hdo := doRequestTimeout_ends hr hst (by simp [hc]) hleft (hcounts slot k (.inl hop))
    rw [hfails 0x08 0x12 slot k (by decide) (.inl hop) htear] at hdo
    refine ⟨_, congrArg s.next hdo, rfl, ?_, ?_, ?_⟩ <;> dsimp only
    · simp [Dev.ni_setNi_same, NI.tagDone_tagRec, hcop]
    · simp
    · simp [Dev.ni_setNi_same, NI.tagDone_timeouts]
  · have hdo := doOndieTimeout_resends hr hst hc ht hrun hleft hn
    refine completes_checkDone rfl hdo hwins ?_
    exact hagain
  · have hdo := doOndieTimeout_hostAgain hr hst hc ht hleft hn
    refine (congrArg (fun e : Dev => s.next e.ctlRunAll) hdo).trans ?_
    rw [Dev.ctlRunAll_none]
    · rfl
    · rw [Dev.hostAgain, Dev.offer_frame]
      exact hwins
  · have hdo := doOndieTimeout_ends hr hst hc ht hleft (hcounts slot k (.inl hop))
    rw [hfails 0x08 0x12 slot k (by decide) (.inl hop) htear] at hdo
    refine completes_checkDone rfl hdo hwins ?_
    exact ⟨by simp [Dev.ni_setNi_same, NI.tagDone_tagRec, hcop], by simp⟩
  · have hdo := doOndieTimeout_fails hr hst hc ht (hcounts slot k (.inr (.inl hop)))
    rw [hfails 0x09 0x13 slot k (by decide) (.inr (.inl hop)) htear] at hdo
    refine completes_checkDone rfl hdo hwins ?_
    exact ⟨by simp [Dev.ni_setNi_same, NI.tagDone_tagRec, Nat.not_lt.2 hcop], by simp⟩
  · have hdo : doTagQuarantineEnd d node tag = d.setNi node ((d.ni node).setTag tag none) := by simp [doTagQuarantineEnd, hr, hst]
    exact congrArg s.next hdo
  · intro x
    refine ⟨_, rfl, rfl, rfl, ?_, fun c hc => ?_⟩ <;> dsimp only
    · simp only [doRateLimitRecovery, Dev.ni_setNi_same, smGet_set_same]
      rfl
    · simp only [doRateLimitRecovery, Dev.ni_setNi_same]
      exact smGet_set_other _ _ _ _ _ hc

end Sys2Proof.Machine
end
section
/-! PROOFS. Fabric ports (07_links.md R204-R224, 06_mesh.md R196): the receive stream and its frames, packets and credits that leave, lane maps. -/

namespace Sys2Proof.Machine

/-! ## The receive stream (R207, R208) -/

section
variable {x : Port} {c : Codeword} {fr : List Byte} {n : Nat}

theorem Port.rxSwitch_none (h : x.rxMap = none) : x.rxSwitch = x := by rw [Port.rxSwitch, h]

theorem Port.reorder_empty (hm : x.rxMap = none) (hc : x.rxCw = []) : x.reorder n = x := by
  cases n with
  | zero => rfl
  | succ n => simp [Port.reorder, Port.rxSwitch_none hm, hc]

theorem Port.reorder_takes (hm : x.rxMap = none) (hc : x.rxCw = [c]) (hq : c.cseq = x.rxNext) :
    x.reorder (n + 1) = (Port.absorb { x with rxCw := [], rxCount := x.rxCount + 1 } c).reorder n := by
  simp [Port.reorder, Port.rxSwitch_none hm, hc, hq]

theorem Port.reorder_waits (hm : x.rxMap = none) (hc : x.rxCw = [c]) (hq : c.cseq ≠ x.rxNext) : x.reorder n = x := by
  cases n with
  | zero => rfl
  | succ n => simp [Port.reorder, Port.rxSwitch_none hm, hc, hq]

/-- A stream with a whole frame at its head names no reserved type. -/
theorem frameLen_of_headFrame {bs : List Byte} (h : headFrame bs = some fr) : frameLen bs ≠ none := by
  intro hn
  simp [headFrame, hn] at h

theorem Port.skipReserved_frame (h : headFrame x.rxBytes = some fr) : x.skipReserved = x :=
  if_neg (fun hx => frameLen_of_headFrame h hx.2)

theorem Port.absorb_good (hs : x.rxSync = true) (hr : c.result = .good) (hf : headFrame (x.rxBytes ++ c.stream) = some fr) :
    x.absorb c = { x with
      rxBytes := x.rxBytes ++ c.stream
      lanes := smSet LaneRec.init x.lanes c.lane ((smGet LaneRec.init x.lanes c.lane).note true) } := by
  unfold Port.absorb
  simp only [hr, hs, reduceCtorEq, if_false, if_true]
  exact Port.skipReserved_frame (fr := fr) hf

theorem Port.absorb_uncorrectable (hr : c.result = .uncorrectable) :
    x.absorb c = { x with
      lanes := smSet LaneRec.init x.lanes c.lane ((smGet LaneRec.init x.lanes c.lane).note false)
      uncorrectable := hold16 (x.uncorrectable + 1)
      rxBytes := wholeFrames (x.rxBytes.length + 1) x.rxBytes
      rxSync := false } := by
  unfold Port.absorb
  simp only [hr]
  rfl

end

section
variable {d : Dev} {p : Nat} {c : Codeword} {x y : Port}

theorem doCodeword_near (hst : (d.port p).st = 2) (hn : (c.cseq + 128 - (d.port p).rxNext) % 128 < 64) (hcw : (d.port p).rxCw = [])
    (hx : Port.reorder 200 { d.port p with rxCw := [c] } = x) : doCodeword d p c = (d.setPort p x).judgeLanes p := by
  subst hx
  simp only [doCodeword, hst, hcw]
  rw [if_neg (by omega)]
  rfl

theorem doCodeword_next (hst : (d.port p).st = 2) (hcw : (d.port p).rxCw = []) (hm : (d.port p).rxMap = none) (hq : c.cseq = (d.port p).rxNext)
    (hx : Port.absorb { d.port p with rxCw := [], rxCount := (d.port p).rxCount + 1 } c = x) (hxm : x.rxMap = none) (hxc : x.rxCw = []) :
    doCodeword d p c = (d.setPort p x).judgeLanes p := by
  have hlt : (d.port p).rxNext < 128 := Nat.mod_lt _ (by decide)
  refine doCodeword_near hst (by omega) hcw ?_
  rw [Port.reorder_takes (x := { d.port p with rxCw := [c] }) hm rfl hq]
  exact (congrArg (Port.reorder 199) hx).trans (Port.reorder_empty hxm hxc)

end

/-! ## Frames taken (R209-R213) -/

section
variable {d : Dev} {p : Nat} {fr : List Byte} {y : Port}

theorem Port.skipReserved_rxCount (x : Port) : x.skipReserved.rxCount = x.rxCount := by
  unfold Port.skipReserved
  split <;> rfl

theorem Dev.takeFrame_head (hst : (d.port p).st = 2) (hf : headFrame (d.port p).rxBytes = some fr)
    (hy : y = Port.skipReserved { d.port p with rxBytes := (d.port p).rxBytes.drop fr.length }) : d.takeFrame p (fType fr) = some (d.setPort p y, fr) := by
  subst hy
  simp [Dev.takeFrame, hst, hf]

theorem Dev.setPort_twice (d : Dev) (p : Nat) (x y : Port) : (d.setPort p x).setPort p y = { d with ports := ((d.setPort p x).setPort p y).ports } := rfl

theorem Dev.setPort_thrice (d : Dev) (p : Nat) (x y z : Port) :
    ((d.setPort p x).setPort p y).setPort p z = { d with ports := (((d.setPort p x).setPort p y).setPort p z).ports } := rfl

/-- The counts a CREDIT frame leaves (R213). -/
def Port.creditsTaken (x : Port) (fr : List Byte) : Port :=
  ([0, 1, 2].foldl (fun x c => (x.takeSent c (leAt (fr.drop 4) c 1) 0).takeFreed c (leAt (fr.drop 4) (3 + c) 1)) x).takeFreed (fCclass fr) (fFreed fr)

theorem Port.takeFreed_same (x : Port) {c v : Nat} (h : c ≠ 3) : smGet 0 (x.takeFreed c v).cF c = v := by
  rw [Port.takeFreed, if_neg h]
  exact smGet_set_same ..

theorem Port.takeFreed_other (x : Port) {c e v : Nat} (h : e ≠ c) : smGet 0 (x.takeFreed c v).cF e = smGet 0 x.cF e := by
  unfold Port.takeFreed
  split
  · rfl
  · exact smGet_set_other _ _ _ _ _ h

@[simp] theorem Port.takeFreed_cR (x : Port) (c v : Nat) : (x.takeFreed c v).cR = x.cR := by unfold Port.takeFreed; split <;> rfl
@[simp] theorem Port.takeFreed_cG (x : Port) (c v : Nat) : (x.takeFreed c v).cG = x.cG := by unfold Port.takeFreed; split <;> rfl
@[simp] theorem Port.takeFreed_inb (x : Port) (c v : Nat) : (x.takeFreed c v).inb = x.inb := by unfold Port.takeFreed; split <;> rfl
@[simp] theorem Port.takeFreed_rxBytes (x : Port) (c v : Nat) : (x.takeFreed c v).rxBytes = x.rxBytes := by unfold Port.takeFreed; split <;> rfl
@[simp] theorem Port.takeFreed_pkts (x : Port) (c v : Nat) : (x.takeFreed c v).pkts = x.pkts := by unfold Port.takeFreed; split <;> rfl

theorem Port.takeFreed_none (x : Port) (v : Nat) : x.takeFreed 3 v = x := rfl

@[simp] theorem Port.takeSent_cF (x : Port) (c v l : Nat) : (x.takeSent c v l).cF = x.cF := rfl
theorem Port.takeSent_cR_same (x : Port) (c v l : Nat) : smGet 0 (x.takeSent c v l).cR c = v := smGet_set_same ..
theorem Port.takeSent_cR_other (x : Port) {c e : Nat} (v l : Nat) (h : e ≠ c) : smGet 0 (x.takeSent c v l).cR e = smGet 0 x.cR e := smGet_set_other _ _ _ _ _ h
theorem Port.takeSent_cG_same (x : Port) (c v l : Nat) : smGet 0 (x.takeSent c v l).cG c = (smGet 0 x.cG c + v + 512 - smGet 0 x.cR c - l) % 256 := smGet_set_same ..
theorem Port.takeSent_cG_other (x : Port) {c e : Nat} (v l : Nat) (h : e ≠ c) : smGet 0 (x.takeSent c v l).cG e = smGet 0 x.cG e := smGet_set_other _ _ _ _ _ h

theorem Port.creditsTaken_cF (x : Port) {c : Nat} (h : c < 3) :
    smGet 0 (x.creditsTaken fr).cF c = if fCclass fr = c then fFreed fr else leAt (fr.drop 4) (3 + c) 1 := by
  unfold Port.creditsTaken
  by_cases hc : fCclass fr = c
  · rw [if_pos hc, hc, Port.takeFreed_same _ (by omega)]
  · rw [if_neg hc, Port.takeFreed_other _ (Ne.symm hc)]
    have : c = 0 ∨ c = 1 ∨ c = 2 := by omega
    rcases this with rfl | rfl | rfl <;> simp [Port.takeFreed_same, Port.takeFreed_other]

theorem Port.creditsTaken_cR (x : Port) {c : Nat} (h : c < 3) : smGet 0 (x.creditsTaken fr).cR c = leAt (fr.drop 4) c 1 := by
  unfold Port.creditsTaken
  have : c = 0 ∨ c = 1 ∨ c = 2 := by omega
  rcases this with rfl | rfl | rfl <;> simp [Port.takeSent_cR_same, Port.takeSent_cR_other]

theorem Port.creditsTaken_cG (x : Port) {c : Nat} (h : c < 3) :
    smGet 0 (x.creditsTaken fr).cG c = (smGet 0 x.cG c + leAt (fr.drop 4) c 1 + 512 - smGet 0 x.cR c) % 256 := by
  unfold Port.creditsTaken
  have : c = 0 ∨ c = 1 ∨ c = 2 := by omega
  rcases this with rfl | rfl | rfl <;> simp [Port.takeSent_cG_same, Port.takeSent_cG_other, Port.takeSent_cR_other]

theorem Port.creditsTaken_inb (x : Port) : (x.creditsTaken fr).inb = x.inb := by simp [Port.creditsTaken, Port.takeSent]
theorem Port.creditsTaken_rxBytes (x : Port) : (x.creditsTaken fr).rxBytes = x.rxBytes := by simp [Port.creditsTaken, Port.takeSent]

end

/-! ## Lane maps (R204-R206) -/

section
variable {d : Dev} {x : Port} {p n : Nat} {l : List Nat} {fr : List Byte}

theorem Port.txSwitch_stays (h : ∀ l q, x.newMap = some (l, q) → q ≠ x.txCw % 128) : x.txSwitch = x := by
  unfold Port.txSwitch
  split
  · next l q hm => rw [if_neg (h l q hm)]
  · rfl

/-- Frames put on the link before the codeword of the announced map leave on the lanes of the old one. -/
theorem Port.put_repeat (h : ∀ l q, x.newMap = some (l, q) → ∀ i < n, q ≠ (x.txCw + i) % 128) :
    ∃ tx rest, (List.range n).foldl (fun y _ => y.put fr) x = { x with tx := tx, txRest := rest, txCw := x.txCw + n } := by
  induction n with
  | zero => exact ⟨x.tx, x.txRest, rfl⟩
  | succ n ih =>
    obtain ⟨tx, rest, hy⟩ := ih (fun l q hm i hi => h l q hm i (by omega))
    rw [List.range_succ, List.foldl_append, hy]
    have hsw : Port.txSwitch { x with tx := tx, txRest := rest, txCw := x.txCw + n } = { x with tx := tx, txRest := rest, txCw := x.txCw + n } :=
      Port.txSwitch_stays (fun l q hm => h l q hm n (by omega))
    have hput : ∃ tx' rest', Port.put { x with tx := tx, txRest := rest, txCw := x.txCw + n } fr = { x with tx := tx', txRest := rest', txCw := x.txCw + (n + 1) } := by
      unfold Port.put
      rw [hsw]
      exact ⟨_, _, rfl⟩
    exact hput

/-- An announced map waits; the old one stays for as many codewords as it has lanes. -/
theorem Port.announce_waits (x : Port) (l : List Nat) (h : x.txLanes.length ≤ 4) :
    ∃ tx rest, x.announce l = { x with tx := tx, txRest := rest, txCw := x.txCw + max 1 x.txLanes.length, newMap := some (l, (x.txCw + max 1 x.txLanes.length) % 128) } := by
  have hn : max 1 x.txLanes.length ≤ 4 := by omega
  obtain ⟨tx, rest, hy⟩ := Port.put_repeat (x := { x with newMap := some (l, (x.txCw + max 1 x.txLanes.length) % 128) }) (n := max 1 x.txLanes.length)
    (fr := smallFrame 4 (leBytes 1 1 ++ leBytes 1 l.length ++ leBytes 1 ((x.txCw + max 1 x.txLanes.length) % 128) ++ l.flatMap (fun i => leBytes 1 i)))
    (by
      intro l' q hm i hi
      obtain ⟨rfl, rfl⟩ := Prod.mk.inj (Option.some.inj hm)
      dsimp only
      omega)
  exact ⟨tx, rest, hy⟩

theorem Dev.relane_announces (hl : l = nextMap (d.port p) n) (h2 : 2 ≤ l.length) (hm : portMin (d.port p) ≤ l.length) (hne : l ≠ (d.port p).txLanes) :
    d.relane p n = d.setPort p (Port.announce { d.port p with badTx := n } l) := by
  subst hl
  simp only [Dev.relane]
  rw [if_neg (by omega), if_neg hne]

theorem Dev.relane_keeps (hl : l = nextMap (d.port p) n) (h2 : 2 ≤ l.length) (hm : portMin (d.port p) ≤ l.length) (he : l = (d.port p).txLanes) :
    d.relane p n = d.setPort p { d.port p with badTx := n } := by
  subst hl
  simp only [Dev.relane]
  rw [if_neg (by omega), if_pos he]

end

/-! ## Packets that arrive (R213, R219) -/

/-- A packet that goes on over another port waits in its class's input buffer for that port's edge node. -/
theorem Dev.arrivePacket_goesOn {d : Dev} {p c q : Nat} {f : Flit} (hh : f.hop.toNat < 24) (he : q = pathEntry f.path.toNat f.hop.toNat) (hq : q ≠ p)
    (hup : d.portUp q = true) (hc : c = if f.mgmt then 2 else if f.cls then 1 else 0) :
    d.arrivePacket p c f = d.setPort p { d.port p with
      inb := (d.port p).inb ++ [(c, { f with dst := BitVec.ofNat 9 (0x140 + q), cmark := f.cmark || (c != 2 && decide (72 < (d.port p).inCount c + 1)) })] } := by
  have hcls : (if f.mgmt then c == 2 else c == (if f.cls then 1 else 0)) = true := by
    cases hm : f.mgmt <;> simp [hc, hm]
  unfold Dev.arrivePacket
  extract_lets h e clsOk f' put
  have hgo : ¬ (24 < h ∨ (h < 24 ∧ e ≠ p ∧ d.portUp e = false) ∨ clsOk = false) := by
    subst he
    rintro (h1 | ⟨-, -, h2⟩ | h3)
    · exact absurd h1 (by omega)
    · exact absurd (hup.symm.trans h2) (by decide)
    · exact absurd (hcls.symm.trans h3) (by decide)
  have hon : ¬ (h = 24 ∨ e = p) := by
    rintro (h1 | h2)
    · exact absurd h1 (by omega)
    · exact hq (he.trans h2)
  rw [if_neg hgo, if_neg hon]
  subst he
  exact if_neg (by omega)

/-- The counts of a packet frame of a class (R213). -/
def Port.packetCounted (x : Port) (fr : List Byte) : Port := ((x.takeFreed (fCclass fr) (fFreed fr)).countPkt).takeSent (fClass fr) (fSent fr) 1

section
variable (x : Port) (fr : List Byte)

theorem Port.packetCounted_inb : (x.packetCounted fr).inb = x.inb := Port.takeFreed_inb ..
theorem Port.packetCounted_pkts : (x.packetCounted fr).pkts = (x.pkts + 1) % 2 ^ 64 := congrArg (fun n => (n + 1) % 2 ^ 64) (Port.takeFreed_pkts ..)
theorem Port.packetCounted_cR : smGet 0 (x.packetCounted fr).cR (fClass fr) = fSent fr := Port.takeSent_cR_same _ _ _ 1
theorem Port.packetCounted_cF (h : fCclass fr < 3) : smGet 0 (x.packetCounted fr).cF (fCclass fr) = fFreed fr := Port.takeFreed_same x (by omega)

end

theorem Dev.portUp_setPort_other (d : Dev) {p q : Nat} (x : Port) (h : q ≠ p) : (d.setPort p x).portUp q = d.portUp q := by
  unfold Dev.portUp
  rw [Dev.port_setPort_other _ _ _ _ h]
  rfl

/-- A good packet frame whose packet goes on: its counts are taken, and it waits. -/
theorem Dev.takePacket_goesOn {d a : Dev} {p q : Nat} {y : Port} {fr : List Byte} {enc : Bool} {f : Flit} (hay : a.port p = y)
    (htake : d.takeFrame p (if enc then 2 else 1) = some (a, fr)) (hok : checkOk fr = true) (hcl : fClass fr ≤ 2) (hf : f = frameFlit fr enc) (hh : f.hop.toNat < 24)
    (he : q = pathEntry f.path.toNat f.hop.toNat) (hq : q ≠ p) (hup : a.portUp q = true) (hclass : fClass fr = if f.mgmt then 2 else if f.cls then 1 else 0) :
    ∃ b : Dev, b = { a with ports := b.ports } ∧ b.port p = { y.packetCounted fr with
        inb := (y.packetCounted fr).inb ++
          [(fClass fr, { f with dst := BitVec.ofNat 9 (0x140 + q), cmark := f.cmark || (fClass fr != 2 && decide (72 < (y.packetCounted fr).inCount (fClass fr) + 1)) })] } ∧
      d.takePacket p (if enc then 2 else 1) = b := by
  have henc : ((if enc then 2 else 1) == 2) = enc := by cases enc <;> rfl
  have hdo : d.takePacket p (if enc then 2 else 1) = (a.setPort p (y.packetCounted fr)).arrivePacket p (fClass fr) f := by
    simp only [Dev.takePacket, htake, hok, Bool.not_true, Bool.false_eq_true, if_false, if_neg (show fClass fr ≠ 3 by omega), henc, ← hf, hay]
    rfl
  rw [Dev.arrivePacket_goesOn hh he hq ((Dev.portUp_setPort_other a _ hq).trans hup) hclass, Dev.port_setPort_same] at hdo
  exact ⟨_, rfl, Dev.port_setPort_same .., hdo⟩

theorem exec_packetFrame (s : State) (p : Nat) (enc : Bool) :
    exec (if enc then .pktEncFrame p else .pktFrame p) s = s.next (s.dev.takePacket p (if enc then 2 else 1)) := by
  cases enc <;> rfl

/-- The row that takes a frame of a type other than IDLE counts one whose check fails. -/
theorem exec_badFrame {s : State} {p : Nat} {fr : List Byte} {e : Dev} (h : s.dev.takeFrame p (fType fr) = some (e, fr)) (hc : checkOk fr = false)
    (ht : fType fr = 1 ∨ fType fr = 2 ∨ fType fr = 3 ∨ fType fr = 4) :
    exec (if fType fr = 1 then .pktFrame p else if fType fr = 2 then .pktEncFrame p else if fType fr = 3 then .creditFrame p else .linkCtlFrame p) s =
      s.next (e.badFrame p) := by
  rcases ht with ht | ht | ht | ht <;> rw [ht] at h ⊢
  · have : s.dev.takePacket p 1 = e.badFrame p := by simp [Dev.takePacket, h, hc]
    exact congrArg s.next this
  · have : s.dev.takePacket p 2 = e.badFrame p := by simp [Dev.takePacket, h, hc]
    exact congrArg s.next this
  · have : doCreditFrame s.dev p = e.badFrame p := by simp [doCreditFrame, h, hc]
    exact congrArg s.next this
  · have : doLinkCtlFrame s.dev p = e.badFrame p := by simp [doLinkCtlFrame, h, hc]
    exact congrArg s.next this

/-- Settles O27. -/
theorem frameRowsTakeTheStream : Obligations.FrameRowsTakeTheStream := by
  unfold Obligations.FrameRowsTakeTheStream
  intro s p d x hst
  refine ⟨fun c hcw hm hsync hq hres ⟨fr, hfr⟩ => ?_, fun c hcw hm hq hres => ?_, fun c hcw hm hq hnear => ?_, fun fr hfr => ?_⟩
  · have hdo := doCodeword_next hst hcw hm hq (Port.absorb_good (x := { x with rxCw := [], rxCount := x.rxCount + 1 }) (fr := fr) hsync hres hfr) hm rfl
    rw [show exec (.codeword p c) s = s.next (doCodeword d p c) from rfl, hdo]
    exact congrArg (fun l => s.next ((d.setPort p { x with
      rxBytes := x.rxBytes ++ c.stream
      rxCount := x.rxCount + 1
      rxCw := l
      lanes := smSet LaneRec.init x.lanes c.lane ((smGet LaneRec.init x.lanes c.lane).note true) }).judgeLanes p)) hcw.symm
  · have hdo := doCodeword_next hst hcw hm hq (Port.absorb_uncorrectable (x := { x with rxCw := [], rxCount := x.rxCount + 1 }) hres) hm rfl
    rw [show exec (.codeword p c) s = s.next (doCodeword d p c) from rfl, hdo]
    exact congrArg (fun l => s.next ((d.setPort p { x with
      rxBytes := wholeFrames (x.rxBytes.length + 1) x.rxBytes
      rxSync := false
      uncorrectable := hold16 (x.uncorrectable + 1)
      rxCount := x.rxCount + 1
      rxCw := l
      lanes := smSet LaneRec.init x.lanes c.lane ((smGet LaneRec.init x.lanes c.lane).note false) }).judgeLanes p)) hcw.symm
  · exact congrArg s.next (doCodeword_near hst hnear hcw (Port.reorder_waits (x := { x with rxCw := [c] }) hm rfl hq))
  · intro y a
    have htake := Dev.takeFrame_head (y := y) hst hfr rfl
    have hay : a.port p = y := Dev.port_setPort_same ..
    refine ⟨fun ht => ?_, fun ht hok => ?_, fun l q ht hok h1 hcc hl hq => ?_, fun bad l ht hok h0 hcc hbad hl h2 hmin hne h4 => ?_, fun hok ht => ?_,
      fun enc f q ht hok hcl hf hh he hq hup hclass => ?_⟩
    · rw [ht] at htake
      have hdo : doIdleFrame d p = a := by simp only [doIdleFrame, htake]; rfl
      exact congrArg s.next hdo
    · rw [ht] at htake
      have hdo : doCreditFrame d p = a.setPort p (y.creditsTaken fr) := by
        simp only [doCreditFrame, htake, hok, if_true]
        rw [show (d.setPort p y).port p = y from hay]
        rfl
      refine ⟨_, congrArg s.next hdo, rfl, Dev.setPort_twice .., fun c hc => ?_⟩
      simp only [Dev.port_setPort_same]
      exact ⟨Port.creditsTaken_cF y hc, Port.creditsTaken_cR y hc, Port.creditsTaken_cG y hc, Port.creditsTaken_inb y, Port.creditsTaken_rxBytes y⟩
    · rw [ht] at htake
      have hnext : y.rxNext = x.rxNext := congrArg (· % 128) (Port.skipReserved_rxCount _)
      have hdo : doLinkCtlFrame d p = (a.setPort p y).setPort p (y.hear l q) := by
        simp only [doLinkCtlFrame, htake, hok, Bool.not_true, Bool.false_eq_true, if_false, if_neg h1, hcc, Port.takeFreed_none, Dev.port_setPort_same]
        rw [hl, hq]
      refine ⟨_, congrArg s.next hdo, rfl, Dev.setPort_thrice .., fun hnow => ?_, fun hlater => ?_⟩
      · dsimp only
        rw [Dev.port_setPort_same, Port.hear, hnext, if_pos hnow]
      · dsimp only
        rw [Dev.port_setPort_same, Port.hear, hnext, if_neg (by omega)]
    · rw [ht] at htake
      have hdo : doLinkCtlFrame d p = (a.setPort p y).setPort p (Port.announce { y with badTx := bad } l) := by
        simp only [doLinkCtlFrame, htake, hok, Bool.not_true, Bool.false_eq_true, if_false, if_pos h0, hcc, Port.takeFreed_none, Dev.port_setPort_same]
        rw [← hbad]
        have hp : (a.setPort p y).port p = y := Dev.port_setPort_same ..
        have := Dev.relane_announces (d := a.setPort p y) (p := p) (n := bad) (l := l) (by rw [hp]; exact hl) h2 (by rw [hp]; exact hmin) (by rw [hp]; exact hne)
        rw [hp] at this
        exact this
      obtain ⟨tx, rest, hann⟩ := Port.announce_waits { y with badTx := bad } l h4
      rw [hann] at hdo
      refine ⟨_, congrArg s.next hdo, rfl, Dev.setPort_thrice .., ?_⟩
      simp only [Dev.port_setPort_same]
      exact ⟨trivial, trivial, trivial, trivial⟩
    · exact exec_badFrame htake hok ht
    · obtain ⟨b, hb, hbp, hdo⟩ := Dev.takePacket_goesOn hay ((congrArg (fun t => d.takeFrame p t) ht.symm).trans htake) hok hcl hf hh he hq
        ((Dev.portUp_setPort_other d y hq).trans hup) hclass
      refine ⟨_, (exec_packetFrame s p enc).trans (congrArg s.next hdo), rfl, ?_, ?_, ?_, fun h3 => ?_, ?_⟩ <;> dsimp only
      · rw [hb]
        rfl
      all_goals rw [hbp]
      · rw [Port.packetCounted_inb, Port.inCount, Port.packetCounted_inb]
        rfl
      · exact Port.packetCounted_cR ..
      · exact Port.packetCounted_cF _ _ h3
      · exact Port.packetCounted_pkts ..

end Sys2Proof.Machine
end
section
/-! PROOFS. What a fabric port sends, and its lanes and state (07_links.md R204-R206, R212, R215, R220-R222, R237). -/

namespace Sys2Proof.Machine

section
variable {d : Dev} {x : Port} {p : Nat} {f : Flit} {rest : List Flit} {fr : List Byte} {q : DepEnt}

/-! ## The departure engine (06_mesh.md R196, R212, R220) -/

theorem Dev.portAccept_none {pl : Plane} (h : (d.edge (2 * (0x140 + p) + planeNat pl)).arr = []) : d.portAccept p pl = d := by
  simp only [Dev.portAccept, h]

theorem Dev.portAccept_takes {pl : Plane} {cl : Nat} (h : (d.edge (2 * (0x140 + p) + planeNat pl)).arr = f :: rest) (he : forEngine p f = false) (ha : (d.port p).admits f = true)
    (hc : cl = if f.mgmt then 2 else if f.cls then 1 else 0) :
    d.portAccept p pl = (d.setEdge (2 * (0x140 + p) + planeNat pl) { d.edge (2 * (0x140 + p) + planeNat pl) with arr := rest }).setPort p { d.port p with
      dep := (d.port p).dep ++ [{ cls := cl, entering := isEntering f, flit := { f with cmark := f.cmark || (cl != 2 && decide (18 < (d.port p).depCount cl + 1)) } }] } := by
  subst hc
  simp only [Dev.portAccept, h, he, ha]
  rfl

theorem Dev.portAccept_returns {pl : Plane} (h : (d.edge (2 * (0x140 + p) + planeNat pl)).arr = f :: rest) (he : forEngine p f = false) (ha : (d.port p).admits f = false) :
    d.portAccept p pl = d.setEdge (2 * (0x140 + p) + planeNat pl)
      { d.edge (2 * (0x140 + p) + planeNat pl) with arr := rest, ret := (d.edge (2 * (0x140 + p) + planeNat pl)).ret ++ [f] } := by
  simp only [Dev.portAccept, h, he, ha]
  rfl

/-- Where only plane A has an arrival, the row is the engine's step on it. -/
theorem doEdgePortAccept_one {e : Dev} (ha : d.portAccept p .a = e) (hb : (d.edge (2 * (0x140 + p) + 1)).arr = [])
    (hsame : e.edge (2 * (0x140 + p) + 1) = d.edge (2 * (0x140 + p) + 1)) : doEdgePortAccept d p = e := by
  rw [doEdgePortAccept, ha]
  exact Dev.portAccept_none (pl := .b) (by rw [← hb, ← hsame]; rfl)

/-! ## Codewords that leave (R207, R208, R213) -/

theorem Port.put_pkts : (x.put fr).pkts = x.pkts := by
  unfold Port.put Port.txSwitch
  split
  · split <;> rfl
  · rfl

theorem Port.put_txCw : (x.put fr).txCw = x.txCw + 1 := by
  unfold Port.put Port.txSwitch
  split
  · split <;> rfl
  · rfl

theorem withCheck_length (bs : List Byte) : (withCheck bs).length = bs.length + 4 := by simp [withCheck, leBytes_length]

theorem padTo_length (n : Nat) (bs : List Byte) : (padTo n bs).length = n := by
  simp only [padTo, List.length_append, List.length_take, List.length_replicate]
  omega

theorem smallFrame_length (t : Nat) (body : List Byte) : (smallFrame t body).length = 16 := by
  simp [smallFrame, withCheck_length, frameHead, leBytes_length, padTo_length]

/-- A codeword with no map switch carries the bytes left over, the frame and a fill of IDLE frames. -/
theorem Port.put_word (hm : x.newMap = none) (hr : x.txRest.length ≤ 3) (hf : fr.length = 16) :
    ∃ w more, (x.put fr).tx = x.tx ++ [w] ∧ w.lane = x.txLanes.getD (x.txCw % max 1 x.txLanes.length) 0 ∧ w.first = x.txRest.length ∧ w.cseq = x.txCw % 128 ∧
      w.stream = x.txRest ++ fr ++ more ∧ w.stream.length = 398 := by
  have hsw : x.txSwitch = x := by rw [Port.txSwitch, hm]
  have hlen : (x.txRest ++ fr).length ≤ 398 := by rw [List.length_append]; omega
  have hid : idleFrame.length = 4 := leBytes_length ..
  have htx : (x.put fr).tx = x.tx ++ [{
      lane := x.txLanes.getD (x.txCw % max 1 x.txLanes.length) 0, first := x.txRest.length, cseq := x.txCw % 128
      stream := ((x.txRest ++ fr) ++ (List.replicate ((401 - (x.txRest ++ fr).length) / 4) idleFrame).flatten).take 398 }] := by
    unfold Port.put
    rw [hsw]
  refine ⟨_, (List.replicate ((401 - (x.txRest ++ fr).length) / 4) idleFrame).flatten.take (398 - (x.txRest ++ fr).length), htx, rfl, rfl, rfl, ?_, ?_⟩
  · dsimp only
    rw [List.take_append, List.take_of_length_le hlen]
  · simp [hid, hf]
    omega

theorem doPortSend_sends (hst : (d.port p).st = 2) (hq : (d.port p).pick = some q) : doPortSend d p = d.setPort p ((d.port p).emit q) := by
  simp [doPortSend, hst, hq]

theorem doPortSend_down (hst : (d.port p).st ≠ 2) :
    doPortSend d p = d.setPort p { d.port p with dep := [], packets := hold16 ((d.port p).packets + (d.port p).dep.length) } := by
  simp [doPortSend, hst]

/-! ## Lanes and the port's state (R204-R206, R222, R237) -/

theorem Dev.laneFails_reports {lane : Nat} (hst : (d.port p).st = 2) (hb : bit (d.port p).badRx lane = false)
    (h2 : 2 ≤ (lanesFor (d.port p) ((d.port p).badRx + 2 ^ lane)).length) (hm : portMin (d.port p) ≤ (lanesFor (d.port p) ((d.port p).badRx + 2 ^ lane)).length) :
    d.laneFails p lane = (d.setPort p (Port.put { d.port p with
        badRx := (d.port p).badRx + 2 ^ lane
        lanes := smSet LaneRec.init (d.port p).lanes lane LaneRec.init } (smallFrame 4 (leBytes 1 0 ++ leBytes 1 (2 ^ lane))))).raise (plainMsg (0x140 + p) 0x20 lane) := by
  simp only [Dev.laneFails, hst, hb]
  rw [if_neg (by simp), if_neg (by omega)]

theorem Dev.portFails_up (hst : (d.port p).st = 2) :
    d.portFails p = (d.setPort p { d.port p with
      st := 0, txW := 0, rxW := 0, txLanes := [], rxLanes := [], newMap := none, rxMap := none, dep := []
      packets := hold16 ((d.port p).packets + (d.port p).dep.length), rxBytes := [], rxCw := [], rxSync := true }).raise (plainMsg (0x140 + p) 0x21 0) := by
  simp only [Dev.portFails, hst]
  rfl

/-- The manager of a placed module hears of a port. -/
theorem Dev.tellPort_eq (st w : Nat) : d.tellPort p st w = { d with fm := { d.fm with
    out := if d.fm.placed then d.fm.out ++ [.portEvent d.fm.mgr d.fm.epoch p st w] else d.fm.out } } := by
  unfold Dev.tellPort
  split <;> rfl

/-- A mask of failed lanes without one lane. -/
def clearLane (m lane : Nat) : Nat := if bit m lane then m - 2 ^ lane else m

/-- A worked lane comes back: the map that follows is in force or announced. -/
theorem doLaneRetrain_maps {lane tx : Nat} {l : List Nat} (hst : (d.port p).st = 2) (htx : tx = clearLane (d.port p).badTx lane) (hl : l = nextMap (d.port p) tx)
    (h2 : 2 ≤ l.length) (hm : portMin (d.port p) ≤ l.length) (h4 : (d.port p).txLanes.length ≤ 4) :
    ∃ b y, doLaneRetrain d p lane = b ∧ b = { d with ports := b.ports } ∧ b.port p = y ∧ y.badTx = tx ∧ y.badRx = clearLane (d.port p).badRx lane ∧ y.txLanes = (d.port p).txLanes ∧
      y.newMap = if l = (d.port p).txLanes then (d.port p).newMap else some (l, ((d.port p).txCw + max 1 (d.port p).txLanes.length) % 128) := by
  have hp : (d.setPort p { d.port p with badRx := clearLane (d.port p).badRx lane }).port p = { d.port p with badRx := clearLane (d.port p).badRx lane } :=
    Dev.port_setPort_same ..
  have hdo : doLaneRetrain d p lane = (d.setPort p { d.port p with badRx := clearLane (d.port p).badRx lane }).relane p tx := by
    subst htx
    exact if_neg (by simp [hst])
  by_cases he : l = (d.port p).txLanes
  · rw [Dev.relane_keeps (l := l) (by rw [hp]; exact hl) h2 (by rw [hp]; exact hm) (by rw [hp]; exact he), hp] at hdo
    exact ⟨_, _, hdo, rfl, Dev.port_setPort_same .., rfl, rfl, rfl, (if_pos he).symm⟩
  · rw [Dev.relane_announces (l := l) (by rw [hp]; exact hl) h2 (by rw [hp]; exact hm) (by rw [hp]; exact he), hp] at hdo
    obtain ⟨w, r, hann⟩ := Port.announce_waits { d.port p with badRx := clearLane (d.port p).badRx lane, badTx := tx } l h4
    rw [hann] at hdo
    exact ⟨_, _, hdo, rfl, Dev.port_setPort_same .., rfl, rfl, rfl, (if_neg he).symm⟩

/-- A port that trained comes UP with empty buffers and counts of zero. -/
theorem Dev.bringUp_ups {tl rl : Nat} {t r : List Nat} (hst : (d.port p).st ≤ 1) (hfe : (d.port p).fenced = false) (hq : d.quadOn (edgeQuadrant (0x140 + p)) = true)
    (hen : portEnable (d.port p) = true) (ht : t = lanesFor (d.port p) (31 - tl % 32)) (hr : r = lanesFor (d.port p) (31 - rl % 32)) (hmt : portMin (d.port p) ≤ t.length)
    (hmr : portMin (d.port p) ≤ r.length) :
    d.bringUp p tl rl = d.setPort p { d.port p with
      st := 2, txLanes := t, rxLanes := r, txW := t.length, rxW := r.length, badTx := 31 - tl % 32, badRx := 31 - rl % 32, newMap := none, rxMap := none
      lanes := [], inb := [], dep := [], cS := [], cF := [], cR := [], cG := [], rot := 0, turn := 0, rxCw := [], rxCount := 0, rxBytes := [], rxSync := true
      tx := [], txRest := [], txCw := 0 } := by
  subst ht hr
  unfold Dev.bringUp
  exact if_neg (by simp [hfe, hq, hen]; omega)

theorem doPortUp_tells {tl rl : Nat} {y : Port} (hst : (d.port p).st ≤ 1) (hy : d.bringUp p tl rl = d.setPort p y) (h2 : y.st = 2) :
    doPortUp d p tl rl = (d.setPort p y).tellPort p 2 (min y.txW y.rxW) := by
  simp only [doPortUp, hy, Dev.port_setPort_same]
  rw [if_neg (by omega)]

end

/-- Settles O28. -/
theorem portRowsMovePacketsAndLanes : Obligations.PortRowsMovePacketsAndLanes := by
  unfold Obligations.PortRowsMovePacketsAndLanes
  intro s p d x k
  refine ⟨fun f rest cl ha hb he hadm hc => ?_, fun f rest ha hb he hadm => ?_, fun q fr hst hq hfr => ?_, fun hst => ?_, fun fr hst hfr => ?_,
    fun lane hst hbad h2 hm => ?_, fun l n hl => ?_, fun lane tx l hst htx hl h2 hm h4 => ?_, fun hst => ?_, fun tl rl t r hst hfe hq hen ht hr hmt hmr => ?_⟩
  · have hk : k + 1 ≠ k := by omega
    have hdo := doEdgePortAccept_one (Dev.portAccept_takes (pl := .a) ha he hadm hc) hb
      ((Dev.setPort_edge ..).trans (Dev.edge_setEdge_other _ _ _ _ (by exact hk)))
    refine ⟨_, congrArg s.next hdo, rfl, ?_, ?_, ?_, rfl⟩ <;> dsimp only
    · rw [Dev.setPort_edge]
      exact congrArg Edge.arr (Dev.edge_setEdge_same d k _)
    · rw [Dev.setPort_edge]
      exact (congrArg Edge.ret (Dev.edge_setEdge_same d k { d.edge k with arr := rest })).trans rfl
    · exact congrArg Port.dep (Dev.port_setPort_same ..)
  · have hk : k + 1 ≠ k := by omega
    have hdo := doEdgePortAccept_one (Dev.portAccept_returns (pl := .a) ha he hadm) hb (Dev.edge_setEdge_other _ _ _ _ (by exact hk))
    exact ⟨_, congrArg s.next hdo, rfl, congrArg Edge.arr (Dev.edge_setEdge_same d k _), congrArg Edge.ret (Dev.edge_setEdge_same d k _), rfl⟩
  · have hdo := doPortSend_sends hst hq
    refine ⟨_, congrArg s.next hdo, rfl, rfl, ?_⟩
    dsimp only
    rw [Dev.port_setPort_same, Port.emit, show d.port p = x from rfl, ← hfr]
    exact ⟨rfl, smGet_set_same .., congrArg (fun n => (n + 1) % 2 ^ 64) (Port.put_pkts (fr := fr)), rfl, rfl, Port.put_txCw (fr := fr)⟩
  · exact congrArg s.next (doPortSend_down hst)
  · have hbody : [0, 1, 2].flatMap (fun c => leBytes 1 (smGet 0 x.cS c)) ++ [0, 1, 2].flatMap (fun c => leBytes 1 (smGet 0 x.cG c)) =
        leBytes 1 (smGet 0 x.cS 0) ++ leBytes 1 (smGet 0 x.cS 1) ++ leBytes 1 (smGet 0 x.cS 2) ++ leBytes 1 (smGet 0 x.cG 0) ++
          leBytes 1 (smGet 0 x.cG 1) ++ leBytes 1 (smGet 0 x.cG 2) := by
      simp only [List.flatMap_cons, List.flatMap_nil, List.append_nil, List.append_assoc]
    have hdo : doCreditReportTimer d p = d.setPort p (x.put fr) := by
      rw [hfr, ← hbody]
      exact if_neg (by simp [x] at hst; simp [hst])
    refine ⟨_, congrArg s.next hdo, rfl, rfl, Dev.port_setPort_same .., fun hm hrest => ?_⟩
    dsimp only
    rw [Dev.port_setPort_same]
    exact Port.put_word hm hrest (by rw [hfr, smallFrame_length])
  · have hdo := Dev.laneFails_reports hst hbad h2 hm
    exact ⟨_, congrArg s.next hdo, rfl, Dev.port_setPort_same .., rfl, rfl⟩
  · have hdo : doLaneMapSwitch d p = d.setPort p { x with txLanes := l, txW := l.length, newMap := none } := by simp only [doLaneMapSwitch, show (d.port p).newMap = some (l, n) from hl]; rfl
    exact congrArg s.next hdo
  · obtain ⟨b, y, hdo, hb, hbp, htx', hrx, hlanes, hmap⟩ := doLaneRetrain_maps hst htx hl h2 hm h4
    exact ⟨_, congrArg s.next hdo, rfl, hb, hbp ▸ htx', hbp ▸ hrx, hbp ▸ hlanes, hbp ▸ hmap⟩
  · have hdo := Dev.portFails_up hst
    refine ⟨_, congrArg s.next hdo, rfl, ?_⟩
    dsimp only
    rw [Dev.raise_port, Dev.port_setPort_same]
    exact ⟨rfl, rfl, rfl, rfl, rfl, rfl, rfl⟩
  · have hdo := doPortUp_tells hst (Dev.bringUp_ups hst hfe hq hen ht hr hmt hmr) rfl
    rw [Dev.tellPort_eq] at hdo
    refine ⟨_, congrArg s.next hdo, rfl, ?_⟩
    dsimp only
    have hp (y : Port) (fm : FM) : Dev.port { d.setPort p y with fm := fm } p = y := Dev.port_setPort_same ..
    rw [hp]
    exact ⟨rfl, rfl, rfl, rfl, rfl, rfl, rfl, fun c => ⟨rfl, rfl, rfl, rfl⟩, rfl, rfl⟩

end Sys2Proof.Machine
end

section
/-! PROOFS. Collectives (08_collectives.md R249-R265): packets taken, contributions, results, tokens, releases, aborts, and the progress of chunks. -/

namespace Sys2Proof.Machine

/-! ## Packets that leave and packets taken -/

/-- A packet over links changes interfaces and edge nodes alone. -/
theorem Dev.overLinks_frame (d : Dev) (u path : Nat) (cls : Bool) (seq tries : Nat) (f : Flit) :
    d.overLinks u path cls seq tries f = { d with nis := (d.overLinks u path cls seq tries f).nis, mesh := (d.overLinks u path cls seq tries f).mesh } := by
  unfold Dev.overLinks
  extract_lets port g kind g1
  exact d.offer_frame ..

theorem Dev.toPort_frame (d : Dev) (u port : Nat) (up : Bool) (seq tries : Nat) (f : Flit) :
    d.toPort u port up seq tries f = { d with nis := (d.toPort u port up seq tries f).nis, mesh := (d.toPort u port up seq tries f).mesh } := d.overLinks_frame ..

theorem Dev.credit_eq (d : Dev) (u : Nat) (f : Flit) (n : Nat) : ∃ nis mesh, d.credit u f n = { d with nis := nis, mesh := mesh } := by
  unfold Dev.credit
  extract_lets base g
  split
  · exact ⟨_, _, d.overLinks_frame ..⟩
  · exact ⟨_, _, d.offer_frame ..⟩

@[simp] theorem Dev.credit_coll (d : Dev) (u : Nat) (f : Flit) (n : Nat) : (d.credit u f n).coll = d.coll := by
  obtain ⟨nis, mesh, h⟩ := d.credit_eq u f n
  rw [h]

@[simp] theorem Dev.credit_unit (d : Dev) (u : Nat) (f : Flit) (n v : Nat) : (d.credit u f n).unit v = d.unit v := Dev.unit_of_coll (d.credit_coll u f n) v

@[simp] theorem Dev.credit_curds (d : Dev) (u : Nat) (f : Flit) (n : Nat) : (d.credit u f n).curds = d.curds := by
  obtain ⟨nis, mesh, h⟩ := d.credit_eq u f n
  rw [h]

@[simp] theorem Dev.credit_vatIndex (d : Dev) (u : Nat) (f : Flit) (n ctx v : Nat) : (d.credit u f n).vatIndex ctx v = d.vatIndex ctx v := by
  obtain ⟨nis, mesh, h⟩ := d.credit_eq u f n
  rw [h]
  rfl

@[simp] theorem Dev.countColl_unit (d : Dev) (u v : Nat) : (d.countColl u).unit v = d.unit v := by
  unfold Dev.countColl
  split <;> rfl

/-- A packet taken leaves every curd as it was. -/
theorem Dev.takeColl_curds {d a : Dev} {u typ kind : Nat} {r : Flit × List Byte × Nat} (h : d.takeColl u typ kind = some (a, some r)) : a.curds = d.curds := by
  have hbox (l : List Flit) : (d.setCollBox u typ l).curds = d.curds := by
    unfold Dev.setCollBox
    split
    · split <;> rfl
    · rfl
  simp only [Dev.takeColl] at h
  split at h
  · cases h
  · split at h
    · cases h
    · split at h
      · cases h
        exact hbox _
      · cases h

/-! ## Contributions (R253, R256) -/

section
variable {d a : Dev} {u n slot h : Nat} {f : Flit} {bs : List Byte} {ws : List Word32} {sl s1 : CollSlot} {k : CollKind}

/-- A slot that is not complete does not move. -/
theorem Dev.slotStep_incomplete (hc : sl.complete = false) : d.slotStep u slot sl = d := by
  unfold Dev.slotStep
  extract_lets e upd
  cases hk : d.kindOf sl.tree (posSeq sl.pos) with
  | none => rfl
  | some k =>
    dsimp only
    rw [if_pos]
    simp [CollSlot.settle, hc]

theorem Dev.slotSteps_incomplete (hs : ∀ s ∈ (d.unit u).slots, s.complete = false) : d.slotSteps u h slot = d := by
  unfold Dev.slotSteps
  have : ∀ l : List CollSlot, (∀ s ∈ l, s.complete = false) → l.foldl (fun d s => d.slotStep u slot s) d = d := by
    intro l hl
    induction l with
    | nil => rfl
    | cons s l ih =>
      rw [List.foldl_cons, Dev.slotStep_incomplete (hl s List.mem_cons_self)]
      exact ih (fun t ht => hl t (List.mem_cons_of_mem _ ht))
  exact this _ (fun s hs' => hs s (List.mem_filter.1 hs').1)

/-- Where the unit's one slot is still waiting after a contribution, the contribution is counted and credited and nothing moves. -/
theorem Dev.upInto_waits (hs : s1.complete = false)
    (hx : a.upInto u f n ws = (((a.setUnit u { a.unit u with slots := [s1] }).countColl u).credit u f n).slotSteps u h slot) :
    a.upInto u f n ws = ((a.setUnit u { a.unit u with slots := [s1] }).countColl u).credit u f n := by
  rw [hx, Dev.slotSteps_incomplete]
  intro s hmem
  rw [Dev.credit_unit, Dev.countColl_unit, Dev.unit_setUnit_same] at hmem
  rw [List.mem_singleton.1 hmem]
  exact hs

/-- The first contribution to a position. -/
theorem Dev.upInto_first (hr : f.reduce = true) (he : 1 < a.collExpect u (collEntry f) f.ctx.toNat) (hx : (a.unit u).slots = []) :
    a.upInto u f n ws = ((a.setUnit u { a.unit u with slots := [{ CollSlot.fresh (collEntry f) (a.collPosOf f) (a.collExpect u (collEntry f) f.ctx.toNat) with
        data := ws
        got := [a.collFrom f] }] }).countColl u).credit u f n := by
  refine Dev.upInto_waits (h := collEntry f / 16) (slot := flitSlot f) rfl ?_
  simp [Dev.upInto, hx, hr, CollSlot.take, CollSlot.fresh, Nat.not_le.2 he]

/-- A further one, combined in arrival order. -/
theorem Dev.upInto_next (hx : (a.unit u).slots = [sl]) (ht : sl.tree = collEntry f) (hp : sl.pos = a.collPosOf f) (hd : sl.data ≠ []) (hm : sl.more = [])
    (hg : sl.got.length + 1 < sl.expect) (hk : a.kindOf (collEntry f) (posSeq (a.collPosOf f)) = some k) :
    a.upInto u f n ws = ((a.setUnit u { a.unit u with slots := [{ sl with
        data := combineChunk k sl.data ws
        more := []
        got := sl.got ++ [a.collFrom f]
        complete := false }] }).countColl u).credit u f n := by
  refine Dev.upInto_waits (h := collEntry f / 16) (slot := flitSlot f) rfl ?_
  simp [Dev.upInto, hx, ht, hp, CollSlot.take, CollSlot.settle, hd, hm, hk, Nat.not_le.2 hg]

end

/-! ## Results and releases (R250, R254-R256) -/

section
variable {d a : Dev} {u n ctx : Nat} {f : Flit} {bs : List Byte} {sl : CollSlot} {o : CollOp} {w : Dev}

theorem Dev.downAtEngine_first (hg : a.posGone u (collEntry f) (a.collPosOf f) = false)
    (hs : ((a.credit u f n).unit u).slots.find? (fun t => t.tree == collEntry f && t.pos == a.collPosOf f) = some sl) (hd : sl.downSent = false) :
    a.downAtEngine u f bs n = ((a.credit u f n).setUnit u { (a.credit u f n).unit u with
      slots := ((a.credit u f n).unit u).slots.map (fun t =>
        if t.tree = collEntry f ∧ t.pos = a.collPosOf f then { sl with downSent := true, upCred := sl.upCred || !sl.upSent } else t) }).sendDown u (collEntry f)
          (flitSlot f) (a.collPosOf f) (words bs) := by
  simp only [Dev.downAtEngine, hg, hs, hd]
  rfl

/-- The operation an equality test on context and sequence finds has them. -/
theorem find_op_key {l : List CollOp} {ctx seq : Nat} (h : l.find? (fun o => o.ctx == ctx && o.numbered && o.seq == seq) = some o) :
    o.ctx = ctx ∧ o.numbered = true ∧ o.seq = seq := by
  have := List.find?_some h
  simp only [Bool.and_eq_true, beq_iff_eq] at this
  exact ⟨this.1.1, this.1.2, this.2⟩

theorem Dev.collAdvance_waits (hf : o.failing = false) (hr : o.release = none) : a.collAdvance u o = a := by
  simp [Dev.collAdvance, hf, hr]

/-- A result of a rank-scope collective is written at its chunk's vat. -/
theorem Dev.writeResult_rank {node g : Nat} {ws : List Word32} (hc : o.d.cores = false) (hf : o.failing = false) (hr : o.release = none) (h0 : o.code = 0)
    (hw : a.rankWrite o.ctx (gaOff o.d.dst + ((if o.d.op = 3 then g / max 1 (chunksIn o.d.count) else 0) * o.d.count + 32 * (g % max 1 (chunksIn o.d.count))) * o.d.esz)
      (elemsOut o.d (ws.take (o.d.chunkLen (g % max 1 (chunksIn o.d.count))))) = (w, 0)) :
    a.writeResult u node o g ws = (w.setOp u { o with wrote := o.wrote ++ [64 * g + a.vatIndex o.ctx node], dirty := true }).ruCount node := by
  have hcode : (if o.code = 0 then 0 else o.code) = o.code := by rw [h0]; rfl
  unfold Dev.writeResult
  extract_lets i per c q off bs' w' o1
  have hw' : w' = (w, 0) := by
    show (if o.d.cores then _ else _) = (w, 0)
    rw [hc]
    exact hw
  have ho1 : o1 = { o with wrote := o.wrote ++ [64 * g + a.vatIndex o.ctx node], dirty := true } := by
    show CollOp.mk .. = _
    rw [hw', hcode]
  rw [ho1, hw']
  exact Dev.collAdvance_waits hf hr

theorem Dev.downAtVat_writes {g : Nat} (hctx : a.ctxOf u = some ctx) (hs : ctx % 16 = flitSlot f) (hh : a.sliceHead ctx = f.ctx.toNat / 16) (hg : g = collChunk f)
    (ho : (a.unit (a.rankUnit ctx)).ops.find? (fun o => o.ctx == ctx && o.numbered && o.seq == a.collSeqOf f) = some o) (hc : o.d.cores = false)
    (hv : g % max 1 (chunksIn o.d.count) % max 1 (a.partNodes (ctx / 16)).length = a.vatIndex ctx u) (hf : o.failing = false)
    (hn : o.wrote.contains (64 * g + a.vatIndex ctx u) = false) :
    a.downAtVat u f bs n = (a.credit u f n).writeResult (a.rankUnit ctx) u o g (words bs) := by
  subst hg
  simp only [Dev.downAtVat, hctx, ho, hc, hv, hf, hn]
  rw [if_neg (by simp [hs, hh])]
  simp

/-- A participant completes with the code of its collective. -/
theorem Dev.collEnd_one {q : CollPart} {code : Nat} (hp : o.parts = [q]) (hc : code ≠ 0) :
    (a.collEnd u o code).curds = (a.setCurd (curdKey q.node q.slot) { (a.curd (curdKey q.node q.slot)).complete q.k code with
      colls := (a.curd (curdKey q.node q.slot)).colls - 1 }).curds := by
  simp only [Dev.collEnd, hp, if_neg hc, List.foldl_cons, List.foldl_nil]
  rfl

@[simp] theorem Dev.setOp_curds : (a.setOp u o).curds = a.curds := rfl

/-- RELEASE with a failure code ends a collective at its rank. -/
theorem Dev.rankRelease_fails {seq code : Nat} (ho : (a.unit u).ops.find? (fun o => o.ctx == ctx && o.numbered && o.seq == seq) = some o) (hb : o.bar = 0) (har : o.arrived = true)
    (hf : o.failing = false) (hc : code ≠ 0) : a.rankRelease u seq 0 code ctx = (a.setOp u { o with release := some code }).collEnd u { o with release := some code } code := by
  simp only [Dev.rankRelease, ho]
  rw [if_neg (by simp [hb, har, hf])]
  simp only [if_true, if_neg (show ¬ (o.d.rows = true ∧ code = 0) from fun h => hc h.2), Dev.collAdvance, hf, if_pos hc]
  rfl

end

/-- Settles O29. -/
theorem collPacketRows : Obligations.CollPacketRows := by
  unfold Obligations.CollPacketRows
  intro s u a f bs n d tree pos x b
  refine ⟨fun ht hg hr he hx => ?_, fun sl k ht hg hx htree hpos hd hm hgot hlen hk => ?_, fun sl ht hs hgot => ?_, fun sl hu ht hg hs hd => ?_,
    fun ctx o g c w hu ht hctx hslot hhead hgc ho hcores hcd hv hf hrel hcode hwr hw => ?_, fun e ht hpr hroom htok he hexp => ?_,
    fun ctx o q hu ht hctx hbar ho hb har hf hcode hparts => ?_, fun hu ht => ?_⟩
  · have hdo : doCollUp d u = a.upInto u f n (words bs) := by
      simp only [doCollUp, ht, show a.posGone u (collEntry f) (a.collPosOf f) = false from hg, show (a.unit u).slots = [] from hx]
      rfl
    exact congrArg s.next (hdo.trans (Dev.upInto_first hr he hx))
  · have hdo : doCollUp d u = a.upInto u f n (words bs) := by
      have hfind : (a.unit u).slots.find? (fun s => s.tree == collEntry f && s.pos == a.collPosOf f) = some sl := by
        rw [show (a.unit u).slots = [sl] from hx]
        simp [htree, hpos, tree, pos]
      simp only [doCollUp, ht, show a.posGone u (collEntry f) (a.collPosOf f) = false from hg, hfind, hgot]
      rfl
    exact congrArg s.next (hdo.trans (Dev.upInto_next hx htree hpos hd hm hlen hk))
  · have hdo : doCollUp d u = (a.dupColl u).credit u f n := by
      simp only [doCollUp, ht, show (a.unit u).slots.find? (fun t => t.tree == collEntry f && t.pos == a.collPosOf f) = some sl from hs, hgot, Bool.or_true, if_true]
    exact congrArg s.next hdo
  · have hdo : doCollDown d u = a.downAtEngine u f bs n := by simp only [doCollDown, ht, if_neg (show ¬ u < 0x120 by omega)]
    exact congrArg s.next (hdo.trans (Dev.downAtEngine_first hg hs hd))
  · have hdo : doCollDown d u = (a.downAtVat u f bs n).checkDoneAt u := by simp only [doCollDown, ht, if_pos hu]
    subst hcd
    obtain ⟨rfl, -, -⟩ := find_op_key ho
    have hdown := Dev.downAtVat_writes (n := n) (bs := bs) hctx hslot hhead hgc ho hcores hv hf hwr
    rw [Dev.writeResult_rank hcores hf hrel hcode hw, Dev.credit_vatIndex] at hdown
    exact congrArg s.next (hdo.trans (congrArg (fun e : Dev => e.checkDoneAt u) hdown))
  · have hdo : doCollArrive d u = e := by
      simp only [doCollArrive, ht, show (a.unit u).pruned (collEntry f / 16) (a.collSeqOf f) = false from hpr,
        show ((a.unit u).prune (collEntry f / 16) (a.collSeqOf f)).tokRoom (collEntry f) (a.collSeqOf f) = true from hroom,
        show ((a.unit u).prune (collEntry f / 16) (a.collSeqOf f)).tok (collEntry f) (a.collSeqOf f) (collChunk f) = none from htok]
      have he' := he
      simp only [Option.getD_none, List.contains_nil, List.nil_append, Bool.and_false, Bool.or_false, Bool.false_or, Bool.not_true, Bool.false_eq_true, if_false]
      change (if Dev.collExpect _ _ _ _ ≤ _ ∧ _ then _ else _) = e
      rw [← he, if_neg]
      rintro ⟨h, -⟩
      exact absurd h (Nat.not_le.2 hexp)
    exact congrArg s.next hdo
  · have hdo : doCollRelease d u = (b.rankRelease (b.rankUnit ctx) (a.collSeqOf f) 0 (leAt bs 0 1) ctx).checkDone ctx := by
      simp only [doCollRelease, ht, if_pos hu, hbar]
      rw [show (a.credit u f n).ctxOf u = some ctx from hctx]
    rw [Dev.rankRelease_fails ho hb har hf hcode] at hdo
    have hcurds : (doCollRelease d u).curds = (d.setCurd (curdKey q.node q.slot) { (d.curd (curdKey q.node q.slot)).complete q.k (leAt bs 0 1) with
        colls := (d.curd (curdKey q.node q.slot)).colls - 1 }).curds := by
      have hb0 : (b.setOp (b.rankUnit ctx) { o with release := some (leAt bs 0 1) }).curds = d.curds := (a.credit_curds u f n).trans (Dev.takeColl_curds ht)
      rw [hdo, Dev.checkDone_curds, Dev.collEnd_one (o := { o with release := some (leAt bs 0 1) }) hparts hcode]
      simp only [Dev.setCurd, Dev.curd, hb0]
    refine ⟨_, rfl, rfl, ?_, fun i hi => ?_⟩
    · exact (congrArg (fun m => smGet Curd.init m (curdKey q.node q.slot)) hcurds).trans (Dev.curd_setCurd_same ..)
    · exact (congrArg (fun m => smGet Curd.init m i) hcurds).trans (Dev.curd_setCurd_other _ _ _ _ hi)
  · have hdo : doCollAbort d u = b.setUnit u { (b.unit u).discard (collEntry f / 16) (a.collSeqOf f) with
        toks := ((b.unit u).discard (collEntry f / 16) (a.collSeqOf f)).toks.filter (fun t => !(t.tree / 16 == collEntry f / 16 && t.seq == a.collSeqOf f))
        ops := ((b.unit u).discard (collEntry f / 16) (a.collSeqOf f)).ops.map (fun o =>
          if o.numbered ∧ o.seq = a.collSeqOf f ∧ b.sliceHead o.ctx = collEntry f / 16 then { o with failing := true } else o) } := by
      simp only [doCollAbort, ht, if_neg (show ¬ u < 0x120 by omega)]
      rfl
    refine ⟨_, congrArg s.next hdo, rfl, ?_⟩
    dsimp only
    rw [Dev.unit_setUnit_same]
    refine ⟨fun t h => ?_, fun t h => ?_, fun t h => ?_, rfl⟩
    all_goals
      obtain ⟨hmem, hne⟩ := List.mem_filter.1 h
      exact ⟨hmem, fun ⟨h1, h2⟩ => by simp [show t.tree / 16 = collEntry f / 16 from h1, h2] at hne⟩

/-! ## Chunks sent, writes of rows, credits and resends (R250, R252, R253, R258) -/

section
variable {d b : Dev} {node ctx u seq chunk : Nat} {o o1 : CollOp} {ws : List Word32}

/-- A chunk whose turn has come is read and sent up. -/
theorem doRuChunkRead_sendsUp (hctx : d.ctxOf node = some ctx)
    (ho : (d.unit (d.rankUnit ctx)).ops.find? (fun o => o.ctx == ctx && o.numbered && o.seq == seq) = some o) (hf : o.failing = false) (hm : d.collMembers o = o.parts.length)
    (hr : o.d.rows = false) (hc : o.d.cores = false) (hok : o.ok = true) (hmay : d.mayRead (d.rankUnit ctx) (d.vatIndex ctx node) o chunk = true)
    (hroom : d.collRoom (d.rankUnit ctx) node = true) (hread : d.readChunk node o chunk = (b, some ws)) :
    doRuChunkRead d node seq chunk = ((b.setOp (d.rankUnit ctx) { o with next := smSet 0 o.next (d.vatIndex ctx node) (chunk + 1), reads := o.reads + 1 }).ruCount node).sendUp
      (d.rankUnit ctx) node { o with next := smSet 0 o.next (d.vatIndex ctx node) (chunk + 1), reads := o.reads + 1 } chunk ws := by
  simp [doRuChunkRead, hctx, ho, hf, hm, hr, hc, hok, hmay, hroom, hread]

/-- An UP is remembered at its unit until credited. -/
theorem Dev.sendUp_sent (d : Dev) (u vat : Nat) (o : CollOp) (g : Nat) (ws : List Word32) :
    ∃ q ∈ ((d.sendUp u vat o g ws).unit u).sent, q.kind = kUp ∧ q.pos = posOf o.seq g ∧ q.dst = 100 ∧ q.tries = 0 ∧ q.flit.payload = lanesBytes (padChunk ws) := by
  simp only [Dev.sendUp, Dev.toEngine]
  rw [Dev.unit_of_coll (Dev.collSend_coll ..), Dev.unit_setUnit_same]
  exact ⟨_, List.mem_append_right _ (List.mem_singleton.2 rfl), rfl, rfl, rfl, rfl, rfl⟩

/-- The next write of a row under way, where its bytes are known. -/
theorem Dev.sendItem_lit {t n : Nat} {it : CollItem} {bs : List Byte} (htag : (d.ni node).freeTag otherTagBase 64 = some t) (hit : it = d.itemAt o) (hlit : it.lit = some bs)
    (hp : o.piece = 0) (hn : n = min it.len (128 - it.ga % 128)) (h0 : 0 < n) (hfirst : ¬ (o.d.op = 6 ∧ o.phase = 1)) :
    d.sendItem u node o = ((d.setOp u { o with
        item := if it.len ≤ n then o.item + 1 else o.item
        piece := if it.len ≤ n then 0 else n
        wrOut := o.wrOut + 1 }).submit node o.ctx t (.coll o.seq) (request tWr false n 0 (bs.take n)) it.ga collSrc 0).ruCount node := by
  subst hit
  have hn' : min ((d.itemAt o).len - o.piece) (128 - ((d.itemAt o).ga + o.piece) % 128) = n := by rw [hp, hn]; rfl
  simp only [Dev.sendItem, hn', if_neg hfirst, htag, hlit, if_neg (show n ≠ 0 by omega)]
  simp only [hp, Nat.zero_add, Nat.add_zero, List.drop_zero]

theorem Dev.submit_coll (d : Dev) (node ctx tag : Nat) (op : TagOp) (f : Flit) (ga src ord : Nat) : (d.submit node ctx tag op f ga src ord).coll = d.coll := by
  rw [Dev.submit_eq]
  rfl

theorem Dev.ruCount_ops (d : Dev) (node v : Nat) : ((d.ruCount node).unit v).ops = (d.unit v).ops := by
  unfold Dev.ruCount
  by_cases h : v = node
  · subst h
    rw [Dev.unit_setUnit_same]
  · rw [Dev.unit_setUnit_other _ _ _ _ h]

/-- Of the operations an update has reached, the one found is the updated one. -/
theorem Dev.setOp_find (hk : o1.ctx = ctx) (hn : o1.numbered = true) (hs : o1.seq = seq) {x : CollOp}
    (h : ((d.setOp u o1).unit u).ops.find? (fun o => o.ctx == ctx && o.numbered && o.seq == seq) = some x) : x = o1 := by
  obtain ⟨hxk, hxn, hxs⟩ := find_op_key h
  have hmem := List.mem_of_find?_eq_some h
  rw [Dev.setOp, Dev.unit_setUnit_same] at hmem
  obtain ⟨y, -, hy⟩ := List.mem_map.1 hmem
  split at hy
  · exact hy.symm
  · next hne =>
    subst hy
    exact absurd ⟨hxk.trans hk.symm, hxn.trans hn.symm, hxs.trans hs.symm⟩ hne

/-- A collective whose writes are outstanding does not move on. -/
theorem Dev.collAdvance_writing (hf : o.failing = false) (hr : o.release = some 0) (hrows : o.d.rows = true) (hw : o.wrOut ≠ 0) : d.collAdvance u o = d := by
  simp [Dev.collAdvance, hf, hr, hrows, hw]

theorem doRuChunkRead_writes (hctx : d.ctxOf node = some ctx)
    (ho : (d.unit (d.rankUnit ctx)).ops.find? (fun o => o.ctx == ctx && o.numbered && o.seq == seq) = some o) (hf : o.failing = false) (hm : d.collMembers o = o.parts.length)
    (hr : o.d.rows = true) (h1 : 1 ≤ o.phase) (h3 : o.phase ≤ 3) (ha : o.arrived = false) (hi : o.item = chunk) (hlt : chunk < d.itemCount o)
    (hgo : ∀ x, (((d.sendItem (d.rankUnit ctx) node o).unit (d.rankUnit ctx)).ops.find? (fun o => o.ctx == ctx && o.numbered && o.seq == seq)) = some x →
      (d.sendItem (d.rankUnit ctx) node o).collAdvance (d.rankUnit ctx) x = d.sendItem (d.rankUnit ctx) node o) :
    doRuChunkRead d node seq chunk = d.sendItem (d.rankUnit ctx) node o := by
  simp only [doRuChunkRead, hctx, ho, hf, hm, hr]
  rw [if_neg (by simp), if_pos trivial, if_pos ⟨h1, h3, ha, hi, by omega⟩]
  split
  · next x hx => exact hgo x hx
  · rfl

end

section
variable {d a : Dev} {u idx : Nat} {q : CollSent}

/-- A credit of a RELEASE ends the memory of the packet it answers, and opens nothing. -/
theorem doCollr_release {f : Flit} {bs : List Byte} {n : Nat} (hu : 0x120 ≤ u) (ht : d.takeColl u tCollr 0 = some (a, some (f, bs, n))) (hk : creditKind bs = kRelease)
    (hq : (a.unit u).sent.find? (fun e => e.tree == collEntry f && e.pos == a.collPosOf f && e.kind == creditKind bs && (e.dst == creditFrom u f || e.dst == 2000)) = some q) :
    doCollr d u = a.setUnit u { a.unit u with sent := (a.unit u).sent.erase q } := by
  have hno : ¬ u < 0x120 := by omega
  rw [hk] at hq
  simp only [doCollr, ht, if_neg hno, if_neg (show ¬ (u < 0x120 ∧ f.cmark = true) from fun h => hno h.1), hk, hq]
  simp [kRelease, kUp, kArrive, kDown]

theorem doCollResend_exhausted (hu : 0x140 ≤ u) (hq : (d.unit u).sent[idx]? = some q) (ht : collResends d ≤ q.tries) :
    doCollResend d u idx = d.raise (d.ctxMsg u 0x22 0 q.dst (some q.flit.ctx.toNat)) := by
  simp only [doCollResend, hq]
  rw [if_pos ht, if_pos hu]

/-- A packet not credited is sent again by its engine, and counted. -/
theorem doCollResend_again (hu : 0x140 ≤ u) (hq : (d.unit u).sent[idx]? = some q) (ht : q.tries < collResends d) :
    ∃ nis mesh, doCollResend d u idx = { (d.setUnit u { d.unit u with sent := setNth (d.unit u).sent idx { q with tries := q.tries + 1 } }).setPort (u - 0x140)
      { d.port (u - 0x140) with resends := hold16 ((d.port (u - 0x140)).resends + 1) } with nis := nis, mesh := mesh } := by
  simp only [doCollResend, hq]
  rw [if_neg (by omega), if_pos hu]
  split
  · exact ⟨_, _, Dev.toPort_frame ..⟩
  · split
    · exact ⟨_, _, Dev.overLinks_frame ..⟩
    · exact ⟨_, _, Dev.offer_frame ..⟩

end

/-- Settles O30. -/
theorem collProgressRows : Obligations.CollProgressRows := by
  unfold Obligations.CollProgressRows
  intro s node seq d
  refine ⟨fun ctx o chunk b ws hctx ho hf hm hr hc hok hmay hroom hread => ?_,
    fun ctx o chunk t it n bs hctx ho hf hm hr h1 h3 ha hrel hi hlt htag hit hlit hp hn h0 hfirst => ?_,
    fun u a f bs n q hu ht hk hq => congrArg s.next (doCollr_release hu ht hk hq), fun u idx q hu hq ht => ?_,
    fun u idx q hu hq ht => congrArg s.next (doCollResend_exhausted hu hq ht), rfl⟩
  · intro o1
    have hdo := doRuChunkRead_sendsUp hctx ho hf hm hr hc hok hmay hroom hread
    exact ⟨_, congrArg s.next hdo, rfl, rfl, Dev.sendUp_sent _ _ _ o1 chunk ws⟩
  · subst hi
    obtain ⟨rfl, hon, rfl⟩ := find_op_key ho
    have hsend := Dev.sendItem_lit (u := d.rankUnit o.ctx) htag hit hlit hp hn h0 hfirst
    have hdo := doRuChunkRead_writes hctx ho hf hm hr h1 h3 ha rfl hlt (fun x hx => by
      rw [hsend, Dev.ruCount_ops, Dev.unit_of_coll (Dev.submit_coll ..)] at hx
      have hxo := Dev.setOp_find (by exact rfl) (by exact hon) (by exact rfl) hx
      subst hxo
      exact Dev.collAdvance_writing hf hrel hr (Nat.succ_ne_zero _))
    exact congrArg s.next (hdo.trans hsend)
  · obtain ⟨nis, mesh, hdo⟩ := doCollResend_again hu hq ht
    refine ⟨_, congrArg s.next hdo, rfl, ?_, ?_, rfl⟩
    · exact congrArg CollUnit.sent (Dev.unit_setUnit_same d u _)
    · exact congrArg Port.resends (Dev.port_setPort_same d (u - 0x140) _)

end Sys2Proof.Machine
end
section
/-! PROOFS. External memory (10_memory.md R314-R325): lines, grants, scrubs, patrol, band moves, channels. -/

namespace Sys2Proof.Machine

/-! ## Lines (R314, R315, R325) -/

section
variable {d : Dev} {p off n la : Nat} {bs : List Byte} {ctx : Option Nat} {g : Granule} {conf mac : Bool}

theorem correctable_nil (conf : Bool) (failed : List Nat) : correctable conf failed [] = true := by
  unfold correctable
  split
  · rfl
  · split
    · rfl
    · split <;> rfl

/-- A line without marks is good. -/
theorem Dev.lineState_clean (he : smGet [] d.ext.lineErr la = []) (hf : smGet false d.ext.badFold la = false) (hm : smGet false d.ext.badMac la = false) :
    d.lineState la conf mac = .good := by
  simp [Dev.lineState, he, hf, hm, markedDevs, correctable_nil]

theorem Dev.checkLine_good (h : d.lineState la conf mac = .good) : d.checkLine la conf mac ctx = (d, true) := by simp only [Dev.checkLine, h]

theorem Dev.checkLine_uncorrectable (h : d.lineState la conf mac = .uncorrectable) (hr : autoRetire d.ext.cfg = false) :
    d.checkLine la conf mac ctx = ((d.setChan (lineChan la) { d.chan (lineChan la) with errU := hold16 ((d.chan (lineChan la)).errU + 1) }).raise
      (d.ctxMsg (0x120 + lineChan la) 0x41 0 la ctx), false) := by
  simp only [Dev.checkLine, h, hr]
  rfl

theorem Dev.extLineRead_served (hl : (d.part p).lineAt off = some (g, la)) (hs : d.lineServed g la = true) :
    d.extLineRead p off n ctx = ((d.checkLine la (d.part p).conf true ctx).1, if (d.checkLine la (d.part p).conf true ctx).2 then
      some (memRead (d.checkLine la (d.part p).conf true ctx).1.ext.mem (la * 128 + off % 128) n) else none) := by
  simp only [Dev.extLineRead, hl, hs]
  rfl

/-- A good line reads its bytes. -/
theorem Dev.extLineRead_good (hl : (d.part p).lineAt off = some (g, la)) (hs : d.lineServed g la = true) (hg : d.lineState la (d.part p).conf true = .good) :
    d.extLineRead p off n ctx = (d, some (memRead d.ext.mem (la * 128 + off % 128) n)) := by
  rw [Dev.extLineRead_served hl hs, Dev.checkLine_good hg]
  rfl

theorem Dev.extLineRead_unserved (hl : (d.part p).lineAt off = some (g, la)) (hs : d.lineServed g la = false) : d.extLineRead p off n ctx = (d, none) := by
  simp only [Dev.extLineRead, hl, hs]
  rfl

theorem Dev.extLineWrite_unserved (hl : (d.part p).lineAt off = some (g, la)) (hs : d.lineServed g la = false) : d.extLineWrite p off bs ctx = (d, false) := by
  simp only [Dev.extLineWrite, hl, hs]
  rfl

/-- External memory once a whole line is written. -/
def ExtMem.lineSet (x : ExtMem) (la : Nat) (bs : List Byte) : ExtMem :=
  { x with
    mem := memWrite x.mem (la * 128) bs
    lineErr := smSet [] x.lineErr la []
    badFold := smSet false x.badFold la false
    badMac := smSet false x.badMac la false }

theorem Dev.extLineWrite_whole (hl : (d.part p).lineAt off = some (g, la)) (hs : d.lineServed g la = true) (hb : bs.length = 128) :
    d.extLineWrite p off bs ctx = ({ d with ext := d.ext.lineSet la bs }, true) := by
  simp only [Dev.extLineWrite, hl, hs, hb]
  rfl

theorem Dev.extLineWrite_part (hl : (d.part p).lineAt off = some (g, la)) (hs : d.lineServed g la = true) (hb : bs.length ≠ 128) (hg : d.lineState la (d.part p).conf true = .good) :
    d.extLineWrite p off bs ctx = ({ d with ext := { d.ext with mem := memWrite d.ext.mem (la * 128 + off % 128) bs } }, true) := by
  simp only [Dev.extLineWrite, hl, hs, if_neg hb, Dev.checkLine_good hg]
  rfl

theorem Dev.extLineWrite_discards (hl : (d.part p).lineAt off = some (g, la)) (hs : d.lineServed g la = true) (hb : bs.length ≠ 128)
    (hc : (d.checkLine la (d.part p).conf true ctx).2 = false) : d.extLineWrite p off bs ctx = ((d.checkLine la (d.part p).conf true ctx).1, false) := by
  simp only [Dev.extLineWrite, hl, hs, if_neg hb, hc]
  rfl

end

/-- Settles O36. -/
theorem externalLinesHoldTheirBytes : Obligations.ExternalLinesHoldTheirBytes := by
  unfold Obligations.ExternalLinesHoldTheirBytes
  intro d p off bs ctx ctx2 g la hl w
  refine ⟨fun hs hb => ?_, fun hs hg hin hb => ?_, fun hs hu hr n => ?_, fun hs => ⟨Dev.extLineWrite_unserved hl hs, fun n => Dev.extLineRead_unserved hl hs⟩⟩
  · have hw : w = ({ d with ext := d.ext.lineSet la bs }, true) := Dev.extLineWrite_whole hl hs hb
    rw [hw]
    have hgood (conf mac : Bool) : Dev.lineState { d with ext := d.ext.lineSet la bs } la conf mac = .good :=
      Dev.lineState_clean (smGet_set_same [] d.ext.lineErr la []) (smGet_set_same false d.ext.badFold la false) (smGet_set_same false d.ext.badMac la false)
    refine ⟨rfl, hgood _ _, fun h0 => ?_, fun a ha => memGet_write_out _ _ _ _ (by omega)⟩
    dsimp only
    rw [Dev.extLineRead_good (d := { d with ext := d.ext.lineSet la bs }) hl hs (hgood _ _), h0, ← hb]
    exact congrArg some (hb.symm ▸ memRead_write_same d.ext.mem (la * 128) bs)
  · have hw : w = ({ d with ext := { d.ext with mem := memWrite d.ext.mem (la * 128 + off % 128) bs } }, true) := Dev.extLineWrite_part hl hs (by omega) hg
    rw [hw]
    refine ⟨rfl, ?_, fun a ha => memGet_write_out _ _ _ _ (by omega)⟩
    dsimp only
    rw [Dev.extLineRead_good (d := { d with ext := { d.ext with mem := memWrite d.ext.mem (la * 128 + off % 128) bs } }) hl hs hg]
    exact congrArg some (memRead_write_same ..)
  · have hck := Dev.checkLine_uncorrectable (ctx := ctx) hu hr
    rw [Dev.extLineRead_served hl hs, hck]
    dsimp only
    refine ⟨rfl, ?_, ?_, fun hb => ?_⟩
    · simp [Dev.chan_setChan_same]
    · have hmsg : (d.ctxMsg (0x120 + lineChan la) 0x41 0 la ctx).src = 0x120 + lineChan la := by cases ctx <;> rfl
      rw [Dev.raise, hmsg]
      exact smGet_set_same Stop.init d.flt.stops (0x120 + lineChan la) _
    · have hw : w = ((d.checkLine la (d.part p).conf true ctx).1, false) := Dev.extLineWrite_discards hl hs hb (by rw [hck])
      rw [hw, hck]
      exact ⟨rfl, rfl, rfl⟩

/-! ## Fills (R318-R320) -/

/-- Entries left out read as the default; the others stay. -/
theorem smGet_filter {α : Type} (z : α) (m : SMap α) (p : Nat → Bool) (i : Nat) : smGet z (m.filter (fun e => !p e.1)) i = if p i then z else smGet z m i := by
  induction m with
  | nil => simp
  | cons e m ih =>
    obtain ⟨k, v⟩ := e
    by_cases hk : k = i
    · subst hk
      by_cases hp : p k = true
      · rw [List.filter_cons_of_neg (by simp [hp]), ih, if_pos hp, if_pos hp]
      · rw [List.filter_cons_of_pos (by simp [hp]), if_neg hp]
        simp [smGet]
    · by_cases hp : p k = true
      · rw [List.filter_cons_of_neg (by simp [hp]), ih]
        simp [smGet, hk]
      · rw [List.filter_cons_of_pos (by simp [hp])]
        simp [smGet, hk, ih]

theorem ExtMem.fill_mem (x : ExtMem) (zero : Nat → Bool) (a : Nat) : smGet 0 (x.fill zero).mem a = if zero (a / 128) then 0 else smGet 0 x.mem a :=
  smGet_filter 0 x.mem (fun k => zero (k / 128)) a

section
variable {d : Dev} {p c f k ctx seg fl base pages pg : Nat} {rest : List Grant} {found : List (Nat × Nat)} {m : BandMove}

/-! ## Grants and scrubs (R317, R319, R320) -/

theorem doGrantFillDone_waits (h : (d.part p).grants = [] ∨ d.brineFree p 2 = false) : doGrantFillDone d p = d := by
  unfold doGrantFillDone
  extract_lets q
  split
  · rfl
  · next g r hg =>
    rcases h with h | h
    · exact absurd (hg.symm.trans h) (by simp)
    · rw [if_pos (by simp [h])]

theorem doGrantFillDone_map (hg : (d.part p).grants = .memMap f k ctx seg fl base pages pg :: rest) (hb : d.brineFree p 2 = true) :
    doGrantFillDone d p = (d.setPart p { d.part p with grants := rest }).endMap f k ctx seg fl base pages pg := by
  simp only [doGrantFillDone, hg, hb]
  rfl

theorem doGrantFillDone_create (hg : (d.part p).grants = .ctxCreate f k ctx :: rest) (hb : d.brineFree p 2 = true) :
    doGrantFillDone d p = (d.setPart p { d.part p with grants := rest }).endCreate f k ctx := by
  simp only [doGrantFillDone, hg, hb]
  rfl

theorem doScrubDone_waits (h : (d.part p).scrub = false ∨ d.brineFree p 3 = false) : doScrubDone d p = d := by
  rcases h with h | h <;> simp [doScrubDone, h]

theorem doScrubDone_ends (hs : (d.part p).scrub = true) (hb : d.brineFree p 3 = true) (h3 : (d.part p).st ≠ 3) :
    doScrubDone d p = (if (d.part p).destroying then ((d.fillGranules (d.part p).grans).setPart p { d.part p with scrub := false, st := 1 }).freePart p
      else (d.fillGranules (d.part p).grans).setPart p { d.part p with scrub := false, st := 1 }).event 4 (some p) := by
  simp [doScrubDone, hs, hb, h3]

/-! ## Patrol and band moves (R321, R324) -/

theorem doPatrolRead_idle (h : (d.brineJob c).1 ≠ 4) : doPatrolRead d c found = d := if_pos h

/-- A line with no error to show is passed. -/
theorem doPatrolRead_clean {e : Dev} (h : (d.brineJob c).1 = 4)
    (hg : d.lineState (patrolLine c (d.chan c).patrol) (d.confLine (patrolLine c (d.chan c).patrol)) false = .good)
    (he : e = { d with ext := { d.ext with
      lineErr := smSet [] d.ext.lineErr (patrolLine c (d.chan c).patrol) (smGet [] d.ext.lineErr (patrolLine c (d.chan c).patrol)) } }) :
    doPatrolRead d c [] = e.setChan c { d.chan c with
      patrol := if bandsOf (d.chan c).cap * 2 ^ 18 ≤ (d.chan c).patrol + 1 then 0 else (d.chan c).patrol + 1
      passes := if bandsOf (d.chan c).cap * 2 ^ 18 ≤ (d.chan c).patrol + 1 then hold16 ((d.chan c).passes + 1) else (d.chan c).passes } := by
  have hmarks : smGet [] e.ext.lineErr (patrolLine c (d.chan c).patrol) = smGet [] d.ext.lineErr (patrolLine c (d.chan c).patrol) := by
    rw [he]
    exact smGet_set_same [] d.ext.lineErr _ _
  have hgood : e.lineState (patrolLine c (d.chan c).patrol) (e.confLine (patrolLine c (d.chan c).patrol)) false = .good := by
    have : e.lineState (patrolLine c (d.chan c).patrol) (e.confLine (patrolLine c (d.chan c).patrol)) false =
        d.lineState (patrolLine c (d.chan c).patrol) (d.confLine (patrolLine c (d.chan c).patrol)) false := by
      unfold Dev.lineState
      rw [hmarks, he]
      rfl
    rw [this, hg]
  have hck := Dev.checkLine_good (ctx := none) hgood
  unfold doPatrolRead
  extract_lets x la src d1 d2 y last
  have h2 : d2 = e := by
    have h1 : d1 = e := he.symm
    show (d1.checkLine la (d1.confLine la) false none).1 = e
    rw [h1, hck]
  have hy : y = d.chan c := by
    show d2.chan c = _
    rw [h2, he]
    rfl
  rw [if_neg (by simp [h]), h2, hy]
  have hlast : (last = true) = (bandsOf (d.chan c).cap * 2 ^ 18 ≤ (d.chan c).patrol + 1) := decide_eq_true_eq
  simp only [hlast]
  rfl

theorem doBandMove_idle (h : (d.brineJob c).1 ≠ 6) : doBandMove d c = d := if_pos h

theorem doBandMove_starts {x : Nat × Nat} {more : List (Nat × Nat)} (h : (d.brineJob c).1 = 6) (hm : (d.chan c).move = none) (hs : (d.chan c).moves = x :: more) :
    doBandMove d c = d.setChan c { d.chan c with move := some { band := x.1, spare := x.2, cursor := 0 }, moves := more } := by
  simp [doBandMove, h, hm, hs]

theorem doBandMove_line (h : (d.brineJob c).1 = 6) (hm : (d.chan c).move = some m)
    (hg : d.lineState (lineAddr c m.band m.cursor) (d.confLine (lineAddr c m.band m.cursor)) false = .good) :
    doBandMove d c = if m.cursor + 1 < 2 ^ 18 then d.setChan c { d.chan c with move := some { m with cursor := m.cursor + 1 } }
      else d.setChan c { d.chan c with move := none, bandMap := smSet 0 (d.chan c).bandMap m.band (m.spare + 1) } := by
  simp only [doBandMove, h, hm, Dev.checkLine_good hg]
  rfl

/-! ## Channels (R325, 14_recovery.md R427) -/

theorem doMemTrainLost_trains (hst : (d.chan c).st = 1) (hr : (d.chan c).retraining = false) :
    doMemTrainLost d c = (d.chanUsers c).foldl (fun d k =>
      (d.caveAction (d.ctxMsg (0x120 + c) 0x49 0 0 (some k)) (d.inRind (d.ctxMsg (0x120 + c) 0x49 0 0 (some k))) 1 none 0).resetCtx k (newTear 0x49 false false false none))
        ((d.setChan c { d.chan c with retraining := true }).raise (plainMsg (0x120 + c) 0x49 0)) := by
  unfold doMemTrainLost
  extract_lets x d1
  rw [if_neg (by simp [x, hst, hr])]
  rfl

end

/-- Settles O37. -/
theorem memoryRows : Obligations.MemoryRows := by
  unfold Obligations.MemoryRows
  intro s p c f k ctx seg fl base pages pg rest found ok d q x t
  refine ⟨fun h => congrArg s.next (doGrantFillDone_waits h), fun hg hb => ?_, fun r hg hb hl hs => ?_, fun a => ?_, fun h => congrArg s.next (doScrubDone_waits h),
    fun hs hb hd h3 => ⟨?_, fun a => ExtMem.fill_mem ..⟩, fun hs hb hd h3 => ?_, fun h => congrArg s.next (doPatrolRead_idle h), fun h hg hf => ?_,
    fun h => congrArg s.next (doBandMove_idle h), fun m more h hm hs => congrArg s.next (doBandMove_starts h hm hs), fun m h hm hg => ⟨fun hlt => ?_, fun heq => ?_⟩,
    fun h => ⟨congrArg s.next (if_pos h), congrArg s.next (if_pos (.inl h))⟩, fun h => congrArg s.next (if_neg (fun hn => hn h)), fun hst hr hu => ?_, fun hst hr hu => ?_, fun h => ?_,
    fun h => ⟨?_, ?_⟩⟩
  · intro d1 d2
    have hdo := doGrantFillDone_map hg hb
    refine ⟨fun hl => ?_, fun hl hk => ?_, fun hl hk => ?_⟩
    · have hend : (d.setPart p { q with grants := rest }).endMap f k ctx seg fl base pages pg = (d.setPart p { q with grants := rest }).fail f k 0x05 8 :=
        if_pos (by rw [Dev.setPart_ctx, show (d.ctx ctx).live = false from hl]; rfl)
      exact congrArg s.next (hdo.trans hend)
    · have hend : (d.setPart p { q with grants := rest }).endMap f k ctx seg fl base pages pg = d2.respond f k 0 (leBytes 4 pg) := by
        unfold Dev.endMap
        extract_lets c0 g e1 r e2
        rw [if_neg (by rw [show c0.live = true from hl]; simp)]
        exact congrArg (fun e : Dev => e.respond f k 0 (leBytes 4 pg)) (if_neg (by show ¬ (bit fl 2 = true); rw [hk]; simp))
      exact congrArg s.next (hdo.trans hend)
    · have hend : (d.setPart p { q with grants := rest }).endMap f k ctx seg fl base pages pg =
          ({ d2 with ext := { d2.ext with keeps := d2.ext.keeps ++ [{ sliceId := t.sliceId, rank := t.rank, seg := seg, base := base, pages := pages, part := ctx / 16, page := pg }] } } : Dev).respond
            f k 0 (leBytes 4 pg) := by
        unfold Dev.endMap
        extract_lets c0 g e1 r e2
        rw [if_neg (by rw [show c0.live = true from hl]; simp)]
        exact congrArg (fun e : Dev => e.respond f k 0 (leBytes 4 pg)) (if_pos hk)
      exact congrArg s.next (hdo.trans hend)
  · intro y d1 d2 hy
    have hdo := doGrantFillDone_create hg hb
    have hend : d1.endCreate f k ctx = ({ d2 with lastGen := smSet 0 d2.lastGen ctx (sdGen y) } : Dev).respond f k 0 (leBytes 2 ctx ++ leBytes 2 (sdGen y)) := by
      unfold Dev.endCreate
      extract_lets c0 x0 r0 rank e1
      have hr : r0 = r := congrArg (fun o => o.getD (0, 0)) hs
      rw [if_neg (by rw [show c0.live = false from hl, show sdValid x0 = true from hy]; simp)]
      show ({ e1 with lastGen := smSet 0 e1.lastGen ctx (sdGen x0) } : Dev).respond f k 0 _ = _
      rw [show e1 = d2 from by show (d1.fillPages (ctx / 16) r0.1 r0.2).setCtx ctx _ = _; rw [hr]; rfl]
    exact congrArg s.next (hdo.trans hend)
  · refine (ExtMem.fill_mem ..).trans ?_
    cases q.offOf (a / 128) with
    | none => simp
    | some off => simp
  · have hdo := doScrubDone_ends hs hb h3
    rw [if_neg (by rw [show (d.part p).destroying = false from hd]; simp)] at hdo
    exact congrArg s.next hdo
  · have hdo := doScrubDone_ends hs hb h3
    rw [if_pos hd] at hdo
    exact congrArg s.next hdo
  · subst hf
    have hdo := doPatrolRead_clean h hg rfl
    exact ⟨_, congrArg s.next hdo, rfl, Dev.chan_setChan_same .., rfl, rfl⟩
  · exact congrArg s.next ((doBandMove_line h hm hg).trans (if_pos hlt))
  · exact congrArg s.next ((doBandMove_line h hm hg).trans (if_neg (by omega)))
  · have hdo := doMemTrainLost_trains hst hr
    rw [hu] at hdo
    exact congrArg s.next hdo
  · have hdo := doMemTrainLost_trains hst hr
    rw [hu] at hdo
    exact congrArg s.next hdo
  · exact congrArg s.next (if_pos (by rw [show (d.chan c).retraining = false from h]; rfl))
  · have hdo : doMemRetrainDone d c true = d.setChan c { x with retraining := false } := by simp [doMemRetrainDone, show (d.chan c).retraining = true from h, x]
    exact congrArg s.next hdo
  · have hdo : doMemRetrainDone d c false = d.loseChan c := by simp [doMemRetrainDone, show (d.chan c).retraining = true from h]
    exact congrArg s.next hdo

end Sys2Proof.Machine
end
section
/-! PROOFS. Mailboxes (11_host_mailboxes.md R337, R344-R356, 12_rennet.md R358, R360, R366): sends, receivers, doorbells, responses. -/

namespace Sys2Proof.Machine

/-! ## A channel read after a write -/

section
variable {d : Dev} {f k g j : Nat} {x : Mbx} {w : Word32}

@[simp] theorem Dev.mbx_setMbx_same (d : Dev) (f k : Nat) (x : Mbx) : (d.setMbx f k x).mbx f k = x := by
  rw [Dev.mbx, Dev.setMbx, Dev.func_setFunc_same]
  exact smGet_set_same ..

theorem Dev.mbx_setMbx_other (h : ¬ (g = f ∧ j = k)) : (d.setMbx f k x).mbx g j = d.mbx g j := by
  rw [Dev.mbx, Dev.setMbx]
  by_cases hg : g = f
  · subst hg
    rw [Dev.func_setFunc_same]
    exact smGet_set_other _ _ _ _ _ (fun hj => h ⟨rfl, hj⟩)
  · rw [Dev.func_setFunc_other _ _ _ _ hg]
    rfl

@[simp] theorem Dev.mbx_sendVector (d : Dev) (f v g j : Nat) : (d.sendVector f v).mbx g j = d.mbx g j := rfl

/-- A doorbell rises: its bits are pending, and a vector goes out where one was neither pending nor masked. -/
theorem Dev.doorbell_eq (d : Dev) (f k : Nat) (w : Word32) :
    d.doorbell f k w = { d.setMbx f k { d.mbx f k with pend := (d.mbx f k).pend ||| w } with
      host := { (d.setMbx f k { d.mbx f k with pend := (d.mbx f k).pend ||| w }).host with
        msixSent := d.host.msixSent ++ if w &&& ~~~(d.mbx f k).pend &&& ~~~(d.mbx f k).mask = 0 then [] else [(f, k)] } } := by
  unfold Dev.doorbell
  extract_lets m d1
  split
  · rw [List.append_nil]
    rfl
  · rfl

theorem Dev.mbx_doorbell_same (d : Dev) (f k : Nat) (w : Word32) : (d.doorbell f k w).mbx f k = { d.mbx f k with pend := (d.mbx f k).pend ||| w } := by
  rw [Dev.doorbell_eq]
  exact Dev.mbx_setMbx_same ..

theorem Dev.mbx_doorbell_other (h : ¬ (g = f ∧ j = k)) : (d.doorbell f k w).mbx g j = d.mbx g j := by
  rw [Dev.doorbell_eq]
  exact Dev.mbx_setMbx_other h

theorem Dev.doorbell_recvUp (d : Dev) (f k : Nat) (w : Word32) (sec : Bool) : (d.doorbell f k w).recvUp sec = d.recvUp sec := by
  rw [Dev.doorbell_eq]
  rfl

end

/-! ## Responses (R346, R351, R360) -/

/-- Bit 0 rises anew where it was clear and is not masked. -/
theorem one_rises (p m : Word32) : (1#32 &&& ~~~p &&& ~~~m = 0) ↔ (p.getLsbD 0 || m.getLsbD 0) = true := by
  constructor
  · intro h
    have h0 := congrArg (fun x : Word32 => x.getLsbD 0) h
    simpa [Bool.or_eq_true, Classical.or_iff_not_imp_left] using h0
  · intro h
    ext i hi
    by_cases h0 : i = 0
    · subst h0
      rcases Bool.or_eq_true .. ▸ h with h | h
      · simp [h, ← BitVec.getLsbD_eq_getElem]
      · simp [h, ← BitVec.getLsbD_eq_getElem]
    · simp [h0]

section
variable {d : Dev} {f key code flags : Nat} {payload : List Byte}

theorem Dev.respondFlag_gone (h : (d.mbx f key).st ≠ 2) : d.respondFlag f key code flags payload = d := if_neg h

theorem Dev.respondFlag_active (h : (d.mbx f key).st = 2) : d.respondFlag f key code flags payload =
    (d.setMbx f key { d.mbx f key with rsp := rspBytes (d.mbx f key).seq code flags payload, st := 3, begun := false }).doorbell f key 1 := if_pos h

end

/-- Settles O39. -/
theorem responsesReachTheirChannel : Obligations.ResponsesReachTheirChannel := by
  unfold Obligations.ResponsesReachTheirChannel
  intro d f key code flags payload m e
  refine ⟨fun h => Dev.respondFlag_gone h, fun h => ?_⟩
  have he : e = (d.setMbx f key { m with rsp := rspBytes m.seq code flags payload, st := 3, begun := false }).doorbell f key 1 := Dev.respondFlag_active h
  rw [he]
  refine ⟨?_, ?_, fun g j hgj => ?_, Dev.doorbell_frame .., ?_⟩
  · rw [Dev.mbx_doorbell_same, Dev.mbx_setMbx_same]
    rfl
  · rw [Dev.doorbell_eq, Dev.mbx_setMbx_same]
    exact congrArg (fun l => d.host.msixSent ++ l) (if_congr (one_rises m.pend m.mask) rfl rfl)
  · rw [Dev.mbx_doorbell_other hgj, Dev.mbx_setMbx_other hgj]
  · rw [Dev.doorbell_eq]
    rfl

/-! ## Command rows (R358-R360, R378) -/

section
variable {d : Dev} {f key op len : Nat} {pick : List Byte → Bool} {act : Dev → List Byte → Dev} {msg : List Byte}

theorem Dev.activeMsg_none (ho : (d.mbx f key).orphan = none) (h : (d.mbx f key).st ≠ 2 ∨ (d.mbx f key).begun = true ∨ leAt (d.mbx f key).msg 0 2 ≠ op) :
    d.activeMsg f key op = none := by
  simp only [Dev.activeMsg, ho]
  exact if_neg (fun ⟨hst, hb, hop⟩ => by rcases h with h | h | h <;> simp_all)

theorem Dev.activeMsg_active (ho : (d.mbx f key).orphan = none) (hst : (d.mbx f key).st = 2) (hb : (d.mbx f key).begun = false)
    (hop : leAt (d.mbx f key).msg 0 2 = op) : d.activeMsg f key op = some ((d.mbx f key).msg, (d.mbx f key).len, false) := by
  simp only [Dev.activeMsg, ho]
  exact if_pos ⟨hst, hb, hop⟩

theorem Dev.command_idle (h : d.activeMsg f key op = none) : d.command f key op pick act = d := by
  unfold Dev.command
  rw [h]

theorem Dev.command_other {o : Bool} (h : d.activeMsg f key op = some (msg, len, o)) (hp : pick msg = false) : d.command f key op pick act = d := by
  unfold Dev.command
  rw [h]
  exact if_pos (by rw [hp]; rfl)

/-- A message of the row's own: the state of the device answers, or the function, or the framing, or the row. -/
theorem Dev.command_picked (h : d.activeMsg f key op = some (msg, len, false)) (hp : pick msg = true) : d.command f key op pick act =
    match d.stateAnswer op with
    | some (code, arg) => d.refuseCmd f key code 0 0 arg
    | none => if physOnly op && f != 0 then d.fail f key rDenied 0 else
      match framing msg len with
      | some off => d.fail f key rInvalid off
      | none => act d msg := by
  unfold Dev.command
  rw [h]
  exact if_neg (by rw [hp]; decide)

theorem Dev.command_runs (h : d.activeMsg f key op = some (msg, len, false)) (hp : pick msg = true) (hs : d.stateAnswer op = none)
    (hph : (physOnly op && f != 0) = false) (hf : framing msg len = none) : d.command f key op pick act = act d msg := by
  rw [Dev.command_picked h hp, hs]
  exact (if_neg (by rw [hph]; decide)).trans (by rw [hf])

end

/-! ## Sends and doorbell writes (R337, R347-R349, R355, R356) -/

section
variable {d : Dev} {f chan key : Nat} {sec : Bool} {w mask : Word32}

theorem Dev.winWriting_quiet (h : ∀ x ∈ d.host.wins, x.func = f → x.job.isWrite = false ∧ x.job.isCtl = false) : d.winWriting f = false := by
  unfold Dev.winWriting
  rw [List.any_eq_false]
  intro x hx
  by_cases e : x.func = f
  · simp [(h x hx e).1]
  · simp [e]

theorem doMbxSend_stays (hg : sendGo w.toNat = false) : doMbxSend d f chan sec w = d := by simp [doMbxSend, hg]

theorem doMbxSend_refused {code : Nat} (hup : d.hostUp = true) (hs : sec = true → f = 0) (hg : sendGo w.toNat = true)
    (hc : sendCode sec (d.recvUp sec) (d.mbx f (mbxKey chan sec)) w.toNat = code) (h1 : code ≠ 0x01) :
    doMbxSend d f chan sec w = d.setMbx f (mbxKey chan sec) { d.mbx f (mbxKey chan sec) with ack := BitVec.ofNat 32 (sendSeq w.toNat + code * 2 ^ 16 + 2 ^ 31) } := by
  subst hc
  unfold doMbxSend
  rw [if_neg (by cases sec <;> simp [hg, hup]; exact hs rfl)]
  exact if_neg h1

theorem doMbxSend_accepted (hup : d.hostUp = true) (hs : sec = true → f = 0) (hg : sendGo w.toNat = true)
    (hc : sendCode sec (d.recvUp sec) (d.mbx f (mbxKey chan sec)) w.toNat = 0x01) :
    doMbxSend d f chan sec w = { d with host := { d.host with accepts := d.host.accepts + 1 } }.setMbx f (mbxKey chan sec) { d.mbx f (mbxKey chan sec) with
      ack := BitVec.ofNat 32 (sendSeq w.toNat + 0x01 * 2 ^ 16 + 2 ^ 31)
      st := 1
      msg := (d.mbx f (mbxKey chan sec)).request (sendLen w.toNat)
      seq := sendSeq w.toNat
      len := sendLen w.toNat
      accepted := d.host.accepts
      begun := false } := by
  unfold doMbxSend
  rw [if_neg (by cases sec <;> simp [hg, hup]; exact hs rfl)]
  extract_lets key m n code m1
  have h1 : code = 0x01 := hc
  rw [if_pos h1]
  simp only [m1, h1]
  rfl

/-- The first check of a send that fails, in the order of R349. -/
theorem sendCode_invalid {up : Bool} {m : Mbx} {n : Nat}
    (h : bits n 30 25 ≠ 0 ∨ sendLen n < 8 ∨ 256 < sendLen n ∨ leAt (m.request 256) 1 1 = 0 ∨ 0x0B < leAt (m.request 256) 1 1) : sendCode sec up m n = rInvalid := by
  unfold sendCode
  by_cases h1 : bits n 30 25 ≠ 0 ∨ sendLen n < 8 ∨ 256 < sendLen n
  · exact if_pos h1
  · rw [if_neg h1]
    refine if_pos ?_
    rcases h with h | h | h | h
    · exact absurd (.inl h) h1
    · exact absurd (.inr (.inl h)) h1
    · exact absurd (.inr (.inr h)) h1
    · exact h

/-- A send whose word and group are well formed is judged by its channel, then by its receiver. -/
theorem sendCode_formed {up : Bool} {m : Mbx} {n : Nat} (h0 : bits n 30 25 = 0) (h8 : 8 ≤ sendLen n) (hl : sendLen n ≤ 256) (h1 : 1 ≤ leAt (m.request 256) 1 1)
    (hB : leAt (m.request 256) 1 1 ≤ 0x0B) : sendCode sec up m n =
      if (leAt (m.request 256) 1 1 == 0x0A) != sec then rDenied else if !up then rBusy else if m.st = 1 ∨ m.st = 2 then rBusy else 0x01 := by
  unfold sendCode
  rw [if_neg (by omega), if_neg (by omega)]

/-- The channel is the group's own. -/
theorem group_fits {g : Nat} (h : (g = 0x0A) ↔ (sec = true)) : ((g == 0x0A) != sec) = false := by
  by_cases hA : g = 0x0A <;> cases sec <;> simp_all

/-- The channel is not the group's. -/
theorem group_strays {g : Nat} (h : (g = 0x0A) ≠ (sec = true)) : ((g == 0x0A) != sec) = true := by
  by_cases hA : g = 0x0A <;> cases sec <;> simp_all

theorem doDbPendClear_up (hup : d.hostUp = true) (set : Word32) : doDbPendClear d f chan sec mask set =
    (d.setMbx f (mbxKey chan sec) { d.mbx f (mbxKey chan sec) with pend := (d.mbx f (mbxKey chan sec)).pend &&& ~~~mask }).doorbell f (mbxKey chan sec) (set &&& pendBits) := by
  simp [doDbPendClear, hup]

theorem doDbMaskWrite_up (hup : d.hostUp = true) : doDbMaskWrite d f chan sec w =
    if (d.mbx f (mbxKey chan sec)).mask &&& ~~~(w &&& pendBits) &&& (d.mbx f (mbxKey chan sec)).pend = 0 then
      d.setMbx f (mbxKey chan sec) { d.mbx f (mbxKey chan sec) with mask := w &&& pendBits }
    else (d.setMbx f (mbxKey chan sec) { d.mbx f (mbxKey chan sec) with mask := w &&& pendBits }).sendVector f (mbxKey chan sec) := by
  simp [doDbMaskWrite, hup]

/-! ## Receivers (R351, R353, 12_rennet.md R358, R366) -/

theorem Dev.takeNotify_set {b : Nat} (hb : bit (d.mbx f chan).raise b = true) :
    d.takeNotify f chan b = d.setMbx f chan { d.mbx f chan with raise := (d.mbx f chan).raise - 2 ^ b } := by simp [Dev.takeNotify, hb]

theorem doCancel_idle (h : bit (d.mbx f chan).raise 1 = false ∨ d.host.recvUp = false) : doCancel d f chan = d := by
  rcases h with h | h <;> simp [doCancel, h]

theorem doCancel_takes (hup : d.host.recvUp = true) (hb : bit (d.mbx f chan).raise 1 = true) :
    doCancel d f chan = if (d.mbx f chan).st = 2 then (d.setMbx f chan { d.mbx f chan with raise := (d.mbx f chan).raise - 2 }).cancelled f chan
      else d.setMbx f chan { d.mbx f chan with raise := (d.mbx f chan).raise - 2 } := by
  unfold doCancel
  rw [if_neg (by simp [hb, hup]), Dev.takeNotify_set hb]
  show (if ((d.setMbx f chan _).mbx f chan).st = 2 then _ else _) = _
  rw [Dev.mbx_setMbx_same]
  rfl

/-- A cancel finds no list or read command. -/
theorem Dev.cancelled_other (h : leAt (d.mbx f key).msg 0 2 ∉ [0x0604, 0x0701, 0x0703, 0x0B01]) : d.cancelled f key = d := by
  unfold Dev.cancelled
  split <;> simp_all

theorem Dev.cancelled_flt (h : leAt (d.mbx f key).msg 0 2 = 0x0701) :
    d.cancelled f key = d.command f key 0x0701 anyMsg (fun d m => d.fltAnswer f key m 0) := by
  unfold Dev.cancelled
  rw [h]
  rfl

theorem Dev.cancelled_map {q : WaitReq} (h : leAt (d.mbx f key).msg 0 2 = 0x0604) (hq : d.fm.waiting.find? (fun w => w.chip.isNone && w.a == f && w.b == key) = some q) :
    d.cancelled f key = { d with fm := { d.fm with waiting := d.fm.waiting.filter (fun x => x != q) } }.respond f key rOk
      (d.fabricHead (if d.fm.role = 0 ∨ d.fm.role = 4 then 1 else 0) 0) := by
  unfold Dev.cancelled
  rw [h, hq]
  rfl

/-- Faults are listed in every state of the device. -/
theorem Dev.stateAnswer_flt (d : Dev) : d.stateAnswer 0x0701 = none := by
  simp [Dev.stateAnswer, show servedOut 0x0701 = true by decide, show servedEarly 0x0701 = true by decide]

theorem Dev.takeNotify_pend (d : Dev) (f chan b g j : Nat) : ((d.takeNotify f chan b).mbx g j).pend = (d.mbx g j).pend ∧
    ((d.takeNotify f chan b).mbx g j).mask = (d.mbx g j).mask := by
  unfold Dev.takeNotify
  by_cases h : g = f ∧ j = chan
  · obtain ⟨rfl, rfl⟩ := h
    rw [Dev.mbx_setMbx_same]
    exact ⟨rfl, rfl⟩
  · rw [Dev.mbx_setMbx_other h]
    exact ⟨rfl, rfl⟩

theorem Dev.setMbx_events (d : Dev) (f k : Nat) (x : Mbx) : ((d.setMbx f k x).func f).events = (d.func f).events := by
  rw [Dev.setMbx, Dev.func_setFunc_same]

theorem doResend_quiet (hup : d.host.recvUp = true) (hb : bit (d.mbx f chan).raise 0 = true) (hev : (d.func f).events = 0) :
    doResend d f chan = d.setMbx f chan { d.mbx f chan with raise := (d.mbx f chan).raise - 1 } := by
  unfold doResend
  rw [if_neg (by simp [hb, hup]), Dev.takeNotify_set hb]
  exact if_pos ((Dev.setMbx_events ..).trans hev)

/-- Events are held for the function: bit 1 of channel 0's doorbell rises again. -/
theorem doResend_rings (hup : d.host.recvUp = true) (hb : bit (d.mbx f chan).raise 0 = true) (hev : (d.func f).events ≠ 0) :
    ∃ m : Mbx, m = (d.takeNotify f chan 0).mbx f 0 ∧ doResend d f chan = if (d.mbx f 0).mask.getLsbD 1 then (d.takeNotify f chan 0).setMbx f 0 { m with pend := m.pend ||| 2 }
      else ((d.takeNotify f chan 0).setMbx f 0 { m with pend := m.pend ||| 2 }).sendVector f 0 := by
  refine ⟨_, rfl, ?_⟩
  unfold doResend
  rw [if_neg (by simp [hb, hup]), ← (Dev.takeNotify_pend d f chan 0 f 0).2]
  exact if_neg (fun h => hev ((Dev.setMbx_events ..).symm.trans h))

theorem doResend_idle (h : bit (d.mbx f chan).raise 0 = false ∨ d.host.recvUp = false) : doResend d f chan = d := by
  rcases h with h | h <;> simp [doResend, h]

theorem doMbxTake_idle (h : d.recvUp sec = false ∨ d.pwr.islandUp = false ∨ oldestMsg (d.queuedMsgs sec) = none) : doMbxTake d sec = d := by
  unfold doMbxTake
  split
  · rfl
  · next hn =>
    rcases h with h | h | h
    · exact absurd (by simp [h]) hn
    · exact absurd (by simp [h]) hn
    · rw [h]

theorem doMbxTake_takes (hup : d.recvUp sec = true) (hi : d.pwr.islandUp = true) (ho : oldestMsg (d.queuedMsgs sec) = some (f, key)) :
    doMbxTake d sec = if opDefined (leAt (d.mbx f key).msg 0 2) then d.setMbx f key { d.mbx f key with st := 2, begun := false }
      else match d.stateAnswer (leAt (d.mbx f key).msg 0 2) with
        | some (code, arg) => (d.setMbx f key { d.mbx f key with st := 2, begun := false }).refuseCmd f key code 0 0 arg
        | none => (d.setMbx f key { d.mbx f key with st := 2, begun := false }).fail f key rInvalid 0 := by
  unfold doMbxTake
  rw [if_neg (by simp [hup, hi]), ho]
  rfl

end

/-! ## Receiver resets (R353) -/

/-- One channel of a receiver that resets without its queue. -/
def Mbx.reset (m : Mbx) : Mbx := { m.aborted false with pend := (m.aborted false).pend ||| 0x80000000 }

/-- The update a receiver's reset makes at one channel. -/
def Dev.resetMbx (d : Dev) (e : Nat × Nat) : Dev := (d.setMbx e.1 e.2 ((d.mbx e.1 e.2).aborted false)).doorbell e.1 e.2 0x80000000

theorem Dev.resetMbx_same (d : Dev) (f k : Nat) : (d.resetMbx (f, k)).mbx f k = (d.mbx f k).reset := by
  rw [Dev.resetMbx, Dev.mbx_doorbell_same, Dev.mbx_setMbx_same]
  rfl

theorem Dev.resetMbx_other {d : Dev} {e : Nat × Nat} {g j : Nat} (h : (g, j) ≠ e) : (d.resetMbx e).mbx g j = d.mbx g j := by
  have hne : ¬ (g = e.1 ∧ j = e.2) := fun ⟨h1, h2⟩ => h (by rw [h1, h2])
  rw [Dev.resetMbx, Dev.mbx_doorbell_other hne, Dev.mbx_setMbx_other hne]

/-- Every channel listed is reset once. -/
theorem Dev.resetMbx_foldl {l : List (Nat × Nat)} (hl : l.Nodup) {d : Dev} {g j : Nat} (h : (g, j) ∈ l) : (l.foldl Dev.resetMbx d).mbx g j = (d.mbx g j).reset := by
  have hout : ∀ (l : List (Nat × Nat)) (d : Dev), (g, j) ∉ l → (l.foldl Dev.resetMbx d).mbx g j = d.mbx g j := by
    intro l
    induction l with
    | nil => exact fun _ _ => rfl
    | cons e l ih => exact fun d hn => (ih _ (fun hm => hn (List.mem_cons_of_mem _ hm))).trans (Dev.resetMbx_other (fun he => hn (he ▸ List.mem_cons_self)))
  induction l generalizing d with
  | nil => cases h
  | cons e l ih =>
    obtain ⟨hne, hnd⟩ := List.nodup_cons.1 hl
    rcases List.mem_cons.1 h with he | hm
    · subst he
      exact (hout l _ hne).trans (Dev.resetMbx_same ..)
    · exact (ih hnd hm).trans (congrArg Mbx.reset (Dev.resetMbx_other (fun he => hne (he ▸ hm))))

theorem Dev.resetMbx_recvUp (sec : Bool) (d : Dev) (e : Nat × Nat) : (d.resetMbx e).recvUp sec = d.recvUp sec := Dev.doorbell_recvUp ..

theorem Dev.resetMbx_foldl_recvUp (sec : Bool) (l : List (Nat × Nat)) (d : Dev) : (l.foldl Dev.resetMbx d).recvUp sec = d.recvUp sec :=
  foldl_field (fun d => d.recvUp sec) (Dev.resetMbx_recvUp sec) l d

theorem chanKeys_nodup (sec : Bool) (f : Nat) : (chanKeys sec f).Nodup := by
  unfold chanKeys
  split
  · split <;> decide
  · split <;> decide

/-- The channels of a receiver, function by function. -/
def Dev.recvChans (d : Dev) (sec : Bool) : List (Nat × Nat) := d.funcIds.flatMap (fun f => (chanKeys sec f).map (fun k => (f, k)))

theorem Dev.recvChans_nodup (d : Dev) (sec : Bool) : (d.recvChans sec).Nodup := by
  unfold Dev.recvChans
  refine List.nodup_flatMap.2 ⟨fun f _ => (chanKeys_nodup sec f).map (fun a b h => (Prod.mk.inj h).2), ?_⟩
  refine (List.nodup_range : d.funcIds.Nodup).imp (fun {a b} hab => ?_)
  intro e ha hb
  obtain ⟨k, -, rfl⟩ := List.mem_map.1 ha
  obtain ⟨k', -, hk⟩ := List.mem_map.1 hb
  exact hab (Prod.mk.inj hk).1.symm

theorem Dev.recvReset_eq (d : Dev) (sec : Bool) : ∃ e : Dev, d.recvReset sec false = (d.recvChans sec).foldl Dev.resetMbx e ∧ (∀ g j, e.mbx g j = d.mbx g j) ∧
    e.host.recvUp = (d.host.recvUp && sec) ∧ e.host.recvUpSec = (d.host.recvUpSec && !sec) := by
  refine ⟨{ d.forget (fun f k => (d.mbx f k).st == 2 && (8 ≤ k) == sec) with host := { (d.forget (fun f k => (d.mbx f k).st == 2 && (8 ≤ k) == sec)).host with
    recvUp := d.host.recvUp && (sec || false), recvUpSec := d.host.recvUpSec && (!sec || false) } }, ?_, fun g j => rfl, ?_, ?_⟩
  · rw [Dev.recvChans, List.foldl_flatMap]
    simp only [List.foldl_map]
    rfl
  · simp
  · simp

/-- After a receiver's reset: it is down, the other is as it was, and each of its channels is reset. -/
theorem Dev.recvReset_resets (d : Dev) (sec : Bool) : (d.recvReset sec false).recvUp sec = false ∧ (d.recvReset sec false).recvUp (!sec) = d.recvUp (!sec) ∧
    ∀ f ∈ d.funcIds, ∀ k ∈ chanKeys sec f, (d.recvReset sec false).mbx f k = (d.mbx f k).reset := by
  obtain ⟨e, he, hmbx, hup, hupSec⟩ := d.recvReset_eq sec
  have hfold (sec' : Bool) : (d.recvReset sec false).recvUp sec' = e.recvUp sec' := he ▸ Dev.resetMbx_foldl_recvUp sec' _ e
  refine ⟨?_, ?_, fun f hf k hk => ?_⟩
  · rw [hfold]
    cases sec
    · exact hup.trans (Bool.and_false _)
    · exact hupSec.trans (Bool.and_false _)
  · rw [hfold]
    cases sec
    · exact hupSec.trans (Bool.and_true _)
    · exact hup.trans (Bool.and_true _)
  · rw [he, Dev.resetMbx_foldl (d.recvChans_nodup sec) (List.mem_flatMap.2 ⟨f, hf, List.mem_map.2 ⟨k, hk, rfl⟩⟩), hmbx]

/-- What a receiver's reset leaves of a channel: ABORTED where a message was queued or taken. -/
theorem Mbx.reset_eq (m : Mbx) : m.reset = if m.st = 2 ∨ m.st = 1 then
      { m with orphan := none, begun := false, ack := BitVec.ofNat 32 (m.seq + 0x3F * 2 ^ 16 + 2 ^ 31), st := 0, pend := m.pend ||| 0x80000000 }
    else { m with orphan := none, begun := false, pend := m.pend ||| 0x80000000 } := by
  unfold Mbx.reset Mbx.aborted
  by_cases h : m.st = 2 ∨ m.st = 1
  · simp [h]
  · simp [h]

/-- Settles O38. -/
theorem mailboxRows : Obligations.MailboxRows := by
  unfold Obligations.MailboxRows
  intro s f chan key sec w mask set d k m n group len ack quiet queued block hup
  refine ⟨fun hw => ⟨?_, ?_, ?_⟩, fun hq hg => ?_, fun hq hs hg => ⟨fun code hc => ?_, fun h0 h8 hl h1 hB hsec hr hst1 hst2 => ?_⟩, fun now hq hnow => ?_, fun hq => ⟨fun h => ?_, fun h => ?_⟩,
    fun h => congrArg s.next (doResend_idle h), fun h => congrArg s.next (doCancel_idle h), fun hr hb h => ?_, fun hr hb hst => ?_, fun hr hb hev => ?_, fun hr hb hev => ?_,
    fun h => congrArg s.next (doMbxTake_idle h), fun hr hi ho => ?_, ?_⟩
  · exact congrArg s.next (d.ctlWrite_waits f _ 4 w.toNat _ hup hw)
  · show execDbPendClear f chan sec mask set s = _
    unfold execDbPendClear
    rw [if_pos (by rw [show s.dev.hostUp = true from hup, hw]; rfl), Dev.ctlWrite_waits _ f _ 4 _ _ hup hw]
    rfl
  · exact congrArg s.next (d.ctlWrite_waits f _ 4 w.toNat _ hup hw)
  · exact congrArg s.next ((d.ctlWrite_now f _ 4 w.toNat _ hq).trans (doMbxSend_stays hg))
  · refine congrArg s.next ((d.ctlWrite_now f _ 4 w.toNat _ hq).trans (doMbxSend_refused hup hs hg ?_ ?_))
    · rcases hc with ⟨rfl, h⟩ | ⟨rfl, h0, h8, hl, h1, hB, hx⟩ | ⟨rfl, h0, h8, hl, h1, hB, hx, hr⟩
      · exact sendCode_invalid h
      · exact (sendCode_formed h0 h8 hl h1 hB).trans (if_pos (group_strays hx))
      · refine (sendCode_formed h0 h8 hl h1 hB).trans ((if_neg (Bool.eq_false_iff.1 (group_fits hx))).trans ?_)
        rcases hr with hr | hst
        · exact if_pos (by rw [hr]; rfl)
        · by_cases hr : d.recvUp sec = true
          · exact (if_neg (by rw [hr]; decide)).trans (if_pos hst)
          · exact if_pos (by rw [eq_false_of_ne_true hr]; rfl)
    · rcases hc with ⟨rfl, -⟩ | ⟨rfl, -⟩ | ⟨rfl, -⟩ <;> decide
  · refine ⟨_, congrArg s.next ((d.ctlWrite_now f _ 4 w.toNat _ hq).trans (doMbxSend_accepted hup hs hg ?_)), rfl, ?_, rfl, fun g j hgj => ?_⟩
    · refine (sendCode_formed h0 h8 hl h1 hB).trans ((if_neg (Bool.eq_false_iff.1 (group_fits hsec))).trans ((if_neg (by rw [hr]; decide)).trans (if_neg ?_)))
      exact fun h => h.elim hst1 hst2
    · exact Dev.mbx_setMbx_same ..
    · exact Dev.mbx_setMbx_other hgj
  · subst hnow
    show execDbPendClear f chan sec mask set s = _
    unfold execDbPendClear
    rw [if_neg (by rw [d.winWriting_quiet hq]; simp), Dev.ctlRun_none _ _ (fun x hx e => (hq x hx e).2), doDbPendClear_up hup]
    rfl
  · exact congrArg s.next ((d.ctlWrite_now f _ 4 w.toNat _ hq).trans ((doDbMaskWrite_up hup).trans (if_pos h)))
  · exact congrArg s.next ((d.ctlWrite_now f _ 4 w.toNat _ hq).trans ((doDbMaskWrite_up hup).trans (if_neg h)))
  · refine congrArg s.next ((doCancel_takes hr hb).trans ?_)
    by_cases hst : (d.mbx f chan).st = 2
    · exact (if_pos hst).trans (Dev.cancelled_other (by rw [Dev.mbx_setMbx_same]; exact h.resolve_left (not_not.2 hst)))
    · exact if_neg hst
  · intro c d1
    have hc : d1.mbx f chan = { c with raise := c.raise - 2 } := Dev.mbx_setMbx_same ..
    have hx : exec (.cancel f chan) s = .next { s with dev := d1.cancelled f chan } := congrArg s.next ((doCancel_takes hr hb).trans (if_pos hst))
    refine ⟨hx, fun hop horph hbeg hfr => hx.trans (congrArg s.next ?_), fun q hop hq => hx.trans (congrArg s.next ?_)⟩
    · have ha : d1.activeMsg f chan 0x0701 = some (c.msg, c.len, false) := by
        have := Dev.activeMsg_active (d := d1) (f := f) (key := chan) (op := 0x0701) (by rw [hc]; exact horph) (by rw [hc]; exact hst) (by rw [hc]; exact hbeg) (by rw [hc]; exact hop)
        rwa [hc] at this
      rw [Dev.cancelled_flt (by rw [hc]; exact hop), Dev.command_runs ha rfl (Dev.stateAnswer_flt _) (by rw [show physOnly 0x0701 = false by decide]; rfl) hfr]
      rfl
    · exact Dev.cancelled_map (by rw [hc]; exact hop) hq
  · exact congrArg s.next (doResend_quiet hr hb hev)
  · obtain ⟨m0, hm0, he⟩ := doResend_rings (chan := chan) hr hb hev
    have hp : m0.pend = (d.mbx f 0).pend := hm0 ▸ (Dev.takeNotify_pend d f chan 0 f 0).1
    have hraise : (((d.takeNotify f chan 0).setMbx f 0 { m0 with pend := m0.pend ||| 2 }).mbx f chan).raise = (d.mbx f chan).raise - 1 := by
      have hn : ((d.takeNotify f chan 0).mbx f chan).raise = (d.mbx f chan).raise - 1 := by
        rw [Dev.takeNotify_set hb, Dev.mbx_setMbx_same]
        rfl
      by_cases h0 : chan = 0
      · subst h0
        rw [Dev.mbx_setMbx_same]
        exact hm0 ▸ hn
      · rw [Dev.mbx_setMbx_other (fun h => h0 h.2)]
        exact hn
    have hpend : (((d.takeNotify f chan 0).setMbx f 0 { m0 with pend := m0.pend ||| 2 }).mbx f 0).pend = (d.mbx f 0).pend ||| 2 := by
      rw [Dev.mbx_setMbx_same, ← hp]
    refine ⟨_, congrArg s.next he, rfl, ?_⟩
    cases hmask : (d.mbx f 0).mask.getLsbD 1 with
    | true => exact ⟨hpend, hraise, (List.append_nil _).symm⟩
    | false => exact ⟨hpend, hraise, rfl⟩
  · intro t op d1
    have hx := congrArg s.next (doMbxTake_takes hr hi ho)
    refine ⟨fun hop => hx.trans (congrArg s.next (if_pos hop)), fun hop hs => hx.trans (congrArg s.next ((if_neg (ne_true_of_eq_false hop)).trans ?_))⟩
    rw [hs]
    rfl
  · have hreset (d1 : Dev) (h1 : ∀ g j, d1.mbx g j = d.mbx g j) (h2 : d1.funcIds = d.funcIds) (h3 : ∀ b, d1.recvUp b = d.recvUp b) (hx : doReceiverReset d sec = d1.recvReset sec false) :
        Completes (.receiverReset sec) s (fun e => e.recvUp sec = false ∧ e.recvUp (!sec) = d.recvUp (!sec) ∧ ∀ g ∈ d.funcIds, ∀ j ∈ chanKeys sec g, e.mbx g j = (d.mbx g j).reset) := by
      obtain ⟨hdown, hother, hchan⟩ := d1.recvReset_resets sec
      exact ⟨_, congrArg s.next hx, rfl, hdown, hother.trans (h3 _), fun g hg j hj => (hchan g (h2 ▸ hg) j hj).trans (congrArg Mbx.reset (h1 g j))⟩
    simp only [Mbx.reset_eq] at hreset
    cases sec with
    | true => exact hreset d (fun _ _ => rfl) rfl (fun _ => rfl) rfl
    | false => exact hreset { d with rrc := { d.rrc with bothDown := true, selftest := none, standbyOk := false } } (fun _ _ => rfl) rfl (fun _ => rfl) rfl

end Sys2Proof.Machine
end

section
/-! PROOFS. The host (11_host_mailboxes.md R332, R335-R343): DMA engines and their lines, window requests, resets of functions. -/

namespace Sys2Proof.Machine

/-! ## Lines asked for at the device (R336, R340) -/

section
variable {d x : Dev} {e f j node lo cnt ctx gen off n t a m : Nat} {op : TagOp} {w : Option (List Byte)} {r : HdmaRun}

theorem Dev.offer_host (d : Dev) (node : Nat) (p : Plane) (q : Flit) : (d.offer node p q).host = d.host := by
  unfold Dev.offer
  split
  · cases p <;> rfl
  · rfl

/-- A line leaves the host's own state alone. -/
theorem Dev.hostLine_host {c : Nat} (h : d.hostLine node lo cnt ctx gen off n op w = some (x, c)) : x.host = d.host := by
  unfold Dev.hostLine at h
  split at h
  · cases h; rfl
  · split at h
    · cases h; rfl
    · split at h
      · cases h; rfl
      · split at h
        · cases h
        · cases h
          exact Dev.offer_host ..

theorem Dev.hostLine_unmapped (h : (d.ctx ctx).segAny off n = none) : d.hostLine node lo cnt ctx gen off n op w = some (d, 0x04) := by
  unfold Dev.hostLine
  rw [h]

/-- A line with a place, a controller in service and a free tag is sent. -/
theorem Dev.hostLine_sent (h : (d.ctx ctx).segAny off n = some a) (hm : d.mcOf (ctx / 16) a = some m) (hs : d.inService m = true)
    (ht : (d.ni node).freeTag lo cnt = some t) : ∃ x, d.hostLine node lo cnt ctx gen off n op w = some (x, 0) := by
  unfold Dev.hostLine
  rw [h]
  dsimp only
  rw [hm]
  dsimp only
  rw [if_neg (by rw [hs]; decide), ht]
  exact ⟨_, rfl⟩

/-! ## Engines -/

@[simp] theorem Dev.engine_setEngine_same (d : Dev) (e : Nat) (r : Option HdmaRun) : smGet none (d.setEngine e r).host.engines e = r := smGet_set_same ..

theorem Dev.engine_setEngine_other (h : j ≠ e) (r : Option HdmaRun) : smGet none (d.setEngine e r).host.engines j = smGet none d.host.engines j :=
  smGet_set_other _ _ _ _ _ h

/-- What asking for lines can do to the host's state: engines without a descriptor stay idle, functions change in their kept
failures only, and host memory stays. -/
def LinesAsked (d x : Dev) : Prop :=
  x.host.hostMem = d.host.hostMem ∧ (∀ j, smGet none d.host.engines j = none → smGet none x.host.engines j = none) ∧
    ∀ g, ∃ l, x.func g = { d.func g with hdmaFail := l }

theorem LinesAsked.refl (d : Dev) : LinesAsked d d := ⟨rfl, fun _ h => h, fun _ => ⟨_, rfl⟩⟩

theorem LinesAsked.trans {y : Dev} (h : LinesAsked d x) (h' : LinesAsked x y) : LinesAsked d y := by
  obtain ⟨hm, he, hf⟩ := h
  obtain ⟨hm', he', hf'⟩ := h'
  refine ⟨hm'.trans hm, fun j hj => he' j (he j hj), fun g => ?_⟩
  obtain ⟨l, hl⟩ := hf g
  obtain ⟨l', hl'⟩ := hf' g
  exact ⟨l', by rw [hl', hl]⟩

theorem LinesAsked.of_host (h : x.host = d.host) : LinesAsked d x :=
  ⟨congrArg _ h, fun j hj => by rw [h]; exact hj, fun g => ⟨(d.func g).hdmaFail, by rw [Dev.func, h]; rfl⟩⟩

/-- A busy engine's descriptor goes on. -/
theorem LinesAsked.setEngine (h : smGet none d.host.engines e ≠ none) (r : Option HdmaRun) : LinesAsked d (d.setEngine e r) := by
  refine ⟨rfl, fun j hj => ?_, fun g => ⟨_, rfl⟩⟩
  rw [Dev.engine_setEngine_other (fun he : j = e => h (he ▸ hj))]
  exact hj

theorem LinesAsked.setFail (d : Dev) (f : Nat) (l : List Nat) : LinesAsked d (d.setFunc f { d.func f with hdmaFail := l }) := by
  refine ⟨rfl, fun j hj => hj, fun g => ?_⟩
  by_cases hg : g = f
  · subst hg
    exact ⟨l, Dev.func_setFunc_same ..⟩
  · exact ⟨_, Dev.func_setFunc_other _ _ _ _ hg⟩

theorem LinesAsked.hdmaLost (h : smGet none d.host.engines e ≠ none) (r : HdmaRun) (c : Nat) : LinesAsked d (d.hdmaLost e r c) :=
  (LinesAsked.setEngine h _).trans (LinesAsked.setFail ..)

/-- An engine that may ask for no line leaves everything as it is. -/
theorem Dev.hdmaIssue_idle (h : ∀ r, smGet none d.host.engines e = some r → r.code ≠ 0 ∨ r.len ≤ r.next ∨ 96 ≤ r.out ∨ d.hdmaHeld r = true ∨ d.hostUp = false) :
    d.hdmaIssue e = d := by
  unfold Dev.hdmaIssue
  split
  · rfl
  · next r hr => exact if_pos (h r hr)

theorem Dev.hdmaFill_idle (h : ∀ r, smGet none d.host.engines e = some r → r.code ≠ 0 ∨ r.len ≤ r.next ∨ 96 ≤ r.out ∨ d.hdmaHeld r = true ∨ d.hostUp = false) :
    d.hdmaFill e = d :=
  foldl_keeps (fun x => x = d) _ (fun x hx _ _ => by rw [hx]; exact Dev.hdmaIssue_idle h) rfl

/-- A descriptor that may go on, its context alive: an ordered write reports a kept failure, or the next line is asked for. -/
theorem Dev.hdmaIssue_goes (hr : smGet none d.host.engines e = some r) (hc : r.code = 0) (hn : r.next < r.len) (ho : r.out < 96) (hh : d.hdmaHeld r = false)
    (hu : d.hostUp = true) (hd : d.hdmaDead r = false) : d.hdmaIssue e =
      if bit r.ctl 1 ∧ !bit r.ctl 0 ∧ r.next = 0 ∧ (d.func r.func).hdmaFail.contains r.ctxId then
        (d.setEngine e (some { r with code := 0x09 })).setFunc r.func { d.func r.func with hdmaFail := (d.func r.func).hdmaFail.erase r.ctxId }
      else
        let off := r.dev + r.next
        let n := min (r.len - r.next) (128 - off % 128)
        match d.hostLine (hostNode e) (96 * (e / 2)) 96 r.ctxId r.gen off n (.hdma e r.next n)
            (if bit r.ctl 0 then none else some (d.hostRead (r.host + r.next) n)) with
        | none => d
        | some (d1, code) =>
          if code = 0 then d1.setEngine e (some { r with next := r.next + n, out := r.out + 1 }) else d1.hdmaLost e r code := by
  unfold Dev.hdmaIssue
  rw [hr]
  exact (if_neg (by simp [hh, hu, hc]; omega)).trans (if_neg (by rw [hd]; decide))

theorem Dev.hdmaIssue_asks (d : Dev) (e : Nat) : LinesAsked d (d.hdmaIssue e) := by
  unfold Dev.hdmaIssue
  split
  · exact .refl d
  · next r hr =>
    have hbusy : smGet none d.host.engines e ≠ none := by rw [hr]; exact Option.some_ne_none r
    split
    · exact .refl d
    · split
      · exact .setEngine hbusy _
      · dsimp only
        split
        · exact (LinesAsked.setEngine hbusy _).trans (LinesAsked.setFail ..)
        · split
          · exact .refl d
          · next x c hx =>
            have hx := Dev.hostLine_host hx
            have hbusy' : smGet none x.host.engines e ≠ none := by rwa [hx]
            split
            · exact (LinesAsked.of_host hx).trans (.setEngine hbusy' _)
            · exact (LinesAsked.of_host hx).trans (.hdmaLost hbusy' _ _)

theorem Dev.hdmaFill_asks (d : Dev) (e : Nat) : LinesAsked d (d.hdmaFill e) :=
  foldl_keeps (fun x => LinesAsked d x) _ (fun x hx _ _ => hx.trans (x.hdmaIssue_asks e)) (.refl d)

theorem Dev.hdmaFillAll_asks (l : SMap (Option HdmaRun)) (d : Dev) : LinesAsked d (l.foldl (fun d q => d.hdmaFill q.1) d) := by
  induction l generalizing d with
  | nil => exact .refl d
  | cons q l ih =>
    rw [List.foldl_cons]
    exact (d.hdmaFill_asks q.1).trans (ih (d.hdmaFill q.1))

/-! ## Ends of descriptors (R340, R342) -/

theorem LinesAsked.mbx (h : LinesAsked d x) (g k : Nat) : x.mbx g k = d.mbx g k := by
  obtain ⟨-, -, hf⟩ := h
  obtain ⟨l, hl⟩ := hf g
  rw [Dev.mbx, hl]
  rfl

theorem LinesAsked.lastCode (h : LinesAsked d x) (g : Nat) : (x.func g).lastCode = (d.func g).lastCode := by
  obtain ⟨-, -, hf⟩ := h
  obtain ⟨l, hl⟩ := hf g
  rw [hl]

theorem Dev.setFunc_mbx (d : Dev) (f c g k : Nat) : (d.setFunc f { d.func f with lastCode := c }).mbx g k = d.mbx g k := by
  rw [Dev.mbx, Dev.mbx]
  by_cases hg : g = f
  · subst hg
    rw [Dev.func_setFunc_same]
  · rw [Dev.func_setFunc_other _ _ _ _ hg]

/-- A doorbell changes neither host memory nor an engine, and of a function its channels only. -/
theorem Dev.doorbell_host (d : Dev) (f k : Nat) (w : Word32) : (d.doorbell f k w).host.hostMem = d.host.hostMem ∧ (d.doorbell f k w).host.engines = d.host.engines ∧
    ((d.doorbell f k w).func f).lastCode = (d.func f).lastCode := by
  rw [Dev.doorbell_eq]
  refine ⟨rfl, rfl, ?_⟩
  show ((d.setMbx f k _).func f).lastCode = _
  rw [Dev.setMbx, Dev.func_setFunc_same]

/-- A descriptor's end leaves host memory with its status word, the engine idle, its queue's last code and its doorbell. -/
theorem Dev.hdmaEnd_ended (d : Dev) (e : Nat) (r : HdmaRun) (h13 : r.code = 0 → bit r.ctl 13 = false) :
    let x := d.hdmaEnd e r
    x.host.hostMem = memWrite d.host.hostMem (d.hdmaStatusAddr r) (leBytes 4 (r.code + 2 ^ 8)) ∧ smGet none x.host.engines e = none ∧
      (r.code ≠ 0 → (x.func r.func).lastCode = r.code) ∧ (bit r.ctl 2 = true → (x.mbx r.func 0).pend = (d.mbx r.func 0).pend ||| 2) := by
  obtain ⟨d4, hd4, hm4, he4, hl4, hb4⟩ : ∃ d4 : Dev, d4 = (if r.code = 0 then (d.setEngine e none).hostWrite (d.hdmaStatusAddr r) (leBytes 4 (r.code + 2 ^ 8))
      else ((d.setEngine e none).hostWrite (d.hdmaStatusAddr r) (leBytes 4 (r.code + 2 ^ 8))).setFunc r.func { d.func r.func with lastCode := r.code }) ∧
      d4.host.hostMem = memWrite d.host.hostMem (d.hdmaStatusAddr r) (leBytes 4 (r.code + 2 ^ 8)) ∧ smGet none d4.host.engines e = none ∧
      (r.code ≠ 0 → (d4.func r.func).lastCode = r.code) ∧ d4.mbx r.func 0 = d.mbx r.func 0 := by
    refine ⟨_, rfl, ?_⟩
    split
    · next h0 => exact ⟨rfl, Dev.engine_setEngine_same d e none, fun h => absurd h0 h, rfl⟩
    · exact ⟨rfl, Dev.engine_setEngine_same d e none, fun _ => by rw [Dev.func_setFunc_same], Dev.setFunc_mbx ..⟩
  obtain ⟨d5, hd5, hm5, he5, hl5, hb5⟩ : ∃ d5 : Dev, d5 = (if bit r.ctl 2 then d4.doorbell r.func 0 2 else d4) ∧
      d5.host.hostMem = d4.host.hostMem ∧ d5.host.engines = d4.host.engines ∧ (d5.func r.func).lastCode = (d4.func r.func).lastCode ∧
      (bit r.ctl 2 = true → (d5.mbx r.func 0).pend = (d4.mbx r.func 0).pend ||| 2) := by
    refine ⟨_, rfl, ?_⟩
    split
    · obtain ⟨h1, h2, h3⟩ := d4.doorbell_host r.func 0 2
      exact ⟨h1, h2, h3, fun _ => congrArg Mbx.pend (Dev.mbx_doorbell_same ..)⟩
    · next h2 => exact ⟨rfl, rfl, rfl, fun h => absurd h h2⟩
  have hx : d.hdmaEnd e r = d5.host.engines.foldl (fun d x => d.hdmaFill x.1) d5 := by
    have hsig : ¬ (decide (r.code = 0) && bit r.ctl 13) = true := by
      rw [Bool.and_eq_true, decide_eq_true_eq]
      exact fun ⟨h0, h⟩ => by rw [h13 h0] at h; cases h
    rw [hd5, hd4]
    unfold Dev.hdmaEnd
    simp only [if_neg hsig]
    rfl
  have hasked : LinesAsked d5 (d.hdmaEnd e r) := by
    rw [hx]
    exact Dev.hdmaFillAll_asks d5.host.engines d5
  obtain ⟨hmem, hidle, -⟩ := id hasked
  refine ⟨hmem.trans (hm5.trans hm4), hidle e (by rw [he5]; exact he4), fun h => (hasked.lastCode _).trans (hl5.trans (hl4 h)), fun h => ?_⟩
  rw [hasked.mbx, hb5 h, hb4]

theorem doHdmaComplete_idle (h : smGet none d.host.engines e = none) : doHdmaComplete d e = d := by
  unfold doHdmaComplete
  rw [h]

theorem doHdmaComplete_held (hr : smGet none d.host.engines e = some r) (h : d.hdmaHeld r = true) : doHdmaComplete d e = d := by
  unfold doHdmaComplete
  rw [hr]
  exact if_pos (by rw [h]; rfl)

/-- A descriptor that is not held: it ends, or its engine asks for lines. -/
theorem doHdmaComplete_goes (hr : smGet none d.host.engines e = some r) (hh : d.hdmaHeld r = false) (hu : d.hostUp = true) : doHdmaComplete d e =
    if (d.hdmaTorn e r).2.out = 0 ∧ ((d.hdmaTorn e r).2.code ≠ 0 ∨ r.len ≤ r.next) then (d.hdmaTorn e r).1.hdmaEnd e (d.hdmaTorn e r).2 else d.hdmaFill e := by
  unfold doHdmaComplete
  rw [hr]
  exact if_neg (by rw [hh, hu]; decide)

theorem Dev.hdmaTorn_dead (hc : r.code = 0) (hd : d.hdmaDead r = true) : d.hdmaTorn e r = (d.hdmaDrop e, { r with code := 0x3F, out := 0 }) :=
  if_pos (by rw [hc, hd]; rfl)

theorem Dev.hdmaTorn_kept (h : r.code = 0 → d.hdmaDead r = false) : d.hdmaTorn e r = (d, r) := by
  refine if_neg ?_
  rw [Bool.and_eq_true, decide_eq_true_eq]
  exact fun ⟨hc, hd⟩ => by rw [h hc] at hd; cases hd

/-- The context a descriptor was started with is gone, is another, or is being torn down. -/
theorem Dev.hdmaDead_iff : d.hdmaDead r = true ↔ (d.ctx r.ctxId).live = false ∨ (d.ctx r.ctxId).gen ≠ r.gen ∨ (d.ctx r.ctxId).tear ≠ none := by
  simp [Dev.hdmaDead, or_assoc, Option.isSome_iff_ne_none]

/-- A descriptor that ends well with a signal and no doorbell. -/
theorem Dev.hdmaEnd_signals (hc : r.code = 0) (h13 : bit r.ctl 13 = true) (h2 : bit r.ctl 2 = false) : d.hdmaEnd e r =
    (let e1 := ((d.setEngine e none).hostSignal r.ctxId (bits r.ctl 25 14) (bits r.ctl 29 26)).hostWrite (d.hdmaStatusAddr r) (leBytes 4 0x100)
     e1.host.engines.foldl (fun d q => d.hdmaFill q.1) e1) := by
  unfold Dev.hdmaEnd
  simp only [hc, h13, h2]
  rfl

/-! ## Lines of descriptors (R340, R342) -/

/-- A descriptor whose line lies in no segment fails, and the failure is kept for its context. -/
theorem Dev.hdmaLost_kept (d : Dev) (e : Nat) (r : HdmaRun) (c : Nat) : smGet none (d.hdmaLost e r c).host.engines e = some { r with code := c } ∧
    ((d.hdmaLost e r c).func r.func).hdmaFail.contains r.ctxId = true ∧ (d.hdmaLost e r c).host.hostMem = d.host.hostMem := by
  refine ⟨?_, ?_, rfl⟩
  · exact Dev.engine_setEngine_same d e (some { r with code := c })
  rw [Dev.hdmaLost, Dev.func_setFunc_same]
  dsimp only
  split
  · assumption
  · simp

section
variable (hr : smGet none d.host.engines e = some r) (hc : r.code = 0) (hn : r.next < r.len) (ho : r.out < 96) (hh : d.hdmaHeld r = false)
  (hu : d.hostUp = true) (hd : d.hdmaDead r = false) (hf : ¬ (bit r.ctl 1 ∧ !bit r.ctl 0 ∧ r.next = 0 ∧ (d.func r.func).hdmaFail.contains r.ctxId))
include hr hc hn ho hh hu hd hf

theorem Dev.hdmaIssue_unmapped (hseg : (d.ctx r.ctxId).segAny (r.dev + r.next) (min (r.len - r.next) (128 - (r.dev + r.next) % 128)) = none) :
    d.hdmaIssue e = d.hdmaLost e r 0x04 := by
  rw [Dev.hdmaIssue_goes hr hc hn ho hh hu hd, if_neg hf]
  dsimp only
  rw [Dev.hostLine_unmapped hseg]
  rfl

theorem Dev.hdmaIssue_sent (hseg : (d.ctx r.ctxId).segAny (r.dev + r.next) (min (r.len - r.next) (128 - (r.dev + r.next) % 128)) = some a)
    (hm : d.mcOf (r.ctxId / 16) a = some m) (hs : d.inService m = true) (ht : (d.ni (hostNode e)).freeTag (96 * (e / 2)) 96 = some t) :
    ∃ x : Dev, x.host = d.host ∧ d.hdmaIssue e = x.setEngine e (some { r with next := r.next + min (r.len - r.next) (128 - (r.dev + r.next) % 128), out := r.out + 1 }) := by
  rw [Dev.hdmaIssue_goes hr hc hn ho hh hu hd, if_neg hf]
  dsimp only
  obtain ⟨x, hx⟩ := Dev.hostLine_sent (gen := r.gen) (op := .hdma e r.next (min (r.len - r.next) (128 - (r.dev + r.next) % 128)))
    (w := if bit r.ctl 0 then none else some (d.hostRead (r.host + r.next) (min (r.len - r.next) (128 - (r.dev + r.next) % 128)))) hseg hm hs ht
  rw [hx]
  exact ⟨x, Dev.hostLine_host hx, if_pos rfl⟩

end

theorem Dev.hdmaLine_good {n : Nat} {bs : List Byte} (hr : smGet none d.host.engines e = some r) (hb : bit r.ctl 0 = true) :
    d.hdmaLine e off n 0 bs = ((d.setEngine e (some { r with out := r.out - 1 })).hostWrite (r.host + off) (bs.take n)).hdmaFill e := by
  unfold Dev.hdmaLine
  rw [hr]
  exact (if_neg (fun h => h rfl)).trans (congrArg (fun d => Dev.hdmaFill d e) (if_pos hb))

theorem Dev.hdmaLine_fails {n c : Nat} {bs : List Byte} (hr : smGet none d.host.engines e = some r) (h0 : r.code = 0) (hc : c ≠ 0) :
    d.hdmaLine e off n c bs = d.hdmaLost e { r with out := r.out - 1 } 0x09 := by
  unfold Dev.hdmaLine
  rw [hr]
  exact (if_pos hc).trans (if_neg (fun h => h h0))

/-! ## Descriptor starts (R339-R341) -/

theorem doHdmaDescriptorStart_idle (h : smGet none d.host.engines e ≠ none ∨ d.resettingChip = true ∨ d.nextQueue = none ∨ d.hostUp = false) : doHdmaDescriptorStart d e = d := by
  unfold doHdmaDescriptorStart
  split
  · rfl
  · next hn =>
    rcases h with h | h | h | h
    · exact absurd (by simp [Option.isSome_iff_ne_none.2 h]) hn
    · exact absurd (by simp [h]) hn
    · rw [h]
    · exact absurd (by simp [h]) hn

/-- The descriptor an engine takes from the queue of a function, its checks made. -/
def Dev.hdmaTaken (d : Dev) (f : Nat) : HdmaRun :=
  let x := d.func f
  let desc := d.hostRead (ringBase x.ring + 64 * x.head) 64
  let ctl := leAt desc 0x14 4
  let part := if f = 0 then bits ctl 8 3 else f - 1
  { func := f, index := x.head, host := leAt desc 0 8, dev := leAt desc 8 8, len := leAt desc 0x10 4, ctl := ctl, part := part,
    slot := bits ctl 12 9, gen := (d.ctx (16 * part + bits ctl 12 9)).gen, code := d.hdmaCheck f desc, next := 0, out := 0 }

/-- The head of the queue moves on, and the next turn is the next function's. -/
def Dev.hdmaAdvance (d : Dev) (f : Nat) : Dev :=
  let d1 := d.setFunc f { d.func f with head := ((d.func f).head + 1) % ringSize (d.func f).ring }
  { d1 with host := { d1.host with nextFunc := (f + 1) % d.funcIds.length } }

theorem doHdmaDescriptorStart_takes (he : smGet none d.host.engines e = none) (hu : d.hostUp = true) (hr : d.resettingChip = false) (hn : d.nextQueue = some f) :
    doHdmaDescriptorStart d e = ((d.hdmaAdvance f).setEngine e (some (d.hdmaTaken f))).hdmaFill e := by
  unfold doHdmaDescriptorStart
  rw [if_neg (by rw [he, hu, hr]; decide), hn]
  rfl

/-- A reserved bit of a descriptor is INVALID. -/
theorem Dev.hdmaCheck_reserved {desc : List Byte} (h : leAt desc 8 8 / 2 ^ 43 ≠ 0 ∨ bits (leAt desc 0x14 4) 31 30 ≠ 0 ∨ leAt desc 0x1C 36 ≠ 0) :
    d.hdmaCheck f desc = 0x03 := if_pos (by tauto)

/-! ## Window requests (R335-R337) -/

theorem doHostWinRead_down (h : d.hostUp = false) : doHostWinRead d f off n = d := if_pos (by rw [h]; rfl)

theorem doHostWinWrite_down {data : List Byte} (h : d.hostUp = false) : doHostWinWrite d f off data = d := if_pos (by rw [h]; rfl)

theorem doHostWinRead_taken (hu : d.hostUp = true) (hc : d.winCode f off n = 0) : doHostWinRead d f off n = d.winTake f off n (.read []) :=
  (if_neg (by rw [hu]; decide)).trans (if_pos hc)

theorem doHostWinWrite_taken {data : List Byte} (hu : d.hostUp = true) (hc : d.winCode f off data.length = 0) :
    doHostWinWrite d f off data = d.winTake f off data.length (.write data) := (if_neg (by rw [hu]; decide)).trans (if_pos hc)

/-- A fault message of a context reaches the ring stop of the node that raises it. -/
theorem Dev.raise_ctxMsg_stop (d x : Dev) (node kind unit addr : Nat) (ctx : Option Nat) :
    smGet Stop.init (x.raise (d.ctxMsg node kind unit addr ctx)).flt.stops node = (smGet Stop.init x.flt.stops node).take (d.ctxMsg node kind unit addr ctx) := by
  cases ctx <;> exact smGet_set_same ..

theorem Dev.winRefused_later {c : Nat} {b : Bool} (h : bit (d.func f).winErr 63 = true) : d.winRefused f ctx off c b = d := if_pos h

theorem Dev.winRefused_write {c : Nat} (h : bit (d.func f).winErr 63 = false) : d.winRefused f ctx off c true =
    (d.setFunc f { d.func f with winErr := off % 2 ^ 43 + c * 2 ^ 43 + 2 ^ 51 + 2 ^ 63 }).raise
      (d.ctxMsg 0x150 0x17 0 off (if (d.ctx ctx).live then some ctx else none)) := by
  unfold Dev.winRefused
  rw [if_neg (by rw [h]; decide), show boolNat true = 1 from rfl, Nat.one_mul]

theorem Dev.winRefused_read {c : Nat} (h : bit (d.func f).winErr 63 = false) : d.winRefused f ctx off c false =
    (d.setFunc f { d.func f with winErr := off % 2 ^ 43 + c * 2 ^ 43 + 2 ^ 63 }).raise
      (d.ctxMsg 0x150 0x17 0 off (if (d.ctx ctx).live then some ctx else none)) := by
  unfold Dev.winRefused
  rw [if_neg (by rw [h]; decide), show boolNat false = 0 from rfl, Nat.zero_mul, Nat.add_zero]

theorem Dev.winCode_refused {c : Nat} (h : d.winRefusal f = c) (hc : c ≠ 0) : d.winCode f off n = c := by
  unfold Dev.winCode
  rw [h]
  exact if_pos hc

theorem Dev.winCode_mapped (h : d.winRefusal f = 0) (hm : d.winMapped f off n = true) : d.winCode f off n = 0 := by
  unfold Dev.winCode
  rw [h]
  exact (if_neg (fun h => h rfl)).trans (if_pos hm)

theorem Dev.winCode_unmapped (h : d.winRefusal f = 0) (hm : d.winMapped f off n = false) : d.winCode f off n = 0x04 := by
  unfold Dev.winCode
  rw [h]
  exact (if_neg (fun h => h rfl)).trans (if_neg (by rw [hm]; decide))

theorem Dev.winRefusal_open (hr : d.resettingChip = false) (hc : (d.func f).winClosed = false) : d.winRefusal f = d.hostRefusal ((d.func f).winCtx f) := by
  unfold Dev.winRefusal
  rw [hr, hc]
  rfl

theorem doHostWinWrite_refused {data : List Byte} {c : Nat} (hu : d.hostUp = true) (h : d.winCode f off data.length = c) (hc : c ≠ 0) :
    doHostWinWrite d f off data = d.winRefused f ((d.func f).winCtx f) ((d.func f).winOff off) c true := by
  subst h
  exact (if_neg (by rw [hu]; decide)).trans (if_neg hc)

theorem doHostWinRead_refused {c : Nat} (hu : d.hostUp = true) (h : d.winCode f off n = c) (hc : c ≠ 0) :
    doHostWinRead d f off n = { d.winRefused f ((d.func f).winCtx f) ((d.func f).winOff off) c false with
      host := { (d.winRefused f ((d.func f).winCtx f) ((d.func f).winOff off) c false).host with last := some .abort } } := by
  subst h
  exact (if_neg (by rw [hu]; decide)).trans (if_neg hc)

/-- A refused write is recorded and logged once. -/
theorem exec_hostWinWrite_refused {s : State} {data : List Byte} {c : Nat} (hu : s.dev.hostUp = true) (h : s.dev.winCode f off data.length = c) (hc : c ≠ 0) :
    (bit (s.dev.func f).winErr 63 = true → exec (.hostWinWrite f off data) s = .next s) ∧
      (bit (s.dev.func f).winErr 63 = false → Completes (.hostWinWrite f off data) s (fun e =>
        e.func f = { s.dev.func f with winErr := (s.dev.func f).winOff off % 2 ^ 43 + c * 2 ^ 43 + 2 ^ 51 + 2 ^ 63 } ∧
        smGet Stop.init e.flt.stops 0x150 = (smGet Stop.init s.dev.flt.stops 0x150).take
          (s.dev.ctxMsg 0x150 0x17 0 ((s.dev.func f).winOff off) (if (s.dev.ctx ((s.dev.func f).winCtx f)).live then some ((s.dev.func f).winCtx f) else none)))) := by
  have hx : exec (.hostWinWrite f off data) s = s.next _ := congrArg s.next (doHostWinWrite_refused hu h hc)
  refine ⟨fun hb => hx.trans (congrArg s.next (Dev.winRefused_later hb)), fun hb => ⟨_, hx.trans (congrArg s.next (Dev.winRefused_write hb)), rfl, ?_, ?_⟩⟩
  · exact Dev.func_setFunc_same ..
  · exact Dev.raise_ctxMsg_stop ..

/-- A refused read is recorded and logged once, and answered with an abort. -/
theorem exec_hostWinRead_refused {s : State} {c : Nat} (hu : s.dev.hostUp = true) (h : s.dev.winCode f off n = c) (hc : c ≠ 0) :
    (bit (s.dev.func f).winErr 63 = true → exec (.hostWinRead f off n) s = .next { s with dev := { s.dev with host := { s.dev.host with last := some .abort } } }) ∧
      (bit (s.dev.func f).winErr 63 = false → Completes (.hostWinRead f off n) s (fun e =>
        (e.func f).winErr = (s.dev.func f).winOff off % 2 ^ 43 + c * 2 ^ 43 + 2 ^ 63 ∧ e.host.last = some .abort)) := by
  have hx : exec (.hostWinRead f off n) s = s.next _ := congrArg s.next (doHostWinRead_refused hu h hc)
  refine ⟨fun hb => ?_, fun hb => ⟨_, hx, rfl, ?_, rfl⟩⟩
  · rw [hx, Dev.winRefused_later hb]
    rfl
  · rw [Dev.winRefused_read hb]
    exact congrArg Func.winErr (Dev.func_setFunc_same ..)

/-! ## Resets of functions (R332) -/

theorem foldl_flr_st (keys : List Nat) (m : SMap Mbx) {k : Nat} (hk : k ∈ keys ∨ (smGet Mbx.init m k).st = 0) :
    (smGet Mbx.init (keys.foldl (fun m k => smSet Mbx.init m k (smGet Mbx.init m k).flr) m) k).st = 0 := by
  induction keys generalizing m with
  | nil => exact hk.resolve_left List.not_mem_nil
  | cons j js ih =>
    refine ih _ ?_
    by_cases hj : k = j
    · subst hj
      exact .inr (by rw [smGet_set_same]; rfl)
    · rw [smGet_set_other _ _ _ _ _ hj]
      exact hk.imp_left (fun h => (List.mem_cons.1 h).resolve_left hj)

theorem Dev.winFill_none (h : d.host.wins = []) : d.winFill = d := by
  unfold Dev.winFill
  rw [h]
  rfl

/-- The only window request, a read, has all its lines: it completes with its bytes. -/
theorem Dev.winSettle_last {q : WinReq} {got : List (Nat × List Byte)} (hw : d.host.wins = [q]) (hc : q.code = 0) (ho : q.out = 0) (hl : q.len ≤ q.next) (hj : q.job = .read got) :
    d.winSettle = { d with host := { d.host with wins := [], last := some (.data (winData got q.len)) } } := by
  have hend : d.winEnd q = { d with host := { d.host with wins := [], last := some (.data (winData got q.len)) } } := by
    unfold Dev.winEnd
    simp [hc, hj, hw, Dev.setWins]
  unfold Dev.winSettle
  rw [hw]
  dsimp only
  rw [List.filter_singleton, show (!q.job.isCtl && q.out == 0 && (q.code != 0 || decide (q.len ≤ q.next))) = true by simp [hj, WinJob.isCtl, ho, hl]]
  exact (congrArg Dev.winFill hend).trans (Dev.winFill_none rfl)

/-- The last line of the only window request, a read. -/
theorem Dev.winLine_last {q : WinReq} {got : List (Nat × List Byte)} {bs : List Byte} (hw : d.host.wins = [q]) (hc : q.code = 0) (ho : q.out = 1) (hl : q.len ≤ q.next) (hj : q.job = .read got) :
    d.winLine q.id off n 0 bs = { d with host := { d.host with wins := [], last := some (.data (winData (got ++ [(off, bs.take n)]) q.len)) } } := by
  have hset : d.setWin { q with out := q.out - 1, code := 0, job := .read (got ++ [(off, bs.take n)]) } =
      d.setWins [{ q with out := q.out - 1, code := 0, job := .read (got ++ [(off, bs.take n)]) }] := by
    unfold Dev.setWin
    rw [hw, List.map_singleton, if_pos rfl]
  unfold Dev.winLine
  rw [hw, List.find?_singleton, if_pos (beq_self_eq_true _)]
  dsimp only
  simp only [hj, hc]
  refine (congrArg Dev.winSettle hset).trans ?_
  exact Dev.winSettle_last (q := { q with out := q.out - 1, code := 0, job := .read (got ++ [(off, bs.take n)]) }) (d := d.setWins _) rfl rfl (show q.out - 1 = 0 by rw [ho]) hl rfl

theorem Dev.hostForget_func (d : Dev) (f g : Nat) : (d.hostForget f).func g = d.func g := by
  have h : ∀ l : List (Nat × Option HdmaRun), (l.foldl (fun d e => match e.2 with | some r => if r.func = f then d.hdmaDrop e.1 else d | none => d) d).func g = d.func g := by
    intro l
    refine foldl_field (fun d => d.func g) (fun d e => ?_) l d
    split
    · split <;> rfl
    · rfl
  exact h d.host.engines

/-- The state before the requests of a function are dropped: its channels, queue and window as the reset leaves them. -/
theorem Dev.flr_func (d : Dev) (f : Nat) : ((d.flr f).func f) = { d.func f with
    mbx := (chanKeys false f ++ chanKeys true f).foldl (fun m k => smSet Mbx.init m k (smGet Mbx.init m k).flr) (d.func f).mbx
    enable := false
    winClosed := true } := by
  unfold Dev.flr
  rw [Dev.hostForget_func, Dev.func_setFunc_same]
  rfl

theorem Dev.flr_func_other {g : Nat} (h : g ≠ f) : (d.flr f).func g = d.func g := by
  unfold Dev.flr
  rw [Dev.hostForget_func, Dev.func_setFunc_other _ _ _ _ h]
  rfl

theorem Dev.flr_st {k : Nat} (hk : k ∈ chanKeys false f ++ chanKeys true f) : ((d.flr f).mbx f k).st = 0 := by
  rw [Dev.mbx, Dev.flr_func]
  exact foldl_flr_st _ _ (.inl hk)

/-- No descriptor of the function is left at an engine. -/
theorem Dev.hostForget_engines {q : Nat × Option HdmaRun} (hq : q ∈ (d.hostForget f).host.engines) (hr : q.2 = some r) : r.func ≠ f := by
  have := (List.mem_filter.1 hq).2
  rw [hr] at this
  simpa using this

theorem Dev.hostForget_wins {q : WinReq} (hq : q ∈ (d.hostForget f).host.wins) : q.func ≠ f := by
  have := (List.mem_filter.1 hq).2
  simpa using this

/-- The queue and the window of a function are closed. -/
def Dev.funcClosed (d : Dev) (f : Nat) : Prop := (d.func f).enable = false ∧ (d.func f).winClosed = true

theorem Dev.flr_closes (d : Dev) (f : Nat) : (d.flr f).funcClosed f := by
  unfold Dev.funcClosed
  rw [Dev.flr_func]
  exact ⟨rfl, rfl⟩

/-- A function closed stays closed when another is reset. -/
theorem Dev.funcClosed.flr {g : Nat} (h : d.funcClosed f) : (d.flr g).funcClosed f := by
  by_cases hg : f = g
  · subst hg
    exact d.flr_closes f
  · unfold Dev.funcClosed
    rw [Dev.flr_func_other hg]
    exact h

theorem Dev.hotReset_closes (hf : f ∈ d.funcIds) : d.hotReset.funcClosed f := by
  have hstay : ∀ (l : List Nat) (d : Dev), d.funcClosed f → (l.foldl (fun d f => d.flr f) d).funcClosed f := fun l d h =>
    foldl_keeps (fun x : Dev => x.funcClosed f) l (fun x hx g _ => hx.flr) h
  have hmem : ∀ (l : List Nat) (d : Dev), f ∈ l → (l.foldl (fun d f => d.flr f) d).funcClosed f := by
    intro l
    induction l with
    | nil => exact fun _ h => absurd h List.not_mem_nil
    | cons g l ih =>
      intro d h
      rcases List.mem_cons.1 h with rfl | h
      · exact hstay l _ (d.flr_closes f)
      · exact ih _ h
  exact hmem d.funcIds d hf

end

/-- Settles O40. -/
theorem hostRows : Obligations.HostRows := by
  unfold Obligations.HostRows
  intro s f off n eng w data r d x ctx at_ size desc part slot run quiet mapped took noWrite noRead
  refine ⟨fun hq hdown => ?_, fun hup => ⟨fun hq he => ?_, fun hq he => ?_, fun hq => ?_, fun hq => ?_, fun hw => ?_, ?_, fun hidle hrs hnext => ?_, fun h => ?_, fun h => ?_, fun hr hh => ?_, fun hr hh => ?_,
    fun hrs hcl href => ?_, fun q got o k bs hw hc ho hl hj => ?_, fun code hcode => ?_⟩, fun g hg => ?_, fun hf => ?_, rfl, ?_⟩
  · have hd : d.hostUp = false := hdown
    refine ⟨congrArg s.next ((d.ctlWrite_now f _ 8 w.toNat _ hq).trans (if_pos (by rw [hd]; rfl))), congrArg s.next ((d.ctlWrite_now f _ 8 w.toNat _ hq).trans (if_pos (by rw [hd]; rfl))),
      congrArg s.next ((d.ctlWrite_now f _ 8 w.toNat _ hq).trans (if_pos (by rw [hd]; rfl))), congrArg s.next (if_pos (by rw [show s.dev.hostUp = false from hd]; rfl)),
      congrArg s.next (doHostWinRead_down hd), congrArg s.next (doHostWinWrite_down hd), congrArg s.next (doHdmaDescriptorStart_idle (.inr (.inr (.inr hd))))⟩
  · exact congrArg s.next ((d.ctlWrite_now f _ 8 w.toNat _ hq).trans (if_pos (by rw [show (d.func f).enable = true from he, Bool.or_true])))
  · exact congrArg s.next ((d.ctlWrite_now f _ 8 w.toNat _ hq).trans (if_neg (by rw [show (d.func f).enable = false from he, show d.hostUp = true from hup]; decide)))
  · exact congrArg s.next ((d.ctlWrite_now f _ 8 w.toNat _ hq).trans (if_neg (by rw [show d.hostUp = true from hup]; decide)))
  · exact congrArg s.next ((d.ctlWrite_now f _ 8 w.toNat _ hq).trans (if_neg (by rw [show d.hostUp = true from hup]; decide)))
  · refine ⟨_, congrArg s.next (d.ctlWrite_waits f _ 8 w.toNat _ hup hw), rfl, ?_, _, List.mem_append_right _ (List.mem_singleton.2 rfl), rfl, rfl⟩
    exact (List.any_append ..).trans (by rw [show d.host.wins.any (fun x => x.func == f && x.job.isWrite) = true from hw]; rfl)
  · exact congrArg s.next (if_neg (by rw [show s.dev.hostUp = true from hup]; decide))
  · intro b
    refine ⟨?_, fun hrun => Dev.hdmaFill_idle (fun r hr => ?_), fun h => Dev.hdmaCheck_reserved h⟩
    · exact congrArg s.next (doHdmaDescriptorStart_takes hidle hup hrs hnext)
    · have hr : r = run := (Option.some.inj ((Dev.engine_setEngine_same ..).symm.trans hr)).symm
      subst hr
      exact hrun.imp_right (fun h => .inl (Nat.le_of_eq h))
  · exact congrArg s.next (doHdmaDescriptorStart_idle (by tauto))
  · exact congrArg s.next (doHdmaComplete_idle h)
  · exact ⟨congrArg s.next (doHdmaComplete_held hr hh), Dev.hdmaFill_idle (fun r' hr' => by cases hr.symm.trans hr'; exact .inr (.inr (.inr (.inl hh))))⟩
  · intro c gone ended place line
    have hx : exec (.hdmaComplete eng) s = s.next _ := congrArg s.next (doHdmaComplete_goes hr hh hup)
    have hdead : (r.code = 0 → ¬ gone) → r.code = 0 → d.hdmaDead r = false := fun h hc => eq_false_of_ne_true (fun hd => h hc (Dev.hdmaDead_iff.1 hd))
    have hend (r' : HdmaRun) (d' : Dev) (code : Nat) (hd' : d'.host = d.host) (hf : r'.func = r.func) (hi : r'.index = r.index) (hct : r'.ctl = r.ctl) (hc : r'.code = code)
        (h13 : r'.code = 0 → bit r'.ctl 13 = false) (he : exec (.hdmaComplete eng) s = s.next (d'.hdmaEnd eng r')) : ended code := by
      obtain ⟨hmem, hidle, hlast, hbell⟩ := d'.hdmaEnd_ended eng r' h13
      have hfn (g : Nat) : d'.func g = d.func g := by rw [Dev.func, hd']; rfl
      refine ⟨_, he, rfl, ?_, hidle, fun h => ?_, fun h => ?_⟩
      · rw [hmem, hd', hc, Dev.hdmaStatusAddr, hfn, hf, hi]
        rfl
      · rw [← hf]
        exact (hlast (hc ▸ h)).trans hc
      · rw [← hf, hbell (hct ▸ h), Dev.mbx, hfn]
        rfl
    have hfail (h : bit r.ctl 0 = true ∨ bit r.ctl 1 = false ∨ r.next ≠ 0 ∨ (d.func r.func).hdmaFail.contains c = false) :
        ¬ (bit r.ctl 1 ∧ !bit r.ctl 0 ∧ r.next = 0 ∧ (d.func r.func).hdmaFail.contains r.ctxId) := by
      rintro ⟨h1, h0, hn, hk⟩
      have hk : (d.func r.func).hdmaFail.contains c = true := hk
      simp_all
    refine ⟨fun hc hg => ?_, fun hc ho => ?_, fun hc hg ho hl h13 => ?_, fun hc hg ho hl h13 h2 => ?_, fun hg hm => ?_, fun hc hg hn ho h0 h1 hn0 hfail => ?_, fun hc hg hn ho hcl => ⟨fun hseg => ?_, fun al node tag hseg hmc hsl hin htag => ?_⟩,
      fun o k bs hc h0 => ?_, fun o k code bs hc hcode => ?_⟩
    · refine hend { r with code := 0x3F, out := 0 } (d.hdmaDrop eng) 0x3F rfl rfl rfl rfl rfl (fun h => absurd h (show 0x3F ≠ 0 by decide)) (hx.trans (congrArg s.next ?_))
      rw [Dev.hdmaTorn_dead hc (Dev.hdmaDead_iff.2 hg)]
      exact if_pos ⟨rfl, .inl (show 0x3F ≠ 0 by decide)⟩
    · refine hend r d r.code rfl rfl rfl rfl rfl (fun h => absurd h hc) (hx.trans (congrArg s.next ?_))
      rw [Dev.hdmaTorn_kept (fun h => absurd h hc)]
      exact if_pos ⟨ho, .inl hc⟩
    · refine hend r d 0 rfl rfl rfl rfl hc (fun _ => h13) (hx.trans (congrArg s.next ?_))
      rw [Dev.hdmaTorn_kept (hdead (fun _ => hg))]
      exact if_pos ⟨ho, .inr hl⟩
    · refine hx.trans (congrArg s.next ?_)
      rw [Dev.hdmaTorn_kept (hdead (fun _ => hg))]
      exact (if_pos ⟨ho, .inr hl⟩).trans (Dev.hdmaEnd_signals hc h13 h2)
    · refine hx.trans (congrArg s.next ?_)
      rw [Dev.hdmaTorn_kept (hdead hg)]
      exact if_neg (by dsimp only; omega)
    · rw [Dev.hdmaIssue_goes hr hc hn ho hh hup (hdead (fun _ => hg) hc)]
      exact if_pos ⟨h1, by rw [h0]; rfl, hn0, hfail⟩
    · rw [Dev.hdmaIssue_unmapped hr hc hn ho hh hup (hdead (fun _ => hg) hc) (hfail hcl) hseg]
      obtain ⟨h1, h2, -⟩ := d.hdmaLost_kept eng r 0x04
      exact ⟨h1, h2⟩
    · have hp : d.mcOf (r.ctxId / 16) al = some node := by
        rw [show r.ctxId / 16 = r.part by unfold HdmaRun.ctxId; omega]
        exact hmc
      obtain ⟨x, hx, he⟩ := Dev.hdmaIssue_sent hr hc hn ho hh hup (hdead (fun _ => hg) hc) (hfail hcl) hseg hp hin htag
      rw [he]
      exact ⟨Dev.engine_setEngine_same .., by show x.host.hostMem = _; rw [hx]⟩
    · exact Dev.hdmaLine_good hr h0
    · rw [Dev.hdmaLine_fails hr hc hcode]
      obtain ⟨h1, -, h3⟩ := d.hdmaLost_kept eng { r with out := r.out - 1 } 0x09
      exact ⟨h1, h3⟩
  · have h0 : d.winRefusal f = 0 := (Dev.winRefusal_open hrs hcl).trans href
    exact ⟨fun hm => congrArg s.next (doHostWinRead_taken hup (Dev.winCode_mapped h0 hm)), fun hm => exec_hostWinRead_refused hup (Dev.winCode_unmapped h0 hm) (by decide),
      fun hm => congrArg s.next (doHostWinWrite_taken hup (Dev.winCode_mapped h0 hm)), fun hm => exec_hostWinWrite_refused hup (Dev.winCode_unmapped h0 hm) (by decide)⟩
  · exact Dev.winLine_last hw hc ho hl hj
  · have h0 : d.winRefusal f = code ∧ code ≠ 0 := by
      have href (hrs : d.resettingChip = false) (hcl : x.winClosed = false) : d.winRefusal f = d.hostRefusal ctx := Dev.winRefusal_open hrs hcl
      rcases hcode with ⟨rfl, hrs⟩ | ⟨rfl, hrs, hcl⟩ | ⟨rfl, hrs, hcl, hp⟩ | ⟨rfl, hrs, hcl, hst, hsc, hl⟩
      · exact ⟨if_pos hrs, by decide⟩
      · exact ⟨(if_neg (by rw [hrs]; decide)).trans (if_pos hcl), by decide⟩
      · exact ⟨(href hrs hcl).trans (if_pos hp), by decide⟩
      · refine ⟨(href hrs hcl).trans ((if_neg (by rw [hsc]; simpa using hst)).trans (if_pos ?_)), by decide⟩
        rcases hl with hl | hl
        · rw [hl]
          rfl
        · rw [hl, Bool.or_true]
    obtain ⟨h0, hne⟩ := h0
    exact ⟨exec_hostWinWrite_refused hup (Dev.winCode_refused h0 hne) hne, exec_hostWinRead_refused hup (Dev.winCode_refused h0 hne) hne⟩
  · obtain ⟨hen, hcl⟩ := d.flr_closes f
    exact ⟨_, rfl, rfl, hen, hcl, fun k hk => Dev.flr_st hk, Dev.flr_func_other hg, fun q hq r hr => Dev.hostForget_engines hq hr, fun q hq => Dev.hostForget_wins hq⟩
  · exact ⟨_, rfl, rfl, Dev.hotReset_closes hf⟩
  · refine ⟨_, rfl, rfl, rfl, rfl, fun hp hf => ?_⟩
    have h1 : (if d.host.perst then d.hotReset else d) = d.hotReset := if_pos hp
    have hc := Dev.hotReset_closes hf
    rw [← h1] at hc
    exact hc

end Sys2Proof.Machine
end

section
/-! PROOFS. Command rows (12_rennet.md R358-R360, R378): what each does with a message, and the checks before its own. -/

namespace Sys2Proof.Machine

section
variable {d : Dev} {f key op len : Nat} {pick : List Byte → Bool} {wait : Dev → List Byte → Bool} {act : Dev → List Byte → Dev} {msg : List Byte}

/-- A command that never waits. -/
theorem Dev.commandW_never : d.commandW f key op pick (fun _ _ => false) act = d.command f key op pick act := by
  unfold Dev.commandW
  split
  · exact (Dev.command_idle ‹_›).symm
  · exact if_neg (by simp)

theorem Dev.commandW_idle (h : d.activeMsg f key op = none) : d.commandW f key op pick wait act = d := by
  unfold Dev.commandW
  rw [h]

/-- A message that is not the row's own. -/
theorem Dev.commandW_other (h : d.activeMsg f key op = some (msg, len, false)) (hp : pick msg = false) : d.commandW f key op pick wait act = d := by
  unfold Dev.commandW
  rw [h]
  dsimp only
  split
  · rfl
  · exact Dev.command_other h hp

/-- The device's state, the function or the framing answers before the row waits. -/
theorem Dev.commandW_checked (h : d.activeMsg f key op = some (msg, len, false))
    (hc : d.stateAnswer op ≠ none ∨ (physOnly op && f != 0) = true ∨ framing msg len ≠ none) :
    d.commandW f key op pick wait act = d.command f key op pick act := by
  unfold Dev.commandW
  rw [h]
  refine if_neg ?_
  rcases hc with hc | hc | hc
  · simp [Option.isNone_eq_false_iff.2 (Option.isSome_iff_ne_none.2 hc)]
  · simp [hc]
  · simp [Option.isNone_eq_false_iff.2 (Option.isSome_iff_ne_none.2 hc)]

theorem Dev.commandW_state {code arg : Nat} (h : d.activeMsg f key op = some (msg, len, false)) (hp : pick msg = true) (hs : d.stateAnswer op = some (code, arg)) :
    d.commandW f key op pick wait act = d.refuseCmd f key code 0 0 arg := by
  rw [Dev.commandW_checked h (.inl (by rw [hs]; exact Option.some_ne_none _)), Dev.command_picked h hp, hs]

theorem Dev.commandW_denied (h : d.activeMsg f key op = some (msg, len, false)) (hp : pick msg = true) (hs : d.stateAnswer op = none)
    (hph : (physOnly op && f != 0) = true) : d.commandW f key op pick wait act = d.fail f key rDenied 0 := by
  rw [Dev.commandW_checked h (.inr (.inl hph)), Dev.command_picked h hp, hs]
  exact if_pos hph

theorem Dev.commandW_framing {off : Nat} (h : d.activeMsg f key op = some (msg, len, false)) (hp : pick msg = true) (hs : d.stateAnswer op = none)
    (hph : (physOnly op && f != 0) = false) (hf : framing msg len = some off) : d.commandW f key op pick wait act = d.fail f key rInvalid off := by
  rw [Dev.commandW_checked h (.inr (.inr (by rw [hf]; exact Option.some_ne_none _))), Dev.command_picked h hp, hs]
  exact (if_neg (by rw [hph]; decide)).trans (by rw [hf])

theorem Dev.commandW_waits (h : d.activeMsg f key op = some (msg, len, false)) (hs : d.stateAnswer op = none)
    (hph : (physOnly op && f != 0) = false) (hf : framing msg len = none) (hw : wait d msg = true) : d.commandW f key op pick wait act = d := by
  unfold Dev.commandW
  rw [h]
  exact if_pos (by rw [hs, hph, hf, hw]; rfl)

theorem Dev.commandW_runs (h : d.activeMsg f key op = some (msg, len, false)) (hp : pick msg = true) (hs : d.stateAnswer op = none)
    (hph : (physOnly op && f != 0) = false) (hf : framing msg len = none) (hw : wait d msg = false) : d.commandW f key op pick wait act = act d msg := by
  unfold Dev.commandW
  rw [h]
  exact (if_neg (by rw [hw]; simp)).trans (Dev.command_runs h hp hs hph hf)

end

/-! ## Every command row is one command (R359) -/

/-- The row carries out the command of its channel and opcode: it takes every message of its own, and no other but under
RESET_REQ and KEY_INSTALL, whose first rows refuse what no row names. -/
def Served (s : State) (f : Nat) (r : Instr × Nat × Nat × (List Byte → Bool)) : Prop :=
  ∃ pick wait act, exec r.1 s = s.next (s.dev.commandW f r.2.1 r.2.2.1 pick wait act) ∧ (∀ m, r.2.2.2 m = true → pick m = true) ∧
    (r.2.2.1 ≠ 0x0801 → r.2.2.1 ≠ 0x0A03 → ∀ m, r.2.2.2 m = false → pick m = false)

section
variable {s : State} {i : Instr} {f k op : Nat} {pick own : List Byte → Bool} {wait : Dev → List Byte → Bool} {act : Dev → List Byte → Dev}

theorem Served.commandW (h : exec i s = s.next (s.dev.commandW f k op own wait act)) : Served s f (i, k, op, own) :=
  ⟨_, _, _, h, fun _ h => h, fun _ _ _ h => h⟩

theorem Served.command (h : exec i s = s.next (s.dev.command f k op own act)) : Served s f (i, k, op, own) :=
  .commandW (h.trans (congrArg s.next Dev.commandW_never.symm))

/-- A row that also refuses what no row names. -/
theorem Served.widened (h : exec i s = s.next (s.dev.commandW f k op pick wait act)) (hp : ∀ m, own m = true → pick m = true)
    (hop : op = 0x0801 ∨ op = 0x0A03) : Served s f (i, k, op, own) :=
  ⟨_, _, _, h, hp, fun h1 h2 => absurd hop (not_or.2 ⟨h1, h2⟩)⟩

/-- A command about a context. -/
theorem Served.ctxCommand (h : exec i s = s.next (s.dev.ctxCommand f k op own wait act)) : Served s f (i, k, op, own) := .commandW h

/-- KEY_INSTALL of one kind of envelope. -/
theorem Served.keyInstall {own kind : Nat → Bool} {act : Dev → List Byte → Nat → Nat → Dev} (h : exec i s = s.next (s.dev.keyInstall f k kind act))
    (hk : ∀ n, own n = true → kind n = true) : Served s f (i, k, 0x0A03, fun m => own (envelopeKind s.dev m)) :=
  .widened h (fun _ h => hk _ h) (.inr rfl)

end

theorem commandRows_served (s : State) (f c : Nat) : ∀ r ∈ commandRows s.dev f c, Served s f r := by
  unfold commandRows
  simp only [List.forall_mem_cons]
  exact ⟨.command rfl, .command rfl, .command rfl, .command rfl, .command rfl,
    .commandW rfl, .commandW rfl, .command rfl, .commandW rfl,
    .commandW rfl, .ctxCommand rfl, .ctxCommand rfl, .ctxCommand rfl, .ctxCommand rfl,
    .commandW rfl, .ctxCommand rfl, .ctxCommand rfl, .ctxCommand rfl,
    .commandW rfl, .ctxCommand rfl, .commandW rfl, .command rfl,
    .command rfl, .command rfl, .command rfl, .command rfl,
    .command rfl, .command rfl, .command rfl, .command rfl,
    .widened rfl (fun m h => Bool.or_eq_true_iff.2 (.inl h)) (.inl rfl), .commandW rfl, .commandW rfl, .command rfl, .command rfl, .command rfl,
    .command rfl, .command rfl, .command rfl, .command rfl,
    .command rfl, .command rfl, .keyInstall (own := (· == 0)) rfl (fun n h => Bool.or_eq_true_iff.2 (.inl h)),
    .keyInstall (own := (· == 1)) rfl (fun n h => h), .keyInstall (own := (· == 2)) rfl (fun n h => h), .keyInstall (own := (· == 3)) rfl (fun n h => h), .command rfl,
    .command rfl, .command rfl,
    fun _ h => absurd h List.not_mem_nil⟩

/-! ## The framing (R360) -/

/-- Groups not served out of service. -/
theorem servedOut_group {op : Nat} (h : op / 256 ∈ [2, 3, 4, 5, 6]) : servedOut op = false := by
  unfold servedOut
  generalize op / 256 = g at h
  revert g
  decide

/-- Commands not served during a start. -/
theorem servedEarly_not {op : Nat} (hg : op / 256 ∉ [1, 7, 8]) (h3 : op ≠ 0x0903) (h1 : op ≠ 0x0B01) : servedEarly op = false := by
  simp only [List.mem_cons, List.not_mem_nil, or_false, not_or] at hg
  obtain ⟨g1, g7, g8⟩ := hg
  simp [servedEarly, g1, g7, g8, h3, h1]

theorem framing_short {m : List Byte} {len op : Nat} (hop : leAt m 0 2 = op) (h : len < 8 + payloadOf op) : framing m len = some 0 :=
  if_pos (by rw [hop]; exact h)

theorem framing_header {m : List Byte} {len op : Nat} (hop : leAt m 0 2 = op) (h : 8 + payloadOf op ≤ len) (h2 : leAt m 2 6 ≠ 0) : framing m len = some 2 := by
  subst hop
  exact (if_neg (Nat.not_lt.2 h)).trans (if_pos h2)

theorem framing_reserved {m : List Byte} {len op off n : Nat} (hop : leAt m 0 2 = op) (h : 8 + payloadOf op ≤ len) (h2 : leAt m 2 6 = 0)
    (hr : reservedOf op = [(off, n)]) (hn : leAt m off n ≠ 0) : framing m len = some off := by
  subst hop
  refine (if_neg (Nat.not_lt.2 h)).trans ((if_neg (not_not.2 h2)).trans ?_)
  rw [hr, List.findSome?_singleton]
  exact if_pos hn

/-- Settles O41. -/
theorem commandsAreChecked : Obligations.CommandsAreChecked := by
  unfold Obligations.CommandsAreChecked
  intro s f c r hr d key op x ho
  obtain ⟨pick, wait, act, hx, hown, hother⟩ := commandRows_served s f c r hr
  refine ⟨fun h => hx.trans (congrArg s.next ?_), fun hst hb hop hp => ⟨fun hoos hg => hx.trans (congrArg s.next ?_), fun hoos hstart hg h3 h1 => hx.trans (congrArg s.next ?_),
    fun hs hph hf => hx.trans (congrArg s.next ?_), fun off hs hph hf => hx.trans (congrArg s.next ?_)⟩⟩
  · by_cases hact : x.st ≠ 2 ∨ x.begun = true ∨ leAt x.msg 0 2 ≠ op
    · exact Dev.commandW_idle (Dev.activeMsg_none ho hact)
    · obtain ⟨hst, hb, hop⟩ : x.st = 2 ∧ x.begun = false ∧ leAt x.msg 0 2 = op := by
        simpa [not_or] using hact
      obtain ⟨hp, h8, hA⟩ : r.2.2.2 x.msg = false ∧ op ≠ 0x0801 ∧ op ≠ 0x0A03 := by tauto
      exact Dev.commandW_other (Dev.activeMsg_active ho hst hb hop) (hother h8 hA _ hp)
  · refine Dev.commandW_state (code := rDenied) (arg := 2) (Dev.activeMsg_active ho hst hb hop) (hown _ hp) (if_pos ?_)
    rw [show s.dev.rrc.oos = true from hoos, servedOut_group hg]
    rfl
  · refine Dev.commandW_state (code := rBusy) (arg := 0) (Dev.activeMsg_active ho hst hb hop) (hown _ hp) ?_
    refine (if_neg (by rw [show s.dev.rrc.oos = false from hoos, Bool.false_and]; decide)).trans (if_pos ?_)
    rw [show s.dev.rrc.oos = false from hoos, servedEarly_not hg h3 h1, Dev.starting]
    rcases hstart with h | h
    · rw [decide_eq_true h]
      rfl
    · rw [h, Bool.or_true]
      rfl
  · refine Dev.commandW_denied (Dev.activeMsg_active ho hst hb hop) (hown _ hp) hs ?_
    rw [show physOnly op = true from hph]
    simpa using hf
  · refine Dev.commandW_framing (Dev.activeMsg_active ho hst hb hop) (hown _ hp) hs ?_ ?_
    · by_cases h : physOnly op = true
      · rw [hph h]
        simp
      · rw [show physOnly r.2.2.1 = false from eq_false_of_ne_true h]
        rfl
    · rcases hf with ⟨h, rfl⟩ | ⟨h, h2, rfl⟩ | ⟨h, h2, n, hr, hn⟩
      · exact framing_short hop h
      · exact framing_header hop h h2
      · exact framing_reserved hop h h2 hr hn

end Sys2Proof.Machine
end

section
/-! PROOFS. Commands of groups 0x01, 0x07 and 0x0B (12_rennet.md R362-R366, R374, 15_faults_cave.md R447, 17_rates_limits.md R493). -/

namespace Sys2Proof.Machine

/-! ## A command that begins (R359, R378) -/

section
variable {s : State} {i : Instr} {f key op : Nat} {m : List Byte} {pick : List Byte → Bool} {wait : Dev → List Byte → Bool} {act : Dev → List Byte → Dev}

theorem Begins.active (h : Begins s f key op m) : s.dev.activeMsg f key op = some (m, (s.dev.mbx f key).len, false) := by
  obtain ⟨ho, hst, hb, hm, hop, -⟩ := h
  have := Dev.activeMsg_active ho hst hb (hm ▸ hop)
  rwa [hm] at this

theorem Begins.allowed (h : Begins s f key op m) : s.dev.stateAnswer op = none ∧ (physOnly op && f != 0) = false ∧ framing m (s.dev.mbx f key).len = none := by
  obtain ⟨-, -, -, -, -, hs, hph, hf⟩ := h
  refine ⟨hs, ?_, hf⟩
  by_cases hp : physOnly op = true
  · rw [hph hp]
    simp
  · rw [eq_false_of_ne_true hp]
    rfl

/-- The row of a command that begins carries it out. -/
theorem Begins.command (h : Begins s f key op m) (hp : pick m = true) (hx : exec i s = s.next (s.dev.command f key op pick act)) : exec i s = s.next (act s.dev m) := by
  obtain ⟨hs, hph, hf⟩ := h.allowed
  exact hx.trans (congrArg s.next (Dev.command_runs h.active hp hs hph hf))

theorem Begins.commandW (h : Begins s f key op m) (hp : pick m = true) (hw : wait s.dev m = false) (hx : exec i s = s.next (s.dev.commandW f key op pick wait act)) :
    exec i s = s.next (act s.dev m) := by
  obtain ⟨hs, hph, hf⟩ := h.allowed
  exact hx.trans (congrArg s.next (Dev.commandW_runs h.active hp hs hph hf hw))

/-- A command whose object is being changed waits. -/
theorem Begins.waits (h : Begins s f key op m) (hw : wait s.dev m = true) (hx : exec i s = s.next (s.dev.commandW f key op pick wait act)) : exec i s = .next s := by
  obtain ⟨hs, hph, hf⟩ := h.allowed
  exact hx.trans (congrArg s.next (Dev.commandW_waits h.active hs hph hf hw))

end

/-! ## Buffers and lengths -/

section
variable {d : Dev} {f key buf : Nat} {bs payload : List Byte}

theorem Dev.sendBuf_up (h : d.host.linkUp = true) : d.sendBuf f key buf bs payload = (d.hostWrite buf bs).respond f key rOk payload := if_pos h

theorem Dev.sendBuf_down (h : d.host.linkUp = false) : d.sendBuf f key buf bs payload = d.fail f key rFailed 0 := if_neg (by rw [h]; decide)

theorem flatMap_leBytes_length {α : Type} (l : List α) (n : Nat) (g : α → Nat) : (l.flatMap (fun a => leBytes n (g a))).length = l.length * n := by
  simp [List.length_flatMap, leBytes_length]

theorem Dev.vatMap_length (d : Dev) : d.vatMap.length = 1152 := by
  rw [Dev.vatMap, flatMap_leBytes_length, allNodes, List.length_range]

theorem Dev.infoBytes_length (d : Dev) : d.infoBytes.length = 64 := by
  have hp : d.partNumber.length = 16 := by simp [Dev.partNumber]
  simp [Dev.infoBytes, leBytes_length, hp]

/-- The health byte. -/
theorem Dev.health_eq (d : Dev) : d.health = if d.rrc.oos then 4 else if 0 < d.flt.openCount ∨ d.boot.failed = true then 3
    else if d.boot.stage < 8 ∨ d.boot.chipResetting = true then 0 else if d.degraded then 2 else 1 := by
  simp only [Dev.health, Dev.faultState, Dev.starting, Bool.or_eq_true, decide_eq_true_eq]

end

/-- A field of two bytes behind one of eight. -/
theorem leAt_eight_two (a b : Nat) (bs : List Byte) : leAt (leBytes 8 a ++ (leBytes 2 b ++ bs)) 8 2 = b % 256 ^ 2 := by
  have h := leAt_leBytes_append 2 b bs
  unfold leAt at h ⊢
  rw [List.drop_left' (leBytes_length 8 a)]
  exact h

/-- While a confidential partition exists, the power read is in steps of 25 W (R374). -/
theorem Dev.telBytes_power {d : Dev} (x : BitVec 64) (hr : d.anyRind = true) (hp : d.pwr.power100 < 2 ^ 16) : leAt (d.telBytes x) 8 2 = d.pwr.power100 / 25 * 25 := by
  unfold Dev.telBytes
  simp only [hr, if_true, List.append_assoc]
  rw [leAt_eight_two]
  exact Nat.mod_eq_of_lt (Nat.lt_of_le_of_lt (Nat.div_mul_le_self ..) hp)

/-! ## Acknowledged faults (15_faults_cave.md R447) -/

/-- An entry acknowledged: cleared where its action has completed and its condition is not held. -/
def FltEntry.acked (x : FltEntry) : FltEntry :=
  { x with ack := true, cleared := x.cleared || (!x.cleared && x.actionDone && !stickyKind x.m.kind) }

theorem Dev.ackFaults_list (d : Dev) (pick : Nat → Bool) :
    (d.ackFaults pick).flt.list = d.flt.list.zipIdx.map (fun e => if pick e.2 then e.1.acked else e.1) := by
  unfold Dev.ackFaults
  dsimp only
  split <;> rfl

theorem Dev.ackFaults_get {d : Dev} {pick : Nat → Bool} {i : Nat} {x : FltEntry} (h : d.flt.list[i]? = some x) :
    (d.ackFaults pick).flt.list[i]? = some (if pick i then x.acked else x) := by
  rw [Dev.ackFaults_list, List.getElem?_map, List.getElem?_zipIdx, h]
  simp

theorem Dev.respond_flt (d : Dev) (f key code : Nat) (bs : List Byte) : (d.respond f key code bs).flt = d.flt := by
  unfold Dev.respond
  by_cases h : (d.mbx f key).st = 2
  · rw [Dev.respondFlag_active h, Dev.doorbell_eq]
    rfl
  · rw [Dev.respondFlag_gone h]

/-- Settles O42. -/
theorem deviceCommandRows : Obligations.DeviceCommandRows := by
  unfold Obligations.DeviceCommandRows
  intro s f c m d refuse
  refine ⟨fun h => ?_, fun h => ?_, fun h => ?_, fun h => ?_, fun h => ?_, fun h => ?_, fun h => ?_, fun h => ?_, fun h => ?_, fun h => ?_, fun h => ?_⟩
  · have hx := h.command (i := .devInfo f c) rfl rfl
    exact ⟨fun hb => hx.trans (congrArg s.next (if_pos hb)), fun hb hl => hx.trans (congrArg s.next ((if_neg hb).trans (if_pos hl))),
      fun hb hl hu => hx.trans (congrArg s.next ((if_neg hb).trans ((if_neg (Nat.not_lt.2 hl)).trans (Dev.sendBuf_up hu)))), d.vatMap_length, d.infoBytes_length⟩
  · exact ⟨h.command (i := .devHealth f c) rfl rfl, d.health_eq⟩
  · have hx := h.command (i := .cfgGet f c) rfl rfl
    exact ⟨fun hb => hx.trans (congrArg s.next (if_pos hb)), fun hb hi => hx.trans (congrArg s.next ((if_neg hb).trans (if_pos (by rw [hi]; rfl)))),
      fun hb hi => hx.trans (congrArg s.next ((if_neg hb).trans (if_neg (by rw [hi]; decide))))⟩
  · have hx := h.command (i := .cfgStage f c) rfl rfl
    intro n entry bad
    have hbad (j : Nat) : (leAt m (0x14 + 16 * j) 4 != 0 || !cfgEntryOk (stageEntry m j)) = true ↔ bad j := by
      rw [Bool.or_eq_true, bne_iff_ne, Bool.not_eq_true']
      exact Iff.rfl
    have hgood (j : Nat) (h : ¬ bad j) : (!(leAt m (0x14 + 16 * j) 4 != 0 || !cfgEntryOk (stageEntry m j))) = true := by
      rw [Bool.not_eq_true']
      exact eq_false_of_ne_true (fun hb => h ((hbad j).1 hb))
    refine ⟨fun hn => hx.trans (congrArg s.next (if_pos hn)), fun h1 h15 hl => hx.trans (congrArg s.next ((if_neg (by omega)).trans (if_pos hl))),
      fun i h1 h15 hl hi hb hj => hx.trans (congrArg s.next ((if_neg (by omega)).trans ((if_neg (Nat.not_lt.2 hl)).trans ?_))),
      fun h1 h15 hl hj => hx.trans (congrArg s.next ((if_neg (by omega)).trans ((if_neg (Nat.not_lt.2 hl)).trans ?_)))⟩
    · rw [List.find?_range_eq_some.2 ⟨(hbad i).2 hb, List.mem_range.2 hi, fun j h => hgood j (hj j h)⟩]
      rfl
    · rw [List.find?_range_eq_none.2 (fun j h => hgood j (hj j h))]
      rfl
  · have hx := h.command (i := .cfgCommit f c) rfl rfl
    intro expect
    have hnone (h : ∀ e ∈ d.cfg.staged, d.cfgConflict e = false) : d.cfg.staged.find? d.cfgConflict = none :=
      List.find?_eq_none.2 (fun e he => by rw [h e he]; decide)
    refine ⟨fun h0 hc => hx.trans (congrArg s.next (if_pos ⟨h0, hc⟩)), fun he hs => hx.trans (congrArg s.next ((if_neg (by tauto)).trans (if_pos hs))),
      fun e he hf => hx.trans (congrArg s.next ((if_neg (by tauto)).trans ((if_neg ?_).trans ?_))), fun he hs hok hb => hx.trans (congrArg s.next ((if_neg (by tauto)).trans ((if_neg hs).trans ?_))),
      fun he hs hok hb => hx.trans (congrArg s.next ((if_neg (by tauto)).trans ((if_neg hs).trans ?_)))⟩
    · intro hs
      rw [show d.cfg.staged = [] from hs] at hf
      cases hf
    · rw [hf]
      rfl
    · rw [hnone hok, hb]
      rfl
    · rw [hnone hok, hb]
      rfl
  · exact h.command (i := .fltList f c) rfl rfl
  · have hx := h.command (i := .fltAck f c) rfl rfl
    intro e
    have hacks (pick : Nat → Bool) (he : exec (.fltAck f c) s = s.next ((d.ackFaults pick).respond f c rOk [])) (hp : ∀ i, (e = 0xFFFF ∨ e = i → pick i = true) ∧ (e ≠ 0xFFFF → e ≠ i → pick i = false)) :
        Completes (.fltAck f c) s (fun t => ∀ i x, d.flt.list[i]? = some x → (e = 0xFFFF ∨ e = i → t.flt.list[i]? = some x.acked) ∧ (e ≠ 0xFFFF → e ≠ i → t.flt.list[i]? = some x)) := by
      refine ⟨_, he, rfl, fun i x hi => ⟨fun hpi => ?_, fun h1 h2 => ?_⟩⟩
      · exact (congrArg (fun y : Flt => y.list[i]?) (Dev.respond_flt ..)).trans ((Dev.ackFaults_get hi).trans (by rw [if_pos ((hp i).1 hpi)]))
      · exact (congrArg (fun y : Flt => y.list[i]?) (Dev.respond_flt ..)).trans ((Dev.ackFaults_get hi).trans (by rw [if_neg (ne_true_of_eq_false ((hp i).2 h1 h2))]))
    refine ⟨fun h1 h2 => hx.trans (congrArg s.next ((if_neg h1).trans (if_pos h2))), fun h => ?_⟩
    by_cases hall : e = 0xFFFF
    · exact hacks (fun _ => true) (hx.trans (congrArg s.next (if_pos hall))) (fun i => ⟨fun _ => rfl, fun h => absurd hall h⟩)
    · exact hacks (fun i => i == e) (hx.trans (congrArg s.next ((if_neg hall).trans (if_neg (Nat.not_le.2 (h.resolve_left hall))))))
        (fun i => ⟨fun h => by rw [h.resolve_left hall]; exact beq_self_eq_true i, fun _ h => beq_eq_false_iff_ne.2 (Ne.symm h)⟩)
  · have hx := h.command (i := .evtRead f c) rfl rfl
    refine ⟨fun h1 => hx.trans (congrArg s.next (if_pos h1)), fun h1 => ?_⟩
    intro l oldest first out pay
    have hx := hx.trans (congrArg s.next (if_neg (Nat.not_lt.2 h1)))
    exact ⟨fun ho => hx.trans (congrArg s.next (if_pos ho)), fun ho hu => hx.trans (congrArg s.next ((if_neg ho).trans (Dev.sendBuf_up hu))),
      fun ho hu => hx.trans (congrArg s.next ((if_neg ho).trans (Dev.sendBuf_down hu)))⟩
  · exact h.command (i := .evtMark f c) rfl rfl
  · refine ⟨h.command (i := .telRead f c) rfl rfl, fun hr hp x => ?_⟩
    exact Dev.telBytes_power x hr hp
  · have hx := h.command (i := .pwrLimit f c) rfl rfl
    intro cap fl
    refine ⟨fun h1 => hx.trans (congrArg s.next (if_pos h1)), fun h1 h2 h3 => hx.trans (congrArg s.next ((if_neg (by omega)).trans (if_pos h3))), fun h1 h2 h3 => ?_⟩
    refine ⟨_, hx.trans (congrArg s.next ((if_neg (by omega)).trans (if_neg (Nat.not_le.2 h3)))), rfl, ?_⟩
    rw [apply_ite (fun d : Dev => d.begin_ f c)]
    split
    all_goals
      refine ⟨rfl, Dev.mbx_setMbx_same .., fun h => ?_, fun h => ?_⟩
      · exact if_pos (by rw [show leAt m 0x0A 1 = 1 from h]; decide)
      · exact if_neg (by rw [show leAt m 0x0A 1 = 0 from h]; decide)

end Sys2Proof.Machine
end

section
/-! PROOFS. Commands of groups 0x02, 0x03 and 0x05 (12_rennet.md R367, R368, R371, R376-R378): refusals in order, waits, effects. -/

namespace Sys2Proof.Machine

/-- A check that passes. -/
theorem ite_pass {α : Type} {p : Prop} [Decidable p] {a b e : α} (h : ¬ p) (hb : b = e) : (if p then a else b) = e := (if_neg h).trans hb

section
variable {α : Type} {b : Bool} {x y e : α}

theorem ite_pass_not (h : b = true) (he : y = e) : (if !b then x else y) = e := by
  subst h
  exact he

theorem ite_take_not (h : b = false) : (if !b then x else y) = x := by
  subst h
  rfl

theorem ite_pass_bool (h : b = false) (he : y = e) : (if b then x else y) = e := by
  subst h
  exact he

end

/-! ## Scrubs (10_memory.md R320) -/

section
variable {d : Dev} {p q psize first : Nat} {destroy : Bool}

/-- Keys are replaced, or dropped, or stay. -/
def Dev.scrubKeys (d : Dev) (p : Nat) (destroy : Bool) : Dev := if (d.part p).conf then (if destroy then d.dropKeys p else d.newKeys p) else d

theorem Dev.startScrub_eq (d : Dev) (p : Nat) (destroy : Bool) : d.startScrub p destroy =
    ((d.dropKeeps p).scrubKeys p destroy).setPart p { ((d.dropKeeps p).scrubKeys p destroy).part p with st := 2, scrub := true, destroying := destroy } := rfl

theorem Dev.startScrub_part (d : Dev) (p : Nat) (destroy : Bool) :
    (d.startScrub p destroy).part p = { ((d.dropKeeps p).scrubKeys p destroy).part p with st := 2, scrub := true, destroying := destroy } := by
  rw [Dev.startScrub_eq]
  exact Dev.part_setPart_same ..

theorem Dev.scrubKeys_ext (d : Dev) (p : Nat) (destroy : Bool) : (d.scrubKeys p destroy).ext = d.ext := by
  unfold Dev.scrubKeys
  split
  · split <;> rfl
  · rfl

theorem Dev.startScrub_keeps (d : Dev) (p : Nat) (destroy : Bool) : ∀ r ∈ (d.startScrub p destroy).ext.keeps, r.part ≠ p := by
  intro r hr
  rw [Dev.startScrub_eq, Dev.setPart_ext, Dev.scrubKeys_ext] at hr
  simpa using (List.mem_filter.1 hr).2

/-- A confidential partition that is not destroyed takes the next key pair. -/
theorem Dev.scrubKeys_new (hc : (d.part p).conf = true) : (d.scrubKeys p false).part p = { d.part p with keyNo := d.sec.nextKey } := by
  unfold Dev.scrubKeys
  rw [if_pos hc]
  exact Dev.part_setPart_same ..

/-- The mode of a partition that a command leaves, or changes (R304). -/
theorem setMode_keeps {b l : Bool} {x : Part} {h : Nat} (hb : b = false) : ({ x with local_ := if b then l else x.local_, home := if b then h else x.home } : Part) = x := by
  subst hb
  rfl

theorem setMode_changes {b l : Bool} {x : Part} {h : Nat} (hb : b = true) :
    ({ x with local_ := if b then l else x.local_, home := if b then h else x.home } : Part) = { x with local_ := l, home := h } := by
  subst hb
  rfl

/-- A partition becomes confidential, and its scrub begins. -/
def Dev.turnConf (d : Dev) (p : Nat) : Dev := (d.setPart p { d.part p with conf := true }).startScrub p (d.part p).destroying

theorem Dev.turnConf_part (h : (d.part p).destroying = false) : ((d.turnConf p).part p).conf = true ∧ ((d.turnConf p).part p).st = 2 ∧
    ((d.turnConf p).part p).scrub = true ∧ ((d.turnConf p).part p).keyNo = d.sec.nextKey := by
  have hc : (((d.setPart p { d.part p with conf := true }).dropKeeps p).part p).conf = true := congrArg Part.conf (Dev.part_setPart_same ..)
  have hp : (d.turnConf p).part p = { ((d.setPart p { d.part p with conf := true }).dropKeeps p).part p with keyNo := d.sec.nextKey, st := 2, scrub := true, destroying := false } := by
    unfold Dev.turnConf
    rw [Dev.startScrub_part, h, Dev.scrubKeys_new hc]
    rfl
  rw [hp]
  exact ⟨hc, rfl, rfl, rfl⟩

theorem Dev.respond_part (d : Dev) (f key code : Nat) (bs : List Byte) (p : Nat) : (d.respond f key code bs).part p = d.part p := by
  unfold Dev.respond
  by_cases h : (d.mbx f key).st = 2
  · rw [Dev.respondFlag_active h, Dev.doorbell_eq]
    rfl
  · rw [Dev.respondFlag_gone h]

/-! ## The block of a new partition (R304) -/

theorem Dev.freeBlock_free (h : d.freeBlock q psize = some first) : first % vatsOf psize = 0 ∧
    ∀ i, i < vatsOf psize → first + i ∉ d.vatsTaken q ∧ d.vatAt q (first + i) ≠ none := by
  unfold Dev.freeBlock at h
  have hmem := List.mem_of_find?_eq_some h
  have hall := List.find?_some h
  obtain ⟨j, -, rfl⟩ := List.mem_map.1 hmem
  refine ⟨Nat.mul_mod_left .., fun i hi => ?_⟩
  have := List.all_eq_true.1 hall i (List.mem_range.2 hi)
  simpa [Option.isSome_iff_ne_none] using this

theorem Dev.partBytes_length (d : Dev) (p : Nat) : (d.partBytes p).length = 160 := by
  simp [Dev.partBytes, leBytes_length]

end

/-! ## Commands about a context (R359, R367, R376) -/

section
variable {s : State} {i : Instr} {f key op : Nat} {m : List Byte} {pick : List Byte → Bool} {busy : Dev → List Byte → Bool} {act : Dev → List Byte → Dev}
  (h : Begins s f key op m) (hp : pick m = true) (hx : exec i s = s.next (s.dev.ctxCommand f key op pick busy act))
include h hx

theorem Begins.ctxWaits (hr : reaches f (reqCtx m / 16) = true) (hb : busy s.dev m = true) : exec i s = .next s :=
  h.waits (by rw [hr, hb]; rfl) hx

include hp

theorem Begins.ctxDenied (hr : reaches f (reqCtx m / 16) = false) : exec i s = s.next (s.dev.fail f key rDenied 8) :=
  (h.commandW hp (by rw [hr]; rfl) hx).trans (congrArg s.next (if_pos (by rw [hr]; rfl)))

theorem Begins.ctxGone (hr : reaches f (reqCtx m / 16) = true) (hl : (s.dev.ctx (reqCtx m)).live = false) (hb : busy s.dev m = false) :
    exec i s = s.next (s.dev.fail f key rNotFound 8) :=
  (h.commandW hp (by rw [hb, Bool.and_false]) hx).trans (congrArg s.next (ite_pass (by rw [hr]; decide) (if_pos (by rw [hl]; rfl))))

theorem Begins.ctxRuns (hr : reaches f (reqCtx m / 16) = true) (hl : (s.dev.ctx (reqCtx m)).live = true) (hb : busy s.dev m = false) :
    exec i s = s.next (act s.dev m) :=
  (h.commandW hp (by rw [hb, Bool.and_false]) hx).trans (congrArg s.next (ite_pass (by rw [hr]; decide) (if_neg (by rw [hl]; decide))))

end

/-- Settles O43. -/
theorem partitionCommandRows : Obligations.PartitionCommandRows := by
  unfold Obligations.PartitionCommandRows
  intro s f c m d refuse p q b9 bA bB ctx k here ctxRows
  have hsome (hon : d.partOn p = true) (hst : q.st ≠ 0) : (!d.partOn p || q.st == 0) = false := by simp [hon, hst]
  refine ⟨fun h hbusy => ?_, fun hon hbusy => ⟨fun h => ?_, fun h => ?_, fun h => ?_, fun h => ?_⟩, fun row op hrow h hgone => ?_, fun hon hbusy hst => ⟨fun h => ?_, fun h => ?_, fun h => ?_⟩,
    fun hctx destroy => ?_, fun h => ?_, fun row op hrow h hmode => ?_, fun hhere hbusy => ⟨fun h => ?_, fun h => ?_⟩, fun hhere hbusy => ⟨fun h => ?_, fun h => ?_⟩, fun h => ?_, fun h => ?_, fun h => ?_⟩
  · have hx := h.commandW (i := .partCreate f c) rfl (show (d.partOn p && d.partBusy p) = false by rw [hbusy, Bool.and_false]) rfl
    have hx9 (hon : d.partOn p = true) (h9 : b9 ≤ 4) {e : Dev} (he : _ = e) : exec (.partCreate f c) s = s.next e :=
      hx.trans (congrArg s.next (ite_pass_not hon (ite_pass (Nat.not_lt.2 h9) he)))
    refine ⟨fun hon => hx.trans (congrArg s.next (ite_take_not hon)), fun hon h9 => hx.trans (congrArg s.next (ite_pass_not hon (if_pos h9))),
      fun hon h9 hA => hx9 hon h9 (if_pos hA), fun hon h9 hA hB => hx9 hon h9 (ite_pass (Nat.not_lt.2 hA) (if_pos hB)), fun hon h9 hA hB => ?_⟩
    have hx := fun {e : Dev} (he : _ = e) => hx9 hon h9 (ite_pass (Nat.not_lt.2 hA) (ite_pass (Nat.not_lt.2 hB) he))
    have hbit : bit bB 0 = (bB == 1) := by
      have : bB = 0 ∨ bB = 1 := by omega
      rcases this with h | h <;> rw [h] <;> decide
    have hx0 := fun (h0 : q.st = 0) {e : Dev} (he : _ = e) => hx (ite_pass (fun ⟨h1, _⟩ => absurd (h0.symm.trans h1) (by decide)) (ite_pass (not_not.2 h0) he))
    refine ⟨fun h1 h2 h3 h4 => hx (if_pos ⟨h1, h2, h3, h4.trans hbit.symm⟩), fun h0 hne => hx (ite_pass ?_ (if_pos h0)), fun h0 h1 hd => hx0 h0 (if_pos ?_), fun h0 hd hf => hx0 h0 (ite_pass_bool ?_ ?_), fun first h0 hf => ⟨fun hB0 => hx0 h0 (ite_pass_bool ?_ ?_), fun hB1 hd => hx0 h0 (ite_pass_bool ?_ ?_), Dev.freeBlock_free hf⟩⟩
    · exact fun ⟨h1, h2, h3, h4⟩ => hne.elim (· h1) (·.elim (· h2) (·.elim (· h3) (· (h4.trans hbit))))
    · show (bit bB 0 && d.sec.debugScope != 0) = true
      rw [h1, Bool.and_eq_true, bne_iff_ne]
      exact ⟨by decide, hd⟩
    · show (bit bB 0 && d.sec.debugScope != 0) = false
      rw [hbit]
      by_cases h1 : bB = 1
      · rw [hd h1, Bool.and_eq_false_iff]
        exact .inr rfl
      · rw [beq_false_of_ne h1, Bool.false_and]
    · rw [show s.dev.freeBlock (reqPart m / 16) (leAt m 9 1) = none from hf]
      rfl
    · show (bit bB 0 && d.sec.debugScope != 0) = false
      rw [hB0]
      rfl
    · rw [show s.dev.freeBlock (reqPart m / 16) (leAt m 9 1) = some first from hf, show leAt m 0x0B 1 = 0 from hB0]
      rfl
    · show (bit bB 0 && d.sec.debugScope != 0) = false
      rw [hd, Bool.and_eq_false_iff]
      exact .inr rfl
    · rw [show s.dev.freeBlock (reqPart m / 16) (leAt m 9 1) = some first from hf, show leAt m 0x0B 1 = 1 from hB1]
      rfl
  · exact h.waits (show (d.partOn p && d.partBusy p) = true by rw [hon, hbusy]; rfl) rfl
  · exact h.waits (show (d.partOn p && d.partBusy p) = true by rw [hon, hbusy]; rfl) rfl
  · exact h.waits (show (d.partOn p && d.partBusy p) = true by rw [hon, hbusy]; rfl) rfl
  · exact h.waits (show (d.partOn p && d.partBusy p) = true by rw [hon, hbusy]; rfl) rfl
  · have hw : (d.partOn p && d.partBusy p) = false := by rcases hgone with hg | ⟨hg, -⟩ <;> simp [hg]
    have hg : (!d.partOn p || q.st == 0) = true := by rcases hgone with hg | ⟨-, hg⟩ <;> simp [hg]
    simp only [List.mem_cons, Prod.mk.injEq, List.not_mem_nil, or_false] at hrow
    rcases hrow with ⟨rfl, rfl⟩ | ⟨rfl, rfl⟩ | ⟨rfl, rfl⟩
    · exact (h.commandW (i := .partDestroy f c) rfl hw rfl).trans (congrArg s.next (if_pos hg))
    · exact (h.commandW (i := .partSetMode f c) rfl hw rfl).trans (congrArg s.next (if_pos hg))
    · exact (h.commandW (i := .memScrub f c) rfl hw rfl).trans (congrArg s.next (if_pos hg))
  · have hx := h.commandW (i := .partDestroy f c) rfl (show (d.partOn p && d.partBusy p) = false by rw [hbusy, Bool.and_false]) rfl
    have hx := fun {e : Dev} (he : _ = e) => hx.trans (congrArg s.next (ite_pass_bool (hsome hon hst) he))
    exact ⟨fun hc => hx (if_pos hc), fun hc hs => hx (ite_pass (not_not.2 hc) (if_pos hs)), fun hc hs => hx (ite_pass (not_not.2 hc) (ite_pass_bool hs rfl))⟩
  · have hx := h.commandW (i := .memScrub f c) rfl (show (d.partOn p && d.partBusy p) = false by rw [hbusy, Bool.and_false]) rfl
    have hx := fun {e : Dev} (he : _ = e) => hx.trans (congrArg s.next (ite_pass_bool (hsome hon hst) he))
    exact ⟨fun hc => hx (if_pos hc), fun hc => hx (if_neg (not_not.2 hc))⟩
  · have hx := h.commandW (i := .partSetMode f c) rfl (show (d.partOn p && d.partBusy p) = false by rw [hbusy, Bool.and_false]) rfl
    have hx := fun {e : Dev} (he : _ = e) => hx.trans (congrArg s.next (ite_pass_bool (hsome hon hst) he))
    refine ⟨fun h9 => hx (if_pos h9), fun h9 hA => hx (ite_pass (Nat.not_lt.2 h9) (if_pos hA)), fun h9 hA hB => hx (ite_pass (Nat.not_lt.2 h9) (ite_pass (Nat.not_lt.2 hA) (if_pos hB))), fun hA hB => ?_⟩
    have hx := fun (h9 : b9 ≤ 3) {e : Dev} (he : _ = e) => hx (ite_pass (Nat.not_lt.2 h9) (ite_pass (Nat.not_lt.2 hA) (ite_pass (Nat.not_lt.2 hB) he)))
    have hmode (h9 : b9 = 1) (hne : (bA == 1) ≠ q.local_) : (bit b9 0 && (bA == 1) != q.local_) = true := by
      rw [h9, bne_iff_ne.2 hne]
      rfl
    have hconf (h9 : b9 = 2) (hne : (bB == 1) ≠ q.conf) : (bit b9 1 && (bB == 1) != q.conf) = true := by
      rw [h9, bne_iff_ne.2 hne]
      rfl
    have hstay : b9 = 0 ∨ b9 = 2 → (bit b9 0 && (bA == 1) != q.local_) = false := by
      rintro (h9 | h9) <;> rw [h9] <;> rfl
    have hstay' : b9 = 0 ∨ b9 = 1 → (bit b9 1 && (bB == 1) != q.conf) = false := by
      rintro (h9 | h9) <;> rw [h9] <;> rfl
    refine ⟨fun h9 => hx (by omega) (ite_pass_bool ?_ (ite_pass_bool ?_ (ite_pass_bool ?_ ?_))), fun h9 hm hg => hx (by omega) (if_pos ?_),
      fun h9 hm hg => hx (by omega) (ite_pass_bool ?_ (ite_pass_bool ?_ (ite_pass_bool ?_ ?_))), fun h9 hc hp => hx (by omega) (ite_pass_bool ?_ (if_pos ?_)),
      fun h9 hB hc hp hd => hx (by omega) (ite_pass_bool ?_ (ite_pass_bool ?_ (if_pos ?_))), fun h9 hB hc hp hd hds => ?_⟩
    · exact Bool.and_eq_false_iff.2 (.inl (hstay (.inl h9)))
    · exact Bool.and_eq_false_iff.2 (.inl (hstay' (.inl h9)))
    · exact Bool.and_eq_false_iff.2 (.inl (Bool.and_eq_false_iff.2 (.inl (hstay' (.inl h9)))))
    · refine congrArg (fun d => Dev.respond d f c 0 []) (ite_pass_bool (hstay' (.inl h9)) (congrArg (Dev.setPart d p) ?_))
      exact setMode_keeps (hstay (.inl h9))
    · rw [Bool.and_eq_true]
      exact ⟨hmode h9 hm, bne_iff_ne.2 hg⟩
    · exact Bool.and_eq_false_iff.2 (.inr (bne_eq_false_iff_eq.2 hg))
    · exact Bool.and_eq_false_iff.2 (.inl (hstay' (.inr h9)))
    · exact Bool.and_eq_false_iff.2 (.inl (Bool.and_eq_false_iff.2 (.inl (hstay' (.inr h9)))))
    · refine congrArg (fun d => Dev.respond d f c 0 []) (ite_pass_bool (hstay' (.inr h9)) (congrArg (Dev.setPart d p) ?_))
      exact setMode_changes (hmode h9 hm)
    · exact Bool.and_eq_false_iff.2 (.inl (hstay (.inr h9)))
    · rw [Bool.and_eq_true]
      exact ⟨hconf h9 hc, bne_iff_ne.2 hp⟩
    · exact Bool.and_eq_false_iff.2 (.inl (hstay (.inr h9)))
    · exact Bool.and_eq_false_iff.2 (.inr (bne_eq_false_iff_eq.2 hp))
    · rw [Bool.and_eq_true, Bool.and_eq_true]
      exact ⟨⟨hconf h9 (by rw [hB, hc]; decide), beq_iff_eq.2 hB⟩, bne_iff_ne.2 hd⟩
    · have hne : (bB == 1) ≠ q.conf := by rw [hB, hc]; decide
      refine ⟨_, hx (by omega) (ite_pass_bool (Bool.and_eq_false_iff.2 (.inl (hstay (.inr h9)))) (ite_pass_bool (Bool.and_eq_false_iff.2 (.inr (bne_eq_false_iff_eq.2 hp)))
        (ite_pass_bool (Bool.and_eq_false_iff.2 (.inr (bne_eq_false_iff_eq.2 hd))) (congrArg (fun d => Dev.respond d f c rOk []) ((if_pos (hconf h9 hne)).trans
        (show _ = Dev.turnConf _ p by rw [show leAt m 0x0B 1 = 1 from hB]; rfl)))))), rfl, ?_⟩
      show (fun x : Part => x.conf = true ∧ x.st = 2 ∧ x.scrub = true ∧ x.keyNo = d.sec.nextKey) ((Dev.respond _ f c rOk []).part p)
      rw [Dev.respond_part]
      exact Dev.turnConf_part (by rw [if_pos rfl]; exact (congrArg Part.destroying (Dev.part_setPart_same ..)).trans hds)
  · have hp := d.startScrub_part p destroy
    refine ⟨by rw [hp], by rw [hp], by rw [hp], d.startScrub_keeps p destroy, fun hc hd => ?_⟩
    subst hd
    rw [hp, Dev.scrubKeys_new (d := d.dropKeeps p) hc]
    rfl
  · have hx := h.command (i := .partQuery f c) rfl rfl
    exact ⟨fun hr => hx.trans (congrArg s.next (ite_take_not hr)),
      fun hr hon => hx.trans (congrArg s.next (ite_pass_not hr (ite_take_not hon))),
      fun hr hon => ⟨hx.trans (congrArg s.next (ite_pass_not hr (ite_pass_not hon rfl))), d.partBytes_length p⟩⟩
  · simp only [ctxRows, List.mem_cons, Prod.mk.injEq, List.not_mem_nil, or_false] at hrow
    have hctx {pick : List Byte → Bool} {busy : Dev → List Byte → Bool} {act : Dev → List Byte → Dev} (hp : pick m = true) (hx : exec row s = s.next (d.ctxCommand f c op pick busy act))
        (hb : d.ctxBusy ctx = false → d.resetBusy ctx = false → busy d m = false)
        (hb' : (op = 0x0302 ∨ op = 0x0304 → d.resetBusy ctx = true) → (op = 0x0303 ∨ op = 0x0502 → d.ctxBusy ctx = true) → busy d m = true) :
        (reaches f (ctx / 16) = false → exec row s = .next (refuse 0x04 8)) ∧
          (reaches f (ctx / 16) = true → k.live = false → d.ctxBusy ctx = false → d.resetBusy ctx = false → exec row s = .next (refuse 0x05 8)) ∧
          (reaches f (ctx / 16) = true → (op = 0x0302 ∨ op = 0x0304 → d.resetBusy ctx = true) → (op = 0x0303 ∨ op = 0x0502 → d.ctxBusy ctx = true) → exec row s = .next s) :=
      ⟨fun hr => h.ctxDenied hp hx hr, fun hr hl h1 h2 => h.ctxGone hp hx hr hl (hb h1 h2), fun hr h1 h2 => h.ctxWaits hx hr (hb' h1 h2)⟩
    rcases hrow with ⟨rfl, rfl⟩ | ⟨rfl, rfl⟩ | ⟨rfl, rfl⟩ | ⟨rfl, rfl⟩ | ⟨rfl, rfl⟩
    · exact hctx (pick := anyMsg) rfl rfl (fun _ h => h) (fun h _ => h (.inl rfl))
    · exact hctx (pick := anyMsg) rfl rfl (fun h _ => h) (fun _ h => h (.inl rfl))
    · refine hctx (pick := fun m => leAt m 0x0A 1 != 1) (bne_iff_ne.2 (fun h1 => ?_)) rfl (fun _ h => h) (fun h _ => h (.inr rfl))
      cases (hmode rfl).2 h1
    · exact hctx (pick := fun m => leAt m 0x0A 1 == 1) (beq_iff_eq.2 ((hmode rfl).1 rfl)) rfl (fun _ h => h) (fun h _ => h (.inr rfl))
    · exact hctx (pick := anyMsg) rfl rfl (fun h _ => h) (fun _ h => h (.inr rfl))
  · obtain ⟨hr, hl⟩ := hhere
    have hx := h.ctxRuns (i := .ctxDestroy f c) rfl rfl hr hl hbusy
    exact ⟨fun hm => hx.trans (congrArg s.next (if_pos hm)), fun hm => hx.trans (congrArg s.next (ite_pass_bool hm rfl))⟩
  · obtain ⟨hr, hl⟩ := hhere
    refine ⟨fun hA => ?_, fun hA => ?_, fun hA => ?_⟩
    · have hx := h.ctxRuns (i := .ctxResetClear f c) (pick := fun m => leAt m 0x0A 1 != 1) (bne_iff_ne.2 (show bA ≠ 1 by omega)) rfl hr hl hbusy
      exact hx.trans (congrArg s.next (if_pos hA))
    · have hx := h.ctxRuns (i := .ctxResetClear f c) (pick := fun m => leAt m 0x0A 1 != 1) (bne_iff_ne.2 (show bA ≠ 1 by omega)) rfl hr hl hbusy
      exact hx.trans (congrArg s.next (ite_pass (show ¬ 1 < bA by omega) rfl))
    · exact h.ctxRuns (i := .ctxResetResume f c) (pick := fun m => leAt m 0x0A 1 == 1) (busy := fun d m => d.resetBusy (reqCtx m)) (beq_iff_eq.2 hA) rfl hr hl hbusy
  · obtain ⟨hr, hl⟩ := hhere
    have hx := h.ctxRuns (i := .ctxSched f c) rfl rfl hr hl hbusy
    intro ms
    refine ⟨fun h1 => hx.trans (congrArg s.next (if_pos h1)), fun h1 h0 hm => hx.trans (congrArg s.next (ite_pass (Nat.not_lt.2 h1) (if_pos ⟨h0, hm⟩))),
      fun h1 hm hres => hx.trans (congrArg s.next (ite_pass (Nat.not_lt.2 h1) (ite_pass ?_ ?_)))⟩
    · rintro ⟨h0, hm1⟩
      exact hm.elim h0 (fun hm => absurd (hm.symm.trans hm1) (by decide))
    · have hnone : (d.part (ctx / 16)).resident.isNone = false := Option.isNone_eq_false_iff.2 (Option.isSome_iff_ne_none.2 hres)
      refine congrArg (fun d => Dev.respond d f c rOk []) (ite_pass_bool ?_ rfl)
      exact Bool.and_eq_false_iff.2 (.inr hnone)
  · obtain ⟨hr, hl⟩ := hhere
    have hx := h.ctxRuns (i := .memUnmap f c) rfl rfl hr hl hbusy
    have hx := fun (hA : bA ≤ 63) {e : Dev} (he : _ = e) => hx.trans (congrArg s.next (ite_pass (Nat.not_lt.2 hA) he))
    refine ⟨fun hA => (h.ctxRuns (i := .memUnmap f c) rfl rfl hr hl hbusy).trans (congrArg s.next (if_pos hA)), fun hA hv => hx hA (ite_take_not hv), fun hA hv hp => hx hA (ite_pass_not hv (if_pos ?_)), fun hA hv hp => hx hA (ite_pass_not hv (ite_pass_bool ?_ rfl))⟩
    · exact beq_iff_eq.2 hp
    · exact beq_false_of_ne hp
  · intro off n g
    have hx := fun (hr : reaches f (ctx / 16) = true) (hb : d.ctxBusy ctx = false) {e : Dev} (he : _ = e) =>
      (h.commandW (i := .memMap f c) rfl (show (reaches f (ctx / 16) && d.ctxBusy ctx) = false by rw [hb, Bool.and_false]) rfl).trans (congrArg s.next (ite_pass_not hr he))
    refine ⟨fun hr => (h.commandW (i := .memMap f c) rfl (show (reaches f (ctx / 16) && d.ctxBusy ctx) = false by rw [hr, Bool.false_and]) rfl).trans (congrArg s.next (ite_take_not hr)),
      fun hr hb => h.waits (show (reaches f (ctx / 16) && d.ctxBusy ctx) = true by rw [hr, hb]; rfl) rfl, fun hr hb h2 => hx hr hb (if_pos h2), fun ⟨hr, hl⟩ hb h2 => ?_⟩
    have hx := fun {e : Dev} (he : _ = e) => hx hr hb (ite_pass h2 (ite_pass_not hl he))
    refine ⟨fun hA => hx (if_pos hA), fun hA hB => hx (ite_pass (Nat.not_lt.2 hA) (if_pos hB)), fun hA hB ho => hx (ite_pass (Nat.not_lt.2 hA) (ite_pass (Nat.not_lt.2 hB) (if_pos ho))),
      fun hA hB ho ho' hn => hx (ite_pass (Nat.not_lt.2 hA) (ite_pass (Nat.not_lt.2 hB) (ite_pass (show ¬ (off % 4096 ≠ 0 ∨ 2 ^ 43 ≤ off) by omega) (if_pos hn)))), fun hA hB ho hn hn' hon => ?_⟩
    have hx := fun {e : Dev} (he : _ = e) => hx (ite_pass (Nat.not_lt.2 hA) (ite_pass (Nat.not_lt.2 hB) (ite_pass (show ¬ (off % 4096 ≠ 0 ∨ 2 ^ 43 ≤ off) by omega)
      (ite_pass (show ¬ (n = 0 ∨ 0x80000000 < n ∨ 2 ^ 43 < off + n * 4096) by omega) he))))
    have hsame : g.same bB (off / 4096) n = true ↔ (g.rd = bit bB 0 ∧ g.wr = bit bB 1 ∧ g.keep = bit bB 2 ∧ g.base = off / 4096 ∧ g.pages = n) := by
      simp [Seg.same, and_assoc]
    have hclash : k.segs.any (fun e => e.2.valid && runsOverlap (off / 4096, n) (e.2.base, e.2.pages)) = true ↔ ∃ e ∈ k.segs, e.2.valid = true ∧ off / 4096 < e.2.base + e.2.pages ∧ e.2.base < off / 4096 + n := by
      simp [runsOverlap]
    refine ⟨fun hv hs => hx ((if_pos hv).trans (if_pos (hsame.2 hs))), fun hv hs => hx ((if_pos hv).trans (if_neg (fun h => hs (hsame.1 h)))),
      fun hv hc => hx (ite_pass_bool hv (if_pos (hclash.2 hc))), fun hv hc => ?_⟩
    have hx := fun {e : Dev} (he : _ = e) => hx (ite_pass_bool hv (ite_pass (fun h => by obtain ⟨e, he, h⟩ := hclash.1 h; exact hc e he h) he))
    refine ⟨fun ht => hx ?_, fun d1 page ht => hx ?_⟩
    · rw [show s.dev.takeRun (reqCtx m / 16) (leAt m 0x18 4) 512 (leAt m 0x10 8 / 4096 % 512) 8192 = none from ht]
      rfl
    · rw [show s.dev.takeRun (reqCtx m / 16) (leAt m 0x18 4) 512 (leAt m 0x10 8 / 4096 % 512) 8192 = some (d1, page) from ht]
      rfl
  · intro ch page la
    have hx := h.command (i := .memRetire f c) rfl rfl
    refine ⟨fun hc => hx.trans (congrArg s.next (if_pos hc)), fun h1 h2 h3 => hx.trans (congrArg s.next (ite_pass (show ¬ (32 ≤ ch ∨ (d.chan ch).st ≠ 1) by omega) (if_pos h3))), fun h1 h2 h3 h4 => ?_⟩
    intro d1
    have hx := fun {e : Dev} (he : _ = e) => hx.trans (congrArg s.next (ite_pass (show ¬ (32 ≤ ch ∨ (d.chan ch).st ≠ 1) by omega)
      (ite_pass (show ¬ (2 ^ 26 ≤ page ∨ bandsOf (d.chan ch).cap ≤ bits page 25 13) by omega) he)))
    exact ⟨fun h0 => hx (if_pos h0), fun h0 => hx (if_neg h0)⟩
  · intro pc id
    have hx := fun (hr : reaches f pc = true) (hb : d.partBusy pc = false) {e : Dev} (he : _ = e) =>
      (h.commandW (i := .ctxCreate f c) rfl (show (reaches f pc && d.partBusy pc) = false by rw [hb, Bool.and_false]) rfl).trans (congrArg s.next (ite_pass_not hr he))
    have hx2 := fun (hr : reaches f pc = true) (hb : d.partBusy pc = false) (h2 : (d.part pc).st ≠ 2) {e : Dev} (he : _ = e) =>
      hx hr hb (ite_pass_bool (show (d.partOn pc && (d.part pc).st == 2) = false by rw [beq_false_of_ne h2, Bool.and_false]) he)
    have hslot {o : Option Nat} (hon : d.partOn pc = true) (ho : d.slotOf pc id = o) : (if s.dev.partOn (leAt m 0x0C 1) then s.dev.slotOf (leAt m 0x0C 1) (leAt m 8 4) else none) = o :=
      (if_pos hon).trans ho
    refine ⟨fun hr => (h.commandW (i := .ctxCreate f c) rfl (show (reaches f pc && d.partBusy pc) = false by rw [hr, Bool.false_and]) rfl).trans (congrArg s.next (ite_take_not hr)),
      fun hr hb => h.waits (show (reaches f pc && d.partBusy pc) = true by rw [hr, hb]; rfl) rfl, fun hr hb hon h2 => hx hr hb (if_pos (show (d.partOn pc && (d.part pc).st == 2) = true by rw [hon, h2]; decide)),
      fun hr hb hon h2 ho => ⟨fun hf => hx2 hr hb h2 ?_, fun hf hn => hx2 hr hb h2 ?_, fun hf hn => hx2 hr hb h2 ?_⟩, fun slot hr hb hon ho => ?_⟩
    · rw [hslot hon ho]
      exact if_pos hf
    · rw [hslot hon ho]
      exact ite_pass (not_not.2 hf) (congrArg (s.dev.fail f c rNotFound) (if_pos hn))
    · rw [hslot hon ho]
      exact ite_pass (not_not.2 hf) (congrArg (s.dev.fail f c rNotFound) (if_neg hn))
    · intro cx x
      have hfits (h1 : (d.part pc).st = 1) (hps : (d.part pc).psize = sdPsize x) (hcf : (d.part pc).conf = sdConf x) : ¬ ((d.part pc).st ≠ 1 ∨ (d.part pc).psize ≠ sdPsize x ∨ (d.part pc).conf ≠ sdConf x) := by tauto
      have hempty (hok : (d.part pc).conf = false ∨ d.partCtxs pc = []) : ((d.part pc).conf && d.partCtxs pc != []) = false := by
        rcases hok with h | h
        · rw [h, Bool.false_and]
        · rw [h, Bool.and_eq_false_iff]
          exact .inr rfl
      have hne2 (h1 : (d.part pc).st = 1) : (d.part pc).st ≠ 2 := by omega
      refine ⟨fun h2 hl hid => hx2 hr hb h2 ?_, fun h2 hl hne => hx2 hr hb h2 ?_, fun hl h1 hps hcf => ⟨fun hc hne => hx2 hr hb (hne2 h1) ?_, fun hok => ⟨fun ht => hx2 hr hb (hne2 h1) ?_, fun d1 page ht => hx2 hr hb (hne2 h1) ?_⟩⟩⟩
      all_goals rw [hslot hon ho]
      · exact (if_pos hl).trans (if_pos hid)
      · exact ite_pass_bool hl (if_pos hne)
      · refine ite_pass_bool hl (ite_pass (hfits h1 hps hcf) (if_pos ?_))
        rw [Bool.and_eq_true, bne_iff_ne]
        exact ⟨hc, hne⟩
      · refine ite_pass_bool hl (ite_pass (hfits h1 hps hcf) (ite_pass_bool (hempty hok) ?_))
        rw [show s.dev.takeRun (leAt m 0x0C 1) (savePages (s.dev.part (leAt m 0x0C 1)).psize) 1 0 8192 = none from ht]
        rfl
      · refine ite_pass_bool hl (ite_pass (hfits h1 hps hcf) (ite_pass_bool (hempty hok) ?_))
        rw [show s.dev.takeRun (leAt m 0x0C 1) (savePages (s.dev.part (leAt m 0x0C 1)).psize) 1 0 8192 = some (d1, page) from ht]
        rfl

end Sys2Proof.Machine
end

section
/-! PROOFS. What a chip reset leaves (14_recovery.md R417): the start at S0, the blocks at reset, the receivers down. -/

namespace Sys2Proof.Machine

/-- Every read of a table has a property that the default and every entry have. -/
theorem smGet_of_forall {α : Type} {P : α → Prop} {z : α} {m : SMap α} (hz : P z) (hm : ∀ e ∈ m, P e.2) (k : Nat) : P (smGet z m k) := by
  induction m with
  | nil => exact hz
  | cons e m ih =>
    obtain ⟨j, v⟩ := e
    unfold smGet
    split
    · exact hm _ List.mem_cons_self
    · exact ih (fun e he => hm e (List.mem_cons_of_mem _ he))

theorem smGet_smMap_of {α : Type} [DecidableEq α] {P : α → Prop} {z : α} {f : α → α} {m : SMap α} (hz : P z) (hf : ∀ x, P (f x)) (k : Nat) : P (smGet z (smMap z f m) k) := by
  refine smGet_of_forall hz (fun e he => ?_) k
  obtain ⟨x, -, rfl⟩ := List.mem_map.1 (List.mem_filter.1 he).1
  exact hf _

/-! ## Configuration and fences leave the reset blocks alone -/

/-- Nothing of a start, the reset controller, the mesh, the collective engines, the check-value units, the agent or the host
differs, and idle curds stay idle. -/
def ResetKept (d x : Dev) : Prop :=
  x.boot = d.boot ∧ x.rrc = d.rrc ∧ x.mesh = d.mesh ∧ x.coll = d.coll ∧ x.cv = d.cv ∧ x.fm = d.fm ∧ x.host = d.host ∧
    ((∀ k, (d.curd k).st = .idle) → ∀ k, (x.curd k).st = .idle)

section
variable {d x y : Dev}

theorem ResetKept.refl (d : Dev) : ResetKept d d := ⟨rfl, rfl, rfl, rfl, rfl, rfl, rfl, fun h => h⟩

theorem ResetKept.trans (h : ResetKept d x) (h' : ResetKept x y) : ResetKept d y := by
  obtain ⟨h1, h2, h3, h4, h5, h6, h7, h8⟩ := h
  obtain ⟨g1, g2, g3, g4, g5, g6, g7, g8⟩ := h'
  exact ⟨g1.trans h1, g2.trans h2, g3.trans h3, g4.trans h4, g5.trans h5, g6.trans h6, g7.trans h7, fun h => g8 (h8 h)⟩

theorem ResetKept.foldl {α : Type} {f : Dev → α → Dev} (h : ∀ d a, ResetKept d (f d a)) (l : List α) (d : Dev) : ResetKept d (l.foldl f d) := by
  induction l generalizing d with
  | nil => exact .refl d
  | cons a l ih => exact (h d a).trans (ih _)

theorem ResetKept.setCurd (d : Dev) (k : Nat) (c : Curd) (h : (d.curd k).st = .idle → c.st = .idle) : ResetKept d (d.setCurd k c) := by
  refine ⟨rfl, rfl, rfl, rfl, rfl, rfl, rfl, fun hd j => ?_⟩
  by_cases hj : j = k
  · subst hj
    rw [Dev.curd_setCurd_same]
    exact h (hd j)
  · rw [Dev.curd_setCurd_other _ _ _ _ hj]
    exact hd j

theorem ResetKept.setVat (d : Dev) (n : Nat) (v : Vat) : ResetKept d (d.setVat n v) := ⟨rfl, rfl, rfl, rfl, rfl, rfl, rfl, id⟩

theorem ResetKept.setPort (d : Dev) (n : Nat) (v : Port) : ResetKept d (d.setPort n v) := ⟨rfl, rfl, rfl, rfl, rfl, rfl, rfl, id⟩

theorem Dev.cfgApply_kept (d : Dev) {e : CfgEntry} (h : cfgKept e.item = false) : ResetKept d (d.cfgApply e) := by
  have h7 : e.item < 7 := by simpa [cfgKept] using h
  unfold Dev.cfgApply
  split
  case h_1 =>
    split
    · exact .foldl (f := fun d n => d.setVat n { d.vat n with dmaStage := e.value }) (fun d n => .setVat d n _) _ d
    · exact .setVat d _ _
  case h_2 => exact ⟨rfl, rfl, rfl, rfl, rfl, rfl, rfl, id⟩
  case h_3 => exact ⟨rfl, rfl, rfl, rfl, rfl, rfl, rfl, id⟩
  case h_4 => exact .setPort d _ _
  case h_5 => exact .setPort d _ _
  case h_6 => exact ⟨rfl, rfl, rfl, rfl, rfl, rfl, rfl, id⟩
  case h_12 => exact .refl d
  all_goals omega

theorem Dev.cfgAtReset_kept (d : Dev) : ResetKept d d.cfgAtReset := by
  have hv : ResetKept d ((List.range 288).foldl (fun d n => d.setVat n { d.vat n with dmaStage := cfgReset 1 }) d) :=
    .foldl (f := fun d n => d.setVat n { d.vat n with dmaStage := cfgReset 1 }) (fun d n => .setVat d n _) _ d
  have hp : ∀ x : Dev, ResetKept x ((List.range 16).foldl (fun d p => d.setPort p { d.port p with bufSize := cfgReset 4, ctl := cfgReset 5 }) x) := fun x =>
    .foldl (f := fun d p => d.setPort p { d.port p with bufSize := cfgReset 4, ctl := cfgReset 5 }) (fun d n => .setPort d n _) _ x
  have hc : ∀ (l : List CfgEntry) (x : Dev), ResetKept x (l.foldl (fun d e => if cfgKept e.item then d else d.cfgApply e) x) := by
    refine fun l x => .foldl (fun d e => ?_) l x
    split
    · exact .refl d
    · exact d.cfgApply_kept (eq_false_of_ne_true ‹_›)
  have hx : ∀ x : Dev, ResetKept x { x with xlink := cfgReset 2, collTmo := cfgReset 3, ext := { x.ext with cfg := cfgReset 6 } } := fun x => ⟨rfl, rfl, rfl, rfl, rfl, rfl, rfl, id⟩
  exact ((hv.trans (hp _)).trans (hx _)).trans (hc _ _)

theorem Dev.fenceVat_kept (d : Dev) (n : Nat) : ResetKept d (d.fenceVat n) := by
  unfold Dev.fenceVat
  dsimp only
  split
  · exact .setVat d n _
  · split
    · next s hs =>
      have hf : ∀ x : Dev, ResetKept x ((List.range 68).foldl (fun d i => d.setCurd (curdKey s i) (d.curd (curdKey s i)).filled) x) := fun x =>
        .foldl (f := fun d i => d.setCurd (curdKey s i) (d.curd (curdKey s i)).filled) (fun d i => .setCurd d _ _ (fun _ => rfl)) _ x
      have hs : ∀ (x : Dev) (w : Vat) (m : NI), ResetKept x ((x.setVat s w).setNi s m) := fun x w m => ⟨rfl, rfl, rfl, rfl, rfl, rfl, rfl, id⟩
      exact ((ResetKept.setVat d n _).trans (hf _)).trans (hs _ _ _)
    · split
      · exact ⟨rfl, rfl, rfl, rfl, rfl, rfl, rfl, id⟩
      · exact ⟨rfl, rfl, rfl, rfl, rfl, rfl, rfl, id⟩
  · exact .refl d

theorem Dev.fenceCurd_kept (d : Dev) (n slot : Nat) : ResetKept d (d.fenceCurd n slot) := by
  unfold Dev.fenceCurd
  dsimp only
  split
  · exact .refl d
  · have h1 : ResetKept d (d.setCurd (curdKey n slot) { d.curd (curdKey n slot) with fenced := true }) := .setCurd d _ _ (fun h => h)
    split
    · exact h1
    · split
      · exact h1.trans (.setCurd _ _ _ (fun _ => rfl))
      · exact h1.trans (Dev.fenceVat_kept ..)

theorem Dev.doFences_kept (d : Dev) (p : Nat) : ResetKept d (d.doFences p) := by
  have hp : ResetKept d (d.setPart p { d.part p with fenceAfter := [] }) := ⟨rfl, rfl, rfl, rfl, rfl, rfl, rfl, id⟩
  refine hp.trans (ResetKept.foldl (f := fun d u => d.fenceUnit u) (fun d u => ?_) (d.part p).fenceAfter _)
  unfold Dev.fenceUnit
  split
  · exact Dev.fenceCurd_kept ..
  · exact Dev.fenceVat_kept ..

theorem Dev.settleFaults_kept (d : Dev) : ResetKept d d.settleFaults := by
  unfold Dev.settleFaults
  dsimp only
  split
  · exact ⟨rfl, rfl, rfl, rfl, rfl, rfl, rfl, id⟩
  · exact ⟨rfl, rfl, rfl, rfl, rfl, rfl, rfl, id⟩

theorem Dev.sbAlert_kept (d : Dev) (b : Nat) : ResetKept d (d.sbAlert b) := by
  unfold Dev.sbAlert
  dsimp only
  split
  · exact ⟨rfl, rfl, rfl, rfl, rfl, rfl, rfl, id⟩
  · exact ⟨rfl, rfl, rfl, rfl, rfl, rfl, rfl, id⟩

end

/-! ## The chip reset -/

/-- The blocks on the core rail are at reset; the host is as it was. -/
theorem Dev.coreReset_blocks (d : Dev) : d.coreReset.mesh = Mesh.init ∧ d.coreReset.coll = [] ∧ d.coreReset.cv = [] ∧ d.coreReset.host = d.host ∧ ∀ k, (d.coreReset.curd k).st = .idle := by
  obtain ⟨-, -, hm, hc, hv, -, hh, hi⟩ := Dev.cfgAtReset_kept ({ d with
    curds := smMap Curd.init Curd.chipReset d.curds, vats := smMap Vat.init Vat.chipReset d.vats,
    nis := smMap NI.init NI.chipReset d.nis, mesh := Mesh.init, ports := smMap Port.init Port.chipReset d.ports,
    coll := [], cv := [], ext := { d.ext with chans := smMap Chan.init Chan.chipReset d.ext.chans },
    parts := smMap Part.init Part.chipReset d.parts } : Dev)
  exact ⟨hm, hc, hv, hh, hi (fun k => smGet_smMap_of (P := fun c : Curd => c.st = .idle) rfl (fun _ => rfl) k)⟩

/-- Both receivers reset are both down. -/
theorem Dev.recvReset_both (d : Dev) : ((d.recvReset false false).recvReset true false).host.recvUp = false ∧ ((d.recvReset false false).recvReset true false).host.recvUpSec = false := by
  obtain ⟨h1, -, -⟩ := d.recvReset_resets false
  obtain ⟨h2, h3, -⟩ := (d.recvReset false false).recvReset_resets true
  exact ⟨h3.trans h1, h2⟩

/-- The fences that waited, the faults that settle and the alert keep a module that was reset so. -/
theorem ChipWasReset.keep {d x : Dev} {cause : Nat} (h : ChipWasReset d cause) (hk : ResetKept d x) : ChipWasReset x cause := by
  obtain ⟨hb, hr, hm, hc, hv, hf, hh, hi⟩ := hk
  obtain ⟨h1, h2, h3, h4, h5, h6, h7, h8, h9, h10, h11, h12, h13, h14⟩ := h
  unfold ChipWasReset
  rw [hb, hr, hm, hc, hv, hf, hh]
  exact ⟨h1, h2, h3, h4, h5, h6, hi h7, h8, h9, h10, h11, h12, h13, h14⟩

theorem Dev.chipReset_was {d : Dev} (hb : d.boot.chipResetting = false) (hi : d.pwr.islandUp = true) (ho : d.pwr.ioUp = true) (cause : Nat) (count esc : Bool) :
    ChipWasReset (d.chipReset cause count esc) cause := by
  have hafter : ∀ x : Dev, ChipWasReset x cause → ChipWasReset (((List.range 64).foldl (fun d p => d.doFences p) x).settleFaults) cause := fun x hx =>
    hx.keep ((ResetKept.foldl (f := fun d p => d.doFences p) (fun d p => d.doFences_kept p) _ x).trans (Dev.settleFaults_kept _))
  unfold Dev.chipReset
  rw [if_neg (by rw [hb, hi, ho]; decide)]
  dsimp only
  generalize ((d.chipAborts cause).hostReset.chipTorn.foldl _ _) = d2
  obtain ⟨hm, hc, hv, hh, hidle⟩ := ((d2.recvReset false false).recvReset true false).coreReset_blocks
  obtain ⟨hr1, hr2⟩ := d2.recvReset_both
  generalize (d2.recvReset false false).recvReset true false = d3 at hm hc hv hh hidle hr1 hr2 ⊢
  generalize d3.coreReset = d4 at hm hc hv hh hidle ⊢
  have h5 := hafter _ (show ChipWasReset { d4 with
      fm := d4.fm.chipReset
      rrc := { d4.rrc.chipReset cause d4.opSec count with escalated := esc }
      cfg := { d4.cfg with staged := [], stageCount := 0 }
      sec := { d4.sec with debugScope := 0, jtag := if d4.sec.jtag = JtagOp.internal then JtagOp.bypass else d4.sec.jtag }
      boot := d4.boot.chipReset d4.timer.toNat
      sb := d4.sb.chipReset } cause from
    ⟨rfl, rfl, rfl, rfl, rfl, rfl, hidle, hm, hc, hv, rfl, rfl, (congrArg HostSide.recvUp hh).trans hr1, (congrArg HostSide.recvUpSec hh).trans hr2⟩)
  split
  · exact h5.keep (Dev.sbAlert_kept ..)
  · exact h5

end Sys2Proof.Machine
end

section
/-! PROOFS. Programs and resets: groups 0x04 and 0x08 (12_rennet.md R369, R370, R374, 14_recovery.md R415-R418, R429). -/

namespace Sys2Proof.Machine

/-- What one step of a fold sets and every step keeps holds at its end. -/
theorem foldl_sets {α β : Type} {P : β → Prop} {f : β → α → β} {a : α} {l : List α} (ha : a ∈ l) (hset : ∀ b, P (f b a)) (hkeep : ∀ b x, P b → P (f b x)) (b : β) :
    P (l.foldl f b) := by
  induction l generalizing b with
  | nil => exact absurd ha List.not_mem_nil
  | cons x l ih =>
    rcases List.mem_cons.1 ha with rfl | h
    · exact foldl_keeps P l (fun b hb x _ => hkeep b x hb) (hset b)
    · exact ih h _

/-! ## Images (R370) -/

section
variable {im : List Byte} {cores i : Nat}

theorem sectFault_none (h : sectFault im cores i = none) : (imSect im i).first + (imSect im i).cores ≤ cores ∧ (imSect im i).code + 16384 ≤ im.length ∧
    (imSect im i).dlen ≤ 65536 ∧ (imSect im i).data + (imSect im i).dlen ≤ im.length ∧
      ∀ j, j < i → (imSect im j).first + (imSect im j).cores ≤ (imSect im i).first ∨ (imSect im i).first + (imSect im i).cores ≤ (imSect im j).first := by
  unfold sectFault at h
  dsimp only at h
  split_ifs at h with h1 h2 h3 h4 h5
  rw [Bool.or_eq_true, decide_eq_true_eq, List.any_eq_true] at h1
  rw [Bool.or_eq_true, decide_eq_true_eq, decide_eq_true_eq] at h5
  refine ⟨by omega, by omega, by omega, by omega, fun j hj => ?_⟩
  by_contra hn
  refine h1 (.inr ⟨j, List.mem_range.2 hj, ?_⟩)
  rw [Bool.and_eq_true, decide_eq_true_eq, decide_eq_true_eq]
  omega

theorem imFault_none (h : imFault im cores = none) : leAt im 0 4 = 1 ∧ imReserve im ≤ 128 ∧ 1 ≤ imSects im ∧ imSects im ≤ 256 ∧ leAt im 8 4 = im.length ∧
    leAt im 12 4 = crcValue 1 0 (im.take 12 ++ leBytes 4 0 ++ im.drop 16) ∧ leAt im 0x10 48 = 0 ∧ (∀ n, n < 64 → imDeclared im n ≤ 4080) ∧
      ∀ n, n < imSects im → sectFault im cores n = none := by
  unfold imFault at h
  split_ifs at h with h1 h2 h3 h4 h5 h6
  split at h
  · cases h
  · next hd =>
    refine ⟨not_not.1 h1, Nat.not_lt.1 h2, by omega, by omega, not_not.1 h4, not_not.1 h5, not_not.1 h6, fun n hn => ?_, fun n hn => ?_⟩
    · simpa using List.find?_eq_none.1 hd n (List.mem_range.2 hn)
    · exact List.findSome?_eq_none_iff.1 h n (List.mem_range.2 hn)

end

/-! ## Programs that start (R369) -/

section
variable {d : Dev} {ctx : Nat}

theorem Dev.releaseCurds_run (hr : d.isResident ctx = true) {e : Nat × Nat} (he : e ∈ d.partCurds (ctx / 16)) :
    ((d.releaseCurds ctx).curd (curdKey e.1 e.2)).st = .run := by
  unfold Dev.releaseCurds
  rw [if_pos hr]
  refine foldl_sets (P := fun x : Dev => (x.curd (curdKey e.1 e.2)).st = .run) he (fun x => ?_) (fun x a hx => ?_) d
  · rw [Dev.curd_setCurd_same]
  · by_cases hk : curdKey e.1 e.2 = curdKey a.1 a.2
    · rw [hk, Dev.curd_setCurd_same]
    · rw [Dev.curd_setCurd_other _ _ _ _ hk]
      exact hx

end

section
variable {d : Dev} {ctx : Nat}

theorem Dev.releaseCurds_part (d : Dev) (ctx p : Nat) : (d.releaseCurds ctx).part p = d.part p := by
  unfold Dev.releaseCurds
  split
  · exact foldl_field (fun x => x.part p) (f := fun d (e : Nat × Nat) => d.setCurd (curdKey e.1 e.2) { d.curd (curdKey e.1 e.2) with st := .run }) (fun _ _ => rfl) _ d
  · rfl

/-- A context may have its partition where no switch is under way and nothing is resident. -/
theorem Dev.giveTo_free (hs : (d.part (ctx / 16)).switchTo = none) (hr : (d.part (ctx / 16)).resident = none) : d.giveTo ctx = d.makeResident ctx := by
  unfold Dev.giveTo
  dsimp only
  rw [hs, hr]
  rfl

theorem Dev.giveTo_switching (hs : (d.part (ctx / 16)).switchTo ≠ none) : d.giveTo ctx = d :=
  if_pos (Option.isSome_iff_ne_none.2 hs)

/-- The other context that is resident on a context's partition. -/
def Dev.otherResident (d : Dev) (ctx : Nat) : Option Nat :=
  match (d.part (ctx / 16)).resident with
  | some s => if s = ctx % 16 then none else some (ctx / 16 * 16 + s)
  | none => none

theorem Dev.otherResident_some {o : Nat} (h : (d.part (ctx / 16)).resident = some o) (hne : o ≠ ctx % 16) : d.otherResident ctx = some (ctx / 16 * 16 + o) := by
  unfold Dev.otherResident
  rw [h]
  exact if_neg hne

/-- A multi-rank context is not started beside another that is resident, nor another beside it. -/
def Dev.startClash (d : Dev) (ctx : Nat) : Bool := (d.otherResident ctx).isSome && (d.multiRank ctx || ((d.otherResident ctx).map d.multiRank).getD false)

theorem Dev.startClash_true {o : Nat} (h : (d.part (ctx / 16)).resident = some o) (hne : o ≠ ctx % 16) (hm : d.multiRank ctx = true ∨ d.multiRank (ctx / 16 * 16 + o) = true) :
    d.startClash ctx = true := by
  unfold Dev.startClash
  rw [Dev.otherResident_some h hne]
  rcases hm with hm | hm <;> simp [hm]

theorem Dev.startClash_false (h : ∀ o, (d.part (ctx / 16)).resident = some o → o = ctx % 16 ∨ (d.multiRank ctx = false ∧ d.multiRank (ctx / 16 * 16 + o) = false)) :
    d.startClash ctx = false := by
  unfold Dev.startClash Dev.otherResident
  split
  · next o ho =>
    split
    · rfl
    · next hne =>
      obtain ⟨h1, h2⟩ := (h o ho).resolve_left hne
      simp [h1, h2]
  · rfl

end

/-! ## Engines that a target names (R415) -/

theorem bits_node_kind {node k i : Nat} (hn : node < 2 ^ 9) (hk : k < 4) (hi : i < 2 ^ 7) :
    bits (node + k * 2 ^ 9 + i * 2 ^ 11) 8 0 = node ∧ bits (node + k * 2 ^ 9 + i * 2 ^ 11) 10 9 = k ∧ bits (node + k * 2 ^ 9 + i * 2 ^ 11) 17 11 = i ∧
      node + k * 2 ^ 9 + i * 2 ^ 11 < 2 ^ 18 := by
  unfold bits
  omega

section
variable {d : Dev} {node i : Nat}

theorem Dev.reqEngine_curd (hn : node < 288) (hv : (d.vat node).lst ≠ .fusedOff) (hi : i < 68) : d.reqEngine (node + i * 2 ^ 11) = some (vatUnit node i) := by
  obtain ⟨h1, h2, h3, h4⟩ := bits_node_kind (node := node) (k := 0) (i := i) (by omega) (by omega) (by omega)
  rw [Nat.zero_mul, Nat.add_zero] at h1 h2 h3 h4
  unfold Dev.reqEngine
  rw [h1, h2, h3, if_neg (Nat.not_le.2 h4)]
  exact if_pos (by simp [hn, hv, hi])

theorem Dev.reqEngine_dma (hn : node < 288) (hv : (d.vat node).lst ≠ .fusedOff) (hi : i < 4) : d.reqEngine (node + 2 ^ 9 + i * 2 ^ 11) = some (vatUnit node (unitDma i)) := by
  obtain ⟨h1, h2, h3, h4⟩ := bits_node_kind (node := node) (k := 1) (i := i) (by omega) (by omega) (by omega)
  rw [Nat.one_mul] at h1 h2 h3 h4
  unfold Dev.reqEngine
  rw [h1, h2, h3, if_neg (Nat.not_le.2 h4)]
  exact if_pos (by simp [hn, hv, hi])

theorem Dev.reqEngine_port (hi : i < 16) (hq : d.quadOn (edgeQuadrant (0x140 + i)) = true) : d.reqEngine (0x140 + i + 2 * 2 ^ 9) = some (portUnit i) := by
  obtain ⟨h1, h2, -, h4⟩ := bits_node_kind (node := 0x140 + i) (k := 2) (i := 0) (by omega) (by omega) (by omega)
  rw [Nat.zero_mul, Nat.add_zero] at h1 h2 h4
  unfold Dev.reqEngine
  rw [h1, h2, if_neg (Nat.not_le.2 h4)]
  refine (if_pos ?_).trans (congrArg (fun n => some (portUnit n)) (Nat.add_sub_cancel_left ..))
  rw [hq, Bool.and_true, Bool.and_eq_true, decide_eq_true_eq, decide_eq_true_eq]
  omega

theorem Dev.reqEngine_ru (hn : node < 288) (hv : (d.vat node).lst ≠ .fusedOff) : d.reqEngine (node + 3 * 2 ^ 9) = some (vatUnit node unitRu) := by
  obtain ⟨h1, h2, -, h4⟩ := bits_node_kind (node := node) (k := 3) (i := 0) (by omega) (by omega) (by omega)
  rw [Nat.zero_mul, Nat.add_zero] at h1 h2 h4
  unfold Dev.reqEngine
  rw [h1, h2, if_neg (Nat.not_le.2 h4)]
  exact if_pos (by simp [hn, hv])

end

/-! ## The service return (R429) -/

section
variable {d : Dev} {f key code : Nat} {bs : List Byte}

theorem Dev.clearService_eq (d : Dev) : ∃ c : Cave, d.clearService = { d with
    flt := { d.flt with list := d.flt.list.map (fun x => if x.m.kind == 0x67 && !x.cleared then { x with ack := true, cleared := true } else x) }
    cave := c } := by
  unfold Dev.clearService
  dsimp only
  split
  · exact ⟨_, rfl⟩
  · exact ⟨_, rfl⟩

/-- An answer leaves all but the host's channel and its vectors alone. -/
theorem Dev.respond_frame (d : Dev) (f key code : Nat) (bs : List Byte) : ∃ h : HostSide, d.respond f key code bs = { d with host := h } := by
  unfold Dev.respond
  by_cases h : (d.mbx f key).st = 2
  · rw [Dev.respondFlag_active h, Dev.doorbell_eq, Dev.setMbx, Dev.setMbx, Dev.setFunc, Dev.setFunc]
    exact ⟨_, rfl⟩
  · rw [Dev.respondFlag_gone h]
    exact ⟨d.host, rfl⟩

theorem Dev.respond_rsp (h : (d.mbx f key).st = 2) : ((d.respond f key code bs).mbx f key).rsp = rspBytes (d.mbx f key).seq code 0 bs := by
  unfold Dev.respond
  rw [Dev.respondFlag_active h, Dev.mbx_doorbell_same, Dev.mbx_setMbx_same]

theorem Dev.sbAlert_frame (d : Dev) (b : Nat) : (d.sbAlert b).pwr = d.pwr ∧ (d.sbAlert b).rrc = d.rrc := by
  unfold Dev.sbAlert
  dsimp only
  split <;> exact ⟨rfl, rfl⟩

/-- PWRCYC_REQ_N is low after it is asserted; the record of the last reset stays. -/
theorem Dev.assertPwrcyc_asserts (d : Dev) : d.assertPwrcyc.rrc.lastLevel = d.rrc.lastLevel ∧ d.assertPwrcyc.rrc.lastCause = d.rrc.lastCause ∧ d.assertPwrcyc.pwr.pwrcyc = true := by
  unfold Dev.assertPwrcyc
  split
  · exact ⟨rfl, rfl, ‹_›⟩
  · rw [(Dev.sbAlert_frame ..).1, (Dev.sbAlert_frame ..).2]
    exact ⟨rfl, rfl, rfl⟩

/-- A power cycle asked for waits for the cave's flush, or is requested at once where nothing can be flushed (R418). -/
theorem Dev.askPowerCycle_asks (d : Dev) (cause : Nat) : (d.askPowerCycle cause).rrc.lastLevel = 4 ∧ (d.askPowerCycle cause).rrc.lastCause = cause ∧
    (d.cave.store ≠ 2 → (d.askPowerCycle cause).cave.due = true ∧ (d.askPowerCycle cause).rrc.pwrcycWanted = true) ∧
      (d.cave.store = 2 → (d.askPowerCycle cause).pwr.pwrcyc = true) := by
  unfold Dev.askPowerCycle
  dsimp only
  by_cases h2 : d.cave.store = 2
  · obtain ⟨h1, h3, h4⟩ := Dev.assertPwrcyc_asserts { d with rrc := { d.rrc with pwrcycWanted := true, lastLevel := 4, lastCause := cause } }
    rw [if_pos h2]
    exact ⟨h1, h3, fun h => absurd h2 h, fun _ => h4⟩
  · rw [if_neg h2]
    exact ⟨rfl, rfl, fun _ => ⟨rfl, rfl⟩, fun h => absurd h h2⟩

end

/-- Settles O44. -/
theorem programCommandRows : Obligations.ProgramCommandRows := by
  unfold Obligations.ProgramCommandRows
  intro s f c m d refuse ctx p k here rows off n t
  have hload (h : Begins s f c 0x0401 m) (hr : reaches f p = true) (hb : d.ctxBusy ctx = false) {e : Dev} (he : _ = e) : exec (.progLoad f c) s = s.next e :=
    (h.commandW (i := .progLoad f c) rfl (show (reaches f p && d.ctxBusy ctx) = false by rw [hb, Bool.and_false]) rfl).trans (congrArg s.next (ite_pass_not hr he))
  refine ⟨fun row op hrow h hmode => ?_, fun h ⟨hr, hl, hb⟩ => ⟨fun h2 => ?_, fun h2 hp => ?_, fun h2 hp => ⟨fun hs => ?_, fun a hs => ?_⟩⟩, fun im cores h => ?_, fun h ⟨hr, hl, hb⟩ => ?_, fun hres e he => Dev.releaseCurds_run hres he,
    fun h ⟨hr, hl, hb⟩ hne => ?_, fun h ⟨hr, hl, hb⟩ h1 => ?_, fun h => ?_, fun node i hn hv => ⟨fun hi => Dev.reqEngine_curd hn hv hi, fun hi => Dev.reqEngine_dma hn hv hi, Dev.reqEngine_ru hn hv⟩,
    fun i hi hq => Dev.reqEngine_port hi hq, fun h => ?_⟩
  · simp only [rows, List.mem_cons, Prod.mk.injEq, List.not_mem_nil, or_false] at hrow
    rcases hrow with ⟨rfl, rfl⟩ | ⟨rfl, rfl⟩ | ⟨rfl, rfl⟩ | ⟨rfl, rfl⟩
    · exact ⟨fun hr => (h.commandW (i := .progLoad f c) rfl (show (reaches f p && d.ctxBusy ctx) = false by rw [hr, Bool.false_and]) rfl).trans (congrArg s.next (ite_take_not hr)),
        fun hr hl hb h2 _ => hload h hr hb (ite_pass (h2 rfl) (ite_take_not hl)), fun hr hb => h.waits (show (reaches f p && d.ctxBusy ctx) = true by rw [hr, hb]; rfl) rfl⟩
    · exact ⟨fun hr => h.ctxDenied (i := .progStart f c) rfl rfl hr, fun hr hl hb _ _ => h.ctxGone (i := .progStart f c) rfl rfl hr hl hb, fun hr hb => h.ctxWaits (i := .progStart f c) rfl hr hb⟩
    · have hp : (fun m => leAt m 0x0A 1 != 1) m = true := bne_iff_ne.2 (fun h1 => by cases (hmode rfl).2 h1)
      exact ⟨fun hr => h.ctxDenied (i := .cultureSetRegister f c) hp rfl hr, fun hr hl hb _ _ => h.ctxGone (i := .cultureSetRegister f c) hp rfl hr hl hb, fun hr hb => h.ctxWaits (i := .cultureSetRegister f c) rfl hr hb⟩
    · have hp : (fun m => leAt m 0x0A 1 == 1) m = true := beq_iff_eq.2 ((hmode rfl).1 rfl)
      exact ⟨fun hr => h.ctxDenied (i := .cultureSetWrite f c) hp rfl hr, fun hr hl hb _ hq => h.ctxGone (i := .cultureSetWrite f c) (busy := fun d m => busyCtx d m || d.cultQueued (reqCtx m)) hp rfl hr hl
        (show (d.ctxBusy ctx || d.cultQueued ctx) = false by rw [hb, hq]; rfl), fun hr hb => h.ctxWaits (i := .cultureSetWrite f c) (busy := fun d m => busyCtx d m || d.cultQueued (reqCtx m)) rfl hr
        (show (d.ctxBusy ctx || d.cultQueued ctx) = true by rw [hb]; rfl)⟩
  · exact hload h hr hb (if_pos h2)
  · exact hload h hr hb (ite_pass h2 (ite_pass_not hl (if_pos (beq_iff_eq.2 hp))))
  · refine hload h hr hb (ite_pass h2 (ite_pass_not hl (ite_pass_bool (beq_false_of_ne hp) ?_)))
    rw [show (s.dev.ctx (reqCtx m)).segAt (leAt m 0x10 8) (leAt m 0x18 4) false = none from hs]
    rfl
  · intro r
    have hseg : (s.dev.ctx (reqCtx m)).segAt (leAt m 0x10 8) (leAt m 0x18 4) false = some a := hs
    refine ⟨fun hn => ?_, fun im hi hsh => ?_, fun im o hi hsh hf => ?_, fun im hi hsh hf => ⟨fun hn => ?_, fun d1 hd1 => ⟨?_, ?_, ?_, ?_⟩⟩⟩
    rotate_left 5
    · exact congrArg Ctx.prog (Dev.ctx_setCtx_same ..)
    · exact congrArg Ctx.loaded (Dev.ctx_setCtx_same ..)
    · exact congrArg Ctx.digest (Dev.ctx_setCtx_same ..)
    all_goals
      refine hload h hr hb (ite_pass h2 (ite_pass_not hl (ite_pass_bool (beq_false_of_ne hp) ?_)))
      rw [hseg]
      dsimp only
    · rw [show (s.dev.extRead (reqCtx m / 16) a (leAt m 0x18 4) (some (reqCtx m))).2 = none from hn]
      rfl
    · rw [show (s.dev.extRead (reqCtx m / 16) a (leAt m 0x18 4) (some (reqCtx m))).2 = some im from hi]
      refine if_pos (show imShort im = true from ?_)
      rw [imShort, Bool.or_eq_true, decide_eq_true_eq, decide_eq_true_eq]
      exact hsh
    · rw [show (s.dev.extRead (reqCtx m / 16) a (leAt m 0x18 4) (some (reqCtx m))).2 = some im from hi]
      refine ite_pass_bool hsh ?_
      rw [show imFault im (s.dev.cores (reqCtx m / 16)) = some o from hf]
      rfl
    · rw [show (s.dev.extRead (reqCtx m / 16) a (leAt m 0x18 4) (some (reqCtx m))).2 = some im from hi]
      refine ite_pass_bool hsh ?_
      rw [show imFault im (s.dev.cores (reqCtx m / 16)) = none from hf]
      dsimp only
      rw [show (s.dev.extRead (reqCtx m / 16) a (leAt m 0x18 4) (some (reqCtx m))).1.placeSpill (reqCtx m) (im.take (0xC0 + 16 * imSects im)) = none from hn]
      rfl
    · rw [show (s.dev.extRead (reqCtx m / 16) a (leAt m 0x18 4) (some (reqCtx m))).2 = some im from hi]
      refine ite_pass_bool hsh ?_
      rw [show imFault im (s.dev.cores (reqCtx m / 16)) = none from hf]
      dsimp only
      rw [show (s.dev.extRead (reqCtx m / 16) a (leAt m 0x18 4) (some (reqCtx m))).1.placeSpill (reqCtx m) (im.take (0xC0 + 16 * imSects im)) = some d1 from hd1]
      rfl
  · obtain ⟨h1, h2, h3, h4, h5, h6, h7, h8, h9⟩ := imFault_none h
    refine ⟨h1, h2, h3, h4, h5, h6, h7, h8, fun i hi => ?_⟩
    exact sectFault_none (h9 i hi)
  · have hx := fun {e : Dev} (he : _ = e) => (h.ctxRuns (i := .progStart f c) rfl rfl hr hl hb).trans (congrArg s.next he)
    have hprog {q : ProgSt} (hp : k.prog = q) : (s.dev.ctx (reqCtx m)).prog = q := hp
    refine ⟨fun hp => hx ?_, fun hp => hx ?_, fun hp => hx ?_, fun hp hc hm hs => hx ?_, fun hp hlk => ⟨fun o ho hne hm => hx ?_, fun ho => ?_⟩⟩
    · dsimp only
      rw [hprog hp]
      rfl
    · dsimp only
      rw [hprog hp]
      rfl
    · dsimp only
      rw [hprog hp]
      rfl
    · dsimp only
      rw [hprog hp]
      refine if_pos (show d.linkNeeded ctx = true from ?_)
      have hany : d.sec.secrets.any (fun x => x.sliceId == (d.ctx ctx).sliceId) = false := List.any_eq_false.2 (fun x hx => by simpa using hs x hx)
      rw [Dev.linkNeeded, hc, hm, hany]
      rfl
    · dsimp only
      rw [hprog hp]
      exact ite_pass_bool hlk (if_pos (Dev.startClash_true ho hne hm))
    · intro d1 d2
      have hpart : d2.part (ctx / 16) = d.part (ctx / 16) := Dev.releaseCurds_part ..
      have hx := fun {e : Dev} (he : (if (d2.part (ctx / 16)).resident.isNone then d2.giveTo ctx else d2) = e) =>
        hx (e := e.respond f c rOk []) (by dsimp only; rw [hprog hp]; exact ite_pass_bool hlk (ite_pass_bool (Dev.startClash_false ho) (congrArg (fun x => Dev.respond x f c rOk []) he)))
      refine ⟨congrArg Ctx.prog (Dev.ctx_setCtx_same ..), fun hres => hx ?_, fun hres hsw => hx ?_, fun hres hsw => hx ?_⟩
      · rw [hpart]
        exact ite_pass_bool (Option.isNone_eq_false_iff.2 (Option.isSome_iff_ne_none.2 hres)) rfl
      · rw [hpart, hres]
        exact Dev.giveTo_free (by rw [hpart]; exact hsw) (by rw [hpart]; exact hres)
      · rw [hpart, hres]
        exact Dev.giveTo_switching (by rw [hpart]; exact hsw)
  · have hx := h.ctxRuns (i := .cultureSetRegister f c) (pick := fun m => leAt m 0x0A 1 != 1) (bne_iff_ne.2 hne) rfl hr hl hb
    have hok : k.recordOk off = true ↔ off % 64 = 0 ∧ k.keepAt off 512 ≠ none := by simp [Ctx.recordOk, Option.isSome_iff_ne_none]
    refine ⟨fun h1 => hx.trans (congrArg s.next (if_pos h1)), fun h0 hbad => hx.trans (congrArg s.next (ite_pass (by omega) (ite_take_not (b := k.recordOk off) ?_))),
      fun h0 ha hk => hx.trans (congrArg s.next (ite_pass (by omega) (ite_pass_not (b := k.recordOk off) (hok.2 ⟨ha, hk⟩) rfl)))⟩
    exact eq_false_of_ne_true (fun h => hbad.elim (· (hok.1 h).1) (hok.1 h).2)
  · intro im
    have hp : (fun m => leAt m 0x0A 1 == 1) m = true := beq_iff_eq.2 h1
    have hok : k.recordOk off = true ↔ off % 64 = 0 ∧ k.keepAt off 512 ≠ none := by simp [Ctx.recordOk, Option.isSome_iff_ne_none]
    have hx := fun (hq : d.cultQueued ctx = false) {e : Dev} (he : _ = e) =>
      (h.ctxRuns (i := .cultureSetWrite f c) (busy := fun d m => busyCtx d m || d.cultQueued (reqCtx m)) hp rfl hr hl (show (d.ctxBusy ctx || d.cultQueued ctx) = false by rw [hb, hq]; rfl)).trans (congrArg s.next he)
    refine ⟨fun hq => h.ctxWaits (i := .cultureSetWrite f c) (busy := fun d m => busyCtx d m || d.cultQueued (reqCtx m)) rfl hr (show (d.ctxBusy ctx || d.cultQueued ctx) = true by rw [hq, Bool.or_true]),
      fun hq hbad => hx hq (ite_take_not (b := k.recordOk off) (eq_false_of_ne_true (fun h => hbad.elim (· (hok.1 h).1) (hok.1 h).2))), fun hq ha base hk => ?_⟩
    have hrec : k.recordOk off = true := hok.2 ⟨ha, by rw [hk]; exact Option.some_ne_none _⟩
    refine ⟨fun hu => hx hq (ite_pass_not (b := k.recordOk off) hrec (ite_take_not hu)), fun hu hpl => hx hq (ite_pass_not (b := k.recordOk off) hrec (ite_pass_not hu (ite_take_not hpl))), fun hu hpl => ?_⟩
    intro w
    refine ⟨fun hn => hx hq (ite_pass_not (b := k.recordOk off) hrec (ite_pass_not hu (ite_pass_not hpl ?_))), fun q hw => hx hq (ite_pass_not (b := k.recordOk off) hrec (ite_pass_not hu (ite_pass_not hpl ?_)))⟩
    · rw [show (s.dev.ctx (reqCtx m)).keepAt (leAt m 0x10 8) 512 = some base from hk]
      dsimp only
      rw [show ((s.dev.setCtx (reqCtx m) { s.dev.ctx (reqCtx m) with culture := some (leAt m 0x10 8) }).writeEntry (reqCtx m) (leAt m 0x10 8) base (s.dev.hostRead (leAt m 0x18 8) 256)).2 = none from hn]
      rfl
    · rw [show (s.dev.ctx (reqCtx m)).keepAt (leAt m 0x10 8) 512 = some base from hk]
      dsimp only
      rw [show ((s.dev.setCtx (reqCtx m) { s.dev.ctx (reqCtx m) with culture := some (leAt m 0x10 8) }).writeEntry (reqCtx m) (leAt m 0x10 8) base (s.dev.hostRead (leAt m 0x18 8) 256)).2 = some q from hw]
      rfl
  · intro lv b tear
    have hlevel {n : Nat} (hn : lv = n) : level n m = true := beq_iff_eq.2 hn
    have hx0 := fun (hp : (level 0 m || decide (4 < lv)) = true) (hw : (level 0 m && reaches f (t / 16) && d.resetBusy t) = false) {e : Dev} (he : _ = e) =>
      (h.commandW (i := .resetReqContext f c) hp hw rfl).trans (congrArg s.next he)
    have hx1 := fun (h1 : lv = 1) (hw : (f == 0 && d.engineBusy t) = false) {e : Dev} (he : _ = e) => (h.commandW (i := .resetReqEngine f c) (hlevel h1) hw rfl).trans (congrArg s.next he)
    have hx2 := fun (h2 : lv = 2) (hw : (reaches f t && ((d.part t).st == 3 || (d.part t).grants != [])) = false) {e : Dev} (he : _ = e) =>
      (h.commandW (i := .resetReqPartition f c) (hlevel h2) hw rfl).trans (congrArg s.next he)
    have hx3 := fun (h3 : lv = 3) {e : Dev} (he : _ = e) => (h.command (i := .resetReqChip f c) (hlevel h3) rfl).trans (congrArg s.next he)
    have hx4 := fun (h4 : lv = 4) {e : Dev} (he : _ = e) => (h.command (i := .resetReqPowerCycle f c) (hlevel h4) rfl).trans (congrArg s.next he)
    have hquiet (h3 : (d.part t).st ≠ 3) (hg : (d.part t).grants = []) : (reaches f t && ((d.part t).st == 3 || (d.part t).grants != [])) = false := by simp [h3, hg]
    have hu9 {u : Nat} (hk : u < 0x9000 ∨ (d.port (u - 0x9000)).fenced = false) : ¬ (0x9000 ≤ u ∧ (d.port (u - 0x9000)).fenced = true) := by
      rintro ⟨h1, h2⟩
      rcases hk with hk | hk
      · omega
      · rw [hk] at h2
        cases h2
    refine ⟨fun h4 => hx0 (by rw [decide_eq_true h4, Bool.or_true]) (by rw [show level 0 m = false from beq_false_of_ne (show lv ≠ 0 by omega)]; rfl) (ite_take_not (b := level 0 m) (beq_false_of_ne (show lv ≠ 0 by omega))),
      fun h0 => ⟨fun hr => hx0 (by rw [hlevel h0]; rfl) (by rw [hr, Bool.and_false, Bool.false_and]) (ite_pass_not (hlevel h0) (ite_take_not hr)), fun hr hb => ?_,
        fun hr hb hl => hx0 (by rw [hlevel h0]; rfl) (by rw [hb, Bool.and_false]) (ite_pass_not (hlevel h0) (ite_pass_not hr (ite_take_not hl))),
        fun hr hb hl => hx0 (by rw [hlevel h0]; rfl) (by rw [hb, Bool.and_false]) (ite_pass_not (hlevel h0) (ite_pass_not hr (ite_pass_not hl rfl)))⟩,
      fun h1 => ⟨fun hf => hx1 h1 (by rw [beq_false_of_ne hf, Bool.false_and]) (if_pos hf), fun hf hb => ?_, fun hf hn => hx1 h1 ?_ (ite_pass (not_not.2 hf) ?_),
        fun u hf hb hu hk => hx1 h1 (by rw [hb, Bool.and_false]) (ite_pass (not_not.2 hf) ?_), fun u hf hu hk hk' hb => hx1 h1 (by rw [hb, Bool.and_false]) (ite_pass (not_not.2 hf) ?_)⟩,
      fun h2 => ⟨fun hr => hx2 h2 (by rw [hr, Bool.false_and]) (ite_take_not hr), fun hr hb => ?_, fun hr h3 hg hn => hx2 h2 (hquiet h3 hg) (ite_pass_not hr (if_pos ?_)),
        fun hr h3 hg hon hst => hx2 h2 (hquiet h3 hg) (ite_pass_not hr (ite_pass_bool ?_ rfl))⟩,
      fun h3 => ⟨fun hf => hx3 h3 (if_pos hf), fun hf => hx3 h3 (if_neg (not_not.2 hf)), fun hf hc hi ho => ⟨_, hx3 h3 (if_neg (not_not.2 hf)), rfl, ?_⟩⟩,
      fun h4 => ⟨fun hf => hx4 h4 (if_pos hf), fun hf => hx4 h4 (if_neg (not_not.2 hf)), fun hf => ⟨_, hx4 h4 (if_neg (not_not.2 hf)), rfl, ?_⟩⟩⟩
    · exact h.waits (i := .resetReqContext f c) (pick := fun m => level 0 m || decide (4 < reqLevel m)) (wait := fun d m => level 0 m && reaches f (reqTarget m / 16) && d.resetBusy (reqTarget m))
        (show (level 0 m && reaches f (t / 16) && d.resetBusy t) = true by rw [hlevel h0, hr, hb]; rfl) rfl
    · exact h.waits (i := .resetReqEngine f c) (show (f == 0 && d.engineBusy t) = true by rw [hf, hb]; rfl) rfl
    · rw [Dev.engineBusy, hn, Bool.and_false]
    · rw [show s.dev.reqEngine (reqTarget m) = none from hn]
      rfl
    · rw [show s.dev.reqEngine (reqTarget m) = some u from hu]
      exact if_neg (hu9 hk)
    · rw [show s.dev.reqEngine (reqTarget m) = some u from hu]
      exact if_pos ⟨hk, hk'⟩
    · refine h.waits (i := .resetReqPartition f c) (show (reaches f t && ((d.part t).st == 3 || (d.part t).grants != [])) = true from ?_) rfl
      rw [hr, Bool.true_and, Bool.or_eq_true, beq_iff_eq, bne_iff_ne]
      exact hb
    · rw [Bool.or_eq_true, Bool.not_eq_true', beq_iff_eq]
      exact hn
    · rw [Bool.or_eq_false_iff, Bool.not_eq_false', beq_eq_false_iff_ne]
      exact ⟨hon, hst⟩
    · obtain ⟨hs, hhs⟩ := d.respond_frame f c rOk (leBytes 1 3)
      exact Dev.chipReset_was (by rw [hhs]; exact hc) (by rw [hhs]; exact hi) (by rw [hhs]; exact ho) 0 true false
    · have ha := (d.respond f c rOk (leBytes 1 4)).askPowerCycle_asks 0
      obtain ⟨hs, hhs⟩ := d.respond_frame f c rOk (leBytes 1 4)
      rw [show (d.respond f c rOk (leBytes 1 4)).cave = d.cave by rw [hhs]] at ha
      exact ha
  · have hx := h.command (i := .serviceReturn f c) rfl rfl
    have hst : (d.mbx f c).st = 2 := by
      obtain ⟨-, hst, -⟩ := h
      exact hst
    refine ⟨fun ho => hx.trans (congrArg s.next (ite_take_not ho)), fun ho => ⟨_, hx.trans (congrArg s.next (ite_pass_not ho rfl)), rfl, ?_⟩⟩
    obtain ⟨cv, hcv⟩ := Dev.clearService_eq { d with rrc := { d.rrc with resets := [], oos := false }, cfg := d.cfg.rewrite }
    obtain ⟨hs, hhs⟩ := (Dev.clearService { d with rrc := { d.rrc with resets := [], oos := false }, cfg := d.cfg.rewrite }).respond_frame f c rOk []
    have hhost : (Dev.clearService { d with rrc := { d.rrc with resets := [], oos := false }, cfg := d.cfg.rewrite }).mbx f c = d.mbx f c := by rw [hcv]; rfl
    refine ⟨?_, ?_, ?_, ?_⟩
    · exact (congrArg Dev.rrc (hhs.trans (by rw [hcv]))).trans rfl
    · exact (congrArg Dev.cfg (hhs.trans (by rw [hcv]))).trans rfl
    · exact (congrArg (fun x : Dev => x.flt.list) (hhs.trans (by rw [hcv]))).trans rfl
    · exact (Dev.respond_rsp (by rw [hhost]; exact hst)).trans (by rw [hhost]; rfl)

end Sys2Proof.Machine
end

section
/-! PROOFS. Firmware, attestation, debug tokens and the rollover (12_rennet.md R374, 13_security.md R383-R395, R405, 16_bringup.md R482-R486). -/

namespace Sys2Proof.Machine

/-! ## Images and activation (R383, R482) -/

section
variable {x : Sec} {comp : Nat} {im : List Byte}

theorem Sec.accepts_iff : x.accepts comp im = true ↔ leAt im 5 1 ≤ 1 ∧ 0xC00 + leAt im 0x10 4 ≤ im.length ∧
    shake256 ((im.drop 0x40).take 68) = (if leAt im 5 1 = 0 then x.fuses.signer0 else x.fuses.signer1) ∧ bit x.fuses.signerRevoke (leAt im 5 1) = false ∧
      xmssVerify ((im.drop 0x40).take 68) (im.take 0x90) ((im.drop 0x90).take 2820) = true ∧
        leAt im 0x20 32 = (shake256 ((im.drop 0xC00).take (leAt im 0x10 4))).toNat ∧ leAt im 4 1 = comp ∧ smGet 0 x.fuses.secVersion comp ≤ leAt im 0x0C 2 := by
  unfold Sec.accepts imgBody imgSec
  simp only [Bool.and_eq_true, decide_eq_true_eq, beq_iff_eq, Bool.not_eq_true', and_assoc]

theorem Sec.staged_iff : x.staged comp = true ↔ (x.other comp).verified = true ∧ (x.other comp).seq = 0xFFFFFFFF := by
  unfold Sec.staged erasedSeq
  rw [Bool.and_eq_true, beq_iff_eq]

end

section
variable {d : Dev} {m : List Byte}

/-- The checks of FW_ACTIVATE before the image's own. -/
theorem Dev.activateFails_fields (h3 : leAt m 8 1 ≤ 3) (h1 : leAt m 9 1 ≤ 1) (hc : leAt m 9 1 = 1 → leAt m 8 1 = 0 ∨ leAt m 8 1 = 2) : d.activateFails m =
    if d.sec.activating ≠ [] then some (rConflict, 0) else if !d.sec.staged (leAt m 8 1) then some (rConflict, 8) else none := by
  unfold Dev.activateFails
  dsimp only
  rw [if_neg (by omega), if_neg (by omega), if_neg (by omega)]

theorem Dev.activateFails_none (h3 : leAt m 8 1 ≤ 3) (h1 : leAt m 9 1 ≤ 1) (hc : leAt m 9 1 = 1 → leAt m 8 1 = 0 ∨ leAt m 8 1 = 2) (ha : d.sec.activating = [])
    (hs : d.sec.staged (leAt m 8 1) = true) : d.activateFails m = none := by
  rw [Dev.activateFails_fields h3 h1 hc, if_neg (not_not.2 ha)]
  exact ite_pass_not hs rfl

end

/-! ## Signing states (R385-R388) -/

section
variable {x : Sec}

theorem Sec.takeLeaf_batch (h : x.att.next < x.att.limit) : x.takeLeaf = ({ x with att := { x.att with next := x.att.next + 1 } }, .leaf x.att.next) := if_pos h

theorem Sec.takeLeaf_stuck (h : x.att.limit ≤ x.att.next) (hm : x.att.mark = none) : x.takeLeaf = (x, .stuck) := by
  unfold Sec.takeLeaf
  rw [if_neg (Nat.not_lt.2 h), hm]

theorem Sec.takeLeaf_exhausted {k : Nat} (h : x.att.limit ≤ x.att.next) (hm : x.att.mark = some k) (hk : 2 ^ 20 ≤ k) : x.takeLeaf = (x, .exhausted) := by
  unfold Sec.takeLeaf
  rw [if_neg (Nat.not_lt.2 h), hm]
  exact if_pos hk

theorem Sec.takeLeaf_unwritable {k : Nat} (h : x.att.limit ≤ x.att.next) (hm : x.att.mark = some k) (hk : k < 2 ^ 20) (hw : x.att.writable = false) : x.takeLeaf = (x, .stuck) := by
  unfold Sec.takeLeaf
  rw [if_neg (Nat.not_lt.2 h), hm]
  exact ite_pass (Nat.not_le.2 hk) (ite_take_not hw)

/-- A new batch: its mark is written first. -/
theorem Sec.takeLeaf_marks {k : Nat} (h : x.att.limit ≤ x.att.next) (hm : x.att.mark = some k) (hk : k < 2 ^ 20) (hw : x.att.writable = true) :
    x.takeLeaf = ({ x with att := { x.att.write (k + 64) with next := k + 1, limit := k + 64 }
                           rollover := x.rollover || (decide (rolloverMark < k + 64) && x.idReady) }, .leaf k) := by
  unfold Sec.takeLeaf
  rw [if_neg (Nat.not_lt.2 h), hm]
  exact ite_pass (Nat.not_le.2 hk) (ite_pass_not hw rfl)

end

/-- A sequence is higher than the one it was written after, and not the other way. -/
theorem seqHigher_succ {n : Nat} (h : n < 4294967296) : seqHigher ((n + 1) % 4294967296) n = true ∧ seqHigher n ((n + 1) % 4294967296) = false := by
  unfold seqHigher
  dsimp only
  rw [Bool.and_eq_true, Bool.and_eq_false_iff, decide_eq_true_eq, decide_eq_true_eq, decide_eq_false_iff_not, decide_eq_false_iff_not]
  omega

/-- The mark written last is the one that is loaded. -/
theorem Xmss.write_mark {x : Xmss} {k n : Nat} (hm : x.mark = some k) (ha : ∀ a, x.markA = some a → a.1 < 2 ^ 32) (hb : ∀ a, x.markB = some a → a.1 < 2 ^ 32) :
    (x.write n).mark = some n := by
  cases hA : x.markA with
  | none =>
    cases hB : x.markB with
    | none => simp [Xmss.mark, hA, hB] at hm
    | some b => simp [Xmss.write, Xmss.mark, hA, hB, (seqHigher_succ (hb b hB)).2]
  | some a =>
    cases hB : x.markB with
    | none => simp [Xmss.write, Xmss.mark, hA, hB, (seqHigher_succ (ha a hA)).1]
    | some b =>
      cases hh : seqHigher b.1 a.1 with
      | true => simp [Xmss.write, Xmss.mark, hA, hB, hh, (seqHigher_succ (hb b hB)).2]
      | false => simp [Xmss.write, Xmss.mark, hA, hB, hh, (seqHigher_succ (ha a hA)).1]

/-! ## Debug tokens (R395) -/

theorem Sec.tokenOk_iff {x : Sec} {t : List Byte} : x.tokenOk t = true ↔ leAt t 0 4 = 1 ∧ leAt t 4 4 < 4 ∧ leAt t 0x14 12 = 0 ∧ leAt t 8 8 = x.fuses.serial ∧
    leAt t 0x10 4 = x.unlockCounter ∧ Config.fusedKeyVerify x.fuses.debugAuthority (t.take 0x20) (t.drop 0x20) = true := by
  unfold Sec.tokenOk
  simp only [Bool.and_eq_true, decide_eq_true_eq, beq_iff_eq, and_assoc]

theorem Dev.anyRind_iff {d : Dev} : d.anyRind = true ↔ ∃ q ∈ d.parts, q.2.st ≠ 0 ∧ q.2.conf = true := by
  simp [Dev.anyRind]

/-! ## FW_QUERY (R374) -/

theorem Sec.fwState_eq (x : Sec) (comp : Nat) : x.fwState comp = if comp ∈ x.activating then 2 else if (x.other comp).verified = true ∧ (x.other comp).seq = 0xFFFFFFFF then 1 else 0 := by
  unfold Sec.fwState
  simp only [List.contains_eq_mem, decide_eq_true_eq, Sec.staged_iff]

theorem Sec.fwBytes_eq (x : Sec) (comp : Nat) : x.fwBytes comp = leBytes 1 (x.fwState comp) ++ leBytes 3 0 ++ leBytes 4 (x.running_ comp).version ++ leBytes 4 (x.running_ comp).seq ++
    leBytes 4 (if x.fwState comp = 0 then 0 else (x.other comp).version) ++ leBytes 4 (if x.fwState comp = 0 then 0 else (x.other comp).stagedSeq) ++ leBytes 4 0 ++
      leBytes 32 (x.running_ comp).digest.toNat ++ leBytes 32 (if x.fwState comp = 0 then 0 else (x.other comp).digest.toNat) := by
  unfold Sec.fwBytes
  by_cases h : x.fwState comp = 0
  · simp only [if_pos h]
    rfl
  · simp only [if_neg h]

/-! ## The rollover (R388) -/

theorem Sec.idReady_of {x : Sec} {i : Nat} (hm : x.idk.mark = some i) (hi : i < 2 ^ 10) : x.idReady = true := by
  unfold Sec.idReady
  rw [hm]
  exact decide_eq_true hi

section
variable {d : Dev} {k : Nat} (hr : d.sec.rollover = true) (hu : d.host.recvUpSec = true) (hm : d.sec.idk.mark = some k)
include hr hu hm

/-- A rollover that is due ends as the identity key's leaves and mark allow. -/
theorem doRolloverDone_due : doRolloverDone d = if idLeaves ≤ k then d else if !d.sec.idk.writable then d.raise (plainMsg 0x803 0x70 0) else
    { d with sec := { d.sec with idk := { d.sec.idk.write (k + 1) with next := k + 1, limit := k + 1 }, attIndex := d.sec.attIndex + 1, rollover := false,
                                 att := { markA := some (1, 0), markB := none, next := 0, limit := 0, writable := d.sec.att.writable } } } := by
  unfold doRolloverDone
  rw [if_neg (by rw [hr, hu]; decide), hm]

end

theorem doRolloverDone_idle {d : Dev} (h : d.sec.rollover = false ∨ d.host.recvUpSec = false) : doRolloverDone d = d := by
  refine if_pos ?_
  rcases h with h | h
  · rw [h]
    rfl
  · rw [h, Bool.not_false, Bool.or_true]

/-- Settles O45. -/
theorem firmwareAndAttestRows : Obligations.FirmwareAndAttestRows := by
  unfold Obligations.FirmwareAndAttestRows
  intro s f c m d say x comp when_ n im other slot run act p sk tok
  refine ⟨fun h => ?_, fun im => Sec.accepts_iff, fun row hrow h => ?_, fun h h3 ha hv hs => ?_, fun h => ?_, fun h => ?_, fun hb => Sec.takeLeaf_batch hb,
    fun hb => ⟨fun hm => Sec.takeLeaf_stuck hb hm, fun k hm hk => Sec.takeLeaf_exhausted hb hm hk, fun k hm hk hw => Sec.takeLeaf_unwritable hb hm hk hw, fun k hm hk hw => ?_⟩, fun hr => ?_, fun k hr hu hm => ?_, fun h => ?_⟩
  · have hx := fun {e : Dev} (he : _ = e) => (h.command (i := .fwStage f c) rfl rfl).trans (congrArg s.next he)
    refine ⟨fun h3 => hx (if_pos h3), fun h3 ha => hx (ite_pass (Nat.not_lt.2 h3) (if_pos ha)), fun h3 ha hn => hx (ite_pass (Nat.not_lt.2 h3) (ite_pass (not_not.2 ha) (if_pos hn))),
      fun h3 ha hn hu => hx (ite_pass (Nat.not_lt.2 h3) (ite_pass (not_not.2 ha) (ite_pass (Nat.not_lt.2 hn) (ite_take_not hu)))), fun h3 ha hn hu => ?_⟩
    have hx := fun {e : Dev} (he : _ = e) => hx (ite_pass (Nat.not_lt.2 h3) (ite_pass (not_not.2 ha) (ite_pass (Nat.not_lt.2 hn) (ite_pass_not hu he))))
    exact ⟨fun hi => hx (ite_take_not hi), fun hi => hx (ite_pass_not hi rfl)⟩
  · have hrefuse {e : Nat × Nat} (he : d.activateFails m = some e) : exec row s = s.next (d.fail f c e.1 e.2) := by
      rcases hrow with ⟨rfl, hw⟩ | ⟨rfl, hw⟩
      · refine (h.command (i := .fwActivateNextReset f c) (pick := fun m => leAt m 9 1 != 1) (bne_iff_ne.2 hw) rfl).trans (congrArg s.next ?_)
        rw [show s.dev.activateFails m = some e from he]
      · refine (h.command (i := .fwActivateNow f c) (pick := fun m => leAt m 9 1 == 1) (beq_iff_eq.2 hw) rfl).trans (congrArg s.next ?_)
        rw [show s.dev.activateFails m = some e from he]
    refine ⟨fun h3 => hrefuse (e := (rInvalid, 8)) (if_pos h3), fun h3 h1 => hrefuse (e := (rInvalid, 9)) (ite_pass (Nat.not_lt.2 h3) (if_pos h1)), fun hw hcomp => hrefuse (e := (rInvalid, 9)) ?_,
      fun h3 h1 hc => ⟨fun ha => hrefuse (e := (rConflict, 0)) ?_, fun ha hv => hrefuse (e := (rConflict, 8)) ?_⟩⟩
    · exact ite_pass (show ¬ 3 < comp by omega) (ite_pass (show ¬ 1 < when_ by omega) (if_pos ⟨hw, hcomp⟩))
    · rw [Dev.activateFails_fields h3 h1 hc]
      exact if_pos ha
    · rw [Dev.activateFails_fields h3 h1 hc]
      refine ite_pass (not_not.2 ha) (ite_take_not (eq_false_of_ne_true (fun hs => ?_)))
      obtain ⟨h1, h2⟩ := Sec.staged_iff.1 hs
      exact hv.elim (fun hv => Bool.false_ne_true (hv.symm.trans h1)) (· h2)
  · have hst : d.sec.staged (leAt m 8 1) = true := Sec.staged_iff.2 ⟨hv, hs⟩
    have hnone (hc : when_ = 1 → comp = 0 ∨ comp = 2) (h1 : when_ ≤ 1) : s.dev.activateFails m = none := Dev.activateFails_none h3 h1 hc ha hst
    have hx := fun (hw : when_ = 1) => h.command (i := .fwActivateNow f c) (pick := fun m => leAt m 9 1 == 1) (beq_iff_eq.2 hw) rfl
    have hact : d.sec.activate comp = act.sec := rfl
    refine ⟨fun hw => ?_, fun hw hc hsb => (hx hw).trans (congrArg s.next ?_), fun hw hc hsb => (hx hw).trans (congrArg s.next ?_), fun hw hc => (hx hw).trans (congrArg s.next ?_)⟩
    · refine (h.command (i := .fwActivateNextReset f c) (pick := fun m => leAt m 9 1 != 1) (bne_iff_ne.2 (show when_ ≠ 1 by omega)) rfl).trans (congrArg s.next ?_)
      rw [hnone (by omega) (by omega)]
      rfl
    · rw [hnone (fun _ => .inl hc) (Nat.le_of_eq hw)]
      exact (if_pos hc).trans (ite_take_not hsb)
    · rw [hnone (fun _ => .inl hc) (Nat.le_of_eq hw)]
      rw [hc] at hact
      refine (if_pos hc).trans (ite_pass_not hsb ?_)
      exact congrArg (fun y : Sec => ((({ d with sec := y.runNew 0 } : Dev).event 5 none).respond f c rOk []).failover) hact
    · rw [hnone (fun _ => .inr hc) (Nat.le_of_eq hw)]
      rw [hc] at hact
      refine (if_neg (show comp ≠ 0 by omega)).trans ?_
      exact congrArg (fun y : Sec => ((({ d with sec := y } : Dev).event 5 none).respond f c rOk []).recvReset true false) hact
  · have hx := h.command (i := .fwQuery f c) rfl rfl
    refine ⟨fun h3 => hx.trans (congrArg s.next (if_pos h3)), fun h3 => ?_⟩
    intro st
    refine hx.trans (congrArg s.next ((if_neg (Nat.not_lt.2 h3)).trans ?_))
    have hst : d.sec.fwState comp = st := Sec.fwState_eq d.sec comp
    rw [← hst]
    exact congrArg (d.respond f c 0) (Sec.fwBytes_eq d.sec comp)
  · have hx := fun {e : Dev} (he : _ = e) => (h.command (i := .attest f c) rfl rfl).trans (congrArg s.next he)
    refine ⟨fun hp hon => hx (if_pos ⟨hp, by rw [show s.dev.partOn (leAt m 8 1) = false from hon]; rfl⟩), fun hp => ?_⟩
    have hp : ¬ (leAt m 8 1 ≠ 0xFF ∧ (!s.dev.partOn (leAt m 8 1)) = true) := fun ⟨h1, h2⟩ => hp.elim h1 (fun h => by rw [show s.dev.partOn (leAt m 8 1) = true from h] at h2; exact Bool.false_ne_true h2)
    have hx := fun {e : Dev} (he : _ = e) => hx (ite_pass hp he)
    refine ⟨fun hn => hx (if_pos hn), fun hn ha => hx (ite_pass (Nat.not_lt.2 hn) (if_pos ha)), fun hn ha => ?_⟩
    have hx := fun {e : Dev} (he : _ = e) => hx (ite_pass (Nat.not_lt.2 hn) (ite_pass (not_not.2 ha) he))
    refine ⟨fun y k hy => ⟨fun hu => hx ?_, fun hu => hx ?_⟩, fun y hy => hx ?_, fun y hy => hx ?_⟩
    · rw [show s.dev.sec.takeLeaf = _ from hy]
      exact Dev.sendBuf_up hu
    · rw [show s.dev.sec.takeLeaf = _ from hy]
      exact Dev.sendBuf_down hu
    · rw [show s.dev.sec.takeLeaf = _ from hy]
      dsimp only
      split <;> rfl
    · rw [show s.dev.sec.takeLeaf = _ from hy]
      rfl
  · have hx := Sec.takeLeaf_marks hb hm hk hw
    rw [hx]
    refine ⟨rfl, rfl, rfl, fun ha hb' => Xmss.write_mark hm ha hb', fun hr ⟨i, hi, hi'⟩ => ?_⟩
    show (x.rollover || (decide (rolloverMark < k + 64) && x.idReady)) = true
    rw [Sec.idReady_of hi hi', decide_eq_true (show rolloverMark < k + 64 from hr), Bool.and_self, Bool.or_true]
  · exact congrArg s.next (doRolloverDone_idle hr)
  · have hd := doRolloverDone_due hr hu hm
    refine ⟨fun hk => congrArg s.next (hd.trans (if_pos hk)), fun hk hw => congrArg s.next (hd.trans (ite_pass (Nat.not_le.2 hk) (ite_take_not hw))), fun hk hw => ?_⟩
    exact ⟨_, congrArg s.next (hd.trans (ite_pass (Nat.not_le.2 hk) (ite_pass_not hw rfl))), rfl, rfl, rfl, rfl, rfl, rfl, rfl, rfl⟩
  · have hx := fun {e : Dev} (he : _ = e) => (h.command (i := .debugUnlock f c) rfl rfl).trans (congrArg s.next he)
    refine ⟨fun hf => hx (if_pos hf), fun hf hq => hx (ite_pass_bool hf (if_pos (Dev.anyRind_iff.2 hq))), fun hf hq => ?_⟩
    have hany : s.dev.anyRind = false := eq_false_of_ne_true (fun ha => by
      obtain ⟨q, hq', h0, hc⟩ := Dev.anyRind_iff.1 ha
      exact (hq q hq').elim h0 (fun h => Bool.false_ne_true (h.symm.trans hc)))
    have hx := fun {e : Dev} (he : _ = e) => hx (ite_pass_bool hf (ite_pass_bool hany he))
    have hgood : (!d.host.linkUp || decide (leAt m 0x10 4 < tokenLen) || !x.tokenOk tok) = true ↔ ¬ (d.host.linkUp = true ∧ 2852 ≤ leAt m 0x10 4 ∧ x.tokenOk tok = true) := by
      rw [Bool.or_eq_true, Bool.or_eq_true, Bool.not_eq_true', Bool.not_eq_true', decide_eq_true_eq, not_and_or, not_and_or, or_assoc, Bool.not_eq_true, Bool.not_eq_true, Nat.not_le]
      rfl
    rw [Sec.tokenOk_iff] at hgood
    exact ⟨fun hg => hx (if_pos (hgood.2 hg)), fun hg => hx (if_neg (fun h => hgood.1 h hg))⟩

end Sys2Proof.Machine
end

section
/-! PROOFS. The keys of a partition: public keys and envelopes (12_rennet.md R374-R378, 13_security.md R397-R403). -/

namespace Sys2Proof.Machine

/-! ## Envelope headers (R398, R399) -/

section
variable {d : Dev} {h : List Byte} {key slice len : Nat}

theorem Dev.keyHeaderOk_iff : d.keyHeaderOk h key slice len = true ↔ leAt h 0 4 = 1 ∧ leAt h 4 1 ≤ 1 ∧ leAt h 5 3 = 0 ∧ leAt h 0x0C 4 = 0 ∧ leAt h 0x1C 4 = 0 ∧ key ≠ 0 ∧
    leAt h 8 4 = key ∧ leAt h 0x10 8 = d.sec.fuses.serial ∧ leAt h 0x18 4 = slice ∧ len = 1680 := by
  unfold Dev.keyHeaderOk
  simp only [Bool.and_eq_true, decide_eq_true_eq, beq_iff_eq, bne_iff_ne, and_assoc]

theorem Dev.dataHeaderOk_iff {imports : Bool} : d.dataHeaderOk h key slice len imports = true ↔ leAt h 0 4 = 1 ∧ leAt h 5 3 = 0 ∧ leAt h 0x0C 4 = 0 ∧ leAt h 0x34 76 = 0 ∧ key ≠ 0 ∧
    leAt h 8 4 = key ∧ leAt h 0x28 8 = d.sec.fuses.serial ∧ leAt h 0x30 4 = slice ∧ leAt h 0x10 8 % 128 = 0 ∧ 1 ≤ leAt h 0x18 8 ∧ leAt h 0x18 8 ≤ 0xF0000000 ∧
      leAt h 0x10 8 + leAt h 0x18 8 ≤ 2 ^ 43 ∧ len = 128 + leAt h 0x18 8 + 16 * ((leAt h 0x18 8 + 65535) / 65536) ∧ (imports = true → bit (leAt h 0x20 8) 63 = false) := by
  unfold Dev.dataHeaderOk envelopeSize chunkCount
  simp only [Bool.and_eq_true, decide_eq_true_eq, beq_iff_eq, bne_iff_ne, and_assoc, Bool.or_eq_true, Bool.not_eq_true', imp_iff_not_or, Bool.not_eq_true]

end

/-! ## The key that an envelope wraps (R398) -/

section
variable {d : Dev} {p : Nat} {h : List Byte} (hc : (d.part p).conf = true)
include hc

theorem Dev.ekDigest_conf : d.ekDigest p = (shake256 (d.ekOf p)).toNat := if_pos hc

theorem Dev.unwrap_other (h' : leAt h 0x20 32 ≠ (shake256 (d.ekOf p)).toNat) : d.unwrap p h = none := if_pos (by rwa [Dev.ekDigest_conf hc])

theorem Dev.unwrap_opens {ss : List Byte} (he : leAt h 0x20 32 = (shake256 (d.ekOf p)).toNat) (hs : Config.mlkemDecaps (d.part p).keyNo ((h.drop 0x40).take 1568) = some ss) :
    d.unwrap p h = (gcmOpen (shake256 (asciiBytes "LUADA-KEK" ++ ss ++ h.take 0x40)) (List.replicate 12 0) (h.take 0x40) ((h.drop 0x660).take 32) ((h.drop 0x680).take 16)).map
      (fun w => BitVec.ofNat 256 (leNat w)) := by
  unfold Dev.unwrap
  rw [if_neg (by rw [Dev.ekDigest_conf hc]; exact not_not.2 he), hs]

end

/-! ## What every KEY_INSTALL checks first (R378, R397) -/

section
variable {s : State} {f k : Nat} {m : List Byte} {i : Instr} {kind : Nat → Bool} {act : Dev → List Byte → Nat → Nat → Dev} (h : Begins s f k 0x0A03 m)
  (hx : exec i s = s.next (s.dev.keyInstall f k kind act))
include h hx

theorem Begins.keyWaits (hst : (s.dev.part (leAt m 8 1)).st = 3) : exec i s = .next s := h.waits (beq_iff_eq.2 hst) hx

variable (hk : kind (envelopeKind s.dev m) = true) (hst : (s.dev.part (leAt m 8 1)).st ≠ 3)
include hk hst

theorem Begins.keyDenied (hd : s.dev.partCtxs (leAt m 8 1) = [] ∨ (s.dev.part (leAt m 8 1)).conf = false) : exec i s = s.next (s.dev.fail f k rDenied 8) := by
  refine (h.commandW hk (beq_eq_false_iff_ne.2 hst) hx).trans (congrArg s.next ?_)
  dsimp only
  rcases hd with hd | hd
  · rw [hd]
  · split
    · rfl
    · exact ite_take_not hd

variable {slot : Nat} {rest : List Nat} (hc : (s.dev.part (leAt m 8 1)).conf = true)
include hc

theorem Begins.keyDown (hp : s.dev.partCtxs (leAt m 8 1) ≠ []) (hu : s.dev.host.linkUp = false) : exec i s = s.next (s.dev.fail f k rFailed 0) := by
  refine (h.commandW hk (beq_eq_false_iff_ne.2 hst) hx).trans (congrArg s.next ?_)
  dsimp only
  split
  · exact absurd ‹_› hp
  · exact ite_pass_not hc (ite_take_not hu)

theorem Begins.keyRuns (hp : s.dev.partCtxs (leAt m 8 1) = slot :: rest) (hu : s.dev.host.linkUp = true) :
    exec i s = s.next (act s.dev m (leAt m 8 1) (16 * leAt m 8 1 + slot)) := by
  refine (h.commandW hk (beq_eq_false_iff_ne.2 hst) hx).trans (congrArg s.next ?_)
  dsimp only
  rw [hp]
  exact ite_pass_not hc (ite_pass_not hu rfl)

end

/-! ## What IMPORT and EXPORT check (R399-R402) -/

theorem Ctx.rangeMapped_iff {c : Ctx} {off n : Nat} : c.rangeMapped off n = true ↔ ∀ e ∈ lineSplit (n / 128 + 2) off 0 n, c.segAny e.1 e.2.2 ≠ none := by
  unfold Ctx.rangeMapped
  simp only [List.all_eq_true, Option.isSome_iff_ne_none]

section
variable {d : Dev} {f key p ctx : Nat} {m h : List Byte} {imports : Bool} {act : Dev → ModelKey → Dev}

theorem Dev.dataChecks_header (hh : d.dataHeaderOk h (leAt m 0x0C 4) (d.ctx ctx).sliceId (leAt m 0x18 4) imports = false) :
    d.dataChecks f key p ctx m h imports act = d.fail f key rInvalid 0x10 := ite_take_not hh

variable (hh : d.dataHeaderOk h (leAt m 0x0C 4) (d.ctx ctx).sliceId (leAt m 0x18 4) imports = true)
include hh

theorem Dev.dataChecks_unknown (hk : d.sec.models.find? (fun x => x.part == p && x.keyId == leAt m 0x0C 4) = none) :
    d.dataChecks f key p ctx m h imports act = d.fail f key rNotFound 0x0C := by
  unfold Dev.dataChecks
  refine ite_pass_not hh ?_
  rw [hk]

variable {k : ModelKey} (hk : d.sec.models.find? (fun x => x.part == p && x.keyId == leAt m 0x0C 4) = some k)
include hk

theorem Dev.dataChecks_known : d.dataChecks f key p ctx m h imports act = if !(d.ctx ctx).rangeMapped (leAt h 0x10 8) (leAt h 0x18 8) then d.fail f key rDenied 0x10
    else if (d.ctx ctx).tear.isSome then d.refuseCmd f key rFailed 0 0 0xFFFFFFFF else act d k := by
  unfold Dev.dataChecks
  refine ite_pass_not hh ?_
  rw [hk]

theorem Dev.dataChecks_unmapped {e : Nat × Nat × Nat} (he : e ∈ lineSplit (leAt h 0x18 8 / 128 + 2) (leAt h 0x10 8) 0 (leAt h 0x18 8)) (hs : (d.ctx ctx).segAny e.1 e.2.2 = none) :
    d.dataChecks f key p ctx m h imports act = d.fail f key rDenied 0x10 :=
  (Dev.dataChecks_known hh hk).trans (ite_take_not (eq_false_of_ne_true (fun hr => Ctx.rangeMapped_iff.1 hr e he hs)))

variable (hm : ∀ e ∈ lineSplit (leAt h 0x18 8 / 128 + 2) (leAt h 0x10 8) 0 (leAt h 0x18 8), (d.ctx ctx).segAny e.1 e.2.2 ≠ none)
include hm

theorem Dev.dataChecks_torn (ht : (d.ctx ctx).tear ≠ none) : d.dataChecks f key p ctx m h imports act = d.refuseCmd f key rFailed 0 0 0xFFFFFFFF :=
  (Dev.dataChecks_known hh hk).trans (ite_pass_not (Ctx.rangeMapped_iff.2 hm) (if_pos (Option.isSome_iff_ne_none.2 ht)))

theorem Dev.dataChecks_runs (ht : (d.ctx ctx).tear = none) : d.dataChecks f key p ctx m h imports act = act d k :=
  (Dev.dataChecks_known hh hk).trans (ite_pass_not (Ctx.rangeMapped_iff.2 hm) (ite_pass (by rw [ht]; decide) rfl))

end

/-- No key of the partition has the identity. -/
theorem find?_part_none {l : List ModelKey} {p id : Nat} (h : ∀ y ∈ l, ¬ (y.part = p ∧ y.keyId = id)) : l.find? (fun x => x.part == p && x.keyId == id) = none :=
  List.find?_eq_none.2 (fun y hy hb => h y hy (by simpa using hb))

/-- No link secret is the slice's. -/
theorem find?_slice_none {l : List LinkSecret} {id : Nat} (h : ∀ y ∈ l, y.sliceId ≠ id) : l.find? (fun y => y.sliceId == id) = none :=
  List.find?_eq_none.2 (fun y hy hb => h y hy (beq_iff_eq.1 hb))

/-! ## KEY_PUBLIC_GET (R397) -/

section
variable {s : State} {f c : Nat} {m : List Byte} (hB : Begins s f (8 + c) 0x0A02 m)
include hB

theorem keyPublicGet_gives {bs : List Byte} (hbs : (leAt m 8 1 = 0 ∧ bs = s.dev.identityCert) ∨ (leAt m 8 1 = 1 ∧ bs = s.dev.attCert) ∨
      (leAt m 8 1 = 2 ∧ (s.dev.part (leAt m 9 1)).conf = true ∧ (s.dev.part (leAt m 9 1)).st ≠ 0 ∧ bs = s.dev.ekOf (leAt m 9 1))) :
    exec (.keyPublicGet f c) s = s.next (if leAt m 0x18 4 < bs.length then s.dev.refuseCmd f (8 + c) rNoResource 0x18 0 bs.length
      else s.dev.sendBuf f (8 + c) (leAt m 0x10 8) bs (leBytes 4 bs.length)) := by
  refine (hB.command (i := .keyPublicGet f c) rfl rfl).trans (congrArg s.next ?_)
  dsimp only
  rcases hbs with ⟨hp, rfl⟩ | ⟨hp, rfl⟩ | ⟨hp, hc, hst, rfl⟩
  · rw [hp]
    rfl
  · rw [hp]
    rfl
  · rw [hp]
    exact if_pos (by rw [hc, Bool.true_and]; exact bne_iff_ne.2 hst)

theorem keyPublicGet_unknown (hp : leAt m 8 1 = 2) (hq : (s.dev.part (leAt m 9 1)).conf = false ∨ (s.dev.part (leAt m 9 1)).st = 0) :
    exec (.keyPublicGet f c) s = s.next (s.dev.fail f (8 + c) rNotFound 9) := by
  refine (hB.command (i := .keyPublicGet f c) rfl rfl).trans (congrArg s.next ?_)
  dsimp only
  rw [hp]
  refine if_neg (fun hb => ?_)
  obtain ⟨h1, h2⟩ := Bool.and_eq_true_iff.1 hb
  exact hq.elim (fun h => Bool.false_ne_true (h.symm.trans h1)) (bne_iff_ne.1 h2)

theorem keyPublicGet_undefined (hp : 2 < leAt m 8 1) : exec (.keyPublicGet f c) s = s.next (s.dev.fail f (8 + c) rInvalid 8) := by
  refine (hB.command (i := .keyPublicGet f c) rfl rfl).trans (congrArg s.next ?_)
  dsimp only
  split
  · omega
  · omega
  · omega
  · rfl

end

/-! ## The four kinds of envelope -/

section
variable {s : State} {f c slot : Nat} {rest : List Nat} {m : List Byte} (hB : Begins s f (8 + c) 0x0A03 m) (hst : (s.dev.part (leAt m 8 1)).st ≠ 3)
  (hp : s.dev.partCtxs (leAt m 8 1) = slot :: rest) (hc : (s.dev.part (leAt m 8 1)).conf = true) (hu : s.dev.host.linkUp = true)
include hB hst hp hc hu

section
variable (hk : envelopeKind s.dev m = 0 ∨ 3 < envelopeKind s.dev m)
include hk

theorem keyInstallModel_header
    (hh : s.dev.keyHeaderOk (s.dev.hostRead (leAt m 0x10 8) 1680) (leAt m 0x0C 4) (s.dev.ctx (16 * leAt m 8 1 + slot)).sliceId (leAt m 0x18 4) = false) :
    exec (.keyInstallModel f c) s = s.next (s.dev.fail f (8 + c) rInvalid 0x10) :=
  (hB.keyRuns (i := .keyInstallModel f c) rfl (by simpa using hk) hst hc hp hu).trans (congrArg s.next (ite_take_not hh))

variable (hh : s.dev.keyHeaderOk (s.dev.hostRead (leAt m 0x10 8) 1680) (leAt m 0x0C 4) (s.dev.ctx (16 * leAt m 8 1 + slot)).sliceId (leAt m 0x18 4) = true)
include hh

theorem keyInstallModel_closed (hw : s.dev.unwrap (leAt m 8 1) (s.dev.hostRead (leAt m 0x10 8) 1680) = none) :
    exec (.keyInstallModel f c) s = s.next (s.dev.fail f (8 + c) rFailed 0x10) := by
  refine (hB.keyRuns (i := .keyInstallModel f c) rfl (by simpa using hk) hst hc hp hu).trans (congrArg s.next (ite_pass_not hh ?_))
  rw [hw]
  rfl

variable {k : BitVec 256} (hw : s.dev.unwrap (leAt m 8 1) (s.dev.hostRead (leAt m 0x10 8) 1680) = some k)
include hw

theorem keyInstallModel_known {y : ModelKey} (hy : s.dev.sec.models.find? (fun x => x.part == leAt m 8 1 && x.keyId == leAt m 0x0C 4) = some y) :
    exec (.keyInstallModel f c) s = s.next (if y.key = k then s.dev.noChange f (8 + c) [] else s.dev.fail f (8 + c) rConflict 0x0C) := by
  refine (hB.keyRuns (i := .keyInstallModel f c) rfl (by simpa using hk) hst hc hp hu).trans (congrArg s.next (ite_pass_not hh ?_))
  rw [hw]
  dsimp only
  rw [hy]
  rfl

theorem keyInstallModel_new (hn : ∀ y ∈ s.dev.sec.models, ¬ (y.part = leAt m 8 1 ∧ y.keyId = leAt m 0x0C 4)) :
    exec (.keyInstallModel f c) s = s.next (if 16 ≤ (s.dev.sec.models.filter (fun x => x.part == leAt m 8 1)).length then s.dev.refuseCmd f (8 + c) rNoResource 0 0 16 else
      ({ s.dev with sec := { s.dev.sec with models := s.dev.sec.models ++ [{ part := leAt m 8 1, keyId := leAt m 0x0C 4, key := k, digest := List.replicate 32 0, bytes := 0, exports := 0 }] } } : Dev).respond
        f (8 + c) rOk []) := by
  refine (hB.keyRuns (i := .keyInstallModel f c) rfl (by simpa using hk) hst hc hp hu).trans (congrArg s.next (ite_pass_not hh ?_))
  rw [hw]
  dsimp only
  rw [find?_part_none hn]
  rfl

end

section
variable (hk : envelopeKind s.dev m = 1)
include hk

theorem keyInstallLink_header
    (hh : s.dev.keyHeaderOk (s.dev.hostRead (leAt m 0x10 8) 1680) (leAt m 0x0C 4) (s.dev.ctx (16 * leAt m 8 1 + slot)).sliceId (leAt m 0x18 4) = false) :
    exec (.keyInstallLink f c) s = s.next (s.dev.fail f (8 + c) rInvalid 0x10) :=
  (hB.keyRuns (i := .keyInstallLink f c) (kind := fun k => k == 1) rfl (beq_iff_eq.2 hk) hst hc hp hu).trans (congrArg s.next (ite_take_not hh))

variable (hh : s.dev.keyHeaderOk (s.dev.hostRead (leAt m 0x10 8) 1680) (leAt m 0x0C 4) (s.dev.ctx (16 * leAt m 8 1 + slot)).sliceId (leAt m 0x18 4) = true)
include hh

theorem keyInstallLink_closed (hw : s.dev.unwrap (leAt m 8 1) (s.dev.hostRead (leAt m 0x10 8) 1680) = none) :
    exec (.keyInstallLink f c) s = s.next (s.dev.fail f (8 + c) rFailed 0x10) := by
  refine (hB.keyRuns (i := .keyInstallLink f c) (kind := fun k => k == 1) rfl (beq_iff_eq.2 hk) hst hc hp hu).trans (congrArg s.next (ite_pass_not hh ?_))
  rw [hw]
  rfl

variable {k : BitVec 256} (hw : s.dev.unwrap (leAt m 8 1) (s.dev.hostRead (leAt m 0x10 8) 1680) = some k)
include hw

theorem keyInstallLink_full (hs : (let x := (s.dev.ctxNi (16 * leAt m 8 1 + slot)).slice ((16 * leAt m 8 1 + slot) % 16); sdExt x 0 * sdExt x 1 * sdExt x 2 * sdExt x 3) = 1) :
    exec (.keyInstallLink f c) s = s.next (s.dev.refuseCmd f (8 + c) rConflict 0 0 4) := by
  refine (hB.keyRuns (i := .keyInstallLink f c) (kind := fun k => k == 1) rfl (beq_iff_eq.2 hk) hst hc hp hu).trans (congrArg s.next (ite_pass_not hh ?_))
  rw [hw]
  exact if_pos hs

variable (hs : (let x := (s.dev.ctxNi (16 * leAt m 8 1 + slot)).slice ((16 * leAt m 8 1 + slot) % 16); sdExt x 0 * sdExt x 1 * sdExt x 2 * sdExt x 3) ≠ 1)
include hs

theorem keyInstallLink_known {y : LinkSecret} (hy : s.dev.sec.secrets.find? (fun y => y.sliceId == (s.dev.ctx (16 * leAt m 8 1 + slot)).sliceId) = some y) :
    exec (.keyInstallLink f c) s = s.next (if y.secret = k then s.dev.respond f (8 + c) rOk [] else s.dev.fail f (8 + c) rConflict 0) := by
  refine (hB.keyRuns (i := .keyInstallLink f c) (kind := fun k => k == 1) rfl (beq_iff_eq.2 hk) hst hc hp hu).trans (congrArg s.next (ite_pass_not hh ?_))
  rw [hw]
  refine ite_pass hs ?_
  rw [hy]
  rfl

theorem keyInstallLink_new (hn : ∀ y ∈ s.dev.sec.secrets, y.sliceId ≠ (s.dev.ctx (16 * leAt m 8 1 + slot)).sliceId) :
    exec (.keyInstallLink f c) s = s.next ((({ s.dev with sec := { s.dev.sec with
      secrets := s.dev.sec.secrets ++ [{ sliceId := (s.dev.ctx (16 * leAt m 8 1 + slot)).sliceId, secret := k, round := 0 }] } } : Dev).writeLinkKey
        (s.dev.ctx (16 * leAt m 8 1 + slot)).sliceId).respond f (8 + c) rOk []) := by
  refine (hB.keyRuns (i := .keyInstallLink f c) (kind := fun k => k == 1) rfl (beq_iff_eq.2 hk) hst hc hp hu).trans (congrArg s.next (ite_pass_not hh ?_))
  rw [hw]
  refine ite_pass hs ?_
  rw [find?_slice_none hn]
  rfl

end

/-- IMPORT of what the checks let pass: a chunk that fails ends it, and all chunks good extend the weight digest. -/
theorem keyInstallImport_checked (hk : envelopeKind s.dev m = 2) (ctx : Nat) (hd : List Byte) (hctx : ctx = 16 * leAt m 8 1 + slot) (hhd : hd = s.dev.hostRead (leAt m 0x10 8) 128) :
    ∃ act, exec (.keyInstallImport f c) s = s.next (s.dev.dataChecks f (8 + c) (leAt m 8 1) ctx m hd true act) ∧
      (∀ y e, (s.dev.importChunks ctx (leAt m 0x10 8) y hd ((leAt hd 0x18 8 + 65535) / 65536) 0).2 = .inr e →
        act s.dev y = (s.dev.importChunks ctx (leAt m 0x10 8) y hd ((leAt hd 0x18 8 + 65535) / 65536) 0).1.refuseCmd f (8 + c) e.1 0 0 e.2) ∧
      (∀ y pt, (s.dev.importChunks ctx (leAt m 0x10 8) y hd ((leAt hd 0x18 8 + 65535) / 65536) 0).2 = .inl pt →
        act s.dev y = (let g := (s.dev.importChunks ctx (leAt m 0x10 8) y hd ((leAt hd 0x18 8 + 65535) / 65536) 0).1
          ({ g with sec := { g.sec with models := g.sec.models.map (fun z => if z = y then { z with
            digest := leBytes 32 (shake256 (y.digest ++ leBytes 8 (leAt hd 0x10 8) ++ leBytes 8 (leAt hd 0x18 8) ++ leBytes 32 (shake256 pt).toNat)).toNat
            bytes := z.bytes + leAt hd 0x18 8 } else z) } } : Dev).respond f (8 + c) rOk [])) := by
  subst hctx hhd
  refine ⟨_, hB.keyRuns (i := .keyInstallImport f c) (kind := fun k => k == 2) rfl (beq_iff_eq.2 hk) hst hc hp hu, fun y e he => ?_, fun y pt he => ?_⟩
  · dsimp only
    rw [chunkCount, he]
    rfl
  · dsimp only
    rw [chunkCount, he]
    rfl

/-- EXPORT of what the checks let pass. -/
theorem keyInstallExport_checked (hk : envelopeKind s.dev m = 3) (ctx : Nat) (hd : List Byte) (hctx : ctx = 16 * leAt m 8 1 + slot) (hhd : hd = s.dev.hostRead (leAt m 0x10 8) 128) :
    ∃ act, exec (.keyInstallExport f c) s = s.next (s.dev.dataChecks f (8 + c) (leAt m 8 1) ctx m hd false act) ∧
      ∀ y r, r = s.dev.hostSegRead ctx (leAt hd 0x10 8) (leAt hd 0x18 8) → (r.2.2 ≠ 0 → act s.dev y = r.1.fail f (8 + c) rFailed 0) ∧
        (r.2.2 = 0 → act s.dev y = (let hn := hd.take 0x20 ++ leBytes 8 (y.exports % 2 ^ 63 + 2 ^ 63) ++ hd.drop 0x28
          let g := r.1
          ({ g with sec := { g.sec with models := g.sec.models.map (fun z => if z = y then { z with exports := z.exports + 1 } else z) } } : Dev).sendBuf f (8 + c) (leAt m 0x10 8)
            (hn ++ sealChunks y hn r.2.1 ((leAt hd 0x18 8 + 65535) / 65536) 0) [])) := by
  subst hctx hhd
  refine ⟨_, hB.keyRuns (i := .keyInstallExport f c) (kind := fun k => k == 3) rfl (beq_iff_eq.2 hk) hst hc hp hu, fun y r hr => ?_⟩
  dsimp only
  rw [← hr]
  exact ⟨fun he => if_pos he, fun he => if_neg (not_not.2 he)⟩

end

/-- Each row of KEY_INSTALL serves its own kind of envelope. -/
theorem keyInstall_row {s : State} {f c kind : Nat} {row : Instr} (h : (row = Instr.keyInstallModel f c ∧ (kind = 0 ∨ 3 < kind)) ∨ (row = .keyInstallLink f c ∧ kind = 1) ∨
      (row = .keyInstallImport f c ∧ kind = 2) ∨ (row = .keyInstallExport f c ∧ kind = 3)) :
    ∃ (kd : Nat → Bool) (act : Dev → List Byte → Nat → Nat → Dev), kd kind = true ∧ exec row s = s.next (s.dev.keyInstall f (8 + c) kd act) := by
  rcases h with ⟨rfl, hk⟩ | ⟨rfl, hk⟩ | ⟨rfl, hk⟩ | ⟨rfl, hk⟩
  · exact ⟨fun k => k == 0 || decide (3 < k), _, by simpa using hk, rfl⟩
  · exact ⟨fun k => k == 1, _, beq_iff_eq.2 hk, rfl⟩
  · exact ⟨fun k => k == 2, _, beq_iff_eq.2 hk, rfl⟩
  · exact ⟨fun k => k == 3, _, beq_iff_eq.2 hk, rfl⟩

/-- Settles O46. -/
theorem keyRows : Obligations.KeyRows := by
  unfold Obligations.KeyRows
  intro s f c m d k say p id buf len kind h hd off n ek
  refine ⟨fun hB => ?_, fun row hrow hB => ?_, fun slot rest hB hst hp hc hu => ?_, fun h key slice len => Dev.keyHeaderOk_iff, fun h key slice len imports => Dev.dataHeaderOk_iff,
    fun h hc he => Dev.unwrap_other hc he, fun h ss hc he hs => Dev.unwrap_opens hc he hs⟩
  · intro q
    refine ⟨fun bs hbs => ?_, keyPublicGet_unknown hB, keyPublicGet_undefined hB⟩
    have hx := keyPublicGet_gives hB hbs
    exact ⟨fun hl => hx.trans (congrArg s.next (if_pos hl)), fun hl hu => hx.trans (congrArg s.next (ite_pass (Nat.not_lt.2 hl) (Dev.sendBuf_up hu))),
      fun hl hu => hx.trans (congrArg s.next (ite_pass (Nat.not_lt.2 hl) (Dev.sendBuf_down hu)))⟩
  · obtain ⟨kd, act, hk, hx⟩ := keyInstall_row hrow
    exact ⟨fun hst => hB.keyWaits hx hst, fun hst hd => hB.keyDenied hx hk hst hd, fun hst hp hc hu => hB.keyDown hx hk hst hc hp hu⟩
  · intro ctx sl x mine
    refine ⟨⟨fun hk hh => keyInstallModel_header hB hst hp hc hu hk hh, fun hk hh hw => keyInstallModel_closed hB hst hp hc hu (.inl hk) hh hw, fun key hk hh hw => ?_⟩,
      fun hk => ⟨fun hh => keyInstallLink_header hB hst hp hc hu hk hh, fun hh hw => keyInstallLink_closed hB hst hp hc hu hk hh hw, fun key hh hw => ?_⟩, fun row imports hrow => ?_⟩
    · have hy := fun {y} => keyInstallModel_known hB hst hp hc hu (.inl hk) hh hw (y := y)
      have hn := keyInstallModel_new hB hst hp hc hu (.inl hk) hh hw
      exact ⟨fun y h => ⟨fun hk => (hy h).trans (congrArg s.next (if_pos hk)), fun hk => (hy h).trans (congrArg s.next (if_neg hk))⟩,
        fun h => ⟨fun hl => (hn h).trans (congrArg s.next (if_pos hl)), fun hl => (hn h).trans (congrArg s.next (if_neg (Nat.not_le.2 hl)))⟩⟩
    · refine ⟨fun hs => keyInstallLink_full hB hst hp hc hu hk hh hw hs, fun hs => ?_⟩
      have hy := fun {y} => keyInstallLink_known hB hst hp hc hu hk hh hw hs (y := y)
      exact ⟨fun y h => ⟨fun hk => (hy h).trans (congrArg s.next (if_pos hk)), fun hk => (hy h).trans (congrArg s.next (if_neg hk))⟩,
        fun h => keyInstallLink_new hB hst hp hc hu hk hh hw hs h⟩
    · rcases hrow with ⟨rfl, hk, rfl⟩ | ⟨rfl, hk, rfl⟩
      · obtain ⟨act, hx, hbad, hgood⟩ := keyInstallImport_checked hB hst hp hc hu hk ctx hd rfl rfl
        have hx := fun {e : Dev} (he : d.dataChecks f k p ctx m hd true act = e) => hx.trans (congrArg s.next he)
        refine ⟨fun hh => hx (Dev.dataChecks_header hh), fun hh hn => hx (Dev.dataChecks_unknown hh (find?_part_none hn)), fun y hh hy => ⟨fun ⟨e, he, hs⟩ => hx (Dev.dataChecks_unmapped hh hy he hs),
          fun hm => ⟨fun ht => hx (Dev.dataChecks_torn hh hy hm ht), fun ht _ =>
            ⟨fun code arg hr => (hx (Dev.dataChecks_runs hh hy hm ht)).trans ?_, fun pt hr => (hx (Dev.dataChecks_runs hh hy hm ht)).trans ?_⟩, fun _ h => absurd h (by decide)⟩⟩⟩
        · rw [hbad y _ hr]
          rfl
        · rw [hgood y pt hr]
          rfl
      · obtain ⟨act, hx, hact⟩ := keyInstallExport_checked hB hst hp hc hu hk ctx hd rfl rfl
        have hx := fun {e : Dev} (he : d.dataChecks f k p ctx m hd false act = e) => hx.trans (congrArg s.next he)
        refine ⟨fun hh => hx (Dev.dataChecks_header hh), fun hh hn => hx (Dev.dataChecks_unknown hh (find?_part_none hn)), fun y hh hy => ⟨fun ⟨e, he, hs⟩ => hx (Dev.dataChecks_unmapped hh hy he hs),
          fun hm => ⟨fun ht => hx (Dev.dataChecks_torn hh hy hm ht), fun _ h => absurd h (by decide), fun ht _ => ?_⟩⟩⟩
        have hx := hx (Dev.dataChecks_runs hh hy hm ht)
        intro r hn
        obtain ⟨hbad, hgood⟩ := hact y r rfl
        exact ⟨fun hr => hx.trans (congrArg s.next (hbad hr)), fun hr => hx.trans (congrArg s.next (hgood hr))⟩

end Sys2Proof.Machine
end

section
/-! PROOFS. Hangs, teardowns, escalations, failovers and spares (14_recovery.md R406-R416, R430-R432). -/

namespace Sys2Proof.Machine

/-! ## Frames -/

/-- Entries that settle change the fault list and the cave alone. -/
theorem Dev.settleFaults_frame (d : Dev) : ∃ (l : Flt) (v : Cave), d.settleFaults = { d with flt := l, cave := v } ∧ l.stops = d.flt.stops := by
  unfold Dev.settleFaults
  dsimp only
  split
  · exact ⟨_, d.cave, rfl, rfl⟩
  · exact ⟨_, _, rfl, rfl⟩

theorem Dev.doorbell_ups (d : Dev) (f key : Nat) (set : Word32) : (d.doorbell f key set).host.recvUp = d.host.recvUp ∧ (d.doorbell f key set).host.recvUpSec = d.host.recvUpSec := by
  unfold Dev.doorbell
  dsimp only
  split
  · exact ⟨rfl, rfl⟩
  · exact ⟨rfl, rfl⟩

/-- A receiver's reset forgets the requesters it had, brings it down unless it fails over, and touches the host otherwise. -/
theorem Dev.recvReset_frame (d : Dev) (sec failover : Bool) : ∃ h : HostSide, d.recvReset sec failover = { d.forget (fun f k => (d.mbx f k).st == 2 && (8 ≤ k) == sec) with host := h } ∧
    h.recvUp = (d.host.recvUp && (sec || failover)) ∧ h.recvUpSec = (d.host.recvUpSec && (!sec || failover)) := by
  unfold Dev.recvReset
  dsimp only
  let P : Dev → Prop := fun e => ∃ h : HostSide, e = { d.forget (fun f k => (d.mbx f k).st == 2 && (8 ≤ k) == sec) with host := h } ∧
    h.recvUp = (d.host.recvUp && (sec || failover)) ∧ h.recvUpSec = (d.host.recvUpSec && (!sec || failover))
  refine foldl_keeps P _ (fun e he f _ => foldl_keeps P _ (fun e he k _ => ?_) he) ⟨_, rfl, rfl, rfl⟩
  obtain ⟨h, rfl, hu, hs⟩ := he
  obtain ⟨hu', hs'⟩ := Dev.doorbell_ups (Dev.setMbx { d.forget (fun f k => (d.mbx f k).st == 2 && (8 ≤ k) == sec) with host := h } f k
    ((Dev.mbx { d.forget (fun f k => (d.mbx f k).st == 2 && (8 ≤ k) == sec) with host := h } f k).aborted failover)) f k 0x80000000
  exact ⟨_, Dev.doorbell_frame .., hu'.trans hu, hs'.trans hs⟩

/-! ## Hang samples (R406-R410) -/

theorem Dev.ctxMsg_congr {x y : Dev} {src kind unit addr i : Nat} (hg : (x.ctx i).gen = (y.ctx i).gen) (hs : (x.ctx i).sliceId = (y.ctx i).sliceId) :
    x.ctxMsg src kind unit addr (some i) = y.ctxMsg src kind unit addr (some i) := by
  unfold Dev.ctxMsg
  simp only [hg, hs]

section
variable {d b : Dev} {ctx : Nat} (hb : b = (d.partNodes (ctx / 16)).foldl (fun d n => d.setUnit n (d.unit n).sampled) d)
include hb

/-- The units sampled, nothing else has changed. -/
theorem Dev.unitsSampled_frame : b.ctxs = d.ctxs ∧ b.rrc = d.rrc ∧ b.flt = d.flt ∧ b.timer = d.timer := by
  subst hb
  exact ⟨foldl_field (f := fun d n => d.setUnit n (d.unit n).sampled) (fun d => d.ctxs) (fun d n => rfl) _ d, foldl_field (f := fun d n => d.setUnit n (d.unit n).sampled) (fun d => d.rrc) (fun d n => rfl) _ d,
    foldl_field (f := fun d n => d.setUnit n (d.unit n).sampled) (fun d => d.flt) (fun d n => rfl) _ d, foldl_field (f := fun d n => d.setUnit n (d.unit n).sampled) (fun d => d.timer) (fun d n => rfl) _ d⟩

theorem Dev.sampleCtx_moved (hm : (b.noJudgement ctx || b.progressSum ctx != (b.ctx ctx).lastSum || (b.partCurds (ctx / 16)).any (fun e => b.waitProgress e.1 e.2)) = true) :
    d.sampleCtx ctx = b.setCtx ctx { b.ctx ctx with lastProg := 0, lastSum := b.progressSum ctx } := by
  subst hb
  unfold Dev.sampleCtx
  dsimp only
  simp only [hm, if_true]
  exact ite_pass (fun ⟨h, _⟩ => absurd h (by decide)) (if_neg (fun ⟨h, _⟩ => absurd h (by decide)))

variable (hm : (b.noJudgement ctx || b.progressSum ctx != (b.ctx ctx).lastSum || (b.partCurds (ctx / 16)).any (fun e => b.waitProgress e.1 e.2)) = false)
include hm

theorem Dev.sampleCtx_still (hn : (b.ctx ctx).lastProg < 15) :
    d.sampleCtx ctx = b.setCtx ctx { b.ctx ctx with lastProg := (b.ctx ctx).lastProg + 1, lastSum := b.progressSum ctx } := by
  subst hb
  unfold Dev.sampleCtx
  dsimp only
  simp only [hm, Bool.false_eq_true, if_false]
  exact ite_pass (fun ⟨h, _⟩ => by omega) (if_neg (fun ⟨h, _⟩ => by omega))

theorem Dev.sampleCtx_hung (hn : (b.ctx ctx).lastProg = 15) (hw : b.pendingWork ctx = true) (ht : (b.ctx ctx).tear = none) :
    let e := b.setCtx ctx { b.ctx ctx with lastProg := 16, lastSum := b.progressSum ctx }
    d.sampleCtx ctx = ({ e with rrc := { e.rrc with hang := ctx + (b.ctx ctx).gen * 2 ^ 10 + bits b.timer.toNat 39 0 * 2 ^ 24 } } : Dev).raise (e.ctxMsg (0x400 + ctx) 0x60 0 0 (some ctx)) := by
  subst hb
  unfold Dev.sampleCtx
  dsimp only
  simp only [hm, Bool.false_eq_true, if_false, hn]
  exact if_pos ⟨trivial, hw, by rw [ht]; rfl⟩

/-- A hang is recorded, and reported at the context's own stop. -/
theorem Dev.sampleCtx_reports (hn : (b.ctx ctx).lastProg = 15) (hw : b.pendingWork ctx = true) (ht : (b.ctx ctx).tear = none) :
    ((d.sampleCtx ctx).ctx ctx).lastProg = 16 ∧ (d.sampleCtx ctx).rrc.hang = ctx + (b.ctx ctx).gen * 2 ^ 10 + bits b.timer.toNat 39 0 * 2 ^ 24 ∧
      smGet Stop.init (d.sampleCtx ctx).flt.stops (0x400 + ctx) = (smGet Stop.init b.flt.stops (0x400 + ctx)).take (b.ctxMsg (0x400 + ctx) 0x60 0 0 (some ctx)) := by
  have he := Dev.sampleCtx_hung hb hm hn hw ht
  generalize ctx + (b.ctx ctx).gen * 2 ^ 10 + bits b.timer.toNat 39 0 * 2 ^ 24 = h at he ⊢
  rw [he]
  refine ⟨?_, rfl, ?_⟩
  · rw [Dev.raise_ctx]
    exact congrArg Ctx.lastProg (smGet_set_same Ctx.init b.ctxs ctx _)
  rw [Dev.raise_ctxMsg_stop]
  refine congrArg (Stop.take _) (Dev.ctxMsg_congr ?_ ?_)
  · rw [Dev.ctx_setCtx_same]
  · rw [Dev.ctx_setCtx_same]

end

theorem doHangSample_one {d : Dev} {ctx : Nat} (hl : ((List.range 64).filterMap (fun p => (d.part p).resident.map (fun s => 16 * p + s))).filter (fun c => (d.ctx c).live) = [ctx]) :
    doHangSample d = d.sampleCtx ctx := by
  unfold doHangSample
  rw [hl]
  rfl

/-! ## Teardowns and partition resets (R414, R416) -/

/-- The keys of the next round change the interfaces and the secrets alone. -/
theorem Dev.linkAdvance_frame (d : Dev) (id : Nat) : (d.linkAdvance id).ctxs = d.ctxs ∧ (d.linkAdvance id).lastGen = d.lastGen := by
  unfold Dev.linkAdvance Dev.writeLinkKey
  dsimp only
  split
  · exact ⟨rfl, rfl⟩
  · let P : Dev → Prop := fun e => e.ctxs = d.ctxs ∧ e.lastGen = d.lastGen
    refine foldl_keeps P _ (fun e he c _ => ?_) ⟨rfl, rfl⟩
    exact foldl_keeps P (f := fun (d : Dev) n => d.setNi n { d.ni n with linkKeys := smSet 0 (d.ni n).linkKeys (c % 16) _ }) _ (fun e he n _ => he) he

theorem Dev.advanceTo_ctx (d : Dev) (ctx g : Nat) :
    (d.advanceTo ctx g).ctx ctx = { d.ctx ctx with gen := g, tear := none, collSeq := 0, linkRound := (d.ctx ctx).linkRound + 1, waitSig := [] } ∧ smGet 0 (d.advanceTo ctx g).lastGen ctx = g := by
  unfold Dev.advanceTo
  dsimp only
  generalize Dev.memberGens _ _ _ = d1
  constructor
  · rw [Dev.event_ctx]
    refine (congrArg (fun m => smGet Ctx.init m ctx) (Dev.linkAdvance_frame ..).1).trans ?_
    exact Dev.ctx_setCtx_same ..
  · rw [Dev.event_lastGen, (Dev.linkAdvance_frame ..).2]
    exact smGet_set_same ..

theorem resident_rrc (o : Option Nat) (x : Dev) (i : Nat → Nat) (c : Nat → Ctx) : (match o with | some s => x.setCtx (i s) (c s) | none => x).rrc = x.rrc := by
  cases o with
  | none => rfl
  | some s => rfl

/-- A partition reset leaves the partition in reset, with its vats' agents to confirm. -/
theorem Dev.partReset_eq {d : Dev} {p : Nat} (h0 : (d.part p).st ≠ 0) (h3 : (d.part p).st ≠ 3) (cause : Nat) (esc : Bool) (req : Option (Nat × Nat)) :
    ∃ z : Dev, z.rrc.lastLevel = 2 ∧ z.rrc.lastCause = cause ∧ z.rrc.escalated = esc ∧ d.partReset p cause esc req =
      { z.setPart p { z.part p with st := 3, resetWait := req, switchTo := none } with
        rrc := { z.rrc with engineWait := z.rrc.engineWait.filter (fun u => !(d.partNodes p).contains (u / 128)) ++ (d.partNodes p).map (fun n => vatUnit n unitControl) } } := by
  have hx : ∃ z : Dev, z.rrc.lastLevel = 2 ∧ z.rrc.lastCause = cause ∧ z.rrc.escalated = esc ∧ d.partReset p cause esc req = (
      let y := z.setPart p { z.part p with st := 3, resetWait := req, switchTo := none }
      { y with rrc := { y.rrc with engineWait := z.rrc.engineWait.filter (fun u => !(d.partNodes p).contains (u / 128)) ++ (d.partNodes p).map (fun n => vatUnit n unitControl) } }) := by
    unfold Dev.partReset
    extract_lets q d1 nodes d2 inq d3 units wait d4
    rw [if_neg h0, if_neg h3]
    have hinq : inq.rrc = d2.rrc := foldl_field (fun y => y.rrc) (fun d c => rfl) (List.range 32) d2
    have hnoted : d2.rrc.lastLevel = 2 ∧ d2.rrc.lastCause = cause ∧ d2.rrc.escalated = esc := ⟨rfl, rfl, rfl⟩
    clear_value d2 inq
    have hd3 : d3.rrc = d2.rrc := (resident_rrc q.resident inq (fun s => 16 * p + s) (fun s => let c := inq.ctx (16 * p + s)
      { c with tear := c.tear.map (fun (t : Teardown) => { t with level := 2, waitUnits := [] }) })).trans hinq
    rw [← hd3] at hnoted
    obtain ⟨h1, h2, h3⟩ := hnoted
    exact ⟨d3, h1, h2, h3, rfl⟩
  exact hx

/-- What a partition reset has started. -/
theorem Dev.partReset_starts {d : Dev} {p : Nat} (h0 : (d.part p).st ≠ 0) (h3 : (d.part p).st ≠ 3) (cause : Nat) (esc : Bool) (req : Option (Nat × Nat)) :
    let e := d.partReset p cause esc req
    (e.part p).st = 3 ∧ (e.part p).switchTo = none ∧ e.rrc.lastLevel = 2 ∧ e.rrc.lastCause = cause ∧ e.rrc.escalated = esc ∧ ∀ n ∈ d.partNodes p, vatUnit n unitControl ∈ e.rrc.engineWait := by
  obtain ⟨z, h1, h2, h3, he⟩ := Dev.partReset_eq h0 h3 cause esc req
  have hp : (d.partReset p cause esc req).part p = { z.part p with st := 3, resetWait := req, switchTo := none } := by
    rw [he]
    show smGet Part.init (smSet Part.init z.parts p { z.part p with st := 3, resetWait := req, switchTo := none }) p = _
    rw [smGet_set_same]
  intro e
  rw [show e = d.partReset p cause esc req from rfl, hp, he]
  refine ⟨rfl, rfl, h1, h2, h3, fun n hn => ?_⟩
  exact List.mem_append_right _ (List.mem_map_of_mem (f := fun n => vatUnit n unitControl) hn)

/-! ## Confirmations and engines that do not confirm (R414-R416) -/

/-- An engine that has not confirmed its reset is waited for no longer, and reported. -/
def Dev.engineLate (d : Dev) (u : Nat) : Dev :=
  ({ d with rrc := { d.rrc with engineWait := d.rrc.engineWait.erase u, engineReq := d.rrc.engineReq.filter (fun e => e.1 != u) } } : Dev).raise (plainMsg rrcSrc 0x62 u)

section
variable {d : Dev} {u : Nat}

theorem Dev.engineConfirmed_answered (hu : ¬ (u < 0x9000 ∧ u % 128 = unitControl)) (hc : ∀ x ∈ d.unitCtxs u, (d.ctx x).tear = none) (hr : d.rrc.engineReq.filter (fun e => e.1 == u) = []) :
    d.engineConfirmed u = (({ d with rrc := { d.rrc with engineWait := d.rrc.engineWait.erase u, engineReq := d.rrc.engineReq.filter (fun e => e.1 != u) } } : Dev).clearUnit u).settleFaults := by
  unfold Dev.engineConfirmed
  dsimp only
  rw [if_neg hu, if_neg, hr]
  · rfl
  · intro h
    obtain ⟨x, hx, ht⟩ := List.any_eq_true.1 h
    rw [hc x hx] at ht
    exact Bool.false_ne_true ht

variable (hw : u ∈ d.rrc.engineWait)
include hw

theorem doEngineResetTimeout_port (h9 : 0x9000 ≤ u) (hr : d.rrc.engineReq.filter (fun e => e.1 == u) = []) :
    doEngineResetTimeout d u = ((d.engineLate u).fencePort (u - 0x9000)).settleFaults := by
  unfold doEngineResetTimeout
  rw [if_pos (List.contains_iff_mem.2 hw), if_neg (fun ⟨h, _⟩ => absurd h (Nat.not_lt.2 h9)), hr]
  exact if_pos h9

theorem doEngineResetTimeout_vat (h9 : u < 0x9000) (hc : u % 128 ≠ unitControl) {q : Nat} (hq : d.partOf (u / 128) = some q) :
    ∃ (x : Dev) (req : Option (Nat × Nat)), (x.part q).st = (d.part q).st ∧ doEngineResetTimeout d u = x.partReset q d.rrc.lastCause true req := by
  refine ⟨(d.engineLate u).setPart q { d.part q with fenceAfter := if (d.part q).fenceAfter.contains u then (d.part q).fenceAfter else (d.part q).fenceAfter ++ [u] },
    (d.rrc.engineReq.filter (fun e => e.1 == u)).head?.map (fun e => (e.2.1, e.2.2)), by rw [Dev.part_setPart_same], ?_⟩
  unfold doEngineResetTimeout
  rw [if_pos (List.contains_iff_mem.2 hw), if_neg (fun ⟨_, h⟩ => hc h)]
  refine (if_neg (Nat.not_le.2 h9)).trans ?_
  dsimp only
  rw [show (({ d with rrc := { d.rrc with engineWait := d.rrc.engineWait.erase u, engineReq := d.rrc.engineReq.filter (fun e => e.1 != u) } } : Dev).raise (plainMsg rrcSrc 0x62 u)).partOf (u / 128) = some q from hq]
  rfl

end

/-- A fenced port engine reports at most its own stop. -/
theorem Dev.fencePort_fences (d : Dev) (p : Nat) (hp : 0x140 + p ≠ rrcSrc) : (d.fencePort p).rrc = d.rrc ∧ ((d.fencePort p).port p).fenced = true ∧
    smGet Stop.init (d.fencePort p).flt.stops rrcSrc = smGet Stop.init d.flt.stops rrcSrc := by
  have hfail : (d.portFails p).rrc = d.rrc ∧ smGet Stop.init (d.portFails p).flt.stops rrcSrc = smGet Stop.init d.flt.stops rrcSrc := by
    unfold Dev.portFails
    dsimp only
    split
    · exact ⟨rfl, rfl⟩
    · split
      · exact ⟨rfl, rfl⟩
      · exact ⟨rfl, smGet_set_other _ _ _ _ _ (Ne.symm hp)⟩
  exact ⟨hfail.1, congrArg Port.fenced (Dev.port_setPort_same ..), hfail.2⟩

/-! ## Management cores and spares (R430-R432) -/

/-- The standby takes over: the record of the cores, the start stage that begins again, the report. -/
theorem Dev.failover_up {d : Dev} (hb : d.rrc.bothDown = false) (hs : d.rrc.standbyOk = true) :
    ∃ d2 : Dev, d.failover = (d2.recvReset false true).raise (plainMsg rrcSrc 0x65 0) ∧ d2.rrc = { d.rrc with primaryB := !d.rrc.primaryB, standbyOk := false, failovers := hold16 (d.rrc.failovers + 1), selftest := some d.rrc.primaryB } ∧ d2.host = d.host ∧ d2.flt = d.flt ∧
      (d.boot.running = true ∧ 1 ≤ d.boot.stage ∧ d.boot.stage < 8 → d2.boot = { d.boot with stepNo := 0, progress := 0, stageAt := d.timer.toNat }) := by
  unfold Dev.failover
  dsimp only
  rw [if_neg (by rw [hb]; decide), if_pos hs]
  split
  · exact ⟨_, rfl, rfl, rfl, rfl, fun _ => rfl⟩
  · exact ⟨_, rfl, rfl, rfl, rfl, fun h => absurd h ‹_›⟩

theorem Dev.failover_down {d : Dev} (hb : d.rrc.bothDown = false) (hs : d.rrc.standbyOk = false) :
    d.failover = Dev.recvReset { d with rrc := { d.rrc with bothDown := true, selftest := none } } false false := by
  unfold Dev.failover
  dsimp only
  rw [if_neg (by rw [hb]; decide), if_neg (by rw [hs]; decide)]

theorem Dev.fenceCurd_spare {d : Dev} {n k : Nat} (h : d.isSpareCurd n k = true) : d.fenceCurd n k = d.setCurd (curdKey n k) { d.curd (curdKey n k) with fenced := true } := by
  unfold Dev.isSpareCurd at h
  obtain ⟨h, -⟩ := Bool.and_eq_true_iff.1 h
  obtain ⟨hf, hl⟩ := Bool.and_eq_true_iff.1 h
  unfold Dev.fenceCurd
  dsimp only
  rw [if_neg (by rw [Bool.not_eq_true] at *; simpa using hf), Option.isNone_iff_eq_none.1 hl]

theorem Dev.fenceVat_spare {d : Dev} {n : Nat} (h : (d.vat n).lst = .spare) : d.fenceVat n = d.setVat n { d.vat n with lst := .fenced } := by
  unfold Dev.fenceVat
  dsimp only
  rw [h]

/-- Settles O35. -/
theorem resetRows : Obligations.ResetRows := by
  unfold Obligations.ResetRows
  intro s ctx u d c p b
  refine ⟨fun hl => ?_, fun t ht hw => ?_, fun ht hw hu hc hr => ?_, fun t ht hd hm => ⟨?_, ?_⟩, fun t ht hd => ?_, fun t ht hd h0 h3 => ?_, fun hw h9 ha hr => ?_, fun q hw h9 hc hq h0 h3 => ?_, fun q h3 hb hi ho => ?_,
    fun hst he hb hi ho => ?_, fun hb hs => ?_, fun hb hs => ?_, fun hb => ?_, fun hb => ?_, fun hb hcr hi ho => ?_, fun b hb hs => ?_, fun b hb hs => ?_, rfl, fun n k hs => ?_, fun n hs => ?_⟩
  · have hx : exec .hangSample s = s.next (d.sampleCtx ctx) := congrArg s.next (doHangSample_one hl)
    obtain ⟨hctx, hrrc, hflt, htimer⟩ := Dev.unitsSampled_frame (b := b) rfl
    have hc : b.ctx ctx = c := congrArg (fun m => smGet Ctx.init m ctx) hctx
    refine ⟨fun hm => hx.trans (congrArg s.next ((Dev.sampleCtx_moved rfl ?_).trans ?_)), fun hn hs hp => ?_⟩
    · rw [hc, Bool.or_eq_true, Bool.or_eq_true, bne_iff_ne, List.any_eq_true, or_assoc]
      exact hm
    · rw [hc]
    · have hm : (b.noJudgement ctx || b.progressSum ctx != (b.ctx ctx).lastSum || (b.partCurds (ctx / 16)).any (fun e => b.waitProgress e.1 e.2)) = false := by
        rw [hc, Bool.or_eq_false_iff, Bool.or_eq_false_iff, bne_eq_false_iff_eq, List.any_eq_false]
        exact ⟨⟨hn, hs⟩, fun e he h => Bool.false_ne_true ((hp e he).symm.trans h)⟩
      refine ⟨fun hl => hx.trans (congrArg s.next ((Dev.sampleCtx_still rfl hm (by rw [hc]; exact hl)).trans ?_)), fun hl hw ht => ?_⟩
      · rw [hc, hs]
      · obtain ⟨h1, h2, h3⟩ := Dev.sampleCtx_reports rfl hm (by rw [hc]; exact hl) hw (by rw [hc]; exact ht)
        rw [hc, htimer] at h2
        rw [hflt, Dev.ctxMsg_congr (y := d) (congrArg Ctx.gen hc) (congrArg Ctx.sliceId hc)] at h3
        exact ⟨_, hx, rfl, h1, h2, h3⟩
  · refine congrArg s.next ?_
    unfold doResetAgentConfirm
    dsimp only
    rw [show (s.dev.ctx ctx).tear = some t from ht]
    exact if_neg (by rw [show (Dev.setCtx _ _ _).rrc.engineWait.contains u = false from hw]; decide)
  · refine congrArg s.next ?_
    unfold doResetAgentConfirm
    dsimp only
    rw [show (s.dev.ctx ctx).tear = none from ht]
    exact (if_pos (List.contains_iff_mem.2 hw)).trans (Dev.engineConfirmed_answered hu hc hr)
  · refine congrArg s.next ?_
    unfold doTeardownDrained
    rw [show (s.dev.ctx ctx).tear = some t from ht]
    refine (if_pos (by rw [show s.dev.tornThrough ctx t = true from hd, show s.dev.memoryAway (ctx / 16) = false from hm]; rfl)).trans ?_
    unfold Dev.finishTear
    rw [show (s.dev.ctx ctx).tear = some t from ht]
  · exact (Dev.advanceTo_ctx d ctx _).imp id id
  · refine congrArg s.next ?_
    unfold doTeardownDrained
    rw [show (s.dev.ctx ctx).tear = some t from ht]
    exact if_neg (by rw [show s.dev.tornThrough ctx t = false from hd, Bool.false_and]; decide)
  · have hx : exec (.teardownTimeout ctx) s = s.next ((d.raise (d.ctxMsg rrcSrc 0x61 0 0 (some ctx))).partReset p t.cause true none) := by
      refine congrArg s.next ?_
      unfold doTeardownTimeout
      rw [show (s.dev.ctx ctx).tear = some t from ht]
      exact if_neg (by rw [show s.dev.tornThrough ctx t = false from hd, Bool.false_or]; exact fun h => h3 (beq_iff_eq.1 h))
    exact ⟨_, hx, rfl, Dev.partReset_starts (d := d.raise (d.ctxMsg rrcSrc 0x61 0 0 (some ctx))) h0 h3 t.cause true none⟩
  · obtain ⟨hrrc, hfen, hst⟩ := (d.engineLate u).fencePort_fences (u - 0x9000) (by unfold rrcSrc; omega)
    obtain ⟨l, v, hs, hl⟩ := ((d.engineLate u).fencePort (u - 0x9000)).settleFaults_frame
    refine ⟨_, congrArg s.next ((doEngineResetTimeout_port hw h9 hr).trans hs), rfl, congrArg Rrc.engineWait hrrc, hfen, ?_⟩
    refine (congrArg (fun m => smGet Stop.init m rrcSrc) hl).trans (hst.trans ?_)
    exact smGet_set_same ..
  · obtain ⟨x, req, hst, hx⟩ := doEngineResetTimeout_vat hw h9 hc hq
    obtain ⟨h1, -, h2, -, h4, -⟩ := Dev.partReset_starts (d := x) (p := q) (hst ▸ h0) (hst ▸ h3) d.rrc.lastCause true req
    exact ⟨_, congrArg s.next hx, rfl, h1, h2, h4⟩
  · refine ⟨_, congrArg s.next (if_neg (not_not.2 h3)), rfl, ?_⟩
    refine Dev.chipReset_was ?_ ?_ ?_ _ _ _
    · exact hb
    · exact hi
    · exact ho
  · have hq : ((d.mesh.stopA || d.mesh.stopB) && !(d.planeEmpty .a && d.planeEmpty .b)) = true := by
      rw [Bool.and_eq_true, Bool.or_eq_true, Bool.not_eq_true']
      exact ⟨hst, he⟩
    have hx : doQuiesceTimeout d = d.chipReset (if d.mesh.toFence = [] then 0 else 0x14) true false := if_pos hq
    have hy := Dev.chipReset_was hb hi ho (if d.mesh.toFence = [] then 0 else 0x14) true false
    rw [← hx] at hy
    exact ⟨_, rfl, rfl, hy⟩
  · obtain ⟨d2, hx, hrrc, hhost, hflt, hboot⟩ := Dev.failover_up hb hs
    obtain ⟨h, he, hu, -⟩ := d2.recvReset_frame false true
    rw [he] at hx
    refine ⟨_, congrArg s.next hx, rfl, congrArg Rrc.primaryB hrrc, congrArg Rrc.standbyOk hrrc, congrArg Rrc.failovers hrrc, congrArg Rrc.selftest hrrc, ?_, ?_, fun h1 h2 h3 => hboot ⟨h1, h2, h3⟩⟩
    · exact hu.trans (by rw [hhost, Bool.or_true, Bool.and_true])
    · refine (smGet_set_same ..).trans ?_
      exact congrArg (fun x : Flt => (smGet Stop.init x.stops rrcSrc).take (plainMsg rrcSrc 0x65 0)) hflt
  · obtain ⟨h, he, hu, -⟩ := Dev.recvReset_frame { d with rrc := { d.rrc with bothDown := true, selftest := none } } false false
    exact ⟨_, congrArg s.next ((Dev.failover_down hb hs).trans he), rfl, rfl, rfl, hu.trans (Bool.and_false _)⟩
  · exact congrArg s.next (if_pos hb)
  · exact congrArg s.next (if_pos hb)
  · refine ⟨_, congrArg s.next ((if_pos hb).trans (if_neg Bool.false_ne_true)), rfl, ?_⟩
    refine Dev.chipReset_was ?_ ?_ ?_ _ _ _
    · exact hcr
    · exact hi
    · exact ho
  · refine congrArg s.next (ite_pass_bool hb ?_)
    rw [show s.dev.rrc.selftest = some b from hs]
    rfl
  · refine congrArg s.next (ite_pass_bool hb ?_)
    rw [show s.dev.rrc.selftest = some b from hs]
    rfl
  · have hx : doSpareSelftest d [(n, k)] [] = (let e := (({ d with rrc := { d.rrc with badCurds := min (d.rrc.badCurds + 1) 0xFF } } : Dev).setCurd (curdKey n k) { d.curd (curdKey n k) with fenced := true }).raise (plainMsg rrcSrc 0x66 (vatUnit n k))
        { e with rrc := { e.rrc with passes := hold16 (e.rrc.passes + 1) } }) := by
      have hone : (if d.isSpareCurd n k = true then (({ d with rrc := { d.rrc with badCurds := min (d.rrc.badCurds + 1) 0xFF } } : Dev).fenceCurd n k).raise (plainMsg rrcSrc 0x66 (vatUnit n k)) else d) =
          (({ d with rrc := { d.rrc with badCurds := min (d.rrc.badCurds + 1) 0xFF } } : Dev).setCurd (curdKey n k) { d.curd (curdKey n k) with fenced := true }).raise (plainMsg rrcSrc 0x66 (vatUnit n k)) := by
        rw [if_pos hs, Dev.fenceCurd_spare (d := { d with rrc := { d.rrc with badCurds := min (d.rrc.badCurds + 1) 0xFF } }) hs]
        rfl
      exact congrArg (fun e : Dev => { e with rrc := { e.rrc with passes := hold16 (e.rrc.passes + 1) } }) hone
    exact ⟨_, congrArg s.next hx, rfl, congrArg Curd.fenced (smGet_set_same ..), rfl, smGet_set_same ..⟩
  · have hx : doSpareSelftest d [] [n] = (let e := (({ d with rrc := { d.rrc with badVats := min (d.rrc.badVats + 1) 0xFF } } : Dev).setVat n { d.vat n with lst := .fenced }).raise (plainMsg rrcSrc 0x66 (vatUnit n unitControl))
        { e with rrc := { e.rrc with passes := hold16 (e.rrc.passes + 1) } }) := by
      have hone : (if (d.vat n).lst = .spare then (({ d with rrc := { d.rrc with badVats := min (d.rrc.badVats + 1) 0xFF } } : Dev).fenceVat n).raise (plainMsg rrcSrc 0x66 (vatUnit n unitControl)) else d) =
          (({ d with rrc := { d.rrc with badVats := min (d.rrc.badVats + 1) 0xFF } } : Dev).setVat n { d.vat n with lst := .fenced }).raise (plainMsg rrcSrc 0x66 (vatUnit n unitControl)) := by
        rw [if_pos hs, Dev.fenceVat_spare (d := { d with rrc := { d.rrc with badVats := min (d.rrc.badVats + 1) 0xFF } }) hs]
        rfl
      exact congrArg (fun e : Dev => { e with rrc := { e.rrc with passes := hold16 (e.rrc.passes + 1) } }) hone
    exact ⟨_, congrArg s.next hx, rfl, congrArg Vat.lst (smGet_set_same Vat.init d.vats n { d.vat n with lst := .fenced }), rfl, smGet_set_same ..⟩

end Sys2Proof.Machine
end

section
/-! PROOFS. The stages of a start (16_bringup.md R463-R487, 13_security.md R384, 14_recovery.md R417). -/

namespace Sys2Proof.Machine

/-! ## Stages (R465-R468) -/

theorem Dev.atStage_iff {d : Dev} {n : Nat} : d.atStage n = true ↔ d.boot.running = true ∧ d.boot.failed = false ∧ d.boot.stage = n ∧ d.pwr.islandUp = true ∧ d.pwr.coreMv ≠ 0 ∧ d.boot.lateRelease = false := by
  unfold Dev.atStage
  simp only [Bool.and_eq_true, Bool.not_eq_true', beq_iff_eq, bne_iff_ne, and_assoc]

theorem Dev.powerOn_iff {d : Dev} : d.powerOn = true ↔ d.boot.kind ≠ 2 := by
  unfold Dev.powerOn
  exact bne_iff_ne

theorem Dev.not_powerOn (d : Dev) : (!d.powerOn) = (d.boot.kind == 2) := by
  unfold Dev.powerOn
  rw [bne, Bool.not_not]

theorem Dev.powerOn_false {d : Dev} : d.powerOn = false ↔ d.boot.kind = 2 := by
  unfold Dev.powerOn
  exact bne_eq_false_iff_eq

/-- An alert touches the side-band alone. -/
theorem Dev.sbAlert_eq (d : Dev) (b : Nat) : d.sbAlert b = { d with sb := (d.sbAlert b).sb } := by
  unfold Dev.sbAlert
  dsimp only
  split
  · rfl
  · rfl

theorem Dev.sbAlert_boot (d : Dev) (b : Nat) : (d.sbAlert b).boot = d.boot := by rw [Dev.sbAlert_eq]

theorem Dev.sbAlert_flt (d : Dev) (b : Nat) : (d.sbAlert b).flt = d.flt := by rw [Dev.sbAlert_eq]

theorem Dev.sbAlert_timer (d : Dev) (b : Nat) : (d.sbAlert b).timer = d.timer := by rw [Dev.sbAlert_eq]

theorem Dev.endStage_boot (d : Dev) (degr : Bool) (detail : List Byte) :
    (d.endStage degr detail).boot = { d.boot with
      stage := d.boot.stage + 1, stepNo := 0, progress := 0, stageAt := d.timer.toNat, degraded := d.boot.degraded || degr,
      elapsed := if d.boot.stage = 7 then (d.timer.toNat - d.boot.startAt) / 25000 else d.boot.elapsed } := by
  unfold Dev.endStage
  rw [Dev.sbAlert_boot]
  rfl

/-- The end of a stage touches the record of the start, the cave and the side-band alone. -/
theorem Dev.endStage_frame (d : Dev) (degr : Bool) (detail : List Byte) : d.endStage degr detail = { d with boot := (d.endStage degr detail).boot, cave := (d.endStage degr detail).cave, sb := (d.endStage degr detail).sb } := by
  unfold Dev.endStage
  rw [Dev.sbAlert_eq]
  rfl

/-! ## Halts (R468) -/

theorem Dev.askPowerCycle_frame (d : Dev) (cause : Nat) : (d.askPowerCycle cause).boot = d.boot ∧ (d.askPowerCycle cause).flt = d.flt := by
  unfold Dev.askPowerCycle Dev.assertPwrcyc
  dsimp only
  split
  · split
    · exact ⟨rfl, rfl⟩
    · rw [Dev.sbAlert_boot, Dev.sbAlert_flt]
      exact ⟨rfl, rfl⟩
  · exact ⟨rfl, rfl⟩

/-- What every halt leaves, before it asks for a power cycle or starts again. -/
theorem Dev.haltStart_halted (d : Dev) (src kind : Nat) : ∃ x : Dev, d.haltStart src kind = (if d.boot.kind = 2 then x.askPowerCycle kind else if d.boot.repeated then x else x.startAgain) ∧
    x.boot = { d.boot with failed := true, error := kind, elapsed := (d.timer.toNat - d.boot.startAt) / 25000 } ∧ x.flt = (d.raise (plainMsg src kind 0)).flt ∧ x.timer = d.timer := by
  refine ⟨_, rfl, ?_⟩
  rw [Dev.sbAlert_boot, Dev.sbAlert_flt, Dev.sbAlert_timer]
  exact ⟨rfl, rfl, rfl⟩

theorem Dev.startAgain_again (d : Dev) : d.startAgain.flt = d.flt ∧ d.startAgain.boot = { d.boot with
    stage := 0, failed := false, stepNo := 0, error := 0, progress := 0, startAt := d.timer.toNat, stageAt := d.timer.toNat, elapsed := 0, running := true, repeated := true
    degraded := false, noCopy := [], lateRelease := false } := by
  unfold Dev.startAgain
  rw [Dev.sbAlert_boot, Dev.sbAlert_flt]
  dsimp only
  generalize ({ d.boot with
    stage := 0, failed := false, stepNo := 0, error := 0, progress := 0, startAt := d.timer.toNat, stageAt := d.timer.toNat, elapsed := 0, running := true, repeated := true
    degraded := false, noCopy := [], lateRelease := false } : Boot) = b
  obtain ⟨h, hr, -, -⟩ := Dev.recvReset_frame { d with boot := b } false false
  rw [hr]
  exact ⟨rfl, rfl⟩

/-- A halt for want of a component. -/
theorem Dev.haltNoCopy_halts {d : Dev} {comp kind : Nat} (h : d.boot.noCopy.find? (fun e => e.1 == comp) = some (comp, kind)) :
    d.lacksComp comp = true ∧ d.haltNoCopy comp = d.haltStart (if kind = 0x71 then 0x803 else 0x810) kind := by
  refine ⟨List.any_eq_true.2 ⟨_, List.mem_of_find?_eq_some h, beq_self_eq_true comp⟩, ?_⟩
  unfold Dev.haltNoCopy
  rw [h]
  rfl

theorem Dev.lacksComp_false {d : Dev} {comp : Nat} (h : ∀ e ∈ d.boot.noCopy, e.1 ≠ comp) : d.lacksComp comp = false :=
  List.any_eq_false.2 (fun e he hb => h e he (beq_iff_eq.1 hb))

/-! ## Firmware copies (R384, R483, R486) -/

section
variable {x : Sec} {obs : List CopyObs} {comp k : Nat}

theorem Sec.winner_both (h0 : x.copyValid obs comp 0 = true) (h1 : x.copyValid obs comp 1 = true) :
    x.winner obs comp = some (if seqHigher (x.copy comp 1).seq (x.copy comp 0).seq then 1 else 0) := by
  unfold Sec.winner
  simp only [h0, h1, Bool.and_self, if_true]
  split
  · rfl
  · rfl

theorem Sec.winner_a (h0 : x.copyValid obs comp 0 = true) (h1 : x.copyValid obs comp 1 = false) : x.winner obs comp = some 0 := by
  simp [Sec.winner, h0, h1]

theorem Sec.winner_b (h0 : x.copyValid obs comp 0 = false) (h1 : x.copyValid obs comp 1 = true) : x.winner obs comp = some 1 := by
  simp [Sec.winner, h0, h1]

theorem Sec.winner_none (h0 : x.copyValid obs comp 0 = false) (h1 : x.copyValid obs comp 1 = false) : x.winner obs comp = none := by
  simp [Sec.winner, h0, h1]

theorem Sec.copyValid_good (h : x.copyValid obs comp k = true) : smGet 0 x.fuses.secVersion comp ≤ (x.copy comp k).secVersion ∧ (x.copy comp k).seq ≠ 0xFFFFFFFF ∧ (x.copy comp k).invalid = false := by
  unfold Sec.copyValid erasedSeq at h
  simp only [Bool.and_eq_true, decide_eq_true_eq, bne_iff_ne, Bool.not_eq_true'] at h
  obtain ⟨⟨⟨hs, hi⟩, -⟩, hv⟩ := h
  exact ⟨hv, hs, hi⟩

end

/-- Which kind a start is (R463). -/
theorem Dev.startKind_eq (d : Dev) : d.startKind = if d.boot.chipResetting = true ∧ d.boot.s4Done = true then 2 else if d.boot.chipResetting = true ∧ d.boot.cut.isSome = true then d.boot.cut.getD 2
    else if d.boot.chipResetting = false ∧ d.boot.repeated = true then d.boot.kind else if d.boot.memTest = true ∨ d.boot.fullTrain = true ∨ d.cfg.training = [] then 0 else 1 := by
  unfold Dev.startKind
  simp only [Bool.and_eq_true, Bool.not_eq_true', Bool.or_eq_true, beq_iff_eq, or_assoc]

/-- What proving the copies leaves alone: which copy runs, and every copy's security version. -/
def ProvenKept (x y : Sec) : Prop := y.running = x.running ∧ ∀ i, (smGet FwCopy.init y.fw i).secVersion = (smGet FwCopy.init x.fw i).secVersion

/-- One component of a proven start: its copy's start count goes, and the fused minimum rises. -/
def Sec.proveComp (x : Sec) (c : Nat) : Sec :=
  let k := x.copy c (x.runCopy c)
  let y := if k.seq = erasedSeq then x else x.setCopy c (x.runCopy c) { k with starts := 0 }
  { y with fuses := { y.fuses with secVersion := smSet 0 y.fuses.secVersion c (max (smGet 0 y.fuses.secVersion c) k.secVersion) } }

theorem Sec.proven_eq (x : Sec) : x.proven = [0, 1, 2, 3].foldl Sec.proveComp x := rfl

theorem Sec.proveComp_kept (x : Sec) (c : Nat) : ProvenKept x (x.proveComp c) := by
  unfold Sec.proveComp
  dsimp only
  split
  · exact ⟨rfl, fun i => rfl⟩
  · refine ⟨rfl, fun i => ?_⟩
    show (smGet FwCopy.init (smSet FwCopy.init x.fw (2 * c + x.runCopy c) _) i).secVersion = _
    rw [smGet_set]
    split
    · next h =>
      subst h
      rfl
    · rfl

theorem Sec.proveComp_same (x : Sec) (c : Nat) : smGet 0 (x.proveComp c).fuses.secVersion c = max (smGet 0 x.fuses.secVersion c) (x.copy c (x.runCopy c)).secVersion := by
  unfold Sec.proveComp
  dsimp only
  rw [smGet_set_same]
  split
  · rfl
  · rfl

theorem Sec.proveComp_other (x : Sec) {c i : Nat} (h : i ≠ c) : smGet 0 (x.proveComp c).fuses.secVersion i = smGet 0 x.fuses.secVersion i := by
  unfold Sec.proveComp
  dsimp only
  rw [smGet_set_other _ _ _ _ _ h]
  split
  · rfl
  · rfl

theorem ProvenKept.trans {x y z : Sec} (h : ProvenKept x y) (h' : ProvenKept y z) : ProvenKept x z := by
  obtain ⟨h1, h2⟩ := h
  obtain ⟨g1, g2⟩ := h'
  exact ⟨g1.trans h1, fun i => (g2 i).trans (h2 i)⟩

theorem ProvenKept.runs {x y : Sec} (h : ProvenKept x y) (c : Nat) : (y.copy c (y.runCopy c)).secVersion = (x.copy c (x.runCopy c)).secVersion := by
  obtain ⟨hr, hf⟩ := h
  unfold Sec.copy Sec.runCopy
  rw [hr, hf]

/-- Each of a list of components is raised to its copy's security version, once. -/
theorem foldl_proveComp {x : Sec} {c : Nat} (l : List Nat) (hl : l.Nodup) (hc : c ∈ l) {y : Sec} (hy : ProvenKept x y) (hv : smGet 0 y.fuses.secVersion c = smGet 0 x.fuses.secVersion c) :
    smGet 0 (l.foldl Sec.proveComp y).fuses.secVersion c = max (smGet 0 x.fuses.secVersion c) (x.copy c (x.runCopy c)).secVersion := by
  induction l generalizing y with
  | nil => exact absurd hc List.not_mem_nil
  | cons a l ih =>
    obtain ⟨ha, hl⟩ := List.nodup_cons.1 hl
    have hk := hy.trans (y.proveComp_kept a)
    rcases List.mem_cons.1 hc with rfl | hc
    · have hrest : ∀ z : Sec, smGet 0 (l.foldl Sec.proveComp z).fuses.secVersion c = smGet 0 z.fuses.secVersion c := fun z =>
        foldl_keeps (fun w : Sec => smGet 0 w.fuses.secVersion c = smGet 0 z.fuses.secVersion c) l (fun w hw b hb => (w.proveComp_other (ne_of_mem_of_not_mem hb ha).symm).trans hw) rfl
      exact (hrest _).trans ((y.proveComp_same c).trans (by rw [hv, hy.runs]))
    · exact ih hl hc hk ((y.proveComp_other (ne_of_mem_of_not_mem hc ha)).trans hv)

theorem Sec.proven_secVersion (x : Sec) {c : Nat} (h : c < 4) : smGet 0 x.proven.fuses.secVersion c = max (smGet 0 x.fuses.secVersion c) (x.copy c (x.runCopy c)).secVersion := by
  rw [Sec.proven_eq]
  refine foldl_proveComp [0, 1, 2, 3] (by decide) ?_ ⟨rfl, fun i => rfl⟩ rfl
  have : c = 0 ∨ c = 1 ∨ c = 2 ∨ c = 3 := by omega
  simpa using this

/-! ## Channels (R469) -/

section
variable {x : CfgStore} {full : Bool} {ref : Option ChanObs} {o : ChanObs}

theorem trainOutcome_absent (h : o.present = false) : trainOutcome x full ref o = 0 := ite_take_not h

theorem trainOutcome_differs (h : o.present = true) {r : ChanObs} (hr : ref = some r) (hd : r.cap ≠ o.cap ∨ r.ranks ≠ o.ranks) : trainOutcome x full ref o = 4 := by
  subst hr
  refine ite_pass_not h (if_pos ?_)
  simpa [Option.any] using hd

variable (h : o.present = true) (hr : ∀ r, ref = some r → r.cap = o.cap ∧ r.ranks = o.ranks)
include h hr

theorem trainOutcome_same : trainOutcome x full ref o = if x.trained o && !full && o.savedOk then 1 else if o.fullOk then 2 else 3 := by
  refine ite_pass_not h (if_neg ?_)
  cases ref with
  | none => exact Bool.false_ne_true
  | some r =>
    obtain ⟨h1, h2⟩ := hr r rfl
    simp [Option.any, h1, h2]

theorem trainOutcome_saved (ht : (o.chan, o.serial) ∈ x.training) (hf : full = false) (hs : o.savedOk = true) : trainOutcome x full ref o = 1 := by
  rw [trainOutcome_same h hr]
  refine if_pos ?_
  rw [show x.trained o = true from List.contains_iff_mem.2 ht, hf, hs]
  rfl

theorem trainOutcome_full (ht : (o.chan, o.serial) ∉ x.training ∨ full = true ∨ o.savedOk = false) : trainOutcome x full ref o = if o.fullOk = true then 2 else 3 := by
  rw [trainOutcome_same h hr]
  refine if_neg ?_
  rcases ht with ht | ht | ht
  · rw [show x.trained o = false from eq_false_of_ne_true (fun h => ht (List.contains_iff_mem.1 h)), Bool.false_and, Bool.false_and]
    decide
  · rw [ht, Bool.not_true, Bool.and_false, Bool.false_and]
    decide
  · rw [ht, Bool.and_false]
    decide

end

theorem Dev.trainChan_chan (d : Dev) (o : ChanObs) (out rate : Nat) : ((d.trainChan o out rate).chan o.chan).st = (if out = 0 then 0 else if out ≤ 2 then 1 else 2) ∧
    ((d.trainChan o out rate).chan o.chan).rate = (if out = 1 ∨ out = 2 then rate else 0) := by
  unfold Dev.trainChan
  dsimp only
  split
  · rw [Dev.raise_chan, Dev.chan_setChan_same]
    exact ⟨rfl, rfl⟩
  · rw [Dev.chan_setChan_same]
    exact ⟨rfl, rfl⟩

theorem Dev.trainChan_reports (d : Dev) (o : ChanObs) {out : Nat} (rate : Nat) (h : out = 3 ∨ out = 4) :
    smGet Stop.init (d.trainChan o out rate).flt.stops (0x120 + o.chan) = (smGet Stop.init d.flt.stops (0x120 + o.chan)).take (plainMsg (0x120 + o.chan) 0x48 0) := by
  unfold Dev.trainChan
  dsimp only
  rw [if_pos h]
  exact smGet_set_same ..

/-! ## Ports (R472, R473) -/

/-- A port at the start of S5. -/
def Port.started (x : Port) : Port := if x.st = 0 ∧ portEnable x ∧ !x.fenced then { x with st := 1 } else x

theorem Port.started_st (x : Port) : x.started.st = if x.st = 0 ∧ portEnable x = true ∧ x.fenced = false then 1 else x.st := by
  unfold Port.started
  rw [apply_ite Port.st]
  exact if_congr (by rw [Bool.not_eq_true']) rfl rfl

theorem Port.started_twice (x : Port) : x.started.started = x.started := by
  unfold Port.started
  split
  · exact if_neg (fun ⟨h, _⟩ => Nat.one_ne_zero h)
  · rfl

theorem Dev.startTraining_port (d : Dev) (p q : Nat) : (d.startTraining p).port q = if q = p then (d.port p).started else d.port q := by
  unfold Dev.startTraining Port.started
  dsimp only
  split
  · by_cases h : q = p
    · subst h
      rw [Dev.port_setPort_same, if_pos rfl]
    · rw [Dev.port_setPort_other _ _ _ _ h, if_neg h]
  · split
    · next h => rw [h]
    · rfl

theorem foldl_startTraining_port (l : List Nat) (d : Dev) (q : Nat) : (l.foldl (fun d p => d.startTraining p) d).port q = if q ∈ l then (d.port q).started else d.port q := by
  induction l generalizing d with
  | nil => rfl
  | cons p l ih =>
    rw [List.foldl_cons, ih, Dev.startTraining_port]
    by_cases hq : q = p
    · subst hq
      rw [if_pos rfl, if_pos List.mem_cons_self, Port.started_twice, ite_self]
    · rw [if_neg hq]
      exact if_congr (by rw [List.mem_cons, or_iff_right hq]) rfl rfl

theorem Dev.startTraining_frame (d : Dev) (p : Nat) : (d.startTraining p).boot = d.boot ∧ (d.startTraining p).ext = d.ext := by
  unfold Dev.startTraining
  dsimp only
  split
  · exact ⟨rfl, rfl⟩
  · exact ⟨rfl, rfl⟩

theorem Dev.trainPort_frame (d : Dev) (o : PortObs) : (d.trainPort o).boot = d.boot ∧ (d.trainPort o).cfg = d.cfg := by
  unfold Dev.trainPort Dev.bringUp
  dsimp only
  split
  · exact ⟨rfl, rfl⟩
  · split
    · exact ⟨rfl, rfl⟩
    · exact ⟨rfl, rfl⟩

/-- A port that has not trained by the end of S5 is down. -/
theorem Dev.portFails_training {d : Dev} {p : Nat} (h : (d.port p).st = 1) : d.portFails p = d.setPort p { d.port p with st := 0 } := by
  unfold Dev.portFails
  dsimp only
  rw [if_neg (by rw [h]; decide), if_pos h]

section
variable {d : Dev}

/-- What S4 leaves. -/
theorem doBootS4_ends (h : d.atStage 4 = true) : ∃ x : Dev, ∃ detail : List Byte, doBootS4 d = x.endStage false detail ∧ x.boot.stage = d.boot.stage ∧ x.boot.s4Done = true ∧
    (d.boot.kind = 2 → x.ext = d.ext) ∧ (d.boot.kind ≠ 2 → x.ext = { d.ext with mem := [], lineErr := [], badFold := [], badMac := [] } ∧ x.boot.memTest = false) ∧
      ∀ p, p < 16 → x.port p = (d.port p).started := by
  have hfold : ∀ y : Dev, ((List.range 16).foldl (fun d p => d.startTraining p) y).boot = y.boot ∧ ((List.range 16).foldl (fun d p => d.startTraining p) y).ext = y.ext := fun y =>
    ⟨foldl_field (fun d => d.boot) (fun d p => (d.startTraining_frame p).1) _ y, foldl_field (fun d => d.ext) (fun d p => (d.startTraining_frame p).2) _ y⟩
  have hport : ∀ (y : Dev) p, p < 16 → ((List.range 16).foldl (fun d p => d.startTraining p) y).port p = (y.port p).started := fun y p hp => by
    rw [foldl_startTraining_port, if_pos (List.mem_range.2 hp)]
  unfold doBootS4
  rw [if_neg (by rw [h]; decide)]
  by_cases hk : d.boot.kind = 2
  · simp only [Dev.powerOn_false.2 hk, Bool.false_eq_true, if_false]
    obtain ⟨hb, he⟩ := hfold d
    have hp := hport d
    generalize List.foldl (fun (d : Dev) p => d.startTraining p) _ (List.range 16) = y at hb he hp ⊢
    have hs : y.boot.stage = d.boot.stage := by rw [hb]
    exact ⟨_, _, rfl, hs, rfl, fun _ => he, fun h => absurd hk h, hp⟩
  · simp only [Dev.powerOn_iff.2 hk, if_true]
    obtain ⟨hb, he⟩ := hfold { d with ext := { d.ext with mem := [], lineErr := [], badFold := [], badMac := [] }, boot := { d.boot with memTest := false, testChans := [] } }
    have hp := hport { d with ext := { d.ext with mem := [], lineErr := [], badFold := [], badMac := [] }, boot := { d.boot with memTest := false, testChans := [] } }
    generalize List.foldl (fun (d : Dev) p => d.startTraining p) _ (List.range 16) = y at hb he hp ⊢
    have hs : y.boot.stage = d.boot.stage := by rw [hb]
    have hm : y.boot.memTest = false := by rw [hb]
    exact ⟨_, _, rfl, hs, rfl, fun h => absurd h hk, fun _ => ⟨he, hm⟩, hp⟩

/-- What S5 leaves. -/
theorem doBootS5_ends (h : d.atStage 5 = true) (obs : List PortObs) : ∃ x : Dev, ∃ (degr : Bool) (detail : List Byte), doBootS5 d obs = x.endStage degr detail ∧ x.boot.stage = d.boot.stage ∧
    x.boot.fullTrain = (d.boot.fullTrain && d.boot.kind == 2) ∧ (obs = [] → x.cfg = d.cfg) ∧
      x.ports = (let t := (obs.filter (fun o => d.quadOn (edgeQuadrant (0x140 + o.port)))).foldl (fun (g : Dev) o => g.trainPort o) d
        (List.range 16).foldl (fun (g : Dev) p => if (g.port p).st = 1 then g.setPort p { g.port p with st := 0 } else g) t).ports := by
  have hdown : ∀ (l : List Nat) (y : Dev), l.foldl (fun (d : Dev) p => if (d.port p).st = 1 then d.portFails p else d) y =
      l.foldl (fun (g : Dev) p => if (g.port p).st = 1 then g.setPort p { g.port p with st := 0 } else g) y := fun l y => by
    refine List.foldl_ext _ _ y (fun g p _ => ?_)
    split
    · exact Dev.portFails_training ‹_›
    · rfl
  have hframe : ∀ (l : List Nat) (y : Dev), (l.foldl (fun (g : Dev) p => if (g.port p).st = 1 then g.setPort p { g.port p with st := 0 } else g) y).boot = y.boot ∧
      (l.foldl (fun (g : Dev) p => if (g.port p).st = 1 then g.setPort p { g.port p with st := 0 } else g) y).cfg = y.cfg := fun l y => by
    refine ⟨foldl_field (fun d => d.boot) (fun d p => ?_) l y, foldl_field (fun d => d.cfg) (fun d p => ?_) l y⟩
    · dsimp only
      split <;> rfl
    · dsimp only
      split <;> rfl
  unfold doBootS5
  rw [if_neg (by rw [h]; decide)]
  dsimp only
  rw [hdown]
  obtain ⟨hb, hc⟩ := hframe (List.range 16) ((obs.filter (fun o => d.quadOn (edgeQuadrant (0x140 + o.port)))).foldl (fun (g : Dev) o => g.trainPort o) d)
  have hb2 := foldl_field (fun d => d.boot) (fun d o => (d.trainPort_frame o).1) (obs.filter (fun o => d.quadOn (edgeQuadrant (0x140 + o.port)))) d
  have hc2 := foldl_field (fun d => d.cfg) (fun d o => (d.trainPort_frame o).2) (obs.filter (fun o => d.quadOn (edgeQuadrant (0x140 + o.port)))) d
  have hp2 := d.not_powerOn
  have hnil : obs = [] → (obs.filter (fun o => d.quadOn (edgeQuadrant (0x140 + o.port)))).filter d.fullyTrained = [] := fun h => by rw [h]; rfl
  generalize List.foldl (fun (g : Dev) o => g.trainPort o) d _ = y at hb hc hb2 hc2 ⊢
  generalize List.foldl (fun (g : Dev) p => if (g.port p).st = 1 then g.setPort p { g.port p with st := 0 } else g) y (List.range 16) = z at hb hc ⊢
  rw [hb2] at hb
  rw [hc2] at hc
  rw [hp2, hb, hc]
  refine ⟨_, _, _, rfl, rfl, rfl, fun h => ?_, rfl⟩
  rw [hnil h]
  rfl

end

theorem filter_range_beq {n k : Nat} (h : k < n) : (List.range n).filter (fun s => s == k) = [k] := by
  rw [List.filter_beq, List.count_eq_one_of_mem List.nodup_range (List.mem_range.2 h)]
  rfl

/-- The units of the quadrants that failed at S2 are reported by their own sources. -/
theorem foldl_cvSrc (l : List Nat) (d : Dev) : (l.filter (fun u => decide (u < 4))).foldl (fun (g : Dev) u => (g.raise (plainMsg (cvSrc u) 0xB0 0)).cvFence u) d =
    (l.filter (fun u => decide (u < 4))).foldl (fun (g : Dev) u => (g.raise (plainMsg (0x154 + u) 0xB0 0)).cvFence u) d := by
  refine List.foldl_ext _ _ d (fun g u hu => ?_)
  have hu : u < 4 := of_decide_eq_true (List.mem_filter.1 hu).2
  rw [show cvSrc u = 0x154 + u from if_neg (by omega)]

/-- Settles O47. -/
theorem bootRows : Obligations.BootRows := by
  unfold Obligations.BootRows
  intro s copies cfgA cfgB pa pb la lb lc chans ports bad node w fc d At is
  have hAt : ∀ n, At n ↔ d.atStage n = true := fun n => Dev.atStage_iff.symm
  have hnot : ∀ {n}, ¬ At n → d.atStage n = false := fun h => eq_false_of_ne_true (fun hs => h ((hAt _).2 hs))
  refine ⟨fun row n hrow h => ?_, fun row n comp kind hrow h hf => ?_, fun src kind => ?_, fun g degr detail => ⟨g.endStage_boot degr detail, g.endStage_frame degr detail⟩, fun h => ?_, d.startKind_eq,
    fun x comp k => ⟨Sec.winner_both, Sec.winner_a, Sec.winner_b, Sec.winner_none, Sec.copyValid_good⟩, fun h hf => ?_, fun h => ?_, ⟨fun hu => ?_, fun hu hl => ?_, fun hu hl => ?_⟩, fun h hf => ?_, fun o full ref => ?_,
    fun o out rate ho => ?_, fun h => ?_, fun h => ?_, fun o => ?_, fun h hf => ?_, fun h => ?_, ?_, ?_, fun h => ?_, fun h => ?_, fun comp hc => d.sec.proven_secVersion hc, fun n h => ?_, fun h => ?_⟩
  · simp only [List.mem_cons, List.not_mem_nil, or_false, Prod.mk.injEq] at hrow
    rcases hrow with ⟨rfl, rfl⟩ | ⟨rfl, rfl⟩ | ⟨rfl, rfl⟩ | ⟨rfl, rfl⟩ | ⟨rfl, rfl⟩ | ⟨rfl, rfl⟩ | ⟨rfl, rfl⟩ | ⟨rfl, rfl⟩ | ⟨rfl, rfl⟩ | ⟨rfl, rfl⟩
    case inr.inr.inr.inr.inr.inr.inr.inl => exact congrArg s.next (if_pos (by rw [show s.dev.atStage 6 = false from hnot h]; rfl))
    all_goals exact congrArg s.next (ite_take_not (hnot h))
  · obtain ⟨hl, hx⟩ := Dev.haltNoCopy_halts hf
    simp only [List.mem_cons, List.not_mem_nil, or_false, Prod.mk.injEq] at hrow
    rcases hrow with ⟨rfl, rfl, rfl⟩ | ⟨rfl, rfl, rfl⟩ | ⟨rfl, rfl, rfl⟩
    all_goals exact congrArg s.next ((ite_pass_not ((hAt _).1 h) (if_pos hl)).trans hx)
  · obtain ⟨x, hx, hb, hfl, ht⟩ := d.haltStart_halted src kind
    intro e
    rw [show e = _ from hx]
    refine ⟨?_, fun hk => ?_, fun hk hr => ?_, fun hk hr => ?_⟩
    · have hstop : smGet Stop.init x.flt.stops src = (smGet Stop.init d.flt.stops src).take (plainMsg src kind 0) := by
        rw [hfl]
        exact smGet_set_same ..
      split
      · rw [(x.askPowerCycle_frame kind).2]
        exact hstop
      · split
        · exact hstop
        · rw [x.startAgain_again.1]
          exact hstop
    · rw [if_pos hk]
      obtain ⟨hl, hc, -⟩ := x.askPowerCycle_asks kind
      rw [(x.askPowerCycle_frame kind).1, hb]
      exact ⟨rfl, rfl, hl, hc⟩
    · rw [if_neg hk, if_pos hr]
      exact hb
    · rw [if_neg hk, if_neg (by rw [hr]; decide), x.startAgain_again.2, hb, ht]
      exact ⟨rfl, rfl, rfl, rfl, rfl, rfl⟩
  · intro cf k d1 d2 d3
    have hrun : doBootS0 d copies cfgA cfgB = if d3.lacksComp 2 then d3.haltNoCopy 2 else d3.rotRestart.endStage (d2.sec.refused copies != 0 || cf.2 == 2) (s0Detail d3 (d2.sec.refused copies) cf.2) :=
      ite_pass_not ((hAt 0).1 h) rfl
    clear_value d3
    refine ⟨fun kind hf => ?_, fun hf => congrArg s.next (hrun.trans (ite_pass_bool (Dev.lacksComp_false hf) rfl))⟩
    obtain ⟨hl, hx⟩ := Dev.haltNoCopy_halts hf
    exact congrArg s.next (hrun.trans ((if_pos hl).trans hx))
  · have hx := fun {y e : Dev} (he : y = e) => (ite_pass_not ((hAt 1).1 h) (ite_pass_bool (Dev.lacksComp_false hf) he) : (if !d.atStage 1 then d else if d.lacksComp 0 then d.haltNoCopy 0 else y) = e)
    intro a b
    refine ⟨fun ha hb => congrArg s.next (hx (if_pos ?_)), fun hab => congrArg s.next (hx ((if_neg ?_).trans ?_))⟩
    · rw [show (pa && (d.powerOn || d.rrc.coreAOk)) = false from ha, show (pb && (d.powerOn || d.rrc.coreBOk)) = false from hb]
      rfl
    · intro hn
      obtain ⟨h1, h2⟩ := Bool.and_eq_true_iff.1 hn
      rw [Bool.not_eq_true'] at h1 h2
      exact hab.elim (fun h => Bool.false_ne_true (h1.symm.trans h)) (fun h => Bool.false_ne_true (h2.symm.trans h))
    · rw [d.not_powerOn]
      rfl
  · have hx := fun {y e : Dev} (he : y = e) => (ite_pass_not ((hAt 2).1 h) he : (if !d.atStage 2 then d else y) = e)
    intro d2 e
    have he : ((lc.filter (fun u => decide (u < 4))).foldl (fun (g : Dev) u => (g.raise (plainMsg (cvSrc u) 0xB0 0)).cvFence u) d2).cvTested lc = e := by rw [foldl_cvSrc]
    have hrun : doBootS2 d la lb lc = if lc.contains 4 then ({ e with cv := smSet CvUnit.init e.cv 4 { e.cvu 4 with fenced := true } } : Dev).haltStart (cvSrc 4) 0xB0
        else if e.boot.hold then { e with boot := { e.boot with lateRelease := true } } else e.endS2 := by
      rw [← he]
      exact hx rfl
    clear_value e
    refine ⟨fun h4 => congrArg s.next (hrun.trans (if_pos (List.contains_iff_mem.2 h4))), fun h4 hh => congrArg s.next (hrun.trans (ite_pass (fun h => h4 (List.contains_iff_mem.1 h)) (if_pos hh))),
      fun h4 hh => congrArg s.next (hrun.trans (ite_pass (fun h => h4 (List.contains_iff_mem.1 h)) (ite_pass_bool hh rfl)))⟩
  · exact congrArg s.next (ite_take_not hu)
  · exact congrArg s.next (ite_pass_not hu (ite_pass_bool hl rfl))
  · exact congrArg s.next (ite_pass_not hu (if_pos hl))
  · have hx := fun {y e : Dev} (he : y = e) => (ite_pass_not ((hAt 3).1 h) (ite_pass_bool (Dev.lacksComp_false hf) he) : (if !d.atStage 3 then d else if d.lacksComp 3 then d.haltNoCopy 3 else y) = e)
    exact ⟨fun hk => congrArg s.next (hx (if_pos (Dev.powerOn_iff.2 hk))), fun hk => congrArg s.next (hx (ite_pass_bool (Dev.powerOn_false.2 hk) rfl))⟩
  · intro out
    refine ⟨trainOutcome_absent, fun hp hr => ?_, fun hp hr => ⟨trainOutcome_saved hp hr, trainOutcome_full hp hr⟩⟩
    obtain ⟨r, hr, hd⟩ := hr
    exact trainOutcome_differs hp hr hd
  · obtain ⟨h1, h2⟩ := d.trainChan_chan o out rate
    exact ⟨h1, h2, fun h => d.trainChan_reports o rate (by omega)⟩
  · obtain ⟨x, detail, hx, hst, hs4, hw, hp, hport⟩ := doBootS4_ends ((hAt 4).1 h)
    have hb := x.endStage_boot false detail
    have hfr := x.endStage_frame false detail
    obtain ⟨-, -, hst4, -⟩ := h
    refine ⟨_, congrArg s.next hx, rfl, ?_, ?_, fun hk => ?_, fun hk => ⟨?_, ?_⟩, fun p hp => ?_⟩
    · rw [hb]
      exact congrArg (· + 1) (hst.trans hst4)
    · rw [hb]
      exact hs4
    · exact (congrArg Dev.ext hfr).trans (hw hk)
    · exact (congrArg Dev.ext hfr).trans (hp hk).1
    · rw [hb]
      exact (hp hk).2
    · refine (congrArg (fun e : Dev => (e.port p).st) hfr).trans ((congrArg Port.st (hport p hp)).trans (Port.started_st _))
  · obtain ⟨x, degr, detail, hx, hst, hft, hcfg, hports⟩ := doBootS5_ends ((hAt 5).1 h) ports
    have hb := x.endStage_boot degr detail
    have hfr := x.endStage_frame degr detail
    obtain ⟨-, -, hst5, -⟩ := h
    refine ⟨_, congrArg s.next hx, rfl, ?_, ?_, fun hk => ?_, ?_⟩
    · rw [hb]
      exact congrArg (· + 1) (hst.trans hst5)
    · rw [hb]
      exact hft
    · exact (congrArg Dev.cfg hfr).trans (hcfg hk)
    · exact (congrArg Dev.ports hfr).trans hports
  · unfold Dev.trainPort
    rw [d.not_powerOn, show d.cfg.linked o = d.cfg.linkTraining.contains (o.port, o.peerSerial, o.peerPort) from rfl]
    refine ⟨fun hp => if_pos ?_, fun hp hk => if_neg ?_⟩
    · simpa using hp
    · simpa [hp, imp_iff_not_or] using hk
  · have hx := fun {y e : Dev} (he : y = e) => congrArg s.next (ite_pass_not ((hAt 6).1 h) (ite_pass_bool (Dev.lacksComp_false hf) he) : (if !d.atStage 6 then d else if d.lacksComp 1 then d.haltNoCopy 1 else y) = e)
    refine ⟨fun h0 => hx (if_pos h0), fun h0 h4 hi => hx (ite_pass h0 (if_pos ⟨hi, h4⟩)), fun h0 hi => ?_⟩
    intro g g2 g3
    have hg2 : (if d.powerOn then g.numberAll else g).disarm = g2 := congrArg Dev.disarm (if_congr Dev.powerOn_iff rfl rfl)
    refine hx (ite_pass h0 ((if_neg (fun ⟨h1, h2⟩ => hi.elim h1 (fun h => absurd h2 (Nat.not_lt.2 h)))).trans ?_))
    show (let d3 := { (if d.powerOn then g.numberAll else g).disarm with
        curds := smMap Curd.init Curd.parked (if d.powerOn then g.numberAll else g).disarm.curds, pwr := { (if d.powerOn then g.numberAll else g).disarm.pwr with hold075 := false } }
      d3.endStage (d3.fencedAll != [] || d3.vats.any (fun e => e.2.lst == .fenced)) (s6Detail d3 (d.boot.stepNo - 1))) = _
    rw [hg2]
  · refine ⟨fun h1 h4 hi => congrArg s.next (if_neg ?_), fun hi => congrArg s.next (if_pos ?_)⟩
    · rw [show s.dev.atStage 6 = true from (hAt 6).1 h]
      simp only [Bool.not_true, Bool.false_or, Bool.or_eq_true, beq_iff_eq, decide_eq_true_eq]
      exact fun hb => hb.elim (fun hb => hb.elim (fun h0 => absurd h1 (by rw [show d.boot.stepNo = 0 from h0]; decide)) (fun h => absurd h4 (Nat.not_lt.2 h))) hi
    · rw [show s.dev.atStage 6 = true from (hAt 6).1 h]
      simp only [Bool.not_true, Bool.false_or, Bool.or_eq_true, beq_iff_eq, decide_eq_true_eq, or_assoc]
      exact hi
  · exact ⟨fun hv => congrArg s.next (if_pos hv), fun hv => congrArg s.next (if_neg hv)⟩
  · refine ⟨fun hv => congrArg s.next (if_pos ?_), fun hv h => ?_⟩
    · exact hv.imp id (fun h => by rw [show s.dev.atStage 6 = false from hnot h]; rfl)
    · have hx := fun {y e : Dev} (he : y = e) => congrArg s.next ((if_neg (fun hb => hb.elim hv (fun hb => by rw [(hAt 6).1 h] at hb; exact Bool.false_ne_true hb))).trans he :
        (if (d.vat node).lst = .fusedOff ∨ !d.atStage 6 then d else y) = e)
      intro v data
      refine ⟨fun hc => hx (if_pos hc), fun hc hu hs h7 => hx (ite_pass (not_not.2 hc) ?_), fun hc hu => hx (ite_pass (not_not.2 hc) ?_)⟩
      · rw [if_neg (by rw [hu]; simpa using h7), filter_range_beq hs]
        rfl
      · rw [if_pos (by simpa using hu)]
  · have hx := fun {y e : Dev} (he : y = e) => congrArg s.next (ite_pass_not ((hAt 7).1 h) he : (if !d.atStage 7 then d else y) = e)
    refine ⟨fun h0 => ?_, fun h1 hk hr he => hx (ite_pass (show d.boot.stepNo ≠ 0 by omega) (if_pos ⟨h1, Dev.powerOn_false.2 hk, hr, he⟩)), fun hn => hx (ite_pass (show d.boot.stepNo ≠ 0 by omega) (if_neg ?_))⟩
    · intro g
      refine hx ((if_pos h0).trans ?_)
      have hg : d.joinFabric = g := by
        unfold Dev.joinFabric
        refine if_congr ?_ rfl rfl
        rw [Bool.and_eq_true, Bool.and_eq_true, d.not_powerOn, beq_iff_eq, Option.isSome_iff_ne_none, bne_iff_ne, and_assoc]
      rw [← hg]
    · rintro ⟨h1, hk, hr, he⟩
      rcases hn with hn | ⟨-, hn | hn | hn⟩
      · exact absurd h1 (show d.boot.stepNo ≠ 1 by omega)
      · exact hn (Dev.powerOn_false.1 hk)
      · exact hn hr
      · exact hn he
  · exact congrArg s.next (ite_pass_not ((hAt 8).1 h) rfl)
  · have hst : d.boot.stage = n := by
      obtain ⟨-, -, hst, -⟩ := h
      exact hst
    refine ⟨fun hn hw => congrArg s.next (if_pos ?_), fun hn => congrArg s.next (if_neg ?_)⟩
    · rw [List.any_eq_true.2 ⟨n, List.mem_range.2 hn, (hAt n).1 h⟩, Bool.true_and, Bool.not_eq_true', Bool.and_eq_false_iff, beq_eq_false_iff_ne, d.not_powerOn, beq_eq_false_iff_ne]
      exact hw.imp (fun h4 => by rwa [show s.dev.boot.stage = n from hst]) id
    · rcases hn with rfl | ⟨rfl, hk⟩
      · rw [List.any_eq_false.2 (fun k hk hs => ?_), Bool.false_and]
        · exact Bool.false_ne_true
        · obtain ⟨-, -, hs, -⟩ := Dev.atStage_iff.1 hs
          exact absurd (List.mem_range.1 hk) (by rw [← hs, show s.dev.boot.stage = 8 from hst]; decide)
      · rw [show s.dev.boot.stage = 4 from hst, d.not_powerOn, show (d.boot.kind == 2) = true from beq_iff_eq.2 hk, Bool.and_comm]
        exact Bool.false_ne_true
  · refine congrArg s.next (if_neg ?_)
    rw [List.any_eq_false.2 (fun n _ hn => h n ((hAt n).2 hn)), Bool.false_and]
    exact Bool.false_ne_true

end Sys2Proof.Machine
end

section
/-! PROOFS. Power inputs, the power controller, the side-band, JTAG and register writes (15_faults_cave.md R456, 17_rates_limits.md R488-R495, 18_module.md R504-R518). -/

namespace Sys2Proof.Machine

/-! ## What the configuration at a power-on leaves alone -/

/-- Nothing differs that the configuration does not name: the timer, the power state, the start, the secrets, the curds, contexts and partitions,
the side-band and the cave. -/
def PowerOnKept (d x : Dev) : Prop :=
  x.timer = d.timer ∧ x.pwr = d.pwr ∧ x.boot = d.boot ∧ x.sec = d.sec ∧ x.curds = d.curds ∧ x.ctxs = d.ctxs ∧ x.parts = d.parts ∧ x.sb = d.sb ∧ x.cave = d.cave

section
variable {d x y : Dev}

theorem PowerOnKept.refl (d : Dev) : PowerOnKept d d := ⟨rfl, rfl, rfl, rfl, rfl, rfl, rfl, rfl, rfl⟩

theorem PowerOnKept.trans (h : PowerOnKept d x) (h' : PowerOnKept x y) : PowerOnKept d y := by
  obtain ⟨h1, h2, h3, h4, h5, h6, h7, h8, h9⟩ := h
  obtain ⟨g1, g2, g3, g4, g5, g6, g7, g8, g9⟩ := h'
  exact ⟨g1.trans h1, g2.trans h2, g3.trans h3, g4.trans h4, g5.trans h5, g6.trans h6, g7.trans h7, g8.trans h8, g9.trans h9⟩

theorem PowerOnKept.foldl {α : Type} {f : Dev → α → Dev} (h : ∀ d a, PowerOnKept d (f d a)) (l : List α) (d : Dev) : PowerOnKept d (l.foldl f d) := by
  induction l generalizing d with
  | nil => exact .refl d
  | cons a l ih => exact (h d a).trans (ih _)

theorem PowerOnKept.setVat (d : Dev) (n : Nat) (v : Vat) : PowerOnKept d (d.setVat n v) := ⟨rfl, rfl, rfl, rfl, rfl, rfl, rfl, rfl, rfl⟩

theorem PowerOnKept.setPort (d : Dev) (n : Nat) (v : Port) : PowerOnKept d (d.setPort n v) := ⟨rfl, rfl, rfl, rfl, rfl, rfl, rfl, rfl, rfl⟩

theorem Dev.cfgApply_powerOn (d : Dev) (e : CfgEntry) : PowerOnKept d (d.cfgApply e) := by
  unfold Dev.cfgApply
  split
  case h_1 =>
    split
    · exact .foldl (f := fun d n => d.setVat n { d.vat n with dmaStage := e.value }) (fun d n => .setVat d n _) _ d
    · exact .setVat d _ _
  case h_4 => exact .setPort d _ _
  case h_5 => exact .setPort d _ _
  case h_10 =>
    split
    · exact ⟨rfl, rfl, rfl, rfl, rfl, rfl, rfl, rfl, rfl⟩
    · exact ⟨rfl, rfl, rfl, rfl, rfl, rfl, rfl, rfl, rfl⟩
  all_goals exact ⟨rfl, rfl, rfl, rfl, rfl, rfl, rfl, rfl, rfl⟩

theorem Dev.cfgAtReset_powerOn (d : Dev) : PowerOnKept d d.cfgAtReset := by
  have hv : PowerOnKept d ((List.range 288).foldl (fun d n => d.setVat n { d.vat n with dmaStage := cfgReset 1 }) d) :=
    .foldl (f := fun d n => d.setVat n { d.vat n with dmaStage := cfgReset 1 }) (fun d n => .setVat d n _) _ d
  have hp : ∀ x : Dev, PowerOnKept x ((List.range 16).foldl (fun d p => d.setPort p { d.port p with bufSize := cfgReset 4, ctl := cfgReset 5 }) x) := fun x =>
    .foldl (f := fun d p => d.setPort p { d.port p with bufSize := cfgReset 4, ctl := cfgReset 5 }) (fun d n => .setPort d n _) _ x
  have hc : ∀ (l : List CfgEntry) (x : Dev), PowerOnKept x (l.foldl (fun d e => if cfgKept e.item then d else d.cfgApply e) x) := by
    refine fun l x => .foldl (fun d e => ?_) l x
    split
    · exact .refl d
    · exact d.cfgApply_powerOn e
  have hx : ∀ x : Dev, PowerOnKept x { x with xlink := cfgReset 2, collTmo := cfgReset 3, ext := { x.ext with cfg := cfgReset 6 } } := fun x => ⟨rfl, rfl, rfl, rfl, rfl, rfl, rfl, rfl, rfl⟩
  exact ((hv.trans (hp _)).trans (hx _)).trans (hc _ _)

theorem Dev.cfgAtPowerOn_powerOn (d : Dev) : PowerOnKept d d.cfgAtPowerOn := by
  have hc : ∀ (l : List CfgEntry) (x : Dev), PowerOnKept x (l.foldl (fun d e => if cfgKept e.item then d.cfgApply e else d) x) := by
    refine fun l x => .foldl (fun d e => ?_) l x
    split
    · exact d.cfgApply_powerOn e
    · exact .refl d
  have hx : ∀ x : Dev, PowerOnKept x { x with
      fm := { x.fm with cfg := cfgReset 7, shape := cfgReset 8 }, rrc := { x.rrc with cfg := cfgReset 9 }, flt := { x.flt with sev := [], cfg := cfgReset 11 } } := fun x =>
    ⟨rfl, rfl, rfl, rfl, rfl, rfl, rfl, rfl, rfl⟩
  exact (d.cfgAtReset_powerOn.trans (hx _)).trans (hc _ _)

/-- What a power cycle leaves: no secrets, no programs, and the inputs, the start and the cave as they were. -/
theorem Dev.cycled_blocks (d : Dev) : d.cycled.timer = d.timer ∧ d.cycled.pwr = d.pwr ∧ d.cycled.boot = d.boot ∧ d.cycled.sec.models = [] ∧ d.cycled.sec.secrets = [] ∧ d.cycled.curds = [] ∧
    d.cycled.ctxs = [] ∧ d.cycled.parts = [] ∧ d.cycled.sb = d.sb ∧ d.cycled.cave = d.cave := by
  unfold Dev.cycled
  dsimp only
  obtain ⟨h1, h2, h3, h4, h5, h6, h7, h8, h9⟩ := Dev.cfgAtPowerOn_powerOn { d with
    sec := { d.sec with models := [], secrets := [], debugScope := 0, jtag := .bypass }
    cfg := { d.cfg with staged := [], stageCount := 0 }
    curds := [], vats := defaultVats 288, nis := [], mesh := Mesh.init, ports := [], coll := [], trees := [], cv := []
    ext := { ExtMem.init with chans := smMap Chan.init Chan.cycled d.ext.chans }
    parts := [], ctxs := [], lastGen := []
    fm := { FM.init with stored := d.fm.stored }
    host := { HostSide.init with hostMem := d.host.hostMem, msixSent := d.host.msixSent, last := d.host.last, perst := d.host.perst, linkUp := false } }
  rw [h4]
  exact ⟨h1, h2, h3, rfl, rfl, h5, h6, h7, h8, h9⟩

/-! ## The rails (R504) -/

theorem Power.ready_iff {p : Power} : p.ready = true ↔ p.main = true ∧ p.standby = true ∧ p.islandUp = true ∧ p.holdUp = true ∧ p.failing = false := by
  unfold Power.ready
  simp only [Bool.and_eq_true, Bool.not_eq_true', and_assoc]

theorem Dev.tryRails_iff (d : Dev) : (d.pwr.ready && !d.pwr.ioUp) = true ↔
    d.pwr.main = true ∧ d.pwr.standby = true ∧ d.pwr.islandUp = true ∧ d.pwr.holdUp = true ∧ d.pwr.failing = false ∧ d.pwr.ioUp = false := by
  rw [Bool.and_eq_true, Power.ready_iff, Bool.not_eq_true']
  simp only [and_assoc]

theorem Dev.railsUp_starts {d : Dev} (h : d.cave.store ≠ 2) : d.railsUp.boot.stage = 0 ∧ d.railsUp.boot.running = true ∧ d.railsUp.pwr.coreMv = 750 ∧ d.railsUp.pwr.ioUp = true ∧ d.railsUp.pwr.hold075 = true ∧
    d.railsUp.curds = [] ∧ d.railsUp.ctxs = [] ∧ d.railsUp.parts = [] ∧ d.railsUp.sec.models = [] := by
  obtain ⟨h1, h2, h3, h4, h5, h6, h7, h8, h9, h10⟩ := Dev.cycled_blocks { d with flt := Flt.init, rrc := d.rrc.cycled, boot := d.boot.cycled d.timer.toNat }
  unfold Dev.railsUp
  dsimp only
  generalize Dev.cycled _ = x at h1 h2 h3 h4 h5 h6 h7 h8 h9 h10 ⊢
  unfold Dev.caveCycled
  rw [if_neg (by rw [show Dev.cave _ = d.cave from h10]; exact h)]
  have hs : x.boot.stage = 0 ∧ x.boot.running = true := by
    rw [h3]
    exact ⟨rfl, rfl⟩
  exact ⟨hs.1, hs.2, rfl, rfl, rfl, h6, h7, h8, h4⟩

/-! ## The controller (R491-R495) -/

/-- Every limit is in force at once; the junction's is a fault where it begins. -/
theorem Dev.bindLimits_pwr (d : Dev) (lim : Nat) : (d.bindLimits lim).pwr = { d.pwr with limits := lim } := by
  unfold Dev.bindLimits
  dsimp only
  have hs : ∀ b : Bool, (if b = true then Dev.sbAlert { d with pwr := { d.pwr with limits := lim } } 1 else { d with pwr := { d.pwr with limits := lim } }).pwr = { d.pwr with limits := lim } := by
    intro b
    cases b with
    | true => exact (Dev.sbAlert_frame _ 1).1
    | false => rfl
  split
  · exact hs _
  · exact hs _

theorem Dev.bindLimits_junction {lim : Nat} (h : bit lim 1 = true) (ho : bit d.pwr.limits 1 = false) :
    smGet Stop.init (d.bindLimits lim).flt.stops 0x805 = (smGet Stop.init d.flt.stops 0x805).take (plainMsg 0x805 0x80 0) := by
  unfold Dev.bindLimits
  dsimp only
  rw [if_pos (by rw [h, ho]; rfl)]
  refine (smGet_set_same _ _ _ _).trans ?_
  have hs : ∀ b : Bool, (if b = true then Dev.sbAlert { d with pwr := { d.pwr with limits := lim } } 1 else { d with pwr := { d.pwr with limits := lim } }).flt = d.flt := by
    intro b
    cases b with
    | true => exact Dev.sbAlert_flt _ 1
    | false => rfl
  rw [hs]
  rfl

theorem Dev.capAnswers_frame (d : Dev) : ∃ h : HostSide, d.capAnswers = { d with
    pwr := { d.pwr with capWait := [] }
    host := h } := by
  unfold Dev.capAnswers
  refine foldl_keeps (fun e : Dev => ∃ h : HostSide, e = { d with
    pwr := { d.pwr with capWait := [] }
    host := h }) _ (fun e he q _ => ?_) ⟨d.host, rfl⟩
  obtain ⟨h, rfl⟩ := he
  obtain ⟨h', e'⟩ := Dev.respond_frame { d with
    pwr := { d.pwr with capWait := [] }
    host := h } q.1 q.2 rOk (leBytes 2 d.pwr.capW)
  exact ⟨h', e'⟩

/-- The answered commands change only who waits. -/
theorem answered_frame (x : Dev) (b : Prop) [Decidable b] : ∃ cw, (if b then x.capAnswers else x).pwr = { x.pwr with capWait := cw } ∧ (if b then x.capAnswers else x).flt = x.flt := by
  split
  · obtain ⟨h, e⟩ := x.capAnswers_frame
    rw [e]
    exact ⟨[], rfl, rfl⟩
  · exact ⟨x.pwr.capWait, rfl, rfl⟩

/-- The rail moves a step towards its target and the limits are in force. -/
theorem Dev.control_frame (d : Dev) (o : PowerObs) :
    ∃ cw, (d.control o).pwr = { d.pwr with
      coreMv := railStep d.pwr.coreMv (if d.pwr.hold075 = true then 750 else railTarget o)
      limits := if d.pwr.hold075 = true then 0 else limitsOf o d.pwr.capW
      capWait := cw } ∧
    (d.control o).flt = (Dev.bindLimits { d with pwr := { d.pwr with coreMv := railStep d.pwr.coreMv (if d.pwr.hold075 = true then 750 else railTarget o) } }
      (if d.pwr.hold075 = true then 0 else limitsOf o d.pwr.capW)).flt := by
  unfold Dev.control
  dsimp only
  obtain ⟨cw, hp, hf⟩ := answered_frame (Dev.bindLimits { d with pwr := { d.pwr with coreMv := railStep d.pwr.coreMv (if d.pwr.hold075 = true then 750 else railTarget o) } }
    (if d.pwr.hold075 = true then 0 else limitsOf o d.pwr.capW)) (railStep d.pwr.coreMv (if d.pwr.hold075 = true then 750 else railTarget o) = if d.pwr.hold075 = true then 750 else railTarget o)
  refine ⟨cw, hp.trans ?_, hf⟩
  rw [Dev.bindLimits_pwr]

theorem Dev.trip_trips (h : d.pwr.thermtrip = false) :
    d.trip.pwr = { d.pwr with
      thermtrip := true
      coreMv := 0
      stepMsps := 0
      limits := 0 } ∧ d.trip.mesh = Mesh.init ∧ (∀ k, (d.trip.curd k).st = .idle) ∧
    smGet Stop.init d.trip.flt.stops 0x805 = (smGet Stop.init d.flt.stops 0x805).take (plainMsg 0x805 0x81 0) := by
  unfold Dev.trip
  rw [if_neg (by rw [h]; exact Bool.false_ne_true)]
  dsimp only
  rw [Dev.sbAlert_eq]
  refine ⟨rfl, rfl, fun k => ?_, smGet_set_same _ _ _ _⟩
  exact smGet_smMap_of (P := fun c : Curd => c.st = .idle) (z := Curd.init) (f := fun c => { Curd.init with fenced := c.fenced }) rfl (fun _ => rfl) k

/-- The state once the measurements are recorded and a hot junction is shown to the tray. -/
theorem alerted_frame (x : Dev) (b : Prop) [Decidable b] : (if b then x.sbAlert 2 else x).pwr = x.pwr ∧ (if b then x.sbAlert 2 else x).flt = x.flt := by
  split
  · exact ⟨(Dev.sbAlert_frame x 2).1, Dev.sbAlert_flt x 2⟩
  · exact ⟨rfl, rfl⟩

theorem bit_succ_two {x : Nat} (h : bit x 2 = false) : bit (x + 4) 2 = true := by
  unfold bit at *
  rw [beq_eq_false_iff_ne] at h
  rw [beq_iff_eq]
  omega

/-! ## The side-band (R513-R517) -/

theorem Dev.sbUp_iff (d : Dev) : d.sbUp = true ↔ d.pwr.standby = true ∧ d.pwr.islandUp = true := Bool.and_eq_true_iff

theorem Dev.sbUp_false (h : ¬ (d.pwr.standby = true ∧ d.pwr.islandUp = true)) : d.sbUp = false := by
  rw [← Bool.not_eq_true, Dev.sbUp_iff]
  exact h

theorem Dev.fwHalted_iff (d : Dev) : d.fwHalted = true ↔ d.boot.failed = true ∧ (d.boot.error = 0x91 ∨ d.boot.error = 0x71) := by
  unfold Dev.fwHalted
  rw [Bool.and_eq_true, Bool.or_eq_true, beq_iff_eq, beq_iff_eq]

theorem Dev.sbAlert_fwOpen (d : Dev) (b : Nat) : (d.sbAlert b).sb.fwOpen = d.sb.fwOpen ∧ (d.sbAlert b).sb.fwResult = d.sb.fwResult := by
  unfold Dev.sbAlert
  dsimp only
  split
  · exact ⟨rfl, rfl⟩
  · exact ⟨rfl, rfl⟩

theorem Dev.startAgain_keeps (d : Dev) : d.startAgain.sec = d.sec ∧ d.startAgain.sb.fwOpen = d.sb.fwOpen ∧ d.startAgain.sb.fwResult = d.sb.fwResult := by
  unfold Dev.startAgain
  dsimp only
  generalize hb : ({ d.boot with
    stage := 0, failed := false, stepNo := 0, error := 0, progress := 0, startAt := d.timer.toNat, stageAt := d.timer.toNat, elapsed := 0, running := true, repeated := true
    degraded := false, noCopy := [], lateRelease := false } : Boot) = b
  obtain ⟨h, e, -⟩ := Dev.recvReset_frame { d with boot := b } false false
  rw [e, (Dev.sbAlert_fwOpen _ 0).1, (Dev.sbAlert_fwOpen _ 0).2, Dev.sbAlert_eq]
  exact ⟨rfl, rfl, rfl⟩

/-! ## A power sample (R491) -/

theorem doPowerSample_idle {o : PowerObs} (hi : d.pwr.islandUp = true) (h0 : d.pwr.coreMv = 0) : (doPowerSample d o).pwr = d.pwr.measure o := by
  unfold doPowerSample
  dsimp only
  rw [hi, Bool.not_true, if_neg Bool.false_ne_true, if_pos h0]
  exact (alerted_frame { d with pwr := d.pwr.measure o } _).1

theorem doPowerSample_hot {o : PowerObs} (hi : d.pwr.islandUp = true) (h0 : d.pwr.coreMv ≠ 0) (ht : 1150 ≤ hottest o.tj) :
    (d.pwr.thermtrip = true → (doPowerSample d o).pwr = d.pwr.measure o) ∧
    (d.pwr.thermtrip = false → (doPowerSample d o).pwr = { d.pwr.measure o with
      thermtrip := true
      coreMv := 0
      stepMsps := 0
      limits := 0 }) := by
  unfold doPowerSample
  dsimp only
  rw [hi, Bool.not_true, if_neg Bool.false_ne_true, if_neg h0, if_pos ht]
  have hx := (alerted_frame { d with pwr := d.pwr.measure o } ((decide (1000 ≤ hottest o.tj) && decide (hottest d.pwr.tj < 1000)) = true)).1
  generalize (if (decide (1000 ≤ hottest o.tj) && decide (hottest d.pwr.tj < 1000)) = true then Dev.sbAlert { d with pwr := d.pwr.measure o } 2
    else { d with pwr := d.pwr.measure o }) = x at hx ⊢
  refine ⟨fun hh => ?_, fun hh => ?_⟩
  · unfold Dev.trip
    rw [if_pos (by rw [hx]; exact hh), hx]
  · rw [(Dev.trip_trips (by rw [hx]; exact hh)).1, hx]

theorem doPowerSample_cool {o : PowerObs} (hi : d.pwr.islandUp = true) (h0 : d.pwr.coreMv ≠ 0) (ht : hottest o.tj < 1150) :
    (∃ cw, (doPowerSample d o).pwr = { d.pwr.measure o with
      coreMv := railStep d.pwr.coreMv (if d.pwr.hold075 = true then 750 else railTarget o)
      limits := if d.pwr.hold075 = true then 0 else limitsOf o d.pwr.capW
      capWait := cw }) ∧
    (d.pwr.hold075 = false → bit (limitsOf o d.pwr.capW) 1 = true → bit d.pwr.limits 1 = false →
      smGet Stop.init (doPowerSample d o).flt.stops 0x805 = (smGet Stop.init d.flt.stops 0x805).take (plainMsg 0x805 0x80 0)) := by
  unfold doPowerSample
  dsimp only
  rw [hi, Bool.not_true, if_neg Bool.false_ne_true, if_neg h0, if_neg (Nat.not_le.2 ht)]
  obtain ⟨hx, hxf⟩ := alerted_frame { d with pwr := d.pwr.measure o } ((decide (1000 ≤ hottest o.tj) && decide (hottest d.pwr.tj < 1000)) = true)
  generalize (if (decide (1000 ≤ hottest o.tj) && decide (hottest d.pwr.tj < 1000)) = true then Dev.sbAlert { d with pwr := d.pwr.measure o } 2
    else { d with pwr := d.pwr.measure o }) = x at hx hxf ⊢
  obtain ⟨cw, hp, hf⟩ := x.control_frame o
  refine ⟨⟨cw, ?_⟩, fun hh hb ho => ?_⟩
  · rw [hp, hx]
    rfl
  · rw [hf, if_neg (c := x.pwr.hold075 = true) (t := 0) (by rw [hx, show (d.pwr.measure o).hold075 = false from hh]; exact Bool.false_ne_true), Dev.bindLimits_junction]
    · dsimp only
      rw [hxf]
    · rw [hx]
      exact hb
    · dsimp only
      rw [hx]
      exact ho

/-- Every sample records what was measured. -/
theorem doPowerSample_records (o : PowerObs) (hi : d.pwr.islandUp = true) : ∃ tt mv st lim cw, (doPowerSample d o).pwr = { d.pwr.measure o with
    thermtrip := tt
    coreMv := mv
    stepMsps := st
    limits := lim
    capWait := cw } := by
  by_cases h0 : d.pwr.coreMv = 0
  · exact ⟨_, _, _, _, _, doPowerSample_idle hi h0⟩
  · rcases Nat.lt_or_ge (hottest o.tj) 1150 with ht | ht
    · obtain ⟨⟨cw, hp⟩, -⟩ := doPowerSample_cool hi h0 ht
      exact ⟨_, _, _, _, _, hp⟩
    · obtain ⟨h1, h2⟩ := doPowerSample_hot hi h0 ht
      cases hh : d.pwr.thermtrip with
      | true => exact ⟨_, _, _, _, _, h1 hh⟩
      | false => exact ⟨_, _, _, _, _, h2 hh⟩

theorem doCurrentFastPath_lowers {amps : Nat} (h0 : d.pwr.coreMv ≠ 0) (ha : 2000 < amps) :
    (doCurrentFastPath d amps).pwr.coreMv = (if 555 ≤ d.pwr.coreMv then d.pwr.coreMv - 5 else d.pwr.coreMv) ∧ (doCurrentFastPath d amps).pwr.coreA = amps ∧
      bit (doCurrentFastPath d amps).pwr.limits 2 = true := by
  unfold doCurrentFastPath
  rw [if_neg (by omega)]
  dsimp only
  rw [Dev.bindLimits_pwr]
  refine ⟨rfl, rfl, ?_⟩
  dsimp only
  split
  · assumption
  · exact bit_succ_two (Bool.eq_false_iff.2 ‹_›)

theorem doThermalTrip_trips {tj : List Nat} (h0 : d.pwr.coreMv ≠ 0) (ht : 1150 ≤ hottest tj) (hh : d.pwr.thermtrip = false) :
    (doThermalTrip d tj).pwr.coreMv = 0 ∧ (doThermalTrip d tj).pwr.thermtrip = true ∧ (doThermalTrip d tj).pwr.tj = tj ∧ (doThermalTrip d tj).mesh = Mesh.init ∧
    (∀ k, ((doThermalTrip d tj).curd k).st = .idle) ∧
    smGet Stop.init (doThermalTrip d tj).flt.stops 0x805 = (smGet Stop.init d.flt.stops 0x805).take (plainMsg 0x805 0x81 0) := by
  unfold doThermalTrip
  rw [if_neg (by omega)]
  dsimp only
  obtain ⟨hx, hxf⟩ := alerted_frame { d with pwr := { d.pwr with tj := tj } } (hottest d.pwr.tj < 1000)
  generalize (if hottest d.pwr.tj < 1000 then Dev.sbAlert { d with pwr := { d.pwr with tj := tj } } 2 else { d with pwr := { d.pwr with tj := tj } }) = x at hx hxf ⊢
  obtain ⟨hp, hm, hc, hf⟩ := Dev.trip_trips (d := x) (by rw [hx]; exact hh)
  rw [hp, hm, hf, hx, hxf]
  exact ⟨rfl, rfl, rfl, rfl, hc, rfl⟩

/-! ## The power inputs (R456, R502-R507) -/

theorem Dev.meshQuiet_iff (d : Dev) : d.meshQuiet = true ↔ d.mesh.stopA = true ∧ d.mesh.stopB = true ∧ d.planeEmpty .a = true ∧ d.planeEmpty .b = true := by
  unfold Dev.meshQuiet
  simp only [Bool.and_eq_true, and_assoc]

/-- An island that starts on standby power: the timer and the side-band at their reset values, the operating seconds going on, the records
of the store kept. -/
theorem doStandbyPowerOn_starts (hs : d.pwr.standby = false) (hf : d.pwr.failing = false) : (doStandbyPowerOn d).timer = 0 ∧ (doStandbyPowerOn d).sb = SideBand.init ∧ (doStandbyPowerOn d).pwr.standby = true ∧
    (doStandbyPowerOn d).pwr.islandUp = true ∧ (doStandbyPowerOn d).boot = { Boot.init with running := false } ∧ (doStandbyPowerOn d).cave.opBase = d.cave.opStored + (if d.cave.cleanOff = true then 0 else 64) ∧
    (doStandbyPowerOn d).cave.kept = d.cave.kept ∧ (doStandbyPowerOn d).cave.circ = d.cave.circ ∧ (doStandbyPowerOn d).curds = [] := by
  unfold doStandbyPowerOn
  rw [if_neg (by rw [hs, hf]; decide)]
  dsimp only
  obtain ⟨h1, h2, h3, -, -, h6, -, -, h9, h10⟩ := Dev.cycled_blocks { d with
    timer := 0
    pwr := { d.pwr with
      standby := true
      islandUp := true
      holdUp := false
      thermtrip := false
      pwrcyc := false
      limits := 0 }
    sb := SideBand.init
    boot := { Boot.init with running := false }
    flt := Flt.init
    cave := { d.cave with
      opBase := d.cave.opStored + (if d.cave.cleanOff = true then 0 else 64)
      cleanOff := false
      buf := []
      due := false
      next := if d.cave.store = 2 then d.cave.next else d.cave.storeNext } }
  rw [h1, h2, h3, h6, h9, h10]
  exact ⟨rfl, rfl, rfl, rfl, rfl, rfl, rfl, rfl, rfl⟩

/-- What a power-fail does, in its order. -/
theorem Dev.powerFails_eq (g : Dev) : g.powerFails =
    (let a := Dev.cycled { g with
      boot := { g.boot.cycled g.timer.toNat with running := false }
      rrc := { g.rrc with pwrcycWanted := false } }
    let b := { a with pwr := { a.pwr with
      coreMv := 0
      stepMsps := 0
      limits := 0
      ioUp := false
      capWait := []
      failing := true } }
    let c := ((if decide (g.boot.stage ≠ 0) || g.boot.failed then b.sbAlert 0 else b).collect (plainMsg 0x810 0x83 0)).cavePower 0
    let e := { c with cave := { c.cave with due := true } }
    if e.cave.store = 2 then e.powerFailDone else e) := rfl

/-! ## Registers behind ring stops (R18, R24) -/

theorem served_eq_false {b q : Bool} (h : b = true ∨ q = false) : (!b && q) = false := by
  rcases h with h | h
  · rw [h]
    rfl
  · rw [h, Bool.and_false]

theorem served_ne_false {b q : Bool} (hb : ¬ b = true) (hq : ¬ q = false) : ¬ (!b && q) = false := by
  rw [Bool.not_eq_true] at hb
  rw [hb]
  exact hq

theorem doRegisterWrite_unserved {a : RegAddr} (w : Word) (h : d.regServed a = false) : doRegisterWrite d a w = d := by
  unfold doRegisterWrite
  exact if_pos h

theorem doRegisterWrite_control (f off size : Nat) (w : Word) :
    doRegisterWrite d (.control f off size) w = if off / 8 = 0xA00 then d.writeWindow f off size w.toNat else d.ctlWrite f off size w.toNat (fun d => d.writeWindow f off size w.toNat) := rfl

/-- With no write of the function waiting, a control write acts at once. -/
theorem doRegisterWrite_control_now {f : Nat} (h : ∀ x ∈ d.host.wins, x.func = f → x.job.isWrite = false ∧ x.job.isCtl = false) (off size : Nat) (w : Word) :
    doRegisterWrite d (.control f off size) w = d.writeWindow f off size w.toNat := by
  rw [doRegisterWrite_control, Dev.ctlWrite_now _ _ _ _ _ _ h, ite_self]

/-! ## Side-band writes of eight bytes -/

/-- Of eight aligned bytes below the firmware window, the register of their place is written. -/
theorem Dev.writeSideband_whole {addr : Nat} (hu : d.pwr.standby = true ∧ d.pwr.islandUp = true) (ha : addr < 0x10000) (h8 : addr % 8 = 0) (w : Nat) :
    d.writeSideband addr 8 w = (match addr / 8 * 8 with
      | 0x0008 => d.writeSbCtl addr 8 w
      | 0x0010 => { d with sb := { d.sb with alert := clearBits d.sb.alert (carriedBits addr 8 w) } }
      | 0x0018 => { d with sb := { d.sb with alertMask := mergeHalf d.sb.alertMask addr 8 w % 2 ^ 7 } }
      | 0x0020 => { d with sb := { d.sb with caveSel := mergeHalf d.sb.caveSel addr 8 w % 2 ^ 32 } }
      | 0x0028 => d.writeSbFwCtl addr 8 w
      | 0x0100 => d.writeBootReq addr 8 w
      | _ => d) := by
  unfold Dev.writeSideband
  dsimp only
  rw [d.sbUp_iff.2 hu, Bool.not_true, if_neg Bool.false_ne_true, if_neg (by omega), if_neg (by rw [h8]; decide)] <;> rfl

theorem Dev.writeSideband_ignored {addr size : Nat} (w : Nat)
    (h : ¬ (d.pwr.standby = true ∧ d.pwr.islandUp = true) ∨ (addr < 0x10000 ∧ size ≠ 4 ∧ size ≠ 8) ∨ (addr < 0x10000 ∧ addr % size ≠ 0)) : d.writeSideband addr size w = d := by
  unfold Dev.writeSideband
  dsimp only
  by_cases hu : d.pwr.standby = true ∧ d.pwr.islandUp = true
  · have hb : addr < 0x10000 ∧ (!(size == 4 || size == 8) || addr % size != 0) = true := by
      rcases h with h | ⟨h, h4, h8⟩ | ⟨h, hm⟩
      · exact absurd hu h
      · exact ⟨h, by simp [h4, h8]⟩
      · exact ⟨h, by simp [hm]⟩
    rw [d.sbUp_iff.2 hu, Bool.not_true, if_neg Bool.false_ne_true, if_neg (by omega), if_pos hb.2]
  · rw [Dev.sbUp_false hu]
    rfl

/-- Without the actions' bits a write of SB_CTL sets only the enable. -/
theorem Dev.writeSbCtl_quiet {w : Nat} (h0 : bit w 0 = false) (h2 : bit w 2 = false) : d.writeSbCtl 8 8 w = { d with sb := { d.sb with ibiEn := bit w 1 } } := by
  unfold Dev.writeSbCtl
  dsimp only
  rw [show carriedBits 8 8 w = w from rfl, if_pos (Or.inl rfl : 8 = 8 ∨ 8 % 8 = 0), h0, h2]
  rfl

/-- Without open and commit a write of SB_FW_CTL sets only the component and the length. -/
theorem Dev.writeSbFwCtl_quiet {w : Nat} (h2 : bit w 2 = false) (h3 : bit w 3 = false) : d.writeSbFwCtl 0x28 8 w = { d with sb := { d.sb with
    fwComp := bits w 1 0
    fwLength := min (bits w 27 4) maxImage } } := by
  unfold Dev.writeSbFwCtl
  rw [show carriedBits 0x28 8 w = w from rfl, if_neg (by decide), h2, h3]
  rfl

theorem Dev.writeBootReq_holds {w : Nat} (h : bit w 2 = true) : d.writeBootReq 0x100 8 w = { d with boot := { d.boot with
    memTest := bit w 0
    fullTrain := bit w 1
    hold := true } } := by
  unfold Dev.writeBootReq
  dsimp only
  rw [show carriedBits 0x100 8 w = w from rfl, if_neg (by decide), if_pos h, h]

/-! ## Control-window writes -/

theorem Dev.writeWindow_ignored {f off size : Nat} (w : Nat) (h : d.hostUp = false ∨ (size ≠ 4 ∧ size ≠ 8) ∨ off % size ≠ 0) : d.writeWindow f off size w = d := by
  unfold Dev.writeWindow
  rw [if_pos]
  rcases h with h | ⟨h4, h8⟩ | h
  · rw [h]
    rfl
  · simp [h4, h8]
  · simp [h]

/-- A whole register of the control window beyond the channels. -/
theorem Dev.writeWindow_register {f off : Nat} (hu : d.hostUp = true) (h8 : off % 8 = 0) (ho : 0x3000 ≤ off) (w : Nat) : d.writeWindow f off 8 w = d.writeControl f off 8 w := by
  unfold Dev.writeWindow
  rw [if_neg (by rw [hu, h8]; decide), if_neg (by omega)]

theorem Dev.writeWindow_send {f : Nat} (hu : d.hostUp = true) (w : Nat) : d.writeWindow f 0x200 4 w = doMbxSend d f 0 false (BitVec.ofNat 32 w) := by
  have hc : channelAt f 0x200 = some (0, false, 0x200) := by
    unfold channelAt
    rw [if_pos (by decide), if_pos (by split <;> decide)]
  unfold Dev.writeWindow
  rw [if_neg (by rw [hu]; decide), if_pos (by decide), hc]
  rfl

/-! ## Firmware through the side-band (R516) -/

/-- A restored copy starts the chip again: it is copy A of its component, and every other copy stays. -/
theorem doSbFwCommit_restores (hu : d.sbUp = true) (hh : d.fwHalted = true) (ho : d.sb.fwOpen = true) (ha : d.sec.accepts d.sb.fwComp (memRead d.sb.fwData 0 d.sb.fwLength) = true) :
    (doSbFwCommit d).boot.stage = 0 ∧ (doSbFwCommit d).boot.failed = false ∧ (doSbFwCommit d).boot.running = true ∧ (doSbFwCommit d).sb.fwOpen = false ∧ (doSbFwCommit d).sb.fwResult = 0 ∧
    smGet FwCopy.init (doSbFwCommit d).sec.fw (2 * d.sb.fwComp) = restoredCopy (memRead d.sb.fwData 0 d.sb.fwLength) (d.sec.seqAbove d.sb.fwComp) ∧
    (∀ j, j ≠ 2 * d.sb.fwComp → smGet FwCopy.init (doSbFwCommit d).sec.fw j = smGet FwCopy.init d.sec.fw j) := by
  unfold doSbFwCommit
  rw [hu, Bool.not_true, if_neg Bool.false_ne_true, if_neg (by rw [ho, hh]; decide)]
  dsimp only
  rw [ha, Bool.not_true, if_neg Bool.false_ne_true]
  generalize restoredCopy (memRead d.sb.fwData 0 d.sb.fwLength) (d.sec.seqAbove d.sb.fwComp) = c
  generalize hx : ({ d with
    sec := d.sec.setCopy d.sb.fwComp 0 c
    sb := { d.sb with
      fwResult := rOk
      fwOpen := false } } : Dev) = x
  obtain ⟨-, hb⟩ := x.startAgain_again
  obtain ⟨h1, h2, h3⟩ := x.startAgain_keeps
  rw [hb, h1, h2, h3, ← hx]
  exact ⟨rfl, rfl, rfl, rfl, rfl, smGet_set_same _ _ _ _, fun j hj => smGet_set_other _ _ _ _ _ hj⟩

end

/-- Settles O48. -/
theorem powerAndModuleRows : Obligations.PowerAndModuleRows := by
  intro s o tj amps mv lost w op meth adr
  refine ⟨?curve, ?sampleOff, ?sample, ⟨?fastIdle, ?fast⟩, ⟨?tripIdle, ?trip⟩, ⟨?standbyIdle, ?standby⟩, ⟨?chargedIdle, ?charged⟩, ⟨?mainLow, ?main⟩, ?rails, ?failIdle, ?fail, ?failOrder,
    ⟨?holdIdle, ?hold⟩, ⟨?resetIdle, ?reset, ?wasReset⟩, ⟨?flushIdle, ?flush⟩, ⟨?fwDown, ?fw⟩, ⟨?jtagOff, ?jtag⟩, ?regs, ?flips, ?sbIgnored, ?sb, ?control, ?controlWaits⟩
  case curve => decide
  case sampleOff =>
    exact fun h => congrArg s.next (if_pos (by rw [h]; rfl))
  case sample =>
    intro hi
    refine ⟨_, rfl, rfl, ?_⟩
    obtain ⟨tt, m, st, lim, cw, hp⟩ := doPowerSample_records (d := s.dev) o hi
    refine ⟨(congrArg Power.tj hp).trans rfl, (congrArg Power.powerW hp).trans rfl, (congrArg Power.power100 hp).trans rfl, (congrArg Power.inputMv hp).trans rfl,
      (congrArg Power.inputDa hp).trans rfl, (congrArg Power.energy hp).trans rfl, fun h0 => ?_, fun h0 ht => ?_, fun h0 ht hh => ?_⟩
    · exact (congrArg Power.coreMv (doPowerSample_idle hi h0)).trans h0
    · obtain ⟨⟨cw, hp⟩, hf⟩ := doPowerSample_cool hi h0 ht
      have hst : (doPowerSample s.dev o).pwr.stepMsps = rateWithin s.dev.pwr.coreMv (hottest o.tj) o.step := (congrArg Power.stepMsps hp).trans (if_neg h0)
      refine ⟨(congrArg Power.coreMv hp).trans rfl, fun hh => (congrArg Power.limits hp).trans (if_pos hh), hst, ?_, fun hh => (congrArg Power.limits hp).trans ?_, hf⟩
      · exact (congrArg Power.steps hp).trans ((if_neg h0).trans (congrArg (fun x => s.dev.pwr.steps + 50 * x) hst.symm))
      · exact if_neg (by rw [hh]; exact Bool.false_ne_true)
    · have hp := (doPowerSample_hot hi h0 ht).2 hh
      exact ⟨(congrArg Power.coreMv hp).trans rfl, (congrArg Power.thermtrip hp).trans rfl⟩
  case fastIdle => exact fun h => congrArg s.next (if_pos h)
  case fast => exact fun h0 ha => ⟨_, rfl, rfl, doCurrentFastPath_lowers h0 ha⟩
  case tripIdle => exact fun h => congrArg s.next (if_pos h)
  case trip => exact fun h0 ht hh => ⟨_, rfl, rfl, doThermalTrip_trips h0 ht hh⟩
  case standbyIdle => exact fun h => congrArg s.next (if_pos (Bool.or_eq_true_iff.2 h))
  case standby => exact fun hs hf => ⟨_, rfl, rfl, doStandbyPowerOn_starts hs hf⟩
  case chargedIdle =>
    refine fun h => congrArg s.next (if_pos (Bool.or_eq_true_iff.2 (h.imp (fun hs => ?_) id)))
    rw [hs]
    rfl
  case charged =>
    intro hs hh
    exact congrArg s.next (if_neg (by rw [hs, hh]; decide))
  case mainLow =>
    exact fun h => congrArg s.next (if_pos (by simpa using h))
  case main =>
    intro hm hp
    exact congrArg s.next (if_neg (by rw [hp]; simpa using hm))
  case rails =>
    refine fun g => ⟨fun h => if_pos ((Dev.tryRails_iff g).2 h), fun h => if_neg (fun e => h ((Dev.tryRails_iff g).1 e)), Dev.railsUp_starts⟩
  case failIdle =>
    rintro ⟨h1, h2⟩
    refine congrArg s.next (if_pos ?_)
    cases lost with
    | true => exact (congrArg (!·) (h1 rfl)).trans rfl
    | false => exact (congrArg (!·) (h2 rfl)).trans rfl
  case fail =>
    intro h
    have hn : ¬ (if lost = true then !s.dev.pwr.standby else !s.dev.pwr.main) = true := by
      rcases h with ⟨hl, hs⟩ | ⟨hl, hm⟩
      · rw [hl, if_pos rfl, hs]
        exact Bool.false_ne_true
      · rw [hl, if_neg Bool.false_ne_true, hm]
        exact Bool.false_ne_true
    refine ⟨fun hf => congrArg s.next ((if_neg hn).trans (if_pos ?_)), fun hi hf => congrArg s.next ((if_neg hn).trans (if_neg ?_))⟩
    · refine Bool.or_eq_true_iff.2 (hf.imp (fun hi => ?_) id)
      rw [hi]
      rfl
    · rw [hi, hf]
      decide
  case failOrder =>
    intro g
    obtain ⟨-, -, h3, h4, h5, h6, h7, -, -, h10⟩ := Dev.cycled_blocks { g with
      boot := { g.boot.cycled g.timer.toNat with running := false }
      rrc := { g.rrc with pwrcycWanted := false } }
    exact ⟨h4, h5, h6, h7, (congrArg Boot.stage h3).trans rfl, h10, Dev.powerFails_eq g⟩
  case holdIdle =>
    intro h
    refine congrArg s.next (if_pos (Bool.or_eq_true_iff.2 ?_))
    rcases h with ⟨hm, hs, hf⟩ | hi
    · refine .inl ?_
      rw [hm, hs, hf]
      rfl
    · refine .inr ?_
      rw [hi]
      rfl
  case hold =>
    intro hn hi
    have hb : ¬ (s.dev.pwr.main && s.dev.pwr.standby && !s.dev.pwr.failing || !s.dev.pwr.islandUp) = true := by
      rw [hi]
      simpa [and_assoc] using hn
    exact ⟨fun hs => congrArg s.next ((if_neg hb).trans (if_pos hs)), fun hs => congrArg s.next ((if_neg hb).trans (if_neg (by rw [hs]; exact Bool.false_ne_true)))⟩
  case resetIdle =>
    intro h
    refine congrArg s.next (if_neg (fun e => h ?_))
    obtain ⟨hu, hm⟩ := Bool.and_eq_true_iff.1 e
    exact ⟨(Dev.sbUp_iff _).1 hu, hm⟩
  case reset => exact fun hu hm => congrArg s.next (if_pos (Bool.and_eq_true_iff.2 ⟨(Dev.sbUp_iff _).2 hu, hm⟩))
  case wasReset =>
    intro hu hm hb ho
    exact ⟨_, congrArg s.next (if_pos (Bool.and_eq_true_iff.2 ⟨(Dev.sbUp_iff _).2 hu, hm⟩)), rfl, Dev.chipReset_was hb hu.2 ho 0 true false⟩
  case flushIdle =>
    intro h
    refine congrArg s.next (if_neg (fun e => ?_))
    obtain ⟨hu, hc⟩ := Bool.and_eq_true_iff.1 e
    exact h.elim (fun h => h ((Dev.sbUp_iff _).1 hu)) (fun h => bne_iff_ne.1 hc h)
  case flush => exact fun hu hc => congrArg s.next (if_pos (Bool.and_eq_true_iff.2 ⟨(Dev.sbUp_iff _).2 hu, bne_iff_ne.2 hc⟩))
  case fwDown =>
    intro h
    have hu : s.dev.sbUp = false := Dev.sbUp_false h
    exact ⟨congrArg s.next (if_pos (by rw [hu]; rfl)), congrArg s.next (if_pos (by rw [hu]; rfl)), congrArg s.next (if_neg (by rw [hu]; exact Bool.false_ne_true))⟩
  case fw =>
    intro hup
    have hu : s.dev.sbUp = true := (Dev.sbUp_iff _).2 hup
    have hn : ¬ (!s.dev.sbUp) = true := by
      rw [hu]
      exact Bool.false_ne_true
    refine ⟨fun hh => ?_, fun hh => ?_, fun hh => ?_, fun hh ho ha => ?_, fun hh ho ha => ?_, congrArg s.next (if_pos hu)⟩
    · exact congrArg s.next ((if_neg hn).trans (if_pos ((Dev.fwHalted_iff _).2 hh)))
    · exact congrArg s.next ((if_neg hn).trans (if_neg (fun e => hh ((Dev.fwHalted_iff _).1 e))))
    · refine congrArg s.next ((if_neg hn).trans (if_pos (?_ : (!s.dev.sb.fwOpen || !s.dev.fwHalted) = true)))
      rw [← Bool.not_and, Bool.not_eq_true', ← Bool.not_eq_true, Bool.and_eq_true, Dev.fwHalted_iff]
      exact fun ⟨h1, h2⟩ => hh ⟨h2, h1⟩
    · refine congrArg s.next ((if_neg hn).trans ((if_neg ?_).trans (if_pos ?_)))
      · rw [ho, (Dev.fwHalted_iff _).2 hh]
        decide
      · rw [ha]
        rfl
    · exact ⟨_, rfl, rfl, doSbFwCommit_restores hu ((Dev.fwHalted_iff _).2 hh) ho ha⟩
  case jtagOff => exact fun h => congrArg s.next (if_neg (by rw [h]; exact Bool.false_ne_true))
  case jtag =>
    intro h
    refine congrArg s.next ((if_pos h).trans ?_)
    cases op with
    | bypass => rfl
    | idcode => rfl
    | sample => rfl
    | extest => rfl
    | internal => rfl
  case regs =>
    intro pl node slot i g dst c
    refine ⟨fun a ha h => ?_, fun hl => ⟨?_, ?_⟩, rfl, fun hl hq => ?_, fun hl hq => ?_, fun hl ho => ?_⟩
    · refine congrArg s.next (doRegisterWrite_unserved w ?_)
      simp only [List.mem_cons, List.not_mem_nil, or_false] at ha
      rcases ha with rfl | rfl | rfl | rfl | rfl | rfl | rfl
      all_goals exact served_eq_false h
    · exact congrArg s.next (doRegisterWrite_unserved w (served_eq_false (.inl hl)))
    · exact congrArg s.next (doRegisterWrite_unserved w (served_eq_false (.inl hl)))
    · have hq' : ¬ s.dev.meshQuiet = true := fun e => hq ((Dev.meshQuiet_iff _).1 e)
      exact ⟨congrArg s.next ((if_neg (served_ne_false hl Bool.noConfusion)).trans (if_neg hq')), congrArg s.next ((if_neg (served_ne_false hl Bool.noConfusion)).trans (if_neg hq'))⟩
    · have hq' : s.dev.meshQuiet = true := (Dev.meshQuiet_iff _).2 hq
      exact ⟨congrArg s.next ((if_neg (served_ne_false hl Bool.noConfusion)).trans (if_pos hq')), congrArg s.next ((if_neg (served_ne_false hl Bool.noConfusion)).trans (if_pos hq'))⟩
    · exact ⟨congrArg s.next (if_neg (served_ne_false hl ho)), congrArg s.next (if_neg (served_ne_false hl ho)), congrArg s.next (if_neg (served_ne_false hl ho)),
        congrArg s.next (if_neg (served_ne_false hl ho)), congrArg s.next (if_neg (served_ne_false hl ho)), congrArg s.next (if_neg (served_ne_false hl ho)),
        congrArg s.next (if_neg (served_ne_false hl ho))⟩
  case flips =>
    intro blk node slot chk
    refine ⟨fun h => congrArg s.next ?_, fun ⟨hl, ho⟩ hf => congrArg s.next ((if_neg (served_ne_false (by rw [hl]; exact Bool.false_ne_true) (by rw [ho]; exact Bool.noConfusion))).trans ((if_neg (by rw [hf]; decide)).trans ?_))⟩
    · by_cases hs : s.dev.regServed (.flip blk node slot chk) = false
      · exact if_pos hs
      · refine (if_neg hs).trans (if_pos ?_)
        rcases h with h | h
        · rw [h]
          rfl
        · refine absurd (served_eq_false ?_) hs
          rw [← Bool.not_eq_true, ← Bool.not_eq_false]
          by_contra hc
          exact h (by simpa [not_or] using hc)
    · cases chk with
      | true => rfl
      | false => rfl
  case sbIgnored => exact fun a n h => congrArg s.next (Dev.writeSideband_ignored w.toNat h)
  case sb =>
    intro hu
    refine ⟨?_, ?_, ?_, fun h => ?_, fun h0 h2 => ?_, fun h2 h3 => ?_, ?_, ?_, ?_⟩
    all_goals refine congrArg s.next ((Dev.writeSideband_whole hu (by decide) (by decide) w.toNat).trans ?_)
    · rfl
    · rfl
    · rfl
    · exact Dev.writeBootReq_holds h
    · exact Dev.writeSbCtl_quiet h0 h2
    · exact Dev.writeSbFwCtl_quiet h2 h3
    · rfl
    · rfl
    · rfl
  case control =>
    intro f hq
    refine ⟨fun a n h => congrArg s.next ((doRegisterWrite_control_now hq a n w).trans (Dev.writeWindow_ignored w.toNat h)), fun hu => ⟨?_, ?_, ?_, ?_⟩⟩
    · exact congrArg s.next ((doRegisterWrite_control_now hq 0x3018 8 w).trans (Dev.writeWindow_register hu (by decide) (by decide) w.toNat))
    · refine congrArg s.next (((doRegisterWrite_control_now hq 0x4000 8 w).trans (Dev.writeWindow_register hu (by decide) (by decide) w.toNat)).trans ?_)
      exact congrArg (doHdmaRingWrite s.dev f) (BitVec.ofNat_toNat 64 w)
    · refine congrArg s.next (((doRegisterWrite_control_now hq 0x5000 8 w).trans (Dev.writeWindow_register hu (by decide) (by decide) w.toNat)).trans ?_)
      exact congrArg (doHostWinCfgWrite s.dev f) (BitVec.ofNat_toNat 64 w)
    · exact congrArg s.next ((doRegisterWrite_control_now hq 0x200 4 w).trans (Dev.writeWindow_send hu w.toNat))
  case controlWaits =>
    intro f a n hu hw ha
    exact congrArg s.next ((if_neg ha).trans (Dev.ctlWrite_waits _ _ _ _ _ _ hu hw))

end Sys2Proof.Machine
end

section
/-! PROOFS. What the fabric manager's agent sends and heeds, and the two lowest keys (09_fabric_manager.md R267, R269, R300). -/

namespace Sys2Proof.Machine

section
variable {d : Dev}

/-! ## Messages sent -/

theorem Dev.send_frame (d : Dev) (m : FmMsg) : ∃ q, d.send m = { d with
    fm := { d.fm with out := d.fm.out ++ [m] }
    ports := q } := by
  unfold Dev.send
  dsimp only
  split
  · split
    · exact ⟨_, rfl⟩
    · exact ⟨_, rfl⟩
  · exact ⟨_, rfl⟩

/-- A message that names no port leaves every port as it was. -/
theorem Dev.send_far {m : FmMsg} (h : m.port = none) (d : Dev) : d.send m = { d with fm := { d.fm with out := d.fm.out ++ [m] } } := by
  unfold Dev.send
  rw [h]

theorem Dev.heardAt_frame (d : Dev) (p : Nat) : ∃ q, d.heardAt p = { d with ports := q } := by
  unfold Dev.heardAt
  split
  · exact ⟨_, rfl⟩
  · exact ⟨_, rfl⟩

/-- Messages sent one after another leave in that order. -/
theorem foldl_send_frame {α : Type} {f : Dev → α → FmMsg} {g : α → FmMsg} (l : List α) (d : Dev)
    (hf : ∀ (o : List FmMsg) (q : SMap Port) (a : α), f { d with
      fm := { d.fm with out := o }
      ports := q } a = g a) :
    ∃ q, l.foldl (fun e a => e.send (f e a)) d = { d with
      fm := { d.fm with out := d.fm.out ++ l.map g }
      ports := q } := by
  induction l generalizing d with
  | nil => exact ⟨d.ports, by simp⟩
  | cons a l ih =>
    obtain ⟨q, e⟩ := d.send_frame (f d a)
    obtain ⟨q', e'⟩ := ih (d.send (f d a)) (fun o r a => by
      rw [e]
      exact hf o r a)
    refine ⟨q', e'.trans ?_⟩
    rw [e, hf d.fm.out d.ports a]
    simp

/-- The same of messages that name no port: nothing else changes. -/
theorem foldl_send_far {α : Type} {f : Dev → α → FmMsg} {g : α → FmMsg} (hp : ∀ a, (g a).port = none) (l : List α) (d : Dev)
    (hf : ∀ (o : List FmMsg) (a : α), f { d with fm := { d.fm with out := o } } a = g a) :
    l.foldl (fun e a => e.send (f e a)) d = { d with fm := { d.fm with out := d.fm.out ++ l.map g } } := by
  induction l generalizing d with
  | nil => simp
  | cons a l ih =>
    have e : d.send (f d a) = { d with fm := { d.fm with out := d.fm.out ++ [g a] } } := by
      rw [show f d a = g a from hf d.fm.out a, Dev.send_far (hp a)]
    rw [List.foldl_cons, e]
    refine (ih { d with fm := { d.fm with out := d.fm.out ++ [g a] } } (fun o a => hf o a)).trans ?_
    simp

/-! ## Epochs (R269) -/

theorem Dev.learnEpoch_known {e : Nat} (h : e ≤ d.fm.epoch) : d.learnEpoch e = d := if_pos h

theorem Dev.learnEpoch_member {e : Nat} (hr : d.fm.role ≤ 2) (he : d.fm.epoch ≤ e) : d.learnEpoch e = { d with fm := { d.fm with epoch := e } } := by
  unfold Dev.learnEpoch
  by_cases h : e ≤ d.fm.epoch
  · obtain rfl := Nat.le_antisymm h he
    exact if_pos h
  · rw [if_neg h, if_neg (by omega)]

/-- A manager that learns of a higher epoch is one no more. -/
theorem Dev.learnEpoch_manager {e : Nat} (hr : d.fm.role = 3 ∨ d.fm.role = 4) (he : d.fm.epoch < e) : d.learnEpoch e = { d with fm := { d.fm.demoted with epoch := e } } := by
  unfold Dev.learnEpoch
  rw [if_neg (Nat.not_le.2 he), if_pos hr]

/-- What a module keeps whatever epoch it learns. -/
theorem Dev.learnEpoch_frame {e : Nat} (he : d.fm.epoch ≤ e) : ∃ y, d.learnEpoch e = { d with fm := y } ∧ y.epoch = e ∧ y.out = d.fm.out ∧ y.waiting = d.fm.waiting ∧ y.cfg = d.fm.cfg ∧
    y.key2 = d.fm.key2 ∧ (y.role = 2 → d.fm.role = 2) := by
  by_cases hk : e ≤ d.fm.epoch
  · exact ⟨d.fm, Dev.learnEpoch_known hk, Nat.le_antisymm he hk, rfl, rfl, rfl, rfl, id⟩
  · by_cases hr : d.fm.role = 3 ∨ d.fm.role = 4
    · exact ⟨_, Dev.learnEpoch_manager hr (Nat.not_le.1 hk), rfl, rfl, rfl, rfl, rfl, fun h => absurd (show 1 = 2 from h) (by decide)⟩
    · refine ⟨{ d.fm with epoch := e }, ?_, rfl, rfl, rfl, rfl, rfl, id⟩
      unfold Dev.learnEpoch
      rw [if_neg hk, if_neg hr]

/-- A message whose epoch is not behind is acted on and acknowledged. -/
theorem Dev.heed_acts {e : Nat} (hu : d.fmUp = true) (he : d.fm.epoch ≤ e) (p : FmPeer) (act : Dev → Dev) :
    d.heed p e act = (act (d.learnEpoch e)).send (.mgtr p (act (d.learnEpoch e)).fm.epoch 0) := by
  unfold Dev.heed
  rw [hu, Bool.not_true, if_neg Bool.false_ne_true, if_neg (Nat.not_lt.2 he)]

theorem Dev.heed_behind {e : Nat} (hu : d.fmUp = true) (he : e < d.fm.epoch) (c : Nat) (act : Dev → Dev) :
    d.heed (.chip c) e act = { d with fm := { d.fm with out := d.fm.out ++ [.mgtr (.chip c) d.fm.epoch 1] } } := by
  unfold Dev.heed
  rw [hu, Bool.not_true, if_neg Bool.false_ne_true, if_pos he]
  exact Dev.send_far rfl d

/-- What a message from a chip does, and its acknowledgement. -/
theorem Dev.heed_chip {e c : Nat} {b : Dev} {act : Dev → Dev} (hu : d.fmUp = true) (he : d.fm.epoch ≤ e) (hb : act (d.learnEpoch e) = b) :
    d.heed (.chip c) e act = { b with fm := { b.fm with out := b.fm.out ++ [.mgtr (.chip c) b.fm.epoch 0] } } := by
  rw [Dev.heed_acts hu he, hb]
  exact Dev.send_far rfl b

theorem Dev.managing_iff (x : FM) : x.managing = true ↔ x.role = 3 ∧ x.control = true := by
  unfold FM.managing
  rw [Bool.and_eq_true, beq_iff_eq]

/-! ## Requests that wait, the manager known -/

theorem Dev.flushWaiting_none (h : d.fm.waiting = []) : d.flushWaiting = d := by
  unfold Dev.flushWaiting
  dsimp only
  rw [h]
  exact congrArg (fun w => { d with fm := { d.fm with waiting := w } }) h.symm

theorem Dev.knowMgr_same {c : Nat} (hc : d.fm.mgr = c) (hr : d.fm.role ≠ 0) : d.knowMgr c = d := if_pos ⟨hc, hr⟩

/-- A manager not known before is an event of the physical function; nothing else changes. -/
theorem Dev.knowMgr_frame (d : Dev) (c : Nat) : ∃ h, d.knowMgr c = { d with
    fm := { d.fm with mgr := c }
    host := h } ∧ (d.fm.mgr = c → d.fm.role ≠ 0 → h = d.host) := by
  unfold Dev.knowMgr
  split
  · rename_i h
    refine ⟨d.host, ?_, fun _ _ => rfl⟩
    rw [← h.1]
  · rename_i h
    exact ⟨_, Dev.event_frame _ _ _, fun h1 h2 => absurd ⟨h1, h2⟩ h⟩

/-! ## The two lowest keys (R267) -/

theorem keyLt_iff {a b : ElKey} : keyLt a b = true ↔ a.prio < b.prio ∨ (a.prio = b.prio ∧ a.serial < b.serial) := by
  unfold keyLt
  simp

theorem keyLt_trans {a b c : ElKey} (h : keyLt a b = true) (h' : keyLt b c = true) : keyLt a c = true := by
  rw [keyLt_iff] at *
  omega

theorem keyLt_total {a b : ElKey} (hne : a ≠ b) (h : ¬ keyLt a b = true) : keyLt b a = true := by
  have hs : ¬ (a.prio = b.prio ∧ a.serial = b.serial) := fun ⟨hp, hs⟩ => hne (by
    cases a
    cases b
    subst hp
    subst hs
    rfl)
  rw [keyLt_iff] at *
  omega

theorem keyLt_irrefl (a : ElKey) : ¬ keyLt a a = true := by
  rw [keyLt_iff]
  omega

/-- The two lowest keys of a set are the lowest, and the lowest of the rest. -/
def LowestTwo (S : ElKey → Prop) (p : Option ElKey × Option ElKey) : Prop := LeastKey S p.1 ∧ LeastKey (fun k => S k ∧ some k ≠ p.1) p.2

theorem LeastKey.congr {S T : ElKey → Prop} (h : ∀ k, S k ↔ T k) {o : Option ElKey} (hl : LeastKey S o) : LeastKey T o := by
  cases o with
  | none => exact fun k hk => hl k ((h k).2 hk)
  | some m => exact ⟨(h m).1 hl.1, fun k hk => hl.2 k ((h k).2 hk)⟩

theorem LowestTwo.congr {S T : ElKey → Prop} (h : ∀ k, S k ↔ T k) {p : Option ElKey × Option ElKey} (hl : LowestTwo S p) : LowestTwo T p :=
  ⟨hl.1.congr h, hl.2.congr (fun k => and_congr_left' (h k))⟩

/-- A key below the lowest takes its place, and the lowest is the second. -/
theorem LowestTwo.below {S : ElKey → Prop} {a k : ElKey} (ha : LeastKey S (some a)) (hk : keyLt k a = true) : LowestTwo (fun j => S j ∨ j = k) (some k, some a) := by
  have hak : a ≠ k := by
    rintro rfl
    exact keyLt_irrefl a hk
  refine ⟨⟨.inr rfl, fun j hj => ?_⟩, ⟨⟨.inl ha.1, fun e => hak (Option.some.inj e)⟩, fun j ⟨hj, hjk⟩ => ?_⟩⟩
  · rcases hj with hj | rfl
    · rcases ha.2 j hj with rfl | hj
      · exact .inr hk
      · exact .inr (keyLt_trans hk hj)
    · exact .inl rfl
  · rcases hj with hj | rfl
    · exact ha.2 j hj
    · exact absurd rfl hjk

/-- A key above the lowest leaves it the lowest. -/
theorem LeastKey.above {S : ElKey → Prop} {a k : ElKey} (ha : LeastKey S (some a)) (hk : keyLt a k = true) : LeastKey (fun j => S j ∨ j = k) (some a) := by
  refine ⟨.inl ha.1, fun j hj => ?_⟩
  rcases hj with hj | rfl
  · exact ha.2 j hj
  · exact .inr hk

theorem LowestTwo.putKey {S : ElKey → Prop} {p : Option ElKey × Option ElKey} (h : LowestTwo S p) (k : ElKey) : LowestTwo (fun j => S j ∨ j = k) (putKey k p) := by
  obtain ⟨h1, h2⟩ := h
  have known : S k → LowestTwo (fun j => S j ∨ j = k) p := fun hk => LowestTwo.congr (fun j => ⟨.inl, fun hj => hj.elim id (fun e => e ▸ hk)⟩) ⟨h1, h2⟩
  match p, h1, h2, known with
  | (none, _), h1, _, _ => exact ⟨⟨.inr rfl, fun j hj => hj.elim (fun hj => absurd hj (h1 j)) .inl⟩, fun j ⟨hj, hk⟩ => hj.elim (h1 j) (fun e => hk (congrArg some e))⟩
  | (some a, none), h1, h2, known =>
    unfold Machine.putKey
    dsimp only
    have only : ∀ j, S j → j = a := fun j hj => by
      by_contra hne
      exact h2 j ⟨hj, fun e => hne (Option.some.inj e)⟩
    split
    · exact known (‹k = a› ▸ h1.1)
    · rename_i hne
      split
      · exact .below h1 ‹_›
      · refine ⟨h1.above (keyLt_total hne ‹_›), ⟨⟨.inr rfl, fun e => hne (Option.some.inj e)⟩, fun j ⟨hj, hja⟩ => .inl ?_⟩⟩
        exact hj.elim (fun hj => absurd (congrArg some (only j hj)) hja) id
  | (some a, some b), h1, h2, known =>
    unfold Machine.putKey
    dsimp only
    split
    · rename_i hk
      exact known (hk.elim (fun e => e ▸ h1.1) (fun e => e ▸ h2.1.1))
    · rename_i hne
      rw [not_or] at hne
      split
      · exact .below h1 ‹_›
      · have hak : keyLt a k = true := keyLt_total hne.1 ‹_›
        split
        · refine ⟨h1.above hak, ⟨⟨.inr rfl, fun e => hne.1 (Option.some.inj e)⟩, fun j ⟨hj, hja⟩ => ?_⟩⟩
          rcases hj with hj | rfl
          · rcases h2.2 j ⟨hj, hja⟩ with rfl | hj
            · exact .inr ‹_›
            · exact .inr (keyLt_trans ‹_› hj)
          · exact .inl rfl
        · refine ⟨h1.above hak, ⟨⟨.inl h2.1.1, h2.1.2⟩, fun j ⟨hj, hja⟩ => ?_⟩⟩
          rcases hj with hj | rfl
          · exact h2.2 j ⟨hj, hja⟩
          · exact .inr (keyLt_total hne.2 ‹_›)

/-- The keys that a beacon carries, taken in. -/
def putKeys (k1 k2 : Option ElKey) (p : Option ElKey × Option ElKey) : Option ElKey × Option ElKey :=
  let put (k : Option ElKey) (p : Option ElKey × Option ElKey) : Option ElKey × Option ElKey :=
    match k with | some x => putKey x p | none => p
  put k2 (put k1 p)

theorem LowestTwo.putKeys {S : ElKey → Prop} {p : Option ElKey × Option ElKey} (h : LowestTwo S p) (k1 k2 : Option ElKey) :
    LowestTwo (fun j => S j ∨ some j = k1 ∨ some j = k2) (putKeys k1 k2 p) := by
  cases k1 with
  | none =>
    cases k2 with
    | none => exact h.congr (fun j => by simp)
    | some b => exact (h.putKey b).congr (fun j => by simp)
  | some a =>
    cases k2 with
    | none => exact (h.putKey a).congr (fun j => by simp)
    | some b => exact ((h.putKey a).putKey b).congr (fun j => by simp [or_assoc])

end

end Sys2Proof.Machine
end

section
/-! PROOFS. Beacons, elections, heartbeats, takeover and take-back (09_fabric_manager.md R266-R275). -/

namespace Sys2Proof.Machine

section
variable {d : Dev}

/-! ## Elections (R267, R268) -/

/-- A beacon of an election: lower keys and a higher epoch are taken in, and the relay is the port that brought a new lowest key. -/
theorem doBeacon_electing {port ep : Nat} {k1 k2 : Option ElKey} (hu : d.fmUp = true) (hp : d.portUp port = true) (hr : d.fm.role = 0) :
    ∃ q, doBeacon d port k1 k2 ep = { d with
      fm := { d.fm with
        key1 := (putKeys k1 k2 (d.fm.key1, d.fm.key2)).1
        key2 := (putKeys k1 k2 (d.fm.key1, d.fm.key2)).2
        epoch := max d.fm.epoch ep
        relay := if (putKeys k1 k2 (d.fm.key1, d.fm.key2)).1 = d.fm.key1 then d.fm.relay else port
        out := d.fm.out ++ [.mgtr (.port port) (max d.fm.epoch ep) 0] }
      ports := q } := by
  unfold doBeacon
  rw [hu, hp, hr, if_neg (by decide), if_neg (by decide)]
  obtain ⟨q, hh⟩ := d.heardAt_frame port
  obtain ⟨q', hs⟩ := Dev.send_frame { d with ports := q } (.mgtr (.port port) (max d.fm.epoch ep) 0)
  rw [hh, hs]
  exact ⟨q', rfl⟩

/-- A module that begins to take control announces the next epoch to every chip of the fabric. -/
theorem Dev.takeControl_announces {cs : List Nat} (hc : cs = d.fabricChips) (hn : cs.filter (fun c => c != d.fm.mgr) ≠ []) :
    d.takeControl = { d with fm := { d.fm with
      role := 4
      control := false
      epoch := (d.fm.epoch + 1) % 2 ^ 32
      mgr := d.fm.chip
      acks := cs.filter (fun c => c != d.fm.mgr)
      standby := none
      syncWait := false
      held := []
      mgtTags := d.fm.mgtTags ++ cs
      out := d.fm.out ++ cs.map (fun c => .takeover c ((d.fm.epoch + 1) % 2 ^ 32) d.fm.chip) } } := by
  unfold Dev.takeControl
  dsimp only
  rw [← hc, if_neg hn]
  exact foldl_send_far (f := fun e c => .takeover c e.fm.epoch e.fm.chip) (g := fun c => .takeover c ((d.fm.epoch + 1) % 2 ^ 32) d.fm.chip) (fun _ => rfl) cs _ (fun _ _ => rfl)

/-- The neighbour table goes to the manager along the relay. -/
theorem Dev.sendTable_frame (d : Dev) : ∃ q, d.sendTable = { d with
    fm := { d.fm with out := d.fm.out ++ [.neighbours d.fm.relay d.fm.epoch d.ownReport] }
    ports := q } := d.send_frame _

/-! ## ALIVE (R268) -/

theorem doAlive_joins {ep chip : Nat} (hu : d.fmUp = true) (he : d.fm.epoch ≤ ep) (hr : d.fm.role ≤ 2) (hw : d.fm.waiting = []) :
    ∃ h q, doAlive d ep chip = { d with
      fm := { d.fm with
        epoch := ep
        mgr := chip
        unmanaged := false
        role := if d.fm.role = 0 then 1 else d.fm.role
        out := d.fm.out ++ (if d.fm.role = 0 then [.neighbours d.fm.relay ep d.ownReport] else []) ++ [.mgtr (.chip chip) ep 0] }
      host := h
      ports := q } ∧ (d.fm.mgr = chip → d.fm.role ≠ 0 → h = d.host) := by
  unfold doAlive
  have hn : ¬ (d.fm.role = 3 ∨ d.fm.role = 4) := by omega
  rw [Dev.heed_acts hu he, Dev.learnEpoch_member hr he]
  dsimp only
  rw [if_neg hn]
  obtain ⟨h, hk, hh⟩ := Dev.knowMgr_frame { d with fm := { d.fm with epoch := ep } } chip
  rw [hk]
  generalize hb : ({ d with
    fm := { d.fm with
      epoch := ep
      mgr := chip
      unmanaged := false
      role := if d.fm.role = 0 then 1 else d.fm.role }
    host := h } : Dev) = b
  have hf : (if d.fm.epoch < ep ∨ d.fm.role = 0 then b.flushWaiting else b) = b := by
    split
    · exact Dev.flushWaiting_none (by rw [← hb]; exact hw)
    · rfl
  rw [hf]
  by_cases h0 : d.fm.role = 0
  · simp only [if_pos h0] at hb ⊢
    obtain ⟨q, ht⟩ := b.sendTable_frame
    refine ⟨h, q, ?_, hh⟩
    rw [ht, Dev.send_far rfl, ← hb]
    simp only [List.append_assoc]
    rfl
  · simp only [if_neg h0] at hb ⊢
    refine ⟨h, d.ports, ?_, hh⟩
    rw [Dev.send_far rfl, ← hb]
    simp only [List.append_nil]

/-! ## The mirror (R272, R273) -/

/-- What of the agent's state a mirror does not carry. -/
theorem Dev.loadMirror_frame (d : Dev) : ∃ ms xs ext rm ls ns j ws, d.loadMirror = { d with fm := { d.fm with
      modules := ms
      extents := ext
      ringMask := rm
      slices := xs
      listed := ls
      nextSlice := ns
      journal := j
      waiting := ws } } ∧
    ∀ st, d.fm.mirror = some st → xs = st.slices.map (fun y => { y with waiter := y.waiter.map d.homeReq }) ∧ ls = st.listed ∧ ns = st.nextSlice ∧ ext = st.extents := by
  unfold Dev.loadMirror
  cases hm : d.fm.mirror with
  | none => exact ⟨d.fm.modules, d.fm.slices, d.fm.extents, d.fm.ringMask, d.fm.listed, d.fm.nextSlice, d.fm.journal, d.fm.waiting, rfl, fun _ h => nomatch h⟩
  | some st =>
    refine ⟨_, _, _, _, _, _, _, _, rfl, fun st' h => ?_⟩
    obtain rfl := Option.some.inj h
    exact ⟨rfl, rfl, rfl, rfl⟩

theorem Dev.mergeOwn_frame (d : Dev) : ∃ ms, d.mergeOwn = { d with fm := { d.fm with modules := ms } } := ⟨_, rfl⟩

/-- The standby that takes over announces itself with what it has mirrored. -/
theorem doHeartbeatLoss_takes {b : Dev} {cs : List Nat} (hu : d.fmUp = true) (hr : d.fm.role = 2) (hb : b = d.loadMirror.mergeOwn) (hc : cs = b.fabricChips)
    (hn : cs.filter (fun c => c != d.fm.mgr) ≠ []) :
    ∃ x, doHeartbeatLoss d = { d with fm := x } ∧ x.role = 4 ∧ x.epoch = (d.fm.epoch + 1) % 2 ^ 32 ∧ x.mgr = d.fm.chip ∧ x.acks = cs.filter (fun c => c != d.fm.mgr) ∧
      x.out = d.fm.out ++ cs.map (fun c => .takeover c ((d.fm.epoch + 1) % 2 ^ 32) d.fm.chip) ∧
      ∀ st, d.fm.mirror = some st → x.slices = st.slices.map (fun y => { y with waiter := y.waiter.map d.homeReq }) ∧ x.listed = st.listed ∧ x.nextSlice = st.nextSlice ∧ x.extents = st.extents := by
  unfold doHeartbeatLoss
  rw [if_pos ⟨hu, hr⟩, ← hb]
  obtain ⟨ms, xs, ext, rm, ls, ns, j, ws, hl, hst⟩ := d.loadMirror_frame
  obtain ⟨ms', hm⟩ := Dev.mergeOwn_frame d.loadMirror
  rw [hm, hl] at hb
  rw [Dev.takeControl_announces hc (by rw [hb]; exact hn), hb]
  exact ⟨_, rfl, rfl, rfl, rfl, rfl, rfl, hst⟩

/-- The primary acts without its standby and names another. -/
theorem Dev.nameStandby_frame (d : Dev) (no : Option Nat) : ∃ sb l, d.nameStandby no = { d with fm := { d.fm with
    standby := sb
    out := d.fm.out ++ l } } ∧ (sb = none ∨ sb ≠ no) := by
  unfold Dev.nameStandby
  dsimp only
  split
  · rename_i m hm
    refine ⟨some m.chip, [.stateSync m.chip d.fm.epoch (Dev.fmState { d with fm := { d.fm with standby := some m.chip } }) true], Dev.send_far rfl _, .inr ?_⟩
    obtain ⟨k, -, hf⟩ := Option.bind_eq_some_iff.1 hm
    have hmem := (List.mem_filter.1 (List.mem_of_find?_eq_some hf)).2
    intro he
    rw [he] at hmem
    simp at hmem
  · exact ⟨none, [], by simp, .inl rfl⟩

theorem Dev.syncDone_frame (d : Dev) : ∃ q, d.syncDone = { d with
    fm := { d.fm with
      syncWait := false
      held := []
      out := d.fm.out ++ d.fm.held }
    ports := q } := by
  obtain ⟨q, h⟩ := foldl_send_frame (f := fun _ m => m) (g := fun m => m) d.fm.held { d with fm := { d.fm with
    syncWait := false
    held := [] } } (fun _ _ _ => rfl)
  refine ⟨q, h.trans ?_⟩
  rw [List.map_id']

/-- A state that is not the handover is mirrored. -/
theorem doStateSync_mirrors {ep : Nat} {st : FmState} {full : Bool} (hu : d.fmUp = true) (he : d.fm.epoch ≤ ep) (hr : d.fm.role ≤ 2) (hh : (full && d.fm.handover == some d.fm.chip) = false) :
    doStateSync d ep st full = { d with fm := { d.fm with
      epoch := ep
      mirror := some st
      journal := st.journal
      role := if full then 2 else d.fm.role
      out := d.fm.out ++ [.mgtr (.chip d.fm.mgr) ep 0] } } := by
  unfold doStateSync Dev.fromManager
  rw [Dev.heed_acts hu he, Dev.learnEpoch_member hr he]
  dsimp only
  rw [if_neg (by omega), hh, if_neg Bool.false_ne_true]
  exact Dev.send_far rfl _

/-! ## Heartbeats (R272) -/

theorem doHeartbeatSend_primary {c : Nat} (hr : d.fm.role = 3) (hs : d.fm.standby = some c) :
    doHeartbeatSend d = { d with fm := { d.fm with out := d.fm.out ++ [.heartbeat c d.fm.epoch d.fm.journal] } } := by
  unfold doHeartbeatSend
  split
  · rename_i c' _ h
    obtain rfl := Option.some.inj (h.symm.trans hs)
    exact Dev.send_far rfl d
  · rename_i h
    exact absurd (h.symm.trans hr) (by decide)
  · rename_i h
    exact (h c hr hs).elim

theorem doHeartbeatSend_standby (hr : d.fm.role = 2) :
    doHeartbeatSend d = { d with fm := { d.fm with out := d.fm.out ++ [.heartbeat d.fm.mgr d.fm.epoch d.fm.journal] } } := by
  unfold doHeartbeatSend
  split
  · rename_i h _
    exact absurd (h.symm.trans hr) (by decide)
  · exact Dev.send_far rfl d
  · rename_i h
    exact absurd hr ‹d.fm.role = 2 → False›

/-- The standby keeps the primary's journal position. -/
theorem doHeartbeat_kept {ep j : Nat} (hu : d.fmUp = true) (hr : d.fm.role = 2) (he : d.fm.epoch ≤ ep) : doHeartbeat d ep j = { d with fm := { d.fm with
    epoch := ep
    journal := j
    out := d.fm.out ++ [.mgtr (.chip d.fm.mgr) ep 0] } } := by
  unfold doHeartbeat
  rw [if_neg (by omega), Dev.heed_acts hu he, Dev.learnEpoch_member (by omega) he]
  dsimp only
  rw [if_pos hr]
  exact Dev.send_far rfl _

theorem doHeartbeat_behind {ep j : Nat} (hu : d.fmUp = true) (hr : d.fm.role ≠ 3) (he : ep < d.fm.epoch) :
    doHeartbeat d ep j = { d with fm := { d.fm with out := d.fm.out ++ [.mgtr (.chip d.fm.mgr) d.fm.epoch 1] } } := by
  unfold doHeartbeat
  rw [if_neg hr, Dev.heed_behind hu he]

/-! ## TAKEOVER (R270, R271) -/

theorem doTakeover_takes {ep chip : Nat} (hu : d.fmUp = true) (he : d.fm.epoch ≤ ep) (hw : d.fm.waiting = []) :
    ∃ x h, doTakeover d ep chip = { d with
      fm := x
      host := h } ∧ x.mgr = chip ∧ x.epoch = ep ∧ x.control = false ∧ (x.role = 1 ∨ x.role = 2) ∧ (x.role = 2 → d.fm.role = 2 ∧ d.fm.key2 = d.ownKey) ∧
      x.out = d.fm.out ++ [.mgtr (.chip chip) ep 0] := by
  obtain ⟨y, hy, hye, hyo, hyw, hyc, hyk, hyr⟩ := d.learnEpoch_frame he
  have hown : Dev.ownKey { d with fm := y } = d.ownKey := by
    unfold Dev.ownKey
    rw [hyc]
  unfold doTakeover
  rw [Dev.heed_acts hu he, hy]
  dsimp only
  obtain ⟨h, hk, -⟩ := Dev.knowMgr_frame { d with fm := y } chip
  rw [hk, hown, Dev.flushWaiting_none (hyw.trans hw), Dev.send_far rfl]
  refine ⟨_, h, rfl, rfl, hye, rfl, ?_, ?_, ?_⟩
  · dsimp only
    split
    · exact .inr rfl
    · exact .inl rfl
  · dsimp only
    intro h2
    split at h2
    · rename_i hs
      rw [Bool.and_eq_true, Bool.and_eq_true, beq_iff_eq, beq_iff_eq] at hs
      exact ⟨hyr hs.1.1, hyk ▸ hs.2⟩
    · exact absurd h2 (by decide)
  · dsimp only
    rw [hyo, hye]

/-- A member that hears its own manager announce itself again: the epoch is learned and what no manager has taken in is answered. -/
theorem doTakeover_again {ep : Nat} {b : Dev} (hu : d.fmUp = true) (he : d.fm.epoch ≤ ep) (hr : d.fm.role = 1)
    (hb : b = Dev.flushWaiting { d with fm := { d.fm with
      epoch := ep
      control := false
      unmanaged := false
      handover := none } }) :
    doTakeover d ep d.fm.mgr = b.send (.mgtr (.chip d.fm.mgr) b.fm.epoch 0) := by
  unfold doTakeover
  rw [Dev.heed_acts hu he, Dev.learnEpoch_member (by omega) he]
  dsimp only
  rw [Dev.knowMgr_same rfl (by dsimp only; omega)]
  dsimp only
  rw [hr]
  rw [hb, show ({ d.fm with
      epoch := ep
      control := false
      unmanaged := false
      handover := none } : FM) = { d.fm with
      epoch := ep
      role := 1
      control := false
      unmanaged := false
      handover := none } from by rw [← hr]]
  rfl

/-! ## Answers to the agent's requests (R269, R300) -/

theorem doMgtr_known {tag ep : Nat} (ht : tag ∈ d.fm.mgtTags) (he : ep ≤ d.fm.epoch) : doMgtr d tag ep =
    (let d1 := { d with fm := { d.fm with mgtTags := d.fm.mgtTags.erase tag } }
     if tag < 0x4000 then
      (let d2 := { d1 with fm := { d1.fm with acks := d1.fm.acks.filter (fun c => c != tag) } }
       if d2.fm.role = 4 ∧ d2.fm.acks = [] then d2.gainControl else d2)
    else if 0x8000 ≤ tag then { d1 with fm := d1.fm.ackRequest tag }
    else if d1.fm.syncWait && (d1.fm.standby.map syncTag) == some tag && !d1.fm.mgtTags.contains tag then d1.syncDone
    else d1) := by
  unfold doMgtr
  rw [if_neg (by simpa using ht)]
  dsimp only
  rw [if_neg (Nat.not_lt.2 he)]

theorem doMgtr_learns {tag ep : Nat} (ht : tag ∈ d.fm.mgtTags) (he : d.fm.epoch < ep) : doMgtr d tag ep =
    (let d2 := Dev.learnEpoch { d with fm := { d.fm with mgtTags := d.fm.mgtTags.erase tag } } ep
     if d.fm.role = 1 ∨ d.fm.role = 2 then d2.sendTable else d2) := by
  unfold doMgtr
  rw [if_neg (by simpa using ht)]
  dsimp only
  rw [if_pos he]

/-! ## Take-back (R274) -/

/-- Control goes across once no slice is in a reaction. -/
theorem doTakeback_hands {chip : Nat} {k : ElKey} (hu : d.fmUp = true) (hr : d.fm.role = 3) (hc : d.fm.control = true) (hn : chip ≠ d.fm.chip)
    (hs : ∀ y ∈ d.fm.slices, y.st ≠ 2 ∧ y.st ≠ 3 ∧ y.st ≠ 4) :
    ∃ x h, doTakeback d d.fm.epoch chip k = { d with
      fm := x
      host := h } ∧ x.role = 1 ∧ x.control = false ∧ x.mgr = chip ∧ x.out = d.fm.out ++ [.stateSync chip d.fm.epoch d.fmState true] ++ [.mgtr (.chip chip) d.fm.epoch 0] ∧
      x.waiting = ((d.fm.waiting ++ d.fm.slices.filterMap (fun y => y.waiter)).filter (fun w => w.chip.isNone)).map (fun w => { w with acked := true }) := by
  have hm : d.fm.managing = true := (Dev.managing_iff _).2 ⟨hr, hc⟩
  unfold doTakeback
  rw [Dev.heed_acts hu (Nat.le_refl _), Dev.learnEpoch_known (Nat.le_refl _), if_pos hm]
  have hq : (d.fm.slices.any (fun x => x.st == 2 || x.st == 3 || x.st == 4)) = false := by
    rw [List.any_eq_false]
    intro y hy
    simp [hs y hy]
  unfold Dev.tryHandover
  dsimp only
  rw [if_neg (by rw [hq]; simpa [FM.managing, hr, hc] using hn), Dev.send_far rfl, Dev.event_frame, Dev.send_far rfl]
  exact ⟨_, _, rfl, rfl, rfl, rfl, rfl, rfl⟩

/-- While a slice is in a reaction the request to hand over is kept. -/
theorem doTakeback_keeps {chip : Nat} {k : ElKey} {y : SliceRec} (hu : d.fmUp = true) (hr : d.fm.role = 3) (hc : d.fm.control = true) (hy : y ∈ d.fm.slices)
    (hs : y.st = 2 ∨ y.st = 3 ∨ y.st = 4) :
    doTakeback d d.fm.epoch chip k = { d with fm := { d.fm with
      handover := some chip
      out := d.fm.out ++ [.mgtr (.chip chip) d.fm.epoch 0] } } := by
  have hm : d.fm.managing = true := (Dev.managing_iff _).2 ⟨hr, hc⟩
  have hq : (d.fm.slices.any (fun x => x.st == 2 || x.st == 3 || x.st == 4)) = true :=
    List.any_eq_true.2 ⟨y, hy, by simpa [or_assoc] using hs⟩
  unfold doTakeback
  refine (Dev.heed_chip (b := { d with fm := { d.fm with handover := some chip } }) hu (Nat.le_refl _) ?_).trans rfl
  rw [Dev.learnEpoch_known (Nat.le_refl _), if_pos hm]
  unfold Dev.tryHandover
  dsimp only
  rw [if_pos (by rw [hq]; simp)]

end

/-- Settles O31. -/
theorem fmElectionRows : Obligations.FmElectionRows := by
  intro s
  refine ⟨?beaconSend, ?beacon, ?none_, ?follow, ?lead, ?aliveSend, ?alive, ?aliveAgain, ?timeout, ?beat, ?beatStandby, ?heartbeat, ?heartbeatOld, ?loss, ?sync, ?syncTimeout,
    ?takeover, ?takeoverAgain, ?takeoverOld, ?resend, ?silence, ?ack, ?ackSync, ?ackRequest, ?learn, ?demote, ?takeback, ?hand, ?keep⟩
  case beaconSend =>
    intro hu hr
    obtain ⟨q, h⟩ := foldl_send_frame (f := fun e p => .beacon p e.fm.key1 e.fm.key2 e.fm.epoch) (g := fun p => .beacon p s.dev.fm.key1 s.dev.fm.key2 s.dev.fm.epoch) s.dev.upPorts s.dev (fun _ _ _ => rfl)
    exact ⟨_, congrArg s.next ((if_pos ⟨hu, hr⟩).trans h), rfl, rfl⟩
  case beacon =>
    intro S port k1 k2 ep hu hp hr h1 h2
    obtain ⟨q, h⟩ := doBeacon_electing (k1 := k1) (k2 := k2) (ep := ep) hu hp hr
    obtain ⟨l1, l2⟩ := LowestTwo.putKeys (p := (s.dev.fm.key1, s.dev.fm.key2)) ⟨h1, h2⟩ k1 k2
    exact ⟨_, congrArg s.next h, rfl, rfl, l1, l2⟩
  case none_ =>
    intro hu hr hk
    refine congrArg s.next ((if_neg (by rw [hu, hr]; decide)).trans ?_)
    split
    · rfl
    · exact absurd (‹s.dev.fm.key1 = some _›.symm.trans hk) (Option.some_ne_none _)
  case follow =>
    intro k hu hr hk ho
    obtain ⟨q, h⟩ := Dev.sendTable_frame { s.dev with fm := { s.dev.fm with role := if s.dev.ownKey.isSome ∧ s.dev.fm.key2 = s.dev.ownKey then 2 else 1 } }
    refine ⟨_, congrArg s.next ((if_neg (by rw [hu, hr]; decide)).trans (Eq.trans ?_ h)), rfl, rfl⟩
    rw [hk]
    exact if_neg ho
  case lead =>
    intro k cs hu hr hk ho hc hn
    refine congrArg s.next ((if_neg (by rw [hu, hr]; decide)).trans (Eq.trans ?_ (Dev.takeControl_announces hc hn)))
    rw [hk]
    exact if_pos ho
  case aliveSend =>
    intro hr hc
    exact congrArg s.next ((if_pos ((Dev.managing_iff _).2 ⟨hr, hc⟩)).trans (foldl_send_far (f := fun e c => .alive c e.fm.epoch) (g := fun c => .alive c s.dev.fm.epoch) (fun _ => rfl) _ _ (fun _ _ => rfl)))
  case alive =>
    intro ep chip hu he hr hw
    obtain ⟨h, q, e, hh⟩ := doAlive_joins (chip := chip) hu he hr hw
    exact ⟨_, congrArg s.next e, rfl, rfl, rfl, rfl, rfl, rfl, rfl, fun hm => hh hm.1 hm.2⟩
  case aliveAgain =>
    intro ep b hu he hr hb
    have hn : ¬ (s.dev.fm.role = 3 ∨ s.dev.fm.role = 4) := by omega
    have h0 : ¬ s.dev.fm.role = 0 := by omega
    refine congrArg s.next ((Dev.heed_acts hu (Nat.le_of_lt he) _ _).trans ?_)
    rw [Dev.learnEpoch_member (by omega) (Nat.le_of_lt he), Dev.knowMgr_same (d := { s.dev with fm := { s.dev.fm with epoch := ep } }) rfl h0, hb]
    simp only [if_neg hn, if_neg h0, if_pos (Or.inl he : s.dev.fm.epoch < ep ∨ s.dev.fm.role = 0)]
  case timeout => exact fun hu hr => congrArg s.next (if_pos ⟨hu, hr⟩)
  case beat => exact fun c hr hs => congrArg s.next (doHeartbeatSend_primary hr hs)
  case beatStandby => exact fun hr => congrArg s.next (doHeartbeatSend_standby hr)
  case heartbeat => exact fun ep j hu hr he => congrArg s.next (doHeartbeat_kept hu hr he)
  case heartbeatOld => exact fun ep j hu hr he => congrArg s.next (doHeartbeat_behind hu hr he)
  case loss =>
    intro b cs hu hr hb hc hn
    obtain ⟨x, h, h1, h2, h3, h4, h5, h6⟩ := doHeartbeatLoss_takes hu hr hb hc hn
    refine ⟨_, congrArg s.next h, rfl, h1, h2, h3, h4, ?_, h5, rfl, h6⟩
    rw [h4]
    simp
  case sync =>
    intro ep st full hu he hr hh
    exact congrArg s.next (doStateSync_mirrors hu he hr hh)
  case syncTimeout =>
    intro hr hw
    obtain ⟨q, hd⟩ := s.dev.syncDone_frame
    obtain ⟨sb, l, hn, hs⟩ := Dev.nameStandby_frame s.dev.syncDone s.dev.fm.standby
    rw [hd] at hn
    refine ⟨_, congrArg s.next ((if_pos ⟨hr, hw⟩).trans (Eq.trans ?_ hn)), rfl, rfl, rfl, ⟨l, rfl⟩, hs, rfl⟩
    rw [hd]
  case takeover =>
    intro ep chip hu he hw
    obtain ⟨x, h, e, h1, h2, h3, h4, h5, h6⟩ := doTakeover_takes (chip := chip) hu he hw
    exact ⟨_, congrArg s.next e, rfl, h1, h2, h3, h4, h5, h6, rfl⟩
  case takeoverAgain => exact fun ep b hu he hr hb => congrArg s.next (doTakeover_again hu he hr hb)
  case takeoverOld => exact fun ep chip hu he => congrArg s.next (Dev.heed_behind hu he chip _)
  case resend =>
    intro hr
    exact congrArg s.next ((if_pos hr).trans (foldl_send_far (f := fun e c => .takeover c e.fm.epoch e.fm.chip) (g := fun c => .takeover c s.dev.fm.epoch s.dev.fm.chip) (fun _ => rfl) _ _ (fun _ _ => rfl)))
  case silence =>
    intro chip b hr hc hb hn
    refine congrArg s.next ((if_pos ⟨hr, by simpa using hc⟩).trans ?_)
    rw [← hb]
    exact if_neg hn
  case ack =>
    intro tag ep ht he hl hr hn
    exact congrArg s.next ((doMgtr_known ht he).trans ((if_pos hl).trans (if_neg (fun h => hn h.2))))
  case ackSync =>
    intro c ep hc ht hn he hw hs
    obtain ⟨q, h⟩ := Dev.syncDone_frame { s.dev with fm := { s.dev.fm with mgtTags := s.dev.fm.mgtTags.erase (0x4000 + c) } }
    refine ⟨_, congrArg s.next ((doMgtr_known ht he).trans ((if_neg (by omega)).trans ((if_neg (by omega)).trans ((if_pos ?_).trans h)))), rfl, rfl⟩
    rw [hw, hs]
    simpa [syncTag] using hn
  case ackRequest =>
    intro tag ep ht he hl
    exact congrArg s.next ((doMgtr_known ht he).trans ((if_neg (by omega)).trans (if_pos hl)))
  case learn =>
    intro tag ep ht he hr
    obtain ⟨q, h⟩ := Dev.sendTable_frame { s.dev with fm := { s.dev.fm with
      mgtTags := s.dev.fm.mgtTags.erase tag
      epoch := ep } }
    refine ⟨_, congrArg s.next ((doMgtr_learns ht he).trans ((if_pos hr).trans (Eq.trans ?_ h))), rfl, rfl⟩
    rw [Dev.learnEpoch_member (d := { s.dev with fm := { s.dev.fm with mgtTags := s.dev.fm.mgtTags.erase tag } }) (by dsimp only; omega) (Nat.le_of_lt he)]
  case demote =>
    intro tag ep ht he hr
    refine ⟨_, congrArg s.next ((doMgtr_learns ht he).trans ((if_neg (by omega)).trans (Dev.learnEpoch_manager hr he))), rfl, rfl, rfl, rfl, rfl, rfl, rfl⟩
  case takeback =>
    intro k hu hr ho ht hk hq
    refine congrArg s.next (Eq.trans ?_ (Dev.send_far (m := .takeback s.dev.fm.mgr s.dev.fm.epoch k) rfl { s.dev with fm := { s.dev.fm with handover := some s.dev.fm.chip } }))
    unfold doTakebackStart
    rw [ho]
    exact if_pos ⟨hu, hr, ht, hk, hq⟩
  case hand =>
    intro chip k hu hr hc hn hs
    obtain ⟨x, h, e, h1, h2, h3, h4, h5⟩ := doTakeback_hands (k := k) hu hr hc hn hs
    exact ⟨_, congrArg s.next e, rfl, h1, h2, h3, h4, h5, rfl⟩
  case keep => exact fun chip k y hu hr hc hy hs => congrArg s.next (doTakeback_keeps hu hr hc hy hs)

end Sys2Proof.Machine
end

section
/-! PROOFS. What the manager decides, says and lists, and how a module takes its place (09_fabric_manager.md R272, R276, R288). -/

namespace Sys2Proof.Machine

section
variable {d : Dev}

/-! ## A step that is reached in a run over a list -/

/-- What one step of a run brings about and every later step keeps holds at its end; `P` holds throughout. -/
theorem foldl_reaches {α β : Type} {P Q : β → Prop} {f : β → α → β} {l : List α} {a : α} (ha : a ∈ l) (hP : ∀ b, P b → ∀ x ∈ l, P (f b x)) (hset : ∀ b, P b → Q (f b a))
    (hQ : ∀ b, P b → Q b → ∀ x ∈ l, Q (f b x)) {b : β} (hb : P b) : Q (l.foldl f b) := by
  induction l generalizing b with
  | nil => exact absurd ha (List.not_mem_nil)
  | cons x l ih =>
    have hb' : P (f b x) := hP b hb x List.mem_cons_self
    rcases List.mem_cons.1 ha with rfl | ha
    · refine (foldl_keeps (fun b => P b ∧ Q b) l (fun b hb y hy => ?_) ⟨hb', hset b hb⟩).2
      exact ⟨hP b hb.1 y (List.mem_cons_of_mem _ hy), hQ b hb.1 hb.2 y (List.mem_cons_of_mem _ hy)⟩
    · exact ih ha (fun b hb y hy => hP b hb y (List.mem_cons_of_mem _ hy)) (fun b hb hq y hy => hQ b hb hq y (List.mem_cons_of_mem _ hy)) hb'

/-! ## Decisions (R272) -/

theorem Dev.journalise_alone (h : d.fm.standby = none) : d.journalise = d := by
  unfold Dev.journalise
  rw [h]

/-- The decision goes to the standby with the state that holds after it. -/
theorem Dev.journalise_sync {c : Nat} (h : d.fm.standby = some c) : ∃ st, d.journalise = { d with fm := { d.fm with
    journal := d.fm.journal + 1
    syncWait := true
    mgtTags := d.fm.mgtTags ++ [syncTag c]
    out := d.fm.out ++ [.stateSync c d.fm.epoch st false] } } ∧ st.journal = d.fm.journal + 1 ∧ st.slices = d.fm.slices.map (fun x => { x with waiter := x.waiter.map d.awayReq }) := by
  refine ⟨Dev.fmState { d with fm := { d.fm with
    journal := d.fm.journal + 1
    syncWait := true
    mgtTags := d.fm.mgtTags ++ [syncTag c] } }, ?_, rfl, rfl⟩
  unfold Dev.journalise
  rw [h]
  exact Dev.send_far rfl _

/-- A decision changes nothing but the journal and what waits for the standby. -/
theorem Dev.journalise_frame (d : Dev) : ∃ j sw tg l, d.journalise = { d with fm := { d.fm with
    journal := j
    syncWait := sw
    mgtTags := tg
    out := d.fm.out ++ l } } ∧ (d.fm.standby = none → sw = d.fm.syncWait) ∧ (d.fm.standby ≠ none → sw = true) := by
  cases h : d.fm.standby with
  | none =>
    refine ⟨d.fm.journal, d.fm.syncWait, d.fm.mgtTags, [], ?_, fun _ => rfl, fun hn => absurd rfl hn⟩
    rw [Dev.journalise_alone h, List.append_nil]
  | some c =>
    obtain ⟨st, e, -⟩ := Dev.journalise_sync h
    exact ⟨_, true, _, _, e, fun hn => absurd hn (Option.some_ne_none _), fun _ => rfl⟩

theorem Dev.say_now (h : d.fm.syncWait = false) (m : FmMsg) : d.say m = d.send m := by
  unfold Dev.say
  rw [h, if_neg Bool.false_ne_true]

theorem Dev.say_held (h : d.fm.syncWait = true) (m : FmMsg) : d.say m = { d with fm := { d.fm with held := d.fm.held ++ [m] } } := if_pos h

/-- An order leaves, or is held; what left or was held before stays. -/
theorem Dev.say_frame (d : Dev) (m : FmMsg) : ∃ o h q, d.say m = { d with
    fm := { d.fm with
      out := d.fm.out ++ o
      held := d.fm.held ++ h }
    ports := q } := by
  cases h : d.fm.syncWait with
  | false =>
    obtain ⟨q, e⟩ := d.send_frame m
    refine ⟨[m], [], q, ?_⟩
    rw [Dev.say_now h, e, List.append_nil]
  | true =>
    refine ⟨[], [m], d.ports, ?_⟩
    rw [Dev.say_held h, List.append_nil]

/-! ## Listed links (R288) -/

theorem Dev.listLinks_frame (d : Dev) (ls : List (Nat × Nat)) : (d.listLinks ls).1 = { d with fm := { d.fm with listed := d.fm.listed ++ (d.listLinks ls).2 } } := rfl

/-- The links listed after: those before, the ones named, and their other directions. -/
theorem Dev.mem_listLinks (d : Dev) (ls : List (Nat × Nat)) (l : Nat × Nat) : l ∈ (d.listLinks ls).1.fm.listed ↔
    l ∈ d.fm.listed ∨ ∃ k ∈ ls, l = k ∨ l = (nextChip (routeWord d.fm.extents 0 0 false) k.1 k.2, k.2 ^^^ 2) := by
  unfold Dev.listLinks
  dsimp only
  rw [List.mem_append, List.mem_dedup, List.mem_filter, List.mem_flatMap]
  constructor
  · rintro (h | ⟨⟨k, hk, h⟩, -⟩)
    · exact .inl h
    · exact .inr ⟨k, hk, by simpa using h⟩
  · rintro (h | ⟨k, hk, h⟩)
    · exact .inl h
    · by_cases hl : l ∈ d.fm.listed
      · exact .inl hl
      · exact .inr ⟨⟨k, hk, by simpa using h⟩, by simpa using hl⟩

theorem Dev.reactTo_none (h : d.fm.slices = []) (new : List (Nat × Nat)) : d.reactTo new = d := by
  unfold Dev.reactTo
  rw [h]
  split
  · rfl
  · rfl

/-! ## Places (R276) -/

theorem foldl_setNi_ni {g : NI → NI} (l : List Nat) (hl : l.Nodup) (d : Dev) (n : Nat) :
    (l.foldl (fun e k => e.setNi k (g (e.ni k))) d).ni n = if n ∈ l then g (d.ni n) else d.ni n := by
  induction l generalizing d with
  | nil => rfl
  | cons k l ih =>
    obtain ⟨hk, hl⟩ := List.nodup_cons.1 hl
    rw [List.foldl_cons, ih hl]
    by_cases hn : n = k
    · subst hn
      rw [if_neg hk, if_pos List.mem_cons_self, Dev.ni_setNi_same]
    · rw [Dev.ni_setNi_other _ _ _ _ hn]
      simp [hn]

theorem foldl_setPort_ni {α : Type} {f : Dev → α → Nat} {g : Dev → α → Port} (l : List α) (d : Dev) (n : Nat) : (l.foldl (fun e a => e.setPort (f e a) (g e a)) d).ni n = d.ni n :=
  foldl_field (fun e : Dev => e.ni n) (f := fun e a => e.setPort (f e a) (g e a)) (fun _ _ => rfl) l d

/-- What a module becomes that takes its place: its NIs' routes and its peers, the coordinates known and stored. -/
theorem Dev.takePlace_frame (d : Dev) (chip : Nat) (ext : List Nat) (mask : Nat) : ∃ c n q, d.takePlace chip ext mask = { d with
      fm := { d.fm with
        placed := true
        chip := chip
        extents := ext
        ringMask := mask
        stored := some chip }
      cfg := c
      nis := n
      ports := q } ∧ (d.fm.stored = some chip → c = d.cfg) := by
  unfold Dev.takePlace
  dsimp only
  generalize hx : ({ d.fm with
    placed := true
    chip := chip
    extents := ext
    ringMask := mask
    stored := some chip } : FM) = x
  generalize hc : (if d.fm.stored = some chip then d.cfg else d.cfg.rewrite) = c
  have hP : ∀ e : Dev, (∃ n q, e = { d with
      fm := x
      cfg := c
      nis := n
      ports := q }) → ∃ c' n q, e = { d with
      fm := x
      cfg := c'
      nis := n
      ports := q } ∧ (d.fm.stored = some chip → c' = d.cfg) := by
    rintro e ⟨n, q, rfl⟩
    exact ⟨c, n, q, rfl, fun hs => hc.symm.trans (if_pos hs)⟩
  refine hP _ (foldl_keeps (fun e : Dev => ∃ n q, e = { d with
      fm := x
      cfg := c
      nis := n
      ports := q }) _ (fun e he k _ => ?_) (foldl_keeps (fun e : Dev => ∃ n q, e = { d with
      fm := x
      cfg := c
      nis := n
      ports := q }) _ (fun e he k _ => ?_) ⟨d.nis, d.ports, rfl⟩))
  · obtain ⟨n, q, rfl⟩ := he
    exact ⟨_, _, rfl⟩
  · obtain ⟨n, q, rfl⟩ := he
    exact ⟨_, _, rfl⟩

theorem Dev.takePlace_ni (d : Dev) (chip : Nat) (ext : List Nat) (mask n : Nat) : (d.takePlace chip ext mask).ni n =
    if n < 288 ∧ (d.vat n).lst ≠ .fusedOff then { d.ni n with routeCfg := BitVec.ofNat 64 (setBits (d.ni n).routeCfg.toNat 35 0 (routeWord ext mask chip false)) } else d.ni n := by
  unfold Dev.takePlace
  dsimp only
  refine (foldl_setPort_ni (f := fun e (x : Neighbour) => x.port) (g := fun e x => { e.port x.port with
    peerChip := nextChip (routeWord ext mask chip false) chip x.port
    peerPort := x.peerPort
    peerValid := true }) _ _ n).trans ?_
  refine (foldl_setNi_ni (g := fun x => { x with routeCfg := BitVec.ofNat 64 (setBits x.routeCfg.toNat 35 0 (routeWord ext mask chip false)) }) _ (List.nodup_range.filter _) _ n).trans ?_
  simp only [List.mem_filter, List.mem_range, bne_iff_ne]
  rfl

end

end Sys2Proof.Machine
end

section
/-! PROOFS. Probes, tables, places and port events (09_fabric_manager.md R276-R279, R288, R290, 14_recovery.md R428). -/

namespace Sys2Proof.Machine

section
variable {d : Dev}

/-! ## Placing the modules (R276) -/

/-- A module is told its place, this one by taking it. -/
def Dev.tellPlace (ext : List Nat) (mask : Nat) (d : Dev) (m : ModRec) : Dev :=
  if m.serial = d.sec.fuses.serial then d.takePlace m.chip ext mask else d.say (.assign m.relay d.fm.epoch m.serial m.chip ext mask)

/-- The state while the modules are told: what was decided about them stands. -/
def Placing (b e : Dev) : Prop := ∃ x c n q, e = { b with
    fm := x
    cfg := c
    nis := n
    ports := q } ∧ x.modules = b.fm.modules ∧ x.extents = b.fm.extents ∧ x.ringMask = b.fm.ringMask ∧ x.epoch = b.fm.epoch ∧ x.listed = b.fm.listed ∧ x.syncWait = b.fm.syncWait

theorem Placing.refl (b : Dev) : Placing b b := ⟨b.fm, b.cfg, b.nis, b.ports, rfl, rfl, rfl, rfl, rfl, rfl, rfl⟩

theorem Placing.kept {b e : Dev} (h : Placing b e) : e.fm.epoch = b.fm.epoch ∧ e.fm.syncWait = b.fm.syncWait ∧ e.sec = b.sec := by
  obtain ⟨x, c, n, q, rfl, -, -, -, h4, -, h6⟩ := h
  exact ⟨h4, h6, rfl⟩

theorem Dev.tellPlace_frame (ext : List Nat) (mask : Nat) (d : Dev) (m : ModRec) :
    (∃ x c n q, d.tellPlace ext mask m = { d with
      fm := x
      cfg := c
      nis := n
      ports := q } ∧ x.modules = d.fm.modules ∧ (d.fm.extents = ext → x.extents = ext) ∧ (d.fm.ringMask = mask → x.ringMask = mask) ∧ x.epoch = d.fm.epoch ∧ x.listed = d.fm.listed ∧
      x.syncWait = d.fm.syncWait) ∧ (∃ o, (d.tellPlace ext mask m).fm.out = d.fm.out ++ o) ∧ ∃ h, (d.tellPlace ext mask m).fm.held = d.fm.held ++ h := by
  unfold Dev.tellPlace
  split
  · obtain ⟨c, n, q, e, -⟩ := d.takePlace_frame m.chip ext mask
    rw [e]
    exact ⟨⟨_, c, n, q, rfl, rfl, fun _ => rfl, fun _ => rfl, rfl, rfl, rfl⟩, ⟨[], by simp⟩, ⟨[], by simp⟩⟩
  · obtain ⟨o, h, q, e⟩ := d.say_frame (.assign m.relay d.fm.epoch m.serial m.chip ext mask)
    rw [e]
    exact ⟨⟨_, d.cfg, d.nis, q, rfl, rfl, id, id, rfl, rfl, rfl⟩, ⟨o, rfl⟩, ⟨h, rfl⟩⟩

theorem Placing.step {b e : Dev} {ext : List Nat} {mask : Nat} (hx : b.fm.extents = ext) (hm : b.fm.ringMask = mask) (h : Placing b e) (m : ModRec) : Placing b (e.tellPlace ext mask m) := by
  obtain ⟨x, c, n, q, rfl, h1, h2, h3, h4, h5, h6⟩ := h
  obtain ⟨⟨x', c', n', q', e', g1, g2, g3, g4, g5, g6⟩, -, -⟩ := Dev.tellPlace_frame ext mask { b with
    fm := x
    cfg := c
    nis := n
    ports := q } m
  rw [e']
  exact ⟨x', c', n', q', rfl, g1.trans h1, (g2 (h2.trans hx)).trans hx.symm, (g3 (h3.trans hm)).trans hm.symm, g4.trans h4, g5.trans h5, g6.trans h6⟩

/-- Every other module is told where it is. -/
theorem foldl_tellPlace {b : Dev} {ext : List Nat} {mask : Nat} (hx : b.fm.extents = ext) (hm : b.fm.ringMask = mask) (l : List ModRec) :
    Placing b (l.foldl (Dev.tellPlace ext mask) b) ∧
    (b.fm.syncWait = false → ∀ m ∈ l, m.serial ≠ b.sec.fuses.serial → .assign m.relay b.fm.epoch m.serial m.chip ext mask ∈ (l.foldl (Dev.tellPlace ext mask) b).fm.out) ∧
    (b.fm.syncWait = true → ∀ m ∈ l, m.serial ≠ b.sec.fuses.serial → .assign m.relay b.fm.epoch m.serial m.chip ext mask ∈ (l.foldl (Dev.tellPlace ext mask) b).fm.held) := by
  have hP : ∀ e, Placing b e → ∀ m ∈ l, Placing b (e.tellPlace ext mask m) := fun e he m _ => he.step hx hm m
  have hout : ∀ (e : Dev) m, e.fm.epoch = b.fm.epoch → e.sec = b.sec → m.serial ≠ b.sec.fuses.serial →
      e.tellPlace ext mask m = e.say (.assign m.relay b.fm.epoch m.serial m.chip ext mask) := fun e m h1 h2 hn => by
    unfold Dev.tellPlace
    rw [if_neg (by rw [h2]; exact hn), h1]
  refine ⟨foldl_keeps (Placing b) l hP (.refl b), fun hs m hml hn => ?_, fun hs m hml hn => ?_⟩
  · refine foldl_reaches (P := Placing b) (Q := fun e => .assign m.relay b.fm.epoch m.serial m.chip ext mask ∈ e.fm.out) hml hP (fun e he => ?_) (fun e _ hq y _ => ?_) (.refl b)
    · obtain ⟨h4, h6, hsec⟩ := he.kept
      obtain ⟨q', e'⟩ := e.send_frame (.assign m.relay b.fm.epoch m.serial m.chip ext mask)
      rw [hout e m h4 hsec hn, Dev.say_now (h6.trans hs), e']
      exact List.mem_append_right _ List.mem_cons_self
    · obtain ⟨-, ⟨o, ho⟩, -⟩ := e.tellPlace_frame ext mask y
      rw [ho]
      exact List.mem_append_left _ hq
  · refine foldl_reaches (P := Placing b) (Q := fun e => .assign m.relay b.fm.epoch m.serial m.chip ext mask ∈ e.fm.held) hml hP (fun e he => ?_) (fun e _ hq y _ => ?_) (.refl b)
    · obtain ⟨h4, h6, hsec⟩ := he.kept
      rw [hout e m h4 hsec hn, Dev.say_held (h6.trans hs)]
      exact List.mem_append_right _ List.mem_cons_self
    · obtain ⟨-, -, ⟨o, ho⟩⟩ := e.tellPlace_frame ext mask y
      rw [ho]
      exact List.mem_append_left _ hq

/-- Every module that a table names has sent its own. -/
def TablesWhole (ms : List ModRec) : Prop := ∀ m ∈ ms, ∀ n ∈ m.neigh, ∃ k ∈ ms, k.serial = n.serial

theorem tablesWhole_iff (ms : List ModRec) : (ms.all (fun m => m.neigh.all (fun n => ms.any (fun k => k.serial == n.serial)))) = true ↔ TablesWhole ms := by
  unfold TablesWhole
  simp only [List.all_eq_true, List.any_eq_true, beq_iff_eq]

theorem Dev.tryPlace_waits (h : ¬ TablesWhole d.fm.modules) : d.tryPlace = d := by
  refine if_pos (.inr ?_)
  rw [Bool.not_eq_true', ← Bool.not_eq_true, tablesWhole_iff]
  exact h

/-- Once the tables are whole the modules are placed and told. -/
theorem Dev.tryPlace_places {pl : List Nat × List (Nat × Nat)} {ms : List ModRec} {mask : Nat} (hr : d.fm.role = 3) (hw : TablesWhole d.fm.modules)
    (hpl : pl = (storedPlaces d.fm.modules).getD (walkPlaces d.fm.modules)) (hms : ms = d.fm.modules.map (placedMod d.fm.modules d.fm.shape pl))
    (hmask : mask = ringMaskOf ((ms.filter (fun m => m.placed)).map (fun m => m.present))) :
    ∃ x c n q, d.tryPlace = { d with
      fm := x
      cfg := c
      nis := n
      ports := q } ∧ x.modules = ms ∧ x.extents = pl.1 ∧ x.ringMask = mask ∧ x.epoch = d.fm.epoch ∧
      (d.fm.standby = none → d.fm.syncWait = false → ∀ m ∈ ms, m.placed = true → m.serial ≠ d.sec.fuses.serial → .assign m.relay d.fm.epoch m.serial m.chip pl.1 mask ∈ x.out) ∧
      (d.fm.standby ≠ none → ∀ m ∈ ms, m.placed = true → m.serial ≠ d.sec.fuses.serial → .assign m.relay d.fm.epoch m.serial m.chip pl.1 mask ∈ x.held) ∧
      (∀ l ∈ badLinks pl ms, l ∈ x.listed ∧ (nextChip (routeWord pl.1 0 0 false) l.1 l.2, l.2 ^^^ 2) ∈ x.listed) := by
  unfold Dev.tryPlace
  dsimp only
  rw [if_neg (by rw [not_or, Bool.not_eq_true', Bool.not_eq_false, tablesWhole_iff]; exact ⟨fun h => h hr, hw⟩), ← hpl, ← hms, ← hmask]
  generalize hb : ({ d with fm := { d.fm with
    modules := ms
    extents := pl.1
    ringMask := mask } } : Dev) = b
  have hlist := fun l => b.mem_listLinks (badLinks pl ms) l
  rw [Dev.listLinks_frame] at hlist ⊢
  generalize (b.listLinks (badLinks pl ms)).2 = new at hlist ⊢
  obtain ⟨j, sw, tg, o, hj, hs0, hs1⟩ := Dev.journalise_frame { b with fm := { b.fm with listed := b.fm.listed ++ new } }
  rw [hj]
  dsimp only at hlist hs0 hs1 ⊢
  obtain ⟨⟨x, c, n, q, hf, h1, h2, h3, h4, h5, -⟩, hnow, hheld⟩ := foldl_tellPlace (b := { b with fm := { b.fm with
    listed := b.fm.listed ++ new
    journal := j
    syncWait := sw
    mgtTags := tg
    out := b.fm.out ++ o } }) (ext := pl.1) (mask := mask) (by rw [← hb]) (by rw [← hb]) (ms.filter (fun m => m.placed))
  have hst : b.fm.standby = d.fm.standby := by rw [← hb]
  rw [hf] at hnow hheld
  refine ⟨x, c, n, q, hf.trans (by rw [← hb]), h1.trans (by rw [← hb]), h2.trans (by rw [← hb]), h3.trans (by rw [← hb]), h4.trans (by rw [← hb]), fun hn hsw m hm hp hne => ?_,
    fun hn m hm hp hne => ?_, fun l hl => ?_⟩
  · have h := hnow ((hs0 (hst.trans hn)).trans (by rw [← hb]; exact hsw)) m (List.mem_filter.2 ⟨hm, hp⟩) (by rw [← hb]; exact hne)
    rw [← hb] at h
    exact h
  · have h := hheld (hs1 (by rw [hst]; exact hn)) m (List.mem_filter.2 ⟨hm, hp⟩) (by rw [← hb]; exact hne)
    rw [← hb] at h
    exact h
  · rw [h5]
    have hx : b.fm.extents = pl.1 := by rw [← hb]
    refine ⟨(hlist l).2 (.inr ⟨l, hl, .inl rfl⟩), (hlist _).2 (.inr ⟨l, hl, .inr ?_⟩)⟩
    rw [hx]

/-! ## Port events (R288, R290) -/

/-- A module's line after an event of one of its ports. -/
def portNoted (chip port st w : Nat) (m : ModRec) : ModRec :=
  if m.placed && m.chip == chip then { m with portSt := smSet 0 m.portSt port (st % 4 + 4 * (w % 8) + 32 * (smGet 0 m.portSt port / 32)) } else m

theorem portNoted_eq (chip port st w : Nat) (m : ModRec) : portNoted chip port st w m =
    if m.placed = true ∧ m.chip = chip then { m with portSt := smSet 0 m.portSt port (st % 4 + 4 * (w % 8) + 32 * (smGet 0 m.portSt port / 32)) } else m := by
  unfold portNoted
  by_cases h : m.placed = true ∧ m.chip = chip
  · rw [if_pos h, if_pos (by rw [h.1, h.2, beq_self_eq_true]; rfl)]
  · rw [if_neg h, if_neg (by simpa using h)]

/-- The manager with the event of a port in its module's line. -/
def Dev.portNoted (d : Dev) (chip port st w : Nat) : Dev := { d with fm := { d.fm with modules := d.fm.modules.map (Machine.portNoted chip port st w) } }

theorem doPortEvent_training {chip port st w : Nat} (hu : d.fmUp = true) (hm : d.fm.managing = true) (hs : st = 1 ∨ 3 < st) :
    doPortEvent d d.fm.epoch chip port st w = { d.portNoted chip port st w with fm := { (d.portNoted chip port st w).fm with out := d.fm.out ++ [.mgtr (.chip chip) d.fm.epoch 0] } } := by
  refine Dev.heed_chip (b := d.portNoted chip port st w) hu (Nat.le_refl _) ?_
  rw [Dev.learnEpoch_known (Nat.le_refl _), if_neg (by rw [hm]; decide)]
  dsimp only
  rw [if_neg (by omega : ¬ st = 3), if_neg (by omega : ¬ (st = 0 ∨ st = 3)), if_neg (by omega : ¬ st = 2)]
  rfl

/-- The wiring holds the link out: some placed module's line has a code at one of its ends. -/
def Dev.linkHeldOut (d : Dev) (l : Nat × Nat) : Bool := d.fm.modules.any (fun (m : ModRec) => m.placed && m.chip == l.1 && smGet 0 m.portSt l.2 / 32 != 0)

/-- The other direction of a link. -/
def Dev.linkBack (d : Dev) (l : Nat × Nat) : Nat × Nat := (nextChip (routeWord d.fm.extents 0 0 false) l.1 l.2, l.2 ^^^ 2)

theorem doPortEvent_heldOut {chip port w : Nat} (hu : d.fmUp = true) (hm : d.fm.managing = true) (ho : (d.linkHeldOut (chip, port) || d.linkHeldOut (d.linkBack (chip, port))) = true) :
    doPortEvent d d.fm.epoch chip port 2 w = { d.portNoted chip port 2 w with fm := { (d.portNoted chip port 2 w).fm with out := d.fm.out ++ [.mgtr (.chip chip) d.fm.epoch 0] } } := by
  refine Dev.heed_chip (b := d.portNoted chip port 2 w) hu (Nat.le_refl _) ?_
  rw [Dev.learnEpoch_known (Nat.le_refl _), if_neg (by rw [hm]; decide)]
  dsimp only
  rw [if_neg (by decide : ¬ 2 = 3), if_neg (by decide : ¬ (2 = 0 ∨ 2 = 3)), if_pos rfl]
  exact if_pos ho

theorem doPortEvent_up {chip port w : Nat} (hu : d.fmUp = true) (hm : d.fm.managing = true) (ho : (d.linkHeldOut (chip, port) || d.linkHeldOut (d.linkBack (chip, port))) = false) :
    ∃ j sw tg o, doPortEvent d d.fm.epoch chip port 2 w = { d with fm := { d.fm with
      modules := d.fm.modules.map (portNoted chip port 2 w)
      listed := d.fm.listed.filter (fun l => l != (chip, port) && l != d.linkBack (chip, port))
      journal := j
      syncWait := sw
      mgtTags := tg
      out := o } } := by
  obtain ⟨j, sw, tg, l, hj, -⟩ := Dev.journalise_frame { d.portNoted chip port 2 w with fm := { (d.portNoted chip port 2 w).fm with
    listed := d.fm.listed.filter (fun l => l != (chip, port) && l != d.linkBack (chip, port)) } }
  refine ⟨j, sw, tg, d.fm.out ++ l ++ [.mgtr (.chip chip) d.fm.epoch 0], (Dev.heed_chip (b := Dev.journalise { d.portNoted chip port 2 w with fm := { (d.portNoted chip port 2 w).fm with
    listed := d.fm.listed.filter (fun l => l != (chip, port) && l != d.linkBack (chip, port)) } }) hu (Nat.le_refl _) ?_).trans ?_⟩
  · rw [Dev.learnEpoch_known (Nat.le_refl _), if_neg (by rw [hm]; decide)]
    dsimp only
    rw [if_neg (by decide : ¬ 2 = 3), if_neg (by decide : ¬ (2 = 0 ∨ 2 = 3)), if_pos rfl]
    exact if_neg (by rw [Bool.not_eq_true]; exact ho)
  · rw [hj]
    rfl

/-- A port of this chip that goes DOWN where there are no slices: its link is listed. -/
theorem doPortEvent_down_own {port w : Nat} (hu : d.fmUp = true) (hm : d.fm.managing = true) (hs : d.fm.slices = []) :
    ∃ j sw tg o, doPortEvent d d.fm.epoch d.fm.chip port 0 w = { d with fm := { d.fm with
      modules := d.fm.modules.map (portNoted d.fm.chip port 0 w)
      listed := ((d.portNoted d.fm.chip port 0 w).listLinks [(d.fm.chip, port)]).1.fm.listed
      journal := j
      syncWait := sw
      mgtTags := tg
      out := o } } := by
  have hl := Dev.listLinks_frame (d.portNoted d.fm.chip port 0 w) [(d.fm.chip, port)]
  obtain ⟨j, sw, tg, l, hj, -⟩ := Dev.journalise_frame ((d.portNoted d.fm.chip port 0 w).listLinks [(d.fm.chip, port)]).1
  refine ⟨j, sw, tg, d.fm.out ++ l ++ [.mgtr (.chip d.fm.chip) d.fm.epoch 0], (Dev.heed_chip (b := ((d.portNoted d.fm.chip port 0 w).listLinks [(d.fm.chip, port)]).1.journalise) hu (Nat.le_refl _) ?_).trans ?_⟩
  · rw [Dev.learnEpoch_known (Nat.le_refl _), if_neg (by rw [hm]; decide)]
    dsimp only
    rw [if_neg (by decide : ¬ 0 = 3), if_pos (Or.inl rfl : 0 = 0 ∨ 0 = 3)]
    have hr : (((d.portNoted d.fm.chip port 0 w).listLinks [(d.fm.chip, port)]).1.journalise).reactTo ((d.portNoted d.fm.chip port 0 w).listLinks [(d.fm.chip, port)]).2 =
        ((d.portNoted d.fm.chip port 0 w).listLinks [(d.fm.chip, port)]).1.journalise := Dev.reactTo_none (by rw [hj, hl]; exact hs) _
    split
    · exact (if_neg (fun h => h.1 rfl)).trans hr
    · exact hr
  · rw [hj, hl]
    rfl

/-! ## A chip that no port reaches (14_recovery.md R428) -/

/-- A module's line once its chip counts as failed. -/
def chipLost (chip : Nat) (m : ModRec) : ModRec := if m.placed && m.chip == chip then { m with failed := true } else m

theorem chipLost_keeps (chip : Nat) (m : ModRec) : (chipLost chip m).placed = m.placed ∧ (chipLost chip m).chip = m.chip ∧ (chipLost chip m).present = m.present ∧
    (m.placed = true → m.chip = chip → (chipLost chip m).failed = true) := by
  unfold chipLost
  split
  · exact ⟨rfl, rfl, rfl, fun _ _ => rfl⟩
  · rename_i h
    refine ⟨rfl, rfl, rfl, fun hp hc => absurd ?_ h⟩
    rw [hp, hc, beq_self_eq_true]
    rfl

/-- The first placed module of a chip, after lines changed that keep placed and chip. -/
theorem find_chip_map {f : ModRec → ModRec} (hf : ∀ m, (f m).placed = m.placed ∧ (f m).chip = m.chip) (l : List ModRec) (chip : Nat) :
    (l.map f).find? (fun m => m.placed && m.chip == chip) = (l.find? (fun m => m.placed && m.chip == chip)).map f := by
  rw [List.find?_map]
  congr 2
  funext m
  simp only [Function.comp, (hf m).1, (hf m).2]

/-- Without slices a chip that fails is noted and its links listed. -/
theorem Dev.chipFails_alone {chip : Nat} (hl : d.lostChip chip = false) (hs : d.fm.slices = []) : d.chipFails chip =
    (let d1 := { d with fm := { d.fm with
      modules := d.fm.modules.map (chipLost chip)
      silent := if d.fm.modules.any (fun (m : ModRec) => m.placed && m.chip == chip) = true then d.fm.silent else d.fm.silent ++ [chip]
      acks := d.fm.acks.filter (fun c => c != chip) } }
    (d1.listLinks ((d1.ringPorts chip).map (fun p => (chip, p)))).1.journalise) := by
  unfold Dev.chipFails
  rw [if_neg (by rw [hl]; exact Bool.false_ne_true)]
  dsimp only
  rw [hs, List.foldl_nil]
  refine Dev.reactTo_none ?_ _
  obtain ⟨j, sw, tg, o, hj, -⟩ := Dev.journalise_frame (Dev.listLinks { d with fm := { d.fm with
    modules := d.fm.modules.map (chipLost chip)
    silent := if d.fm.modules.any (fun (m : ModRec) => m.placed && m.chip == chip) = true then d.fm.silent else d.fm.silent ++ [chip]
    slices := []
    acks := d.fm.acks.filter (fun c => c != chip) } } _).1
  exact (congrArg (fun e : Dev => e.fm.slices) hj).trans rfl

/-- A known chip that fails where there are no slices: it counts as failed and its links are listed. -/
theorem Dev.chipFails_known {chip : Nat} {m : ModRec} (hl : d.lostChip chip = false) (hm : d.fm.modules.find? (fun m => m.placed && m.chip == chip) = some m) (hc : chip ≠ d.fm.chip)
    (hs : d.fm.slices = []) : ∃ j sw tg o b, b = { d with fm := { d.fm with
      modules := d.fm.modules.map (chipLost chip)
      acks := d.fm.acks.filter (fun c => c != chip) } } ∧ d.chipFails chip = { b with fm := { b.fm with
      listed := (b.listLinks ((portsOf m.present).map (fun p => (chip, p)))).1.fm.listed
      journal := j
      syncWait := sw
      mgtTags := tg
      out := o } } := by
  have hk : d.fm.modules.any (fun (m : ModRec) => m.placed && m.chip == chip) = true := List.any_eq_true.2 ⟨m, List.mem_of_find?_eq_some hm, List.find?_some (p := fun (m : ModRec) => m.placed && m.chip == chip) hm⟩
  generalize hb : ({ d with fm := { d.fm with
    modules := d.fm.modules.map (chipLost chip)
    acks := d.fm.acks.filter (fun c => c != chip) } } : Dev) = b
  have hfind : b.fm.modules.find? (fun m => m.placed && m.chip == chip) = some (chipLost chip m) := by
    rw [← hb]
    refine (find_chip_map (fun m => ⟨(chipLost_keeps chip m).1, (chipLost_keeps chip m).2.1⟩) _ chip).trans ?_
    rw [hm]
    rfl
  have hports : b.ringPorts chip = portsOf m.present := by
    unfold Dev.ringPorts
    rw [if_pos (List.any_eq_true.2 ⟨_, List.mem_of_find?_eq_some hfind, List.find?_some (p := fun (m : ModRec) => m.placed && m.chip == chip) hfind⟩)]
    unfold Dev.portsAt
    rw [if_neg (by rw [← hb]; exact hc), hfind]
    exact congrArg portsOf (chipLost_keeps chip m).2.2.1
  obtain ⟨j, sw, tg, o, hj, -⟩ := Dev.journalise_frame (b.listLinks ((portsOf m.present).map (fun p => (chip, p)))).1
  refine ⟨j, sw, tg, b.fm.out ++ o, b, rfl, ?_⟩
  have hx : d.chipFails chip = (b.listLinks ((b.ringPorts chip).map (fun p => (chip, p)))).1.journalise := by
    refine (Dev.chipFails_alone hl hs).trans ?_
    rw [hk, if_pos rfl, ← hb]
  rw [hx, hports, hj]
  rfl

/-! ## Tables that arrive (R268, R276) -/

/-- The line of a module heard of only by its neighbours, from its report. -/
def freshModule (port : Nat) (r : ModReport) (heard : Neighbour) : ModRec :=
  { serial := r.serial, chip := r.stored.getD 0, placed := false, role := 1, part := heard.part, present := heard.present, portSt := [], failed := false, neigh := r.table, relay := port,
    stored := r.stored, key := r.key }

/-- A module not known before joins the manager's list. -/
theorem Dev.takeModule_fresh {port : Nat} {r : ModReport} {heard : Neighbour} (hn : modOf d.fm.modules r.serial = none)
    (hh : (d.fm.neigh ++ d.fm.modules.flatMap (fun (y : ModRec) => y.neigh)).find? (fun (n : Neighbour) => n.serial == r.serial) = some heard) :
    ∃ s, d.takeModule port r = { d with fm := { d.fm with
      modules := d.fm.modules.filter (fun (y : ModRec) => y.serial != r.serial) ++ [freshModule port r heard]
      silent := s } } := by
  unfold Dev.takeModule
  rw [hn, hh]
  exact ⟨_, rfl⟩

theorem doNeighbours_places {port : Nat} {r : ModReport} {b : Dev} {pl : List Nat × List (Nat × Nat)} {ms : List ModRec} {mask : Nat} {heard : Neighbour} (hu : d.fmUp = true) (hr : d.fm.role = 3)
    (hh : (d.fm.neigh ++ d.fm.modules.flatMap (fun (y : ModRec) => y.neigh)).find? (fun (n : Neighbour) => n.serial == r.serial) = some heard) (hself : r.serial ≠ d.sec.fuses.serial)
    (hs : r.slices = []) (hb : b = Dev.mergeOwn { d with fm := { d.fm with modules := d.fm.modules.filter (fun (y : ModRec) => y.serial != r.serial) ++ [freshModule port r heard] } })
    (hn : modOf d.fm.modules r.serial = none) (hw : TablesWhole b.fm.modules) (hpl : pl = (storedPlaces b.fm.modules).getD (walkPlaces b.fm.modules))
    (hms : ms = b.fm.modules.map (placedMod b.fm.modules d.fm.shape pl)) (hmask : mask = ringMaskOf ((ms.filter (fun m => m.placed)).map (fun m => m.present))) :
    ∃ x c n q, doNeighbours d port d.fm.epoch r = { d with
      fm := x
      cfg := c
      nis := n
      ports := q } ∧ x.modules = ms ∧ x.extents = pl.1 ∧ x.ringMask = mask ∧
      (d.fm.standby = none → d.fm.syncWait = false → ∀ m ∈ ms, m.placed = true → m.serial ≠ d.sec.fuses.serial → .assign m.relay d.fm.epoch m.serial m.chip pl.1 mask ∈ x.out) ∧
      (d.fm.standby ≠ none → ∀ m ∈ ms, m.placed = true → m.serial ≠ d.sec.fuses.serial → .assign m.relay d.fm.epoch m.serial m.chip pl.1 mask ∈ x.held) ∧
      (∀ l ∈ badLinks pl ms, l ∈ x.listed ∧ (nextChip (routeWord pl.1 0 0 false) l.1 l.2, l.2 ^^^ 2) ∈ x.listed) := by
  obtain ⟨q, hq⟩ := d.heardAt_frame port
  obtain ⟨sl, ht⟩ := Dev.takeModule_fresh (d := { d with ports := q }) (port := port) hn hh
  generalize hy : Dev.mergeOwn { d with
    fm := { d.fm with
      modules := d.fm.modules.filter (fun (y : ModRec) => y.serial != r.serial) ++ [freshModule port r heard]
      silent := sl }
    ports := q } = y
  have hym : y.fm.modules = b.fm.modules := by
    rw [← hy, hb]
    rfl
  obtain ⟨x, c, n, q', he, h1, h2, h3, h4, h5, h6, h7⟩ := Dev.tryPlace_places (d := y) (pl := pl) (ms := ms) (mask := mask) (by rw [← hy]; exact hr) (by rw [hym]; exact hw) (by rw [hym]; exact hpl)
    (by rw [hym, hms, ← hy]; rfl) hmask
  have hstep : doNeighbours d port d.fm.epoch r = y.tryPlace.send (.mgtr (.port port) y.tryPlace.fm.epoch 0) := by
    unfold doNeighbours
    rw [hq]
    refine (Dev.heed_acts (d := { d with ports := q }) hu (Nat.le_refl _) _ _).trans ?_
    rw [Dev.learnEpoch_known (Nat.le_refl _)]
    dsimp only
    rw [if_neg hself, if_pos (.inl hr), hs, List.foldl_nil, ht, hy]
  obtain ⟨q'', hs'⟩ := y.tryPlace.send_frame (.mgtr (.port port) y.tryPlace.fm.epoch 0)
  rw [he] at hs'
  have hfin : doNeighbours d port d.fm.epoch r = { y with
      fm := { x with out := x.out ++ [.mgtr (.port port) x.epoch 0] }
      cfg := c
      nis := n
      ports := q'' } := hstep.trans (by
    rw [he]
    exact hs')
  refine ⟨{ x with out := x.out ++ [.mgtr (.port port) x.epoch 0] }, c, n, q'', hfin.trans ?_, h1, h2, h3, fun a1 a2 m a3 a4 a5 => ?_, fun a1 m a3 a4 a5 => ?_, h7⟩
  · rw [← hy]
    rfl
  · rw [← hy] at h5
    exact List.mem_append_left _ (h5 a1 a2 m a3 a4 a5)
  · rw [← hy] at h6
    exact h6 a1 m a3 a4 a5

/-- A module that is no manager passes a table on by its relay and remembers the way back. -/
theorem doNeighbours_passes {port ep : Nat} {r : ModReport} (hu : d.fmUp = true) (he : d.fm.epoch ≤ ep) (hr : d.fm.role ≤ 2) (hself : r.serial ≠ d.sec.fuses.serial) :
    ∃ q, doNeighbours d port ep r = { d with
      fm := { d.fm with
        epoch := ep
        relays := smSet 0 d.fm.relays r.serial port
        out := d.fm.out ++ [.neighbours d.fm.relay ep r, .mgtr (.port port) ep 0] }
      ports := q } := by
  obtain ⟨q, hq⟩ := d.heardAt_frame port
  obtain ⟨q1, h1⟩ := Dev.send_frame { d with
    fm := { d.fm with
      epoch := ep
      relays := smSet 0 d.fm.relays r.serial port }
    ports := q } (.neighbours d.fm.relay ep r)
  obtain ⟨q2, h2⟩ := Dev.send_frame { d with
    fm := { d.fm with
      epoch := ep
      relays := smSet 0 d.fm.relays r.serial port
      out := d.fm.out ++ [.neighbours d.fm.relay ep r] }
    ports := q1 } (.mgtr (.port port) ep 0)
  refine ⟨q2, ?_⟩
  unfold doNeighbours
  rw [hq]
  refine (Dev.heed_acts (d := { d with ports := q }) hu he _ _).trans ?_
  rw [Dev.learnEpoch_member (d := { d with ports := q }) hr he]
  dsimp only
  rw [if_neg hself, if_neg (by omega), h1]
  refine h2.trans ?_
  simp

/-! ## ASSIGN (R276) -/

theorem doAssign_own {ep chip mask : Nat} {ext : List Nat} {y : Dev} (hu : d.fmUp = true) (he : d.fm.epoch ≤ ep) (hr : d.fm.role ≤ 2)
    (hp : Dev.takePlace { d with fm := { d.fm with epoch := ep } } chip ext mask = y) :
    doAssign d ep d.sec.fuses.serial chip ext mask = { y with fm := { y.fm with out := y.fm.out ++ [.mgtr (.chip d.fm.mgr) y.fm.epoch 0] } } := by
  unfold doAssign Dev.fromManager
  rw [Dev.heed_acts hu he, Dev.learnEpoch_member hr he, if_pos rfl, hp]
  exact Dev.send_far rfl y

/-- Another module's place is passed on the way its table came. -/
theorem doAssign_passes {ep serial chip mask : Nat} {ext : List Nat} (hu : d.fmUp = true) (he : d.fm.epoch ≤ ep) (hr : d.fm.role ≤ 2) (hself : serial ≠ d.sec.fuses.serial)
    (hq : ∃ q ∈ d.fm.relays, q.1 = serial) :
    ∃ q, doAssign d ep serial chip ext mask = { d with
      fm := { d.fm with
        epoch := ep
        out := d.fm.out ++ [.assign (smGet 0 d.fm.relays serial) ep serial chip ext mask, .mgtr (.chip d.fm.mgr) ep 0] }
      ports := q } := by
  obtain ⟨k, hk, hks⟩ := hq
  obtain ⟨q, h⟩ := Dev.send_frame { d with fm := { d.fm with epoch := ep } } (.assign (smGet 0 d.fm.relays serial) ep serial chip ext mask)
  refine ⟨q, ?_⟩
  unfold doAssign Dev.fromManager
  rw [Dev.heed_acts hu he, Dev.learnEpoch_member hr he]
  dsimp only
  rw [if_neg hself, if_pos (show d.fm.relays.any (fun e => e.1 == serial) = true from List.any_eq_true.2 ⟨k, hk, beq_iff_eq.2 hks⟩), h]
  refine (Dev.send_far rfl _).trans ?_
  simp

end

/-- Settles O32. -/
theorem fmDiscoveryRows : Obligations.FmDiscoveryRows := by
  intro s
  refine ⟨?probe, ?reply, ?replyWaits, ?table, ?pass, ?assign, ?assignPass, ?training, ?up, ?heldOut, ?down, ?silent⟩
  case probe =>
    intro p n hu hp
    obtain ⟨q, hq⟩ := s.dev.heardAt_frame p
    obtain ⟨q1, h1⟩ := Dev.send_frame { s.dev with ports := q } (.mgtr (.port p) s.dev.fm.epoch 0)
    obtain ⟨q2, h2⟩ := Dev.send_frame { s.dev with
      fm := { s.dev.fm with out := s.dev.fm.out ++ [.mgtr (.port p) s.dev.fm.epoch 0] }
      ports := q1 } (.probeReply p (s.dev.self p n.port))
    refine ⟨_, congrArg s.next ((if_pos (by rw [hu, hp]; rfl)).trans (Eq.trans ?_ h2)), rfl, rfl⟩
    rw [hq, h1]
  case reply =>
    intro p n t hu hp hr ht
    obtain ⟨q, hq⟩ := s.dev.heardAt_frame p
    obtain ⟨q1, h1⟩ := Dev.send_frame { s.dev with ports := q } (.mgtr (.port p) s.dev.fm.epoch 0)
    obtain ⟨q2, h2⟩ := Dev.sendTable_frame { s.dev with
      fm := { s.dev.fm with
        neigh := t
        out := s.dev.fm.out ++ [.mgtr (.port p) s.dev.fm.epoch 0] }
      ports := q1 }
    refine ⟨_, congrArg s.next ((if_neg (by rw [hu, hp]; decide)).trans (Eq.trans ?_ h2)), rfl, rfl⟩
    dsimp only
    rw [if_neg (by omega), if_pos hr, hq, h1, ht]
  case replyWaits =>
    intro p n t b k hu hp hr ht hb hk hno hmine
    obtain ⟨q, hq⟩ := s.dev.heardAt_frame p
    obtain ⟨q1, h1⟩ := Dev.send_frame { s.dev with ports := q } (.mgtr (.port p) s.dev.fm.epoch 0)
    have hw : ¬ TablesWhole b.fm.modules := by
      obtain ⟨m, hm, hmn⟩ := hmine
      intro hw
      obtain ⟨j, hj, hjs⟩ := hw m hm k (by rw [hmn]; exact hk)
      exact hno j hj hjs
    refine ⟨_, congrArg s.next ((if_neg (by rw [hu, hp]; decide)).trans (Eq.trans ?_ (Dev.tryPlace_waits (d := { b with
      fm := { b.fm with out := s.dev.fm.out ++ [.mgtr (.port p) s.dev.fm.epoch 0] }
      ports := q1 }) hw))), rfl, ?_⟩
    · dsimp only
      rw [if_pos hr, hq, h1, hb, ht]
      rfl
    · rw [hb]
      rfl
  case table =>
    intro port r b pl ms mask heard hu hr hh hself hs hb hn hw hpl hms hmask
    obtain ⟨x, c, n, q, he, h⟩ := doNeighbours_places (port := port) hu hr hh hself hs hb hn hw hpl hms hmask
    obtain ⟨h1, h2, h3, h4, h5, h6⟩ := h
    exact ⟨_, congrArg s.next he, rfl, h1, h2, h3, h4, h5, h6, rfl⟩
  case pass =>
    intro port ep r hu he hr hself
    obtain ⟨q, h⟩ := doNeighbours_passes (port := port) hu he hr hself
    exact ⟨_, congrArg s.next h, rfl, rfl⟩
  case assign =>
    intro ep chip ext mask hu he hr
    obtain ⟨c, n, q, hp, hcfg⟩ := Dev.takePlace_frame { s.dev with fm := { s.dev.fm with epoch := ep } } chip ext mask
    have hni := fun j => Dev.takePlace_ni { s.dev with fm := { s.dev.fm with epoch := ep } } chip ext mask j
    rw [hp] at hni
    refine ⟨_, congrArg s.next (doAssign_own hu he hr hp), rfl, rfl, fun j hj hl => ?_, fun j hj => ?_, rfl, hcfg⟩
    · exact (hni j).trans (if_pos ⟨hj, hl⟩)
    · exact (hni j).trans (if_neg (fun h => absurd h.1 (Nat.not_lt.2 hj)))
  case assignPass =>
    intro ep serial chip ext mask hu he hr hself hq
    obtain ⟨q, h⟩ := doAssign_passes (chip := chip) (ext := ext) (mask := mask) hu he hr hself hq
    exact ⟨_, congrArg s.next h, rfl, rfl⟩
  case training =>
    intro chip port st w hu hr hc hs
    refine ⟨_, congrArg s.next (doPortEvent_training hu ((Dev.managing_iff _).2 ⟨hr, hc⟩) hs), rfl, rfl, ?_⟩
    exact congrArg (fun f => s.dev.fm.modules.map f) (funext (portNoted_eq chip port st w))
  case up =>
    intro chip port w l0 hu hr hc hl hm
    have ho : (s.dev.linkHeldOut (chip, port) || s.dev.linkHeldOut (s.dev.linkBack (chip, port))) = false := by
      unfold Dev.linkHeldOut
      rw [Bool.or_eq_false_iff, List.any_eq_false, List.any_eq_false]
      refine ⟨fun m hmm h => ?_, fun m hmm h => ?_⟩
      · simp only [Bool.and_eq_true, beq_iff_eq, bne_iff_ne] at h
        exact h.2 ((hm m hmm h.1.1).1 h.1.2)
      · simp only [Bool.and_eq_true, beq_iff_eq, bne_iff_ne] at h
        subst hl
        exact h.2 ((hm m hmm h.1.1).2 h.1.2)
    obtain ⟨j, sw, tg, o, h⟩ := doPortEvent_up (w := w) hu ((Dev.managing_iff _).2 ⟨hr, hc⟩) ho
    refine ⟨_, congrArg s.next h, rfl, rfl, fun l => ?_⟩
    rw [hl]
    simp only [List.mem_filter, Bool.and_eq_true, bne_iff_ne]
    rfl
  case heldOut =>
    intro chip port w m hu hr hc hm hp hmc hne
    refine ⟨_, congrArg s.next (doPortEvent_heldOut hu ((Dev.managing_iff _).2 ⟨hr, hc⟩) ?_), rfl, rfl⟩
    rw [Bool.or_eq_true]
    refine .inl (List.any_eq_true.2 ⟨m, hm, ?_⟩)
    simp only [Bool.and_eq_true, beq_iff_eq, bne_iff_ne]
    exact ⟨⟨hp, hmc⟩, hne⟩
  case down =>
    intro port w hu hr hc hs
    obtain ⟨j, sw, tg, o, h⟩ := doPortEvent_down_own (port := port) (w := w) hu ((Dev.managing_iff _).2 ⟨hr, hc⟩) hs
    refine ⟨_, congrArg s.next h, rfl, rfl, fun l => ?_⟩
    refine (Dev.mem_listLinks (s.dev.portNoted s.dev.fm.chip port 0 w) [(s.dev.fm.chip, port)] l).trans ?_
    simp only [List.mem_singleton, exists_eq_left]
    rfl
  case silent =>
    intro chip m hr hc hn hs hl hm
    obtain ⟨j, sw, tg, o, b, hb, h⟩ := Dev.chipFails_known hl hm hn hs
    refine ⟨_, congrArg s.next ((if_pos ⟨(Dev.managing_iff _).2 ⟨hr, hc⟩, hn⟩).trans h), rfl, ?_, fun k hk hp hkc => ?_, fun p hp hpm => ?_⟩
    · rw [hb]
    · rw [hb] at hk
      obtain ⟨k', -, rfl⟩ := List.mem_map.1 hk
      obtain ⟨g1, g2, -, g4⟩ := chipLost_keeps chip k'
      exact g4 (g1.symm.trans hp) (g2.symm.trans hkc)
    · have hmem : (chip, p) ∈ (portsOf m.present).map (fun p => (chip, p)) := List.mem_map.2 ⟨p, List.mem_filter.2 ⟨List.mem_range.2 hp, hpm⟩, rfl⟩
      refine ⟨(Dev.mem_listLinks b _ _).2 (.inr ⟨_, hmem, .inl rfl⟩), (Dev.mem_listLinks b _ _).2 (.inr ⟨_, hmem, .inr ?_⟩)⟩
      rw [hb]

end Sys2Proof.Machine
end

section
/-! PROOFS. The manager's record of a slice, its aborts and installations, and a member's stop bits (09_fabric_manager.md R290-R296, 14_recovery.md R421). -/

namespace Sys2Proof.Machine

section
variable {d : Dev}

/-! ## The record of a slice (R296) -/

theorem Dev.sliceState_frame (d : Dev) (id st : Nat) : ∃ h, d.sliceState id st = { d with
    fm := { d.fm with slices := d.fm.slices.map (fun x => if x.id = id then { x with st := st } else x) }
    host := h } := by
  unfold Dev.sliceState
  refine foldl_keeps (fun e : Dev => ∃ h, e = { d with
    fm := { d.fm with slices := d.fm.slices.map (fun x => if x.id = id then { x with st := st } else x) }
    host := h }) _ (fun e he c _ => ?_) ⟨d.host, rfl⟩
  obtain ⟨h, rfl⟩ := he
  exact ⟨_, Dev.event_frame _ _ _⟩

/-- A slice's record replaced among the slices. -/
def putRec (z : SliceRec) (l : List SliceRec) : List SliceRec := l.map (fun w => if w.id = z.id then z else w)

theorem putRec_putRec (y z : SliceRec) (h : y.id = z.id) (l : List SliceRec) : putRec z (putRec y l) = putRec z l := by
  unfold putRec
  rw [List.map_map]
  refine List.map_congr_left (fun w _ => ?_)
  dsimp only [Function.comp]
  by_cases hw : w.id = z.id
  · simp only [hw, h, if_true]
  · simp only [h, if_neg hw]

/-- The record goes in with its state; what changes besides is the doorbells of its functions. -/
theorem Dev.putSlice_frame (d : Dev) (z : SliceRec) : ∃ h, d.putSlice z = { d with
    fm := { d.fm with slices := putRec z d.fm.slices }
    host := h } := by
  obtain ⟨h, e⟩ := Dev.sliceState_frame (d.setSlice z) z.id z.st
  refine ⟨h, e.trans ?_⟩
  have hm : (putRec z d.fm.slices).map (fun x => if x.id = z.id then { x with st := z.st } else x) = putRec z d.fm.slices := by
    unfold putRec
    rw [List.map_map]
    refine List.map_congr_left (fun w _ => ?_)
    dsimp only [Function.comp]
    by_cases hw : w.id = z.id
    · simp only [if_pos hw, if_true]
    · simp only [if_neg hw]
  exact congrArg (fun l => { d with
    fm := { d.fm with slices := l }
    host := h }) hm

/-! ## Orders to a slice's members -/

/-- Orders given one after another leave in that order, or are held in it. -/
theorem foldl_say {α : Type} {f : Dev → α → FmMsg} {g : α → FmMsg} (hp : ∀ a, (g a).port = none) (l : List α) (d : Dev)
    (hf : ∀ (o h : List FmMsg) (a : α), f { d with fm := { d.fm with
      out := o
      held := h } } a = g a) :
    l.foldl (fun e a => e.say (f e a)) d = { d with fm := { d.fm with
      out := if d.fm.syncWait = true then d.fm.out else d.fm.out ++ l.map g
      held := if d.fm.syncWait = true then d.fm.held ++ l.map g else d.fm.held } } := by
  induction l generalizing d with
  | nil => simp
  | cons a l ih =>
    have e : d.say (f d a) = { d with fm := { d.fm with
        out := if d.fm.syncWait = true then d.fm.out else d.fm.out ++ [g a]
        held := if d.fm.syncWait = true then d.fm.held ++ [g a] else d.fm.held } } := by
      rw [show f d a = g a from hf d.fm.out d.fm.held a]
      cases hs : d.fm.syncWait with
      | true => exact Dev.say_held hs _
      | false => exact (Dev.say_now hs _).trans (Dev.send_far (hp a) d)
    rw [List.foldl_cons, e]
    refine (ih { d with fm := { d.fm with
        out := if d.fm.syncWait = true then d.fm.out else d.fm.out ++ [g a]
        held := if d.fm.syncWait = true then d.fm.held ++ [g a] else d.fm.held } } (fun o h a => hf o h a)).trans ?_
    cases hs : d.fm.syncWait with
    | true => simp
    | false => simp

/-- The tables given to the members of a slice change only what has left or is held. -/
theorem Dev.sayInstalls_frame (d : Dev) (x : SliceRec) (msg : Nat → Option InstallMsg) : ∃ o h, d.sayInstalls x msg = { d with fm := { d.fm with
    out := o
    held := h } } := by
  unfold Dev.sayInstalls
  refine foldl_keeps (fun e : Dev => ∃ o h, e = { d with fm := { d.fm with
    out := o
    held := h } }) _ (fun e he c _ => ?_) ⟨d.fm.out, d.fm.held, rfl⟩
  obtain ⟨o, h, rfl⟩ := he
  split
  · rename_i m _
    cases hs : d.fm.syncWait with
    | true => exact ⟨_, _, Dev.say_held (d := { d with fm := { d.fm with
        out := o
        held := h } }) hs _⟩
    | false => exact ⟨_, _, (Dev.say_now (d := { d with fm := { d.fm with
        out := o
        held := h } }) hs _).trans (Dev.send_far rfl _)⟩
  · exact ⟨o, h, rfl⟩

/-! ## Aborts (R297) -/

/-- The record of a slice that is being aborted. -/
def SliceRec.aborted (x : SliceRec) (cs : List Nat) : SliceRec :=
  { x with
    st := 5
    awaiting := cs
    installing := false
    reports := []
    outcomes := []
    suspect := false }

/-- The order of an abort to a member. -/
def abortOrder (x : SliceRec) (origin cause c : Nat) : FmMsg := .abortTo c { sliceId := x.id, gen := x.gen, origin := origin, cause := cause }

theorem foldl_abortOrder (x : SliceRec) (cause : Nat) (l : List Nat) (d : Dev) : l.foldl (fun e c => e.say (abortOrder x e.fm.chip cause c)) d = { d with fm := { d.fm with
    out := if d.fm.syncWait = true then d.fm.out else d.fm.out ++ l.map (abortOrder x d.fm.chip cause)
    held := if d.fm.syncWait = true then d.fm.held ++ l.map (abortOrder x d.fm.chip cause) else d.fm.held } } :=
  foldl_say (f := fun e c => abortOrder x e.fm.chip cause c) (g := abortOrder x d.fm.chip cause) (fun _ => rfl) l d (fun _ _ _ => rfl)

theorem Dev.managerAbort_eq (d : Dev) (x : SliceRec) (cause : Nat) : d.managerAbort x cause =
    (x.chips d.fm.extents).foldl (fun e c => e.say (abortOrder x e.fm.chip cause c)) (d.putSlice (x.aborted (x.chips d.fm.extents))).journalise := rfl

/-- With a standby the decision goes to it first and the orders are held. -/
theorem Dev.managerAbort_synced (d : Dev) (x : SliceRec) (cause : Nat) {b : Nat} (hb : d.fm.standby = some b) : ∃ h st, d.managerAbort x cause = { d with
    fm := { d.fm with
      journal := d.fm.journal + 1
      syncWait := true
      mgtTags := d.fm.mgtTags ++ [syncTag b]
      slices := putRec (x.aborted (x.chips d.fm.extents)) d.fm.slices
      out := d.fm.out ++ [.stateSync b d.fm.epoch st false]
      held := d.fm.held ++ (x.chips d.fm.extents).map (abortOrder x d.fm.chip cause) }
    host := h } ∧ st.journal = d.fm.journal + 1 ∧
    st.slices = (putRec (x.aborted (x.chips d.fm.extents)) d.fm.slices).map (fun z => { z with waiter := z.waiter.map d.awayReq }) := by
  obtain ⟨h, hp⟩ := d.putSlice_frame (x.aborted (x.chips d.fm.extents))
  obtain ⟨st, hj, h1, h2⟩ := Dev.journalise_sync (d := { d with
    fm := { d.fm with slices := putRec (x.aborted (x.chips d.fm.extents)) d.fm.slices }
    host := h }) hb
  refine ⟨h, st, ?_, h1, h2⟩
  rw [Dev.managerAbort_eq, hp, hj]
  refine (foldl_abortOrder x cause _ _).trans ?_
  dsimp only
  rw [if_pos rfl, if_pos rfl]

/-! ## Stop bits (R291) -/

theorem Dev.setStop_frame (d : Dev) (node : Nat) (w : BitVec 16) : ∃ n, d.setStop node w = { d with nis := n } ∧ (Dev.ni { d with nis := n } node).stop = w ∧
    ∀ k, k ≠ node → Dev.ni { d with nis := n } k = d.ni k := by
  unfold Dev.setStop
  dsimp only
  exact ⟨_, rfl, congrArg NI.stop (Dev.ni_setNi_same d node _), fun k hk => Dev.ni_setNi_other d node k _ hk⟩

/-- A run of writes of stop bits that all leave one bit at a value. -/
theorem foldl_setStop {f : BitVec 16 → BitVec 16} {slot : Nat} {v : Bool} (hf : ∀ w, (f w).getLsbD slot = v) (l : List (Nat × Nat)) (d : Dev) :
    ∃ n, l.foldl (fun e k => e.setStop k.1 (f (e.ni k.1).stop)) d = { d with nis := n } ∧ ∀ k ∈ l, (Dev.ni { d with nis := n } k.1).stop.getLsbD slot = v := by
  obtain ⟨n, hn⟩ := foldl_keeps (fun e : Dev => ∃ n, e = { d with nis := n }) (f := fun e k => e.setStop k.1 (f (e.ni k.1).stop)) l (fun e he k _ => by
    obtain ⟨n, rfl⟩ := he
    obtain ⟨n', e', -⟩ := Dev.setStop_frame { d with nis := n } k.1 (f (Dev.ni { d with nis := n } k.1).stop)
    exact ⟨n', e'⟩) ⟨d.nis, rfl⟩
  refine ⟨n, hn, fun k hk => ?_⟩
  rw [← hn]
  refine foldl_reaches (P := fun _ => True) (Q := fun e : Dev => (e.ni k.1).stop.getLsbD slot = v) hk (fun _ _ _ _ => trivial) (fun e _ => ?_) (fun e _ hq j _ => ?_) trivial
  · obtain ⟨n', e', hs, -⟩ := e.setStop_frame k.1 (f (e.ni k.1).stop)
    rw [e', hs]
    exact hf _
  · obtain ⟨n', e', hs, ho⟩ := e.setStop_frame j.1 (f (e.ni j.1).stop)
    rw [e']
    by_cases hj : k.1 = j.1
    · rw [hj, hs]
      exact hf _
    · rw [ho _ hj]
      exact hq

theorem getLsbD_twoPow_or {slot : Nat} (h : slot < 16) (w : BitVec 16) : (w ||| BitVec.ofNat 16 (2 ^ slot)).getLsbD slot = true := by
  rw [BitVec.getLsbD_or, BitVec.getLsbD_ofNat, Nat.testBit_two_pow_self]
  simp [h]

theorem getLsbD_twoPow_andNot {slot : Nat} (w : BitVec 16) : (w &&& ~~~(BitVec.ofNat 16 (2 ^ slot))).getLsbD slot = false := by
  rw [BitVec.getLsbD_and, BitVec.getLsbD_not, BitVec.getLsbD_ofNat, Nat.testBit_two_pow_self]
  simp

/-- A slot of a slice is stopped in every NI that holds the slice's descriptor there. -/
theorem Dev.stopSlice_stops {slot : Nat} (h : slot < 16) (d : Dev) (id : Nat) : ∃ n, d.stopSlice id slot true = { d with nis := n } ∧
    ∀ k, (k, slot) ∈ d.sliceNis id → (Dev.ni { d with nis := n } k).stop.getLsbD slot = true := by
  obtain ⟨n, e, hn⟩ := foldl_setStop (f := fun w => w ||| BitVec.ofNat 16 (2 ^ slot)) (getLsbD_twoPow_or h) ((d.sliceNis id).filter (fun e => e.2 == slot)) d
  exact ⟨n, e, fun k hk => hn (k, slot) (List.mem_filter.2 ⟨hk, beq_self_eq_true slot⟩)⟩

theorem Dev.stopSlice_opens (d : Dev) (id slot : Nat) : ∃ n, d.stopSlice id slot false = { d with nis := n } ∧
    ∀ k, (k, slot) ∈ d.sliceNis id → (Dev.ni { d with nis := n } k).stop.getLsbD slot = false := by
  obtain ⟨n, e, hn⟩ := foldl_setStop (f := fun w => w &&& ~~~(BitVec.ofNat 16 (2 ^ slot))) getLsbD_twoPow_andNot ((d.sliceNis id).filter (fun e => e.2 == slot)) d
  exact ⟨n, e, fun k hk => hn (k, slot) (List.mem_filter.2 ⟨hk, beq_self_eq_true slot⟩)⟩

end

end Sys2Proof.Machine
end

section
/-! PROOFS. Reactions, aborts, teardowns and restarts of a slice (09_fabric_manager.md R290-R297, 14_recovery.md R421-R425). -/

namespace Sys2Proof.Machine

section
variable {d : Dev}

/-! ## Drains (R290-R292) -/

/-- A parked request of a slot that comes free waits to be sent afresh. -/
theorem Dev.setStop_tags {node t : Nat} {w : BitVec 16} {r : TagRec} (h : (t, some r) ∈ (d.ni node).tags) :
    (t, some (if r.st = .parked ∧ w.getLsbD (r.ctx % 16) = false then { r with st := .waiting } else r)) ∈ ((d.setStop node w).ni node).tags := by
  unfold Dev.setStop
  dsimp only
  rw [Dev.ni_setNi_same]
  exact List.mem_map.2 ⟨_, h, rfl⟩

/-- Every collective of a context in a unit is failing. -/
def CollsFailing (e : Dev) (c : Nat) : Prop := ∀ u o, o ∈ (e.unit u).ops → o.ctx = c → o.failing = true

/-- The operations of a unit after the collectives of a context were made to fail. -/
theorem Dev.failColls_ops (d : Dev) (c u : Nat) : ((d.failColls c).unit u).ops = (d.unit u).ops.map (fun o => if o.ctx = c then { o with failing := true } else o) := by
  unfold Dev.failColls Dev.unit
  dsimp only
  induction d.coll with
  | nil => rfl
  | cons e m ih =>
    obtain ⟨k, x⟩ := e
    rw [List.map_cons]
    unfold smGet
    split
    · rfl
    · exact ih

theorem Dev.failColls_fails (d : Dev) (c : Nat) : CollsFailing (d.failColls c) c := by
  intro u o ho hc
  rw [Dev.failColls_ops] at ho
  obtain ⟨p, -, rfl⟩ := List.mem_map.1 ho
  by_cases hp : p.ctx = c
  · rw [if_pos hp]
  · rw [if_neg hp] at hc
    exact absurd hc hp

theorem CollsFailing.failColls {c : Nat} (h : CollsFailing d c) (k : Nat) : CollsFailing (d.failColls k) c := by
  intro u o ho hc
  rw [Dev.failColls_ops] at ho
  obtain ⟨p, hp, rfl⟩ := List.mem_map.1 ho
  by_cases hk : p.ctx = k
  · rw [if_pos hk]
  · rw [if_neg hk] at hc ⊢
    exact h u p hp hc

/-- The collectives of some contexts here enter FAILING. -/
theorem foldl_failColls (p : Nat → Prop) [DecidablePred p] (l : List Nat) (d : Dev) : ∃ q, l.foldl (fun e c => if p c then e.failColls c else e) d = { d with coll := q } ∧
    ∀ c ∈ l, p c → CollsFailing { d with coll := q } c := by
  obtain ⟨q, hq⟩ := foldl_keeps (fun e : Dev => ∃ q, e = { d with coll := q }) (f := fun e c => if p c then e.failColls c else e) l (fun e he c _ => by
    obtain ⟨q, rfl⟩ := he
    split
    · exact ⟨_, rfl⟩
    · exact ⟨q, rfl⟩) ⟨d.coll, rfl⟩
  refine ⟨q, hq, fun c hc hp => ?_⟩
  rw [← hq]
  refine foldl_reaches (P := fun _ => True) (Q := fun e => CollsFailing e c) hc (fun _ _ _ _ => trivial) (fun e _ => ?_) (fun e _ he k _ => ?_) trivial
  · rw [if_pos hp]
    exact e.failColls_fails c
  · split
    · exact he.failColls k
    · exact he

/-- A drained slice is reported, or its report is still due. -/
theorem Dev.reportDrained_outcome (d : Dev) (id : Nat) : ∃ dr o, d.reportDrained id = { d with fm := { d.fm with
    draining := dr
    out := o } } ∧ (dr = d.fm.draining ∨ ∃ w k, .drainReport d.fm.mgr d.fm.epoch id true w k ∈ o) := by
  unfold Dev.reportDrained
  dsimp only
  split
  · exact ⟨_, _, Dev.send_far rfl _, .inr ⟨_, _, List.mem_append_right _ List.mem_cons_self⟩⟩
  · exact ⟨d.fm.draining, d.fm.out, rfl, .inl rfl⟩

theorem doDrain_drains {ep id slot : Nat} (hu : d.fmUp = true) (he : d.fm.epoch ≤ ep) (hr : d.fm.role ≤ 2) (hs : slot < 16) :
    ∃ n q x, doDrain d ep id slot = { d with
      nis := n
      coll := q
      fm := x } ∧ (∀ k, (k, slot) ∈ d.sliceNis id → (Dev.ni { d with nis := n } k).stop.getLsbD slot = true) ∧
      (∀ c ∈ d.sliceCtxs id, c % 16 = slot → CollsFailing { d with coll := q } c) ∧ ((id, slot) ∈ x.draining ∨ ∃ w k, .drainReport d.fm.mgr ep id true w k ∈ x.out) := by
  obtain ⟨n, hn, hstop⟩ := Dev.stopSlice_stops hs { d with fm := { d.fm with epoch := ep } } id
  obtain ⟨q, hq, hfail⟩ := foldl_failColls (fun c => c % 16 = slot) (d.sliceCtxs id) { d with
    fm := { d.fm with epoch := ep }
    nis := n }
  obtain ⟨dr, o, hrep, hdr⟩ := Dev.reportDrained_outcome { d with
    fm := { d.fm with
      epoch := ep
      draining := d.fm.draining.filter (fun (e : Nat × Nat) => e.1 != id) ++ [(id, slot)] }
    nis := n
    coll := q } id
  have hstep : doDrain d ep id slot = Dev.send { d with
      fm := { d.fm with
        epoch := ep
        draining := dr
        out := o }
      nis := n
      coll := q } (.mgtr (.chip d.fm.mgr) ep 0) := by
    unfold doDrain Dev.fromManager
    rw [Dev.heed_acts hu he, Dev.learnEpoch_member hr he, hn]
    dsimp only
    rw [show Dev.sliceCtxs { d with fm := { d.fm with epoch := ep } } id = d.sliceCtxs id from rfl, hq]
    dsimp only
    rw [hrep]
  refine ⟨n, q, _, hstep.trans (Dev.send_far rfl _), hstop, hfail, ?_⟩
  rcases hdr with rfl | ⟨w, k, h⟩
  · exact .inl (List.mem_append_right _ List.mem_cons_self)
  · exact .inr ⟨w, k, List.mem_append_left _ h⟩

/-! ## What members report (R292, R293, R297) -/

/-- A message of the epoch known is acted on and acknowledged. -/
theorem Dev.heed_same {c : Nat} {b : Dev} {act : Dev → Dev} (hu : d.fmUp = true) (hb : act d = b) :
    d.heed (.chip c) d.fm.epoch act = { b with fm := { b.fm with out := b.fm.out ++ [.mgtr (.chip c) b.fm.epoch 0] } } :=
  Dev.heed_chip hu (Nat.le_refl _) (by rw [Dev.learnEpoch_known (Nat.le_refl _)]; exact hb)

/-- A member's report that the manager takes in. -/
def SliceRec.reported (y : SliceRec) (chip : Nat) (w : List (Nat × Bool)) : SliceRec :=
  { y with
    awaiting := y.awaiting.filter (fun c => c != chip)
    outcomes := mergeOutcomes y.outcomes w }

/-- What an idle member's report leads to at a manager that waits for it. -/
theorem doDrainReport_idle {chip id k : Nat} {w : List (Nat × Bool)} {y : SliceRec} {b : Dev} (hu : d.fmUp = true) (hm : d.fm.managing = true) (hy : d.sliceRec id = some y) (h2 : y.st = 2) (hc : chip ∈ y.awaiting)
    (hb : (if (y.reported chip w).awaiting = [] then (d.setSlice (y.reported chip w)).afterDrain (y.reported chip w) else d.setSlice (y.reported chip w)) = b) :
    doDrainReport d d.fm.epoch chip id true w k = { b with fm := { b.fm with out := b.fm.out ++ [.mgtr (.chip chip) b.fm.epoch 0] } } := by
  refine Dev.heed_same hu ?_
  rw [hy]
  dsimp only
  rw [if_neg (by rw [hm, h2]; simpa using hc), if_neg (by decide)]
  exact hb

theorem doDrainReport_busy {chip id k : Nat} {w : List (Nat × Bool)} {y : SliceRec} (hu : d.fmUp = true) (hm : d.fm.managing = true) (hy : d.sliceRec id = some y) (h2 : y.st = 2) (hc : chip ∈ y.awaiting) :
    doDrainReport d d.fm.epoch chip id false w k = { d.managerAbort y 0 with fm := { (d.managerAbort y 0).fm with
      out := (d.managerAbort y 0).fm.out ++ [.mgtr (.chip chip) (d.managerAbort y 0).fm.epoch 0] } } := by
  refine Dev.heed_same hu ?_
  rw [hy]
  dsimp only
  rw [if_neg (by rw [hm, h2]; simpa using hc)]
  exact if_pos rfl

theorem doDrainLimit_aborts {id : Nat} {y : SliceRec} (hm : d.fm.managing = true) (hy : d.sliceRec id = some y) (h2 : y.st = 2) (hc : y.awaiting ≠ []) : doDrainLimit d id = d.managerAbort y 0 := by
  unfold doDrainLimit
  rw [hy]
  dsimp only
  rw [if_pos (by rw [hm, h2]; simpa using hc)]

/-- A slice's record with new trees, sent to the members for installation. -/
def SliceRec.installed (x : SliceRec) (ts : List (List TreeNode)) (st : Nat) (cs : List Nat) : SliceRec :=
  { x with
    trees := ts
    st := st
    awaiting := cs
    installing := true
    newLinks := [] }

theorem Dev.installNew_eq (d : Dev) {x : SliceRec} {st : Nat} {refuse : Dev → SliceRec → Nat → Dev} {ts : List (List TreeNode)} (h1 : (d.detoursOf x).length ≤ 512)
    (h2 : x.routable d.fm.extents d.fm.ringMask (d.detoursOf x) x.newLinks = true) (h3 : x.allTrees d.fm.extents d.fm.ringMask (d.detoursOf x) = some ts)
    (h4 : (d.planTrees (x.plist.headD 0) (x.chips d.fm.extents) ts.length).isSome = true) :
    d.installNew x st refuse = ((d.putSlice (x.installed ts st (x.chips d.fm.extents))).journalise).sayInstalls (x.installed ts st (x.chips d.fm.extents))
      (fun c => d.installMsg (x.installed ts st (x.chips d.fm.extents)) c) := by
  have hp : (d.planTrees (x.plist.headD 0) (x.chips d.fm.extents) ts.length).isNone = false := Option.isNone_eq_false_iff.2 h4
  unfold Dev.installNew
  dsimp only
  rw [if_neg (Nat.not_lt.2 h1), h2, Bool.not_true, if_neg Bool.false_ne_true, h3]
  exact if_neg (fun hn => absurd (hp.symm.trans hn) Bool.false_ne_true)

/-- New tables that find paths, trees and slots are installed at every member. -/
theorem Dev.installNew_installs {x : SliceRec} {st : Nat} {refuse : Dev → SliceRec → Nat → Dev} {ts : List (List TreeNode)} (h1 : (d.detoursOf x).length ≤ 512)
    (h2 : x.routable d.fm.extents d.fm.ringMask (d.detoursOf x) x.newLinks = true) (h3 : x.allTrees d.fm.extents d.fm.ringMask (d.detoursOf x) = some ts)
    (h4 : (d.planTrees (x.plist.headD 0) (x.chips d.fm.extents) ts.length).isSome = true) :
    ∃ z h, d.installNew x st refuse = { d with
      fm := z
      host := h } ∧ z.slices = putRec (x.installed ts st (x.chips d.fm.extents)) d.fm.slices ∧ z.epoch = d.fm.epoch := by
  obtain ⟨h, e⟩ := d.putSlice_frame (x.installed ts st (x.chips d.fm.extents))
  obtain ⟨j, sw, tg, l, e', -⟩ := Dev.journalise_frame { d with
    fm := { d.fm with slices := putRec (x.installed ts st (x.chips d.fm.extents)) d.fm.slices }
    host := h }
  obtain ⟨o, hd, e''⟩ := Dev.sayInstalls_frame { d with
    fm := { d.fm with
      slices := putRec (x.installed ts st (x.chips d.fm.extents)) d.fm.slices
      journal := j
      syncWait := sw
      mgtTags := tg
      out := d.fm.out ++ l }
    host := h } (x.installed ts st (x.chips d.fm.extents)) (fun c => d.installMsg (x.installed ts st (x.chips d.fm.extents)) c)
  refine ⟨{ d.fm with
    slices := putRec (x.installed ts st (x.chips d.fm.extents)) d.fm.slices
    journal := j
    syncWait := sw
    mgtTags := tg
    out := o
    held := hd }, h, (d.installNew_eq h1 h2 h3 h4).trans ?_, rfl, rfl⟩
  rw [e, e']
  exact e''

theorem Dev.afterInstall_new {z : SliceRec} (hd : z.destroying = false) (h0 : z.st = 0) (hw : z.waiter = none) : d.afterInstall z = (d.putSlice { z with
    st := 1
    waiter := none }).journalise := by
  unfold Dev.afterInstall
  rw [if_neg (by rw [hd]; exact Bool.false_ne_true)]
  split
  · dsimp only
    split
    · exact absurd (‹z.waiter = some _›.symm.trans hw) (Option.some_ne_none _)
    · rfl
  · exact absurd (‹z.st = 3›.symm.trans h0) (by decide)
  · exact absurd (‹z.st = 5›.symm.trans h0) (by decide)
  · exact absurd h0 ‹z.st = 0 → False›

/-- The last INSTALL_DONE of a new slice puts it in service. -/
theorem doInstallDone_serves {chip id : Nat} {y : SliceRec} (hu : d.fmUp = true) (hm : d.fm.managing = true) (hy : d.sliceRec id = some y) (hi : y.installing = true) (ha : y.awaiting = [chip]) (h0 : y.st = 0)
    (hd : y.destroying = false) (hw : y.waiter = none) (hh : d.fm.handover = none) :
    ∃ x h, doInstallDone d d.fm.epoch chip id = { d with
      fm := x
      host := h } ∧ x.slices = putRec { y with
        awaiting := []
        installing := false
        st := 1 } d.fm.slices := by
  have hf : ([chip].filter (fun c => c != chip)) = [] := by simp
  generalize hz : ({ y with
    awaiting := []
    installing := false } : SliceRec) = z
  have hz1 : ({ y with
      awaiting := []
      installing := false
      st := 1 } : SliceRec) = { z with
      st := 1
      waiter := none } := by
    rw [← hz, ← hw]
  obtain ⟨h, e⟩ := Dev.putSlice_frame (d.setSlice z) { z with
    st := 1
    waiter := none }
  obtain ⟨j, sw, tg, l, e', -⟩ := Dev.journalise_frame { d with
    fm := { d.fm with slices := putRec { z with
      st := 1
      waiter := none } (putRec z d.fm.slices) }
    host := h }
  have hafter : (d.setSlice z).afterInstall z = { d with
      fm := { d.fm with
        slices := putRec { z with
          st := 1
          waiter := none } (putRec z d.fm.slices)
        journal := j
        syncWait := sw
        mgtTags := tg
        out := d.fm.out ++ l }
      host := h } := by
    rw [Dev.afterInstall_new (by rw [← hz]; exact hd) (by rw [← hz]; exact h0) (by rw [← hz]; exact hw), e]
    exact e'
  have hov : ((d.setSlice z).afterInstall z).tryHandover = (d.setSlice z).afterInstall z := by
    unfold Dev.tryHandover
    rw [show ((d.setSlice z).afterInstall z).fm.handover = none by rw [hafter]; exact hh]
  refine ⟨{ d.fm with
    slices := putRec { z with
      st := 1
      waiter := none } (putRec z d.fm.slices)
    journal := j
    syncWait := sw
    mgtTags := tg
    out := d.fm.out ++ l ++ [.mgtr (.chip chip) d.fm.epoch 0] }, h, (Dev.heed_same (b := (d.setSlice z).afterInstall z) hu ?_).trans ?_, ?_⟩
  · rw [hy]
    dsimp only
    rw [if_neg (by rw [hm, hi, ha]; simp), ha, hf, if_pos rfl, hz]
    exact hov
  · rw [hafter]
  · dsimp only
    rw [hz1]
    exact putRec_putRec z _ (by rfl) d.fm.slices

end

end Sys2Proof.Machine
end

section
/-! PROOFS. The reactions of a slice: resumes and the manager's decisions (09_fabric_manager.md R290-R297). -/

namespace Sys2Proof.Machine

section
variable {d : Dev}

/-! ## Resumes (R294) -/

/-- The FAILING collectives of a context here complete with the codes that RESUME carries. -/
def Dev.endFailing (os : List (Nat × Nat)) (d : Dev) (c : Nat) : Dev :=
  ((d.unit (d.rankUnit c)).ops.filter (fun o => o.ctx == c && o.failing)).foldl (fun e o =>
    match os.find? (fun q => q.1 == o.seq) with
    | some q => e.collEnd (d.rankUnit c) o q.2
    | none => e) d

theorem Dev.endFailing_none (d : Dev) (c : Nat) : d.endFailing [] c = d := List.foldl_fixed' (fun _ => rfl) _

/-- The only collective of a unit, FAILING, completes with its code. -/
theorem Dev.endFailing_one {c code : Nat} {o : CollOp} (ho : (d.unit (d.rankUnit c)).ops = [o]) (hc : o.ctx = c) (hf : o.failing = true) :
    d.endFailing [(o.seq, code)] c = d.collEnd (d.rankUnit c) o code := by
  have h1 : [o].filter (fun o => o.ctx == c && o.failing) = [o] := by simp [hc, hf]
  have h2 : [(o.seq, code)].find? (fun q => q.1 == o.seq) = some (o.seq, code) := by simp
  unfold Dev.endFailing
  rw [ho, h1, List.foldl_cons, List.foldl_nil, h2]

/-- What a completion with one participant leaves: no operation, and the participant's counter. -/
theorem Dev.collEnd_ends {u code : Nat} {o : CollOp} {q : CollPart} (ho : (d.unit u).ops = [o]) (hp : o.parts = [q]) :
    ((d.collEnd u o code).unit u).ops = [] ∧ (d.collEnd u o code).curds = (d.setCurd (curdKey q.node q.slot) { (d.curd (curdKey q.node q.slot)).complete q.k code with
      colls := (d.curd (curdKey q.node q.slot)).colls - 1 }).curds := by
  have hd : (d.setUnit u { d.unit u with ops := (d.unit u).ops.filter (fun y => !(y.ctx == o.ctx && y.numbered == o.numbered && y.seq == o.seq)) }).unit u =
      { d.unit u with ops := [] } := by
    rw [Dev.unit_setUnit_same, ho]
    simp
  unfold Dev.collEnd
  rw [hp]
  dsimp only [List.foldl_cons, List.foldl_nil]
  split
  · exact ⟨congrArg CollUnit.ops hd, rfl⟩
  · exact ⟨congrArg CollUnit.ops hd, rfl⟩

/-- RESUME at a member: the slot flows, then the FAILING collectives of each context complete. -/
theorem doResume_opens {ep : Nat} (id slot : Nat) (os : List (Nat × Nat)) (hu : d.fmUp = true) (he : d.fm.epoch ≤ ep) (hr : d.fm.role ≤ 2) :
    ∃ n, (∀ k, (k, slot) ∈ d.sliceNis id → (Dev.ni { d with nis := n } k).stop.getLsbD slot = false) ∧ ∀ b, (d.sliceCtxs id).foldl (Dev.endFailing os) { d with
        fm := { d.fm with
          epoch := ep
          draining := d.fm.draining.filter (fun e => e.1 != id) }
        nis := n } = b → doResume d ep id slot os = { b with fm := { b.fm with out := b.fm.out ++ [.mgtr (.chip d.fm.mgr) b.fm.epoch 0] } } := by
  obtain ⟨n, e, hn⟩ := Dev.stopSlice_opens { d with fm := { d.fm with
    epoch := ep
    draining := d.fm.draining.filter (fun e => e.1 != id) } } id slot
  refine ⟨n, hn, fun b hb => ?_⟩
  unfold doResume Dev.fromManager
  refine Dev.heed_chip hu he ?_
  rw [Dev.learnEpoch_member hr he]
  dsimp only
  rw [e]
  exact hb

/-- RESUME at a member with one FAILING collective. -/
theorem doResume_one {ep id c code : Nat} (slot : Nat) {o : CollOp} (hu : d.fmUp = true) (he : d.fm.epoch ≤ ep) (hr : d.fm.role ≤ 2) (hc : d.sliceCtxs id = [c])
    (ho : (d.unit (d.rankUnit c)).ops = [o]) (hoc : o.ctx = c) (hf : o.failing = true) : ∃ a b : Dev, (a.unit (d.rankUnit c)).ops = [o] ∧ a.curds = d.curds ∧ b = a.collEnd (d.rankUnit c) o code ∧
      doResume d ep id slot [(o.seq, code)] = { b with fm := { b.fm with out := b.fm.out ++ [.mgtr (.chip d.fm.mgr) b.fm.epoch 0] } } := by
  obtain ⟨n, -, h⟩ := doResume_opens id slot [(o.seq, code)] hu he hr
  rw [hc] at h
  refine ⟨{ d with
    fm := { d.fm with
      epoch := ep
      draining := d.fm.draining.filter (fun e => e.1 != id) }
    nis := n }, _, ho, rfl, rfl, h _ ?_⟩
  exact Dev.endFailing_one (by exact ho) hoc hf

/-! ## The manager's decisions (R290, R292, R293, R297) -/

/-- The members' tables follow the last report of a drained slice. -/
theorem doDrainReport_installs {chip id k : Nat} {w : List (Nat × Bool)} {y : SliceRec} {ts : List (List TreeNode)} (hu : d.fmUp = true) (hm : d.fm.managing = true) (hy : d.sliceRec id = some y) (h2 : y.st = 2)
    (ha : y.awaiting = [chip]) (h1 : (d.detoursOf y).length ≤ 512) (hr : y.routable d.fm.extents d.fm.ringMask (d.detoursOf y) y.newLinks = true)
    (ht : y.allTrees d.fm.extents d.fm.ringMask (d.detoursOf y) = some ts) (hp : (d.planTrees (y.plist.headD 0) (y.chips d.fm.extents) ts.length).isSome = true) :
    ∃ x h, doDrainReport d d.fm.epoch chip id true w k = { d with
      fm := x
      host := h } ∧ x.slices = putRec { y with
        trees := ts
        st := 3
        awaiting := y.chips d.fm.extents
        installing := true
        newLinks := []
        moves := []
        outcomes := mergeOutcomes y.outcomes w } d.fm.slices := by
  have hf : (y.reported chip w).awaiting = [] := by
    unfold SliceRec.reported
    rw [ha]
    simp
  obtain ⟨z, h, e, hz, -⟩ := Dev.installNew_installs (d := d.setSlice (y.reported chip w)) (x := { y.reported chip w with moves := [] }) (st := 3) (refuse := fun d x _ => d.managerAbort x 0) (ts := ts) h1 hr ht hp
  refine ⟨{ z with out := z.out ++ [.mgtr (.chip chip) z.epoch 0] }, h, (doDrainReport_idle (b := { d with
    fm := z
    host := h }) hu hm hy h2 (by rw [ha]; exact List.mem_cons_self) ?_).trans rfl, ?_⟩
  · rw [if_pos hf]
    exact e
  · exact hz.trans (putRec_putRec _ _ (by rfl) d.fm.slices)

/-- A manager's record after a report that is not the last. -/
theorem Dev.setSlice_sends {m : FmMsg} (z : SliceRec) : { d.setSlice z with fm := { (d.setSlice z).fm with out := (d.setSlice z).fm.out ++ [m] } } = { d with fm := { d.fm with
    out := d.fm.out ++ [m]
    slices := d.fm.slices.map (fun w => if w.id = z.id then z else w) } } := rfl

theorem doInstallDone_partial {chip id : Nat} {y : SliceRec} (hu : d.fmUp = true) (hm : d.fm.managing = true) (hy : d.sliceRec id = some y) (hi : y.installing = true) (hc : chip ∈ y.awaiting)
    (hne : y.awaiting.filter (fun c => c != chip) ≠ []) : doInstallDone d d.fm.epoch chip id = { d with fm := { d.fm with
      out := d.fm.out ++ [.mgtr (.chip chip) d.fm.epoch 0]
      slices := putRec { y with awaiting := y.awaiting.filter (fun c => c != chip) } d.fm.slices } } := by
  refine (Dev.heed_same (b := d.setSlice { y with awaiting := y.awaiting.filter (fun c => c != chip) }) hu ?_).trans rfl
  rw [hy]
  dsimp only
  rw [if_neg (by rw [hm, hi]; simpa using hc)]
  exact if_neg hne

theorem doTeardownReport_partial {chip id : Nat} {rs : List RankReport} {y : SliceRec} (hm : d.fm.managing = true) (hy : d.sliceRec id = some y) (h5 : y.st = 5) (hi : y.installing = false) (hc : chip ∈ y.awaiting)
    (hne : y.awaiting.filter (fun c => c != chip) ≠ []) : doTeardownReport d chip id rs = d.setSlice { y with
      awaiting := y.awaiting.filter (fun c => c != chip)
      reports := y.reports ++ rs } := by
  unfold doTeardownReport
  rw [hy]
  dsimp only
  rw [if_neg (by rw [hm, h5, hi]; simpa using hc)]
  exact if_neg hne

theorem doAbortResend_tells {chip id : Nat} {y : SliceRec} (hm : d.fm.managing = true) (hy : d.sliceRec id = some y) (h5 : y.st = 5) (hi : y.installing = false) (hc : chip ∈ y.awaiting) (hs : d.fm.syncWait = false) :
    doAbortResend d id chip = { d with fm := { d.fm with out := d.fm.out ++ [.abortTo chip { sliceId := id, gen := y.gen, origin := d.fm.chip, cause := 0 }] } } := by
  unfold doAbortResend
  rw [hy]
  dsimp only
  rw [if_pos (by rw [hm, h5, hi]; simpa using hc), Dev.say_now hs]
  exact Dev.send_far rfl d

end

end Sys2Proof.Machine
end

section
/-! PROOFS. Restarts of a slice at its members (14_recovery.md R424). -/

namespace Sys2Proof.Machine

section
variable {d : Dev}

/-- The ranks of a slice here that a restart of a generation takes. -/
def Dev.restartRanks (d : Dev) (id gen : Nat) : List Nat := (d.sliceCtxs id).filter (fun c => (d.ctx c).gen == gen && (d.ctx c).tear.isNone)

/-- The slots of a slice here flow again, and its drain is forgotten. -/
def Dev.flowAgain (d : Dev) (id : Nat) : Dev :=
  ((d.sliceNis id).map (fun q => q.2)).dedup.foldl (fun a q => a.stopSlice id q false) { d with fm := { d.fm with draining := d.fm.draining.filter (fun q => q.1 != id) } }

theorem Dev.flowAgain_frame (d : Dev) (id : Nat) : ∃ n, d.flowAgain id = { d with
    fm := { d.fm with draining := d.fm.draining.filter (fun q => q.1 != id) }
    nis := n } := by
  refine foldl_keeps (fun e : Dev => ∃ n, e = { d with
    fm := { d.fm with draining := d.fm.draining.filter (fun q => q.1 != id) }
    nis := n }) _ (fun e he q _ => ?_) ⟨d.nis, rfl⟩
  obtain ⟨n, rfl⟩ := he
  obtain ⟨n', e', -⟩ := Dev.stopSlice_opens { d with
    fm := { d.fm with draining := d.fm.draining.filter (fun q => q.1 != id) }
    nis := n } id q
  exact ⟨n', e'⟩

theorem Dev.restartSlice_unloads {id gen : Nat} (hk : d.restartRanks id gen ≠ []) : ∃ st, d.restartSlice id gen none = (d.flowAgain id).leaveUnloaded id (d.restartRanks id gen) st := by
  unfold Dev.restartSlice
  dsimp only
  rw [if_neg (by rw [List.isEmpty_iff]; exact hk)]
  exact ⟨_, rfl⟩

theorem Dev.restartSlice_reloads {id gen n : Nat} {r : Dev} (hk : d.restartRanks id gen ≠ [])
    (hr : ((d.restartRanks id gen).foldl (fun a q => a.setCtx q ((a.ctx q).resumedAt n)) (d.flowAgain id)).reloadAll (d.restartRanks id gen) n = (r, true)) :
    d.restartSlice id gen (some n) = (d.restartRanks id gen).foldl (fun a q => (a.setCtx q { a.ctx q with barred := [] }).event 2 (some (q / 16))) (r.sliceState id 1) := by
  unfold Dev.restartSlice
  dsimp only
  rw [if_neg (by rw [List.isEmpty_iff]; exact hk)]
  generalize hq : Dev.reloadAll _ _ n = q
  have hqr : q = (r, true) := hq.symm.trans hr
  rw [hqr]
  rfl

/-! ## No program -/

theorem Dev.unload_ctx (d : Dev) (c k : Nat) : (d.unload c).ctx k = if k = c then { d.ctx c with
    prog := .none_
    saved := none
    lastProg := 0 } else d.ctx k := by
  have h : (d.unload c).ctx k = (d.setCtx c { d.ctx c with
      prog := .none_
      saved := none
      lastProg := 0 }).ctx k := by
    unfold Dev.unload
    dsimp only
    split <;> rfl
  rw [h]
  split
  case isTrue hk => rw [hk, Dev.ctx_setCtx_same]
  case isFalse hk => rw [Dev.ctx_setCtx_other _ _ _ _ hk]

theorem Dev.unload_fm (d : Dev) (c : Nat) : (d.unload c).fm = d.fm := by
  unfold Dev.unload
  dsimp only
  split <;> rfl

/-- Contexts left without a program; the others and the manager's part stay. -/
theorem Dev.leaveUnloaded_ctx (d : Dev) (id : Nat) (l : List Nat) (st : Nat) : (∀ c ∈ l, ((d.leaveUnloaded id l st).ctx c).prog = .none_ ∧ ((d.leaveUnloaded id l st).ctx c).saved = none) ∧
    (∀ c, c ∉ l → (d.leaveUnloaded id l st).ctx c = d.ctx c) ∧ (d.leaveUnloaded id l st).fm.draining = d.fm.draining := by
  obtain ⟨h, e⟩ := Dev.sliceState_frame (l.foldl (fun a c => a.unload c) d) id st
  have hc (k : Nat) : (d.leaveUnloaded id l st).ctx k = (l.foldl (fun a c => a.unload c) d).ctx k := by
    unfold Dev.leaveUnloaded
    rw [e]
    rfl
  have hf : (l.foldl (fun a c => a.unload c) d).fm = d.fm := foldl_keeps (fun e : Dev => e.fm = d.fm) l (fun e he c _ => (e.unload_fm c).trans he) rfl
  refine ⟨fun c hl => ?_, fun c hl => ?_, ?_⟩
  · rw [hc c]
    refine foldl_reaches (P := fun _ => True) (Q := fun e : Dev => (e.ctx c).prog = .none_ ∧ (e.ctx c).saved = none) hl (fun _ _ _ _ => trivial) (fun e _ => ?_) (fun e _ hq k _ => ?_) trivial
    · rw [Dev.unload_ctx, if_pos rfl]
      exact ⟨rfl, rfl⟩
    · rw [Dev.unload_ctx]
      split
      · exact ⟨rfl, rfl⟩
      · exact hq
  · rw [hc c]
    exact foldl_keeps (fun e : Dev => e.ctx c = d.ctx c) l (fun e he k hk => by
      have hne : c ≠ k := fun h => hl (h.symm ▸ hk)
      rw [Dev.unload_ctx, if_neg hne, he]) rfl
  · unfold Dev.leaveUnloaded
    rw [e]
    exact (rfl : _ = (l.foldl (fun a c => a.unload c) d).fm.draining).trans (congrArg FM.draining hf)

/-- RESTART without a step leaves the ranks with no program. -/
theorem doRestart_unloads {ep id gen : Nat} (hu : d.fmUp = true) (he : d.fm.epoch ≤ ep) (hr : d.fm.role ≤ 2) (hk : d.restartRanks id gen ≠ []) :
    (∀ c ∈ d.restartRanks id gen, ((doRestart d ep id gen none).ctx c).prog = .none_ ∧ ((doRestart d ep id gen none).ctx c).saved = none) ∧
    (∀ c, c ∉ d.restartRanks id gen → (doRestart d ep id gen none).ctx c = d.ctx c) ∧ ∀ q ∈ (doRestart d ep id gen none).fm.draining, q.1 ≠ id := by
  obtain ⟨st, e⟩ := Dev.restartSlice_unloads (d := { d with fm := { d.fm with epoch := ep } }) (id := id) (gen := gen) hk
  obtain ⟨n, hn⟩ := Dev.flowAgain_frame { d with fm := { d.fm with epoch := ep } } id
  obtain ⟨hin, hout, hdr⟩ := Dev.leaveUnloaded_ctx (Dev.flowAgain { d with fm := { d.fm with epoch := ep } } id) id (d.restartRanks id gen) st
  have hstep : doRestart d ep id gen none = (Dev.leaveUnloaded (Dev.flowAgain { d with fm := { d.fm with epoch := ep } } id) id (d.restartRanks id gen) st).send (.mgtr (.chip d.fm.mgr)
      (Dev.leaveUnloaded (Dev.flowAgain { d with fm := { d.fm with epoch := ep } } id) id (d.restartRanks id gen) st).fm.epoch 0) := by
    unfold doRestart Dev.fromManager
    rw [Dev.heed_acts hu he, Dev.learnEpoch_member hr he, e]
    rfl
  rw [hstep, Dev.send_far rfl]
  refine ⟨hin, fun c hc => (hout c hc).trans (by rw [hn]; rfl), fun q hq => ?_⟩
  have hd : (Dev.flowAgain { d with fm := { d.fm with epoch := ep } } id).fm.draining = d.fm.draining.filter (fun q => q.1 != id) := by
    rw [hn]
  have hq' : q ∈ d.fm.draining.filter (fun q => q.1 != id) := by
    rw [← hd, ← hdr]
    exact hq
  simpa using (List.mem_filter.1 hq').2

end

end Sys2Proof.Machine
end

section
/-! PROOFS. A slice abort at a member (14_recovery.md R421-R423). -/

namespace Sys2Proof.Machine

section
variable {d : Dev}

/-! ## What a message leaves of the ports -/

/-- What a port knows of the chip behind it, and its state. -/
def Port.peer (x : Port) : Nat × Bool × Nat := (x.st, x.peerValid, x.peerChip)

/-- Two states of the module whose ports have the same peers. -/
def SamePeers (a b : Dev) : Prop := ∀ p, (a.port p).peer = (b.port p).peer

theorem SamePeers.setPort {e : Dev} (h : SamePeers e d) {p : Nat} {x : Port} (hx : x.peer = (e.port p).peer) : SamePeers (e.setPort p x) d := by
  intro k
  by_cases hk : k = p
  · rw [hk, Dev.port_setPort_same, hx, h p]
  · rw [Dev.port_setPort_other _ _ _ _ hk, h k]

theorem SamePeers.send {e : Dev} (h : SamePeers e d) (m : FmMsg) : SamePeers (e.send m) d := by
  unfold Dev.send
  dsimp only
  split
  · split
    · exact SamePeers.setPort (e := { e with fm := { e.fm with out := e.fm.out ++ [m] } }) h rfl
    · exact h
  · exact h

theorem SamePeers.heardAt {e : Dev} (h : SamePeers e d) (p : Nat) : SamePeers (e.heardAt p) d := by
  unfold Dev.heardAt
  split
  · exact h.setPort rfl
  · exact h

/-- The ports that lead to other members depend on the peers and on the tables only. -/
theorem Dev.memberPorts_congr {e : Dev} {c : Nat} (hn : e.ctxNi c = d.ctxNi c) (hp : SamePeers e d) : e.memberPorts c = d.memberPorts c := by
  have hst (p : Nat) : (e.port p).st = (d.port p).st := congrArg Prod.fst (hp p)
  have hv (p : Nat) : (e.port p).peerValid = (d.port p).peerValid := congrArg (fun q => q.2.1) (hp p)
  have hc (p : Nat) : (e.port p).peerChip = (d.port p).peerChip := congrArg (fun q => q.2.2) (hp p)
  unfold Dev.memberPorts
  simp only [hn, hst, hv, hc]

/-! ## The abort that comes in -/

/-- The module once an abort has come in through a port at a member: the message is acknowledged. -/
theorem Dev.abortIn {chip : Nat} (m : AbortMsg) (hr : d.fm.role ≤ 2) : ∃ q, ((d.heardAt chip).send (.mgtr (.port chip) d.fm.epoch 0)).noteManagerAbort m = { d with
    fm := { d.fm with out := d.fm.out ++ [.mgtr (.port chip) d.fm.epoch 0] }
    ports := q } ∧ SamePeers { d with ports := q } d := by
  have hp : SamePeers ((d.heardAt chip).send (.mgtr (.port chip) d.fm.epoch 0)) d := SamePeers.send (SamePeers.heardAt (e := d) (fun _ => rfl) chip) _
  obtain ⟨q, e⟩ := d.heardAt_frame chip
  obtain ⟨q', e'⟩ := Dev.send_frame { d with ports := q } (.mgtr (.port chip) d.fm.epoch 0)
  have hm : ∀ a : Dev, a.fm.role ≤ 2 → a.noteManagerAbort m = a := by
    intro a ha
    have hn : a.fm.managing = false := by
      unfold FM.managing
      rw [show (a.fm.role == 3) = false by rw [beq_eq_false_iff_ne]; omega, Bool.false_and]
    unfold Dev.noteManagerAbort
    split
    · rfl
    · rw [hn]
      rfl
  refine ⟨q', ?_, ?_⟩
  · rw [e, e']
    exact hm _ hr
  · rw [e, e'] at hp
    exact hp

theorem doSliceAbort_seen {chip c : Nat} {m : AbortMsg} (hu : d.fmUp = true) (hr : d.fm.role ≤ 2) (hc : (d.sliceCtxs m.sliceId).find? (fun c => (d.ctx c).gen == m.gen) = some c)
    (hs : (m.sliceId, m.gen) ∈ d.fm.seenAborts) : ∃ q, doSliceAbort d chip m = { d with
      fm := { d.fm with out := d.fm.out ++ [.mgtr (.port chip) d.fm.epoch 0] }
      ports := q } := by
  obtain ⟨q, e, -⟩ := Dev.abortIn (d := d) (chip := chip) m hr
  refine ⟨q, ?_⟩
  unfold doSliceAbort
  rw [hu, Bool.not_true, if_neg Bool.false_ne_true, e]
  dsimp only
  split
  · exact if_pos (List.contains_iff_mem.2 hs)
  · exact absurd (hc.symm.trans ‹_›) (Option.some_ne_none c)

/-! ## A member without a context (R423) -/

theorem sdGen_setGen (w : BitVec 256) {g : Nat} (hg : g < 4096) : sdGen (setGen w g).toNat = g := by
  unfold sdGen setGen
  rw [BitVec.toNat_ofNat]
  unfold setBits bits
  norm_num
  have hw := w.isLt
  generalize w.toNat = x at hw
  norm_num at hw
  omega

/-- A state that a change of generations leads to: tables, generations and contexts, each context as live as it was. -/
def GensMoved (d e : Dev) : Prop := ∃ n g c, e = { d with
  nis := n
  lastGen := g
  ctxs := c } ∧ ∀ k, (e.ctx k).live = (d.ctx k).live

theorem GensMoved.refl (d : Dev) : GensMoved d d := ⟨d.nis, d.lastGen, d.ctxs, rfl, fun _ => rfl⟩

theorem GensMoved.partOf {e : Dev} (h : GensMoved d e) (n : Nat) : e.partOf n = d.partOf n := by
  obtain ⟨_, _, _, rfl, -⟩ := h
  rfl

theorem GensMoved.memberGen {e : Dev} (h : GensMoved d e) (node slot g : Nat) : GensMoved d (e.memberGen node slot g) := by
  obtain ⟨n, l, c, rfl, hlive⟩ := h
  unfold Dev.memberGen
  dsimp only
  split
  · exact ⟨n, l, c, rfl, hlive⟩
  · split
    · exact ⟨n, l, c, rfl, hlive⟩
    · split
      case isTrue hl =>
        refine ⟨_, _, _, rfl, fun k => ?_⟩
        rw [← hlive k]
        unfold Dev.setCtx Dev.ctx
        dsimp only
        rw [smGet_set]
        split
        case isTrue hk => rw [hk]
        case isFalse => rfl
      · exact ⟨_, _, _, rfl, hlive⟩

/-- The generation in a member's descriptor. -/
def Dev.genAt (d : Dev) (n sl : Nat) : Nat := sdGen (smGet 0 (d.ni n).slices sl).toNat

theorem Dev.setSliceGen_genAt (d : Dev) (node slot n sl : Nat) {g : Nat} (hg : g < 4096) :
    (d.setSliceGen node slot g).genAt n sl = if n = node ∧ sl = slot then g else d.genAt n sl := by
  unfold Dev.setSliceGen Dev.genAt
  by_cases hn : n = node
  · subst hn
    rw [Dev.ni_setNi_same]
    dsimp only
    rw [smGet_set]
    by_cases hs : sl = slot
    · rw [if_pos hs, if_pos ⟨rfl, hs⟩, sdGen_setGen _ hg]
    · rw [if_neg hs, if_neg (fun h => hs h.2)]
  · rw [Dev.ni_setNi_other _ _ _ _ hn, if_neg (fun h => hn h.1)]

theorem Dev.memberGen_genAt (d : Dev) (node slot n sl : Nat) {g : Nat} (hg : g < 4096) :
    (d.memberGen node slot g).genAt n sl = d.genAt n sl ∨ (d.memberGen node slot g).genAt n sl = g := by
  have hset : (d.setSliceGen node slot g).genAt n sl = d.genAt n sl ∨ (d.setSliceGen node slot g).genAt n sl = g := by
    rw [d.setSliceGen_genAt node slot n sl hg]
    split
    · exact .inr rfl
    · exact .inl rfl
  unfold Dev.memberGen
  dsimp only
  split
  · exact .inl rfl
  · split
    · exact .inl rfl
    · split
      · exact hset
      · exact hset

theorem Dev.memberGen_empty (d : Dev) (n sl : Nat) {g p : Nat} (hg : g < 4096) (hp : d.partOf n = some p) (hl : (d.ctx (16 * p + sl)).live = false) : (d.memberGen n sl g).genAt n sl = g := by
  have hset : (d.setSliceGen n sl g).genAt n sl = g := by rw [d.setSliceGen_genAt n sl n sl hg, if_pos ⟨rfl, rfl⟩]
  unfold Dev.memberGen
  rw [hp]
  dsimp only
  rw [hl, Bool.false_and, if_neg Bool.false_ne_true, if_neg Bool.false_ne_true]
  exact hset

/-- The members of a slice without a context take the generation. -/
theorem Dev.memberGens_take (d : Dev) (id : Nat) {g : Nat} (hg : g < 4096) : GensMoved d (d.memberGens id g) ∧ ∀ n sl p, (n, sl) ∈ d.sliceNis id → d.partOf n = some p →
    (d.ctx (16 * p + sl)).live = false → (d.memberGens id g).genAt n sl = g := by
  unfold Dev.memberGens
  refine ⟨foldl_keeps (GensMoved d) _ (fun e he q _ => he.memberGen q.1 q.2 g) (GensMoved.refl d), fun n sl p hin hp hl => ?_⟩
  refine foldl_reaches (P := GensMoved d) (Q := fun e => e.genAt n sl = g) hin (fun e he q _ => he.memberGen q.1 q.2 g) (fun e he => ?_) (fun e _ hq k _ => ?_) (GensMoved.refl d)
  · have hlive : (e.ctx (16 * p + sl)).live = false := by
      obtain ⟨_, _, _, -, h⟩ := he
      rw [h, hl]
    exact e.memberGen_empty n sl hg ((he.partOf n).trans hp) hlive
  · rcases e.memberGen_genAt k.1 k.2 n sl hg with h | h
    · exact h.trans hq
    · exact h

theorem foldl_treeGen_frame (old new : Nat) (l : List Nat) (d : Dev) : ∃ t, l.foldl (fun e h => e.treeGen h old new) d = { d with trees := t } :=
  foldl_keeps (fun e : Dev => ∃ t, e = { d with trees := t }) l (fun e he h _ => by
    obtain ⟨t, rfl⟩ := he
    exact ⟨_, rfl⟩) ⟨d.trees, rfl⟩

theorem Dev.emptyAdvance_advances (d : Dev) (id gen : Nat) : ∃ n l t c, d.emptyAdvance id gen = { d with
    fm := { d.fm with seenAborts := d.fm.seenAborts.filter (fun q => q.1 != id) ++ [(id, gen)] }
    nis := n
    lastGen := l
    trees := t
    ctxs := c } ∧ ∀ k sl p, (k, sl) ∈ d.sliceNis id → d.partOf k = some p → (d.ctx (16 * p + sl)).live = false → Dev.genAt { d with nis := n } k sl = (gen + 1) % 4096 := by
  have hg : (gen + 1) % 4096 < 4096 := Nat.mod_lt _ (by decide)
  obtain ⟨t, ht⟩ := foldl_treeGen_frame gen ((gen + 1) % 4096) ((d.sliceNis id).map (fun e => sdPlist ((d.ni e.1).slice e.2) 0)).dedup (d.noteAbort id gen)
  obtain ⟨⟨n, l, c, hm, -⟩, hgen⟩ := Dev.memberGens_take { d.noteAbort id gen with trees := t } id hg
  have e : d.emptyAdvance id gen = { d with
      fm := { d.fm with seenAborts := d.fm.seenAborts.filter (fun q => q.1 != id) ++ [(id, gen)] }
      nis := n
      lastGen := l
      trees := t
      ctxs := c } := by
    unfold Dev.emptyAdvance
    dsimp only
    rw [ht]
    exact hm
  refine ⟨n, l, t, c, e, fun k sl p hin hp hl => ?_⟩
  have := hgen k sl p hin hp hl
  rw [hm] at this
  exact this

theorem doSliceAbort_empty {chip : Nat} {m : AbortMsg} (hu : d.fmUp = true) (hr : d.fm.role ≤ 2) (hc : d.sliceCtxs m.sliceId = []) (hn : d.sliceNis m.sliceId ≠ [])
    (hs : (m.sliceId, m.gen) ∉ d.fm.seenAborts) : ∃ n l t c q, doSliceAbort d chip m = { d with
      fm := { d.fm with
        seenAborts := d.fm.seenAborts.filter (fun q => q.1 != m.sliceId) ++ [(m.sliceId, m.gen)]
        out := d.fm.out ++ [.mgtr (.port chip) d.fm.epoch 0, .teardownReport d.fm.mgr m.sliceId []] }
      nis := n
      lastGen := l
      trees := t
      ctxs := c
      ports := q } ∧ ∀ k sl p, (k, sl) ∈ d.sliceNis m.sliceId → d.partOf k = some p → (d.ctx (16 * p + sl)).live = false → Dev.genAt { d with nis := n } k sl = (m.gen + 1) % 4096 := by
  obtain ⟨q, e, -⟩ := Dev.abortIn (d := d) (chip := chip) m hr
  obtain ⟨n, l, t, c, e', hgen⟩ := Dev.emptyAdvance_advances { d with
    fm := { d.fm with out := d.fm.out ++ [.mgtr (.port chip) d.fm.epoch 0] }
    ports := q } m.sliceId m.gen
  refine ⟨n, l, t, c, q, ?_, hgen⟩
  have hf : (Dev.sliceCtxs { d with
      fm := { d.fm with out := d.fm.out ++ [.mgtr (.port chip) d.fm.epoch 0] }
      ports := q } m.sliceId) = [] := hc
  unfold doSliceAbort
  rw [hu, Bool.not_true, if_neg Bool.false_ne_true, e]
  dsimp only
  rw [hf]
  dsimp only [List.find?_nil]
  rw [if_pos ⟨rfl, hn, by simpa using hs⟩, e']
  unfold Dev.reportTeardown
  rw [List.foldl_nil]
  refine (Dev.send_far rfl _).trans ?_
  simp only [List.append_assoc, List.cons_append, List.nil_append]

end

end Sys2Proof.Machine
end

section
/-! PROOFS. A slice abort at a member with the slice's context (14_recovery.md R411, R421, R422). -/

namespace Sys2Proof.Machine

section
variable {d : Dev}

theorem foldl_setCurd_fm (f : Nat → Nat) (g : Dev → Nat → Curd) (l : List Nat) (d : Dev) : (l.foldl (fun e s => e.setCurd (f s) (g e s)) d).fm = d.fm :=
  foldl_keeps (fun e : Dev => e.fm = d.fm) (f := fun e s => e.setCurd (f s) (g e s)) l (fun _ he _ _ => he) rfl

theorem foldl_setCvu_fm (g : Dev → Nat → CvUnit) (l : List Nat) (d : Dev) : (l.foldl (fun e u => e.setCvu u (g e u)) d).fm = d.fm :=
  foldl_keeps (fun e : Dev => e.fm = d.fm) (f := fun e u => e.setCvu u (g e u)) l (fun _ he _ _ => he) rfl

/-- The curds of a vat, torn down. -/
def Dev.tearCurds (d : Dev) (node : Nat) (l : List Nat) : Dev := l.foldl (fun d s => d.setCurd (curdKey node s) (d.curd (curdKey node s)).tornDown) d

/-- The vat's resolver, channels, tags and check-value units without the context's work. -/
def Dev.dropEngines (d : Dev) (ctx node : Nat) (l : List Nat) : Dev :=
  let v := d.vat node
  let d1 := d.setVat node { v with
    rq := v.rq.filter (fun a => a.store)
    dma := v.dma.map (fun e => (e.1, { e.2 with
      queue := []
      runs := [] })) }
  let d2 := d1.setNi node ((d1.ni node).tornTags ctx)
  l.foldl (fun d u => d.setCvu u ((d.cvu u).dropNode node)) d2

theorem Dev.dropVat_eq (d : Dev) (c n : Nat) : d.dropVat c n = (d.tearCurds n (List.range 68)).dropEngines c n [0, 1, 2, 3, 4] := rfl

theorem Dev.tearCurds_fm (d : Dev) (n : Nat) (l : List Nat) : (d.tearCurds n l).fm = d.fm := foldl_setCurd_fm (curdKey n) (fun e s => (e.curd (curdKey n s)).tornDown) l d

theorem Dev.dropEngines_fm (d : Dev) (c n : Nat) (l : List Nat) : (d.dropEngines c n l).fm = d.fm := foldl_setCvu_fm (fun e u => (e.cvu u).dropNode n) l _

theorem Dev.dropVat_fm (d : Dev) (c n : Nat) : (d.dropVat c n).fm = d.fm := by rw [Dev.dropVat_eq, Dev.dropEngines_fm, Dev.tearCurds_fm]

theorem foldl_dropVat_fm (c : Nat) (l : List Nat) (d : Dev) : (l.foldl (fun e n => e.dropVat c n) d).fm = d.fm :=
  foldl_keeps (fun e : Dev => e.fm = d.fm) l (fun e he n _ => (e.dropVat_fm c n).trans he) rfl

theorem Dev.dropColl_fm (d : Dev) (c : Nat) : (d.dropColl c).fm = d.fm := by
  unfold Dev.dropColl
  dsimp only
  split <;> rfl

/-- Step 1 of the teardown of a resident context. -/
theorem Dev.tearDown_starts {c : Nat} {t : Teardown} (hl : (d.ctx c).live = true) (ht : (d.ctx c).tear = none) (hr : d.isResident c = true) :
    ((d.tearDown c t).ctx c).tear = some { t with waitUnits := d.busyUnits c } ∧ ((d.tearDown c t).part (c / 16)).switchTo = none ∧ (d.tearDown c t).fm = d.fm := by
  unfold Dev.tearDown
  dsimp only
  rw [hl, Bool.not_true, if_neg Bool.false_ne_true, ht]
  dsimp only
  rw [if_pos hr]
  have hfm := (Dev.dropColl_fm ((d.partNodes (c / 16)).foldl (fun e n => e.dropVat c n) d) c).trans (foldl_dropVat_fm c (d.partNodes (c / 16)) d)
  generalize Dev.dropColl ((d.partNodes (c / 16)).foldl (fun e n => e.dropVat c n) d) c = e at hfm ⊢
  rw [Dev.ctx_setCtx_same]
  exact ⟨rfl, congrArg Part.switchTo (Dev.part_setPart_same e (c / 16) _), hfm⟩

/-- An abort not acted on yet is noted, sent on and tears down the one context here. -/
theorem Dev.abortSlice_one {c chip : Nat} {m : AbortMsg} {t : Teardown} (hs : (m.sliceId, m.gen) ∉ d.fm.seenAborts) (hc : d.sliceCtxs m.sliceId = [c]) (hl : (d.ctx c).live = true) (ht : (d.ctx c).tear = none)
    (hr : d.isResident c = true) : ((d.abortSlice c m (some chip) t).ctx c).tear = some { t with waitUnits := d.busyUnits c } ∧ ((d.abortSlice c m (some chip) t).part (c / 16)).switchTo = none ∧
      (d.abortSlice c m (some chip) t).fm = { d.fm with
        seenAborts := d.fm.seenAborts.filter (fun q => q.1 != m.sliceId) ++ [(m.sliceId, m.gen)]
        out := d.fm.out ++ ((d.memberPorts c).filter (fun p => some p != some chip)).map (fun p => .sliceAbort p m) } := by
  obtain ⟨q, e⟩ := foldl_send_frame (f := fun _ p => .sliceAbort p m) (g := fun p => .sliceAbort p m) ((d.memberPorts c).filter (fun p => some p != some chip)) (d.noteAbort m.sliceId m.gen) (fun _ _ _ => rfl)
  have hstep : d.abortSlice c m (some chip) t = Dev.tearDown { d with
      fm := { d.fm with
        seenAborts := d.fm.seenAborts.filter (fun q => q.1 != m.sliceId) ++ [(m.sliceId, m.gen)]
        out := d.fm.out ++ ((d.memberPorts c).filter (fun p => some p != some chip)).map (fun p => .sliceAbort p m) }
      ports := q } c t := by
    unfold Dev.abortSlice
    rw [if_neg (by simpa using hs)]
    dsimp only
    rw [e, hc, if_neg (by simp), List.foldl_cons, List.foldl_nil, if_pos rfl]
    rfl
  rw [hstep]
  exact Dev.tearDown_starts hl ht hr

theorem doSliceAbort_tears {chip c : Nat} {m : AbortMsg} (hu : d.fmUp = true) (hr : d.fm.role ≤ 2) (hc : d.sliceCtxs m.sliceId = [c]) (hg : (d.ctx c).gen = m.gen) (hl : (d.ctx c).live = true)
    (ht : (d.ctx c).tear = none) (hres : d.isResident c = true) (hs : (m.sliceId, m.gen) ∉ d.fm.seenAborts) :
    (∃ t, ((doSliceAbort d chip m).ctx c).tear = some t ∧ t.cause = m.cause ∧ t.waitUnits = d.busyUnits c) ∧ (m.sliceId, m.gen) ∈ (doSliceAbort d chip m).fm.seenAborts ∧
      (∀ p ∈ d.memberPorts c, p ≠ chip → .sliceAbort p m ∈ (doSliceAbort d chip m).fm.out) ∧ ((doSliceAbort d chip m).part (c / 16)).switchTo = none := by
  obtain ⟨q, e, hp⟩ := Dev.abortIn (d := d) (chip := chip) m hr
  obtain ⟨h, e'⟩ := Dev.sliceState_frame { d with
    fm := { d.fm with out := d.fm.out ++ [.mgtr (.port chip) d.fm.epoch 0] }
    ports := q
    rrc := { d.rrc with
      lastLevel := 0
      lastCause := m.cause
      escalated := false } } m.sliceId 5
  generalize hx : ({ d with
    fm := { d.fm with
      out := d.fm.out ++ [.mgtr (.port chip) d.fm.epoch 0]
      slices := d.fm.slices.map (fun x => if x.id = m.sliceId then { x with st := 5 } else x) }
    ports := q
    rrc := { d.rrc with
      lastLevel := 0
      lastCause := m.cause
      escalated := false }
    host := h } : Dev) = x
  have hseen : x.fm.seenAborts = d.fm.seenAborts := by rw [← hx]
  have hmp : x.memberPorts c = d.memberPorts c := by
    refine Dev.memberPorts_congr ?_ ?_
    · rw [← hx]
      rfl
    · rw [← hx]
      exact hp
  have hbusy : x.busyUnits c = d.busyUnits c := by
    rw [← hx]
    rfl
  have hstep : doSliceAbort d chip m = x.abortSlice c m (some chip) (newTear m.cause false false false none) := by
    have hfind : (Dev.sliceCtxs { d with
        fm := { d.fm with out := d.fm.out ++ [.mgtr (.port chip) d.fm.epoch 0] }
        ports := q } m.sliceId) = [c] := hc
    unfold doSliceAbort
    rw [hu, Bool.not_true, if_neg Bool.false_ne_true, e]
    dsimp only
    rw [hfind]
    split
    case h_1 k hk =>
      obtain rfl : k = c := List.mem_singleton.1 (List.mem_of_find?_eq_some hk)
      rw [if_neg (by simpa using hs)]
      exact congrArg (fun a : Dev => a.abortSlice k m (some chip) (newTear m.cause false false false none)) (Eq.trans e' hx)
    case h_2 hk => exact absurd (beq_iff_eq.2 hg) (List.find?_eq_none.1 hk c List.mem_cons_self)
  obtain ⟨htear, hsw, hfm⟩ := Dev.abortSlice_one (d := x) (chip := chip) (m := m) (t := newTear m.cause false false false none) (c := c) (by rw [hseen]; exact hs) (by rw [← hx]; exact hc)
    (by rw [← hx]; exact hl) (by rw [← hx]; exact ht) (by rw [← hx]; exact hres)
  rw [hstep]
  refine ⟨⟨_, htear, rfl, hbusy⟩, ?_, fun p hin hne => ?_, hsw⟩
  · rw [hfm]
    exact List.mem_append_right _ List.mem_cons_self
  · rw [hfm, hmp]
    exact List.mem_append_right _ (List.mem_map.2 ⟨p, List.mem_filter.2 ⟨hin, by simpa using hne⟩, rfl⟩)

end

end Sys2Proof.Machine
end

section
/-! PROOFS. The tables of a slice at a member (09_fabric_manager.md R293, R294). -/

namespace Sys2Proof.Machine

section
variable {d : Dev} {m : InstallMsg}

/-! ## The tables of a vat -/

/-- One vat of a member partition takes the tables. -/
def Dev.tableVat (m : InstallMsg) (slot : Nat) (d : Dev) (n : Nat) : Dev :=
  let x := d.ni n
  d.setNi n { x with
    detour := m.detours
    routeCfg := m.routeCfg
    slices := smSet 0 x.slices slot m.slice
    exc := m.exc.foldl (fun t q => smSet 0 t (256 * slot + q.1) q.2) (x.exc.filter (fun q => q.1 / 256 != slot)) }

/-- Every vat of a member partition takes them, and the slot the slice's generation. -/
def Dev.tablePart (m : InstallMsg) (d : Dev) (e : Nat × Nat) : Dev :=
  (d.partNodes e.1).foldl (Dev.tableVat m e.2) { d with lastGen := smSet 0 d.lastGen (16 * e.1 + e.2) (sdGen m.slice.toNat) }

/-- A vat holds the tables of a message at a slot. -/
def Dev.Tabled (m : InstallMsg) (d : Dev) (n slot : Nat) : Prop := (d.ni n).detour = m.detours ∧ (d.ni n).routeCfg = m.routeCfg ∧ smGet 0 (d.ni n).slices slot = m.slice

theorem Dev.tableVat_tabled (m : InstallMsg) (d : Dev) (slot n : Nat) : (d.tableVat m slot n).Tabled m n slot := by
  unfold Dev.tableVat Dev.Tabled
  dsimp only
  rw [Dev.ni_setNi_same]
  exact ⟨rfl, rfl, smGet_set_same 0 _ slot m.slice⟩

theorem Dev.Tabled.tableVat {n slot : Nat} (h : d.Tabled m n slot) (slot' n' : Nat) : (d.tableVat m slot' n').Tabled m n slot := by
  unfold Dev.tableVat Dev.Tabled
  dsimp only
  by_cases hn : n = n'
  · subst hn
    rw [Dev.ni_setNi_same]
    refine ⟨rfl, rfl, ?_⟩
    dsimp only
    rw [smGet_set]
    split
    · rfl
    · exact h.2.2
  · rw [Dev.ni_setNi_other _ _ _ _ hn]
    exact h

theorem foldl_tableVat_frame (m : InstallMsg) (slot : Nat) (l : List Nat) (d : Dev) : ∃ n, l.foldl (Dev.tableVat m slot) d = { d with nis := n } :=
  foldl_keeps (fun e : Dev => ∃ n, e = { d with nis := n }) l (fun e he k _ => by
    obtain ⟨n, rfl⟩ := he
    exact ⟨_, rfl⟩) ⟨d.nis, rfl⟩

/-- What the tables change of the module: the vats' interfaces and the last generations. -/
def TablesOnly (d e : Dev) : Prop := ∃ n g, e = { d with
  nis := n
  lastGen := g }

theorem TablesOnly.tablePart {e : Dev} (h : TablesOnly d e) (k : Nat × Nat) : TablesOnly d (e.tablePart m k) := by
  obtain ⟨n, g, rfl⟩ := h
  obtain ⟨n', e'⟩ := foldl_tableVat_frame m k.2 (Dev.partNodes { d with
    nis := n
    lastGen := g } k.1) { d with
    nis := n
    lastGen := smSet 0 g (16 * k.1 + k.2) (sdGen m.slice.toNat) }
  exact ⟨n', _, e'⟩

theorem Dev.tablePart_tabled {n : Nat} {e : Nat × Nat} (hn : n ∈ d.partNodes e.1) : (d.tablePart m e).Tabled m n e.2 :=
  foldl_reaches (P := fun _ => True) (Q := fun a : Dev => a.Tabled m n e.2) hn (fun _ _ _ _ => trivial) (fun a _ => a.tableVat_tabled m e.2 n) (fun _ _ h k _ => h.tableVat e.2 k) trivial

theorem Dev.Tabled.tablePart {n slot : Nat} (h : d.Tabled m n slot) (e : Nat × Nat) : (d.tablePart m e).Tabled m n slot :=
  foldl_keeps (fun a : Dev => a.Tabled m n slot) _ (fun _ ha k _ => ha.tableVat e.2 k) h

theorem Dev.tablePart_lastGen (m : InstallMsg) (d : Dev) (e : Nat × Nat) (k : Nat) : smGet 0 (d.tablePart m e).lastGen k =
    if k = 16 * e.1 + e.2 then sdGen m.slice.toNat else smGet 0 d.lastGen k := by
  obtain ⟨n, h⟩ := foldl_tableVat_frame m e.2 (d.partNodes e.1) { d with lastGen := smSet 0 d.lastGen (16 * e.1 + e.2) (sdGen m.slice.toNat) }
  unfold Dev.tablePart
  rw [h]
  exact smGet_set 0 d.lastGen (16 * e.1 + e.2) k _

/-- Every member partition's tables stand, and its slots have the slice's generation. -/
theorem foldl_tablePart (m : InstallMsg) (l : List (Nat × Nat)) (d : Dev) : ∃ n g, l.foldl (Dev.tablePart m) d = { d with
    nis := n
    lastGen := g } ∧ (∀ p sl k, (p, sl) ∈ l → k ∈ d.partNodes p → Dev.Tabled m { d with nis := n } k sl) ∧ ∀ p sl, (p, sl) ∈ l → smGet 0 g (16 * p + sl) = sdGen m.slice.toNat := by
  obtain ⟨n, g, e⟩ : TablesOnly d (l.foldl (Dev.tablePart m) d) := foldl_keeps (TablesOnly d) l (fun e he k _ => he.tablePart k) ⟨d.nis, d.lastGen, rfl⟩
  refine ⟨n, g, e, fun p sl k hin hk => ?_, fun p sl hin => ?_⟩
  · have h : (l.foldl (Dev.tablePart m) d).Tabled m k sl := by
      refine foldl_reaches (P := TablesOnly d) (Q := fun a : Dev => a.Tabled m k sl) hin (fun a ha q _ => ha.tablePart q) (fun a ha => ?_) (fun a _ hq q _ => hq.tablePart q) ⟨d.nis, d.lastGen, rfl⟩
      refine Dev.tablePart_tabled (e := (p, sl)) ?_
      obtain ⟨_, _, rfl⟩ := ha
      exact hk
    rw [e] at h
    exact h
  · have h : smGet 0 (l.foldl (Dev.tablePart m) d).lastGen (16 * p + sl) = sdGen m.slice.toNat := by
      refine foldl_reaches (P := fun _ => True) (Q := fun a : Dev => smGet 0 a.lastGen (16 * p + sl) = sdGen m.slice.toNat) hin (fun _ _ _ _ => trivial) (fun a _ => ?_) (fun a _ hq q _ => ?_) trivial
      · rw [Dev.tablePart_lastGen, if_pos rfl]
      · rw [Dev.tablePart_lastGen, hq, ite_self]
    rw [e] at h
    exact h

/-! ## Tree entries -/

theorem treeKey_inj {u v t k : Nat} (ht : t < 1024) (hk : k < 1024) (h : treeKey u t = treeKey v k) : t = k := by
  unfold treeKey at h
  omega

/-- A write of every copy of an entry, as a read of one copy sees it. -/
theorem foldl_treeKey {u t k : Nat} {w : BitVec 64} {l : List Nat} (hu : u ∈ l) (ht : t < 1024) (hk : k < 1024) (x : SMap (BitVec 64)) :
    smGet 0 (l.foldl (fun a v => smSet 0 a (treeKey v t) w) x) (treeKey u k) = if k = t then w else smGet 0 x (treeKey u k) := by
  split
  case isTrue h =>
    subst h
    refine foldl_reaches (P := fun _ => True) (Q := fun a => smGet 0 a (treeKey u k) = w) hu (fun _ _ _ _ => trivial) (fun a _ => ?_) (fun a _ hq v _ => ?_) trivial
    · exact smGet_set_same 0 a _ w
    · rw [smGet_set, hq, ite_self]
  case isFalse h =>
    exact foldl_keeps (fun a => smGet 0 a (treeKey u k) = smGet 0 x (treeKey u k)) l (fun a ha v _ => by
      rw [smGet_set, if_neg (fun e => h (treeKey_inj hk ht e)), ha]) rfl

theorem Dev.writeTree_tree {u t k : Nat} (hu : u ∈ treeUnits) (ht : t < 1024) (hk : k < 1024) (w : BitVec 64) (d : Dev) : (d.writeTree t w).tree u k = if k = t then w.toNat else d.tree u k := by
  have h := foldl_treeKey hu ht hk d.trees (w := w)
  unfold Dev.tree Dev.writeTree
  dsimp only
  rw [h]
  split <;> rfl

theorem foldl_writeTree {l : List (Nat × BitVec 64)} (hn : (l.map (fun q => q.1)).Nodup) (hl : ∀ q ∈ l, q.1 < 1024) (d : Dev) : ∃ x, l.foldl (fun e q => e.writeTree q.1 q.2) d = { d with trees := x } ∧
    ∀ t w u, (t, w) ∈ l → u ∈ treeUnits → Dev.tree { d with trees := x } u t = w.toNat := by
  obtain ⟨x, e⟩ : ∃ x, l.foldl (fun e q => e.writeTree q.1 q.2) d = { d with trees := x } := foldl_keeps (fun e : Dev => ∃ x, e = { d with trees := x }) l (fun e he k _ => by
    obtain ⟨x, rfl⟩ := he
    exact ⟨_, rfl⟩) ⟨d.trees, rfl⟩
  refine ⟨x, e, fun t w u hin hu => ?_⟩
  rw [← e]
  refine foldl_reaches (P := fun _ => True) (Q := fun a : Dev => a.tree u t = w.toNat) hin (fun _ _ _ _ => trivial) (fun a _ => ?_) (fun a _ hq q hq' => ?_) trivial
  · rw [Dev.writeTree_tree hu (hl _ hin) (hl _ hin), if_pos rfl]
  · rw [Dev.writeTree_tree hu (hl _ hq') (hl _ hin)]
    split
    case isTrue h =>
      obtain rfl : (t, w) = q := List.inj_on_of_nodup_map hn hin hq' h
      rfl
    case isFalse => exact hq

/-! ## Groups and the whole message -/

theorem Dev.askGroups_frame (d : Dev) (gs : List (Nat × BitVec 320)) : ∃ g t, d.askGroups gs = { d with mesh := { d.mesh with
    groups := g
    toGroups := t } } ∧ (d.mesh.stopA = false → g = d.mesh.groups ∧ ∀ q ∈ gs, q ∈ t) := by
  unfold Dev.askGroups
  dsimp only
  split
  case isTrue h =>
    refine ⟨_, _, rfl, fun ha => ?_⟩
    unfold Dev.meshQuiet at h
    rw [ha] at h
    exact absurd h (by simp)
  case isFalse => exact ⟨_, _, rfl, fun _ => ⟨rfl, fun q hq => List.mem_append_right _ hq⟩⟩

theorem Dev.writeTables_eq (h0 : m.slice ≠ 0) (hh : m.homes = []) (ho : d.ownTables m = m) (hm : d.movedOff m = []) : d.writeTables m =
    (m.trees.foldl (fun (e : Dev) q => e.writeTree q.1 q.2) { (memberSlots m d.fm.chip).foldl (Dev.tablePart m) d with
      trees := ((memberSlots m d.fm.chip).foldl (Dev.tablePart m) d).trees.filter (fun e => e.1 % 1024 / 16 != sdPlist m.slice.toNat 0) }).askGroups m.groups := by
  unfold Dev.writeTables
  dsimp only
  rw [if_neg h0, ho, hm, hh, List.foldl_nil, List.foldl_nil]
  rfl

/-- The tables of a slice at a member, written. -/
theorem Dev.writeTables_writes (h0 : m.slice ≠ 0) (hh : m.homes = []) (ho : d.ownTables m = m) (hm : d.movedOff m = []) (hn : (m.trees.map (fun t => t.1)).Nodup) (hl : ∀ q ∈ m.trees, q.1 < 1024) :
    ∃ n g x gr tg, d.writeTables m = { d with
      nis := n
      lastGen := g
      trees := x
      mesh := { d.mesh with
        groups := gr
        toGroups := tg } } ∧ (∀ p sl k, (p, sl) ∈ memberSlots m d.fm.chip → k ∈ d.partNodes p → Dev.Tabled m { d with nis := n } k sl) ∧
      (∀ p sl, (p, sl) ∈ memberSlots m d.fm.chip → smGet 0 g (16 * p + sl) = sdGen m.slice.toNat) ∧ (∀ t w u, (t, w) ∈ m.trees → u ∈ treeUnits → Dev.tree { d with trees := x } u t = w.toNat) ∧
      (d.mesh.stopA = false → gr = d.mesh.groups ∧ ∀ q ∈ m.groups, q ∈ tg) := by
  obtain ⟨n, g, e1, htab, hgen⟩ := foldl_tablePart m (memberSlots m d.fm.chip) d
  obtain ⟨x, e2, htree⟩ := foldl_writeTree hn hl { d with
    nis := n
    lastGen := g
    trees := d.trees.filter (fun e => e.1 % 1024 / 16 != sdPlist m.slice.toNat 0) }
  obtain ⟨gr, tg, e3, hg⟩ := Dev.askGroups_frame { d with
    nis := n
    lastGen := g
    trees := x } m.groups
  refine ⟨n, g, x, gr, tg, (Dev.writeTables_eq h0 hh ho hm).trans ?_, htab, hgen, htree, hg⟩
  rw [e1, e2]
  exact e3

/-! ## INSTALL (R293) -/

/-- INSTALL at a member whose group entries stand at once is answered. -/
theorem doInstall_done {b : Dev} (hu : d.fmUp = true) (he : d.fm.epoch ≤ m.epoch) (hr : d.fm.role ≤ 2) (hb : Dev.writeTables { d with fm := { d.fm with epoch := m.epoch } } m = b)
    (h0 : b.mesh.toGroups = []) : doInstall d m = (b.send (.installDone d.fm.mgr m.epoch m.sliceId)).send (.mgtr (.chip d.fm.mgr) (b.send (.installDone d.fm.mgr m.epoch m.sliceId)).fm.epoch 0) := by
  unfold doInstall Dev.fromManager
  rw [Dev.heed_acts hu he, Dev.learnEpoch_member hr he]
  dsimp only
  rw [hb, if_pos h0]

/-- One whose group entries wait for a quiet mesh waits with them. -/
theorem doInstall_waits {b : Dev} (hu : d.fmUp = true) (he : d.fm.epoch ≤ m.epoch) (hr : d.fm.role ≤ 2) (hb : Dev.writeTables { d with fm := { d.fm with epoch := m.epoch } } m = b)
    (h0 : b.mesh.toGroups ≠ []) : doInstall d m = { b with fm := { b.fm with
      installWait := b.fm.installWait.filter (fun i => i != m.sliceId) ++ [m.sliceId]
      out := b.fm.out ++ [.mgtr (.chip d.fm.mgr) b.fm.epoch 0] } } := by
  unfold doInstall Dev.fromManager
  refine (Dev.heed_chip (b := { b with fm := { b.fm with installWait := b.fm.installWait.filter (fun i => i != m.sliceId) ++ [m.sliceId] } }) hu he ?_).trans rfl
  rw [Dev.learnEpoch_member hr he]
  dsimp only
  rw [hb, if_neg h0]

theorem foldl_setNi_fm {α : Type} (f : Dev → α → Nat) (g : Dev → α → NI) (l : List α) (d : Dev) : (l.foldl (fun e a => e.setNi (f e a) (g e a)) d).fm = d.fm :=
  foldl_keeps (fun e : Dev => e.fm = d.fm) (f := fun e a => e.setNi (f e a) (g e a)) l (fun _ he _ _ => he) rfl

theorem Dev.dropTables_fm (d : Dev) (id : Nat) : (d.dropTables id).fm = d.fm := by
  unfold Dev.dropTables
  exact foldl_setNi_fm (fun _ e => e.1) _ (d.sliceNis id) d

/-- The tables of a slice without contexts here go. -/
theorem Dev.writeTables_drops (h0 : m.slice = 0) (hc : d.sliceCtxs m.sliceId = []) : d.writeTables m = d.dropTables m.sliceId := by
  unfold Dev.writeTables
  rw [if_pos h0, hc, List.foldl_nil]

end

end Sys2Proof.Machine
end

section
/-! PROOFS. O33: reactions, aborts, teardowns and restarts of a slice. -/

namespace Sys2Proof.Machine

section
variable {d : Dev}

/-- What INSTALL leaves at a member. -/
theorem doInstall_writes {m : InstallMsg} (hu : d.fmUp = true) (he : d.fm.epoch ≤ m.epoch) (hr : d.fm.role ≤ 2) (h0 : m.slice ≠ 0) (hh : m.homes = []) (ho : d.ownTables m = m) (hm : d.movedOff m = [])
    (hn : (m.trees.map (fun t => t.1)).Nodup) (hl : ∀ q ∈ m.trees, q.1 < 1024) : ∃ n g x gr tg y, doInstall d m = { d with
      nis := n
      lastGen := g
      trees := x
      mesh := { d.mesh with
        groups := gr
        toGroups := tg }
      fm := y } ∧ (∀ p sl k, (p, sl) ∈ memberSlots m d.fm.chip → k ∈ d.partNodes p → Dev.Tabled m { d with nis := n } k sl) ∧
      (∀ p sl, (p, sl) ∈ memberSlots m d.fm.chip → smGet 0 g (16 * p + sl) = sdGen m.slice.toNat) ∧ (∀ t w u, (t, w) ∈ m.trees → u ∈ treeUnits → Dev.tree { d with trees := x } u t = w.toNat) ∧
      (d.mesh.stopA = false → gr = d.mesh.groups ∧ ∀ q ∈ m.groups, q ∈ tg) ∧ (tg = [] → .installDone d.fm.mgr m.epoch m.sliceId ∈ y.out) ∧ (tg ≠ [] → m.sliceId ∈ y.installWait) := by
  obtain ⟨n, g, x, gr, tg, hw, htab, hgen, htree, hg⟩ := Dev.writeTables_writes (d := { d with fm := { d.fm with epoch := m.epoch } }) h0 hh ho hm hn hl
  by_cases ht : tg = []
  · refine ⟨n, g, x, gr, tg, { d.fm with
      epoch := m.epoch
      out := d.fm.out ++ [.installDone d.fm.mgr m.epoch m.sliceId] ++ [.mgtr (.chip d.fm.mgr) m.epoch 0] }, (doInstall_done hu he hr hw ht).trans ?_, htab, hgen, htree, hg, fun _ => ?_, fun h => absurd ht h⟩
    · rw [Dev.send_far rfl, Dev.send_far rfl]
    · exact List.mem_append_left _ (List.mem_append_right _ List.mem_cons_self)
  · refine ⟨n, g, x, gr, tg, { d.fm with
      epoch := m.epoch
      installWait := d.fm.installWait.filter (fun i => i != m.sliceId) ++ [m.sliceId]
      out := d.fm.out ++ [.mgtr (.chip d.fm.mgr) m.epoch 0] }, (doInstall_waits hu he hr hw ht).trans rfl, htab, hgen, htree, hg, fun h => absurd h ht, fun _ => ?_⟩
    exact List.mem_append_right _ List.mem_cons_self

/-- INSTALL of an ended slice at a member without a context of it. -/
theorem doInstall_drops {m : InstallMsg} {b : Dev} (hu : d.fmUp = true) (he : d.fm.epoch ≤ m.epoch) (hr : d.fm.role ≤ 2) (h0 : m.slice = 0) (hc : d.sliceCtxs m.sliceId = [])
    (hb : b = { d with fm := { d.fm with epoch := m.epoch } }.dropTables m.sliceId) :
    (b.mesh.toGroups = [] → doInstall d m = (b.send (.installDone d.fm.mgr m.epoch m.sliceId)).send (.mgtr (.chip d.fm.mgr) m.epoch 0)) ∧
    (b.mesh.toGroups ≠ [] → doInstall d m = { b with fm := { d.fm with
      epoch := m.epoch
      installWait := d.fm.installWait.filter (fun i => i != m.sliceId) ++ [m.sliceId]
      out := d.fm.out ++ [.mgtr (.chip d.fm.mgr) m.epoch 0] } }) := by
  have hw : Dev.writeTables { d with fm := { d.fm with epoch := m.epoch } } m = b := (Dev.writeTables_drops (d := { d with fm := { d.fm with epoch := m.epoch } }) h0 hc).trans hb.symm
  have hfm : b.fm = { d.fm with epoch := m.epoch } := by
    rw [hb]
    exact Dev.dropTables_fm _ _
  refine ⟨fun ht => (doInstall_done hu he hr hw ht).trans ?_, fun ht => (doInstall_waits hu he hr hw ht).trans ?_⟩
  · rw [Dev.send_far (m := .installDone d.fm.mgr m.epoch m.sliceId) rfl, hfm]
  · rw [hfm]

/-- A slice has been aborted by its manager: its record, and the orders to the members, which leave at once or behind the state's way to the standby. -/
def AbortMade (d : Dev) (y : SliceRec) (e : Dev) : Prop := e.fm.slices = putRec (y.aborted (y.chips d.fm.extents)) d.fm.slices ∧
  (d.fm.standby = none → d.fm.syncWait = false → ∃ l, e.fm.out = d.fm.out ++ (y.chips d.fm.extents).map (abortOrder y d.fm.chip 0) ++ l) ∧
  (∀ b, d.fm.standby = some b → (∃ st l, e.fm.out = d.fm.out ++ [.stateSync b d.fm.epoch st false] ++ l ∧ st.journal = d.fm.journal + 1 ∧
      st.slices = e.fm.slices.map (fun z => { z with waiter := z.waiter.map d.awayReq })) ∧ e.fm.held = d.fm.held ++ (y.chips d.fm.extents).map (abortOrder y d.fm.chip 0)) ∧
  e = { d with
    fm := e.fm
    host := e.host }

theorem AbortMade.sends {y : SliceRec} {e : Dev} (h : AbortMade d y e) (m : FmMsg) : AbortMade d y { e with fm := { e.fm with out := e.fm.out ++ [m] } } := by
  obtain ⟨hs, hnow, hsync, hframe⟩ := h
  refine ⟨hs, fun hb hw => ?_, fun b hb => ?_, ?_⟩
  · obtain ⟨l, hl⟩ := hnow hb hw
    exact ⟨l ++ [m], by rw [hl, List.append_assoc]⟩
  · obtain ⟨⟨st, l, ho, hj, hss⟩, hh⟩ := hsync b hb
    exact ⟨⟨st, l ++ [m], by rw [ho, List.append_assoc], hj, hss⟩, hh⟩
  · rw [hframe]

theorem Dev.managerAbort_made (d : Dev) (y : SliceRec) : AbortMade d y (d.managerAbort y 0) := by
  by_cases hb : d.fm.standby = none
  · obtain ⟨h, hp⟩ := d.putSlice_frame (y.aborted (y.chips d.fm.extents))
    have e : d.managerAbort y 0 = { d with
        fm := { d.fm with
          slices := putRec (y.aborted (y.chips d.fm.extents)) d.fm.slices
          out := if d.fm.syncWait = true then d.fm.out else d.fm.out ++ (y.chips d.fm.extents).map (abortOrder y d.fm.chip 0)
          held := if d.fm.syncWait = true then d.fm.held ++ (y.chips d.fm.extents).map (abortOrder y d.fm.chip 0) else d.fm.held }
        host := h } := by
      rw [Dev.managerAbort_eq, hp, Dev.journalise_alone (by exact hb)]
      exact foldl_abortOrder y 0 _ _
    rw [e]
    exact ⟨rfl, fun _ hw => ⟨[], by simp [hw]⟩, fun b hs => absurd (hs.symm.trans hb) (Option.some_ne_none b), rfl⟩
  · obtain ⟨c, hc⟩ := Option.ne_none_iff_exists'.1 hb
    obtain ⟨h, st, e, hj, hs⟩ := d.managerAbort_synced y 0 hc
    rw [e]
    refine ⟨rfl, fun hn => absurd hn hb, fun b hb' => ?_, rfl⟩
    obtain rfl : c = b := Option.some.inj (hc.symm.trans hb')
    exact ⟨⟨st, [], (List.append_nil _).symm, hj, hs⟩, rfl⟩

end

/-- Settles O33. -/
theorem fmReactionRows : Obligations.FmReactionRows := by
  unfold Obligations.FmReactionRows
  intro s chip id y d x cs acked
  refine ⟨fun node stop => ?_, fun ep slot hu he hr hs => ?_, fun w k hu h3 hctl hy h2 hc hne => ?_, fun w k ts hu h3 hctl hy h2 ha hlen hrt htr hpl => ?_,
    fun row hrow h3 hctl hy h2 => ?_, fun m hu he hr h0 hh ho hm hn hl => ?_, fun m b hu he hr h0 hc hb => ?_, fun hu h3 hctl hy hi hc hne => ?_,
    fun hu h3 hctl hy hi ha h0 hd hw hh => ?_, fun ep slot hu he hr hs => ?_, fun ep slot c o q code hu he hr hc ho hoc hf hp => ?_, fun m c hu hr hc hs => ?_,
    fun m hu hr hc hn hs => ?_, fun m c hu hr hc hg hl ht hres hs => ?_, fun rs h3 hctl hy h5 hi hc hne => ?_, fun h3 hctl hy h5 hi hc hsw => ?_,
    fun ep gen ks hu he hr hks hne => ?_, fun ep gen n ks b c r t hu he hr hks hne hb hc hrl ht => ?_⟩
  · obtain ⟨n, e, hst, hot⟩ := d.setStop_frame node stop
    refine ⟨_, congrArg s.next e, rfl, hst, rfl, hot, fun t r hin => ?_⟩
    have := Dev.setStop_tags (w := stop) hin
    rw [e] at this
    exact this
  · obtain ⟨n, q, z, e, hst, hfail, hdr⟩ := doDrain_drains (id := id) hu he hr hs
    exact ⟨_, congrArg s.next e, rfl, hst, fun c u o hc hm ho => hfail c hc hm u o ho, hdr, rfl⟩
  · refine congrArg s.next ((doDrainReport_idle (b := d.setSlice (y.reported chip w)) hu ((Dev.managing_iff x).2 ⟨h3, hctl⟩) hy h2 hc (if_neg hne)).trans ?_)
    exact Dev.setSlice_sends (d := d) (y.reported chip w)
  · obtain ⟨z, h, e, hz⟩ := doDrainReport_installs (w := w) (k := k) hu ((Dev.managing_iff x).2 ⟨h3, hctl⟩) hy h2 ha hlen hrt htr hpl
    exact ⟨_, congrArg s.next e, rfl, hz⟩
  · have hmg := (Dev.managing_iff x).2 ⟨h3, hctl⟩
    have hmade := d.managerAbort_made y
    rcases hrow with ⟨rfl, hne⟩ | ⟨hu, w, k, rfl, hc⟩
    · exact ⟨_, congrArg s.next (doDrainLimit_aborts hmg hy h2 hne), rfl, hmade⟩
    · exact ⟨_, congrArg s.next (doDrainReport_busy (k := k) (w := w) hu hmg hy h2 hc), rfl, hmade.sends _⟩
  · obtain ⟨n, g, z, gr, tg, w, e, htab, hgen, htree, hg, h0', h1'⟩ := doInstall_writes hu he hr h0 hh ho hm hn hl
    exact ⟨_, congrArg s.next e, rfl, fun p sl k hin hk => htab p sl k hin hk, hgen, htree, hg, h0', h1', rfl⟩
  · obtain ⟨hd, hw⟩ := doInstall_drops hu he hr h0 hc hb
    exact ⟨fun h => congrArg s.next (hd h), fun h => congrArg s.next (hw h)⟩
  · exact congrArg s.next (doInstallDone_partial hu ((Dev.managing_iff x).2 ⟨h3, hctl⟩) hy hi hc hne)
  · obtain ⟨z, h, e, hz⟩ := doInstallDone_serves hu ((Dev.managing_iff x).2 ⟨h3, hctl⟩) hy hi ha h0 hd hw hh
    exact ⟨_, congrArg s.next e, rfl, hz, rfl⟩
  · obtain ⟨n, hn, hstep⟩ := doResume_opens id slot [] hu he hr
    refine ⟨_, congrArg s.next (hstep _ (List.foldl_fixed' (fun c => Dev.endFailing_none _ c) _)), rfl, hn, fun q hq => ?_, rfl⟩
    simpa using (List.mem_filter.1 hq).2
  · obtain ⟨a, b, hao, hac, rfl, hstep⟩ := doResume_one (code := code) slot hu he hr hc ho hoc hf
    obtain ⟨hops, hcur⟩ := Dev.collEnd_ends (code := code) hao hp
    have hcurd (i : Nat) : a.curd i = d.curd i := congrArg (fun l => smGet Curd.init l i) hac
    refine ⟨_, congrArg s.next hstep, rfl, hops, ?_, fun i hi => ?_⟩
    · refine (congrArg (fun l => smGet Curd.init l (curdKey q.node q.slot)) hcur).trans ?_
      rw [← hcurd]
      exact Dev.curd_setCurd_same _ _ _
    · refine (congrArg (fun l => smGet Curd.init l i) hcur).trans ?_
      rw [← hcurd]
      exact Dev.curd_setCurd_other _ _ _ _ hi
  · obtain ⟨q, e⟩ := doSliceAbort_seen hu hr hc hs
    exact ⟨_, congrArg s.next e, rfl, rfl⟩
  · obtain ⟨n, l, t, c, q, e, hgen⟩ := doSliceAbort_empty hu hr hc hn hs
    exact ⟨_, congrArg s.next e, rfl, rfl, hgen, rfl⟩
  · exact ⟨_, rfl, rfl, doSliceAbort_tears hu hr hc hg hl ht hres hs⟩
  · exact congrArg s.next (doTeardownReport_partial ((Dev.managing_iff x).2 ⟨h3, hctl⟩) hy h5 hi hc hne)
  · exact congrArg s.next (doAbortResend_tells ((Dev.managing_iff x).2 ⟨h3, hctl⟩) hy h5 hi hc hsw)
  · subst hks
    exact ⟨_, rfl, rfl, doRestart_unloads hu he hr hne⟩
  · subst hks hb hc ht
    refine congrArg s.next ?_
    unfold doRestart Dev.fromManager
    rw [Dev.heed_acts hu he, Dev.learnEpoch_member hr he, Dev.restartSlice_reloads (d := { d with fm := { d.fm with epoch := ep } }) (by exact hne) (by exact hrl)]
    rfl

end Sys2Proof.Machine
end

section
/-! PROOFS. O34: the requests of group 0x06 (09_fabric_manager.md R271, R282, R295, 12_rennet.md R372, R373). -/

namespace Sys2Proof.Machine

section
variable {d : Dev} {w : WaitReq}

/-! ## What the manager does with a request, by its opcode -/

/-- The request stays with those that wait. -/
def Dev.keepReq (d : Dev) (w : WaitReq) : Dev := { d with fm := { d.fm with waiting := d.fm.waiting ++ [w] } }

theorem Dev.serve6_create (h : leAt w.req 0 2 = 0x0601) : d.serve6 w = d.sliceCreate w := by
  unfold Dev.serve6
  rw [h]
  rfl

theorem Dev.serve6_destroy (h : leAt w.req 0 2 = 0x0602) : d.serve6 w = match d.sliceRec (leAt w.req 8 4) with
    | none => d.reply6 w rNotFound (leBytes 2 8 ++ leBytes 6 0)
    | some y => if inReaction y.st || y.destroying then d.keepReq w else d.sliceDestroy w y := by
  unfold Dev.serve6
  rw [h]
  rfl

theorem Dev.serve6_query (h : leAt w.req 0 2 = 0x0603) : d.serve6 w = match d.sliceRec (leAt w.req 8 4) with
    | none => d.reply6 w rNotFound (leBytes 2 8 ++ leBytes 6 0)
    | some y => if y.st = 2 ∨ y.st = 3 ∨ y.st = 4 then d.keepReq w else d.reply6 w 0 y.query := by
  unfold Dev.serve6
  rw [h]
  rfl

theorem Dev.serve6_map (h : leAt w.req 0 2 = 0x0604) : d.serve6 w = d.reply6 w 0 (d.fabricHead 0 d.fm.modules.length) := by
  unfold Dev.serve6
  rw [h]
  rfl

/-- A request about a slice the manager does not know. -/
theorem Dev.serve6_absent (h : leAt w.req 0 2 = 0x0602 ∨ leAt w.req 0 2 = 0x0603) (hs : d.sliceRec (leAt w.req 8 4) = none) : d.serve6 w = d.reply6 w rNotFound (leBytes 2 8 ++ leBytes 6 0) := by
  rcases h with h | h
  · rw [Dev.serve6_destroy h, hs]
  · rw [Dev.serve6_query h, hs]

/-! ## SLICE_DESTROY -/

theorem Dev.sliceDestroy_here {y : SliceRec} (hw : d.writesHere y = true) (hc : d.sliceCtxs y.id = []) : d.sliceDestroy w y = ((d.setSlice { y with
    destroying := true
    waiter := some w }).dropTables y.id).closeSlice y.id := by
  unfold Dev.sliceDestroy
  dsimp only
  rw [if_pos hw, hc]

theorem Dev.sliceDestroy_aborts {y : SliceRec} (hw : d.writesHere y = false) : (d.sliceDestroy w y).fm.slices = putRec ({ y with
    destroying := true
    waiter := some w }.aborted (y.chips d.fm.extents)) d.fm.slices := by
  unfold Dev.sliceDestroy
  dsimp only
  rw [if_neg (by rw [hw]; exact Bool.false_ne_true)]
  exact (d.managerAbort_made _).1

/-! ## SLICE_CREATE -/

/-- The record that SLICE_CREATE carves. -/
def carveRec (d : Dev) (w : WaitReq) : SliceRec :=
  { id := d.fm.nextSlice, st := 0, conf := bit (leAt w.req 8 1) 0, base := (List.range 4).map (fun i => leAt w.req (0x0C + i) 1), ext := (List.range 4).map (fun i => leAt w.req (0x10 + i) 1),
    p := leAt w.req 9 1, psize := leAt w.req 0xA 1, slot := 0, gen := 0, plist := [], exc := [], trees := [], awaiting := [], installing := true, outcomes := [], newLinks := [], reports := [],
    waiter := some w, destroying := false, lastStep := 0, resumes := 0, moves := [], rebuilt := false, suspect := false }

/-- The fields before the extents that a request must hold in range (R282). -/
theorem Dev.sliceCreate_refuses {off : Nat} (h : 4 ≤ leAt w.req 8 1 ∧ off = 8 ∨ leAt w.req 8 1 < 4 ∧ (leAt w.req 9 1 = 0 ∨ 16 < leAt w.req 9 1) ∧ off = 9 ∨
    leAt w.req 8 1 < 4 ∧ leAt w.req 9 1 ≠ 0 ∧ leAt w.req 9 1 ≤ 16 ∧ 4 < leAt w.req 0xA 1 ∧ off = 0xA) : d.sliceCreate w = d.reply6 w rInvalid (leBytes 2 off ++ leBytes 2 0 ++ leBytes 4 0) := by
  unfold Dev.sliceCreate
  dsimp only
  rcases h with ⟨h8, rfl⟩ | ⟨h8, h9, rfl⟩ | ⟨h8, h9, h9', ha, rfl⟩
  · rw [if_pos h8]
  · rw [if_neg (Nat.not_le.2 h8), if_pos h9]
  · rw [if_neg (Nat.not_le.2 h8), if_neg (by omega), if_pos ha]

/-- The fields of a request without a base that are in range. -/
def CreateFields (d : Dev) (w : WaitReq) : Prop := leAt w.req 8 1 < 4 ∧ leAt w.req 9 1 ≠ 0 ∧ leAt w.req 9 1 ≤ 16 ∧ leAt w.req 0xA 1 ≤ 4 ∧
  (∀ i, i < 4 → 1 ≤ ((List.range 4).map (fun i => leAt w.req (0x10 + i) 1)).getD i 0 ∧ ((List.range 4).map (fun i => leAt w.req (0x10 + i) 1)).getD i 0 ≤ d.fm.extents.getD i 1) ∧
  bit (leAt w.req 8 1) 1 = false

/-- A base that takes the slice, or none. -/
def Dev.carved (d : Dev) (w : WaitReq) : Option SliceRec := (basesOf d.fm.extents).findSome? (fun b => d.carveAt { carveRec d w with base := b })

/-- The manager's state with a slice of its own chip in service. -/
def Dev.withSlice (d : Dev) (y : SliceRec) : Dev := { d with
  free := d.free + 1
  fm := { d.fm with
    nextSlice := d.fm.nextSlice + 1
    slices := d.fm.slices ++ [{ y with
      st := 1
      waiter := none }] } }

/-- A request in range is carved at the first base that takes it. -/
theorem Dev.sliceCreate_carves (h : CreateFields d w) : d.sliceCreate w =
    match d.carved w with
    | none => ({ d with free := d.free + 1 } : Dev).reply6 w rNoResource (leBytes 8 0)
    | some y =>
      if d.writesHere y then
        (match d.installMsg y d.fm.chip with
         | some t => (d.withSlice y).writeTables t
         | none => d.withSlice y).reply6 w 0 y.created
      else (Dev.journalise { d with
        free := d.free + 1
        fm := { d.fm with
          nextSlice := d.fm.nextSlice + 1
          slices := d.fm.slices ++ [{ y with awaiting := y.chips d.fm.extents }] } }).sayInstalls y (fun c => d.installMsg y c) := by
  obtain ⟨h8, h9, h9', ha, hext, hb⟩ := h
  have hall : (List.range 4).all (fun i => decide (1 ≤ ((List.range 4).map (fun i => leAt w.req (0x10 + i) 1)).getD i 0) &&
      decide (((List.range 4).map (fun i => leAt w.req (0x10 + i) 1)).getD i 0 ≤ d.fm.extents.getD i 1)) = true := by
    rw [List.all_eq_true]
    intro i hi
    rw [Bool.and_eq_true, decide_eq_true_eq, decide_eq_true_eq]
    exact hext i (List.mem_range.1 hi)
  unfold Dev.sliceCreate
  dsimp only
  rw [if_neg (Nat.not_le.2 h8), if_neg (by omega), if_neg (Nat.not_lt.2 ha), hb, Bool.false_and, if_neg Bool.false_ne_true, hall, Bool.not_true, if_neg Bool.false_ne_true, if_neg Bool.false_ne_true]
  rfl

end

end Sys2Proof.Machine
end

section
/-! PROOFS. O34: the rows that bring a request of group 0x06 (09_fabric_manager.md R271, R282, R295, 12_rennet.md R372, R373). -/

namespace Sys2Proof.Machine

section
variable {d : Dev} {w : WaitReq}

/-! ## Carving, by what comes of it -/

theorem Dev.sliceCreate_none (h : CreateFields d w) (hr : d.carved w = none) : d.sliceCreate w = ({ d with free := d.free + 1 } : Dev).reply6 w rNoResource (leBytes 8 0) := by
  rw [Dev.sliceCreate_carves h, hr]

theorem Dev.sliceCreate_here {y : SliceRec} (h : CreateFields d w) (hr : d.carved w = some y) (hw : d.writesHere y = true) : d.sliceCreate w =
    (match d.installMsg y d.fm.chip with
     | some t => (d.withSlice y).writeTables t
     | none => d.withSlice y).reply6 w 0 y.created := by
  rw [Dev.sliceCreate_carves h, hr]
  exact if_pos hw

theorem Dev.sliceCreate_away {y : SliceRec} (h : CreateFields d w) (hr : d.carved w = some y) (hw : d.writesHere y = false) :
    (d.sliceCreate w).fm.slices = d.fm.slices ++ [{ y with awaiting := y.chips d.fm.extents }] ∧ (d.sliceCreate w).fm.nextSlice = d.fm.nextSlice + 1 := by
  obtain ⟨j, sw, tg, l, e, -⟩ := Dev.journalise_frame { d with
    free := d.free + 1
    fm := { d.fm with
      nextSlice := d.fm.nextSlice + 1
      slices := d.fm.slices ++ [{ y with awaiting := y.chips d.fm.extents }] } }
  rw [Dev.sliceCreate_carves h, hr]
  dsimp only
  rw [if_neg (by rw [hw]; exact Bool.false_ne_true), e]
  obtain ⟨o, hd, e'⟩ := Dev.sayInstalls_frame { d with
    free := d.free + 1
    fm := { d.fm with
      nextSlice := d.fm.nextSlice + 1
      slices := d.fm.slices ++ [{ y with awaiting := y.chips d.fm.extents }]
      journal := j
      syncWait := sw
      mgtTags := tg
      out := d.fm.out ++ l } } y (fun c => d.installMsg y c)
  rw [e']
  exact ⟨rfl, rfl⟩

theorem FM.not_managing {x : FM} (h : x.role ≠ 3) : ¬ x.managing = true := fun hm => h ((Dev.managing_iff x).1 hm).1

/-! ## How a request reaches the manager -/

/-- A mailbox's request at a manager in control. -/
theorem Dev.ask6_serves {f key : Nat} {m : List Byte} (hm : d.fm.managing = true) : d.ask6 f key m = (d.begin_ f key).serve6 { chip := none, a := f, b := key, req := m, acked := false } := by
  unfold Dev.ask6
  dsimp only
  rw [if_pos hm]

/-- A mailbox's request at a member: it waits and goes to the manager. -/
theorem Dev.ask6_forwards {f key : Nat} {m : List Byte} (hr : d.fm.role = 1 ∨ d.fm.role = 2) : d.ask6 f key m = { d.begin_ f key with fm := { d.fm with
    waiting := d.fm.waiting ++ [{ chip := none, a := f, b := key, req := m, acked := false }]
    mgtTags := d.fm.mgtTags ++ [0x8000 + (256 * f + key)]
    out := d.fm.out ++ [.request d.fm.mgr d.fm.epoch (256 * f + key) m] } } := by
  have hn : ¬ d.fm.managing = true := FM.not_managing (by omega)
  unfold Dev.ask6
  dsimp only
  rw [if_neg hn, if_pos hr]
  exact Dev.send_far rfl _

/-- A request from another module at a manager in control. -/
theorem doRequest_serves {chip ref : Nat} {m : List Byte} (hu : d.fmUp = true) (hm : d.fm.managing = true) : doRequest d d.fm.epoch chip ref m =
    (d.serve6 { chip := some chip, a := ref, b := 0, req := m, acked := true }).send (.mgtr (.chip chip) (d.serve6 { chip := some chip, a := ref, b := 0, req := m, acked := true }).fm.epoch 0) := by
  unfold doRequest
  rw [Dev.heed_acts hu (Nat.le_refl _), Dev.learnEpoch_known (Nat.le_refl _)]
  dsimp only
  rw [if_pos hm]

theorem doRequest_waits {ep chip ref : Nat} {m : List Byte} (hu : d.fmUp = true) (he : d.fm.epoch ≤ ep) (hr : d.fm.role ≤ 2) : doRequest d ep chip ref m = { d with fm := { d.fm with
    epoch := ep
    waiting := d.fm.waiting ++ [{ chip := some chip, a := ref, b := 0, req := m, acked := false }]
    out := d.fm.out ++ [.mgtr (.chip chip) ep 0] } } := by
  have hn : ¬ d.fm.managing = true := FM.not_managing (by omega)
  unfold doRequest
  refine (Dev.heed_chip (b := { d with fm := { d.fm with
    epoch := ep
    waiting := d.fm.waiting ++ [{ chip := some chip, a := ref, b := 0, req := m, acked := false }] } }) hu he ?_).trans rfl
  rw [Dev.learnEpoch_member hr he]
  exact if_neg hn

/-! ## FABRIC_MAP -/

theorem Dev.mapAnswer_head {f key n : Nat} {m : List Byte} (h : leAt m 8 8 = 0) : d.mapAnswer f key m n = d.respond f key rOk (d.fabricHead 0 0) := if_pos h

theorem Dev.mapAnswer_short {f key : Nat} {m : List Byte} (h : leAt m 8 8 ≠ 0) (hl : leAt m 0x10 4 < 32 * d.fm.modules.length) :
    d.mapAnswer f key m d.fm.modules.length = d.refuseCmd f key rNoResource 0x10 0 (32 * d.fm.modules.length) := by
  unfold Dev.mapAnswer
  dsimp only
  rw [if_neg h, List.take_length, if_pos hl]

theorem Dev.mapAnswer_records {f key : Nat} {m : List Byte} (h : leAt m 8 8 ≠ 0) (hl : 32 * d.fm.modules.length ≤ leAt m 0x10 4) (hn : d.fm.modules ≠ []) (hu : d.host.linkUp = true) :
    d.mapAnswer f key m d.fm.modules.length = (d.hostWrite (leAt m 8 8) (d.fm.modules.flatMap ModRec.record)).respond f key rOk (d.fabricHead 0 d.fm.modules.length) := by
  unfold Dev.mapAnswer
  dsimp only
  rw [if_neg h, List.take_length, if_neg (Nat.not_lt.2 hl), if_neg hn]
  exact if_pos hu

/-! ## Answers -/

/-- An answer to a request other than FABRIC_MAP goes to the mailbox that asked. -/
theorem Dev.takeAnswer_responds {ref : Nat} {rsp : List Byte} (hf : d.fm.waiting.find? (fun w => w.chip.isNone && 256 * w.a + w.b == ref) = some w) (h : leAt w.req 0 2 ≠ 0x0604) :
    d.takeAnswer ref rsp = ({ d with fm := { d.fm with waiting := d.fm.waiting.filter (fun y => y != w) } } : Dev).respondFlag w.a w.b (leAt rsp 2 1) (leAt rsp 3 1) ((rsp.drop 8).take (leAt rsp 4 2)) := by
  unfold Dev.takeAnswer
  rw [hf]
  dsimp only
  rw [if_neg (fun e => h e.1), if_neg (fun e => h e.1), if_neg (fun e => h e.1)]

theorem doGroup6WaitTimeout_fails {f key : Nat} (hf : d.fm.waiting.find? (fun w => w.chip.isNone && w.a == f && w.b == key) = some w) (hr : d.fm.role ≠ 3) :
    doGroup6WaitTimeout d f key = ({ d with fm := { d.fm with waiting := d.fm.waiting.filter (fun y => y != w) } } : Dev).fail f key rTimeout 0 := by
  unfold doGroup6WaitTimeout
  rw [hf]
  exact if_neg (FM.not_managing hr)

theorem doGroup6WaitTimeout_served {f key : Nat} (hf : d.fm.waiting.find? (fun w => w.chip.isNone && w.a == f && w.b == key) = some w) (hm : d.fm.managing = true) : doGroup6WaitTimeout d f key = d := by
  unfold doGroup6WaitTimeout
  rw [hf]
  exact if_pos hm

/-! ## The rows of a mailbox -/

/-- A row that hands a mailbox's request of an opcode to the agent. -/
theorem Begins.asks {s : State} {f key op : Nat} {m : List Byte} {row : Instr} (h : Begins s f key op m) (hrow : row = .sliceCreate f key ∧ op = 0x0601 ∨ row = .sliceDestroy f key ∧ op = 0x0602 ∨
    row = .sliceQuery f key ∧ op = 0x0603 ∧ s.dev.reachesSlice f (leAt m 8 4) = true) : exec row s = s.next (s.dev.ask6 f key m) := by
  rcases hrow with ⟨rfl, rfl⟩ | ⟨rfl, rfl⟩ | ⟨rfl, rfl, hr⟩
  · exact h.command (i := .sliceCreate f key) (pick := anyMsg) (act := fun d m => d.ask6 f key m) rfl rfl
  · exact h.command (i := .sliceDestroy f key) (pick := anyMsg) (act := fun d m => d.ask6 f key m) rfl rfl
  · refine (h.command (i := .sliceQuery f key) (pick := anyMsg) (act := fun d m => if d.reachesSlice f (leAt m 8 4) then d.ask6 f key m else d.fail f key rDenied 8) rfl rfl).trans ?_
    exact congrArg s.next (if_pos hr)

theorem Begins.queryDenied {s : State} {f key : Nat} {m : List Byte} (h : Begins s f key 0x0603 m) (hr : s.dev.reachesSlice f (leAt m 8 4) = false) :
    exec (.sliceQuery f key) s = s.next (s.dev.fail f key rDenied 8) := by
  refine (h.command (i := .sliceQuery f key) (pick := anyMsg) (act := fun d m => if d.reachesSlice f (leAt m 8 4) then d.ask6 f key m else d.fail f key rDenied 8) rfl rfl).trans ?_
  exact congrArg s.next (if_neg (by rw [hr]; exact Bool.false_ne_true))

theorem Begins.maps {s : State} {f key : Nat} {m : List Byte} (h : Begins s f key 0x0604 m) : exec (.fabricMap f key) s = s.next
    (if s.dev.fm.managing then s.dev.mapAnswer f key m s.dev.fm.modules.length else if s.dev.fm.role = 1 ∨ s.dev.fm.role = 2 then s.dev.ask6 f key m else s.dev.mapAlone f key) :=
  h.command (i := .fabricMap f key) (pick := anyMsg) (act := fun d m =>
    if d.fm.managing then d.mapAnswer f key m d.fm.modules.length else if d.fm.role = 1 ∨ d.fm.role = 2 then d.ask6 f key m else d.mapAlone f key) rfl rfl

/-- How a request came, and what its row does after the manager has served it. -/
structure ReqServed (s : State) (row : Instr) (m : List Byte) (w : WaitReq) (a : Dev) (fin : Dev → Dev) : Prop where
  runs : exec row s = s.next (fin (a.serve6 w))
  req : w.req = m
  host : ∃ h, a = { s.dev with host := h }
  fin_slices : ∀ e, (fin e).fm.slices = e.fm.slices
  fin_next : ∀ e, (fin e).fm.nextSlice = e.fm.nextSlice

theorem ReqServed.fm {s : State} {row : Instr} {m : List Byte} {a : Dev} {fin : Dev → Dev} (h : ReqServed s row m w a fin) : a.fm = s.dev.fm := by
  obtain ⟨x, hx⟩ := h.host
  rw [hx]

theorem ReqServed.sliceRec {s : State} {row : Instr} {m : List Byte} {a : Dev} {fin : Dev → Dev} (h : ReqServed s row m w a fin) (id : Nat) : a.sliceRec id = s.dev.sliceRec id :=
  congrArg (fun x : FM => x.slices.find? (fun (y : SliceRec) => y.id == id)) h.fm

theorem ReqServed.writesHere {s : State} {row : Instr} {m : List Byte} {a : Dev} {fin : Dev → Dev} (h : ReqServed s row m w a fin) (y : SliceRec) : a.writesHere y = s.dev.writesHere y :=
  congrArg (fun x : FM => y.chips x.extents == [x.chip] && x.standby.isNone) h.fm

theorem ReqServed.sliceCtxs {s : State} {row : Instr} {m : List Byte} {a : Dev} {fin : Dev → Dev} (h : ReqServed s row m w a fin) (id : Nat) : a.sliceCtxs id = s.dev.sliceCtxs id := by
  obtain ⟨x, hx⟩ := h.host
  rw [hx]
  rfl

/-- The row ends with what the manager makes of the request. -/
theorem ReqServed.ends {s : State} {row : Instr} {m : List Byte} {a b : Dev} {fin : Dev → Dev} (h : ReqServed s row m w a fin) (hb : a.serve6 w = b) : exec row s = s.next (fin b) :=
  h.runs.trans (congrArg (fun e => s.next (fin e)) hb)

end

end Sys2Proof.Machine
end

section
/-! PROOFS. O34: requests of group 0x06, settled. -/

namespace Sys2Proof.Machine

/-- Settles O34. -/
theorem fmRequestRows : Obligations.FmRequestRows := by
  unfold Obligations.FmRequestRows
  intro s f key chip ref m d x sid
  refine ⟨fun row op w a fin hcome h3 hctl => ?_, fun ep hu he hr => ?_, fun hu h3 hctl hop => ?_, fun row op hrow hb hr => ?_, fun hb hr => ?_, fun hb h3 hctl h8 => ?_, fun hb h3 hctl h8 hl => ?_,
    fun hb h3 hctl h8 hl hn hup => ?_, fun hb hr => ?_, fun ep w rsp t hu he hr hf hop ht => ?_, fun w hf hr => ?_, fun w hf h3 hctl => ?_⟩
  · have hmg : x.managing = true := (Dev.managing_iff x).2 ⟨h3, hctl⟩
    obtain ⟨hop, hs⟩ : leAt w.req 0 2 = op ∧ ReqServed s row m w a fin := by
      rcases hcome with ⟨hrow, hb, rfl, rfl, rfl⟩ | ⟨rfl, hu, hop, rfl, rfl, rfl⟩
      · obtain ⟨-, -, -, -, hop, -⟩ := id hb
        exact ⟨hop, (hb.asks hrow).trans (congrArg s.next (Dev.ask6_serves hmg)), rfl, ⟨_, rfl⟩, fun _ => rfl, fun _ => rfl⟩
      · refine ⟨hop, congrArg s.next (doRequest_serves hu hmg), rfl, ⟨_, rfl⟩, fun e => ?_, fun e => ?_⟩
        · rw [Dev.send_far rfl]
        · rw [Dev.send_far rfl]
    have hid : a.sliceRec (leAt w.req 8 4) = d.sliceRec sid := by
      rw [hs.req]
      exact hs.sliceRec _
    refine ⟨fun y h6 hy hst => ?_, fun h6 hy => ?_, fun y h6 hy hst => ?_, fun y h6 hy hst => ?_, fun y h6 hy hst hd hw => ?_, fun y h6 hy hst hd hw hc => ?_, fun off h6 hoff => ?_,
      fun x0 r ext bases h6 h8 h9 h9' ha hext hrange hbit hbases hx0 hr => ?_⟩
    · refine hs.ends ?_
      rw [Dev.serve6_query (hop.trans h6), hid, hy]
      exact if_neg (by omega)
    · exact hs.ends (Dev.serve6_absent (by rw [hop]; exact h6) (hid.trans hy))
    · refine hs.ends ?_
      rw [Dev.serve6_query (hop.trans h6), hid, hy]
      exact if_pos hst
    · refine hs.ends ?_
      rw [Dev.serve6_destroy (hop.trans h6), hid, hy]
      exact if_pos (by simpa using hst)
    · have hserve : a.serve6 w = a.sliceDestroy w y := by
        rw [Dev.serve6_destroy (hop.trans h6), hid, hy]
        exact if_neg (by simp [hst, hd])
      refine ⟨_, hs.ends hserve, rfl, (hs.fin_slices _).trans ((Dev.sliceDestroy_aborts ((hs.writesHere y).trans hw)).trans ?_)⟩
      rw [hs.fm]
      rfl
    · refine hs.ends ?_
      rw [Dev.serve6_destroy (hop.trans h6), hid, hy]
      exact (if_neg (by simp [hst, hd])).trans (Dev.sliceDestroy_here ((hs.writesHere y).trans hw) ((hs.sliceCtxs y.id).trans hc))
    · refine hs.ends ?_
      rw [Dev.serve6_create (hop.trans h6)]
      exact Dev.sliceCreate_refuses (by rw [hs.req]; exact hoff)
    · have hF : CreateFields a w := by
        unfold CreateFields
        rw [hs.req, hs.fm, ← hext]
        exact ⟨h8, h9, h9', ha, hrange, hbit⟩
      have hcar : a.carved w = r := by
        unfold Dev.carved carveRec
        rw [hs.req, hs.fm, hr, hbases, hx0, hext]
      refine ⟨fun hn => ?_, fun y hy hw hmsg => ?_, fun y t hy hw hmsg => ?_, fun y hy hw => ?_⟩
      · refine hs.ends ?_
        rw [Dev.serve6_create (hop.trans h6), Dev.sliceCreate_none hF (hcar.trans hn)]
        rfl
      · refine hs.ends ?_
        rw [Dev.serve6_create (hop.trans h6), Dev.sliceCreate_here hF (hcar.trans hy) ((hs.writesHere y).trans hw), show a.installMsg y a.fm.chip = none by rw [hs.fm]; exact hmsg]
        rfl
      · refine hs.ends ?_
        rw [Dev.serve6_create (hop.trans h6), Dev.sliceCreate_here hF (hcar.trans hy) ((hs.writesHere y).trans hw), show a.installMsg y a.fm.chip = some t by rw [hs.fm]; exact hmsg]
        rfl
      · obtain ⟨hsl, hnx⟩ := Dev.sliceCreate_away hF (hcar.trans hy) ((hs.writesHere y).trans hw)
        refine ⟨_, hs.ends (Dev.serve6_create (hop.trans h6)), rfl, (hs.fin_slices _).trans (hsl.trans ?_), (hs.fin_next _).trans (hnx.trans ?_)⟩
        · rw [hs.fm]
        · rw [hs.fm]
  · exact congrArg s.next (doRequest_waits hu he hr)
  · refine congrArg s.next ((doRequest_serves hu ((Dev.managing_iff x).2 ⟨h3, hctl⟩)).trans ?_)
    rw [Dev.serve6_map (by exact hop)]
    unfold Dev.reply6
    dsimp only
    rw [Dev.send_far rfl, Dev.send_far rfl, List.append_assoc]
    rfl
  · have hx : exec row s = s.next (d.ask6 f key m) := by
      rcases hrow with h | h | h | ⟨rfl, rfl⟩
      · exact hb.asks (.inl h)
      · exact hb.asks (.inr (.inl h))
      · exact hb.asks (.inr (.inr h))
      · exact hb.maps.trans (congrArg s.next ((if_neg (FM.not_managing (x := x) (by omega))).trans (if_pos hr)))
    refine ⟨_, hx.trans (congrArg s.next (Dev.ask6_forwards hr)), rfl, ?_, rfl, rfl⟩
    exact congrArg Mbx.begun (Dev.mbx_setMbx_same d f key _)
  · exact hb.queryDenied hr
  · exact hb.maps.trans (congrArg s.next ((if_pos ((Dev.managing_iff x).2 ⟨h3, hctl⟩)).trans (Dev.mapAnswer_head h8)))
  · exact hb.maps.trans (congrArg s.next ((if_pos ((Dev.managing_iff x).2 ⟨h3, hctl⟩)).trans (Dev.mapAnswer_short h8 hl)))
  · exact hb.maps.trans (congrArg s.next ((if_pos ((Dev.managing_iff x).2 ⟨h3, hctl⟩)).trans (Dev.mapAnswer_records h8 hl hn hup)))
  · have hn : ¬ (x.role = 1 ∨ x.role = 2) := by omega
    exact hb.maps.trans (congrArg s.next ((if_neg (FM.not_managing (x := x) (by omega))).trans (if_neg hn)))
  · subst ht
    refine congrArg s.next ?_
    unfold doAnswer Dev.fromManager
    rw [Dev.heed_acts hu he, Dev.learnEpoch_member hr he, Dev.takeAnswer_responds (by exact hf) hop]
  · exact congrArg s.next (doGroup6WaitTimeout_fails hf hr)
  · exact congrArg s.next (doGroup6WaitTimeout_served hf ((Dev.managing_iff x).2 ⟨h3, hctl⟩))

end Sys2Proof.Machine
end
